-- ==== Sys2Proof/Word.lean ====
section
/-! DEFINITION. The word types of the ND6 and the shape of its sparse tables: a list of (key, value) pairs with
rising keys. What is read and written with them stands in Machine/Map.lean. -/

namespace Sys2Proof

/-- One byte (00 R5). -/
abbrev Byte := BitVec 8

/-- A register of a sort (06 Table 6.1). -/
abbrev W32 := BitVec 32

/-- A 64-bit counter, time or register. -/
abbrev W64 := BitVec 64

/-- Sparse data by key: pairs with strictly rising keys. -/
abbrev SMap (α : Type) := List (Nat × α)

/-- Addressed bytes: what an address that is not listed reads as is said by the operation that reads. -/
abbrev Bytes := List (Nat × Byte)

end Sys2Proof
end

