-- ==== Sys2Proof/Syntax.lean ====
section
/-! DEFINITION. The commands of the block: `Instr`, one constructor per row of spec/opcode_table.json, with the
operands that say which mailbox, slot, sort, line, port or unit the step concerns and what arrives from outside.
A row of the table is one indivisible step; a row that follows a timer stands for the timer's having run out. -/

namespace Sys2Proof

/-- A mailbox: of a host port 0 to 3, or the core mailbox of a forme 0 to 3 (12 R388, 11 R386). -/
inductive MboxId where
  | host (port : Nat)
  | core (forme : Nat)
deriving DecidableEq, Repr

/-- The slug that executes an instruction: Platen, galley, stick slot, slug index, and the byte offsets in the variant
of the instruction (`pc`) and of the one after it (`next`) (06 R190, Table 6.12 PC). -/
structure SlugAt where
  platen : Nat
  galley : Nat
  stick : Nat
  slug : Nat
  pc : Nat
  next : Nat
deriving DecidableEq, Repr

/-- A tile operation: the slug that issued it and its ticket (06 R201, R203). -/
structure OpRef where
  platen : Nat
  galley : Nat
  stick : Nat
  slug : Nat
  ticket : Nat
deriving DecidableEq, Repr

/-- Memory ordering qualifiers of a sort's memory instruction (09 R327). -/
inductive Ord where
  | plain | acq | rel | ar
deriving DecidableEq, Repr

/-- Atomic operations of 09 Table 9.10. -/
inductive AtomOp where
  | swap | cas | add | and | or | xor | minS | minU | maxS | maxU | fadd
deriving DecidableEq, Repr

/-- Arithmetic instructions of a sort. The spec names integer division and the float operations only by their results
(06 R193); `other n` is any arithmetic instruction without a result of its own in the spec. -/
inductive ArithOp where
  | addI | subI | mulI | divS | divU | addF | subF | mulF | divF | other (n : Nat)
deriving DecidableEq, Repr

/-- Special values of 06 Table 6.3; `n` is a binding number 0 to 15. -/
inductive Special where
  | stick | nsticks | sort | slug | lane | galley | platen | passSeq | attempt | time
  | inType (n : Nat) | inU (n : Nat) | outType (n : Nat) | outShift (n : Nat)
deriving DecidableEq, Repr

/-- The count of a MEET instruction: none (SORTS), an immediate, or a register (06 R214). -/
inductive MeetCount where
  | none | imm (c : Nat) | reg (r : Nat)
deriving DecidableEq, Repr

/-- What an instruction does with a control and status register of a core: only reads it, or writes, sets or clears bits. -/
inductive CsrOp where
  | read | write | set | clear
deriving DecidableEq, Repr

/-- Kinds of access of a Compositor core (11 R374), and what else of its instructions the spec describes: the cache-block
operations of Zicbom and Zicbop (11 R376), CSRs (11 R374, R384, R385), WRS.NTO (11 R386), the vector configuration (11 R379), a
move to another privilege mode (11 R370: 0 U, 1 HS, 2 VS, 3 VU) and the monitor's calls that have no row of their own
(11 R370), by SBI extension, function and arguments. -/
inductive CoreAcc where
  | load (size rd : Nat)
  | fetch (size : Nat)
  | store (size : Nat) (data : List Byte)
  | amo (op : AtomOp) (size rd : Nat) (operand compare : Nat)
  | loadReserved (size rd : Nat)
  | storeCond (size rd : Nat) (data : List Byte)
  | cboZero
  | cboClean
  | cboFlush
  | cboInval
  | prefetch
  | csr (op : CsrOp) (num rd value : Nat)
  | wrsNto
  | wrsSto
  /-- A load of a floating-point register, and of whole bytes of vector registers from `vd` on. -/
  | fload (size rd : Nat)
  | vload (size vd : Nat)
  | vstore (size : Nat) (data : List Byte)
  /-- HLV (HLVX where `exec` stands) and HSV. -/
  | hload (size rd : Nat) (exec : Bool)
  | hstore (size : Nat) (data : List Byte)
  | sret
  | vsetvl (rd avl vtype : Nat)
  | privilege (mode : Nat)
  | sbi (ext fn : Nat) (args : List Nat)
deriving DecidableEq, Repr

/-- A translation engine (10 Table 10.2): class 1 to 6, die 0 to 7, galley or cluster. -/
structure Engine where
  cls : Nat
  die : Nat
  unit : Nat
deriving DecidableEq, Repr

/-- The agent and line of a coherence message (09 Table 9.6): agent 0 to 9, physical address of the line. -/
structure LineAt where
  agent : Nat
  pa : Nat
deriving DecidableEq, Repr

/-- A row of a stack (08 R282). -/
structure RowId where
  pch : Nat
  sid : Nat
  bg : Nat
  bank : Nat
  row : Nat
deriving DecidableEq, Repr

/-- JTAG instructions offered without test unlock (19 R612). -/
inductive JtagOp where
  | idcode | bypass | samplePreload (cells : Nat) | extest
  | other
deriving DecidableEq, Repr

/-- A sensor: a Platen 0 to 5, a Compositor (6, 7) or a stack 0 to 11 (16 R552). -/
inductive SensorId where
  | platen (p : Nat) | compositor (c : Nat) | stack (k : Nat)
deriving DecidableEq, Repr

/-- A mesh packet as its target or a node on the path sees it (14 R464, R471, R477). -/
structure Packet where
  job : Nat
  src : Nat
  dst : Nat
  window : Nat
  offset : Nat
  data : List Byte
  prompt : Bool
  /-- COPY the packet belongs to, and its place in the COPY (14 R481). -/
  copyId : Nat
  index : Nat
  /-- Detours taken so far (14 R486). -/
  detours : Nat
  /-- The hops still to make of the detour the packet is on; empty when it is on none (14 R485). -/
  path : List Nat
deriving DecidableEq, Repr

/-- A received sideband frame, field by field (17 R563, Table 17.2). -/
structure SbFrame where
  fcsOk : Bool
  dstMac : Nat
  srcMac : Nat
  etherType : Nat
  version : Nat
  reserved : Nat
  keyGen : Nat
  src : Nat
  dst : Nat
  type : Nat
  func : Nat
  status : Nat
  len : Nat
  seq : Nat
  reqSeq : Nat
  body : List Byte
  tag : List Byte
deriving DecidableEq, Repr

/-- What retires the node (18 Table 18.7): code, unit, detail. -/
structure RetireCause where
  code : Nat
  unit : Nat
  detail : Nat
deriving DecidableEq, Repr

/-- TPH fields of an inbound write (09 R307, 13 R449): TH, processing hint, steering tag. -/
structure Tph where
  th : Bool
  ph : Nat
  st : Nat
deriving DecidableEq, Repr

/-- A request's fields that the port checks before it performs it (13 R444, R445); `io` is an I/O request. -/
structure ReqInfo where
  rid : Nat
  atField : Nat
  pasid : Bool
  io : Bool
  tag : Nat
deriving DecidableEq, Repr

/-- Data of a posted write, with its EP: the data is poisoned (13 R445). -/
structure Payload where
  bytes : List Byte
  poisoned : Bool
deriving DecidableEq, Repr

/-- How an attempt to train a host link ends: with L0 or not, in flit mode or not, at a rate 1 to 6 for 2.5 to 64 GT/s and a
width in lanes (13 R437). -/
structure Training where
  reachesL0 : Bool
  flitMode : Bool
  rate : Nat
  width : Nat
deriving DecidableEq, Repr

/-- When an end of a mesh link sent its message of a registration exchange and received the other's, by its own counter in units
of 0.125 ns (14 R489). -/
structure Stamps where
  sent : Nat
  received : Nat
deriving DecidableEq, Repr

/-- The commands. -/
inductive Instr where
  -- mailbox (12)
  | slotWrite (mb : MboxId) (req : ReqInfo) (off : Nat) (data : Payload)
  | registerWrite (port : Nat) (req : ReqInfo) (off : Nat) (data : Payload)
  | slotTake
  | afterRelease (mb : MboxId) (slot : Nat)
  | holdRelease (mb : MboxId) (slot : Nat)
  | slotComplete (mb : MboxId) (slot : Nat)
  | identify (mb : MboxId) (slot : Nat)
  | attest (mb : MboxId) (slot : Nat)
  | formeCreate (mb : MboxId) (slot : Nat)
  | formeDestroy (mb : MboxId) (slot : Nat)
  | mapRange (mb : MboxId) (slot : Nat)
  | unmapRange (mb : MboxId) (slot : Nat)
  | copy (mb : MboxId) (slot budget : Nat)
  | fill (mb : MboxId) (slot budget : Nat)
  | zero (mb : MboxId) (slot budget : Nat)
  | plateLoad (mb : MboxId) (slot : Nat)
  | imageInstall (mb : MboxId) (slot : Nat)
  | plateSeal (mb : MboxId) (slot : Nat)
  | passLaunch (mb : MboxId) (slot : Nat)
  | passStatus (mb : MboxId) (slot : Nat)
  | setPolicy (mb : MboxId) (slot : Nat)
  | powerState (mb : MboxId) (slot : Nat)
  | coreGroupStart (mb : MboxId) (slot : Nat)
  | coreGroupStop (mb : MboxId) (slot : Nat)
  | capSet (mb : MboxId) (slot : Nat)
  | telemetry (mb : MboxId) (slot : Nat)
  | journalRead (mb : MboxId) (slot : Nat)
  | journalExport (mb : MboxId) (slot : Nat)
  | meshJobSetup (mb : MboxId) (slot : Nat)
  | meshJobRelease (mb : MboxId) (slot : Nat)
  | passAbort (mb : MboxId) (slot : Nat)
  | formeReset (mb : MboxId) (slot : Nat)
  | recoveryRead (mb : MboxId) (slot : Nat)
  -- host ports (13)
  | hotReset (port : Nat)
  | functionLevelReset (port : Nat)
  | linkDown (port : Nat)
  | perstNAssert (port : Nat)
  | linkRetrain (port : Nat)
  | d3hotEntry (port : Nat) (toD0 : Bool)
  | pcieTrainAttempt (port : Nat) (ends : Training)
  | memorySpaceEnable (port rid : Nat)
  | busMasterEnableWrite (port : Nat) (value : Bool)
  | apertureRead (port : Nat) (req : ReqInfo) (off len : Nat)
  | apertureWrite (port : Nat) (req : ReqInfo) (off : Nat) (data : List Byte) (tph : Tph) (poisoned : Bool)
  | apertureAtomic (port : Nat) (req : ReqInfo) (off size : Nat) (op : AtomOp) (operand compare : Nat)
  | hostReadTimeout (port tag : Nat)
  -- galleys (06)
  | stickStart (platen galley : Nat)
  | sortArithmetic (at_ : SlugAt) (op : ArithOp) (dst a b : Nat)
  | branch (at_ : SlugAt) (pred target join : Nat)
  | exit (at_ : SlugAt)
  | readSpecial (at_ : SlugAt) (dst : Nat) (sp : Special)
  | xchAt (at_ : SlugAt) (dst v r p : Nat)
  | xchRotW (at_ : SlugAt) (dst v : Nat) (d : Int) (p : Nat)
  | xchRotC (at_ : SlugAt) (dst v : Nat) (d : Int) (p : Nat)
  | xchFlip (at_ : SlugAt) (dst v m p : Nat)
  | xchLow (at_ : SlugAt) (dst v p : Nat)
  | tallySome (at_ : SlugAt) (dst p : Nat)
  | tallyEvery (at_ : SlugAt) (dst p : Nat)
  | tallyMask (at_ : SlugAt) (dst p : Nat)
  | tallyCount (at_ : SlugAt) (dst p : Nat)
  | tallySame (at_ : SlugAt) (dst v : Nat)
  | tallyLive (at_ : SlugAt) (dst : Nat)
  | sortLoad (at_ : SlugAt) (isLocal : Bool) (size dst areg : Nat) (ord : Ord)
  | sortStore (at_ : SlugAt) (isLocal : Bool) (size src areg : Nat) (ord : Ord)
  | sortAtomic (at_ : SlugAt) (isLocal : Bool) (op : AtomOp) (size dst areg oreg creg : Nat) (ord : Ord)
  | zline (at_ : SlugAt) (areg : Nat)
  | fenceAcq (at_ : SlugAt)
  | fenceRel (at_ : SlugAt)
  | fenceAr (at_ : SlugAt)
  | trap (at_ : SlugAt)
  | lockAcq (at_ : SlugAt) (isLocal : Bool) (dst areg : Nat)
  | lockTry (at_ : SlugAt) (isLocal : Bool) (dst areg : Nat)
  | lockRetry (platen galley stick slug : Nat)
  | lockTimeout (platen galley stick slug : Nat)
  | lockRel (at_ : SlugAt) (isLocal : Bool) (areg : Nat)
  | meetWait (at_ : SlugAt) (b : Nat) (c : MeetCount)
  | meetMark (at_ : SlugAt) (b : Nat) (c : MeetCount)
  | barrierStranded (platen galley stick b : Nat)
  | tile (at_ : SlugAt) (areg dst : Nat)
  | tileLoad (op : OpRef)
  | tileStore (op : OpRef)
  | tileOpen (op : OpRef)
  | tileMma (op : OpRef)
  | tileMmaS (op : OpRef)
  | tileOut (op : OpRef)
  | pressStageStart (op : OpRef)
  | brayerChain (op : OpRef)
  | slice (op : OpRef)
  | spread (op : OpRef)
  | update (op : OpRef)
  | tileReadDone (op : OpRef)
  | tileDone (op : OpRef)
  | twaitRd (at_ : SlugAt) (treg : Nat)
  | twaitDone (at_ : SlugAt) (treg : Nat)
  | stickEnd (platen galley stick : Nat)
  | attemptEnd (forme seq : Nat)
  | swapComplete (forme seq : Nat)
  -- translation (10)
  | rangeWalk (forme : Nat) (eng : Engine) (va : Nat)
  | faultHoldExpiry (forme faultId : Nat)
  | faultReevaluate (forme faultId : Nat)
  | rangeInvalidation (inv die : Nat)
  | engineDrainDone (inv die drained : Nat)
  | invalidationAck (inv : Nat)
  -- coherence (09)
  | rdShared (l : LineAt)
  | rdUnique (l : LineAt)
  | upgrade (l : LineAt)
  | ownNodata (l : LineAt)
  | lockFill (l : LineAt) (way : Nat)
  | rdOnce (l : LineAt)
  | wrFull (l : LineAt) (data : List Byte) (hint : Nat)
  | wrPart (l : LineAt) (mask : Nat) (data : List Byte)
  | wbDirty (l : LineAt)
  | snpShared (l : LineAt)
  | snpInv (l : LineAt)
  | snpPeek (l : LineAt)
  | snpClean (l : LineAt)
  | snpPush (l : LineAt)
  | data (l : LineAt)
  | fwd (l : LineAt)
  | snpData (l : LineAt)
  | snpAck (l : LineAt)
  | snpNp (l : LineAt)
  | comp (l : LineAt)
  | grantAck (l : LineAt)
  | snoopTimeout (l : LineAt)
  | suspectProbe (agent : Nat) (passes : Bool)
  | streamTimeout (platen stream : Nat)
  -- memory (08)
  | memoryRead (pa : Nat) (priority : Bool) (errs : List (Nat × Byte))
  | memoryWrite (pa : Nat) (mask : Nat) (data : List Byte)
  | writeCrcError (stack pch lane pa : Nat)
  | byteLaneLoss (stack pch lane : Nat)
  | byteLaneRecovered (stack pch : Nat)
  | refresh (stack pch bank : Nat)
  | readRetrain (stack pch : Nat)
  | refreshDouble (stack temp : Nat)
  | patrolScrub (stack : Nat)
  | innerCorrPoll (stack count : Nat)
  | selfRefreshEntry (stack : Nat)
  | stackQuiesce (stack : Nat)
  | repairStatusRead (stack : Nat)
  | rowRepair (stack : Nat) (row : RowId) (hard : Bool)
  | patternTest (stack : Nat) (row : RowId) (fails : Bool)
  | stackRelease (stack : Nat)
  | testUnlock (token : List Byte)
  | jtagInstruction (op : JtagOp)
  -- Gutter (01)
  | gutterLaneFail (link dir group : Nat)
  | laneSwapDone (link dir group : Nat)
  | gutterLinkLoss (link : Nat)
  -- power (16)
  | governorTimerExpiry (platen : Nat)
  | caseSleepDone (platen : Nat)
  | platenWakeDone (platen : Nat)
  | moduleIdleEntry
  | moduleWakeDone
  | powerMeterSample (millivolts milliamps : Nat)
  | capLoopTick (moduleAvgW : Nat) (formeAvgW : List Nat)
  | thermalSensor (sensor : SensorId) (temp : Nat)
  | thermalTrip (sensor : SensorId)
  | inputUndervoltage
  | runningPointStep (platen : Nat)
  | droopDetect (platen : Nat) (overHalfPercent : Bool)
  -- mesh (14)
  | meshLinkTrain (port partner partnerGroup : Nat) (gen5 : Bool) (txLanes rxLanes : Nat)
  | meshTrainRetry (port : Nat) (lanesFailed : Nat)
  | gnidAnnounce (port node gnid generation upPorts : Nat)
  | meshPut (port : Nat) (p : Packet)
  | meshGet (port : Nat) (p : Packet) (len : Nat)
  | meshTransit (port : Nat) (p : Packet)
  | meshPacketAck (copyId index : Nat) (code : Nat)
  | meshAckTimeout (copyId index : Nat)
  | meshOrderTimeout (src copyId index : Nat)
  | meshLaneFail (port : Nat) (sending : Bool) (lane : Nat)
  | meshLinkLoss (port : Nat) (neighbourLost : Bool)
  | linkStateNotice (node port : Nat) (width : Nat)
  | registrationExchange (port : Nat) (here there : Stamps)
  | registrationLock
  | referenceLoss
  -- sideband (17)
  | sbFrameReceive (f : SbFrame)
  | sbStatus
  | sbPowerState
  | sbCapSet
  | sbTelemetry
  | sbJournal
  | sbColdReset
  | sbWarmReset
  | sbFormeReset
  | snapshotExpiry (group : Nat)
  | transmitOpportunity
  | invalidBeaconTimeout
  | announce
  -- start-up, reset, faults (18)
  | powerOn
  | startupComplete
  | pwrEnDeassert
  | supplyLoss
  | controlCoreHeartbeat (core : Nat)
  | watchdogTimeout
  | controlCoreTakeover (core : Nat)
  | retirement (cause : RetireCause)
  | compositorALoss
  | journalCheckpoint
  | flashProgramDone
  -- cores (11)
  | coreAccess (hart va : Nat) (acc : CoreAcc)
  | ncvt (hart word : Nat)
  | nscale (hart word : Nat)
  | zlineL3 (hart va : Nat)
  | cwlLock (hart va len rd : Nat)
  | cwlUnlock (hart way : Nat)
  | sbiIpi (hart : Nat) (targets : List Nat)
  | sbiRfence (hart : Nat) (targets : List Nat)
  | sbiHsm (hart target : Nat) (start : Bool) (entry arg : Nat)
  | sbiSrst (hart : Nat)
  | sbiEntropy (hart va : Nat)
  -- later rows of the table
  | perstNRelease (port : Nat)
  | hostReadCompletion (port tag : Nat) (data : List Byte) (poisoned : Bool)
  | meshRetrainDone (port : Nat) (sending : Bool)
  | selfRefreshExit (stack : Nat)
  | inputLimitRelease
  | thermalLimitTick (sensor : SensorId)
  | droopRecovered (platen : Nat)
  | checkpointFlashWritten
  | controlCoreRejoin (core : Nat)
  | beaconReceived
  | collision
  | csmaCdBackoffExpiry
deriving DecidableEq, Repr

end Sys2Proof
end

