-- ==== Sys2Proof/Decode.lean ====
section
/-! DEFINITION. The commands that a word spells. No row of spec/opcode_table.json gives a command any bits: the block
takes its commands as events and register accesses, not as encoded words. -/

namespace Sys2Proof

/-- No word spells a command, since the table gives no row any bits. -/
def decodeTableWord (_nbits _w : Nat) : Option Instr := none

end Sys2Proof
end

