-- ==== Sys2Proof/Config.lean ====
section
/-! DEFINITION. The free values: what the spec leaves open and the machine still produces. None has a body, so a
statement about one holds for every value it could have. `State.free` indexes the draws that must be fresh each time
(notes/assumptions/1.md). -/

namespace Sys2Proof

/-- A fresh open number, by draw. -/
opaque Config.freeNat : Nat → Nat

/-- A fresh open choice, by draw. -/
opaque Config.freeBool : Nat → Bool

/-- Random bytes of the Colophon's entropy source (11 R370, 15 R499): draw, length. -/
opaque Config.entropy : Nat → Nat → List Byte

/-- Signature bytes made with the private identity key (15 R517, R518, R527): the signed bytes and the draw. -/
opaque Config.identitySign : List Byte → Nat → List Byte

/-- The parts of the identity chain's certificates that the spec leaves open (15 R517): serial numbers, algorithms, names of
Volhaic, validities, extensions. -/
opaque Config.certPart : Nat → List Byte

/-- Numbers from which the moduli and signatures of the identity chain's certificates are made (15 R517). -/
opaque Config.certModulus : Nat → Nat

/-- Whether a firmware-signing certificate chains to the Volhaic root, of which the fuses hold the SHA-256 alone (15 R511): root
digest and the certificate's bytes. -/
opaque Config.certChains : Nat → List Byte → Bool

/-- Unwrapping of a chassis key with the private provisioning key (17 R566): ciphertext to 256-bit key. -/
opaque Config.oaepUnwrap : List Byte → Option Nat

/-- Which of the two bracketing values a transcendental step returns (07 R237), the one of larger magnitude or not:
operation code, working format, and the operand as sign, odd significand and exponent. The same on every ND6 for one
input. -/
opaque Config.faithfulUp : Nat → Nat → Bool → Nat → Int → Bool

/-- The result of an arithmetic instruction of a sort to which the spec gives no name (06 R193): operation number and
operand values. -/
opaque Config.sortArith : Nat → List W32 → W32

/-- The way a Case or an L3 gives up when no way is invalid (09 R291 "pseudo-LRU", 11 R377): set and draw. -/
opaque Config.victim : Nat → Nat → Nat

/-- The 96 bytes drawn for a numbered key set: K1, K2 and KT of 256 bits each (15 R502). -/
opaque Config.keyBytes : Nat → List Byte

/-- Where a data symbol of a sector codeword travels, of which 08 R255 and Table 8.11 fix only the data lanes: its byte lane
and its lanes there, as `byteLaneOf` and `symbolLanes` take them from the number. -/
opaque Config.symbolLanes : Nat → Nat

/-- The histogram top of the scratch record of a pass (05 R138, Table 5.1), by pass sequence number. -/
opaque Config.scratchTop : Nat → Int

/-- TYPE and SHIFT of the scratch record of a pass (05 R138, Table 5.1), by pass sequence number. -/
opaque Config.scratchType : Nat → Nat
opaque Config.scratchShift : Nat → Int

/-- Which byte of the registers that hold a Press operand (03 R83, 06 Table 6.7 A_REG) carries a byte of its tile. -/
opaque Config.regTileByte : Nat → Nat

/-- The value a clock-counting counter shows (01 Table 1.8, 06 Table 6.8, 16 Table 16.9): counter code and draw. -/
opaque Config.clockCount : Nat → Nat → Nat

/-- Whether a test-unlock token is one for a SERIAL, signed by Volhaic under a key that chains to the fused root
(15 R519, which gives the token no layout): root digest, token, SERIAL. -/
opaque Config.tokenValid : Nat → List Byte → Nat → Bool

/-- Credits of a receive buffer of a Gutter link, of which the spec gives no number (01 R34, R47): link, direction, role,
channel or destination. There is always at least one more. -/
opaque Config.gutCredits : Nat → Nat

/-- Credits of a virtual channel of a mesh link, of which the spec gives no number (14 R476): port × 4 + channel. There
is always at least one more. -/
opaque Config.meshCredits : Nat → Nat

/-- Bytes of a Gutter message beside the line it may carry (01 Table 1.8), by kind of message. -/
opaque Config.gutHeader : Nat → Nat

/-- Where a forme's range table lies in the reserved area of its lowest stack (10 R344), by forme. -/
opaque Config.tablePlace : Nat → Nat

/-- Which half of the reserved area of stacks 0 and 1 holds the journal's ring (15 R528). -/
opaque Config.ringHalf : Nat

/-- What PLATE_LOAD finds wrong in the code of a variant with these input types, as an offset from its start: an operand pair
that 03 R85 refuses, or partial results of a sliced product that the variant combines by FP32 addition (04 R134, 05 R172). How
Lumiz tells them from the bytes of a program, the spec does not say (notes/assumptions/50.md). -/
opaque Config.codeFault : List Byte → List Nat → Option Nat

/-- Where a plate, given as its whole image, combines partial results of one sliced product by FP32 addition over several
variants or layers, as an offset in the image (04 R134; notes/assumptions/50.md). -/
opaque Config.sliceFault : List Byte → Option Nat

/-- Rate of the Gutter clock in MHz (01 R25), and the bytes that a lane group carries in one of its clocks. -/
opaque Config.gutClock : Nat
opaque Config.gutGroupBytes : Nat

/-- From which the code of STALE_SEQ is made, to which the spec gives no number (17 R568). -/
opaque Config.staleStatus : Nat

/-- What the monitor returns to a call of the SBI Base extension (11 R370): its function. -/
opaque Config.monitorValue : Nat → Nat

/-- The 64 bytes of a route image (14 R468 names what it holds and gives no layout): node number, border mask, and the
side direction of the first detour of each port code. -/
opaque Config.routeImage : Nat → Nat → List Nat → List Byte

end Sys2Proof
end

