-- ==== Sys2Proof/Machine/Map.lean ====
section
/-! DEFINITION. Reading and writing the sparse tables and the addressed bytes of the state, bit fields, and byte order
(00 R5: little-endian, bit 0 least significant, signed fields in two's complement). -/

namespace Sys2Proof.Machine

open Sys2Proof

/-! ## Sparse tables -/

def mapGet {α : Type} : SMap α → Nat → Option α
  | [], _ => none
  | (k, v) :: r, i => if k = i then some v else mapGet r i

def mapGetD {α : Type} (m : SMap α) (d : α) (i : Nat) : α := (mapGet m i).getD d

/-- Keeps the keys strictly rising. -/
def mapSet {α : Type} : SMap α → Nat → α → SMap α
  | [], i, x => [(i, x)]
  | (k, v) :: r, i, x =>
    if i < k then (i, x) :: (k, v) :: r
    else if i = k then (i, x) :: r
    else (k, v) :: mapSet r i x

def mapDel {α : Type} : SMap α → Nat → SMap α
  | [], _ => []
  | (k, v) :: r, i => if k = i then r else (k, v) :: mapDel r i

/-- Reads, changes and writes one entry; an absent one starts at `d`. -/
def mapUpd {α : Type} (m : SMap α) (d : α) (i : Nat) (f : α → α) : SMap α := mapSet m i (f (mapGetD m d i))

/-- Changes an entry that is there; nothing otherwise. -/
def mapMod {α : Type} (m : SMap α) (i : Nat) (f : α → α) : SMap α :=
  match mapGet m i with
  | some v => mapSet m i (f v)
  | none => m

/-- The keys of a table rise strictly from `lo`. -/
def keysFrom {α : Type} : Nat → SMap α → Bool
  | _, [] => true
  | lo, (k, _) :: r => decide (lo ≤ k) && keysFrom (k + 1) r

/-! ## Addressed bytes -/

/-- What an address holds; one that is not listed holds 0 (notes/assumptions/4.md). -/
def byteAt (m : Bytes) (a : Nat) : Byte := mapGetD m 0 a

/-- Writes one byte and keeps the canonical form: a byte of zero is not listed. -/
def setByte (m : Bytes) (a : Nat) (b : Byte) : Bytes := if b = 0 then mapDel m a else mapSet m a b

/-- The canonical form of addressed bytes: addresses strictly rising, no byte listed that reads the same unlisted. -/
def Memory.wf (m : Bytes) : Bool := keysFrom 0 m && m.all (fun c => decide (c.2 ≠ 0))

def readBytes (m : Bytes) (a : Nat) : Nat → List Byte
  | 0 => []
  | n + 1 => byteAt m a :: readBytes m (a + 1) n

def writeBytes (m : Bytes) (a : Nat) : List Byte → Bytes
  | [] => m
  | b :: bs => writeBytes (setByte m a b) (a + 1) bs

/-! ## Numbers and bytes -/

/-- Little-endian value of a byte string (00 R5). -/
def ofBytes : List Byte → Nat
  | [] => 0
  | b :: bs => b.toNat + 256 * ofBytes bs

/-- The `n` low bytes of a number, little-endian. -/
def toBytes : Nat → Nat → List Byte
  | 0, _ => []
  | n + 1, x => BitVec.ofNat 8 x :: toBytes n (x / 256)

/-- Big-endian value of a byte string (RSA numbers, 15 Tables 15.9 and 15.12). -/
def ofBytesBE (bs : List Byte) : Nat := bs.foldl (fun a b => a * 256 + b.toNat) 0

def toBytesBE (n x : Nat) : List Byte := (toBytes n x).reverse

/-- Bits `hi` to `lo` of a number. -/
def bits (x hi lo : Nat) : Nat := x / 2 ^ lo % 2 ^ (hi + 1 - lo)

def bit (x i : Nat) : Bool := x / 2 ^ i % 2 = 1

/-- Two's complement value of a `w`-bit field (00 R5). -/
def signed (w x : Nat) : Int := if bit x (w - 1) then (x : Int) - 2 ^ w else x

/-- The `w`-bit two's complement field that holds an integer. -/
def unsigned (w : Nat) (i : Int) : Nat := (i % (2 ^ w : Int)).toNat

/-- Saturating count (12 Table 12.20, 17 Table 17.5). -/
def satAdd (limit a n : Nat) : Nat := min limit (a + n)

def boolBit (b : Bool) : Nat := if b then 1 else 0

/-- Lays fields of a record one above another: (width, value) from the least significant up. -/
def packFields : List (Nat × Nat) → Nat
  | [] => 0
  | (w, v) :: r => v % 2 ^ w + 2 ^ w * packFields r

def setBit (mask i : Nat) : Nat := if bit mask i then mask else mask + 2 ^ i

def clearBit (mask i : Nat) : Nat := if bit mask i then mask - 2 ^ i else mask

/-- Indices below `n` whose bit is set, rising. -/
def bitsOf (n mask : Nat) : List Nat := (List.range n).filter (bit mask)

def maskOf (is : List Nat) : Nat := is.foldl setBit 0

/-- Floor of log2 of a positive number. -/
def floorLog2 (n : Nat) : Nat := Nat.log2 n

def ceilDiv (a b : Nat) : Nat := (a + b - 1) / b

end Sys2Proof.Machine
end

