-- ==== Sys2Proof/Machine/State.lean ====
section
/-! DEFINITION. The state of the ND6: every register, buffer, counter, mode and pin that the spec gives the module, as
plain data, and the queue of waiting commands. Sparse tables (`SMap`) hold only what differs from the value the reading
operation gives an absent key. The reset value of each field is listed in INVENTORY.md under State. -/

namespace Sys2Proof.Machine

/-- Why a run stops. -/
inductive Fault where
  /-- Raised by POWER_METER_SAMPLE when the input stands above the 72 V of 19 Table 19.1: the module may be damaged and
  no function is guaranteed (19 R600). Safe: the run stops. -/
  | outsideRatings
deriving DecidableEq, Repr

/-- Why a command has no meaning in this model. -/
inductive Refusal where
  /-- A command not modelled yet, by its mnemonic. Raised by Dispatch.lean alone; safe. -/
  | notModelled (mnemonic : String)
deriving DecidableEq, Repr

/-! ## Counters -/

/-- The counters a forme reads with TELEMETRY whose events are commands of the block (06 Table 6.8, 08 Table 8.12,
09 Table 9.16, 10 R365, 14 Table 14.12, 16 Table 16.9). Those that count clocks or messages within a command are free
values when they are read (`Config.clockCount`). -/
inductive Ctr where
  | galleyIssue | pressBusy | brayerBusy | galleyMemStall | barrierWait | lockWait | sticksDone | stickFaults | sticksStopped
  | memRdPrioBytes | memRdNormBytes | memWrBytes | memRowMiss | memRefresh2x | memCorr | memInnerCorr
  | memPoisonSet | memLaneEvents | homeQFull
  | caseHit | caseMiss | caseWb | snoopNp | dirBackInv | dirEcc | caseCorr | streamBypassLines | hintPlaced
  | hintDropped | atomics | snoopTimeout
  | faultLost
  | meshTxBulkBytes | meshTxPromptBytes | meshRxBytes | meshRxReject | meshErrResp | meshDetourPkts | meshSetupReused
  | capLimitedNs | thermalLimitedNs | stretchClocks | wakesS1 | wakesS2 | wakesS3
  | resS0 | resS1 | resS2 | resS3
deriving DecidableEq, Repr

/-- Counter values; a counter not listed reads 0. -/
abbrev Counters := List (Ctr × Nat)

/-! ## Mailboxes and host ports (12, 13) -/

/-- Where the command of an owned slot stands between its seal and its completion (12 R394 to R400, Table 12.6). -/
inductive SlotPhase where
  | free | sealed | waitAfter | held | ready | running | finished
deriving DecidableEq, Repr

/-- One mailbox slot's state beside its 512 bytes. -/
structure Slot where
  phase : SlotPhase
  /-- Holds a completion and has not been sealed since (12 Table 12.20 SLOT_DONE). -/
  done : Bool
  tSeal : Nat
  tTaken : Nat
  status : Nat
  detail : Nat
  /-- The result area to be written at completion, as a little-endian number of 1,024 bits. -/
  result : Nat
  /-- Bytes or packets done so far of a command that is running (12 R410). -/
  offset : Nat
  /-- What a command waits for: a pass sequence number, a Platen, a COPY identifier; while a PLATE_LOAD is ready, the mask of
  the Platens it wakes. -/
  waitId : Nat
  /-- The command has passed step 8 of Table 12.6. -/
  pastStep8 : Bool
  /-- Entries of the AFTER list whose command has ended with a status of 0x0100 or above (12 R403). -/
  afterBad : List Nat
  /-- Copy engine of a COPY, FILL or ZERO: its die + 1 (01 R45). -/
  engine : Nat
deriving DecidableEq, Repr

structure Mailbox where
  /-- The mailbox block, 32 KiB (12 R387). -/
  bytes : Bytes
  slots : SMap Slot
  /-- SEQ and status of the last 4,096 completions, newest first (12 R401). -/
  history : List (Nat × Nat)
  dropped : Nat
  seals : Nat
deriving DecidableEq, Repr

/-- Recovery record of a slot (12 Table 12.22). -/
structure RecRec where
  slot : Nat
  outcome : Nat
  status : Nat
  opcode : Nat
  epochLo : Nat
  seq : Nat
  lo : Nat
  hi : Nat
deriving DecidableEq, Repr

/-- Relaxed Ordering, ID-Based Ordering, No Snoop and TPH of a request (13 R447). -/
structure TlpAttr where
  ro : Bool
  ido : Bool
  noSnoop : Bool
  tph : Bool
deriving DecidableEq, Repr

/-- What a host port sends on its link (13 R445, R447). -/
inductive HostTlp where
  | write (a : TlpAttr) (bus : Nat) (data : List Byte)
  | read (a : TlpAttr) (tag bus len : Nat)
  | msix (a : TlpAttr) (vector : Nat)
  | completion (tag : Nat) (data : List Byte) (poisoned : Bool)
  | unsupported (tag : Nat)
  | abort (tag : Nat)
deriving DecidableEq, Repr

/-- AER events of 13 Table 13.4 and R448. -/
inductive AerEvent where
  | unsupportedRequest | unsupportedAdvisory | completerAbort | poisonedTlp | completionTimeout | malformedTlp
deriving DecidableEq, Repr

inductive LinkState where
  | down | l0
deriving DecidableEq, Repr

/-- A read the port has issued for a COPY: tag, slot, source offset, length (13 R447). -/
structure HostRead where
  tag : Nat
  mb : MboxId
  slot : Nat
  offset : Nat
  len : Nat
  /-- Data that has come back and waits for earlier reads; its completion was poisoned; the read has failed. -/
  arrived : Option (List Byte)
  poisoned : Bool
  failed : Bool
deriving DecidableEq, Repr

/-- Registers of configuration space that the host writes or clears, beside those that `Port` names (13 R440, R441): the
addresses in the BARs, the other bits of Command, MSI-X Enable and Function Mask, and the control and status registers of the
capabilities, as PCI Express lays them out (notes/assumptions/126.md). -/
structure CfgRegs where
  bar0 : Nat
  bar2 : Nat
  command : Nat
  lineSize : Nat
  intLine : Nat
  msixEnable : Bool
  msixMask : Bool
  devCtl : Nat
  devSta : Nat
  devCtl2 : Nat
  linkCtl : Nat
  uncorr : Nat
  uncorrMask : Nat
  uncorrSev : Nat
  corr : Nat
  corrMask : Nat
deriving DecidableEq, Repr

structure Port where
  mbox : Mailbox
  /-- MSI-X table, 1 KiB, and pending bits (12 Table 12.1). -/
  msixTable : Bytes
  msixPending : Nat
  epoch : Nat
  resetKind : Nat
  tReset : Nat
  pendingAck : Bool
  armed : Bool
  records : SMap RecRec
  /-- Slots completed with a signal that has not been sent: its vector, and the record a reset would write (12 Table 12.22
  OUTCOME 0x1). -/
  unsent : SMap (Nat × RecRec)
  link : LinkState
  /-- Rate that the link trained at, 1 to 6 for 2.5 to 64 GT/s, and its width in lanes; 0 while it is down (13 R437). -/
  rate : Nat
  width : Nat
  perstAsserted : Bool
  /-- The port has reached L0 since the last reset of the module (19 R609). -/
  trained : Bool
  d3hot : Bool
  memSpace : Bool
  busMaster : Bool
  cfg : CfgRegs
  maxPayload : Nat
  maxReadReq : Nat
  completionTimeoutUs : Nat
  /-- Aperture BAR size as the host programmed it, as a power of two (13 R442). -/
  barLog2 : Nat
  rid0 : Nat
  rid1 : Nat
  rid2 : Nat
  valid : Nat
  trainFail : Nat
  forme : Option Nat
  aperBase : Nat
  aperLog2 : Nat
  reads : List HostRead
  /-- The AER log: each event with the request as it arrived, whose header the port logs (13 R445). -/
  aer : List (AerEvent × Instr)
  tx : List HostTlp
  /-- Requests to the BARs that follow a posted write held for a swap, in order of arrival (09 R334). -/
  waiting : List Instr
deriving DecidableEq, Repr

/-! ## Translation (10) -/

inductive RangeState where
  | valid | invalidating | swapping
deriving DecidableEq, Repr

inductive RangeKind where
  | normal | visible | staging | locked
deriving DecidableEq, Repr

/-- Range-table entry (10 Table 10.1); a free entry is not listed. -/
structure RangeEntry where
  id : Nat
  vaPage : Nat
  pages : Nat
  paPage : Nat
  r : Bool
  w : Bool
  aper : Bool
  mesh : Bool
  kind : RangeKind
  state : RangeState
  passSeq : Nat
  mapTime : Nat
deriving DecidableEq, Repr

/-- Fault reasons (10 Table 10.6). -/
inductive Reason where
  | noRange | permission | staging | locked | invalidating | swap | badVa
deriving DecidableEq, Repr

inductive FaultState where
  | opened | resumed | denied | moved
deriving DecidableEq, Repr

/-- Who waits in a fault record: the request to evaluate again (10 R359, R364). -/
inductive Waiter where
  | sort (at_ : SlugAt) (lanes : Nat)
  | tileOp (op : OpRef)
  | copy (mb : MboxId) (slot : Nat)
  | core (hart : Nat)
  /-- An inbound request that waits for a commit swap, as the command it is (10 Table 10.6, 13 R446). -/
  | inbound (req : Instr)
deriving DecidableEq, Repr

/-- Fault record (10 Table 10.7) and its waiters. -/
structure FaultRec where
  faultId : Nat
  state : FaultState
  unit : Nat
  die : Nat
  firstClass : Nat
  classes : Nat
  access : Nat
  reason : Reason
  covered : Bool
  rangeId : Nat
  count : Nat
  va : Nat
  tFirst : Nat
  /-- The waiters with engine and access kind, in the order they joined. -/
  waiters : List (Waiter × Engine × Nat × Nat)
  /-- The record has been resolved and its waiters wait for FAULT_REEVALUATE. -/
  resolved : Bool
deriving DecidableEq, Repr

/-- What an invalidation serves (10 R357). -/
inductive InvPurpose where
  | unmap (mb : MboxId) (slot : Nat)
  | swap (passSeq : Nat)
  | lock (mb : MboxId) (slot : Nat)
  | unlock (mb : MboxId) (slot : Nat)
  | retire (mb : MboxId) (slot : Nat)
  | destroy (mb : MboxId) (slot : Nat)
deriving DecidableEq, Repr

/-- An invalidation in progress (10 Table 10.4). -/
structure Inval where
  id : Nat
  forme : Nat
  ids : List Nat
  purpose : InvPurpose
  /-- Dies that have not received it, and dies that have not acknowledged it. -/
  toReceive : List Nat
  toAck : List Nat
  drained : Nat
  faulted : Nat
  tInval : Nat
  tDone : Nat
deriving DecidableEq, Repr

/-! ## Plates and passes (05, 06, 15) -/

/-- Output policy (05 Table 5.4, defaults applied). -/
structure Policy where
  proofed : Bool
  adapt : Bool
  depth : Nat
  margin : Nat
  rerunLimit : Nat
  ovfThresh : Nat
  hold : Nat
  /-- The policy word as SET_POLICY named it, for the journal (15 Table 15.11). -/
  word : Nat
deriving DecidableEq, Repr

/-- One amax history entry (05 R167). -/
structure HistEntry where
  valid : Bool
  amaxExp : Int
deriving DecidableEq, Repr

/-- Output binding of a layer (15 Table 15.18) with its policy, history and hold. -/
structure OutBinding where
  type : Nat
  s0 : Int
  histTop : Int
  rungs : Nat
  elements : Nat
  rlen : Nat
  visVa : Nat
  visPa : Nat
  stgVa : Nat
  stgPa : Nat
  aper : Bool
  mesh : Bool
  policy : Policy
  /-- Newest first. -/
  history : List HistEntry
  /-- Type a hold starts its passes on, and passes of the hold left (05 R168). -/
  holdType : Nat
  holdLeft : Nat
  /-- Type and shift of the last committed attempt under the present plate (05 R136). -/
  committed : Option (Nat × Int)
deriving DecidableEq, Repr

/-- Input binding (15 Table 15.19). -/
structure InBinding where
  type : Nat
  producer : Option (Nat × Nat)
deriving DecidableEq, Repr

/-- Stick header (06 Table 6.2). -/
structure StickHeader where
  defTmo : Bool
  tmoLog2 : Nat
  lsBytes : Nat
  regs : Nat
  sorts : Nat
deriving DecidableEq, Repr

structure Variant where
  inTypes : List Nat
  header : StickHeader
  codeOff : Nat
  codeLen : Nat
deriving DecidableEq, Repr

structure Layer where
  num : Nat
  outs : List OutBinding
  ins : List InBinding
  variants : List Variant
deriving DecidableEq, Repr

/-- A locked region (15 Table 15.21): Platen, range entry, first physical page, pages, the ways it takes. -/
structure Region where
  platen : Nat
  rangeId : Nat
  paPage : Nat
  pages : Nat
  ways : List Nat
deriving DecidableEq, Repr

structure Plate where
  measurement : Nat
  layers : List Layer
  regions : List Region
  /-- SHA-256 of the seal key's modulus, once sealed (15 R520 to R523). -/
  sealKey : Option Nat
deriving DecidableEq, Repr

/-- The counts of a statistics record (05 Table 5.1, R142). -/
structure Stats where
  elements : Nat
  ovf : Nat
  inf : Nat
  nan : Nat
  subn : Nat
  rtz : Nat
  inexact : Nat
  zero : Nat
  hist : SMap Nat
  /-- Largest |v| as m × 2^e with m in [2^16, 2^17), truncated: (exponent floor(log2 amax), 16 fraction bits). -/
  amax : Option (Int × Nat)
deriving DecidableEq, Repr

/-- A statistics record (05 Table 5.1). -/
structure StatRec where
  passSeq : Nat
  binding : Nat
  attempt : Nat
  type : Nat
  shift : Int
  histTop : Int
  limitHit : Bool
  nd5 : Bool
  discarded : Bool
  committed : Bool
  staged : Bool
  tStart : Nat
  tEnd : Nat
  stats : Stats
deriving DecidableEq, Repr

/-- Stick fault record (06 Table 6.12). -/
structure StickFault where
  passSeq : Nat
  stick : Nat
  lanes : Nat
  addr : Nat
  pc : Nat
  code : Nat
  slug : Nat
  attempt : Nat
  platen : Nat
  galley : Nat
  detail : Nat
deriving DecidableEq, Repr

/-- An output binding as the current attempt uses it (05 R136, R165). -/
structure OutNow where
  type : Nat
  shift : Int
  histTop : Int
  raises : Nat
  policy : Policy
deriving DecidableEq, Repr

structure InNow where
  type : Nat
  u : Int
deriving DecidableEq, Repr

inductive PassPhase where
  | running | swapping | ended
deriving DecidableEq, Repr

/-- The part of a Platen: its first stick index, the next pending one and the end of its part; the galley whose turn is next,
and whether the galleys still take their first sticks round after round (06 R182). -/
structure Part where
  platen : Nat
  first : Nat
  next : Nat
  stop : Nat
  turn : Nat
  placing : Bool
deriving DecidableEq, Repr

structure Pass where
  seq : Nat
  forme : Nat
  mb : MboxId
  slot : Nat
  layer : Nat
  variant : Nat
  header : StickHeader
  nsticks : Nat
  nd5 : Bool
  noBypass : Bool
  fixedSplit : Bool
  lsStep : Nat
  phase : PassPhase
  attempt : Nat
  outs : List OutNow
  ins : List InNow
  parts : List Part
  faultCount : Nat
  /-- Stick faults of the whole pass, for Table 12.15 and R416. -/
  faults : List StickFault
  records : List StatRec
  tStart : Nat
  tEnd : Nat
  tStartFirst : Nat
  /-- Final status, 0 while running (12 R416). -/
  status : Nat
  overMask : Nat
  /-- Output bindings whose history was cleared after the launch, to which the pass adds no entry (05 R153 CLR_HIST). -/
  noHist : List Nat
deriving DecidableEq, Repr

/-! ## Formes (15) -/

structure Forme where
  platens : List Nat
  groups : List Nat
  ports : List Nat
  faultHold : Nat
  faultVec : Nat
  faultHart : Nat
  faultIdent : Nat
  /-- Number of the key set drawn for the forme (15 R502). -/
  keySet : Nat
  /-- Two-hop pairs routed through the forme's own centre Platen (01 R41): (die, die, via). -/
  reroutes : List (Nat × Nat × Nat)
  ranges : List RangeEntry
  faults : List FaultRec
  nextFaultId : Nat
  plate : Option Plate
  /-- The plate of a PLATE_LOAD that runs, until its locks are made (12 R413). -/
  loading : Option Plate
  /-- Newest first, at most 256 (05 R144). -/
  passes : List Pass
  cap : Nat
  /-- Time of the last step up under the forme's cap (16 Table 16.8). -/
  capRaised : Nat
  counters : Counters
  coreMbox : Mailbox
  /-- A FORME_DESTROY is in progress (15 Table 15.3). -/
  destroying : Bool
  /-- Opcodes of FORME_DESTROYs and RESET_FORMEs of this forme that have begun and whose command an abort ended: what they began
  goes on without it (notes/assumptions/82.md). -/
  orphans : List Nat
  /-- Digest of the FORME_CREATE fields (15 Table 15.11). -/
  created : Nat
deriving DecidableEq, Repr

/-! ## Galleys (06), Press (03, 04) -/

/-- One accumulator window (03 "The anchored window"): value w × 2^anchor. -/
structure Window where
  w : Int
  anchor : Option Int
  sticky : Bool
  nan : Bool
  pinf : Bool
  ninf : Bool
  negzero : Bool
deriving DecidableEq, Repr

/-- An open accumulator bank (03 R87 to R91); windows not listed are as TILE_OPEN left them. -/
structure Bank where
  stick : Nat
  slug : Nat
  /-- WIN of 06 Table 6.7: 0 integer 128, 1 float 128, 2 float 192, 3 float 256. -/
  win : Nat
  terms : Nat
  windows : SMap Window
deriving DecidableEq, Repr

structure Press where
  banks : SMap Bank
  /-- The operation in the multiply stage, and the one in the output stage with its bank (03 R112). -/
  multiply : Option (Nat × Nat × Nat)
  output : Option (Nat × Nat × Nat)
deriving DecidableEq, Repr

/-- A tile operation from its issue to its done event (06 R201 to R205). -/
structure TileOp where
  stick : Nat
  slug : Nat
  ticket : Nat
  /-- The 256-bit command block as read at issue (06 Table 6.7). -/
  block : Nat
  pc : Nat
  lanes : Nat
  started : Bool
  /-- The operation's effect has been made. -/
  performed : Bool
  readDone : Bool
  done : Bool
  /-- Waits in a fault record (06 R207). -/
  held : Bool
  /-- Its read-done and done events occur together (03 R625, 07 R233). -/
  together : Bool
deriving DecidableEq, Repr

/-- One open divergence of a slug (06 R191). -/
structure Diverge where
  join : Nat
  /-- Sorts still to run on the other side, and where that side starts; empty on the second side. -/
  other : Nat
  otherPc : Nat
  secondSide : Bool
  /-- Every sort that meets at the join. -/
  all : Nat
deriving DecidableEq, Repr

/-- A lock a slug holds (06 R213): local store or device memory, its address there (a virtual one in device memory), lane. -/
structure LockHeld where
  isLocal : Bool
  addr : Nat
  lane : Nat
deriving DecidableEq, Repr

/-- What a slug waits for. -/
inductive SlugWait where
  | none
  | readDone (ticket : Nat)
  | done (ticket : Nat)
  /-- MEET.WAIT at barrier `b`; the slug goes on at `next`. -/
  | barrier (b next : Nat)
  /-- LOCK.ACQ: address space, destination register, lanes still waiting with the address each names, and whether a retry of
  theirs waits in a fault record; the slug goes on at `next`. -/
  | lock (isLocal : Bool) (dst : Nat) (lanes : List (Nat × Nat)) (next : Nat) (held : Bool)
  /-- A held translation fault: the instruction to run again (10 R361). -/
  | fault
deriving DecidableEq, Repr

structure Slug where
  /-- Galley slug slot, 0 to 63. -/
  slot : Nat
  active : Nat
  exited : Nat
  pc : Nat
  stack : List Diverge
  /-- Registers by lane × 256 + register, predicate bits by lane × 256 + index; an absent one holds zero. -/
  regs : SMap W32
  preds : SMap Bool
  tickets : Nat
  wait : SlugWait
  /-- The instruction at `pc` has issued and waited in a fault record: it runs again, and issues no second time. -/
  rerun : Bool
  locks : List LockHeld
deriving DecidableEq, Repr

/-- An open barrier phase (06 R214 to R216). -/
structure Barrier where
  count : Nat
  arrivals : Nat
deriving DecidableEq, Repr

structure Stick where
  forme : Nat
  passSeq : Nat
  index : Nat
  attempt : Nat
  header : StickHeader
  slugs : List Slug
  ls : Bytes
  barriers : SMap Barrier
  fault : Option StickFault
  /-- Faulted or stopped: its slugs issue nothing more (06 R220, R221). -/
  dead : Bool
deriving DecidableEq, Repr

structure Galley where
  sticks : SMap Stick
  presses : SMap Press
  ops : List TileOp
  /-- L1 lines by physical line number: clean copies (09 R285). -/
  l1 : SMap (List Byte)
  /-- Local-store allocation set at launch, in 64 KiB steps (06 R187). -/
  lsSteps : Nat
  /-- Sticks the galley may hold at once (06 R186), zero when no pass runs. -/
  resident : Nat
  /-- Statistics not merged yet, by pass sequence × 32 + proof tag (05 R137 to R139). -/
  proof : SMap Stats
deriving DecidableEq, Repr

/-! ## Coherence (09) and memory (08) -/

inductive LineState where
  | m | o | e | s | l
deriving DecidableEq, Repr

/-- A line held by a caching agent; an absent line is in state I. -/
structure Line where
  st : LineState
  data : List Byte
  /-- Poison bits of the two sectors. -/
  poison0 : Bool
  poison1 : Bool
  way : Nat
  /-- What the code of a Case finds when the line is next read: 0 nothing, 1 an error it corrects, 2 or 3 an uncorrectable
  one in sector 0 or 1 (09 R293). -/
  err : Nat
  /-- WB_DIRTY of the line is on its way; the agent holds the data until its COMP (09 Table 9.7). -/
  leaving : Bool
deriving DecidableEq, Repr

inductive DirState where
  | shared | exclusive | owned
deriving DecidableEq, Repr

structure DirEntry where
  st : DirState
  owner : Nat
  sharers : Nat
  /-- Allocation number, for the least recently allocated victim (09 R289). -/
  age : Nat
  /-- The entry fails its SEC-DED check (09 R290). -/
  bad : Bool
deriving DecidableEq, Repr

/-- Requests a home serves (09 Table 9.6). -/
inductive ReqKind where
  | rdShared | rdUnique | upgrade | ownNodata | lockFill (way : Nat) | rdOnce
  | wrFull (data : List Byte) (hint : Nat) | wrPart (mask : Nat) (data : List Byte)
  | wbDirty
  /-- The late SNP_INV of a snoop timeout (09 R302 step 4): the copy is dropped, and its data discarded. -/
  | dropCopy
deriving DecidableEq, Repr

/-- A request to a home: `group` is the core group of an L3 request (11 R377), `prio` the class of its read (08 R261), `unit`
the receive buffer of its Compositor that takes the answer (01 R47), `zero` a whole line of zeros, which sends no data
(09 R312). Agents above 9 are the copy engines in the home islands of Platens 0 to 5, cacheless as 8 and 9 (09 R286). -/
structure Req where
  agent : Nat
  kind : ReqKind
  group : Option Nat
  prio : Bool
  unit : Nat
  zero : Bool
deriving DecidableEq, Repr

inductive SnpKind where
  | shared | inv | peek | clean | push
deriving DecidableEq, Repr

inductive GrantKind where
  | m | e | s | l | once
deriving DecidableEq, Repr

/-- A message on its way: snoops to agents, answers to the home, data and completions to the requester. -/
inductive Msg where
  | snp (kind : SnpKind) (agent : Nat) (data : List Byte) (p0 p1 : Bool)
  | snpData (agent : Nat) (data : List Byte) (p0 p1 : Bool)
  | snpAck (agent : Nat)
  | snpNp (agent : Nat)
  | dataTo (agent : Nat) (grant : GrantKind) (data : List Byte) (p0 p1 : Bool)
  /-- From the cache of agent `src`. -/
  | fwdTo (agent : Nat) (grant : GrantKind) (data : List Byte) (p0 p1 : Bool) (src : Nat)
  | compTo (agent : Nat) (grant : Option GrantKind)
  | grantAck (agent : Nat)
deriving DecidableEq, Repr

/-- The transaction of a line at its home (09 R298). -/
structure Txn where
  req : Req
  /-- Agents whose snoop answer is outstanding. -/
  waiting : List Nat
  /-- A copy has been supplied from a cache. -/
  forwarded : Bool
  /-- The home has sent its grant or performed the write and waits for GRANT_ACK. -/
  granted : Bool
  /-- Dirty data received for memory. -/
  dirty : Option (List Byte × Bool × Bool)
  /-- A snoop of the transaction has timed out: the requester receives the line poisoned (09 R302). -/
  lost : Bool
  /-- The transaction has ended and messages of it are still on their way (09 R298). -/
  ended : Bool
  /-- Messages of the line that have not arrived, oldest first. -/
  msgs : List Msg
  queue : List Req
deriving DecidableEq, Repr

/-- A write stream of a Case (09 R314). -/
structure Stream where
  next : Nat
  count : Nat
  /-- Higher than that of every tracker its Case used before. -/
  lastUse : Nat
deriving DecidableEq, Repr

/-- Memory error record (08 Table 8.11). -/
structure MemRec where
  time : Nat
  addr : Nat
  kind : Nat
  symbols : Nat
  source : Nat
  lanes : Nat
deriving DecidableEq, Repr

structure Ring where
  /-- Newest first, at most 1,024 (08 R276). -/
  recs : List MemRec
  overwritten : Nat
deriving DecidableEq, Repr

/-- A request at a pseudo-channel controller (08 R262), with the time from which it waits there. -/
structure MemReq where
  pa : Nat
  priority : Bool
  write : Option (Nat × List Byte)
  time : Nat
deriving DecidableEq, Repr

/-- A write burst whose CRC the stack has not accepted yet (08 R273): sector address, its 64 bytes, time of issue. -/
structure Burst where
  pa : Nat
  data : List Byte
  time : Nat
deriving DecidableEq, Repr

/-- One pseudo-channel (08 R262, R263, R273, R274). -/
structure Pch where
  /-- Accepted requests, oldest first: at most 16 of the priority class and 48 others. -/
  queue : List MemReq
  /-- Requests that found their entries full and wait for Gutter credits, oldest first. -/
  held : List MemReq
  /-- Class of the last 16 data slots, newest first: true for priority. -/
  slots : List Bool
  /-- Byte lane suspected lost or under recovery, and whether the loopback test has confirmed it (08 Table 8.10). -/
  recovering : Option Nat
  confirmed : Bool
  /-- The request whose read found the byte lane dead, held and not returned; none after write CRC errors. -/
  failed : Option MemReq
  /-- The address at which the recovery in progress began. -/
  lostAt : Option Nat
  /-- Write CRC errors of the last microsecond: byte lane and time. -/
  crcErrors : List (Nat × Nat)
  /-- Replay buffer of 128 entries, newest first. -/
  replay : List Burst
  /-- Open row of each bank. -/
  openRows : SMap Nat
deriving DecidableEq, Repr

/-- A replaced row (08 R280 to R282). -/
structure Repair where
  row : RowId
  hard : Bool
  failed : Bool
deriving DecidableEq, Repr

structure Stack where
  /-- Key set under which the sectors in use were last written (08 R268, 15 R502). -/
  keySet : Nat
  pchs : SMap Pch
  /-- Pairs of pseudo-channels whose spare byte lane is in use. -/
  sparesUsed : List Nat
  selfRefresh : Bool
  refresh2x : Bool
  /-- Time at which the refresh rate was doubled (08 R260, MEM_REFRESH_2X). -/
  since2x : Nat
  throttled : Bool
  quiesced : Bool
  scrub : Nat
  innerCount : Nat
  repairs : List Repair
  temp : Nat
  ring : Ring
deriving DecidableEq, Repr

/-! ## Gutter (01) -/

/-- A message between dies: its line, its kind and agent (09 Table 9.6; 12 is a request and 13 the data of a write), where it
comes from, its role, its channel in the coherent role (0 requests, 1 snoops, 2 responses), the receive buffer it is bound
for, the links it has still to leave with their directions, the link it is on first, the forme whose traffic it is, and the
request of which it is or whose data it carries. -/
structure Flight where
  line : Nat
  kind : Nat
  agent : Nat
  src : Nat
  bulk : Bool
  chan : Nat
  unit : Nat
  route : List (Nat × Nat)
  forme : Option Nat
  /-- It has a credit and is on its first link; otherwise its sender holds it. -/
  entered : Bool
  req : Option Req
  /-- A mesh packet that crosses from one Compositor to the other, and the port it leaves on (14 R477). -/
  transit : Option (Nat × Packet)
deriving DecidableEq, Repr

/-- The Gutter's traffic (01 R33, R34, R51). -/
structure Gutter where
  /-- Messages in the order they entered the links they are on, then those held for credits, oldest first. -/
  flights : List Flight
  /-- Requests, with their lines, that have left the Gutter and whose data has not. -/
  atHome : List (Nat × Req)
  /-- Senders that hold a message, by forme × 8 + die, with the time from which they do. -/
  holding : SMap Nat
  /-- Counts by forme × 8: bytes of the bulk role, of the coherent role, of remote homes, of those that crossed two hops,
  and the time in ns that senders held messages. -/
  counts : SMap Nat
  /-- Bytes by link × 4 + direction × 2 + role. -/
  carried : SMap Nat
deriving DecidableEq, Repr

/-- A lane group of one direction of a link (01 R24, R36): data lanes that have failed, the spare in use, a swap under
way. -/
structure LaneGroup where
  failed : Nat
  spareUsed : Bool
  swapping : Bool
deriving DecidableEq, Repr

/-! ## Power (16) -/

inductive PowerState where
  | s0 | s1 | s2 | s3
  /-- Entering S2 or S3 under 09 Table 9.13: the state left and the state entered. -/
  | entering (frm dest : Nat)
  /-- Waking under 16 Table 16.3. -/
  | waking (frm : Nat)
deriving DecidableEq, Repr

/-- The Platen wakes. -/
def PowerState.wakes : PowerState → Bool
  | .waking _ => true
  | _ => false

/-- What sets the point (16 Table 16.10 LIMIT). -/
structure Limits where
  /-- Under the module cap and under the forme's cap. -/
  cap : Nat
  formeCap : Nat
  thermal : Nat
  forced : Bool
  input : Bool
  fast : Nat
  /-- A droop step is in force (16 R551), and the highest step it allows. -/
  droop : Bool
  droopTop : Nat
deriving DecidableEq, Repr

/-- An average over fixed windows of 250 ms (15 R507, 16 Tables 16.9 and 16.10): the window in progress, the sum and
number of its samples, and the average of the last complete one. -/
structure Mean where
  window : Nat
  sum : Nat
  count : Nat
  last : Nat
deriving DecidableEq, Repr

structure PlatenPower where
  state : PowerState
  /-- Rest state 0 to 3, or 8 under the governor's timers (16 R539). -/
  rest : Nat
  step : Nat
  /-- Rail set point in units of 25 mV. -/
  volt : Nat
  limits : Limits
  temp : Nat
  meanTemp : Mean
  stretching : Bool
  /-- Step the governor has started and that RUNNING_POINT_STEP settles (16 R547). -/
  target : Option Nat
  /-- A wake asked for while the Platen was entering S2 or S3 (16 R558). -/
  wakeAsked : Bool
  /-- Time up to which the counters of 16 Table 16.9 have been added up. -/
  since : Nat
  /-- Times of the last droop step and of the last fast limit (16 R551, Table 16.8). -/
  droopAt : Nat
  fastAt : Nat
deriving DecidableEq, Repr

structure CorePower where
  /-- Highest clock the module cap and the forme's cap allow a running group, in 100 MHz steps (16 R548, R553). -/
  cap : Nat
  formeCap : Nat
deriving DecidableEq, Repr

/-- A Compositor's sensor and the thermal limit of its core groups (16 Table 16.8). -/
structure CompPower where
  temp : Nat
  /-- Highest clock in 100 MHz steps. -/
  thermal : Nat
  forced : Bool
deriving DecidableEq, Repr

/-! ## Cores (11) -/

inductive HartState where
  | stopped | running | stalled | suspended
deriving DecidableEq, Repr

/-- One interrupt file of a hart (11 R384): delivery, threshold and the identities enabled. -/
structure AiaFile where
  delivery : Bool
  threshold : Nat
  enabled : List Nat
deriving DecidableEq, Repr

structure Hart where
  st : HartState
  pc : Nat
  /-- Integer registers x1 to x31 and vector register bytes by 64 × register + byte; absent ones hold zero. -/
  xregs : SMap Nat
  /-- Floating-point registers f0 to f31, narrower values boxed in NaNs (11 R369). -/
  fregs : SMap Nat
  vregs : Bytes
  vl : Nat
  sew : Nat
  /-- log2 of LMUL. -/
  lmul : Int
  vill : Bool
  vstart : Nat
  fflags : Nat
  /-- 0 U, 1 S or HS, 2 VS, 3 VU. -/
  mode : Nat
  ndfault : Nat
  /-- Cause and address of the last access fault or exception taken (11 R374). -/
  cause : Nat
  stval : Nat
  /-- Reserved line of LR/SC and Zawrs (11 R386, 09 R309). -/
  resv : Option Nat
  /-- The access that a stalled hart has not completed, as the command it is (11 R375). -/
  stalledOn : Option Instr
  /-- Interrupt identities pending, by file × 256 + identity (11 R384). -/
  pending : List Nat
  /-- Its interrupt files that are not as at reset: 0 the S-level file, 1 to 4 the guest files (11 R384). -/
  aia : SMap AiaFile
  /-- Control and status registers that have been written, by number (11 R369, R372, R385). -/
  csrs : SMap Nat
  /-- Its counters of clocks, instructions and events as last read, by number (11 R385). -/
  hpm : SMap Nat
  /-- The hart waits in WRS.NTO until its reservation is gone or an interrupt comes (11 R386). -/
  wrs : Bool
  /-- Where a hart that HSM suspended goes on, with its argument; none after a retentive suspend (11 R370). -/
  resume : Option (Nat × Nat)
deriving DecidableEq, Repr

/-- A locked L3 way (11 R383): its die, its number there, and the group that locked it. -/
structure L3Lock where
  die : Nat
  way : Nat
  group : Nat
deriving DecidableEq, Repr

/-! ## Mesh (14) -/

inductive MeshPortState where
  | down | edge | training | up | miswired
deriving DecidableEq, Repr

/-- The virtual channels of a direction of a mesh link (14 R476). -/
inductive MeshChannel where
  | bulk | bulkDetour | prompt | promptDetour
deriving DecidableEq, Repr

structure MeshPort where
  st : MeshPortState
  txWidth : Nat
  rxWidth : Nat
  /-- Failed lanes, sending and receiving, as masks. -/
  txFailed : Nat
  rxFailed : Nat
  txRetraining : Bool
  rxRetraining : Bool
  partner : Nat
  gen5 : Bool
  fecCorr : Nat
  replays : Nat
  /-- Prompt packets go by detour (14 R484). -/
  promptDetour : Bool
  neighbourLost : Bool
  /-- Training attempts counted because lanes failed (18 R581). -/
  trainFails : Nat
  /-- Link delay and offset from the other end, in units of 0.125 ns, as last measured (14 R489). -/
  delay : Int
  offset : Int
  /-- Packets that wait for a credit of their channel or for the link to retrain, in order of arrival (14 R475, R476, R484). -/
  queue : List (MeshChannel × Packet)
  /-- The replay buffer: packets sent and not acknowledged by the link layer, oldest first (14 R457). -/
  replay : List (MeshChannel × Packet)
deriving DecidableEq, Repr

structure GnidEntry where
  gnid : Nat
  present : Bool
  nd5 : Bool
  dup : Bool
  upPorts : Nat
  generation : Nat
deriving DecidableEq, Repr

/-- Window of a job (14 Table 14.4). -/
structure MeshWindow where
  window : Nat
  vaBase : Nat
  pages : Nat
  hint : Nat
  put : Bool
  get : Bool
deriving DecidableEq, Repr

/-- A set-up (14 R465 to R469). -/
structure MeshJob where
  forme : Nat
  job : Nat
  digest : Nat
  origin : Nat
  extX : Nat
  extY : Nat
  extZ : Nat
  margin : Nat
  windows : List MeshWindow
  border : Nat
  detours : List Nat
  active : Bool
  /-- Being released: its inbound packets are checked no more (14 R470, Table 14.15). -/
  closing : Bool
  /-- Release order of a retained set-up. -/
  released : Nat
deriving DecidableEq, Repr

/-- A packet the node has sent for a COPY of a forme and that is neither acknowledged nor failed (14 R482); `ended`
where the COPY has ended without it. -/
structure SentPacket where
  forme : Nat
  ended : Bool
  mb : MboxId
  slot : Nat
  copyId : Nat
  index : Nat
  offset : Nat
  len : Nat
deriving DecidableEq, Repr

inductive MeshTx where
  | packet (port : Nat) (channel : MeshChannel) (p : Packet)
  | ack (p : Packet)
  | error (p : Packet) (code : Nat)
  | announce (gnid node generation upPorts : Nat)
  | notice (node port width : Nat)
  | getData (p : Packet) (data : List Byte) (poisoned : Bool)
deriving DecidableEq, Repr

/-- States of the registration counter (14 R492). -/
inductive RegState where
  | free | acquiring | locked | settling
deriving DecidableEq, Repr

structure Mesh where
  ports : SMap MeshPort
  gnids : SMap GnidEntry
  /-- Width of the sending side of node × 8 + port, for links within two hops (14 R486). -/
  linkWidths : SMap Nat
  lostNodes : List Nat
  jobs : List MeshJob
  releases : Nat
  sent : List SentPacket
  nextCopy : Nat
  /-- Packets waiting at this target for an earlier packet of their COPY; next index due by source × 2^32 + COPY. -/
  waiting : List (Nat × Packet)
  due : SMap Nat
  regState : RegState
  parent : Nat
  depth : Nat
  ref : Nat
  offset : Int
  joinedBefore : Bool
  /-- Rate correction in units of 0.01 ppm, and the part of a nanosecond, in units of 10^−8 ns, that the counter has gone on
  beyond its value (14 R491). -/
  rate : Int
  frac : Nat
  tx : List MeshTx
deriving DecidableEq, Repr

/-! ## Security, images, journal (15) -/

/-- The values in force of the node configuration (15 Table 15.13, Table 15.22). -/
structure NodeConfig where
  node : Nat
  nx : Nat
  ny : Nat
  nz : Nat
  groupId : Nat
  gnid : Nat
  gutPp : Nat
  gutCp : Nat
  portsA : Bool
  portsB : Bool
  admin : Nat
  moduleCap : Nat
  tS1 : Nat
  tS2 : Nat
  tS3 : Nat
  tIdle : Nat
  owner : Nat
  /-- Chassis keys in use: generation, unwrapped key (17 R566). -/
  keys : List (Nat × Nat)
  repairs : List (Nat × RowId)
  measurement : Nat
deriving DecidableEq, Repr

/-- A Lumiz image in a flash bank. -/
structure LumizImage where
  svn : Nat
  floor : Nat
  measurement : Nat
deriving DecidableEq, Repr

/-- What the flash programs in the background (15 R514). -/
inductive Programming where
  | lumiz (bank : Nat) (img : LumizImage)
  | config (slot : Nat) (cfg : NodeConfig)
deriving DecidableEq, Repr

structure Flash where
  bankA : Option LumizImage
  bankB : Option LumizImage
  preferredBank : Nat
  slot0 : Option NodeConfig
  slot1 : Option NodeConfig
  preferredSlot : Nat
  programming : Option Programming
  /-- Last checkpoint stored, and its chain value (15 R527, R528). -/
  checkpoint : Nat
  checkpointChain : Nat
  /-- The journal has begun (15 R528). -/
  journalBegun : Bool
deriving DecidableEq, Repr

/-- Journal entry (15 Table 15.10). -/
structure JEntry where
  number : Nat
  time : Nat
  origin : Nat
  port : Nat
  forme : Nat
  formeV : Bool
  slot : Nat
  peer : Nat
  objKind : Nat
  objId : Nat
  action : Nat
  piece : Nat
  prev : Nat
  old : Nat
  new : Nat
deriving DecidableEq, Repr

structure Journal where
  /-- Newest first. -/
  entries : List JEntry
  /-- Number the next entry takes. -/
  next : Nat
  /-- C_n of the newest entry (15 R526). -/
  chain : Nat
  /-- Number of the first entry since the supply came up (15 R528). -/
  base : Nat
  /-- Number of the oldest entry not exported. -/
  oldestUnexported : Nat
  /-- Event entries that found no place (15 R529). -/
  lost : Nat
  /-- Checkpoint being written to flash: index and chain value (15 R527). -/
  writing : Option (Nat × Nat)
  /-- The checkpoint whose number was reached and that JOURNAL_CHECKPOINT writes. -/
  due : Option (Nat × Nat)
  /-- Entries held in the Watch domain during module idle (16 R545). -/
  heldInIdle : Nat
  /-- Entries of events that wait for a checkpoint to be in flash (15 R527), oldest first. -/
  waiting : List JEntry
  /-- The supply has come up and the BOOT entry is still to be written (15 R528). -/
  bootDue : Bool
  /-- Changes of the test port, the flash and host ports that the journal holds at their start, oldest first (15 R527). -/
  rows : List Instr
deriving DecidableEq, Repr

/-! ## Sideband (17) -/

inductive SbMode where
  | plca | csmaCd | badId | noKey
deriving DecidableEq, Repr

/-- A request in the sideband's queue. -/
structure SbReq where
  func : Nat
  seq : Nat
  body : List Byte
deriving DecidableEq, Repr

/-- A response or notice the node sends (17 Table 17.2). -/
structure SbOut where
  type : Nat
  func : Nat
  status : Nat
  reqSeq : Nat
  body : List Byte
deriving DecidableEq, Repr

/-- The sideband counters of 17 Table 17.5 without the training counters, which are the ports'. -/
structure SbCounters where
  fcsErr : Nat
  notOurs : Nat
  dstOther : Nat
  malformed : Nat
  badTag : Nat
  staleSeq : Nat
  overrun : Nat
  accepted : Nat
  txFrames : Nat
  collisions : Nat
  excessColl : Nat
  plcaLost : Nat
deriving DecidableEq, Repr

/-- A frame on the segment: addresses, EtherType, the fields of the header that the message does not give, the message
and its tag (17 R563, Table 17.2). -/
structure SbSent where
  dstMac : Nat
  srcMac : Nat
  etherType : Nat
  keyGen : Nat
  src : Nat
  dst : Nat
  seq : Nat
  msg : SbOut
  tag : List Byte
deriving DecidableEq, Repr

structure Sideband where
  mode : SbMode
  mark : Nat
  txSeq : Nat
  queue : List SbReq
  out : List SbOut
  counters : SbCounters
  snapshots : SMap (List Byte)
  /-- Time of the last STALE_SEQ response (17 R568). -/
  staleAt : Option Nat
  attempts : Nat
  backingOff : Bool
  /-- Resets accepted and not ended: 1 cold, 2 warm, 3 forme, 4 a forme reset under way, with the forme (17 R572). -/
  resetAsked : List (Nat × Nat)
  /-- Frames sent, oldest first. -/
  tx : List SbSent
deriving DecidableEq, Repr

/-! ## The module -/

inductive Phase where
  | off | starting | running | watchOnly | retired | lost
deriving DecidableEq, Repr

structure Pins where
  pwrEn : Bool
  pwrGood : Bool
  /-- THERM_ALERT_N asserted (low). -/
  thermAlert : Bool
  /-- The straps SB_ID, and as they were read at the last cold reset (17 R560). -/
  sbId : Nat
  sbIdAtReset : Nat
  /-- TUNLK_N asserted (low), and as it was read through the last cold reset. -/
  tunlkAsserted : Bool
  tunlkAtReset : Bool
  /-- The electronic fuse is open (19 R604). -/
  fuseOpen : Bool
  /-- PWR_EN was asserted with the input below 44 V: the start-up waits for the input (19 R606). -/
  startWaits : Bool
  /-- A rail missed regulation at step 1 since PWR_EN was asserted (18 Table 18.2). -/
  railsFailed : Bool
deriving DecidableEq, Repr

/-- The JTAG port: the instruction in force, the boundary cells preloaded and as last captured, whether the last access
was accepted, and what the test controller last returned: repair resources left where fewer than all are (08 R282 step
3, Table 8.13), and the row last tested with its failure (step 5). -/
structure Jtag where
  op : JtagOp
  cells : Nat
  captured : Nat
  accepted : Bool
  hardLeft : SMap Nat
  softLeft : SMap Nat
  tested : Option (RowId × Bool)
deriving DecidableEq, Repr

/-- The power meter's last reading and the module's limits (16 R552 to R555). -/
structure Meter where
  millivolts : Nat
  milliamps : Nat
  /-- Power samples of the last millisecond in milliwatts, newest first, and how many of them, up to 10, came since the
  fast limit last acted (16 R554, Table 16.8). -/
  samples : List Nat
  fresh : Nat
  /-- Module input power in milliwatts over windows of 250 ms. -/
  mean : Mean
  inputLimit : Bool
  /-- Time of the last step up under the module cap (16 Table 16.8). -/
  raised : Nat
deriving DecidableEq, Repr

structure Sec where
  /-- 1 for ND6-A1152-L, 2 for ND6-E1152-L (12 Table 12.11 GRADE). -/
  grade : Nat
  serial : Nat
  lumizVer : Nat
  bootCount : Nat
  floor : Nat
  rootDigest : Nat
  unlocked : Bool
  unlocks : Nat
  lumizMeasurement : Nat
  bank : Nat
  /-- The Lumiz image that start-up verified, none where both banks failed (15 Table 15.7). -/
  image : Option LumizImage
  configSlot : Option Nat
  /-- Number of Lumiz's key set, and the next key-set number. -/
  lumizKeys : Nat
  nextKeys : Nat
  retirement : Option (Nat × RetireCause)
  failedCores : List Nat
  /-- Time of the last heartbeat of each control core (18 R583). -/
  beats : SMap Nat
  /-- The start-up in progress follows a cold reset (18 Table 18.3). -/
  coldStart : Bool
  nextPass : Nat
  nextInval : Nat
deriving DecidableEq, Repr

structure State where
  phase : Phase
  /-- The registration counter, in ns (14 R488). -/
  now : Nat
  free : Nat
  pins : Pins
  jtag : Jtag
  sec : Sec
  flash : Flash
  config : NodeConfig
  journal : Journal
  -- Gutter
  applPp : Nat
  applCp : Nat
  lanes : SMap LaneGroup
  gut : Gutter
  -- memory and coherence
  mem : Bytes
  poison : SMap Unit
  errors : SMap (List (Nat × Byte))
  stackTab : SMap Stack
  /-- Homes that refuse normal requests, by Platen, with the time from which they do (01 Table 1.8 HOME_Q_FULL). -/
  homeFull : SMap Nat
  absentRing : Ring
  /-- Lines by agent × 2^34 + line number. -/
  lines : SMap Line
  dir : SMap DirEntry
  dirAge : Nat
  txns : SMap Txn
  streams : SMap Stream
  /-- Way of each cache set that was used last, by agent × 32,768 + set (09 R291). -/
  recent : SMap Nat
  suspects : List Nat
  /-- Time of the last snoop timeout of each agent (09 R303). -/
  timedOut : SMap Nat
  l3Locks : List L3Lock
  -- translation
  rangeCaches : List (Nat × Engine × List Nat)
  invals : List Inval
  -- units
  ports : SMap Port
  formes : SMap Forme
  /-- Counters of what no forme did, as patrol scrub of stacks that no forme holds (17 R570). -/
  loose : Counters
  galleys : SMap Galley
  harts : SMap Hart
  groupsRunning : List Nat
  corePower : SMap CorePower
  platens : SMap PlatenPower
  /-- Fields of the last POWER_STATE of each object, by OBJ_ID (15 Table 15.11). -/
  powerCmds : SMap Nat
  comps : SMap CompPower
  moduleIdle : Bool
  waking : Bool
  /-- Aperture requests that wait for the module to wake, oldest first (16 R544). -/
  idleReqs : List Instr
  moduleCap : Nat
  meter : Meter
  mesh : Mesh
  sb : Sideband
  pending : List Instr
deriving DecidableEq, Repr

/-! ## Reset values

The value each part has right after a cold reset (00 R11, 18 Table 18.4). Where the spec gives none, the value and the
log entry that names it stand in INVENTORY.md. -/

/-- A mailbox reads as zero, every slot free, no history (12 R387, Table 12.20). -/
def Mailbox.reset : Mailbox := { bytes := [], slots := [], history := [], dropped := 0, seals := 0 }

/-- A free slot. -/
def Slot.reset : Slot :=
  { phase := .free, done := false, tSeal := 0, tTaken := 0, status := 0, detail := 0, result := 0, offset := 0,
    waitId := 0, pastStep8 := false, afterBad := [], engine := 0 }

/-- Defaults of the registers of configuration space, the family's (notes/assumptions/126.md). -/
def CfgRegs.reset : CfgRegs :=
  { bar0 := 0, bar2 := 0, command := 0, lineSize := 0, intLine := 0, msixEnable := false, msixMask := false, devCtl := 0,
    devSta := 0, devCtl2 := 0, linkCtl := 0, uncorr := 0, uncorrMask := 0x00400000, uncorrSev := 0x00462030, corr := 0,
    corrMask := 0x00006000 }

/-- A host port with its configuration space at its defaults, its link down, its PERST_N asserted and every vector of its
MSI-X table masked, as PCI Express resets it. -/
def Port.reset : Port :=
  { mbox := Mailbox.reset, msixTable := (List.range 64).map (fun k => (16 * k + 12, 1)), msixPending := 0, epoch := 0, resetKind := 0,
    tReset := 0, pendingAck := false, armed := false, records := [], unsent := [], link := .down, rate := 0, width := 0, perstAsserted := true,
    trained := false, d3hot := false, memSpace := false, busMaster := false, cfg := CfgRegs.reset, maxPayload := 128, maxReadReq := 512,
    completionTimeoutUs := 50000, barLog2 := 20, rid0 := 0, rid1 := 0, rid2 := 0, valid := 0, trainFail := 0,
    forme := none, aperBase := 0, aperLog2 := 0, reads := [], aer := [], tx := [], waiting := [] }

/-- The values in force while no node configuration image is (15 Table 15.22, 16 Table 16.4). Times in µs, T_S3 and
T_IDLE in ms. -/
def NodeConfig.shipped : NodeConfig :=
  { node := 0, nx := 1, ny := 1, nz := 1, groupId := 0, gnid := 0, gutPp := 2, gutCp := 3, portsA := false,
    portsB := false, admin := 1, moduleCap := 3000, tS1 := 2, tS2 := 500, tS3 := 20, tIdle := 100, owner := 0,
    keys := [], repairs := [], measurement := 0 }

def Ring.reset : Ring := { recs := [], overwritten := 0 }

def Stack.reset : Stack :=
  { keySet := 0, pchs := [], sparesUsed := [], selfRefresh := false, refresh2x := false, since2x := 0, throttled := false,
    quiesced := false, scrub := 0, innerCount := 0, repairs := [], temp := 0, ring := Ring.reset }

def Gutter.reset : Gutter := { flights := [], atHome := [], holding := [], counts := [], carried := [] }

/-- An idle galley: no stick, every bank closed (06 R176). -/
def Galley.reset : Galley :=
  { sticks := [], presses := [], ops := [], l1 := [], lsSteps := 0, resident := 0, proof := [] }

def Mean.reset : Mean := { window := 0, sum := 0, count := 0, last := 0 }

def Limits.none : Limits :=
  { cap := 18, formeCap := 18, thermal := 18, forced := false, input := false, fast := 18, droop := false, droopTop := 18 }

/-- A Platen that no forme holds: rest state S3 (16 R539). -/
def PlatenPower.reset : PlatenPower :=
  { state := .s3, rest := 3, step := 0, volt := 26, limits := Limits.none, temp := 0, meanTemp := Mean.reset, stretching := false,
    target := none, wakeAsked := false, since := 0, droopAt := 0, fastAt := 0 }

/-- A core group starts at 2.6 GHz (16 R548). -/
def CorePower.start : CorePower := { cap := 26, formeCap := 26 }

def CompPower.reset : CompPower := { temp := 0, thermal := 26, forced := false }

/-- A stopped hart. -/
def Hart.reset : Hart :=
  { st := .stopped, pc := 0, xregs := [], fregs := [], vregs := [], vl := 0, sew := 8, lmul := 0, vill := true, vstart := 0, fflags := 0,
    mode := 1, ndfault := 0, cause := 0, stval := 0, resv := none, stalledOn := none, pending := [], aia := [],
    csrs := [], hpm := [], wrs := false, resume := none }

/-- An interrupt file at reset: nothing delivered, no threshold, nothing enabled. -/
def AiaFile.reset : AiaFile := { delivery := false, threshold := 0, enabled := [] }

def MeshPort.reset : MeshPort :=
  { st := .down, txWidth := 0, rxWidth := 0, txFailed := 0, rxFailed := 0, txRetraining := false,
    rxRetraining := false, partner := 0, gen5 := false, fecCorr := 0, replays := 0, promptDetour := false,
    neighbourLost := false, trainFails := 0, delay := 0, offset := 0, queue := [], replay := [] }

def Mesh.reset : Mesh :=
  { ports := [], gnids := [], linkWidths := [], lostNodes := [], jobs := [], releases := 0, sent := [], nextCopy := 0, waiting := [],
    due := [], regState := .free, parent := 255, depth := 0, ref := 0, offset := 0, joinedBefore := false, rate := 0, frac := 0,
    tx := [] }

def SbCounters.reset : SbCounters :=
  { fcsErr := 0, notOurs := 0, dstOther := 0, malformed := 0, badTag := 0, staleSeq := 0, overrun := 0, accepted := 0,
    txFrames := 0, collisions := 0, excessColl := 0, plcaLost := 0 }

/-- The sideband with every SB_ID strap open, which reads 15 (17 R560, 19 R611). -/
def Sideband.reset : Sideband :=
  { mode := .badId, mark := 0, txSeq := 0, queue := [], out := [], counters := SbCounters.reset, snapshots := [],
    staleAt := none, attempts := 0, backingOff := false, resetAsked := [], tx := [] }

/-- A flash as shipped: a Lumiz image in bank A, no node configuration image (15 R515 step 5). -/
def Flash.shipped : Flash :=
  { bankA := some { svn := 0, floor := 0, measurement := 0 }, bankB := none, preferredBank := 0, slot0 := none,
    slot1 := none, preferredSlot := 0, programming := none, checkpoint := 0, checkpointChain := 0,
    journalBegun := false }

/-- A journal before its first entry (15 R526, R528). -/
def Journal.reset : Journal :=
  { entries := [], next := 0, chain := 0, base := 0, oldestUnexported := 0, lost := 0, writing := none, due := none,
    heldInIdle := 0, waiting := [], bootDue := true, rows := [] }

/-- The module right after a cold reset from no supply: Table 18.1 is in step 3 to 6, Lumiz takes no slot yet
(18 R576, R580), and STARTUP_COMPLETE ends the start-up. -/
def State.reset : State :=
  { phase := .starting, now := 0, free := 0,
    pins := { pwrEn := true, pwrGood := true, thermAlert := false, sbId := 15, sbIdAtReset := 15, tunlkAsserted := false,
              tunlkAtReset := false, fuseOpen := false, startWaits := false, railsFailed := false },
    jtag := { op := .idcode, cells := 0, captured := 0, accepted := false, hardLeft := [], softLeft := [], tested := none },
    sec := { grade := 1, serial := 0, lumizVer := 0, bootCount := 1, floor := 0, rootDigest := 0,
             unlocked := false, unlocks := 0, lumizMeasurement := 0, bank := 0, image := Flash.shipped.bankA,
             configSlot := none, lumizKeys := 0, nextKeys := 1, retirement := none, failedCores := [], beats := [], coldStart := true, nextPass := 1, nextInval := 0 },
    flash := Flash.shipped, config := NodeConfig.shipped, journal := Journal.reset,
    applPp := 2, applCp := 3, lanes := [], gut := Gutter.reset,
    mem := [], poison := [], errors := [],
    stackTab := (List.range 12).map (fun k => (k, Stack.reset)), homeFull := [], absentRing := Ring.reset,
    lines := [], dir := [], dirAge := 0, txns := [], streams := [], recent := [], suspects := [], timedOut := [], l3Locks := [],
    rangeCaches := [], invals := [],
    ports := (List.range 4).map (fun k => (k, Port.reset)), formes := [], loose := [], galleys := [], harts := [],
    groupsRunning := [], corePower := [], platens := (List.range 6).map (fun p => (p, PlatenPower.reset)), powerCmds := [],
    comps := [], moduleIdle := false, waking := false, idleReqs := [], moduleCap := 3000,
    meter := { millivolts := 52000, milliamps := 0, samples := [], fresh := 0, mean := Mean.reset, inputLimit := false, raised := 0 },
    mesh := Mesh.reset, sb := Sideband.reset, pending := [] }

end Sys2Proof.Machine
end

