-- ==== Sys2Proof/Machine/Numfmt.lean ====
section
/-! DEFINITION. Number formats (02): the type byte, exact values, decoding, the one rounding of a conversion in each
direction, its event, block scales, packing, and what the Proof unit counts of an element (05 R141, R142). -/

namespace Sys2Proof.Machine

open Sys2Proof

/-! ## Exact values -/

/-- An exact value: (−1)^neg × m × 2^e, an infinity, or NaN. Zero keeps its sign. -/
inductive Num where
  | nan
  | inf (neg : Bool)
  | fin (neg : Bool) (m : Nat) (e : Int)
deriving DecidableEq, Repr

def Num.isZero : Num → Bool
  | .fin _ m _ => m == 0
  | _ => false

def Num.isNan : Num → Bool
  | .nan => true
  | _ => false

def Num.isInf : Num → Bool
  | .inf _ => true
  | _ => false

/-- Finite and nonzero: the values that enter the histogram and the amax (05 R141). -/
def Num.isFinNz : Num → Bool
  | .fin _ m _ => m != 0
  | _ => false

def Num.sign : Num → Bool
  | .nan => false
  | .inf n => n
  | .fin n _ _ => n

/-- Exact multiplication by a power of two (02 R60, 03 R101). -/
def Num.scale (k : Int) : Num → Num
  | .fin n m e => .fin n m (e + k)
  | x => x

def Num.neg : Num → Num
  | .nan => .nan
  | .inf n => .inf (!n)
  | .fin n m e => .fin (!n) m e

def Num.abs : Num → Num
  | .nan => .nan
  | .inf _ => .inf false
  | .fin _ m e => .fin false m e

/-- Floor of log2 of a finite nonzero magnitude. -/
def Num.log2 : Num → Int
  | .fin _ m e => (floorLog2 m : Int) + e
  | _ => 0

/-- An integer as a value. -/
def Num.ofInt (i : Int) : Num := .fin (decide (i < 0)) i.natAbs 0

/-- The signed significand over 2^e of a value whose exponent is at least e. -/
def Num.toIntAt (e : Int) : Num → Int
  | .fin n m x =>
    let v : Int := m * 2 ^ (x - e).toNat
    if n then -v else v
  | _ => 0

/-- Exact sum. An exact zero sum of nonzero terms is +0, or −0 toward negative (IEEE 754, 07 R238). -/
def Num.add (downward : Bool) : Num → Num → Num
  | .nan, _ => .nan
  | _, .nan => .nan
  | .inf a, .inf b => if a = b then .inf a else .nan
  | .inf a, .fin _ _ _ => .inf a
  | .fin _ _ _, .inf b => .inf b
  | .fin n1 m1 e1, .fin n2 m2 e2 =>
    if m1 = 0 ∧ m2 = 0 then .fin (if n1 = n2 then n1 else downward) 0 0
    else
      let e := if m1 = 0 then e2 else if m2 = 0 then e1 else min e1 e2
      let a := if m1 = 0 then 0 else Num.toIntAt e (.fin n1 m1 e1)
      let b := if m2 = 0 then 0 else Num.toIntAt e (.fin n2 m2 e2)
      let s := a + b
      if s = 0 then .fin downward 0 0 else .fin (decide (s < 0)) s.natAbs e

/-- Exact product (03 Table 3.4). -/
def Num.mul : Num → Num → Num
  | .nan, _ => .nan
  | _, .nan => .nan
  | .inf a, .inf b => .inf (a != b)
  | .inf a, .fin n m _ => if m = 0 then .nan else .inf (a != n)
  | .fin n m _, .inf b => if m = 0 then .nan else .inf (n != b)
  | .fin n1 m1 e1, .fin n2 m2 e2 => .fin (n1 != n2) (m1 * m2) (e1 + e2)

/-- `a < b` of two values that are not NaN; zeros are equal (07 R238). -/
def Num.lt : Num → Num → Bool
  | .nan, _ => false
  | _, .nan => false
  | .inf a, .inf b => a && !b
  | .inf a, .fin _ _ _ => a
  | .fin _ _ _, .inf b => !b
  | .fin n1 m1 e1, .fin n2 m2 e2 =>
    let e := if m1 = 0 then e2 else if m2 = 0 then e1 else min e1 e2
    let a := if m1 = 0 then 0 else Num.toIntAt e (.fin n1 m1 e1)
    let b := if m2 = 0 then 0 else Num.toIntAt e (.fin n2 m2 e2)
    decide (a < b)

def Num.eqv (a b : Num) : Bool := !a.isNan && !b.isNan && !a.lt b && !b.lt a

/-- Maximum or minimum of two values: NaN wins, −0 lies below +0 (07 R238). -/
def Num.pick (largest : Bool) (a b : Num) : Num :=
  if a.isNan || b.isNan then .nan
  else if a.lt b then (if largest then b else a)
  else if b.lt a then (if largest then a else b)
  else if a.sign = b.sign then a
  else if a.sign = largest then b else a

/-! ## Formats -/

/-- A binary float layout: exponent bits, fraction bits, bias (02 Table 2.3, R67). -/
structure FloatFmt where
  ebits : Nat
  fbits : Nat
  bias : Nat
deriving DecidableEq, Repr

def ffF4E2 : FloatFmt := { ebits := 2, fbits := 1, bias := 1 }
def ffF6E3 : FloatFmt := { ebits := 3, fbits := 2, bias := 3 }
def ffF8E4 : FloatFmt := { ebits := 4, fbits := 3, bias := 7 }
def ffF8E5 : FloatFmt := { ebits := 5, fbits := 2, bias := 15 }
def ffBF16 : FloatFmt := { ebits := 8, fbits := 7, bias := 127 }
def ffFP16 : FloatFmt := { ebits := 5, fbits := 10, bias := 15 }
def ffFP32 : FloatFmt := { ebits := 8, fbits := 23, bias := 127 }
def ffFP64 : FloatFmt := { ebits := 11, fbits := 52, bias := 1023 }

def FloatFmt.width (f : FloatFmt) : Nat := 1 + f.ebits + f.fbits
def FloatFmt.top (f : FloatFmt) : Nat := 2 ^ f.ebits - 1
/-- Exponent of the top normal binade. -/
def FloatFmt.emax (f : FloatFmt) : Int := (f.top : Int) - 1 - f.bias
/-- Exponent of the smallest normal. -/
def FloatFmt.emin (f : FloatFmt) : Int := 1 - (f.bias : Int)
/-- Code of +infinity (02 Table 2.4). -/
def FloatFmt.infCode (f : FloatFmt) : Nat := f.top * 2 ^ f.fbits
/-- Canonical NaN (02 Tables 2.4 and 2.8): all fraction bits set in the narrow formats, the leading one in the wider. -/
def FloatFmt.nanCode (f : FloatFmt) : Nat :=
  f.infCode + (if f.width ≤ 8 then 2 ^ f.fbits - 1 else 2 ^ (f.fbits - 1))
def FloatFmt.signCode (f : FloatFmt) (neg : Bool) : Nat := if neg then 2 ^ (f.ebits + f.fbits) else 0

/-- The kind of elements a valid type byte names (02 Table 2.2). -/
inductive Kind where
  | float (f : FloatFmt)
  | scaled (f : FloatFmt)
  | int (w : Nat) (sgn : Bool)
deriving DecidableEq, Repr

/-- Type byte to kind; none for a type byte that is invalid under R53. -/
def typeKind (t : Nat) : Option Kind :=
  if t ≥ 0x40 then none
  else match t with
  | 0x01 => some (.float ffF4E2) | 0x02 => some (.float ffF6E3)
  | 0x03 => some (.float ffF8E4) | 0x04 => some (.float ffF8E5)
  | 0x05 => some (.scaled ffF4E2) | 0x06 => some (.scaled ffF6E3)
  | 0x07 => some (.scaled ffF8E4) | 0x08 => some (.scaled ffF8E5)
  | 0x09 => some (.float ffBF16) | 0x0A => some (.float ffFP16)
  | 0x0B => some (.float ffFP32) | 0x0C => some (.float ffFP64)
  | 0x10 => some (.int 4 false) | 0x11 => some (.int 8 false)
  | 0x12 => some (.int 16 false) | 0x13 => some (.int 32 false)
  | 0x30 => some (.int 4 true) | 0x31 => some (.int 8 true)
  | 0x32 => some (.int 16 true) | 0x33 => some (.int 32 true)
  | _ => none

def typeValid (t : Nat) : Bool := (typeKind t).isSome

/-- Bits of one element. -/
def Kind.bits : Kind → Nat
  | .float f => f.width
  | .scaled f => f.width
  | .int w _ => w

def Kind.isInt : Kind → Bool
  | .int _ _ => true
  | _ => false

def Kind.isScaled : Kind → Bool
  | .scaled _ => true
  | _ => false

def typeBits (t : Nat) : Nat := match typeKind t with | some k => k.bits | none => 8
def typeIsInt (t : Nat) : Bool := match typeKind t with | some k => k.isInt | none => false
def typeIsScaled (t : Nat) : Bool := match typeKind t with | some k => k.isScaled | none => false

/-- Elements that a byte group or a scale block holds: the multiple of R58. -/
def typeGroup (t : Nat) : Nat :=
  if typeIsScaled t then 32 else if typeBits t = 4 then 2 else if typeBits t = 6 then 4 else 1

/-- Bytes of `n` elements without scales (02 R57). -/
def elemBytes (t n : Nat) : Nat := (n * typeBits t + 7) / 8

/-- Bytes of `n` elements with their scale bytes (05 R169). -/
def tensorBytes (t n : Nat) : Nat := elemBytes t n + (if typeIsScaled t then ceilDiv n 32 else 0)

/-! ## Decoding -/

/-- 02 R54, R67. -/
def decodeFloat (f : FloatFmt) (code : Nat) : Num :=
  let frac := code % 2 ^ f.fbits
  let ex := code / 2 ^ f.fbits % 2 ^ f.ebits
  let neg := bit code (f.ebits + f.fbits)
  if ex = f.top then (if frac = 0 then .inf neg else .nan)
  else if ex = 0 then .fin neg frac (f.emin - f.fbits)
  else .fin neg (2 ^ f.fbits + frac) ((ex : Int) - f.bias - f.fbits)

/-- 02 R60 to R62: an element under its block's scale byte. -/
def decodeScaled (f : FloatFmt) (q code : Nat) : Num :=
  if q = 0xFF then .nan else (decodeFloat f code).scale ((q : Int) - 127)

/-- 02 R70. -/
def decodeInt (w : Nat) (sgn : Bool) (code : Nat) : Num :=
  Num.ofInt (if sgn then signed w (code % 2 ^ w) else ((code % 2 ^ w : Nat) : Int))

def decodeKind : Kind → Nat → Nat → Num
  | .float f, _, c => decodeFloat f c
  | .scaled f, q, c => decodeScaled f q c
  | .int w s, _, c => decodeInt w s c

/-- ND5 mode: a subnormal FP32 or FP64 value reads as zero of its sign (02 R73). -/
def nd5Flush (f : FloatFmt) (x : Num) : Num :=
  match x with
  | .fin n m _ =>
    if m ≠ 0 ∧ (f = ffFP32 ∨ f = ffFP64) ∧ x.log2 < f.emin then .fin n 0 0 else x
  | _ => x

def decodeNd5 (nd5 : Bool) (k : Kind) (q c : Nat) : Num :=
  match k with
  | .float f => if nd5 then nd5Flush f (decodeFloat f c) else decodeFloat f c
  | _ => decodeKind k q c

/-! ## Rounding -/

/-- Rounding directions (07 Table 7.4). -/
inductive Dir where
  | away | even | up | down | zero
deriving DecidableEq, Repr

def dirOf : Nat → Option Dir
  | 0 => some .away
  | 1 => some .even
  | 2 => some .up
  | 3 => some .down
  | 4 => some .zero
  | _ => none

/-- Whether the magnitude n + r/2^d (plus less than one unit of r when `st`) rounds up to n + 1. -/
def roundsUp (dir : Dir) (neg : Bool) (n r d : Nat) (st : Bool) : Bool :=
  match dir with
  | .away => decide (2 * r ≥ 2 ^ d) && decide (d > 0)
  | .even => (decide (2 * r > 2 ^ d) || (decide (2 * r = 2 ^ d) && (st || n % 2 == 1))) && decide (d > 0)
  | .up => !neg && (r != 0 || st)
  | .down => neg && (r != 0 || st)
  | .zero => false

/-- Rounds m × 2^e (plus a part below one unit when `st`) to a whole number of 2^q. -/
def roundAt (dir : Dir) (neg : Bool) (m : Nat) (e q : Int) (st : Bool) : Nat :=
  if q ≤ e then m * 2 ^ (e - q).toNat
  else
    let d := (q - e).toNat
    let n := m / 2 ^ d
    if roundsUp dir neg n (m % 2 ^ d) d st then n + 1 else n

/-- Events of 02 Table 2.9. -/
inductive Ev where
  | none | overflow | nan | subnormal | rtz
deriving DecidableEq, Repr

/-- A converted element: its code, the value it holds, its event. -/
structure Conv where
  code : Nat
  val : Num
  ev : Ev
deriving DecidableEq, Repr

/-- One rounding of a finite nonzero value to a float format (02 R69, R75, R77). The part `st` lies below one unit of
m × 2^e; a caller that sets it gives m more than fbits + 2 bits. -/
def roundFin (f : FloatFmt) (dir : Dir) (neg : Bool) (m : Nat) (e : Int) (st : Bool) : Conv :=
  let lead : Int := (floorLog2 m : Int) + e
  let q := max lead f.emin - (f.fbits : Int)
  let n := roundAt dir neg m e q st
  let mant := n
  if lead > f.emax ∨ ((mant : Nat) = 2 ^ (f.fbits + 1) ∧ lead = f.emax) then
    let toInf := match dir with
      | .away => true | .even => true | .up => !neg | .down => neg | .zero => false
    if toInf then { code := f.signCode neg + f.infCode, val := .inf neg, ev := .overflow }
    else { code := f.signCode neg + (f.infCode - 1),
           val := .fin neg (2 ^ (f.fbits + 1) - 1) (f.emax - f.fbits), ev := .none }
  else
    let code := ((q + f.fbits + f.bias - 1).toNat) * 2 ^ f.fbits + n
    { code := f.signCode neg + code, val := .fin neg n q,
      ev := if n = 0 then .rtz else if n < 2 ^ f.fbits then .subnormal else .none }

/-- One rounding of any value to a float format (02 R80). -/
def roundFloat (f : FloatFmt) (dir : Dir) (x : Num) : Conv :=
  match x with
  | .nan => { code := f.nanCode, val := .nan, ev := .nan }
  | .inf n => { code := f.signCode n + f.infCode, val := x, ev := .none }
  | .fin n m e => if m = 0 then { code := f.signCode n, val := .fin n 0 0, ev := .none } else roundFin f dir n m e false

/-- Range of an integer format (02 R70). -/
def intMin (w : Nat) (sgn : Bool) : Int := if sgn then -(2 ^ (w - 1) : Int) else 0
def intMax (w : Nat) (sgn : Bool) : Int := if sgn then 2 ^ (w - 1) - 1 else 2 ^ w - 1

/-- One rounding to an integer, then saturation (02 R79, R80, Table 2.12). -/
def roundInt (w : Nat) (sgn : Bool) (dir : Dir) (x : Num) : Conv :=
  let lo := intMin w sgn
  let hi := intMax w sgn
  let out (i : Int) (ev : Ev) : Conv := { code := unsigned w i, val := Num.ofInt i, ev := ev }
  match x with
  | .nan => out 0 .nan
  | .inf n => out (if n then lo else hi) .overflow
  | .fin n m e =>
    if m = 0 then out 0 .none
    else
      let r : Int := roundAt dir n m e 0 false
      let v := if n then -r else r
      if v < lo then out lo .overflow
      else if v > hi then out hi .overflow
      else out v (if v = 0 then .rtz else .none)

/-- The ND5 flush of an FP32 or FP64 output after rounding (02 R73): it counts as subnormal. -/
def nd5Out (f : FloatFmt) (c : Conv) : Conv :=
  if (f = ffFP32 ∨ f = ffFP64) ∧ c.ev = .subnormal then
    { code := f.signCode c.val.sign, val := .fin c.val.sign 0 0, ev := .subnormal }
  else c

/-- Conversion of one value to a kind that is not block-scaled; to a scaled kind, of the value divided by its block's
scale (02 R63, R75). -/
def convElem (nd5 : Bool) (dir : Dir) (k : Kind) (x : Num) : Conv :=
  match k with
  | .float f => if nd5 then nd5Out f (roundFloat f dir x) else roundFloat f dir x
  | .scaled f => roundFloat f dir x
  | .int w s => roundInt w s dir x

/-- The largest finite magnitude of a block, none when no element is finite and nonzero. -/
def blockMax : List Num → Option Num
  | [] => none
  | x :: r =>
    let rest := blockMax r
    if x.isFinNz then
      match rest with
      | some y => if y.lt x.abs then some x.abs else some y
      | none => some x.abs
    else rest

/-- 02 R63. -/
def chooseScale (f : FloatFmt) (dir : Dir) (xs : List Num) : Nat :=
  match blockMax xs with
  | none => 0x7F
  | some a =>
    let e := a.log2 - f.emax
    let e := if (roundFloat f dir (a.scale (-e))).val.isInf then e + 1 else e
    (max (-127) (min 127 e) + 127).toNat

/-- A block converted to a scaled format: scale byte and elements; `nanBlock` says that the source block has scale
0xFF (02 R64). -/
def convBlock (f : FloatFmt) (dir : Dir) (nanBlock : Bool) (xs : List Num) : Nat × List Conv :=
  if nanBlock then (0xFF, xs.map (fun _ => { code := f.nanCode, val := .nan, ev := .nan }))
  else
    let q := chooseScale f dir xs
    (q, xs.map (fun x =>
      let c := roundFloat f dir (x.scale (127 - (q : Int)))
      { c with val := c.val.scale ((q : Int) - 127) }))

/-- An element copied between equal type bytes, under scale byte `q`: its code as it stands, and the event that 02 Table 2.9
gives for its value (02 R65). A signalling NaN is copied as it stands too, though 02 R68 says that the device delivers none: the
model's choice (DESIGN CHOICE, notes/assumptions/119.md). -/
def copiedConv (k : Kind) (q code : Nat) : Conv :=
  let v := decodeKind k q code
  let ev := match k with
    | .int _ _ => Ev.none
    | .float f => (roundFloat f .away (decodeFloat f code)).ev
    | .scaled f => if v.isNan then .nan else (roundFloat f .away (decodeFloat f code)).ev
  { code := code, val := v, ev := ev }

/-! ## Packing (02 R57) -/

/-- The code of element `i` of an array of elements of `w` bits, whose bytes `rd` reads from its first. -/
def codeAt (rd : Nat → Byte) (w i : Nat) : Nat :=
  let start := i * w / 8
  let n := (i * w + w + 7) / 8 - start
  ofBytes ((List.range n).map (fun j => rd (start + j))) / 2 ^ (i * w % 8) % 2 ^ w

/-- Little-endian bit string of codes of `w` bits. -/
def packNat (w : Nat) : List Nat → Nat
  | [] => 0
  | c :: r => c % 2 ^ w + 2 ^ w * packNat w r

/-- Packs in groups of 8 elements, which fill whole bytes in every width. -/
def packCodes (w : Nat) : Nat → List Nat → List Byte
  | 0, _ => []
  | fuel + 1, cs =>
    if cs.isEmpty then []
    else
      let g := cs.take 8
      toBytes ((g.length * w + 7) / 8) (packNat w g) ++ packCodes w fuel (cs.drop 8)

def packElems (w : Nat) (cs : List Nat) : List Byte := packCodes w cs.length cs

/-! ## Statistics (05 R141, R142) -/

def statsZero : Stats :=
  { elements := 0, ovf := 0, inf := 0, nan := 0, subn := 0, rtz := 0, inexact := 0, zero := 0, hist := [],
    amax := none }

/-- Bin of an exponent under a histogram top. -/
def histBin (histTop ev : Int) : Nat := min 31 (histTop - 1 - ev).toNat

/-- Exponent and the 16 fraction bits below the leading bit, truncated (05 Table 5.1 AMAX_EXP, AMAX_SIG). -/
def amaxOf (x : Num) : Option (Int × Nat) :=
  match x with
  | .fin _ m _ =>
    if m = 0 then none
    else
      let l := floorLog2 m
      some (x.log2, (if l ≥ 16 then m / 2 ^ (l - 16) else m * 2 ^ (16 - l)) % 2 ^ 16)
  | _ => none

def amaxMax (a b : Option (Int × Nat)) : Option (Int × Nat) :=
  match a, b with
  | none, y => y
  | x, none => x
  | some x, some y => if x.1 < y.1 ∨ (x.1 = y.1 ∧ x.2 < y.2) then some y else some x

/-- An element that the Proof unit sees: its exact value v, the event, whether the result is infinite, and whether the
window was inexact (03 R109). -/
structure Seen where
  v : Num
  ev : Ev
  inf : Bool
  inexact : Bool
deriving DecidableEq, Repr

/-- Counts one element (05 R142). -/
def Stats.count (histTop : Int) (st : Stats) (x : Seen) : Stats :=
  let inc (b : Bool) (n : Nat) : Nat := if b then n + 1 else n
  { elements := st.elements + 1
    ovf := inc (x.ev == .overflow) st.ovf
    nan := inc (x.ev == .nan) st.nan
    subn := inc (x.ev == .subnormal) st.subn
    rtz := inc (x.ev == .rtz) st.rtz
    inf := inc (x.ev == .none && x.inf) st.inf
    zero := inc (x.ev == .none && !x.inf && x.v.isZero) st.zero
    inexact := inc x.inexact st.inexact
    hist := if x.v.isFinNz then mapUpd st.hist 0 (histBin histTop x.v.log2) (· + 1) else st.hist
    amax := amaxMax st.amax (amaxOf x.v) }

/-- Merging of two counts (05 R143). -/
def Stats.merge (a b : Stats) : Stats :=
  { elements := a.elements + b.elements, ovf := a.ovf + b.ovf, inf := a.inf + b.inf, nan := a.nan + b.nan,
    subn := a.subn + b.subn, rtz := a.rtz + b.rtz, inexact := a.inexact + b.inexact, zero := a.zero + b.zero,
    hist := b.hist.foldl (fun h kv => mapUpd h 0 kv.1 (· + kv.2)) a.hist, amax := amaxMax a.amax b.amax }

end Sys2Proof.Machine
end

