-- ==== Sys2Proof/Machine/Press.lean ====
section
/-! DEFINITION. Press arithmetic (03) and the sliced products (04): windows, terms, the output stage, operand pairs, and
tiles in local store (06 R200). Everything here is a function of values; the tile operations that use it stand in
Machine/Tiles.lean and Machine/PressOps.lean. -/

namespace Sys2Proof.Machine

open Sys2Proof

/-! ## Windows -/

/-- Width of a window by WIN (06 Table 6.7). -/
def winBits (win : Nat) : Int := if win = 2 then 192 else if win = 3 then 256 else 128

def winIsFloat (win : Nat) : Bool := win != 0

/-- A window as TILE_OPEN leaves it (03 "The anchored window"). -/
def Window.opened (win : Nat) : Window :=
  { w := 0, anchor := if winIsFloat win then none else some 0, sticky := false, nan := false, pinf := false,
    ninf := false, negzero := true }

/-- The rise of the anchor before a term of top exponent T is added (03 R95, R97). -/
def Window.raise (win : Nat) (T : Int) (x : Window) : Window :=
  if winIsFloat win then
    let r := T - (winBits win - 21)
    match x.anchor with
    | none => { x with anchor := some r }
    | some a =>
      if r > a then
        let k := (r - a).toNat
        { x with w := x.w.tdiv (2 ^ k), anchor := some r, sticky := x.sticky || x.w.natAbs % 2 ^ k != 0 }
      else x
  else x

/-- The term as a whole number of 2^a, truncated toward zero, and whether bits were lost (03 R95). -/
def termAt (a : Int) (neg : Bool) (m : Nat) (e : Int) : Int × Bool :=
  if a ≤ e then
    let v : Int := m * 2 ^ (e - a).toNat
    (if neg then -v else v, false)
  else
    let k := (a - e).toNat
    let v : Int := (m / 2 ^ k : Nat)
    (if neg then -v else v, m % 2 ^ k != 0)

/-- add_term of 03: adds the exact value p, whose top exponent is T, to a window. -/
def Window.addTerm (win : Nat) (x : Window) (p : Num) (T : Int) : Window :=
  match p with
  | .nan => { x with nan := true }
  | .inf false => { x with pinf := true }
  | .inf true => { x with ninf := true }
  | .fin n m e =>
    let x := if n && m == 0 then x else { x with negzero := false }
    if m = 0 then x
    else
      let x := x.raise win T
      let t := termAt (x.anchor.getD 0) n m e
      { x with w := x.w + t.1, sticky := x.sticky || t.2 }

/-- The exact value a window holds (03 R81, R104, R111, 05 R141). -/
def Window.value (x : Window) : Num :=
  if x.nan || (x.pinf && x.ninf) then .nan
  else if x.pinf then .inf false
  else if x.ninf then .inf true
  else if x.w = 0 then .fin x.negzero 0 0
  else .fin (decide (x.w < 0)) x.w.natAbs (x.anchor.getD 0)

/-- Window-inexact is reported of a finite window whose sticky bit is set (03 R109). -/
def Window.inexact (x : Window) : Bool := x.sticky && !x.value.isNan && !x.value.isInf

/-! ## Operands -/

/-- Window that Table 3.1 and R90 give for an operand pair, and the K indices per clock. -/
def pairWindow (ta tb : Nat) : Option (Nat × Nat) :=
  match typeKind ta, typeKind tb with
  | some ka, some kb =>
    match ka, kb with
    | .int wa _, .int wb _ =>
      if wa = 4 ∧ wb = 4 then some (0, 8) else if wa ≤ 8 ∧ wb ≤ 8 then some (0, 4) else none
    | .int _ _, _ => none
    | _, .int _ _ => none
    | _, _ =>
      if ka.bits ≤ 8 ∧ kb.bits ≤ 8 then some (1, if ka.bits = 4 ∧ kb.bits = 4 then 8 else 4)
      else if ka.bits = 16 ∧ kb.bits = 16 then some (2, 2)
      else none
  | _, _ => none

/-- A decoded operand element and its share of the top exponent T of a product (03 R94, Table 3.2). -/
structure Operand where
  val : Num
  top : Int
deriving DecidableEq, Repr

def operandOf (k : Kind) (q code : Nat) (u : Int) : Operand :=
  match k with
  | .int _ _ => { val := decodeKind k q code, top := 0 }
  | .scaled f => { val := (decodeScaled f q code).scale u, top := f.emax + 1 + ((q : Int) - 127) + u }
  | .float f =>
    let v := decodeFloat f code
    if f.width ≤ 8 then { val := v.scale u, top := f.emax + 1 + u }
    else { val := v.scale u, top := v.log2 + 1 + u }

/-- A product of two elements; integer operands have no −0 (03 R105). -/
def termProduct (win : Nat) (a b : Num) : Num :=
  match a.mul b with
  | .fin n m e => .fin (n && (winIsFloat win || m != 0)) m e
  | p => p

/-- The sum over K of one window: elements of a row of A with those of a column of B, in the order in which they arrive. -/
def Window.mma (win : Nat) : Window → List (Operand × Operand) → Window
  | x, ab :: r => Window.mma win (x.addTerm win (termProduct win ab.1.val ab.2.val) (ab.1.top + ab.2.top)) r
  | x, [] => x

/-- A seed: one term with T just above its value (03 R89, R94); under the ND5 mode R106. -/
def Window.seed (win : Nat) (x : Window) (v : Num) : Window := x.addTerm win v (v.log2 + 1)

/-! ## Sliced operands (04) -/

/-- A sliced element: class code and its slices, slice 1 first, as values (04 R120, Table 4.1). -/
structure Sliced where
  cls : Nat
  slices : List Int
deriving DecidableEq, Repr

/-- What a sliced element is in a product with a zero, an infinity or a NaN (04 R130). -/
def Sliced.special (x : Sliced) : Num :=
  let neg := decide (x.slices.headD 0 < 0)
  if x.cls = 3 then .nan
  else if x.cls = 2 then .inf neg
  else if x.cls = 1 then .fin neg 0 0
  else .fin neg 1 0

/-- The kept slice pairs (i, j), i + j ≤ s + 1, in the order of their passes (04 R125). -/
def slicePairs (s : Nat) : List (Nat × Nat) :=
  (List.range s).flatMap (fun d => (List.range (d + 1)).map (fun i => (i + 1, d + 1 - i)))

/-- The terms of one K index: slice products at 2^(ebase + 8(2s − i − j)), or the special term (04 R128, R130). -/
def Window.slicedTerm (s : Nat) (ebase T : Int) (x : Window) (a b : Sliced) : Window :=
  if a.cls = 0 ∧ b.cls = 0 then
    (slicePairs s).foldl (fun x ij =>
      let p := a.slices.getD (ij.1 - 1) 0 * b.slices.getD (ij.2 - 1) 0
      x.addTerm 3 (.fin (decide (p < 0)) p.natAbs (ebase + 8 * (2 * (s : Int) - ij.1 - ij.2))) T) x
  else x.addTerm 3 (a.special.mul b.special) T

def Window.slicedSum (s : Nat) (ebase T : Int) : Window → List Sliced → List Sliced → Window
  | x, a :: as, b :: bs => Window.slicedSum s ebase T (x.slicedTerm s ebase T a b) as bs
  | x, _, _ => x

/-- The aligned integer X of 04 R120, truncated toward zero; a value that is not finite and nonzero has none. -/
def alignedInt (s : Nat) (E : Int) (x : Num) : Int :=
  match x with
  | .fin n m e => (termAt (E - (8 * (s : Int) - 2)) n m e).1
  | _ => 0

/-! ## Tiles in local store (06 R200) -/

/-- Place of an element in tile order. -/
def tilePos (rows r c : Nat) : Nat := (c / 32) * rows * 32 + r * 32 + c % 32

/-- Bytes of a tile of `rows` × `cols`. -/
def tileBytes (t rows cols : Nat) : Nat := tensorBytes t (rows * cols)

/-- Code of the element at a tile position. -/
def tileCode (rd : Nat → Byte) (base w pos : Nat) : Nat := codeAt (fun i => rd (base + i)) w pos

/-- Scale byte of block `b` of row `r`. -/
def tileScale (rd : Nat → Byte) (base t rows cols b r : Nat) : Nat :=
  (rd (base + elemBytes t (rows * cols) + b * rows + r)).toNat

/-- The element at (r, c) as an operand of the Press. -/
def tileOperand (rd : Nat → Byte) (base t : Nat) (k : Kind) (u : Int) (rows cols r c : Nat) : Operand :=
  let q := if k.isScaled then tileScale rd base t rows cols (c / 32) r else 0x7F
  operandOf k q (tileCode rd base k.bits (tilePos rows r c)) u

/-- The exact value of the element at (r, c), times 2^u (07 R234). -/
def tileVal (nd5 : Bool) (rd : Nat → Byte) (base t : Nat) (k : Kind) (u : Int) (rows cols r c : Nat) : Num :=
  let q := if k.isScaled then tileScale rd base t rows cols (c / 32) r else 0x7F
  (decodeNd5 nd5 k q (tileCode rd base k.bits (tilePos rows r c))).scale u

/-- One block of 32 results rounded to a target: its scale, if it has one, and its elements (02 R63, 03 R108). -/
def convRow (nd5 : Bool) (dir : Dir) (k : Kind) (nanBlock : Bool) (xs : List Num) : Nat × List Conv :=
  match k with
  | .scaled f => convBlock f dir nanBlock xs
  | _ => (0, xs.map (convElem nd5 dir k))

/-- The bytes of a tile whose blocks of 32, in tile order, have these scales and elements. -/
def tilePack (k : Kind) (blocks : List (Nat × List Conv)) : List Byte :=
  packElems k.bits (blocks.flatMap (fun b => b.2.map (·.code))) ++
    (if k.isScaled then blocks.map (fun b => BitVec.ofNat 8 b.1) else [])

end Sys2Proof.Machine
end

