-- ==== Sys2Proof/Machine/BrayerArith.lean ====
section
/-! DEFINITION. The values the Brayer computes (07): its steps, roots and transcendental functions, reductions in their
fixed order, and the fused update of one weight (05 R173 to R175, 07 Table 7.6). -/

namespace Sys2Proof.Machine

open Sys2Proof

/-! ## Quotients and roots -/

/-- Rounds a magnitude given with at least fbits + 4 bits and a sticky part. -/
def roundSticky (f : FloatFmt) (dir : Dir) (neg : Bool) (m : Nat) (e : Int) (st : Bool) : Conv :=
  if m = 0 then { code := f.signCode neg, val := .fin neg 0 0, ev := .none } else roundFin f dir neg m e st

/-- a / b rounded once (07 Table 7.3 DIV, IEEE 754 specials). -/
def divFloat (f : FloatFmt) (dir : Dir) (a b : Num) : Conv :=
  let exact (x : Num) : Conv := roundFloat f dir x
  match a, b with
  | .nan, _ => exact .nan
  | _, .nan => exact .nan
  | .inf _, .inf _ => exact .nan
  | .inf n, .fin n2 _ _ => exact (.inf (n != n2))
  | .fin n _ _, .inf n2 => exact (.fin (n != n2) 0 0)
  | .fin n1 m1 e1, .fin n2 m2 e2 =>
    if m2 = 0 then (if m1 = 0 then exact .nan else exact (.inf (n1 != n2)))
    else if m1 = 0 then exact (.fin (n1 != n2) 0 0)
    else
      let s := f.fbits + 4 + floorLog2 m2
      let num := m1 * 2 ^ s
      roundSticky f dir (n1 != n2) (num / m2) (e1 - e2 - s) (num % m2 != 0)

/-- Integer square root by bits from the top. -/
def isqrtFrom : Nat → Nat → Nat → Nat
  | 0, _, r => r
  | k + 1, n, r =>
    let c := r + 2 ^ k
    isqrtFrom k n (if c * c ≤ n then c else r)

def isqrt (n : Nat) : Nat := isqrtFrom (floorLog2 n / 2 + 1) n 0

/-- √a rounded once. -/
def sqrtFloat (f : FloatFmt) (dir : Dir) (a : Num) : Conv :=
  match a with
  | .nan => roundFloat f dir .nan
  | .inf n => roundFloat f dir (if n then .nan else .inf false)
  | .fin n m e =>
    if m = 0 then roundFloat f dir a
    else if n then roundFloat f dir .nan
    else
      let s := 2 * (f.fbits + 4)
      let s := if (e - s) % 2 = 0 then s else s + 1
      let big := m * 2 ^ s
      let r := isqrt big
      roundSticky f dir false r ((e - s) / 2) (r * r != big)

/-- 1 / √a rounded once; of zero it is the infinity of the zero's sign. -/
def rsqrtFloat (f : FloatFmt) (dir : Dir) (a : Num) : Conv :=
  match a with
  | .nan => roundFloat f dir .nan
  | .inf n => roundFloat f dir (if n then .nan else .fin false 0 0)
  | .fin n m e =>
    if m = 0 then roundFloat f dir (.inf n)
    else if n then roundFloat f dir .nan
    else
      -- 1/√(m 2^e) = √(2^(2k + odd) / m) × 2^(−(k + …)), with 2^(2k) large against m
      let odd : Nat := if e % 2 = 0 then 0 else 1
      let k := f.fbits + 4 + floorLog2 m
      let num := 2 ^ (2 * k + odd)
      let q := num / m
      let r := isqrt q
      roundSticky f dir false r (-((e + odd) / 2) - k) (r * r * m != num)

/-! ## Transcendental steps (07 R237) -/

/-- Fixed-point places in which the brackets are computed; far more than any WF value needs. -/
def fxBits : Nat := 400

/-- Slack of the fixed-point evaluation, in units of the last place. -/
def fxSlack : Nat := 2 ^ 40

/-- Σ z^(2k+1) / (2k+1) in fixed point, from term `k` on, `n` terms. -/
def fxAtanh (z2 : Nat) : Nat → Nat → Nat → Nat
  | 0, _, _ => 0
  | n + 1, k, p => p / (2 * k + 1) + fxAtanh z2 n (k + 1) (p * z2 / 2 ^ fxBits)

/-- Natural logarithm of y = num/den in [1, 2), in fixed point. -/
def fxLn (num den : Nat) : Nat :=
  let z := (num - den) * 2 ^ fxBits / (num + den)
  2 * fxAtanh (z * z / 2 ^ fxBits) 140 0 z

def fxLn2 : Nat := fxLn 2 1

/-- e^r for r in [0, 1) in fixed point. -/
def fxExp (r : Nat) : Nat → Nat → Nat → Nat
  | 0, _, _ => 0
  | n + 1, k, t => t + fxExp r n (k + 1) (t * r / 2 ^ fxBits / (k + 1))

def fxExp1 (r : Nat) : Nat := fxExp r 100 0 (2 ^ fxBits)

/-- A finite value in fixed point, truncated toward minus infinity. -/
def fxOf (n : Bool) (m : Nat) (e : Int) : Int := (Num.fin n m e).toIntAt (min e (-(fxBits : Int))) /
  2 ^ (-(fxBits : Int) - min e (-(fxBits : Int))).toNat

/-- The two WF magnitudes that bracket m × 2^e plus a part below one unit: the lower one's code, and whether it is the
value itself. -/
def bracketCode (f : FloatFmt) (m : Nat) (e : Int) : Nat :=
  (roundSticky f .zero false m e true).code

/-- Drops the factors of two of a significand, so that equal values have one form. -/
def oddForm : Nat → Nat → Int → Nat × Int
  | 0, m, e => (m, e)
  | k + 1, m, e => if m % 2 = 0 ∧ m ≠ 0 then oddForm k (m / 2) (e + 1) else (m, e)

/-- Which bracket `Config.faithfulUp` names for this operand. -/
def faithfulChoice (op wf : Nat) (n : Bool) (m : Nat) (e : Int) : Bool :=
  let o := oddForm (floorLog2 m + 1) m e
  Config.faithfulUp op wf n o.1 o.2

/-- The bracketing value chosen, of the sign given; an infinity it rounds to is an overflow (07 R243). -/
def faithful (f : FloatFmt) (up neg : Bool) (m : Nat) (e : Int) : Conv :=
  let c := bracketCode f m e + (if up then 1 else 0)
  let v := decodeFloat f c
  { code := f.signCode neg + c, val := if neg then v.neg else v,
    ev := if v.isInf then .overflow else .none }

/-- 2^k when k + f is the exponent, f in fixed point in [0, 1): the exact value lies in a bracket below it. -/
def exp2Bracket (k : Int) (frac : Nat) : Nat × Int :=
  let t := fxExp1 (frac * fxLn2 / 2 ^ fxBits)
  (t - fxSlack, k - fxBits)

/-- A magnitude just below one. -/
def belowOne : Nat × Int := (2 ^ fxBits - 1, -(fxBits : Int))

/-- EXP2, EXP: e^(a ln 2) or e^a of a finite nonzero a, where the result is not exact. -/
def expBracket (base2 : Bool) (n : Bool) (m : Nat) (e : Int) : Nat × Int :=
  let lead := (Num.fin n m e).log2
  if lead ≥ 14 then (if n then (1, -20000) else (1, 20000))
  else if lead ≤ -100 then (if n then belowOne else (1, 0))
  else
    let a := fxOf n m e
    let x := if base2 then a else a * 2 ^ fxBits / fxLn2
    let k := x / 2 ^ fxBits
    exp2Bracket k (x - k * 2 ^ fxBits).toNat

/-- TANH of a finite nonzero magnitude. -/
def tanhBracket (m : Nat) (e : Int) : Nat × Int :=
  let lead := (Num.fin false m e).log2
  if lead ≤ -100 then (m * 2 ^ fxBits - 1, e - fxBits)
  else if lead ≥ 9 then belowOne
  else
    -- tanh x = (1 − 2^(−y)) / (1 + 2^(−y)), y = 2x / ln 2
    let y := 2 * (fxOf false m e).toNat * 2 ^ fxBits / fxLn2
    let k := y / 2 ^ fxBits
    let fr := y % 2 ^ fxBits
    let t := fxExp1 ((2 ^ fxBits - fr) * fxLn2 / 2 ^ fxBits) / 2 ^ (k + 1)
    ((2 ^ fxBits - t) * 2 ^ fxBits / (2 ^ fxBits + t) - fxSlack, -(fxBits : Int))

/-- log2 of a finite positive value that is no power of two, in fixed point. -/
def fxLog2 (m : Nat) (e : Int) : Int :=
  let l := floorLog2 m
  (l + e) * 2 ^ fxBits + (fxLn m (2 ^ l) * 2 ^ fxBits / fxLn2 : Nat)

/-- Operation codes of the transcendental steps (07 Table 7.3). -/
def transFloat (op wf : Nat) (f : FloatFmt) (a : Num) : Conv :=
  let exact (x : Num) : Conv := roundFloat f .away x
  match a with
  | .nan => exact .nan
  | .inf n =>
    if op = 0x11 then exact (if n then .nan else .inf false)
    else if op = 0x13 then exact (.fin n 1 0)
    else exact (if n then .fin false 0 0 else .inf false)
  | .fin n m e =>
    if op = 0x11 then
      if m = 0 then exact (.inf true)
      else if n then exact .nan
      else if m = 2 ^ floorLog2 m then exact (Num.ofInt (floorLog2 m + e))
      else
        let v := fxLog2 m e
        faithful f (faithfulChoice op wf n m e) (decide (v < 0)) (v.natAbs - fxSlack) (-(fxBits : Int))
    else if op = 0x13 then
      if m = 0 then exact a
      else
        let b := tanhBracket m e
        faithful f (faithfulChoice op wf n m e) n b.1 b.2
    else if m = 0 then exact (.fin false 1 0)
    else
      let o := oddForm (floorLog2 m + 1) m e
      let k : Int := if n then -(o.1 * 2 ^ o.2.toNat : Nat) else (o.1 * 2 ^ o.2.toNat : Nat)
      if op = 0x10 ∧ o.2 ≥ 0 ∧ f.emin - f.fbits ≤ k ∧ k ≤ f.emax then exact (.fin false 1 k)
      else
        let b := expBracket (op = 0x10) n m e
        faithful f (faithfulChoice op wf n m e) false b.1 b.2

/-! ## Steps (07 Table 7.3) -/

/-- Working formats (07 Table 7.1 WF). -/
inductive WorkFmt where
  | fp32 | fp64 | int32
deriving DecidableEq, Repr

def wfOf : Nat → Option WorkFmt
  | 0 => some .fp32
  | 1 => some .fp64
  | 2 => some .int32
  | _ => none

def WorkFmt.float : WorkFmt → FloatFmt
  | .fp64 => ffFP64
  | _ => ffFP32

def WorkFmt.isInt : WorkFmt → Bool
  | .int32 => true
  | _ => false

/-- Operands an operation uses, and whether it is allowed for a working format; none when undefined. -/
def opArity (op : Nat) (isInt : Bool) : Option Nat :=
  match op with
  | 0x01 => some 1 | 0x02 => some 2 | 0x03 => some 2 | 0x04 => some 2 | 0x05 => some 3 | 0x06 => some 2
  | 0x09 => some 2 | 0x0A => some 2 | 0x0B => some 1 | 0x0C => some 1 | 0x0D => some 3 | 0x0E => some 2
  | 0x0F => some 2
  | 0x07 => if isInt then none else some 1
  | 0x08 => if isInt then none else some 1
  | 0x10 => if isInt then none else some 1
  | 0x11 => if isInt then none else some 1
  | 0x12 => if isInt then none else some 1
  | 0x13 => if isInt then none else some 1
  | 0x20 => if isInt then some 2 else none
  | 0x21 => if isInt then some 2 else none
  | 0x22 => if isInt then some 2 else none
  | 0x23 => if isInt then some 2 else none
  | 0x24 => if isInt then some 2 else none
  | _ => none

/-- The steps that take a quarter of the lane rate (07 Table 7.7). -/
def opSlow (op : Nat) : Bool := op = 0x06 || op = 0x07 || op = 0x08 || (op ≥ 0x10 && op ≤ 0x13)

/-- A step's result and whether its rounding overflowed or it saturated (07 R243). -/
structure StepOut where
  val : Num
  ovf : Bool
deriving DecidableEq, Repr

/-- The ND5 flush of a value in the working format (07 R240). -/
def flushWf (nd5 : Bool) (f : FloatFmt) (x : Num) : Num := if nd5 then nd5Flush f x else x

def stepRounded (nd5 : Bool) (f : FloatFmt) (c : Conv) : StepOut :=
  { val := flushWf nd5 f c.val, ovf := c.ev == .overflow }

def boolNum (b : Bool) : Num := .fin false (boolBit b) 0

/-- One float step on exact operands (07 R235, R238). -/
def stepFloat (nd5 : Bool) (dir : Dir) (wf : WorkFmt) (op : Nat) (a b c : Num) : StepOut :=
  let f := wf.float
  let dn := decide (dir = .down)
  let rnd (x : Num) : StepOut := stepRounded nd5 f (roundFloat f dir x)
  let keep (x : Num) : StepOut := { val := x, ovf := false }
  match op with
  | 0x01 => keep a
  | 0x02 => rnd (a.add dn b)
  | 0x03 => rnd (a.add dn b.neg)
  | 0x04 => rnd (a.mul b)
  | 0x05 => rnd ((a.mul b).add dn c)
  | 0x06 => stepRounded nd5 f (divFloat f dir a b)
  | 0x07 => stepRounded nd5 f (sqrtFloat f dir a)
  | 0x08 => stepRounded nd5 f (rsqrtFloat f dir a)
  | 0x09 => keep (a.pick false b)
  | 0x0A => keep (a.pick true b)
  | 0x0B => keep a.abs
  | 0x0C => keep a.neg
  | 0x0D => keep (if !c.isZero && !c.isNan then a else b)
  | 0x0E => keep (boolNum (a.lt b))
  | 0x0F => keep (boolNum (a.eqv b))
  | _ => stepRounded nd5 f (transFloat op (if wf = .fp64 then 1 else 0) f a)

/-- Saturation to the INT32 range (07 R239). -/
def satInt32 (i : Int) : StepOut :=
  let lo := intMin 32 true
  let hi := intMax 32 true
  if i < lo then { val := Num.ofInt lo, ovf := true }
  else if i > hi then { val := Num.ofInt hi, ovf := true }
  else { val := Num.ofInt i, ovf := false }

/-- One INT32 step (07 R239). The words of AND, OR and XOR are read as signed. -/
def stepInt (op : Nat) (a b c : Num) : StepOut :=
  let x := a.toIntAt 0
  let y := b.toIntAt 0
  let z := c.toIntAt 0
  let keep (i : Int) : StepOut := { val := Num.ofInt i, ovf := false }
  let word (g : Nat → Nat → Nat) : StepOut := keep (signed 32 (g (unsigned 32 x) (unsigned 32 y)))
  let sh := (y % 32).toNat
  match op with
  | 0x01 => keep x
  | 0x02 => satInt32 (x + y)
  | 0x03 => satInt32 (x - y)
  | 0x04 => satInt32 (x * y)
  | 0x05 => satInt32 (x * y + z)
  | 0x06 => if y = 0 then keep 0 else satInt32 (x.tdiv y)
  | 0x09 => keep (min x y)
  | 0x0A => keep (max x y)
  | 0x0B => satInt32 (if x < 0 then -x else x)
  | 0x0C => satInt32 (-x)
  | 0x0D => keep (if z ≠ 0 then x else y)
  | 0x0E => keep (if x < y then 1 else 0)
  | 0x0F => keep (if x = y then 1 else 0)
  | 0x20 => word Nat.land
  | 0x21 => word Nat.lor
  | 0x22 => word Nat.xor
  | 0x23 => satInt32 (x * 2 ^ sh)
  | _ => keep (x / 2 ^ sh)

def stepOp (nd5 : Bool) (dir : Dir) (wf : WorkFmt) (op : Nat) (a b c : Num) : StepOut :=
  if wf.isInt then stepInt op a b c else stepFloat nd5 dir wf op a b c

/-! ## Reductions (07 R244 to R246) -/

/-- Combination of two partial results under RED 1 to 4. -/
def redCombine (nd5 : Bool) (dir : Dir) (wf : WorkFmt) (red : Nat) (a b : StepOut) : StepOut :=
  if red = 1 then
    let s := stepOp nd5 dir wf 0x02 a.val b.val (.fin false 0 0)
    { s with ovf := s.ovf || a.ovf || b.ovf }
  else { val := a.val.pick (red != 3) b.val, ovf := a.ovf || b.ovf }

/-- A lane: its elements k, k + L, … combined in rising order. -/
def laneReduce (comb : StepOut → StepOut → StepOut) : List StepOut → Option StepOut
  | [] => none
  | x :: r => some (r.foldl comb x)

/-- Every `n`-th element of a list. -/
def everyNth (n : Nat) : Nat → List StepOut → List StepOut
  | 0, _ => []
  | fuel + 1, l =>
    match l with
    | [] => []
    | x :: _ => x :: everyNth n fuel (l.drop n)

/-- One level of the tree: neighbours combine, an empty one passes its partner on. -/
def treeLevel (comb : StepOut → StepOut → StepOut) : List (Option StepOut) → List (Option StepOut)
  | a :: b :: r =>
    (match a, b with
      | some x, some y => some (comb x y)
      | x, none => x
      | none, y => y) :: treeLevel comb r
  | l => l

def treeReduce (comb : StepOut → StepOut → StepOut) : Nat → List (Option StepOut) → Option StepOut
  | 0, l => l.headD none
  | k + 1, l => treeReduce comb k (treeLevel comb l)

/-- The reduction of one set in the fixed order: L lanes, then log2 L levels. -/
def reduceSet (comb : StepOut → StepOut → StepOut) (L : Nat) (xs : List StepOut) : Option StepOut :=
  treeReduce comb (floorLog2 L)
    ((List.range L).map (fun j => laneReduce comb (everyNth L (xs.length + 1) (xs.drop j))))

/-! ## The fused update of one weight (07 Table 7.6, 05 R174, R175) -/

structure UpdateConsts where
  eta : Num
  lambda : Num
  beta1 : Num
  beta2 : Num
  eps : Num
  c1 : Num
  c2 : Num
  gamma : Num
deriving DecidableEq, Repr

/-- ulp(w) / 256 as an exponent, for a BF16 value (05 R174). -/
def residualExp (w : Num) : Int :=
  if w.isZero then -133 - 8
  else if w.log2 < ffBF16.emin then -133 - 8 else w.log2 - 7 - 8

/-- W of a master weight and its residual (05 R174). -/
def masterValue (w : Num) (r : Int) : Num :=
  match w with
  | .fin n m e =>
    let q := residualExp w
    let d : Num := .fin (decide (r < 0) != n) r.natAbs q
    if r = 0 then w else (Num.fin n m e).add false d
  | x => x

structure Updated where
  m : Num
  v : Num
  s : Num
  w : Conv
  r : Int
deriving DecidableEq, Repr

/-- Table 7.6 for one index. -/
def updateOne (nd5 : Bool) (k : UpdateConsts) (g0 m v w : Num) (r : Int) : Updated :=
  let rd (x : Num) : Num := flushWf nd5 ffFP32 (roundFloat ffFP32 .away x).val
  let W := masterValue w r
  let g := rd (k.gamma.mul g0)
  let d1 := rd (m.add false g.neg)
  let m' := rd ((k.beta1.mul d1).add false g)
  let p := rd (g.mul g)
  let d2 := rd (v.add false p.neg)
  let v' := rd ((k.beta2.mul d2).add false p)
  let h := flushWf nd5 ffFP32 (sqrtFloat ffFP32 .away (rd (v'.mul k.c2))).val
  let n := flushWf nd5 ffFP32 (divFloat ffFP32 .away (rd (m'.mul k.c1)) (rd (h.add false k.eps))).val
  let t := rd ((k.lambda.mul W).add false n)
  let delta := (rd (k.eta.mul t)).neg
  let S := W.add false delta
  let w' := roundFloat ffBF16 .away S
  let r' : Int :=
    match S.abs.add false w'.val.abs.neg with
    | .fin dn dm de => if w'.val.isInf then 0 else (termAt (residualExp w'.val) dn dm de).1
    | _ => 0
  { m := m', v := v', s := S, w := w', r := r' }

end Sys2Proof.Machine
end

