-- ==== Sys2Proof/Machine/Aes.lean ====
section
/-! DEFINITION. What the homes do with their keys (15 R502 to R504): AES with a 256-bit key, a sector as one XTS data unit
of four blocks, and the integrity tag from a CBC chain over the address and the ciphertext. The cipher itself is PRESUMED
from FIPS 197 and the mode from IEEE 1619 (notes/assumptions/6.md). A block is its 16 bytes as numbers. -/

namespace Sys2Proof.Machine

open Sys2Proof

/-! ## The field and the byte substitution -/

/-- Multiplication by x modulo x^8 + x^4 + x^3 + x + 1. -/
def aesDouble (a : Nat) : Nat := Nat.xor (2 * a % 256) (a / 128 * 0x1B)

/-- Product over the lowest `n` bits of the second factor. -/
def aesTimes : Nat → Nat → Nat → Nat
  | 0, _, _ => 0
  | n + 1, a, b => Nat.xor (b % 2 * a) (aesTimes n (aesDouble a) (b / 2))

def aesMul (a b : Nat) : Nat := aesTimes 8 a b

/-- a^254 by the seven squarings of a, which is the inverse of a nonzero a. -/
def aesInverse (a : Nat) : Nat :=
  ((List.range 7).foldl (fun (x : Nat × Nat) _ =>
    let sq := aesMul x.1 x.1
    (sq, aesMul x.2 sq)) (a, 1)).2

/-- A byte turned left. -/
def turnByte (b k : Nat) : Nat := b * 2 ^ k % 256 + b / 2 ^ (8 - k)

def aesSub (a : Nat) : Nat :=
  let i := aesInverse a
  [1, 2, 3, 4].foldl (fun b k => Nat.xor b (turnByte i k)) (Nat.xor i 0x63)

def aesUnsub (b : Nat) : Nat := aesInverse ([1, 3, 6].foldl (fun a k => Nat.xor a (turnByte b k)) 0x05)

/-! ## Keys and blocks -/

def xorNats (a b : List Nat) : List Nat := List.zipWith Nat.xor a b

/-- The next four bytes of an expanded key held as words, newest first; `i` is the word's number. -/
def nextKeyWord (ws : List (List Nat)) (i : Nat) : List Nat :=
  let last := ws.getD 0 []
  let g :=
    if i % 8 = 0 then
      xorNats ((last.drop 1 ++ last.take 1).map aesSub) [2 ^ (i / 8 - 1), 0, 0, 0]
    else if i % 8 = 4 then last.map aesSub
    else last
  xorNats (ws.getD 7 []) g

/-- The fifteen round keys of a 32-byte key, first to last. -/
def roundKeys (key : List Nat) : List (List Nat) :=
  let first := (List.range 8).map (fun i => (key.drop (4 * i)).take 4)
  let ws := ((List.range 52).foldl (fun ws i => nextKeyWord ws (i + 8) :: ws) first.reverse).reverse
  (List.range 15).map (fun r => ((ws.drop (4 * r)).take 4).flatten)

/-- The bytes of a block taken from the places named; a block is four columns of four. -/
def pickBytes (b : List Nat) (place : Nat → Nat) : List Nat := (List.range 16).map (fun i => b.getD (place i) 0)

/-- Row r of the block moves r columns. -/
def shiftRows (b : List Nat) : List Nat := pickBytes b (fun i => (i + i % 4 * 4) % 16)

def unshiftRows (b : List Nat) : List Nat := pickBytes b (fun i => (i + 12 * (i % 4)) % 16)

/-- Each column times the circulant matrix whose first row is given. -/
def mixBy (row b : List Nat) : List Nat :=
  (List.range 16).map (fun i => (List.range 4).foldl (fun a j =>
    Nat.xor a (aesMul (b.getD (i / 4 * 4 + j) 0) (row.getD ((j + 4 - i % 4) % 4) 0))) 0)

def aesEncrypt (keys : List (List Nat)) (b : List Nat) : List Nat :=
  let start := xorNats b (keys.getD 0 [])
  let mid := ((keys.drop 1).take 13).foldl (fun b k => xorNats (mixBy [2, 3, 1, 1] (shiftRows (b.map aesSub))) k) start
  xorNats (shiftRows (mid.map aesSub)) (keys.getD 14 [])

def aesDecrypt (keys : List (List Nat)) (b : List Nat) : List Nat :=
  let start := unshiftRows (xorNats b (keys.getD 14 []))
  let mid := ((keys.drop 1).take 13).reverse.foldl (fun b k =>
    unshiftRows (mixBy [14, 11, 13, 9] (xorNats (b.map aesUnsub) k))) start
  xorNats (mid.map aesUnsub) (keys.getD 0 [])

/-! ## Sectors -/

/-- The keys of a set: K1, K2 and KT (15 R502). -/
structure KeySet where
  data : List (List Nat)
  tweak : List (List Nat)
  tag : List (List Nat)

/-- The expanded keys of a numbered set, from its 96 drawn bytes. -/
def keySetOf (n : Nat) : KeySet :=
  let b (i : Nat) : List (List Nat) :=
    roundKeys ((List.range 32).map (fun j => ((Config.keyBytes n).getD (32 * i + j) 0).toNat))
  { data := b 0, tweak := b 1, tag := b 2 }

/-- A block as a little-endian number, and the reverse. -/
def blockNat (b : List Nat) : Nat := b.foldr (fun x a => x + 256 * a) 0

def natBlock (x : Nat) : List Nat := (List.range 16).map (fun i => x / 256 ^ i % 256)

/-- The tweak of the next block: times x modulo x^128 + x^7 + x^2 + x + 1. -/
def nextTweak (t : Nat) : Nat := Nat.xor (2 * t % 2 ^ 128) (t / 2 ^ 127 * 0x87)

/-- One XTS data unit: the blocks in order, each under its own tweak. -/
def xtsUnit (f : List Nat → List Nat) : Nat → Nat → List Nat → List Nat
  | 0, _, _ => []
  | n + 1, t, bs =>
    let tb := natBlock t
    xorNats (f (xorNats (bs.take 16) tb)) tb ++ xtsUnit f n (nextTweak t) (bs.drop 16)

/-- The tweak of a sector (15 R503): physical address bits 40:6, under K2. -/
def sectorTweak (k : KeySet) (sector : Nat) : Nat := blockNat (aesEncrypt k.tweak (natBlock (sector % 2 ^ 35)))

/-- The ciphertext of a sector's 64 bytes (15 R503). -/
def sealSector (k : KeySet) (sector : Nat) (plain : List Nat) : List Nat :=
  xtsUnit (aesEncrypt k.data) 4 (sectorTweak k sector) plain

def openSector (k : KeySet) (sector : Nat) (cipher : List Nat) : List Nat :=
  xtsUnit (aesDecrypt k.data) 4 (sectorTweak k sector) cipher

/-- The integrity tag of a sector, 4 bytes (15 R504): a CBC chain from zero over the address and the ciphertext. -/
def sectorTag (k : KeySet) (sector : Nat) (cipher : List Nat) : List Nat :=
  let blocks := natBlock (sector * 64) :: (List.range 4).map (fun i => (cipher.drop (16 * i)).take 16)
  (blocks.foldl (fun c b => aesEncrypt k.tag (xorNats c b)) (List.replicate 16 0)).take 4

end Sys2Proof.Machine
end

