-- ==== Sys2Proof/Machine/Pool.lean ====
section
/-! DEFINITION. The pool's addresses (08 R256), and Lumiz's reserved area at the end of each stack (10 R340): the forme's range
table (10 R339, R344) and the journal's ring (15 R528). What these hold is said once, by the entries of the formes and of the
journal; here stand the bytes they have in memory. -/

namespace Sys2Proof.Machine

open Sys2Proof

/-! ## Addresses (08 R256, R258) -/

def paStack (pa : Nat) : Nat := pa / 2 ^ 37

/-- Home Platen of an address (01 R18). -/
def paHome (pa : Nat) : Nat := paStack pa / 2

def paRow (pa : Nat) : Nat := bits pa 36 22

def paPch (pa : Nat) : Nat := bits pa 14 9

/-- Bank of a pseudo-channel: SID, bank group and bank. -/
def paBank (pa : Nat) : Nat := bits pa 21 16

def paAbsent (pa : Nat) : Bool := pa ≥ 2 ^ 41 || paStack pa ≥ 12 || paRow pa ≥ 24576

/-- Lumiz's area at the end of a stack, which no range maps and which its own key covers (10 R340, 15 R502). -/
def paReserved (pa : Nat) : Bool := pa % 2 ^ 37 ≥ 0x17FC000000

def sectorOf (pa : Nat) : Nat := pa / 64

def sectorBase (pa : Nat) : Nat := pa / 64 * 64

/-! ## The reserved area (10 R340, notes/assumptions/125.md) -/

/-- Where the reserved area of a stack begins, as an offset in the stack. -/
def reservedOffset : Nat := 0x17FC000000

/-- The half of the area, 32 MiB, that holds the ring in stacks 0 and 1; range tables lie in the other half. -/
def ringHalf : Nat := Config.ringHalf % 2

/-! ## Range tables (10 R339, R344) -/

def RangeKind.code : RangeKind → Nat
  | .normal => 0
  | .visible => 1
  | .staging => 2
  | .locked => 3

def RangeState.code : RangeState → Nat
  | .valid => 1
  | .invalidating => 2
  | .swapping => 3

/-- Bits 191:0 of an entry (10 Table 10.1). -/
def RangeEntry.low (e : RangeEntry) : Nat :=
  packFields
    [(44, e.vaPage), (25, e.pages), (29, e.paPage), (1, boolBit e.r), (1, boolBit e.w), (1, boolBit e.aper),
     (1, boolBit e.mesh), (4, e.kind.code), (12, e.id), (32, e.passSeq), (2, e.state.code), (40, 0)]

/-- The 32 bytes of an entry. -/
def RangeEntry.pack (e : RangeEntry) : List Byte := toBytes 32 (e.low + 2 ^ 192 * (e.mapTime % 2 ^ 64))

def placeEntry (e : RangeEntry) : List RangeEntry → List RangeEntry
  | [] => [e]
  | x :: r => if e.vaPage ≤ x.vaPage then e :: x :: r else x :: placeEntry e r

/-- The valid entries of a forme as its table stores them, sorted by VA_PAGE, 16 in a group. -/
def tableOrder (f : Forme) : List RangeEntry := (f.ranges.filter (fun e => e.state == .valid)).foldr placeEntry []

/-- The lowest-numbered stack of a forme. -/
def tableStack (f : Forme) : Nat := 2 * f.platens.foldl min 5

/-- Physical address of a forme's table: 256 groups of 512 bytes. Where in its half of the area is open. -/
def tableBase (fid : Nat) (f : Forme) : Nat :=
  tableStack f * 2 ^ 37 + reservedOffset + (1 - ringHalf) * 2 ^ 25 + Config.tablePlace fid % 65281 * 512

/-- What a walker's index holds: the first VA_PAGE of every group. -/
def indexOf : List RangeEntry → Nat → List Nat
  | [], _ => []
  | e :: r, i => if i % 16 = 0 then e.vaPage :: indexOf r (i + 1) else indexOf r (i + 1)

/-- The index that the walker of each Platen and Compositor keeps (10 R344); Lumiz updates every one with the table (10
R347). -/
def walkIndex (f : Forme) : List Nat := indexOf (tableOrder f) 0

/-- The group that a walk of a VA reads: the last whose first VA is not above it. -/
def walkGroup (fid : Nat) (f : Forme) (va : Nat) : Nat :=
  tableBase fid f + 512 * (((walkIndex f).filter (fun v => decide (v * 4096 ≤ va))).length - 1)

/-- The 64 bytes of one sector of a table: two entries, a free one all zero. -/
def tableSector (f : Forme) (i : Nat) : List Byte :=
  let es := tableOrder f
  let one (k : Nat) : List Byte := match es[k]? with
    | some e => e.pack
    | none => List.replicate 32 0#8
  one (2 * i) ++ one (2 * i + 1)

/-- The sector of a forme's table at an address, if one lies there. -/
def tableAt (pa : Nat) : SMap Forme → Option (List Byte)
  | [] => none
  | (k, f) :: r =>
    if tableBase k f ≤ pa ∧ pa < tableBase k f + 131072 then some (tableSector f ((pa - tableBase k f) / 64))
    else tableAt pa r

/-! ## The journal's ring (15 R524, R528) -/

/-- Ring places, and the unexported entries at which a change is refused (15 R528, R529). -/
def journalRing : Nat := 1048576
def journalRefuseAt : Nat := 1044480

/-- The 64 bytes of an entry (15 Table 15.10). -/
def JEntry.pack (e : JEntry) : List Byte :=
  toBytes 64 (packFields
    [(64, e.time), (40, e.number), (4, e.origin), (2, e.port), (2, e.forme), (1, boolBit e.formeV), (6, e.slot),
     (4, e.peer), (5, 0), (8, e.objKind), (8, e.action), (8, 0), (8, e.piece), (32, e.objId), (64, e.prev),
     (128, e.old), (128, e.new)])

/-- Physical address of the place of an entry: half of the ring in stack 0, half in stack 1. -/
def ringPlace (number : Nat) : Nat :=
  let place := number % journalRing
  place / 524288 * 2 ^ 37 + reservedOffset + ringHalf * 2 ^ 25 + place % 524288 * 64

/-- The entry whose place an address is, if one is written there. -/
def ringAt (s : State) (pa : Nat) : Option (List Byte) :=
  (s.journal.entries.find? (fun e => ringPlace e.number == sectorBase pa)).map JEntry.pack

/-- The plaintext of a sector of the pool. -/
def poolBytes (s : State) (pa : Nat) : List Byte :=
  let plain := readBytes s.mem (sectorBase pa) 64
  if paReserved pa then ((tableAt pa s.formes).or (ringAt s pa)).getD plain else plain

/-- Lumiz writes a sector of its area whole: its codeword is right again and any mark ends (08 R269). What it then holds is the
table's or the journal's to say. -/
def reservedWritten (s : State) (pa : Nat) : State :=
  { s with poison := mapDel s.poison (sectorOf pa), errors := mapDel s.errors (sectorOf pa) }

end Sys2Proof.Machine
end

