-- ==== Sys2Proof/Machine/Sha.lean ====
section
/-! DEFINITION. The public functions the spec names for digests and signatures: SHA-256 and the tree digest (15 R510),
HMAC-SHA-256 (17 R564), and the check of an RSASSA-PSS signature with SHA-256, MGF1 with SHA-256 and a 32-byte salt
(15 R510, R521). PRESUMED from FIPS 180-4, RFC 2104 and RFC 8017 (notes/assumptions/6.md). -/

namespace Sys2Proof.Machine

open Sys2Proof

/-- The sum wraps at a word of 32 bits. -/
def word32 (n : Nat) : Nat := n % 2 ^ 32

/-- A number cut into `n` words of 32 bits, the most significant first. -/
def cutWords : Nat → Nat → List Nat
  | 0, _ => []
  | n + 1, x => word32 (x / 2 ^ (32 * n)) :: cutWords n x

/-- The round constants, eight words to a row. -/
def roundWords : List Nat :=
  ([0x428a2f9871374491b5c0fbcfe9b5dba53956c25b59f111f1923f82a4ab1c5ed5,
    0xd807aa9812835b01243185be550c7dc372be5d7480deb1fe9bdc06a7c19bf174,
    0xe49b69c1efbe47860fc19dc6240ca1cc2de92c6f4a7484aa5cb0a9dc76f988da,
    0x983e5152a831c66db00327c8bf597fc7c6e00bf3d5a7914706ca635114292967] ++
   [0x27b70a852e1b21384d2c6dfc53380d13650a7354766a0abb81c2c92e92722c85,
    0xa2bfe8a1a81a664bc24b8b70c76c51a3d192e819d6990624f40e3585106aa070,
    0x19a4c1161e376c082748774c34b0bcb5391c0cb34ed8aa4a5b9cca4f682e6ff3,
    0x748f82ee78a5636f84c878148cc7020890befffaa4506cebbef9a3f7c67178f2]).flatMap (cutWords 8)

/-- The chaining value before the first block. -/
def hashStart : List Nat := cutWords 8 0x6a09e667bb67ae853c6ef372a54ff53a510e527f9b05688c1f83d9ab5be0cd19

/-- A word turned right by each of the amounts, and the turns added without carry. -/
def turns (x : Nat) (ks : List Nat) : Nat :=
  ks.foldl (fun a k => Nat.xor a (x / 2 ^ k + x % 2 ^ k * 2 ^ (32 - k))) 0

/-- The next word of a schedule held newest first. -/
def nextWord (ws : List Nat) : Nat :=
  let near := ws.getD 1 0
  let far := ws.getD 14 0
  word32 (Nat.xor (turns near [17, 19]) (near / 2 ^ 10) + Nat.xor (turns far [7, 18]) (far / 2 ^ 3) +
    ws.getD 6 0 + ws.getD 15 0)

def schedule : Nat → List Nat → List Nat
  | 0, ws => ws.reverse
  | n + 1, ws => schedule n (nextWord ws :: ws)

/-- One round on the eight working words, with the sum of its constant and its schedule word. -/
def hashRound (v : List Nat) (kw : Nat) : List Nat :=
  let at_ (i : Nat) : Nat := v.getD i 0
  let chosen := Nat.xor (at_ 6) (Nat.land (at_ 4) (Nat.xor (at_ 5) (at_ 6)))
  let common := Nat.lor (Nat.land (at_ 0) (Nat.lor (at_ 1) (at_ 2))) (Nat.land (at_ 1) (at_ 2))
  let moved := at_ 7 + turns (at_ 4) [6, 11, 25] + chosen + kw
  match v with
  | a :: b :: c :: d :: rest =>
    word32 (moved + turns a [2, 13, 22] + common) :: a :: b :: c :: word32 (d + moved) :: rest.take 3
  | _ => v

/-- One 64-byte block worked into the chaining value. -/
def hashBlock (v : List Nat) (block : List Byte) : List Nat :=
  let ws := schedule 48 (cutWords 16 (ofBytesBE block)).reverse
  List.zipWith (fun x y => word32 (x + y)) v ((List.zipWith (· + ·) roundWords ws).foldl hashRound v)

def hashBlocks : Nat → List Nat → List Byte → List Nat
  | 0, v, _ => v
  | n + 1, v, bs => hashBlocks n (hashBlock v (bs.take 64)) (bs.drop 64)

/-- The message with its end bit, zeros and its length in bits, a whole number of blocks. -/
def padded (m : List Byte) : List Byte :=
  m ++ 0x80#8 :: List.replicate ((119 - m.length % 64) % 64) 0#8 ++ toBytesBE 8 (8 * m.length)

/-- SHA-256: the 32 digest bytes in their order. -/
def sha256 (m : List Byte) : List Byte :=
  (hashBlocks ((m.length + 72) / 64) hashStart (padded m)).flatMap (toBytesBE 4)

def chunks (size : Nat) : Nat → List Byte → List (List Byte)
  | 0, _ => []
  | n + 1, bs => if bs.isEmpty then [] else bs.take size :: chunks size n (bs.drop size)

/-- Tree digest over chunks of 1 MiB (15 R510). -/
def treeDigest (bs : List Byte) : List Byte :=
  sha256 ((chunks 1048576 (ceilDiv bs.length 1048576) bs).flatMap sha256)

def xorBytes (a b : List Byte) : List Byte := List.zipWith (· ^^^ ·) a b

/-- HMAC-SHA-256 under a 256-bit key given as its bytes (17 R564). -/
def hmacSha256 (key msg : List Byte) : List Byte :=
  let k := key ++ List.replicate (64 - key.length) 0#8
  let inner := sha256 (xorBytes k (List.replicate 64 0x36#8) ++ msg)
  sha256 (xorBytes k (List.replicate 64 0x5c#8) ++ inner)

/-- MGF1 with SHA-256: `n` blocks of mask from counter `c`. -/
def mgf1 (seed : List Byte) : Nat → Nat → List Byte
  | 0, _ => []
  | n + 1, c => sha256 (seed ++ toBytesBE 4 c) ++ mgf1 seed n (c + 1)

/-- Square-and-multiply power modulo `m`, over the bits of the exponent from the least significant, `k` of them. -/
def powMod (m : Nat) : Nat → Nat → Nat → Nat
  | 0, _, _ => 1 % m
  | k + 1, b, e =>
    let r := powMod m k (b * b % m) (e / 2)
    if e % 2 = 1 then r * b % m else r

/-- RSASSA-PSS check of a 384-byte big-endian signature over a message under an RSA-3072 key (15 R510). -/
def pssCheck (modulus exponent : Nat) (sig msg : List Byte) : Bool :=
  let s := ofBytesBE sig
  if sig.length ≠ 384 ∨ modulus < 2 ^ 3071 ∨ s ≥ modulus then false
  else
    let em := toBytesBE 384 (powMod modulus (Nat.log2 exponent + 1) s exponent)
    let masked := em.take 351
    let h := (em.drop 351).take 32
    let trailer := em.getD 383 0
    let db := xorBytes masked (mgf1 h 11 0)
    let db0 := db.getD 0 0 &&& 0x7f#8
    let salt := db.drop 319
    decide (trailer = 0xbc#8) && decide ((masked.getD 0 0).toNat < 128) && decide (db0 = 0) &&
      (db.drop 1).take 317 == List.replicate 317 0#8 && decide (db.getD 318 0 = 1#8) &&
      sha256 (List.replicate 8 0#8 ++ sha256 msg ++ salt) == h

/-- The check under a public exponent of 65537 (15 R512, R521). -/
def pssVerify (modulus : Nat) (sig msg : List Byte) : Bool := pssCheck modulus 65537 sig msg

end Sys2Proof.Machine
end

