-- ==== Sys2Proof/Machine/Ops.lean ====
section
/-! DEFINITION. The named operations every family shares: free draws, counters, formes and their dies, journal entries
(15 R524 to R529), sideband notices (17 R573), and retirement (18 R594 to R596). -/

namespace Sys2Proof.Machine

open Sys2Proof

/-! ## Free draws (notes/assumptions/1.md) -/

/-- The next draw's index is used up. -/
def State.drawn (s : State) : State := { s with free := s.free + 1 }

/-! ## Counters -/

def ctrGet : Counters → Ctr → Nat
  | [], _ => 0
  | (k, n) :: r, c => if k = c then n else ctrGet r c

def ctrAdd : Counters → Ctr → Nat → Counters
  | [], c, n => [(c, n)]
  | (k, m) :: r, c, n => if k = c then (k, m + n) :: r else (k, m) :: ctrAdd r c n

/-! ## Formes and their parts (15) -/

def getForme (s : State) (f : Nat) : Option Forme := mapGet s.formes f

def modForme (s : State) (f : Nat) (g : Forme → Forme) : State := { s with formes := mapMod s.formes f g }

/-- Adds to a counter of a forme, or to those of what no forme did. -/
def countFor (s : State) (f : Option Nat) (c : Ctr) (n : Nat) : State :=
  match f with
  | some f => modForme s f (fun x => { x with counters := ctrAdd x.counters c n })
  | none => { s with loose := ctrAdd s.loose c n }

def formeWith (p : Forme → Bool) : SMap Forme → Option Nat
  | [] => none
  | (k, x) :: r => if p x then some k else formeWith p r

def formeOfPlaten (s : State) (p : Nat) : Option Nat := formeWith (fun x => x.platens.contains p) s.formes

/-- The forme that holds a stack holds its home Platen (15 R498, 01 R18). -/
def formeOfStack (s : State) (k : Nat) : Option Nat := formeOfPlaten s (k / 2)

def formeOfGroup (s : State) (g : Nat) : Option Nat := formeWith (fun x => x.groups.contains g) s.formes

def formeOfPort (s : State) (p : Nat) : Option Nat := (mapGet s.ports p).bind (·.forme)

/-- Core group of a hart and its Compositor (11 Table 11.1): die 6 or 7. -/
def groupOfHart (h : Nat) : Nat := h / 8

def dieOfHart (h : Nat) : Nat := if h < 48 then 6 else 7

def dieOfGroup (g : Nat) : Nat := if g < 6 then 6 else 7

def formeOfHart (s : State) (h : Nat) : Option Nat := formeOfGroup s (groupOfHart h)

/-- Lumiz runs and takes slots (18 R580). -/
def State.up (s : State) : Bool := s.phase == .running

/-- The dies outside the Watch domain have power. -/
def State.powered (s : State) : Bool := s.phase == .running || s.phase == .starting

/-- The homes take requests: their islands have power, which is off only in module idle (01 R20, R44), and a cold start-up has
ended, before whose step 6 the Gutter carries control traffic alone (18 R578). -/
def State.homesOn (s : State) : Bool := s.powered && !s.moduleIdle && !(s.phase == .starting && s.sec.coldStart)

/-! ## Sideband notices -/

def pushNotice (s : State) (o : SbOut) : State := { s with sb := { s.sb with out := s.sb.out ++ [o] } }

/-- ALERT: event code, registration-counter time, and for code 0x04 the retirement record (17 R573, 18 R596). -/
def alert (s : State) (code : Nat) (extra : List Byte) : State :=
  pushNotice s { type := 3, func := 0x11, status := 0, reqSeq := 0,
                 body := BitVec.ofNat 8 code :: toBytes 8 s.now ++ extra }

/-! ## The journal (15 R524 to R529) -/

/-- Bytes 0 to 15 of the SHA-256 of a value (15 Table 15.10). -/
def digest16 (bs : List Byte) : Nat := ofBytes ((sha256 bs).take 16)

/-- Who changes something: ORIGIN, PORT, FORME and FORME_V, SLOT (15 Table 15.10). -/
structure JOrigin where
  origin : Nat
  port : Nat
  forme : Nat
  formeV : Bool
  slot : Nat
deriving DecidableEq, Repr

def JOrigin.firmware : JOrigin := { origin := 5, port := 0, forme := 0, formeV := false, slot := 0 }

def JOrigin.sideband : JOrigin := { origin := 3, port := 0, forme := 0, formeV := false, slot := 0 }

def JOrigin.testPort : JOrigin := { origin := 4, port := 0, forme := 0, formeV := false, slot := 0 }

/-- FORME names the forme of the origin, or of the object where the origin has none. -/
def JOrigin.about (o : JOrigin) (f : Nat) : JOrigin := if o.formeV then o else { o with forme := f, formeV := true }

/-- An entry as the change gives it, before the journal numbers it. -/
def jEntry (o : JOrigin) (kind id action old new : Nat) : JEntry :=
  { number := 0, time := 0, origin := o.origin, port := o.port, forme := o.forme, formeV := o.formeV, slot := o.slot,
    peer := 0, objKind := kind, objId := id, action := action, piece := 0, prev := 0, old := old, new := new }

/-- A digest of a value whose bytes the spec does not lay out (15 Table 15.11): a free value. -/
def openDigest (s : State) : State × Nat := (s.drawn, Config.freeNat s.free % 2 ^ 128)

/-- Entries not exported. -/
def Journal.unexported (j : Journal) : Nat := j.next - j.oldestUnexported

/-- A change of a mailbox, the sideband or the test port is refused with JOURNAL_FULL (15 R529). -/
def Journal.full (j : Journal) : Bool := j.unexported ≥ journalRefuseAt

/-- The next number is 4,096(k + 1) and checkpoint k, whose last entry was written since the supply came up, is not in
flash (15 R527), or the Watch domain already holds 256 entries of module idle (16 R545). -/
def journalHeld (s : State) : Bool :=
  s.journal.next % 4096 == 0 && s.journal.base + 4096 < s.journal.next && s.flash.checkpoint + 1 < s.journal.next / 4096 ||
    s.moduleIdle && s.journal.heldInIdle ≥ 256

/-- Numbers, chains and stores one entry (15 R525, R526). -/
def journalPut (s : State) (e : JEntry) : State :=
  let j := s.journal
  let e := { e with number := j.next, time := s.now, prev := j.chain % 2 ^ 64 }
  let chain := ofBytes (sha256 (toBytes 32 j.chain ++ e.pack))
  let due := if (j.next + 1) % 4096 = 0 then some ((j.next + 1) / 4096, chain) else j.due
  let s := { reservedWritten s (ringPlace j.next) with journal := { j with
    entries := (e :: j.entries).take journalRing, next := j.next + 1, chain := chain, due := due,
    heldInIdle := if s.moduleIdle then j.heldInIdle + 1 else 0 } }
  let n := s.journal.unexported
  if n = 786432 then alert s 0x02 []
  else if n = journalRefuseAt then alert s 0x03 []
  else s

/-- The BOOT entry of a power-up, which no checkpoint holds up; with it the journal has begun (15 R528). -/
def bootEntry (s : State) : State :=
  if s.journal.bootDue then
    let s := journalPut { s with flash := { s.flash with journalBegun := true } }
      (jEntry JOrigin.firmware 0x10 s.flash.checkpoint 4 0 0)
    { s with journal := { s.journal with bootDue := false } }
  else s

/-- An entry for which the ring has no place is lost (15 R529), and one that is held up waits (15 R527), in module idle for a
wake (16 R545). -/
def journalPlace (s : State) (e : JEntry) : State :=
  if s.journal.unexported ≥ journalRing then
    { s with journal := { s.journal with lost := s.journal.lost + 1 } }
  else if journalHeld s then
    { s with journal := { s.journal with waiting := s.journal.waiting ++ [e] }, waking := s.waking || s.moduleIdle }
  else journalPut s e

/-- The GAP entry for entries that found no place is the next one written once there is a place (15 R529). -/
def gapEntry (s : State) : State :=
  if s.journal.lost = 0 ∨ s.journal.unexported ≥ journalRing ∨ journalHeld s then s
  else journalPut { s with journal := { s.journal with lost := 0 } } (jEntry JOrigin.firmware 0x11 s.journal.lost 4 0 0)

/-- Writes an entry: after the BOOT entry of a power-up, and after the GAP entry where one is due. -/
def journalWrite (s : State) (e : JEntry) : State := journalPlace (gapEntry (bootEntry s)) e

/-- A change that the journal holds at its start: its command is carried out once entries are written again (15 R527). -/
def holdRow (s : State) (c : Instr) : State := { s with journal := { s.journal with rows := s.journal.rows ++ [c] } }

/-- The entries that waited for a checkpoint are written (15 R527). -/
def journalFlush (s : State) : State :=
  s.journal.waiting.foldl journalWrite { s with journal := { s.journal with waiting := [] } }

/-! ## Retirement (18 R594 to R597) -/

/-- The retirement record (18 Table 18.9). -/
def retireRecord (time : Nat) (c : RetireCause) : List Byte :=
  toBytes 16 (packFields [(8, 1), (8, c.code), (8, 0), (8, c.unit), (32, c.detail), (64, time)])

/-- The entry of a cold reset; its digested record has no layout (01 R31, 15 Table 15.11). -/
def coldEntry (s : State) : State :=
  let d := openDigest s
  journalWrite d.1 (jEntry JOrigin.firmware 0x03 s.sec.bootCount 4 0 d.2)

/-- A cold start-up is under way, whose step 6 has not ended (18 Table 18.1): the links have not been trained yet. -/
def State.untrained (s : State) : Bool := s.phase == .starting && s.sec.coldStart

/-- A host port goes electrically idle. -/
def Port.idle (p : Port) : Port := { p with link := .down, rate := 0, width := 0 }

def MeshPort.idle (p : MeshPort) : MeshPort := { p with st := .down, txWidth := 0, rxWidth := 0 }

def idleHostPorts (s : State) : State := { s with ports := s.ports.map (fun kv => (kv.1, kv.2.idle)) }

def idleMeshPorts (s : State) : State :=
  { s with mesh := { s.mesh with ports := s.mesh.ports.map (fun kv => (kv.1, kv.2.idle)) } }

/-- Every galley, core and copy engine stops, and the dies lose power with what they held (18 Table 18.8). The records
of stacks and journal, the flash and the Watch domain stay. -/
def powerOffDies (s : State) : State :=
  { s with galleys := [], lines := [], dir := [], txns := [], streams := [], recent := [], suspects := [], timedOut := [],
           gut := { s.gut with flights := [], atHome := [], holding := [] },
           l3Locks := [], rangeCaches := [], invals := [], harts := [], groupsRunning := [], corePower := [],
           platens := (List.range 6).map (fun p => (p, PlatenPower.reset)), moduleIdle := false, waking := false, idleReqs := [] }

/-- Stacks 0 and 1 enter self-refresh and the others lose power, with what they held: it is then under keys that nobody has
(18 Table 18.8). -/
def powerOffStacks (s : State) : State :=
  let kept (pa : Nat) : Bool := decide (paStack pa < 2)
  let k := s.sec.nextKeys
  { s with mem := s.mem.filter (fun c => kept c.1), poison := s.poison.filter (fun c => kept (c.1 * 64)),
           errors := s.errors.filter (fun c => kept (c.1 * 64)), homeFull := [],
           sec := { s.sec with nextKeys := k + 1 },
           stackTab := s.stackTab.map (fun kv =>
             (kv.1, if kv.1 < 2 then { kv.2 with selfRefresh := true } else { kv.2 with keySet := k, pchs := [] })) }

/-- The node retires (18 R595), and of the resets asked for only a cold one is still performed (18 R597, R599); a node that is
off, lost or retired already stays as it is. A start-up that fails writes the entry of its cold reset too (15 R515). -/
def retire (s : State) (c : RetireCause) : State :=
  if s.powered then
    let s := { s with sec := { s.sec with retirement := some (s.now, c) },
                      sb := { s.sb with resetAsked := s.sb.resetAsked.filter (fun x => x.1 == 1) } }
    let s := idleMeshPorts (idleHostPorts s)
    let s := if s.untrained then coldEntry s else s
    let s := journalWrite s (jEntry JOrigin.firmware 0x0E 0xFF 4 0 (digest16 (retireRecord s.now c)))
    let s := alert s 0x04 (retireRecord s.now c)
    { powerOffStacks (powerOffDies s) with phase := .retired }
  else s

/-- Compositor A is lost (18 R598): every link of the node falls silent and the dies lose power; neither a journal entry
nor a record is written. -/
def loseCompositorA (s : State) : State :=
  if s.powered then { powerOffDies (idleMeshPorts (idleHostPorts s)) with phase := .lost } else s

/-- A fatal failure of a caching agent (09 R303, 18 Table 18.7). DESIGN CHOICE: 18 Table 18.7 names no other failure of
Compositor A, so that of agent 6 is its loss (notes/assumptions/117.md). The internal cause in DETAIL is specific to the Lumiz
release: a free value. -/
def agentFails (s : State) (agent : Nat) : State :=
  if agent = 6 then loseCompositorA s
  else retire s.drawn { code := if agent < 6 then 1 else 2, unit := if agent < 6 then agent else 6,
                        detail := Config.freeNat s.free % 2 ^ 32 }

end Sys2Proof.Machine
end

