-- ==== Sys2Proof/Machine/Rs.lean ====
section
/-! DEFINITION. The outer code of a sector (08 R266 to R268): a Reed–Solomon code over GF(2^8) with field polynomial
x^8 + x^4 + x^3 + x^2 + 1 and roots α^0 to α^11, 80 symbols, which corrects up to 6 symbol errors. Byte 0 is the
coefficient of x^79 (notes/assumptions/7.md). Symbols are numbers below 256. -/

namespace Sys2Proof.Machine

open Sys2Proof

/-- Multiplication by x in the field. -/
def gfDouble (a : Nat) : Nat := if a < 128 then 2 * a else Nat.xor (2 * a % 256) 0x1D

def gfMulFrom : Nat → Nat → Nat → Nat
  | 0, _, _ => 0
  | k + 1, a, b => Nat.xor (if b % 2 = 1 then a else 0) (gfMulFrom k (gfDouble a) (b / 2))

def gfMul (a b : Nat) : Nat := gfMulFrom 8 a b

/-- a^n over the lowest `k` bits of n, by squaring. -/
def gfPowBits : Nat → Nat → Nat → Nat
  | 0, _, _ => 1
  | k + 1, a, n => gfMul (if n % 2 = 1 then a else 1) (gfPowBits k (gfMul a a) (n / 2))

/-- a^n for n below 256. -/
def gfPow (a n : Nat) : Nat := gfPowBits 8 a n

/-- Inverse of a nonzero element: a^254. -/
def gfInv (a : Nat) : Nat := gfPow a 254

/-- α^n. -/
def gfAlpha (n : Nat) : Nat := gfPow 2 (n % 255)

/-- Syndrome j of a pattern of symbol differences. -/
def rsSyndrome (errs : List (Nat × Nat)) (j : Nat) : Nat :=
  errs.foldl (fun a e => Nat.xor a (gfMul e.2 (gfAlpha (j * (79 - e.1))))) 0

def rsSyndromes (errs : List (Nat × Nat)) : List Nat := (List.range 12).map (rsSyndrome errs)

/-- Value of a polynomial, lowest coefficient first. -/
def polyAt (p : List Nat) (x : Nat) : Nat := p.foldr (fun c a => Nat.xor c (gfMul x a)) 0

def polyAdd : List Nat → List Nat → List Nat
  | [], q => q
  | p, [] => p
  | a :: p, b :: q => Nat.xor a b :: polyAdd p q

structure BmState where
  locator : List Nat
  prev : List Nat
  len : Nat
  gap : Nat
  disc : Nat

/-- Berlekamp and Massey's step for syndrome n. -/
def bmStep (syn : List Nat) (b : BmState) (n : Nat) : BmState :=
  let d := (List.range (b.len + 1)).foldl
    (fun a i => Nat.xor a (gfMul (b.locator.getD i 0) (if i ≤ n then syn.getD (n - i) 0 else 0))) 0
  if d = 0 then { b with gap := b.gap + 1 }
  else
    let k := gfMul d (gfInv b.disc)
    let adj := polyAdd b.locator (List.replicate b.gap 0 ++ b.prev.map (gfMul k))
    if 2 * b.len ≤ n then { locator := adj, prev := b.locator, len := n + 1 - b.len, gap := 1, disc := d }
    else { b with locator := adj, gap := b.gap + 1 }

/-- Solves for the error values at known positions by elimination over the syndromes: one error at a time, the value at
position p being what makes the other positions' weighted syndrome sum vanish (Forney's formula). -/
def forney (syn loc : List Nat) (p : Nat) : Nat :=
  let x := gfAlpha (79 - p)
  let xi := gfInv x
  let omega := (List.range 12).map (fun i =>
    (List.range (i + 1)).foldl (fun a j => Nat.xor a (gfMul (syn.getD j 0) (loc.getD (i - j) 0))) 0)
  let deriv := (List.range (loc.length - 1)).map (fun i => if i % 2 = 0 then loc.getD (i + 1) 0 else 0)
  gfMul (gfMul x (polyAt omega xi)) (gfInv (polyAt deriv xi))

/-- The correction the decoder makes of a pattern: positions and values, none when the pattern cannot be corrected. -/
def rsCorrect (errs : List (Nat × Nat)) : Option (List (Nat × Nat)) :=
  let syn := rsSyndromes errs
  if syn.all (· = 0) then some []
  else
    let b := (List.range 12).foldl (bmStep syn) { locator := [1], prev := [1], len := 0, gap := 1, disc := 1 }
    let roots := (List.range 80).filter (fun p => polyAt b.locator (gfInv (gfAlpha (79 - p))) = 0)
    if b.len ≤ 6 ∧ roots.length = b.len then
      let fix := roots.map (fun p => (p, forney syn b.locator p))
      if rsSyndromes fix = syn then some fix else none
    else none

/-- Sum of two patterns, without zero entries, in position order. -/
def patternAdd (a b : List (Nat × Nat)) : List (Nat × Nat) :=
  ((List.range 80).map (fun p =>
    (p, (a ++ b).foldl (fun x e => if e.1 = p then Nat.xor x e.2 else x) 0))).filter (fun e => e.2 ≠ 0)

/-- The mark of a poisoned sector: each of the 12 check bytes XORed with 0xA5 (08 R269). -/
def poisonMask : List (Nat × Nat) := (List.range 12).map (fun i => (68 + i, 0xA5))

end Sys2Proof.Machine
end

