-- ==== Sys2Proof/Machine/Mem.lean ====
section
/-! DEFINITION. The homes (08): absent addresses, error records, a read of one sector with its code and its tag, a write
of a sector or of part of one, poison, and the queues of the pseudo-channels. Pool memory is held as the plaintext of what was
written and the key set it was written under; `storedWord` gives the ciphertext and tag that the stack holds for it
(notes/assumptions/8.md). -/

namespace Sys2Proof.Machine

open Sys2Proof

/-! ## Error records (08 Table 8.11, R276) -/

def ringPush (r : Ring) (e : MemRec) : Ring :=
  { recs := (e :: r.recs).take 1024, overwritten := r.overwritten + (if r.recs.length ≥ 1024 then 1 else 0) }

def modStack (s : State) (k : Nat) (g : Stack → Stack) : State := { s with stackTab := mapMod s.stackTab k g }

def getStack (s : State) (k : Nat) : Stack := mapGetD s.stackTab Stack.reset k

/-- Writes a record into the ring of its stack, or into the module's absent ring (08 R258). -/
def memRecord (s : State) (pa kind symbols source lanes : Nat) : State :=
  let e : MemRec := { time := s.now, addr := sectorBase pa, kind := kind, symbols := symbols, source := source,
                      lanes := lanes }
  if paStack pa < 12 then modStack s (paStack pa) (fun k => { k with ring := ringPush k.ring e })
  else { s with absentRing := ringPush s.absentRing e }

/-- The 32 bytes of a record. -/
def MemRec.pack (e : MemRec) : List Byte :=
  toBytes 32 (packFields
    [(40, 0), (40, e.lanes), (4, e.source), (4, e.symbols), (4, e.kind), (4, paStack e.addr), (2, bits e.addr 19 18),
     (2, bits e.addr 17 16), (2, bits e.addr 21 20), (6, paPch e.addr), (4, bits e.addr 15 15 * 8 + bits e.addr 8 6),
     (16, paRow e.addr), (64, e.addr), (64, e.time)])

/-! ## Poison and tags -/

def isPoisoned (s : State) (pa : Nat) : Bool := (mapGet s.poison (sectorOf pa)).isSome

def symbolErrors (s : State) (pa : Nat) : List (Nat × Nat) :=
  ((mapGet s.errors (sectorOf pa)).getD []).map (fun e => (e.1, e.2.toNat))

/-- Key set the home uses for a stack: its forme's, or Lumiz's (08 R268 step 4). -/
def ownerKeys (s : State) (k : Nat) : Nat :=
  match (formeOfStack s k).bind (getForme s) with
  | some f => f.keySet
  | none => s.sec.lumizKeys

/-! ## What the stack holds (08 R266, 15 R502 to R504) -/

/-- Key set under which a sector was written: Lumiz's for its own area, the stack's otherwise. -/
def writtenKeys (s : State) (pa : Nat) : Nat :=
  if paReserved pa && !(getStack s (paStack pa)).quiesced then s.sec.lumizKeys else (getStack s (paStack pa)).keySet

/-- Key set with which the home reads it (08 R268 step 4). -/
def readerKeys (s : State) (pa : Nat) : Nat := if paReserved pa then s.sec.lumizKeys else ownerKeys s (paStack pa)

/-- Bytes 0 to 67 of a sector's codeword without its symbol errors (08 Table 8.8): ciphertext and tag, or zeros where the
sector is stored poisoned. -/
def storedWord (s : State) (pa : Nat) : List Nat :=
  if isPoisoned s pa then List.replicate 68 0
  else
    let k := keySetOf (writtenKeys s pa)
    let c := sealSector k (sectorOf pa) ((poolBytes s pa).map (·.toNat))
    c ++ sectorTag k (sectorOf pa) c

/-- The plaintext that the home reads from a codeword with the symbols of `left` wrong, if the tag then matches. A codeword
read as it was written and under the keys it was written under deciphers to what was written. -/
def openWord (s : State) (pa : Nat) (left : List (Nat × Nat)) : Option (List Byte) :=
  if readerKeys s pa = writtenKeys s pa ∧ left = [] ∧ isPoisoned s pa = false then
    some (poolBytes s pa)
  else
    let flip (i x : Nat) : Nat :=
      match left.find? (fun e => e.1 = i) with
      | some e => Nat.xor x e.2
      | none => x
    let w := ((List.range 68).zip (storedWord s pa)).map (fun x => flip x.1 x.2)
    let k := keySetOf (readerKeys s pa)
    if sectorTag k (sectorOf pa) (w.take 64) = w.drop 64 then
      some ((openSector k (sectorOf pa) (w.take 64)).map (fun x => BitVec.ofNat 8 x))
    else none

/-! ## Rows and classes (08 R262, R277) -/

def Pch.reset : Pch :=
  { queue := [], held := [], slots := [], recovering := none, confirmed := false, failed := none, lostAt := none,
    crcErrors := [], replay := [], openRows := [] }

def modPch (s : State) (k p : Nat) (g : Pch → Pch) : State :=
  modStack s k (fun x => { x with pchs := mapUpd x.pchs Pch.reset p g })

def getPch (s : State) (k p : Nat) : Pch := mapGetD (getStack s k).pchs Pch.reset p

/-- Stores a sector poisoned: data and tag zero, the mark in its check bytes (08 R269). An earlier burst of the sector is not
issued again (08 R273). -/
def poisonSector (s : State) (pa : Nat) : State :=
  let s := if isPoisoned s pa then s else countFor s (formeOfStack s (paStack pa)) .memPoisonSet 1
  let s := modPch s (paStack pa) (paPch pa) (fun c =>
    { c with replay := c.replay.filter (fun b => b.pa ≠ sectorBase pa) })
  { s with mem := writeBytes s.mem (sectorBase pa) (List.replicate 64 0#8),
           poison := mapSet s.poison (sectorOf pa) (), errors := mapDel s.errors (sectorOf pa) }

def rowOpen (c : Pch) (pa : Nat) : Bool := mapGet c.openRows (paBank pa) == some (paRow pa)

/-- One data slot of a request: its class, its bytes, and the activation of its row if that is not open. -/
def memSlot (s : State) (pa : Nat) (prio write : Bool) : State :=
  let k := paStack pa
  let f := formeOfStack s k
  let miss := !rowOpen (getPch s k (paPch pa)) pa
  let s := modPch s k (paPch pa) (fun p =>
    { p with slots := (prio :: p.slots).take 16, openRows := mapSet p.openRows (paBank pa) (paRow pa) })
  let s := if miss then countFor s f .memRowMiss 1 else s
  countFor s f (if write then .memWrBytes else if prio then .memRdPrioBytes else .memRdNormBytes) 64

/-! ## Byte lanes (08 R273, R274) -/

/-- Lanes of a byte lane, as a mask; byte lane 4 is the companion lanes. -/
def laneMask (lane : Nat) : Nat := 255 * 2 ^ (8 * lane)

/-- The byte lane on which a symbol of the codeword travels (08 R255, Table 8.8): the tag and the check bytes on the
companion lanes, data on one of the four byte lanes of data, of which the spec does not say which (Config.symbolLanes). -/
def byteLaneOf (pos : Nat) : Nat := if pos ≥ 64 then 4 else Config.symbolLanes pos / 256 % 4

/-- The lanes of a symbol, a mask that is not empty: some lanes of its byte lane. -/
def symbolLanes (pos : Nat) : Nat := (Config.symbolLanes pos % 255 + 1) * 2 ^ (8 * byteLaneOf pos)

def symbolInLane (lane pos : Nat) : Bool := byteLaneOf pos == lane

/-- The byte lane that holds every symbol error of a pattern. -/
def patternLane (errs : List (Nat × Nat)) : Option Nat :=
  if errs.isEmpty then none else (List.range 5).find? (fun l => errs.all (fun e => symbolInLane l e.1))

/-- The read that has found a byte lane dead: no step of R268 decodes it. -/
def laneDead (s : State) (pa : Nat) : Option Nat :=
  let errs := symbolErrors s pa
  let p := patternAdd errs (if isPoisoned s pa then poisonMask else [])
  if (rsCorrect p).isNone && (rsCorrect (patternAdd p poisonMask)).isNone then patternLane errs else none

/-- The bits 111:92 of a memory error record, for the retirement record (18 Table 18.9). -/
def memDetail (pa : Nat) : Nat :=
  packFields [(4, paStack pa), (2, bits pa 19 18), (2, bits pa 17 16), (2, bits pa 21 20), (6, paPch pa),
    (4, bits pa 15 15 * 8 + bits pa 8 6)]

/-- The symbol errors of the sectors of a pseudo-channel but for those of one byte lane. -/
def withoutLane (k p lane : Nat) (errors : SMap (List (Nat × Byte))) : SMap (List (Nat × Byte)) :=
  errors.filterMap (fun kv =>
    if paStack (kv.1 * 64) = k ∧ paPch (kv.1 * 64) = p then
      let left := kv.2.filter (fun e => !symbolInLane lane e.1)
      if left.isEmpty then none else some (kv.1, left)
    else some kv)

/-- The byte lane is moved onto the pair's spare and its errors end; with the spare in use the node retires (08 R273,
R274, Table 8.10). -/
def laneMove (s : State) (k p lane pa : Nat) : State :=
  if (getStack s k).sparesUsed.contains (p / 2) then
    retire s { code := 4, unit := 0x10 + k, detail := memDetail pa }
  else
    let s := modStack s k (fun x => { x with sparesUsed := x.sparesUsed ++ [p / 2] })
    { s with errors := withoutLane k p lane s.errors }

/-- The recovery is over: a LANE record, and one lane event (08 Table 8.10). SOURCE is that of the read that found the lane
dead, or write CRC; SYMBOLS is 0, since no symbol was corrected (notes/assumptions/115.md DESIGN CHOICE). -/
def laneDone (s : State) (k lane pa source : Nat) : State :=
  let s := memRecord s pa 5 0 source (laneMask lane)
  countFor s (formeOfStack s k) .memLaneEvents 1

/-- The whole recovery of a read that meets a dead byte lane. -/
def laneToSpare (s : State) (k p lane pa source : Nat) : State :=
  if (getStack s k).sparesUsed.contains (p / 2) then laneMove s k p lane pa
  else laneDone (laneMove s k p lane pa) k lane pa source

/-! ## Temperature of a stack (08 R260, 16 Table 16.8) -/

/-- A stack's sensor reads `t` °C: above 85 the refresh rate doubles until 82 or less, the time counted in milliseconds, and
at 92 the home throttles the stack until 88 or less. -/
def stackTemp (s : State) (k t : Nat) : State :=
  let x := getStack s k
  let s := if x.refresh2x && t ≤ 82 then
      countFor s (formeOfStack s k) .memRefresh2x ((s.now - x.since2x) / 1000000)
    else s
  modStack s k (fun y =>
    { y with temp := t, refresh2x := if 85 < t then true else if t ≤ 82 then false else y.refresh2x,
             since2x := if 85 < t && !y.refresh2x then s.now else y.since2x,
             throttled := if 92 ≤ t then true else if t ≤ 88 then false else y.throttled })

/-! ## Reading a sector (08 R268) -/

structure SectorRead where
  data : List Byte
  poisoned : Bool
  absent : Bool
deriving DecidableEq, Repr

def SectorRead.bad : SectorRead := { data := List.replicate 64 0#8, poisoned := true, absent := false }

/-- Step 5 of R268: the sector is returned poisoned, written back poisoned unless it was so already, and recorded; the
write-back is no counted write (DESIGN CHOICE, notes/assumptions/115.md). Which symbols the decoder located in an
uncorrectable sector is open: LANES of that record is a free value, but zero for a merge (08 Table 8.11). -/
def readFails (s : State) (pa kind symbols source : Nat) : State × SectorRead :=
  let t := if isPoisoned s pa then s else poisonSector s pa
  if kind = 2 ∧ source ≠ 3 then
    (memRecord t.drawn pa kind symbols source (Config.freeNat t.free % 2 ^ 40), SectorRead.bad)
  else (memRecord t pa kind symbols source 0, SectorRead.bad)

/-- The symbols of a codeword that differ from what was written become those of a pattern. -/
def setErrors (s : State) (pa : Nat) (p : List (Nat × Nat)) : State :=
  if p.isEmpty then { s with errors := mapDel s.errors (sectorOf pa) }
  else { s with errors := mapSet s.errors (sectorOf pa) (p.map (fun e => (e.1, BitVec.ofNat 8 e.2))) }

/-- Step 4 of R268: the tag check of a codeword whose `fixed` symbols were corrected, with `left` symbols wrong. A corrected
codeword is counted, recorded and written back (08 R271); the write-back counts neither in MEM_WR_BYTES nor in MEM_ROW_MISS
(DESIGN CHOICE, notes/assumptions/115.md). -/
def readTag (s : State) (pa source : Nat) (fixed left : List (Nat × Nat)) : State × SectorRead :=
  match openWord s pa left with
  | some data =>
    let t :=
      if fixed.isEmpty then s
      else
        let t := countFor s (formeOfStack s (paStack pa)) .memCorr 1
        let lanes := if source = 3 then 0 else fixed.foldl (fun a e => Nat.lor a (symbolLanes e.1)) 0
        setErrors (memRecord t pa 1 fixed.length source lanes) pa left
    (t, { data := data, poisoned := false, absent := false })
  | none => readFails s pa 3 fixed.length source

/-- Steps 1 to 5 of R268. -/
def readDecode (s : State) (pa source : Nat) : State × SectorRead :=
  let errs := symbolErrors s pa
  let pat := patternAdd errs (if isPoisoned s pa then poisonMask else [])
  match rsCorrect pat with
  | some fix => readTag s pa source fix (patternAdd pat fix)
  | none =>
    match rsCorrect (patternAdd pat poisonMask) with
    | some fix => readFails s pa 4 fix.length source
    | none => readFails s pa 2 0xF source

/-- A read that the controller carries out: a dead byte lane goes onto its spare and the read is carried out again
(08 R273). -/
def sectorRead (source : Nat) (prio : Bool) (pa : Nat) (s : State) : State × SectorRead :=
  let s := memSlot s pa prio false
  match laneDead s pa with
  | some lane => readDecode (laneToSpare s (paStack pa) (paPch pa) lane pa source) pa source
  | none => readDecode s pa source

/-! ## Writing a sector (08 R264, R269) -/

/-- All 64 bytes: the codeword is whole again and any mark ends. -/
def writeWhole (s : State) (pa : Nat) (data : List Byte) : State :=
  { s with mem := writeBytes s.mem (sectorBase pa) data, poison := mapDel s.poison (sectorOf pa),
           errors := mapDel s.errors (sectorOf pa) }

/-- Bytes of `new` where the mask has a bit, of `old` elsewhere. -/
def mergeBytes (mask : Nat) (old new : List Byte) : List Byte :=
  ((List.range old.length).zip (old.zip new)).map (fun x => if bit mask x.1 then x.2.2 else x.2.1)

def fullMask : Nat := 2 ^ 64 - 1

/-- Bursts that the stack may still report: the mismatch comes within 60 ns (08 R273), so an older one has been accepted. -/
def liveBursts (now : Nat) (bs : List Burst) : List Burst := bs.filter (fun b => decide (now ≤ b.time + 60))

/-- A write burst of all 64 bytes goes to the stack, and stays in the replay buffer. -/
def burst (s : State) (pa : Nat) (data : List Byte) : State :=
  writeWhole (modPch (memSlot s pa false true) (paStack pa) (paPch pa) (fun c =>
    { c with replay := ({ pa := sectorBase pa, data := data, time := s.now } :: liveBursts s.now c.replay).take 128 })) pa data

/-- The merge of a partial write: the sector is read in the normal class, and written whole unless it is poisoned
(08 R269). -/
def mergeWrite (s : State) (pa mask : Nat) (data : List Byte) : State :=
  let r := readDecode s pa 3
  if r.2.poisoned then r.1 else burst r.1 pa (mergeBytes mask r.2.data data)

/-- A write that the controller carries out; one of part of a sector is a read, merge and write (08 R269), and a merge
read that meets a dead byte lane is carried out again on the spare (08 R273). -/
def sectorWrite (pa mask : Nat) (data : List Byte) (s : State) : State :=
  if mask = fullMask then burst s pa data
  else
    let s := memSlot s pa false false
    match laneDead s pa with
    | some lane => mergeWrite (laneToSpare s (paStack pa) (paPch pa) lane pa 3) pa mask data
    | none => mergeWrite s pa mask data

/-! ## The controller's queue (08 R262 to R264) -/

/-- There is room for a request: the priority class has 16 entries, everything else 48. -/
def hasEntry (c : Pch) (r : MemReq) : Bool :=
  if r.priority then (c.queue.filter (·.priority)).length < 16 else (c.queue.filter (fun x => !x.priority)).length < 48

/-- Memory clock cycles of 1.5 GHz since a time. -/
def cyclesSince (s : State) (t : Nat) : Nat := (s.now - t) * 3 / 2

/-- A home refuses normal requests: a pseudo-channel of its two stacks holds one back. -/
def homeRefuses (s : State) (h : Nat) : Bool :=
  [2 * h, 2 * h + 1].any (fun k => (getStack s k).pchs.any (fun kv => kv.2.held.any (fun r => !r.priority)))

/-- Notes when the home of a stack begins to refuse normal requests, and counts the time when it no longer does (01 Table 1.8
HOME_Q_FULL). -/
def noteRefusal (s : State) (k : Nat) : State :=
  let h := k / 2
  match mapGet s.homeFull h with
  | none => if homeRefuses s h then { s with homeFull := mapSet s.homeFull h s.now } else s
  | some t =>
    if homeRefuses s h then s
    else countFor { s with homeFull := mapDel s.homeFull h } (formeOfStack s k) .homeQFull (cyclesSince s t)

/-- A request held back enters the queue when its class has an entry, the oldest first. -/
def letIn (s : State) (k p : Nat) : State :=
  match (getPch s k p).held.find? (hasEntry (getPch s k p)) with
  | some r =>
    noteRefusal (modPch s k p (fun c =>
      { c with held := c.held.erase r, queue := c.queue ++ [{ r with time := s.now }] })) k
  | none => s

/-- Requests that are ready: no older one of the queue names the same sector (08 R264). -/
def readyFrom (seen : List Nat) : List MemReq → List MemReq
  | [] => []
  | r :: q =>
    if seen.contains (sectorOf r.pa) then readyFrom seen q
    else r :: readyFrom (sectorOf r.pa :: seen) q

/-- A normal entry older than 1,500 ns. -/
def MemReq.aged (r : MemReq) (now : Nat) : Bool := !r.priority && decide (r.time + 1500 < now)

/-- Of ready requests, oldest first, one whose row is open goes ahead of one that needs an activation. -/
def openFirst (c : Pch) (rs : List MemReq) : Option MemReq :=
  match rs.find? (fun r => rowOpen c r.pa) with
  | some r => some r
  | none => rs.head?

/-- The request that takes the next data slot (08 R263). While the priority class has used fewer than 8 of the last 16 slots
its oldest ready read goes first, or an older aged entry of that read's bank. Otherwise a normal request goes, since either
class receives half the slots (notes/assumptions/115.md), and a priority read where no normal one is ready. -/
def nextSlot (c : Pch) (now : Nat) : Option MemReq :=
  let rs := readyFrom [] c.queue
  let normals := rs.filter (fun r => !r.priority)
  match rs.find? (·.priority) with
  | none => openFirst c normals
  | some r =>
    if (c.slots.filter (fun x => x)).length < 8 then
      rs.find? (fun x => x == r || x.aged now && paBank x.pa == paBank r.pa)
    else if normals.isEmpty then openFirst c rs
    else openFirst c normals

/-- Carries out a queued request. -/
def serve (s : State) (r : MemReq) : State :=
  match r.write with
  | some (mask, data) => sectorWrite r.pa mask data s
  | none => (sectorRead 1 r.priority r.pa s).1

/-- Carries out up to `n` requests of a pseudo-channel, and lets those held back in as entries become free. -/
def serveFor : Nat → State → Nat → Nat → State
  | 0, s, _, _ => s
  | n + 1, s, k, p =>
    match nextSlot (getPch s k p) s.now with
    | none => s
    | some r =>
      let s := letIn (modPch s k p (fun c => { c with queue := c.queue.erase r })) k p
      serveFor n (serve s r) k p

/-- Carries out the queue of a pseudo-channel. -/
def serveQueue (s : State) (k p : Nat) : State :=
  serveFor ((getPch s k p).queue.length + (getPch s k p).held.length) s k p

/-- A request reaches the controller of a pseudo-channel that issues nothing: it takes an entry, or is held back. -/
def enqueue (s : State) (r : MemReq) : State :=
  noteRefusal (modPch s (paStack r.pa) (paPch r.pa) (fun c =>
    if hasEntry c r then { c with queue := c.queue ++ [r] } else { c with held := c.held ++ [r] })) (paStack r.pa)

/-- Carries out what goes before a request of the queue, and takes the request from the queue. -/
def serveBefore : Nat → State → Nat → Nat → MemReq → State
  | 0, s, _, _, _ => s
  | n + 1, s, k, p, r =>
    match nextSlot (getPch s k p) s.now with
    | none => s
    | some x =>
      let s := letIn (modPch s k p (fun c => { c with queue := c.queue.erase x })) k p
      if x.pa = r.pa ∧ x.priority = r.priority ∧ x.write = r.write then s else serveBefore n (serve s x) k p r

/-- A request that an access of another command makes takes its turn among those that wait at its controller (08 R263); a
request that is carried out then, and the rest of the queue after it (notes/assumptions/115.md). -/
def inTurn {α : Type} (s : State) (r : MemReq) (act : State → State × α) : State × α :=
  let k := paStack r.pa
  let p := paPch r.pa
  let c := getPch s k p
  if c.queue.isEmpty && c.held.isEmpty then act s
  else
    let x := act (serveBefore (c.queue.length + c.held.length + 1) (enqueue s r) k p r)
    (serveQueue x.1 k p, x.2)

/-! ## Requests that wait (08 R273, 16 R541) -/

/-- Address a recovery's record names: that at which it began, or a free one of the pseudo-channel. -/
def heldPa (s : State) (k p : Nat) : State × Nat :=
  match (getPch s k p).lostAt with
  | some pa => (s, pa)
  | none => (s.drawn, k * 2 ^ 37 + Config.freeNat s.free % 2 ^ 16 * 2 ^ 15 + p * 2 ^ 9)

/-- A pseudo-channel that recovers no lane. -/
def Pch.sound (c : Pch) : Pch :=
  { c with recovering := none, confirmed := false, failed := none, lostAt := none, crcErrors := [] }

/-- Writes of the replay buffer are issued again, oldest first; the newest of each sector decides what it holds. Those that the
stack had accepted left the buffer when the recovery began (`stopPch`). -/
def reissue (s : State) (k p : Nat) : State :=
  (getPch s k p).replay.reverse.foldl (fun s b => writeWhole s b.pa b.data) (modPch s k p (fun c => { c with replay := [] }))

/-- A recovery begins: the pseudo-channel stops, with the bursts that the stack has not accepted (08 Table 8.10). -/
def stopPch (now lane : Nat) (c : Pch) : Pch :=
  { c with recovering := some lane, confirmed := false, replay := liveBursts now c.replay }

/-- The recovery has ended on a pseudo-channel: the replay buffer and then the held request are carried out. -/
def goOn (s : State) (k p : Nat) (held : Option MemReq) : State :=
  let s := reissue (modPch s k p Pch.sound) k p
  match held with
  | some r => serve s r
  | none => s

/-- SOURCE of the LANE record of a recovery: that of the read that failed, or write CRC (08 Table 8.11). -/
def Pch.laneSource (c : Pch) : Nat :=
  match c.failed with
  | some r => if r.write.isSome then 3 else 1
  | none => 4

/-- Ends a recovery: the lane is on the spare, writes of the replay buffer and then the held requests are carried out
(08 Table 8.10). -/
def endRecovery (s : State) (k p lane : Nat) : State :=
  let r := heldPa s k p
  goOn (laneDone r.1 k lane r.2 (getPch s k p).laneSource) k p (getPch s k p).failed

/-- Whether a pseudo-channel issues nothing now. -/
def pchBlocked (s : State) (k p : Nat) : Bool := (getStack s k).selfRefresh || (getPch s k p).recovering.isSome

/-- A pseudo-channel that recovers no lane carries out its queue. -/
def serveFree (k : Nat) (s : State) (p : Nat) : State := if (getPch s k p).recovering.isSome then s else serveQueue s k p

/-- Pseudo-channels of a stack at which requests wait, but for one. -/
def waitingPchs (s : State) (k : Nat) (but : Option Nat) : List Nat :=
  ((getStack s k).pchs.filter (fun kv => (!kv.2.queue.isEmpty || !kv.2.held.isEmpty) && some kv.1 != but)).map (·.1)

/-- A stack leaves self-refresh and its pseudo-channels, but for one, carry out what waited (16 R541). -/
def wakeStack (s : State) (k : Nat) (but : Option Nat) : State :=
  if (getStack s k).selfRefresh then
    let s := modStack s k (fun x => { x with selfRefresh := false })
    (waitingPchs s k but).foldl (serveFree k) s
  else s

/-- Every stack leaves self-refresh. -/
def wakeStacks (s : State) : State := (List.range 12).foldl (fun s k => wakeStack s k none) s

/-- A recovery that an access waits for is over: where the loopback test has not been, it confirms the byte lane. -/
def recoverLane (s : State) (k p : Nat) : State :=
  match (getPch s k p).recovering with
  | none => s
  | some lane =>
    if (getPch s k p).confirmed then endRecovery s k p lane
    else
      let r := heldPa s k p
      let t := laneMove r.1 k p lane r.2
      if t.powered then endRecovery t k p lane else t

/-- An access waits until the stack has left self-refresh and a recovery has ended (16 R541, 08 R273). -/
def unblock (s : State) (k p : Nat) : State := recoverLane (wakeStack s k (some p)) k p

/-- A read of one sector at its home; an absent address gives no data (08 R258), and its record names no symbol
(notes/assumptions/115.md DESIGN CHOICE). -/
def homeRead (source : Nat) (prio : Bool) (pa : Nat) (s : State) : State × SectorRead :=
  if paAbsent pa then
    (memRecord s pa 6 0 source 0, { data := List.replicate 64 0#8, poisoned := false, absent := true })
  else
    let s := unblock s (paStack pa) (paPch pa)
    inTurn s { pa := pa, priority := prio, write := none, time := s.now } (sectorRead source prio pa)

/-- A write that takes its turn. -/
def writeInTurn (pa mask : Nat) (data : List Byte) (act : State → State) (s : State) : State :=
  let s := unblock s (paStack pa) (paPch pa)
  (inTurn s { pa := pa, priority := false, write := some (mask, data), time := s.now } (fun s => (act s, ()))).1

/-- A write at the home, `mask` naming the bytes written. The spec names no SOURCE for the record of a write to an absent
address: a free value. -/
def homeWrite (pa mask : Nat) (data : List Byte) (s : State) : State :=
  if paAbsent pa then memRecord s.drawn pa 6 0 (Config.freeNat s.free % 16) 0
  else writeInTurn pa mask data (sectorWrite pa mask data) s

/-- The burst of a sector that is stored poisoned takes its turn as any other write. -/
def poisonBurst (s : State) (pa : Nat) : State := poisonSector (memSlot s pa false true) pa

/-- A sector that arrives poisoned is written poisoned (09 R292). -/
def homeWriteSector (pa : Nat) (poisoned : Bool) (data : List Byte) (s : State) : State :=
  if poisoned then
    if paAbsent pa then memRecord s.drawn pa 6 0 (Config.freeNat s.free % 16) 0
    else writeInTurn pa fullMask (List.replicate 64 0#8) (fun s => poisonBurst s pa) s
  else homeWrite pa fullMask data s

/-! ## Lines -/

structure LineData where
  data : List Byte
  p0 : Bool
  p1 : Bool
  absent : Bool
deriving DecidableEq, Repr

/-- Both sectors of a line from memory; an absent line writes one record. -/
def homeReadLine (prio : Bool) (pa : Nat) (s : State) : State × LineData :=
  if paAbsent pa then
    (memRecord s pa 6 0 1 0, { data := List.replicate 128 0#8, p0 := false, p1 := false, absent := true })
  else
  let r0 := homeRead 1 prio pa s
  let r1 := homeRead 1 prio (pa + 64) r0.1
  (r1.1, { data := r0.2.data ++ r1.2.data, p0 := r0.2.poisoned, p1 := r1.2.poisoned,
           absent := r0.2.absent || r1.2.absent })

def homeWriteLine (pa : Nat) (d : LineData) (s : State) : State :=
  homeWriteSector (pa + 64) d.p1 (d.data.drop 64) (homeWriteSector pa d.p0 (d.data.take 64) s)

end Sys2Proof.Machine
end

