-- ==== Sys2Proof/Machine/Gutter.lean ====
section
/-! DEFINITION. The Gutter (01 R21 to R51): links and routes, the division of a link between its two roles, credits and
buffers, the order in which messages arrive, and the counts of a forme's traffic. A message that waits in a line's
transaction (Machine/Coh.lean) has a flight here from the moment it is sent to the moment it arrives. -/

namespace Sys2Proof.Machine

open Sys2Proof

/-! ## Links and routes (01 Table 1.3, R40, R41) -/

/-- Ends of the nineteen links, by number; 6 and 7 are Compositors A and B. -/
def linkEnds : List (Nat × Nat) :=
  [(0, 1), (1, 2), (3, 4), (4, 5), (0, 3), (1, 4), (2, 5), (0, 4), (1, 3), (1, 5), (2, 4), (6, 0), (6, 3), (6, 1), (6, 4),
   (7, 2), (7, 5), (7, 1), (7, 4)]

/-- Two dies with a direct link. -/
def linked (a b : Nat) : Bool := linkEnds.contains (a, b) || linkEnds.contains (b, a)

/-- Link from one die to another, and its direction: 0 from the end named first. -/
def linkOf (a b : Nat) : Option (Nat × Nat) :=
  if linkEnds.contains (a, b) then some (linkEnds.idxOf (a, b), 0)
  else if linkEnds.contains (b, a) then some (linkEnds.idxOf (b, a), 1)
  else none

/-- A link with a Compositor at one end. -/
def compLink (link : Nat) : Bool := decide (11 ≤ link)

/-- Middle die of a message to a die two hops away. -/
def middleDie (dst : Nat) : Nat := if dst = 0 ∨ dst = 2 ∨ dst = 6 then 1 else 4

/-- The middle die of a forme's traffic, its own centre Platen where R41 has chosen that. -/
def viaDie (f : Option Forme) (src dst : Nat) : Nat :=
  match f.bind (fun x => x.reroutes.find? (fun r => r.1 = src ∧ r.2.1 = dst)) with
  | some r => r.2.2
  | none => middleDie dst

/-- Links of a message's route, with their directions; none within one die. -/
def routeOf (f : Option Forme) (src dst : Nat) : List (Nat × Nat) :=
  if src = dst then []
  else
    match linkOf src dst with
    | some l => [l]
    | none =>
      let m := viaDie f src dst
      (linkOf src m).toList ++ (linkOf m dst).toList

/-- Die of a coherence agent (09 Table 9.1); agents above 9 are the copy engines of Platens 0 to 5 (09 R286). -/
def dieOfAgent (a : Nat) : Nat := if a < 8 then a else if a < 10 then a - 2 else a - 10

/-! ## Roles and credits (01 R27, R28, R33 to R35, R47) -/

/-- Coherent and bulk lane groups of a division code (01 Table 1.4). -/
def divisionOf (code : Nat) : Nat × Nat :=
  if code = 1 then (4, 12) else if code = 2 then (6, 10) else if code = 3 then (8, 8) else (10, 6)

/-- Lane groups of a role of a link under the division in force, fixed from one cold reset to the next. -/
def roleGroups (s : State) (link : Nat) (bulk : Bool) : Nat :=
  let d := divisionOf (if compLink link then s.applCp else s.applPp)
  if bulk then d.2 else d.1

/-- A mesh packet of the prompt class, which has credits of its own in the bulk role and is sent first there (14 R477). -/
def Flight.prompt (x : Flight) : Bool := x.transit.any (fun t => t.2.prompt)

/-- Flights that share a receive buffer of a link: the bulk role has one, divided by destination at a Compositor (R47),
and one for prompt mesh packets; the coherent role has one for each channel (R34). -/
def sameBuffer (l : Nat × Nat) (x y : Flight) : Bool :=
  x.bulk == y.bulk && x.prompt == y.prompt &&
    (if x.bulk then !(compLink l.1 && l.2 == 1) || x.unit == y.unit else x.chan == y.chan)

/-- Number of a buffer of a link, as Config.gutCredits takes it. -/
def bufferOf (l : Nat × Nat) (x : Flight) : Nat :=
  (((l.1 * 2 + l.2) * 2 + boolBit x.bulk) * 2 + boolBit x.prompt) * 32 +
    (if x.bulk then (if compLink l.1 && l.2 == 1 then x.unit else 0) else x.chan)

/-- A message at its requester that is not taken yet: a forward while snoops of its transaction are out. It holds no
buffer of a link. -/
def stalledAt (txns : SMap Txn) (x : Flight) : Bool :=
  x.kind == 9 && (match mapGet txns x.line with
    | some t => !t.waiting.isEmpty
    | none => false)

/-- The link a message is on. -/
def Flight.link (x : Flight) : Option (Nat × Nat) := x.route.head?

/-- A flight that `x` may not overtake on the link both are on: every message of a role leaves a link in the order it entered,
whichever die and forme it comes from (R33, R43); into a Compositor the bulk role keeps that order for each of its
destinations (R47), and prompt mesh packets pass the other ones of the role (14 R477). None is ordered between the two roles. -/
def ahead (txns : SMap Txn) (x y : Flight) : Bool :=
  y.entered && y.bulk == x.bulk && y.prompt == x.prompt && x.link.isSome && y.link == x.link && !stalledAt txns y &&
    (match x.link with
     | some l => !x.bulk || !(compLink l.1 && l.2 == 1) || x.unit == y.unit
     | none => false)

/-- A message that is the next to leave the link it is on. -/
def headOf (txns : SMap Txn) (earlier : List Flight) (x : Flight) : Bool := x.entered && !earlier.any (ahead txns x)

/-- Flights of `fs` that hold a credit of the buffer of a link which `x` needs. -/
def creditsUsed (txns : SMap Txn) (fs : List Flight) (x : Flight) (l : Nat × Nat) : Nat :=
  (fs.filter (fun y => y.entered && y.link == some l && sameBuffer l x y && !stalledAt txns y)).length

/-- There is a credit of the receive buffer of a link (R34). -/
def hasCredit (txns : SMap Txn) (fs : List Flight) (x : Flight) (l : Nat × Nat) : Bool :=
  creditsUsed txns fs x l == 0 || decide (creditsUsed txns fs x l ≤ Config.gutCredits (bufferOf l x))

/-- The first flight that satisfies a test, which sees the flights before it; what stands before and after. -/
def pickFlight (p : List Flight → Flight → Bool) : List Flight → List Flight → Option (List Flight × Flight × List Flight)
  | _, [] => none
  | earlier, x :: r => if p earlier x then some (earlier, x, r) else pickFlight p (earlier ++ [x]) r

/-- A flight enters a link: it stands last of those that are on the links. -/
def enterLink (fs : List Flight) (x : Flight) : List Flight := fs.filter (·.entered) ++ x :: fs.filter (fun y => !y.entered)

/-- One movement that nothing holds up: a message goes on to its second link, the data of a write is in its home, or a held
message enters its first link. -/
def moveFlight (txns : SMap Txn) (fs : List Flight) : Option (List Flight) :=
  let onward (earlier : List Flight) (x : Flight) : Bool :=
    headOf txns earlier x && (match x.route with
      | _ :: l :: _ => hasCredit txns fs x l
      | _ => x.kind == 13)
  match pickFlight onward [] fs with
  | some (a, x, b) =>
    if x.route.length ≤ 1 then some (a ++ b) else some (enterLink (a ++ b) { x with route := x.route.drop 1 })
  | none =>
    let enters (x : Flight) : Bool :=
      !x.entered && (match x.link with
        | some l => hasCredit txns fs x l
        | none => true)
    let first := (pickFlight (fun _ x => x.prompt && enters x) [] fs).or (pickFlight (fun _ x => enters x) [] fs)
    first.map (fun q => enterLink (q.1 ++ q.2.2) { q.2.1 with entered := true })

/-- Messages move as far as nothing holds them up, `n` movements at most. -/
def moveFlights (txns : SMap Txn) : Nat → List Flight → List Flight
  | 0, fs => fs
  | n + 1, fs =>
    match moveFlight txns fs with
    | some fs => moveFlights txns n fs
    | none => fs

/-- Each message enters, goes on once, and leaves. -/
def movedFlights (txns : SMap Txn) (fs : List Flight) : List Flight := moveFlights txns (3 * fs.length) fs

/-! ## Messages (09 Table 9.6) -/

/-- Kind and agent of a message. -/
def Msg.code : Msg → Nat × Nat
  | .snp .shared a _ _ _ => (0, a)
  | .snp .inv a _ _ _ => (1, a)
  | .snp .peek a _ _ _ => (2, a)
  | .snp .clean a _ _ _ => (3, a)
  | .snp .push a _ _ _ => (4, a)
  | .snpData a _ _ _ => (5, a)
  | .snpAck a => (6, a)
  | .snpNp a => (7, a)
  | .dataTo a _ _ _ _ => (8, a)
  | .fwdTo a _ _ _ _ _ => (9, a)
  | .compTo a _ => (10, a)
  | .grantAck a => (11, a)

/-- Whether a kind of message carries a line. -/
def kindCarries (kind : Nat) : Bool := kind == 4 || kind == 5 || kind == 8 || kind == 9

/-- Forme whose traffic a line is: the one that holds its stack. -/
def lineForme (s : State) (ln : Nat) : Option Nat := formeOfStack s (paStack (ln * 128))

/-- Stands for the request of what has none. -/
def Req.nobody : Req := { agent := 0, kind := .rdOnce, group := none, prio := false, unit := 0, zero := false }

/-- The flight of a message of a line's transaction, with its role and channel. -/
def flightOf (s : State) (ln : Nat) (r : Req) (m : Msg) : Flight :=
  let home := paHome (ln * 128)
  let k := m.code.1
  let die := dieOfAgent m.code.2
  let toHome := k == 5 || k == 6 || k == 7 || k == 11
  let src := match m with
    | .fwdTo _ _ _ _ _ o => dieOfAgent o
    | _ => if toHome then die else home
  let f := lineForme s ln
  { line := ln, kind := k, agent := m.code.2, src := src, bulk := k == 5 || k == 8, chan := if k < 5 then 1 else 2,
    unit := if 8 ≤ m.code.2 then r.unit else 0,
    route := routeOf (f.bind (getForme s)) src (if toHome then home else die), forme := f, entered := false, req := none,
    transit := none }

/-! ## Counts (01 Table 1.8, 17 R570) -/

def mapAdd (m : SMap Nat) (k n : Nat) : SMap Nat := mapUpd m 0 k (· + n)

/-- Adds a message's bytes, as it is sent, to its forme's counts, and to those of the links it crosses. -/
def Gutter.carry (g : Gutter) (x : Flight) (bytes : Nat) : Gutter :=
  let hops := x.route.length
  let f := x.forme.getD 4 * 8
  let counts := mapAdd g.counts (f + (if x.bulk then 0 else 1)) (bytes * hops)
  let counts := if x.bulk && hops != 0 then mapAdd counts (f + 2) bytes else counts
  let counts := if x.bulk && hops == 2 then mapAdd counts (f + 3) bytes else counts
  { g with counts := counts,
           carried := x.route.foldl (fun m l => mapAdd m (l.1 * 4 + l.2 * 2 + boolBit x.bulk) bytes) g.carried }

/-- The bytes of a message that arrives in the step that sends it (notes/assumptions/115.md). -/
def gutMessage (s : State) (f : Option Nat) (src dst : Nat) (bulk : Bool) (kind bytes : Nat) : State :=
  let x : Flight :=
    { line := 0, kind := kind, agent := 0, src := src, bulk := bulk, chan := 0, unit := 0,
      route := routeOf (f.bind (getForme s)) src dst, forme := f, entered := true, req := none, transit := none }
  { s with gut := s.gut.carry x (Config.gutHeader kind + bytes) }

def flightBytes (x : Flight) (zero : Bool) : Nat :=
  Config.gutHeader x.kind + (if kindCarries x.kind && !zero then 128 else 0)

/-- Senders that hold a message, by forme × 8 + die. -/
def holdersNow (fs : List Flight) : List Nat :=
  (fs.filter (fun x => !x.entered)).map (fun x => x.forme.getD 4 * 8 + x.src)

/-- Time is counted for senders that hold a message no more; those that begin to hold one are noted (GUT_CREDIT_WAIT). -/
def Gutter.noteHolding (g : Gutter) (now : Nat) : Gutter :=
  let ks := holdersNow g.flights
  let past := g.holding.filter (fun kv => !ks.contains kv.1)
  let kept := g.holding.filter (fun kv => ks.contains kv.1)
  { g with counts := past.foldl (fun m kv => mapAdd m (kv.1 / 8 * 8 + 4) (now - kv.2)) g.counts,
           holding := ks.foldl (fun m k => if (mapGet m k).isSome then m else mapSet m k now) kept }

/-! ## Flights follow the messages -/

/-- Flights of other lines, requests, mesh packets, and of a line those whose messages are still on their way, the
newest first; with what remains of the messages' codes. -/
def keepFlights (ln : Nat) : List Flight → List (Nat × Nat) → List Flight × List (Nat × Nat)
  | [], cs => ([], cs)
  | x :: r, cs =>
    if x.line = ln ∧ x.req.isNone ∧ x.transit.isNone then
      if cs.contains (x.kind, x.agent) then
        let q := keepFlights ln r (cs.erase (x.kind, x.agent))
        (x :: q.1, q.2)
      else keepFlights ln r cs
    else
      let q := keepFlights ln r cs
      (x :: q.1, q.2)

/-- The Gutter after a line's transaction has become `t`: messages that have arrived leave it, new ones are sent, and
senders that held a message send it once they have the credits. -/
def refile (s : State) (ln : Nat) (t : Option Txn) (txns : SMap Txn) : Gutter :=
  let ms := (t.map (·.msgs)).getD []
  let kept := keepFlights ln s.gut.flights.reverse (ms.map Msg.code)
  let old := kept.1.reverse
  let new := (ms.filter (fun m => kept.2.contains m.code)).map (fun m => flightOf s ln ((t.map (·.req)).getD Req.nobody) m)
  let zero := (t.map (·.req.zero)).getD false
  let g := new.foldl (fun g x => g.carry x (flightBytes x (zero && x.kind == 4))) s.gut
  { g with flights := movedFlights txns (old ++ new) }.noteHolding s.now

/-! ## Requests (01 R34, 09 Table 9.6) -/

/-- A request that brings data in the bulk role. -/
def Req.brings (r : Req) : Bool :=
  match r.kind with
  | .wrFull _ _ => !r.zero
  | .wrPart _ _ => true
  | .wbDirty => true
  | _ => false

/-- The flights of a request, and of the data it brings. -/
def requestFlights (s : State) (ln : Nat) (r : Req) : List Flight :=
  let f := lineForme s ln
  let src := dieOfAgent r.agent
  let req : Flight :=
    { line := ln, kind := 12, agent := r.agent, src := src, bulk := false, chan := 0, unit := 0,
      route := routeOf (f.bind (getForme s)) src (paHome (ln * 128)), forme := f, entered := false, req := some r,
      transit := none }
  if r.brings then [req, { req with kind := 13, bulk := true }] else [req]

/-- A request is sent: its bytes are counted. -/
def carryRequest (s : State) (ln : Nat) (r : Req) : State :=
  { s with gut := (requestFlights s ln r).foldl (fun g x =>
      g.carry x (if x.kind = 13 then 128 else Config.gutHeader 12)) s.gut }

/-- Nothing is on a request's way to its home, in any role it takes, and nothing waits to enter it. -/
def wayClear (s : State) (ln : Nat) (r : Req) : Bool :=
  (requestFlights s ln r).all (fun x => x.route.all (fun l =>
    !s.gut.flights.any (fun y => y.bulk == x.bulk && y.route.contains l && !stalledAt s.txns y)))

/-- A request goes on its way. -/
def launchRequest (s : State) (ln : Nat) (r : Req) : State :=
  let g := s.gut
  { s with gut := { g with flights := movedFlights s.txns (g.flights ++ requestFlights s ln r) }.noteHolding s.now }

/-- The next request to leave the Gutter stands at its home, where it holds up no other message. -/
def parkRequest (s : State) : Option State :=
  let comes (earlier : List Flight) (x : Flight) : Bool :=
    x.kind == 12 && decide (x.route.length ≤ 1) && headOf s.txns earlier x
  (pickFlight comes [] s.gut.flights).map (fun q =>
    let g := s.gut
    { s with gut := { g with flights := movedFlights s.txns (q.1 ++ q.2.2),
                             atHome := g.atHome ++ [(q.2.1.line, q.2.1.req.getD Req.nobody)] }.noteHolding s.now })

/-- Requests leave the Gutter, `n` at most. -/
def parkRequests : Nat → State → State
  | 0, s => s
  | n + 1, s =>
    match parkRequest s with
    | some s => parkRequests n s
    | none => s

/-- A request that has reached its home with its data, its line, and the state without it. -/
def arrivedRequest (s : State) : Option (State × Nat × Req) :=
  let s := parkRequests s.gut.flights.length s
  let g := s.gut
  let dataOut (x : Nat × Req) : Bool := g.flights.any (fun y => y.kind == 13 && y.line == x.1 && y.req == some x.2)
  (g.atHome.find? (fun x => !dataOut x)).map (fun x => ({ s with gut := { g with atHome := g.atHome.erase x } }, x.1, x.2))

/-- A request of a line is on its way. -/
def requestOut (s : State) (ln : Nat) : Bool :=
  s.gut.atHome.any (fun x => x.1 == ln) || s.gut.flights.any (fun x => x.kind == 12 && x.line == ln)

/-! ## Arrival -/

/-- Whether the first flight of a kind, agent and line is the next to leave its last link, `earlier` being the flights
before. -/
def arrivesFrom (txns : SMap Txn) (ln : Nat) (code : Nat × Nat) : List Flight → List Flight → Bool
  | _, [] => true
  | earlier, x :: r =>
    if x.line = ln ∧ x.req.isNone ∧ (x.kind, x.agent) = code then decide (x.route.length ≤ 1) && headOf txns earlier x
    else arrivesFrom txns ln code (earlier ++ [x]) r

/-- Whether a message of a line may arrive now. -/
def mayArrive (s : State) (ln : Nat) (m : Msg) : Bool := arrivesFrom s.txns ln m.code [] s.gut.flights

end Sys2Proof.Machine
end

