-- ==== Sys2Proof/Machine/Coh.lean ====
section
/-! DEFINITION. Coherence (09): lines, the directory, transactions at a home and the messages they send, and the whole
transactions that an access performs in one step. A message waits in its line's transaction, and in the Gutter on its way,
until the row that delivers it runs; an access that needs a line first lets the messages in flight on it arrive
(`settle`). -/

namespace Sys2Proof.Machine

open Sys2Proof

/-! ## Lines and the directory -/

def lineOf (pa : Nat) : Nat := pa / 128

def lineBase (pa : Nat) : Nat := pa / 128 * 128

def lineKey (agent ln : Nat) : Nat := agent * 2 ^ 34 + ln

def getLine (s : State) (agent ln : Nat) : Option Line := mapGet s.lines (lineKey agent ln)

/-- A line that an agent holds and is not writing back. -/
def heldLine (s : State) (agent ln : Nat) : Option Line := (getLine s agent ln).filter (fun l => !l.leaving)

def setLine (s : State) (agent ln : Nat) (l : Line) : State := { s with lines := mapSet s.lines (lineKey agent ln) l }

/-- A reservation is gone, and with it a wait in WRS.NTO for that (11 R386). -/
def Hart.unreserve (x : Hart) : Hart := { x with resv := none, wrs := false }

/-- Removing a line from an L3 ends a core's reservation of it (11 R386). -/
def dropLine (s : State) (agent ln : Nat) : State :=
  let s := { s with lines := mapDel s.lines (lineKey agent ln) }
  if agent = 6 ∨ agent = 7 then
    { s with harts := s.harts.map (fun kv =>
        (kv.1, if dieOfHart kv.1 = agent ∧ kv.2.resv = some ln then kv.2.unreserve else kv.2)) }
  else s

/-- A write of a line that an L3 holds ends the reservations of the harts of its die but for the writer's own. -/
def breakResv (s : State) (agent ln : Nat) (writer : Option Nat) : State :=
  if agent = 6 ∨ agent = 7 then
    { s with harts := s.harts.map (fun kv =>
        (kv.1, if dieOfHart kv.1 = agent ∧ kv.2.resv = some ln ∧ some kv.1 ≠ writer then kv.2.unreserve
               else kv.2)) }
  else s

def Line.payload (l : Line) : LineData := { data := l.data, p0 := l.poison0, p1 := l.poison1, absent := false }

/-- Set of the directory of an address's home (09 Table 9.2). -/
def dirSet (ln : Nat) : Nat := ln % 262144

/-- Home of a line. -/
def lineHome (ln : Nat) : Nat := paHome (ln * 128)

/-- Holders a directory entry may have: sharers and owner, as agents. -/
def DirEntry.holders (e : DirEntry) : List Nat := bitsOf 8 (if e.st = .shared then e.sharers else setBit e.sharers e.owner)

def holdersOf (s : State) (ln : Nat) : List Nat :=
  match mapGet s.dir ln with
  | some e => e.holders
  | none => []

/-- Owner a directory entry records. -/
def ownerOf (s : State) (ln : Nat) : Option Nat :=
  match mapGet s.dir ln with
  | some e => if e.st = .shared then none else some e.owner
  | none => none

/-- Writes an entry with a state, an owner and the holders given; none when nobody may hold the line. Whether the entry will
fail its check when it is next read is a free choice (09 R290). -/
def dirPut (s : State) (ln : Nat) (st : DirState) (owner : Nat) (holders : List Nat) : State :=
  match holders with
  | [] => { s with dir := mapDel s.dir ln }
  | _ =>
    let age := match mapGet s.dir ln with
      | some e => e.age
      | none => s.dirAge
    { s.drawn with dir := mapSet s.dir ln { st := st, owner := owner, sharers := maskOf holders, age := age,
                                            bad := Config.freeBool s.free },
                   dirAge := s.dirAge + 1 }

/-- An agent's bit is cleared, and its ownership with it. -/
def dirClear (s : State) (ln agent : Nat) : State :=
  match mapGet s.dir ln with
  | none => s
  | some e =>
    let hs := e.holders.filter (· ≠ agent)
    if e.st = .shared ∨ e.owner = agent then dirPut s ln .shared 0 hs else dirPut s ln e.st e.owner hs

/-! ## Transactions in progress -/

def getTxn (s : State) (ln : Nat) : Option Txn := mapGet s.txns ln

/-- A line's transaction becomes `t`, or is no more; the Gutter follows its messages. -/
def putTxn (s : State) (ln : Nat) (t : Option Txn) : State :=
  let txns := match t with
    | some t => mapSet s.txns ln t
    | none => mapDel s.txns ln
  { s with txns := txns, gut := refile s ln t txns }

def setTxn (s : State) (ln : Nat) (t : Txn) : State := putTxn s ln (some t)

/-- A new transaction of a request; `msgs` are those of the line's earlier ones that have not arrived. -/
def Txn.start (r : Req) (queue : List Req) (msgs : List Msg) : Txn :=
  { req := r, waiting := [], forwarded := false, granted := false, dirty := none, lost := false, ended := false,
    msgs := msgs, queue := queue }

def Txn.send (t : Txn) (m : Msg) : Txn := { t with msgs := t.msgs ++ [m] }

def Txn.snoop (t : Txn) (k : SnpKind) (agents : List Nat) : Txn :=
  { t with waiting := t.waiting ++ agents, msgs := t.msgs ++ agents.map (fun a => .snp k a [] false false) }

/-- Agents whose snoop has timed out and that have not dropped their copy (09 R302 step 4). -/
def lateAgents (t : Txn) : List Nat :=
  ((if t.ended then t.queue else t.req :: t.queue).filter (fun r => r.kind == .dropCopy)).map (·.agent)

/-- Those of a line. -/
def lateOf (s : State) (ln : Nat) : List Nat :=
  match getTxn s ln with
  | some t => lateAgents t
  | none => []

/-! ## Errors of a Case (09 R293) -/

def caseCtr (s : State) (agent : Nat) (c : Ctr) (n : Nat) : State :=
  if agent < 6 then countFor s (formeOfPlaten s agent) c n else s

/-- What the code of a Case finds when a held line is read (09 R293): nothing, an error it corrects and counts, or an
uncorrectable one in a sector. A dirty line then keeps the sector poisoned, with a record of kind UNCORRECTABLE and source
coherence; a locked line takes its bytes from memory again, and any other clean line is invalid and is fetched again by the
access that met the error. What the next read finds is open (notes/assumptions/15.md). -/
def caseCheck (s : State) (agent ln : Nat) (prio : Bool) : State :=
  match getLine s agent ln with
  | none => s
  | some l =>
    let found := l.err
    let k := found - 2
    let l := { l with err := Config.freeNat s.free % 4 }
    if agent ≥ 6 then s
    else if found = 0 then setLine s.drawn agent ln l
    else if found = 1 then setLine (caseCtr s.drawn agent .caseCorr 1) agent ln l
    else if l.st = .m ∨ l.st = .o then
      memRecord (setLine s.drawn agent ln { l with poison0 := l.poison0 || k == 0, poison1 := l.poison1 || k == 1 })
        (ln * 128 + 64 * k) 2 15 5 0
    else if l.st = .l then
      let r := homeReadLine prio (ln * 128) s.drawn
      setLine r.1 agent ln { l with data := r.2.data, poison0 := r.2.p0, poison1 := r.2.p1 }
    else dropLine s agent ln

/-! ## Directory upkeep (09 R289, R290) -/

/-- A snoop that finds no line is answered SNP_NP (09 R301). -/
def countNp (s : State) (ln : Nat) : State := countFor s (formeOfPlaten s (lineHome ln)) .snoopNp 1

/-- SNP_INV of one agent outside a transaction; dirty data goes to memory, but for that of an agent whose snoop of the line has
timed out (09 R302). A locked line is never snooped. -/
def purgeOne (ln : Nat) (s : State) (a : Nat) : State :=
  let f := lineForme s ln
  let home := lineHome ln
  let s := caseCheck (gutMessage s f home a false 1 0) a ln false
  match getLine s a ln with
  | none => countNp (gutMessage s f a home false 7 0) ln
  | some l =>
    let dirty := l.st == .m || l.st == .o
    let s := gutMessage s f a home dirty (if dirty then 5 else 6) (if dirty then 128 else 0)
    if l.st = .l then countNp s ln
    else
      let late := (lateOf s ln).contains a
      let s := dropLine s a ln
      if (l.st = .m ∨ l.st = .o) ∧ late = false then homeWriteLine (ln * 128) l.payload s else s

/-- Invalidates every copy the listed agents hold. -/
def purgeLine (s : State) (ln : Nat) (agents : List Nat) : State := agents.foldl (purgeOne ln) s

/-- An entry that fails its check is snooped out of all eight agents (09 R290). -/
def dirRepair (s : State) (ln : Nat) : State :=
  match mapGet s.dir ln with
  | some e =>
    if e.bad then
      let s := purgeLine s ln (List.range 8)
      let s := { s with dir := mapDel s.dir ln }
      countFor s (formeOfPlaten s (lineHome ln)) .dirEcc 1
    else s
  | none => s

/-- Fewest sharers first, then least recently allocated. -/
def dirVictim : List (Nat × DirEntry) → Option (Nat × DirEntry)
  | [] => none
  | x :: r =>
    match dirVictim r with
    | none => some x
    | some y =>
      let nx := (bitsOf 8 x.2.sharers).length
      let ny := (bitsOf 8 y.2.sharers).length
      if nx < ny ∨ (nx = ny ∧ x.2.age ≤ y.2.age) then some x else some y

/-- Entries of the set of a line. -/
def dirSetOf (s : State) (ln : Nat) : SMap DirEntry :=
  s.dir.filter (fun kv => lineHome kv.1 = lineHome ln ∧ dirSet kv.1 = dirSet ln)

/-- A victim leaves the directory with every copy it allows (09 R289); one that fails its check goes by 09 R290. -/
def dirEvict (s : State) (v : Nat × DirEntry) : State :=
  if v.2.bad then dirRepair s v.1
  else
    let s := purgeLine s v.1 v.2.holders
    countFor { s with dir := mapDel s.dir v.1 } (formeOfPlaten s (lineHome v.1)) .dirBackInv 1

/-- Makes room for an entry of the line (09 R289); entries of the set that fail their check go first. A line with a transaction
in progress is no victim while another is there: a home takes the transactions of a line one at a time (09 R298;
notes/assumptions/117.md). -/
def dirRoom (s : State) (ln : Nat) : State :=
  if (mapGet s.dir ln).isSome || decide ((dirSetOf s ln).length < 16) then s
  else
    let quiet (s : State) : SMap DirEntry := (dirSetOf s ln).filter (fun kv => (getTxn s kv.1).isNone)
    let s := (quiet s).foldl (fun s kv => dirRepair s kv.1) s
    if (dirSetOf s ln).length < 16 then s
    else
      match dirVictim (if (quiet s).isEmpty then dirSetOf s ln else quiet s) with
      | none => s
      | some v => dirEvict s v

/-- An entry with these holders, in the room it needs. -/
def dirEnter (s : State) (ln : Nat) (st : DirState) (owner : Nat) (holders : List Nat) : State :=
  dirPut (if holders.isEmpty then s else dirRoom s ln) ln st owner holders

/-- The entry that a request needs is there before its grant: the requester may hold the line from then on. -/
def dirReserve (s : State) (ln agent : Nat) : State :=
  if (mapGet s.dir ln).isSome then s else dirEnter s ln .shared 0 [agent]

/-- An agent's bit is set beside the others; an owner that shared its line holds it in O (09 R288). -/
def dirAdd (s : State) (ln agent : Nat) : State :=
  match mapGet s.dir ln with
  | none => dirEnter s ln .shared 0 [agent]
  | some e =>
    let hs := if e.holders.contains agent then e.holders else e.holders ++ [agent]
    dirPut s ln (if e.st = .exclusive ∧ e.owner ≠ agent then .owned else e.st) e.owner hs

/-! ## Transactions (09 R295 to R300) -/

/-- Grant state and data of a read served from memory (09 R296); a transaction with a lost snoop gives the line
poisoned (09 R302). -/
def grantData (s : State) (ln : Nat) (t : Txn) (g : GrantKind) : State :=
  if t.lost then
    setTxn s ln { t.send (.dataTo t.req.agent g (List.replicate 128 0#8) true true) with granted := true }
  else
  let r := homeReadLine t.req.prio (ln * 128) s
  setTxn r.1 ln { t.send (.dataTo t.req.agent g r.2.data r.2.p0 r.2.p1) with granted := true }

/-- The target cache of a write hint (09 Table 9.8). -/
def hintTarget (ln hint : Nat) : Option Nat :=
  if 1 ≤ hint ∧ hint ≤ 6 then some (hint - 1)
  else if hint = 7 then some (lineHome ln)
  else if hint = 8 then some 6
  else if hint = 9 then some 7
  else none

/-- A Platen in S0 or S1 (09 R305). -/
def platenReady (s : State) (p : Nat) : Bool :=
  match mapGet s.platens p with
  | some x => x.state == .s0 || x.state == .s1
  | none => false

/-- The conditions of 09 R305 but for the target's own refusal. -/
def hintAllowed (s : State) (ln target : Nat) : Bool :=
  match (formeOfStack s (paStack (ln * 128))).bind (getForme s) with
  | none => false
  | some f =>
    if target < 6 then
      f.platens.contains target &&
        platenReady s target
    else f.groups.any (fun g => dieOfGroup g = target)

/-- A write has been performed: COMP goes to the requester and the transaction is over (09 R298). -/
def performed (s : State) (ln : Nat) (t : Txn) : State :=
  setTxn s ln { t.send (.compTo t.req.agent none) with granted := true, ended := true }

/-- The write of a WR_FULL that goes to memory. -/
def finishWrite (s : State) (ln : Nat) (t : Txn) (data : List Byte) : State :=
  let s := homeWriteLine (ln * 128) { data := data, p0 := false, p1 := false, absent := false } s
  performed (dirEnter s ln .shared 0 (lateAgents t)) ln t

/-- A write hint that is not honoured (09 R305). -/
def dropHint (s : State) (ln : Nat) : State := countFor s (formeOfStack s (paStack (ln * 128))) .hintDropped 1

/-- The entry of a line that an agent holds alone, but for agents whose late SNP_INV is still to come and that may hold it too
(09 R288). -/
def dirOwned (s : State) (ln agent : Nat) (t : Txn) : State :=
  let late := (lateAgents t).filter (· ≠ agent)
  dirEnter s ln (if late.isEmpty then .exclusive else .owned) agent (agent :: late)

/-- SNP_PUSH goes to the target of an honoured hint, whose bit is set from then on (09 R288, R306). -/
def pushLine (s : State) (ln : Nat) (t : Txn) (target : Nat) (data : List Byte) : State :=
  let s := dirOwned s ln target t
  setTxn s ln { t with forwarded := true, waiting := [target], msgs := t.msgs ++ [.snp .push target data false false] }

/-- A write of the bytes of one sector that a mask names, on top of dirty data that a snoop has brought. -/
def mergeHalf (ln mask : Nat) (data : List Byte) (dirty : Option (List Byte × Bool × Bool)) (s : State) (o : Nat) : State :=
  let m := mask / 2 ^ o % 2 ^ 64
  let s := match dirty with
    | some d => homeWriteSector (ln * 128 + o) (if o = 0 then d.2.1 else d.2.2) ((d.1.drop o).take 64) s
    | none => s
  if m = 0 then s else homeWrite (ln * 128 + o) m ((data.drop o).take 64) s

/-- What is left of a transaction reads or writes memory. -/
def needsMemory (s : State) (ln : Nat) (t : Txn) : Bool :=
  match t.req.kind with
  | .rdShared => !t.forwarded && !t.lost
  | .rdUnique => !t.forwarded && !t.lost
  | .rdOnce => !t.forwarded && !t.lost
  | .upgrade => !t.forwarded && !t.lost && (getLine s t.req.agent ln).isNone
  | .ownNodata => false
  | .lockFill _ => t.dirty.isSome || !t.lost
  | .wrFull _ hint => t.forwarded || !(hintTarget ln hint).any (hintAllowed s ln)
  | .wrPart _ _ => true
  | .wbDirty => (getLine s t.req.agent ln).any (fun l => l.st == .m || l.st == .o)
  | .dropCopy => false

/-- A transaction waits for the pseudo-channel of its line, which issues nothing now (08 R273, 16 R541). -/
def homeStalled (s : State) (ln : Nat) (t : Txn) : Bool :=
  needsMemory s ln t && pchBlocked s (paStack (ln * 128)) (paPch (ln * 128))

/-- Once every snoop is answered, the home supplies data, grants, or performs the write (09 R296, R300, R306). -/
def homeProceed (s : State) (ln : Nat) : State :=
  match getTxn s ln with
  | none => s
  | some t =>
    if t.granted ∨ t.waiting ≠ [] ∨ homeStalled s ln t then s
    else
      let a := t.req.agent
      match t.req.kind with
      | .rdShared =>
        if t.forwarded then setTxn s ln { t with granted := true }
        else grantData s ln t (if (holdersOf s ln).all (fun h => h = a) then .e else .s)
      | .rdUnique => if t.forwarded then setTxn s ln { t with granted := true } else grantData s ln t .m
      | .rdOnce => if t.forwarded then setTxn s ln { t with granted := true } else grantData s ln t .once
      | .upgrade =>
        if t.forwarded then setTxn s ln { t with granted := true }
        else if t.lost then grantData s ln t .m
        else if (getLine s a ln).isSome then
          setTxn s ln { t.send (.compTo a (some .m)) with granted := true }
        else grantData s ln t .m
      | .ownNodata =>
        if t.lost then grantData s ln t .m else setTxn s ln { t.send (.compTo a (some .m)) with granted := true }
      | .lockFill _ =>
        let s := match t.dirty with
          | some d => homeWriteLine (ln * 128) { data := d.1, p0 := d.2.1, p1 := d.2.2, absent := false } s
          | none => s
        grantData s ln t .l
      | .wrFull data hint =>
        if t.forwarded then finishWrite (dropHint s ln) ln t data
        else
          match hintTarget ln hint with
          | none => finishWrite s ln t data
          | some g => if hintAllowed s ln g then pushLine s ln t g data else finishWrite (dropHint s ln) ln t data
      | .wrPart mask data =>
        let s := mergeHalf ln mask data t.dirty (mergeHalf ln mask data t.dirty s 0) 64
        performed (dirEnter s ln .shared 0 (lateAgents t)) ln t
      | .wbDirty =>
        match getLine s a ln with
        | some l =>
          if l.st = .m ∨ l.st = .o then
            let s := dirClear (homeWriteLine (ln * 128) l.payload s) ln a
            performed (caseCtr s a .caseWb 1) ln t
          else performed s ln t
        | none => performed s ln t
      | .dropCopy =>
        let s := dirClear s ln a
        let s := match mapGet s.dir ln with
          | some e =>
            if e.st = .owned ∧ e.holders = [e.owner] ∧ (getLine s e.owner ln).map (·.st) = some .m then
              dirPut s ln .exclusive e.owner [e.owner]
            else s
          | none => s
        setTxn s ln { t with granted := true, ended := true }

/-- A home starts a request: it checks and makes room for the entry, then snoops (09 R289, R290, R295, R296). An owner that the
entry records is snooped even if it is the requester, whose copy has gone silently. -/
def homeStart (s : State) (ln : Nat) (r : Req) (queue : List Req) (msgs : List Msg) : State :=
  let s := dirRepair s ln
  let t := Txn.start r queue msgs
  let others := (holdersOf s ln).filter (fun h => h ≠ r.agent ∨ ownerOf s ln = some h)
  let start (s : State) (t : Txn) : State := homeProceed (setTxn s ln t) ln
  match r.kind with
  | .rdShared =>
    match ownerOf s ln with
    | some o => start (dirReserve s ln r.agent) (t.snoop .shared [o])
    | none => start (dirReserve s ln r.agent) t
  | .rdUnique => start (dirReserve s ln r.agent) (t.snoop .inv others)
  | .upgrade => start (dirReserve s ln r.agent) (t.snoop .inv ((holdersOf s ln).filter (· ≠ r.agent)))
  | .ownNodata => start (dirReserve s ln r.agent) (t.snoop .inv others)
  | .lockFill _ =>
    match ownerOf s ln with
    | some o => start s (t.snoop .clean [o])
    | none => start s t
  | .rdOnce =>
    match ownerOf s ln with
    | some o => start s (t.snoop .peek [o])
    | none => start s t
  | .wrFull _ _ => start s (t.snoop .inv (holdersOf s ln))
  | .wrPart _ _ => start s (t.snoop .inv (holdersOf s ln))
  | .wbDirty => start s t
  | .dropCopy => start s (t.snoop .inv [r.agent])

/-- Starts the queued requests of a line one after another while each is over at once. -/
def homeRun : Nat → State → Nat → State
  | 0, s, _ => s
  | n + 1, s, ln =>
    match getTxn s ln with
    | none => s
    | some t =>
      if t.ended then
        match t.queue with
        | [] => if t.msgs.isEmpty then putTxn s ln none else s
        | r :: q => homeRun n (homeStart s ln r q t.msgs) ln
      else s

/-- Goes on with a line's transaction, and with the next ones when it is over. -/
def homeGo (s : State) (ln : Nat) : State :=
  let s := homeProceed s ln
  match getTxn s ln with
  | some t => homeRun (t.queue.length + 1) s ln
  | none => s

/-- A request that writes memory for a cacheless agent. -/
def ReqKind.isWrite : ReqKind → Bool
  | .wrFull _ _ => true
  | .wrPart _ _ => true
  | _ => false

/-- A home serialises the requests of a line (09 R298). -/
def homeArrive (s : State) (ln : Nat) (r : Req) : State :=
  match getTxn s ln with
  | some t =>
    if t.ended then homeGo (homeStart s ln r [] t.msgs) ln
    else setTxn s ln { t with queue := t.queue ++ [r] }
  | none => homeGo (homeStart s ln r [] []) ln

/-- A request goes to its home, at once where nothing is on its way in the Gutter (01 R33, R34). An absent address gets
one record and nothing else (08 R258); the spec names no SOURCE for the record of a write to it: a free value. -/
def homeAccept (s : State) (ln : Nat) (r : Req) : State :=
  if paAbsent (ln * 128) then
    if r.kind.isWrite then memRecord s.drawn (ln * 128) 6 0 (Config.freeNat s.free % 16) 0
    else memRecord s (ln * 128) 6 0 1 0
  else
  if wayClear s ln r then homeArrive (carryRequest s ln r) ln r
  else launchRequest (carryRequest s ln r) ln r

/-- The transaction has ended; the next queued request starts. -/
def homeNext (s : State) (ln : Nat) : State :=
  match getTxn s ln with
  | none => s
  | some t => homeRun (t.queue.length + 1) (setTxn s ln { t with ended := true }) ln

/-! ## Ways and eviction (09 R291, R316, 11 R377) -/

/-- Locked ways of an agent. -/
def lockedWays (s : State) (agent : Nat) : List Nat :=
  if agent < 6 then
    s.formes.flatMap (fun kv => match kv.2.plate with
      | some p => p.regions.flatMap (fun r => if r.platen = agent then r.ways else [])
      | none => [])
  else (s.l3Locks.filter (fun l => l.die = agent)).map (·.way)

/-- Ways in which a fill may be placed: for an L3, those of the core group, or of the lowest-numbered group on that die
of the forme that holds the line's stack (11 R377). -/
def fillWays (s : State) (agent ln : Nat) (group : Option Nat) : List Nat :=
  let all :=
    if agent < 6 then List.range 32
    else
      let g := match group with
        | some g => g
        | none =>
          match (formeOfStack s (paStack (ln * 128))).bind (getForme s) with
          | some f => (f.groups.find? (fun g => dieOfGroup g = agent)).getD (if agent = 6 then 0 else 6)
          | none => if agent = 6 then 0 else 6
      (List.range 4).map (fun i => g % 6 * 4 + i)
  all.filter (fun w => !(lockedWays s agent).contains w)

/-- An agent's request of a line is being served or waits at the home. -/
def asksFor (s : State) (agent ln : Nat) : Bool :=
  match getTxn s ln with
  | some t => t.req.agent == agent && !t.ended || t.queue.any (fun r => r.agent == agent)
  | none => false

/-- The line an agent holds in a way of the set of `ln`. -/
def lineInWay (s : State) (agent ln way : Nat) : Option (Nat × Line) :=
  (s.lines.find? (fun kv => kv.1 / 2 ^ 34 = agent ∧ kv.1 % 2 ^ 34 % 32768 = ln % 32768 ∧ kv.2.way = way)).map
    (fun kv => (kv.1 % 2 ^ 34, kv.2))

/-- Where a line waits for the COMP of its write-back after another has taken its way: no way of the cache. -/
def outWay : Nat := 32

/-- Eviction: M and O are written back with WB_DIRTY, E and S go silently (09 Table 9.4); O leaves the S copies it allowed. The
agent holds the data of a write-back until its COMP (09 Table 9.7); what the home would discard (09 R302) is not sent. -/
def evictLine (s : State) (agent ln : Nat) : State :=
  let s := caseCheck s agent ln false
  match getLine s agent ln with
  | none => s
  | some l =>
    if l.leaving then setLine s agent ln { l with way := outWay }
    else if (l.st = .m ∨ l.st = .o) ∧ (lateOf s ln).contains agent = false then
      homeAccept (setLine s agent ln { l with leaving := true, way := outWay }) ln
        { agent := agent, kind := .wbDirty, group := none, prio := false, unit := 0, zero := false }
    else dropLine s agent ln

/-- The set of a line in an agent's cache. -/
def setKey (agent ln : Nat) : Nat := agent * 32768 + ln % 32768

/-- A way is the one its set used last. -/
def touchWay (s : State) (agent ln way : Nat) : State := { s with recent := mapSet s.recent (setKey agent ln) way }

/-- The ways that a fill may take in a full set: not one whose line its agent is asking for, and not the one used last,
where others are left (09 R291 "pseudo-LRU", which the spec does not carry further: the choice among these is free). -/
def victimWays (s : State) (agent ln : Nat) (ws : List Nat) : List Nat :=
  let pinned (w : Nat) : Bool := match lineInWay s agent ln w with
    | some (v, _) => asksFor s agent v
    | none => false
  let loose := ws.filter (fun w => !pinned w)
  let old := loose.filter (fun w => mapGet s.recent (setKey agent ln) != some w)
  if old.isEmpty then (if loose.isEmpty then ws else loose) else old

/-- An invalid way first, then the free choice among the unlocked ways. -/
def chooseWay (s : State) (agent ln : Nat) (group : Option Nat) : State × Nat :=
  let ws := fillWays s agent ln group
  match ws.find? (fun w => (lineInWay s agent ln w).isNone) with
  | some w => (s, w)
  | none =>
    let vs := victimWays s agent ln ws
    let w := vs.getD (Config.victim (ln % 32768) s.free % vs.length) 0
    let s := s.drawn
    match lineInWay s agent ln w with
    | some (v, _) => (evictLine s agent v, w)
    | none => (s, w)

/-- Places a line in an agent's cache, in the way it has if it is there already, as the line its set used last. -/
def fillLine (s : State) (agent ln : Nat) (st : LineState) (d : LineData) (group : Option Nat) : State :=
  let c := match heldLine s agent ln with
    | some l => (s, l.way)
    | none => chooseWay s agent ln group
  setLine (touchWay c.1 agent ln c.2).drawn agent ln
    { st := st, data := d.data, poison0 := d.p0, poison1 := d.p1, way := c.2, err := Config.freeNat c.1.free % 4,
      leaving := false }

/-! ## Delivery of messages -/

def removeMsg (s : State) (ln : Nat) (m : Msg) : State :=
  match getTxn s ln with
  | some t => setTxn s ln { t with msgs := t.msgs.erase m }
  | none => s

def sendMsg (s : State) (ln : Nat) (m : Msg) : State :=
  match getTxn s ln with
  | some t => setTxn s ln (t.send m)
  | none => s

/-- The home hears a snooped agent's answer. -/
def answered (s : State) (ln agent : Nat) : State :=
  match getTxn s ln with
  | some t => setTxn s ln { t with waiting := t.waiting.filter (· ≠ agent) }
  | none => s

/-- Whether the requester takes a forward itself; otherwise the data goes to the home, which drops what the write replaces.
DESIGN CHOICE: the requester of an OWN_NODATA takes no data, so a holder in E, O or M answers its SNP_INV with SNP_DATA to the
home, which Table 9.5 gives as FWD (notes/assumptions/117.md). -/
def takesForward (k : ReqKind) : Bool :=
  match k with
  | .rdShared => true
  | .rdUnique => true
  | .upgrade => true
  | .rdOnce => true
  | _ => false

def markForwarded (s : State) (ln : Nat) : State :=
  match getTxn s ln with
  | some t => setTxn s ln { t with forwarded := true }
  | none => s

/-- The directory after the owner has kept at most a shared copy (09 Table 9.5, R288). -/
def afterShared (s : State) (ln owner requester : Nat) (dirty : Bool) : State :=
  let hs := (holdersOf s ln).filter (fun h => h ≠ owner ∧ h ≠ requester)
  if dirty then dirEnter s ln .owned owner (requester :: owner :: hs) else dirEnter s ln .shared 0 (requester :: owner :: hs)

/-- The agent answers SNP_NP. -/
def answerNp (s : State) (ln agent : Nat) : State := sendMsg (countNp s ln) ln (.snpNp agent)

/-- What a snooped agent does with a line it holds (09 Table 9.5). -/
def snoopLine (s : State) (ln : Nat) (k : SnpKind) (agent : Nat) (r : Req) (l : Line) : State :=
  let dirty := l.st = .m ∨ l.st = .o
  let fwd (s : State) (g : GrantKind) : State :=
    sendMsg (answered (markForwarded s ln) ln agent) ln (.fwdTo r.agent g l.data l.poison0 l.poison1 agent)
  match k with
  | .shared =>
    if l.st = .s then sendMsg s ln (.snpAck agent)
    else fwd (afterShared (setLine s agent ln { l with st := if dirty then .o else .s }) ln agent r.agent dirty) .s
  | .inv =>
    let s := dropLine s agent ln
    if l.st = .s then sendMsg s ln (.snpAck agent)
    else if takesForward r.kind then fwd s .m
    else sendMsg s ln (.snpData agent l.data l.poison0 l.poison1)
  | .peek => if l.st = .s then sendMsg s ln (.snpAck agent) else fwd s .once
  | _ =>
    let s := dirEnter (setLine s agent ln { l with st := .s }) ln .shared 0 (holdersOf s ln)
    if dirty then sendMsg s ln (.snpData agent l.data l.poison0 l.poison1) else sendMsg s ln (.snpAck agent)

/-- What a snooped agent does. A locked line is never snooped; an agent without the line answers SNP_NP, as does a Case
that refuses a push. -/
def snoopAgent (s : State) (ln : Nat) (k : SnpKind) (agent : Nat) (push : List Byte) : State :=
  match getTxn s ln with
  | none => s
  | some t =>
    if k = .push then
      if agent ≥ 6 || platenReady s agent then
        sendMsg (fillLine s agent ln .m { data := push, p0 := false, p1 := false, absent := false } none) ln (.snpAck agent)
      else answerNp s ln agent
    else
      let s := caseCheck s agent ln false
      match getLine s agent ln with
      | none => answerNp s ln agent
      | some l => if l.st = .l then answerNp s ln agent else snoopLine s ln k agent t.req l

/-- The way a LOCK_FILL names. -/
def ReqKind.lockWay : ReqKind → Nat
  | .lockFill w => w
  | _ => 0

/-- The Case of a Platen that enters S2 or S3, or is in either, takes no fills (09 Table 9.13). -/
def mayFill (s : State) (agent : Nat) : Bool := decide (6 ≤ agent) || platenReady s agent

/-- A Case takes locked lines in the states in which it takes fills, and while its Platen wakes (09 R320). -/
def mayLock (s : State) (agent : Nat) : Bool :=
  match mapGet s.platens agent with
  | some x => x.state == .s0 || x.state == .s1 || x.state.wakes
  | none => false

/-- The line becomes the requester's in M or E. -/
def takeOwned (s : State) (ln agent : Nat) (st : LineState) (d : LineData) (t : Txn) : State :=
  dirOwned (fillLine s agent ln st d t.req.group) ln agent t

/-- A requester takes the line it is granted and acknowledges (09 R299). A Case that takes no fills any more writes what was
forwarded to memory. -/
def takeGrant (s : State) (ln agent : Nat) (g : GrantKind) (d : LineData) (forwarded : Bool) : State :=
  match getTxn s ln with
  | none => s
  | some t =>
    let ack (s : State) : State := sendMsg s ln (.grantAck agent)
    match g with
    | .once => ack s
    | .l =>
      if mayLock s agent then
        ack (setLine s.drawn agent ln { st := .l, data := d.data, poison0 := d.p0, poison1 := d.p1,
                                        way := t.req.kind.lockWay, err := Config.freeNat s.free % 4, leaving := false })
      else ack s
    | .m =>
      if mayFill s agent then ack (takeOwned s ln agent .m d t)
      else ack (if forwarded then homeWriteLine (ln * 128) d s else s)
    | .e => ack (if mayFill s agent then takeOwned s ln agent .e d t else s)
    | .s => ack (if mayFill s agent then dirAdd (fillLine s agent ln .s d t.req.group) ln agent else s)

/-- The line a COMP grants: its data if it is there; for an OWN_NODATA zero (notes/assumptions/9.md). -/
def grantedData (s : State) (ln agent : Nat) : LineData :=
  match heldLine s agent ln with
  | some l => l.payload
  | none => { data := List.replicate 128 0#8, p0 := false, p1 := false, absent := false }

/-- A COMP that grants ownership. The copy that an UPGRADE kept is there unless the Case has lost it; ownership without it is
not taken. -/
def takeComp (s : State) (ln agent : Nat) (k : GrantKind) (r : Req) : State :=
  if r.kind = .upgrade ∧ (getLine s agent ln).isNone then sendMsg s ln (.grantAck agent)
  else takeGrant s ln agent k (grantedData s ln agent) false

/-- A COMP of a write-back ends the agent's hold of the line (09 Table 9.7); the last message of a line that is at rest ends
its transaction. -/
def takeDone (s : State) (ln agent : Nat) (t : Txn) : State :=
  let s := match getLine s agent ln with
    | some l => if l.leaving then dropLine s agent ln else s
    | none => s
  if t.ended ∧ t.msgs.isEmpty then putTxn s ln none else s

/-- A push has been taken, or refused (09 R305, R306). -/
def pushAnswered (s : State) (ln agent : Nat) (taken : Bool) : State :=
  if taken then
    let s := countFor s (formeOfStack s (paStack (ln * 128))) .hintPlaced 1
    match getTxn s ln with
    | some t => homeGo (performed s ln t) ln
    | none => s
  else homeGo (dirClear s ln agent) ln

/-- Delivers one message of a line. -/
def deliver (s : State) (ln : Nat) (m : Msg) : State :=
  let s := removeMsg s ln m
  match getTxn s ln with
  | none => s
  | some t =>
    match m with
    | .snp k a d _ _ => homeGo (snoopAgent s ln k a d) ln
    | .snpData a d p0 p1 =>
      let s := answered s ln a
      homeGo (match getTxn s ln with
        | some t => setTxn s ln { t with dirty := some (d, p0, p1) }
        | none => s) ln
    | .snpAck a =>
      let s := answered s ln a
      match t.req.kind with
      | .wrFull _ _ => if t.forwarded then pushAnswered s ln a true else homeGo s ln
      | _ => homeGo s ln
    | .snpNp a =>
      let s := answered s ln a
      match t.req.kind with
      | .wrFull _ _ => if t.forwarded then pushAnswered s ln a false else homeGo (dirClear s ln a) ln
      | _ => homeGo (dirClear s ln a) ln
    | .dataTo a g d p0 p1 => takeGrant s ln a g { data := d, p0 := p0, p1 := p1, absent := false } false
    | .fwdTo a g d p0 p1 _ => takeGrant s ln a g { data := d, p0 := p0, p1 := p1, absent := false } true
    | .compTo a g =>
      match g with
      | some k => takeComp s ln a k t.req
      | none => takeDone s ln a t
    | .grantAck _ => homeNext s ln

/-- A forward is taken only once every other copy is gone: no cache writes a line while another holds it (09 intro). -/
def ready (t : Txn) (m : Msg) : Bool :=
  match m with
  | .fwdTo _ _ _ _ _ _ => t.waiting.isEmpty
  | _ => true

/-- The oldest message of a line that may arrive. -/
def nextMsg (s : State) (ln : Nat) : Option Msg :=
  (getTxn s ln).bind (fun t => t.msgs.find? (fun m => ready t m && mayArrive s ln m))

/-- Line of the oldest message on the links that may arrive. -/
def nextLine (s : State) : Option Nat :=
  (s.gut.flights.find? (fun x => x.entered && !stalledAt s.txns x && (nextMsg s x.line).isSome)).map (·.line)

/-- The transaction of a line waits for its pseudo-channel alone. -/
def waitsForMemory (s : State) (ln : Nat) : Bool :=
  match getTxn s ln with
  | some t => !t.granted && t.waiting.isEmpty && !t.ended && homeStalled s ln t
  | none => false

/-- A transaction waits for nothing any more. -/
def mayProceed (s : State) (ln : Nat) (t : Txn) : Bool :=
  !t.granted && t.waiting.isEmpty && !t.ended && !homeStalled s ln t

/-- Something of a line is on its way. -/
def lineBusy (s : State) (ln : Nat) : Bool :=
  requestOut s ln || (match getTxn s ln with
    | some t => !t.msgs.isEmpty
    | none => false)

/-- One message arrives: one of the line, or one that goes before them on their way. An access that needs the line waits until
its pseudo-channel serves requests again (08 R273, 16 R541). -/
def settleStep (s : State) (ln : Nat) : Option State :=
  match nextMsg s ln with
  | some m => some (deliver s ln m)
  | none =>
    if s.powered && waitsForMemory s ln then some (homeGo (unblock s (paStack (ln * 128)) (paPch (ln * 128))) ln)
    else if lineBusy s ln then
      match arrivedRequest s with
      | some x => some (homeArrive x.1 x.2.1 x.2.2)
      | none => (nextLine s).bind (fun k => (nextMsg s k).map (fun m => deliver s k m))
    else none

/-- Lets the messages in flight on a line arrive, oldest first, `n` steps at most. -/
def settleFor : Nat → State → Nat → State
  | 0, s, _ => s
  | n + 1, s, ln =>
    match settleStep s ln with
    | some s => settleFor n s ln
    | none => s

/-- Messages that the requests in progress can still send, at most. -/
def settleFuel (s : State) : Nat :=
  s.txns.foldl (fun n kv => n + 64 * (kv.2.queue.length + 1)) (64 * (s.gut.flights.length + s.gut.atHome.length + 1))

def settle (s : State) (ln : Nat) : State := settleFor (settleFuel s) s ln

/-! ## What time brings (notes/assumptions/115.md) -/

/-- A request that has reached its home is served, or a transaction that waited for its pseudo-channel goes on. -/
def serveHome (s : State) : Option State :=
  match arrivedRequest s with
  | some x => some (homeArrive x.1 x.2.1 x.2.2)
  | none => (s.txns.find? (fun kv => mayProceed s kv.1 kv.2)).map (fun kv => homeGo s kv.1)

def serveHomesFor : Nat → State → State
  | 0, s => s
  | n + 1, s =>
    match serveHome s with
    | some s => serveHomesFor n s
    | none => s

/-- Homes serve what has reached them. -/
def serveHomes (s : State) : State :=
  if s.homesOn then serveHomesFor (s.gut.flights.length + s.gut.atHome.length + s.txns.length) s else s

/-! ## Whole transactions of one access -/

/-- A request of a caching agent. -/
def cacheReq (agent : Nat) (k : ReqKind) (group : Option Nat) (prio : Bool) : Req :=
  { agent := agent, kind := k, group := group, prio := prio, unit := 0, zero := false }

def request (s : State) (ln : Nat) (r : Req) : State := settle (homeAccept (settle s ln) ln r) ln

/-- A lookup in a Case counts a hit or a miss (09 Table 9.16). -/
def lookup (s : State) (agent : Nat) (hit : Bool) : State := caseCtr s agent (if hit then .caseHit else .caseMiss) 1

/-- A hit: the line is the one its set used last. -/
def hitLine (s : State) (agent ln : Nat) (l : Line) : State := touchWay (lookup s agent true) agent ln l.way

/-- Obtains a copy for reading. -/
def acquireShared (s : State) (agent ln : Nat) (group : Option Nat) (prio : Bool) : State :=
  let s := settle s ln
  match heldLine s agent ln with
  | some l => hitLine s agent ln l
  | none => request (lookup s agent false) ln (cacheReq agent .rdShared group prio)

/-- Obtains the line in M; `whole` when all of it is going to be written (09 Table 9.5, R312). -/
def acquireOwned (s : State) (agent ln : Nat) (whole : Bool) (group : Option Nat) : State :=
  let s := settle s ln
  match heldLine s agent ln with
  | some l =>
    let s := hitLine s agent ln l
    match l.st with
    | .m => s
    | .e => setLine s agent ln { l with st := .m }
    | _ => request s ln (cacheReq agent .upgrade group false)
  | none => request (lookup s agent false) ln (cacheReq agent (if whole then .ownNodata else .rdUnique) group false)

/-- What an agent's line holds now; nothing when it could not be obtained. -/
def heldData (s : State) (agent ln : Nat) : LineData :=
  match getLine s agent ln with
  | some l => l.payload
  | none => { data := List.replicate 128 0#8, p0 := false, p1 := false, absent := true }

/-- A request of a cacheless agent; `unit` is the receive buffer of its Compositor (01 R47). -/
def cachelessReq (agent unit : Nat) (k : ReqKind) (prio zero : Bool) : Req :=
  { agent := agent, kind := k, group := none, prio := prio, unit := unit, zero := zero }

/-- Data on its way to the requester of a snapshot. -/
def answerOf (agent : Nat) (t : Txn) : Option LineData :=
  if t.req.agent = agent ∧ t.req.kind = .rdOnce then
    t.msgs.findSome? (fun m => match m with
      | .dataTo _ .once d p0 p1 => some { data := d, p0 := p0, p1 := p1, absent := false }
      | .fwdTo _ .once d p0 p1 _ => some { data := d, p0 := p0, p1 := p1, absent := false }
      | _ => none)
  else none

/-- Messages arrive until the snapshot has been sent to its requester. -/
def awaitFor : Nat → State → Nat → Nat → State × Option LineData
  | 0, s, _, _ => (s, none)
  | n + 1, s, agent, ln =>
    match (getTxn s ln).bind (answerOf agent) with
    | some d => (s, some d)
    | none =>
      match settleStep s ln with
      | some s => awaitFor n s agent ln
      | none => (s, none)

/-- A cacheless snapshot of a line (09 R297 RD_ONCE). -/
def readOnce (s : State) (agent unit ln : Nat) (prio : Bool) : State × LineData :=
  let s := settle s ln
  if paAbsent (ln * 128) then homeReadLine prio (ln * 128) s
  else
    let s := homeAccept s ln (cachelessReq agent unit .rdOnce prio false)
    let r := awaitFor (settleFuel s) s agent ln
    (settle r.1 ln, r.2.getD { data := List.replicate 128 0#8, p0 := false, p1 := false, absent := true })

/-- A cacheless whole-line write with its hint; `zero` when it sends no data (09 R312). -/
def writeFull (s : State) (agent unit ln : Nat) (data : List Byte) (hint : Nat) (zero : Bool) : State :=
  if paAbsent (ln * 128) then homeWrite (ln * 128) fullMask (data.take 64) s
  else request s ln (cachelessReq agent unit (.wrFull data hint) false zero)

/-- A cacheless write of the bytes of a line that the 128-bit mask names. -/
def writePart (s : State) (agent unit ln mask : Nat) (data : List Byte) : State :=
  if paAbsent (ln * 128) then homeWrite (ln * 128) (mask % 2 ^ 64) (data.take 64) s
  else request s ln (cachelessReq agent unit (.wrPart mask data) false false)

end Sys2Proof.Machine
end

