-- ==== Sys2Proof/Machine/Trans.lean ====
section
/-! DEFINITION. Translation (10): range-table lookup and range caches, fault reasons, fault records and their signals, and
the resolution of records. What becomes of a waiter that is denied or proceeds stands in Machine/Release.lean. -/

namespace Sys2Proof.Machine

open Sys2Proof

/-! ## Signals to hosts and cores (12 R396, R432, 13 R447, R628, 11 R384) -/

def modPort (s : State) (p : Nat) (g : Port → Port) : State := { s with ports := mapMod s.ports p g }

def getPort (s : State) (p : Nat) : Port := mapGetD s.ports Port.reset p

/-- The device may issue requests on a port (12 R432, 13 R628). -/
def Port.mayIssue (p : Port) : Bool := p.armed && p.busMaster

/-- MSI-X is not enabled, the function is masked, or the vector is (notes/assumptions/126.md). -/
def Port.vectorMasked (p : Port) (v : Nat) : Bool :=
  !p.cfg.msixEnable || p.cfg.msixMask || bit (byteAt p.msixTable (16 * v + 12)).toNat 0

/-- A request that the device issues has every attribute clear (13 R447). -/
def TlpAttr.clear : TlpAttr := { ro := false, ido := false, noSnoop := false, tph := false }

/-- The MSI-X message of a vector is sent, and with it the signal of every slot that waited for it. -/
def Port.sendMsix (p : Port) (v : Nat) : Port :=
  { p with msixPending := clearBit p.msixPending v, tx := p.tx ++ [.msix TlpAttr.clear v],
           unsent := p.unsent.filter (fun e => e.2.1 ≠ v) }

/-- A vector's message leaves the port at once. -/
def Port.signals (p : Port) (v : Nat) : Bool := p.mayIssue && !p.vectorMasked v && !p.d3hot

/-- Signals an MSI-X vector; a masked one, and one in D3hot, waits in the pending-bit array. -/
def Port.signal (p : Port) (v : Nat) : Port :=
  if p.signals v then p.sendMsix v
  else if p.mayIssue then { p with msixPending := setBit p.msixPending v }
  else p

/-- Sends the pending vectors that may be sent. -/
def Port.flushMsix (p : Port) : Port :=
  if p.mayIssue && !p.d3hot then
    (bitsOf 64 p.msixPending).foldl (fun p v =>
      if p.vectorMasked v then p else p.sendMsix v) p
  else p

def signalMsix (s : State) (p v : Nat) : State := modPort s p (fun x => x.signal v)

def modHart (s : State) (h : Nat) (g : Hart → Hart) : State := { s with harts := mapMod s.harts h g }

def getHart (s : State) (h : Nat) : Hart := mapGetD s.harts Hart.reset h

/-- The lowest pending identity of an interrupt file that is enabled and lies below its threshold, or 0 (11 R384, as the RISC-V
Advanced Interrupt Architecture has it). -/
def Hart.topIdent (x : Hart) (file : Nat) : Nat :=
  let g := mapGetD x.aia AiaFile.reset file
  ((List.range 256).find? (fun i => i != 0 && x.pending.contains (256 * file + i) && g.enabled.contains i &&
    (g.threshold == 0 || decide (i < g.threshold)))).getD 0

/-- The file delivers an interrupt to its hart. -/
def Hart.interrupts (x : Hart) (file : Nat) : Bool := (mapGetD x.aia AiaFile.reset file).delivery && x.topIdent file != 0

/-- An integer register of 64 bits; x0 is never written. -/
def Hart.xset (x : Hart) (r v : Nat) : Hart := if r = 0 then x else { x with xregs := mapSet x.xregs r (v % 2 ^ 64) }

/-- A hart goes on: WRS and an HSM suspend end (11 R386, R370). -/
def Hart.goOn (x : Hart) (h : Nat) : Hart :=
  let x := { x with wrs := false }
  if x.st = .suspended then
    match x.resume with
    | none => { x with st := .running }
    | some (pc, arg) =>
      ({ x with st := .running, pc := pc, mode := 1, resume := none, csrs := mapDel x.csrs 0x180 }.xset 10 h).xset 11 arg
  else x

/-- An interrupt of its file ends a hart's wait. -/
def Hart.woken (x : Hart) (h : Nat) : Hart := if x.interrupts 0 then x.goOn h else x

/-- An identity becomes pending in the S-level interrupt file of a hart (11 R384). -/
def signalHart (s : State) (h ident : Nat) : State :=
  modHart s h (fun x => (if x.pending.contains ident then x else { x with pending := x.pending ++ [ident] }).woken h)

/-- The forme's fault vector on every attached port, and its fault identity to its fault hart (10 R362, 12 Table 12.12). -/
def signalFault (s : State) (f : Nat) : State :=
  match getForme s f with
  | none => s
  | some x =>
    let s := x.ports.foldl (fun s p => signalMsix s p x.faultVec) s
    if x.groups.isEmpty then s else signalHart s x.faultHart x.faultIdent

/-! ## Range caches (10 R345, Table 10.2) -/

def rangeCapacity (cls : Nat) : Nat :=
  if cls = 1 then 32 else if cls = 2 ∨ cls = 4 then 16 else 64

def cachedIds (s : State) (f : Nat) (e : Engine) : List Nat :=
  match s.rangeCaches.find? (fun c => c.1 = f ∧ c.2.1 = e) with
  | some c => c.2.2
  | none => []

/-- Replaces the identifiers an engine caches for a forme. -/
def setCached (s : State) (f : Nat) (e : Engine) (ids : List Nat) : State :=
  let rest := s.rangeCaches.filter (fun c => !(c.1 = f ∧ c.2.1 = e))
  { s with rangeCaches := if ids.isEmpty then rest else (f, e, ids) :: rest }

/-- A valid entry enters a range cache, the oldest leaving a full one. -/
def fillCached (s : State) (f : Nat) (e : Engine) (id : Nat) : State :=
  let ids := (cachedIds s f e).filter (· ≠ id)
  setCached s f e ((id :: ids).take (rangeCapacity e.cls))

/-- The engines of one die drop entries from their range caches (10 Table 10.4). -/
def dropCached (s : State) (f die : Nat) (ids : List Nat) : State :=
  { s with rangeCaches := s.rangeCaches.map (fun c =>
      if c.1 = f ∧ c.2.1.die = die then (c.1, c.2.1, c.2.2.filter (fun i => !ids.contains i)) else c) }

/-! ## Lookup (10 R338, R341, R342) -/

def RangeEntry.vaStart (e : RangeEntry) : Nat := e.vaPage * 4096

def RangeEntry.vaStop (e : RangeEntry) : Nat := (e.vaPage + e.pages) * 4096

def RangeEntry.paStart (e : RangeEntry) : Nat := e.paPage * 4096

def RangeEntry.paStop (e : RangeEntry) : Nat := (e.paPage + e.pages) * 4096

def RangeEntry.covers (e : RangeEntry) (va : Nat) : Bool := e.vaStart ≤ va && va < e.vaStop

/-- Two extents [a, b) and [c, d) share an address; an empty one shares none. -/
def extentsMeet (a b c d : Nat) : Bool := a < b && c < d && a < d && c < b

def entryAt (f : Forme) (va : Nat) : Option RangeEntry := f.ranges.find? (·.covers va)

def entryById (f : Forme) (id : Nat) : Option RangeEntry := f.ranges.find? (fun e => e.id = id)

/-- One access: forme, engine, kind as the bit of 10 Table 10.7 ACCESS (0 read, 1 write, 2 atomic, 3 fetch), and the pass
whose stick makes it. -/
structure Access where
  forme : Nat
  eng : Engine
  kind : Nat
  pass : Option Nat
deriving DecidableEq, Repr

def Access.writes (a : Access) : Bool := a.kind = 1 || a.kind = 2

inductive Translated where
  | ok (pa : Nat)
  | fault (r : Reason) (e : Option RangeEntry)
deriving DecidableEq, Repr

/-- What an entry allows (10 R342, Table 10.6). -/
def entryRefuses (a : Access) (e : RangeEntry) : Option Reason :=
  if e.kind = .staging ∧ ¬(a.eng.cls = 1 ∧ a.pass = some e.passSeq) then some .staging
  else if e.kind = .locked ∧ a.writes then some .locked
  else if a.writes ∧ e.w = false then some .permission
  else if a.writes = false ∧ e.r = false then some .permission
  else if a.eng.cls = 5 ∧ e.aper = false then some .permission
  else if a.eng.cls = 6 ∧ e.mesh = false then some .permission
  else none

def translateBy (a : Access) (e : RangeEntry) (va : Nat) : Translated :=
  match entryRefuses a e with
  | some r => .fault r (some e)
  | none => .ok (e.paStart + (va - e.vaStart))

/-- A die that an invalidation of the entry has not reached (10 Table 10.4). -/
def notReceived (s : State) (f die id : Nat) : Bool :=
  s.invals.any (fun i => i.forme = f && i.ids.contains id && i.toReceive.contains die)

/-- A walk of the walker on a die reads its group, the eight sectors of one interleave unit, at its home in the priority
class (08 R261, R268). What the table holds is known to the model, so a group found poisoned does not change the answer
(notes/assumptions/125.md). -/
def walkRead (s : State) (fid die : Nat) (f : Forme) (va : Nat) : State :=
  let home := tableStack f / 2
  let s := gutMessage s (some fid) die home false 12 0
  let s := (List.range 8).foldl (fun s i => (homeRead 1 true (walkGroup fid f va + 64 * i) s).1) s
  gutMessage s (some fid) home die true 8 512

/-- Sectors of the table whose entries differ between two orders. -/
def changedSectors (old new : List RangeEntry) : List Nat :=
  (List.range (max old.length new.length / 2 + 1)).filter (fun i =>
    !(old[2 * i]? == new[2 * i]? && old[2 * i + 1]? == new[2 * i + 1]?))

/-- Changes the entries of a forme; Lumiz writes the sectors of the table that change (10 R347). -/
def modRanges (s : State) (fid : Nat) (g : List RangeEntry → List RangeEntry) : State :=
  match getForme s fid with
  | none => s
  | some f =>
    let f' := { f with ranges := g f.ranges }
    (changedSectors (tableOrder f) (tableOrder f')).foldl (fun s i => reservedWritten s (tableBase fid f + 64 * i))
      { s with formes := mapSet s.formes fid f' }

/-- Translates one request, with the walk and the range-cache fill of a miss (10 R338, R344, R345, R358). -/
def translate (s : State) (a : Access) (va : Nat) : State × Translated :=
  if va ≥ 2 ^ 56 then (s, .fault .badVa none)
  else
    match getForme s a.forme with
    | none => (s, .fault .noRange none)
    | some f =>
      match entryAt f va with
      | none => (walkRead s a.forme a.eng.die f va, .fault .noRange none)
      | some e =>
        let hit := (cachedIds s a.forme a.eng).contains e.id
        match e.state with
        | .valid =>
          if hit then (s, translateBy a e va)
          else (fillCached (walkRead s a.forme a.eng.die f va) a.forme a.eng e.id, translateBy a e va)
        | .invalidating =>
          if hit && notReceived s a.forme a.eng.die e.id then (s, translateBy a e va)
          else (walkRead s a.forme a.eng.die f va, .fault .invalidating (some e))
        | .swapping =>
          if hit && notReceived s a.forme a.eng.die e.id then (s, translateBy a e va)
          else (walkRead s a.forme a.eng.die f va, .fault .swap (some e))

/-! ## Fault records (10 R358 to R365) -/

/-- Whether a class is held for a reason (10 Table 10.6, R361). -/
def reasonHeld (cls hold : Nat) (r : Reason) : Bool :=
  match r with
  | .noRange => (cls = 1 || cls = 2 || cls = 4) && hold > 0
  | .invalidating => cls ≤ 4
  | .swap => true
  | _ => false

/-- Same key and reason (10 R363). -/
def sameFault (r : FaultRec) (reason : Reason) (e : Option RangeEntry) (va : Nat) : Bool :=
  r.reason == reason &&
    (match e with
     | some e => r.covered && r.rangeId == e.id
     | none => !r.covered && r.va / 2 ^ 21 == va % 2 ^ 56 / 2 ^ 21)

def mergesInto (now : Nat) (held : Bool) (reason : Reason) (e : Option RangeEntry) (va : Nat) (r : FaultRec) : Bool :=
  sameFault r reason e va &&
    ((r.state == .opened && !r.resolved) || (!held && r.state == .denied && now < r.tFirst + 1000000))

def reasonCode : Reason → Nat
  | .noRange => 1
  | .permission => 2
  | .staging => 3
  | .locked => 4
  | .invalidating => 5
  | .swap => 6
  | .badVa => 7

/-- Position of the oldest resolved record (10 R365). -/
def oldestResolved : List FaultRec → Nat → Option (Nat × Nat)
  | [], _ => none
  | r :: rs, i =>
    match oldestResolved rs (i + 1) with
    | none => if r.state = .opened then none else some (i, r.faultId)
    | some (j, id) => if r.state ≠ .opened ∧ r.faultId < id then some (i, r.faultId) else some (j, id)

/-- The place a new record takes: an unused one, then the oldest resolved. -/
def placeFault (rs : List FaultRec) (r : FaultRec) : Option (List FaultRec) :=
  if rs.length < 32 then some (rs ++ [r])
  else (oldestResolved rs 0).map (fun p => rs.set p.1 r)

/-- A fault of one request: it merges or opens a record, and is held or denied; true when it is held. -/
def raiseFault (s : State) (a : Access) (va : Nat) (reason : Reason) (e : Option RangeEntry) (w : Waiter) :
    State × Bool :=
  match getForme s a.forme with
  | none => (s, false)
  | some f =>
    let held := reasonHeld a.eng.cls f.faultHold reason
    let id := match e with
      | some e => e.id
      | none => 0
    let s :=
      if reason = .invalidating then
        { s with invals := s.invals.map (fun i =>
            if i.forme = a.forme ∧ i.ids.contains id then { i with faulted := i.faulted + 1 } else i) }
      else s
    let ws := if held then [(w, a.eng, a.kind, va)] else []
    if f.faults.any (mergesInto s.now held reason e va) then
      let merge (r : FaultRec) : FaultRec :=
        { r with count := satAdd 65535 r.count 1, classes := setBit r.classes (a.eng.cls - 1),
                 access := setBit r.access a.kind, waiters := r.waiters ++ ws }
      let upd := f.faults.findIdx (mergesInto s.now held reason e va)
      (modForme s a.forme (fun x => { x with faults := x.faults.modify upd merge }), held)
    else
      let r : FaultRec :=
        { faultId := f.nextFaultId, state := if held then .opened else .denied, unit := a.eng.unit, die := a.eng.die,
          firstClass := a.eng.cls, classes := 2 ^ (a.eng.cls - 1), access := 2 ^ a.kind, reason := reason,
          covered := e.isSome, rangeId := id, count := 1, va := va % 2 ^ 56, tFirst := s.now, waiters := ws,
          resolved := !held }
      match placeFault f.faults r with
      | some rs =>
        let s := modForme s a.forme (fun x => { x with faults := rs, nextFaultId := x.nextFaultId + 1 })
        (signalFault s a.forme, held)
      | none => (countFor s (some a.forme) .faultLost 1, false)

/-- The 32 bytes of a record (10 Table 10.7). -/
def FaultRec.pack (forme : Nat) (r : FaultRec) : List Byte :=
  let st := match r.state with
    | .opened => 0
    | .resumed => 1
    | .denied => 2
    | .moved => 3
  toBytes 32 (packFields
    [(32, 0), (32, r.faultId), (2, st), (12, 0), (2, forme), (6, r.unit), (3, r.die), (4, r.firstClass),
     (6, r.classes), (4, r.access), (4, reasonCode r.reason), (1, boolBit r.covered),
     (12, if r.covered then r.rangeId else 0), (16, r.count), (56, r.va), (64, r.tFirst)])

/-- Resolves the open records of a forme that satisfy `p`: their waiters wait for FAULT_REEVALUATE (10 R364). -/
def resolveFaults (s : State) (f : Nat) (p : FaultRec → Bool) : State :=
  modForme s f (fun x => { x with faults := x.faults.map (fun r =>
    if r.state = .opened ∧ r.resolved = false ∧ p r then { r with resolved := true } else r) })

/-- Records of the entries an invalidation or a swap has held (10 R364, first and second case). -/
def resolveEntries (s : State) (f : Nat) (ids : List Nat) : State :=
  resolveFaults s f (fun r => r.covered && ids.contains r.rangeId && (r.reason == .invalidating || r.reason == .swap))

/-- Records whose key a new valid entry overlaps (10 R364, third case). -/
def resolveCovered (s : State) (f vaStart vaStop : Nat) : State :=
  resolveFaults s f (fun r => !r.covered &&
    extentsMeet (r.va / 2 ^ 21 * 2 ^ 21) (r.va / 2 ^ 21 * 2 ^ 21 + 2 ^ 21) vaStart vaStop)

/-- A record whose waiters have been denied at once or evaluated again. -/
def setFaultState (s : State) (f id : Nat) (st : FaultState) : State :=
  modForme s f (fun x => { x with faults := x.faults.map (fun r =>
    if r.faultId = id then { r with state := st, resolved := true, waiters := [] } else r) })

/-! ## Invalidations (10 Table 10.4, R357) -/

/-- Every Platen of the forme and both Compositors. -/
def invalDies (f : Forme) : List Nat := f.platens ++ [6, 7]

/-- Puts entries in state `st` and sends one invalidation of them; the state returned starts it. -/
def startInval (s : State) (f : Nat) (ids : List Nat) (st : RangeState) (purpose : InvPurpose) : State :=
  match getForme s f with
  | none => s
  | some x =>
    let s := modRanges s f (fun es => es.map (fun e =>
      if ids.contains e.id then { e with state := st, mapTime := s.now } else e))
    let i : Inval :=
      { id := s.sec.nextInval, forme := f, ids := ids, purpose := purpose, toReceive := invalDies x,
        toAck := invalDies x, drained := 0, faulted := 0, tInval := s.now, tDone := 0 }
    { s with invals := s.invals ++ [i], sec := { s.sec with nextInval := s.sec.nextInval + 1 } }

def getInval (s : State) (id : Nat) : Option Inval := s.invals.find? (fun i => i.id = id)

def modInval (s : State) (id : Nat) (g : Inval → Inval) : State :=
  { s with invals := s.invals.map (fun i => if i.id = id then g i else i) }

/-! ## Pool access through a translation (10 R338, 09 R286) -/

/-- The forme's view of memory bytes when no fault is to be raised: device addresses that do not translate read as
nothing. Used where Lumiz reads what a command names; stops at the first byte that cannot be read. -/
def spans : Nat → Nat → Nat → List (Nat × Nat)
  | 0, _, _ => []
  | n + 1, va, len =>
    if len = 0 then []
    else
      let k := min len (128 - va % 128)
      (va, k) :: spans n (va + k) (len - k)

/-- The pieces of [va, va + len) that lie each in one line. -/
def lineSpans (va len : Nat) : List (Nat × Nat) := spans (len / 128 + 2) va len

end Sys2Proof.Machine
end

