-- ==== Sys2Proof/Machine/Operands.lean ====
section
/-! DEFINITION. The operand forms: registers, predicates and addresses of a sort (06 R189, R194), the tile command block
(06 Table 6.7), the tensor descriptor (06 Table 6.6), the fields of a mailbox slot (12 Tables 12.2 to 12.5, 12.10), and
the registers of a Compositor core (11). -/

namespace Sys2Proof.Machine

open Sys2Proof

/-! ## Sorts -/

/-- Register `r` of the sort in a lane. -/
def regGet (x : Slug) (lane r : Nat) : W32 := mapGetD x.regs 0 (lane * 256 + r)

def regSet (x : Slug) (lane r : Nat) (v : W32) : Slug := { x with regs := mapSet x.regs (lane * 256 + r) v }

/-- A 64-bit value in registers r and r + 1, the low half in r. -/
def pairGet (x : Slug) (lane r : Nat) : Nat := (regGet x lane r).toNat + 2 ^ 32 * (regGet x lane (r + 1)).toNat

def pairSet (x : Slug) (lane r v : Nat) : Slug :=
  regSet (regSet x lane r (BitVec.ofNat 32 v)) lane (r + 1) (BitVec.ofNat 32 (v / 2 ^ 32))

/-- Registers a value of `size` bytes takes. -/
def sizeRegs (size : Nat) : Nat := if size = 8 then 2 else 1

def valGet (x : Slug) (lane r size : Nat) : Nat := if size = 8 then pairGet x lane r else (regGet x lane r).toNat

/-- A loaded value shorter than a register is zero-extended. -/
def valSet (x : Slug) (lane r size v : Nat) : Slug :=
  if size = 8 then pairSet x lane r v else regSet x lane r (BitVec.ofNat 32 v)

/-- A local-store address is one register; a device virtual address is a pair. -/
def addrRegs (isLocal : Bool) : Nat := if isLocal then 1 else 2

def addrGet (x : Slug) (isLocal : Bool) (lane r : Nat) : Nat :=
  if isLocal then (regGet x lane r).toNat else pairGet x lane r

def predGet (x : Slug) (lane p : Nat) : Bool := mapGetD x.preds false (lane * 256 + p)

def predSet (x : Slug) (lane p : Nat) (b : Bool) : Slug := { x with preds := mapSet x.preds (lane * 256 + p) b }

/-- The lanes of a mask, rising. -/
def lanesOf (mask : Nat) : List Nat := bitsOf 32 mask

/-- Writes one register in every active lane; an inactive sort changes nothing (06 R189). -/
def regSetAll (x : Slug) (r : Nat) (v : Nat → W32) : Slug :=
  (lanesOf x.active).foldl (fun y l => regSet y l r (v l)) x

def predSetAll (x : Slug) (p : Nat) (v : Nat → Bool) : Slug :=
  (lanesOf x.active).foldl (fun y l => predSet y l p (v l)) x

/-! ## Tile command block (06 Table 6.7) -/

def tbOpc (b : Nat) : Nat := bits b 255 250
def tbUnit (b : Nat) : Nat := bits b 249 248
def tbBank (b : Nat) : Nat := bits b 247 246
def tbTag (b : Nat) : Nat := bits b 245 241
def tbBind (b : Nat) : Bool := bit b 240
def tbClose (b : Nat) : Bool := bit b 239
def tbSeed (b : Nat) : Bool := bit b 238
def tbAReg (b : Nat) : Bool := bit b 237
def tbBReg (b : Nat) : Bool := bit b 236
def tbWin (b : Nat) : Nat := bits b 235 234
def tbShift (b : Nat) : Int := signed 7 (bits b 233 227)
def tbUA (b : Nat) : Int := signed 7 (bits b 226 220)
def tbUB (b : Nat) : Int := signed 7 (bits b 219 213)
def tbK (b : Nat) : Nat := bits b 212 200
def tbType (b : Nat) : Nat := bits b 199 192
def tbOrig0 (b : Nat) : Nat := bits b 191 160
def tbOrig1 (b : Nat) : Nat := bits b 159 136
def tbOrig2 (b : Nat) : Nat := bits b 135 120
def tbRows (b : Nat) : Nat := bits b 119 113
def tbCols (b : Nat) : Nat := bits b 112 100
def tbReserved (b : Nat) : Nat := bits b 99 96
def tbOpb (b : Nat) : Nat := bits b 95 64
def tbOpa (b : Nat) : Nat := bits b 63 32
def tbDst (b : Nat) : Nat := bits b 31 0

/-! ## Tensor descriptor (06 Table 6.6) -/

structure TensorDesc where
  isLocal : Bool
  scaleOff : Int
  stride2 : Nat
  stride1 : Nat
  ext2 : Nat
  ext1 : Nat
  ext0 : Nat
  type : Nat
  base : Nat
deriving DecidableEq, Repr

def TensorDesc.ofNat (d : Nat) : TensorDesc :=
  { isLocal := bit d 255, scaleOff := signed 39 (bits d 254 216), stride2 := bits d 215 176, stride1 := bits d 175 136,
    ext2 := bits d 135 120, ext1 := bits d 119 96, ext0 := bits d 95 64, type := bits d 63 56, base := bits d 55 0 }

/-- Bytes of one block of 32 elements (06 R198). -/
def blockBytes (t : Nat) : Nat := 4 * typeBits t

/-- The faults of 06 R199, with an invalid type byte (02 R53). -/
def TensorDesc.bad (d : TensorDesc) : Bool :=
  !typeValid d.type || d.ext0 == 0 || d.ext1 == 0 || d.ext2 == 0 || d.ext0 % typeGroup d.type != 0 ||
    (if typeIsScaled d.type then d.stride1 % blockBytes d.type != 0 || d.stride2 % blockBytes d.type != 0
     else d.scaleOff != 0) ||
    (d.isLocal && decide (d.base ≥ 2 ^ 19))

/-- Distance of the row (i1, i2) from element 0. -/
def TensorDesc.rowOff (d : TensorDesc) (i1 i2 : Nat) : Nat := i1 * d.stride1 + i2 * d.stride2

/-- Address of scale byte k of a row (06 R198), in 64 bits: one before address 0 lies in no range and no local store. -/
def TensorDesc.scaleAddr (d : TensorDesc) (i1 i2 k : Nat) : Nat :=
  (((d.base : Int) + d.scaleOff + (d.rowOff i1 i2 / blockBytes d.type : Nat) + k) % 2 ^ 64).toNat

/-! ## Mailbox slots (12 Tables 12.2 to 12.5) -/

def slotBase (k : Nat) : Nat := 512 * k

/-- The 248 bytes of command fields. -/
def slotCmd (m : Mailbox) (k : Nat) : Nat := ofBytes (readBytes m.bytes (slotBase k + 0x80) 248)

def slotHeader (m : Mailbox) (k : Nat) : Nat := ofBytes (readBytes m.bytes (slotBase k) 64)

def slotSealWord (m : Mailbox) (k : Nat) : Nat := ofBytes (readBytes m.bytes (slotBase k + 0x1F8) 8)

def slotSeq (m : Mailbox) (k : Nat) : Nat := bits (slotSealWord m k) 55 0

def slotOpcode (m : Mailbox) (k : Nat) : Nat := bits (slotHeader m k) 15 0

def slotAfter (m : Mailbox) (k j : Nat) : Nat := ofBytes (readBytes m.bytes (slotBase k + 0x40 + 8 * j) 8)

def hdrPhase (h : Nat) : Nat := bits h 511 504
def hdrUser (h : Nat) : Nat := bits h 127 64
def hdrHart (h : Nat) : Nat := bits h 38 32
def hdrVector (h : Nat) : Nat := bits h 31 24
def hdrIrq (h : Nat) : Bool := bit h 20
def hdrAfterCnt (h : Nat) : Nat := bits h 19 16
def hdrReserved (h : Nat) : Bool := bits h 503 128 != 0 || bits h 63 39 != 0 || bits h 23 21 != 0

/-- Output descriptor, command bits 127:0 (12 Table 12.10). -/
structure OutDesc where
  host : Bool
  len : Nat
  addr : Nat
deriving DecidableEq, Repr

def OutDesc.ofCmd (c : Nat) : OutDesc := { host := bit c 96, len := bits c 95 64, addr := bits c 63 0 }

/-! ## Cores (11) -/

/-- Integer register of a hart; x0 reads zero. -/
def xGet (h : Hart) (r : Nat) : Nat := if r = 0 then 0 else mapGetD h.xregs 0 r

/-- x0 discards what is written to it. -/
def xSet (h : Hart) (r v : Nat) : Hart := if r = 0 then h else { h with xregs := mapSet h.xregs r (v % 2 ^ 64) }

/-- Bytes of vector register r, 64 of them (VLEN 512). -/
def vGet (h : Hart) (r i : Nat) : Byte := byteAt h.vregs (64 * r + i)

def vSet (h : Hart) (r i : Nat) (b : Byte) : Hart := { h with vregs := setByte h.vregs (64 * r + i) b }

end Sys2Proof.Machine
end

