-- ==== Sys2Proof/Machine/GalleyOps.lean ====
section
/-! DEFINITION. What every sort instruction shares (06): the slug that may issue, its program counter and divergences,
stick faults, local store, the galley's L1 and the Case, and the ends of a stick. -/

namespace Sys2Proof.Machine

open Sys2Proof

/-! ## Access to galleys, sticks, slugs -/

def galleyKey (p g : Nat) : Nat := p * 64 + g

def getGalley (s : State) (p g : Nat) : Galley := mapGetD s.galleys Galley.reset (galleyKey p g)

def modGalley (s : State) (p g : Nat) (f : Galley → Galley) : State :=
  { s with galleys := mapUpd s.galleys Galley.reset (galleyKey p g) f }

def getStick (s : State) (p g k : Nat) : Option Stick := mapGet (getGalley s p g).sticks k

def modStick (s : State) (p g k : Nat) (f : Stick → Stick) : State :=
  modGalley s p g (fun x => { x with sticks := mapMod x.sticks k f })

def modSlug (s : State) (a : SlugAt) (f : Slug → Slug) : State :=
  modStick s a.platen a.galley a.stick (fun x => { x with slugs := x.slugs.modify a.slug f })

def getSlug (s : State) (a : SlugAt) : Option Slug :=
  (getStick s a.platen a.galley a.stick).bind (fun x => x.slugs[a.slug]?)

def setSlug (s : State) (a : SlugAt) (x : Slug) : State := modSlug s a (fun _ => x)

def getPlaten (s : State) (p : Nat) : PlatenPower := mapGetD s.platens PlatenPower.reset p

def modPlaten (s : State) (p : Nat) (f : PlatenPower → PlatenPower) : State :=
  { s with platens := mapMod s.platens p f }

/-- A Platen's galleys run (16 R535, R536). -/
def platenRuns (s : State) (p : Nat) : Bool := s.up && !s.moduleIdle && (getPlaten s p).state == .s0

/-! ## Issue (06 R189, R190) -/

/-- What a slug that may issue its instruction at `pc` is made of. -/
structure Issue where
  stick : Stick
  slug : Slug
deriving DecidableEq, Repr

/-- A tile operation of the slug waits in a fault record, which stalls the slug (10 R361). -/
def opHeld (s : State) (a : SlugAt) : Bool :=
  (getGalley s a.platen a.galley).ops.any (fun o => o.stick == a.stick && o.slug == a.slug && o.held)

/-- The stick and slug, when the slug may issue the instruction at `a.pc`. -/
def issuing (s : State) (a : SlugAt) : Option Issue :=
  if platenRuns s a.platen then
    match getStick s a.platen a.galley a.stick with
    | none => none
    | some t =>
      match t.slugs[a.slug]? with
      | none => none
      | some x =>
        if !t.dead && x.wait == .none && !opHeld s a && x.pc == a.pc && x.active != 0 then some { stick := t, slug := x } else none
  else none

/-- One slug instruction issued (06 Table 6.8). -/
def countIssue (s : State) (f : Nat) : State := countFor s (some f) .galleyIssue 1

/-- One instruction issued of a slug; one that runs again after a fault record has been counted. -/
def countOnce (s : State) (i : Issue) : State := if i.slug.rerun then s else countIssue s i.stick.forme

/-! ## Divergence (06 R191, R192) -/

/-- Lanes of `m` that have not exited. -/
def notExited (x : Slug) (m : Nat) : Nat := maskOf ((lanesOf m).filter (fun l => !bit x.exited l))

/-- At a join point, and when every active sort has exited, the slug goes on with the other side, then with the
union. -/
def joinSteps : Nat → Slug → Slug
  | 0, x => x
  | n + 1, x =>
    match x.stack with
    | [] => x
    | d :: r =>
      if x.active = 0 ∨ x.pc = d.join then
        if d.secondSide then joinSteps n { x with active := notExited x d.all, pc := d.join, stack := r }
        else joinSteps n { x with active := d.other, pc := d.otherPc, stack := { d with other := 0, secondSide := true } :: r }
      else x

def Slug.settled (x : Slug) : Slug := joinSteps (2 * x.stack.length + 2) x

/-- The slug goes on at `pc`. -/
def Slug.goto (x : Slug) (pc : Nat) : Slug := { x with pc := pc, rerun := false }.settled

/-! ## Waits that are counted (06 Table 6.8) -/

/-- Clocks of a wait that one of the counters counts. How many clocks pass between two commands is open, so what is added is
a free number (notes/assumptions/120.md). -/
def countClocks (s : State) (f : Nat) (c : Ctr) : State := countFor s.drawn (some f) c (Config.freeNat s.free)

/-- The ticket of a slug is that of a TILE_LOAD. -/
def loadTicket (x : Galley) (stick slug ticket : Nat) : Bool :=
  x.ops.any (fun o => o.stick == stick && o.slug == slug && o.ticket == ticket && tbOpc o.block == 1)

/-- The counter that counts the wait of a slug. -/
def waitCounter (x : Galley) (stick slug : Nat) (w : SlugWait) : Option Ctr :=
  match w with
  | .barrier _ _ => some .barrierWait
  | .lock _ _ _ _ _ => some .lockWait
  | .readDone n => if loadTicket x stick slug n then some .galleyMemStall else none
  | .done n => if loadTicket x stick slug n then some .galleyMemStall else none
  | _ => none

/-- The waits of the slugs of a stick are counted up to now. -/
def countWaits (s : State) (p g k : Nat) : State :=
  match getStick s p g k with
  | none => s
  | some t =>
    t.slugs.zipIdx.foldl (fun s xi =>
      match waitCounter (getGalley s p g) k xi.2 xi.1.wait with
      | some c => countClocks s t.forme c
      | none => s) s

/-! ## Formes and passes of a stick -/

def getPass (s : State) (f seq : Nat) : Option Pass := (getForme s f).bind (fun x => x.passes.find? (fun p => p.seq = seq))

/-- A pass among the last 256 of its forme (12 Table 12.8 NO_PASS, 18 R588). -/
def recentPass (s : State) (f seq : Nat) : Option Pass :=
  (getForme s f).bind (fun x => (x.passes.take 256).find? (fun p => p.seq = seq))

def modPass (s : State) (f seq : Nat) (g : Pass → Pass) : State :=
  modForme s f (fun x => { x with passes := x.passes.map (fun p => if p.seq = seq then g p else p) })

/-! ## Stick faults (06 R219 to R223) -/

/-- The codes of 06 Table 6.11. -/
inductive StickCode where
  | badFormat | accBank | accOverrun | sliceRange | badBarrier | barrierStranded | lockTimeout | lockNotHeld
  | lockTable | misaligned | lsRange | badRegister | illegalOp | ticket | divergeDepth | translation | poison | trap
deriving DecidableEq, Repr

def StickCode.code : StickCode → Nat
  | .badFormat => 0x01
  | .accBank => 0x02
  | .accOverrun => 0x03
  | .sliceRange => 0x04
  | .badBarrier => 0x05
  | .barrierStranded => 0x06
  | .lockTimeout => 0x07
  | .lockNotHeld => 0x08
  | .lockTable => 0x09
  | .misaligned => 0x0A
  | .lsRange => 0x0B
  | .badRegister => 0x0C
  | .illegalOp => 0x0D
  | .ticket => 0x0E
  | .divergeDepth => 0x0F
  | .translation => 0x10
  | .poison => 0x11
  | .trap => 0x12

/-- Where and with what a stick faults (06 Table 6.12). -/
structure FaultAt where
  code : StickCode
  addr : Nat
  lanes : Nat
  detail : Nat
deriving DecidableEq, Repr

/-- A stick faults: its slugs stop issuing, operations not accepted are cancelled, the record goes to Lumiz, which keeps
the first 64 of the attempt. A stick that has faulted or stopped records nothing more. -/
def stickFault (s : State) (p g k slug pc : Nat) (w : FaultAt) : State :=
  match getStick s p g k with
  | none => s
  | some t =>
    if t.dead then s
    else
      let s := countWaits s p g k
      let r : StickFault :=
        { passSeq := t.passSeq, stick := t.index, lanes := w.lanes, addr := w.addr % 2 ^ 56, pc := pc,
          code := w.code.code, slug := slug, attempt := t.attempt, platen := p, galley := g, detail := w.detail }
      let s := modStick s p g k (fun t => { t with dead := true, fault := some r })
      let s := modGalley s p g (fun x => { x with ops := x.ops.filter (fun o => o.stick ≠ k || o.started) })
      let s := countFor s (some t.forme) .stickFaults 1
      modPass s t.forme t.passSeq (fun q =>
        { q with faultCount := q.faultCount + 1,
                 faults := if (q.faults.filter (fun f => f.attempt = q.attempt)).length < 64 then q.faults ++ [r]
                           else q.faults })

/-- A fault of the instruction that a slug issues. -/
def slugFault (s : State) (a : SlugAt) (w : FaultAt) : State :=
  stickFault s a.platen a.galley a.stick a.slug a.pc w

/-- A fault of all the active lanes without an address. -/
def plainFault (s : State) (a : SlugAt) (x : Slug) (c : StickCode) (detail : Nat) : State :=
  slugFault s a { code := c, addr := 0, lanes := x.active, detail := detail }

/-! ## An instruction over registers alone -/

/-- Issues an instruction whose highest register index is `top`; `f` is its effect on the slug (06 R194
BAD_REGISTER). -/
def issueRegs (s : State) (a : SlugAt) (top : Nat) (f : Stick → Slug → Slug) : State :=
  match issuing s a with
  | none => s
  | some i =>
    let s := countIssue s i.stick.forme
    if top ≥ i.stick.header.regs then plainFault s a i.slug .badRegister 0
    else setSlug s a ((f i.stick i.slug).goto a.next)

/-! ## Local store (06 R177, R184, R194) -/

/-- Bytes of local store allocated to a stick. -/
def StickHeader.lsAlloc (h : StickHeader) : Nat := ceilDiv h.lsBytes 1024 * 1024

def lsInside (t : Stick) (a n : Nat) : Bool := a + n ≤ t.header.lsAlloc

/-! ## Case of a Platen (09 R291, R292, R312, R314) -/

/-- The sector of a line that holds an offset is poisoned. -/
def LineData.poisonAt (d : LineData) (off : Nat) : Bool := if off < 64 then d.p0 else d.p1

/-- Bytes of a line at an offset. -/
def LineData.slice (d : LineData) (off n : Nat) : List Byte := (d.data.drop off).take n

/-- A caching agent reads a line. -/
def cacheRead (s : State) (agent ln : Nat) (group : Option Nat) (prio : Bool) : State × LineData :=
  let s := acquireShared (caseCheck (settle s ln) agent ln prio) agent ln group prio
  (s, heldData s agent ln)

def lineMask (off n : Nat) : Nat := (2 ^ n - 1) * 2 ^ off

/-- A caching agent writes the bytes of a line that a 128-bit mask names (09 R292): a sector wholly written loses its
poison, and a partial write of a poisoned sector is discarded and recorded. -/
def cacheWrite (s : State) (agent ln mask : Nat) (data : List Byte) (group : Option Nat) : State :=
  let whole := mask = 2 ^ 128 - 1
  let s := if whole then s else caseCheck (settle s ln) agent ln false
  let s := acquireOwned s agent ln whole group
  match getLine s agent ln with
  | none => s
  | some l =>
    let m0 := mask % 2 ^ 64
    let m1 := mask / 2 ^ 64
    let drop0 := l.poison0 && m0 != fullMask && m0 != 0
    let drop1 := l.poison1 && m1 != fullMask && m1 != 0
    let m := (if drop0 then 0 else m0) + 2 ^ 64 * (if drop1 then 0 else m1)
    let s := if drop0 then memRecord s (ln * 128) 4 0 3 0 else s
    let s := if drop1 then memRecord s (ln * 128 + 64) 4 0 3 0 else s
    setLine s agent ln { l with data := mergeBytes m l.data data, poison0 := l.poison0 && m0 != fullMask,
                                poison1 := l.poison1 && m1 != fullMask }

/-- Atomics and loads-with-reservation read a line in M (09 R309). -/
def cacheOwn (s : State) (agent ln : Nat) (group : Option Nat) : State × LineData :=
  let s := acquireOwned (caseCheck (settle s ln) agent ln false) agent ln false group
  (s, heldData s agent ln)

/-! ### Write streams (09 R314, R315) -/

def streamKey (p i : Nat) : Nat := p * 64 + i

/-- The tracker whose next line is `ln`. -/
def streamOf (s : State) (p ln : Nat) : Option (Nat × Stream) :=
  s.streams.find? (fun kv => kv.1 / 64 = p && kv.2.next = ln)

/-- The least recently used tracker of a Case. -/
def oldestStream : SMap Stream → Option (Nat × Nat)
  | [] => none
  | (k, x) :: r =>
    match oldestStream r with
    | some (j, u) => if x.lastUse ≤ u then some (k, x.lastUse) else some (j, u)
    | none => some (k, x.lastUse)

/-- A whole-line write continues a stream or begins to form one; the tracker is then the one its Case used last. -/
def trackStream (s : State) (p ln : Nat) : State :=
  let mine := s.streams.filter (fun kv => kv.1 / 64 = p)
  let use := mine.foldl (fun n kv => max n (kv.2.lastUse + 1)) 0
  match streamOf s p ln with
  | some (k, x) => { s with streams := mapSet s.streams k { next := ln + 1, count := x.count + 1, lastUse := use } }
  | none =>
    let k := match (List.range 64).find? (fun i => (mapGet s.streams (streamKey p i)).isNone) with
      | some i => streamKey p i
      | none => match oldestStream mine with
        | some (k, _) => k
        | none => streamKey p 0
    { s with streams := mapSet s.streams k { next := ln + 1, count := 1, lastUse := use } }

/-- A whole-line write of a sort or a TILE_STORE through the Case of Platen p. -/
def caseWriteWhole (s : State) (p ln : Nat) (data : List Byte) (noBypass : Bool) (f : Nat) : State :=
  let s := settle s ln
  let bypass := !noBypass && (getLine s p ln).isNone &&
    (match streamOf s p ln with
     | some (_, x) => decide (x.count ≥ 256)
     | none => false)
  let s := trackStream s p ln
  if bypass then writeFull (countFor (lookup s p false) (some f) .streamBypassLines 1) p 0 ln data 0 false
  else cacheWrite s p ln (2 ^ 128 - 1) data none

/-! ## The L1 of a galley (09 R285, R328) -/

def l1Lines (x : Galley) : Nat := (8 - x.lsSteps) * 512

def l1Clear (s : State) (p g : Nat) : State := modGalley s p g (fun x => { x with l1 := [] })

def l1Drop (s : State) (p g ln : Nat) : State := modGalley s p g (fun x => { x with l1 := mapDel x.l1 ln })

/-- A line for a sort's load: the L1's copy, or one fetched through the Case. Whether a present copy is still there is
open (its replacement is not specified): a free choice. A poisoned line does not enter the L1. -/
def l1Read (s : State) (p g ln : Nat) : State × LineData :=
  let fetch (s : State) : State × LineData :=
    let r := cacheRead s p ln none true
    let put (x : Galley) : Galley :=
      let l1 := mapDel x.l1 ln
      let l1 := if l1.length ≥ l1Lines x then l1.drop 1 else l1
      { x with l1 := if l1Lines x = 0 ∨ r.2.p0 ∨ r.2.p1 ∨ r.2.absent then l1 else mapSet l1 ln r.2.data }
    (modGalley r.1 p g put, r.2)
  match mapGet (getGalley s p g).l1 ln with
  | some d =>
    if Config.freeBool s.free then (s.drawn, { data := d, p0 := false, p1 := false, absent := false })
    else fetch s.drawn
  | none => fetch s

/-- A store is written through: the L1's copy of the line follows it. -/
def l1Update (s : State) (p g ln mask : Nat) (data : List Byte) : State :=
  modGalley s p g (fun x => { x with l1 := mapMod x.l1 ln (fun d => mergeBytes mask d data) })

/-! ## Locks held (06 R213) -/

/-- An access of a stick's galley (10 Table 10.2). -/
def stickAccess (t : Stick) (p g kind : Nat) : Access :=
  { forme := t.forme, eng := { cls := 1, die := p, unit := g }, kind := kind, pass := some t.passSeq }

/-- Writes a zero lock word: local store, or device memory through the Case. A word that the forme no longer maps is not
written (10 R354; notes/assumptions/121.md). -/
def clearLockWord (s : State) (p g k : Nat) (t : Stick) (h : LockHeld) : State :=
  if h.isLocal then modStick s p g k (fun t => { t with ls := writeBytes t.ls h.addr (toBytes 4 0) })
  else
    let q := translate s (stickAccess t p g 1) h.addr
    match q.2 with
    | .fault _ _ => q.1
    | .ok pa =>
      let line := List.replicate 128 0#8
      let s := cacheWrite q.1 p (lineOf pa) (lineMask (pa % 128) 4) line none
      l1Update s p g (lineOf pa) (lineMask (pa % 128) 4) line

/-- A lock word lies in an entry that is invalidating or swapping, so its release waits (10 R358). -/
def lockHeldUp (s : State) (t : Stick) (h : LockHeld) : Bool :=
  !h.isLocal &&
    (match (getForme s t.forme).bind (fun f => entryAt f h.addr) with
     | some e => e.state != .valid
     | none => false)

def Stick.locks (t : Stick) : List LockHeld := t.slugs.flatMap (·.locks)

/-- The release of a lock word of the stick waits. -/
def lockStalls (s : State) (t : Stick) : Bool := t.locks.any (lockHeldUp s t)

/-- Every lock word that the sorts of a stick hold and whose release need not wait is written zero. -/
def releaseLocks (s : State) (p g k : Nat) : State :=
  match getStick s p g k with
  | none => s
  | some t =>
    let r := (t.locks.filter (fun h => !lockHeldUp s t h)).foldl (fun s h => clearLockWord s p g k t h) s
    modStick r p g k (fun y =>
      { y with slugs := y.slugs.map (fun x => { x with locks := x.locks.filter (lockHeldUp s t) }) })

/-! ## Banks (03 R92) -/

def Press.discard (k : Nat) (x : Press) : Press :=
  { x with banks := x.banks.filter (fun b => b.2.stick ≠ k) }

def discardBanks (s : State) (p g k : Nat) : State :=
  modGalley s p g (fun x => { x with presses := x.presses.map (fun kv => (kv.1, kv.2.discard k)) })

/-- A request of a stick. -/
def waiterOf (p g k : Nat) : Waiter → Bool
  | .sort a _ => a.platen == p && a.galley == g && a.stick == k
  | .tileOp r => r.platen == p && r.galley == g && r.stick == k
  | _ => false

/-- Requests that satisfy a test wait in no fault record any more. -/
def dropWaiters (s : State) (test : Waiter → Bool) : State :=
  { s with formes := s.formes.map (fun kv => (kv.1, { kv.2 with faults := kv.2.faults.map (fun r =>
      { r with waiters := r.waiters.filter (fun w => !test w.1) }) })) }

/-- No operation of the stick runs on, and nothing of it waits in a fault record. -/
def endOps (s : State) (p g k : Nat) : State :=
  let s := dropWaiters s (waiterOf p g k)
  modGalley s p g (fun x =>
    { x with ops := x.ops.filter (fun o => o.stick ≠ k),
             presses := x.presses.map (fun kv =>
               (kv.1, { kv.2 with
                 multiply := match kv.2.multiply with
                   | some (a, b, c) => if a = k then none else some (a, b, c)
                   | none => none
                 output := match kv.2.output with
                   | some (a, b, c) => if a = k then none else some (a, b, c)
                   | none => none })) })

/-- The stick's resources are freed. -/
def freeStick (s : State) (p g k : Nat) : State :=
  modGalley (endOps s p g k) p g (fun x => { x with sticks := mapDel x.sticks k })

/-- Stopped: it issues nothing, and no fault ended it. -/
def Stick.stopped (t : Stick) : Bool := t.dead && t.fault.isNone

/-- A stick that no lock word holds up any more is freed. -/
def freeUnheld (s : State) (p g k : Nat) : State :=
  match getStick s p g k with
  | none => s
  | some t => if t.locks.isEmpty then freeStick s p g k else s

/-- A stick is stopped (06 R220); one that has faulted is no stick that ends without a fault. It stays until every lock word it
holds is written, as a word in an entry that swaps or invalidates is written only afterwards (10 R358). -/
def stickStop (s : State) (p g k : Nat) : State :=
  match getStick s p g k with
  | none => s
  | some t =>
    let s := if t.dead then s else countWaits s p g k
    let s := modStick s p g k (fun t => { t with dead := true })
    let s := freeUnheld (endOps (discardBanks (releaseLocks s p g k) p g k) p g k) p g k
    if t.dead then s else countFor s (some t.forme) .sticksStopped 1

/-- Stops every stick that satisfies a test. -/
def stopSticks (s : State) (test : Stick → Bool) : State :=
  s.galleys.foldl (fun s kv =>
    kv.2.sticks.foldl (fun s t => if test t.2 then stickStop s (kv.1 / 64) (kv.1 % 64) t.1 else s) s) s

/-- Writes that waited for entries of a forme go on: its stopped sticks write the lock words that held them up. -/
def finishStops (s : State) (fid : Nat) : State := stopSticks s (fun t => t.forme == fid && t.stopped)

end Sys2Proof.Machine
end

