-- ==== Sys2Proof/Machine/Sorts.lean ====
section
/-! DEFINITION. The instructions of a sort that act on registers and control (06 R185, R189 to R196, R219): arithmetic,
branches, exits, special values, exchanges and tallies. -/

namespace Sys2Proof.Machine

open Sys2Proof

abbrev Res := Host.Outcome State Fault Refusal

/-! ## Arithmetic (06 R193) -/

def fp32Val (w : W32) : Num := decodeFloat ffFP32 w.toNat

def fp32Out (c : Conv) : W32 := BitVec.ofNat 32 c.code

/-- Index of the free result of the one signed division whose quotient does not fit 32 bits. -/
def divOverflow : Nat := 2 ^ 32

/-- The result of an arithmetic instruction: integers wrap, a division by zero gives zero, floats round once with ties
away; an instruction the spec does not name has a free result, as has a quotient that does not fit. -/
def arithResult (op : ArithOp) (a b : W32) : W32 :=
  match op with
  | .addI => a + b
  | .subI => a - b
  | .mulI => a * b
  | .divS =>
    if a.toInt = -2 ^ 31 ∧ b.toInt = -1 then Config.sortArith divOverflow [a, b]
    else BitVec.ofInt 32 (a.toInt.tdiv b.toInt)
  | .divU => BitVec.ofNat 32 (a.toNat / b.toNat)
  | .addF => fp32Out (roundFloat ffFP32 .away ((fp32Val a).add false (fp32Val b)))
  | .subF => fp32Out (roundFloat ffFP32 .away ((fp32Val a).add false (fp32Val b).neg))
  | .mulF => fp32Out (roundFloat ffFP32 .away ((fp32Val a).mul (fp32Val b)))
  | .divF => fp32Out (divFloat ffFP32 .away (fp32Val a) (fp32Val b))
  | .other n => Config.sortArith n [a, b]

def execSortArithmetic (a : SlugAt) (op : ArithOp) (dst x y : Nat) (s : State) : Res :=
  .next (issueRegs s a (max dst (max x y)) (fun _ g =>
    regSetAll g dst (fun l => arithResult op (regGet g l x) (regGet g l y))))

/-! ## Control (06 R191, R192, R219) -/

/-- A slug at a branch: sorts whose predicate is set take it. -/
def branchSlug (x : Slug) (pred target join next : Nat) : Slug :=
  let taken := maskOf ((lanesOf x.active).filter (fun l => predGet x l pred))
  let rest := maskOf ((lanesOf x.active).filter (fun l => !predGet x l pred))
  if taken = 0 then x.goto next
  else if rest = 0 then x.goto target
  else
    let d : Diverge := { join := join, other := rest, otherPc := next, secondSide := false, all := x.active }
    { x with active := taken, stack := d :: x.stack }.goto target

/-- The branch would open a divergence beyond the 32nd. -/
def branchTooDeep (x : Slug) (pred : Nat) : Bool :=
  x.stack.length ≥ 32 && (lanesOf x.active).any (fun l => predGet x l pred) &&
    (lanesOf x.active).any (fun l => !predGet x l pred)

def execBranch (a : SlugAt) (pred target join : Nat) (s : State) : Res :=
  match issuing s a with
  | none => .next s
  | some i =>
    let s := countIssue s i.stick.forme
    if branchTooDeep i.slug pred then .next (plainFault s a i.slug .divergeDepth 0)
    else .next (setSlug s a (branchSlug i.slug pred target join a.next))

/-! ### Barriers and exits (06 R214, R215) -/

/-- Sorts of a stick that have exited. -/
def exitedSorts (t : Stick) : Nat := (t.slugs.map (fun x => (lanesOf x.exited).length)).sum

/-- A waiter at barrier `b` goes on. -/
def releaseWaiter (b : Nat) (x : Slug) : Slug :=
  match x.wait with
  | .barrier c next => if c = b then { x with wait := .none }.goto next else x
  | _ => x

/-- Phases whose arrivals and exited sorts reach their count complete and release their waiters. -/
def completeBarriers (t : Stick) : Stick :=
  let done := t.barriers.filter (fun kv => kv.2.arrivals + exitedSorts t ≥ kv.2.count)
  { t with barriers := t.barriers.filter (fun kv => !(kv.2.arrivals + exitedSorts t ≥ kv.2.count)),
           slugs := t.slugs.map (fun x => done.foldl (fun x kv => releaseWaiter kv.1 x) x) }

/-- A waiter released is an acquire: the galley's L1 is invalidated (09 R328). -/
def meetComplete (s : State) (a : SlugAt) : State :=
  match getStick s a.platen a.galley a.stick with
  | none => s
  | some t =>
    let t' := completeBarriers t
    let woke := (t.slugs.zip t'.slugs).any (fun xy => xy.1.wait != xy.2.wait)
    let s := if woke then countWaits s a.platen a.galley a.stick else s
    let s := modStick s a.platen a.galley a.stick completeBarriers
    if woke then l1Clear s a.platen a.galley else s

def execExit (a : SlugAt) (s : State) : Res :=
  match issuing s a with
  | none => .next s
  | some i =>
    let s := countIssue s i.stick.forme
    let x := { i.slug with exited := Nat.lor i.slug.exited i.slug.active, active := 0 }
    .next (meetComplete (setSlug s a (x.goto a.next)) a)

def execTrap (a : SlugAt) (s : State) : Res :=
  match issuing s a with
  | none => .next s
  | some i => .next (plainFault (countIssue s i.stick.forme) a i.slug .trap 0)

/-! ## Special values (06 R185, Table 6.3) -/

/-- The value a sort reads, as a 64-bit number: signed values are sign-extended; a binding the layer does not declare has
no value stated, so a free one. -/
def specialValue (s : State) (a : SlugAt) (t : Stick) (lane : Nat) (sp : Special) : Nat :=
  let q := getPass s t.forme t.passSeq
  let open_ := Config.freeNat (s.free + lane)
  let outAt (n : Nat) (f : OutNow → Nat) : Nat :=
    match q.bind (fun q => q.outs[n]?) with
    | some o => f o
    | none => open_
  let inAt (n : Nat) (f : InNow → Nat) : Nat :=
    match q.bind (fun q => q.ins[n]?) with
    | some i => f i
    | none => open_
  match sp with
  | .stick => t.index
  | .nsticks => (q.map (·.nsticks)).getD 0
  | .sort => a.slug * 32 + lane
  | .slug => a.slug
  | .lane => lane
  | .galley => a.galley
  | .platen => a.platen
  | .passSeq => t.passSeq
  | .attempt => t.attempt
  | .time => s.now
  | .inType n => inAt n (fun i => i.type)
  | .inU n => inAt n (fun i => unsigned 32 i.u)
  | .outType n => outAt n (fun o => o.type)
  | .outShift n => outAt n (fun o => unsigned 32 o.shift)

def specialSize : Special → Nat
  | .time => 8
  | _ => 4

/-- Draws enough free values for the lanes of one instruction. -/
def State.drawnLanes (s : State) : State := { s with free := s.free + 32 }

def execReadSpecial (a : SlugAt) (dst : Nat) (sp : Special) (s : State) : Res :=
  .next (issueRegs s a (dst + sizeRegs (specialSize sp) - 1) (fun t g =>
    (lanesOf g.active).foldl (fun y l => valSet y l dst (specialSize sp) (specialValue s a t l sp)) g)).drawnLanes

/-! ## Exchanges (06 R195, R196) -/

/-- A lane that an exchange may name. -/
def laneValid (t : Stick) (slug : Nat) (x : Slug) (src : Int) : Bool :=
  decide (0 ≤ src) && decide (src < 32) && decide (slug * 32 + src.toNat < t.header.sorts) && !bit x.exited src.toNat

/-- Moves register `v` between lanes: `src` names the source of each lane; `dst` gets the value and predicate `p` the
valid bit. -/
def exchange (t : Stick) (slug : Nat) (x : Slug) (dst v p : Nat) (src : Nat → Int) : Slug :=
  let val (l : Nat) : W32 := if laneValid t slug x (src l) then regGet x (src l).toNat v else regGet x l v
  predSetAll (regSetAll x dst val) p (fun l => laneValid t slug x (src l))

def execXchAt (a : SlugAt) (dst v r p : Nat) (s : State) : Res :=
  .next (issueRegs s a (max dst (max v r)) (fun t x =>
    exchange t a.slug x dst v p (fun l => ((regGet x l r).toNat : Int))))

def execXchRotW (a : SlugAt) (dst v : Nat) (d : Int) (p : Nat) (s : State) : Res :=
  .next (issueRegs s a (max dst v) (fun t x => exchange t a.slug x dst v p (fun l => ((l : Int) + d) % 32)))

def execXchRotC (a : SlugAt) (dst v : Nat) (d : Int) (p : Nat) (s : State) : Res :=
  .next (issueRegs s a (max dst v) (fun t x => exchange t a.slug x dst v p (fun l => (l : Int) + d)))

def execXchFlip (a : SlugAt) (dst v m p : Nat) (s : State) : Res :=
  .next (issueRegs s a (max dst v) (fun t x => exchange t a.slug x dst v p (fun l => (Nat.xor l (m % 32) : Nat))))

/-- Lowest active lane. -/
def lowLane (x : Slug) : Nat := (lanesOf x.active).headD 0

def execXchLow (a : SlugAt) (dst v p : Nat) (s : State) : Res :=
  .next (issueRegs s a (max dst v) (fun t x => exchange t a.slug x dst v p (fun _ => (lowLane x : Int))))

/-! ## Tallies (06 R195) -/

/-- Active lanes whose predicate is set. -/
def tallyLanes (x : Slug) (p : Nat) : List Nat := (lanesOf x.active).filter (fun l => predGet x l p)

def boolWord (b : Bool) : W32 := if b then 1 else 0

def execTallySome (a : SlugAt) (dst p : Nat) (s : State) : Res :=
  .next (issueRegs s a dst (fun _ x => regSetAll x dst (fun _ => boolWord (!(tallyLanes x p).isEmpty))))

def execTallyEvery (a : SlugAt) (dst p : Nat) (s : State) : Res :=
  .next (issueRegs s a dst (fun _ x =>
    regSetAll x dst (fun _ => boolWord ((lanesOf x.active).all (fun l => predGet x l p)))))

def execTallyMask (a : SlugAt) (dst p : Nat) (s : State) : Res :=
  .next (issueRegs s a dst (fun _ x => regSetAll x dst (fun _ => BitVec.ofNat 32 (maskOf (tallyLanes x p)))))

def execTallyCount (a : SlugAt) (dst p : Nat) (s : State) : Res :=
  .next (issueRegs s a dst (fun _ x => regSetAll x dst (fun _ => BitVec.ofNat 32 (tallyLanes x p).length)))

def execTallySame (a : SlugAt) (dst v : Nat) (s : State) : Res :=
  .next (issueRegs s a (max dst v) (fun _ x =>
    regSetAll x dst (fun _ => boolWord ((lanesOf x.active).all (fun l => regGet x l v == regGet x (lowLane x) v)))))

def execTallyLive (a : SlugAt) (dst : Nat) (s : State) : Res :=
  .next (issueRegs s a dst (fun _ x => regSetAll x dst (fun _ => BitVec.ofNat 32 x.active)))

end Sys2Proof.Machine
end

