-- ==== Sys2Proof/Machine/SortMem.lean ====
section
/-! DEFINITION. The memory instructions of a sort (06 R194, 09 R308 to R313, R326 to R331), locks (06 R209 to R213),
barriers (06 R214 to R218), and the start and end of a stick (06 R177, R182 to R184, R192). -/

namespace Sys2Proof.Machine

open Sys2Proof

/-! ## Lane requests -/

/-- Lane and address of each active sort. -/
def laneAddrs (x : Slug) (isLocal : Bool) (areg : Nat) : List (Nat × Nat) :=
  (lanesOf x.active).map (fun l => (l, addrGet x isLocal l areg))

/-- The fault of a lane's address (06 R194). Of an address that is both misaligned and outside the local store the spec does not
say which is recorded: alignment comes first here (DESIGN CHOICE, notes/assumptions/119.md). -/
def addrFault (t : Stick) (isLocal : Bool) (size align addr : Nat) : Option StickCode :=
  if addr % align ≠ 0 then some .misaligned
  else if isLocal && !lsInside t addr size then some .lsRange
  else none

/-- The fault of the lowest faulting lane, with every lane that raises the same one (06 R222, Table 6.12). -/
def lanesFault (fs : List (Nat × Nat × StickCode)) : Option FaultAt :=
  match fs with
  | [] => none
  | (_, addr, c) :: _ =>
    some { code := c, addr := addr, lanes := maskOf ((fs.filter (fun f => f.2.2 = c)).map (·.1)), detail := 0 }

def addrFaults (t : Stick) (isLocal : Bool) (size align : Nat) (las : List (Nat × Nat)) : Option FaultAt :=
  lanesFault (las.filterMap (fun la => (addrFault t isLocal size align la.2).map (fun c => (la.1, la.2, c))))

/-- Lanes in an order in which any of them may be the last: which of several writes of one instruction to one place
stays is open. -/
def rotated (s : State) (l : List (Nat × Nat)) : List (Nat × Nat) :=
  let k := Config.freeNat s.free % 32
  (l.drop (k % (l.length + 1))) ++ l.take (k % (l.length + 1))

/-! ## Translation of the lanes of one instruction -/

def sortAccess (t : Stick) (a : SlugAt) (kind : Nat) : Access := stickAccess t a.platen a.galley kind

/-- What became of the translations: physical addresses by lane, lanes denied, and whether one is held. -/
structure LanesAt where
  ok : List (Nat × Nat)
  denied : List (Nat × Nat × StickCode)
  held : Bool
deriving DecidableEq, Repr

/-- Translates each lane's address; the lanes of one line fault as one request (10 R345, R363). -/
def translateLanes (acc : Access) (a : SlugAt) (las : List (Nat × Nat)) (s : State) : State × LanesAt :=
  las.foldl (fun (s, r) la =>
    let q := translate s acc la.2
    match q.2 with
    | .ok pa => (q.1, { r with ok := r.ok ++ [(la.1, pa)] })
    | .fault reason e =>
      let mates := maskOf ((las.filter (fun x => lineOf x.2 = lineOf la.2)).map (·.1))
      let first := (las.filter (fun x => lineOf x.2 = lineOf la.2)).headD la
      if first.1 = la.1 then
        let f := raiseFault q.1 acc la.2 reason e (.sort a mates)
        if f.2 then (f.1, { r with held := true })
        else (f.1, { r with denied := r.denied ++ [(la.1, la.2, .translation)] })
      else
        let wasDenied := r.denied.any (fun d => d.1 = first.1)
        (q.1, if wasDenied then { r with denied := r.denied ++ [(la.1, la.2, .translation)] } else r))
    (s, { ok := [], denied := [], held := false })

/-- Issues a memory instruction: registers up to `top`, addresses, then translation of device addresses; `go` runs with
the physical (or local) address of every active lane. A denied request faults the stick, a held one stalls the slug. All the
lanes' addresses are judged before any is translated, so that a higher lane's MISALIGNED is recorded where a lower lane would be
denied translation; 06 R222 orders the lanes of one moment only (DESIGN CHOICE, notes/assumptions/119.md). -/
def issueMem (s : State) (a : SlugAt) (isLocal : Bool) (top areg size align kind : Nat) (sizeOk : Bool)
    (go : State → Stick → Slug → List (Nat × Nat) → State) : State :=
  match issuing s a with
  | none => s
  | some i =>
    let s := countOnce s i
    let x := i.slug
    if top ≥ i.stick.header.regs then plainFault s a x .badRegister 0
    else if !sizeOk then plainFault s a x .illegalOp 0
    else
      let las := laneAddrs x isLocal areg
      match addrFaults i.stick isLocal size align las with
      | some w => slugFault s a w
      | none =>
        if isLocal then go s i.stick x las
        else
          let r := translateLanes (sortAccess i.stick a kind) a las s
          match lanesFault r.2.denied with
          | some w => slugFault r.1 a w
          | none => if r.2.held then setSlug r.1 a { x with wait := .fault, rerun := true } else go r.1 i.stick x r.2.ok

/-- Highest register of an address operand. -/
def topAddr (isLocal : Bool) (areg : Nat) : Nat := areg + addrRegs isLocal - 1

/-- Qualifiers that a load and a store take (09 R327); another makes an undefined instruction (06 Table 6.11 ILLEGAL_OP). -/
def loadOrd (o : Ord) : Bool := o == .plain || o == .acq

def storeOrd (o : Ord) : Bool := o == .plain || o == .rel

def memSize (n : Nat) : Bool := n = 1 || n = 2 || n = 4 || n = 8

def isAcquire : Ord → Bool
  | .acq => true
  | .ar => true
  | _ => false

/-- The virtual address of a lane, for a fault record. -/
def laneVa (x : Slug) (areg lane : Nat) : Nat := addrGet x false lane areg

/-! ## Loads -/

def distinctLines (las : List (Nat × Nat)) : List Nat := (las.map (fun la => lineOf la.2)).eraseDups

def readLines (s : State) (p g : Nat) (lns : List Nat) : State × SMap LineData :=
  lns.foldl (fun (s, m) ln => let r := l1Read s p g ln; (r.1, mapSet m ln r.2)) (s, [])

def lineBytes (m : SMap LineData) (pa n : Nat) : List Byte :=
  match mapGet m (lineOf pa) with
  | some d => d.slice (pa % 128) n
  | none => []

def linePoisoned (m : SMap LineData) (pa : Nat) : Bool :=
  match mapGet m (lineOf pa) with
  | some d => d.poisonAt (pa % 128)
  | none => false

def execSortLoad (a : SlugAt) (isLocal : Bool) (size dst areg : Nat) (ord : Ord) (s : State) : Res :=
  .next (issueMem s a isLocal (max (dst + sizeRegs size - 1) (topAddr isLocal areg)) areg size size 0 (memSize size && loadOrd ord)
    (fun s t x las =>
      let s := if isAcquire ord then l1Clear s a.platen a.galley else s
      if isLocal then
        setSlug s a ((las.foldl (fun y la => valSet y la.1 dst size (ofBytes (readBytes t.ls la.2 size))) x).goto a.next)
      else
        let r := readLines s a.platen a.galley (distinctLines las)
        let bad := las.filter (fun la => linePoisoned r.2 la.2)
        match lanesFault (bad.map (fun la => (la.1, laneVa x areg la.1, StickCode.poison))) with
        | some w => slugFault r.1 a w
        | none =>
          setSlug r.1 a
            ((las.foldl (fun y la => valSet y la.1 dst size (ofBytes (lineBytes r.2 la.2 size))) x).goto a.next)))

/-! ## Stores -/

/-- Bytes written to each line: line number, mask, data. -/
def gather (las : List (Nat × Nat)) (size : Nat) (val : Nat → List Byte) : SMap (Nat × List Byte) :=
  las.foldl (fun m la =>
    let k := lineMask (la.2 % 128) size
    let put (c : Nat × List Byte) : Nat × List Byte :=
      (Nat.lor c.1 k, mergeBytes k c.2 (List.replicate (la.2 % 128) 0#8 ++ val la.1 ++ List.replicate 128 0#8))
    mapUpd m (0, List.replicate 128 0#8) (lineOf la.2) put) []

def noBypassOf (s : State) (t : Stick) : Bool :=
  match getPass s t.forme t.passSeq with
  | some q => q.noBypass
  | none => false

def execSortStore (a : SlugAt) (isLocal : Bool) (size src areg : Nat) (ord : Ord) (s : State) : Res :=
  .next (issueMem s a isLocal (max (src + sizeRegs size - 1) (topAddr isLocal areg)) areg size size 1 (memSize size && storeOrd ord)
    (fun s t x las =>
      let val (l : Nat) : List Byte := toBytes size (valGet x l src size)
      let las := rotated s las
      let s := s.drawn
      let s :=
        if isLocal then
          modStick s a.platen a.galley a.stick (fun t =>
            { t with ls := las.foldl (fun m la => writeBytes m la.2 (val la.1)) t.ls })
        else
          (gather las size val).foldl (fun s kv =>
            let s :=
              if kv.2.1 = 2 ^ 128 - 1 then caseWriteWhole s a.platen kv.1 kv.2.2 (noBypassOf s t) t.forme
              else cacheWrite s a.platen kv.1 kv.2.1 kv.2.2 none
            l1Update s a.platen a.galley kv.1 kv.2.1 kv.2.2) s
      modSlug s a (fun x => x.goto a.next)))

/-! ## Atomics (09 R308 to R311) -/

def fmin (sgn : Bool) (w a b : Nat) : Nat :=
  if sgn then (if signed w a ≤ signed w b then a else b) else min a b

def fmax (sgn : Bool) (w a b : Nat) : Nat :=
  if sgn then (if signed w a ≤ signed w b then b else a) else max a b

/-- New value of an atomic of 09 Table 9.10 on `size` bytes. -/
def atomNew (op : AtomOp) (size old x cmp : Nat) : Nat :=
  let w := 8 * size
  match op with
  | .swap => x
  | .cas => if old = cmp then x else old
  | .add => (old + x) % 2 ^ w
  | .and => Nat.land old x
  | .or => Nat.lor old x
  | .xor => Nat.xor old x
  | .minS => fmin true w old x
  | .minU => fmin false w old x
  | .maxS => fmax true w old x
  | .maxU => fmax false w old x
  | .fadd =>
    let f := if size = 4 then ffFP32 else ffFP64
    (roundFloat f .away ((decodeFloat f old).add false (decodeFloat f x))).code

/-- One atomic in a caching agent that holds the line in M; nothing when the sector is poisoned. -/
def cacheAtomic (s : State) (agent pa size : Nat) (op : AtomOp) (x cmp : Nat) (group : Option Nat) (f : Option Nat) :
    State × Option Nat :=
  let r := cacheOwn s agent (lineOf pa) group
  let off := pa % 128
  if r.2.poisonAt off then (r.1, none)
  else
    let old := ofBytes (r.2.slice off size)
    let data := List.replicate off 0#8 ++ toBytes size (atomNew op size old x cmp) ++ List.replicate 128 0#8
    let s := match getLine r.1 agent (lineOf pa) with
      | some l => setLine r.1 agent (lineOf pa) { l with data := mergeBytes (lineMask off size) l.data data }
      | none => r.1
    (countFor s f .atomics 1, some old)

def execSortAtomic (a : SlugAt) (isLocal : Bool) (op : AtomOp) (size dst areg oreg creg : Nat) (ord : Ord) (s : State) :
    Res :=
  let top := max (max dst (max oreg creg) + sizeRegs size - 1) (topAddr isLocal areg)
  .next (issueMem s a isLocal top areg size size 2 (size = 4 || size = 8) (fun s t x las =>
    let s := if isAcquire ord then l1Clear s a.platen a.galley else s
    let las := rotated s las
    let s := s.drawn
    if isLocal then
      let r := las.foldl (fun (m, y) la =>
        let old := ofBytes (readBytes m la.2 size)
        (writeBytes m la.2 (toBytes size (atomNew op size old (valGet x la.1 oreg size) (valGet x la.1 creg size))),
          valSet y la.1 dst size old)) (t.ls, x)
      let s := modStick s a.platen a.galley a.stick (fun t => { t with ls := r.1 })
      setSlug s a (r.2.goto a.next)
    else
      let r := las.foldl (fun (s, y, bad) la =>
        let q := cacheAtomic s a.platen la.2 size op (valGet x la.1 oreg size) (valGet x la.1 creg size) none
          (some t.forme)
        let s := l1Drop q.1 a.platen a.galley (lineOf la.2)
        match q.2 with
        | some old => (s, valSet y la.1 dst size old, bad)
        | none => (s, y, setBit bad la.1)) (s, x, 0)
      if r.2.2 = 0 then setSlug r.1 a (r.2.1.goto a.next)
      else
        let low := (lanesOf r.2.2).headD 0
        slugFault r.1 a { code := .poison, addr := laneVa x areg low, lanes := r.2.2, detail := 0 }))

/-! ## ZLINE and fences (09 R313, R327 to R330) -/

def execZline (a : SlugAt) (areg : Nat) (s : State) : Res :=
  .next (issueMem s a false (topAddr false areg) areg 128 128 1 true (fun s _ _ las =>
    let s := (distinctLines las).foldl (fun s ln =>
      l1Drop (cacheWrite s a.platen ln (2 ^ 128 - 1) (List.replicate 128 0#8) none) a.platen a.galley ln) s
    modSlug s a (fun x => x.goto a.next)))

def execFenceAcq (a : SlugAt) (s : State) : Res :=
  match issuing s a with
  | none => .next s
  | some i =>
    .next (setSlug (l1Clear (countIssue s i.stick.forme) a.platen a.galley) a (i.slug.goto a.next))

/-- Every earlier access has been performed when the next instruction issues. -/
def execFenceRel (a : SlugAt) (s : State) : Res :=
  match issuing s a with
  | none => .next s
  | some i => .next (setSlug (countIssue s i.stick.forme) a (i.slug.goto a.next))

/-- A later load must not return what an earlier one left in the L1 (09 R330, Table 9.14 store buffering). -/
def execFenceAr (a : SlugAt) (s : State) : Res :=
  match issuing s a with
  | none => .next s
  | some i =>
    .next (setSlug (l1Clear (countIssue s i.stick.forme) a.platen a.galley) a (i.slug.goto a.next))

/-! ## Locks (06 R209 to R213) -/

/-- The lock word of a holder (06 Table 6.9). -/
def lockWord (a : SlugAt) (slot lane : Nat) : Nat :=
  packFields [(5, lane), (6, slot), (5, 0), (6, a.galley), (3, a.platen), (6, 0), (1, 1)]

/-- Held by a sort of this slug slot of this galley. -/
def lockSelf (a : SlugAt) (slot w : Nat) : Bool :=
  bits w 24 22 == a.platen && bits w 21 16 == a.galley && bits w 10 5 == slot

inductive LockTry where
  | acquired | self | busy | full | poisoned
deriving DecidableEq, Repr

def LockTry.code : LockTry → Nat
  | .acquired => 0
  | .self => 1
  | _ => 2

/-- Reads the lock word at a local or physical address. -/
def lockRead (s : State) (a : SlugAt) (isLocal : Bool) (addr : Nat) : State × Option Nat :=
  if isLocal then
    (s, (getStick s a.platen a.galley a.stick).map (fun t => ofBytes (readBytes t.ls addr 4)))
  else
    let r := cacheOwn s a.platen (lineOf addr) none
    let s := l1Drop r.1 a.platen a.galley (lineOf addr)
    (s, if r.2.poisonAt (addr % 128) then none else some (ofBytes (r.2.slice (addr % 128) 4)))

def lockWrite (s : State) (a : SlugAt) (isLocal : Bool) (addr w : Nat) : State :=
  if isLocal then
    modStick s a.platen a.galley a.stick (fun t => { t with ls := writeBytes t.ls addr (toBytes 4 w) })
  else
    let off := addr % 128
    let s := cacheWrite s a.platen (lineOf addr) (lineMask off 4)
      (List.replicate off 0#8 ++ toBytes 4 w ++ List.replicate 128 0#8) none
    l1Drop s a.platen a.galley (lineOf addr)

/-- An attempt on a lock word in device memory is an atomic of the Case (06 R211, 09 Table 9.16). -/
def countAttempt (s : State) (a : SlugAt) (isLocal : Bool) : State :=
  if isLocal then s else countFor s ((getStick s a.platen a.galley a.stick).map (·.forme)) .atomics 1

/-- One sort's attempt on the word at an address, `addr` in local store or physical and `va` as the sort names it (06 R210). -/
def lockOne (s : State) (a : SlugAt) (isLocal : Bool) (lane va addr : Nat) : State × LockTry :=
  match getSlug s a with
  | none => (s, .busy)
  | some x =>
    let r := lockRead s a isLocal addr
    match r.2 with
    | none => (r.1, .poisoned)
    | some w =>
      let s := countAttempt r.1 a isLocal
      if bit w 31 = false then
        if x.locks.length ≥ 16 then (s, .full)
        else
          let s := lockWrite s a isLocal addr (lockWord a x.slot lane)
          (modSlug s a (fun x => { x with locks := x.locks ++ [{ isLocal := isLocal, addr := va, lane := lane }] }),
            .acquired)
      else if lockSelf a x.slot w then (s, .self)
      else (s, .busy)

/-- The attempts of several sorts, lowest lane first: `va` is the address a lane names. The outcome of each lane, with that
address. -/
def lockMany (s : State) (a : SlugAt) (isLocal : Bool) (va : Nat → Nat) (las : List (Nat × Nat)) :
    State × List (Nat × Nat × LockTry) :=
  las.foldl (fun (s, out) la =>
    let r := lockOne s a isLocal la.1 (va la.1) la.2
    (r.1, out ++ [(la.1, va la.1, r.2)])) (s, [])

/-- The fault among lock attempts. -/
def lockFault (out : List (Nat × Nat × LockTry)) : Option FaultAt :=
  lanesFault (out.filterMap (fun o =>
    match o.2.2 with
    | .full => some (o.1, o.2.1, StickCode.lockTable)
    | .poisoned => some (o.1, o.2.1, StickCode.poison)
    | _ => none))

def lockStatuses (x : Slug) (dst : Nat) (out : List (Nat × Nat × LockTry)) (busyToo : Bool) : Slug :=
  out.foldl (fun x o =>
    if o.2.2 = .busy ∧ busyToo = false then x else regSet x o.1 dst (BitVec.ofNat 32 o.2.2.code)) x

/-- The part of LOCK.ACQ that an attempt ends: the slug goes on, or waits with the sorts that still wait. -/
def lockWaits (s : State) (a : SlugAt) (isLocal : Bool) (dst next : Nat) (out : List (Nat × Nat × LockTry)) : State :=
  let left := (out.filter (fun o => o.2.2 = .busy)).map (fun o => (o.1, o.2.1))
  if left.isEmpty then
    modSlug (l1Clear s a.platen a.galley) a (fun x => { lockStatuses x dst out false with wait := .none }.goto next)
  else modSlug s a (fun x => { lockStatuses x dst out false with wait := .lock isLocal dst left next false })

def execLockAcq (a : SlugAt) (isLocal : Bool) (dst areg : Nat) (s : State) : Res :=
  .next (issueMem s a isLocal (max dst (topAddr isLocal areg)) areg 4 4 2 true (fun s _ x las =>
    let r := lockMany s a isLocal (fun l => addrGet x isLocal l areg) las
    match lockFault r.2 with
    | some w => slugFault r.1 a w
    | none => lockWaits r.1 a isLocal dst a.next r.2))

def execLockTry (a : SlugAt) (isLocal : Bool) (dst areg : Nat) (s : State) : Res :=
  .next (issueMem s a isLocal (max dst (topAddr isLocal areg)) areg 4 4 2 true (fun s _ x las =>
    let r := lockMany s a isLocal (fun l => addrGet x isLocal l areg) las
    match lockFault r.2 with
    | some w => slugFault r.1 a w
    | none =>
      modSlug (l1Clear r.1 a.platen a.galley) a (fun x => (lockStatuses x dst r.2 true).goto a.next)))

/-- A slug as the rows that follow a timer name it, at its present instruction. -/
def slugAt (s : State) (p g k n : Nat) : SlugAt :=
  let pc := match (getStick s p g k).bind (fun t => t.slugs[n]?) with
    | some x => x.pc
    | none => 0
  { platen := p, galley := g, stick := k, slug := n, pc := pc, next := pc }

/-- A slug of a live stick on a running Platen that waits. -/
def waiting (s : State) (a : SlugAt) : Option (Stick × Slug) :=
  if platenRuns s a.platen then
    match getStick s a.platen a.galley a.stick with
    | some t => if t.dead then none else (t.slugs[a.slug]?).map (fun x => (t, x))
    | none => none
  else none

/-- A retry of LOCK.ACQ by sorts that still wait: one new atomic for each, translated anew (06 R211, 10 R352). One whose
translation is denied faults the stick, and one held waits with the slug. -/
def retryLocks (s : State) (a : SlugAt) (t : Stick) (isLocal : Bool) (dst next : Nat) (lanes : List (Nat × Nat)) : State :=
  let va (l : Nat) : Nat := ((lanes.find? (fun la => la.1 = l)).map (·.2)).getD 0
  let q := if isLocal then (s, { ok := lanes, denied := [], held := false }) else translateLanes (sortAccess t a 2) a lanes s
  match lanesFault q.2.denied with
  | some w => slugFault q.1 a w
  | none =>
    if q.2.held then modSlug q.1 a (fun x => { x with wait := .lock isLocal dst lanes next true })
    else
      let r := lockMany q.1 a isLocal va q.2.ok
      match lockFault r.2 with
      | some w => slugFault r.1 a w
      | none => lockWaits r.1 a isLocal dst next r.2

def execLockRetry (p g k n : Nat) (s : State) : Res :=
  let a := slugAt s p g k n
  match waiting s a with
  | none => .next s
  | some (t, x) =>
    match x.wait with
    | .lock isLocal dst lanes next false => .next (retryLocks (countWaits s p g k) a t isLocal dst next lanes)
    | _ => .next s

def execLockTimeout (p g k n : Nat) (s : State) : Res :=
  let a := slugAt s p g k n
  match waiting s a with
  | none => .next s
  | some (_, x) =>
    match x.wait with
    | .lock _ _ lanes _ _ =>
      .next (slugFault s a { code := .lockTimeout, addr := (lanes.headD (0, 0)).2, lanes := maskOf (lanes.map (·.1)),
                             detail := 0 })
    | _ => .next s

/-- The word is held by a sort: HELD and the four fields of 06 Table 6.9 that name the holder. -/
def lockMine (a : SlugAt) (slot lane w : Nat) : Bool := bit w 31 && lockSelf a slot w && bits w 4 0 == lane

/-- One sort's release, and the fault of one that may not release: the word does not record it as the holder (06 R212), or is
poisoned, of which the spec says nothing but Table 6.11's "A read of a poisoned sector" (DESIGN CHOICE,
notes/assumptions/119.md). -/
def unlockOne (s : State) (a : SlugAt) (isLocal : Bool) (lane va addr : Nat) : State × Option StickCode :=
  match getSlug s a with
  | none => (s, none)
  | some x =>
    let r := lockRead s a isLocal addr
    match r.2 with
    | none => (r.1, some .poison)
    | some w =>
      if lockMine a x.slot lane w then
        let s := lockWrite r.1 a isLocal addr 0
        (modSlug s a (fun x => { x with locks := x.locks.erase { isLocal := isLocal, addr := va, lane := lane } }), none)
      else (r.1, some .lockNotHeld)

def execLockRel (a : SlugAt) (isLocal : Bool) (areg : Nat) (s : State) : Res :=
  .next (issueMem s a isLocal (topAddr isLocal areg) areg 4 4 2 true (fun s _ x las =>
    let r := las.foldl (fun (s, bad) la =>
      let va := addrGet x isLocal la.1 areg
      let q := unlockOne s a isLocal la.1 va la.2
      (q.1, match q.2 with
        | none => bad
        | some c => bad ++ [(la.1, va, c)])) (s, [])
    match lanesFault r.2 with
    | some w => slugFault r.1 a w
    | none => modSlug r.1 a (fun x => x.goto a.next)))

/-! ## Barriers (06 R214 to R218) -/

/-- DETAIL of a barrier fault. -/
def barrierDetail (b c : Nat) : Nat := packFields [(4, b), (12, 0), (11, c)]

/-- The count a lane gives. -/
def meetCount (t : Stick) (x : Slug) (c : MeetCount) (lane : Nat) : Nat :=
  match c with
  | .none => t.header.sorts
  | .imm n => n
  | .reg r => (regGet x lane r).toNat

def meetTop : MeetCount → Nat
  | .reg r => r
  | _ => 0

/-- Lanes whose arrival is bad (06 R216). -/
def meetBad (t : Stick) (x : Slug) (b : Nat) (c : MeetCount) : List (Nat × Nat) :=
  let first := match mapGet t.barriers b with
    | some p => p.count
    | none => meetCount t x c (lowLane x)
  ((lanesOf x.active).map (fun l => (l, meetCount t x c l))).filter (fun lc =>
    b > 15 || lc.2 == 0 || decide (lc.2 > t.header.sorts) || lc.2 != first)

/-- The active sorts arrive, all at once; the slug waits or goes on. -/
def meet (s : State) (a : SlugAt) (b : Nat) (c : MeetCount) (waits : Bool) : State :=
  match issuing s a with
  | none => s
  | some i =>
    let s := countIssue s i.stick.forme
    let t := i.stick
    let x := i.slug
    if meetTop c ≥ t.header.regs then plainFault s a x .badRegister 0
    else
      match meetBad t x b c with
      | (l, n) :: r =>
        slugFault s a { code := .badBarrier, addr := 0, lanes := maskOf (l :: r.map (·.1)), detail := barrierDetail b n }
      | [] =>
        let n := meetCount t x c (lowLane x)
        let k := (lanesOf x.active).length
        let s := modStick s a.platen a.galley a.stick (fun t =>
          { t with barriers := mapUpd t.barriers { count := n, arrivals := 0 } b
                    (fun p => { p with arrivals := p.arrivals + k }) })
        let s := setSlug s a (if waits then { x with wait := .barrier b a.next } else x.goto a.next)
        meetComplete s a

def execMeetWait (a : SlugAt) (b : Nat) (c : MeetCount) (s : State) : Res := .next (meet s a b c true)

def execMeetMark (a : SlugAt) (b : Nat) (c : MeetCount) (s : State) : Res := .next (meet s a b c false)

/-- The slug that waits at a barrier. -/
def waitsAt (b : Nat) (x : Slug) : Bool :=
  match x.wait with
  | .barrier c _ => c == b
  | _ => false

def execBarrierStranded (p g k b : Nat) (s : State) : Res :=
  if platenRuns s p then
    match getStick s p g k with
    | none => .next s
    | some t =>
      match mapGet t.barriers b with
      | none => .next s
      | some ph =>
        if t.slugs.any (waitsAt b) then
          let n := t.slugs.findIdx (waitsAt b)
          let a := slugAt s p g k n
          let lanes := match t.slugs[n]? with
            | some x => x.active
            | none => 0
          .next (slugFault s a { code := .barrierStranded, addr := 0, lanes := lanes, detail := barrierDetail b ph.count })
        else .next s
  else .next s

/-! ## Start of a stick (06 R177, R182 to R188) -/

def StickHeader.slugCount (h : StickHeader) : Nat := ceilDiv h.sorts 32

/-- Registers one stick takes. -/
def StickHeader.regAlloc (h : StickHeader) : Nat := h.slugCount * 32 * (ceilDiv h.regs 8 * 8)

/-- resident_sticks of 06 R186; a fixed split has a step. -/
def residentSticks (h : StickHeader) (step : Option Nat) : Nat :=
  let cap := match step with
    | some k => k * 65536
    | none => 458752
  let n := min 32 (min (64 / h.slugCount) (131072 / h.regAlloc))
  if h.lsAlloc > 0 then min n (cap / h.lsAlloc) else n

def Pass.step (q : Pass) : Option Nat := if q.fixedSplit then some q.lsStep else none

/-- Local-store steps of a galley under a pass (06 R187). -/
def Pass.lsSteps (q : Pass) : Nat :=
  if q.fixedSplit then q.lsStep else ceilDiv (residentSticks q.header none * q.header.lsAlloc) 65536

/-- A galley has room for a whole stick of a pass (06 R176, R177, R186). -/
def hasRoom (x : Galley) (q : Pass) : Bool :=
  let ts := x.sticks.map (·.2)
  decide ((ts.filter (fun t => t.passSeq = q.seq)).length < residentSticks q.header q.step) &&
    decide (x.sticks.length < 32) &&
    decide ((ts.map (fun t => t.header.slugCount)).sum + q.header.slugCount ≤ 64) &&
    decide ((ts.map (fun t => t.header.regAlloc)).sum + q.header.regAlloc ≤ 131072) &&
    decide ((ts.map (fun t => t.header.lsAlloc)).sum + q.header.lsAlloc ≤ 458752)

/-- A pass with a stick pending for a Platen. -/
def Pass.pendingOn (q : Pass) (p : Nat) : Bool :=
  q.phase == .running && q.parts.any (fun x => x.platen == p && decide (x.next < x.stop))

/-- The oldest pass of a forme with a stick pending for a Platen. -/
def pendingPass (s : State) (f p : Nat) : Option Pass :=
  match getForme s f with
  | none => none
  | some x => (x.passes.reverse).find? (fun q => q.pendingOn p)

/-- The galley that takes the next stick while the galleys take one each, round after round, in galley order: the first from
the one whose turn it is that has room; none has once every galley holds its resident count (06 R182). -/
def turnGalley (s : State) (q : Pass) (part : Part) : Option Nat :=
  ((List.range 64).map (fun i => (part.turn + i) % 64)).find? (fun g => hasRoom (getGalley s part.platen g) q)

/-- A galley may take the next stick. -/
def galleyTurn (s : State) (q : Pass) (part : Part) (g : Nat) : Bool := !part.placing || turnGalley s q part == some g

/-- The part after a galley has taken a stick. -/
def Part.taken (s : State) (q : Pass) (part : Part) (g : Nat) : Part :=
  let x := { part with next := part.next + 1, turn := (g + 1) % 64 }
  { x with placing := x.placing && (turnGalley s q x).isSome }

/-- Slugs of a new stick, in the lowest free slug slots. -/
def newSlugs (h : StickHeader) (free : List Nat) : List Slug :=
  (List.range h.slugCount).map (fun k =>
    { slot := free.getD k 0, active := 2 ^ (min 32 (h.sorts - 32 * k)) - 1, exited := 0, pc := 8, stack := [],
      regs := [], preds := [], tickets := 0, wait := .none, rerun := false, locks := [] })

/-- Lowest numbers below `n` not in use. -/
def freeSlots (n : Nat) (used : List Nat) : List Nat := (List.range n).filter (fun i => !used.contains i)

def execStickStart (p g : Nat) (s : State) : Res :=
  if platenRuns s p && decide (g < 64) then
    match formeOfPlaten s p with
    | none => .next s
    | some f =>
      match pendingPass s f p with
      | none => .next s
      | some q =>
        match q.parts.find? (fun x => x.platen = p) with
        | none => .next s
        | some part =>
          let x := getGalley s p g
          if hasRoom x q && galleyTurn s q part g then
            let k := (freeSlots 32 (x.sticks.map (·.1))).headD 0
            let slots := freeSlots 64 (x.sticks.flatMap (fun t => t.2.slugs.map (·.slot)))
            let t : Stick :=
              { forme := f, passSeq := q.seq, index := part.next, attempt := q.attempt, header := q.header,
                slugs := newSlugs q.header slots, ls := [], barriers := [], fault := none, dead := false }
            let first := q.parts.all (fun x => x.next = x.first)
            let s := modGalley s p g (fun x =>
              { x with sticks := mapSet x.sticks k t, lsSteps := q.lsSteps,
                       resident := residentSticks q.header q.step })
            .next (modPass s f q.seq (fun q =>
              { q with
                tStart := if first then s.now else q.tStart
                tStartFirst := if first ∧ q.attempt = 0 then s.now else q.tStartFirst
                parts := q.parts.map (fun x => if x.platen = p then x.taken s q g else x) }))
          else .next s
  else .next s

/-! ## End of a stick (06 R177, R192, R213, R221) -/

/-- Every live sort has exited. -/
def stickDone (t : Stick) : Bool := t.slugs.all (fun x => x.active == 0 && x.stack.isEmpty)

def execStickEnd (p g k : Nat) (s : State) : Res :=
  if platenRuns s p then
    match getStick s p g k with
    | none => .next s
    | some t =>
      let opsLeft := (getGalley s p g).ops.any (fun o => o.stick == k && !o.done)
      if opsLeft || lockStalls s t || !(t.dead || stickDone t) then .next s
      else
        let s := freeStick (discardBanks (releaseLocks s p g k) p g k) p g k
        let s := if t.dead then s else countFor s (some t.forme) .sticksDone 1
        .next (if t.stopped then s else modPass s t.forme t.passSeq (fun q => { q with tEnd := s.now }))
  else .next s

end Sys2Proof.Machine
end

