-- ==== Sys2Proof/Machine/Tiles.lean ====
section
/-! DEFINITION. Tile operations (06 R197 to R207): issue, tickets and waits, TILE_LOAD and TILE_STORE, read-done and done
events, and what the Proof unit is told (05 R137 to R142). -/

namespace Sys2Proof.Machine

open Sys2Proof

/-! ## Operations of a galley -/

def isOp (r : OpRef) (o : TileOp) : Bool := o.stick == r.stick && o.slug == r.slug && o.ticket == r.ticket

def getOp (s : State) (r : OpRef) : Option TileOp := (getGalley s r.platen r.galley).ops.find? (isOp r)

def modOp (s : State) (r : OpRef) (f : TileOp → TileOp) : State :=
  modGalley s r.platen r.galley (fun x => { x with ops := x.ops.map (fun o => if isOp r o then f o else o) })

def removeOp (s : State) (r : OpRef) : State :=
  modGalley s r.platen r.galley (fun x => { x with ops := x.ops.filter (fun o => !isOp r o) })

/-- The unit an operation goes to: 0 to 3 a Press, 4 the loads and stores, 5 the Brayer. The spec names no unit of the loads and
stores; that one takes both, and so starts them in issue order, is this model's (DESIGN CHOICE, notes/assumptions/119.md). -/
def opUnit (block : Nat) : Nat :=
  if tbOpc block = 1 ∨ tbOpc block = 2 then 4
  else if tbOpc block = 7 then 5
  else tbUnit block

/-- Operations that came before one, in the order of their issue. -/
def opsBefore (s : State) (r : OpRef) : List TileOp :=
  (getGalley s r.platen r.galley).ops.takeWhile (fun o => !isOp r o)

/-- An operation that is there, of an opcode, with its effect still to be made. -/
structure OpNow where
  op : TileOp
  stick : Stick
deriving DecidableEq, Repr

def opNow (s : State) (r : OpRef) (opc : Nat) : Option OpNow :=
  if platenRuns s r.platen then
    match getOp s r, getStick s r.platen r.galley r.stick with
    | some o, some t =>
      if tbOpc o.block == opc && !o.performed && !o.held then some { op := o, stick := t } else none
    | _, _ => none
  else none

/-- Clears the Press stages an operation holds. -/
def clearStages (s : State) (r : OpRef) : State :=
  let me := some (r.stick, r.slug, r.ticket)
  modGalley s r.platen r.galley (fun x => { x with presses := x.presses.map (fun kv =>
    (kv.1, { kv.2 with multiply := if kv.2.multiply = me then none else kv.2.multiply
                       output := if kv.2.output = me then none else kv.2.output })) })

/-- The stick of an operation faults, and the operation ends without effect. -/
def opFault (s : State) (r : OpRef) (o : TileOp) (c : StickCode) (addr detail : Nat) : State :=
  let s := removeOp (clearStages s r) r
  stickFault s r.platen r.galley r.stick r.slug o.pc { code := c, addr := addr, lanes := o.lanes, detail := detail }

/-- The operation's effect has been made. -/
def opPerformed (s : State) (r : OpRef) : State :=
  modOp (clearStages s r) r (fun o => { o with started := true, performed := true })

/-- The effect has been made of an operation whose read-done and done events occur together. -/
def opTogether (s : State) (r : OpRef) : State := modOp (opPerformed s r) r (fun o => { o with together := true })

/-- Bytes of the stick's local store. -/
def lsByte (t : Stick) (a : Nat) : Byte := byteAt t.ls a

def lsNat (t : Stick) (a n : Nat) : Nat := ofBytes (readBytes t.ls a n)

def lsWrite (s : State) (r : OpRef) (a : Nat) (d : List Byte) : State :=
  modStick s r.platen r.galley r.stick (fun t => { t with ls := writeBytes t.ls a d })

/-! ## TILE and TWAIT (06 R201, R203, R204) -/

/-- Operations of a slug not yet done. -/
def slugOps (s : State) (a : SlugAt) : List TileOp :=
  (getGalley s a.platen a.galley).ops.filter (fun o => o.stick = a.stick ∧ o.slug = a.slug)

/-- A BRAYER block's other fields are not read (07 R225). -/
def blockReservedBad (b : Nat) : Bool := tbOpc b != 7 && tbReserved b != 0

/-- TILE. Of a block with both an undefined OPC and a nonzero reserved field, of which the spec does not say which fault is
recorded, ILLEGAL_OP is (DESIGN CHOICE, notes/assumptions/119.md). -/
def execTile (a : SlugAt) (areg dst : Nat) (s : State) : Res :=
  match issuing s a with
  | none => .next s
  | some i =>
    if (slugOps s a).length ≥ 16 then .next s
    else
      let s := countIssue s i.stick.forme
      let x := i.slug
      let addr := (regGet x (lowLane x) areg).toNat
      let fault (c : StickCode) : Res := .next (slugFault s a { code := c, addr := addr, lanes := x.active, detail := 0 })
      if max areg dst ≥ i.stick.header.regs then .next (plainFault s a x .badRegister 0)
      else if addr % 32 ≠ 0 then fault .misaligned
      else if !lsInside i.stick addr 32 then fault .lsRange
      else
        let b := lsNat i.stick addr 32
        if tbOpc b = 0 ∨ tbOpc b > 7 then fault .illegalOp
        else if blockReservedBad b then fault .badFormat
        else
          let o : TileOp :=
            { stick := a.stick, slug := a.slug, ticket := x.tickets, block := b, pc := a.pc, lanes := x.active,
              started := false, performed := false, readDone := false, done := false, held := false, together := false }
          let s := modGalley s a.platen a.galley (fun g => { g with ops := g.ops ++ [o] })
          let x := regSetAll x dst (fun _ => BitVec.ofNat 32 x.tickets)
          .next (setSlug s a ({ x with tickets := x.tickets + 1 }.goto a.next))

/-- A wait for an event of the ticket in a register of the lowest active lane. -/
def twait (s : State) (a : SlugAt) (treg : Nat) (ended : TileOp → Bool) (wait : Nat → SlugWait) : State :=
  match issuing s a with
  | none => s
  | some i =>
    let s := countIssue s i.stick.forme
    let x := i.slug
    let t := (regGet x (lowLane x) treg).toNat
    if treg ≥ i.stick.header.regs then plainFault s a x .badRegister 0
    else if t ≥ x.tickets then plainFault s a x .ticket 0
    else
      let allEnded := ((slugOps s a).filter (fun o => o.ticket = t)).all ended
      setSlug s a (if allEnded then x.goto a.next else { x.goto a.next with wait := wait t })

def execTwaitRd (a : SlugAt) (treg : Nat) (s : State) : Res :=
  .next (twait s a treg (fun o => o.readDone) .readDone)

def execTwaitDone (a : SlugAt) (treg : Nat) (s : State) : Res :=
  .next (twait s a treg (fun o => o.done) .done)

/-- The slug of an operation goes on if it waits for the event. -/
def wakeSlug (s : State) (r : OpRef) (w : SlugWait) : State :=
  let s := countWaits s r.platen r.galley r.stick
  modStick s r.platen r.galley r.stick (fun t =>
    { t with slugs := t.slugs.modify r.slug (fun x => if x.wait = w then { x with wait := .none } else x) })

/-- The read-done event of an operation. -/
def opRead (s : State) (r : OpRef) : State :=
  modOp (wakeSlug s r (.readDone r.ticket)) r (fun o => { o with readDone := true })

/-- The done event; an operation that is done leaves the slug's sixteen (06 R204). -/
def opDone (s : State) (r : OpRef) : State := removeOp (wakeSlug s r (.done r.ticket)) r

/-- Both events of an operation whose two events occur together. -/
def opBoth (s : State) (r : OpRef) : State := opDone (opRead s r) r

def execTileReadDone (r : OpRef) (s : State) : Res :=
  match getOp s r with
  | none => .next s
  | some o =>
    if o.performed ∧ platenRuns s r.platen then .next (if o.together then opBoth s r else opRead s r) else .next s

def execTileDone (r : OpRef) (s : State) : Res :=
  match getOp s r with
  | none => .next s
  | some o =>
    if o.performed ∧ platenRuns s r.platen ∧ o.together then .next (opBoth s r)
    else if o.performed ∧ o.readDone ∧ platenRuns s r.platen then .next (opDone s r)
    else .next s

/-! ## Bindings and the Proof unit (05 R137, R206) -/

def layerOf (s : State) (t : Stick) : Option Layer :=
  match getForme s t.forme, getPass s t.forme t.passSeq with
  | some f, some q => f.plate.bind (fun p => p.layers.find? (fun l => l.num = q.layer))
  | _, _ => none

/-- The binding's current entry for a tag the layer declares. -/
def outNow (s : State) (t : Stick) (tag : Nat) : Option OutNow :=
  (getPass s t.forme t.passSeq).bind (fun q => q.outs[tag]?)

/-- A tag that faults the stick (05 R137, 06 R206). -/
def tagBad (s : State) (t : Stick) (tag : Nat) (bind : Bool) : Bool :=
  (tag == 31 && bind) || (decide (16 ≤ tag) && tag != 31) || (decide (tag < 16) && (outNow s t tag).isNone)

def nd5Of (s : State) (t : Stick) : Bool :=
  match getPass s t.forme t.passSeq with
  | some q => q.nd5
  | none => false

/-- Histogram top of a tag: the binding's of this attempt; the scratch record's is not stated. -/
def tagTop (s : State) (t : Stick) (tag : Nat) : Int :=
  match outNow s t tag with
  | some o => o.histTop
  | none => Config.scratchTop t.passSeq

/-- The Proof unit counts elements under a tag (05 R139, R142). -/
def proofCount (s : State) (r : OpRef) (t : Stick) (tag : Nat) (xs : List Seen) : State :=
  let top := tagTop s t tag
  modGalley s r.platen r.galley (fun x =>
    { x with proof := mapUpd x.proof statsZero (t.passSeq * 32 + tag) (fun st => xs.foldl (Stats.count top) st) })

/-! ## Boxes of a tensor (06 R198, R202) -/

/-- A run of bytes: address in the tensor, length, and place in the tile. -/
structure Run where
  addr : Nat
  len : Nat
  dst : Nat
deriving DecidableEq, Repr

/-- The runs of a box: 32 elements of one row at a time, with their scale bytes; only elements inside the extents. -/
def boxRuns (d : TensorDesc) (o0 o1 o2 rows cols : Nat) : List Run :=
  let w := typeBits d.type
  let elems := elemBytes d.type (rows * cols)
  (List.range (cols / 32)).flatMap (fun b =>
    (List.range rows).flatMap (fun r =>
      let i0 := o0 + 32 * b
      let i1 := o1 + r
      if i1 < d.ext1 ∧ o2 < d.ext2 ∧ i0 < d.ext0 then
        let n := min 32 (d.ext0 - i0)
        let place := (b * rows + r) * 4 * w
        let run : Run := { addr := d.base + d.rowOff i1 o2 + i0 * w / 8, len := n * w / 8, dst := place }
        if typeIsScaled d.type then
          [run, { addr := d.scaleAddr i1 o2 (i0 / 32), len := 1, dst := elems + b * rows + r }]
        else [run]
      else []))

/-- The tile before any run is copied: zeros, and scale bytes 0x7F. -/
def emptyTile (t rows cols : Nat) : List Byte :=
  List.replicate (elemBytes t (rows * cols)) 0#8 ++
    (if typeIsScaled t then List.replicate (rows * cols / 32) 0x7F#8 else [])

/-- The rules on the shape of a box (06 R202). -/
def boxBad (t rows cols o0 : Nat) : Bool :=
  rows == 0 || decide (rows > 64) || cols % 32 != 0 || decide (cols < 32) || decide (cols > 4096) ||
    o0 % typeGroup t != 0

/-- The distinct lines that runs touch, with the address of the first byte in each. -/
def runLines (rs : List Run) : List (Nat × Nat) :=
  rs.foldl (fun m x => (lineSpans x.addr x.len).foldl (fun m p =>
    if m.any (fun q => q.1 = lineOf p.1) then m else m ++ [(lineOf p.1, p.1)]) m) []

/-- Translations of lines: virtual line to physical line, the first denied address, whether one is held. -/
structure LinesAt where
  ok : SMap Nat
  denied : Option Nat
  held : Bool
deriving DecidableEq, Repr

def translateLines (acc : Access) (w : Waiter) (lns : List (Nat × Nat)) (s : State) : State × LinesAt :=
  lns.foldl (fun (s, r) l =>
    if r.denied.isSome then (s, r)
    else
      let q := translate s acc l.2
      match q.2 with
      | .ok pa => (q.1, { r with ok := mapSet r.ok l.1 (lineOf pa) })
      | .fault reason e =>
        let f := raiseFault q.1 acc l.2 reason e w
        if f.2 then (f.1, { r with held := true }) else (f.1, { r with denied := some l.2 }))
    (s, { ok := [], denied := none, held := false })

/-- The descriptor a load or store names, with the replacements of a store that sets BIND (06 R206). -/
def storeDesc (s : State) (t : Stick) (block : Nat) (d : TensorDesc) : TensorDesc :=
  if tbOpc block = 2 ∧ tbBind block then
    match outNow s t (tbTag block), (layerOf s t).bind (fun l => l.outs[tbTag block]?) with
    | some o, some b => { d with type := o.type, base := if o.policy.proofed then b.stgVa else b.visVa }
    | _, _ => d
  else d

/-- What the checks of a load or store find: a fault, or the descriptor. -/
def boxCheck (s : State) (t : Stick) (block : Nat) : Except (StickCode × Nat) TensorDesc :=
  let store := tbOpc block = 2
  let bind := decide store && tbBind block
  if bind && (tbTag block > 15 || tagBad s t (tbTag block) true) then .error (.badFormat, 0)
  else if !lsInside t (tbOpb block) 32 then .error (.lsRange, tbOpb block)
  else
    let d := storeDesc s t block (TensorDesc.ofNat (lsNat t (tbOpb block) 32))
    if d.bad || (!bind && tbType block != d.type) || boxBad d.type (tbRows block) (tbCols block) (tbOrig0 block) then
      .error (.badFormat, tbOpb block)
    else if !lsInside t (tbDst block) (tileBytes d.type (tbRows block) (tbCols block)) then
      .error (.lsRange, tbDst block)
    else
      let rs := boxRuns d (tbOrig0 block) (tbOrig1 block) (tbOrig2 block) (tbRows block) (tbCols block)
      match if d.isLocal then rs.find? (fun x => !lsInside t x.addr x.len) else none with
      | some x => .error (.lsRange, x.addr)
      | none => .ok d

/-- An operation may start: those of its slug on its unit that came earlier have started (06 R205). -/
def startsNext (s : State) (r : OpRef) (o : TileOp) : Bool :=
  (opsBefore s r).all (fun x => x.started || x.slug != r.slug || x.stick != r.stick || opUnit x.block != opUnit o.block)

def opAccess (t : Stick) (r : OpRef) (kind : Nat) : Access := stickAccess t r.platen r.galley kind

/-- An accepted operation waits in a fault record. -/
def holdOp (s : State) (r : OpRef) : State := modOp s r (fun o => { o with held := true, started := true })

/-! ## TILE_LOAD -/

/-- Replaces bytes of a list from a place on. -/
def patch (l : List Byte) (at_ : Nat) (d : List Byte) : List Byte := l.take at_ ++ d ++ l.drop (at_ + d.length)

def readCaseLines (s : State) (p : Nat) (ok : SMap Nat) : State × SMap LineData :=
  ok.foldl (fun (s, m) kv => let r := cacheRead s p kv.2 none false; (r.1, mapSet m kv.1 r.2)) (s, [])

/-- Bytes of a run from the lines read; none where a sector it touches is poisoned. -/
def runBytes (m : SMap LineData) (x : Run) : Option (List Byte) :=
  (lineSpans x.addr x.len).foldl (fun acc p =>
    match acc, mapGet m (lineOf p.1) with
    | some l, some d =>
      let off := p.1 % 128
      if d.poisonAt off || d.poisonAt (off + p.2 - 1) then none else some (l ++ d.slice off p.2)
    | _, _ => none) (some [])

def loadFrom (s : State) (r : OpRef) (o : TileOp) (t : Stick) (d : TensorDesc) : State :=
  let b := o.block
  let rs := boxRuns d (tbOrig0 b) (tbOrig1 b) (tbOrig2 b) (tbRows b) (tbCols b)
  let tile := emptyTile d.type (tbRows b) (tbCols b)
  if d.isLocal then
    let out := rs.foldl (fun tile x => patch tile x.dst (readBytes t.ls x.addr x.len)) tile
    opPerformed (lsWrite s r (tbDst b) out) r
  else
    let q := translateLines (opAccess t r 0) (.tileOp r) (runLines rs) s
    match q.2.denied with
    | some va => opFault q.1 r o .translation va 0
    | none =>
      if q.2.held then holdOp q.1 r
      else
        let m := readCaseLines q.1 r.platen q.2.ok
        match rs.find? (fun x => (runBytes m.2 x).isNone) with
        | some x => opFault m.1 r o .poison x.addr 0
        | none =>
          let out := rs.foldl (fun tile x => patch tile x.dst ((runBytes m.2 x).getD [])) tile
          opPerformed (lsWrite m.1 r (tbDst b) out) r

def execTileLoad (r : OpRef) (s : State) : Res :=
  match opNow s r 1 with
  | none => .next s
  | some n =>
    if startsNext s r n.op then
      match boxCheck s n.stick n.op.block with
      | .error e => .next (opFault s r n.op e.1 e.2 0)
      | .ok d => .next (loadFrom s r n.op n.stick d)
    else .next s

/-! ## TILE_STORE -/

/-- Bytes to write by virtual line: mask and data. -/
def runWrites (t : Stick) (src : Nat) (rs : List Run) : SMap (Nat × List Byte) :=
  rs.foldl (fun m x => ((lineSpans x.addr x.len).foldl (fun (m, k) p =>
    let off := p.1 % 128
    let d := readBytes t.ls (src + x.dst + k) p.2
    (mapUpd m (0, List.replicate 128 0#8) (lineOf p.1) (fun c => (Nat.lor c.1 (lineMask off p.2), patch c.2 off d)),
      k + p.2)) (m, 0)).1) []

def storeTo (s : State) (r : OpRef) (o : TileOp) (t : Stick) (d : TensorDesc) : State :=
  let b := o.block
  let rs := boxRuns d (tbOrig0 b) (tbOrig1 b) (tbOrig2 b) (tbRows b) (tbCols b)
  if d.isLocal then
    opPerformed (rs.foldl (fun s x => lsWrite s r x.addr (readBytes t.ls (tbDst b + x.dst) x.len)) s) r
  else
    let q := translateLines (opAccess t r 1) (.tileOp r) (runLines rs) s
    match q.2.denied with
    | some va => opFault q.1 r o .translation va 0
    | none =>
      if q.2.held then holdOp q.1 r
      else
        let s := (runWrites t (tbDst b) rs).foldl (fun s kv =>
          match mapGet q.2.ok kv.1 with
          | none => s
          | some ln =>
            if kv.2.1 = 2 ^ 128 - 1 then caseWriteWhole s r.platen ln kv.2.2 (noBypassOf s t) t.forme
            else cacheWrite s r.platen ln kv.2.1 kv.2.2 none) q.1
        opPerformed s r

def execTileStore (r : OpRef) (s : State) : Res :=
  match opNow s r 2 with
  | none => .next s
  | some n =>
    if startsNext s r n.op then
      match boxCheck s n.stick n.op.block with
      | .error e => .next (opFault s r n.op e.1 e.2 0)
      | .ok d => .next (storeTo s r n.op n.stick d)
    else .next s

end Sys2Proof.Machine
end

