-- ==== Sys2Proof/Machine/PressOps.lean ====
section
/-! DEFINITION. The Press operations (03, 04): the order in which they enter the stages, TILE_OPEN, TILE_MMA, TILE_MMA_S
and TILE_OUT. -/

namespace Sys2Proof.Machine

open Sys2Proof

/-! ## Stages (03 R112, R113, R625, 06 R205) -/

def Press.empty : Press := { banks := [], multiply := none, output := none }

def getPress (s : State) (r : OpRef) (unit : Nat) : Press := mapGetD (getGalley s r.platen r.galley).presses Press.empty unit

def modPress (s : State) (r : OpRef) (unit : Nat) (f : Press → Press) : State :=
  modGalley s r.platen r.galley (fun x => { x with presses := mapUpd x.presses Press.empty unit f })

/-- TILE_MMA and TILE_MMA_S run in the multiply stage, TILE_OPEN and TILE_OUT in the output stage. -/
def isMultiply (block : Nat) : Bool := tbOpc block == 4 || tbOpc block == 5

def isPressOp (block : Nat) : Bool := decide (3 ≤ tbOpc block) && decide (tbOpc block ≤ 6)

/-- An operation may enter its stage: every earlier one of the Press has entered one, and the earlier ones on its bank
have done there what it must wait for. -/
def mayEnter (s : State) (r : OpRef) (o : TileOp) : Bool :=
  let before := (opsBefore s r).filter (fun x => isPressOp x.block && tbUnit x.block == tbUnit o.block)
  let p := getPress s r (tbUnit o.block)
  before.all (fun x => x.started) &&
    (before.filter (fun x => tbBank x.block = tbBank o.block)).all (fun x => if tbOpc x.block = 3 then x.done else x.performed) &&
    (if isMultiply o.block then p.multiply.isNone else p.output.isNone)

def execPressStageStart (r : OpRef) (s : State) : Res :=
  if platenRuns s r.platen then
    match getOp s r with
    | none => .next s
    | some o =>
      if isPressOp o.block && !o.started && mayEnter s r o then
        let me := some (r.stick, r.slug, r.ticket)
        let s := modPress s r (tbUnit o.block) (fun p =>
          if isMultiply o.block then { p with multiply := me } else { p with output := me })
        .next (modOp s r (fun o => { o with started := true }))
      else .next s
  else .next s

/-- A Press operation that has entered its stage and whose effect is still to be made. -/
def pressNow (s : State) (r : OpRef) (opc : Nat) : Option OpNow :=
  match opNow s r opc with
  | some n => if n.op.started then some n else none
  | none => none

/-! ## Banks (03 R87 to R92, R127) -/

/-- DETAIL of a bank fault. -/
def bankDetail (block : Nat) : Nat := tbUnit block + 4 * tbBank block

/-- Positions a bank takes. -/
def bankSpan (win : Nat) : Nat := if win ≥ 2 then 2 else 1

def positionUsed (p : Press) (pos : Nat) : Bool :=
  p.banks.any (fun kv => decide (kv.1 ≤ pos) && decide (pos < kv.1 + bankSpan kv.2.win))

/-- The bank an operation names, when it is open and the slug owns it. -/
def ownBank (s : State) (r : OpRef) (block : Nat) : Option Bank :=
  match mapGet (getPress s r (tbUnit block)).banks (tbBank block) with
  | some b => if b.stick == r.stick && b.slug == r.slug then some b else none
  | none => none

def setBank (s : State) (r : OpRef) (block : Nat) (b : Bank) : State :=
  modPress s r (tbUnit block) (fun p => { p with banks := mapSet p.banks (tbBank block) b })

def bankWindow (b : Bank) (i : Nat) : Window := mapGetD b.windows (Window.opened b.win) i

/-- Changes every window of a bank: row i of 64, column j of 32. -/
def mapBank (b : Bank) (f : Nat → Nat → Window → Window) : Bank :=
  { b with windows := (List.range 2048).map (fun n => (n, f (n / 32) (n % 32) (bankWindow b n))) }

/-- Most terms a window takes (03 R91). -/
def maxTerms : Nat := 1048576

/-! ## The order of faults

Where an operation breaks several rules at once the spec names no order: which of them TILE_OPEN, TILE_MMA, TILE_MMA_S and
TILE_OUT record, one after the other as they stand below, is this model's (DESIGN CHOICE, notes/assumptions/119.md). -/

/-! ## TILE_OPEN (03 R87 to R89, R106) -/

def seedBad (block : Nat) : Bool :=
  tbSeed block && (!typeValid (tbType block) || (tbWin block == 0 && !typeIsInt (tbType block)))

def openBank (s : State) (r : OpRef) (t : Stick) (block : Nat) : Bank :=
  let b : Bank := { stick := r.stick, slug := r.slug, win := tbWin block, terms := 0, windows := [] }
  match tbSeed block, typeKind (tbType block) with
  | true, some k =>
    let v (i j : Nat) : Num := tileVal (nd5Of s t) (lsByte t) (tbOpa block) (tbType block) k 0 64 32 i j
    { mapBank b (fun i j w => w.seed (tbWin block) (v i j)) with terms := 1 }
  | _, _ => b

/-- TILE_OPEN. An invalid or misplaced seed is found before a bank misuse. Without a seed its two events occur together
(03 R625). -/
def execTileOpen (r : OpRef) (s : State) : Res :=
  match pressNow s r 3 with
  | none => .next s
  | some n =>
    let b := n.op.block
    let span := bankSpan (tbWin b)
    let p := getPress s r (tbUnit b)
    let used := (List.range span).any (fun i => positionUsed p (tbBank b + i))
    if tbSeed b && !typeValid (tbType b) then .next (opFault s r n.op .badFormat 0 0)
    else if tbSeed b && !lsInside n.stick (tbOpa b) (tileBytes (tbType b) 64 32) then
      .next (opFault s r n.op .lsRange (tbOpa b) 0)
    else if (span == 2 && tbBank b % 2 == 1) || used then .next (opFault s r n.op .accBank 0 (bankDetail b))
    else if seedBad b then .next (opFault s r n.op .badFormat 0 0)
    else if tbSeed b then .next (opPerformed (setBank s r b (openBank s r n.stick b)) r)
    else .next (opTogether (setBank s r b (openBank s r n.stick b)) r)

/-! ## TILE_MMA (03 R81 to R86, R90 to R101) -/

/-- Registers of an operand of `n` bytes held in registers: 128 bytes in each, over the lanes of the slug. -/
def regBytes (n : Nat) : Nat := ceilDiv n 128

/-- Byte i of an operand in the registers from `first`. The layout over lanes and registers is open. -/
def regTile (x : Slug) (first n i : Nat) : Byte :=
  let k := Config.regTileByte i % (regBytes n * 128)
  let w := (regGet x (k / 4 % 32) (first + k / 128)).toNat
  BitVec.ofNat 8 (w / 2 ^ (8 * (k % 4)))

/-- How the bytes of an operand of n bytes are read. -/
def operandBytes (t : Stick) (slug : Nat) (inRegs : Bool) (opnd n : Nat) : Nat → Byte :=
  match inRegs, t.slugs[slug]? with
  | true, some x => fun i => regTile x (opnd % 256) n i
  | _, _ => fun i => lsByte t (opnd + i)

/-- An operand's place: in registers it must not run past REGS, in local store not past the allocation. -/
def operandFault (t : Stick) (inRegs : Bool) (opnd n : Nat) : Option (StickCode × Nat) :=
  if inRegs then (if opnd % 256 + regBytes n > t.header.regs then some (.badRegister, 0) else none)
  else if lsInside t opnd n then none
  else some (.lsRange, opnd)

/-- Type byte of B: the byte of local store at OPB − 1 (06 Table 6.7). With B_REG set, where OPB names a register and
the spec no other place, the byte is read there all the same (DESIGN CHOICE, notes/assumptions/119.md). -/
def typeOfB (t : Stick) (block : Nat) : Nat := (lsByte t (tbOpb block - 1)).toNat

/-- Elements of row `r` of an operand tile of `rows` × K. -/
def operandRow (rd : Nat → Byte) (ty : Nat) (u : Int) (rows k r : Nat) : List Operand :=
  match typeKind ty with
  | some kd => (List.range k).map (fun c => tileOperand rd 0 ty kd u rows k r c)
  | none => []

/-- Why a TILE_MMA faults, before it changes any window: code, address, detail. The first fault found is recorded. -/
def mmaFault (s : State) (r : OpRef) (t : Stick) (block : Nat) : Option (StickCode × Nat × Nat) :=
  let k := tbK block
  let ta := tbType block
  let tb := typeOfB t block
  if k % 32 ≠ 0 ∨ k < 32 ∨ k > 4096 then some (.badFormat, 0, 0)
  else if tbOpb block = 0 ∨ lsInside t (tbOpb block - 1) 1 = false then some (.lsRange, tbOpb block - 1, 0)
  else if typeValid ta = false ∨ typeValid tb = false then some (.badFormat, 0, 0)
  else
    match operandFault t (tbAReg block) (tbOpa block) (tileBytes ta 64 k),
          operandFault t (tbBReg block) (tbOpb block) (tileBytes tb 32 k) with
    | some f, _ => some (f.1, f.2, 0)
    | none, some f => some (f.1, f.2, 0)
    | none, none =>
      match pairWindow ta tb with
      | none => some (.badFormat, 0, 0)
      | some pw =>
        if pw.1 = 0 ∧ (tbUA block ≠ 0 ∨ tbUB block ≠ 0) then some (.badFormat, 0, 0)
        else
          match ownBank s r block with
          | none => some (.accBank, 0, bankDetail block)
          | some b =>
            if b.win ≠ pw.1 then some (.badFormat, 0, 0)
            else if b.terms + k > maxTerms then some (.accOverrun, 0, bankDetail block)
            else none

/-- A list in an order that a number names: every order has one. -/
def inOrder : Nat → Nat → List (Operand × Operand) → List (Operand × Operand)
  | 0, _, l => l
  | k + 1, n, l =>
    let i := n % l.length
    match l[i]? with
    | some x => x :: inOrder k (n / l.length) (l.eraseIdx i)
    | none => l

/-- The products of a row and a column as they arrive: block after block of 32, within a block of BF16 or FP16 operands, whose
products differ in their top exponent, in an order that the spec leaves open, from draw `d` (03 R95). -/
def arrivals (win : Nat) : Nat → Nat → List (Operand × Operand) → List (Operand × Operand)
  | 0, _, l => l
  | k + 1, d, l =>
    if win = 2 then inOrder 32 (Config.freeNat d) (l.take 32) ++ arrivals win k (d + 1) (l.drop 32) else l

/-- Draws that one TILE_MMA can use: one for each of 128 blocks of each of 2,048 windows. -/
def mmaDraws : Nat := 262144

/-- The bank after the products of a TILE_MMA, with draws from `d` on. -/
def mmaBank (t : Stick) (slug block : Nat) (b : Bank) (d : Nat) : Bank :=
  let k := tbK block
  let ta := tbType block
  let tb := typeOfB t block
  let ra := operandBytes t slug (tbAReg block) (tbOpa block) (tileBytes ta 64 k)
  let rb := operandBytes t slug (tbBReg block) (tbOpb block) (tileBytes tb 32 k)
  let as := (List.range 64).map (operandRow ra ta (tbUA block) 64 k)
  let bs := (List.range 32).map (operandRow rb tb (tbUB block) 32 k)
  let sum (i j : Nat) (w : Window) : Window :=
    w.mma b.win (arrivals b.win 128 (d + 128 * (32 * i + j)) ((as.getD i []).zip (bs.getD j [])))
  { mapBank b sum with terms := b.terms + k }

def execTileMma (r : OpRef) (s : State) : Res :=
  match pressNow s r 4 with
  | none => .next s
  | some n =>
    match mmaFault s r n.stick n.op.block, ownBank s r n.op.block with
    | some f, _ => .next (opFault s r n.op f.1 f.2.1 f.2.2)
    | none, none => .next (opFault s r n.op .accBank 0 (bankDetail n.op.block))
    | none, some b =>
      let rate := match pairWindow (tbType n.op.block) (typeOfB n.stick n.op.block) with
        | some pw => pw.2
        | none => 1
      let s := countFor s (some n.stick.forme) .pressBusy (tbK n.op.block / rate)
      let bank := mmaBank n.stick r.slug n.op.block b s.free
      let s := if b.win = 2 then { s with free := s.free + mmaDraws } else s
      .next (opPerformed (setBank s r n.op.block bank) r)

/-! ## TILE_MMA_S (04 R118, R123 to R131) -/

/-- Sliced-operand descriptor (04 Table 4.2). -/
structure SliceDesc where
  f32 : Bool
  s : Nat
  expBase : Nat
  classBase : Nat
  stride : Nat
  planeBase : Nat
  reserved : Nat
deriving DecidableEq, Repr

def SliceDesc.ofNat (d : Nat) : SliceDesc :=
  { f32 := bit d 80, s := bits d 79 76, expBase := bits d 75 57, classBase := bits d 56 38, stride := bits d 37 19,
    planeBase := bits d 18 0, reserved := bits d 127 81 }

/-- Slice counts a mode allows (04 R118). -/
def sliceCountOk (f32 : Bool) (s : Nat) : Bool := decide (3 ≤ s) && decide (s ≤ if f32 then 4 else 9)

/-- A descriptor's own faults: reserved bits, slice count, alignments. -/
def SliceDesc.bad (d : SliceDesc) : Bool :=
  d.reserved != 0 || !sliceCountOk d.f32 d.s || d.expBase % 2 != 0 || d.classBase % 16 != 0 || d.stride % 64 != 0 ||
    d.planeBase % 64 != 0

/-- Regions of a sliced operand of `rows` × K: slice planes, class plane, exponent vector (start, length). -/
def SliceDesc.regions (d : SliceDesc) (rows k : Nat) : List (Nat × Nat) :=
  (List.range d.s).map (fun i => (d.planeBase + i * d.stride, rows * k)) ++
    [(d.classBase, rows * k / 4), (d.expBase, 2 * rows)]

def SliceDesc.outside (d : SliceDesc) (t : Stick) (rows k : Nat) : Bool :=
  (d.regions rows k).any (fun x => !lsInside t x.1 x.2)

/-- Element (r, c) of a sliced operand. -/
def slicedElem (t : Stick) (d : SliceDesc) (rows r c : Nat) : Sliced :=
  let pos := tilePos rows r c
  let byte (i : Nat) : Nat := (lsByte t (d.planeBase + i * d.stride + pos)).toNat
  { cls := (lsByte t (d.classBase + pos / 4)).toNat / 4 ^ (pos % 4) % 4
    slices := (List.range d.s).map (fun i => if i = 0 then signed 8 (byte 0) else (byte i : Int)) }

/-- Alignment exponent of a row. -/
def slicedExp (t : Stick) (d : SliceDesc) (r : Nat) : Int := signed 16 (lsNat t (d.expBase + 2 * r) 2)

/-- Terms a TILE_MMA_S adds to every window (04 R128). -/
def slicedTerms (d : SliceDesc) (k : Nat) : Nat := d.s * (d.s + 1) / 2 * k

/-- Why a TILE_MMA_S faults: MISALIGNED, LS_RANGE, K, the two descriptors, the bank, its window, its count, in this order. -/
def mmaSFault (s : State) (r : OpRef) (t : Stick) (block : Nat) : Option (StickCode × Nat × Nat) :=
  let k := tbK block
  if tbOpa block % 16 ≠ 0 then some (.misaligned, tbOpa block, 0)
  else if tbOpb block % 16 ≠ 0 then some (.misaligned, tbOpb block, 0)
  else if lsInside t (tbOpa block) 16 = false then some (.lsRange, tbOpa block, 0)
  else if lsInside t (tbOpb block) 16 = false then some (.lsRange, tbOpb block, 0)
  else
    let a := SliceDesc.ofNat (lsNat t (tbOpa block) 16)
    let b := SliceDesc.ofNat (lsNat t (tbOpb block) 16)
    if k % 32 ≠ 0 ∨ k < 32 ∨ k > 4096 then some (.badFormat, 0, 0)
    else if a.bad || a.outside t 64 k then some (.badFormat, tbOpa block, 0)
    else if b.bad || b.outside t 32 k then some (.badFormat, tbOpb block, 0)
    else if a.f32 != b.f32 || a.s != b.s then some (.badFormat, 0, 0)
    else
      match ownBank s r block with
      | none => some (.accBank, 0, bankDetail block)
      | some bk =>
        if bk.win ≠ 3 then some (.badFormat, 0, 0)
        else if bk.terms + slicedTerms a k > maxTerms then some (.accOverrun, 0, bankDetail block)
        else none

def mmaSBank (t : Stick) (block : Nat) (bk : Bank) : Bank :=
  let k := tbK block
  let a := SliceDesc.ofNat (lsNat t (tbOpa block) 16)
  let b := SliceDesc.ofNat (lsNat t (tbOpb block) 16)
  let as := (List.range 64).map (fun i => (List.range k).map (slicedElem t a 64 i))
  let bs := (List.range 32).map (fun j => (List.range k).map (slicedElem t b 32 j))
  let f (i j : Nat) (w : Window) : Window :=
    let base := slicedExp t a i + slicedExp t b j + tbUA block + tbUB block
    w.slicedSum a.s (base + 4 - 16 * (a.s : Int)) (base + 3) (as.getD i []) (bs.getD j [])
  { mapBank bk f with terms := bk.terms + slicedTerms a k }

def execTileMmaS (r : OpRef) (s : State) : Res :=
  match pressNow s r 5 with
  | none => .next s
  | some n =>
    match mmaSFault s r n.stick n.op.block, ownBank s r n.op.block with
    | some f, _ => .next (opFault s r n.op f.1 f.2.1 f.2.2)
    | none, none => .next (opFault s r n.op .accBank 0 (bankDetail n.op.block))
    | none, some b =>
      let d := SliceDesc.ofNat (lsNat n.stick (tbOpa n.op.block) 16)
      let s := countFor s (some n.stick.forme) .pressBusy (slicedTerms d (tbK n.op.block) / 4)
      .next (opPerformed (setBank s r n.op.block (mmaSBank n.stick n.op.block b)) r)

/-! ## TILE_OUT (03 R107 to R111) -/

/-- Target type and shift: of the binding when BIND is set (06 R206). -/
def outTarget (s : State) (t : Stick) (block : Nat) : Nat × Int :=
  match tbBind block, outNow s t (tbTag block) with
  | true, some o => (o.type, o.shift)
  | _, _ => (tbType block, tbShift block)

/-- The rows of a bank converted, with what the Proof unit sees. -/
def outRows (nd5 : Bool) (k : Kind) (shift : Int) (b : Bank) : List ((Nat × List Conv) × List Seen) :=
  (List.range 64).map (fun i =>
    let ws := (List.range 32).map (fun j => bankWindow b (32 * i + j))
    let row := convRow nd5 .away k false (ws.map (fun w => w.value.scale shift))
    (row, (ws.zip row.2).map (fun wc =>
      { v := wc.1.value, ev := wc.2.ev, inf := wc.2.val.isInf, inexact := wc.1.inexact })))

def execTileOut (r : OpRef) (s : State) : Res :=
  match pressNow s r 6 with
  | none => .next s
  | some n =>
    let b := n.op.block
    if tagBad s n.stick (tbTag b) (tbBind b) then .next (opFault s r n.op .badFormat 0 0)
    else
      let tgt := outTarget s n.stick b
      match typeKind tgt.1 with
      | none => .next (opFault s r n.op .badFormat 0 0)
      | some k =>
        if !lsInside n.stick (tbDst b) (tileBytes tgt.1 64 32) then .next (opFault s r n.op .lsRange (tbDst b) 0)
        else
          match ownBank s r b with
          | none => .next (opFault s r n.op .accBank 0 (bankDetail b))
          | some bk =>
            let rows := outRows (nd5Of s n.stick) k tgt.2 bk
            let s := lsWrite s r (tbDst b) (tilePack k (rows.map (·.1)))
            let s := proofCount s r n.stick (tbTag b) (rows.flatMap (·.2))
            let s :=
              if tbClose b then modPress s r (tbUnit b) (fun p => { p with banks := mapDel p.banks (tbBank b) })
              else s
            .next (opPerformed s r)

end Sys2Proof.Machine
end

