-- ==== Sys2Proof/Machine/BrayerOps.lean ====
section
/-! DEFINITION. The Brayer operations (07): the chain descriptor and its checks in the order of R623, chains and
reductions, SLICE (04 R119 to R122), SPREAD (04 R133) and UPDATE (05 R173 to R175). -/

namespace Sys2Proof.Machine

open Sys2Proof

/-! ## The chain descriptor (07 Tables 7.1, 7.2) -/

structure ChainStep where
  op : Nat
  selC : Nat
  selB : Nat
  selA : Nat
  reserved : Bool
deriving DecidableEq, Repr

structure Chain where
  k : List Nat
  reserved : Bool
  kind : Nat
  axis : Nat
  red : Nat
  rnd : Nat
  wf : Nat
  nstep : Nat
  cols : Nat
  rows : Nat
  shift : Int
  dtype : Nat
  dst : Nat
  u : List Int
  ty : List Nat
  src : List Nat
  steps : List ChainStep
deriving DecidableEq, Repr

def Chain.ofNat (d : Nat) : Chain :=
  { k := (List.range 4).map (fun i => bits d (319 + 64 * i) (256 + 64 * i)), reserved := bits d 255 206 != 0,
    kind := bits d 205 204, axis := bits d 203 202, red := bits d 201 199, rnd := bits d 198 196, wf := bits d 195 194,
    nstep := bits d 193 190, cols := bits d 189 177, rows := bits d 176 170, shift := signed 7 (bits d 169 163),
    dtype := bits d 162 155, dst := bits d 154 136,
    u := (List.range 4).map (fun i => signed 7 (bits d (114 + 7 * i) (108 + 7 * i))),
    ty := (List.range 4).map (fun i => bits d (83 + 8 * i) (76 + 8 * i)),
    src := (List.range 4).map (fun i => bits d (18 + 19 * i) (19 * i)),
    steps := (List.range 8).map (fun j =>
      let w := bits d (575 + 64 * j) (512 + 64 * j)
      { op := bits w 23 16, selC := bits w 11 8, selB := bits w 7 4, selA := bits w 3 0,
        reserved := bits w 63 24 != 0 || bits w 15 12 != 0 }) }

def Chain.typeOf (c : Chain) (i : Nat) : Nat := c.ty.getD i 0
def Chain.offOf (c : Chain) (i : Nat) : Int := c.u.getD i 0
def Chain.srcOf (c : Chain) (i : Nat) : Nat := c.src.getD i 0
def Chain.constOf (c : Chain) (i : Nat) : Nat := c.k.getD i 0

def Chain.live (c : Chain) : List ChainStep := c.steps.take c.nstep

/-- Selectors of the operands an operation uses. -/
def ChainStep.used (st : ChainStep) (isInt : Bool) : List Nat :=
  match opArity st.op isInt with
  | some 1 => [st.selA]
  | some 2 => [st.selA, st.selB]
  | some _ => [st.selA, st.selB, st.selC]
  | none => []

/-- Selectors of operands not used are zero, and a step result named is an earlier one (07 R231). -/
def stepBad (isInt : Bool) (i : Nat) (st : ChainStep) : Bool :=
  match opArity st.op isInt with
  | none => true
  | some n =>
    (decide (n < 2) && st.selB != 0) || (decide (n < 3) && st.selC != 0) ||
      (st.used isInt).any (fun x => decide (x ≥ 8 + i))

/-- Sources that a step names. -/
def Chain.named (c : Chain) : List Nat :=
  let isInt := match wfOf c.wf with
    | some w => w.isInt
    | none => false
  (List.range 4).filter (fun i => c.live.any (fun st => (st.used isInt).contains i))

/-- Fields of a source that nothing names are zero. -/
def Chain.unnamedBad (c : Chain) (named : List Nat) : Bool :=
  (List.range 4).any (fun i => !named.contains i && (c.srcOf i != 0 || c.typeOf i != 0 || c.offOf i != 0))

def Chain.shapeBad (c : Chain) : Bool :=
  c.cols % 32 != 0 || decide (c.cols > 4096) || decide (c.rows > 64)

/-- Header checks of every kind; the reserved bits of all eight step words are among them (07 R232). -/
def Chain.headBad (c : Chain) (bind : Bool) : Bool :=
  c.reserved || c.steps.any (·.reserved) || (wfOf c.wf).isNone || (dirOf c.rnd).isNone || c.axis == 3 || decide (c.red > 4) || c.shapeBad ||
    (bind && c.kind != 0) || (c.kind != 0 && c.nstep != 0)

/-! ## Regions (07 R228, R229, R623) -/

structure TileRegion where
  base : Nat
  len : Nat
  align : Nat
deriving DecidableEq, Repr

/-- The first region that is misplaced. -/
def regionFault (t : Stick) : List TileRegion → Option (StickCode × Nat)
  | [] => none
  | x :: r =>
    if x.base % x.align ≠ 0 then some (.misaligned, x.base)
    else if lsInside t x.base x.len = false then some (.lsRange, x.base)
    else regionFault t r

def regionsMeet (a b : TileRegion) : Bool := extentsMeet a.base (a.base + a.len) b.base (b.base + b.len)

def regionSame (a b : TileRegion) : Bool := a.base == b.base && a.len == b.len

/-- 07 R229. -/
def overlapBad (dst : TileRegion) (srcs : List TileRegion) : Bool := srcs.any (fun x => regionsMeet dst x && !regionSame dst x)

/-! ## A Brayer operation in turn (07 R226) -/

inductive BrayerKind where
  | chain | slice | spread | update
deriving DecidableEq, Repr

def BrayerKind.num : BrayerKind → Nat
  | .chain => 0
  | .slice => 1
  | .spread => 2
  | .update => 3

/-- An operation of a kind when every earlier one of the galley's Brayer has been made; one whose descriptor cannot be
read has no kind of its own and is taken by any of the four rows. -/
def brayerNow (s : State) (r : OpRef) (kind : BrayerKind) : Option OpNow :=
  match opNow s r 7 with
  | none => none
  | some n =>
    let a := tbOpa n.op.block
    let placed := a % 32 == 0 && lsInside n.stick a 128
    let mine := !placed || bits (lsNat n.stick a 128) 205 204 == kind.num
    let first := (opsBefore s r).all (fun x => tbOpc x.block != 7 || x.performed)
    if mine && first then some n else none

/-- Clocks an operation takes are counted (07 R253, 06 Table 6.8). -/
def brayerBusy (s : State) (t : Stick) (n : Nat) : State := countFor s (some t.forme) .brayerBusy n

/-- An operation of zero work: at most 20 clocks (07 R233). -/
def zeroWork (s : State) (r : OpRef) (t : Stick) : State :=
  opTogether (brayerBusy s.drawn t (Config.freeNat s.free % 21)) r

/-- T of 07 R253. -/
def brayerTime (c br bw d : Nat) : Nat := 20 + max c (max (ceilDiv br 1024) (ceilDiv bw 512)) + d

/-- Runs a Brayer operation: placement of its descriptor, then the header checks, the zero rule, the placement and
overlap of its regions, and its effect (07 R623). -/
def brayerRun (s : State) (r : OpRef) (n : OpNow) (head : Chain → Bool) (zero : Chain → Bool)
    (regions : Chain → List TileRegion) (late : Chain → Option (StickCode × Nat)) (overlap : Chain → Bool)
    (go : State → Chain → State) : State :=
  let a := tbOpa n.op.block
  if a % 32 ≠ 0 then opFault s r n.op .misaligned a 0
  else if lsInside n.stick a 128 = false then opFault s r n.op .lsRange a 0
  else
    let c := Chain.ofNat (lsNat n.stick a 128)
    if c.headBad (tbBind n.op.block) || head c then opFault s r n.op .badFormat a 0
    else if zero c then zeroWork s r n.stick
    else
      match regionFault n.stick (regions c) with
      | some f => opFault s r n.op f.1 f.2 0
      | none =>
        match late c with
        | some f => opFault s r n.op f.1 f.2 0
        | none => if overlap c then opFault s r n.op .badFormat a 0 else go s c

/-! ## Chains (07 R230 to R246) -/

/-- Output type and shift of a chain: of the binding when BIND is set. -/
def chainTarget (s : State) (t : Stick) (block : Nat) (c : Chain) : Nat × Int :=
  match tbBind block, outNow s t (tbTag block) with
  | true, some o => (o.type, o.shift)
  | _, _ => (c.dtype, c.shift)

def chainHeadBad (s : State) (t : Stick) (block : Nat) (c : Chain) : Bool :=
  let isInt := match wfOf c.wf with
    | some w => w.isInt
    | none => false
  let dt := (chainTarget s t block c).1
  let srcBad (i : Nat) : Bool :=
    !typeValid (c.typeOf i) || (typeIsInt (c.typeOf i) && c.offOf i != 0) || (isInt && !typeIsInt (c.typeOf i))
  tagBad s t (tbTag block) (tbBind block) || decide (c.nstep > 8) ||
    ((List.range c.nstep).zip c.live).any (fun x => stepBad isInt x.1 x.2) || c.unnamedBad c.named || c.named.any srcBad ||
    !typeValid dt || (isInt && c.k.any (fun x => decide (x ≥ 2 ^ 32))) || (c.red == 0 && c.axis != 0) ||
    (c.red != 0 && (typeIsScaled dt || decide (typeBits dt < 8)))

/-- Values a reduction writes. -/
def Chain.outCount (c : Chain) : Nat := if c.axis = 0 then c.rows else if c.axis = 1 then c.cols else 1

def chainDst (s : State) (t : Stick) (block : Nat) (c : Chain) : TileRegion :=
  let dt := (chainTarget s t block c).1
  { base := c.dst, align := 32,
    len := if c.red = 0 then tileBytes dt c.rows c.cols else elemBytes dt c.outCount }

def chainSrc (c : Chain) (i : Nat) : TileRegion :=
  { base := c.srcOf i, len := tileBytes (c.typeOf i) c.rows c.cols, align := 32 }

/-- A constant of the chain. -/
def constVal (nd5 : Bool) (isInt : Bool) (x : Nat) : Num :=
  if isInt then Num.ofInt (signed 32 (x % 2 ^ 32)) else decodeNd5 nd5 (.float ffFP64) 0x7F x

/-- The steps on one element: the results in order, each with its overflow. -/
def chainSteps (nd5 : Bool) (dir : Dir) (wf : WorkFmt) (src konst : Nat → Num) (steps : List ChainStep) : List StepOut :=
  steps.foldl (fun res st =>
    let sel (x : Nat) : Num :=
      if x < 4 then src x else if x < 8 then konst (x - 4) else ((res.getD (x - 8) { val := .fin false 0 0, ovf := false }).val)
    res ++ [stepOp nd5 dir wf st.op (sel st.selA) (sel st.selB) (sel st.selC)]) []

/-- The result of the chain on one element, with whether any step overflowed. -/
def chainElem (nd5 : Bool) (dir : Dir) (wf : WorkFmt) (src konst : Nat → Num) (steps : List ChainStep) : StepOut :=
  let res := chainSteps nd5 dir wf src konst steps
  { val := (res.getLastD { val := .fin false 0 0, ovf := false }).val, ovf := res.any (·.ovf) }

/-- The source that a chain of conversions alone reads (02 R64, R65). -/
def copySource (steps : List ChainStep) : Nat → Nat → Option Nat
  | 0, _ => none
  | fuel + 1, i =>
    match steps[i]? with
    | some st =>
      if st.op = 1 then
        (if st.selA < 4 then some st.selA else if st.selA < 8 then none else copySource steps fuel (st.selA - 8))
      else none
    | none => none

/-- The event of an output element (07 R243). An integer output is no NaN: after an overflow it counts as Overflow. -/
def outEvent (step : StepOut) (c : Conv) : Ev :=
  if c.val.isNan then .nan else if step.ovf then .overflow else c.ev

def seenOf (step : StepOut) (c : Conv) : Seen :=
  { v := step.val, ev := outEvent step c, inf := c.val.isInf, inexact := false }

/-- Everything a chain computes with. -/
structure ChainEnv where
  nd5 : Bool
  dir : Dir
  wf : WorkFmt
  dt : Nat
  kind : Kind
  shift : Int
  fp64Rate : Bool
  elem : Nat → Nat → StepOut

/-- Source `i` of a chain at (r, c). -/
def chainSource (t : Stick) (nd5 : Bool) (c : Chain) (i r k : Nat) : Num :=
  match typeKind (c.typeOf i) with
  | some kd => tileVal nd5 (lsByte t) (c.srcOf i) (c.typeOf i) kd (c.offOf i) c.rows c.cols r k
  | none => .nan

/-- The elements of a reduced set, in order (07 R245). -/
def reducedSet (e : ChainEnv) (c : Chain) (i : Nat) : List StepOut :=
  if c.axis = 0 then (List.range c.cols).map (fun k => e.elem i k)
  else if c.axis = 1 then (List.range c.rows).map (fun r => e.elem r i)
  else (List.range (c.cols / 32)).flatMap (fun b =>
    (List.range c.rows).flatMap (fun r => (List.range 32).map (fun j => e.elem r (32 * b + j))))

/-- AMAX is MAX of the magnitudes. -/
def redOperand (red : Nat) (x : StepOut) : StepOut := if red = 4 then { x with val := x.val.abs } else x

def reduceOut (e : ChainEnv) (c : Chain) (i : Nat) : StepOut :=
  let xs := (reducedSet e c i).map (redOperand c.red)
  (reduceSet (redCombine e.nd5 e.dir e.wf c.red) (if e.fp64Rate then 64 else 128) xs).getD
    { val := .fin false 0 0, ovf := false }

/-- One block of 32 outputs: scale, elements, what the Proof unit sees. A conversion to the equal type copies the codes of a
block whose scale is 0xFF too, as 02 R65 has it, and writes no canonical NaN codes as R64 has it: the spec does not say which of
the two holds there (DESIGN CHOICE, notes/assumptions/28.md). -/
def chainBlock (e : ChainEnv) (nanBlock : Bool) (copy : Option (Nat × List (Option Nat))) (xs : List StepOut) :
    (Nat × List Conv) × List Seen :=
  let row := convRow e.nd5 e.dir e.kind nanBlock (xs.map (fun x => x.val.scale e.shift))
  let row := match copy with
    | some (q, codes) => (q, (row.2.zip codes).map (fun x => match x.2 with
      | some k => copiedConv e.kind q k
      | none => x.1))
    | none => row
  (row, (xs.zip row.2).map (fun x => seenOf x.1 x.2))

/-- A copied conversion keeps scale and codes, a signalling NaN's among them (`copiedConv`); an element that the ND5 mode
flushes is not copied (02 R65). -/
def copyBlock (t : Stick) (e : ChainEnv) (c : Chain) (src b r : Nat) : Option (Nat × List (Option Nat)) :=
  if c.typeOf src = e.dt ∧ c.offOf src = 0 ∧ e.shift = 0 then
    let q := if e.kind.isScaled then tileScale (lsByte t) (c.srcOf src) e.dt c.rows c.cols b r else 0
    let code (j : Nat) : Option Nat :=
      let k := tileCode (lsByte t) (c.srcOf src) e.kind.bits (tilePos c.rows r (32 * b + j))
      if decodeNd5 e.nd5 e.kind q k = decodeKind e.kind q k then some k else none
    some (q, (List.range 32).map code)
  else none

/-- The source block of a conversion has scale 0xFF (02 R64). -/
def nanSource (t : Stick) (c : Chain) (src b r : Nat) : Bool :=
  typeIsScaled (c.typeOf src) && tileScale (lsByte t) (c.srcOf src) (c.typeOf src) c.rows c.cols b r == 0xFF

def chainTile (t : Stick) (e : ChainEnv) (c : Chain) : List ((Nat × List Conv) × List Seen) :=
  let src := copySource c.live 8 (c.nstep - 1)
  (List.range (c.cols / 32)).flatMap (fun b => (List.range c.rows).map (fun r =>
    let xs := (List.range 32).map (fun j => e.elem r (32 * b + j))
    match src with
    | some i => chainBlock e (nanSource t c i b r) (copyBlock t e c i b r) xs
    | none => chainBlock e false none xs))

/-- Clocks of the steps (07 Table 7.7). -/
def chainCompute (c : Chain) (fp64 : Bool) : Nat :=
  let n := c.rows * c.cols
  (c.live.map (fun st => ceilDiv n (if opSlow st.op then (if fp64 then 16 else 32) else (if fp64 then 64 else 128)))).sum

def chainEnv (s : State) (t : Stick) (block : Nat) (c : Chain) (dir : Dir) (wf : WorkFmt) (kind : Kind) : ChainEnv :=
  let nd5 := nd5Of s t
  let tgt := chainTarget s t block c
  { nd5 := nd5, dir := dir, wf := wf, dt := tgt.1, kind := kind, shift := tgt.2
    fp64Rate := wf == .fp64 || c.named.any (fun i => c.typeOf i == 0x0C)
    elem := fun r k => chainElem nd5 dir wf (fun i => chainSource t nd5 c i r k)
      (fun i => constVal nd5 wf.isInt (c.constOf i)) c.live }

/-- Distinct regions read, each once. -/
def bytesRead (rs : List TileRegion) : Nat := (rs.eraseDups.map (·.len)).sum

def chainGo (s : State) (r : OpRef) (t : Stick) (block : Nat) (c : Chain) : State :=
  match dirOf c.rnd, wfOf c.wf, typeKind (chainTarget s t block c).1 with
  | some dir, some wf, some kind =>
    let e := chainEnv s t block c dir wf kind
    let br := bytesRead (c.named.map (chainSrc c))
    let d := chainDst s t block c
    if c.red = 0 then
      let out := chainTile t e c
      let s := lsWrite s r c.dst (tilePack kind (out.map (·.1)))
      let s := proofCount s r t (tbTag block) (out.flatMap (·.2))
      opPerformed (brayerBusy s t (brayerTime (chainCompute c e.fp64Rate) br d.len 0)) r
    else
      let xs := (List.range c.outCount).map (reduceOut e c)
      let cs := xs.map (fun x => convElem e.nd5 dir kind (x.val.scale e.shift))
      let s := lsWrite s r c.dst (packElems kind.bits (cs.map (·.code)))
      let s := proofCount s r t (tbTag block) ((xs.zip cs).map (fun x => seenOf x.1 x.2))
      opPerformed (brayerBusy s t (brayerTime (chainCompute c e.fp64Rate) br d.len 16)) r
  | _, _, _ => opPerformed s r

def execBrayerChain (r : OpRef) (s : State) : Res :=
  match brayerNow s r .chain with
  | none => .next s
  | some n =>
    let b := n.op.block
    .next (brayerRun s r n (chainHeadBad s n.stick b)
      (fun c => c.nstep == 0 || c.rows == 0 || c.cols == 0)
      (fun c => c.named.map (chainSrc c) ++ [chainDst s n.stick b c])
      (fun _ => none)
      (fun c => overlapBad (chainDst s n.stick b c) (c.named.map (chainSrc c)))
      (fun s c => chainGo s r n.stick b c))

/-! ## SLICE (07 R247, 04 R119 to R122) -/

def sliceHeadBad (s : State) (t : Stick) (block : Nat) (c : Chain) : Bool :=
  tagBad s t (tbTag block) false || (c.typeOf 0 != 0x0B && c.typeOf 0 != 0x0C) || c.offOf 0 != 0 || c.typeOf 1 != 0x32 ||
    c.offOf 1 != 0 || c.rnd != 0 || c.red != 0 || c.axis != 0 || c.shift != 0 || c.dtype != 0 || c.unnamedBad [0, 1]

def sliceSrc (c : Chain) : TileRegion := { base := c.srcOf 0, len := tileBytes (c.typeOf 0) c.rows c.cols, align := 32 }

def sliceExps (c : Chain) : TileRegion := { base := c.srcOf 1, len := 2 * c.rows, align := 32 }

def sliceDescOf (t : Stick) (c : Chain) : SliceDesc := SliceDesc.ofNat (lsNat t c.dst 16)

/-- Regions SLICE writes. -/
def sliceWrites (t : Stick) (c : Chain) : List TileRegion :=
  ((sliceDescOf t c).regions c.rows c.cols).map (fun x => { base := x.1, len := x.2, align := 1 })

/-- The descriptor's own fields, then the regions it names. -/
def sliceLate (t : Stick) (c : Chain) : Option (StickCode × Nat) :=
  let d := sliceDescOf t c
  if d.bad || d.f32 != (c.typeOf 0 == 0x0B) then some (.badFormat, c.dst)
  else regionFault t (sliceWrites t c)

def pairsMeet : List TileRegion → Bool
  | [] => false
  | x :: r => r.any (regionsMeet x) || pairsMeet r

/-- Overlaps that fault, but for an exponent vector that coincides with SRC1 (07 R247). -/
def sliceOverlap (t : Stick) (c : Chain) : Bool :=
  let ws := sliceWrites t c
  let ex := ws.getLast?
  let desc : TileRegion := { base := c.dst, len := 16, align := 16 }
  pairsMeet ws ||
    ws.any (fun w => regionsMeet w (sliceSrc c) || regionsMeet w desc ||
      (regionsMeet w (sliceExps c) && !(ex == some w && regionSame w (sliceExps c))))

/-- Element, its alignment exponent, its aligned integer, class and event of one element. -/
structure SlicedOut where
  v : Num
  cls : Nat
  x : Int
  ev : Ev
deriving DecidableEq, Repr

def sliceElem (nd5 : Bool) (t : Stick) (c : Chain) (k : Kind) (count : Nat) (r j : Nat) : SlicedOut :=
  let v := tileVal nd5 (lsByte t) (c.srcOf 0) (c.typeOf 0) k 0 c.rows c.cols r j
  let E := signed 16 (lsNat t (c.srcOf 1 + 2 * r) 2)
  match v with
  | .nan => { v := v, cls := 3, x := 0, ev := .nan }
  | .inf n => { v := v, cls := 2, x := if n then -(2 ^ (8 * count - 1) : Int) else 0, ev := .none }
  | .fin n m _ =>
    if m = 0 then { v := v, cls := 1, x := if n then -(2 ^ (8 * count - 1) : Int) else 0, ev := .none }
    else
      let x := alignedInt count E v
      { v := v, cls := 0, x := x, ev := if x = 0 then .rtz else .none }

/-- An element above its row's alignment exponent (04 R119). -/
def sliceRangeBad (nd5 : Bool) (t : Stick) (c : Chain) (k : Kind) : Bool :=
  (List.range c.rows).any (fun r =>
    let E := signed 16 (lsNat t (c.srcOf 1 + 2 * r) 2)
    (List.range c.cols).any (fun j =>
      let v := tileVal nd5 (lsByte t) (c.srcOf 0) (c.typeOf 0) k 0 c.rows c.cols r j
      v.isFinNz && decide (E < v.log2)))

/-- Class codes packed four to a byte. -/
def packClasses : List Nat → List Byte
  | a :: b :: c :: d :: r => BitVec.ofNat 8 (a + 4 * b + 16 * c + 64 * d) :: packClasses r
  | _ => []

/-- The effect of SLICE. ADDR of a SLICE_RANGE record is zero: 06 Table 6.12 names no address of this fault (DESIGN CHOICE,
notes/assumptions/119.md). -/
def sliceGo (s : State) (r : OpRef) (o : TileOp) (t : Stick) (c : Chain) : State :=
  match typeKind (c.typeOf 0) with
  | none => opPerformed s r
  | some k =>
    let nd5 := nd5Of s t
    if sliceRangeBad nd5 t c k then opFault s r o .sliceRange 0 0
    else
      let d := sliceDescOf t c
      let elems := (List.range (c.cols / 32)).flatMap (fun b => (List.range c.rows).flatMap (fun i =>
        (List.range 32).map (fun j => sliceElem nd5 t c k d.s i (32 * b + j))))
      let plane (i : Nat) : List Byte :=
        elems.map (fun e => BitVec.ofNat 8 (unsigned (8 * d.s) e.x / 2 ^ (8 * (d.s - 1 - i))))
      let exps := readBytes t.ls (c.srcOf 1) (2 * c.rows)
      let s := (List.range d.s).foldl (fun s i => lsWrite s r (d.planeBase + i * d.stride) (plane i)) s
      let s := lsWrite s r d.classBase (packClasses (elems.map (·.cls)))
      let s := lsWrite s r d.expBase exps
      let s := proofCount s r t (tbTag o.block)
        (elems.map (fun e => { v := e.v, ev := e.ev, inf := e.v.isInf, inexact := false }))
      let n := c.rows * c.cols
      let copied := if d.expBase = c.srcOf 1 then 0 else 2 * c.rows
      opPerformed (brayerBusy s t (brayerTime (ceilDiv n 64) (bytesRead [sliceSrc c, sliceExps c])
        (d.s * n + n / 4 + copied) 0)) r

def execSlice (r : OpRef) (s : State) : Res :=
  match brayerNow s r .slice with
  | none => .next s
  | some n =>
    .next (brayerRun s r n (sliceHeadBad s n.stick n.op.block)
      (fun c => c.rows == 0 || c.cols == 0)
      (fun c => [sliceSrc c, sliceExps c, { base := c.dst, len := 16, align := 16 }])
      (sliceLate n.stick) (sliceOverlap n.stick)
      (fun s c => sliceGo s r n.op n.stick c))

/-! ## SPREAD (07 R248, 04 R133) -/

def spreadHeadBad (c : Chain) : Bool :=
  (c.typeOf 0 != 0x0B && c.typeOf 0 != 0x0C) || decide (c.red > 1) || decide (c.axis > 1) || c.rnd != 0 || c.shift != 0 ||
    c.dtype != 0 || c.offOf 0 != 0 || c.unnamedBad [0]

def spreadDst (c : Chain) : TileRegion := { base := c.dst, len := 8 * c.outCount, align := 8 }

/-- A spread record (04 Table 4.5): the extreme exponents, and the flags NAN, NINF, PINF. -/
structure SpreadRec where
  range : Option (Int × Int)
  nan : Bool
  ninf : Bool
  pinf : Bool
deriving DecidableEq, Repr

def SpreadRec.join (a b : SpreadRec) : SpreadRec :=
  { range := match a.range, b.range with
      | some x, some y => some (max x.1 y.1, min x.2 y.2)
      | none, y => y
      | x, none => x
    nan := a.nan || b.nan, ninf := a.ninf || b.ninf, pinf := a.pinf || b.pinf }

def SpreadRec.empty : SpreadRec := { range := none, nan := false, ninf := false, pinf := false }

def SpreadRec.ofNum (v : Num) : SpreadRec :=
  match v with
  | .nan => { SpreadRec.empty with nan := true }
  | .inf true => { SpreadRec.empty with ninf := true }
  | .inf false => { SpreadRec.empty with pinf := true }
  | .fin _ m _ => if m = 0 then SpreadRec.empty else { SpreadRec.empty with range := some (v.log2, v.log2) }

def SpreadRec.pack (x : SpreadRec) : List Byte :=
  let r := match x.range with
    | some (hi, lo) => (unsigned 16 hi, unsigned 16 lo, (hi - lo).toNat)
    | none => (0x8000, 0x8000, 0)
  toBytes 8 (packFields [(1, boolBit x.range.isNone), (1, boolBit x.pinf), (1, boolBit x.ninf), (1, boolBit x.nan),
    (12, 0), (16, r.2.2), (16, r.2.1), (16, r.1)])

def SpreadRec.ofNat (w : Nat) : SpreadRec :=
  { range := if bit w 0 then none else some (signed 16 (bits w 63 48), signed 16 (bits w 47 32))
    nan := bit w 3, ninf := bit w 2, pinf := bit w 1 }

/-- SPREAD is no reduction for the depth D that 07 R253 counts: D is 0, though 04 speaks of its reduction tree (DESIGN CHOICE,
notes/assumptions/16.md). -/
def spreadGo (s : State) (r : OpRef) (t : Stick) (c : Chain) : State :=
  match typeKind (c.typeOf 0) with
  | none => opPerformed s r
  | some k =>
    let v (i j : Nat) : Num := tileVal (nd5Of s t) (lsByte t) (c.srcOf 0) (c.typeOf 0) k 0 c.rows c.cols i j
    let fresh (i : Nat) : SpreadRec :=
      let set := if c.axis = 0 then (List.range c.cols).map (v i) else (List.range c.rows).map (fun j => v j i)
      set.foldl (fun a x => a.join (SpreadRec.ofNum x)) SpreadRec.empty
    let rec_ (i : Nat) : SpreadRec :=
      if c.red = 1 then (SpreadRec.ofNat (lsNat t (c.dst + 8 * i) 8)).join (fresh i) else fresh i
    let out := (List.range c.outCount).flatMap (fun i => (rec_ i).pack)
    let n := c.rows * c.cols
    let src := tileBytes (c.typeOf 0) c.rows c.cols
    let t0 := brayerTime (ceilDiv n (if c.typeOf 0 = 0x0B then 128 else 64))
      (src + (if c.red = 1 then 8 * c.outCount else 0)) (8 * c.outCount) 0
    opPerformed (brayerBusy (lsWrite s r c.dst out) t t0) r

def execSpread (r : OpRef) (s : State) : Res :=
  match brayerNow s r .spread with
  | none => .next s
  | some n =>
    .next (brayerRun s r n spreadHeadBad
      (fun c => c.rows == 0 || c.cols == 0)
      (fun c => [sliceSrc c, spreadDst c])
      (fun _ => none)
      (fun c => overlapBad (spreadDst c) [sliceSrc c])
      (fun s c => spreadGo s r n.stick c))

/-! ## UPDATE (07 R249 to R252, 05 R173 to R175) -/

def updateHeadBad (s : State) (t : Stick) (block : Nat) (c : Chain) : Bool :=
  tagBad s t (tbTag block) false || c.ty != [0x08, 0x07, 0x08, 0x09] || c.dtype != 0x31 || c.wf != 0 || c.rnd != 0 ||
    c.red != 0 || c.axis != 0 || c.shift != 0 || c.offOf 1 != 0 || c.offOf 2 != 0 || c.offOf 3 != 0

def updateRegions (c : Chain) : List TileRegion :=
  (List.range 4).map (chainSrc c) ++ [{ base := c.dst, len := c.rows * c.cols, align := 32 }]

/-- Half of a constant, an FP32 value. -/
def fp32Const (nd5 : Bool) (x : Nat) : Num := decodeNd5 nd5 (.float ffFP32) 0x7F (x % 2 ^ 32)

def updateConsts (nd5 : Bool) (c : Chain) : UpdateConsts :=
  let lo (i : Nat) : Num := fp32Const nd5 (c.constOf i)
  let hi (i : Nat) : Num := fp32Const nd5 (c.constOf i / 2 ^ 32)
  { eta := lo 0, lambda := hi 0, beta1 := lo 1, beta2 := hi 1, eps := lo 2, c1 := hi 2, c2 := lo 3, gamma := hi 3 }

/-- One block of 32 indices of a row, in tile order. -/
def updateBlock (nd5 : Bool) (t : Stick) (c : Chain) (b r : Nat) : List Updated :=
  let src (i j : Nat) : Num := chainSource t nd5 c i r (32 * b + j)
  let res (j : Nat) : Int :=
    signed 8 (tileCode (lsByte t) c.dst 8 (tilePos c.rows r (32 * b + j)))
  (List.range 32).map (fun j =>
    updateOne nd5 (updateConsts nd5 c) (src 0 j) (src 1 j) (src 2 j) (src 3 j) (res j))

def updateGo (s : State) (r : OpRef) (t : Stick) (block : Nat) (c : Chain) : State :=
  let nd5 := nd5Of s t
  let blocks := (List.range (c.cols / 32)).flatMap (fun b => (List.range c.rows).map (fun i => updateBlock nd5 t c b i))
  let ms := blocks.map (fun us => convRow nd5 .away (.scaled ffF8E4) false (us.map (·.m)))
  let vs := blocks.map (fun us => convRow nd5 .away (.scaled ffF8E5) false (us.map (·.v)))
  let us := blocks.flatten
  let seen (f : Updated → Num) (rows : List (Nat × List Conv)) : List Seen :=
    (us.zip (rows.flatMap (·.2))).map (fun x => { v := f x.1, ev := x.2.ev, inf := x.2.val.isInf, inexact := false })
  let s := lsWrite s r (c.srcOf 1) (tilePack (.scaled ffF8E4) ms)
  let s := lsWrite s r (c.srcOf 2) (tilePack (.scaled ffF8E5) vs)
  let s := lsWrite s r (c.srcOf 3) (packElems 16 (us.map (·.w.code)))
  let s := lsWrite s r c.dst (us.map (fun x => BitVec.ofNat 8 (unsigned 8 x.r)))
  let s := proofCount s r t (tbTag block)
    (us.map (fun x => { v := x.s, ev := x.w.ev, inf := x.w.val.isInf, inexact := false }))
  let s := proofCount s r t 31 (seen (·.m) ms ++ seen (·.v) vs)
  let n := c.rows * c.cols
  let rs := updateRegions c
  opPerformed (brayerBusy s t (brayerTime (ceilDiv n 32) (bytesRead rs) (bytesRead (rs.drop 1)) 0)) r

def execUpdate (r : OpRef) (s : State) : Res :=
  match brayerNow s r .update with
  | none => .next s
  | some n =>
    .next (brayerRun s r n (updateHeadBad s n.stick n.op.block)
      (fun c => c.rows == 0 || c.cols == 0)
      updateRegions (fun _ => none)
      (fun c => pairsMeet (updateRegions c))
      (fun s c => updateGo s r n.stick n.op.block c))

end Sys2Proof.Machine
end

