-- ==== Sys2Proof/Machine/CohRows.lean ====
section
/-! DEFINITION. The rows of the coherence protocol (09): requests reaching a home, messages arriving, snoop timeouts,
suspect agents and write streams. -/

namespace Sys2Proof.Machine

open Sys2Proof

abbrev CohRes := Host.Outcome State Fault Refusal

/-- Cases 0 to 5 and the L3s 6 and 7 (09 R287). -/
def isCaching (agent : Nat) : Bool := decide (agent < 8)

/-- Core groups on a Compositor to which a line may belong: those of the forme that holds its stack (11 R377). -/
def lineGroups (s : State) (agent ln : Nat) : List Nat :=
  match (lineForme s ln).bind (getForme s) with
  | some f => f.groups.filter (fun g => dieOfGroup g = agent)
  | none => []

/-- The request of a row. A row names no core group and no destination behind a Compositor: which of them asks is a free
choice (11 R377, 01 R47). DESIGN CHOICE: nor does it say who in a Platen asks, and its read takes the normal class of 08 R261
(notes/assumptions/117.md). -/
def rowReq (s : State) (l : LineAt) (k : ReqKind) : Req :=
  let gs := lineGroups s l.agent (lineOf l.pa)
  { agent := l.agent, kind := k, group := gs[Config.freeNat s.free % gs.length]?, prio := false,
    unit := if l.agent < 8 then 0 else Config.freeNat s.free % 32, zero := false }

/-- The request reaches the line's home. -/
def sendReq (s : State) (l : LineAt) (k : ReqKind) : State := homeAccept s.drawn (lineOf l.pa) (rowReq s l k)

/-- State of a line that an agent holds; one it is writing back it holds no more. -/
def heldState (s : State) (l : LineAt) : Option LineState := (heldLine s l.agent (lineOf l.pa)).map (·.st)

/-! ## Requests (09 Table 9.6)

No message reaches a home island that is off (01 R44), and a Case that has left coherence asks for nothing (09 R322). -/

/-- A caching agent without the line asks for it. -/
def askFor (s : State) (l : LineAt) (k : ReqKind) : State :=
  if s.homesOn && isCaching l.agent && mayFill s l.agent && heldState s l == none then sendReq s l k else s

/-- RD_SHARED: a caching agent without the line asks for a copy (09 R296). -/
def execRdShared (l : LineAt) (s : State) : CohRes := .next (askFor s l .rdShared)

/-- RD_UNIQUE: a copy with ownership. -/
def execRdUnique (l : LineAt) (s : State) : CohRes := .next (askFor s l .rdUnique)

/-- UPGRADE: ownership of a line held in S or O. -/
def execUpgrade (l : LineAt) (s : State) : CohRes :=
  .next (if s.homesOn && isCaching l.agent && (heldState s l == some .s || heldState s l == some .o) then
    sendReq s l .upgrade else s)

/-- OWN_NODATA: ownership of a line that is going to be overwritten whole. -/
def execOwnNodata (l : LineAt) (s : State) : CohRes := .next (askFor s l .ownNodata)

/-- LOCK_FILL: a clean copy for a locked way of a Case (09 R318), unless the Case is leaving coherence or has left it (R322). -/
def execLockFill (l : LineAt) (way : Nat) (s : State) : CohRes :=
  .next (if s.homesOn && decide (l.agent < 6) && mayLock s l.agent then sendReq s l (.lockFill way) else s)

/-- RD_ONCE: a snapshot for a cacheless agent. -/
def execRdOnce (l : LineAt) (s : State) : CohRes :=
  .next (if s.homesOn && !isCaching l.agent then sendReq s l .rdOnce else s)

/-- WR_FULL: a whole-line write of a cacheless agent or a Case, with its hint (09 R304). -/
def execWrFull (l : LineAt) (data : List Byte) (hint : Nat) (s : State) : CohRes :=
  .next (if s.homesOn && (!isCaching l.agent || decide (l.agent < 6)) then sendReq s l (.wrFull data hint) else s)

/-- WR_PART: a write with a byte mask. -/
def execWrPart (l : LineAt) (mask : Nat) (data : List Byte) (s : State) : CohRes :=
  .next (if s.homesOn && !isCaching l.agent then sendReq s l (.wrPart mask data) else s)

/-- The agent holds the data of a write-back until its COMP. -/
def markLeaving (s : State) (l : LineAt) : State :=
  match getLine s l.agent (lineOf l.pa) with
  | some x => setLine s l.agent (lineOf l.pa) { x with leaving := true }
  | none => s

/-- WB_DIRTY: the write-back of an M or O line, as the cache reads it then (09 R293). -/
def execWbDirty (l : LineAt) (s : State) : CohRes :=
  .next (if s.homesOn && isCaching l.agent && (heldState s l == some .m || heldState s l == some .o) then
    sendReq (markLeaving (caseCheck s l.agent (lineOf l.pa) false) l) l .wbDirty
  else s)

/-! ## Messages -/

/-- The oldest message of the line's transaction that satisfies a test is delivered, unless it waits for credits or for the
messages ahead of it on its links (01 R33, R34). -/
def arrive (s : State) (l : LineAt) (test : Msg → Bool) : State :=
  if s.homesOn then
    match getTxn s (lineOf l.pa) with
    | none => s
    | some t =>
      match t.msgs.find? (fun m => test m && ready t m) with
      | some m => if mayArrive s (lineOf l.pa) m then deliver s (lineOf l.pa) m else s
      | none => s
  else s

/-- A snoop of a kind on its way to an agent. -/
def isSnp (k : SnpKind) (agent : Nat) : Msg → Bool
  | .snp j a _ _ _ => j == k && a == agent
  | _ => false

def isDataTo (agent : Nat) : Msg → Bool
  | .dataTo a _ _ _ _ => a == agent
  | _ => false

def isFwdTo (agent : Nat) : Msg → Bool
  | .fwdTo a _ _ _ _ _ => a == agent
  | _ => false

def isSnpData (agent : Nat) : Msg → Bool
  | .snpData a _ _ _ => a == agent
  | _ => false

def isSnpAck (agent : Nat) : Msg → Bool
  | .snpAck a => a == agent
  | _ => false

def isSnpNp (agent : Nat) : Msg → Bool
  | .snpNp a => a == agent
  | _ => false

def isComp (agent : Nat) : Msg → Bool
  | .compTo a _ => a == agent
  | _ => false

def isGrantAck (agent : Nat) : Msg → Bool
  | .grantAck a => a == agent
  | _ => false

def execSnpShared (l : LineAt) (s : State) : CohRes := .next (arrive s l (isSnp .shared l.agent))
def execSnpInv (l : LineAt) (s : State) : CohRes := .next (arrive s l (isSnp .inv l.agent))
def execSnpPeek (l : LineAt) (s : State) : CohRes := .next (arrive s l (isSnp .peek l.agent))
def execSnpClean (l : LineAt) (s : State) : CohRes := .next (arrive s l (isSnp .clean l.agent))
def execSnpPush (l : LineAt) (s : State) : CohRes := .next (arrive s l (isSnp .push l.agent))
def execData (l : LineAt) (s : State) : CohRes := .next (arrive s l (isDataTo l.agent))
def execFwd (l : LineAt) (s : State) : CohRes := .next (arrive s l (isFwdTo l.agent))
def execSnpData (l : LineAt) (s : State) : CohRes := .next (arrive s l (isSnpData l.agent))
def execSnpAck (l : LineAt) (s : State) : CohRes := .next (arrive s l (isSnpAck l.agent))
def execSnpNp (l : LineAt) (s : State) : CohRes := .next (arrive s l (isSnpNp l.agent))
def execComp (l : LineAt) (s : State) : CohRes := .next (arrive s l (isComp l.agent))
def execGrantAck (l : LineAt) (s : State) : CohRes := .next (arrive s l (isGrantAck l.agent))

/-! ## Timeouts and suspects (09 R302, R303) -/

/-- A message that carries the line to its requester carries it poisoned. -/
def Msg.poisoned : Msg → Msg
  | .dataTo a g d _ _ => .dataTo a g d true true
  | .fwdTo a g d _ _ o => .fwdTo a g d true true o
  | m => m

/-- The transaction after the snoop of an agent has gone unanswered: it waits for the agent no longer, its requester will
receive the line poisoned, and an SNP_INV of the line to the agent comes next. -/
def Txn.giveUp (t : Txn) (agent : Nat) : Txn :=
  { t with waiting := t.waiting.filter (· ≠ agent), lost := true, dirty := none,
           msgs := (t.msgs.filter (fun m => !(isSnp .shared agent m || isSnp .inv agent m || isSnp .peek agent m ||
             isSnp .clean agent m || isSnp .push agent m || isSnpData agent m || isSnpAck agent m ||
             isSnpNp agent m))).map Msg.poisoned,
           queue := cacheReq agent .dropCopy none false :: t.queue }

/-- Both sectors of a line are poisoned in memory, with one record (09 R302 step 1), whose SYMBOLS is 0; the
write-back is no counted write (DESIGN CHOICE, notes/assumptions/115.md). -/
def poisonLine (s : State) (ln : Nat) : State :=
  memRecord (poisonSector (poisonSector s (ln * 128)) (ln * 128 + 64)) (ln * 128) 7 0 5 0

/-- The agent is suspect; a second timeout within 1 s is a fatal failure (09 R303). -/
def suspect (s : State) (agent : Nat) : State :=
  let again := match mapGet s.timedOut agent with
    | some t => decide (s.now < t + 1000000000)
    | none => false
  let s := { s with suspects := if s.suspects.contains agent then s.suspects else s.suspects ++ [agent],
                    timedOut := mapSet s.timedOut agent s.now }
  if again then agentFails s agent else s

/-- SNOOP_TIMEOUT: a snoop unanswered after 32 µs (09 R302). -/
def execSnoopTimeout (l : LineAt) (s : State) : CohRes :=
  let ln := lineOf l.pa
  match getTxn s ln with
  | none => .next s
  | some t =>
    if s.homesOn && t.waiting.contains l.agent then
      let s := poisonLine s ln
      let s := homeGo (setTxn s ln (t.giveUp l.agent)) ln
      .next (suspect s l.agent)
    else .next s

/-- Forme whose counters a caching agent's events enter. DESIGN CHOICE: an L3 serves several formes, and its event
counts for the lowest-numbered one with a core group on its die (notes/assumptions/117.md). -/
def formeOfAgent (s : State) (agent : Nat) : Option Nat :=
  if agent < 6 then formeOfPlaten s agent else formeWith (fun x => x.groups.any (fun g => dieOfGroup g = agent)) s.formes

/-- SUSPECT_PROBE: Lumiz counts the event and probes the agent (09 R303). -/
def execSuspectProbe (agent : Nat) (passes : Bool) (s : State) : CohRes :=
  if s.powered && s.suspects.contains agent then
    let s := countFor s (formeOfAgent s agent) .snoopTimeout 1
    if passes then .next { s with suspects := s.suspects.filter (· ≠ agent) } else .next (agentFails s agent)
  else .next s

/-- STREAM_TIMEOUT: a write stream ends 4 µs after its last continuing write (09 R314). -/
def execStreamTimeout (platen stream : Nat) (s : State) : CohRes :=
  .next { s with streams := mapDel s.streams (streamKey platen stream) }

end Sys2Proof.Machine
end

