-- ==== Sys2Proof/Machine/PowerOps.lean ====
section
/-! DEFINITION. Platen states and limits (16): the time spent in each state and under each limit, wakes, and the triggers
that wake the module. -/

namespace Sys2Proof.Machine

open Sys2Proof

/-- What sets the point, as LIMIT of 16 Table 16.10 codes it; thermal ahead of cap (16 R552). -/
def PlatenPower.limitCode (x : PlatenPower) : Nat :=
  let l := x.limits
  let thermal := if l.forced then 0 else l.thermal
  let input := if l.input then 0 else 18
  let cap := min l.cap l.formeCap
  let m := min (min thermal cap) (min input l.fast)
  if l.droop ∧ x.step < m then 5
  else if m = 18 then 0
  else if thermal = m then 2
  else if cap = m then 1
  else if input = m then 3
  else 4

/-- Lowest of the limits in force (16 R552). -/
def Limits.ceiling (l : Limits) : Nat :=
  min (min (if l.forced then 0 else l.thermal) (min l.cap l.formeCap)) (min (if l.input then 0 else 18) l.fast)

/-- The state whose residence counter runs: entering S2 or S3 counts in the state being left, a wake in the state it
leaves (16 Table 16.9). -/
def PowerState.counted : PowerState → Ctr
  | .s0 => .resS0
  | .s1 => .resS1
  | .s2 => .resS2
  | .s3 => .resS3
  | .entering f _ => if f = 0 then .resS0 else if f = 1 then .resS1 else if f = 2 then .resS2 else .resS3
  | .waking f => if f = 1 then .resS1 else if f = 2 then .resS2 else .resS3

/-- Adds the time since the last change to the counters of the forme that holds the Platen. -/
def account (s : State) (p : Nat) : State :=
  let x := getPlaten s p
  let dt := s.now - x.since
  let f := formeOfPlaten s p
  let s := countFor s f x.state.counted dt
  let s := if x.limitCode = 1 then countFor s f .capLimitedNs dt
    else if x.limitCode = 2 then countFor s f .thermalLimitedNs dt else s
  modPlaten s p (fun y => { y with since := s.now })

/-- A change of a Platen's power, after the time up to now has been added up. -/
def setPower (s : State) (p : Nat) (f : PlatenPower → PlatenPower) : State := modPlaten (account s p) p f

/-- STATE of 16 Table 16.10. -/
def PowerState.code : PowerState → Nat
  | .s0 => 0
  | .s1 => 1
  | .s2 => 2
  | .s3 => 3
  | .entering _ _ => 0xE
  | .waking f => f

/-- How deep a state is; entering counts as the state entered, and a wake leaves its state at its end (R540). -/
def PowerState.depth : PowerState → Nat
  | .s0 => 0
  | .s1 => 1
  | .s2 => 2
  | .s3 => 3
  | .entering _ t => t
  | .waking f => f

/-- A seal, an aperture request, a sideband request that needs memory or a launch wakes the module (16 R544). -/
def wakeModule (s : State) : State := if s.moduleIdle then { s with waking := true } else s

/-- A Platen is asked to wake to S0 (16 R536, R537, R558). -/
def wakePlaten (s : State) (p : Nat) : State :=
  let s := wakeModule s
  let f := formeOfPlaten s p
  match (getPlaten s p).state with
  | .s0 => s
  | .waking _ => s
  | .entering _ _ => setPower s p (fun x => { x with wakeAsked := true })
  | .s1 => countFor (setPower s p (fun x => { x with state := .waking 1 })) f .wakesS1 1
  | .s2 => countFor (setPower s p (fun x => { x with state := .waking 2 })) f .wakesS2 1
  | .s3 => countFor (setPower s p (fun x => { x with state := .waking 3 })) f .wakesS3 1

end Sys2Proof.Machine
end

