-- ==== Sys2Proof/Machine/Flags.lean ====
section
/-! DEFINITION. Statuses of mailbox commands (12 Table 12.8), the FLAGS of a statistics record (05 Table 5.2), and the
records of a pass as bytes (05 Table 5.1, 06 Table 6.12). -/

namespace Sys2Proof.Machine

open Sys2Proof

/-! ## Statuses (12 Table 12.8) -/

def stOk : Nat := 0x0000
def stOkEmpty : Nat := 0x0001
def stOkWidened : Nat := 0x0002
def stOkOverflow : Nat := 0x0003
def stOkReused : Nat := 0x0004
def stBadOpcode : Nat := 0x0100
def stBadReserved : Nat := 0x0101
def stBadField : Nat := 0x0102
def stBadLength : Nat := 0x0103
def stBadSeq : Nat := 0x0104
def stBadAfter : Nat := 0x0105
def stAfterFailed : Nat := 0x0106
def stNotPermitted : Nat := 0x0107
def stNoForme : Nat := 0x0108
def stResourceBusy : Nat := 0x0109
def stNotOwned : Nat := 0x010A
def stOverlap : Nat := 0x010B
def stTableFull : Nat := 0x010C
def stNotMapped : Nat := 0x010D
def stPlateOwned : Nat := 0x010E
def stPlateSealed : Nat := 0x010F
def stNoPlate : Nat := 0x0110
def stNoPass : Nat := 0x0111
def stNoSpace : Nat := 0x0112
def stBadOccupancy : Nat := 0x0113
def stSigFail : Nat := 0x0114
def stHostNotArmed : Nat := 0x0115
def stJournalFull : Nat := 0x0116
def stTranslationFault : Nat := 0x0200
def stPoisoned : Nat := 0x0201
def stHostError : Nat := 0x0202
def stTorn : Nat := 0x0203
def stMeshError : Nat := 0x0204
def stStickFault : Nat := 0x0205
def stAborted : Nat := 0x0206

/-! ## Statistics records -/

/-- FLAGS (05 Table 5.2). -/
def StatRec.flags (r : StatRec) : Nat :=
  packFields [(1, boolBit r.stats.amax.isSome), (1, boolBit r.staged), (1, boolBit r.committed),
    (1, boolBit r.discarded), (1, boolBit r.nd5), (1, boolBit r.limitHit), (10, 0)]

def StatRec.amaxExp (r : StatRec) : Int :=
  match r.stats.amax with
  | some a => a.1
  | none => 0

def StatRec.amaxSig (r : StatRec) : Nat :=
  match r.stats.amax with
  | some a => a.2
  | none => 0

/-- The 384 bytes of a statistics record (05 Table 5.1). -/
def StatRec.pack (r : StatRec) : List Byte :=
  toBytes 384 (packFields
    ([(32, r.passSeq), (8, r.binding), (8, r.attempt), (8, r.type), (8, unsigned 8 r.shift), (16, unsigned 16 r.histTop),
      (16, unsigned 16 r.amaxExp), (16, r.amaxSig), (16, r.flags), (64, r.tStart), (64, r.tEnd),
      (64, r.stats.elements), (64, r.stats.ovf), (64, r.stats.inf), (64, r.stats.nan), (64, r.stats.subn),
      (64, r.stats.rtz), (64, r.stats.inexact), (64, r.stats.zero), (256, 0)] ++
     (List.range 32).map (fun b => (64, mapGetD r.stats.hist 0 b))))

/-- The 32 bytes of a stick fault record (06 Table 6.12). -/
def StickFault.pack (r : StickFault) : List Byte :=
  toBytes 32 (packFields
    [(32, r.detail), (8, r.galley), (8, r.platen), (8, r.attempt), (8, r.slug), (8, r.code), (32, r.pc), (56, r.addr),
     (32, r.lanes), (32, r.stick), (32, r.passSeq)])

end Sys2Proof.Machine
end

