-- ==== Sys2Proof/Machine/Slots.lean ====
section
/-! DEFINITION. What every mailbox command shares (12): mailboxes and slots, who issues a command, reserved bits, the end
of a command, and the memory that Lumiz reads for one. -/

namespace Sys2Proof.Machine

open Sys2Proof

/-! ## Mailboxes and slots -/

def getMbox (s : State) : MboxId → Mailbox
  | .host p => (getPort s p).mbox
  | .core f => match getForme s f with
    | some x => x.coreMbox
    | none => Mailbox.reset

def modMbox (s : State) (mb : MboxId) (g : Mailbox → Mailbox) : State :=
  match mb with
  | .host p => modPort s p (fun x => { x with mbox := g x.mbox })
  | .core f => modForme s f (fun x => { x with coreMbox := g x.coreMbox })

/-- The forme a mailbox commands for: the one its port is attached to, or its own. -/
def formeOfMbox (s : State) : MboxId → Option Nat
  | .host p => formeOfPort s p
  | .core f => (getForme s f).map (fun _ => f)

/-- Every mailbox, the host ports first (12 R394). -/
def allMboxes (s : State) : List MboxId := (List.range 4).map .host ++ s.formes.map (fun kv => .core kv.1)

/-- MBOX of 12 Table 12.7, as quotes and AFTER entries code it. -/
def mboxCode : MboxId → Nat
  | .host p => p
  | .core _ => 4

def Mailbox.slotAt (m : Mailbox) (k : Nat) : Slot := mapGetD m.slots Slot.reset k

def getSlot (s : State) (mb : MboxId) (k : Nat) : Slot := (getMbox s mb).slotAt k

def modSlot (s : State) (mb : MboxId) (k : Nat) (f : Slot → Slot) : State :=
  modMbox s mb (fun m => { m with slots := mapUpd m.slots Slot.reset k f })

/-- A slot that Lumiz owns (12 R390). -/
def Slot.owned (x : Slot) : Bool := x.phase != .free

/-- The owned slots of a mailbox. -/
def Mailbox.ownedSlots (m : Mailbox) : List Nat := (List.range 64).filter (fun k => (m.slotAt k).owned)

/-- SLOT_OWNED and SLOT_DONE of 12 Table 12.20. -/
def Mailbox.ownedMask (m : Mailbox) : Nat := maskOf m.ownedSlots
def Mailbox.doneMask (m : Mailbox) : Nat := maskOf ((List.range 64).filter (fun k => (m.slotAt k).done))

/-- An administrative port (12 R399). -/
def isAdmin (s : State) : MboxId → Bool
  | .host p => bit s.config.admin p
  | .core _ => false

/-- ORIGIN, PORT, FORME and SLOT of a journal entry of a command (15 Table 15.10). -/
def originOf (s : State) (mb : MboxId) (k : Nat) : JOrigin :=
  match mb with
  | .host p =>
    { origin := 1, port := p, forme := (formeOfMbox s mb).getD 0, formeV := (formeOfMbox s mb).isSome, slot := k }
  | .core f => { origin := 2, port := 0, forme := f, formeV := true, slot := k }

/-! ## Running and ending a command -/

/-- The command ends; SLOT_COMPLETE writes its completion. -/
def finish (s : State) (mb : MboxId) (k st detail result : Nat) : State :=
  modSlot s mb k (fun x => { x with phase := .finished, status := st, detail := detail, result := result })

/-- The command ends at a check. -/
def reject (s : State) (mb : MboxId) (k st detail : Nat) : State := finish s mb k st detail 0

/-- The command runs on, waiting for `w`. -/
def runOn (s : State) (mb : MboxId) (k w : Nat) : State :=
  modSlot s mb k (fun x => { x with phase := .running, waitId := w, pastStep8 := true })

/-- The command in a slot waits in an open fault record. -/
def slotHeld (s : State) (mb : MboxId) (k : Nat) : Bool :=
  match (formeOfMbox s mb).bind (getForme s) with
  | none => false
  | some f => f.faults.any (fun r => r.state == .opened && r.waiters.any (fun w => w.1 == .copy mb k))

/-- The fields of the command of a slot that has started and not ended, for a command with this opcode that may go on now; a
module in idle wakes first (12 R426). -/
def runsCmd (s : State) (mb : MboxId) (k opc : Nat) : Option Nat :=
  let m := getMbox s mb
  if s.up && !s.moduleIdle && (m.slotAt k).phase == .running && slotOpcode m k == opc && !slotHeld s mb k then some (slotCmd m k)
  else none

/-! ## Checks -/

/-- Byte offset in the slot of a command bit (12 Table 12.4 DETAIL). -/
def fieldOff (b : Nat) : Nat := 0x80 + b / 8

/-- What is left of the command fields when the named ones are taken out. -/
def unnamed (fields : List (Nat × Nat)) (c : Nat) : Nat :=
  fields.foldl (fun x f => x - bits x f.1 f.2 * 2 ^ f.2) c

/-- Lowest bit of the reserved field that holds a bit: the one above the next lower named field. -/
def reservedStart (fields : List (Nat × Nat)) (b : Nat) : Nat :=
  fields.foldl (fun m f => if f.1 < b then max m (f.1 + 1) else m) 0

/-- Slot offset of the first reserved field that is nonzero (12 R389, Table 12.4); `fields` are the (high, low) bits of
the command's fields. -/
def reservedAt (fields : List (Nat × Nat)) (c : Nat) : Option Nat :=
  let x := unnamed fields c
  if x = 0 then none else ((List.range 1984).find? (bit x)).map (fun b => fieldOff (reservedStart fields b))

/-- The first check of a list that fails: condition, status, detail. -/
def firstBad : List (Bool × Nat × Nat) → Option (Nat × Nat)
  | [] => none
  | (b, st, d) :: r => if b then some (st, d) else firstBad r

/-- Checks in order; the command goes on when none fails. -/
def checked (s : State) (mb : MboxId) (k : Nat) (cs : List (Bool × Nat × Nat)) (go : State) : State :=
  match firstBad cs with
  | some (st, d) => reject s mb k st d
  | none => go

/-- The check of the reserved bits, as an entry of a list of checks. -/
def reservedCheck (fields : List (Nat × Nat)) (c : Nat) : Bool × Nat × Nat :=
  match reservedAt fields c with
  | some o => (true, stBadReserved, o)
  | none => (false, stBadReserved, 0)

/-- A VA field has bits 63:56 zero (12 R405); `lo` is its lowest command bit. -/
def vaCheck (c lo : Nat) : Bool × Nat × Nat := (bits c (lo + 63) (lo + 56) != 0, stBadField, fieldOff lo)

/-- The journal refuses the change (15 R529); the last check. -/
def journalCheck (s : State) : Bool × Nat × Nat := (s.journal.full, stJournalFull, 0)

/-! ## Memory that a command names (12 R409, R412, 08 R261) -/

/-- How a cacheless transfer goes: its agent, the receive buffer of its Compositor that takes what it reads (01 R47), and
whether what it writes is zeros that are not sent (09 R312). -/
structure Via where
  agent : Nat
  unit : Nat
  zero : Bool
deriving DecidableEq, Repr

/-- The cacheless agent of a die: the I/O agent of a Compositor, or the copy engine in a home island (09 R283, R286). -/
def agentOfDie (die : Nat) : Nat := if die = 6 ∨ die = 7 then die + 2 else 10 + die

/-- Receive buffers at a Compositor: its cores, its host ports, its mesh ports. -/
def coresUnit : Nat := 0
def portUnit (port : Nat) : Nat := 1 + port
def meshUnit (port : Nat) : Nat := 8 + port

/-- Lumiz on the control cores, taken to read through Compositor A (notes/assumptions/61.md). -/
def lumizVia : Via := { agent := 8, unit := coresUnit, zero := false }

/-- A host port's transfers. -/
def portVia (port : Nat) : Via := { agent := if port < 2 then 8 else 9, unit := portUnit port, zero := false }

/-- Reads bytes of a forme for Lumiz, as a mailbox fetch in the priority class (08 R261); none where a byte cannot be
read (no valid entry, a staging entry, a poisoned sector), with the offset of the first such piece. -/
def peekSpans (f : Nat) : List (Nat × Nat) → State → State × (Nat × List Byte × Bool)
  | [], s => (s, (0, [], true))
  | (va, n) :: rest, s =>
    let e := (getForme s f).bind (fun x => entryAt x va)
    match e with
    | none => (s, (0, [], false))
    | some e =>
      if e.state != .valid || e.kind == .staging then (s, (0, [], false))
      else
        let pa := e.paStart + (va - e.vaStart)
        let r := readOnce s lumizVia.agent lumizVia.unit (lineOf pa) true
        let off := pa % 128
        if r.2.poisonAt off || r.2.poisonAt (off + n - 1) || r.2.absent then (r.1, (0, [], false))
        else
          let q := peekSpans f rest r.1
          (q.1, (n + q.2.1, r.2.slice off n ++ q.2.2.1, q.2.2.2))

/-- The bytes and whether all of them could be read; the count is the offset of the first that could not. -/
def peekVa (s : State) (f va len : Nat) : State × (Nat × List Byte × Bool) := peekSpans f (lineSpans va len) s

end Sys2Proof.Machine
end

