-- ==== Sys2Proof/Machine/Passes.lean ====
section
/-! DEFINITION. Passes (05, 06 R181 to R183, R224): the binding tables of an attempt, its end, reruns, the commit swap, and
the history and holds that a completed pass leaves. -/

namespace Sys2Proof.Machine

open Sys2Proof

abbrev PassRes := Host.Outcome State Fault Refusal

/-! ## Types and shifts (05 R146, R147, R163, R164) -/

/-- The next rung of a type byte (05 Table 5.6). -/
def nextRung (t : Nat) : Option Nat :=
  match t with
  | 0x01 => some 0x02
  | 0x02 => some 0x03
  | 0x03 => some 0x09
  | 0x04 => some 0x09
  | 0x05 => some 0x06
  | 0x06 => some 0x07
  | 0x07 => some 0x09
  | 0x08 => some 0x09
  | 0x09 => some 0x0B
  | 0x0A => some 0x0B
  | _ => none

/-- The rungs of a type, lowest first, up to `n` raises. -/
def rungsFrom : Nat → Nat → List Nat
  | 0, t => [t]
  | n + 1, t =>
    match nextRung t with
    | some u => t :: rungsFrom n u
    | none => [t]

def OutBinding.ladder (b : OutBinding) : List Nat := rungsFrom b.rungs b.type

def OutBinding.topRung (b : OutBinding) : Nat := b.ladder.getLastD b.type

/-- Top exponent of an adaptive target (05 Table 5.3); none for a type that does not adapt. -/
def adaptiveTop (t : Nat) : Option Int :=
  match t with
  | 0x01 => some 1
  | 0x02 => some 3
  | 0x03 => some 7
  | 0x04 => some 15
  | 0x0A => some 15
  | _ => none

def maxInt : List Int → Option Int
  | [] => none
  | x :: r => match maxInt r with
    | none => some x
    | some y => some (max x y)

/-- Exponents of the valid entries among the last DEPTH of the history (05 R147). -/
def recentExps (b : OutBinding) (p : Policy) : List Int :=
  (b.history.take p.depth).filterMap (fun h => if h.valid then some h.amaxExp else none)

/-- Shift and histogram top of an attempt on a target type, after the pass's finished attempts (05 R147). The top of a
binding that is not adaptive stays the plate's while its history holds no valid entry. -/
def launchShift (b : OutBinding) (p : Policy) (target : Nat) (done : List Int) : Int × Int :=
  let past := recentExps b p
  let top (m : Int) : Int := m + p.margin + 1
  let fixed : Int × Int :=
    (if target = b.type then b.s0 else 0,
      match maxInt past with
      | some _ => ((maxInt (past ++ done)).map top).getD b.histTop
      | none => b.histTop)
  match adaptiveTop target with
  | some e =>
    if p.adapt then
      match maxInt (past ++ done) with
      | some m => (max (-63) (min 63 (e - p.margin - m)), top m)
      | none => (b.s0, b.histTop)
    else fixed
  | none => fixed

/-- Type on which a pass starts: the held rung, or the declared type (05 R168). -/
def OutBinding.startType (b : OutBinding) : Nat := if b.holdLeft > 0 then b.holdType else b.type

def OutBinding.now (b : OutBinding) : OutNow :=
  let sh := launchShift b b.policy b.startType []
  { type := b.startType, shift := sh.1, histTop := sh.2, raises := 0, policy := b.policy }

def Plate.layerNum (p : Plate) (n : Nat) : Option Layer := p.layers.find? (fun l => l.num = n)

def Plate.binding (p : Plate) (lb : Nat × Nat) : Option OutBinding := (p.layerNum lb.1).bind (fun l => l.outs[lb.2]?)

/-- Current type and operand offset of an input binding (05 R136). -/
def inputNow (p : Plate) (i : InBinding) : InNow :=
  match i.producer.bind p.binding with
  | none => { type := i.type, u := 0 }
  | some b =>
    let ts := b.committed.getD (b.type, b.s0)
    { type := ts.1, u := if typeIsInt ts.1 then 0 else -ts.2 }

/-! ## Parts (06 R182) -/

/-- Divides n sticks over the Platens, the first n mod P taking one more. -/
def partsFrom (n count : Nat) : List Nat → Nat → Nat → List Part
  | [], _, _ => []
  | p :: ps, i, at_ =>
    let k := n / count + (if i < n % count then 1 else 0)
    { platen := p, first := at_, next := at_, stop := at_ + k, turn := 0, placing := true } :: partsFrom n count ps (i + 1) (at_ + k)

def dividePass (platens : List Nat) (n : Nat) : List Part := partsFrom n platens.length platens 0 0

/-! ## The end of an attempt (05 R165, 06 R224) -/

/-- Galleys of a forme's Platens. -/
def formeGalleys (s : State) (f : Forme) : List Nat :=
  (s.galleys.map (·.1)).filter (fun k => f.platens.contains (k / 64))

/-- Counts of a pass under a tag, merged over the galleys (05 R143). -/
def mergedStats (s : State) (f : Forme) (seq tag : Nat) : Stats :=
  (formeGalleys s f).foldl (fun a k =>
    match mapGet (mapGetD s.galleys Galley.reset k).proof (seq * 32 + tag) with
    | some st => a.merge st
    | none => a) statsZero

/-- The counts of a pass are taken out of the galleys. -/
def clearProof (s : State) (seq : Nat) : State :=
  { s with galleys := s.galleys.map (fun kv => (kv.1, { kv.2 with proof := kv.2.proof.filter (fun e => e.1 / 32 ≠ seq) })) }

/-- The record of an output binding, or with `tag` 31 the scratch record. -/
def attemptRecord (q : Pass) (tag : Nat) (o : Option OutNow) (st : Stats) : StatRec :=
  { passSeq := q.seq, binding := tag, attempt := q.attempt,
    type := match o with
      | some o => o.type
      | none => Config.scratchType q.seq % 256,
    shift := match o with
      | some o => o.shift
      | none => Config.scratchShift q.seq,
    histTop := match o with
      | some o => o.histTop
      | none => Config.scratchTop q.seq,
    limitHit := false, nd5 := q.nd5, discarded := false, committed := false,
    staged := match o with
      | some o => o.policy.proofed
      | none => false,
    tStart := q.tStart, tEnd := q.tEnd, stats := st }

/-- The records of the attempt, by binding, the scratch record last. -/
def attemptRecords (s : State) (f : Forme) (q : Pass) : List StatRec :=
  ((List.range q.outs.length).map (fun b => attemptRecord q b q.outs[b]? (mergedStats s f q.seq b))) ++
    [attemptRecord q 31 none (mergedStats s f q.seq 31)]

/-- Records of the present attempt. -/
def Pass.current (q : Pass) : List StatRec := q.records.filter (fun r => r.attempt = q.attempt)

def Pass.recordOf (q : Pass) (b : Nat) : Option StatRec := q.current.find? (fun r => r.binding = b)

/-- A proofed binding whose OVF exceeds its threshold (05 Table 5.7 step 2). -/
def Pass.isOver (q : Pass) (b : Nat) : Bool :=
  match q.outs[b]?, q.recordOf b with
  | some o, some r => o.policy.proofed && decide (r.stats.ovf > o.policy.ovfThresh)
  | _, _ => false

/-- An over binding with a raise and a rung left, in a pass that has run fewer than three attempts (05 R165). -/
def Pass.canRaise (q : Pass) (l : Layer) (b : Nat) : Bool :=
  match q.outs[b]?, l.outs[b]? with
  | some o, some d => q.isOver b && decide (q.attempt < 2) && decide (o.raises < o.policy.rerunLimit) && o.type != d.topRung
  | _, _ => false

/-- Exponents of the attempts of this pass already finished, for a binding. -/
def Pass.doneExps (q : Pass) (b : Nat) : List Int :=
  q.records.filterMap (fun r => if r.binding = b then r.stats.amax.map (·.1) else none)

/-- Marks the records of the present attempt that satisfy a test. -/
def Pass.mark (q : Pass) (test : StatRec → Bool) (f : StatRec → StatRec) : Pass :=
  { q with records := q.records.map (fun r => if r.attempt = q.attempt ∧ test r then f r else r) }

def isOutput (r : StatRec) : Bool := r.binding != 31

/-- The next attempt: over bindings that can be raised take their next rung, shifts follow 05 R147, the input bindings are
written again (05 R136), and every stick runs again. -/
def Pass.rerun (q : Pass) (p : Plate) (l : Layer) : Pass :=
  let q := q.mark isOutput (fun r => { r with discarded := true })
  let outs := (List.range q.outs.length).filterMap (fun b =>
    match q.outs[b]?, l.outs[b]? with
    | some o, some d =>
      let raise := q.canRaise l b
      let t := if raise then (nextRung o.type).getD o.type else o.type
      let sh := launchShift d o.policy t (q.doneExps b)
      some { o with type := t, shift := sh.1, histTop := sh.2, raises := o.raises + (if raise then 1 else 0) }
    | _, _ => none)
  { q with attempt := q.attempt + 1, outs := outs, ins := l.ins.map (inputNow p),
           parts := q.parts.map (fun x => { x with next := x.first, turn := 0, placing := true }) }

/-- The L1 of every galley of the forme is invalidated at the start of an attempt (09 R332). -/
def clearL1s (s : State) (f : Forme) : State :=
  { s with galleys := s.galleys.map (fun kv =>
      (kv.1, if f.platens.contains (kv.1 / 64) then { kv.2 with l1 := [] } else kv.2)) }

/-- Range identifiers of the visible and staging entries of a binding. -/
def bindingIds (f : Forme) (b : OutBinding) : List Nat :=
  (f.ranges.filter (fun e => (e.kind = .visible ∧ e.vaStart = b.visVa) ∨
    (e.kind = .staging ∧ e.vaStart = b.stgVa))).map (·.id)

def proofedBindings (q : Pass) (l : Layer) : List OutBinding :=
  (List.range q.outs.length).filterMap (fun b =>
    match q.outs[b]?, l.outs[b]? with
    | some o, some d => if o.policy.proofed then some d else none
    | _, _ => none)

/-! ## The end of a pass -/

/-- Attempts that have left records. -/
def Pass.attempts (q : Pass) : Nat :=
  match q.records.getLast? with
  | some r => r.attempt + 1
  | none => 0

/-- Result area of PASS_LAUNCH (12 Table 12.15). -/
def Pass.result (q : Pass) : Nat :=
  packFields [(32, q.seq), (8, q.attempts), (16, q.overMask), (8, 0), (32, q.faultCount), (32, 0),
    (64, q.tStartFirst), (64, q.tEnd)]

/-- The pass has ended with a status, and so does its command, if it still waits for it. -/
def endPass (s : State) (q : Pass) (st : Nat) : State :=
  let s := modPass s q.forme q.seq (fun _ => { q with phase := .ended, status := st })
  let x := getSlot s q.mb q.slot
  if x.phase == .running && x.waitId == q.seq && slotOpcode (getMbox s q.mb) q.slot == 0x50 then
    finish s q.mb q.slot st 0 q.result
  else s

/-- The history entry of a completed pass: the largest AMAX_EXP of its attempts (05 R167). -/
def Pass.histEntry (q : Pass) (b : Nat) : HistEntry :=
  match maxInt (q.doneExps b) with
  | some m => { valid := true, amaxExp := m }
  | none => { valid := false, amaxExp := 0 }

/-- The binding after a pass has committed: history, hold, and the committed type and shift (05 R136, R167, R168). -/
def commitBinding (q : Pass) (b : Nat) (o : OutNow) (d : OutBinding) : OutBinding :=
  let d := if q.noHist.contains b then d else { d with history := (q.histEntry b :: d.history).take 16 }
  let d := { d with committed := some (o.type, o.shift) }
  if o.raises > 0 then { d with holdType := o.type, holdLeft := o.policy.hold }
  else if d.holdLeft > 0 ∧ o.type = d.holdType then { d with holdLeft := d.holdLeft - 1 }
  else d

def modLayer (s : State) (f n : Nat) (g : Layer → Layer) : State :=
  modForme s f (fun x => { x with plate := x.plate.map (fun p =>
    { p with layers := p.layers.map (fun l => if l.num = n then g l else l) }) })

/-- OK, OK_WIDENED or OK_OVERFLOW (05 R166). -/
def Pass.commitStatus (q : Pass) : Nat :=
  if q.overMask ≠ 0 then stOkOverflow else if q.attempt > 0 then stOkWidened else stOk

/-- The records of a committed attempt, with LIMIT_HIT on the bindings still over (05 Tables 5.2 and 5.7 step 6). -/
def Pass.committing (q : Pass) : Pass :=
  let overIt := (List.range q.outs.length).filter q.isOver
  let q := q.mark isOutput (fun r => { r with committed := true, limitHit := overIt.contains r.binding })
  { q with overMask := maskOf overIt }

/-- The pass has committed, its swap made: its records say so, every output binding enters history, and the pass ends. -/
def completePass (s : State) (q : Pass) : State :=
  let q := q.committing
  let s := modLayer s q.forme q.layer (fun l =>
    { l with outs := (List.range l.outs.length).filterMap (fun b =>
      match q.outs[b]?, l.outs[b]? with
      | some o, some d => some (commitBinding q b o d)
      | none, some d => some d
      | _, none => none) })
  endPass s q q.commitStatus

/-- Commit (05 R157): the swap of every proofed binding starts; without one the pass is complete. -/
def commitPass (s : State) (f : Forme) (l : Layer) (q : Pass) : State :=
  match proofedBindings q l with
  | [] => completePass s q
  | bs =>
    let q := { q with phase := .swapping }
    let s := modPass s q.forme q.seq (fun _ => q)
    startInval s q.forme (bs.flatMap (bindingIds f)) .swapping (.swap q.seq)

/-- No stick of the attempt is left. -/
def attemptOver (s : State) (q : Pass) : Bool :=
  q.phase == .running && q.parts.all (fun x => x.next == x.stop) &&
    s.galleys.all (fun kv => kv.2.sticks.all (fun t => t.2.forme != q.forme || t.2.passSeq != q.seq))

/-- ATTEMPT_END: the records are merged, and Lumiz commits, reruns or reports the fault. -/
def execAttemptEnd (forme seq : Nat) (s : State) : PassRes :=
  match getForme s forme, getPass s forme seq with
  | some f, some q =>
    if !s.up || !attemptOver s q then .next s
    else
      let q := { q with records := q.records ++ attemptRecords s f q }
      let s := clearProof s seq
      if q.faults.any (fun r => r.attempt = q.attempt) then
        let q := q.mark (fun r => r.staged) (fun r => { r with discarded := true })
        .next (endPass s q stStickFault)
      else
        match f.plate.bind (fun p => (p.layerNum q.layer).map (fun l => (p, l))) with
        | none => .next (endPass s q stAborted)
        | some (p, l) =>
          if (List.range q.outs.length).any (q.canRaise l) then
            .next (modPass (clearL1s s f) forme seq (fun _ => q.rerun p l))
          else .next (commitPass s f l q)
  | _, _ => .next s

/-! ## The swap (05 R157, 10 R343) -/

/-- The entry an exchange pairs with: visible with staging of one binding. -/
def swapPartner (f : Forme) (bs : List OutBinding) (e : RangeEntry) : Option RangeEntry :=
  let pair := bs.find? (fun b => (e.kind = .visible ∧ e.vaStart = b.visVa) ∨ (e.kind = .staging ∧ e.vaStart = b.stgVa))
  pair.bind (fun b => f.ranges.find? (fun x =>
    if e.kind = .visible then x.kind = .staging ∧ x.vaStart = b.stgVa else x.kind = .visible ∧ x.vaStart = b.visVa))

/-- PA_PAGE of the visible and staging entries are exchanged and the entries are valid again. -/
def swapEntries (s : State) (fid : Nat) (bs : List OutBinding) (ids : List Nat) : State :=
  match getForme s fid with
  | none => s
  | some f =>
    modRanges s fid (fun es => es.map (fun e =>
      if ids.contains e.id then
        match swapPartner f bs e with
        | some o => { e with paPage := o.paPage, state := .valid, passSeq := 0, mapTime := s.now }
        | none => { e with state := .valid, passSeq := 0, mapTime := s.now }
      else e))

/-- The physical extents of a proofed binding change places. -/
def OutBinding.swapped (b : OutBinding) : OutBinding := { b with visPa := b.stgPa, stgPa := b.visPa }

/-- SWAP_COMPLETE: once every die has acknowledged, the buffers are exchanged, SWAP faults are resolved and the pass is
complete. -/
def execSwapComplete (forme seq : Nat) (s : State) : PassRes :=
  match s.invals.find? (fun i => i.forme = forme ∧ i.purpose = .swap seq), getForme s forme, getPass s forme seq with
  | some i, some f, some q =>
    if !s.up || !i.toAck.isEmpty || q.phase != .swapping then .next s
    else
      match f.plate.bind (fun p => p.layerNum q.layer) with
      | none => .next s
      | some l =>
        let s := swapEntries s forme (proofedBindings q l) i.ids
        let s := { s with invals := s.invals.filter (fun j => j.id ≠ i.id) }
        let s := modLayer s forme q.layer (fun l =>
          { l with outs := (List.range l.outs.length).filterMap (fun b =>
            match q.outs[b]?, l.outs[b]? with
            | some o, some d => some (if o.policy.proofed then d.swapped else d)
            | none, some d => some d
            | _, none => none) })
        let s := resolveEntries s forme i.ids
        .next (completePass (finishStops s forme) q)
  | _, _, _ => .next s

end Sys2Proof.Machine
end

