-- ==== Sys2Proof/Machine/Mailbox.lean ====
section
/-! DEFINITION. The mailbox (12): writes into slots and registers, seals, taking a slot with the checks of 12 Table 12.6,
AFTER lists, start holds, and completion. -/

namespace Sys2Proof.Machine

open Sys2Proof

abbrev MbRes := Host.Outcome State Fault Refusal

/-! ## Writes (12 R387 to R392, 13 R444) -/

/-- Bit of an event in the Uncorrectable Error Status register of AER, as PCI Express numbers it. -/
def AerEvent.uncorr : AerEvent → Nat
  | .poisonedTlp => 12
  | .completionTimeout => 14
  | .completerAbort => 15
  | .malformedTlp => 18
  | _ => 20

/-- Bits of Device Status that an event sets: a detected correctable, non-fatal or fatal error, an unsupported request. -/
def AerEvent.devSta : AerEvent → Nat
  | .unsupportedAdvisory => 9
  | .unsupportedRequest => 10
  | .malformedTlp => 4
  | _ => 2

/-- The status registers after an event: an advisory non-fatal error is a correctable one too (notes/assumptions/126.md). -/
def CfgRegs.noteAer (x : CfgRegs) (e : AerEvent) : CfgRegs :=
  { x with uncorr := setBit x.uncorr e.uncorr, devSta := Nat.lor x.devSta e.devSta,
           corr := if e = .unsupportedAdvisory then setBit x.corr 13 else x.corr }

/-- The port logs an event with its request (13 R445). -/
def logAer (s : State) (p : Nat) (e : AerEvent) (i : Instr) : State :=
  modPort s p (fun x => { x with aer := x.aer ++ [(e, i)], cfg := x.cfg.noteAer e })

/-- The requester filter of 13 Table 13.3. -/
def Port.accepts (x : Port) (rid : Nat) : Bool :=
  (bit x.valid 0 && x.rid0 == rid) || (bit x.valid 1 && x.rid1 == rid) || (bit x.valid 2 && x.rid2 == rid)

/-- The link carries requests to the BARs. -/
def Port.open (x : Port) : Bool := x.link == .l0 && x.memSpace

/-- A write into a mailbox block: stored, or dropped and counted; a seal makes the slot owned and wakes the module
(12 R388, R390, R392, 16 R544). -/
def storeSlot (s : State) (mb : MboxId) (off : Nat) (data : List Byte) : State :=
  let k := off / 512
  let last := (off + data.length - 1) / 512
  let drop (m : Mailbox) : Mailbox := { m with dropped := satAdd (2 ^ 32 - 1) m.dropped 1 }
  if data.isEmpty || last ≥ 64 then s
  else if last != k || (getSlot s mb k).owned then modMbox s mb drop
  else
    let s := modMbox s mb (fun m => { m with bytes := writeBytes m.bytes off data })
    let top := slotBase k + 0x1FF
    if off ≤ top && top < off + data.length && byteAt (getMbox s mb).bytes top == 0xC5#8 then
      let s := modMbox s mb (fun m => { m with seals := (m.seals + 1) % 2 ^ 32 })
      wakeModule (modSlot s mb k (fun _ => { Slot.reset with phase := .sealed, tSeal := s.now }))
    else s

/-- Bytes of the register BAR that an MSI-X table write reaches (12 Table 12.1). -/
def storeMsix (x : Port) (off : Nat) (data : List Byte) : Port :=
  { x with msixTable := (List.range data.length).foldl (fun m i =>
      let a := off + i
      if 0xA000 ≤ a ∧ a < 0xA400 then setByte m (a - 0xA000) (data.getD i 0) else m) x.msixTable }

/-- The requester filter as a register (13 Table 13.3). -/
def Port.setFilter (x : Port) (v : Nat) : Port :=
  { x with rid2 := bits v 63 48, rid1 := bits v 47 32, rid0 := bits v 31 16, valid := bits v 2 0 }

/-- What a read of the requester filter returns. -/
def Port.filter (x : Port) : Nat := packFields [(3, x.valid), (13, 0), (16, x.rid0), (16, x.rid1), (16, x.rid2)]

/-! ## Checks of a taken slot (12 Table 12.6) -/

/-- Opcodes of 12 Table 12.9. -/
def knownOpcode (o : Nat) : Bool :=
  [0x01, 0x02, 0x10, 0x11, 0x20, 0x21, 0x30, 0x31, 0x32, 0x40, 0x41, 0x50, 0x51, 0x52, 0x60, 0x61, 0x70, 0x71, 0x80,
   0x81, 0x90, 0xA0].contains o

/-- Place of a slot in the order of 12 R394. -/
def takeKey (s : State) (mb : MboxId) (k : Nat) : Nat × Nat × Nat :=
  ((getSlot s mb k).tSeal, (match mb with
    | .host p => p
    | .core f => 4 + f), k)

def keyLt (a b : Nat × Nat × Nat) : Bool :=
  decide (a.1 < b.1) || (a.1 == b.1 && (decide (a.2.1 < b.2.1) || (a.2.1 == b.2.1 && decide (a.2.2 < b.2.2))))

/-- Every owned slot of the module. -/
def ownedSlots (s : State) : List (MboxId × Nat) :=
  (allMboxes s).flatMap (fun mb => (getMbox s mb).ownedSlots.map (fun k => (mb, k)))

def firstOf (s : State) : List (MboxId × Nat) → Option (MboxId × Nat)
  | [] => none
  | x :: r =>
    match firstOf s r with
    | none => some x
    | some y => if keyLt (takeKey s x.1 x.2) (takeKey s y.1 y.2) then some x else some y

/-- The sealed slot that Lumiz takes next. -/
def nextSealed (s : State) : Option (MboxId × Nat) :=
  firstOf s ((ownedSlots s).filter (fun x => (getSlot s x.1 x.2).phase == .sealed))

/-- Slots of a mailbox sealed before a slot and still owned. -/
def earlierOwned (s : State) (mb : MboxId) (k : Nat) (of_ : MboxId) : List Nat :=
  (getMbox s of_).ownedSlots.filter (fun j => keyLt (takeKey s of_ j) (takeKey s mb k))

/-- SEQ is zero, or another owned slot of the mailbox or a completion of its history has it (12 R401). -/
def seqBad (s : State) (mb : MboxId) (k : Nat) : Bool :=
  let m := getMbox s mb
  let q := slotSeq m k
  q == 0 || m.ownedSlots.any (fun j => j != k && slotSeq m j == q) || m.history.any (fun h => h.1 == q)

/-- VECTOR names no valid target (12 Table 12.3). -/
def vectorBad (mb : MboxId) (h : Nat) : Bool :=
  match mb with
  | .host _ => decide (hdrVector h > 63)
  | .core _ => hdrVector h == 0

/-- HART names no valid target (12 Table 12.3). -/
def hartBad (s : State) (mb : MboxId) (h : Nat) : Bool :=
  match mb with
  | .host _ => hdrHart h != 0
  | .core f =>
    match getForme s f with
    | some x => !x.groups.contains (groupOfHart (hdrHart h))
    | none => true

/-- Who may issue an opcode (12 Table 12.9); the forme is checked apart. -/
def mayIssue (s : State) (mb : MboxId) (o c : Nat) : Bool :=
  let host := match mb with
    | .host _ => true
    | .core _ => false
  if o = 0x10 ∨ o = 0x11 then isAdmin s mb
  else if o = 0x71 then host && (!bit c 224 || isAdmin s mb)
  else if o = 0x90 then
    host && (isAdmin s mb || formeOfMbox s mb == none || formeOfMbox s mb == some (bits c 65 64))
  else if o = 0x30 then host || !(bit c 200 || bits c 202 201 == 1)
  else if o = 0xA0 then host
  else if o = 0x61 then !bit c 16 || isAdmin s mb
  else true

/-- The field that a mailbox may not name, where the opcode alone is permitted. -/
def permissionField (o : Nat) : Nat :=
  if o = 0x71 then fieldOff 224 else if o = 0x61 then fieldOff 16 else if o = 0x90 then fieldOff 64
  else if o = 0x30 then fieldOff 200 else 0

/-- Whether an opcode needs an attached forme; an administrative port reads the journal, resets a named forme and sets the
module cap without one. -/
def needsForme (s : State) (mb : MboxId) (o c : Nat) : Bool :=
  if o = 0x01 ∨ o = 0x02 ∨ o = 0x10 ∨ o = 0x11 ∨ o = 0xA0 then false
  else if o = 0x71 ∨ o = 0x90 then !isAdmin s mb
  else if o = 0x61 then !(bit c 16 && isAdmin s mb)
  else true

/-- The mailbox an AFTER entry names (12 Table 12.7), for a command of mailbox `mb`. -/
def afterMbox (s : State) (mb : MboxId) (m : Nat) : Option MboxId :=
  if m < 4 then some (.host m)
  else if m = 4 then (formeOfMbox s mb).map .core
  else none

/-- A mailbox belongs to the issuing command's forme; a port that is attached to none knows itself alone. -/
def sameForme (s : State) (a b : MboxId) : Bool :=
  a == b || ((formeOfMbox s a).isSome && formeOfMbox s a == formeOfMbox s b)

def afterMb (e : Nat) : Nat := bits e 59 56
def afterSeq (e : Nat) : Nat := bits e 55 0
def afterOnOk (e : Nat) : Bool := bit e 63

/-- An AFTER entry names a known command (12 R402). -/
def afterKnown (s : State) (mb : MboxId) (k e : Nat) : Bool :=
  match afterMbox s mb (afterMb e) with
  | none => false
  | some m =>
    sameForme s mb m &&
      ((earlierOwned s mb k m).any (fun j => slotSeq (getMbox s m) j == afterSeq e) ||
        (getMbox s m).history.any (fun h => h.1 == afterSeq e))

/-- Offset of the first AFTER entry that satisfies a test, of those from `lo` below `hi`. -/
def afterWhere (m : Mailbox) (k lo hi : Nat) (test : Nat → Bool) : Option Nat :=
  ((List.range 8).find? (fun j => decide (lo ≤ j) && decide (j < hi) && test (slotAfter m k j))).map
    (fun j => 0x40 + 8 * j)

def firstSome (st : Nat) (o : Option Nat) : Bool × Nat × Nat := (o.isSome, st, o.getD 0)

/-- Offset of the first reserved header field that is nonzero, or of PHASE. -/
def headerReservedAt (h : Nat) : Nat :=
  if bits h 23 21 != 0 then 2 else if bits h 63 39 != 0 then 4 else if bits h 503 128 != 0 then 16 else 63

/-- Steps 1 to 6. -/
def takeChecks (s : State) (mb : MboxId) (k : Nat) : List (Bool × Nat × Nat) :=
  let m := getMbox s mb
  let h := slotHeader m k
  let o := slotOpcode m k
  let c := slotCmd m k
  let n := hdrAfterCnt h
  [(hdrPhase h != 0 || hdrReserved h, stBadReserved, headerReservedAt h),
   firstSome stBadReserved (afterWhere m k n 8 (fun e => e != 0)),
   firstSome stBadReserved (afterWhere m k 0 n (fun e => bits e 62 60 != 0)),
   (seqBad s mb k, stBadSeq, 0x1F8),
   (!knownOpcode o, stBadOpcode, 0),
   (decide (n > 8), stBadField, 2),
   (vectorBad mb h, stBadField, 3),
   (hartBad s mb h, stBadField, 4),
   (!mayIssue s mb o c, stNotPermitted, permissionField o),
   (needsForme s mb o c && (formeOfMbox s mb).isNone, stNoForme, 0),
   firstSome stBadAfter (afterWhere m k 0 n (fun e => !afterKnown s mb k e))]

/-! ## Start holds (05 R158, R161, 12 R412) -/

/-- A VA extent: start and length. -/
abbrev Ext := Nat × Nat

def extMeet (a b : Ext) : Bool := extentsMeet a.1 (a.1 + a.2) b.1 (b.1 + b.2)

def anyMeet (as bs : List Ext) : Bool := as.any (fun a => bs.any (extMeet a))

def OutBinding.vis (b : OutBinding) : Ext := (b.visVa, b.rlen)

def layerOutputs (l : Layer) : List Ext := l.outs.map (·.vis)

def layerProofed (l : Layer) : List Ext := (l.outs.filter (·.policy.proofed)).map (·.vis)

def layerInputs (p : Plate) (l : Layer) : List Ext :=
  l.ins.filterMap (fun i => (i.producer.bind p.binding).map (·.vis))

/-- A pass has not ended. -/
def Pass.alive (q : Pass) : Bool := q.phase != .ended

/-- Visible extents a running pass will swap, and its input extents. -/
def Pass.proofedExts (q : Pass) (p : Plate) : List Ext :=
  match p.layerNum q.layer with
  | some l => (proofedBindings q l).map (·.vis)
  | none => []

def Pass.inputExts (q : Pass) (p : Plate) : List Ext :=
  match p.layerNum q.layer with
  | some l => layerInputs p l
  | none => []

/-- Running passes of a forme with a proofed binding (05 Table 5.5). -/
def provingPasses (f : Forme) (p : Plate) : List Pass :=
  f.passes.filter (fun q => q.alive && !(q.proofedExts p).isEmpty)

/-- Commands of a forme sealed before a slot, not finished, with an opcode. -/
def earlierCmds (s : State) (mb : MboxId) (k opc : Nat) : List (MboxId × Nat) :=
  (ownedSlots s).filter (fun x =>
    sameForme s mb x.1 && keyLt (takeKey s x.1 x.2) (takeKey s mb k) && (getSlot s x.1 x.2).phase != .finished &&
      slotOpcode (getMbox s x.1) x.2 == opc)

def launchLayer (p : Plate) (c : Nat) : Option Layer := p.layerNum (bits c 63 48)

/-- Two launches whose outputs overlap, at least one overlapping binding being proofed (05 R161). -/
def launchesClash (a b : Layer) : Bool :=
  anyMeet (layerProofed a) (layerOutputs b) || anyMeet (layerOutputs a) (layerProofed b)

/-- A PASS_LAUNCH is held. -/
def launchHeld (s : State) (f : Forme) (mb : MboxId) (k c : Nat) : Bool :=
  !(earlierCmds s mb k 0x40).isEmpty || f.loading.isSome ||
    (match f.plate with
     | none => false
     | some p =>
       match launchLayer p c with
       | none => false
       | some l =>
         (provingPasses f p).any (fun q =>
           anyMeet (q.proofedExts p) (layerOutputs l ++ layerInputs p l) || anyMeet (layerProofed l) (q.inputExts p)) ||
         (earlierCmds s mb k 0x50).any (fun x =>
           match launchLayer p (slotCmd (getMbox s x.1) x.2) with
           | some b => launchesClash l b
           | none => false))

/-- A COPY, FILL or ZERO with these source and destination extents is held (05 Table 5.5). -/
def transferHeld (f : Forme) (src dst : List Ext) : Bool :=
  match f.plate with
  | none => false
  | some p => (provingPasses f p).any (fun q =>
      anyMeet (q.proofedExts p) (src ++ dst) || anyMeet (q.inputExts p) dst)

/-- A PASS_LAUNCH of the forme has passed step 8 and not ended. -/
def launchPending (s : State) (mb : MboxId) : Bool :=
  (ownedSlots s).any (fun x =>
    sameForme s mb x.1 && slotOpcode (getMbox s x.1) x.2 == 0x50 &&
      ((getSlot s x.1 x.2).phase == .ready || (getSlot s x.1 x.2).phase == .running))

/-- A pass, or an earlier command, holds the command in a slot at its start now (05 Table 5.5, R161, 12 R412). -/
def startHeld (s : State) (mb : MboxId) (k : Nat) : Bool :=
  let m := getMbox s mb
  let c := slotCmd m k
  let o := slotOpcode m k
  match (formeOfMbox s mb).bind (getForme s) with
  | none => false
  | some f =>
    if o = 0x50 then launchHeld s f mb k c
    else if o = 0x52 then !(earlierCmds s mb k 0x40).isEmpty || f.loading.isSome
    else if o = 0x40 then f.passes.any (·.alive) || f.loading.isSome || launchPending s mb
    else if o = 0x30 then
      let n := bits c 191 128
      transferHeld f (if bit c 200 then [] else [(bits c 63 0, n)]) (if bits c 202 201 = 0 then [(bits c 127 64, n)] else [])
    else if o = 0x31 ∨ o = 0x32 then transferHeld f [] [(bits c 127 64, bits c 191 128)]
    else false

/-- The command in a slot is held at step 8; one sealed while its forme is being destroyed never passes it. -/
def heldNow (s : State) (mb : MboxId) (k : Nat) : Bool :=
  (((formeOfMbox s mb).bind (getForme s)).any (·.destroying) && slotOpcode (getMbox s mb) k != 0x11) || startHeld s mb k

/-- The fields of the command of a slot that has reached step 9 of 12 Table 12.6, for a command with this opcode that may
start now: nothing that began since step 8 holds it, and a module in idle wakes first (12 R426). -/
def startsCmd (s : State) (mb : MboxId) (k opc : Nat) : Option Nat :=
  let m := getMbox s mb
  if s.up && !s.moduleIdle && (m.slotAt k).phase == .ready && slotOpcode m k == opc && !startHeld s mb k then some (slotCmd m k)
  else none

/-- Eight commands are in their firmware part, past step 8 and not started, and a ninth waits (12 R427). -/
def firmwareFull (s : State) : Bool :=
  decide (8 ≤ ((ownedSlots s).filter (fun x => (getSlot s x.1 x.2).phase == .ready)).length)

/-- Step 8: held, or ready for step 9. -/
def toStart (s : State) (mb : MboxId) (k : Nat) : State :=
  if heldNow s mb k then modSlot s mb k (fun x => { x with phase := .held })
  else modSlot s mb k (fun x => { x with phase := .ready })

/-- A status that fails an entry with ON_OK (12 R403). -/
def failed (st : Nat) : Bool := decide (st ≥ 0x0100)

/-- Entries of a slot just taken whose command had completed before, with a failure. -/
def failedBefore (s : State) (mb : MboxId) (k : Nat) : List Nat :=
  (List.range (hdrAfterCnt (slotHeader (getMbox s mb) k))).filter (fun j =>
    let e := slotAfter (getMbox s mb) k j
    match afterMbox s mb (afterMb e) with
    | none => false
    | some m =>
      !(earlierOwned s mb k m).any (fun i => slotSeq (getMbox s m) i == afterSeq e) &&
        (getMbox s m).history.any (fun h => h.1 == afterSeq e && failed h.2))

/-- SLOT_TAKE: the next sealed slot is taken and checked (12 R394, R399). -/
def execSlotTake (s : State) : MbRes :=
  if !s.up || firmwareFull s then .next s
  else
    match nextSealed s with
    | none => .next s
    | some (mb, k) =>
      let s := modSlot s mb k (fun x => { x with tTaken := s.now, phase := .waitAfter, afterBad := failedBefore s mb k })
      match firstBad (takeChecks s mb k) with
      | some (st, d) => .next (reject s mb k st d)
      | none => if hdrAfterCnt (slotHeader (getMbox s mb) k) = 0 then .next (toStart s mb k) else .next s

/-- The command an AFTER entry names has completed (12 R400). -/
def afterDone (s : State) (mb : MboxId) (k e : Nat) : Bool :=
  match afterMbox s mb (afterMb e) with
  | none => true
  | some m => !(earlierOwned s mb k m).any (fun j => slotSeq (getMbox s m) j == afterSeq e)

/-- Offset of the first entry with ON_OK whose command ended with a status of 0x0100 or above (12 R403). -/
def afterFailed (s : State) (mb : MboxId) (k : Nat) : Option Nat :=
  let m := getMbox s mb
  ((List.range (min 8 (hdrAfterCnt (slotHeader m k)))).find? (fun j =>
    (m.slotAt k).afterBad.contains j && afterOnOk (slotAfter m k j))).map (fun j => 0x40 + 8 * j)

/-- AFTER_RELEASE: the last command of the list has completed. -/
def execAfterRelease (mb : MboxId) (slot : Nat) (s : State) : MbRes :=
  let m := getMbox s mb
  let n := hdrAfterCnt (slotHeader m slot)
  if s.up && !firmwareFull s && (getSlot s mb slot).phase == .waitAfter &&
      (afterWhere m slot 0 n (fun e => !afterDone s mb slot e)).isNone then
    match afterFailed s mb slot with
    | some o => .next (reject s mb slot stAfterFailed o)
    | none => .next (toStart s mb slot)
  else .next s

/-- HOLD_RELEASE: the start hold has ended. -/
def execHoldRelease (mb : MboxId) (slot : Nat) (s : State) : MbRes :=
  if s.up && !firmwareFull s && (getSlot s mb slot).phase == .held && !heldNow s mb slot then
    .next (modSlot s mb slot (fun x => { x with phase := .ready }))
  else .next s

/-! ## Completion (12 R396, R401, R430) -/

/-- The header in completion form (12 Table 12.4). -/
def completionHeader (now : Nat) (m : Mailbox) (k : Nat) : Nat :=
  let x := m.slotAt k
  let h := slotHeader m k
  packFields [(16, x.status), (16, slotOpcode m k), (32, x.detail), (64, hdrUser h), (128, 0), (64, x.tSeal),
    (64, x.tTaken), (64, now), (56, slotSeq m k), (8, 1)]

/-- The bytes of a completed slot, and its place in the history. -/
def Mailbox.complete (m : Mailbox) (now k : Nat) : Mailbox :=
  let x := m.slotAt k
  let seq := slotSeq m k
  let hd := completionHeader now m k
  let b := writeBytes m.bytes (slotBase k + 0x178) (toBytes 128 x.result)
  let b := writeBytes b (slotBase k + 0x1F8) (toBytes 8 0)
  let b := writeBytes b (slotBase k) (toBytes 64 hd)
  { m with bytes := b, slots := mapSet m.slots k { Slot.reset with done := true },
           history := if x.status = stBadSeq then m.history else ((seq, x.status) :: m.history).take 4096 }

/-- The recovery record of a command that ran through a reset becomes that of one completed after it. -/
def Port.recordDone (p : Port) (k seq status : Nat) : Port :=
  match mapGet p.records k with
  | some r =>
    if r.outcome = 2 ∧ r.seq = seq then { p with records := mapSet p.records k { r with outcome := 3, status := status } }
    else p
  | none => p

/-- The record that a reset writes of a slot whose signal it meets unsent (12 Table 12.22 OUTCOME 0x1). -/
def doneRecord (m : Mailbox) (k st : Nat) : RecRec :=
  { slot := k, outcome := 1, status := st, opcode := slotOpcode m k, epochLo := 0, seq := slotSeq m k, lo := 0, hi := 0 }

/-- A completion whose signal does not leave the port at once is kept until it does. -/
def Port.noteUnsent (p : Port) (k : Nat) (irq : Bool) (v : Nat) (r : RecRec) : Port :=
  { p with unsent := if irq && !p.signals v then mapSet p.unsent k (v, r) else mapDel p.unsent k }

/-- Entries of a waiting slot that name the command of another slot, sealed before it. -/
def namesCmd (s : State) (mb : MboxId) (k : Nat) (w : MboxId × Nat) : List Nat :=
  let m := getMbox s w.1
  if (m.slotAt w.2).phase == .waitAfter && keyLt (takeKey s mb k) (takeKey s w.1 w.2) then
    (List.range (min 8 (hdrAfterCnt (slotHeader m w.2)))).filter (fun j =>
      let e := slotAfter m w.2 j
      afterMbox s w.1 (afterMb e) == some mb && afterSeq e == slotSeq (getMbox s mb) k)
  else []

/-- Every slot that waits for a command that ends with a failure keeps that it failed (12 R403). -/
def noteFailed (s : State) (mb : MboxId) (k : Nat) : State :=
  (ownedSlots s).foldl (fun t w =>
    let js := namesCmd s mb k w
    if js.isEmpty then t else modSlot t w.1 w.2 (fun x => { x with afterBad := x.afterBad ++ js })) s

/-- A finished command is completed: result area, seal word, header, then the signal. -/
def completeSlot (s : State) (mb : MboxId) (slot : Nat) : State :=
  let m := getMbox s mb
  let st := (m.slotAt slot).status
  let h := slotHeader m slot
  let seq := slotSeq m slot
  let s := if failed st then noteFailed s mb slot else s
  let s := dropWaiters (modMbox s mb (fun m => m.complete s.now slot)) (· == .copy mb slot)
  match mb with
  | .host p =>
    let s := modPort s p (fun y => (y.recordDone slot seq st).noteUnsent slot (hdrIrq h) (hdrVector h) (doneRecord m slot st))
    if hdrIrq h then signalMsix s p (hdrVector h) else s
  | .core _ => if hdrIrq h then signalHart s (hdrHart h) (hdrVector h) else s

/-- SLOT_COMPLETE. -/
def execSlotComplete (mb : MboxId) (slot : Nat) (s : State) : MbRes :=
  if s.up && ((getMbox s mb).slotAt slot).phase == .finished then .next (completeSlot s mb slot) else .next s

end Sys2Proof.Machine
end

