-- ==== Sys2Proof/Machine/MeshOps.lean ====
section
/-! DEFINITION. The mesh (14): node numbers and boxes, link widths and detours, sending and forwarding of packets, inbound
packets at their target, acknowledgements, and the registration tree. -/

namespace Sys2Proof.Machine

open Sys2Proof

/-! ## Nodes, boxes (14 R459, R465, R471) -/

/-- Coordinates of a node number. -/
def nodeX (n : Nat) : Nat := bits n 4 0
def nodeY (n : Nat) : Nat := bits n 9 5
def nodeZ (n : Nat) : Nat := bits n 14 10

def nodeAt (x y z : Nat) : Nat := x + 32 * y + 1024 * z

/-- The neighbour of a node in the direction of a port code, inside the group (14 Table 14.1, R460). -/
def neighbour (c : NodeConfig) (n port : Nat) : Option Nat :=
  let x := nodeX n
  let y := nodeY n
  let z := nodeZ n
  if port = 0 then (if x + 1 < c.nx then some (nodeAt (x + 1) y z) else none)
  else if port = 1 then (if 0 < x then some (nodeAt (x - 1) y z) else none)
  else if port = 2 then (if y + 1 < c.ny then some (nodeAt x (y + 1) z) else none)
  else if port = 3 then (if 0 < y then some (nodeAt x (y - 1) z) else none)
  else if port = 4 then (if z + 1 < c.nz then some (nodeAt x y (z + 1)) else none)
  else if port = 5 then (if 0 < z then some (nodeAt x y (z - 1)) else none)
  else none

def opposite (port : Nat) : Nat := if port % 2 = 0 then port + 1 else port - 1

/-- Compositor of a mesh port (14 Table 14.1). -/
def dieOfMeshPort (port : Nat) : Nat := if port < 3 then 6 else 7

/-- First port of the dimension-order route (14 R473, 01 R46). -/
def routePort (n dst : Nat) : Option Nat :=
  if nodeX n < nodeX dst then some 0
  else if nodeX dst < nodeX n then some 1
  else if nodeY n < nodeY dst then some 2
  else if nodeY dst < nodeY n then some 3
  else if nodeZ n < nodeZ dst then some 4
  else if nodeZ dst < nodeZ n then some 5
  else none

/-- A coordinate lies in [o − m, o + e + m). -/
def inSpan (v o e m : Nat) : Bool := decide (o ≤ v + m) && decide (v < o + e + m)

/-- A node lies in a job's box, widened by `m` nodes. -/
def MeshJob.holds (j : MeshJob) (n m : Nat) : Bool :=
  inSpan (nodeX n) (nodeX j.origin) j.extX m && inSpan (nodeY n) (nodeY j.origin) j.extY m &&
    inSpan (nodeZ n) (nodeZ j.origin) j.extZ m

/-- Ports whose link leads out of a box. -/
def borderMask (c : NodeConfig) (own : Nat) (j : MeshJob) : Nat :=
  maskOf ((List.range 6).filter (fun p =>
    match neighbour c own p with
    | some n => !j.holds n 0
    | none => false))

/-! ## Ports and what the node knows of other links (14 R483, R485, R486) -/

def getMeshPort (s : State) (p : Nat) : MeshPort := mapGetD s.mesh.ports MeshPort.reset p

def modMeshPort (s : State) (p : Nat) (f : MeshPort → MeshPort) : State :=
  { s with mesh := { s.mesh with ports := mapUpd s.mesh.ports MeshPort.reset p f } }

/-- A node configuration image is in force; without one no mesh comes up (15 Table 15.7 step 5). -/
def meshOn (s : State) : Bool := s.powered && s.sec.configSlot.isSome

def MeshPort.isUp (p : MeshPort) : Bool := p.st == .up

def GnidEntry.absent : GnidEntry :=
  { gnid := 0, present := false, nd5 := false, dup := false, upPorts := 0, generation := 0 }

def getGnid (s : State) (n : Nat) : GnidEntry := mapGetD s.mesh.gnids GnidEntry.absent n

/-- Width of a link's sending side, as the node knows it: its own ports, notices of others, and otherwise the ports that
a present node announced as up. -/
def sendWidth (s : State) (n p : Nat) : Nat :=
  if n = s.config.node then (if (getMeshPort s p).isUp then (getMeshPort s p).txWidth else 0)
  else
    match mapGet s.mesh.linkWidths (n * 8 + p) with
    | some w => w
    | none => if (getGnid s n).present && bit (getGnid s n).upPorts p then 16 else 0

/-- A link is up at full width in both directions. -/
def linkFull (s : State) (n p : Nat) : Bool :=
  match neighbour s.config n p with
  | none => false
  | some m => sendWidth s n p == 16 && sendWidth s m (opposite p) == 16

/-- A node that may serve on a detour (14 Table 14.11). -/
def sideNode (s : State) (n : Nat) : Bool :=
  n == s.config.node || ((getGnid s n).present && !(getGnid s n).nd5 && !s.mesh.lostNodes.contains n)

/-- The nodes of a path of hops from `n`; none where it leaves the group. -/
def pathNodes (c : NodeConfig) : Nat → List Nat → Option (List Nat)
  | _, [] => some []
  | n, h :: r =>
    match neighbour c n h with
    | none => none
    | some m => (pathNodes c m r).map (fun ns => m :: ns)

/-- Every link of a path is up at full width, its inner nodes may serve, and its nodes are present. -/
def pathGood (s : State) : Nat → List Nat → Bool
  | _, [] => true
  | n, h :: r =>
    match neighbour s.config n h with
    | none => false
    | some m =>
      linkFull s n h && (r.isEmpty && (getGnid s m).present || sideNode s m) && pathGood s m r

/-- Side directions of 14 Table 14.9. -/
def sideDirs (d : Nat) : List Nat :=
  if d < 2 then [2, 3, 4, 5] else if d < 4 then [4, 5, 0, 1] else [0, 1, 2, 3]

/-- The hops of a detour around a link, or around a lost neighbour (14 R485). -/
def detourHops (lostNode : Bool) (d side : Nat) : List Nat :=
  if lostNode then [side, d, d, opposite side] else [side, d, opposite side]

/-- The first detour that qualifies, for a job of this node or for system traffic. -/
def findDetour (s : State) (job : Option MeshJob) (d : Nat) : Option (List Nat) :=
  let own := s.config.node
  ((sideDirs d).map (detourHops (getMeshPort s d).neighbourLost d)).find? (fun hs =>
    pathGood s own hs &&
      (match job, pathNodes s.config own hs with
       | none, some _ => true
       | some j, some ns => ns.all (fun n => j.holds n j.margin)
       | _, none => false))

/-! ## Jobs (14 R464 to R471) -/

def activeJob (s : State) (job : Nat) : Option MeshJob := s.mesh.jobs.find? (fun j => j.active && j.job == job)

def activeJobOf (s : State) (forme : Nat) : Option MeshJob :=
  s.mesh.jobs.find? (fun j => j.active && j.forme == forme)

/-- Codes of 14 Table 14.7. -/
def errNoJob : Nat := 0x01
def errOutOfBox : Nat := 0x02
def errNotMember : Nat := 0x03
def errNoWindow : Nat := 0x04
def errWindowRange : Nat := 0x05
def errWindowAccess : Nat := 0x06
def errTranslation : Nat := 0x07
def errBorder : Nat := 0x08
def errUnreachable : Nat := 0x09
def errTimeout : Nat := 0x0A
def errReleased : Nat := 0x0B

def meshSend (s : State) (t : MeshTx) : State := { s with mesh := { s.mesh with tx := s.mesh.tx ++ [t] } }

/-! ## Forwarding (14 R471, R473, R484 to R487) -/

inductive Hop where
  | out (port : Nat) (p : Packet)
  | drop (code : Nat)
deriving DecidableEq, Repr

/-- The link of a port is a border link of the packet's job, and the exception does not apply: a packet on a detour whose
next node, `next`, lies within MARGIN nodes of the box (14 R471). -/
def borderStops (s : State) (port next : Nat) (p : Packet) : Bool :=
  match activeJob s p.job, neighbour s.config s.config.node port with
  | some j, some n => !j.holds n 0 && !(!p.path.isEmpty && j.holds next j.margin)
  | _, _ => false

/-- The next node of a packet that leaves on a port is the neighbour there. -/
def leavesBorder (s : State) (port : Nat) (p : Packet) : Bool :=
  match neighbour s.config s.config.node port with
  | some n => borderStops s port n p
  | none => false

def checkBorder (s : State) (port : Nat) (p : Packet) : Hop :=
  if p.job != 0 && leavesBorder s port p then .drop errBorder else .out port p

/-- The next hop of a packet that is on no detour. -/
def straightHop (s : State) (p : Packet) : Hop :=
  match routePort s.config.node p.dst with
  | none => .drop errUnreachable
  | some d =>
    let q := getMeshPort s d
    if q.isUp && !(p.prompt && q.promptDetour) then checkBorder s d p
    else if q.neighbourLost && neighbour s.config s.config.node d == some p.dst then .drop errUnreachable
    else
      let job := if p.job = 0 then some none else (activeJob s p.job).map some
      match job.bind (fun j => findDetour s j d), decide (p.detours < 2) with
      | some hs, true => checkBorder s (hs.headD d) { p with path := hs, detours := p.detours + 1 }
      | _, _ => if q.isUp then checkBorder s d p else .drop errUnreachable

/-- Where a packet goes from this node; `path` then starts with the hop it leaves on. -/
def nextHop (s : State) (p : Packet) : Hop :=
  match p.path with
  | h :: _ =>
    if (getMeshPort s h).isUp && !(p.prompt && (getMeshPort s h).promptDetour) then checkBorder s h p
    else straightHop s { p with path := [] }
  | [] => straightHop s p

/-- A packet as it arrives: the hop it came on is made. -/
def arrived (p : Packet) : Packet := { p with path := p.path.tail }

/-- The link a packet arrived on, its hop not yet taken away, crosses the border of its job; its next node is this one. -/
def borderCrossed (s : State) (port : Nat) (p : Packet) : Bool := p.job != 0 && borderStops s port s.config.node p

/-! ## Ends of packets at their source (14 R470, R482, 12 R410) -/

def minList : List Nat → Option Nat
  | [] => none
  | x :: r => match minList r with
    | none => some x
    | some y => some (min x y)

/-- First byte of a COPY that is not acknowledged. -/
def unackedFrom (s : State) (mb : MboxId) (k copyId : Nat) : Nat :=
  (minList ((s.mesh.sent.filter (fun x => x.copyId == copyId)).map (·.offset))).getD (getSlot s mb k).offset

/-- A COPY has ended: its packets still under way are heard of without it. -/
def endSent (s : State) (copyId : Nat) : State :=
  { s with mesh := { s.mesh with sent := s.mesh.sent.map (fun x => if x.copyId = copyId then { x with ended := true } else x) } }

/-- A packet is acknowledged or has failed. -/
def forgetPacket (s : State) (x : SentPacket) : State :=
  { s with mesh := { s.mesh with sent := s.mesh.sent.filter (fun y => y != x) } }

def meshResult (offset code : Nat) : Nat := packFields [(64, offset), (8, code)]

/-- A packet fails, and its COPY, unless it has ended, ends with a code at its first byte not acknowledged; ABORTED where an
abort had stopped it (18 R589). -/
def packetFails (s : State) (x : SentPacket) (code : Nat) : State :=
  let t := forgetPacket s x
  if x.ended then t
  else
    let off := unackedFrom s x.mb x.slot x.copyId
    let t := endSent t x.copyId
    if (getSlot s x.mb x.slot).status = stAborted then finish t x.mb x.slot stAborted 0 (meshResult off 0)
    else finish t x.mb x.slot stMeshError 0 (meshResult off code)

/-- A COPY with no packet outstanding ends, when it has sent everything or waits only for its packets: `status` holds the
status it ends with, `detail` the mesh code. -/
def meshCopySettle (s : State) (mb : MboxId) (k copyId len : Nat) : State :=
  let x := getSlot s mb k
  if s.mesh.sent.any (fun y => y.copyId == copyId) then s
  else if x.status != 0 then finish s mb k x.status 0 (meshResult x.offset x.detail)
  else if x.offset == len then finish s mb k stOk 0 0
  else s

/-- The source copy engine hears of a packet: acknowledged (code 0) or failed. -/
def packetAnswered (s : State) (copyId index code : Nat) : State :=
  match s.mesh.sent.find? (fun x => x.copyId == copyId && x.index == index) with
  | none => s
  | some x =>
    if code != 0 then packetFails (countFor s (some x.forme) .meshErrResp 1) x code
    else if x.ended then forgetPacket s x
    else
      let s := forgetPacket s x
      meshCopySettle s x.mb x.slot copyId (bits (slotCmd (getMbox s x.mb) x.slot) 191 128)

/-- An answer to a packet: over the mesh, or at once when the packet is the node's own. -/
def answerPacket (s : State) (p : Packet) (code : Nat) : State :=
  if p.src = s.config.node then packetAnswered s p.copyId p.index code
  else meshSend s (if code = 0 then .ack p else .error p code)

/-! ## Inbound packets at their target (14 R464, R481, R482) -/

def copyKey (p : Packet) : Nat := p.src * 2 ^ 32 + p.copyId

def MeshJob.windowOf (j : MeshJob) (w : Nat) : Option MeshWindow := j.windows.find? (fun x => x.window == w)

/-- An inbound mesh port's transfers. -/
def meshVia (port : Nat) : Via := { agent := agentOfDie (dieOfMeshPort port), unit := meshUnit port, zero := false }

def meshAccess (forme die kind : Nat) : Access :=
  { forme := forme, eng := { cls := 6, die := die, unit := 0 }, kind := kind, pass := none }

/-- A hint of a window or of TPH: a reserved one acts as none (09 Table 9.8). -/
def hintOr0 (h : Nat) : Nat := if h < 10 then h else 0

/-- Writes bytes at a physical address for a cacheless agent, line by line: whole lines carry the hint. -/
def writeSpans (via : Via) (hint : Nat) : List (Nat × Nat) → List Byte → State → State
  | [], _, s => s
  | (pa, n) :: r, data, s =>
    let piece := data.take n
    let s :=
      if n = 128 then writeFull s via.agent via.unit (lineOf pa) piece hint via.zero
      else writePart s via.agent via.unit (lineOf pa) (lineMask (pa % 128) n)
        (List.replicate (pa % 128) 0#8 ++ piece ++ List.replicate 128 0#8)
    writeSpans via hint r (data.drop n) s

def writeBytesPa (s : State) (via : Via) (pa hint : Nat) (data : List Byte) : State :=
  writeSpans via hint (lineSpans pa data.length) data s

/-- The pieces of an extent that lie each in one page. -/
def pageSpansFrom : Nat → Nat → Nat → List (Nat × Nat)
  | 0, _, _ => []
  | n + 1, va, len =>
    if len = 0 then []
    else
      let k := min len (4096 - va % 4096)
      (va, k) :: pageSpansFrom n (va + k) (len - k)

def pageSpans (va len : Nat) : List (Nat × Nat) := pageSpansFrom (len / 4096 + 2) va len

/-- What came of translating every page of an inbound request: physical pieces, held in a fault record, or denied. -/
inductive Reached where
  | ok (pas : List (Nat × Nat))
  | held
  | denied
deriving DecidableEq, Repr

/-- Translates an inbound request page by page; a fault is raised for the waiter (10 R345, R358). -/
def reach (a : Access) (w : Waiter) : List (Nat × Nat) → State → State × Reached
  | [], s => (s, .ok [])
  | (va, n) :: r, s =>
    let t := translate s a va
    match t.2 with
    | .fault reason e =>
      let q := raiseFault t.1 a va reason e w
      (q.1, if q.2 then .held else .denied)
    | .ok pa =>
      let q := reach a w r t.1
      match q.2 with
      | .ok pas => (q.1, .ok ((pa, n) :: pas))
      | x => (q.1, x)

/-- Writes the data of a request over its physical pieces. -/
def writePieces (via : Via) (hint : Nat) : List (Nat × Nat) → List Byte → State → State
  | [], _, s => s
  | (pa, n) :: r, data, s => writePieces via hint r (data.drop n) (writeBytesPa s via pa hint (data.take n))

/-- Reads bytes at a physical address for a cacheless agent, with the poison of the sectors it covers. -/
def readSpans (via : Via) : List (Nat × Nat) → State → State × (List Byte × Bool)
  | [], s => (s, ([], false))
  | (pa, n) :: r, s =>
    let d := readOnce s via.agent via.unit (lineOf pa) false
    let off := pa % 128
    let bad := n != 0 && (d.2.poisonAt off || d.2.poisonAt (off + n - 1) || d.2.absent)
    let q := readSpans via r d.1
    (q.1, (d.2.slice off n ++ q.2.1, bad || q.2.2))

def readPieces (via : Via) (pas : List (Nat × Nat)) (s : State) : State × (List Byte × Bool) :=
  readSpans via (pas.flatMap (fun x => lineSpans x.1 x.2)) s

/-- The checks of an inbound put before translation (14 Table 14.7). -/
def putRefused (j : Option MeshJob) (p : Packet) : Option Nat :=
  match j with
  | none => some errNotMember
  | some j =>
    match j.windowOf p.window with
    | none => some errNoWindow
    | some w =>
      if !w.put then some errWindowAccess
      else if p.offset + p.data.length > w.pages * 4096 then some errWindowRange
      else none

/-- An inbound packet is refused. -/
def rejectPacket (s : State) (forme : Option Nat) (p : Packet) (code : Nat) : State :=
  answerPacket (countFor s forme .meshRxReject 1) p code

/-- Checks and performs the packet that is due of its COPY, arriving on Compositor `die`; true when it passed. -/
def performPut (s : State) (port : Nat) (p : Packet) : State × Bool :=
  let j := activeJob s p.job
  match putRefused j p, j with
  | some code, _ => (rejectPacket s (j.map (·.forme)) p code, false)
  | none, none => (s, false)
  | none, some j =>
    match j.windowOf p.window with
    | none => (s, false)
    | some w =>
      let r := reach (meshAccess j.forme (dieOfMeshPort port) 1) (.inbound (.meshPut port p))
        (pageSpans (w.vaBase + p.offset) p.data.length) s
      match r.2 with
      | .held => (r.1, false)
      | .denied => (rejectPacket r.1 (some j.forme) p errTranslation, false)
      | .ok pas =>
        let s := writePieces (meshVia port) (hintOr0 w.hint) pas p.data r.1
        let s := countFor s (some j.forme) .meshRxBytes p.data.length
        let s := { s with mesh := { s.mesh with due := mapSet s.mesh.due (copyKey p) (p.index + 1) } }
        (answerPacket s p 0, true)

/-- Packets that waited for the one just performed, `n` at most (14 R481). -/
def drainWaiting : Nat → Nat → Nat → State → State
  | 0, _, _, s => s
  | n + 1, port, key, s =>
    match s.mesh.waiting.find? (fun x => copyKey x.2 == key && x.2.index == mapGetD s.mesh.due 0 key) with
    | none => s
    | some x =>
      let s := { s with mesh := { s.mesh with waiting := s.mesh.waiting.filter (fun y => y != x) } }
      let r := performPut s x.1 x.2
      if r.2 then drainWaiting n port key r.1 else r.1

/-- The packet that is due of its COPY, then those that waited for it. -/
def putDue (s : State) (port : Nat) (p : Packet) : State :=
  let r := performPut s port p
  if r.2 then drainWaiting r.1.mesh.waiting.length port (copyKey p) r.1 else r.1

/-- The job of a packet is active here and not being released. -/
def isMember (s : State) (p : Packet) : Bool := (activeJob s p.job).any (fun j => !j.closing)

/-- A put for this node: performed in offset order, or kept for an earlier packet; one whose job is not active here is dropped
as it arrives (14 R471). -/
def inboundPut (s : State) (port : Nat) (p : Packet) : State :=
  let key := copyKey p
  let due := mapGetD s.mesh.due 0 key
  if p.index < due then s
  else if !isMember s p then rejectPacket s ((activeJob s p.job).map (·.forme)) p errNotMember
  else if due < p.index then { s with mesh := { s.mesh with waiting := s.mesh.waiting ++ [(port, p)] } }
  else putDue s port p

/-! ## Gets of ND5 nodes (14 Table 14.11) -/

/-- The checks of an inbound get before translation. -/
def getRefused (j : Option MeshJob) (p : Packet) (len : Nat) : Option Nat :=
  match j with
  | none => some errNotMember
  | some j =>
    match j.windowOf p.window with
    | none => some errNoWindow
    | some w =>
      if !w.get then some errWindowAccess
      else if p.offset + len > w.pages * 4096 then some errWindowRange
      else none

/-- Serves a get: its data, a poisoned response for a poisoned sector, or an error response. -/
def inboundGet (s : State) (port : Nat) (p : Packet) (len : Nat) : State :=
  let j := activeJob s p.job
  match getRefused j p len, j with
  | some code, _ => meshSend (countFor s (j.map (·.forme)) .meshRxReject 1) (.error p code)
  | none, none => s
  | none, some j =>
    match j.windowOf p.window with
    | none => s
    | some w =>
      let r := reach (meshAccess j.forme (dieOfMeshPort port) 0) (.inbound (.meshGet port p len))
        (pageSpans (w.vaBase + p.offset) len) s
      match r.2 with
      | .held => r.1
      | .denied => meshSend (countFor r.1 (some j.forme) .meshRxReject 1) (.error p errTranslation)
      | .ok pas =>
        let d := readPieces (meshVia port) pas r.1
        meshSend d.1 (.getData p (if d.2.2 then [] else d.2.1) d.2.2)

/-! ## Channels (14 R474, R476) -/

/-- The channel a packet takes on the link it leaves on: its class, the detour's during a detour hop; prompt packets travel
with bulk on a link of the ND5 generation (14 R474, R476, Table 14.11). -/
def channelOn (s : State) (port : Nat) (p : Packet) : MeshChannel :=
  match p.prompt && !(getMeshPort s port).gen5, p.path.isEmpty with
  | false, true => .bulk
  | false, false => .bulkDetour
  | true, true => .prompt
  | true, false => .promptDetour

def MeshChannel.code : MeshChannel → Nat
  | .bulk => 0
  | .bulkDetour => 1
  | .prompt => 2
  | .promptDetour => 3

def MeshChannel.isPrompt (c : MeshChannel) : Bool := c == .prompt || c == .promptDetour

/-! ## Links: channels, credits, replay buffers (14 R457, R475, R476, R484) -/

/-- Packets of a channel that hold a credit: those the link layer has not acknowledged. -/
def MeshPort.inUse (q : MeshPort) (c : MeshChannel) : Nat := (q.replay.filter (fun x => x.1 == c)).length

def MeshPort.credit (q : MeshPort) (port : Nat) (c : MeshChannel) : Bool :=
  q.inUse c == 0 || decide (q.inUse c ≤ Config.meshCredits (port * 4 + c.code))

/-- Bulk traffic stops while the direction retrains (R484). -/
def MeshPort.stops (q : MeshPort) (c : MeshChannel) : Bool := q.txRetraining && !c.isPrompt

/-- The packet that leaves next: the first of the prompt class that has a credit, else the first of the bulk class (R475). A
channel without credits holds back only its own packets. -/
def MeshPort.next (q : MeshPort) (port : Nat) : Option (MeshChannel × Packet) :=
  (q.queue.find? (fun x => x.1.isPrompt && q.credit port x.1)).or
    (q.queue.find? (fun x => !x.1.isPrompt && !q.stops x.1 && q.credit port x.1))

/-- A packet goes on the link and stays in the replay buffer; how many of its flits fail their CRC and are replayed is open. -/
def transmit (s : State) (port : Nat) (x : MeshChannel × Packet) : State :=
  let n := Config.freeNat s.free
  meshSend (modMeshPort s.drawn port (fun q =>
    { q with queue := q.queue.erase x, replay := q.replay ++ [x], replays := satAdd (2 ^ 32 - 1) q.replays n }))
    (.packet port x.1 x.2)

/-- Packets leave on a link as far as credits go, `n` at most. -/
def pump : Nat → Nat → State → State
  | 0, _, s => s
  | n + 1, port, s =>
    match (getMeshPort s port).next port with
    | none => s
    | some x => pump n port (transmit s port x)

def pumpPort (s : State) (port : Nat) : State :=
  let q := getMeshPort s port
  if q.isUp then pump q.queue.length port s else s

/-- A packet is to leave the node on a link. -/
def sendPacket (s : State) (port : Nat) (p : Packet) : State :=
  let c := channelOn s port p
  pumpPort (modMeshPort s port (fun q => { q with queue := q.queue ++ [(c, p)] })) port

/-- A port takes no further packet of a channel of which one waits. -/
def portHolds (s : State) (port : Nat) (p : Packet) : Bool :=
  (getMeshPort s port).queue.any (fun x => x.1 == channelOn s port p)

/-! ## Crossing the Gutter (14 R477) -/

/-- The flight of a packet from one Compositor to the Compositor of the port it leaves on. -/
def transitFlight (s : State) (forme : Option Nat) (src port : Nat) (p : Packet) : Flight :=
  { line := 0, kind := 14, agent := 0, src := src, bulk := true, chan := 0, unit := meshUnit port,
    route := routeOf (forme.bind (getForme s)) src (dieOfMeshPort port), forme := forme, entered := false, req := none,
    transit := some (port, p) }

/-- The first packet that has crossed and whose port takes it leaves the Gutter. -/
def serveTransit (s : State) : Option State :=
  let comes (earlier : List Flight) (x : Flight) : Bool :=
    decide (x.route.length ≤ 1) && headOf s.txns earlier x && x.transit.any (fun t => !portHolds s t.1 t.2)
  (pickFlight comes [] s.gut.flights).bind (fun q => q.2.1.transit.map (fun t =>
    let g := s.gut
    sendPacket { s with gut := { g with flights := movedFlights s.txns (q.1 ++ q.2.2) }.noteHolding s.now } t.1 t.2))

def serveTransitsFor : Nat → State → State
  | 0, s => s
  | n + 1, s =>
    match serveTransit s with
    | some s => serveTransitsFor n s
    | none => s

def serveTransits (s : State) : State := serveTransitsFor s.gut.flights.length s

/-- A packet goes from a die to the port it leaves on: over the Gutter to the other Compositor (14 R477). -/
def toPort (s : State) (forme : Option Nat) (src port : Nat) (p : Packet) : State :=
  if dieOfMeshPort port = src then sendPacket s port p
  else
    let x := transitFlight s forme src port p
    let g := s.gut.carry x (Config.gutHeader 14 + p.data.length)
    serveTransits { s with gut := { g with flights := movedFlights s.txns (g.flights ++ [x]) }.noteHolding s.now }

/-- A packet that can go nowhere: its source hears of it (R486). -/
def dropPacket (s : State) (p : Packet) (code : Nat) : State :=
  if p.src = s.config.node then packetAnswered s p.copyId p.index code else meshSend s (.error p code)

/-- The forme of a packet that this node has sent; none of one in transit. -/
def packetForme (s : State) (p : Packet) : Option Nat :=
  if p.src = s.config.node then
    (s.mesh.sent.find? (fun x => x.copyId == p.copyId && x.index == p.index)).map (·.forme)
  else none

/-- Packets that were to leave on a port, or were sent on it and not acknowledged, go another way (R484, R487). -/
def reroute (src : Nat) (s : State) (p : Packet) : State :=
  match nextHop s { p with path := [] } with
  | .drop code => dropPacket s p code
  | .out h q =>
    let f := packetForme s p
    toPort (if q.path.isEmpty then s else countFor s f .meshDetourPkts 1) f src h q

/-- Takes the packets of some channels away from a port, those of the replay buffer first, and counts their replays. -/
def takePackets (s : State) (port : Nat) (test : MeshChannel → Bool) : State × List (MeshChannel × Packet) :=
  let q := getMeshPort s port
  let back := q.replay.filter (fun x => test x.1)
  (modMeshPort s port (fun q =>
    { q with queue := q.queue.filter (fun x => !test x.1), replay := q.replay.filter (fun x => !test x.1),
             replays := satAdd (2 ^ 32 - 1) q.replays back.length }), back ++ q.queue.filter (fun x => test x.1))

/-- Every packet of a port whose link is lost continues by detour (R487). -/
def rerouteAll (s : State) (port : Nat) : State :=
  let r := takePackets s port (fun _ => true)
  (r.2.map (·.2)).foldl (reroute (dieOfMeshPort port)) r.1

/-- The direction narrows: prompt packets go by detour, those waiting for replay among them; bulk ones wait for the link to
retrain (R484). -/
def rerouteNarrow (s : State) (port : Nat) : State :=
  let b := takePackets s port (fun c => !c.isPrompt)
  let s := modMeshPort b.1 port (fun q => { q with queue := q.queue ++ b.2 })
  if (getMeshPort s port).promptDetour then
    let r := takePackets s port MeshChannel.isPrompt
    (r.2.map (·.2)).foldl (reroute (dieOfMeshPort port)) r.1
  else s

/-- The link layer of the partner acknowledges a free number of the packets of the replay buffer, and what waits goes on. -/
def meshTickPort (s : State) (port : Nat) : State :=
  let q := getMeshPort s port
  if q.replay.isEmpty then pumpPort s port
  else
    let n := Config.freeNat s.free % (q.replay.length + 1)
    pumpPort (modMeshPort s.drawn port (fun q => { q with replay := q.replay.drop n })) port

def meshTick (s : State) : State := serveTransits ((List.range 6).foldl meshTickPort s)

/-- A packet has arrived on a link: how many of its flits FEC corrected is open (14 R457, Table 14.13). -/
def received (s : State) (port : Nat) : State :=
  let n := Config.freeNat s.free
  modMeshPort s.drawn port (fun q => { q with fecCorr := satAdd (2 ^ 32 - 1) q.fecCorr n })

/-! ## Sending a packet of a COPY (14 R473, R474, R480) -/

/-- Counts the bytes of a packet under the class it is sent in. -/
def countSent (s : State) (forme : Nat) (prompt : Bool) (n : Nat) : State :=
  countFor s (some forme) (if prompt then Ctr.meshTxPromptBytes else Ctr.meshTxBulkBytes) n

/-- A packet leaves the source: to the node's own inbound agent, onto a link, or it fails at once. `port` names the
Compositor of the copy engine. -/
def launchPacket (s : State) (forme port : Nat) (p : Packet) : State :=
  if p.dst = s.config.node then inboundPut (countSent s forme p.prompt p.data.length) port p
  else
    match nextHop s p with
    | .drop code => packetAnswered s p.copyId p.index code
    | .out h q =>
      let s := countSent s forme (channelOn s h q).isPrompt p.data.length
      let s := if q.path.isEmpty then s else countFor s (some forme) .meshDetourPkts 1
      toPort s (some forme) (dieOfMeshPort port) h q

/-- The port that the next packet of a COPY would leave on takes none now (14 R476, 01 R47). -/
def launchHolds (s : State) (p : Packet) : Bool :=
  p.dst != s.config.node && (match nextHop s p with
    | .drop _ => false
    | .out h q => portHolds s h q)

/-! ## Registration (14 R490 to R493) -/

/-- Present nodes, the own node included. -/
def presentNodes (s : State) : List Nat := s.config.node :: (s.mesh.gnids.filter (fun kv => kv.2.present)).map (·.1)

def refNode (s : State) : Nat := (minList (presentNodes s)).getD s.config.node

def distance (a b : Nat) : Nat :=
  (nodeX a - nodeX b) + (nodeX b - nodeX a) + ((nodeY a - nodeY b) + (nodeY b - nodeY a)) +
    ((nodeZ a - nodeZ b) + (nodeZ b - nodeZ a))

/-- Direction of the parent: z first, then y, then x (14 R490). -/
def parentDir (own ref : Nat) : Option Nat :=
  if nodeZ own < nodeZ ref then some 4
  else if nodeZ ref < nodeZ own then some 5
  else if nodeY own < nodeY ref then some 2
  else if nodeY ref < nodeY own then some 3
  else if nodeX own < nodeX ref then some 0
  else if nodeX ref < nodeX own then some 1
  else none

/-- The up neighbour nearest to the reference, the lower port code among equals. -/
def nearestUp (s : State) (ref : Nat) : Option Nat :=
  let ups := (List.range 6).filter (fun p => (getMeshPort s p).isUp)
  let far (p : Nat) : Nat := distance ((neighbour s.config s.config.node p).getD s.config.node) ref
  match minList (ups.map far) with
  | none => none
  | some m => ups.find? (fun p => far p == m)

def chooseParent (s : State) : Nat :=
  let ref := refNode s
  if ref = s.config.node then 255
  else
    match parentDir s.config.node ref with
    | some p => if (getMeshPort s p).isUp then p else (nearestUp s ref).getD 255
    | none => (nearestUp s ref).getD 255

/-- Reference, parent and depth follow the links and nodes; a change of parent of a joined node enters SETTLING
(14 R492, R493). -/
def retree (s : State) : State :=
  let ref := refNode s
  let par := chooseParent s
  let m := s.mesh
  let up := (List.range 6).any (fun p => (getMeshPort s p).isUp)
  let depth := if par = 255 then 0
    else distance ((neighbour s.config s.config.node par).getD ref) ref + 1
  let st := if !up then RegState.free
    else if m.regState == .free then .acquiring
    else if par != m.parent then .settling
    else m.regState
  { s with mesh := { m with ref := ref, parent := if up then par else 255, depth := if up then depth else 0,
                            regState := st, rate := if !up || par == 255 then 0 else m.rate } }

end Sys2Proof.Machine
end

