-- ==== Sys2Proof/Machine/Copy.lean ====
section
/-! DEFINITION. Data movement (12 R409 to R411, 13 R447, R448, 14 R480): COPY, FILL and ZERO, and the reads a host port
issues for a COPY. A row moves up to `budget` pieces; the rows that follow it move the rest. -/

namespace Sys2Proof.Machine

open Sys2Proof

abbrev CopyRes := Host.Outcome State Fault Refusal

/-! ## Fields (12 Table 12.14, R411) -/

def cpSrc (c : Nat) : Nat := bits c 63 0
def cpDst (c : Nat) : Nat := bits c 127 64
def cpLen (c : Nat) : Nat := bits c 191 128
def cpHint (c : Nat) : Nat := bits c 195 192
def cpSrcHost (c : Nat) : Bool := bit c 200
def cpDstKind (c : Nat) : Nat := bits c 202 201

def copyFields : List (Nat × Nat) := [(202, 201), (200, 200), (195, 192), (191, 128), (127, 64), (63, 0)]
def fillFields : List (Nat × Nat) := [(191, 128), (127, 64), (63, 0)]
def zeroFields : List (Nat × Nat) := [(191, 128), (127, 64)]

inductive Move where
  | device | fromHost | toHost | mesh
deriving DecidableEq, Repr

def moveOf (c : Nat) : Move :=
  if cpSrcHost c then .fromHost else if cpDstKind c = 1 then .toHost else if cpDstKind c = 2 then .mesh else .device

def portOf : MboxId → Nat
  | .host p => p
  | .core _ => 0

/-- The Compositor that holds a mailbox; A for a core mailbox (01 R45). -/
def dieOfMbox : MboxId → Nat
  | .host p => if p < 2 then 6 else 7
  | .core _ => 6

/-- The mailbox is a host port's, and the device may issue requests on it (12 R432, 13 R628). -/
def hostReady (s : State) : MboxId → Bool
  | .host p => (getPort s p).mayIssue
  | .core _ => false

/-! ## The copy engine (01 R45) -/

def engineDieFor (f : Forme) (mb : MboxId) (va : Nat) : Nat :=
  match entryAt f va with
  | some e => if e.state == .valid then paHome (e.paStart + (va - e.vaStart)) else dieOfMbox mb
  | none => dieOfMbox mb

def copyEngine (die : Nat) : Engine := { cls := if die < 6 then 2 else 4, die := die, unit := 0 }

def Slot.eng (x : Slot) : Engine := copyEngine (x.engine - 1)

def copyAccess (f : Nat) (x : Slot) (kind : Nat) : Access := { forme := f, eng := x.eng, kind := kind, pass := none }

/-- First mesh port of the route to a node. -/
def meshFirst (s : State) (c : Nat) : Option Nat := routePort s.config.node (bits c 126 112)

def meshDie (s : State) (mb : MboxId) (c : Nat) : Nat :=
  match meshFirst s c with
  | some p => dieOfMeshPort p
  | none => dieOfMbox mb

/-! ## The source side (12 R410, 10 R353) -/

inductive Stop where
  | none | poisoned | held | denied
deriving DecidableEq, Repr

/-- Bytes of one span up to the first poisoned sector. -/
def spanClean (d : LineData) (off n : Nat) : Nat :=
  if d.absent then 0
  else if off < 64 then (if d.p0 then 0 else if d.p1 then min n (64 - off) else n)
  else if d.p1 then 0 else n

/-- Reads source bytes for a copy engine until a sector is poisoned or a translation faults. -/
def gatherFrom (a : Access) (w : Waiter) (via : Via) : List (Nat × Nat) → State → State × (List Byte × Stop)
  | [], s => (s, ([], .none))
  | (va, n) :: r, s =>
    let t := translate s a va
    match t.2 with
    | .fault reason e =>
      let q := raiseFault t.1 a va reason e w
      (q.1, ([], if q.2 then .held else .denied))
    | .ok pa =>
      let d := readOnce t.1 via.agent via.unit (lineOf pa) false
      let off := pa % 128
      let m := spanClean d.2 off n
      if m < n then (d.1, (d.2.slice off m, .poisoned))
      else
        let q := gatherFrom a w via r d.1
        (q.1, (d.2.slice off n ++ q.2.1, q.2.2))

/-- How the copy engine of a slot reads and writes: bound for the host port or the mesh port where the data goes there, and
without data for a ZERO (01 R47, 09 R312). -/
def copyVia (s : State) (x : Slot) (mb : MboxId) (k : Nat) : Via :=
  let m := getMbox s mb
  let c := slotCmd m k
  { agent := agentOfDie (x.engine - 1),
    unit := if slotOpcode m k != 0x30 then coresUnit
      else match moveOf c with
        | .device => coresUnit
        | .mesh => meshUnit ((meshFirst s c).getD 0)
        | _ => portUnit (portOf mb),
    zero := slotOpcode m k == 0x32 }

def readSource (s : State) (f : Nat) (x : Slot) (mb : MboxId) (k va n : Nat) : State × (List Byte × Stop) :=
  gatherFrom (copyAccess f x 0) (.copy mb k) (copyVia s x mb k) (lineSpans va n) s

/-! ## The destination side -/

/-- Marks every sector that a range of one line touches as poisoned. -/
def poisonSpan (s : State) (pa n : Nat) : State :=
  let s := homeWriteSector pa true [] s
  if (pa + n - 1) / 64 = pa / 64 then s else homeWriteSector (pa + n - 1) true [] s

/-- Writes a piece of one line for a copy engine; poisoned data leaves the sectors it touches poisoned. -/
def writeDest (s : State) (f : Nat) (x : Slot) (mb : MboxId) (k va hint : Nat) (data : List Byte) (bad : Bool) :
    State × Stop :=
  let a := copyAccess f x 1
  let t := translate s a va
  match t.2 with
  | .fault reason e =>
    let q := raiseFault t.1 a va reason e (.copy mb k)
    (q.1, if q.2 then .held else .denied)
  | .ok pa =>
    let s := writeBytesPa t.1 (copyVia s x mb k) pa (if bad then 0 else hint) data
    (if bad then poisonSpan s pa data.length else s, .none)

/-! ## Ends -/

def offsetResult (o : Nat) : Nat := packFields [(64, o)]

def advance (s : State) (mb : MboxId) (k n : Nat) : State := modSlot s mb k (fun x => { x with offset := x.offset + n })

/-- The reads of a COPY are given up. -/
def dropReads (s : State) (p : Nat) (mb : MboxId) (k : Nat) : State :=
  modPort s p (fun x => { x with reads := x.reads.filter (fun r => !(r.mb == mb && r.slot == k)) })

/-- An abort has stopped a running COPY, which completes ABORTED once the transfers it has issued are performed (18 R589). -/
def Slot.aborting (x : Slot) : Bool := x.phase == .running && x.status == stAborted

/-- A command that moves data ends early at its offset (12 R410), ABORTED where an abort had stopped it. -/
def endsAt (s : State) (mb : MboxId) (k st : Nat) : State :=
  let x := getSlot s mb k
  finish (dropReads s (portOf mb) mb k) mb k (if x.aborting then stAborted else st) 0 (offsetResult x.offset)

/-- What a stop of one side means: held requests wait in their record. -/
def stopped (s : State) (mb : MboxId) (k : Nat) : Stop → State
  | .none => s
  | .held => s
  | .poisoned => endsAt s mb k stPoisoned
  | .denied => endsAt s mb k stTranslationFault

/-- The slot has ended or waits in a fault record. -/
def stalled (s : State) (mb : MboxId) (k : Nat) : Bool := (getSlot s mb k).phase != .running || slotHeld s mb k

/-! ## Device to device -/

/-- One destination line, or what of it the source yields. -/
def deviceStep (s : State) (f : Nat) (mb : MboxId) (k c : Nat) : State :=
  let x := getSlot s mb k
  if x.offset = cpLen c then finish s mb k stOk 0 0
  else
    let dst := cpDst c + x.offset
    let n := min (cpLen c - x.offset) (128 - dst % 128)
    let g := readSource s f x mb k (cpSrc c + x.offset) n
    let data := g.2.1
    if data.isEmpty then stopped g.1 mb k g.2.2
    else
      let w := writeDest g.1 f x mb k dst (cpHint c) data false
      match w.2 with
      | .none => stopped (advance w.1 mb k data.length) mb k g.2.2
      | st => stopped w.1 mb k st

/-! ## Device to host (13 R447) -/

def hostSend (s : State) (p : Nat) (t : HostTlp) : State := modPort s p (fun x => { x with tx := x.tx ++ [t] })

/-- Bytes of one request: at most `size`, and within one 4 KiB page of the bus. -/
def busPiece (bus size rest : Nat) : Nat := min rest (min size (4096 - bus % 4096))

def toHostStep (s : State) (f : Nat) (mb : MboxId) (k c : Nat) : State :=
  let x := getSlot s mb k
  let p := portOf mb
  if x.offset = cpLen c then finish s mb k stOk 0 0
  else if (getPort s p).d3hot || (getPort s p).link != .l0 then s
  else
    let bus := cpDst c + x.offset
    let n := busPiece bus (min 512 (getPort s p).maxPayload) (cpLen c - x.offset)
    let g := readSource s f x mb k (cpSrc c + x.offset) n
    if g.2.1.isEmpty then stopped g.1 mb k g.2.2
    else stopped (advance (hostSend g.1 p (.write TlpAttr.clear bus g.2.1)) mb k g.2.1.length) mb k g.2.2

/-! ## Host to device (13 R447, R448) -/

def portX4 (s : State) (p : Nat) : Bool := if p < 2 then s.config.portsA else s.config.portsB

def maxReads (s : State) (p : Nat) : Nat := if portX4 s p then 384 else 768

def readsOf (x : Port) (mb : MboxId) (k : Nat) : List HostRead := x.reads.filter (fun r => r.mb == mb && r.slot == k)

/-- First source offset that no read covers yet. -/
def issuedTo (s : State) (mb : MboxId) (k : Nat) : Nat :=
  match (readsOf (getPort s (portOf mb)) mb k).getLast? with
  | some r => r.offset + r.len
  | none => (getSlot s mb k).offset

/-- A read without an answer, which holds its tag. -/
def HostRead.outstanding (r : HostRead) : Bool := r.arrived.isNone && !r.failed

/-- The lowest tag that no outstanding read has. -/
def freeTag (x : Port) : Nat := ((List.range 768).find? (fun t => !x.reads.any (fun r => r.outstanding && r.tag == t))).getD 0

/-- One read leaves the port, where it may. -/
def fromHostStep (s : State) (mb : MboxId) (k c : Nat) : State :=
  let p := portOf mb
  let x := getPort s p
  let o := issuedTo s mb k
  if (getSlot s mb k).aborting || o = cpLen c || x.d3hot || x.link != .l0 ||
      decide ((x.reads.filter HostRead.outstanding).length ≥ maxReads s p) then s
  else
    let bus := cpSrc c + o
    let n := busPiece bus (min 512 x.maxReadReq) (cpLen c - o)
    let r : HostRead := { tag := freeTag x, mb := mb, slot := k, offset := o, len := n, arrived := none,
                          poisoned := false, failed := false }
    modPort s p (fun y => { y with reads := y.reads ++ [r], tx := y.tx ++ [.read TlpAttr.clear r.tag bus n] })

/-- Bytes that have arrived in order from an offset on, with their poison. -/
def arrivedFrom (o : Nat) : List HostRead → List (Byte × Bool)
  | [] => []
  | r :: rs =>
    match r.arrived with
    | none => []
    | some d => if r.failed then [] else ((d.drop (o - r.offset)).map (fun b => (b, r.poisoned))) ++ arrivedFrom (r.offset + r.len) rs

/-- The first read of a COPY that has brought no data has failed. -/
def headFailed (rs : List HostRead) : Bool :=
  match rs.find? (fun r => r.failed || r.arrived.isNone) with
  | some r => r.failed
  | none => false

/-- More data of a COPY may still arrive. -/
def awaitsData (rs : List HostRead) (x : Slot) : Bool := !headFailed rs && !(x.aborting && !rs.any HostRead.outstanding)

/-- Writes one destination line of what has arrived, or the part of it after which no more arrives. -/
def carryStep (s : State) (f : Nat) (mb : MboxId) (k c : Nat) : State :=
  let x := getSlot s mb k
  let p := portOf mb
  let rs := readsOf (getPort s p) mb k
  let dst := cpDst c + x.offset
  let n := min (cpLen c - x.offset) (128 - dst % 128)
  let data := (arrivedFrom x.offset rs).take n
  if x.offset = cpLen c then if x.aborting then endsAt s mb k stAborted else finish s mb k stOk 0 0
  else if data.length < n && awaitsData rs x then s
  else if data.isEmpty then endsAt s mb k stHostError
  else
    let w := writeDest s f x mb k dst (cpHint c) (data.map (·.1)) (data.any (·.2))
    match w.2 with
    | .none =>
      let o := x.offset + data.length
      advance (modPort w.1 p (fun y => { y with reads := y.reads.filter (fun r =>
        !(r.mb == mb && r.slot == k && decide (r.offset + r.len ≤ o))) })) mb k data.length
    | st => stopped w.1 mb k st

def carry : Nat → Nat → MboxId → Nat → Nat → State → State
  | 0, _, _, _, _, s => s
  | n + 1, f, mb, k, c, s => if stalled s mb k then s else carry n f mb k c (carryStep s f mb k c)

/-- Everything that has arrived in order is written on (12 R409); a write that a fault holds back is not performed for a COPY
that an abort has stopped. -/
def carryAll (s : State) (f : Nat) (mb : MboxId) (k c : Nat) : State :=
  let s := carry ((readsOf (getPort s (portOf mb)) mb k).length * 6 + 2) f mb k c s
  if (getSlot s mb k).aborting && slotHeld s mb k then endsAt s mb k stAborted else s

/-! ## Device to mesh (14 R480) -/

/-- Keeps a status with which the COPY ends once its packets are acknowledged. -/
def pend (s : State) (mb : MboxId) (k st detail : Nat) : State :=
  modSlot s mb k (fun x => { x with status := st, detail := detail })

def meshStop (s : State) (mb : MboxId) (k : Nat) : Stop → State
  | .none => s
  | .held => s
  | .poisoned => pend s mb k stPoisoned 0
  | .denied => pend s mb k stTranslationFault 0

/-- Index of the next packet: packets are cut at the 256-byte boundaries of the destination offset. -/
def packetIndex (c o : Nat) : Nat := (bits c 103 64 + o) / 256 - bits c 103 64 / 256

/-- Sends one packet, if its port takes it. -/
def meshStep (s : State) (f : Nat) (mb : MboxId) (k c : Nat) : State :=
  let x := getSlot s mb k
  if x.status != 0 || x.offset = cpLen c then s
  else
    let off := bits c 103 64 + x.offset
    let n := min (cpLen c - x.offset) (256 - off % 256)
    let packet (job : Nat) (data : List Byte) : Packet :=
      { job := job, src := s.config.node, dst := bits c 126 112, window := bits c 111 104, offset := off,
        data := data, prompt := decide (cpLen c ≤ 256), copyId := x.waitId, index := packetIndex c x.offset,
        detours := 0, path := [] }
    if launchHolds s (packet (((activeJobOf s f).map (·.job)).getD 0) []) then s
    else
    let g := readSource s f x mb k (cpSrc c + x.offset) n
    let s := g.1
    let data := g.2.1
    -- a held request sends nothing of its packet
    if data.isEmpty || g.2.2 == .held then
      let s := meshStop s mb k g.2.2
      if g.2.2 == .held then s else meshCopySettle s mb k x.waitId (cpLen c)
    else
      match activeJobOf s f with
      | none => s
      | some j =>
        let p := packet j.job data
        let t : SentPacket := { forme := f, ended := false, mb := mb, slot := k, copyId := p.copyId, index := p.index,
                                offset := x.offset, len := data.length }
        let s := { s with mesh := { s.mesh with sent := s.mesh.sent ++ [t] } }
        let s := meshStop (advance s mb k data.length) mb k g.2.2
        launchPacket s f ((meshFirst s c).getD (if dieOfMbox mb = 6 then 0 else 3)) p

/-! ## The commands -/

def moveStep (s : State) (f : Nat) (mb : MboxId) (k c : Nat) : State :=
  match moveOf c with
  | .device => deviceStep s f mb k c
  | .toHost => toHostStep s f mb k c
  | .fromHost => fromHostStep s mb k c
  | .mesh => meshStep s f mb k c

def moveSteps : Nat → Nat → MboxId → Nat → Nat → State → State
  | 0, _, _, _, _, s => s
  | n + 1, f, mb, k, c, s => if stalled s mb k then s else moveSteps n f mb k c (moveStep s f mb k c)

/-- The command has started on a copy engine. -/
def startMove (s : State) (mb : MboxId) (k die w : Nat) : State :=
  modSlot s mb k (fun x => { x with phase := .running, pastStep8 := true, offset := 0, engine := die + 1, waitId := w })

def copyChecks (s : State) (mb : MboxId) (c : Nat) : List (Bool × Nat × Nat) :=
  let host := cpSrcHost c
  let kind := cpDstKind c
  [reservedCheck copyFields c,
   (kind == 3, stBadField, fieldOff 201),
   (host && kind != 0, stBadField, fieldOff 200),
   (decide (cpHint c ≥ 10) || (cpHint c != 0 && kind != 0), stBadField, fieldOff 192),
   (!host && bits c 63 56 != 0, stBadField, fieldOff 0),
   (kind == 0 && bits c 127 120 != 0, stBadField, fieldOff 64),
   (kind == 2 && bit c 127, stBadField, fieldOff 64),
   (!host && kind == 0 && extMeet (cpSrc c, cpLen c) (cpDst c, cpLen c), stOverlap, fieldOff 0),
   (host && !hostReady s mb, stHostNotArmed, fieldOff 0),
   (kind == 1 && !hostReady s mb, stHostNotArmed, fieldOff 64)]

/-- A MESH_JOB_RELEASE of the forme runs (14 R470). -/
def releasing (s : State) (fid : Nat) : Bool :=
  (ownedSlots s).any (fun x =>
    formeOfMbox s x.1 == some fid && (getSlot s x.1 x.2).phase == .running && slotOpcode (getMbox s x.1) x.2 == 0x81)

/-- Why a COPY to the mesh cannot start (14 R482). -/
def meshRefused (s : State) (f c : Nat) : Option Nat :=
  match activeJobOf s f with
  | none => some errNoJob
  | some j => if !j.holds (bits c 126 112) 0 then some errOutOfBox else if releasing s f then some errReleased else none

/-- COPY after its checks. -/
def copyStart (s : State) (fid : Nat) (f : Forme) (mb : MboxId) (k c : Nat) : State :=
  match moveOf c with
  | .device => startMove s mb k (engineDieFor f mb (cpDst c)) 0
  | .fromHost => startMove s mb k (dieOfMbox mb) 0
  | .toHost => startMove s mb k (dieOfMbox mb) 0
  | .mesh =>
    match meshRefused s fid c with
    | some code => finish s mb k stMeshError 0 (meshResult 0 code)
    | none =>
      let id := s.mesh.nextCopy
      startMove { s with mesh := { s.mesh with nextCopy := id + 1 } } mb k (meshDie s mb c) id

/-- COPY: checks and start, and up to `budget` pieces of its data. -/
def execCopy (mb : MboxId) (slot budget : Nat) (s : State) : CopyRes :=
  match startsCmd s mb slot 0x30, runsCmd s mb slot 0x30, formeOfMbox s mb with
  | some c, _, some fid =>
    match getForme s fid with
    | none => .next s
    | some f =>
      if cpLen c = 0 then .next (reject s mb slot stOkEmpty 0)
      else .next (moveSteps budget fid mb slot c (checked s mb slot (copyChecks s mb c) (copyStart s fid f mb slot c)))
  | none, some c, some fid =>
    let s := if moveOf c = .fromHost then carryAll s fid mb slot c else s
    .next (moveSteps budget fid mb slot c s)
  | _, _, _ => .next s

/-! ## FILL and ZERO -/

/-- Bytes of the pattern from an offset on. -/
def patternBytes (pattern o n : Nat) : List Byte :=
  (List.range n).map (fun i => BitVec.ofNat 8 (pattern / 2 ^ (8 * ((o + i) % 8))))

/-- One line of a FILL (or of a ZERO, whose pattern is 0). -/
def fillStep (s : State) (f : Nat) (mb : MboxId) (k c pattern : Nat) : State :=
  let x := getSlot s mb k
  if x.offset = cpLen c then finish s mb k stOk 0 0
  else
    let dst := cpDst c + x.offset
    let n := min (cpLen c - x.offset) (128 - dst % 128)
    let w := writeDest s f x mb k dst 0 (patternBytes pattern x.offset n) false
    match w.2 with
    | .none => advance w.1 mb k n
    | st => stopped w.1 mb k st

def fillSteps : Nat → Nat → MboxId → Nat → Nat → Nat → State → State
  | 0, _, _, _, _, _, s => s
  | n + 1, f, mb, k, c, pat, s =>
    if stalled s mb k then s else fillSteps n f mb k c pat (fillStep s f mb k c pat)

/-- What FILL and ZERO share. -/
def fillRow (s : State) (mb : MboxId) (k opc budget : Nat) (fields : List (Nat × Nat)) (pattern : Nat → Nat) : State :=
  match startsCmd s mb k opc, runsCmd s mb k opc, formeOfMbox s mb with
  | some c, _, some fid =>
    match getForme s fid with
    | none => s
    | some f =>
      if cpLen c = 0 then reject s mb k stOkEmpty 0
      else
        let go := startMove s mb k (engineDieFor f mb (cpDst c)) 0
        fillSteps budget fid mb k c (pattern c) (checked s mb k [reservedCheck fields c, vaCheck c 64] go)
  | none, some c, some fid => fillSteps budget fid mb k c (pattern c) s
  | _, _, _ => s

def execFill (mb : MboxId) (slot budget : Nat) (s : State) : CopyRes :=
  .next (fillRow s mb slot 0x31 budget fillFields (fun c => bits c 63 0))

def execZero (mb : MboxId) (slot budget : Nat) (s : State) : CopyRes :=
  .next (fillRow s mb slot 0x32 budget zeroFields (fun _ => 0))

/-! ## Answers to reads (13 R448) -/

/-- A read of a port by its tag, still without an answer. -/
def readByTag (x : Port) (tag : Nat) : Option HostRead := x.reads.find? (fun r => r.tag == tag && r.outstanding)

def setRead (s : State) (p : Nat) (r r' : HostRead) : State :=
  modPort s p (fun x => { x with reads := x.reads.map (fun y => if y = r then r' else y) })

/-- What follows from an answered read: the COPY goes on as far as its data reaches. -/
def afterRead (s : State) (r : HostRead) : State :=
  match formeOfMbox s r.mb with
  | none => s
  | some f => if stalled s r.mb r.slot then s else carryAll s f r.mb r.slot (slotCmd (getMbox s r.mb) r.slot)

/-- HOST_READ_COMPLETION: the data, or its poison, goes on to the destination in offset order. -/
def execHostReadCompletion (port tag : Nat) (data : List Byte) (poisoned : Bool) (s : State) : CopyRes :=
  let x := getPort s port
  if !s.powered || x.link != .l0 then .next s
  else
    match readByTag x tag with
    | none => .next s
    | some r =>
      let s := if poisoned then logAer s port .poisonedTlp (.hostReadCompletion port tag data poisoned) else s
      let r' := { r with arrived := some ((data ++ List.replicate r.len 0#8).take r.len), poisoned := poisoned }
      .next (afterRead (setRead s port r r') r)

/-- HOST_READ_TIMEOUT: the read has failed, and its COPY ends HOST_ERROR at the first byte that did not arrive. -/
def execHostReadTimeout (port tag : Nat) (s : State) : CopyRes :=
  let x := getPort s port
  if !s.powered then .next s
  else
    match readByTag x tag with
    | none => .next s
    | some r =>
      let s := logAer s port .completionTimeout (.hostReadTimeout port tag)
      .next (afterRead (setRead s port r { r with failed := true }) r)

end Sys2Proof.Machine
end

