-- ==== Sys2Proof/Machine/PciConfig.lean ====
section
/-! DEFINITION. The configuration space of a host port (13 R439 to R442, R444): the type 0 header, the capabilities of 13
Table 13.2, what a read of them returns and what a write does. The spec gives no place to a capability and no field of the ones
that PCI Express defines: both are PCI Express's (notes/assumptions/126.md). -/

namespace Sys2Proof.Machine

open Sys2Proof

/-! ## The type 0 header (13 R439, R441) -/

/-- Low bits of a BAR: 64-bit memory, prefetchable or not. -/
def barType (prefetchable : Bool) : Nat := if prefetchable then 0xC else 0x4

/-- The 64 bytes of a port's header: Vendor ID, Device ID, Class Code, a single-function type 0 header, a 64-bit register BAR
that is not prefetchable, a 64-bit aperture BAR that is, no I/O BAR, no expansion ROM, Interrupt Pin 0. -/
def configHeader (s : State) (p : Nat) : List Byte :=
  let x := getPort s p
  let cmd := Nat.lor x.cfg.command (packFields [(1, 0), (1, boolBit x.memSpace), (1, boolBit x.busMaster)])
  toBytes 64 (packFields
    [(16, 0x1F9C), (16, if portX4 s p then 0x0D61 else 0x0D60), (16, cmd), (16, 0x0010), (8, 0), (24, 0x120000),
     (8, x.cfg.lineSize), (8, 0), (8, 0x00), (8, 0), (64, x.cfg.bar0 + barType false), (64, x.cfg.bar2 + barType true),
     (64, 0), (32, 0), (32, 0), (32, 0), (32, 0x40), (32, 0), (8, x.cfg.intLine), (8, 0x00), (16, 0)])

/-! ## Capabilities (13 Table 13.2) -/

/-- Header of an extended capability. -/
def extCap (id version next : Nat) : Nat := packFields [(16, id), (4, version), (12, next)]

/-- Value of a Completion Timeout in Device Control 2: the lowest range of PCI Express that reaches it. -/
def timeoutRanges : List (Nat × Nat) :=
  [(0, 50000), (1, 100), (2, 10000), (5, 55000), (6, 210000), (9, 900000), (10, 3500000), (13, 13000000), (14, 64000000)]

def sizeCode (n : Nat) : Nat := Nat.log2 n - 7

/-- Device Control as it reads: what the host wrote, with Max_Payload_Size and Max_Read_Request_Size. -/
def Port.devCtl (x : Port) : Nat :=
  Nat.lor x.cfg.devCtl (packFields [(5, 0), (3, sizeCode x.maxPayload), (4, 0), (3, sizeCode x.maxReadReq)])

/-- Advertised sizes of the aperture: bit 4 + n for 2^(20 + n) bytes, 1 MiB to 64 GiB (R442). -/
def rebarSizes : Nat := packFields [(4, 0), (17, 2 ^ 17 - 1)]

/-- The registers behind the header, by offset, those that are not zero: power management, MSI-X and PCI Express, then AER, the
serial number, Resizable BAR, the requester filter, Data Link Feature, the physical layers and lane margining. -/
def configRegs (s : State) (p : Nat) : List (Nat × Nat) :=
  let x := getPort s p
  let c := x.cfg
  let lanes := if portX4 s p then 4 else 8
  [(0x40, packFields [(8, 0x01), (8, 0x48), (16, 0x0003)]),
   (0x44, packFields [(2, if x.d3hot then 3 else 0), (1, 0), (1, 1)]),
   (0x48, packFields [(8, 0x11), (8, 0x60), (11, 63), (3, 0), (1, boolBit c.msixMask), (1, boolBit c.msixEnable)]),
   (0x4C, 0xA000), (0x50, 0xB000),
   (0x60, packFields [(8, 0x10), (8, 0), (4, 2), (4, 0), (7, 0), (1, 1)]),
   (0x64, packFields [(3, 2), (2, 0), (1, 1), (9, 0), (1, 1), (12, 0), (1, 1)]),
   (0x68, packFields [(16, x.devCtl), (16, c.devSta)]),
   (0x6C, packFields [(4, 6), (6, lanes), (2, 2), (10, 0), (1, 1), (1, 0), (8, p)]),
   (0x70, packFields [(16, c.linkCtl), (4, x.rate), (6, x.width)]),
   (0x84, packFields [(4, 15), (3, 0), (1, 1), (1, 1), (1, 0), (2, 0), (2, 1), (2, 0), (1, 1), (1, 1)]),
   (0x88, c.devCtl2),
   (0x8C, packFields [(1, 0), (6, 63)]),
   (0x90, packFields [(4, 6), (22, 0), (1, boolBit (x.link == .l0))]),
   (0x100, extCap 0x0001 2 0x148), (0x104, c.uncorr), (0x108, c.uncorrMask), (0x10C, c.uncorrSev), (0x110, c.corr),
   (0x114, c.corrMask),
   (0x118, match x.aer.head? with
     | some e => e.1.uncorr
     | none => 0),
   (0x148, extCap 0x0003 1 0x158), (0x14C, bits s.sec.serial 31 0), (0x150, bits s.sec.serial 63 32),
   (0x158, extCap 0x0015 1 0x168), (0x15C, rebarSizes),
   (0x160, packFields [(3, 2), (2, 0), (3, 1), (6, x.barLog2 - 20)]),
   (0x168, extCap 0x000B 1 0x178), (0x16C, packFields [(16, 1), (4, 1), (12, 0x10)]),
   (0x170, bits x.filter 31 0), (0x174, bits x.filter 63 32),
   (0x178, extCap 0x0025 1 0x184), (0x17C, packFields [(1, 1), (30, 0), (1, 1)]),
   (0x180, packFields [(1, boolBit (x.link == .l0)), (30, 0), (1, boolBit (x.link == .l0))]),
   (0x184, extCap 0x0026 1 0x1B0), (0x1B0, extCap 0x0027 1 0x1D8), (0x1D8, extCap 0x002A 1 0x200), (0x200, extCap 0x0031 1 0)]

/-- A register of configuration space that lies behind the header. -/
def configDword (s : State) (p off : Nat) : Nat := (mapGet (configRegs s p) (off / 4 * 4)).getD 0

/-- What a read of `n` bytes at an offset of configuration space returns. -/
def configRead (s : State) (p off n : Nat) : List Byte :=
  let h := configHeader s p
  (List.range n).map (fun i =>
    let a := off + i
    if a < 64 then h.getD a 0 else (toBytes 4 (configDword s p a)).getD (a % 4) 0)

/-! ## Writes -/

/-- A register's new value: the bits of `rw` that lie in the bytes written take the new ones. -/
def rwWrite (old new rw bytes : Nat) : Nat :=
  let m := Nat.land rw bytes
  Nat.lor (old - Nat.land old m) (Nat.land new m)

/-- Bits of a register that are cleared by writing one. -/
def rw1c (old new bytes : Nat) : Nat := old - Nat.land old (Nat.land new bytes)

/-- Device Control: error reporting, and the two sizes, where the device supports the value. -/
def Port.writeDevCtl (x : Port) (v bytes : Nat) : Port :=
  let n := rwWrite x.devCtl v 0x70FF bytes
  let mps := 2 ^ (bits n 7 5 + 7)
  let mrr := 2 ^ (bits n 14 12 + 7)
  { x with cfg := { x.cfg with devCtl := Nat.land n 0x000F, devSta := rw1c x.cfg.devSta (v / 2 ^ 16) (bytes / 2 ^ 16) },
           maxPayload := if mps ≤ 512 then mps else x.maxPayload
           maxReadReq := if mrr ≤ 4096 then mrr else x.maxReadReq }

/-- Device Control 2: the Completion Timeout Value, and the enables of what Table 13.2 has. -/
def Port.writeDevCtl2 (x : Port) (v bytes : Nat) : Port :=
  let n := rwWrite x.cfg.devCtl2 v 0x100F bytes
  { x with cfg := { x.cfg with devCtl2 := n },
           completionTimeoutUs := (mapGet timeoutRanges (bits n 3 0)).getD x.completionTimeoutUs }

/-- The BARs take the address bits above their size: 1 MiB, and what the Resizable BAR capability holds (R441, R442). -/
def barWrite (log2 old v bytes : Nat) : Nat := rwWrite old v (2 ^ 64 - 2 ^ log2) bytes

/-- A write of a register of configuration space but Command: four bytes at an offset divisible by four, `bytes` the
mask of those written. A register that no capability has, and a bit that is not writable, keeps its value. -/
def Port.configSet (x : Port) (off v bytes : Nat) : Port :=
  match off with
  | 0x0C => { x with cfg := { x.cfg with lineSize := rwWrite x.cfg.lineSize v 0xFF bytes } }
  | 0x10 => { x with cfg := { x.cfg with bar0 := barWrite 20 x.cfg.bar0 v bytes } }
  | 0x14 => { x with cfg := { x.cfg with bar0 := barWrite 20 x.cfg.bar0 (v * 2 ^ 32) (bytes * 2 ^ 32) } }
  | 0x18 => { x with cfg := { x.cfg with bar2 := barWrite x.barLog2 x.cfg.bar2 v bytes } }
  | 0x1C => { x with cfg := { x.cfg with bar2 := barWrite x.barLog2 x.cfg.bar2 (v * 2 ^ 32) (bytes * 2 ^ 32) } }
  | 0x3C => { x with cfg := { x.cfg with intLine := rwWrite x.cfg.intLine v 0xFF bytes } }
  | 0x44 =>
    let d := rwWrite (if x.d3hot then 3 else 0) v 3 bytes
    ({ x with d3hot := if d = 3 then true else if d = 0 then false else x.d3hot } : Port).flushMsix
  | 0x48 =>
    let n := rwWrite (packFields [(14, 0), (1, boolBit x.cfg.msixMask), (1, boolBit x.cfg.msixEnable)]) (v / 2 ^ 16) 0xC000
      (bytes / 2 ^ 16)
    ({ x with cfg := { x.cfg with msixMask := bit n 14, msixEnable := bit n 15 } } : Port).flushMsix
  | 0x68 => x.writeDevCtl v bytes
  | 0x70 => { x with cfg := { x.cfg with linkCtl := rwWrite x.cfg.linkCtl v 0x0003 bytes } }
  | 0x88 => x.writeDevCtl2 v bytes
  | 0x104 => { x with cfg := { x.cfg with uncorr := rw1c x.cfg.uncorr v bytes } }
  | 0x108 => { x with cfg := { x.cfg with uncorrMask := rwWrite x.cfg.uncorrMask v 0x00547030 bytes } }
  | 0x10C => { x with cfg := { x.cfg with uncorrSev := rwWrite x.cfg.uncorrSev v 0x00547030 bytes } }
  | 0x110 => { x with cfg := { x.cfg with corr := rw1c x.cfg.corr v bytes } }
  | 0x114 => { x with cfg := { x.cfg with corrMask := rwWrite x.cfg.corrMask v 0x0000F1C1 bytes } }
  | 0x160 =>
    let n := rwWrite (packFields [(8, 0), (6, x.barLog2 - 20)]) v 0x3F00 bytes
    if bits n 13 8 ≤ 16 then { x with barLog2 := 20 + bits n 13 8 } else x
  | 0x170 => x.setFilter (rwWrite x.filter v 0xFFFF0007 bytes)
  | 0x174 => x.setFilter (rwWrite x.filter (v * 2 ^ 32) (0xFFFFFFFF * 2 ^ 32) (bytes * 2 ^ 32))
  | _ => x

/-- The four bytes at `off` that a write of `data` at `at_` brings, and the mask of those it touches. -/
def dwordOf (at_ : Nat) (data : List Byte) (off : Nat) : Nat × Nat :=
  ((List.range 4).foldl (fun (v, m) i =>
    let a := off + i
    if at_ ≤ a ∧ a < at_ + data.length then
      (v + (data.getD (a - at_) 0).toNat * 2 ^ (8 * i), m + 255 * 2 ^ (8 * i))
    else (v, m)) (0, 0))

/-- Offsets of the registers that a write touches. -/
def dwordsOf (at_ n : Nat) : List Nat := ((List.range n).map (fun i => (at_ + i) / 4 * 4)).eraseDups

/-- A write of configuration space but for Command. -/
def Port.configWrite (x : Port) (at_ : Nat) (data : List Byte) : Port :=
  (dwordsOf at_ data.length).foldl (fun x o =>
    let d := dwordOf at_ data o
    if d.2 = 0 then x else x.configSet o d.1 d.2) x

/-- Memory Space Enable as it is written by a requester: from 0 to 1 the port learns RID0 (13 Table 13.3). -/
def Port.setMemSpace (x : Port) (rid : Nat) (value : Bool) : Port :=
  if value && !x.memSpace then { x with memSpace := true, rid0 := rid % 2 ^ 16, valid := setBit x.valid 0 }
  else { x with memSpace := value }

end Sys2Proof.Machine
end

