-- ==== Sys2Proof/Machine/HostPort.lean ====
section
/-! DEFINITION. The host ports (13): their events and resets with the recovery records (12 R429 to R433), the status and
recovery pages, and the aperture. -/

namespace Sys2Proof.Machine

open Sys2Proof

abbrev PortRes := Host.Outcome State Fault Refusal

/-! ## Pages (12 Tables 12.20 to 12.22) -/

/-- The configuration has the port (13 Table 13.1). -/
def portExists (s : State) (p : Nat) : Bool := decide (p < 4) && (p % 2 == 0 || portX4 s p)

/-- The 64 bytes of the status page header. -/
def statusHeader (s : State) (p : Nat) : List Byte :=
  let x := getPort s p
  toBytes 64 (packFields
    [(64, x.mbox.doneMask), (64, x.mbox.ownedMask), (64, s.now), (8, p), (8, x.forme.getD 0xFF),
     (1, boolBit (bit s.config.admin p)), (1, boolBit x.armed), (14, 0), (32, x.epoch), (32, x.mbox.dropped),
     (32, x.mbox.seals), (64, x.aperBase), (6, x.aperLog2)])

/-- The fault area of the status page, offsets 0x400 to 0x7FF. -/
def faultArea (s : State) (p : Nat) : List Byte :=
  match (getPort s p).forme.bind (fun f => (getForme s f).map (fun x => (f, x))) with
  | none => List.replicate 1024 0#8
  | some (f, x) => ((x.faults.flatMap (FaultRec.pack f)) ++ List.replicate 1024 0#8).take 1024

/-- The 4 KiB of a status page (12 R428): the header at 0x000, the fault area at 0x400, zero elsewhere. -/
def statusPage (s : State) (p : Nat) : List Byte :=
  statusHeader s p ++ List.replicate 960 0#8 ++ faultArea s p ++ List.replicate 2048 0#8

def RecRec.pack (r : RecRec) : List Byte :=
  toBytes 48 (packFields
    [(6, r.slot), (2, 0), (8, r.outcome), (16, r.status), (16, r.opcode), (16, r.epochLo), (56, r.seq), (8, 0),
     (64, r.lo), (64, r.hi)])

/-- The recovery page header, 512 bits. -/
def recoveryHeader (x : Port) : Nat :=
  packFields
    [(32, x.epoch), (4, x.resetKind), (28, 0), (64, x.tReset), (1, boolBit x.pendingAck), (7, 0),
     (7, (x.records.filter (fun r => r.2.outcome != 0)).length)]

/-- The recovery page: its header and the record of slot k at 0x040 + 48 k. -/
def recoveryPage (x : Port) : List Byte :=
  toBytes 64 (recoveryHeader x) ++ (List.range 64).flatMap (fun k =>
    match mapGet x.records k with
    | some r => r.pack
    | none => List.replicate 48 0#8)

/-- What a read of `n` bytes of the register BAR returns (12 Table 12.1, R387): the slots, the status page, the recovery
page, the MSI-X table and its pending bits; reserved offsets read as zero. -/
def barByte (s : State) (p a : Nat) : Byte :=
  let x := getPort s p
  if a < 0x8000 then byteAt x.mbox.bytes a
  else if a < 0x9000 then (statusPage s p).getD (a - 0x8000) 0
  else if a < 0xA000 then (recoveryPage x).getD (a - 0x9000) 0
  else if a < 0xA400 then byteAt x.msixTable (a - 0xA000)
  else if 0xB000 ≤ a ∧ a < 0xB008 then (toBytes 8 x.msixPending).getD (a - 0xB000) 0
  else 0

def barRead (s : State) (p off n : Nat) : List Byte := (List.range n).map (fun i => barByte s p (off + i))

/-! ## Transfers cut off (12 R431, 13 R454, R628) -/

/-- Data sent and not acknowledged never exceeds this. -/
def tornCap (s : State) (p : Nat) : Nat := if portX4 s p then 24576 else 49152

/-- OFFSET of a TORN transfer that has sent `n` bytes: how much was acknowledged is open. -/
def tornOffset (s : State) (p n : Nat) : State × Nat :=
  (s.drawn, n - min n (Config.freeNat s.free % (tornCap s p + 1)))

/-- A COPY of a port that moves data from or to host memory now. -/
def hostMove (s : State) (p k : Nat) : Option Move :=
  let m := (getPort s p).mbox
  if (m.slotAt k).phase == .running && slotOpcode m k == 0x30 then
    match moveOf (slotCmd m k) with
    | .fromHost => some .fromHost
    | .toHost => some .toHost
    | _ => none
  else none

/-- No further data arrives for a COPY from host memory: what has arrived is written, and the COPY ends at the first
offset whose data did not arrive, or where a held write stops it (12 R410, R431). What was never asked for counts as a
read that failed. -/
def cutReads (s : State) (p k : Nat) : State :=
  let mb : MboxId := .host p
  let c := slotCmd (getPort s p).mbox k
  let lost (r : HostRead) : HostRead := if r.mb == mb && r.slot == k && r.arrived.isNone then { r with failed := true } else r
  let never : HostRead :=
    { tag := 0, mb := mb, slot := k, offset := issuedTo s mb k, len := 0, arrived := none, poisoned := false, failed := true }
  let s := modPort s p (fun x => { x with reads := x.reads.map lost ++ [never] })
  let s := match formeOfMbox s mb with
    | some f => carryAll s f mb k c
    | none => s
  if (getSlot s mb k).phase == .running then endsAt s mb k stHostError else s

/-- Ends the transfer of a slot: TORN or HOST_ERROR, with the bounds a recovery record holds. -/
def cutMove (s : State) (p k : Nat) (m : Move) : State × (Nat × Nat × Nat × Nat) :=
  let x := getSlot s (.host p) k
  let c := slotCmd (getPort s p).mbox k
  match m with
  | .toHost =>
    let t := tornOffset s p x.offset
    (finish t.1 (.host p) k stTorn 0 (packFields [(64, t.2), (64, x.offset)]),
      (4, stTorn, cpDst c + t.2, cpDst c + x.offset))
  | _ =>
    let t := cutReads s p k
    let y := getSlot t (.host p) k
    (t, (5, y.status, cpSrc c + y.offset, 0))

/-! ## Resets of a port (12 R429 to R432, 13 R451, R453) -/

/-- Rewrites the record of one owned slot, and ends its host transfer. A transfer that an earlier reset has ended keeps what its
record says of it, under the new epoch. -/
def recordSlot (s : State) (p k : Nat) : State :=
  let m := (getPort s p).mbox
  let put (s : State) (o st lo hi : Nat) : State :=
    let r : RecRec := { slot := k, outcome := o, status := st, opcode := slotOpcode m k,
                        epochLo := (getPort s p).epoch % 2 ^ 16, seq := slotSeq m k, lo := lo, hi := hi }
    modPort s p (fun x => { x with records := mapSet x.records k r })
  match hostMove s p k with
  | some mv =>
    let r := cutMove s p k mv
    put r.1 r.2.1 r.2.2.1 r.2.2.2.1 r.2.2.2.2
  | none =>
    match mapGet (getPort s p).records k with
    | some r =>
      if (r.outcome = 4 ∨ r.outcome = 5) ∧ r.seq = slotSeq m k ∧ (m.slotAt k).phase = .finished then
        put s r.outcome r.status r.lo r.hi
      else put s 2 0 0 0
    | none => put s 2 0 0 0

/-- Slots that completed before the reset and whose signal it meets unsent: their records say so, unless they tell of a reset
already (12 Table 12.22 OUTCOME 0x1, 13 Table 13.6). The signal is not sent any more (notes/assumptions/109.md). -/
def Port.recordUnsent (x : Port) : Port :=
  let put (m : SMap RecRec) (e : Nat × Nat × RecRec) : SMap RecRec :=
    let told := match mapGet m e.1 with
      | some r => r.seq = e.2.2.seq
      | none => false
    if (x.mbox.slotAt e.1).owned || told then m else mapSet m e.1 { e.2.2 with epochLo := x.epoch % 2 ^ 16 }
  { x with records := x.unsent.foldl put x.records, unsent := [], msixPending := 0 }

/-- Configuration space at its defaults (13 Table 13.5). -/
def Port.defaults (x : Port) : Port :=
  { x with d3hot := false, memSpace := false, busMaster := false, maxPayload := 128, maxReadReq := 512,
           completionTimeoutUs := 50000, barLog2 := 20, rid0 := 0, rid1 := 0, rid2 := 0, valid := 0, cfg := CfgRegs.reset }

/-- A non-posted aperture request of a port (13 Table 13.6: its completion is discarded). -/
def isReadOf (p : Nat) : Instr → Bool
  | .apertureRead q _ _ _ => p == q
  | .apertureAtomic q _ _ _ _ _ _ => p == q
  | _ => false

/-- Takes the waiting reads of a port away. -/
def forgetReads (s : State) (p : Nat) : State :=
  let keep (w : Waiter × Engine × Nat × Nat) : Bool :=
    match w.1 with
    | .inbound i => !isReadOf p i
    | _ => true
  let trim (r : FaultRec) : FaultRec := { r with waiters := r.waiters.filter keep }
  let trimAll (f : Forme) : Forme := { f with faults := f.faults.map trim }
  modPort { s with idleReqs := s.idleReqs.filter (fun i => !isReadOf p i),
                   formes := s.formes.map (fun kv => (kv.1, trimAll kv.2)) } p
    (fun x => { x with waiting := x.waiting.filter (fun i => !isReadOf p i) })

/-- What hot reset, function-level reset, link-down and PERST_N share; every reset is journaled (15 R524). -/
def portReset (s : State) (p kind : Nat) (f : Port → Port) : State :=
  let d := openDigest s
  let s := journalWrite d.1 (jEntry (match formeOfPort s p with
    | some g => JOrigin.firmware.about g
    | none => JOrigin.firmware) 0x0E ((formeOfPort s p).getD 0xFF) 4 0 d.2)
  let s := modPort s p (fun x => { x with epoch := (x.epoch + 1) % 2 ^ 32, resetKind := kind, tReset := s.now,
                                          pendingAck := true, armed := false })
  let s := modPort s p Port.recordUnsent
  let s := (getPort s p).mbox.ownedSlots.foldl (fun s k => recordSlot s p k) s
  let s := forgetReads s p
  modPort s p (fun x => f { x.defaults with reads := [] })

def linkOff (x : Port) : Port := { x with link := .down, rate := 0, width := 0 }

/-- A function-level reset leaves the link and its registers as they are (13 Table 13.5). -/
def keepLink (linkCtl : Nat) (x : Port) : Port := { x with cfg := { x.cfg with linkCtl := linkCtl } }

/-- HOT_RESET: KIND 0x1, the link goes down. -/
def execHotReset (port : Nat) (s : State) : PortRes :=
  if s.powered && portExists s port && (getPort s port).link == .l0 then
    .next (if journalHeld s then holdRow s (.hotReset port) else portReset s port 1 linkOff)
  else .next s

/-- FUNCTION_LEVEL_RESET: KIND 0x2, the link stays up. -/
def execFunctionLevelReset (port : Nat) (s : State) : PortRes :=
  if s.powered && portExists s port && (getPort s port).link == .l0 then
    .next (if journalHeld s then holdRow s (.functionLevelReset port)
      else portReset s port 2 (keepLink (getPort s port).cfg.linkCtl))
  else .next s

/-- LINK_DOWN: KIND 0x3. -/
def execLinkDown (port : Nat) (s : State) : PortRes :=
  if s.powered && portExists s port && (getPort s port).link == .l0 then .next (portReset s port 3 linkOff) else .next s

/-- PERST_N_ASSERT: the pin goes low at any time (19 R609). On a port that has trained it is a reset of that port alone, as
a link-down; the odd port's signal is ignored in a ×8 configuration (13 R436, R451). -/
def execPerstNAssert (port : Nat) (s : State) : PortRes :=
  if 4 ≤ port ∨ (getPort s port).perstAsserted then .next s
  else
    let s := modPort s port (fun x => { x with perstAsserted := true })
    .next (if s.powered && portExists s port && (getPort s port).trained then portReset s port 3 linkOff else s)

/-- PERST_N_RELEASE: the pin goes high, and the port may train (18 R579). -/
def execPerstNRelease (port : Nat) (s : State) : PortRes :=
  .next (if port < 4 then modPort s port (fun x => { x with perstAsserted := false }) else s)

/-- LINK_RETRAIN: back to L0, nothing lost, no epoch (13 Table 13.5). -/
def execLinkRetrain (_port : Nat) (s : State) : PortRes := .next s

/-- D3HOT_ENTRY: to D3hot, or back to D0, when the vectors that waited are sent. -/
def execD3hotEntry (port : Nat) (toD0 : Bool) (s : State) : PortRes :=
  if s.powered && portExists s port && (getPort s port).link == .l0 then
    .next (modPort s port (fun x => { x with d3hot := !toD0 }.flushMsix))
  else .next s

/-- Lanes of a port. -/
def portLanes (s : State) (p : Nat) : Nat := if portX4 s p then 4 else 8

/-- An attempt leads to L0 only in flit mode, at a rate of R437 and at a width from the port's own down to ×1. -/
def trains (s : State) (p : Nat) (e : Training) : Bool :=
  e.reachesL0 && e.flitMode && decide (1 ≤ e.rate) && decide (e.rate ≤ 6) && [1, 2, 4, 8].contains e.width &&
    decide (e.width ≤ portLanes s p)

/-- PCIE_TRAIN_ATTEMPT: L0, or one more in PCIE_TRAIN_FAIL (13 R437, R438). A port trains once start-up is
complete, with its PERST_N released (18 R579). -/
def execPcieTrainAttempt (port : Nat) (ends : Training) (s : State) : PortRes :=
  let x := getPort s port
  if s.up && portExists s port && !x.perstAsserted && x.link == .down then
    .next (modPort s port (fun x =>
      if trains s port ends then { x with link := .l0, trained := true, rate := ends.rate, width := ends.width }
      else { x with trainFail := satAdd (2 ^ 32 - 1) x.trainFail 1 }))
  else .next s

/-- The port takes configuration requests. -/
def configOpen (s : State) (p : Nat) : Bool := s.powered && portExists s p && (getPort s p).link == .l0

/-- MEMORY_SPACE_ENABLE: the write from 0 to 1 learns RID0 (13 Table 13.3). -/
def execMemorySpaceEnable (port rid : Nat) (s : State) : PortRes :=
  .next (if configOpen s port then modPort s port (fun x => x.setMemSpace rid true) else s)

/-- Clearing Bus Master Enable ends host COPYs without epoch or record, setting it resumes requests (13 R628). -/
def setBusMaster (s : State) (port : Nat) (value : Bool) : State :=
  if value then modPort s port (fun x => { x with busMaster := true }.flushMsix)
  else
    let s := modPort s port (fun x => { x with busMaster := false })
    (getPort s port).mbox.ownedSlots.foldl (fun s k =>
      match hostMove s port k with
      | some mv => (cutMove s port k mv).1
      | none => s) s

/-- BUS_MASTER_ENABLE_WRITE. -/
def execBusMasterEnableWrite (port : Nat) (value : Bool) (s : State) : PortRes :=
  .next (if configOpen s port then setBusMaster s port value else s)

/-- A write of configuration space by a requester; Command, at 0x04, holds Memory Space Enable and Bus Master Enable. -/
def configWrite (s : State) (port rid at_ : Nat) (data : List Byte) : State :=
  let d := dwordOf at_ data 0x04
  let s := modPort s port (fun x => x.configWrite at_ data)
  if bit d.2 0 then
    let s := modPort s port (fun x =>
      { x.setMemSpace rid (bit d.1 1) with cfg := { x.cfg with command := rwWrite x.cfg.command d.1 0x0540 d.2 } })
    if bit d.1 2 = (getPort s port).busMaster then s else setBusMaster s port (bit d.1 2)
  else modPort s port (fun x => { x with cfg := { x.cfg with command := rwWrite x.cfg.command d.1 0x0540 d.2 } })

/-! ## The aperture (13 R442 to R446, R449) -/

def aperWindow (x : Port) : Nat := min (2 ^ x.barLog2) (2 ^ x.aperLog2)

/-- Why a request is not performed, before translation (13 Table 13.4), `inside` if its address is in a BAR. With Memory Space
Enable clear no address is. The conditions are judged in the order of the table (notes/assumptions/126.md). -/
def reqRefused (x : Port) (req : ReqInfo) (inside : Bool) : Option AerEvent :=
  if !x.accepts req.rid then some .unsupportedAdvisory
  else if !x.memSpace || !inside then some .unsupportedRequest
  else if req.atField != 0 || req.pasid || req.io then some .unsupportedRequest
  else none

def aperRefused (x : Port) (req : ReqInfo) (off len : Nat) : Option AerEvent :=
  reqRefused x req (x.forme.isSome && decide (off + len ≤ aperWindow x))

def aperAccess (f p kind : Nat) : Access :=
  { forme := f, eng := { cls := 5, die := if p < 2 then 6 else 7, unit := 0 }, kind := kind, pass := none }

/-- The hint of an inbound write (09 Table 9.9, 13 R449). -/
def tphHint (t : Tph) : Nat := if t.th && (t.ph == 2 || t.ph == 3) && decide (t.st < 16) then hintOr0 t.st else 0

/-- Completes a non-posted request that is not performed. -/
def aperDenied (s : State) (p tag : Nat) (posted : Bool) (req : Instr) : State :=
  let s := logAer s p .completerAbort req
  if posted then s else hostSend s p (.abort tag)

/-- Translates a request of the aperture and goes on with its physical pieces; a swap holds it (13 R446). -/
def aperReach (s : State) (p f kind off len : Nat) (req : Instr) (tag : Nat) (posted : Bool)
    (go : State → List (Nat × Nat) → State) : State :=
  let r := reach (aperAccess f p kind) (.inbound req) (pageSpans ((getPort s p).aperBase + off) len) s
  match r.2 with
  | .ok pas => go r.1 pas
  | .held => r.1
  | .denied => aperDenied r.1 p tag posted req

/-- A read goes to the home as RD_ONCE. -/
def aperRead (s : State) (p : Nat) (req : ReqInfo) (off len : Nat) : State :=
  match (getPort s p).forme with
  | none => s
  | some f => aperReach s p f 0 off len (.apertureRead p req off len) req.tag false (fun s pas =>
      let d := readPieces (portVia p) pas s
      hostSend d.1 p (.completion req.tag d.2.1 d.2.2))

def aperWrite (s : State) (p : Nat) (req : ReqInfo) (off : Nat) (data : List Byte) (tph : Tph) : State :=
  match (getPort s p).forme with
  | none => s
  | some f => aperReach s p f 1 off data.length (.apertureWrite p req off data tph false) req.tag true (fun s pas =>
      writePieces (portVia p) (tphHint tph) pas data s)

/-- An atomic executes in the L3 of the Compositor that received it (09 R309). -/
def aperAtomic (s : State) (p : Nat) (req : ReqInfo) (off size : Nat) (op : AtomOp) (operand compare : Nat) : State :=
  match (getPort s p).forme with
  | none => s
  | some f =>
    aperReach s p f 2 off size (.apertureAtomic p req off size op operand compare) req.tag false (fun s pas =>
      match pas.head? with
      | none => s
      | some pa =>
        let s := breakResv s (if p < 2 then 6 else 7) (lineOf pa.1) none
        let r := cacheAtomic s (if p < 2 then 6 else 7) pa.1 size op (operand % 2 ^ (8 * size))
          (compare % 2 ^ (8 * size)) none (some f)
        match r.2 with
        | some old => hostSend r.1 p (.completion req.tag (toBytes size old) false)
        | none => hostSend r.1 p (.completion req.tag (List.replicate size 0#8) true))

/-- A posted write to the register BAR: the mailbox block, the MSI-X table, nothing elsewhere (12 R387). -/
def barWritten (s : State) (p off : Nat) (data : List Byte) : State :=
  if off + data.length ≤ 0x8000 then storeSlot s (.host p) off data
  else modPort s p (fun x => (storeMsix x off data).flushMsix)

/-- Performs an inbound request that nothing before it holds: a mesh request whose checks have passed, or one to a BAR. -/
def inboundNow (s : State) : Instr → State
  | .apertureRead p req off len => aperRead s p req off len
  | .apertureWrite p req off data tph _ => aperWrite s p req off data tph
  | .apertureAtomic p req off size op x y => aperAtomic s p req off size op x y
  | .meshPut p k => putDue s p k
  | .meshGet p k len => inboundGet s p k len
  | .slotWrite (.host p) _ off data => barWritten s p off data.bytes
  | .registerWrite p _ off data => barWritten s p off data.bytes
  | _ => s

/-- The port of a request to a BAR. -/
def portOfReq : Instr → Option Nat
  | .slotWrite (.host p) _ _ _ => some p
  | .registerWrite p _ _ _ => some p
  | .apertureRead p _ _ _ => some p
  | .apertureWrite p _ _ _ _ _ => some p
  | .apertureAtomic p _ _ _ _ _ _ => some p
  | _ => none

/-- A posted write of the port. -/
def isWriteOf (p : Nat) : Waiter → Bool
  | .inbound (.apertureWrite q _ _ _ _ _) => p == q
  | _ => false

/-- A posted write of the port waits in a fault record: it is held for a swap. -/
def writeHeld (s : State) (p : Nat) : Bool :=
  s.formes.any (fun kv => kv.2.faults.any (fun r => r.waiters.any (fun w => isWriteOf p w.1)))

/-- Performs an inbound request that was accepted before (10 R364, 16 R544); the posted writes of a port are performed in
order of arrival, those to its register BAR among them (12 R391), and what follows a held one waits behind it (09 R334). -/
def performInbound (s : State) (i : Instr) : State :=
  match portOfReq i with
  | none => inboundNow s i
  | some p =>
    if writeHeld s p || !(getPort s p).waiting.isEmpty then modPort s p (fun x => { x with waiting := x.waiting ++ [i] })
    else inboundNow s i

/-- The requests behind a write that has ended, as far as no write of theirs is held. -/
def drainPort : Nat → Nat → State → State
  | 0, _, s => s
  | n + 1, p, s =>
    if writeHeld s p then s
    else
      match (getPort s p).waiting with
      | [] => s
      | i :: r => drainPort n p (inboundNow (modPort s p (fun x => { x with waiting := r })) i)

def drainAfter (s : State) (i : Instr) : State :=
  match portOfReq i with
  | none => s
  | some p => drainPort (getPort s p).waiting.length p s

/-- Ends a denied inbound request (10 R360). -/
def denyInbound (s : State) : Instr → State
  | .apertureRead p req off len => aperDenied s p req.tag false (.apertureRead p req off len)
  | .apertureWrite p req off data tph bad => aperDenied s p req.tag true (.apertureWrite p req off data tph bad)
  | .apertureAtomic p req off size op x y => aperDenied s p req.tag false (.apertureAtomic p req off size op x y)
  | .meshPut _ k => rejectPacket s ((activeJob s k.job).map (·.forme)) k errTranslation
  | .meshGet _ k _ => meshSend (countFor s ((activeJob s k.job).map (·.forme)) .meshRxReject 1) (.error k errTranslation)
  | _ => s

/-- A request that passed its checks: performed, or kept until the module has woken (16 R544). -/
def aperAccepted (s : State) (i : Instr) : State :=
  if s.moduleIdle then wakeModule { s with idleReqs := s.idleReqs ++ [i] } else performInbound s i

/-- The link brings requests to the port. -/
def linkOpen (s : State) (p : Nat) : Bool := s.powered && (getPort s p).link == .l0

def execApertureRead (port : Nat) (req : ReqInfo) (off len : Nat) (s : State) : PortRes :=
  if !linkOpen s port then .next s
  else
    match aperRefused (getPort s port) req off len with
    | some e => .next (hostSend (logAer s port e (.apertureRead port req off len)) port (.unsupported req.tag))
    | none => .next (aperAccepted s (.apertureRead port req off len))

/-- A posted write: refused with an event, discarded if its EP is set, or performed in its turn. -/
def postedWrite (s : State) (port : Nat) (refused : Option AerEvent) (poisoned : Bool) (i : Instr) (go : State) : State :=
  match refused with
  | some e => logAer s port e i
  | none => if poisoned then logAer s port .poisonedTlp i else go

def execApertureWrite (port : Nat) (req : ReqInfo) (off : Nat) (data : List Byte) (tph : Tph) (poisoned : Bool)
    (s : State) : PortRes :=
  if !linkOpen s port then .next s
  else
    .next (postedWrite s port (aperRefused (getPort s port) req off data.length) poisoned
      (.apertureWrite port req off data tph poisoned) (aperAccepted s (.apertureWrite port req off data tph false)))

/-- A posted write to the register BAR that passed its checks waits behind earlier writes of its port, those kept while
the module wakes too (09 R334, 12 R391). -/
def barAccepted (s : State) (p : Nat) (i : Instr) : State :=
  if s.idleReqs.any (fun r => portOfReq r == some p) then { s with idleReqs := s.idleReqs ++ [i] } else performInbound s i

/-- SLOT_WRITE: a write of a host, or of a core of the forme, into a mailbox block. -/
def execSlotWrite (mb : MboxId) (req : ReqInfo) (off : Nat) (data : Payload) (s : State) : PortRes :=
  match mb with
  | .core _ => .next (if s.powered then storeSlot s mb off data.bytes else s)
  | .host p =>
    if !linkOpen s p then .next s
    else
      let i : Instr := .slotWrite mb req off data
      .next (postedWrite s p (reqRefused (getPort s p) req true) data.poisoned i (barAccepted s p i))

/-- Configuration space starts here in the offsets of REGISTER_WRITE (notes/assumptions/23.md). -/
def configBase : Nat := 0x100000

/-- REGISTER_WRITE: a posted write to the register BAR, or a write of configuration space. -/
def execRegisterWrite (port : Nat) (req : ReqInfo) (off : Nat) (data : Payload) (s : State) : PortRes :=
  if !linkOpen s port then .next s
  else if off ≥ configBase then .next (configWrite s port req.rid (off - configBase) data.bytes)
  else
    let i : Instr := .registerWrite port req off data
    .next (postedWrite s port (reqRefused (getPort s port) req true) data.poisoned i (barAccepted s port i))

/-- The operations PCI Express has, on 4 or 8 bytes (13 Table 13.2). -/
def pcieAtomic (op : AtomOp) (size : Nat) : Bool := (op == .add || op == .swap || op == .cas) && (size == 4 || size == 8)

/-- A misaligned AtomicOp is a malformed TLP, which is discarded and logged (13 Table 13.4). -/
def execApertureAtomic (port : Nat) (req : ReqInfo) (off size : Nat) (op : AtomOp) (operand compare : Nat) (s : State) :
    PortRes :=
  if !linkOpen s port then .next s
  else
    let i : Instr := .apertureAtomic port req off size op operand compare
    match aperRefused (getPort s port) req off size with
    | some e => .next (hostSend (logAer s port e i) port (.unsupported req.tag))
    | none =>
      if !pcieAtomic op size then .next (hostSend (logAer s port .unsupportedRequest i) port (.unsupported req.tag))
      else if off % size ≠ 0 then .next (logAer s port .malformedTlp i)
      else .next (aperAccepted s i)

end Sys2Proof.Machine
end

