-- ==== Sys2Proof/Machine/CoreMmu.lean ====
section
/-! DEFINITION. How an access of a Compositor core reaches memory (11 R372 to R377): the core's own MMU, whose formats are
those of the RISC-V privileged specification (Sv39, Sv48, Sv57 and the second stage of H, 11 R369), and the translation of
the device address that leaves it. -/

namespace Sys2Proof.Machine

open Sys2Proof

/-! ## Harts -/

/-- A hart that executes, and the forme it belongs to (11 R370, R371); in WRS.NTO it executes nothing while its reservation
stands (11 R386). -/
def hartRuns (s : State) (h : Nat) : Option Nat :=
  let x := getHart s h
  if s.up && !s.moduleIdle && x.st == .running && !(x.wrs && x.resv.isSome) then formeOfHart s h else none

/-- Integer register; x0 reads as zero. -/
def Hart.xget (x : Hart) (r : Nat) : Nat := if r = 0 then 0 else mapGetD x.xregs 0 r

/-- The 64-bit value of a signed field of `n` bytes. -/
def signExtend (n v : Nat) : Nat := unsigned 64 (signed (8 * n) (v % 2 ^ (8 * n)))

/-- Exception causes of the RISC-V specification. -/
def causeFetch : Nat := 1
def causeIllegal : Nat := 2
def causeLoadAlign : Nat := 4
def causeLoad : Nat := 5
def causeStoreAlign : Nat := 6
def causeStore : Nat := 7

/-- A bit of a register, set to a value. -/
def withBit (v n : Nat) (b : Bool) : Nat := if b then setBit v n else clearBit v n

/-- sstatus or vsstatus after a trap from a mode: SPIE takes SIE, SIE is clear, and SPP names the mode (1, 5 and 8). -/
def statusTrap (v : Nat) (spp : Bool) : Nat := withBit (withBit (withBit v 5 (bit v 1)) 1 false) 8 spp

/-- A control and status register as written; stimecmp and vstimecmp start at their largest value. -/
def Hart.csr (x : Hart) (n : Nat) : Nat := mapGetD x.csrs (if n = 0x14D ∨ n = 0x24D then 2 ^ 64 - 1 else 0) n

def Hart.setCsr (x : Hart) (n v : Nat) : Hart := { x with csrs := mapSet x.csrs n (v % 2 ^ 64) }

/-- The hart runs a guest: VS- or VU-mode. -/
def Hart.virt (x : Hart) : Bool := x.mode == 2 || x.mode == 3

def Hart.user (x : Hart) : Bool := x.mode == 0 || x.mode == 3

/-- An exception as the RISC-V privileged specification takes it: in VS-mode where hedeleg delegates one of a guest, else in
HS-mode. `epc` is the address of the instruction, which no row carries (notes/assumptions/74.md). -/
def Hart.trap (x : Hart) (cause stval epc : Nat) : Hart :=
  let y := { x with cause := cause, stval := stval }
  let spp := x.mode == 1 || x.mode == 2
  if x.virt ∧ bit (x.csr 0x602) cause then
    { ((((y.setCsr 0x241 epc).setCsr 0x242 cause).setCsr 0x243 stval).setCsr 0x200 (statusTrap (x.csr 0x200) spp)) with
      mode := 2, pc := x.csr 0x205 / 4 * 4 }
  else
    let hs := withBit (withBit (x.csr 0x600) 7 x.virt) 6 (x.virt && stval != 0)
    { (((((y.setCsr 0x141 epc).setCsr 0x142 cause).setCsr 0x143 stval).setCsr 0x100 (statusTrap (x.csr 0x100) spp)).setCsr 0x600
        (if x.virt then withBit hs 8 (x.mode == 2) else hs)) with
      mode := 1, pc := x.csr 0x105 / 4 * 4 }

/-- An exception that leaves ndfault as it is; the address of the instruction is a free value. -/
def coreTrap (s : State) (h cause stval : Nat) : State :=
  modHart s.drawn h (fun x => x.trap cause stval (Config.freeNat s.free))

/-- An illegal-instruction exception; whether stval holds the instruction is open in the RISC-V specification. -/
def coreIllegal (s : State) (h word : Nat) : State :=
  coreTrap s.drawn h causeIllegal (if Config.freeBool s.free then word else 0)

/-- ndfault (11 Table 11.3). -/
def ndfaultOf (kind reason dva : Nat) : Nat := packFields [(56, dva), (4, reason), (4, kind)]

/-- A precise access fault (11 R374). -/
def coreFault (s : State) (h cause stval ndfault : Nat) : State :=
  modHart s.drawn h (fun x => { x.trap cause stval (Config.freeNat s.free) with ndfault := ndfault })

/-! ## Translation (11 R372 to R375) -/

/-- First address that never reaches the range table, and the size of the core mailbox there (11 R373). -/
def coreDevices : Nat := 0x00FFFFF000000000
def coreMboxSize : Nat := 0x8000

/-- The request of a hart as its translation engine makes it (10 Table 10.2). -/
def coreEngine (h : Nat) : Engine := { cls := 3, die := dieOfHart h, unit := groupOfHart h % 6 }

def hartAccess (f h kind : Nat) : Access := { forme := f, eng := coreEngine h, kind := kind, pass := none }

/-- What came of an access: its pieces, a hart stalled on a held fault, the ndfault of a denied one, or a page fault at an
address. -/
inductive CoreAt where
  | ok (pas : List (Nat × Nat))
  | held
  | denied (ndfault : Nat)
  | trap (cause va : Nat)
deriving DecidableEq, Repr

/-- Translates the pieces of an access; one in the region of R373 is denied. -/
def coreReach (a : Access) (h : Nat) : List (Nat × Nat) → State → State × CoreAt
  | [], s => (s, .ok [])
  | (va, n) :: r, s =>
    if coreDevices ≤ va ∧ va < 2 ^ 56 then (s, .denied (ndfaultOf 0 0 va))
    else
      let t := translate s a va
      match t.2 with
      | .fault reason e =>
        let q := raiseFault t.1 a va reason e (.core h)
        (q.1, if q.2 then .held else .denied (ndfaultOf 1 (reasonCode reason) va))
      | .ok pa =>
        if paAbsent pa then (homeAccept t.1 (lineOf pa) (cacheReq (dieOfHart h) .rdShared none false),
          .denied (ndfaultOf 3 0 va))
        else
          let q := coreReach a h r t.1
          match q.2 with
          | .ok pas => (q.1, .ok ((pa, n) :: pas))
          | x => (q.1, x)

/-- Reads pieces through the L3; the address of the first piece that meets poison (11 R374). -/
def coreReadPas (h : Nat) : List (Nat × Nat) → State → State × (List Byte × Option Nat)
  | [], s => (s, ([], none))
  | (pa, n) :: r, s =>
    let d := cacheRead s (dieOfHart h) (lineOf pa) (some (groupOfHart h)) false
    let off := pa % 128
    if d.2.poisonAt off then (d.1, ([], some (sectorBase pa)))
    else if d.2.poisonAt (off + n - 1) then (d.1, ([], some (sectorBase pa + 64)))
    else
      let q := coreReadPas h r d.1
      (q.1, (d.2.slice off n ++ q.2.1, q.2.2))

/-! ## The core's MMU (11 R369, R372; formats and checks PRESUMED from the RISC-V specification, notes/assumptions/76.md) -/

def csrSstatus : Nat := 0x100
def csrSatp : Nat := 0x180
def csrVsstatus : Nat := 0x200
def csrVsatp : Nat := 0x280
def csrHgatp : Nat := 0x680

/-- What a step of a walk gives: a value, a page fault, a guest page fault, or what the device translation did. -/
inductive Walked where
  | ok (v : Nat)
  | page
  | guest
  | held
  | denied (ndfault : Nat)
deriving DecidableEq, Repr

/-- Levels of a translation mode: Sv39, Sv48, Sv57; none for Bare. -/
def walkLevels (mode : Nat) : Nat := if mode = 8 then 3 else if mode = 9 then 4 else if mode = 10 then 5 else 0

/-- A page-table entry at a device address, read as a load of the hart. -/
def readPte (h f a : Nat) (s : State) : State × Walked :=
  let r := coreReach (hartAccess f h 0) h [(a, 8)] s
  match r.2 with
  | .held => (r.1, .held)
  | .denied nd => (r.1, .denied nd)
  | .trap _ _ => (r.1, .page)
  | .ok pas =>
    let d := coreReadPas h pas r.1
    match d.2.2 with
    | some pa => (d.1, .denied (ndfaultOf 2 0 (a / 4096 * 4096 + pa % 4096)))
    | none => (d.1, .ok (ofBytes d.2.1))

/-- An entry that is invalid or reserved. -/
def pteBad (e : Nat) : Bool := !bit e 0 || (!bit e 1 && bit e 2) || bits e 60 54 != 0 || bits e 62 61 == 3

/-- What a leaf maps: a superpage is aligned, and N stands at level 0 alone, for 64 KiB. -/
def pteLeaf (e level va : Nat) : Option Nat :=
  let ppn := bits e 53 10
  if ppn % 2 ^ (9 * level) ≠ 0 then none
  else if bit e 63 then
    if level = 0 ∧ ppn % 16 = 8 then some (ppn / 16 * 65536 + va % 65536) else none
  else some (ppn * 4096 + va % 2 ^ (12 + 9 * level))

/-- What a leaf allows an access kind: A is set, and D for a write; `user` and `sum` say which pages the mode reaches. -/
def pteAllows (kind : Nat) (mxr reach : Bool) (e : Nat) : Bool :=
  reach && bit e 6 &&
    (if kind = 3 then bit e 3 else if kind = 0 then bit e 1 || (mxr && bit e 3) else bit e 2 && bit e 7)

/-- A walk from a table at `base` down `n` levels; the top index of a second stage has two bits more. -/
def walkFrom (get : Nat → State → State × Walked) (wide : Bool) (allows : Nat → Bool) (va : Nat) : Nat → Nat → State → State × Walked
  | 0, _, s => (s, .page)
  | n + 1, base, s =>
    let lo := 12 + 9 * n
    let idx := bits va (lo + (if wide then 10 else 8)) lo
    let r := get (base + 8 * idx) s
    match r.2 with
    | .ok e =>
      if pteBad e then (r.1, .page)
      else if bit e 1 || bit e 3 then
        match if allows e then pteLeaf e n va else none with
        | some pa => (r.1, .ok pa)
        | none => (r.1, .page)
      else if bits e 63 61 != 0 || bits e 7 6 != 0 || bit e 4 then (r.1, .page)
      else walkFrom get false allows va n (bits e 53 10 * 4096) r.1
    | x => (r.1, x)

/-- The second stage: a guest physical address to a device address (11 R372). -/
def guestStage (h f kind a : Nat) (s : State) : State × Walked :=
  let x := getHart s h
  let g := x.csr csrHgatp
  let n := walkLevels (bits g 63 60)
  if n = 0 then (s, .ok a)
  else if a ≥ 2 ^ (14 + 9 * n) then (s, .guest)
  else
    let allows (e : Nat) : Bool := pteAllows kind (bit (x.csr csrSstatus) 19) (bit e 4) e
    let r := walkFrom (readPte h f) true allows a n (bits g 43 0 / 4 * 4 * 4096) s
    match r.2 with
    | .page => (r.1, .guest)
    | y => (r.1, y)

/-- Reads an entry of a first-stage table, whose address a guest's second stage translates. -/
def stagePte (h f : Nat) (virt : Bool) (a : Nat) (s : State) : State × Walked :=
  if virt then
    let r := guestStage h f 0 a s
    match r.2 with
    | .ok d => readPte h f d r.1
    | y => (r.1, y)
  else readPte h f a s

/-- An address is a sign extension of its low bits. -/
def canonical (a n : Nat) : Bool := a / 2 ^ (11 + 9 * n) == 0 || a / 2 ^ (11 + 9 * n) == 2 ^ (53 - 9 * n) - 1

/-- One address of a hart to the device VA that leaves its MMU. -/
def mmuOne (h f kind va : Nat) (s : State) : State × Walked :=
  let x := getHart s h
  let p := x.csr (if x.virt then csrVsatp else csrSatp)
  let st := x.csr (if x.virt then csrVsstatus else csrSstatus)
  let n := walkLevels (bits p 63 60)
  let reach (e : Nat) : Bool := if x.user then bit e 4 else !bit e 4 || (bit st 18 && kind != 3)
  let mxr := bit st 19 || bit (x.csr csrSstatus) 19
  let r :=
    if n = 0 then (s, .ok va)
    else if !canonical va n then (s, .page)
    else walkFrom (stagePte h f x.virt) false (fun e => pteAllows kind mxr (reach e) e) va n (bits p 43 0 * 4096) s
  match r.2 with
  | .ok a => if x.virt then guestStage h f kind a r.1 else r
  | _ => r

/-- Causes of page faults and guest page faults for a kind of access. -/
def pageCause (kind : Nat) : Nat := if kind = 3 then 12 else if kind = 0 then 13 else 15
def guestCause (kind : Nat) : Nat := if kind = 3 then 20 else if kind = 0 then 21 else 23

/-- The pieces of an access, page by page. -/
def mmuPieces (h f kind fault : Nat) : List (Nat × Nat) → State → State × CoreAt
  | [], s => (s, .ok [])
  | (va, n) :: r, s =>
    let t := mmuOne h f kind va s
    match t.2 with
    | .held => (t.1, .held)
    | .denied nd => (t.1, .denied nd)
    | .page => (t.1, .trap (pageCause fault) va)
    | .guest => (t.1, .trap (guestCause fault) va)
    | .ok d =>
      let q := mmuPieces h f kind fault r t.1
      match q.2 with
      | .ok ds => (q.1, .ok ((d, n) :: ds))
      | y => (q.1, y)

/-- Device VAs of `n` bytes from an address of a hart: an access of `kind`, whose page faults are those of kind `fault`. -/
def coreMmu (h f kind fault va n : Nat) (s : State) : State × CoreAt := mmuPieces h f kind fault (pageSpans va n) s

/-- The lines that device pieces touch. -/
def lineParts (dvas : List (Nat × Nat)) : List (Nat × Nat) := dvas.flatMap (fun d => lineSpans d.1 d.2)

/-- Device address of a sector, one of those the pieces of an access were translated from. -/
def sectorVa (dvas pas : List (Nat × Nat)) (sector : Nat) : Nat :=
  match (dvas.zip pas).find? (fun p => p.2.1 / 4096 == sector / 4096) with
  | some p => p.1.1 / 4096 * 4096 + sector % 4096
  | none => 0

/-- Translates an access twice, at the MMU and in the range table: the device pieces, line by line, and the physical ones. -/
def coreBoth (h f kind fault va n : Nat) (s : State) : State × List (Nat × Nat) × CoreAt :=
  let m := coreMmu h f kind fault va n s
  match m.2 with
  | .ok dvas =>
    let r := coreReach (hartAccess f h kind) h (lineParts dvas) m.1
    (r.1, lineParts dvas, r.2)
  | y => (m.1, [], y)

end Sys2Proof.Machine
end

