-- ==== Sys2Proof/Machine/Csr.lean ====
section
/-! DEFINITION. Control and status registers of a Compositor core as its programs reach them (11 R369, R374, R384, R385): the
numbers, the modes that reach them and the fields are those of the RISC-V privileged specification and of its Advanced
Interrupt Architecture, which 11 names (PRESUMED, notes/assumptions/123.md). -/

namespace Sys2Proof.Machine

open Sys2Proof

/-! ## Which registers there are, and who reaches them -/

/-- Registers that the core has, those of the machine mode apart. -/
def csrKnown (n : Nat) : Bool :=
  [0x001, 0x002, 0x003, 0x008, 0x009, 0x00A, 0x00F, 0xC20, 0xC21, 0xC22,
   0x100, 0x104, 0x105, 0x106, 0x10A, 0x10C, 0x10D, 0x10E, 0x10F, 0x140, 0x141, 0x142, 0x143, 0x144, 0x14D, 0x150, 0x151, 0x15C,
   0x180, 0xDA0, 0xDB0, 0xDC0,
   0x200, 0x204, 0x205, 0x240, 0x241, 0x242, 0x243, 0x244, 0x24D, 0x250, 0x251, 0x25C, 0x280, 0xEB0,
   0x600, 0x602, 0x603, 0x604, 0x605, 0x606, 0x607, 0x60A, 0x60C, 0x60D, 0x60E, 0x60F, 0x643, 0x644, 0x645, 0x64A, 0x680,
   0xE12].contains n || (decide (0xC00 ≤ n) && decide (n ≤ 0xC1F))

/-- The register that a guest's supervisor number names. -/
def guestCsr (n : Nat) : Nat :=
  if [0x100, 0x104, 0x105, 0x140, 0x141, 0x142, 0x143, 0x144, 0x14D, 0x150, 0x151, 0x15C, 0x180, 0xDB0].contains n then n + 0x100
  else n

def isCounter (n : Nat) : Bool := decide (0xC00 ≤ n) && decide (n ≤ 0xC1F)

def causeVirtual : Nat := 22

/-- Why the mode may not use a register: illegal instruction, or virtual instruction from a guest. A write of a CSR whose number
makes it read-only is an illegal instruction as RISC-V has it, ndfault too, though 00 Table 0.3 lets a write to an RO field be
ignored (DESIGN CHOICE, notes/assumptions/123.md). -/
def csrRefused (x : Hart) (n : Nat) (writes : Bool) : Option Nat :=
  let priv := bits n 9 8
  if !csrKnown n || priv == 3 || (writes && n / 1024 == 3) then some causeIllegal
  else if isCounter n && x.virt && !bit (x.csr 0x606) (n - 0xC00) then some causeVirtual
  else if isCounter n && x.user && !bit (x.csr 0x106) (n - 0xC00) then some (if x.virt then causeVirtual else causeIllegal)
  else if x.mode = 1 then none
  else if x.mode = 0 then (if priv = 0 then none else some causeIllegal)
  else if priv = 0 then none
  else if x.mode = 3 || priv = 2 then some causeVirtual
  else if n = 0x14D && !bit (x.csr 0x60A) 63 then some causeVirtual
  else none

/-! ## Interrupt files (11 R384) -/

def Hart.file (x : Hart) (k : Nat) : AiaFile := mapGetD x.aia AiaFile.reset k

def Hart.setFile (x : Hart) (k : Nat) (g : AiaFile) : Hart := { x with aia := mapSet x.aia k g }

/-- The guest file that VGEIN of hstatus selects, of the four there are. -/
def Hart.guestFile (x : Hart) : Option Nat :=
  let v := bits (x.csr 0x600) 17 12
  if 1 ≤ v ∧ v ≤ 4 then some v else none

/-- 64 identities from 64 k as bits, of those a test picks. -/
def identBits (k : Nat) (p : Nat → Bool) : Nat :=
  maskOf ((List.range 64).filter (fun i => 64 * k + i != 0 && decide (64 * k + i < 256) && p (64 * k + i)))

/-- A register of a file behind sireg: eidelivery, eithreshold, eip and eie; only even ones of the two arrays exist. -/
def Hart.sireg (x : Hart) (file sel : Nat) : Option Nat :=
  let g := x.file file
  if sel = 0x70 then some (boolBit g.delivery)
  else if sel = 0x72 then some g.threshold
  else if 0x80 ≤ sel ∧ sel < 0xC0 ∧ sel % 2 = 0 then some (identBits ((sel - 0x80) / 2) (fun i => x.pending.contains (256 * file + i)))
  else if 0xC0 ≤ sel ∧ sel < 0x100 ∧ sel % 2 = 0 then some (identBits ((sel - 0xC0) / 2) (fun i => g.enabled.contains i))
  else none

/-- Identities of a group of 64 replaced by the bits of a value. -/
def withIdents (old : List Nat) (base k v : Nat) : List Nat :=
  old.filter (fun i => !(decide (base + 64 * k ≤ i) && decide (i < base + 64 * k + 64))) ++
    ((bitsOf 64 v).filter (fun i => 64 * k + i != 0 && decide (64 * k + i < 256))).map (fun i => base + 64 * k + i)

def Hart.setSireg (x : Hart) (file sel v : Nat) : Hart :=
  let g := x.file file
  if sel = 0x70 then x.setFile file { g with delivery := bit v 0 }
  else if sel = 0x72 then x.setFile file { g with threshold := v % 256 }
  else if sel < 0xC0 then { x with pending := withIdents x.pending (256 * file) ((sel - 0x80) / 2) v }
  else x.setFile file { g with enabled := withIdents g.enabled 0 ((sel - 0xC0) / 2) v }

/-- The identity a file offers, as stopei shows it: 0 when there is none. -/
def Hart.topei (x : Hart) (file : Nat) : Nat := x.topIdent file * 65537

/-- A write of stopei claims: the identity it shows is pending no more. -/
def Hart.claim (x : Hart) (file : Nat) : Hart := { x with pending := x.pending.filter (fun i => i != 256 * file + x.topIdent file) }

/-! ## Time (11 R385) -/

/-- The time CSR: the registration counter, for a guest with htimedelta. -/
def hartTime (s : State) (x : Hart) : Nat := if x.virt then (s.now + x.csr 0x605) % 2 ^ 64 else s.now

/-- Sstc: stimecmp has been reached, and a guest's vstimecmp. -/
def timerPending (s : State) (x : Hart) : Bool := decide (x.csr 0x14D ≤ s.now)

def guestTimer (s : State) (x : Hart) : Bool := bit (x.csr 0x60A) 63 && decide (x.csr 0x24D ≤ (s.now + x.csr 0x605) % 2 ^ 64)

/-- A pending timer interrupt that the hart enables ends its waits: STIE of sie. -/
def timerWakes (s : State) (x : Hart) : Bool := timerPending s x && bit (x.csr 0x104) 5

/-- As time passes, harts that wait go on at their timer interrupt (11 R385, R386). -/
def timerStep (s : State) : State :=
  { s with harts := s.harts.map (fun kv =>
      (kv.1, if timerWakes s kv.2 && (kv.2.wrs || kv.2.st == .suspended) then kv.2.goOn kv.1 else kv.2)) }

/-- hgeip: the guest files that deliver. -/
def Hart.guestPending (x : Hart) : Nat := maskOf ((List.range 5).filter (fun k => k != 0 && x.interrupts k))

/-- sip, vsip and hip: the bits the hart's devices drive beside those that software set. -/
def sipOf (s : State) (x : Hart) : Nat :=
  Nat.lor (Nat.land (x.csr 0x144) (2 ^ 1 + 2 ^ 13)) (2 ^ 5 * boolBit (timerPending s x) + 2 ^ 9 * boolBit (x.interrupts 0))

def hipOf (s : State) (x : Hart) : Nat :=
  let v := x.csr 0x645
  2 ^ 2 * boolBit (bit v 2) + 2 ^ 6 * boolBit (bit v 6 || guestTimer s x) +
    2 ^ 10 * boolBit (bit v 10 || (x.guestFile.any x.interrupts)) +
    2 ^ 12 * boolBit (Nat.land x.guestPending (x.csr 0x607) != 0)

/-- vsip: hip's guest bits one place lower, those that hideleg delegates. -/
def vsipOf (s : State) (x : Hart) : Nat := Nat.land (hipOf s x) (Nat.land (x.csr 0x603) (2 ^ 2 + 2 ^ 6 + 2 ^ 10)) / 2

/-! ## Reading and writing -/

/-- vtype of the present configuration. -/
def Hart.vtype (x : Hart) : Nat :=
  if x.vill then 2 ^ 63
  else packFields [(3, unsigned 3 x.lmul), (3, if x.sew = 8 then 0 else if x.sew = 16 then 1 else if x.sew = 32 then 2 else 3),
    (2, Nat.land (x.csr 0xC21) 0xC0 / 0x40)]

/-- The number an instruction reaches from a mode. -/
def csrNum (x : Hart) (n : Nat) : Nat := if x.mode = 2 then guestCsr n else n

/-- The interrupt file behind siselect or vsiselect, and what it selects. -/
def siregAt (x : Hart) (n : Nat) : Option (Nat × Nat) :=
  if n = 0x151 then some (0, x.csr 0x150) else x.guestFile.map (fun k => (k, x.csr 0x250))

/-- Event counters that have overflowed since their overflow was last cleared raise LCOFI (Sscofpmf, 11 R385): bit 13 of sip. -/
def Hart.overflow (x : Hart) (k : Nat) : Hart :=
  if 3 ≤ k ∧ !bit (x.csr 0xDA0) k then
    (x.setCsr 0xDA0 (setBit (x.csr 0xDA0) k)).setCsr 0x144 (setBit (x.csr 0x144) 13)
  else x

/-- A counter of clocks, instructions or events as it is read: since the last reading it has counted on by an open
amount, and an event counter that wrapped has overflowed. -/
def Hart.count (x : Hart) (n by_ : Nat) : Hart :=
  let k := n - 0xC00
  let v := mapGetD x.hpm 0 k + by_ % 2 ^ 64
  let y := { x with hpm := mapSet x.hpm k (v % 2 ^ 64) }
  if 2 ^ 64 ≤ v then y.overflow k else y

/-- The value of a register. -/
def csrValue (s : State) (x : Hart) (n : Nat) : Nat :=
  if n = 0x001 then x.fflags % 32
  else if n = 0x003 then x.fflags % 32 + 32 * (x.csr 0x002 % 8)
  else if n = 0x008 then x.vstart
  else if n = 0x00F then x.csr 0x009 % 2 + 2 * (x.csr 0x00A % 4)
  else if n = 0xC20 then x.vl
  else if n = 0xC21 then x.vtype
  else if n = 0xC22 then 64
  else if n = 0xC01 then hartTime s x
  else if isCounter n then mapGetD x.hpm 0 (n - 0xC00)
  else if n = 0xDC0 then x.ndfault
  else if n = 0x144 then sipOf s x
  else if n = 0x244 then vsipOf s x
  else if n = 0x644 then hipOf s x
  else if n = 0xE12 then x.guestPending
  else if n = 0x15C then x.topei 0
  else if n = 0x25C then (x.guestFile.map x.topei).getD 0
  else if n = 0x151 ∨ n = 0x251 then ((siregAt x n).bind (fun a => x.sireg a.1 a.2)).getD 0
  else x.csr n

/-- A register of translation keeps its value when the mode written does not exist. -/
def atpLegal (v : Nat) : Bool := [0, 8, 9, 10].contains (bits v 63 60)

def Hart.writeCsr (x : Hart) (n v : Nat) : Hart :=
  if n = 0x001 then { x with fflags := v % 32 }
  else if n = 0x002 then x.setCsr n (v % 8)
  else if n = 0x003 then { x with fflags := v % 32 }.setCsr 0x002 (v / 32 % 8)
  else if n = 0x008 then { x with vstart := v % 512 }
  else if n = 0x00F then (x.setCsr 0x009 (v % 2)).setCsr 0x00A (v / 2 % 4)
  else if n = 0x180 ∨ n = 0x280 ∨ n = 0x680 then (if atpLegal v then x.setCsr n v else x)
  else if n = 0x15C then x.claim 0
  else if n = 0x25C then (match x.guestFile with
    | some k => x.claim k
    | none => x)
  else if n = 0x151 ∨ n = 0x251 then (match siregAt x n with
    | some a => x.setSireg a.1 a.2 v
    | none => x)
  else x.setCsr n v

/-- What an instruction writes, from the old value. -/
def csrNew (op : CsrOp) (old v : Nat) : Nat :=
  match op with
  | .read => old
  | .write => v
  | .set => Nat.lor old v
  | .clear => Nat.land old (2 ^ 64 - 1 - v % 2 ^ 64)

/-- The sireg of a number that selects no register is refused. -/
def siregMissing (x : Hart) (n : Nat) : Bool :=
  (n == 0x151 || n == 0x251) && ((siregAt x n).bind (fun a => x.sireg a.1 a.2)).isNone

/-- One CSR instruction: the old value goes to rd. -/
def csrPerform (s : State) (h : Nat) (op : CsrOp) (num rd v : Nat) : State :=
  let x := getHart s h
  match csrRefused x num (op != .read) with
  | some c => if c = causeIllegal then coreIllegal s h 0 else coreTrap s h c 0
  | none =>
    let n := csrNum x num
    if siregMissing x n then coreIllegal s h 0
    else
      let counter := isCounter n && n != 0xC01
      let x := if counter then x.count n (Config.freeNat s.free) else x
      let s := if counter then s.drawn else s
      let old := csrValue s x n
      modHart s h (fun _ =>
        let y := if op = .read then x else x.writeCsr n (csrNew op old v)
        y.xset rd old)

/-! ## The vector configuration (11 R379; VLEN 512, ELEN 64 from 11 Table 11.1) -/

/-- VLMAX of a vtype value, or none for one that the core does not support. -/
def vlMax (vt : Nat) : Option Nat :=
  let sew := 8 * 2 ^ bits vt 5 3
  let l := signed 3 (bits vt 2 0)
  if bits vt 63 8 ≠ 0 ∨ bits vt 5 3 > 3 ∨ bits vt 2 0 = 4 then none
  else
    let n := if l ≥ 0 then 512 * 2 ^ l.toNat / sew else 512 / 2 ^ (-l).toNat / sew
    if n = 0 ∨ (l < 0 ∧ sew > 64 / 2 ^ (-l).toNat) then none else some n

/-- vsetvl: between VLMAX and twice VLMAX the length may be anything from half the request up (a free choice). -/
def vsetPerform (s : State) (h rd avl vt : Nat) : State :=
  match vlMax vt with
  | none => modHart s h (fun x => { x with vill := true, vl := 0, vstart := 0 }.xset rd 0)
  | some m =>
    let lo := ceilDiv avl 2
    let vl := if avl ≤ m then avl else if avl < 2 * m then lo + Config.freeNat s.free % (m - lo + 1) else m
    modHart s.drawn h (fun x =>
      ({ x with vill := false, vl := vl, vstart := 0, sew := 8 * 2 ^ bits vt 5 3, lmul := signed 3 (bits vt 2 0) }.setCsr 0xC21
        vt).xset rd vl)

end Sys2Proof.Machine
end

