-- ==== Sys2Proof/Machine/Cores.lean ====
section
/-! DEFINITION. Compositor cores (11): the accesses of a hart through its range caches and its L3, the device extension,
locked L3 ways, and the calls of the core monitor. What a hart does between these commands is the RISC-V programs' and
not the block's. -/

namespace Sys2Proof.Machine

open Sys2Proof

abbrev CoreRes := Host.Outcome State Fault Refusal

/-- Writes pieces through the L3 (09 R292, 11 R376). -/
def coreWritePas (h : Nat) : List (Nat × Nat) → List Byte → State → State
  | [], _, s => s
  | (pa, n) :: r, data, s =>
    let line := List.replicate (pa % 128) 0#8 ++ data.take n ++ List.replicate 128 0#8
    let s := breakResv s (dieOfHart h) (lineOf pa) (some h)
    coreWritePas h r (data.drop n)
      (cacheWrite s (dieOfHart h) (lineOf pa) (lineMask (pa % 128) n) line (some (groupOfHart h)))

/-! ## Accesses (CORE_ACCESS) -/

/-- The kind of access that the range table and the MMU check: a cache-block management needs what a load needs. -/
def accKind : CoreAcc → Nat
  | .fetch _ => 3
  | .store _ _ => 1
  | .amo _ _ _ _ _ => 2
  | .storeCond _ _ _ => 1
  | .cboZero => 1
  | .vstore _ _ => 1
  | .hstore _ _ => 1
  | .hload _ _ x => if x then 3 else 0
  | _ => 0

def accSize : CoreAcc → Nat
  | .load n _ => n
  | .fetch n => n
  | .store n _ => n
  | .amo _ n _ _ _ => n
  | .loadReserved n _ => n
  | .storeCond n _ _ => n
  | .fload n _ => n
  | .vload n _ => n
  | .vstore n _ => n
  | .hload n _ _ => n
  | .hstore n _ => n
  | _ => 64

/-- The kind whose faults an access takes: a cache-block operation those of a store. -/
def accFault : CoreAcc → Nat
  | .cboClean => 1
  | .cboFlush => 1
  | .cboInval => 1
  | .hload _ _ _ => 0
  | a => accKind a

/-- Cause of an access fault of the matching kind. -/
def accCause : CoreAcc → Nat
  | .load _ _ => causeLoad
  | .fetch _ => causeFetch
  | .loadReserved _ _ => causeLoad
  | .fload _ _ => causeLoad
  | .vload _ _ => causeLoad
  | .hload _ _ _ => causeLoad
  | _ => causeStore

/-- Start of the access: a cache-block operation acts on the 64-byte block of its address (11 R376). -/
def accStart : CoreAcc → Nat → Nat
  | .cboZero, va => va / 64 * 64
  | .cboClean, va => va / 64 * 64
  | .cboFlush, va => va / 64 * 64
  | .cboInval, va => va / 64 * 64
  | _, va => va

/-- AMO, LR and SC addresses are naturally aligned; loads, stores and fetches of memory may lie anywhere. -/
def accAlign : CoreAcc → Nat → Option Nat
  | .amo _ n _ _ _, va => if va % n = 0 then none else some causeStoreAlign
  | .storeCond n _ _, va => if va % n = 0 then none else some causeStoreAlign
  | .loadReserved n _, va => if va % n = 0 then none else some causeLoadAlign
  | _, _ => none

/-- A floating-point register takes a value of `n` bytes, boxed in a NaN where it is narrower. -/
def Hart.fset (x : Hart) (rd n v : Nat) : Hart :=
  { x with fregs := mapSet x.fregs rd (2 ^ 64 - 2 ^ (8 * n) + v % 2 ^ (8 * n)) }

/-- An access of the core mailbox: loads read it and stores write it (11 R373, R386). -/
def mboxAccess (s : State) (h f off va : Nat) : CoreAcc → State
  | .load n rd => modHart s h (fun x => x.xset rd (ofBytes (readBytes (getMbox s (.core f)).bytes off n)))
  | .fload n rd => modHart s h (fun x => x.fset rd n (ofBytes (readBytes (getMbox s (.core f)).bytes off n)))
  | .store _ d => storeSlot s (.core f) off d
  | acc => coreFault s h (accCause acc) va (ndfaultOf 0 0 (coreDevices + off))

/-- Registers that receive the old value of an AMO: two for 16 bytes. -/
def Hart.amoSet (x : Hart) (rd size old : Nat) : Hart :=
  if size = 16 then (if rd = 0 then x else (x.xset rd (old % 2 ^ 64)).xset (rd + 1) (old / 2 ^ 64))
  else x.xset rd (signExtend size old)

/-- The access at its physical pieces, which come from the device pieces `dvas`. The management of a cache block keeps its
bytes: the caches are coherent, so that every agent reads the same before and after (notes/assumptions/76.md). ATOMICS counts
an LR and an SC that stores as one atomic each, which 09 Table 9.16 does not say (DESIGN CHOICE, notes/assumptions/117.md). -/
def coreAt (s : State) (h f va : Nat) (acc : CoreAcc) (dvas pas : List (Nat × Nat)) : State :=
  let die := dieOfHart h
  let grp := some (groupOfHart h)
  let poisoned (s : State) (pa : Nat) : State := coreFault s h (accCause acc) va (ndfaultOf 2 0 (sectorVa dvas pas pa))
  match acc with
  | .load _ rd =>
    let d := coreReadPas h pas s
    match d.2.2 with
    | some pa => poisoned d.1 pa
    | none => modHart d.1 h (fun x => x.xset rd (ofBytes d.2.1))
  | .fetch _ =>
    let d := coreReadPas h pas s
    match d.2.2 with
    | some pa => poisoned d.1 pa
    | none => d.1
  | .fload n rd =>
    let d := coreReadPas h pas s
    match d.2.2 with
    | some pa => poisoned d.1 pa
    | none => modHart d.1 h (fun x => x.fset rd n (ofBytes d.2.1))
  | .vload _ vd =>
    let d := coreReadPas h pas s
    match d.2.2 with
    | some pa => poisoned d.1 pa
    | none => modHart d.1 h (fun x => { x with vregs := writeBytes x.vregs (64 * vd) d.2.1 })
  | .hload _ rd _ =>
    let d := coreReadPas h pas s
    match d.2.2 with
    | some pa => poisoned d.1 pa
    | none => modHart d.1 h (fun x => x.xset rd (ofBytes d.2.1))
  | .store _ data => coreWritePas h pas data s
  | .vstore _ data => coreWritePas h pas data s
  | .hstore _ data => coreWritePas h pas data s
  | .cboZero => coreWritePas h pas (List.replicate 64 0#8) s
  | .loadReserved n rd =>
    match pas.head? with
    | none => s
    | some (pa, _) =>
      let d := cacheOwn s die (lineOf pa) grp
      if d.2.poisonAt (pa % 128) then poisoned d.1 (sectorBase pa)
      else modHart (countFor d.1 (some f) .atomics 1) h (fun x =>
        { x.xset rd (signExtend n (ofBytes (d.2.slice (pa % 128) n))) with resv := some (lineOf pa) })
  | .storeCond _ rd data =>
    match pas.head? with
    | none => s
    | some (pa, _) =>
      let won := (getHart s h).resv == some (lineOf pa)
      let s := modHart s h (fun x => (x.xset rd (if won then 0 else 1)).unreserve)
      if won then coreWritePas h pas data (countFor s (some f) .atomics 1) else s
  | .amo op n rd operand compare =>
    match pas.head? with
    | none => s
    | some (pa, _) =>
      let s := breakResv s die (lineOf pa) (some h)
      let r := cacheAtomic s die pa n op (operand % 2 ^ (8 * n)) (compare % 2 ^ (8 * n)) grp (some f)
      match r.2 with
      | none => poisoned r.1 (sectorBase pa)
      | some old => modHart r.1 h (fun x => x.amoSet rd n old)
  | _ => s

/-- The hart stalls on the command, which FAULT_REEVALUATE runs again (11 R375). -/
def stallHart (s : State) (h : Nat) (i : Instr) : State := modHart s h (fun x => { x with st := .stalled, stalledOn := some i })

/-- Offset in the core mailbox of an access whose device address lies there whole (11 R373). -/
def mboxOffset (m : CoreAt) : Option Nat :=
  match m with
  | .ok [(d, n)] => if coreDevices ≤ d ∧ d - coreDevices + n ≤ coreMboxSize then some (d - coreDevices) else none
  | _ => none

/-- One access of a hart of forme f: alignment, the MMU, then the core mailbox or translation, then the access. -/
def corePerform (s : State) (h f va : Nat) (acc : CoreAcc) : State :=
  match accAlign acc va with
  | some c => coreTrap s h c va
  | none =>
    let m := coreMmu h f (accKind acc) (accFault acc) (accStart acc va) (accSize acc) s
    match mboxOffset m.2 with
    | some off => mboxAccess m.1 h f off va acc
    | none =>
      let r := coreBoth h f (accKind acc) (accFault acc) (accStart acc va) (accSize acc) s
      match r.2.2 with
      | .held => stallHart r.1 h (.coreAccess h va acc)
      | .denied nd => coreFault r.1 h (accCause acc) va nd
      | .trap c a => coreTrap r.1 h c a
      | .ok pas => coreAt r.1 h f va acc r.2.1 pas

/-- A hypervisor load or store: the access of a guest in the mode that SPVP of hstatus names, whose exceptions are taken
from the hart's own mode. -/
def guestPerform (s : State) (h f va : Nat) (acc : CoreAcc) : State :=
  let own := (getHart s h).mode
  let guest := if bit ((getHart s h).csr 0x600) 8 then 2 else 3
  let r := coreBoth h f (accKind acc) (accFault acc) va (accSize acc) (modHart s h (fun x => { x with mode := guest }))
  let s := modHart r.1 h (fun x => { x with mode := own })
  match r.2.2 with
  | .held => stallHart s h (.coreAccess h va acc)
  | .denied nd => coreFault s h (accCause acc) va nd
  | .trap c a => coreTrap s h c a
  | .ok pas => coreAt s h f va acc r.2.1 pas

/-- Why the mode may not use a hypervisor load or store: a guest never, U-mode only with HU of hstatus. -/
def guestRefused (x : Hart) : Option Nat :=
  if x.virt then some 22 else if x.user && !bit (x.csr 0x600) 9 then some causeIllegal else none

/-- An access of a hart as it is. -/
def accessPerform (s : State) (h f va : Nat) (acc : CoreAcc) : State :=
  match acc with
  | .hload _ _ _ => guestPerform s h f va acc
  | .hstore _ _ => guestPerform s h f va acc
  | _ => corePerform s h f va acc

/-- Atomic operations and sizes that the RVA23 extensions with Zacas give a core (11 R369, 09 Table 9.10). -/
def amoLegal (op : AtomOp) (n : Nat) : Bool := op != .fadd && (n == 4 || n == 8 || (n == 16 && op == .cas))

/-! ## The core monitor (11 R370, R371, R384) -/

def sbiOk : Nat := 0
def sbiInvalidParam : Nat := 2 ^ 64 - 3
def sbiAlreadyAvailable : Nat := 2 ^ 64 - 6
def sbiNotSupported : Nat := 2 ^ 64 - 2

/-- A call returns an error code in a0 and a value in a1. -/
def sbiReturn (s : State) (h err val : Nat) : State := modHart s h (fun x => (x.xset 10 err).xset 11 val)

/-- Every target is a hart of the forme. -/
def sameFormeHarts (s : State) (f : Nat) (ts : List Nat) : Bool :=
  ts.all (fun t => decide (t < 96) && formeOfHart s t == some f)

/-- A hart starts in S-mode at an entry with translation off, a0 holding its ID and a1 the argument (11 R371). -/
def Hart.begin (x : Hart) (h entry arg : Nat) : Hart :=
  ({ x with st := .running, pc := entry, mode := 1, resv := none, stalledOn := none, wrs := false, resume := none,
            csrs := mapDel x.csrs 0x180 }.xset 10 h).xset 11 arg

def Hart.halt (x : Hart) : Hart := { x with st := .stopped, resv := none, stalledOn := none, wrs := false, resume := none }

/-- Extensions that the monitor offers (11 R370): Base, TIME, IPI, RFENCE, HSM, SRST and PMU, by the numbers of the SBI
specification. The number of the vendor extension is open. -/
def sbiOffered (e : Nat) : Bool := [0x10, 0x54494D45, 0x735049, 0x52464E43, 0x48534D, 0x53525354, 0x504D55].contains e

/-- HSM's state of a hart, as the SBI specification codes it. -/
def hsmStatus (x : Hart) : Nat :=
  match x.st with
  | .stopped => 1
  | .suspended => 4
  | _ => 0

/-- PMU's start of counters with an initial value: the counters of a mask from a base on, whose overflow is clear (11 R385). -/
def Hart.startCounters (x : Hart) (base mask v : Nat) : Hart :=
  ((bitsOf 32 mask).map (base + ·)).foldl
    (fun x k => { x with hpm := mapSet x.hpm k (v % 2 ^ 64) }.setCsr 0xDA0 (clearBit (x.csr 0xDA0) k)) x

/-- The calls that have no row of their own (11 R370): Base, TIME, PMU, and status and suspend of HSM. What Base and PMU
return is the monitor's (free values); TIME sets stimecmp. -/
def sbiPerform (s : State) (h f ext fn : Nat) (args : List Nat) : State :=
  let a (i : Nat) : Nat := args.getD i 0
  if ext = 0x10 then
    if fn = 3 then sbiReturn s h sbiOk (boolBit (sbiOffered (a 0)))
    else if fn ≤ 6 then sbiReturn s h sbiOk (Config.monitorValue fn % 2 ^ 64)
    else sbiReturn s h sbiNotSupported 0
  else if ext = 0x54494D45 ∧ fn = 0 then sbiReturn (modHart s h (fun x => x.setCsr 0x14D (a 0))) h sbiOk 0
  else if ext = 0x48534D ∧ fn = 2 then
    if sameFormeHarts s f [a 0] then sbiReturn s h sbiOk (hsmStatus (getHart s (a 0))) else sbiReturn s h sbiInvalidParam 0
  else if ext = 0x48534D ∧ fn = 3 then
    if a 0 = 0 then modHart (sbiReturn s h sbiOk 0) h (fun x => { x with st := .suspended, resume := none }.woken h)
    else if a 0 = 2 ^ 31 then modHart s h (fun x => { x with st := .suspended, resume := some (a 1, a 2) }.woken h)
    else sbiReturn s h sbiInvalidParam 0
  else if ext = 0x504D55 ∧ fn = 3 then
    sbiReturn (if bit (a 2) 0 then modHart s h (fun x => x.startCounters (a 0) (a 1) (a 3)) else s) h sbiOk 0
  else if ext = 0x504D55 then
    let v := Config.freeNat s.free
    sbiReturn s.drawn h (if bit v 64 then sbiOk else sbiInvalidParam) (v % 2 ^ 64)
  else sbiReturn s h sbiNotSupported 0

/-- Enables of cache-block instructions below HS-mode: senvcfg, henvcfg and, in VU-mode, both; CBIE, CBCFE, CBZE. -/
def cboRefused (x : Hart) (acc : CoreAcc) : Option Nat :=
  let on (v : Nat) : Bool :=
    match acc with
    | .cboInval => bits v 5 4 != 0
    | .cboClean => bit v 6
    | .cboFlush => bit v 6
    | .cboZero => bit v 7
    | _ => true
  if x.virt && !on (x.csr 0x60A) then some causeVirtual
  else if x.user && !on (x.csr 0x10A) then some (if x.virt then causeVirtual else causeIllegal)
  else none

/-- WRS.NTO: the hart executes nothing while its reservation stands and no interrupt comes (11 R386); without a reservation it
does not wait. -/
def wrsPerform (s : State) (h : Nat) : State :=
  modHart s h (fun x => if x.interrupts 0 || timerWakes s x || x.resv.isNone then x else { x with wrs := true })

/-- sstatus or vsstatus after an SRET: SIE takes SPIE, SPIE is set, SPP is clear. -/
def statusReturn (v : Nat) : Nat := withBit (withBit (withBit v 1 (bit v 5)) 5 true) 8 false

/-- SRET as the RISC-V privileged specification has it, from HS-mode to the mode that SPV and SPP name, from VS-mode within the
guest. -/
def Hart.sret (x : Hart) : Hart :=
  if x.mode = 2 then
    let v := x.csr 0x200
    { x.setCsr 0x200 (statusReturn v) with mode := if bit v 8 then 2 else 3, pc := x.csr 0x241 }
  else
    let v := x.csr 0x100
    let m := if bit (x.csr 0x600) 7 then (if bit v 8 then 2 else 3) else if bit v 8 then 1 else 0
    { (x.setCsr 0x100 (statusReturn v)).setCsr 0x600 (withBit (x.csr 0x600) 7 false) with mode := m, pc := x.csr 0x141 }

def sretPerform (s : State) (h : Nat) : State :=
  let x := getHart s h
  if x.mode = 0 then coreIllegal s h 0
  else if x.mode = 3 || x.mode = 2 && bit (x.csr 0x600) 22 then coreTrap s h 22 0
  else modHart s h Hart.sret

def execCoreAccess (hart va : Nat) (acc : CoreAcc) (s : State) : CoreRes :=
  match hartRuns s hart with
  | none => .next s
  | some f =>
    match acc with
    | .amo op n _ _ _ => if amoLegal op n then .next (corePerform s hart f va acc) else .next (coreIllegal s hart 0)
    | .csr op n rd v => .next (csrPerform s hart op n rd v)
    | .wrsNto => .next (wrsPerform s hart)
    | .wrsSto => .next s
    | .sret => .next (sretPerform s hart)
    | .hload _ _ _ => .next (match guestRefused (getHart s hart) with
      | some c => if c = causeIllegal then coreIllegal s hart 0 else coreTrap s hart c 0
      | none => accessPerform s hart f va acc)
    | .hstore _ _ => .next (match guestRefused (getHart s hart) with
      | some c => if c = causeIllegal then coreIllegal s hart 0 else coreTrap s hart c 0
      | none => accessPerform s hart f va acc)
    | .vsetvl rd a t => .next (vsetPerform s hart rd a t)
    | .privilege m => .next (modHart s hart (fun x => { x with mode := m % 4 }))
    | .sbi e n as => .next (sbiPerform s hart f e n as)
    | .prefetch => .next s
    | _ =>
      match cboRefused (getHart s hart) acc with
      | some c => .next (if c = causeIllegal then coreIllegal s hart 0 else coreTrap s hart c 0)
      | none => .next (corePerform s hart f va acc)

/-! ## Cache instructions (11 Table 11.6, R382, R383) -/

/-- ZLINE.L3 as a 128-byte store. -/
def zlinePerform (s : State) (h f va : Nat) : State :=
  if va % 128 ≠ 0 then coreTrap s h causeStoreAlign va
  else
    let r := coreBoth h f 1 1 va 128 s
    match r.2.2 with
    | .held => stallHart r.1 h (.zlineL3 h va)
    | .denied nd => coreFault r.1 h causeStore va nd
    | .trap c a => coreTrap r.1 h c a
    | .ok pas => coreWritePas h pas (List.replicate 128 0#8) r.1

def execZlineL3 (hart va : Nat) (s : State) : CoreRes :=
  match hartRuns s hart with
  | none => .next s
  | some f => .next (zlinePerform s hart f va)

/-- Ways of a group, as its die numbers them (11 R377). -/
def groupWays (g : Nat) : List Nat := (List.range 4).map (fun i => g % 6 * 4 + i)

def lockedOf (s : State) (g : Nat) : List Nat := (s.l3Locks.filter (fun l => l.group = g)).map (·.way)

def unlockWay (s : State) (g way : Nat) : State :=
  { s with l3Locks := s.l3Locks.filter (fun l => !(l.group == g && l.way == way)) }

/-- Moves a line that an agent holds into a way; what the way held leaves it. -/
def moveToWay (s : State) (agent ln way : Nat) : State :=
  match getLine s agent ln with
  | none => s
  | some l =>
    if l.way = way then s
    else
      let s := match lineInWay s agent ln way with
        | some (v, _) => evictLine s agent v
        | none => s
      setLine s agent ln { l with way := way }

/-- The lines of a region: line starts by device address. -/
def lineStarts (va len : Nat) : List Nat :=
  (List.range (ceilDiv (va + len) 128 - va / 128)).map (fun i => (va / 128 + i) * 128)

/-- Reads lines as loads into a way; the first fault stops it, at the address that comes back. -/
def preload (h f way va : Nat) : List Nat → State → State × Nat × CoreAt
  | [], s => (s, va, .ok [])
  | a :: r, s =>
    let t := coreBoth h f 0 0 a 128 s
    match t.2.2 with
    | .ok pas =>
      let pa := (pas.headD (0, 0)).1
      let d := cacheRead t.1 (dieOfHart h) (lineOf pa) (some (groupOfHart h)) false
      let bad (o : Nat) : Bool := d.2.poisonAt o
      let dva := (t.2.1.headD (0, 0)).1
      if bad 0 ∨ bad 64 then (d.1, a, .denied (ndfaultOf 2 0 (if bad 0 then dva else dva + 64)))
      else preload h f way va r (moveToWay d.1 (dieOfHart h) (lineOf pa) way)
    | x => (t.1, a, x)

/-- Device address of a byte of a hart's, where its MMU gives one. -/
def deviceVa (s : State) (h f va : Nat) : Option Nat :=
  match (mmuOne h f 0 va s).2 with
  | .ok d => some d
  | _ => none

/-- The region lies in the entry of its first byte, as far as its pages translate (11 R383). -/
def regionInEntry (s : State) (h f va len : Nat) : Bool :=
  match (deviceVa s h f va).bind (fun d => (getForme s f).bind (fun x => entryAt x d)) with
  | none => false
  | some e => (pageSpans va len).all (fun p =>
      match deviceVa s h f p.1 with
      | some d => decide (e.vaStart ≤ d) && decide (d + p.2 ≤ e.vaStop)
      | none => true)

/-- CWL.LOCK (11 R383). Which unlocked way of the group is taken is open: a free choice. -/
def cwlPerform (s : State) (h f va len rd : Nat) : State :=
  let g := groupOfHart h
  let fail := modHart s h (fun x => x.xset rd (2 ^ 64 - 1))
  let ways := (groupWays g).filter (fun w => !(lockedOf s g).contains w)
  let one := regionInEntry s h f va len
  if len = 0 ∨ len > 2 ^ 22 ∨ (lockedOf s g).length ≥ 2 ∨ one = false ∨ (deviceVa s h f va).any (coreDevices ≤ ·) then fail
  else
    let way := ways.getD (Config.freeNat s.free % ways.length) 0
    let s := { s.drawn with l3Locks := { die := dieOfHart h, way := way, group := g } :: s.l3Locks }
    let r := preload h f way va (lineStarts va len) s
    match r.2.2 with
    | .ok _ => modHart r.1 h (fun x => x.xset rd way)
    | .held => stallHart (unlockWay r.1 g way) h (.cwlLock h va len rd)
    | .denied nd => coreFault (unlockWay r.1 g way) h causeLoad (max va r.2.1) nd
    | .trap c a => coreTrap (unlockWay r.1 g way) h c (max va a)

/-- CWL instructions are legal in HS- and VS-mode alone (11 R382). -/
def cwlLegal (x : Hart) : Bool := x.mode == 1 || x.mode == 2

def execCwlLock (hart va len rd : Nat) (s : State) : CoreRes :=
  match hartRuns s hart with
  | none => .next s
  | some f => if cwlLegal (getHart s hart) then .next (cwlPerform s hart f va len rd) else .next (coreIllegal s hart 0)

/-- CWL.UNLOCK: a locked way of the group is in normal use again; another way is in normal use already. -/
def execCwlUnlock (hart way : Nat) (s : State) : CoreRes :=
  match hartRuns s hart with
  | none => .next s
  | some _ =>
    if cwlLegal (getHart s hart) then .next (unlockWay s (groupOfHart hart) way) else .next (coreIllegal s hart 0)

/-! ## Conversions (11 Table 11.5, R379 to R381) -/

def cvOp (w : Nat) : Nat := bits w 31 30
def cvDfmt (w : Nat) : Nat := bits w 29 26
def cvSfmt (w : Nat) : Nat := bits w 25 22
def cvVs1 (w : Nat) : Nat := bits w 21 17
def cvVs2 (w : Nat) : Nat := bits w 16 12
def cvVd (w : Nat) : Nat := bits w 11 7

/-- Type byte of a format code, which is the code itself (02 Table 2.2). -/
def formatOk (f : Nat) : Bool := decide (1 ≤ f) && decide (f ≤ 12)

def isNarrow (f : Nat) : Bool := decide (1 ≤ f) && decide (f ≤ 4)
def isMx (f : Nat) : Bool := decide (5 ≤ f) && decide (f ≤ 8)

/-- Registers of `n` bytes: the smallest EMUL that holds them (11 R379). -/
def emulOf (n : Nat) : Nat := if n ≤ 64 then 1 else if n ≤ 128 then 2 else if n ≤ 256 then 4 else 8

/-- Registers of a group of LMUL. -/
def lmulRegs (l : Int) : Nat := if l ≤ 0 then 1 else 2 ^ l.toNat

/-- Registers of the group that holds vl elements of a format: the elements of the wider width take LMUL. -/
def groupRegs (x : Hart) (fmt : Nat) : Nat :=
  if typeBits fmt = x.sew then lmulRegs x.lmul else emulOf (elemBytes fmt x.vl)

/-- Two groups of registers overlap in part. -/
def partOverlap (a b : Nat × Nat) : Bool := a != b && extentsMeet a.1 (a.1 + a.2) b.1 (b.1 + b.2)

/-- A group starts at a multiple of its size and ends below v32, as the RISC-V V extension has it. -/
def groupAligned (a : Nat × Nat) : Bool := a.1 % a.2 == 0 && decide (a.1 + a.2 ≤ 32)

/-- Groups of an instruction: VD, VS2 and, where a format is /M32, VS1; those of NSCALE are VD and VS2. -/
def cvGroups (x : Hart) (w : Nat) (nscale : Bool) : List (Nat × Nat) :=
  let src := (cvVs2 w, groupRegs x (cvSfmt w))
  if nscale then [(cvVd w, 1), src]
  else
    let dst := (cvVd w, groupRegs x (cvDfmt w))
    if isMx (cvSfmt w) || isMx (cvDfmt w) then [dst, src, (cvVs1 w, 1)] else [dst, src]

def vlMultiple (f vl : Nat) : Bool :=
  if isMx f then vl % 32 == 0 else if f = 1 then vl % 2 == 0 else if f = 2 then vl % 4 == 0 else true

/-- The cases of 11 R380. -/
def cvIllegal (x : Hart) (w : Nat) (nscale : Bool) : Bool :=
  let d := cvDfmt w
  let f := cvSfmt w
  let gs := cvGroups x w nscale
  bits w 6 0 != 0x0B || cvOp w != (if nscale then 1 else 0) || !formatOk d || !formatOk f ||
  (!(isNarrow d || isMx d) && !(isNarrow f || isMx f)) ||
  (nscale && (decide (f < 9) || !isMx d)) ||
  (cvVs1 w != 0 && !isMx d && !isMx f) ||
  !vlMultiple d x.vl || !vlMultiple f x.vl ||
  x.vstart != 0 || x.vill ||
  x.sew != max (typeBits d) (typeBits f) ||
  gs.any (fun a => gs.any (partOverlap a)) || gs.any (fun a => !groupAligned a)

/-- Byte `i` of a register group. -/
def Hart.vbyte (x : Hart) (r i : Nat) : Byte := byteAt x.vregs (64 * r + i)

/-- Scale byte of the block of element i: byte k of VS1 is the scale of block k. -/
def cvScale (x : Hart) (w i : Nat) : Nat := (x.vbyte (cvVs1 w) (i / 32)).toNat

/-- Code of source element i. -/
def cvCode (x : Hart) (w i : Nat) : Nat := codeAt (x.vbyte (cvVs2 w)) (typeBits (cvSfmt w)) i

/-- Exact value of source element i. -/
def cvSource (x : Hart) (w i : Nat) : Num :=
  match typeKind (cvSfmt w) with
  | none => .nan
  | some k => decodeKind k (cvScale x w i) (cvCode x w i)

/-- Flags of one conversion (11 R381): NX 1, UF 2, OF 4. -/
def cvFlags (v : Num) (c : Conv) : Nat :=
  if v.isNan then 0
  else
    match c.ev with
    | .overflow => 5
    | .subnormal => 3
    | .rtz => 3
    | _ => if c.val.eqv v then 0 else 1

/-- A target element: code and flags. Equal formats copy (02 R65). For a /M32 target the scale of VS1 is used as given;
under scale 0xFF, a NaN block whatever its elements are, 02 Table 2.12 still fixes a NaN, a zero and an infinity, but the code
and flags of a finite nonzero element are stated nowhere: free values from draw `d`. -/
def cvTarget (x : Hart) (w i d : Nat) : Nat × Nat :=
  let v := cvSource x w i
  let q := cvScale x w i
  match typeKind (cvDfmt w) with
  | none => (0, 0)
  | some k =>
    if cvDfmt w = cvSfmt w then
      let c := copiedConv k q (cvCode x w i)
      (c.code, cvFlags v c)
    else if k.isScaled && q == 0xFF && v.isFinNz then
      (Config.freeNat (d + i) % 2 ^ k.bits, Nat.land (Config.freeNat (d + i) / 2 ^ 64) 7)
    else
      let y := if k.isScaled then v.scale (127 - (q : Int)) else v
      let c := convElem false .away k y
      (c.code, cvFlags y c)

/-- NCVT of vl elements: packed from byte 0 of VD, the bytes above unchanged. -/
def ncvtPerform (s : State) (h w : Nat) : State :=
  let x := getHart s h
  let rs := (List.range x.vl).map (fun i => cvTarget x w i s.free)
  let flags := rs.foldl (fun a r => Nat.lor a r.2) x.fflags
  let out := packElems (typeBits (cvDfmt w)) (rs.map (·.1))
  modHart { s with free := s.free + x.vl } h (fun x => { x with vregs := writeBytes x.vregs (64 * cvVd w) out, fflags := flags })

def execNcvt (hart word : Nat) (s : State) : CoreRes :=
  match hartRuns s hart with
  | none => .next s
  | some _ => if cvIllegal (getHart s hart) word false then .next (coreIllegal s hart word) else .next (ncvtPerform s hart word)

/-- NSCALE: byte k of VD is choose_scale of elements 32k to 32k + 31 of VS2 (02 R63). -/
def nscalePerform (s : State) (h w : Nat) : State :=
  let x := getHart s h
  let block (k : Nat) : Byte :=
    match typeKind (cvDfmt w) with
    | some (.scaled f) => BitVec.ofNat 8 (chooseScale f .away ((List.range 32).map (fun j => cvSource x w (32 * k + j))))
    | _ => 0
  let out := (List.range (x.vl / 32)).map block
  modHart s h (fun x => { x with vregs := writeBytes x.vregs (64 * cvVd w) out })

def execNscale (hart word : Nat) (s : State) : CoreRes :=
  match hartRuns s hart with
  | none => .next s
  | some _ => if cvIllegal (getHart s hart) word true then .next (coreIllegal s hart word) else .next (nscalePerform s hart word)

/-! ## The core monitor: the calls with a row of their own (11 R370, R371, R384) -/

def execSbiIpi (hart : Nat) (targets : List Nat) (s : State) : CoreRes :=
  match hartRuns s hart with
  | none => .next s
  | some f =>
    if sameFormeHarts s f targets then
      .next (sbiReturn (targets.foldl (fun s t => signalHart s t 1) s) hart sbiOk 0)
    else .next (sbiReturn s hart sbiInvalidParam 0)

/-- RFENCE: every access performed before is in order already; the call returns. -/
def execSbiRfence (hart : Nat) (targets : List Nat) (s : State) : CoreRes :=
  match hartRuns s hart with
  | none => .next s
  | some f => .next (sbiReturn s hart (if sameFormeHarts s f targets then sbiOk else sbiInvalidParam) 0)

/-- HSM: starts a stopped hart of a started group of the forme; a hart stops itself alone, and does not return. -/
def execSbiHsm (hart target : Nat) (start : Bool) (entry arg : Nat) (s : State) : CoreRes :=
  match hartRuns s hart with
  | none => .next s
  | some f =>
    if !start then (if target = hart then .next (modHart s hart Hart.halt) else .next (sbiReturn s hart sbiInvalidParam 0))
    else if !sameFormeHarts s f [target] || !s.groupsRunning.contains (groupOfHart target) then
      .next (sbiReturn s hart sbiInvalidParam 0)
    else if (getHart s target).st != .stopped then .next (sbiReturn s hart sbiAlreadyAvailable 0)
    else .next (sbiReturn (modHart s target (fun x => x.begin target entry arg)) hart sbiOk 0)

/-- Harts of a group. -/
def hartsOf (g : Nat) : List Nat := (List.range 8).map (fun i => 8 * g + i)

def haltGroup (s : State) (g : Nat) : State := (hartsOf g).foldl (fun s h => modHart s h Hart.halt) s

/-- SRST: every core of the caller's forme stops (11 R370). -/
def execSbiSrst (hart : Nat) (s : State) : CoreRes :=
  match hartRuns s hart with
  | none => .next s
  | some f =>
    match getForme s f with
    | none => .next s
    | some x => .next (x.groups.foldl haltGroup s)

/-- 32 bytes of the Colophon's entropy source. -/
def entropy32 (s : State) : State × List Byte := (s.drawn, (Config.entropy s.free 32 ++ List.replicate 32 0#8).take 32)

def entropyPerform (s : State) (h f va : Nat) : State :=
  let r := coreBoth h f 1 1 va 32 s
  match r.2.2 with
  | .held => stallHart r.1 h (.sbiEntropy h va)
  | .denied nd => coreFault r.1 h causeStore va nd
  | .trap c a => coreTrap r.1 h c a
  | .ok pas =>
    let e := entropy32 r.1
    sbiReturn (coreWritePas h pas e.2 e.1) h sbiOk 0

/-- The vendor call: the bytes are stored at the buffer the caller names. -/
def execSbiEntropy (hart va : Nat) (s : State) : CoreRes :=
  match hartRuns s hart with
  | none => .next s
  | some f => .next (entropyPerform s hart f va)

/-! ## Stalled accesses (11 R375) -/

/-- The stalled command of a hart runs again. -/
def resumeHart (s : State) (h : Nat) : State :=
  let x := getHart s h
  let s := modHart s h (fun x => { x with st := .running, stalledOn := none })
  match x.stalledOn, formeOfHart s h with
  | some (.coreAccess _ va acc), some f => accessPerform s h f va acc
  | some (.zlineL3 _ va), some f => zlinePerform s h f va
  | some (.cwlLock _ va len rd), some f => cwlPerform s h f va len rd
  | some (.sbiEntropy _ va), some f => entropyPerform s h f va
  | _, _ => s

end Sys2Proof.Machine
end

