-- ==== Sys2Proof/Machine/MemRows.lean ====
section
/-! DEFINITION. The rows of the memory pool (08) and of its test port (08 R281, R282, 15 R519, 19 R612). -/

namespace Sys2Proof.Machine

open Sys2Proof

abbrev MemRes := Host.Outcome State Fault Refusal

/-! ## Reads and writes -/

/-- Symbol differences found in the codeword as it is read. -/
def addErrors (s : State) (pa : Nat) (errs : List (Nat × Byte)) : State :=
  if errs.isEmpty then s
  else
    let sum := patternAdd (symbolErrors s pa) (errs.map (fun e => (e.1, e.2.toNat)))
    if sum.isEmpty then { s with errors := mapDel s.errors (sectorOf pa) }
    else { s with errors := mapSet s.errors (sectorOf pa) (sum.map (fun e => (e.1, BitVec.ofNat 8 e.2))) }

/-- The pseudo-channel stops: the request whose read has found a byte lane dead is held (08 Table 8.10). -/
def beginRecovery (s : State) (r : MemReq) (lane : Nat) : State :=
  modPch s (paStack r.pa) (paPch r.pa) (fun c =>
    { stopPch s.now lane c with failed := some r, lostAt := some r.pa })

/-- MEMORY_READ: a home accepts a read (08 R258, R262, R268, R273). On a pseudo-channel that issues nothing it waits; one
that finds a byte lane dead is held while the lane is recovered. No request reaches a home island that is off (01 R44). -/
def execMemoryRead (pa : Nat) (priority : Bool) (errs : List (Nat × Byte)) (s : State) : MemRes :=
  if !s.homesOn then .next s
  else if paAbsent pa then .next (memRecord s pa 6 0 1 0)
  else
    let s := addErrors s pa errs
    let r : MemReq := { pa := pa, priority := priority, write := none, time := s.now }
    if pchBlocked s (paStack pa) (paPch pa) then .next (enqueue s r)
    else
      match laneDead s pa with
      | some lane => .next (beginRecovery s r lane)
      | none => .next (readDecode (memSlot s pa priority false) pa 1).1

/-- MEMORY_WRITE: a home accepts a write and carries it out in the order of its sector (08 R264, R269). The merge read of a
partial write that finds a byte lane dead is held as any read (08 R273). -/
def execMemoryWrite (pa mask : Nat) (data : List Byte) (s : State) : MemRes :=
  if !s.homesOn then .next s
  else if paAbsent pa then .next (homeWrite pa mask data s)
  else
    let r : MemReq := { pa := pa, priority := false, write := some (mask, data), time := s.now }
    if pchBlocked s (paStack pa) (paPch pa) then .next (enqueue s r)
    else
      match laneDead s pa with
      | some lane => .next (if mask = fullMask then sectorWrite pa mask data s else beginRecovery s r lane)
      | none => .next (sectorWrite pa mask data s)

/-! ## Byte lanes (08 R273, R274, Table 8.10) -/

/-- WRITE_CRC_ERROR: the write is issued again from the replay buffer; the third error of a byte lane within 1 µs is the
loss of the lane. -/
def execWriteCrcError (stack pch lane pa : Nat) (s : State) : MemRes :=
  if !s.powered then .next s
  else
    let note (c : Pch) : Pch :=
      { c with crcErrors := (lane, s.now) :: c.crcErrors.filter (fun e => s.now < e.2 + 1000) }
    let s := modPch s stack pch note
    let s := match (liveBursts s.now (getPch s stack pch).replay).find? (fun b => b.pa == sectorBase pa) with
      | some b => writeWhole s b.pa b.data
      | none => s
    let lost := ((getPch s stack pch).crcErrors.filter (fun e => e.1 = lane)).length ≥ 3
    if lost && (getPch s stack pch).recovering.isNone then
      .next (modPch s stack pch (fun c => { stopPch s.now lane c with lostAt := some pa }))
    else .next s

/-- BYTE_LANE_LOSS: the loopback test confirms the lost byte lane and it is moved onto the pair's spare; with the spare in
use the node retires. -/
def execByteLaneLoss (stack pch lane : Nat) (s : State) : MemRes :=
  if !s.powered || (getPch s stack pch).confirmed then .next s
  else
    let r := heldPa s stack pch
    let s := modPch r.1 stack pch (fun c =>
      { (if c.recovering.isSome then c else stopPch s.now lane c) with recovering := some lane, confirmed := true })
    .next (laneMove s stack pch lane r.2)

/-- The loopback test found every lane good: the failed read is uncorrectable (08 Table 8.10), and a write whose merge read
it was is discarded. After write CRC errors no read has failed. -/
def lanesPass (s : State) (k p : Nat) : State :=
  match (getPch s k p).failed with
  | some r => goOn (readFails s r.pa 2 0xF (getPch s k p).laneSource).1 k p none
  | none => goOn s k p none

/-- BYTE_LANE_RECOVERED: the pseudo-channel serves its queue again and a LANE record is written. -/
def execByteLaneRecovered (stack pch : Nat) (s : State) : MemRes :=
  if !s.powered then .next s
  else
    match (getPch s stack pch).recovering with
    | none => .next s
    | some lane =>
      let s := if (getPch s stack pch).confirmed then endRecovery s stack pch lane else lanesPass s stack pch
      .next (if (getStack s stack).selfRefresh then s else serveQueue s stack pch)

/-! ## Maintenance -/

/-- REFRESH: the bank is refreshed, which closes its row (08 Table 8.5; the closing is the family's,
notes/assumptions/22.md PRESUMED). -/
def execRefresh (stack pch bank : Nat) (s : State) : MemRes :=
  if s.powered && !(getStack s stack).selfRefresh then
    .next (modPch s stack pch (fun c => { c with openRows := mapDel c.openRows bank }))
  else .next s

/-- READ_RETRAIN: interface maintenance, which holds no state of the spec (08 Table 8.5). -/
def execReadRetrain (_stack _pch : Nat) (s : State) : MemRes := .next s

/-- Sectors of a stack that are backed, and the first of its reserved area (08 R256, R278, 10 R340). -/
def backedSectors : Nat := 0x1800000000 / 64
def reservedSector : Nat := 0x17FC000000 / 64

/-- PATROL_SCRUB: the home reads the next sector in use as a normal read (08 R278). -/
def execPatrolScrub (stack : Nat) (s : State) : MemRes :=
  let k := getStack s stack
  if !s.powered || k.selfRefresh || k.quiesced then .next s
  else
    let first := if (formeOfStack s stack).isSome then 0 else reservedSector
    let at_ := if k.scrub < first ∨ k.scrub ≥ backedSectors then first else k.scrub
    let s := (homeRead 2 false (stack * 2 ^ 37 + at_ * 64) s).1
    .next (modStack s stack (fun x => { x with scrub := (at_ + 1) % backedSectors }))

/-- INNER_CORR_POLL: the increase of the inner code's count is added to MEM_INNER_CORR (08 R272). -/
def execInnerCorrPoll (stack count : Nat) (s : State) : MemRes :=
  if !s.powered then .next s
  else
    let old := (getStack s stack).innerCount
    let s := modStack s stack (fun x => { x with innerCount := count })
    .next (countFor s (formeOfStack s stack) .memInnerCorr (count - old))

/-- SELF_REFRESH_ENTRY: a stack without a request for 1 ms whose Platen is in S2 or S3 (16 R541). -/
def execSelfRefreshEntry (stack : Nat) (s : State) : MemRes :=
  let p := mapGetD s.platens PlatenPower.reset (stack / 2)
  let idle := (getStack s stack).pchs.all (fun kv => kv.2.queue.isEmpty && kv.2.held.isEmpty && kv.2.recovering.isNone)
  if s.powered && !(getStack s stack).quiesced && (p.state == .s2 || p.state == .s3) && idle then
    .next (modStack s stack (fun x => { x with selfRefresh := true }))
  else .next s

/-- SELF_REFRESH_EXIT: the stack has left self-refresh and serves the requests that waited (16 R541). -/
def execSelfRefreshExit (stack : Nat) (s : State) : MemRes :=
  .next (if s.powered && !s.moduleIdle then wakeStack s stack none else s)

/-! ## Test port and repair (08 R280 to R282, 15 R519, 19 R612) -/

def setJtag (s : State) (f : Jtag → Jtag) : State := { s with jtag := f s.jtag }

def jtagRefused (s : State) : State := setJtag s (fun j => { j with accepted := false })

def jtagDone (s : State) : State := setJtag s (fun j => { j with accepted := true })

/-- One entry of kind Test state: the step of R282 and an open digest of its arguments. -/
def testEntry (s : State) (step : Nat) : State :=
  let d := openDigest s
  journalWrite d.1 (jEntry JOrigin.testPort 0x0D step 2 0 d.2)

/-- The test controller works on a stack: test unlock, no forme on the stack, and the quiesce of step 2. -/
def repairOpen (s : State) (stack : Nat) : Bool :=
  s.powered && s.sec.unlocked && (formeOfStack s stack).isNone && (getStack s stack).quiesced

/-- Resources used of the kind a row would take (08 Table 8.13). -/
def usedOf (k : Stack) (r : RowId) (hard : Bool) : Nat :=
  (k.repairs.filter (fun x => x.hard == hard && x.row.pch == r.pch && x.row.sid == r.sid && x.row.bg == r.bg &&
    (hard || x.row.bank == r.bank))).length

def resources (hard : Bool) : Nat := if hard then 2 else 1

def hasResource (k : Stack) (r : RowId) (hard : Bool) : Bool := decide (usedOf k r hard < resources hard)

/-- Number of the unit of resources of a row: bank group for hard rows, bank for soft ones. -/
def resourceKey (r : RowId) (hard : Bool) : Nat :=
  if hard then r.pch * 16 + r.sid * 4 + r.bg else r.pch * 64 + r.sid * 16 + r.bg * 4 + r.bank

/-- The contents of a stack are not kept: what it holds is then under keys that nobody has. -/
def forgetStack (s : State) (stack : Nat) : State :=
  let k := s.sec.nextKeys
  modStack { s with sec := { s.sec with nextKeys := k + 1 } } stack (fun x => { x with keySet := k, quiesced := true })

/-- The home of a stack carries out everything that waits there. -/
def drainStack (s : State) (stack : Nat) : State :=
  let s := ((getStack s stack).pchs.map (·.1)).foldl (fun s p => recoverLane s stack p) (wakeStack s stack none)
  (waitingPchs s stack none).foldl (serveFree stack) s

/-- STACK_QUIESCE: the home drains its queues, stops its scrub and leaves the stack idle with refresh running; refused while
a forme holds the stack. -/
def execStackQuiesce (stack : Nat) (s : State) : MemRes :=
  if s.powered && s.sec.unlocked && (formeOfStack s stack).isNone then
    let s := drainStack s stack
    .next (if s.powered then jtagDone (forgetStack s stack) else s)
  else .next (jtagRefused s)

/-- Resources left, for the units that have fewer than all. -/
def leftOf (k : Stack) (hard : Bool) : SMap Nat :=
  (k.repairs.filter (fun x => x.hard == hard)).foldl
    (fun m x => mapSet m (resourceKey x.row hard) (resources hard - usedOf k x.row hard)) []

/-- REPAIR_STATUS_READ: step 3 of R282. -/
def execRepairStatusRead (stack : Nat) (s : State) : MemRes :=
  if repairOpen s stack then
    let k := getStack s stack
    if journalHeld s then .next (holdRow s (.repairStatusRead stack)) else
    let s := setJtag s (fun j => { j with hardLeft := leftOf k true, softLeft := leftOf k false })
    .next (jtagDone (testEntry s 3))
  else .next (jtagRefused s)

/-- ROW_REPAIR: step 4. Without a free resource there is no repair; while the journal refuses changes the test controller
refuses the step. -/
def execRowRepair (stack : Nat) (row : RowId) (hard : Bool) (s : State) : MemRes :=
  if repairOpen s stack && !s.journal.full && hasResource (getStack s stack) row hard then
    if journalHeld s then .next (holdRow s (.rowRepair stack row hard)) else
    let s := testEntry s 4
    .next (jtagDone (modStack s stack (fun x =>
      { x with repairs := x.repairs ++ [{ row := row, hard := hard, failed := false }] })))
  else .next (jtagRefused s)

/-- PATTERN_TEST: step 5, on a repaired row; one that fails is reported and its resource stays used. -/
def execPatternTest (stack : Nat) (row : RowId) (fails : Bool) (s : State) : MemRes :=
  if repairOpen s stack && (getStack s stack).repairs.any (fun x => x.row == row) then
    if journalHeld s then .next (holdRow s (.patternTest stack row fails)) else
    let s := testEntry s 5
    let s := setJtag s (fun j => { j with tested := some (row, fails) })
    .next (jtagDone (modStack s stack (fun x => { x with repairs := x.repairs.map (fun r =>
      if r.row = row then { r with failed := fails } else r) })))
  else .next (jtagRefused s)

def stackBytes (stack : Nat) (a : Nat) : Bool := a / 2 ^ 37 == stack

/-- Every backed sector of a stack becomes zero under a key set (08 R282 step 6, 15 R499). -/
def zeroStack (s : State) (stack keys : Nat) : State :=
  let s := { s with mem := s.mem.filter (fun c => !stackBytes stack c.1),
                    poison := s.poison.filter (fun c => !stackBytes stack (c.1 * 64)),
                    errors := s.errors.filter (fun c => !stackBytes stack (c.1 * 64)) }
  modStack s stack (fun x =>
    { x with keySet := keys, pchs := x.pchs.map (fun kv => (kv.1, { kv.2 with replay := [] })) })

/-- STACK_RELEASE: step 6. -/
def execStackRelease (stack : Nat) (s : State) : MemRes :=
  if repairOpen s stack && !s.journal.full then
    if journalHeld s then .next (holdRow s (.stackRelease stack)) else
    let s := zeroStack (testEntry s 6) stack s.sec.lumizKeys
    .next (jtagDone (modStack s stack (fun x => { x with quiesced := false })))
  else .next (jtagRefused s)

/-- TEST_UNLOCK: on an engineering sample whose pin was held through the last cold reset, with no forme, a valid token
enables test unlock (15 R519). -/
def execTestUnlock (token : List Byte) (s : State) : MemRes :=
  if s.powered && s.sec.grade == 2 && s.pins.tunlkAtReset && s.formes.isEmpty && !s.journal.full &&
      Config.tokenValid s.sec.rootDigest token s.sec.serial then
    if journalHeld s then .next (holdRow s (.testUnlock token)) else
    let s := testEntry s 0
    .next (jtagDone { s with sec := { s.sec with unlocked := true, unlocks := satAdd 255 s.sec.unlocks 1 } })
  else .next (jtagRefused s)

/-- A control pin that the module drives, under EXTEST from its boundary cell (19 R612). -/
def drivenPin (s : State) (cell : Nat) (level : Bool) : Bool := if s.jtag.op = .extest then bit s.jtag.cells cell else level

/-- Levels of the control pins of 19 Table 19.5, in its order from bit 0: PERST_N[3:0], PWR_EN, PWR_GOOD, THERM_ALERT_N,
SB_ID[3:0], TUNLK_N. -/
def controlPins (s : State) : Nat :=
  packFields ((List.range 4).map (fun p => (1, boolBit (!(getPort s p).perstAsserted))) ++
    [(1, boolBit s.pins.pwrEn), (1, boolBit (drivenPin s 5 s.pins.pwrGood)), (1, boolBit (drivenPin s 6 (!s.pins.thermAlert))),
     (4, s.pins.sbId), (1, boolBit (!s.pins.tunlkAsserted))])

/-- The boundary register captures the pins, and holds what is shifted in. -/
def capturePins (s : State) : State := setJtag s (fun j => { j with captured := controlPins s })

/-- JTAG_INSTRUCTION: IDCODE, BYPASS, SAMPLE/PRELOAD and EXTEST run on the boundary-scan register of the twelve control pins:
SAMPLE captures them and PRELOAD fills the cells, from which EXTEST drives the outputs while it captures the inputs. Anything
else needs test unlock (19 R612). -/
def execJtagInstruction (op : JtagOp) (s : State) : MemRes :=
  match op with
  | .idcode => .next (jtagDone (setJtag s (fun j => { j with op := .idcode })))
  | .bypass => .next (jtagDone (setJtag s (fun j => { j with op := .bypass })))
  | .samplePreload cells =>
    .next (jtagDone (setJtag (capturePins s) (fun j => { j with op := .samplePreload cells, cells := cells % 2 ^ 12 })))
  | .extest => .next (jtagDone (capturePins (setJtag s (fun j => { j with op := .extest }))))
  | .other =>
    if s.sec.unlocked then .next (jtagDone (setJtag s (fun j => { j with op := .other }))) else .next (jtagRefused s)

end Sys2Proof.Machine
end

