-- ==== Sys2Proof/Machine/PassStart.lean ====
section
/-! DEFINITION. PASS_LAUNCH (12 Table 12.15, R415, 05 R136, 06 R180 to R188): the checks, the variant, the binding tables
and the parts of a pass. -/

namespace Sys2Proof.Machine

open Sys2Proof

def lcSticks (c : Nat) : Nat := bits c 31 0
def lcFixed (c : Nat) : Bool := bit c 32
def lcStep (c : Nat) : Nat := bits c 35 33

def launchFields : List (Nat × Nat) := [(63, 48), (37, 37), (36, 36), (35, 33), (32, 32), (31, 0)]

/-- The variant whose types are the present ones of the inputs, with its index (05 R172). -/
def variantFor (p : Plate) (l : Layer) : Option (Nat × Variant) :=
  let ts := l.ins.map (fun i => (inputNow p i).type)
  (((List.range l.variants.length).zip l.variants).find? (fun v => v.2.inTypes = ts))

def launchChecks (p : Option Plate) (c : Nat) : List (Bool × Nat × Nat) :=
  let l := p.bind (fun p => launchLayer p c)
  let v := match p, l with
    | some p, some l => variantFor p l
    | _, _ => none
  [reservedCheck launchFields c,
   (p.isNone, stNoPlate, 0),
   (!lcFixed c && lcStep c != 0, stBadField, fieldOff 33),
   (l.isNone || v.isNone, stBadField, fieldOff 48),
   (v.any (fun v => residentSticks v.2.header (if lcFixed c then some (lcStep c) else none) == 0), stBadOccupancy, fieldOff 33)]

/-- A new pass of a layer. -/
def newPass (s : State) (fid : Nat) (f : Forme) (p : Plate) (l : Layer) (v : Nat × Variant) (mb : MboxId) (k c : Nat) : Pass :=
  { seq := s.sec.nextPass, forme := fid, mb := mb, slot := k, layer := l.num, variant := v.1, header := v.2.header,
    nsticks := lcSticks c, nd5 := bit c 36, noBypass := bit c 37, fixedSplit := lcFixed c, lsStep := lcStep c,
    phase := .running, attempt := 0, outs := l.outs.map (·.now), ins := l.ins.map (inputNow p),
    parts := dividePass f.platens (lcSticks c), faultCount := 0, faults := [], records := [],
    tStart := 0, tEnd := 0, tStartFirst := 0, status := 0, overMask := 0, noHist := [] }

/-- The staging entries of the proofed bindings take the number of the pass (10 R343). -/
def stagePass (s : State) (fid seq : Nat) (bs : List OutBinding) : State :=
  modRanges s fid (fun es => es.map (fun e =>
    if e.kind = .staging ∧ bs.any (fun b => e.vaStart = b.stgVa) then { e with passSeq := seq, mapTime := s.now } else e))

/-- A new pass before the earlier ones of its forme: the last 256 are kept (05 R144), and any older one that still runs. -/
def addPass (q : Pass) (qs : List Pass) : List Pass := q :: (qs.take 255 ++ (qs.drop 255).filter Pass.alive)

/-- PASS_LAUNCH: the pass starts, its command waits for its end, and the Platens with a nonempty part wake. After 2^32 − 1
PASS_SEQ goes on from 0, as 05 Table 5.1 gives it 32 bits and no rule says more (DESIGN CHOICE, notes/assumptions/48.md). -/
def execPassLaunch (mb : MboxId) (slot : Nat) (s : State) : PassRes :=
  match startsCmd s mb slot 0x50, (formeOfMbox s mb).bind (fun f => (getForme s f).map (fun x => (f, x))) with
  | some c, some (fid, f) =>
    if lcSticks c = 0 then .next (reject s mb slot stOkEmpty 0)
    else
      match firstBad (launchChecks f.plate c), f.plate, f.plate.bind (fun p => launchLayer p c) with
      | none, some p, some l =>
        match variantFor p l with
        | none => .next s
        | some v =>
          let q := newPass s fid f p l v mb slot c
          let s := { s with sec := { s.sec with nextPass := (s.sec.nextPass + 1) % 2 ^ 32 } }
          let s := modForme s fid (fun x => { x with passes := addPass q x.passes })
          let s := stagePass (clearL1s s f) fid q.seq (proofedBindings q l)
          let s := runOn s mb slot q.seq
          .next ((q.parts.filter (fun x => x.first != x.stop)).foldl (fun s x => wakePlaten s x.platen) s)
      | some (st, d), _, _ => .next (reject s mb slot st d)
      | _, _, _ => .next s
  | _, _ => .next s

end Sys2Proof.Machine
end

