-- ==== Sys2Proof/Machine/Ranges.lean ====
section
/-! DEFINITION. Range mapping (10 R346 to R357, 12 Table 12.13): MAP_RANGE, UNMAP_RANGE, walks, and the reception and
drain of an invalidation by a die. The last acknowledgement stands in Machine/Invalidations.lean. -/

namespace Sys2Proof.Machine

open Sys2Proof

abbrev RangeRes := Host.Outcome State Fault Refusal

/-! ## Entries -/

/-- Digest of an entry in the journal (15 Table 15.11). -/
def RangeEntry.digest (e : RangeEntry) : Nat := digest16 (toBytes 24 e.low)

/-- OBJ_ID of a range (15 Table 15.11). -/
def rangeObj (f id : Nat) : Nat := id + 4096 * f

/-- A forme holds the stacks of its Platens (15 R498). -/
def Forme.holdsStack (f : Forme) (k : Nat) : Bool := f.platens.contains (k / 2)

/-- End of the part of a stack that ranges may map (10 R340). -/
def mappableEnd : Nat := 0x17FC000000

/-- A physical extent lies in the mappable part of one stack of the forme (10 R340, R341). -/
def extentOwned (f : Forme) (pa len : Nat) : Bool :=
  decide (pa < 2 ^ 41) && f.holdsStack (paStack pa) && decide (pa % 2 ^ 37 + len ≤ mappableEnd)

/-- An extent of addresses meets an entry, by VA or by physical address. -/
def meetsEntry (e : RangeEntry) (va pa len : Nat) : Bool :=
  extentsMeet va (va + len) e.vaStart e.vaStop || extentsMeet pa (pa + len) e.paStart e.paStop

def lowestFreeId (f : Forme) : Option Nat := (List.range 4096).find? (fun i => (entryById f i).isNone)

/-- A valid entry as a command creates it. -/
def newEntry (now id va pa len : Nat) (r w aper mesh : Bool) (kind : RangeKind) : RangeEntry :=
  { id := id, vaPage := va / 4096, pages := len / 4096, paPage := pa / 4096, r := r, w := w, aper := aper,
    mesh := mesh, kind := kind, state := .valid, passSeq := 0, mapTime := now }

def addEntry (s : State) (f : Nat) (e : RangeEntry) : State :=
  modRanges s f (fun es => es ++ [e])

/-- The visible extent of a binding, and its staging extent where it has one: VA, physical address, length, and the image
offsets of the two fields that name it. -/
structure PlateExt where
  va : Nat
  pa : Nat
  len : Nat
  vaField : Nat
  paField : Nat
  kind : RangeKind
  aper : Bool
  mesh : Bool
deriving DecidableEq, Repr

/-- Extents of a plate as its bindings name them. -/
def OutBinding.exts (b : OutBinding) : List PlateExt :=
  let vis : PlateExt :=
    { va := b.visVa, pa := b.visPa, len := b.rlen, vaField := 0, paField := 0, kind := .visible, aper := b.aper, mesh := b.mesh }
  let stg : PlateExt :=
    { va := b.stgVa, pa := b.stgPa, len := b.rlen, vaField := 0, paField := 0, kind := .staging, aper := false, mesh := false }
  if b.rungs = 0 then [vis] else [vis, stg]

def Plate.exts (p : Plate) : List PlateExt := p.layers.flatMap (fun l => l.outs.flatMap (·.exts))

/-- Entries that stay when the present plate goes: all but its visible and staging ones. -/
def keptEntries (f : Forme) : List RangeEntry := f.ranges.filter (fun e => e.kind != .visible && e.kind != .staging)

/-- Extents of a plate being loaded, which has an entry for each or is to make one. -/
def plannedExts (f : Forme) : List PlateExt :=
  match f.loading with
  | none => []
  | some p => p.exts

/-- An extent meets one of a plate being loaded, whose entries are to come: it counts as taken
(notes/assumptions/122.md). -/
def meetsPlanned (f : Forme) (va pa len : Nat) : Bool :=
  (plannedExts f).any (fun x => extentsMeet va (va + len) x.va (x.va + x.len) || extentsMeet pa (pa + len) x.pa (x.pa + x.len))

/-- No entry is free, or those free are all a loading plate's. -/
def tableFull (f : Forme) : Bool :=
  (lowestFreeId f).isNone ||
    (match f.loading with
     | some p => decide (4096 ≤ (keptEntries f).length + p.exts.length)
     | none => false)

/-- An entry that a plate being loaded is to lock (notes/assumptions/122.md). -/
def loadLocks (f : Forme) (e : RangeEntry) : Bool := f.loading.any (fun p => p.regions.any (fun r => r.rangeId == e.id))

/-- Removes entries. -/
def freeEntries (s : State) (f : Nat) (ids : List Nat) : State :=
  modRanges s f (fun es => es.filter (fun e => !ids.contains e.id))

/-! ## MAP_RANGE (10 R346, R347) -/

def mapVa (c : Nat) : Nat := bits c 55 0
def mapPa (c : Nat) : Nat := bits c 104 64
def mapLen (c : Nat) : Nat := bits c 191 128

def mapFields : List (Nat × Nat) :=
  [(195, 195), (194, 194), (193, 193), (192, 192), (191, 128), (104, 64), (55, 0)]

/-- The checks of 10 Table 10.3; the first and the second in the order the table gives. -/
def mapChecks (s : State) (f : Forme) (c : Nat) : List (Bool × Nat × Nat) :=
  let va := mapVa c
  let pa := mapPa c
  let len := mapLen c
  [(len == 0, stBadLength, fieldOff 128),
   reservedCheck mapFields c,
   (va % 4096 != 0, stBadField, fieldOff 0),
   (len % 4096 != 0, stBadField, fieldOff 128),
   (pa % 4096 != 0, stBadField, fieldOff 64),
   (decide (va + len > 2 ^ 56), stBadField, fieldOff 0),
   (!bit c 192, stBadField, fieldOff 192),
   (!extentOwned f pa len, stNotOwned, fieldOff 64),
   (f.ranges.any (fun e => meetsEntry e va pa len) || meetsPlanned f va pa len, stOverlap, fieldOff 0),
   (tableFull f, stTableFull, 0),
   journalCheck s]

/-- MAP_RANGE: one journal entry, the entry with the lowest free RANGE_ID, and the records it covers resolved. -/
def execMapRange (mb : MboxId) (slot : Nat) (s : State) : RangeRes :=
  match startsCmd s mb slot 0x20, formeOfMbox s mb with
  | some c, some fid =>
    match getForme s fid with
    | none => .next s
    | some f =>
      if (firstBad (mapChecks s f c)).isNone && journalHeld s then .next s
      else
        let id := (lowestFreeId f).getD 0
        let e := newEntry s.now id (mapVa c) (mapPa c) (mapLen c) (bit c 192) (bit c 193) (bit c 194) (bit c 195) .normal
        let go :=
          let s := journalWrite s (jEntry (originOf s mb slot) 0x05 (rangeObj fid id) 1 0 e.digest)
          let s := resolveCovered (addEntry s fid e) fid e.vaStart e.vaStop
          finish s mb slot stOk 0 id
        .next (checked s mb slot (mapChecks s f c) go)
  | _, _ => .next s

/-! ## UNMAP_RANGE (10 R351, R352) -/

/-- The entry that starts at a VA and that no UNMAP_RANGE is removing. -/
def unmapEntry (f : Forme) (va : Nat) : Option RangeEntry :=
  f.ranges.find? (fun e => e.vaStart = va && e.state != .invalidating)

def unmapChecks (s : State) (f : Forme) (c : Nat) : List (Bool × Nat × Nat) :=
  let e := unmapEntry f (bits c 55 0)
  [reservedCheck [(55, 0)] c,
   (e.isNone, stNotMapped, fieldOff 0),
   (e.any (fun e => e.kind != .normal || loadLocks f e), stPlateOwned, fieldOff 0),
   journalCheck s]

/-- UNMAP_RANGE: the journal entry, and the invalidation that INVALIDATION_ACK ends. -/
def execUnmapRange (mb : MboxId) (slot : Nat) (s : State) : RangeRes :=
  match startsCmd s mb slot 0x21, formeOfMbox s mb with
  | some c, some fid =>
    match getForme s fid with
    | none => .next s
    | some f =>
      if (firstBad (unmapChecks s f c)).isNone && journalHeld s then .next s
      else
        let go :=
          match unmapEntry f (bits c 55 0) with
          | none => s
          | some e =>
            let s := journalWrite s (jEntry (originOf s mb slot) 0x05 (rangeObj fid e.id) 3 e.digest 0)
            let s := runOn s mb slot s.sec.nextInval
            startInval s fid [e.id] .invalidating (.unmap mb slot)
        .next (checked s mb slot (unmapChecks s f c) go)
  | _, _ => .next s

/-- 10 Table 10.5. -/
def unmapResult (i : Inval) : Nat :=
  packFields
    [(12, i.ids.headD 0), (4, 0), (16, min 65535 i.faulted), (32, min (2 ^ 32 - 1) i.drained), (64, i.tInval), (64, i.tDone)]

/-! ## Walks, reception and drain (10 R344, Table 10.4, R353) -/

/-- RANGE_WALK: one 512-byte group is read, and a valid entry of the VA enters the range cache of the engine. -/
def execRangeWalk (forme : Nat) (eng : Engine) (va : Nat) (s : State) : RangeRes :=
  match getForme s forme with
  | none => .next s
  | some f =>
    if !s.homesOn then .next s
    else
      let s := walkRead s forme eng.die f va
      match entryAt f va with
      | none => .next s
      | some e => if e.state == .valid then .next (fillCached s forme eng e.id) else .next s

/-- RANGE_INVALIDATION: a die receives the invalidation and its engines drop the entries. -/
def execRangeInvalidation (inv die : Nat) (s : State) : RangeRes :=
  match getInval s inv with
  | none => .next s
  | some i =>
    if i.toReceive.contains die then
      .next (modInval (dropCached s i.forme die i.ids) inv (fun i =>
        { i with toReceive := i.toReceive.filter (· ≠ die) }))
    else .next s

/-- ENGINE_DRAIN_DONE: a die that has received the invalidation acknowledges it with its count of drained transfers. -/
def execEngineDrainDone (inv die drained : Nat) (s : State) : RangeRes :=
  match getInval s inv with
  | none => .next s
  | some i =>
    if i.toAck.contains die && !i.toReceive.contains die then
      let now := s.now
      .next (modInval s inv (fun i =>
        let left := i.toAck.filter (· ≠ die)
        { i with toAck := left, drained := satAdd (2 ^ 32 - 1) i.drained drained,
                 tDone := if left.isEmpty then now else i.tDone }))
    else .next s

end Sys2Proof.Machine
end

