-- ==== Sys2Proof/Machine/PlateImage.lean ====
section
/-! DEFINITION. Plate images (15 R509, R510, R626, R627, 12 R412, R413): the structures of 15 Tables 15.5 and 15.16 to
15.21 as an image holds them, and the checks of PLATE_LOAD in the order in which it reaches them. -/

namespace Sys2Proof.Machine

open Sys2Proof

/-! ## Reading structures -/

/-- Little-endian value of `n` image bytes from an offset; a byte past the image reads as zero. -/
def imgNat (img : List Byte) (off n : Nat) : Nat := ofBytes ((img.drop off).take n)

/-- Byte of a structure at which the first reserved field that is nonzero starts. -/
def reservedByte (fields : List (Nat × Nat)) (width v : Nat) : Option Nat :=
  let x := unnamed fields (v % 2 ^ width)
  if x = 0 then none else ((List.range width).find? (bit x)).map (fun b => reservedStart fields b / 8)

/-! ## The state of the checks: what has failed, and the extents that structures take -/

structure Parse where
  err : Option (Nat × Nat)
  taken : List (Nat × Nat)
deriving DecidableEq, Repr

/-- A check with the status and the image offset it fails with; the first that fails decides. -/
def Parse.check (p : Parse) (bad : Bool) (st off : Nat) : Parse :=
  if p.err.isNone && bad then { p with err := some (st, off) } else p

/-- A structure of `len` bytes at `off` that the offset field at `field` names: in the body, aligned, and apart from every
other structure (R626). -/
def Parse.place (p : Parse) (size off len align field : Nat) : Parse :=
  let bad := off % align != 0 || decide (off < 64) || decide (off + len > size) ||
    p.taken.any (fun t => extentsMeet off (off + len) t.1 (t.1 + t.2))
  let p := p.check bad stBadField field
  { p with taken := (off, len) :: p.taken }

def Parse.reserved (p : Parse) (fields : List (Nat × Nat)) (width v off : Nat) : Parse :=
  match reservedByte fields width v with
  | some b => p.check true stBadField (off + b)
  | none => p

/-! ## The structures (15 Tables 15.16 to 15.21) -/

def dirAt : Nat := 0x40

structure Directory where
  nlayer : Nat
  layerOff : Nat
  nregion : Nat
  regionOff : Nat
  codeOff : Nat
  codeLen : Nat
deriving DecidableEq, Repr

def directory (img : List Byte) : Directory :=
  let d := imgNat img dirAt 64
  { nlayer := bits d 63 48, layerOff := bits d 95 64, nregion := bits d 127 112, regionOff := bits d 159 128,
    codeOff := bits d 191 160, codeLen := bits d 223 192 }

structure LayerHead where
  layer : Nat
  nvar : Nat
  nout : Nat
  nin : Nat
  outOff : Nat
  inOff : Nat
  varOff : Nat
deriving DecidableEq, Repr

def layerHead (img : List Byte) (off : Nat) : LayerHead :=
  let d := imgNat img off 64
  { layer := bits d 15 0, nvar := bits d 23 16, nout := bits d 31 24, nin := bits d 39 32, outOff := bits d 95 64,
    inOff := bits d 127 96, varOff := bits d 159 128 }

/-- Image offset of layer entry i. -/
def layerAt (d : Directory) (i : Nat) : Nat := d.layerOff + 64 * i

def layerHeads (img : List Byte) (d : Directory) : List LayerHead :=
  (List.range d.nlayer).map (fun i => layerHead img (layerAt d i))

/-- The policy a binding has after PLATE_LOAD (05 R153). -/
def Policy.default : Policy :=
  { proofed := false, adapt := true, depth := 4, margin := 1, rerunLimit := 2, ovfThresh := 0, hold := 16,
    word := 0x07C0000000000008 }

def outBinding (img : List Byte) (off : Nat) : OutBinding :=
  let d := imgNat img off 64
  { type := bits d 7 0, s0 := signed 8 (bits d 15 8), histTop := signed 16 (bits d 31 16), rungs := bits d 33 32,
    elements := bits d 127 64, rlen := bits d 319 256, visVa := bits d 183 128, visPa := bits d 232 192,
    stgVa := bits d 375 320, stgPa := bits d 424 384, aper := bit d 35, mesh := bit d 36, policy := Policy.default,
    history := [], holdType := bits d 7 0, holdLeft := 0, committed := none }

def inBinding (img : List Byte) (off : Nat) : InBinding :=
  let d := imgNat img off 8
  { type := bits d 47 40, producer := if bit d 32 then some (bits d 15 0, bits d 19 16) else none }

def stickHeader (h : Nat) : StickHeader :=
  { defTmo := bit h 49, tmoLog2 := bits h 48 44, lsBytes := bits h 43 25, regs := bits h 24 17, sorts := bits h 16 6 }

def variantAt (img : List Byte) (codeOff nin off : Nat) : Variant :=
  let d := imgNat img off 32
  { inTypes := (List.range nin).map (fun n => bits d (8 * n + 7) (8 * n)),
    header := stickHeader (imgNat img (codeOff + bits d 159 128) 8), codeOff := bits d 159 128, codeLen := bits d 191 160 }

def imageLayer (img : List Byte) (d : Directory) (h : LayerHead) : Layer :=
  { num := h.layer,
    outs := (List.range h.nout).map (fun i => outBinding img (h.outOff + 64 * i)),
    ins := (List.range h.nin).map (fun i => inBinding img (h.inOff + 8 * i)),
    variants := (List.range h.nvar).map (fun i => variantAt img d.codeOff h.nin (h.varOff + 32 * i)) }

def layersOf (img : List Byte) : List Layer := (layerHeads img (directory img)).map (imageLayer img (directory img))

/-- Platen and VA of each region entry. -/
def regionEntries (img : List Byte) : List (Nat × Nat) :=
  let d := directory img
  (List.range d.nregion).map (fun i =>
    let e := imgNat img (d.regionOff + 16 * i) 16
    (bits e 58 56, bits e 55 0))

/-! ## Checks of R627 -/

/-- The directory, and the places of the tables it names. -/
def checkDirectory (img : List Byte) (size : Nat) (p : Parse) : Parse :=
  let v := imgNat img dirAt 64
  let d := directory img
  let p := p.place size dirAt 64 64 dirAt
  let p := p.check (d.codeLen == 0) stBadLength (dirAt + 24)
  let p := p.reserved [(63, 48), (95, 64), (127, 112), (159, 128), (191, 160), (223, 192)] 512 v dirAt
  let p := if d.nlayer = 0 then p.check (d.layerOff != 0) stBadField (dirAt + 8)
    else p.place size d.layerOff (64 * d.nlayer) 64 (dirAt + 8)
  let p := p.check (decide (d.nregion > 144)) stBadField (dirAt + 14)
  let p := if d.nregion = 0 then p.check (d.regionOff != 0) stBadField (dirAt + 16)
    else p.place size d.regionOff (16 * d.nregion) 16 (dirAt + 16)
  p.place size d.codeOff d.codeLen 64 (dirAt + 20)

/-- Bytes that a range of a binding needs: the largest size over its rungs, rounded up to 4 KiB (05 R169). -/
def OutBinding.needs (b : OutBinding) : Nat :=
  ceilDiv ((b.ladder.map (fun t => tensorBytes t b.elements)).foldl max 0) 4096 * 4096

def outBindingFields : List (Nat × Nat) :=
  [(7, 0), (15, 8), (31, 16), (33, 32), (35, 35), (36, 36), (127, 64), (183, 128), (232, 192), (319, 256), (375, 320),
   (424, 384)]

def checkOut (img : List Byte) (p : Parse) (off : Nat) : Parse :=
  let b := outBinding img off
  let p := p.check (b.elements == 0) stBadLength (off + 8)
  let p := p.check (b.rlen == 0) stBadLength (off + 32)
  let p := p.reserved outBindingFields 512 (imgNat img off 64) off
  let p := p.check (!typeValid b.type) stBadField off
  let p := p.check (decide (b.s0 < -63) || decide (63 < b.s0)) stBadField (off + 1)
  let p := p.check (decide (b.rungs > 2)) stBadField (off + 4)
  let p := p.check (b.rlen % 4096 != 0 || decide (b.rlen < b.needs)) stBadField (off + 32)
  let p := p.check (b.rungs == 0 && b.stgVa != 0) stBadField (off + 40)
  p.check (b.rungs == 0 && b.stgPa != 0) stBadField (off + 48)

/-- An input binding names a declared output binding, or a type. -/
def checkIn (img : List Byte) (hs : List LayerHead) (p : Parse) (off : Nat) : Parse :=
  let d := imgNat img off 8
  let p := p.reserved [(15, 0), (19, 16), (32, 32), (47, 40)] 64 d off
  if bit d 32 then
    let p := p.check (!hs.any (fun h => h.layer == bits d 15 0)) stBadField off
    let p := p.check (!hs.any (fun h => h.layer == bits d 15 0 && decide (bits d 19 16 < h.nout))) stBadField (off + 2)
    p.check (bits d 47 40 != 0) stBadField (off + 5)
  else
    let p := p.check (bits d 15 0 != 0) stBadField off
    let p := p.check (bits d 19 16 != 0) stBadField (off + 2)
    p.check (!typeValid (bits d 47 40)) stBadField (off + 5)

/-- Registers that one stick of a header needs (06 R179). -/
def StickHeader.stickRegs (h : StickHeader) : Nat := ceilDiv h.sorts 32 * 32 * (ceilDiv h.regs 8 * 8)

/-- 06 R179. Too many registers is a fault of SORTS and REGS alike: `pick` chooses the field named. -/
def checkHeader (img : List Byte) (pick : Bool) (p : Parse) (off : Nat) : Parse :=
  let v := imgNat img off 8
  let h := stickHeader v
  let p := p.check (h.sorts == 0) stBadLength off
  let p := p.reserved [(16, 6), (24, 17), (43, 25), (48, 44), (49, 49)] 64 v off
  let p := p.check (decide (h.sorts > 1024)) stBadField off
  let p := p.check (decide (h.regs < 8) || decide (h.regs > 255)) stBadField (off + 2)
  let p := p.check (decide (h.lsBytes > 458752)) stBadField (off + 3)
  let p := p.check (if h.defTmo then h.tmoLog2 != 0 else decide (h.tmoLog2 < 16) || decide (h.tmoLog2 > 30)) stBadField (off + 5)
  p.check (decide (h.stickRegs > 131072)) stBadField (if pick then off else off + 2)

def checkVariant (img : List Byte) (pick : Bool) (d : Directory) (h : LayerHead) (p : Parse) (i : Nat) : Parse :=
  let off := h.varOff + 32 * i
  let e := imgNat img off 32
  let types (k : Nat) : Nat := bits (imgNat img (h.varOff + 32 * k) 32) 127 0
  let code := bits e 159 128
  let len := bits e 191 160
  let p := p.check (len == 0) stBadLength (off + 20)
  let p := p.reserved [(127, 0), (159, 128), (191, 160)] 256 e off
  let p := (List.range 16).foldl (fun p n =>
    let t := bits e (8 * n + 7) (8 * n)
    p.check (if n < h.nin then !typeValid t else t != 0) stBadField (off + n)) p
  let p := p.check ((List.range i).any (fun k => types k == types i)) stBadField off
  let p := p.check (code % 64 != 0 || decide (code + len > d.codeLen)) stBadField (off + 16)
  let p := p.check (decide (len < 8)) stBadField (off + 20)
  let p := checkHeader img pick p (d.codeOff + code)
  match Config.codeFault ((img.drop (d.codeOff + code)).take len) (variantAt img d.codeOff h.nin off).inTypes with
  | some o => p.check true stBadField (d.codeOff + code + o % max 1 len)
  | none => p

/-- A layer entry with its bindings, variants and headers. -/
def checkLayer (img : List Byte) (size : Nat) (pick : Bool) (p : Parse) (i : Nat) : Parse :=
  if p.err.isSome then p
  else
    let d := directory img
    let hs := layerHeads img d
    let off := layerAt d i
    let h := layerHead img off
    let p := p.check (h.nvar == 0) stBadLength (off + 2)
    let p := p.reserved [(15, 0), (23, 16), (31, 24), (39, 32), (95, 64), (127, 96), (159, 128)] 512 (imgNat img off 64) off
    let p := p.check ((hs.take i).any (fun x => x.layer == h.layer)) stBadField off
    let p := p.check (decide (h.nvar > 8)) stBadField (off + 2)
    let p := p.check (decide (h.nout > 16)) stBadField (off + 3)
    let p := p.check (decide (h.nin > 16)) stBadField (off + 4)
    let p := if h.nout = 0 then p.check (h.outOff != 0) stBadField (off + 8) else p.place size h.outOff (64 * h.nout) 64 (off + 8)
    let p := (List.range h.nout).foldl (fun p k => checkOut img p (h.outOff + 64 * k)) p
    let p := if h.nin = 0 then p.check (h.inOff != 0) stBadField (off + 12) else p.place size h.inOff (8 * h.nin) 8 (off + 12)
    let p := (List.range h.nin).foldl (fun p k => checkIn img hs p (h.inOff + 8 * k)) p
    let p := p.place size h.varOff (32 * h.nvar) 32 (off + 16)
    (List.range h.nvar).foldl (fun p k => checkVariant img pick d h p k) p

/-- Type bytes of the inputs that a launch can meet, with the rung each producer then stands on (05 R172). -/
def reachableTypes (layers : List Layer) : List InBinding → List ((Nat × Nat) × Nat) → List (List Nat)
  | [], _ => [[]]
  | i :: r, seen =>
    let types : List Nat := match i.producer with
      | none => [i.type]
      | some b =>
        match seen.find? (fun (x : (Nat × Nat) × Nat) => x.1 = b) with
        | some x => [x.2]
        | none =>
          match (layers.find? (fun (l : Layer) => l.num = b.1)).bind (fun l => l.outs[b.2]?) with
          | some o => o.ladder
          | none => []
    types.flatMap (fun t =>
      let seen := match i.producer with
        | some b => (b, t) :: seen
        | none => seen
      (reachableTypes layers r seen).map (fun ts => t :: ts))

/-- Every reachable combination has a variant; the entry names its variants by NVAR and by VAR_OFF, and `pick` chooses the
field named. -/
def checkCover (img : List Byte) (pick : Bool) (p : Parse) (i : Nat) : Parse :=
  if p.err.isSome then p
  else
    let ls := layersOf img
    match ls[i]? with
    | none => p
    | some l =>
      let all := (reachableTypes ls l.ins []).all (fun ts => l.variants.any (fun v => v.inTypes = ts))
      p.check (!all) stBadField (layerAt (directory img) i + (if pick then 2 else 16))

def checkRegion (img : List Byte) (p : Parse) (i : Nat) : Parse :=
  let off := (directory img).regionOff + 16 * i
  let e := imgNat img off 16
  let p := p.reserved [(55, 0), (58, 56)] 128 e off
  p.check (decide (bits e 58 56 > 5)) stBadField (off + 7)

/-- 04 R134 over a plate of several variants: what one's code writes as a partial, another's may add. -/
def checkSlices (img : List Byte) (p : Parse) : Parse :=
  match if 1 < ((layersOf img).map (fun l => l.variants.length)).sum then Config.sliceFault img else none with
  | some o => p.check true stBadField (o % max 1 img.length)
  | none => p

/-- The body of a plate in the order of R627. -/
def checkBody (img : List Byte) (size : Nat) (pick : Bool) : Parse :=
  let d := directory img
  let p := checkDirectory img size { err := none, taken := [] }
  if p.err.isSome then p
  else
    let p := (List.range d.nlayer).foldl (checkLayer img size pick) p
    let p := (List.range d.nlayer).foldl (checkCover img pick) p
    let p := checkSlices img p
    (List.range d.nregion).foldl (checkRegion img) p

/-! ## The container (15 R509, R510) -/

def imgMagic : Nat := 0x0D6C

def imgKind (img : List Byte) : Nat := imgNat img 2 1

/-- What the header of an image must hold, for a kind; `bodyLen` bytes of body from byte 64. -/
def checkContainer (img : List Byte) (len kind bodyLen : Nat) : Parse :=
  let p : Parse := { err := none, taken := [] }
  let p := p.check (imgNat img 0 2 != imgMagic) stBadField 0
  let p := p.check (imgNat img 3 1 != 1) stBadField 3
  let p := p.check (imgKind img != kind) stBadField 2
  let p := p.check (imgNat img 4 8 != len) stBadField 4
  let p := p.check (if kind = 1 then imgNat img 12 1 != 0 else decide (imgNat img 12 1 > 63)) stBadField 12
  let p := p.check (kind != 2 && imgNat img 13 1 != 0) stBadField 13
  let p := p.check (imgNat img 14 2 != 0) stBadField 14
  let p := p.check ((img.drop 16).take 32 != treeDigest ((img.drop 64).take bodyLen)) stBadField 16
  p.check (imgNat img 48 16 != 0) stBadField 48

/-! ## Ranges and regions (12 R413, 09 R316) -/

def bindingExts (img : List Byte) (off : Nat) : List PlateExt :=
  let b := outBinding img off
  let vis : PlateExt :=
    { va := b.visVa, pa := b.visPa, len := b.rlen, vaField := off + 16, paField := off + 24, kind := .visible,
      aper := b.aper, mesh := b.mesh }
  let stg : PlateExt :=
    { va := b.stgVa, pa := b.stgPa, len := b.rlen, vaField := off + 40, paField := off + 48, kind := .staging,
      aper := false, mesh := false }
  if b.rungs = 0 then [vis] else [vis, stg]

/-- Every extent of a plate in body order. -/
def plateExts (img : List Byte) : List PlateExt :=
  (layerHeads img (directory img)).flatMap (fun h =>
    (List.range h.nout).flatMap (fun k => bindingExts img (h.outOff + 64 * k)))

/-- An overlap of an extent with the earlier ones and with entries: by VA, or by physical address. -/
def checkOverlap (kept : List RangeEntry) (exts : List PlateExt) (p : Parse) (i : Nat) : Parse :=
  match exts[i]? with
  | none => p
  | some x =>
    let earlier := exts.take i
    let va := earlier.any (fun y => extentsMeet x.va (x.va + x.len) y.va (y.va + y.len)) ||
      kept.any (fun e => extentsMeet x.va (x.va + x.len) e.vaStart e.vaStop)
    let pa := earlier.any (fun y => extentsMeet x.pa (x.pa + x.len) y.pa (y.pa + y.len)) ||
      kept.any (fun e => extentsMeet x.pa (x.pa + x.len) e.paStart e.paStop)
    (p.check va stOverlap x.vaField).check pa stOverlap x.paField

/-- The entry of the forme that a region names: normal, or locked by the present plate. -/
def regionEntry (f : Forme) (va : Nat) : Option RangeEntry :=
  f.ranges.find? (fun e => e.vaStart = va && (e.kind == .normal || e.kind == .locked) && e.state == .valid)

/-- Ways of a region of `pages` pages (09 R316). -/
def waysFor (pages : Nat) : Nat := ceilDiv (pages * 4096) (2 ^ 22)

/-- The regions with their ways, assigned downward from way 31 in table order (09 R316). -/
def assignWays (f : Forme) : List (Nat × Nat) → List Region → List Region
  | [], done => done
  | (platen, va) :: r, done =>
    match regionEntry f va with
    | none => assignWays f r done
    | some e =>
      let used := ((done.filter (fun x => x.platen = platen)).flatMap (·.ways)).length
      let n := waysFor e.pages
      let x : Region := { platen := platen, rangeId := e.id, paPage := e.paPage, pages := e.pages,
                          ways := (List.range n).map (fun i => 31 - used - i) }
      assignWays f r (done ++ [x])

def plateRegions (f : Forme) (img : List Byte) : List Region := assignWays f (regionEntries img) []

/-- Ways that the regions up to and including number i need in the Case of its Platen. -/
def waysUpTo (f : Forme) (rs : List (Nat × Nat)) (i platen : Nat) : Nat :=
  (((rs.take (i + 1)).filter (fun x => x.1 = platen)).map (fun x =>
    match regionEntry f x.2 with
    | some e => waysFor e.pages
    | none => 0)).foldl (· + ·) 0

/-- At most 24 ways of a Case are locked (09 R316). -/
def checkWays (f : Forme) (img : List Byte) (p : Parse) (i : Nat) : Parse :=
  match (regionEntries img)[i]? with
  | none => p
  | some x => p.check (decide (waysUpTo f (regionEntries img) i x.1 > 24)) stBadField ((directory img).regionOff + 16 * i)

def checkRegionEntry (f : Forme) (img : List Byte) (p : Parse) (i : Nat) : Parse :=
  let off := (directory img).regionOff + 16 * i
  match (regionEntries img)[i]? with
  | none => p
  | some x =>
    let p := p.check (!f.platens.contains x.1) stBadField (off + 7)
    p.check ((regionEntry f x.2).isNone) stBadField off

/-- The checks of 12 R413 in order. -/
def checkRanges (f : Forme) (img : List Byte) (p : Parse) : Parse :=
  let exts := plateExts img
  let kept := keptEntries f
  let p := exts.foldl (fun p x =>
    let p := p.check (x.va % 4096 != 0 || decide (x.va + x.len > 2 ^ 56)) stBadField x.vaField
    p.check (x.pa % 4096 != 0) stBadField x.paField) p
  let p := exts.foldl (fun p x => p.check (!extentOwned f x.pa x.len) stNotOwned x.paField) p
  let p := (List.range exts.length).foldl (checkOverlap kept exts) p
  let p := (List.range (directory img).nregion).foldl (checkRegionEntry f img) p
  match exts[4096 - kept.length]? with
  | some x => p.check true stTableFull x.vaField
  | none => p

/-- The plate of an image; its measurement is the tree digest of the whole image (15 R510). -/
def plateOf (f : Forme) (img : List Byte) : Plate :=
  { measurement := ofBytes (treeDigest img), layers := layersOf img, regions := plateRegions f img, sealKey := none }

end Sys2Proof.Machine
end

