-- ==== Sys2Proof/Machine/Plates.lean ====
section
/-! DEFINITION. Plates (12 R412 to R417, 09 Table 9.12, 15 R520 to R523): PLATE_LOAD with the retirement of the old plate,
the entries and the locks of the new one, PLATE_SEAL and SET_POLICY. -/

namespace Sys2Proof.Machine

open Sys2Proof

/-! ## Wakes (12 R426) -/

/-- Platens that a command involves and that do not run. -/
def asleep (s : State) (ps : List Nat) : List Nat := ps.filter (fun p => (getPlaten s p).state != .s0)

/-- The command goes on once its Platens run; it wakes those that sleep, and names them, so that none goes back to sleep
before (16 R537). -/
def afterWake (s : State) (mb : MboxId) (k : Nat) (ps : List Nat) (go : State) : State :=
  match asleep s ps with
  | [] => go
  | zs => zs.foldl wakePlaten (modSlot s mb k (fun x => { x with waitId := maskOf ps }))

/-! ## Locked ways (09 Table 9.12, R320, R321) -/

/-- Lines of a region, in ascending address order, with the way each is filled into. -/
def Region.lines (r : Region) : List (Nat × Nat) :=
  (List.range (r.pages * 32)).map (fun i => (r.paPage * 32 + i, r.ways.getD (i / 32768) 0))

/-- Whatever the ways hold leaves them. -/
def emptyWays (s : State) (platen : Nat) (ways : List Nat) : State :=
  let held := s.lines.filter (fun kv => kv.1 / 2 ^ 34 = platen ∧ ways.contains kv.2.way)
  held.foldl (fun s kv => settle (evictLine s platen (kv.1 % 2 ^ 34)) (kv.1 % 2 ^ 34)) s

/-- One LOCK_FILL (09 R317 step 2). -/
def lockLine (platen : Nat) (s : State) (l : Nat × Nat) : State :=
  request s l.1 (cacheReq platen (.lockFill l.2) none false)

/-- The Case fills a region's ways from memory. -/
def fillRegion (s : State) (r : Region) : State := r.lines.foldl (lockLine r.platen) (emptyWays s r.platen r.ways)

/-- The lines of a region are invalidated (09 R321). -/
def releaseRegion (s : State) (r : Region) : State := r.lines.foldl (fun s l => dropLine s r.platen l.1) s

/-! ## PLATE_LOAD (12 R412, R413) -/

def plSrc (c : Nat) : Nat := bits c 63 0
def plLen (c : Nat) : Nat := bits c 127 64

def plFields : List (Nat × Nat) := [(128, 128), (127, 64), (63, 0)]

/-- The image a command names: what could be read of it, and whether all of it could. -/
def readImage (s : State) (f c : Nat) : State × (Nat × List Byte × Bool) := peekVa s f (plSrc c) (plLen c)

/-- The checks of the command word. -/
def plChecks (c : Nat) : List (Bool × Nat × Nat) :=
  [(plLen c == 0, stBadLength, fieldOff 64), reservedCheck plFields c, vaCheck c 0]

/-- The image is one that IMAGE_INSTALL installs (15 R514). -/
def isNodeImage (img : List Byte) : Bool := imgKind img == 2 || imgKind img == 3

/-- An image that fails: result bits 63:0 name the image offset for all but a length (12 R412, R413, 15 R627). -/
def rejectImage (s : State) (mb : MboxId) (k st off : Nat) : State :=
  finish s mb k st (fieldOff 0) (if st = stBadLength then 0 else packFields [(64, off)])

/-- What is wrong with a plate image for a forme: container, body, locked ways. -/
def plateErrors (f : Forme) (img : List Byte) (len : Nat) (pick : Bool) : Option (Nat × Nat) :=
  let c := checkContainer img len 1 (len - 64)
  if c.err.isSome then c.err
  else
    let b := checkBody img len pick
    if b.err.isSome then b.err
    else ((List.range (directory img).nregion).foldl (checkWays f img) { err := none, taken := [] }).err

/-- Identifiers of the visible and staging entries of the present plate. -/
def plateEntryIds (f : Forme) : List Nat := (f.ranges.filter (fun e => e.kind == .visible || e.kind == .staging)).map (·.id)

/-- One entry of a new plate, with the lowest free RANGE_ID (12 R413, 15 R627). -/
def createEntry (fid : Nat) (s : State) (x : PlateExt) : State :=
  match getForme s fid with
  | none => s
  | some f =>
    match lowestFreeId f with
    | none => s
    | some id =>
      let e := newEntry s.now id x.va x.pa x.len true true x.aper x.mesh x.kind
      addEntry s fid e

/-- The load is complete, and the records whose key a new entry overlaps are resolved (10 R364, R366). -/
def endLoad (s : State) (fid : Nat) (mb : MboxId) (k : Nat) : State :=
  let s := match (getForme s fid).bind (·.plate) with
    | some p => p.exts.foldl (fun s x => resolveCovered s fid x.va (x.va + x.len)) s
    | none => s
  finish (modForme s fid (fun x => { x with loading := none })) mb k stOk 0 0

/-- The new plate's entries, then its locks. -/
def installPlate (s : State) (fid : Nat) (p : Plate) (mb : MboxId) (k : Nat) : State :=
  let s := p.exts.foldl (createEntry fid) s
  let s := modForme s fid (fun x => { x with plate := some p })
  if p.regions.isEmpty then endLoad s fid mb k
  else startInval s fid (p.regions.map (·.rangeId)) .invalidating (.lock mb k)

/-- The old plate's policies, histories, statistics records and seal are gone (12 R413); its passes stay among the last 256. -/
def discardPlate (s : State) (fid : Nat) : State :=
  modForme s fid (fun x => { x with plate := none, passes := x.passes.map (fun q => { q with records := [] }) })

/-- The next step of a load: the old locks, the old entries, then the new plate. -/
def loadStep (s : State) (fid : Nat) (mb : MboxId) (k : Nat) : State :=
  match getForme s fid with
  | none => s
  | some f =>
    match f.loading, f.plate with
    | none, _ => s
    | some p, none => installPlate s fid p mb k
    | some p, some old =>
      if !old.regions.isEmpty then startInval s fid (old.regions.map (·.rangeId)) .invalidating (.unlock mb k)
      else if !(plateEntryIds f).isEmpty then startInval s fid (plateEntryIds f) .invalidating (.retire mb k)
      else installPlate (discardPlate s fid) fid p mb k

/-- Digest of a measurement in the journal. -/
def measureDigest (m : Nat) : Nat := digest16 (toBytes 32 m)

/-- An image that passed every check replaces the plate. -/
def acceptPlate (s : State) (fid : Nat) (f : Forme) (img : List Byte) (mb : MboxId) (k : Nat) : State :=
  let p := plateOf f img
  afterWake s mb k (p.regions.map (·.platen)).eraseDups
    (let old := match f.plate with
      | some o => measureDigest o.measurement
      | none => 0
     let s := journalWrite s (jEntry (originOf s mb k) 0x06 fid (if f.plate.isSome then 2 else 1) old (measureDigest p.measurement))
     let s := runOn (modForme s fid (fun x => { x with loading := some p })) mb k 0
     loadStep s fid mb k)

/-- PLATE_LOAD. -/
def execPlateLoad (mb : MboxId) (slot : Nat) (s : State) : PassRes :=
  match startsCmd s mb slot 0x40, (formeOfMbox s mb).bind (fun f => (getForme s f).map (fun x => (f, x))) with
  | some c, some (fid, f) =>
    match firstBad (plChecks c) with
    | some (st, d) => .next (reject s mb slot st d)
    | none =>
      let r := readImage s fid c
      let img := r.2.2.1
      if !r.2.2.2 then .next (rejectImage r.1 mb slot stBadField r.2.1)
      else if isNodeImage img then .next s
      else
        let pick := Config.freeBool s.free
        match plateErrors f img (plLen c) pick with
        | some (st, off) => .next (rejectImage r.1.drawn mb slot st off)
        | none =>
          if (f.plate.bind (·.sealKey)).isSome && !bit c 128 then .next (reject r.1 mb slot stPlateSealed (fieldOff 128))
          else
            match (checkRanges f img { err := none, taken := [] }).err with
            | some (st, off) => .next (rejectImage r.1 mb slot st off)
            | none =>
              if s.journal.full then .next (reject r.1 mb slot stJournalFull 0)
              else if journalHeld s then .next s
              else .next (acceptPlate r.1 fid f img mb slot)
  | _, _ => .next s

/-! ## PLATE_SEAL (15 R520 to R523) -/

/-- A region's line in the Case of its Platen, but for one in S2 or S3, which does not wake (16 Table 16.12). -/
def lockedLine (s : State) (r : Region) (ln : Nat) : Option Line :=
  let p := (getPlaten s r.platen).state
  if p == .s2 || p == .s3 then none else getLine s r.platen ln

/-- Bytes of a locked region: its lines in the Case, or from memory where the Platen sleeps or the Case does not hold them. -/
def regionBytes (s : State) (r : Region) : List Byte :=
  r.lines.flatMap (fun l => match lockedLine s r l.1 with
    | some x => x.data
    | none => (readOnce s lumizVia.agent lumizVia.unit l.1 true).2.data)

/-- Entries in ascending VA order. -/
def insertByVa (e : RangeEntry) : List RangeEntry → List RangeEntry
  | [] => [e]
  | x :: r => if e.vaPage ≤ x.vaPage then e :: x :: r else x :: insertByVa e r

def byVa (es : List RangeEntry) : List RangeEntry := es.foldr insertByVa []

/-- Regions of a Platen in ascending VA order. -/
def regionsOf (f : Forme) (p : Plate) (platen : Nat) : List Region :=
  let ids := (byVa f.ranges).map (·.id)
  ids.flatMap (fun id => p.regions.filter (fun r => r.platen = platen && r.rangeId = id))

/-- The lock digest of a plate (R520). -/
def lockDigest (s : State) (f : Forme) (p : Plate) : List Byte :=
  sha256 (f.platens.flatMap (fun q =>
    match regionsOf f p q with
    | [] => List.replicate 32 0#8
    | rs => sha256 (rs.flatMap (regionBytes s))))

def sealFormat (b : List Byte) : Nat := ofBytes (b.take 2)
def sealReserved (b : List Byte) : Nat := ofBytes ((b.drop 2).take 14)
def sealModulus (b : List Byte) : List Byte := (b.drop 16).take 384
def sealSignature (b : List Byte) : List Byte := (b.drop 400).take 384

def sealVerifies (s : State) (f : Forme) (p : Plate) (b : List Byte) : Bool :=
  pssVerify (ofBytesBE (sealModulus b)) (sealSignature b) (toBytes 32 p.measurement ++ lockDigest s f p)

/-- PLATE_SEAL in the order of R522. -/
def execPlateSeal (mb : MboxId) (slot : Nat) (s : State) : PassRes :=
  match startsCmd s mb slot 0x41, (formeOfMbox s mb).bind (fun f => (getForme s f).map (fun x => (f, x))) with
  | some c, some (fid, f) =>
    match f.plate with
    | none => .next (reject s mb slot stNoPlate 0)
    | some p =>
      let first : List (Bool × Nat × Nat) :=
        [(p.sealKey.isSome, stPlateSealed, 0),
         (bits c 95 64 == 0, stBadLength, fieldOff 64),
         reservedCheck [(95, 64), (63, 0)] c,
         vaCheck c 0,
         (bits c 95 64 != 784, stBadField, fieldOff 64)]
      -- a command that fails one of these reads nothing (00 R13, R14)
      let r := if (firstBad first).isSome then (s, (0, [], true)) else peekVa s fid (bits c 63 0) 784
      let b := r.2.2.1
      let cs := first ++
        [(!r.2.2.2 || sealFormat b != 2 || sealReserved b != 0, stBadField, fieldOff 0),
         (!sealVerifies s f p b, stSigFail, fieldOff 0),
         journalCheck s]
      if (firstBad cs).isNone && journalHeld s then .next s
      else
        let go :=
          let s := journalWrite r.1 (jEntry (originOf s mb slot) 0x07 fid 1 0 (digest16 b))
          let key := ofBytes (sha256 (sealModulus b))
          let s := modForme s fid (fun x => { x with plate := x.plate.map (fun p => { p with sealKey := some key }) })
          finish s mb slot stOk 0 0
        .next (checked r.1 mb slot cs go)
  | _, _ => .next s

/-! ## SET_POLICY (05 R151 to R155, 12 R417) -/

/-- The policy of a policy word, defaults applied (05 Table 5.4). -/
def policyOf (w : Nat) : Policy :=
  { proofed := bits w 1 0 == 1, adapt := bit w 3, depth := if bit w 54 then 4 else bits w 8 4,
    margin := if bit w 55 then 1 else bits w 11 9, rerunLimit := if bit w 56 then 2 else bits w 13 12,
    ovfThresh := if bit w 57 then 0 else bits w 45 14, hold := if bit w 58 then 16 else bits w 53 46, word := w }

def policyFields : List (Nat × Nat) :=
  [(1, 0), (3, 3), (8, 4), (11, 9), (13, 12), (45, 14), (53, 46), (54, 54), (55, 55), (56, 56), (57, 57), (58, 58),
   (59, 59), (79, 64), (83, 80)]

def policyChecks (s : State) (p : Plate) (c : Nat) : List (Bool × Nat × Nat) :=
  let w := bits c 63 0
  let b := (p.layerNum (bits c 79 64)).bind (fun l => l.outs[bits c 83 80]?)
  let def_ (i hi lo : Nat) : Bool := bit w i && bits w hi lo != 0
  let rungs := match b with
    | some b => b.rungs
    | none => 2
  [(bits w 8 4 == 0 && !bit w 54, stBadField, fieldOff 4),
   (bits w 13 12 == 0 && !bit w 56, stBadField, fieldOff 12),
   (bits w 53 46 == 0 && !bit w 58, stBadField, fieldOff 46),
   reservedCheck policyFields c,
   (decide (bits w 1 0 ≥ 2), stBadField, fieldOff 0),
   (decide (bits w 8 4 > 16) || def_ 54 8 4, stBadField, fieldOff 4),
   (def_ 55 11 9, stBadField, fieldOff 9),
   (decide (bits w 13 12 > 2) || def_ 56 13 12 || (bits w 1 0 == 1 && decide ((policyOf w).rerunLimit > rungs)),
     stBadField, fieldOff 12),
   (def_ 57 45 14, stBadField, fieldOff 14),
   (def_ 58 53 46, stBadField, fieldOff 46),
   ((p.layerNum (bits c 79 64)).isNone, stBadField, fieldOff 64),
   (b.isNone, stBadField, fieldOff 80),
   (p.sealKey.isSome, stPlateSealed, 0),
   journalCheck s]

/-- OBJ_ID of a policy (15 Table 15.11). -/
def policyObj (f layer binding : Nat) : Nat := f * 2 ^ 30 + layer * 2 ^ 14 + binding * 2 ^ 10

/-- A binding under a new policy; CLR_HIST clears its history. -/
def OutBinding.setPolicy (b : OutBinding) (w : Nat) : OutBinding :=
  let b := { b with policy := policyOf w }
  if bit w 59 then { b with history := [] } else b

/-- With CLR_HIST, passes of the layer launched before add nothing to the history of the binding (05 R153). -/
def shutHistory (s : State) (fid layer i w : Nat) : State :=
  if bit w 59 then
    modForme s fid (fun x => { x with passes := x.passes.map (fun q =>
      if q.layer = layer then { q with noHist := i :: q.noHist } else q) })
  else s

def execSetPolicy (mb : MboxId) (slot : Nat) (s : State) : PassRes :=
  match startsCmd s mb slot 0x52, (formeOfMbox s mb).bind (fun f => (getForme s f).map (fun x => (f, x))) with
  | some c, some (fid, f) =>
    match f.plate with
    | none => .next (reject s mb slot stNoPlate 0)
    | some p =>
      let cs := policyChecks s p c
      if (firstBad cs).isNone && journalHeld s then .next s
      else
        let layer := bits c 79 64
        let i := bits c 83 80
        let old := match (p.layerNum layer).bind (fun l => l.outs[i]?) with
          | some b => digest16 (toBytes 8 b.policy.word)
          | none => 0
        let go :=
          let s := journalWrite s (jEntry (originOf s mb slot) 0x08 (policyObj fid layer i) 2 old (digest16 (toBytes 8 (bits c 63 0))))
          let s := modLayer s fid layer (fun l => { l with outs := l.outs.modify i (fun b => b.setPolicy (bits c 63 0)) })
          finish (shutHistory s fid layer i (bits c 63 0)) mb slot stOk 0 0
        .next (checked s mb slot cs go)
  | _, _ => .next s

end Sys2Proof.Machine
end

