-- ==== Sys2Proof/Machine/Der.lean ====
section
/-! DEFINITION. X.509 version 3 certificates in DER (15 R511, R517): reading the RSA key that a firmware-signing certificate
carries, and the two certificates of the identity chain. The encodings are those of ITU-T X.690 and RFC 5280
(notes/assumptions/128.md PRESUMED). -/

namespace Sys2Proof.Machine

open Sys2Proof

/-! ## Reading -/

/-- Content of the element at the front and what follows it, where its tag is `tag` and its length has its shortest form. -/
def derTake (tag : Nat) (bs : List Byte) : Option (List Byte × List Byte) :=
  let l := ((bs.drop 1).headD 0).toNat
  let k := if l < 128 then 0 else l - 128
  let n := if l < 128 then l else ofBytesBE ((bs.drop 2).take k)
  let rest := bs.drop (2 + k)
  let short := l < 128 ∨ (1 ≤ k ∧ k ≤ 4 ∧ 128 ≤ n ∧ 256 ^ (k - 1) ≤ n)
  if bs.length ≥ 2 ∧ (bs.headD 0).toNat = tag ∧ short ∧ n ≤ rest.length then some (rest.take n, rest.drop n) else none

/-- What follows the element at the front. -/
def derSkip (tag : Nat) (bs : List Byte) : Option (List Byte) := (derTake tag bs).map (·.2)

/-- The identifier rsaEncryption with its NULL parameters. -/
def oidRsa : List Byte := [0x06#8, 9#8, 0x2A#8, 0x86#8, 0x48#8, 0x86#8, 0xF7#8, 0x0D#8, 1#8, 1#8, 1#8, 0x05#8, 0#8]

/-- Modulus and public exponent of a subjectPublicKeyInfo. -/
def derRsaKey (spki : List Byte) : Option (Nat × Nat) :=
  (derTake 0x30 spki).bind fun alg =>
  (derTake 0x03 alg.2).bind fun str =>
  (derTake 0x30 (str.1.drop 1)).bind fun key =>
  (derTake 0x02 key.1).bind fun n =>
  (derTake 0x02 n.2).bind fun e =>
  if alg.1 = oidRsa ∧ str.1.headD 1 = 0 then some (ofBytesBE n.1, ofBytesBE e.1) else none

/-- The subjectPublicKeyInfo of a version 3 tbsCertificate: after version, serial number, signature algorithm, issuer, validity
and subject. -/
def derSpki (tbs : List Byte) : Option (List Byte) :=
  (derTake 0xA0 tbs).bind fun v =>
  (derSkip 0x02 v.2).bind fun r =>
  (derSkip 0x30 r).bind fun r =>
  (derSkip 0x30 r).bind fun r =>
  (derSkip 0x30 r).bind fun r =>
  (derSkip 0x30 r).bind fun r =>
  if v.1 = [0x02#8, 1#8, 2#8] then (derTake 0x30 r).map (·.1) else none

/-- The certificate at the front: its bytes, and the RSA-3072 key that it certifies. -/
def certificate (bs : List Byte) : Option (List Byte × Nat × Nat) :=
  (derTake 0x30 bs).bind fun cert =>
  (derTake 0x30 cert.1).bind fun tbs =>
  (derTake 0x30 tbs.2).bind fun alg =>
  (derTake 0x03 alg.2).bind fun sig =>
  (derSpki tbs.1).bind fun spki =>
  (derRsaKey spki).bind fun k =>
  if sig.2 = [] ∧ 2 ^ 3071 ≤ k.1 ∧ k.1 < 2 ^ 3072 then some (bs.take (bs.length - cert.2.length), k) else none

/-! ## Writing -/

/-- A length below 65,536 in its shortest form. -/
def derLength (n : Nat) : List Byte :=
  if n < 128 then toBytes 1 n else if n < 256 then 0x81#8 :: toBytes 1 n else 0x82#8 :: toBytesBE 2 n

def der (tag : Nat) (content : List Byte) : List Byte := BitVec.ofNat 8 tag :: derLength content.length ++ content

def derSeq (parts : List (List Byte)) : List Byte := der 0x30 parts.flatten

/-- A positive integer of `n` bytes, with the zero byte that keeps it positive. -/
def derInt (n x : Nat) : List Byte := der 0x02 (0#8 :: toBytesBE n x)

def derBits (bs : List Byte) : List Byte := der 0x03 (0#8 :: bs)

/-- Bytes of a certificate that the spec leaves open, at most 64 of them. -/
def openPart (i : Nat) : List Byte := (Config.certPart i).take 64

/-- An RSA-3072 public key, whose modulus has 3,072 bits and is odd. -/
def spkiOf (i : Nat) : List Byte :=
  derSeq [derSeq [oidRsa],
    derBits (derSeq [derInt 384 (2 ^ 3071 + 2 * (Config.certModulus i % 2 ^ 3070) + 1), der 0x02 [1#8, 0#8, 1#8]])]

/-- A certificate: issuer, subject and key, with the open parts from `i` on. -/
def certOf (i : Nat) (issuer subject : List Byte) (key : Nat) (ext : List Byte) : List Byte :=
  let alg := derSeq [openPart (i + 1)]
  let tbs := derSeq [der 0xA0 [0x02#8, 1#8, 2#8], derInt 16 (ofBytes (openPart i)), alg, issuer, derSeq [openPart (i + 2)], subject,
    spkiOf key, der 0xA3 (derSeq [openPart (i + 3), ext])]
  derSeq [tbs, alg, derBits (toBytesBE 384 (Config.certModulus (i + 4)))]

/-- A hexadecimal digit as its character. -/
def hexDigit (n : Nat) : Byte := BitVec.ofNat 8 (if n < 10 then 0x30 + n else 0x37 + n)

/-- One attribute of a name: object identifier 2.5.4.k and a PrintableString. -/
def nameAttr (k : Nat) (text : List Byte) : List Byte :=
  der 0x31 (derSeq [der 0x06 [0x55#8, 4#8, BitVec.ofNat 8 k], der 0x13 text])

/-- The subject of the device certificate holds SERIAL and the grade (15 R517): as serialNumber in sixteen hexadecimal digits,
and as organizationalUnitName in one. -/
def deviceSubject (serial grade : Nat) : List Byte :=
  derSeq [nameAttr 5 ((List.range 16).map (fun i => hexDigit (bits serial (63 - 4 * i) (60 - 4 * i)))),
    nameAttr 11 [hexDigit (grade % 16)]]

/-- The Volhaic extension that carries the modulus of the provisioning key (17 R566); its identifier is open. -/
def provisioningExt : List Byte :=
  derSeq [der 0x06 (openPart 16), der 0x04 (toBytesBE 384 (2 ^ 3071 + 2 * (Config.certModulus 16 % 2 ^ 3070) + 1))]

def volhaicName (i : Nat) : List Byte := derSeq [openPart i]

/-- The device certificate and the Volhaic intermediate certificate that signs it (15 R517, R518). -/
def identityChain (serial grade : Nat) : List Byte :=
  certOf 0 (volhaicName 20) (deviceSubject serial grade) 0 provisioningExt ++ certOf 8 (volhaicName 21) (volhaicName 20) 1 []

end Sys2Proof.Machine
end

