-- ==== Sys2Proof/Machine/GutterRows.lean ====
section
/-! DEFINITION. The rows of the Gutter (01 R36 to R39): lane swaps and the loss of a link. -/

namespace Sys2Proof.Machine

open Sys2Proof

abbrev GutRes := Host.Outcome State Fault Refusal

def laneKey (link dir group : Nat) : Nat := link * 32 + dir * 16 + group

def LaneGroup.reset : LaneGroup := { failed := 0, spareUsed := false, swapping := false }

def getLanes (s : State) (link dir group : Nat) : LaneGroup := mapGetD s.lanes LaneGroup.reset (laneKey link dir group)

/-- SPARES_USED of 01 Table 1.5. -/
def sparesUsed (s : State) : Nat := min 255 (s.lanes.filter (fun kv => kv.2.spareUsed)).length

/-- The node configuration that the next cold reset will load: the image of the preferred slot (01 R30, 15 R515). -/
def installedConfig (s : State) : NodeConfig :=
  (if s.flash.preferredSlot = 0 then s.flash.slot0 else s.flash.slot1).getD s.config

/-- Gutter division status word (01 Table 1.5). -/
def gutterWord (s : State) : Nat :=
  packFields [(4, s.applPp), (4, s.applCp), (8, sparesUsed s), (4, (installedConfig s).gutPp),
    (4, (installedConfig s).gutCp), (8, 0)]

def gutterRetire (s : State) (link group : Nat) : State :=
  retire s { code := 3, unit := 0x20 + link, detail := link + group * 2 ^ 8 }

/-- GUTTER_LANE_FAIL: the group starts to move onto its spare lane; with the spare in use the node retires
(01 R36 to R38). DESIGN CHOICE: a spare onto which a swap is still under way counts as in use
(notes/assumptions/116.md). Before the links are trained the failure is what training will find (R39). -/
def execGutterLaneFail (link dir group : Nat) (s : State) : GutRes :=
  if !s.powered then .next s
  else
    let g := getLanes s link dir group
    let put (x : LaneGroup) : State := { s with lanes := mapSet s.lanes (laneKey link dir group) x }
    if s.untrained then .next (put { g with failed := g.failed + 1 })
    else if g.spareUsed || g.swapping then .next (gutterRetire (put { g with failed := g.failed + 1 }) link group)
    else .next (put { failed := g.failed + 1, spareUsed := false, swapping := true })

/-- A swap is complete: the group runs on its spare and the swap is journaled (01 R36, R39). The digested status record of
a Gutter link has no layout in the spec; its digest is a free value. -/
def laneSwapped (s : State) (key : Nat) : State :=
  let old := Config.freeNat s.free % 2 ^ 128
  let new := Config.freeNat (s.free + 1) % 2 ^ 128
  let s := journalWrite s.drawn.drawn (jEntry JOrigin.firmware 0x0C (key / 32) 2 old new)
  { s with lanes := mapMod s.lanes key (fun g => { g with spareUsed := true, swapping := false }) }

/-- LANE_SWAP_DONE. -/
def execLaneSwapDone (link dir group : Nat) (s : State) : GutRes :=
  if s.powered && (getLanes s link dir group).swapping then
    .next (if journalHeld s then holdRow s (.laneSwapDone link dir group) else laneSwapped s (laneKey link dir group))
  else .next s

/-- What a cold reset leaves of the lane groups: their failed lanes, of which training finds some still failing. Which do
is a free choice, one draw each from `free` on. -/
def failedAtTraining (free : Nat) (m : SMap LaneGroup) : SMap LaneGroup :=
  (m.map (fun kv => (kv.1, { LaneGroup.reset with
      failed := ((List.range kv.2.failed).filter (fun i => Config.freeBool (free + 4 * kv.1 + i % 4))).length }))).filter
    (fun kv => 0 < kv.2.failed)

/-- Step 6 of Table 18.1: failed lanes are swapped onto spares; a group with two of them ends the start-up (01 R39,
18 Table 18.2). -/
def trainLanes (s : State) : State :=
  match s.lanes.find? (fun kv => 2 ≤ kv.2.failed) with
  | some kv => retire s { code := 6, unit := 0x20 + kv.1 / 32, detail := 0 }
  | none => (s.lanes.map (·.1)).foldl laneSwapped s

/-- GUTTER_LINK_LOSS: the loss of a whole link retires the node (01 R38). DESIGN CHOICE: the lane group in DETAIL is 0, since
a whole link has none (notes/assumptions/116.md). A link that is lost before it is trained does not train
(18 Table 18.2). -/
def execGutterLinkLoss (link : Nat) (s : State) : GutRes :=
  if !s.powered then .next s
  else if s.untrained then .next (retire s { code := 6, unit := 0x20 + link, detail := 0 })
  else .next (gutterRetire s link 0)

end Sys2Proof.Machine
end

