-- ==== Sys2Proof/Machine/Reports.lean ====
section
/-! DEFINITION. The commands that report (12 R405 to R407, R416, R420, R421, R433, 15 R518, R530, R531): IDENTIFY, ATTEST,
PASS_STATUS, TELEMETRY, JOURNAL_READ, JOURNAL_EXPORT and RECOVERY_READ, and the output descriptor they share. -/

namespace Sys2Proof.Machine

open Sys2Proof

abbrev RepRes := Host.Outcome State Fault Refusal

/-! ## The output descriptor (12 R406, Table 12.10) -/

def outFields : List (Nat × Nat) := [(96, 96), (95, 64), (63, 0)]

/-- Its fields, and then what its target needs (12 R399). -/
def outFieldChecks (mb : MboxId) (c : Nat) : List (Bool × Nat × Nat) :=
  let d := OutDesc.ofCmd c
  let core := match mb with
    | .host _ => false
    | .core _ => true
  [(d.host && core, stBadField, fieldOff 96),
   (d.len % 64 != 0, stBadField, fieldOff 64),
   (d.addr % 64 != 0 || (!d.host && decide (d.addr ≥ 2 ^ 56)), stBadField, fieldOff 0)]

def outTargetChecks (s : State) (mb : MboxId) (c : Nat) : List (Bool × Nat × Nat) :=
  let d := OutDesc.ofCmd c
  [(!d.host && (formeOfMbox s mb).isNone, stNoForme, fieldOff 96),
   (d.host && !hostReady s mb, stHostNotArmed, fieldOff 96)]

def outChecks (s : State) (mb : MboxId) (c : Nat) : List (Bool × Nat × Nat) := outFieldChecks mb c ++ outTargetChecks s mb c

/-- The engine that writes an output for a VA: the copy engine of the mailbox's Compositor. -/
def outAccess (f : Nat) (mb : MboxId) : Access :=
  { forme := f, eng := copyEngine (dieOfMbox mb), kind := 1, pass := none }

/-- Bus writes of Max_Payload_Size. -/
def busWrites (size : Nat) : Nat → Nat → List Byte → List HostTlp
  | 0, _, _ => []
  | n + 1, bus, data =>
    if data.isEmpty then []
    else
      let k := busPiece bus size data.length
      .write TlpAttr.clear bus (data.take k) :: busWrites size n (bus + k) (data.drop k)

/-- Writes an output to host memory. -/
def hostOutput (s : State) (p bus : Nat) (data : List Byte) : State :=
  modPort s p (fun x => { x with tx := x.tx ++ busWrites (min 512 x.maxPayload) data.length bus data })

/-- Writes an output page by page at device addresses: how many bytes were written before the first page that is denied or
waits, if any (10 R345, R358). -/
def outPages (a : Access) (w : Waiter) (via : Via) : List (Nat × Nat) → List Byte → Nat → State → State × Nat × Reached
  | [], _, n, s => (s, n, .ok [])
  | (va, len) :: r, data, n, s =>
    let t := reach a w [(va, len)] s
    match t.2 with
    | .ok pas => outPages a w via r (data.drop len) (n + len) (writePieces via 0 pas (data.take len) t.1)
    | x => (t.1, n, x)

/-- Writes an output through the descriptor and goes on with the bytes written and the status; a host port in D3hot issues
nothing, and a held translation leaves the command where it is. -/
def output (s : State) (mb : MboxId) (k : Nat) (d : OutDesc) (data : List Byte) (go : State → Nat → Nat → State) : State :=
  if d.host then
    if (getPort s (portOf mb)).d3hot then s else go (hostOutput s (portOf mb) d.addr data) data.length stOk
  else
    match formeOfMbox s mb with
    | none => s
    | some f =>
      let via : Via := { agent := agentOfDie (dieOfMbox mb), unit := coresUnit, zero := false }
      let r := outPages (outAccess f mb) (.copy mb k) via (pageSpans d.addr data.length) data 0 s
      match r.2.2 with
      | .held => r.1
      | .denied => go r.1 r.2.1 stTranslationFault
      | .ok _ => go r.1 r.2.1 stOk

/-- A reporting command that may start now: one that waits in a fault record does not. -/
def reports (s : State) (mb : MboxId) (k opc : Nat) : Option Nat :=
  if slotHeld s mb k then none else startsCmd s mb k opc

/-! ## PASS_STATUS's header and JOURNAL_READ's result (12 R416, R421, 15 R530, R531) -/

def passFaults (q : Pass) : List StickFault := q.faults.take 64

/-- The 64-byte header, as a number. -/
def passHeader (q : Pass) : Nat :=
  packFields
    [(32, q.seq), (16, q.status), (8, q.records.length), (8, (passFaults q).length), (32, q.faultCount),
     (1, boolBit q.alive)]

/-- The pass that a PASS_STATUS names. -/
def statusPass (s : State) (mb : MboxId) (c : Nat) : Option Pass := (formeOfMbox s mb).bind (fun f => recentPass s f (bits c 159 128))

/-- Entries numbered from `start`, oldest first, at most `n`. -/
def journalFrom (s : State) (start n : Nat) : List JEntry :=
  ((s.journal.entries.filter (fun e => decide (start ≤ e.number))).reverse).take n

/-- The entries a JOURNAL_READ would write. -/
def journalWanted (s : State) (c : Nat) : List JEntry :=
  journalFrom s (bits c 191 128) (min (bits c 223 192) ((OutDesc.ofCmd c).len / 64))

def journalResult (s : State) (es : List JEntry) (start : Nat) : Nat :=
  packFields
    [(32, es.length), (64, (es.head?.map (·.number)).getD start), (64, s.journal.next - 1),
     (64, s.journal.oldestUnexported)]

/-- The entries become exported, after the entry of kind Journal export (15 R530). -/
def markExported (s : State) (o : JOrigin) (es : List JEntry) (start : Nat) : State :=
  let first := (es.head?.map (·.number)).getD start
  let s := journalWrite s (jEntry o 0x12 es.length 4 0 (digest16 (toBytes 8 first ++ toBytes 8 es.length)))
  match es.getLast? with
  | some e => { s with journal := { s.journal with oldestUnexported := e.number + 1 } }
  | none => s

/-! ## The end of a report (12 R406) -/

/-- Result bits above OUT_USED for `n` bytes written. -/
def reportRest (s : State) (mb : MboxId) (opc c n : Nat) : Nat :=
  if opc = 0x51 then ((statusPass s mb c).map passHeader).getD 0
  else if opc = 0x71 then journalResult s ((journalWanted s c).take (n / 64)) (bits c 191 128)
  else 0

/-- A report ends with `n` bytes written: an export marks the entries written, then OUT_USED and the rest of the result. -/
def reported (mb : MboxId) (k : Nat) (s : State) (n st : Nat) : State :=
  let m := getMbox s mb
  let opc := slotOpcode m k
  let c := slotCmd m k
  let es := (journalWanted s c).take (n / 64)
  let r := if opc = 0x71 ∧ bit c 224 then markExported s (originOf s mb k) es (bits c 191 128) else s
  let rest := if opc = 0x71 then journalResult r es (bits c 191 128) else reportRest s mb opc c n
  finish r mb k st 0 (packFields [(32, n), (992, rest)])

/-- Writes an output that fits, and completes with OUT_USED and the rest of the result. -/
def report (s : State) (mb : MboxId) (k : Nat) (d : OutDesc) (data : List Byte) : State :=
  if data.length > d.len then finish s mb k stNoSpace data.length 0 else output s mb k d data (reported mb k)

/-- A report one page of which, at `va`, is denied after it was held: what lies below the page is written. -/
def denyReport (s : State) (mb : MboxId) (k va : Nat) : State :=
  reported mb k s (va - (OutDesc.ofCmd (slotCmd (getMbox s mb) k)).addr) stTranslationFault

/-! ## IDENTIFY (12 Table 12.11) -/

/-- PORT and X4; a core mailbox has no port, and what it reads there is open. -/
def identifyPort (s : State) : MboxId → State × (Nat × Nat)
  | .host p => (s, (p, boolBit (portX4 s p)))
  | .core _ => (s.drawn, (Config.freeNat s.free % 2 ^ 8, Config.freeNat s.free / 2 ^ 8 % 2))

def execIdentify (mb : MboxId) (slot : Nat) (s : State) : RepRes :=
  match startsCmd s mb slot 0x01 with
  | none => .next s
  | some c =>
    let i := identifyPort s mb
    let r := packFields
      [(32, gutterWord s), (8, s.sec.grade), (1, boolBit s.sec.unlocked), (7, 0), (16, s.sec.lumizVer),
       (64, s.sec.serial), (15, s.config.node), (17, 0), (32, s.config.gnid), (8, i.2.1),
       (8, (formeOfMbox s mb).getD 0xFF), (1, boolBit (isAdmin s mb)), (1, i.2.2)]
    .next (checked s mb slot [reservedCheck [] c] (finish i.1 mb slot stOk 0 r))

/-! ## ATTEST (12 R407, 15 R516 to R518) -/

/-- Bits of the Platens and groups of a forme, as FORME_CREATE has them. -/
def Forme.platenMask (f : Forme) : Nat := maskOf f.platens
def Forme.groupMask (f : Forme) : Nat := maskOf f.groups

/-- The 256-byte quote body (15 Table 15.8). -/
def quoteBody (s : State) (mb : MboxId) (nonce : Nat) : List Byte :=
  let f := (formeOfMbox s mb).bind (getForme s)
  let plate := f.bind (·.plate)
  let sk := plate.bind (·.sealKey)
  toBytes 256 (packFields
    [(16, 1), (8, s.sec.grade), (1, boolBit s.sec.unlocked), (1, boolBit f.isSome), (2, (formeOfMbox s mb).getD 0),
     (4, mboxCode mb), (6, (f.map Forme.platenMask).getD 0), (12, (f.map Forme.groupMask).getD 0),
     (1, boolBit sk.isSome), (1, s.sec.bank), (12, 0), (8, s.sec.unlocks), (56, 0), (64, s.now), (64, s.sec.serial),
     (32, s.config.gnid), (40, s.journal.next - 1), (56, 0), (256, nonce), (256, s.sec.lumizMeasurement),
     (256, if s.sec.configSlot.isSome then s.config.measurement else 0), (256, sk.getD 0),
     (256, (plate.map (·.measurement)).getD 0), (256, s.journal.chain)])

def fitBytes (n : Nat) (bs : List Byte) : List Byte := (bs ++ List.replicate n 0#8).take n

/-- The certificate chain; a quote never exceeds 6,144 bytes. -/
def certChain (s : State) : List Byte := identityChain s.sec.serial s.sec.grade

/-- A signed quote. -/
def quote (s : State) (mb : MboxId) (nonce : Nat) : State × List Byte :=
  let b := quoteBody s mb nonce
  (s.drawn, b ++ fitBytes 384 (Config.identitySign b s.free) ++ toBytes 4 (certChain s).length ++ certChain s)

def execAttest (mb : MboxId) (slot : Nat) (s : State) : RepRes :=
  match reports s mb slot 0x02 with
  | none => .next s
  | some c =>
    let d := OutDesc.ofCmd c
    let size := 644 + (certChain s).length
    let q := quote s mb (bits c 383 128)
    .next (checked s mb slot
      ([(d.len == 0, stOkEmpty, 0), reservedCheck ((383, 128) :: outFields) c] ++ outChecks s mb c ++
        [(decide (size > d.len), stNoSpace, size)])
      (report q.1 mb slot d q.2))

/-! ## PASS_STATUS (12 R416) -/

def passReport (q : Pass) : List Byte :=
  toBytes 64 (passHeader q) ++ q.records.flatMap StatRec.pack ++ (passFaults q).flatMap StickFault.pack

def passStatusEmpty (s : State) (mb : MboxId) (k : Nat) (q : Option Pass) : State :=
  finish s mb k stOkEmpty 0 (packFields [(32, 0), (512, (q.map passHeader).getD 0)])

def execPassStatus (mb : MboxId) (slot : Nat) (s : State) : RepRes :=
  match reports s mb slot 0x51 with
  | none => .next s
  | some c =>
    let d := OutDesc.ofCmd c
    let q := statusPass s mb c
    if d.len = 0 then .next (passStatusEmpty s mb slot q)
    else
      .next (checked s mb slot
        ([reservedCheck ((159, 128) :: outFields) c] ++ outChecks s mb c ++ [(q.isNone, stNoPass, fieldOff 128)])
        (match q with
         | some q => report s mb slot d (passReport q)
         | none => s))

/-! ## TELEMETRY (12 R420) -/

/-- A counter that a clock drives, or that counts messages whose sizes the spec does not give, reads as a free value. -/
def openCount (s : State) (code : Nat) : Nat := Config.clockCount code s.free % 2 ^ 64

/-- A sum over the stacks of a forme. -/
def overStacks (s : State) (f : Forme) (g : Stack → Nat) : Nat :=
  ((s.stackTab.filter (fun kv => f.platens.contains (kv.1 / 2))).map (fun kv => g kv.2)).foldl (· + ·) 0

/-- HOME_Q_FULL: cycles in which normal requests were held back, those held now included (08 R262). -/
def qFullCycles (s : State) (f : Forme) : Nat :=
  ctrGet f.counters .homeQFull +
    ((s.homeFull.filter (fun kv => f.platens.contains kv.1)).map (fun kv => cyclesSince s kv.2)).foldl (· + ·) 0

/-- Counts of the Gutter for some formes, 4 standing for traffic of none. -/
def gutCount (s : State) (fs : List Nat) (c : Nat) : Nat := (fs.map (fun f => mapGetD s.gut.counts 0 (f * 8 + c))).foldl (· + ·) 0

/-- GUT_HOP2_SHARE, which is 0 while no byte has come from a remote home. -/
def hop2Share (s : State) (fs : List Nat) : Nat :=
  if gutCount s fs 2 = 0 then 0 else gutCount s fs 3 * 65536 / gutCount s fs 2

/-- GUT_CREDIT_WAIT: cycles of the Gutter clock, those of messages held now included. -/
def creditWait (s : State) (fs : List Nat) : Nat :=
  (gutCount s fs 4 + ((s.gut.holding.filter (fun kv => fs.contains (kv.1 / 8))).map (fun kv => s.now - kv.2)).foldl (· + ·) 0) *
    Config.gutClock / 1000

/-- 01 Table 1.8 for a forme's traffic, and for every forme's where it stands for the whole module. What a message has
beside its data is of open size (notes/assumptions/118.md). -/
def telGutter (s : State) (f : Forme) : List Nat :=
  let fs := (s.formes.filter (fun kv => kv.2.platens.any (f.platens.contains ·))).map (·.1)
  [gutCount s fs 0, gutCount s fs 1, hop2Share s fs, creditWait s fs, qFullCycles s f, ctrGet f.counters .galleyMemStall]

def telGalley (f : Forme) : List Nat :=
  let g := ctrGet f.counters
  [g .galleyIssue, g .pressBusy, g .brayerBusy, g .galleyMemStall, g .barrierWait, g .lockWait, g .sticksDone,
   g .stickFaults, g .sticksStopped]

/-- Milliseconds at the doubled rate, those of a doubling in progress included (08 R260). -/
def refresh2xMs (s : State) (f : Forme) : Nat :=
  ctrGet f.counters .memRefresh2x +
    ((s.stackTab.filter (fun kv => f.platens.contains (kv.1 / 2) && kv.2.refresh2x)).map
      (fun kv => (s.now - kv.2.since2x) / 1000000)).foldl (· + ·) 0

def telMemory (s : State) (f : Forme) : List Nat :=
  let g := ctrGet f.counters
  [g .memRdPrioBytes, g .memRdNormBytes, g .memWrBytes, g .memRowMiss, qFullCycles s f, refresh2xMs s f, g .memCorr,
   g .memInnerCorr, g .memPoisonSet, g .memLaneEvents]

def telCoherence (f : Forme) : List Nat :=
  let g := ctrGet f.counters
  [g .caseHit, g .caseMiss, g .caseWb, g .snoopNp, g .dirBackInv, g .dirEcc, g .caseCorr, g .streamBypassLines,
   g .hintPlaced, g .hintDropped, g .atomics, g .snoopTimeout]

def telMesh (f : Forme) : List Nat :=
  let g := ctrGet f.counters
  [g .meshTxBulkBytes, g .meshTxPromptBytes, g .meshRxBytes, g .meshRxReject, g .meshErrResp, g .meshDetourPkts,
   g .meshSetupReused]

def words64 (ns : List Nat) : List Byte := ns.flatMap (toBytes 8)

/-- A counter of times, with what the time up to now adds. -/
def liveNs (s : State) (f : Forme) (c : Ctr) (test : PlatenPower → Bool) : Nat :=
  ctrGet f.counters c +
    (f.platens.map (fun p => if test (getPlaten s p) then s.now - (getPlaten s p).since else 0)).foldl (· + ·) 0

/-- 16 Table 16.9. -/
def telPower (s : State) (f : Forme) : List Nat :=
  let g := ctrGet f.counters
  let res (c : Ctr) : Nat := liveNs s f c (fun x => x.state.counted == c)
  [s.meter.mean.last / 1000 / 25 * 25, s.moduleCap, f.cap, liveNs s f .capLimitedNs (fun x => x.limitCode == 1),
   liveNs s f .thermalLimitedNs (fun x => x.limitCode == 2), g .stretchClocks, g .wakesS1, g .wakesS2, g .wakesS3,
   res .resS0, res .resS1, res .resS2, res .resS3]

/-- 16 Table 16.10. -/
def PlatenPower.pack (x : PlatenPower) : Nat :=
  packFields
    [(4, x.state.code), (4, 0), (8, x.rest), (4, 0), (4, x.limitCode), (8, x.step), (8, x.volt), (8, x.meanTemp.last)]

def platenRecords (s : State) (f : Forme) : List Nat :=
  (List.range 6).map (fun p => if f.platens.contains p then (getPlaten s p).pack else 0)

/-- Error records of the forme's stacks, each stack's overwritten count first (08 R276). -/
def errorRecords (s : State) (f : Forme) : List Byte :=
  ((List.range 12).filter (fun k => f.platens.contains (k / 2))).flatMap (fun k =>
    let r := (getStack s k).ring
    toBytes 8 r.overwritten ++ r.recs.reverse.flatMap MemRec.pack)

def meshState : MeshPortState → Nat
  | .down => 0
  | .edge => 1
  | .training => 2
  | .up => 3
  | .miswired => 4

/-- 14 Table 14.13. LANES_FAILED is the failed lanes of both directions and the training attempts counted because lanes
failed (18 R581). -/
def MeshPort.pack (x : MeshPort) (port : Nat) : List Byte :=
  let failed := (bitsOf 16 x.txFailed).length + (bitsOf 16 x.rxFailed).length + x.trainFails
  toBytes 16 (packFields
    [(8, x.rxWidth), (8, x.txWidth), (8, port), (12, 0), (4, meshState x.st), (8, min 255 failed),
     (1, boolBit x.gen5), (15, x.partner), (32, x.replays), (32, x.fecCorr)])

def regCode : RegState → Nat
  | .free => 0
  | .acquiring => 1
  | .locked => 2
  | .settling => 3

/-- 14 Table 14.14. -/
def regRecord (m : Mesh) : List Byte :=
  toBytes 16 (packFields
    [(4, regCode m.regState), (28, 0), (8, m.parent), (9, m.depth), (15, m.ref), (32, 0), (32, unsigned 32 m.offset)])

/-- 14 Table 14.2. -/
def GnidEntry.pack (e : GnidEntry) : Nat :=
  packFields
    [(32, if e.nd5 then 0 else e.gnid), (1, boolBit e.present), (15, 0), (1, boolBit e.nd5), (1, boolBit e.dup),
     (6, e.upPorts), (8, 0)]

/-- The node's own entry is always present. -/
def ownGnid (s : State) : GnidEntry :=
  { gnid := s.config.gnid, present := s.mesh.regState != .free, nd5 := false, dup := (getGnid s s.config.node).dup,
    upPorts := maskOf ((List.range 6).filter (fun p => (getMeshPort s p).isUp)), generation := 6 }

def gnidTable (s : State) : List Nat :=
  (List.range 32768).map (fun n => if n = s.config.node then (ownGnid s).pack else (getGnid s n).pack)

def meshGroup (s : State) (f : Forme) : List Byte :=
  words64 (telMesh f) ++ (List.range 6).flatMap (fun p => (getMeshPort s p).pack p) ++ regRecord s.mesh ++
    words64 (gnidTable s)

/-- The values of a group. -/
def groupValues (s : State) (f : Forme) (g : Nat) : List Byte :=
  if g = 0 then words64 (telGutter s f)
  else if g = 1 then words64 (telGalley f)
  else if g = 2 then words64 (telMemory s f)
  else if g = 3 then errorRecords s f
  else if g = 4 then words64 (telCoherence f)
  else if g = 5 then words64 [ctrGet f.counters .faultLost]
  else if g = 6 then words64 (telPower s f ++ platenRecords s f)
  else meshGroup s f

def groupHeader (s : State) (g len : Nat) : List Byte := toBytes 16 (packFields [(8, g), (24, 0), (32, len), (64, s.now)])

def telemetry (s : State) (f : Forme) (mask : Nat) : List Byte :=
  (bitsOf 8 mask).flatMap (fun g =>
    let v := groupValues s f g
    groupHeader s g v.length ++ v)

/-- Every wait of the forme's sticks is counted up to now (06 R208). -/
def countAllWaits (s : State) (fid : Nat) : State :=
  s.galleys.foldl (fun s g =>
    g.2.sticks.foldl (fun s t => if t.2.forme = fid ∧ !t.2.dead then countWaits s (g.1 / 64) (g.1 % 64) t.1 else s) s) s

def execTelemetry (mb : MboxId) (slot : Nat) (s : State) : RepRes :=
  match reports s mb slot 0x70, formeOfMbox s mb with
  | some c, some fid =>
    let d := OutDesc.ofCmd c
    .next (checked s mb slot
      ([(d.len == 0 || bits c 135 128 == 0, stOkEmpty, 0), reservedCheck ((135, 128) :: outFields) c] ++ outChecks s mb c)
      (let s := countAllWaits s fid
       match getForme s fid with
       | some f => report s.drawn mb slot d (telemetry s f (bits c 135 128))
       | none => s))
  | _, _ => .next s

/-! ## JOURNAL_READ and JOURNAL_EXPORT (12 R421, 15 R530, R531) -/

def journalFields : List (Nat × Nat) := [(224, 224), (223, 192), (191, 128)] ++ outFields

/-- An entry as a port that is not administrative receives it: of another forme only NUMBER, TIME and PREV. -/
def JEntry.forPort (admin : Bool) (forme : Option Nat) (e : JEntry) : JEntry :=
  if admin || !e.formeV || some e.forme == forme then e
  else
    { number := e.number, time := e.time, origin := 0, port := 0, forme := 0, formeV := false, slot := 0, peer := 0,
      objKind := 0, objId := 0, action := 0, piece := 0, prev := e.prev, old := 0, new := 0 }

/-- The checks in the order of 12 R399: zero, reserved, the other fields, START of an export (15 R530) among them, the
target. -/
def journalChecks (s : State) (mb : MboxId) (c : Nat) : List (Bool × Nat × Nat) :=
  [((OutDesc.ofCmd c).len == 0 || bits c 223 192 == 0, stOkEmpty, 0), reservedCheck journalFields c] ++ outFieldChecks mb c ++
    [(bit c 224 && bits c 191 128 != s.journal.oldestUnexported, stBadField, fieldOff 128)] ++ outTargetChecks s mb c

/-- JOURNAL_READ without EXPORT. -/
def execJournalRead (mb : MboxId) (slot : Nat) (s : State) : RepRes :=
  match reports s mb slot 0x71 with
  | none => .next s
  | some c =>
    if bit c 224 then .next s
    else
      let es := journalWanted s c
      let out := es.flatMap (fun e => (e.forPort (isAdmin s mb) (formeOfMbox s mb)).pack)
      .next (checked s mb slot (journalChecks s mb c)
        (report s mb slot (OutDesc.ofCmd c) out))

/-- JOURNAL_READ with EXPORT, from an administrative port. -/
def execJournalExport (mb : MboxId) (slot : Nat) (s : State) : RepRes :=
  match reports s mb slot 0x71 with
  | none => .next s
  | some c =>
    if !bit c 224 || journalHeld s then .next s
    else
      .next (checked s mb slot (journalChecks s mb c)
        (report s mb slot (OutDesc.ofCmd c) ((journalWanted s c).flatMap JEntry.pack)))

/-! ## RECOVERY_READ (12 R433) -/

def execRecoveryRead (mb : MboxId) (slot : Nat) (s : State) : RepRes :=
  match mb, startsCmd s mb slot 0xA0 with
  | .host p, some c =>
    let x := getPort s p
    let h := recoveryHeader x
    let running := x.records.any (fun r => r.2.outcome == 2)
    if bit c 32 then
      .next (checked s mb slot
        [reservedCheck [(32, 32), (31, 0)] c,
         (bits c 31 0 != x.epoch, stBadField, fieldOff 0),
         (!x.busMaster || running, stHostNotArmed, 0)]
        (finish (modPort s p (fun x => { x with armed := true, pendingAck := false }.flushMsix)) mb slot stOk 0 h))
    else .next (checked s mb slot [reservedCheck [(32, 32), (31, 0)] c] (finish s mb slot stOk 0 h))
  | _, _ => .next s

end Sys2Proof.Machine
end

