-- ==== Sys2Proof/Machine/Release.lean ====
section
/-! DEFINITION. The end of fault records (10 R359 to R361, R364): each waiter is translated anew and proceeds, or faults
again, or is denied. -/

namespace Sys2Proof.Machine

open Sys2Proof

abbrev RelRes := Host.Outcome State Fault Refusal

/-- The pass whose stick waits. -/
def waiterPass (s : State) : Waiter → Option Nat
  | .sort a _ => (getStick s a.platen a.galley a.stick).map (·.passSeq)
  | .tileOp r => (getStick s r.platen r.galley r.stick).map (·.passSeq)
  | _ => none

/-- What made a request has ended meanwhile and waits for nothing. The requests of a stick that has faulted are evaluated
with the others until STICK_END frees it (10 R364, Table 10.9). -/
def waiterGone (s : State) : Waiter → Bool
  | .sort a _ => (getStick s a.platen a.galley a.stick).isNone
  | .tileOp r => (getStick s r.platen r.galley r.stick).isNone
  | .copy mb k => (getSlot s mb k).phase != .running && (getSlot s mb k).phase != .ready
  | .core h => (getHart s h).st != .stalled
  | .inbound _ => false

/-- A waiter is in some record that is not evaluated yet. -/
def stillWaits (s : State) (f : Nat) (same : Waiter → Bool) : Bool :=
  match getForme s f with
  | none => false
  | some x => x.faults.any (fun r => r.waiters.any (fun w => same w.1))

/-- Two waiters of one slug. -/
def sameSlug (a : SlugAt) : Waiter → Bool
  | .sort b _ => a.platen == b.platen && a.galley == b.galley && a.stick == b.stick && a.slug == b.slug
  | _ => false

/-- The slug's request waits no more: its instruction runs again, or its lock is tried again at the next LOCK_RETRY. -/
def SlugWait.freed : SlugWait → SlugWait
  | .fault => .none
  | .lock isLocal dst lanes next _ => .lock isLocal dst lanes next false
  | w => w

/-- A waiter's request is allowed: the slug runs its instruction again, the operation and the command go on, the hart and
the inbound request make their access. -/
def proceed (s : State) (f : Nat) (w : Waiter) : State :=
  match w with
  | .sort a _ =>
    if stillWaits s f (sameSlug a) then s
    else modSlug s a (fun x => { x with wait := x.wait.freed })
  | .tileOp r => if stillWaits s f (fun y => y == w) then s else modOp s r (fun o => { o with held := false })
  | .copy _ _ => s
  | .core h => resumeHart s h
  | .inbound i => drainAfter (inboundNow s i) i

/-- A COPY, FILL, ZERO or output that a fault ends (10 R360, 12 R410). -/
def denyCopy (s : State) (mb : MboxId) (k va : Nat) : State :=
  let o := slotOpcode (getMbox s mb) k
  let c := slotCmd (getMbox s mb) k
  if o = 0x30 ∧ moveOf c = .mesh then
    meshCopySettle (pend s mb k stTranslationFault 0) mb k (getSlot s mb k).waitId (cpLen c)
  else if o = 0x30 ∨ o = 0x31 ∨ o = 0x32 then endsAt s mb k stTranslationFault
  else denyReport s mb k va

/-- The operation of a denied waiter. -/
def denyOp (s : State) (r : OpRef) (va : Nat) : State :=
  match getOp s r with
  | some o => opFault s r o .translation va 0
  | none => s

/-- Address of a region of a hart's whose page leaves its MMU as the page of a device VA. -/
def addressOf (s : State) (h start len dva : Nat) : Nat :=
  match (formeOfHart s h).bind (fun f =>
      (pageSpans start len).find? (fun p => (deviceVa s h f p.1).any (fun d => d / 4096 == dva / 4096))) with
  | some p => max start (p.1 / 4096 * 4096 + dva % 4096)
  | none => start

/-- Cause and stval of the access a hart stalls on, one piece of which, at device VA `va`, is denied (11 R374). -/
def stalledAccess (s : State) (h va : Nat) : Nat × Nat :=
  match (getHart s h).stalledOn with
  | some (.coreAccess _ at_ acc) => (accCause acc, at_)
  | some (.cwlLock _ at_ len _) => (causeLoad, addressOf s h at_ len va)
  | some (.zlineL3 _ at_) => (causeStore, at_)
  | some (.sbiEntropy _ at_) => (causeStore, at_)
  | _ => (causeStore, va)

/-- A waiter is denied (10 R360). -/
def denyWaiter (s : State) (w : Waiter) (va : Nat) (reason : Reason) : State :=
  match w with
  | .sort a lanes =>
    match getSlug s a with
    | some x => slugFault s { a with pc := x.pc } { code := .translation, addr := va, lanes := lanes, detail := 0 }
    | none => s
  | .tileOp r => denyOp s r va
  | .copy mb k => denyCopy s mb k va
  | .core h =>
    let what := stalledAccess s h va
    let s := modHart s h (fun x => { x with st := .running, stalledOn := none })
    coreFault s h what.1 what.2 (ndfaultOf 1 (reasonCode reason) va)
  | .inbound i => drainAfter (denyInbound s i) i

/-- What came of the waiters of a record so far: one proceeded, one is held again. -/
structure Fate where
  resumed : Bool
  moved : Bool
deriving DecidableEq, Repr

/-- One waiter is translated anew. -/
def evaluate (f : Nat) (s : State) (t : Fate) (w : Waiter × Engine × Nat × Nat) : State × Fate :=
  if waiterGone s w.1 then (s, t)
  else
    let a : Access := { forme := f, eng := w.2.1, kind := w.2.2.1, pass := waiterPass s w.1 }
    let va := w.2.2.2
    let q := translate s a va
    match q.2 with
    | .ok _ => (proceed q.1 f w.1, { t with resumed := true })
    | .fault reason e =>
      let r := raiseFault q.1 a va reason e w.1
      if r.2 then (r.1, { t with moved := true }) else (denyWaiter r.1 w.1 va reason, t)

def evaluateAll (f : Nat) (s : State) (ws : List (Waiter × Engine × Nat × Nat)) : State × Fate :=
  ws.foldl (fun r w => evaluate f r.1 r.2 w) (s, { resumed := false, moved := false })

def faultById (s : State) (f id : Nat) : Option FaultRec :=
  (getForme s f).bind (fun x => x.faults.find? (fun r => r.faultId = id))

/-- FAULT_REEVALUATE: the waiters of a resolved record, and its STATE. The record may be overwritten by a waiter that
faults again. -/
def execFaultReevaluate (forme faultId : Nat) (s : State) : RelRes :=
  match faultById s forme faultId with
  | none => .next s
  | some r =>
    if r.state = .opened ∧ r.resolved then
      let q := evaluateAll forme (setFaultState s forme faultId .moved) r.waiters
      .next (setFaultState q.1 forme faultId
        (if q.2.resumed then .resumed else if q.2.moved then .moved else .denied))
    else .next s

/-- FAULT_HOLD_EXPIRY: the hold of a NO_RANGE record has run out, and every waiter is denied. -/
def execFaultHoldExpiry (forme faultId : Nat) (s : State) : RelRes :=
  match faultById s forme faultId with
  | none => .next s
  | some r =>
    if r.state = .opened ∧ r.resolved = false ∧ r.reason = .noRange then
      let s := setFaultState s forme faultId .denied
      .next (r.waiters.foldl (fun s w => if waiterGone s w.1 then s else denyWaiter s w.1 w.2.2.2 r.reason) s)
    else .next s

end Sys2Proof.Machine
end

