-- ==== Sys2Proof/Machine/FormesCmd.lean ====
section
/-! DEFINITION. Formes (15 R497 to R502, 12 R408, 18 R588, R589): FORME_CREATE, FORME_DESTROY and RESET_FORME. -/

namespace Sys2Proof.Machine

open Sys2Proof

/-! ## FORME_CREATE (12 Table 12.12, 15 Tables 15.1 and 15.2) -/

def fcPlatens (c : Nat) : List Nat := bitsOf 6 (bits c 5 0)
def fcGroups (c : Nat) : List Nat := bitsOf 12 (bits c 17 6)
def fcPorts (c : Nat) : List Nat := bitsOf 4 (bits c 21 18)
def fcForme (c : Nat) : Nat := bits c 23 22
def fcHold (c : Nat) : Nat := bits c 48 32
def fcVec (c : Nat) : Nat := bits c 54 49
def fcHart (c : Nat) : Nat := bits c 62 56
def fcIdent (c : Nat) : Nat := bits c 71 64
def fcBase (c k : Nat) : Nat := bits c (64 * k + 183) (64 * k + 128)
def fcLog2 (c k : Nat) : Nat := bits c (64 * k + 189) (64 * k + 184)

/-- Named fields: those of cores only with groups, a port's word only with its port (check 2). -/
def fcFields (c : Nat) : List (Nat × Nat) :=
  (fcPorts c).flatMap (fun k => [(64 * k + 189, 64 * k + 184), (64 * k + 183, 64 * k + 128)]) ++
    (if (fcGroups c).isEmpty then [] else [(71, 64), (62, 56)]) ++ [(54, 49), (48, 32), (23, 22), (21, 18), (17, 6), (5, 0)]

/-- First bit of the field that holds a reserved bit: a port's word, FAULT_HART or FAULT_IDENT where those are reserved. -/
def fcReservedStart (c b : Nat) : Nat :=
  if 128 ≤ b ∧ b < 384 then b - b % 64
  else if 64 ≤ b ∧ b < 72 then 64
  else if 56 ≤ b ∧ b < 63 then 56
  else max (reservedStart (fcFields c) b) (if b < 384 then 0 else 384)

def fcReserved (c : Nat) : Bool × Nat × Nat :=
  match (List.range 1984).find? (bit (unnamed (fcFields c) c)) with
  | some b => (true, stBadReserved, fieldOff (fcReservedStart c b))
  | none => (false, stBadReserved, 0)

def fcAperture (c k : Nat) : Nat × Nat := (fcBase c k, 2 ^ fcLog2 c k)

/-- The aperture of a port: its size, alignment and end, and that it meets no earlier port's. -/
def fcPortChecks (s : State) (c k : Nat) : List (Bool × Nat × Nat) :=
  let a := fcAperture c k
  [(!portExists s k, stBadField, fieldOff 18),
   (decide (fcLog2 c k < 20) || decide (fcLog2 c k > 36), stBadField, fieldOff (64 * k + 128)),
   (a.1 % a.2 != 0 || decide (a.1 + a.2 > 2 ^ 56), stBadField, fieldOff (64 * k + 128)),
   ((fcPorts c).any (fun j => decide (j < k) && extMeet (fcAperture c j) a), stBadField, fieldOff (64 * k + 128))]

/-- A part is granted to some forme. -/
def granted (s : State) (p : Forme → Bool) : Bool := s.formes.any (fun kv => p kv.2)

def fcChecks (s : State) (c : Nat) : List (Bool × Nat × Nat) :=
  [((fcPlatens c).isEmpty, stBadField, fieldOff 0),
   ((fcPorts c).isEmpty && (fcGroups c).isEmpty, stBadField, fieldOff 6),
   fcReserved c] ++
  (fcPorts c).flatMap (fcPortChecks s c) ++
  [(decide (fcHold c > 100000), stBadField, fieldOff 32),
   (!(fcGroups c).isEmpty && !(fcGroups c).contains (groupOfHart (fcHart c)), stBadField, fieldOff 56),
   (!(fcGroups c).isEmpty && fcIdent c == 0, stBadField, fieldOff 64),
   ((getForme s (fcForme c)).isSome, stResourceBusy, fieldOff 22),
   ((fcPlatens c).any (fun p => granted s (fun f => f.platens.contains p)), stResourceBusy, fieldOff 0),
   ((fcGroups c).any (fun g => granted s (fun f => f.groups.contains g)), stResourceBusy, fieldOff 6),
   ((fcPorts c).any (fun p => (getPort s p).forme.isSome), stResourceBusy, fieldOff 18),
   journalCheck s]

/-! ### Routes (01 R41) -/

/-- Dies a forme uses: its Platens, and the Compositors of its groups and ports. A Compositor that serves the forme only for
mesh traffic or for Lumiz is not counted: 01 R41 does not say which dies it means (DESIGN CHOICE, notes/assumptions/118.md). -/
def diesUsed (platens groups ports : List Nat) : List Nat :=
  platens ++ (if groups.any (· < 6) || ports.any (· < 2) then [6] else []) ++
    (if groups.any (· ≥ 6) || ports.any (· ≥ 2) then [7] else [])

/-- The pairs that go through the forme's own centre Platen instead of another forme's (01 R41). -/
def chooseRoutes (s : State) (platens groups ports : List Nat) : List (Nat × Nat × Nat) :=
  let ds := diesUsed platens groups ports
  ds.flatMap (fun a => ds.filterMap (fun b =>
    let m := middleDie b
    let other := 5 - m
    if a ≠ b ∧ linked a b = false ∧ platens.contains other ∧ platens.contains m = false ∧
        granted s (fun f => f.platens.contains m) then some (a, b, other)
    else none))

/-! ### Memory and keys (15 R500, R502) -/

/-- A byte or sector address in the mappable part of one of these Platens' stacks. -/
def inStacks (platens : List Nat) (pa : Nat) : Bool := platens.contains (paHome pa) && decide (pa % 2 ^ 37 < mappableEnd)

/-- A stack that a forme takes: under its keys, its scrub from the start, its time at the doubled rate counted from now. -/
def Stack.taken (x : Stack) (keys now : Nat) : Stack :=
  { x with keySet := keys, scrub := 0, since2x := now,
           pchs := x.pchs.map (fun c => (c.1, { c.2 with replay := [] })) }

/-- Every mappable byte of the stacks is zero under a new key set, and their scrub starts again (15 Table 15.2 step 3). -/
def zeroStacks (s : State) (platens : List Nat) (keys : Nat) : State :=
  { s with mem := s.mem.filter (fun kv => !inStacks platens kv.1),
           poison := s.poison.filter (fun kv => !inStacks platens (kv.1 * 64)),
           errors := s.errors.filter (fun kv => !inStacks platens (kv.1 * 64)),
           stackTab := s.stackTab.map (fun kv =>
             (kv.1, if platens.contains (kv.1 / 2) then kv.2.taken keys s.now else kv.2)) }

/-- The new forme. -/
def newForme (s : State) (c : Nat) : Forme :=
  { platens := fcPlatens c, groups := fcGroups c, ports := fcPorts c, faultHold := fcHold c, faultVec := fcVec c,
    faultHart := fcHart c, faultIdent := fcIdent c, keySet := s.sec.nextKeys,
    reroutes := chooseRoutes s (fcPlatens c) (fcGroups c) (fcPorts c), ranges := [], faults := [], nextFaultId := 1,
    plate := none, loading := none, passes := [], cap := 3000, counters := [], coreMbox := Mailbox.reset,
    capRaised := 0, destroying := false, orphans := [], created := digest16 (toBytes 48 c) }

/-- A port joins a forme, its history cleared. -/
def attachPort (fid c : Nat) (s : State) (k : Nat) : State :=
  modPort s k (fun x => { x with forme := some fid, aperBase := fcBase c k, aperLog2 := fcLog2 c k,
                                 mbox := { x.mbox with history := [] } })

/-- The harts of a group, stopped. -/
def freshGroup (s : State) (g : Nat) : State :=
  (hartsOf g).foldl (fun s h => { s with harts := mapSet s.harts h Hart.reset }) s

/-- The counts of a forme's traffic start at zero (01 R51). -/
def Gutter.fresh (g : Gutter) (fid : Nat) : Gutter :=
  { g with counts := g.counts.filter (fun kv => kv.1 / 8 ≠ fid), holding := g.holding.filter (fun kv => kv.1 / 8 ≠ fid) }

/-- FORME_CREATE after its checks. -/
def createForme (s : State) (c : Nat) : State :=
  let f := newForme s c
  let fid := fcForme c
  let s := { s with sec := { s.sec with nextKeys := s.sec.nextKeys + 1 }, gut := s.gut.fresh fid }
  let s := zeroStacks s f.platens f.keySet
  let s := f.platens.foldl (fun s p => setPower s p (fun x => { x with rest := 8 })) s
  let s := { s with formes := mapSet s.formes fid f }
  f.groups.foldl freshGroup (f.ports.foldl (attachPort fid c) s)

def execFormeCreate (mb : MboxId) (slot : Nat) (s : State) : RelRes :=
  match startsCmd s mb slot 0x10 with
  | none => .next s
  | some c =>
    if (firstBad (fcChecks s c)).isNone && journalHeld s then .next s
    else
      let go :=
        let s := journalWrite s (jEntry ((originOf s mb slot).about (fcForme c)) 0x04 (fcForme c) 1 0 (digest16 (toBytes 48 c)))
        let s := (fcPlatens c).foldl (fun s p => drainStack (drainStack s (2 * p)) (2 * p + 1)) s
        if s.powered then finish (createForme s c) mb slot stOk 0 0 else s
      .next (checked s mb slot (fcChecks s c) go)

/-! ## Ending what a forme has under way (18 R588, R589) -/

/-- The present attempt has started: every Platen with a part of the pass is awake, or a stick has started. -/
def Pass.begun (s : State) (q : Pass) : Bool :=
  q.attempt != 0 || q.parts.any (fun x => x.next != x.first) ||
    (q.parts.filter (fun x => x.first != x.stop)).all (fun x => platenRuns s x.platen)

/-- The records of an attempt that an abort interrupts, its staged outputs discarded (05 Table 5.2, R162). -/
def interrupted (s : State) (q : Pass) : Pass :=
  match if q.begun s then getForme s q.forme else none with
  | some f => Pass.mark { q with records := q.records ++ attemptRecords s f q } (·.staged) (fun r => { r with discarded := true })
  | none => q

/-- A pass abort, while the pass has not begun its swap. -/
def abortPass (s : State) (q : Pass) : State :=
  if q.phase = .running then
    let q := interrupted s { q with tEnd := s.now }
    let s := stopSticks s (fun t => t.forme == q.forme && t.passSeq == q.seq)
    endPass (clearProof s q.seq) q stAborted
  else s

/-- Commands that run to completion once past step 8 (12 R408, 18 R589). -/
def runsToEnd (o : Nat) : Bool := [0x20, 0x21, 0x40, 0x41, 0x52, 0x60].contains o

def ofForme (s : State) (fid : Nat) (mb : MboxId) : Bool := formeOfMbox s mb == some fid

/-- Owned slots of a forme but one. -/
def formeSlots (s : State) (fid : Nat) (self : MboxId × Nat) : List (MboxId × Nat) :=
  (ownedSlots s).filter (fun x => ofForme s fid x.1 && x != self)

def pastStart (p : SlotPhase) : Bool := p == .ready || p == .running

/-- A transfer stops: OFFSET, and END toward host memory. Reads issued and packets sent are performed first (18 R589). -/
def abortMove (s : State) (fid : Nat) (mb : MboxId) (k : Nat) : State :=
  let c := slotCmd (getMbox s mb) k
  let x := getSlot s mb k
  if slotOpcode (getMbox s mb) k ≠ 0x30 then finish s mb k stAborted 0 (offsetResult x.offset)
  else
    match moveOf c with
    | .device => finish s mb k stAborted 0 (offsetResult x.offset)
    | .toHost =>
      let t := tornOffset s (portOf mb) x.offset
      finish t.1 mb k stAborted 0 (packFields [(64, t.2), (64, x.offset)])
    | .fromHost => carryAll (pend s mb k stAborted 0) fid mb k c
    | .mesh => meshCopySettle (pend s mb k stAborted 0) mb k x.waitId (cpLen c)

/-- The pass that a running PASS_LAUNCH waits for. -/
def passOfSlot (s : State) (fid : Nat) (mb : MboxId) (k : Nat) : Option Pass :=
  (getForme s fid).bind (fun f => f.passes.find? (fun q => q.mb = mb && q.slot = k && q.alive))

/-- A FORME_DESTROY or RESET_FORME that has begun is ended as a command of another forme: what it began goes on (15 R501,
notes/assumptions/82.md). -/
def orphan (s : State) (mb : MboxId) (k : Nat) : State :=
  let o := slotOpcode (getMbox s mb) k
  let c := slotCmd (getMbox s mb) k
  let g := if o = 0x11 then bits c 1 0 else bits c 65 64
  finish (modForme s g (fun x => { x with orphans := o :: x.orphans })) mb k stAborted 0 0

/-- One command of the forme ends, unless it runs to completion. -/
def abortSlot (fid : Nat) (s : State) (x : MboxId × Nat) : State :=
  let y := getSlot s x.1 x.2
  let o := slotOpcode (getMbox s x.1) x.2
  if y.phase = .finished ∨ (pastStart y.phase ∧ runsToEnd o) then s
  else if y.phase = .running ∧ (o = 0x30 ∨ o = 0x31 ∨ o = 0x32) then abortMove s fid x.1 x.2
  else if y.phase = .running ∧ o = 0x50 then
    match passOfSlot s fid x.1 x.2 with
    | some q => abortPass s q
    | none => finish s x.1 x.2 stAborted 0 0
  else if y.phase = .running ∧ (o = 0x11 ∨ o = 0x90) then orphan s x.1 x.2
  else finish s x.1 x.2 stAborted 0 0

/-- Every command of a forme but one, and every running pass. -/
def abortForme (s : State) (fid : Nat) (self : MboxId × Nat) : State :=
  let s := (formeSlots s fid self).foldl (abortSlot fid) s
  match getForme s fid with
  | none => s
  | some f => f.passes.foldl abortPass s

/-- Nothing of the forme runs to completion any more, and the transfers that an abort stopped have ended. -/
def formeQuiet (s : State) (fid : Nat) (self : MboxId × Nat) : Bool :=
  !(formeSlots s fid self).any (fun x =>
      (getSlot s x.1 x.2).aborting || pastStart (getSlot s x.1 x.2).phase && runsToEnd (slotOpcode (getMbox s x.1) x.2)) &&
    (match getForme s fid with
     | none => true
     | some f => f.passes.all (fun q => q.phase != .swapping))

/-- The groups of a forme stop (11 R371). -/
def stopGroups (s : State) (gs : List Nat) : State :=
  let s := gs.foldl haltGroup s
  { s with groupsRunning := s.groupsRunning.filter (fun g => !gs.contains g) }

/-- The forme's active jobs are being released: what arrives for them is answered NOT_MEMBER, and so is what waits unchecked
(14 R470, Table 14.15). -/
def closeJobs (s : State) (fid : Nat) : State :=
  let mine (job : Nat) : Bool := s.mesh.jobs.any (fun j => j.active && j.forme == fid && j.job == job)
  let out := s.mesh.waiting.filter (fun x => mine x.2.job)
  let t := { s with mesh := { s.mesh with
    jobs := s.mesh.jobs.map (fun j => if j.forme = fid ∧ j.active then { j with closing := true } else j),
    waiting := s.mesh.waiting.filter (fun x => !mine x.2.job) } }
  out.foldl (fun s x => rejectPacket s (some fid) x.2 errNotMember) t

/-- A packet of a job of the forme that its checks passed and a swap holds. -/
def heldPacket (s : State) (fid : Nat) (w : Waiter × Engine × Nat × Nat) : Bool :=
  let mine (p : Packet) : Bool := s.mesh.jobs.any (fun j => j.active && j.forme == fid && j.job == p.job)
  match w.1 with
  | .inbound (.meshPut _ p) => mine p
  | .inbound (.meshGet _ p _) => mine p
  | _ => false

/-- Packets the forme has sent, and inbound packets of its jobs, are all through. -/
def meshQuiet (s : State) (fid : Nat) : Bool :=
  s.mesh.sent.all (fun x => x.forme != fid) &&
    (match getForme s fid with
     | none => true
     | some f => f.faults.all (fun r => !r.waiters.any (heldPacket s fid)))

/-- The forme's active jobs become retained (14 R469, R470). -/
def releaseJobs (s : State) (fid : Nat) : State :=
  let rel (j : MeshJob) : MeshJob :=
    if j.forme = fid ∧ j.active then { j with active := false, closing := false, released := s.mesh.releases } else j
  { s with mesh := { s.mesh with jobs := s.mesh.jobs.map rel, releases := s.mesh.releases + 1 } }

def dropJobs (s : State) (fid : Nat) : State :=
  { s with mesh := { s.mesh with jobs := s.mesh.jobs.filter (fun j => j.forme != fid) } }

/-- One open record is denied. -/
def denyRecord (fid : Nat) (s : State) (r : FaultRec) : State :=
  if r.state = .opened then
    let s := setFaultState s fid r.faultId .denied
    r.waiters.foldl (fun s w => if waiterGone s w.1 then s else denyWaiter s w.1 w.2.2.2 r.reason) s
  else s

def denyRecords (s : State) (fid : Nat) : State :=
  match getForme s fid with
  | none => s
  | some f => f.faults.foldl (denyRecord fid) s

/-! ## RESET_FORME (12 R423, 18 R588, R589) -/

def rfScope (c : Nat) : Nat := bits c 3 0
def rfSeq (c : Nat) : Nat := bits c 63 32
def rfForme (c : Nat) : Nat := bits c 65 64

def resetFields : List (Nat × Nat) := [(3, 0), (63, 32), (65, 64)]

def resetChecks (s : State) (c : Nat) : List (Bool × Nat × Nat) :=
  [(rfScope c == 0, stBadField, fieldOff 0),
   reservedCheck resetFields c,
   (decide (rfScope c > 2), stBadField, fieldOff 0),
   ((getForme s (rfForme c)).isNone, stNoForme, fieldOff 64),
   (rfScope c == 1 && (recentPass s (rfForme c) (rfSeq c)).isNone, stNoPass, fieldOff 32),
   journalCheck s]

/-- The entry of a reset (15 Table 15.11). -/
def journalReset (s : State) (mb : MboxId) (k c : Nat) : State :=
  let d := openDigest s
  journalWrite d.1 (jEntry ((originOf s mb k).about (rfForme c)) 0x0E (rfForme c) 2 0 d.2)

/-- PASS_ABORT: a RESET_FORME of scope 0x1. -/
def execPassAbort (mb : MboxId) (slot : Nat) (s : State) : RelRes :=
  match startsCmd s mb slot 0x90 with
  | none => .next s
  | some c =>
    if rfScope c ≠ 1 then .next s
    else if (firstBad (resetChecks s c)).isNone && journalHeld s then .next s
    else
      let go :=
        let s := journalReset s mb slot c
        let s := match recentPass s (rfForme c) (rfSeq c) with
          | some q => abortPass s q
          | none => s
        finish s mb slot stOk 0 0
      .next (checked s mb slot (resetChecks s c) go)

/-- No slot: a reset or a destroy that no mailbox command runs. -/
def noSlot : MboxId × Nat := (.host 4, 0)

/-- Another forme reset of the forme runs: one of a mailbox, one whose command was aborted, or one of the sideband. -/
def resetRuns (s : State) (fid : Nat) (self : MboxId × Nat) : Bool :=
  (getForme s fid).any (fun f => f.orphans.contains 0x90) || s.sb.resetAsked.contains (4, fid) ||
  (ownedSlots s).any (fun x =>
    x != self && (getSlot s x.1 x.2).phase == .running && slotOpcode (getMbox s x.1) x.2 == 0x90 &&
      rfForme (slotCmd (getMbox s x.1) x.2) == fid)

/-- Step 3 of R589, and step 4 as far as nothing has to be waited for. -/
def resetStops (s : State) (fid : Nat) : State :=
  match getForme s fid with
  | none => s
  | some f => closeJobs (stopGroups s f.groups) fid

/-- The end of step 4, and step 5. -/
def resetRest (s : State) (fid : Nat) : State := denyRecords (releaseJobs s fid) fid

/-- A reset goes on once nothing of the forme runs to completion any more, and is over once its packets are through, when `done`
follows. -/
def resetSteps (s : State) (fid : Nat) (self : MboxId × Nat) (done : State → State) : State :=
  if formeQuiet s fid self then
    let t := resetStops s fid
    if meshQuiet t fid then done (resetRest t fid) else t
  else s

def resetEnds (s : State) (fid : Nat) (mb : MboxId) (k : Nat) : State :=
  resetSteps s fid (mb, k) (fun s => finish s mb k stOk 0 0)

/-- FORME_RESET: a RESET_FORME of scope 0x2, and one whose scope is none. One of a forme that is being destroyed waits, and
finds no forme (notes/assumptions/82.md). -/
def execFormeReset (mb : MboxId) (slot : Nat) (s : State) : RelRes :=
  match startsCmd s mb slot 0x90, runsCmd s mb slot 0x90 with
  | some c, _ =>
    if rfScope c = 1 then .next s
    else
      let fid := rfForme c
      if (firstBad (resetChecks s c)).isNone &&
          (journalHeld s || resetRuns s fid (mb, slot) || (getForme s fid).any (·.destroying)) then .next s
      else
        let go :=
          let s := runOn (journalReset s mb slot c) mb slot 0
          resetEnds (abortForme s fid (mb, slot)) fid mb slot
        .next (checked s mb slot (resetChecks s c) go)
  | none, some c => .next (resetEnds s (rfForme c) mb slot)
  | _, _ => .next s

/-! ## FORME_DESTROY (12 R408, 15 Table 15.3) -/

def fdForme (c : Nat) : Nat := bits c 1 0

def fdChecks (s : State) (c : Nat) : List (Bool × Nat × Nat) :=
  [reservedCheck [(1, 0)] c, ((getForme s (fdForme c)).isNone, stNoForme, fieldOff 0), journalCheck s]

/-- Once nothing runs to completion any more: jobs, as under a release, groups, records, then the invalidation of every
entry. -/
def destroyStep (s : State) (fid : Nat) (mb : MboxId) (k : Nat) : State :=
  match getForme s fid with
  | none => s
  | some f =>
    if !formeQuiet s fid (mb, k) || s.invals.any (fun i => i.forme = fid) then s
    else
      let s := closeJobs s fid
      if !meshQuiet s fid then s
      else
        let s := stopGroups (dropJobs (releaseJobs s fid) fid) f.groups
        startInval (denyRecords s fid) fid (f.ranges.map (·.id)) .invalidating (.destroy mb k)

/-- FORME_DESTROY: its journal entry, the end of the forme's commands, and the invalidation that INVALIDATION_ACK ends. -/
def execFormeDestroy (mb : MboxId) (slot : Nat) (s : State) : RelRes :=
  match startsCmd s mb slot 0x11, runsCmd s mb slot 0x11 with
  | some c, _ =>
    let fid := fdForme c
    let busy := (getForme s fid).any (·.destroying)
    if (firstBad (fdChecks s c)).isNone && (journalHeld s || busy) then .next s
    else
      let go :=
        match getForme s fid with
        | none => s
        | some f =>
          let s := journalWrite s (jEntry ((originOf s mb slot).about fid) 0x04 fid 3 f.created 0)
          let s := runOn (modForme s fid (fun x => { x with destroying := true })) mb slot 0
          destroyStep (abortForme s fid (mb, slot)) fid mb slot
      .next (checked s mb slot (fdChecks s c) go)
  | none, some c => .next (destroyStep s (fdForme c) mb slot)
  | _, _ => .next s

/-- A power-state object of the forme: a Platen's rest state, a core group (15 Table 15.11). -/
def Forme.powerObject (f : Forme) (id : Nat) : Bool :=
  if id % 16 = 1 then f.platens.contains (id / 16) else f.groups.contains (id / 16)

/-- Lines of the forme's stacks leave both L3s and its Cases without write-back, and the directory (09 R323). -/
def dropForme (s : State) (f : Forme) : State :=
  let mine (ln : Nat) : Bool := f.platens.contains (lineHome ln)
  { s with lines := s.lines.filter (fun kv => !mine (kv.1 % 2 ^ 34) && !f.platens.contains (kv.1 / 2 ^ 34)),
           dir := s.dir.filter (fun kv => !mine kv.1),
           txns := s.txns.filter (fun kv => !mine kv.1),
           gut := { s.gut with flights := s.gut.flights.filter (fun x => x.transit.isSome || !mine x.line),
                               atHome := s.gut.atHome.filter (fun x => !mine x.1) },
           streams := s.streams.filter (fun kv => !f.platens.contains (kv.1 / 64)),
           galleys := s.galleys.filter (fun kv => !f.platens.contains (kv.1 / 64)),
           l3Locks := s.l3Locks.filter (fun l => !f.groups.contains l.group),
           harts := s.harts.filter (fun kv => !f.groups.contains (groupOfHart kv.1)),
           corePower := s.corePower.filter (fun kv => !f.groups.contains kv.1),
           powerCmds := s.powerCmds.filter (fun kv => !f.powerObject kv.1) }

/-- A port leaves its forme (13 R442). -/
def detachPort (s : State) (k : Nat) : State := modPort s k (fun x => { x with forme := none, aperBase := 0, aperLog2 := 0 })

/-- The last steps of a destroy: its parts can be granted again. -/
def removeForme (s : State) (fid : Nat) : State :=
  match getForme s fid with
  | none => s
  | some f =>
    let s := dropForme s f
    let s := { s with rangeCaches := s.rangeCaches.filter (fun c => c.1 != fid),
                      invals := s.invals.filter (fun i => i.forme != fid) }
    let s := f.platens.foldl (fun s p => setPower s p (fun x => { x with rest := 3, limits := { x.limits with formeCap := 18 } })) s
    { f.ports.foldl detachPort s with formes := mapDel s.formes fid }

/-- Owned slots of the core mailbox are written before it goes. -/
def coreMboxDone (f : Forme) : Bool := f.coreMbox.ownedSlots.isEmpty

/-- The end of a destroy's invalidation: commands sealed meanwhile complete ABORTED, and once the core mailbox is empty
the forme is gone. -/
def destroyEnds (s : State) (fid : Nat) (i : Inval) (mb : MboxId) (k : Nat) : State :=
  let mine := (runsCmd s mb k 0x11).any (fun c => fdForme c == fid)
  let s := (formeSlots s fid (if mine then (mb, k) else noSlot)).foldl (abortSlot fid) s
  match getForme s fid with
  | none => s
  | some f =>
    if coreMboxDone f then
      let t := removeForme { s with invals := s.invals.filter (fun j => j.id ≠ i.id) } fid
      if mine then finish t mb k stOk 0 0 else t
    else s

/-- What a destroy or a reset began goes on though its command was aborted. -/
def orphanStep (s : State) (kv : Nat × Forme) : State :=
  let ends (s : State) : State := modForme s kv.1 (fun x => { x with orphans := x.orphans.filter (· ≠ 0x90) })
  let s := if kv.2.orphans.contains 0x90 then resetSteps s kv.1 noSlot ends else s
  if kv.2.orphans.contains 0x11 then destroyStep s kv.1 noSlot.1 noSlot.2 else s

def orphanSteps (s : State) : State := s.formes.foldl orphanStep s

end Sys2Proof.Machine
end

