-- ==== Sys2Proof/Machine/Images.lean ====
section
/-! DEFINITION. Node images (15 R509 to R514): Lumiz images and node configuration images, their checks and the
programming of the flash. -/

namespace Sys2Proof.Machine

open Sys2Proof

/-! ## Node configuration images (15 Tables 15.12 to 15.15) -/

def cfgOwner : Nat := 0x40
def cfgFields : Nat := 0x1C0
def cfgKeys : Nat := 0x200
def cfgCounts : Nat := 0x520
def cfgRepairs : Nat := 0x540

/-- Repair rows of stack k. -/
def cfgCount (img : List Byte) (k : Nat) : Nat := imgNat img (cfgCounts + 2 * k) 2

def cfgRows (img : List Byte) : Nat := ((List.range 12).map (cfgCount img)).foldl (· + ·) 0

/-- Bytes that the rows of an image make it. -/
def cfgSize (img : List Byte) : Nat := cfgRepairs + 8 * cfgRows img + 384

/-- Stack under which each repair entry falls, in order. -/
def cfgStacks (img : List Byte) : List Nat := (List.range 12).flatMap (fun k => List.replicate (cfgCount img k) k)

def keyEntry (img : List Byte) (j : Nat) : List Byte := (img.drop (cfgKeys + 400 * j)).take 400

def keyUsed (img : List Byte) (j : Nat) : Bool := (keyEntry img j).headD 0 == 1#8

def keyGen (img : List Byte) (j : Nat) : Nat := ((keyEntry img j).getD 1 0).toNat

def unwrapKey (img : List Byte) (j : Nat) : Option Nat := Config.oaepUnwrap ((keyEntry img j).drop 16)

/-- Chassis keys in use, generation first. -/
def cfgKeyList (img : List Byte) : List (Nat × Nat) :=
  [0, 1].filterMap (fun j => if keyUsed img j then (unwrapKey img j).map (fun k => (keyGen img j, k)) else none)

def nodeFields : List (Nat × Nat) :=
  [(14, 0), (21, 16), (29, 24), (37, 32), (71, 40), (103, 72), (107, 104), (111, 108), (112, 112), (113, 113), (119, 116),
   (143, 128), (175, 160), (207, 176), (223, 208), (239, 224)]

def repairRow (e : Nat) : RowId :=
  { pch := bits e 59 54, sid := bits e 53 52, bg := bits e 51 50, bank := bits e 49 48, row := bits e 47 32 }

/-- The values an image carries. -/
def configOf (img : List Byte) : NodeConfig :=
  let d := imgNat img cfgFields 64
  { node := bits d 14 0, nx := bits d 21 16, ny := bits d 29 24, nz := bits d 37 32, groupId := bits d 71 40,
    gnid := bits d 103 72, gutPp := bits d 107 104, gutCp := bits d 111 108, portsA := bit d 112, portsB := bit d 113,
    admin := bits d 119 116, moduleCap := bits d 143 128, tS1 := bits d 175 160, tS2 := bits d 207 176,
    tS3 := bits d 223 208, tIdle := bits d 239 224, owner := ofBytesBE ((img.drop cfgOwner).take 384),
    keys := cfgKeyList img,
    repairs := (cfgStacks img).zip ((List.range (cfgRows img)).map (fun i => repairRow (imgNat img (cfgRepairs + 8 * i) 8))),
    measurement := ofBytes (treeDigest img) }

/-- A field outside [lo, hi]. -/
def outside (x lo hi : Nat) : Bool := decide (x < lo) || decide (hi < x)

/-- The fields of the node (15 Table 15.13, R513). -/
def checkFields (img : List Byte) (p : Parse) : Parse :=
  let d := imgNat img cfgFields 64
  let c := configOf img
  let at_ (b : Nat) : Nat := cfgFields + b / 8
  let p := p.reserved nodeFields 512 d cfgFields
  let p := p.check (decide (c.node % 32 ≥ c.nx) || decide (c.node / 32 % 32 ≥ c.ny) || decide (c.node / 1024 ≥ c.nz)) stBadField (at_ 0)
  let p := p.check (outside c.nx 1 32) stBadField (at_ 16)
  let p := p.check (outside c.ny 1 32) stBadField (at_ 24)
  let p := p.check (outside c.nz 1 32) stBadField (at_ 32)
  let p := p.check (outside c.gutPp 1 4) stBadField (at_ 104)
  let p := p.check (outside c.gutCp 1 4) stBadField (at_ 108)
  let p := p.check (c.admin == 0 || (bit c.admin 1 && !c.portsA) || (bit c.admin 3 && !c.portsB)) stBadField (at_ 116)
  let p := p.check (outside c.moduleCap 1000 3000) stBadField (at_ 128)
  let p := p.check (outside c.tS1 1 100) stBadField (at_ 160)
  let p := p.check (outside c.tS2 50 100000) stBadField (at_ 176)
  let p := p.check (outside c.tS3 1 10000) stBadField (at_ 208)
  p.check (outside c.tIdle 10 10000) stBadField (at_ 224)

/-- A chassis key entry (15 Table 15.14, R513). -/
def checkKey (img : List Byte) (p : Parse) (j : Nat) : Parse :=
  let off := cfgKeys + 400 * j
  let e := keyEntry img j
  let p := p.check (e.headD 0 != 0 && e.headD 0 != 1#8) stBadField off
  if keyUsed img j then
    let p := p.check (decide (j = 1) && keyUsed img 0 && keyGen img 0 == keyGen img 1) stBadField (off + 1)
    let p := p.check (((e.drop 2).take 14).any (· != 0)) stBadField (off + 2)
    p.check (unwrapKey img j).isNone stBadField (off + 16)
  else p.check (e.any (· != 0)) stBadField (off + (e.findIdx (· != 0)))

/-- A repair entry (15 Table 15.15, R513). -/
def checkRepair (img : List Byte) (p : Parse) (i : Nat) : Parse :=
  let off := cfgRepairs + 8 * i
  let e := imgNat img off 8
  let p := p.check (bits e 31 0 != 0) stBadField off
  let p := p.check (decide (bits e 47 32 ≥ 24576)) stBadField (off + 4)
  p.check (bits e 63 60 != (cfgStacks img).getD i 0) stBadField (off + 7)

/-- The body of a node configuration image (15 R513). -/
def checkConfig (img : List Byte) (len : Nat) (p : Parse) : Parse :=
  if p.err.isSome then p
  else
    let p := p.check (decide (len > 2 ^ 20)) stBadField 4
    let p := p.check (len != cfgSize img) stBadField 4
    if p.err.isSome then p
    else
      let p := p.check (decide (((img.drop cfgOwner).headD 0).toNat < 128)) stBadField cfgOwner
      let p := checkFields img p
      let p := [0, 1].foldl (checkKey img) p
      let p := (List.range 12).foldl (fun p k => p.check (decide (cfgCount img k > 256)) stBadField (cfgCounts + 2 * k)) p
      let p := p.check (imgNat img 0x538 8 != 0) stBadField 0x538
      (List.range (cfgRows img)).foldl (checkRepair img) p

/-! ## Signatures (15 R510, R511) -/

/-- The key under which a node configuration image must verify: the owner of the image in force, or its own. -/
def ownerKey (s : State) (img : List Byte) : Nat :=
  if s.sec.configSlot.isSome then s.config.owner else ofBytesBE ((img.drop cfgOwner).take 384)

def imageSigned (modulus : Nat) (img : List Byte) : Bool :=
  let n := img.length - 384
  pssVerify modulus (img.drop n) (img.take n)

/-- A Lumiz image verifies under the key of the firmware-signing certificate at the start of its body, which chains to the fused
root. -/
def lumizSigned (root : Nat) (img : List Byte) : Bool :=
  let n := img.length - 384
  match certificate ((img.take n).drop 64) with
  | some (cert, k, e) => Config.certChains root cert && pssCheck k e (img.drop n) (img.take n)
  | none => false

def imageVerifies (s : State) (img : List Byte) : Bool :=
  (if imgKind img = 2 then lumizSigned s.sec.rootDigest img else imageSigned (ownerKey s img) img) &&
    decide (imgNat img 12 1 ≥ s.sec.floor)

/-! ## Installation (15 Table 15.6) -/

/-- Check 2 of Table 15.6. -/
def nodeImageErrors (img : List Byte) (len : Nat) : Option (Nat × Nat) :=
  let kind := imgKind img
  let p := checkContainer img len kind (len - 448)
  if kind = 2 then (p.check (decide (len > 2 ^ 23)) stBadField 4).err else (checkConfig img len p).err

/-- The configuration slot that an installation is written into: the older one. -/
def olderSlot (x : Flash) : Nat := if x.slot0.isNone then 0 else if x.slot1.isNone then 1 else 1 - x.preferredSlot

/-- What the flash programs for an image. -/
def programmingOf (s : State) (img : List Byte) : Programming :=
  if imgKind img = 2 then
    .lumiz (1 - s.sec.bank) { svn := imgNat img 12 1, floor := imgNat img 13 1, measurement := ofBytes (treeDigest img) }
  else .config (olderSlot s.flash) (configOf img)

/-- IMAGE_INSTALL: a PLATE_LOAD whose image is a Lumiz image or a node configuration image. -/
def execImageInstall (mb : MboxId) (slot : Nat) (s : State) : PassRes :=
  match startsCmd s mb slot 0x40, formeOfMbox s mb with
  | some c, some fid =>
    if (firstBad (plChecks c)).isSome then .next s
    else
      let r := readImage s fid c
      let img := r.2.2.1
      if !r.2.2.2 || !isNodeImage img then .next s
      else if !isAdmin s mb then .next (reject r.1 mb slot stNotPermitted 0)
      else
        match nodeImageErrors img (plLen c) with
        | some (st, off) => .next (rejectImage r.1 mb slot st off)
        | none =>
          .next (checked r.1 mb slot
            [(!imageVerifies s img, stSigFail, fieldOff 0), (s.flash.programming.isSome, stResourceBusy, 0), journalCheck s]
            (finish { r.1 with flash := { r.1.flash with programming := some (programmingOf s img) } } mb slot stOk 0 0))
  | _, _ => .next s

/-! ## The end of programming (15 R514) -/

/-- Supply lost while an image is programmed: the target is marked invalid, and the previous image stays in force. -/
def Flash.cut (x : Flash) : Flash :=
  match x.programming with
  | none => x
  | some (.lumiz bank _) =>
    if bank = 0 then { x with bankA := none, programming := none } else { x with bankB := none, programming := none }
  | some (.config slot _) =>
    if slot = 0 then { x with slot0 := none, programming := none } else { x with slot1 := none, programming := none }

/-- Journal entry of an installed image. -/
def imageEntry (kind id : Nat) (old : Option Nat) (new : Nat) : JEntry :=
  jEntry JOrigin.firmware kind id (if old.isSome then 2 else 1) ((old.map measureDigest).getD 0) (measureDigest new)

/-- FLASH_PROGRAM_DONE: the bank or slot holds the image and is preferred, and the journal says so. -/
def execFlashProgramDone (s : State) : PassRes :=
  if !s.powered then .next s
  else if s.flash.programming.isSome && journalHeld s then .next (holdRow s .flashProgramDone)
  else
    let x := s.flash
    match x.programming with
    | none => .next s
    | some (.lumiz bank img) =>
      let old := (if bank = 0 then x.bankA else x.bankB).map (·.measurement)
      let y := if bank = 0 then { x with bankA := some img } else { x with bankB := some img }
      .next (journalWrite { s with flash := { y with preferredBank := bank, programming := none } }
        (imageEntry 0x02 bank old img.measurement))
    | some (.config slot cfg) =>
      let old := (if slot = 0 then x.slot0 else x.slot1).map (·.measurement)
      let y := if slot = 0 then { x with slot0 := some cfg } else { x with slot1 := some cfg }
      .next (journalWrite { s with flash := { y with preferredSlot := slot, programming := none } }
        (imageEntry 0x01 slot old cfg.measurement))

end Sys2Proof.Machine
end

