-- ==== Sys2Proof/Machine/Invalidations.lean ====
section
/-! DEFINITION. The last acknowledgement of an invalidation (10 R352, R357): what an UNMAP_RANGE, a lock, an unlock, the
retirement of a plate's entries and a FORME_DESTROY do with it. A swap ends with SWAP_COMPLETE. -/

namespace Sys2Proof.Machine

open Sys2Proof

def removeInval (s : State) (id : Nat) : State := { s with invals := s.invals.filter (fun i => i.id ≠ id) }

/-- The entries of an invalidation become free, and the records they held are resolved. -/
def invalFrees (s : State) (i : Inval) : State :=
  finishStops (resolveEntries (freeEntries (removeInval s i.id) i.forme i.ids) i.forme i.ids) i.forme

/-- The entries of an invalidation are valid again, with a KIND (R357). -/
def invalRestores (s : State) (i : Inval) (kind : RangeKind) : State :=
  let back (e : RangeEntry) : RangeEntry := if i.ids.contains e.id then { e with kind := kind, state := .valid, mapTime := s.now } else e
  finishStops (resolveEntries (modRanges (removeInval s i.id) i.forme (fun es => es.map back)) i.forme i.ids) i.forme

/-- Locked regions of the forme's plate. -/
def plateRegionsOf (s : State) (f : Nat) : List Region :=
  match (getForme s f).bind (·.plate) with
  | some p => p.regions
  | none => []

/-- The plate holds no locked way any more (09 R321). -/
def unlockPlate (s : State) (f : Nat) : State :=
  let s := (plateRegionsOf s f).foldl releaseRegion s
  modForme s f (fun x => { x with plate := x.plate.map (fun p => { p with regions := [] }) })

/-- INVALIDATION_ACK: every die has acknowledged. -/
def execInvalidationAck (inv : Nat) (s : State) : RelRes :=
  match getInval s inv with
  | none => .next s
  | some i =>
    if !i.toAck.isEmpty then .next s
    else
      match i.purpose with
      | .swap _ => .next s
      | .unmap mb k => .next (finish (invalFrees s i) mb k stOk 0 (unmapResult i))
      | .unlock mb k => .next (loadStep (unlockPlate (invalRestores s i .normal) i.forme) i.forme mb k)
      | .retire mb k => .next (loadStep (discardPlate (invalFrees s i) i.forme) i.forme mb k)
      | .lock mb k =>
        let s := invalRestores s i .locked
        .next (endLoad ((plateRegionsOf s i.forme).foldl fillRegion s) i.forme mb k)
      | .destroy mb k => .next (destroyEnds s i.forme i mb k)

end Sys2Proof.Machine
end

