-- ==== Sys2Proof/Machine/MeshJobs.lean ====
section
/-! DEFINITION. Mesh jobs (14 R465 to R470, 12 R422): MESH_JOB_SETUP and MESH_JOB_RELEASE. -/

namespace Sys2Proof.Machine

open Sys2Proof

/-! ## The job descriptor (14 Tables 14.3 and 14.4) -/

def mjJob (c : Nat) : Nat := bits c 7 0
def mjDesc (c : Nat) : Nat := bits c 127 64
def mjLen (c : Nat) : Nat := bits c 159 128

def setupFields : List (Nat × Nat) := [(159, 128), (127, 64), (7, 0)]

/-- The header and the whole window entries of a descriptor. -/
structure Desc where
  head : Nat
  wins : List Nat
deriving DecidableEq, Repr

def descNwin (d : Desc) : Nat := bits d.head 23 16
def descExt (d : Desc) : Nat × Nat × Nat := (bits d.head 53 48, bits d.head 61 56, bits d.head 69 64)
def descOrigin (d : Desc) : Nat := bits d.head 46 32

/-- The entries that the given bytes hold, up to NWIN. -/
def descOf (bs : List Byte) : Desc :=
  let head := ofBytes (bs.take 64)
  let n := min (bits head 23 16) ((bs.length - 64) / 32)
  { head := head, wins := (List.range n).map (fun i => ofBytes ((bs.drop (64 + 32 * i)).take 32)) }

/-- An extent or a PAGES field is zero (check 1). -/
def descZero (len : Nat) (d : Desc) : Bool :=
  decide (64 ≤ len) && ((descExt d).1 == 0 || (descExt d).2.1 == 0 || (descExt d).2.2 == 0) ||
    d.wins.any (fun w => bits w 92 64 == 0)

def headReserved (h : Nat) : Bool :=
  h / 2 ^ 128 % 2 ^ 384 != 0 || bits h 95 70 != 0 || bits h 63 62 != 0 || bits h 55 54 != 0 || bit h 47 || bits h 31 26 != 0

def winReserved (w : Nat) : Bool := w / 2 ^ 113 != 0 || bits w 110 108 != 0 || bits w 95 93 != 0 || bits w 63 56 != 0

/-- A reserved descriptor bit is nonzero (check 3). -/
def descReserved (d : Desc) : Bool := headReserved d.head || d.wins.any winReserved

/-- The box lies inside the group and holds the node (R465). -/
def jobBoxBad (n : NodeConfig) (d : Desc) : Bool :=
  let o := descOrigin d
  let e := descExt d
  decide (e.1 > 32 ∨ e.2.1 > 32 ∨ e.2.2 > 32 ∨ nodeX o + e.1 > n.nx ∨ nodeY o + e.2.1 > n.ny ∨ nodeZ o + e.2.2 > n.nz) ||
    !(inSpan (nodeX n.node) (nodeX o) e.1 0 && inSpan (nodeY n.node) (nodeY o) e.2.1 0 &&
      inSpan (nodeZ n.node) (nodeZ o) e.2.2 0)

def hasRepeat : List Nat → Bool
  | [] => false
  | x :: r => r.contains x || hasRepeat r

def winId (w : Nat) : Nat := bits w 103 96

/-- What check 4 names, but for DESC_LEN. -/
def descBad (n : NodeConfig) (job : Nat) (d : Desc) : Bool :=
  bits d.head 7 0 != 1 || bits d.head 15 8 != job || bits d.head 25 24 == 3 || bits d.head 127 96 != n.groupId ||
    jobBoxBad n d || hasRepeat (d.wins.map winId) ||
    d.wins.any (fun w => bits w 55 0 % 4096 != 0 || decide (bits w 92 64 > 2 ^ 28) ||
      decide (bits w 55 0 + bits w 92 64 * 4096 > 2 ^ 56))

def windowOfEntry (w : Nat) : MeshWindow :=
  { window := winId w, vaBase := bits w 55 0, pages := bits w 92 64, hint := bits w 107 104, put := bit w 111, get := bit w 112 }

/-- The job a descriptor describes, before its digest and routes. -/
def jobOf (fid : Nat) (d : Desc) : MeshJob :=
  { forme := fid, job := bits d.head 15 8, digest := 0, origin := descOrigin d, extX := (descExt d).1,
    extY := (descExt d).2.1, extZ := (descExt d).2.2, margin := bits d.head 25 24, windows := d.wins.map windowOfEntry,
    border := 0, detours := [], active := true, closing := false, released := 0 }

/-! ## MESH_JOB_SETUP (14 R467, R468) -/

/-- The border mask, and the side of the first detour of each port code or 0xFF, at the time of set-up. -/
def routed (s : State) (j : MeshJob) : MeshJob :=
  let side (p : Nat) : Nat := match findDetour s (some j) p with
    | some hs => hs.headD 0xFF
    | none => 0xFF
  { j with border := borderMask s.config s.config.node j, detours := (List.range 6).map side }

/-- The set-up digest; a route image has 64 bytes. -/
def setupDigest (s : State) (bs : List Byte) (j : MeshJob) : Nat :=
  ofBytes (sha256 (bs ++ fitBytes 64 (Config.routeImage s.config.node j.border j.detours)))

/-- Check 5. -/
def jobBusy (s : State) (j : MeshJob) : Bool :=
  s.mesh.jobs.any (fun k => k.active &&
    (if k.forme = j.forme then k.job != j.job || k.digest != j.digest
     else k.job == j.job || k.windows.any (fun w => (j.windowOf w.window).isSome)))

def sameSetup (j k : MeshJob) : Bool := k.forme == j.forme && k.job == j.job && k.digest == j.digest

/-- The retained set-up released longest ago. -/
def oldestRetained (js : List MeshJob) : Option MeshJob :=
  match minList ((js.filter (fun j => !j.active)).map (·.released)) with
  | none => none
  | some r => js.find? (fun j => !j.active && j.released == r)

/-- A new set-up; the seventeenth discards one (R469). -/
def programJob (js : List MeshJob) (j : MeshJob) : List MeshJob :=
  let js := if js.length < 16 then js
    else match oldestRetained js with
      | some o => js.filter (fun k => k != o)
      | none => js
  js ++ [j]

/-- OBJ_ID of a mesh job (15 Table 15.11). -/
def jobObj (fid job : Nat) : Nat := fid * 2 ^ 8 + job

/-- The set-up is reactivated or programmed. -/
def setupJob (s : State) (mb : MboxId) (k : Nat) (j : MeshJob) : State :=
  let s := journalWrite s (jEntry (originOf s mb k) 0x0B (jobObj j.forme j.job) 1 0 (measureDigest j.digest))
  if s.mesh.jobs.any (sameSetup j) then
    let js := s.mesh.jobs.map (fun x => if sameSetup j x then { x with active := true, closing := false } else x)
    finish (countFor { s with mesh := { s.mesh with jobs := js } } (some j.forme) .meshSetupReused 1) mb k stOkReused 0 j.digest
  else finish { s with mesh := { s.mesh with jobs := programJob s.mesh.jobs j } } mb k stOk 0 j.digest

/-- Bytes of a descriptor of 255 windows. -/
def descMax : Nat := 64 + 32 * 255

def setupChecks (s : State) (c : Nat) (readable : Bool) (d : Desc) (j : MeshJob) : List (Bool × Nat × Nat) :=
  [(mjLen c == 0, stBadLength, fieldOff 128),
   (readable && descZero (mjLen c) d, stBadLength, fieldOff 64),
   (mjJob c == 0, stBadField, fieldOff 0),
   reservedCheck setupFields c,
   (readable && descReserved d, stBadReserved, fieldOff 64),
   vaCheck c 64,
   (!readable, stBadField, fieldOff 64),
   (mjLen c != 64 + 32 * descNwin d, stBadField, fieldOff 128),
   (descBad s.config (mjJob c) d, stBadField, fieldOff 64),
   (jobBusy s j, stResourceBusy, fieldOff 0),
   journalCheck s]

def execMeshJobSetup (mb : MboxId) (slot : Nat) (s : State) : RelRes :=
  match startsCmd s mb slot 0x80, formeOfMbox s mb with
  | some c, some fid =>
    let r := peekVa s fid (mjDesc c) (min (mjLen c) descMax)
    let bs := r.2.2.1
    let d := descOf bs
    let j := routed s (jobOf fid d)
    let j := { j with digest := setupDigest s bs j }
    let cs := setupChecks s c r.2.2.2 d j
    if (firstBad cs).isNone && journalHeld s then .next s
    else .next (checked s mb slot cs (setupJob r.1 mb slot j))
  | _, _ => .next s

/-! ## MESH_JOB_RELEASE (14 R470) -/

/-- The mesh COPYs of a forme that run. -/
def meshCopies (s : State) (fid : Nat) : List (MboxId × Nat) :=
  (ownedSlots s).filter (fun x =>
    ofForme s fid x.1 && (getSlot s x.1 x.2).phase == .running && slotOpcode (getMbox s x.1) x.2 == 0x30 &&
      moveOf (slotCmd (getMbox s x.1) x.2) == .mesh)

/-- A COPY to the mesh sends no further packet. -/
def cutCopy (s : State) (x : MboxId × Nat) : State :=
  let y := getSlot s x.1 x.2
  let len := cpLen (slotCmd (getMbox s x.1) x.2)
  let s := if y.status = 0 ∧ y.offset < len then pend s x.1 x.2 stMeshError errReleased else s
  meshCopySettle s x.1 x.2 y.waitId len

def releaseStep (s : State) (fid : Nat) (mb : MboxId) (k : Nat) : State :=
  let s := closeJobs ((meshCopies s fid).foldl cutCopy s) fid
  if meshQuiet s fid then finish (releaseJobs s fid) mb k stOk 0 0 else s

def execMeshJobRelease (mb : MboxId) (slot : Nat) (s : State) : RelRes :=
  match startsCmd s mb slot 0x81, runsCmd s mb slot 0x81, formeOfMbox s mb with
  | some c, _, some fid =>
    let job := mjJob c
    let j := s.mesh.jobs.find? (fun j => j.active && j.forme == fid && j.job == job)
    let cs : List (Bool × Nat × Nat) :=
      [(job == 0, stBadField, fieldOff 0), reservedCheck [(7, 0)] c, (j.isNone, stBadField, fieldOff 0), journalCheck s]
    if (firstBad cs).isNone && journalHeld s then .next s
    else
      let go :=
        let old := match j with
          | some j => measureDigest j.digest
          | none => 0
        let s := journalWrite s (jEntry (originOf s mb slot) 0x0B (jobObj fid job) 3 old 0)
        releaseStep (runOn s mb slot 0) fid mb slot
      .next (checked s mb slot cs go)
  | none, some _, some fid => .next (releaseStep s fid mb slot)
  | _, _, _ => .next s

end Sys2Proof.Machine
end

