-- ==== Sys2Proof/Machine/MeshRows.lean ====
section
/-! DEFINITION. The rows of the mesh (14): link training, announcements, packets at their target and on their way, lanes
and links that fail, notices, and the registration counter. -/

namespace Sys2Proof.Machine

open Sys2Proof

abbrev MeshRes := Host.Outcome State Fault Refusal

/-! ## Widths (14 R483, Table 14.8) -/

/-- Lanes of the aligned groups of a width, lowest group first. -/
def laneGroups (w : Nat) : List Nat := (List.range (16 / w)).map (fun j => (2 ^ w - 1) * 2 ^ (w * j))

def wholeIn (working g : Nat) : Bool := (List.range 16).all (fun i => !bit g i || bit working i)

/-- Widest entry for which a whole aligned group works, and that group; an ND5 link has widths 16 and 8 only. -/
def widestOf (working : Nat) : List Nat → Nat × Nat
  | [] => (0, 0)
  | w :: r => match (laneGroups w).find? (wholeIn working) with
    | some g => (w, g)
    | none => widestOf working r

def widthFor (gen5 : Bool) (working : Nat) : Nat × Nat := widestOf working (if gen5 then [16, 8] else [16, 8, 4, 2, 1])

def allLanes : Nat := 0xFFFF

/-! ## What the node knows of the group -/

/-- The link-state entry of a port (15 Table 15.11): a Link status record has no layout, its digests are free values. -/
def linkEntry (s : State) (port : Nat) : State :=
  let old := Config.freeNat s.free % 2 ^ 128
  let new := Config.freeNat (s.free + 1) % 2 ^ 128
  journalWrite s.drawn.drawn (jEntry JOrigin.firmware 0x0C (0x100 + port) 4 old new)

def modGnid (s : State) (n : Nat) (f : GnidEntry → GnidEntry) : State :=
  { s with mesh := { s.mesh with gnids := mapUpd s.mesh.gnids GnidEntry.absent n f } }

/-- Another present node announced the GNID of node `n` (14 R462). -/
def gnidTwin (s : State) (n : Nat) : Bool :=
  let own := s.config.node
  let g := if n = own then s.config.gnid else (getGnid s n).gnid
  let there (e : GnidEntry) : Bool := e.present && !e.nd5
  (n == own || there (getGnid s n)) &&
    (s.mesh.gnids.any (fun kv => kv.1 != n && kv.1 != own && there kv.2 && kv.2.gnid == g) ||
      (n != own && s.config.gnid == g))

/-- DUP of every entry follows the table; the node journals when its own GNID begins to be shared. -/
def markTwins (s : State) (port : Nat) : State :=
  let was := (getGnid s s.config.node).dup
  let table := s.mesh.gnids.map (fun kv => (kv.1, { kv.2 with dup := gnidTwin s kv.1 }))
  let own := gnidTwin s s.config.node
  let s := { s with mesh := { s.mesh with gnids := table } }
  let s := if own = was then s else modGnid s s.config.node (fun e => { e with dup := own })
  if own && !was then linkEntry s port else s

/-- The node announces itself over its up links (14 R461). -/
def announceOwn (s : State) : State :=
  let ups := maskOf ((List.range 6).filter (fun p => (getMeshPort s p).isUp))
  meshSend s (.announce s.config.gnid s.config.node 6 ups)

/-- Whether a neighbour is lost is known on the port that leads to it (14 R485). -/
def markNeighbour (s : State) (n : Nat) (lost : Bool) : State :=
  match (List.range 6).find? (fun p => neighbour s.config s.config.node p == some n) with
  | none => s
  | some p => modMeshPort s p (fun x => { x with neighbourLost := lost && !x.isUp })

/-- A node is gone: PRESENT is cleared. Packets of it that have reached this node are not lost (14 R487). -/
def nodeGone (s : State) (n port : Nat) : State :=
  let s := markNeighbour (modGnid s n (fun e => { e with present := false, upPorts := 0 })) n true
  let m := s.mesh
  markTwins { s with mesh := { m with lostNodes := if m.lostNodes.contains n then m.lostNodes else n :: m.lostNodes } } port

/-- A node joins, as it did not take part before: the order of its COPYs is counted anew. -/
def nodeJoins (s : State) (n : Nat) : State :=
  let s := markNeighbour s n false
  let m := s.mesh
  let back := (getGnid s n).present
  { s with mesh := { m with lostNodes := m.lostNodes.filter (· ≠ n),
                            due := if back then m.due else m.due.filter (fun kv => kv.1 / 2 ^ 32 ≠ n) } }

/-- Every link into a node of the group is known to be down. -/
def cutOff (s : State) (n : Nat) : Bool :=
  (List.range 6).all (fun p =>
    match neighbour s.config n p with
    | none => true
    | some m => sendWidth s m (opposite p) == 0)

/-! ## Training (14 R460, R494, 18 R581) -/

/-- The port comes up at the widths its lanes allow. -/
def portUp (s : State) (port partner : Nat) (gen5 : Bool) (tx rx : Nat) : State :=
  let t := widthFor gen5 tx
  let r := widthFor gen5 rx
  let s := modMeshPort s port (fun x =>
    { x with st := .up, txWidth := t.1, rxWidth := r.1, txFailed := allLanes - tx, rxFailed := allLanes - rx,
             txRetraining := false, rxRetraining := false, partner := partner, gen5 := gen5,
             promptDetour := !gen5 && decide (t.1 < 16), neighbourLost := false, delay := 0, offset := 0 })
  let m := s.mesh
  let s := { s with mesh := { m with linkWidths := mapSet m.linkWidths (partner * 8 + opposite port) r.1,
                                     lostNodes := m.lostNodes.filter (· ≠ partner) } }
  let s := if gen5 then modGnid s partner (fun e => { e with gnid := 0, present := true, nd5 := true, generation := 5 }) else s
  let s := meshSend (linkEntry s port) (.notice s.config.node port t.1)
  retree (announceOwn s)

/-- MESH_LINK_TRAIN: the ends exchange node number, GROUP_ID and generation; `txLanes` and `rxLanes` are the lanes that
work. -/
def execMeshLinkTrain (port partner partnerGroup : Nat) (gen5 : Bool) (txLanes rxLanes : Nat) (s : State) : MeshRes :=
  let x := getMeshPort s port
  if !(meshOn s && s.up) || x.isUp then .next s
  else
    match neighbour s.config s.config.node port with
    | none => .next (modMeshPort s port (fun x => { x with st := .edge }))
    | some n =>
      if partner ≠ n ∨ partnerGroup ≠ s.config.groupId then
        if x.st = .miswired then .next s
        else .next (linkEntry (modMeshPort s port (fun x => { x with st := .miswired, partner := partner })) port)
      else if (widthFor gen5 txLanes).1 = 0 ∨ (widthFor gen5 rxLanes).1 = 0 then
        .next (modMeshPort s port (fun x => { x with st := .training, trainFails := satAdd 255 x.trainFails 1 }))
      else .next (portUp s port partner gen5 txLanes rxLanes)

/-- MESH_TRAIN_RETRY: an attempt without a link; it counts in LANES_FAILED only when lanes failed. -/
def execMeshTrainRetry (port lanesFailed : Nat) (s : State) : MeshRes :=
  let x := getMeshPort s port
  if meshOn s && s.up && (x.st == .down || x.st == .training) && (neighbour s.config s.config.node port).isSome then
    .next (modMeshPort s port (fun x =>
      { x with st := .training, trainFails := if lanesFailed = 0 then x.trainFails else satAdd 255 x.trainFails 1 }))
  else .next s

/-! ## Announcements and notices (14 R461, R462, R486) -/

def inGroup (c : NodeConfig) (n : Nat) : Bool := decide (nodeX n < c.nx) && decide (nodeY n < c.ny) && decide (nodeZ n < c.nz)

/-- GNID_ANNOUNCE: the table entry, DUP, and the flood onward of what is new. -/
def execGnidAnnounce (port node gnid generation upPorts : Nat) (s : State) : MeshRes :=
  let e := getGnid s node
  let nd5 := generation == 5
  let g := if nd5 then 0 else gnid
  if !(meshOn s && (getMeshPort s port).isUp && inGroup s.config node) || node = s.config.node then .next s
  else if e.present && e.gnid == g && e.generation == generation && e.upPorts == upPorts then .next s
  else
    let s := modGnid (nodeJoins s node) node
      (fun e => { e with gnid := g, present := true, nd5 := nd5, upPorts := upPorts, generation := generation })
    .next (retree (meshSend (markTwins s port) (.announce gnid node generation upPorts)))

/-- LINK_STATE_NOTICE: the width of the sending side of a port of another node. Widths are kept within two hops; a node
whose links are all down is gone. -/
def execLinkStateNotice (node port width : Nat) (s : State) : MeshRes :=
  if !(meshOn s && inGroup s.config node) || node = s.config.node || sendWidth s node port = width then .next s
  else
    let s := if distance node s.config.node ≤ 2 then
        { s with mesh := { s.mesh with linkWidths := mapSet s.mesh.linkWidths (node * 8 + port) width } }
      else s
    let s := if (getGnid s node).present then
        modGnid s node (fun e => { e with upPorts := if width = 0 then clearBit e.upPorts port else setBit e.upPorts port })
      else s
    let s := meshSend s (.notice node port width)
    match neighbour s.config node port with
    | none => .next s
    | some m =>
      if width = 0 ∧ m ≠ s.config.node ∧ (getGnid s m).present = true ∧ cutOff s m = true then .next (retree (nodeGone s m port))
      else .next (retree s)

/-! ## Packets (14 R464, R471, R477, R481, R482) -/

/-- A packet refused because it crossed a border link. -/
def borderReject (s : State) (p : Packet) : State :=
  rejectPacket s ((activeJob s p.job).map (·.forme)) p errBorder

/-- MESH_PUT: a packet for this node. -/
def execMeshPut (port : Nat) (p : Packet) (s : State) : MeshRes :=
  if !(meshOn s && (getMeshPort s port).isUp) || p.dst ≠ s.config.node then .next s
  else
    let s := received s port
    if borderCrossed s port p then .next (borderReject s p) else .next (inboundPut s port (arrived p))

/-- MESH_GET: a get of an ND5 node. -/
def execMeshGet (port : Nat) (p : Packet) (len : Nat) (s : State) : MeshRes :=
  if !(meshOn s && (getMeshPort s port).isUp) || p.dst ≠ s.config.node || !(getGnid s p.src).nd5 then .next s
  else
    let s := received s port
    let refuse (code : Nat) : State := meshSend (countFor s ((activeJob s p.job).map (·.forme)) .meshRxReject 1) (.error p code)
    .next (if borderCrossed s port p then refuse errBorder
      else if !isMember s p then refuse errNotMember
      else inboundGet s port (arrived p) len)

/-- MESH_TRANSIT: a packet for another node goes on in dimension order or by detour, or is dropped with an error
response. -/
def execMeshTransit (port : Nat) (p : Packet) (s : State) : MeshRes :=
  if !(meshOn s && (getMeshPort s port).isUp) || p.dst = s.config.node then .next s
  else
    let s := received s port
    if borderCrossed s port p then .next (meshSend s (.error p errBorder))
    else
      match nextHop s (arrived p) with
      | .drop code => .next (meshSend s (.error p code))
      | .out h q => .next (toPort s none (dieOfMeshPort port) h q)

/-- MESH_PACKET_ACK: an acknowledgement (code 0) or an error response. -/
def execMeshPacketAck (copyId index code : Nat) (s : State) : MeshRes :=
  if meshOn s then .next (packetAnswered s copyId index code) else .next s

/-- MESH_ACK_TIMEOUT: 1 ms without an answer. -/
def execMeshAckTimeout (copyId index : Nat) (s : State) : MeshRes :=
  match s.mesh.sent.find? (fun x => x.copyId == copyId && x.index == index) with
  | none => .next s
  | some x => if s.powered then .next (packetFails s x errTimeout) else .next s

/-- MESH_ORDER_TIMEOUT: a packet that has waited 1 ms for an earlier one is discarded. -/
def execMeshOrderTimeout (src copyId index : Nat) (s : State) : MeshRes :=
  .next { s with mesh := { s.mesh with waiting := s.mesh.waiting.filter (fun x =>
    !(x.2.src == src && x.2.copyId == copyId && x.2.index == index)) } }

/-! ## Lanes and links that fail (14 R483, R484, R487) -/

/-- A port's link is lost; with its neighbour where that is lost too. -/
def linkLost (s : State) (port : Nat) (gone : Bool) : State :=
  let n := (neighbour s.config s.config.node port).getD s.config.node
  let s := modMeshPort s port (fun x =>
    { x with st := .down, txWidth := 0, rxWidth := 0, txRetraining := false, rxRetraining := false, neighbourLost := gone })
  let s := { s with mesh := { s.mesh with linkWidths := mapSet s.mesh.linkWidths (n * 8 + opposite port) 0 } }
  let s := meshSend (linkEntry s port) (.notice s.config.node port 0)
  let s := if gone || cutOff s n then nodeGone s n port else s
  retree (announceOwn (rerouteAll s port))

/-- The direction narrows: its new width, and prompt packets by detour where it sends. -/
def narrowed (s : State) (port : Nat) (sending : Bool) (w : Nat) : State :=
  if sending then
    let s := modMeshPort s port (fun x => { x with txWidth := w, txRetraining := true, promptDetour := !x.gen5 })
    rerouteNarrow (meshSend (linkEntry s port) (.notice s.config.node port w)) port
  else
    let n := (getMeshPort s port).partner
    let s := modMeshPort s port (fun x => { x with rxWidth := w, rxRetraining := true })
    linkEntry { s with mesh := { s.mesh with linkWidths := mapSet s.mesh.linkWidths (n * 8 + opposite port) w } } port

/-- MESH_LANE_FAIL: a lane of one direction fails. A lane outside the group in use changes nothing but the count; one of
it makes the direction retrain on the widest whole group left. -/
def execMeshLaneFail (port : Nat) (sending : Bool) (lane : Nat) (s : State) : MeshRes :=
  let x := getMeshPort s port
  if !(meshOn s && x.isUp) then .next s
  else
    let failed := if sending then x.txFailed else x.rxFailed
    let was := widthFor x.gen5 (allLanes - failed)
    let now := widthFor x.gen5 (allLanes - setBit failed lane)
    let s := modMeshPort s port (fun x =>
      if sending then { x with txFailed := setBit failed lane } else { x with rxFailed := setBit failed lane })
    if now.1 = 0 then .next (linkLost s port false)
    else if now.2 = was.2 then .next s
    else .next (narrowed s port sending now.1)

/-- MESH_RETRAIN_DONE: the direction runs at its new width, the packets whose flits were not acknowledged are sent again, and
bulk traffic goes on. -/
def execMeshRetrainDone (port : Nat) (sending : Bool) (s : State) : MeshRes :=
  let x := getMeshPort s port
  if !(meshOn s && x.isUp) then .next s
  else if sending && x.txRetraining then .next (pumpPort (modMeshPort s port (fun x => { x with txRetraining := false })) port)
  else if !sending && x.rxRetraining then .next (modMeshPort s port (fun x => { x with rxRetraining := false }))
  else .next s

/-- MESH_LINK_LOSS. -/
def execMeshLinkLoss (port : Nat) (neighbourLost : Bool) (s : State) : MeshRes :=
  if meshOn s && (getMeshPort s port).isUp then .next (linkLost s port neighbourLost) else .next s

/-! ## The registration counter (14 R488 to R493) -/

/-- Largest rate correction, in units of 0.01 ppm: 100 ppm while acquiring, 2 ppm once locked (R491). -/
def rateBound (st : RegState) : Nat := if st == .acquiring then 10000 else 200

/-- A rate correction is open within its bound: a node ahead of its parent slows down, one behind goes faster. -/
def openRate (s : State) (offset : Int) : State × Int :=
  let n : Int := (1 + Config.freeNat s.free % rateBound s.mesh.regState : Nat)
  (s.drawn, if offset = 0 then 0 else if 0 < offset then -n else n)

/-- A timestamp in units of 0.125 ns; on a link to an ND5 node the resolution is 4 ns (14 R489, Table 14.11). -/
def stamp (gen5 : Bool) (t : Nat) : Int := if gen5 then (t / 32 * 32 : Nat) else (t : Nat)

/-- Offset from the other end, and link delay (14 R489). -/
def linkTimes (gen5 : Bool) (here there : Stamps) : Int × Int :=
  let a := stamp gen5 here.sent
  let b := stamp gen5 there.received
  let c := stamp gen5 there.sent
  let d := stamp gen5 here.received
  (((a + d) - (b + c)) / 2, ((d - a) - (c - b)) / 2)

/-- What the counter does about its offset from the parent, in units of 0.125 ns: at the first join it steps forward where it is
more than 1 µs behind, and otherwise its rate corrects it (14 R491). -/
def correctTime (s : State) (offset : Int) : State :=
  let m := s.mesh
  let s := { s with mesh := { m with offset := offset, joinedBefore := true } }
  if !m.joinedBefore && decide (offset < -8000) then { s with now := (s.now + (-offset).toNat / 8) % 2 ^ 64 }
  else
    let r := openRate s offset
    { r.1 with mesh := { r.1.mesh with rate := r.2 } }

/-- REGISTRATION_EXCHANGE: the four timestamps of an up link, in units of 0.125 ns; each end computes delay and offset, and
corrects its counter by those of its parent's link. -/
def execRegistrationExchange (port : Nat) (here there : Stamps) (s : State) : MeshRes :=
  let x := getMeshPort s port
  if !(meshOn s && x.isUp) then .next s
  else
    let r := linkTimes x.gen5 here there
    let s := modMeshPort s port (fun x => { x with delay := r.2, offset := r.1 })
    .next (if s.mesh.parent ≠ port ∨ s.mesh.regState = .free then s else correctTime s r.1)

/-- REGISTRATION_LOCK: 5 ms after the join or after a change of parent. -/
def execRegistrationLock (s : State) : MeshRes :=
  if meshOn s && (s.mesh.regState == .acquiring || s.mesh.regState == .settling) then
    .next { s with mesh := { s.mesh with regState := .locked } }
  else .next s

/-- REFERENCE_LOSS: the reference is no longer present; the next lowest node takes its place without a step of the
counter. -/
def execReferenceLoss (s : State) : MeshRes :=
  if meshOn s && s.mesh.regState != .free && s.mesh.ref != s.config.node then
    .next (retree (nodeGone s s.mesh.ref s.mesh.parent))
  else .next s

end Sys2Proof.Machine
end

