-- ==== Sys2Proof/Machine/PowerCmds.lean ====
section
/-! DEFINITION. Commanded power (12 R418, R419, 16 R539, R540, R555, 11 R371): POWER_STATE with its core groups, and
CAP_SET; what the sideband shares of them (17 R569). -/

namespace Sys2Proof.Machine

open Sys2Proof

/-! ## Rest states -/

/-- Sets a rest state; one shallower than the present state wakes the Platen (R540). -/
def applyRest (s : State) (p st : Nat) : State :=
  let x := getPlaten s p
  let s := setPower s p (fun y => { y with rest := st })
  if st < x.state.depth then wakePlaten s p else s

/-- The Platen is to reach S0 before the command completes. -/
def restWaits (s : State) (p st : Nat) : Bool := decide (st < (getPlaten s p).state.depth)

/-- OBJ_ID of a power state: KIND in bits 3:0, INDEX in bits 11:4 (15 Table 15.11). -/
def powerObj (c : Nat) : Nat := bits c 11 0

/-- The journal entry of a commanded power state (16 R540, 15 R524). -/
def journalPower (s : State) (o : JOrigin) (c : Nat) : State :=
  let id := powerObj c
  let old := match mapGet s.powerCmds id with
    | some x => digest16 (toBytes 24 x)
    | none => 0
  let s := { s with powerCmds := mapSet s.powerCmds id (c % 2 ^ 192) }
  journalWrite s (jEntry o 0x09 id 2 old (digest16 (toBytes 24 c)))

/-! ## POWER_STATE -/

def psKind (c : Nat) : Nat := bits c 3 0
def psIndex (c : Nat) : Nat := bits c 11 4
def psState (c : Nat) : Nat := bits c 15 12
def psEntry (c : Nat) : Nat := bits c 127 64
def psArg (c : Nat) : Nat := bits c 191 128

/-- The checks of R418 that every KIND shares: fields that must be zero, then ranges. -/
def psFieldChecks (c : Nat) : List (Bool × Nat × Nat) :=
  let k := psKind c
  [(k == 0, stBadField, fieldOff 0),
   ((k == 2 || k == 3) && psState c != 0, stBadReserved, fieldOff 12),
   (bits c 63 16 != 0, stBadReserved, fieldOff 16),
   ((k == 1 || k == 3) && psEntry c != 0, stBadReserved, fieldOff 64),
   ((k == 1 || k == 3) && psArg c != 0, stBadReserved, fieldOff 128),
   (c / 2 ^ 192 != 0, stBadReserved, fieldOff 192),
   (decide (k > 3), stBadField, fieldOff 0),
   (k == 1 && decide (psIndex c > 5), stBadField, fieldOff 4),
   ((k == 2 || k == 3) && decide (psIndex c > 11), stBadField, fieldOff 4),
   (k == 1 && decide (psState c > 3) && psState c != 8, stBadField, fieldOff 12),
   (k == 2 && decide (psEntry c ≥ 2 ^ 56), stBadField, fieldOff 64)]

/-- A die or group outside the forme. -/
def psNotOwned (f : Forme) (c : Nat) : Bool :=
  if psKind c = 1 then !f.platens.contains (psIndex c) else !f.groups.contains (psIndex c)

def psChecks (s : State) (f : Forme) (c : Nat) : List (Bool × Nat × Nat) :=
  psFieldChecks c ++
    [(psNotOwned f c, stNotOwned, fieldOff 4),
     (psKind c == 2 && s.groupsRunning.contains (psIndex c), stResourceBusy, fieldOff 4),
     journalCheck s]

/-- The forme whose mailbox issues a command. -/
def issuer (s : State) (mb : MboxId) : Option Forme := (formeOfMbox s mb).bind (getForme s)

/-- POWER_STATE with KIND 0x1, and with a KIND that is none. -/
def execPowerState (mb : MboxId) (slot : Nat) (s : State) : RelRes :=
  match startsCmd s mb slot 0x60, runsCmd s mb slot 0x60, issuer s mb with
  | some c, _, some f =>
    if psKind c = 2 ∨ psKind c = 3 then .next s
    else if (firstBad (psChecks s f c)).isNone && journalHeld s then .next s
    else
      let p := psIndex c
      let go :=
        let w := restWaits s p (psState c)
        let s := applyRest (journalPower s (originOf s mb slot) c) p (psState c)
        if w then runOn s mb slot p else finish s mb slot stOk 0 0
      .next (checked s mb slot (psChecks s f c) go)
  | none, some c, some _ =>
    if (getPlaten s (psIndex c)).state == .s0 then .next (finish s mb slot stOk 0 0) else .next s
  | _, _, _ => .next s

/-! ## Core groups -/

/-- The monitor starts the group's lowest hart; the group runs at 2.6 GHz (11 R371, 16 R548). -/
def startGroup (s : State) (g entry arg : Nat) : State :=
  let s := modHart s (8 * g) (fun x => x.begin (8 * g) entry arg)
  { s with groupsRunning := g :: s.groupsRunning, corePower := mapSet s.corePower g CorePower.start }

/-- CORE_GROUP_START: POWER_STATE with KIND 0x2. -/
def execCoreGroupStart (mb : MboxId) (slot : Nat) (s : State) : RelRes :=
  match startsCmd s mb slot 0x60, issuer s mb with
  | some c, some f =>
    if psKind c ≠ 2 then .next s
    else if (firstBad (psChecks s f c)).isNone && journalHeld s then .next s
    else
      let go :=
        let s := journalPower s (originOf s mb slot) c
        finish (startGroup s (psIndex c) (psEntry c) (psArg c)) mb slot stOk 0 0
      .next (checked s mb slot (psChecks s f c) go)
  | _, _ => .next s

/-- CORE_GROUP_STOP: POWER_STATE with KIND 0x3; a stopped group is left as it is, without an entry. -/
def execCoreGroupStop (mb : MboxId) (slot : Nat) (s : State) : RelRes :=
  match startsCmd s mb slot 0x60, issuer s mb with
  | some c, some f =>
    if psKind c ≠ 3 then .next s
    else if s.groupsRunning.contains (psIndex c) then
      if (firstBad (psChecks s f c)).isNone && journalHeld s then .next s
      else
        let go :=
          let s := journalPower s (originOf s mb slot) c
          finish (stopGroups s [psIndex c]) mb slot stOk 0 0
        .next (checked s mb slot (psChecks s f c) go)
    else .next (checked s mb slot (psFieldChecks c ++ [(psNotOwned f c, stNotOwned, fieldOff 4)]) (finish s mb slot stOk 0 0))
  | _, _ => .next s

/-! ## Caps (16 R555) -/

def csWatts (c : Nat) : Nat := bits c 15 0

/-- WATTS outside its range. -/
def wattsBad (module : Bool) (w : Nat) : Bool := decide (w < (if module then 1000 else 100)) || decide (w > 3000)

/-- The module cap, or the cap of a forme. -/
def capNow (s : State) (f : Option Nat) : Nat :=
  match f with
  | none => s.moduleCap
  | some f => match getForme s f with
    | some x => x.cap
    | none => 0

def setCap (s : State) (f : Option Nat) (w : Nat) : State :=
  match f with
  | none => { s with moduleCap := w }
  | some f => modForme s f (fun x => { x with cap := w })

/-- The cap takes effect at its entry (R555). -/
def applyCap (s : State) (o : JOrigin) (f : Option Nat) (w : Nat) : State :=
  let id := match f with
    | none => 0
    | some f => 1 + f
  let old := digest16 (toBytes 2 (capNow s f))
  setCap (journalWrite s (jEntry o 0x0A id 2 old (digest16 (toBytes 2 w)))) f w

def capChecks (s : State) (c : Nat) : List (Bool × Nat × Nat) :=
  [(csWatts c == 0, stBadField, fieldOff 0),
   reservedCheck [(16, 16), (15, 0)] c,
   (wattsBad (bit c 16) (csWatts c), stBadField, fieldOff 0),
   journalCheck s]

/-- CAP_SET. -/
def execCapSet (mb : MboxId) (slot : Nat) (s : State) : RelRes :=
  match startsCmd s mb slot 0x61 with
  | none => .next s
  | some c =>
    if (firstBad (capChecks s c)).isNone && journalHeld s then .next s
    else
      let f := if bit c 16 then none else formeOfMbox s mb
      .next (checked s mb slot (capChecks s c)
        (finish (applyCap s (originOf s mb slot) f (csWatts c)) mb slot stOk 0 0))

end Sys2Proof.Machine
end

