-- ==== Sys2Proof/Machine/PowerRows.lean ====
section
/-! DEFINITION. The rows of power (16): the governor and the states of Platens, module idle, the power meter, the limits of
16 Table 16.8, running points and droop. -/

namespace Sys2Proof.Machine

open Sys2Proof

abbrev PowRes := Host.Outcome State Fault Refusal

/-! ## Running points (16 R546, R547, Table 16.6) -/

/-- Rail set point of a step, in units of 25 mV: 0.650 V for step 0, then 25 mV for each further pair. -/
def voltOf (step : Nat) : Nat := 26 + (step + 1) / 2

/-- Where the governor would move a Platen next: one step toward the lowest limit, and not up after a droop step
(R551, R552). -/
def nextStep (x : PlatenPower) : Option Nat :=
  let top := if x.limits.droop then min x.limits.droopTop x.limits.ceiling else x.limits.ceiling
  if top < x.step then some (x.step - 1)
  else if x.step < top ∧ x.limits.droop = false then some (x.step + 1)
  else none

/-- A running Platen without a step in progress starts one; going up, its rail rises first. -/
def govern (s : State) (p : Nat) : State :=
  let x := getPlaten s p
  if x.state == .s0 && x.target.isNone then
    match nextStep x with
    | none => s
    | some k => setPower s p (fun x => { x with target := some k, volt := max x.volt (voltOf k) })
  else s

/-- A change of the limits of a Platen, and what the governor makes of it. -/
def setLimits (s : State) (p : Nat) (f : Limits → Limits) : State :=
  govern (setPower s p (fun x => { x with limits := f x.limits })) p

def runningPlatens (s : State) : List Nat := (List.range 6).filter (fun p => (getPlaten s p).state == .s0)

/-- RUNNING_POINT_STEP: rail and clock have settled. -/
def execRunningPointStep (platen : Nat) (s : State) : PowRes :=
  match (getPlaten s platen).target with
  | none => .next s
  | some k =>
    if s.powered && (getPlaten s platen).state == .s0 then
      .next (govern (setPower s platen (fun x => { x with step := k, volt := voltOf k, target := none })) platen)
    else .next s

/-! ## Droop (16 R550, R551) -/

/-- Stretching ends. Each stretched period removes a clock, of which there are at least 32; how many more the recovery of the
rail took is open (R550). -/
def endStretch (s : State) (p : Nat) : State :=
  if (getPlaten s p).stretching then
    countFor (modPlaten s.drawn p (fun x => { x with stretching := false })) (formeOfPlaten s p) .stretchClocks
      (32 + Config.freeNat s.free)
  else s

/-- DROOP_DETECT: the clock is stretched; over half a percent in 1 ms costs one step, which is not regained for 10 ms. A step
in progress completes first (R558). -/
def execDroopDetect (platen : Nat) (overHalfPercent : Bool) (s : State) : PowRes :=
  let x := getPlaten s platen
  if !(s.powered && x.state == .s0) then .next s
  else
    let s := modPlaten s platen (fun x => { x with stretching := true })
    if overHalfPercent then
      .next (govern (setPower s platen (fun y =>
        { y with limits := { y.limits with droop := true, droopTop := y.target.getD y.step - 1 }, droopAt := s.now })) platen)
    else .next s

/-- DROOP_RECOVERED: stretching ends. -/
def execDroopRecovered (platen : Nat) (s : State) : PowRes :=
  .next (if s.powered then endStretch s platen else s)

/-- Ten milliseconds after its droop step a Platen may rise again. -/
def droopOver (s : State) (p : Nat) : State :=
  let x := getPlaten s p
  if x.limits.droop && decide (x.droopAt + 10000000 ≤ s.now) then setLimits s p (fun l => { l with droop := false }) else s

/-! ## The governor (16 R535 to R539, 09 Table 9.13) -/

/-- A command that is to run names a Platen in 12 Table 12.9: a PASS_LAUNCH with a nonempty part there, a POWER_STATE that
wakes it, a PLATE_LOAD whose plate locks regions there. -/
def readyNames (s : State) (p : Nat) (mb : MboxId) (k : Nat) : Bool :=
  let m := getMbox s mb
  let c := slotCmd m k
  match slotOpcode m k, formeOfMbox s mb, (formeOfMbox s mb).bind (getForme s) with
  | 0x50, some _, some f => (dividePass f.platens (lcSticks c)).any (fun r => r.platen == p && decide (r.first < r.stop))
  | 0x60, some _, some _ => psKind c == 1 && psIndex c == p && restWaits s p (psState c)
  | 0x40, some fid, some f =>
    let r := readImage s fid c
    bit (getSlot s mb k).waitId p || r.2.2.2 && (plateOf f r.2.2.1).regions.any (fun x => x.platen == p)
  | _, _, _ => false

/-- A command that names the Platen is past step 8 (R537). -/
def commandNames (s : State) (p : Nat) (x : MboxId × Nat) : Bool :=
  let y := getSlot s x.1 x.2
  let o := slotOpcode (getMbox s x.1) x.2
  let f := (formeOfMbox s x.1).bind (getForme s)
  y.phase == .ready && readyNames s p x.1 x.2 || y.phase == .running &&
    (if o = 0x50 then
       f.any (fun f => f.passes.any (fun q => q.seq == y.waitId && q.alive &&
         q.parts.any (fun r => r.platen == p && decide (r.first < r.stop))))
     else if o = 0x40 then
       f.any (fun f => f.loading.any (fun l => l.regions.any (fun r => r.platen == p)) ||
         f.plate.any (fun l => f.loading.isSome && l.regions.any (fun r => r.platen == p)))
     else o == 0x60 && y.waitId == p)

/-- A Platen is busy. -/
def platenBusy (s : State) (p : Nat) : Bool :=
  s.galleys.any (fun kv => kv.1 / 64 == p && !kv.2.sticks.isEmpty) || (ownedSlots s).any (commandNames s p)

/-- Every unlocked line leaves the Case, dirty ones with WB_DIRTY (steps 1 to 3). -/
def emptyCase (s : State) (p : Nat) : State :=
  let mine := s.lines.filter (fun kv => kv.1 / 2 ^ 34 = p ∧ kv.2.st ≠ .l)
  mine.foldl (fun s kv =>
    let ln := kv.1 % 2 ^ 34
    settle (evictLine (settle s ln) p ln) ln) s

/-- The Platen begins to enter S2 or S3. -/
def startSleep (s : State) (p frm dest : Nat) : State :=
  let s := setPower (endStretch s p) p (fun x => { x with state := .entering frm dest, target := none })
  emptyCase { s with streams := s.streams.filter (fun kv => kv.1 / 64 ≠ p) } p

/-- Locked lines are lost with the power of the Case (R535). -/
def dropCase (s : State) (p : Nat) : State := { s with lines := s.lines.filter (fun kv => kv.1 / 2 ^ 34 ≠ p) }

/-- Next state of an idle Platen: one state lower under the timers, straight to the rest state under a POWER_STATE. -/
def lowerTo (x : PlatenPower) : Option Nat :=
  let d := x.state.depth
  let t := if x.rest = 8 then d + 1 else x.rest
  if d < t ∧ t ≤ 3 then some t else none

def lowerPlaten (s : State) (p t : Nat) : State :=
  match (getPlaten s p).state with
  | .s0 => if t = 1 then setPower s p (fun x => { x with state := .s1, target := none }) else startSleep s p 0 t
  | .s1 => startSleep s p 1 t
  | .s2 => setPower (dropCase s p) p (fun x => { x with state := .s3 })
  | _ => s

/-- GOVERNOR_TIMER_EXPIRY: the timer of the present state has run out. -/
def execGovernorTimerExpiry (platen : Nat) (s : State) : PowRes :=
  if !s.up || s.moduleIdle || platenBusy s platen then .next s
  else
    match lowerTo (getPlaten s platen) with
    | some t => .next (lowerPlaten s platen t)
    | none => .next s

/-- An entry without sharer or owner `p`; none where no holder is left. -/
def DirEntry.without (e : DirEntry) (p : Nat) : Option DirEntry :=
  let sh := clearBit e.sharers p
  match e.st with
  | .shared => if sh = 0 then none else some { e with sharers := sh }
  | .exclusive => if e.owner = p then none else some { e with sharers := sh }
  | .owned =>
    if e.owner = p then (if sh = 0 then none else some { e with st := .shared, owner := 0, sharers := sh })
    else some { e with sharers := sh }

/-- Every home clears the bit of an agent (step 4). -/
def clearSharer (s : State) (p : Nat) : State :=
  { s with dir := s.dir.filterMap (fun kv => (kv.2.without p).map (fun e => (kv.1, e))) }

/-- CASE_SLEEP_DONE: the state entered; a wake asked for meanwhile starts (09 R322, 16 R558). -/
def execCaseSleepDone (platen : Nat) (s : State) : PowRes :=
  match (getPlaten s platen).state with
  | .entering _ t =>
    if s.powered then
      let s := clearSharer s platen
      let s := if t = 3 then dropCase s platen else s
      let asked := (getPlaten s platen).wakeAsked
      let s := setPower s platen (fun x => { x with state := if t = 2 then .s2 else .s3, wakeAsked := false })
      .next (if asked then wakePlaten s platen else s)
    else .next s
  | _ => .next s

/-- Locked regions of the forme that holds a Platen, on that Platen. -/
def lockedRegions (s : State) (p : Nat) : List Region :=
  match (formeOfPlaten s p).bind (getForme s) with
  | none => []
  | some f =>
    match f.loading, f.plate with
    | none, some l => l.regions.filter (fun r => r.platen == p)
    | _, _ => []

/-- PLATEN_WAKE_DONE: from S3 galley registers and local store are zero and the locked ways are loaded again
(Table 16.3). From S2 and S3 the Platen takes up its running point, which a droop step in the last 10 ms still holds down
(R551). -/
def execPlatenWakeDone (platen : Nat) (s : State) : PowRes :=
  match (getPlaten s platen).state with
  | .waking frm =>
    if !s.powered || s.moduleIdle then .next s
    else
      let s := if frm = 3 then
          let s := { s with galleys := s.galleys.filter (fun kv => kv.1 / 64 ≠ platen) }
          (lockedRegions s platen).foldl fillRegion s
        else s
      let s := setPower s platen (fun x =>
        let l := { x.limits with input := s.meter.inputLimit }
        let k := if frm = 1 then x.step else if l.droop then min x.step l.ceiling else l.ceiling
        { x with state := .s0, step := k, volt := voltOf k, target := none, limits := l })
      .next (govern s platen)
  | _ => .next s

/-! ## Module idle (16 R542 to R545) -/

/-- Module idle is possible. -/
def idlePossible (s : State) : Bool :=
  s.up && !s.moduleIdle && (List.range 6).all (fun p => (getPlaten s p).state == .s3) && s.groupsRunning.isEmpty &&
    (ownedSlots s).isEmpty && s.mesh.jobs.all (fun j => !j.active)

/-- Both L3s are written back and invalidated. -/
def flushL3s (s : State) : State :=
  let held := s.lines.filter (fun kv => kv.1 / 2 ^ 34 = 6 ∨ kv.1 / 2 ^ 34 = 7)
  let s := held.foldl (fun s kv =>
    let ln := kv.1 % 2 ^ 34
    settle (evictLine (settle s ln) (kv.1 / 2 ^ 34) ln) ln) s
  { s with l3Locks := [] }

/-- MODULE_IDLE_ENTRY: T_IDLE has run out. A stack that the test controller has quiesced stays idle with refresh running
(08 R282 step 2). -/
def execModuleIdleEntry (s : State) : PowRes :=
  if idlePossible s then
    let s := flushL3s s
    if s.up then
      .next { s with lines := [], dir := [], txns := [], recent := [], moduleIdle := true, waking := false,
                     gut := { s.gut with flights := s.gut.flights.filter (·.transit.isSome), atHome := [], holding := [] }
                     stackTab := s.stackTab.map (fun kv => (kv.1, { kv.2 with selfRefresh := !kv.2.quiesced })) }
    else .next s
  else .next s

/-- A rest state that the sideband made shallower during module idle wakes the Platen now (17 R574). -/
def wakeToRest (s : State) (p : Nat) : State := if (getPlaten s p).rest < 3 then wakePlaten s p else s

/-- MODULE_WAKE_DONE: the homes accept requests; entries held in the Watch domain go to the ring, and the requests that
waited are performed (R544, R545). -/
def execModuleWakeDone (s : State) : PowRes :=
  if s.powered && s.moduleIdle && s.waking then
    let reqs := s.idleReqs
    let s := { s with moduleIdle := false, waking := false, idleReqs := [],
                      journal := { s.journal with heldInIdle := 0 } }
    .next (reqs.foldl performInbound ((List.range 6).foldl wakeToRest (journalFlush (wakeStacks s))))
  else .next s

/-! ## The power meter (16 R554) and the fast limit -/

/-- Adds a sample to fixed windows of 250 ms. -/
def Mean.sample (m : Mean) (now x : Nat) : Mean :=
  let w := now / 250000000
  if w = m.window then { m with sum := m.sum + x, count := m.count + 1 }
  else { window := w, sum := x, count := 1, last := if m.count = 0 then m.last else m.sum / m.count }

def sumOf (xs : List Nat) : Nat := xs.foldl (· + ·) 0

/-- Every running Platen drops two steps, frequency first (Table 16.8). -/
def fastDrop (s : State) (p : Nat) : State :=
  setPower s p (fun x =>
    let k := x.step - 2
    { x with step := k, volt := voltOf k, target := none, fastAt := s.now, limits := { x.limits with fast := k } })

/-- The sample of one microsecond; ten of them above 3,400 W bring the fast limit. -/
def meterSample (s : State) (millivolts milliamps : Nat) : State :=
  let mw := millivolts * milliamps / 1000
  let xs := (mw :: s.meter.samples).take 1000
  let n := min 10 (s.meter.fresh + 1)
  let overIt := decide (n = 10) && decide (sumOf (xs.take 10) > 34000000)
  let meter := { s.meter with millivolts := millivolts, milliamps := milliamps, samples := xs,
                              fresh := if overIt then 0 else n, mean := s.meter.mean.sample s.now mw }
  let s := { s with meter := meter }
  if overIt then (runningPlatens s).foldl fastDrop s else s

/-- The fast limit passes to the cap loop after 100 µs. -/
def fastOver (s : State) (p : Nat) : State :=
  let x := getPlaten s p
  if x.limits.fast < 18 ∧ x.fastAt + 100000 ≤ s.now then
    setLimits s p (fun l => { l with cap := min l.cap l.fast, fast := 18 })
  else s

/-! ## The cap loop (16 R552, R553) -/

/-- The Platen with the highest step, the lowest-numbered among equals. -/
def highest (s : State) : List Nat → Option Nat
  | [] => none
  | p :: r =>
    match highest s r with
    | none => some p
    | some q => if (getPlaten s q).step ≤ (getPlaten s p).step then some p else some q

def getComp (s : State) (c : Nat) : CompPower := mapGetD s.comps CompPower.reset c

def modComp (s : State) (c : Nat) (f : CompPower → CompPower) : State :=
  { s with comps := mapUpd s.comps CompPower.reset c f }

/-- Clock of a running core group in 100 MHz steps: the lowest of what its caps and its Compositor's temperature allow
(R548). -/
def groupClock (s : State) (g : Nat) : Nat :=
  let c := getComp s (dieOfGroup g)
  let x := mapGetD s.corePower CorePower.start g
  min (min x.cap x.formeCap) (if c.forced then 10 else c.thermal)

/-- The limits of one scope, the module or a forme, over its Platens and core groups: what its cap allows each of them. -/
inductive CapScope where
  | module | forme (f : Nat)
deriving DecidableEq, Repr

def CapScope.ofPlaten (c : CapScope) (l : Limits) : Nat :=
  match c with
  | .module => l.cap
  | .forme _ => l.formeCap

def CapScope.setPlaten (c : CapScope) (k : Nat) (l : Limits) : Limits :=
  match c with
  | .module => { l with cap := k }
  | .forme _ => { l with formeCap := k }

def CapScope.ofGroup (c : CapScope) (x : CorePower) : Nat :=
  match c with
  | .module => x.cap
  | .forme _ => x.formeCap

def CapScope.setGroup (c : CapScope) (k : Nat) (x : CorePower) : CorePower :=
  match c with
  | .module => { x with cap := k }
  | .forme _ => { x with formeCap := k }

/-- A core group runs 100 MHz slower than it does, down to 1.0 GHz (R553). -/
def slowGroup (c : CapScope) (s : State) (g : Nat) : State :=
  let k := max 10 (groupClock s g - 1)
  { s with corePower := mapMod s.corePower g (fun x => c.setGroup (min (c.ofGroup x) k) x) }

/-- One step down in a scope over its cap: its fastest Platen, or its core groups once every running Platen is at
400 MHz. -/
def capDown (c : CapScope) (s : State) (ps gs : List Nat) : State :=
  let run := ps.filter (fun p => (getPlaten s p).state == .s0)
  match highest s run with
  | none => gs.foldl (slowGroup c) s
  | some p =>
    let k := (getPlaten s p).step
    if k = 0 then gs.foldl (slowGroup c) s else setLimits s p (fun l => c.setPlaten (min (c.ofPlaten l) (k - 1)) l)

/-- A scope has 50 W to its cap. -/
def capSlack (avg cap : Nat) : Bool := decide (avg + 50 ≤ cap)

/-- Core groups and Platens of a scope that its cap holds down. -/
def groupsLimited (c : CapScope) (s : State) (gs : List Nat) : List Nat :=
  (s.corePower.filter (fun kv => gs.contains kv.1 && decide (c.ofGroup kv.2 < 26))).map (·.1)

def platensLimited (c : CapScope) (s : State) (ps : List Nat) : List Nat :=
  ps.filter (fun p => decide (c.ofPlaten (getPlaten s p).limits < 18))

/-- The step up of a scope has been made. -/
def CapScope.raised (c : CapScope) (s : State) : State :=
  match c with
  | .module => { s with meter := { s.meter with raised := s.now } }
  | .forme f => modForme s f (fun x => { x with capRaised := s.now })

/-- One step up in a millisecond over a scope. Which Platen or group rises is open. -/
def capUp (c : CapScope) (s : State) (ps gs : List Nat) : State :=
  match groupsLimited c s gs, platensLimited c s ps with
  | g :: r, _ =>
    let k := (g :: r).getD (Config.freeNat s.free % (r.length + 1)) g
    c.raised { s.drawn with corePower := mapMod s.corePower k (fun x => c.setGroup (c.ofGroup x + 1) x) }
  | [], p :: r =>
    let q := (p :: r).getD (Config.freeNat s.free % (r.length + 1)) p
    setLimits (c.raised s.drawn) q (fun l => c.setPlaten (c.ofPlaten l + 1) l)
  | [], [] => s

/-- The cap loop over a forme's own Platens and groups; 3,000 W sets no limit on it (R555). -/
def formeTick (avgs : List Nat) (s : State) (kv : Nat × Forme) : State :=
  let f := kv.2
  let avg := avgs.getD kv.1 0
  let c := CapScope.forme kv.1
  if f.cap < 3000 ∧ f.cap < avg then capDown c s f.platens f.groups
  else if (f.cap = 3000 ∨ capSlack avg f.cap) ∧ f.capRaised + 1000000 ≤ s.now then capUp c s f.platens f.groups
  else s

/-- CAP_LOOP_TICK: every 100 µs, with the averages over 1 ms of the module and of the formes. -/
def execCapLoopTick (moduleAvgW : Nat) (formeAvgW : List Nat) (s : State) : PowRes :=
  if !s.powered then .next s
  else
    let s := (List.range 6).foldl (fun s p => droopOver (fastOver s p) p) s
    let s := if s.moduleCap < moduleAvgW then capDown .module s (List.range 6) s.groupsRunning else s
    let s := s.formes.foldl (formeTick formeAvgW) s
    .next (if capSlack moduleAvgW s.moduleCap && decide (s.meter.raised + 1000000 ≤ s.now)
      then capUp .module s (List.range 6) s.groupsRunning else s)

/-! ## Thermal limits (16 Table 16.8) -/

/-- Every die and stack sensor's reading. -/
def readings (s : State) : List Nat :=
  (List.range 6).map (fun p => (getPlaten s p).temp) ++ s.comps.map (·.2.temp) ++ s.stackTab.map (·.2.temp)

/-- THERM_ALERT_N follows the sensors: asserted from 92 °C, released at 88 °C, with an ALERT each way (17 R573). -/
def thermAlertStep (s : State) : State :=
  let on := (readings s).any (fun t => decide (92 ≤ t))
  let off := (readings s).all (fun t => decide (t ≤ 88))
  if !s.pins.thermAlert && on then alert { s with pins := { s.pins with thermAlert := true } } 0x01 []
  else if s.pins.thermAlert && off then alert { s with pins := { s.pins with thermAlert := false } } 0x01 []
  else s

/-- UNIT of a thermal trip (18 Table 18.9); Compositor A has none. -/
def sensorUnit : SensorId → Nat
  | .platen p => p
  | .compositor c => if c = 7 then 6 else 0xFF
  | .stack k => 0x10 + k

/-- The thermal trip retires the node (18 Table 18.7). -/
def trip (s : State) (x : SensorId) : State := retire s { code := 5, unit := sensorUnit x, detail := 0 }

/-- Forced at 95 °C, until 90 °C. -/
def forcedNow (was : Bool) (t : Nat) : Bool := if 95 ≤ t then true else if t ≤ 90 then false else was

/-- The reading of a sensor, and what its thresholds do at once. -/
def sense (s : State) (x : SensorId) (t : Nat) : State :=
  match x with
  | .platen p =>
    let s := modPlaten s p (fun y => { y with temp := t, meanTemp := y.meanTemp.sample s.now t })
    setLimits s p (fun l => { l with forced := forcedNow l.forced t })
  | .compositor c => modComp s c (fun y => { y with temp := t, forced := forcedNow y.forced t })
  | .stack k => stackTemp s k t

/-- A reading, what its thresholds do, THERM_ALERT_N, and the trip at 102 °C. -/
def senseStep (s : State) (sensor : SensorId) (temp : Nat) : State :=
  let s := thermAlertStep (sense s sensor temp)
  if 102 ≤ temp then trip s sensor else s

/-- THERMAL_SENSOR. -/
def execThermalSensor (sensor : SensorId) (temp : Nat) (s : State) : PowRes :=
  .next (if s.powered then senseStep s sensor temp else s)

/-- REFRESH_DOUBLE: a stack reads `temp`; above 85 °C its refresh rate doubles until 82 °C or less, and the time is counted in
milliseconds (08 R260). -/
def execRefreshDouble (stack temp : Nat) (s : State) : PowRes :=
  .next (if s.powered then senseStep s (.stack stack) temp else s)

/-- THERMAL_TRIP: 102 °C. -/
def execThermalTrip (sensor : SensorId) (s : State) : PowRes := .next (trip s sensor)

/-- The highest clock of the core groups that run on a Compositor; that of its limit where none runs. -/
def compClock (s : State) (c : Nat) : Nat :=
  match (s.groupsRunning.filter (fun g => dieOfGroup g == c)).map (groupClock s) with
  | [] => (getComp s c).thermal
  | k :: r => r.foldl max k

/-- THERMAL_LIMIT_TICK: one step down each 1 ms at 88 °C or more, one up each 10 ms at 85 °C or less. -/
def execThermalLimitTick (sensor : SensorId) (s : State) : PowRes :=
  if !s.powered then .next s
  else
    match sensor with
    | .platen p =>
      let x := getPlaten s p
      if 88 ≤ x.temp then .next (setLimits s p (fun l => { l with thermal := min l.thermal x.step - 1 }))
      else if x.temp ≤ 85 ∧ x.limits.thermal < 18 then .next (setLimits s p (fun l => { l with thermal := l.thermal + 1 }))
      else .next s
    | .compositor c =>
      let x := getComp s c
      if 88 ≤ x.temp then .next (modComp s c (fun y => { y with thermal := max 10 (min y.thermal (compClock s c) - 1) }))
      else if x.temp ≤ 85 ∧ x.thermal < 26 then .next (modComp s c (fun y => { y with thermal := y.thermal + 1 }))
      else .next s
    | .stack _ => .next s

/-! ## The input limit -/

def limitInput (on : Bool) (s : State) (p : Nat) : State := setLimits s p (fun l => { l with input := on })

/-- INPUT_UNDERVOLTAGE: the input has read below 44 V for 5 µs; every running Platen goes to 400 MHz. -/
def execInputUndervoltage (s : State) : PowRes :=
  if s.powered then
    .next ((runningPlatens s).foldl (limitInput true) { s with meter := { s.meter with inputLimit := true } })
  else .next s

/-- INPUT_LIMIT_RELEASE: it has read 45 V or more for 1 ms. -/
def execInputLimitRelease (s : State) : PowRes :=
  if s.powered && s.meter.inputLimit then
    .next ((List.range 6).foldl (limitInput false) { s with meter := { s.meter with inputLimit := false } })
  else .next s

end Sys2Proof.Machine
end

