-- ==== Sys2Proof/Machine/Startup.lean ====
section
/-! DEFINITION. Start-up and resets of the module (18 R576 to R587, 15 R515, R528): power-on, the end of start-up, loss of
supply, cold and warm resets, control cores, retirement, and the checkpoints of the journal (15 R527). -/

namespace Sys2Proof.Machine

open Sys2Proof

abbrev StRes := Host.Outcome State Fault Refusal

/-! ## Announcements of the sideband (17 R573) -/

def modSb (s : State) (f : Sideband → Sideband) : State := { s with sb := f s.sb }

/-- How the port state is coded: the spec gives no code. -/
def SbMode.code : SbMode → Nat
  | .plca => 0
  | .csmaCd => 1
  | .badId => 2
  | .noKey => 3

/-- The port's state follows its strap and the keys in force (17 R560, R566). -/
def sbModeOf (s : State) : SbMode :=
  if s.pins.sbIdAtReset < 1 ∨ s.pins.sbIdAtReset > 8 then .badId else if s.config.keys.isEmpty then .noKey else .plca

/-- BOOT: the low 32 bits of the count of cold resets since manufacture (17 R565). -/
def bootOf (s : State) : Nat := s.sec.bootCount % 2 ^ 32

/-- BOOT, SERIAL, GNID, grade and port state. -/
def announceBody (s : State) : List Byte :=
  toBytes 8 (bootOf s) ++ toBytes 8 s.sec.serial ++ toBytes 4 s.config.gnid ++ toBytes 1 s.sec.grade ++
    toBytes 1 s.sb.mode.code

/-- A retired node follows STATUS and ANNOUNCE with ALERT 0x04 (18 R597). -/
def withRecord (s : State) : State :=
  match s.sec.retirement with
  | some (t, c) => if s.phase = .retired then alert s 0x04 (retireRecord t c) else s
  | none => s

def announceNow (s : State) : State :=
  withRecord (pushNotice s { type := 3, func := 0x10, status := 0, reqSeq := 0, body := announceBody s })

/-- The Watch domain runs. -/
def State.watchOn (s : State) : Bool := s.phase != .off && s.phase != .lost

/-! ## What a reset clears (18 Table 18.4) -/

/-- A port with its mailbox, pages and configuration space at their reset values; its PERST_N is an input, and what it has
sent is sent. -/
def Port.fresh (x : Port) : Port :=
  { Port.reset with perstAsserted := x.perstAsserted, trainFail := x.trainFail, tx := x.tx }

def clearPorts (s : State) : State := { s with ports := s.ports.map (fun kv => (kv.1, kv.2.fresh)) }

/-- Platens, cores, caches, formes and mailboxes are gone; memory keeps what it holds. -/
def clearDies (s : State) : State :=
  clearPorts { powerOffDies s with formes := [], loose := [], powerCmds := [], comps := s.comps.map (fun kv =>
    (kv.1, { CompPower.reset with temp := kv.2.temp })) }

/-! ## Verification at boot (15 R515, Table 15.7) -/

/-- The image that a bank holds, where it verifies at boot. What the flash holds whole was verified under R511 when it was
installed and neither it nor the fused root changes, so it verifies again; a bank that is being programmed does not. Its
security version must be one that the fuses still accept. -/
def bankImage (s : State) (b : Nat) : Option LumizImage :=
  let busy := match s.flash.programming with
    | some (.lumiz k _) => k == b
    | _ => false
  if busy then none else (if b = 0 then s.flash.bankA else s.flash.bankB).filter (fun x => decide (s.sec.floor ≤ x.svn))

/-- The bank that starts: the preferred one, then the other. -/
def chooseBank (s : State) : Option (Nat × LumizImage) :=
  let b := s.flash.preferredBank
  match bankImage s b, bankImage s (1 - b) with
  | some i, _ => some (b, i)
  | none, some i => some (1 - b, i)
  | none, none => none

/-- The image that a slot holds, where it verifies at boot. -/
def slotImage (s : State) (k : Nat) : Option NodeConfig :=
  let busy := match s.flash.programming with
    | some (.config j _) => j == k
    | _ => false
  if busy then none else if k = 0 then s.flash.slot0 else s.flash.slot1

/-- The slot whose image comes into force. -/
def chooseSlot (s : State) : Option (Nat × NodeConfig) :=
  let k := s.flash.preferredSlot
  match slotImage s k, slotImage s (1 - k) with
  | some c, _ => some (k, c)
  | none, some c => some (1 - k, c)
  | none, none => none

/-- Steps 2 to 6 of Table 15.7: the Lumiz image and the node configuration image that verify are those of this boot, with the
values of Table 15.22 where no slot verifies; from then on the chassis keys are in force. DESIGN CHOICE: the Colophon takes the
configuration also where both Lumiz banks fail, for the ANNOUNCE that reports it needs a key (18 Table 18.2,
notes/assumptions/94.md). -/
def verifyImages (s : State) : State :=
  let c := chooseSlot s
  let s := { s with config := (c.map (·.2)).getD NodeConfig.shipped, sec := { s.sec with configSlot := c.map (·.1) } }
  let s := match chooseBank s with
    | some (b, i) => { s with sec := { s.sec with image := some i, bank := b, lumizMeasurement := i.measurement } }
    | none => { s with sec := { s.sec with image := none } }
  modSb s (fun b => { b with mode := sbModeOf s })

/-- The Watch domain at a cold reset: BOOT counts on, the sideband and the test unlock start again. -/
def coldWatch (s : State) : State :=
  let s := { s with
    sec := { s.sec with bootCount := s.sec.bootCount + 1, unlocked := false, retirement := none, failedCores := [],
                        beats := [], coldStart := true }
    pins := { s.pins with tunlkAtReset := s.pins.tunlkAsserted, sbIdAtReset := s.pins.sbId }
    sb := { Sideband.reset with txSeq := 0, tx := s.sb.tx } }
  verifyImages s


/-- Stacks at a cold reset: error rings empty, soft repairs gone until step 5; with the supply kept they are in
self-refresh until then. Training keeps a spare assignment while its byte lane still fails and frees the others (08 R274);
which still fail is a free choice, `free` being the draws of this stack. -/
def Stack.cold (free : Nat) (x : Stack) : Stack :=
  { Stack.reset with selfRefresh := true, keySet := x.keySet, repairs := x.repairs.filter (·.hard), temp := x.temp,
                     sparesUsed := x.sparesUsed.filter (fun p => Config.freeBool (free + p)) }

/-- What every cold reset does before Table 18.1 goes on at step 3. -/
def coldReset (s : State) : State :=
  let s := coldWatch (clearDies s)
  let at_ := s.free
  { s with phase := .starting, lanes := failedAtTraining (at_ + 1024) s.lanes, free := at_ + 4096, gut := Gutter.reset,
           absentRing := Ring.reset,
           ports := s.ports.map (fun kv => (kv.1, { kv.2 with trainFail := 0 })),
           stackTab := s.stackTab.map (fun kv => (kv.1, kv.2.cold (at_ + 64 * kv.1))), homeFull := [],
           mesh := { Mesh.reset with tx := s.mesh.tx } }

/-- Memory after a loss of supply, under Lumiz's new keys (15 R502, R528). -/
def loseMemory (s : State) : State :=
  let k := s.sec.nextKeys
  { s with mem := [], poison := [], errors := [], sec := { s.sec with lumizKeys := k, nextKeys := k + 1 },
           stackTab := s.stackTab.map (fun kv => (kv.1, { kv.2 with keySet := k, selfRefresh := false })) }

/-- The journal after a loss of supply resumes behind the last checkpoint in flash; before its first entry ever it starts
at 0 (R528). -/
def resumeJournal (s : State) : State :=
  let n := if s.flash.journalBegun then 4096 * (s.flash.checkpoint + 2) else 0
  let c := if s.flash.journalBegun then s.flash.checkpointChain else 0
  { s with journal := { Journal.reset with next := n, base := n, oldestUnexported := n, chain := c } }

/-- Steps 1 and 2 of Table 18.1, from no supply. Where a rail misses regulation every rail is removed, and a new attempt needs
PWR_EN de-asserted first (18 Table 18.2). The count of test unlocks begins anew (15 R518). -/
def startPower (s : State) (railsUp : Bool) : State :=
  if railsUp then
    let s := resumeJournal (loseMemory (coldReset { s with sec := { s.sec with unlocks := 0 } }))
    { s with now := 0, pins := { s.pins with pwrGood := true, fuseOpen := false, startWaits := false } }
  else { s with pins := { s.pins with pwrGood := false, startWaits := false, railsFailed := true } }

/-- The input is within the operating range, where PWR_EN is read (19 R606, Table 19.2). -/
def inRange (millivolts : Nat) : Bool := decide (44000 ≤ millivolts) && decide (millivolts ≤ 58000)

/-- A start-up begins. Whether every rail reaches regulation is open. -/
def tryPower (s : State) : State := startPower s.drawn (Config.freeBool s.free)

/-- POWER_ON: PWR_EN asserted while the module has no supply. With the input below 44 V it takes effect when the input reaches
44 V (19 R606). -/
def execPowerOn (s : State) : StRes :=
  if s.phase = .off ∧ s.pins.railsFailed = false then
    let s := { s with pins := { s.pins with pwrEn := true, startWaits := true } }
    .next (if inRange s.meter.millivolts then tryPower s else s)
  else .next { s with pins := { s.pins with pwrEn := true } }

/-! ## Loss of supply (18 R583, R594, 19 R604, R608) -/

/-- Nothing has power. An image being programmed is invalid (15 R514). -/
def supplyOff (s : State) : State :=
  let s := clearDies s
  { s with phase := .off, pins := { s.pins with pwrGood := false, thermAlert := false },
           flash := s.flash.cut, journal := { s.journal with writing := none, due := none, rows := [] },
           mesh := { Mesh.reset with tx := s.mesh.tx } }

/-- PWR_EN_DEASSERT: a loss of supply, once the pin is read (19 R606). -/
def execPwrEnDeassert (s : State) : StRes :=
  let s := { s with pins := { s.pins with pwrEn := false, startWaits := false, railsFailed := false } }
  .next (if s.phase = .off || !inRange s.meter.millivolts then s else supplyOff s)

/-- PWR_EN is read again when the input comes into range: a start-up that waited begins, and a de-assertion takes effect
(19 R606). -/
def readPwrEn (s : State) : State :=
  if !inRange s.meter.millivolts then s
  else if s.phase = .off then (if s.pins.startWaits then tryPower s else s)
  else if s.pins.pwrEn then s
  else supplyOff s

/-- POWER_METER_SAMPLE: the sample of one microsecond; ten of them above 3,400 W bring the fast limit (16 R554). -/
def execPowerMeterSample (millivolts milliamps : Nat) (s : State) : StRes :=
  if millivolts > 72000 then .fault .outsideRatings
  else
    let s := readPwrEn { s with meter := { s.meter with millivolts := millivolts } }
    .next (if s.phase == .off || s.phase == .lost then s else meterSample s millivolts milliamps)

/-- SUPPLY_LOSS: the electronic fuse opens. -/
def execSupplyLoss (s : State) : StRes :=
  if s.phase = .off then .next s else .next (supplyOff { s with pins := { s.pins with fuseOpen := true } })

/-! ## The end of start-up (18 R580, 15 Table 15.7) -/

/-- A row of the repair list, skipped where its bank has no soft resource left (08 R280). -/
def softRepair (s : State) (x : Nat × RowId) : State :=
  if hasResource (getStack s x.1) x.2 false then
    modStack s x.1 (fun y => { y with repairs := y.repairs ++ [{ row := x.2, hard := false, failed := false }] })
  else s

/-- A mesh port at the end of start-up: EDGE, or training where a configuration image is in force (14 R460, 18 R581). -/
def openMeshPort (s : State) (p : Nat) : State :=
  if (neighbour s.config s.config.node p).isNone then modMeshPort s p (fun x => { x with st := .edge })
  else modMeshPort s p (fun x => { x with st := .training })

/-- The values of the image in force, or those of 15 Table 15.22, take effect (18 Table 18.1 steps 5, 6 and 8). -/
def takeConfig (s : State) : State :=
  let s := { s with moduleCap := s.config.moduleCap, applPp := s.config.gutPp, applCp := s.config.gutCp }
  let s := s.config.repairs.foldl softRepair s
  if s.sec.configSlot.isSome then (List.range 6).foldl openMeshPort s else s

/-- Entries that the Watch domain held, and those that waited, go to the ring (16 R545). -/
def resumeWaiting (s : State) : State := journalFlush { s with journal := { s.journal with heldInIdle := 0 } }

/-- Start-up after a cold reset from an image that verifies: the journal resumes, the Gutter is trained, and the values of the
configuration image take effect. -/
def startCold (s : State) (i : LumizImage) : State :=
  let s := trainLanes (resumeWaiting (bootEntry s))
  if s.powered then
    let s := takeConfig { coldEntry (wakeStacks s) with sec := { s.sec with coldStart := false } }
    announceNow { s with phase := .running, sec := { s.sec with floor := max s.sec.floor i.floor } }
  else s

/-- STARTUP_COMPLETE: step 6 ends. Without a Lumiz image that verifies only the Watch domain runs (Table 15.7 step 3);
after a warm reset the image in force runs again. -/
def execStartupComplete (s : State) : StRes :=
  if s.phase ≠ .starting then .next s
  else if !s.sec.coldStart then .next { resumeWaiting s with phase := .running }
  else
    match s.sec.image with
    | some i => .next (startCold s i)
    | none => .next (announceNow { coldEntry s with phase := .watchOnly })

/-! ## Warm reset (18 R585) -/

/-- Every owned or waiting command completes ABORTED. -/
def abortOwned (s : State) (x : MboxId × Nat) : State :=
  let s := if (getSlot s x.1 x.2).phase = .finished then s else finish s x.1 x.2 stAborted 0 0
  completeSlot s x.1 x.2

/-- The mesh ports run on; every job is gone. -/
def Mesh.warm (m : Mesh) : Mesh := { m with jobs := [], sent := [], waiting := [], due := [] }

/-- A warm reset after its journal entry; commands are completed where a control core still runs Lumiz. -/
def warmReset (s : State) (lumiz : Bool) : State :=
  let s := if lumiz then (ownedSlots s).foldl abortOwned s else s
  let temps := s.platens
  let s := clearDies (idleHostPorts (wakeStacks s))
  { s with phase := .starting, mesh := s.mesh.warm,
           platens := s.platens.map (fun kv => (kv.1, { kv.2 with temp := (mapGetD temps PlatenPower.reset kv.1).temp })),
           sec := { s.sec with failedCores := [], beats := [] },
           sb := { s.sb with queue := [], resetAsked := [] } }

/-- The module reset asked for: warm before start-up is complete is performed as cold (18 Table 18.10). -/
def moduleReset (s : State) (kind : Nat) (lumiz : Bool) : State :=
  if kind = 2 ∧ s.phase = .running then warmReset s lumiz else coldReset s

/-- The entry of a module reset (15 Table 15.11). -/
def resetEntry (s : State) (o : JOrigin) : State :=
  let d := openDigest s
  journalWrite d.1 (jEntry o 0x0E 0xFF 2 0 d.2)

/-! ## Control cores (18 R583, R593) -/

/-- CONTROL_CORE_HEARTBEAT. -/
def execControlCoreHeartbeat (core : Nat) (s : State) : StRes :=
  if s.powered && !s.sec.failedCores.contains core then
    .next { s with sec := { s.sec with beats := mapSet s.sec.beats core s.now } }
  else .next s

/-- WATCHDOG_TIMEOUT: no core has written a heartbeat for 100 ms; a warm reset with origin firmware, in which nobody
completes a command. -/
def execWatchdogTimeout (s : State) : StRes :=
  if s.powered then .next (moduleReset (resetEntry s JOrigin.firmware) 2 false) else .next s

/-- CONTROL_CORE_TAKEOVER: a sibling goes on with the commands of a failed core from the step logged last, so that no
effect is made twice; one entry records it. -/
def execControlCoreTakeover (core : Nat) (s : State) : StRes :=
  if s.up && !s.sec.failedCores.contains core && decide (s.sec.failedCores.length < 7) then
    let s := resetEntry s JOrigin.firmware
    .next { s with sec := { s.sec with failedCores := core :: s.sec.failedCores } }
  else .next s

/-- CONTROL_CORE_REJOIN. -/
def execControlCoreRejoin (core : Nat) (s : State) : StRes :=
  .next { s with sec := { s.sec with failedCores := s.sec.failedCores.filter (· ≠ core) } }

/-! ## Retirement (18 R594, R598) -/

/-- RETIREMENT: a fault of 18 Table 18.7. -/
def execRetirement (cause : RetireCause) (s : State) : StRes := .next (retire s cause)

/-- COMPOSITOR_A_LOSS. -/
def execCompositorALoss (s : State) : StRes := .next (loseCompositorA s)

/-! ## Checkpoints (15 R527) -/

/-- The 48 bytes that a checkpoint signs. -/
def checkpointBytes (s : State) (k chain : Nat) : List Byte :=
  toBytes 8 s.sec.serial ++ toBytes 8 (4096 * k - 1) ++ toBytes 32 chain

/-- One of the twelve pieces of a signature. -/
def checkpointPiece (k : Nat) (sig : List Byte) (s : State) (j : Nat) : State :=
  let half (o : Nat) : Nat := ofBytes ((sig.drop (32 * j + o)).take 16)
  journalWrite s { jEntry JOrigin.firmware 0x0F k 4 (half 0) (half 16) with piece := j }

/-- JOURNAL_CHECKPOINT: the Colophon signs the chain value behind entry 4,096k − 1. -/
def execJournalCheckpoint (s : State) : StRes :=
  match s.journal.due, s.journal.writing with
  | some (k, chain), none =>
    if s.watchOn then
      let sig := Config.identitySign (checkpointBytes s k chain) s.free
      let s := { s.drawn with journal := { s.journal with due := none, writing := some (k, chain) } }
      .next ((List.range 12).foldl (checkpointPiece k (fitBytes 384 sig)) s)
    else .next s
  | _, _ => .next s

/-- CHECKPOINT_FLASH_WRITTEN: what waited for it is written. -/
def execCheckpointFlashWritten (s : State) : StRes :=
  match s.journal.writing with
  | some (k, chain) =>
    if s.watchOn then
      .next (journalFlush { s with flash := { s.flash with checkpoint := k, checkpointChain := chain },
                                   journal := { s.journal with writing := none } })
    else .next s
  | none => .next s

end Sys2Proof.Machine
end

