-- ==== Sys2Proof/Machine/Sideband.lean ====
section
/-! DEFINITION. The management sideband (17): frames received and their checks, the functions of 17 Table 17.4, snapshots,
and what the node sends under PLCA and CSMA/CD. -/

namespace Sys2Proof.Machine

open Sys2Proof

abbrev SbRes := Host.Outcome State Fault Refusal

/-! ## Headers and tags (17 R563, R564, Table 17.2) -/

/-- The 32 bytes of a header. -/
def sbHeader (keyGen src dst type func status len seq reqSeq : Nat) : List Byte :=
  toBytes 32 (packFields
    [(8, 1), (56, 0), (8, keyGen), (4, src), (4, dst), (8, type), (8, func), (16, status), (16, len), (64, seq), (64, reqSeq)])

def sbTag (key : Nat) (bytes : List Byte) : List Byte := hmacSha256 (toBytes 32 key) bytes

def frameHeader (f : SbFrame) : List Byte :=
  toBytes 32 (packFields
    [(8, f.version), (56, f.reserved), (8, f.keyGen), (4, f.src), (4, f.dst), (8, f.type), (8, f.func), (16, f.status),
     (16, f.len), (64, f.seq), (64, f.reqSeq)])

/-- The key of the generation that a frame names. -/
def keyOfGen (s : State) (g : Nat) : Option Nat := (s.config.keys.find? (fun k => k.1 == g)).map (·.2)

def tagGood (s : State) (f : SbFrame) : Bool :=
  match keyOfGen s f.keyGen with
  | some k => f.tag == sbTag k (frameHeader f ++ f.body)
  | none => false

/-! ## Receiving (17 Table 17.3) -/

def count (s : State) (f : SbCounters → SbCounters) : State := modSb s (fun b => { b with counters := f b.counters })

def sat32 (n : Nat) : Nat := satAdd (2 ^ 32 - 1) n 1

/-- Check 4. -/
def malformed (f : SbFrame) : Bool :=
  f.version != 1 || f.len != f.body.length || decide (f.len > 1088) || f.reserved != 0 || f.type != 1 || f.src != 0

/-- Check 6 fails (17 R565). -/
def staleSeq (s : State) (f : SbFrame) : Bool :=
  f.seq / 2 ^ 32 != bootOf s || decide (f.seq % 2 ^ 32 ≤ s.sb.mark)

/-- The code of STALE_SEQ, to which the spec gives no number: one of those for commands that had no effect which no table uses
(12 R404, 17 R569; notes/assumptions/83.md DESIGN CHOICE). -/
def stStaleSeq : Nat := 0x0122 + Config.staleStatus % 0xDE

/-- The one response to a stale request in any 100 ms (17 R568). -/
def answerStale (s : State) (f : SbFrame) : State :=
  let due := match s.sb.staleAt with
    | none => true
    | some t => decide (t + 100000000 ≤ s.now)
  if due then
    let body := toBytes 8 (bootOf s) ++ toBytes 8 s.sb.mark
    let o : SbOut := { type := 2, func := f.func, status := stStaleSeq, reqSeq := f.seq, body := body }
    pushNotice (modSb s (fun b => { b with staleAt := some s.now })) o
  else s

def acceptFrame (s : State) (f : SbFrame) : State :=
  let s := count s (fun c => { c with accepted := sat32 c.accepted })
  modSb s (fun b => { b with mark := f.seq % 2 ^ 32, queue := b.queue ++ [{ func := f.func, seq := f.seq, body := f.body }] })

/-- SB_FRAME_RECEIVE: the first check that fails decides the counter. A port in BADID has no identifier that a frame could
name. -/
def execSbFrameReceive (f : SbFrame) (s : State) : SbRes :=
  if !s.watchOn then .next s
  else if !f.fcsOk then .next (count s (fun c => { c with fcsErr := sat32 c.fcsErr }))
  else if f.etherType ≠ 0x88B5 then .next (count s (fun c => { c with notOurs := sat32 c.notOurs }))
  else if f.dst ≠ s.pins.sbIdAtReset ∨ s.sb.mode = .badId then .next (count s (fun c => { c with dstOther := sat32 c.dstOther }))
  else if s.sb.mode = .noKey then .next (count s (fun c => { c with badTag := sat32 c.badTag }))
  else if malformed f then .next (count s (fun c => { c with malformed := sat32 c.malformed }))
  else if !tagGood s f then .next (count s (fun c => { c with badTag := sat32 c.badTag }))
  else if staleSeq s f then .next (answerStale (count s (fun c => { c with staleSeq := sat32 c.staleSeq })) f)
  else if s.sb.queue.length ≥ 4 then .next (count s (fun c => { c with overrun := sat32 c.overrun }))
  else .next (acceptFrame s f)

/-! ## Serving (17 R569) -/

def stNotReady : Nat := 0x0120
def stExpired : Nat := 0x0121

/-- The request at the head of the queue, where its function is the row's. -/
def asked (s : State) (test : SbReq → Bool) : Option SbReq :=
  if s.watchOn then
    match s.sb.queue with
    | r :: _ => if test r then some r else none
    | [] => none
  else none

/-- The head request is answered. -/
def respond (s : State) (r : SbReq) (status : Nat) (body : List Byte) : State :=
  pushNotice (modSb s (fun b => { b with queue := b.queue.drop 1 }))
    { type := 2, func := r.func, status := status, reqSeq := r.seq, body := body }

/-- Answers the first check that fails, or goes on. -/
def sbChecked (s : State) (r : SbReq) (cs : List (Bool × Nat)) (go : State) : State :=
  match cs.find? (·.1) with
  | some c => respond s r c.2 []
  | none => go

def bodyNat (r : SbReq) (o n : Nat) : Nat := ofBytes ((r.body.drop o).take n)

/-- A change that the journal holds up waits; in module idle it wakes the module first (16 R545). -/
def sbHeld (s : State) : State := wakeModule s

/-- The function needs Lumiz, which does not run. -/
def notReady (s : State) : Bool × Nat := (!s.up, stNotReady)

def sbFull (s : State) : Bool × Nat := (s.journal.full, stJournalFull)

def knownFunc (f : Nat) : Bool := decide (1 ≤ f) && decide (f ≤ 6)

/-- Table 17.5 as 32-bit values. -/
def sbCounterBytes (s : State) : List Byte :=
  let c := s.sb.counters
  ([c.fcsErr, c.notOurs, c.dstOther, c.malformed, c.badTag, c.staleSeq, c.overrun, c.accepted, c.txFrames, c.collisions,
    c.excessColl, c.plcaLost] ++ (List.range 4).map (fun p => (getPort s p).trainFail)).flatMap (toBytes 4)

/-- Exact input power in milliwatts. -/
def inputPower (s : State) : Nat := s.meter.millivolts * s.meter.milliamps / 1000

def statusBody (s : State) : List Byte :=
  sbCounterBytes s ++ toBytes 1 s.sb.mode.code ++ toBytes 8 (bootOf s) ++ toBytes 8 s.sec.serial ++
    toBytes 4 s.config.gnid ++ toBytes 1 s.sec.grade ++ toBytes 1 (boolBit s.sec.unlocked) ++
    toBytes 1 (boolBit (!s.pins.thermAlert)) ++ toBytes 4 (inputPower s)

/-- SB_STATUS: STATUS, and a request whose function is none of 17 Table 17.4. -/
def execSbStatus (s : State) : SbRes :=
  match asked s (fun r => r.func == 1 || !knownFunc r.func) with
  | none => .next s
  | some r =>
    if r.func = 1 then
      .next (sbChecked s r [(!r.body.isEmpty, stBadField)] (withRecord (respond s r stOk (statusBody s))))
    else .next (respond s r stBadOpcode [])

/-- The fields of the POWER_STATE that a sideband request stands for (12 R418). -/
def sbPowerFields (p st : Nat) : Nat := 1 + p * 2 ^ 4 + st * 2 ^ 12

/-- A sideband origin, with the forme of the object where it has one. -/
def sbOrigin (f : Option Nat) : JOrigin :=
  match f with
  | some f => JOrigin.sideband.about f
  | none => JOrigin.sideband

/-- SB_POWER_STATE: in module idle the rest state is recorded and no Platen wakes (17 R574). -/
def execSbPowerState (s : State) : SbRes :=
  match asked s (fun r => r.func == 2) with
  | none => .next s
  | some r =>
    let p := bodyNat r 0 1
    let st := bodyNat r 1 1
    let cs := [notReady s, (r.body.length != 2 || decide (p > 5), stBadField), (decide (st > 3) && st != 8, stBadField), sbFull s]
    if cs.all (fun c => !c.1) && journalHeld s then .next (sbHeld s)
    else
      let go :=
        let s := journalPower s (sbOrigin (formeOfPlaten s p)) (sbPowerFields p st)
        let s := if s.moduleIdle then setPower s p (fun x => { x with rest := st }) else applyRest s p st
        respond s r stOk []
      .next (sbChecked s r cs go)

/-- SB_CAP_SET: SCOPE 4 is the module, 0 to 3 a forme. -/
def execSbCapSet (s : State) : SbRes :=
  match asked s (fun r => r.func == 3) with
  | none => .next s
  | some r =>
    let w := bodyNat r 0 2
    let sc := bodyNat r 2 1
    let f := if sc = 4 then none else some sc
    let cs := [notReady s, (r.body.length != 3 || w == 0, stBadField), (decide (sc > 4) || wattsBad (sc == 4) w, stBadField),
      (f.any (fun f => (getForme s f).isNone), stNoForme), sbFull s]
    if cs.all (fun c => !c.1) && journalHeld s then .next (sbHeld s)
    else .next (sbChecked s r cs (respond (applyCap s (sbOrigin f) f w) r stOk []))

/-! ## Telemetry (17 R570, R571) -/

def addCounters (a b : Counters) : Counters := b.foldl (fun m kv => ctrAdd m kv.1 kv.2) a

/-- A reader that stands for the whole module: the sum of every forme's counters and of those of what no forme did, over the
Platens given. -/
def wholeForme (s : State) (platens : List Nat) : Forme :=
  { platens := platens, groups := [], ports := [], faultHold := 0, faultVec := 0, faultHart := 0, faultIdent := 0,
    keySet := 0, reroutes := [], ranges := [], faults := [], nextFaultId := 0, plate := none, loading := none, passes := [],
    cap := (s.formes.map (·.2.cap)).foldl (· + ·) 0,
    counters := s.formes.foldl (fun m kv => addCounters m kv.2.counters) s.loose,
    coreMbox := Mailbox.reset, capRaised := 0, destroying := false, orphans := [], created := 0 }

def heldPlatens (s : State) : List Nat := s.formes.flatMap (fun kv => kv.2.platens)

/-- An open value of a group that only the sideband has. -/
def openValue (s : State) (i : Nat) : Nat := Config.clockCount (16 + i) s.free % 2 ^ 64

/-- Average input power of the last millisecond. -/
def powerLastMs (s : State) : Nat :=
  let n := s.meter.samples.length
  if n = 0 then 0 else s.meter.samples.foldl (· + ·) 0 / n

/-- Busy clocks of a link, direction and role: what it has carried, on the lane groups of that role (01 R28). -/
def linkBusy (s : State) (i : Nat) : Nat :=
  ceilDiv (mapGetD s.gut.carried 0 i) (roleGroups s (i / 4) (i % 2 == 1) * Config.gutGroupBytes)

/-- Group 8: busy clocks of the nineteen Gutter links by direction and role, of the mesh ports by class, input power, then
power and temperature of each Platen and each stack. The mesh's clock counts and the powers of parts are open. -/
def groupEight (s : State) : List Byte :=
  words64 ((List.range 76).map (linkBusy s) ++ (List.range 12).map (fun i => openValue s (72 + i)) ++ [powerLastMs s] ++
    (List.range 6).flatMap (fun p => [openValue s (84 + p), (getPlaten s p).temp]) ++
    (List.range 12).flatMap (fun k => [openValue s (90 + k), (getStack s k).temp]))

/-- The records of the absent ring follow those of the twelve stacks (08 R276). -/
def absentRecords (s : State) : List Byte := toBytes 8 s.absentRing.overwritten ++ s.absentRing.recs.reverse.flatMap MemRec.pack

/-- The values of a group for the whole module. -/
def wholeValues (s : State) (g : Nat) : List Byte :=
  let f := wholeForme s (heldPlatens s)
  if g = 3 then groupValues s (wholeForme s (List.range 6)) 3 ++ absentRecords s
  else if g = 6 then words64 (telPower s f ++ platenRecords s (wholeForme s (List.range 6)))
  else if g = 8 then groupEight s
  else groupValues s f g

/-- A group for the whole module, with its header (12 R420). -/
def wholeGroup (s : State) (g : Nat) : List Byte :=
  let v := wholeValues s g
  groupHeader s g v.length ++ v

/-- The state with every wait of every stick counted up to now (06 R208). -/
def waitsCounted (s : State) : State := (s.formes.map (·.1)).foldl countAllWaits s

def snapshotBody (snap : List Byte) (o : Nat) : List Byte := toBytes 4 snap.length ++ (snap.drop o).take 1024

/-- The function reads records that the homes keep. -/
def needsHomes (g : Nat) : Bool := g == 3

/-- SB_TELEMETRY: OFFSET 0 takes a snapshot, others read the one kept. -/
def execSbTelemetry (s : State) : SbRes :=
  match asked s (fun r => r.func == 4) with
  | none => .next s
  | some r =>
    let g := bodyNat r 0 1
    let o := bodyNat r 1 4
    let cs := [notReady s, (r.body.length != 5 || decide (g > 8), stBadField)]
    if cs.all (fun c => !c.1) && o = 0 then
      if s.moduleIdle && needsHomes g then .next (wakeModule s)
      else
        let snap := wholeGroup (waitsCounted s) g
        let s := modSb s.drawn (fun b => { b with snapshots := mapSet b.snapshots g snap })
        .next (respond s r stOk (snapshotBody snap 0))
    else
      match mapGet s.sb.snapshots g with
      | none => .next (respond s r ((cs.find? (·.1)).map (·.2) |>.getD stExpired) [])
      | some snap => .next (sbChecked s r (cs ++ [(decide (o ≥ snap.length), stBadField)]) (respond s r stOk (snapshotBody snap o)))

/-- SNAPSHOT_EXPIRY: the second is over. -/
def execSnapshotExpiry (group : Nat) (s : State) : SbRes :=
  .next (modSb s (fun b => { b with snapshots := mapDel b.snapshots group }))

/-! ## Journal (17 R569, 15 R530) -/

/-- FIRST, N, newest and oldest unexported, then the entries. -/
def sbJournalBody (s : State) (es : List JEntry) (start : Nat) : List Byte :=
  toBytes 8 ((es.head?.map (·.number)).getD start) ++ toBytes 8 es.length ++ toBytes 8 (s.journal.next - 1) ++
    toBytes 8 s.journal.oldestUnexported ++ es.flatMap JEntry.pack

/-- SB_JOURNAL: it reads the ring, so it wakes the module first. -/
def execSbJournal (s : State) : SbRes :=
  match asked s (fun r => r.func == 5) with
  | none => .next s
  | some r =>
    let start := bodyNat r 0 8
    let n := bodyNat r 8 1
    let x := bodyNat r 9 1
    let cs := [notReady s, (r.body.length != 10 || decide (n > 16) || decide (x > 1), stBadField),
      (x == 1 && start != s.journal.oldestUnexported, stBadField)]
    if cs.all (fun c => !c.1) && (s.moduleIdle || x == 1 && journalHeld s) then .next (sbHeld s)
    else
      let es := journalFrom s start n
      let go := if x = 1 then markExported s JOrigin.sideband es start else s
      if s.up && r.body.length == 10 && n == 0 then .next (respond s r stOkEmpty (sbJournalBody s [] start))
      else .next (sbChecked s r cs (respond go r stOk (sbJournalBody go es start)))

/-! ## Resets (17 R572, R575) -/

def resetKindOf (r : SbReq) : Nat := bodyNat r 0 1

/-- A request for a reset of one kind; one of no kind is answered by the forme reset's row. -/
def asksReset (kind : Nat) (r : SbReq) : Bool :=
  r.func == 6 && (resetKindOf r == kind || (kind == 3 && (resetKindOf r == 0 || decide (resetKindOf r > 3))))

/-- The wider kind takes effect: a narrower reset asked for is dropped. -/
def askReset (s : State) (kind f : Nat) : State :=
  modSb s (fun b =>
    if b.resetAsked.any (fun x => decide (x.1 < kind) && decide (kind ≤ 3) && decide (x.1 < 3)) then b
    else
      { b with resetAsked := b.resetAsked.filter (fun x =>
          (decide (x.1 ≤ kind) || decide (3 ≤ kind)) && x != (kind, f)) ++ [(kind, f)] })

/-- The response to a RESET has left the node. -/
def resetAnswered (s : State) : Bool := !s.sb.out.any (fun o => o.type == 2 && o.func == 6)

/-- A reset was accepted and may begin. -/
def resetBegins (s : State) (kind : Nat) : Option Nat :=
  if s.watchOn && resetAnswered s then (s.sb.resetAsked.find? (fun x => x.1 == kind)).map (·.2) else none

def dropAsked (s : State) (kind f : Nat) : State :=
  modSb s (fun b => { b with resetAsked := b.resetAsked.filter (fun x => x != (kind, f)) })

/-- Accepts a module reset: the entry, the response, and the reset asked for. -/
def acceptReset (s : State) (r : SbReq) (kind : Nat) (cs : List (Bool × Nat)) : State :=
  if cs.all (fun c => !c.1) && journalHeld s then sbHeld s
  else sbChecked s r cs (askReset (respond (resetEntry s JOrigin.sideband) r stOk []) kind 0)

/-- SB_COLD_RESET: accepts a RESET of KIND 0x1, and performs it once its response has been sent. -/
def execSbColdReset (s : State) : SbRes :=
  match asked s (asksReset 1), resetBegins s 1 with
  | some r, _ => .next (acceptReset s r 1 [(r.body.length != 2, stBadField), sbFull s])
  | none, some _ => .next (coldReset s)
  | none, none => .next s

/-- SB_WARM_RESET: the same for KIND 0x2, which a node without Lumiz does not take but for one that starts up
(18 Table 18.10). -/
def execSbWarmReset (s : State) : SbRes :=
  match asked s (asksReset 2), resetBegins s 2 with
  | some r, _ =>
    .next (acceptReset s r 2 [(!s.powered, stNotReady), (r.body.length != 2, stBadField), sbFull s])
  | none, some _ => .next (moduleReset s 2 true)
  | none, none => .next s

/-- A forme reset from the sideband goes on once nothing of the forme runs to completion any more. -/
def sbFormeStep (s : State) (f : Nat) : State :=
  resetSteps s f noSlot (fun s => dropAsked s 4 f)

/-- Every forme reset of the sideband that has begun. -/
def sbFormeSteps (s : State) : State :=
  s.sb.resetAsked.foldl (fun s x => if x.1 = 4 then sbFormeStep s x.2 else s) s

/-- SB_FORME_RESET: KIND 0x3, and a KIND that is none. -/
def execSbFormeReset (s : State) : SbRes :=
  match asked s (asksReset 3), resetBegins s 3 with
  | some r, _ =>
    let f := bodyNat r 1 1
    let cs := [notReady s, (r.body.length != 2 || resetKindOf r != 3, stBadField), ((getForme s f).isNone, stNoForme), sbFull s]
    if cs.all (fun c => !c.1) && journalHeld s then .next (sbHeld s)
    else
      let go :=
        let d := openDigest s
        let s := journalWrite d.1 (jEntry (JOrigin.sideband.about f) 0x0E f 2 0 d.2)
        askReset (respond s r stOk []) 3 f
      .next (sbChecked s r cs go)
  | none, some f =>
    let s := sbFormeSteps s
    if resetRuns s f noSlot || (getForme s f).any (·.destroying) then .next s
    else .next (sbFormeStep (abortForme (askReset (dropAsked s 3 f) 4 f) f noSlot) f)
  | none, none => .next (sbFormeSteps s)

/-! ## Sending (17 R562, R563, R565) -/

/-- The newer of the keys in force signs (17 R566). -/
def signKey (s : State) : Option (Nat × Nat) :=
  s.config.keys.foldl (fun b k => match b with
    | none => some k
    | some x => if x.1 < k.1 then some k else some x) none

/-- The MAC address of a member of the segment, 02-0D-60-00-00-0n (17 R563). -/
def sbMac (n : Nat) : Nat := 0x020D60000000 + n

/-- Sends the message at the head. -/
def sendHead (s : State) (o : SbOut) : State :=
  match signKey s with
  | none => s
  | some (g, k) =>
    let n := s.sb.txSeq + 1
    let seq := bootOf s * 2 ^ 32 + n % 2 ^ 32
    let id := s.pins.sbIdAtReset
    let h := sbHeader g id 0 o.type o.func o.status o.body.length seq o.reqSeq
    let s := count s (fun c => { c with txFrames := sat32 c.txFrames })
    let sent := { dstMac := sbMac 0, srcMac := sbMac id, etherType := 0x88B5, keyGen := g, src := id, dst := 0, seq := seq, msg := o,
                  tag := sbTag k (h ++ o.body) }
    modSb s (fun b => { b with out := b.out.drop 1, txSeq := n, attempts := 0, tx := b.tx ++ [sent] })

/-- TRANSMIT_OPPORTUNITY: one frame; under CSMA/CD a transmission without a collision. -/
def execTransmitOpportunity (s : State) : SbRes :=
  let can := s.watchOn && (s.sb.mode == .plca || s.sb.mode == .csmaCd && !s.sb.backingOff)
  match can, s.sb.out with
  | true, o :: _ => .next (sendHead s o)
  | _, _ => .next s

/-- INVALID_BEACON_TIMEOUT: from PLCA to CSMA/CD. -/
def execInvalidBeaconTimeout (s : State) : SbRes :=
  if s.watchOn && s.sb.mode == .plca then
    let s := count s (fun c => { c with plcaLost := sat32 c.plcaLost })
    .next (modSb s (fun b => { b with mode := .csmaCd }))
  else .next s

/-- BEACON_RECEIVED: back to PLCA. -/
def execBeaconReceived (s : State) : SbRes :=
  if s.watchOn && s.sb.mode == .csmaCd then
    .next (modSb s (fun b => { b with mode := .plca, attempts := 0, backingOff := false }))
  else .next s

/-- COLLISION: the frame waits for its backoff, or is dropped after 16 attempts. -/
def execCollision (s : State) : SbRes :=
  if s.watchOn && s.sb.mode == .csmaCd && !s.sb.backingOff && !s.sb.out.isEmpty then
    let s := count s (fun c => { c with collisions := sat32 c.collisions })
    if s.sb.attempts + 1 ≥ 16 then
      let s := count s (fun c => { c with excessColl := sat32 c.excessColl })
      .next (modSb s (fun b => { b with out := b.out.drop 1, attempts := 0 }))
    else .next (modSb s (fun b => { b with attempts := b.attempts + 1, backingOff := true }))
  else .next s

/-- CSMA_CD_BACKOFF_EXPIRY: the frame may be tried again. -/
def execCsmaCdBackoffExpiry (s : State) : SbRes := .next (modSb s (fun b => { b with backingOff := false }))

/-- ANNOUNCE: every 10 s. -/
def execAnnounce (s : State) : SbRes := if s.watchOn then .next (announceNow s) else .next s

end Sys2Proof.Machine
end

