-- ==== Sys2Proof/Machine/Dispatch.lean ====
section
/-! DEFINITION. The meaning of each command: one arm per row of spec/opcode_table.json. -/

namespace Sys2Proof.Machine

open Sys2Proof

/-- The effect of a command on everything but the queue. -/
def exec (i : Instr) (s : State) : Host.Outcome State Fault Refusal :=
  match i with
  | .slotWrite mb req off data => Sys2Proof.Machine.execSlotWrite mb req off data s
  | .registerWrite port req off data => Sys2Proof.Machine.execRegisterWrite port req off data s
  | .slotTake => Sys2Proof.Machine.execSlotTake s
  | .afterRelease mb slot => Sys2Proof.Machine.execAfterRelease mb slot s
  | .holdRelease mb slot => Sys2Proof.Machine.execHoldRelease mb slot s
  | .slotComplete mb slot => Sys2Proof.Machine.execSlotComplete mb slot s
  | .identify mb slot => Sys2Proof.Machine.execIdentify mb slot s
  | .attest mb slot => Sys2Proof.Machine.execAttest mb slot s
  | .formeCreate mb slot => Sys2Proof.Machine.execFormeCreate mb slot s
  | .formeDestroy mb slot => Sys2Proof.Machine.execFormeDestroy mb slot s
  | .mapRange mb slot => Sys2Proof.Machine.execMapRange mb slot s
  | .unmapRange mb slot => Sys2Proof.Machine.execUnmapRange mb slot s
  | .copy mb slot budget => Sys2Proof.Machine.execCopy mb slot budget s
  | .fill mb slot budget => Sys2Proof.Machine.execFill mb slot budget s
  | .zero mb slot budget => Sys2Proof.Machine.execZero mb slot budget s
  | .plateLoad mb slot => Sys2Proof.Machine.execPlateLoad mb slot s
  | .imageInstall mb slot => Sys2Proof.Machine.execImageInstall mb slot s
  | .plateSeal mb slot => Sys2Proof.Machine.execPlateSeal mb slot s
  | .passLaunch mb slot => Sys2Proof.Machine.execPassLaunch mb slot s
  | .passStatus mb slot => Sys2Proof.Machine.execPassStatus mb slot s
  | .setPolicy mb slot => Sys2Proof.Machine.execSetPolicy mb slot s
  | .powerState mb slot => Sys2Proof.Machine.execPowerState mb slot s
  | .coreGroupStart mb slot => Sys2Proof.Machine.execCoreGroupStart mb slot s
  | .coreGroupStop mb slot => Sys2Proof.Machine.execCoreGroupStop mb slot s
  | .capSet mb slot => Sys2Proof.Machine.execCapSet mb slot s
  | .telemetry mb slot => Sys2Proof.Machine.execTelemetry mb slot s
  | .journalRead mb slot => Sys2Proof.Machine.execJournalRead mb slot s
  | .journalExport mb slot => Sys2Proof.Machine.execJournalExport mb slot s
  | .meshJobSetup mb slot => Sys2Proof.Machine.execMeshJobSetup mb slot s
  | .meshJobRelease mb slot => Sys2Proof.Machine.execMeshJobRelease mb slot s
  | .passAbort mb slot => Sys2Proof.Machine.execPassAbort mb slot s
  | .formeReset mb slot => Sys2Proof.Machine.execFormeReset mb slot s
  | .recoveryRead mb slot => Sys2Proof.Machine.execRecoveryRead mb slot s
  | .hotReset port => Sys2Proof.Machine.execHotReset port s
  | .functionLevelReset port => Sys2Proof.Machine.execFunctionLevelReset port s
  | .linkDown port => Sys2Proof.Machine.execLinkDown port s
  | .perstNAssert port => Sys2Proof.Machine.execPerstNAssert port s
  | .linkRetrain port => Sys2Proof.Machine.execLinkRetrain port s
  | .d3hotEntry port toD0 => Sys2Proof.Machine.execD3hotEntry port toD0 s
  | .pcieTrainAttempt port ends => Sys2Proof.Machine.execPcieTrainAttempt port ends s
  | .memorySpaceEnable port rid => Sys2Proof.Machine.execMemorySpaceEnable port rid s
  | .busMasterEnableWrite port value => Sys2Proof.Machine.execBusMasterEnableWrite port value s
  | .apertureRead port req off len => Sys2Proof.Machine.execApertureRead port req off len s
  | .apertureWrite port req off data tph poisoned => Sys2Proof.Machine.execApertureWrite port req off data tph poisoned s
  | .apertureAtomic port req off size op operand compare => Sys2Proof.Machine.execApertureAtomic port req off size op operand compare s
  | .hostReadTimeout port tag => Sys2Proof.Machine.execHostReadTimeout port tag s
  | .stickStart platen galley => Sys2Proof.Machine.execStickStart platen galley s
  | .sortArithmetic at_ op dst a b => Sys2Proof.Machine.execSortArithmetic at_ op dst a b s
  | .branch at_ pred target join => Sys2Proof.Machine.execBranch at_ pred target join s
  | .exit at_ => Sys2Proof.Machine.execExit at_ s
  | .readSpecial at_ dst sp => Sys2Proof.Machine.execReadSpecial at_ dst sp s
  | .xchAt at_ dst v r p => Sys2Proof.Machine.execXchAt at_ dst v r p s
  | .xchRotW at_ dst v d p => Sys2Proof.Machine.execXchRotW at_ dst v d p s
  | .xchRotC at_ dst v d p => Sys2Proof.Machine.execXchRotC at_ dst v d p s
  | .xchFlip at_ dst v m p => Sys2Proof.Machine.execXchFlip at_ dst v m p s
  | .xchLow at_ dst v p => Sys2Proof.Machine.execXchLow at_ dst v p s
  | .tallySome at_ dst p => Sys2Proof.Machine.execTallySome at_ dst p s
  | .tallyEvery at_ dst p => Sys2Proof.Machine.execTallyEvery at_ dst p s
  | .tallyMask at_ dst p => Sys2Proof.Machine.execTallyMask at_ dst p s
  | .tallyCount at_ dst p => Sys2Proof.Machine.execTallyCount at_ dst p s
  | .tallySame at_ dst v => Sys2Proof.Machine.execTallySame at_ dst v s
  | .tallyLive at_ dst => Sys2Proof.Machine.execTallyLive at_ dst s
  | .sortLoad at_ isLocal size dst areg ord => Sys2Proof.Machine.execSortLoad at_ isLocal size dst areg ord s
  | .sortStore at_ isLocal size src areg ord => Sys2Proof.Machine.execSortStore at_ isLocal size src areg ord s
  | .sortAtomic at_ isLocal op size dst areg oreg creg ord => Sys2Proof.Machine.execSortAtomic at_ isLocal op size dst areg oreg creg ord s
  | .zline at_ areg => Sys2Proof.Machine.execZline at_ areg s
  | .fenceAcq at_ => Sys2Proof.Machine.execFenceAcq at_ s
  | .fenceRel at_ => Sys2Proof.Machine.execFenceRel at_ s
  | .fenceAr at_ => Sys2Proof.Machine.execFenceAr at_ s
  | .trap at_ => Sys2Proof.Machine.execTrap at_ s
  | .lockAcq at_ isLocal dst areg => Sys2Proof.Machine.execLockAcq at_ isLocal dst areg s
  | .lockTry at_ isLocal dst areg => Sys2Proof.Machine.execLockTry at_ isLocal dst areg s
  | .lockRetry platen galley stick slug => Sys2Proof.Machine.execLockRetry platen galley stick slug s
  | .lockTimeout platen galley stick slug => Sys2Proof.Machine.execLockTimeout platen galley stick slug s
  | .lockRel at_ isLocal areg => Sys2Proof.Machine.execLockRel at_ isLocal areg s
  | .meetWait at_ b c => Sys2Proof.Machine.execMeetWait at_ b c s
  | .meetMark at_ b c => Sys2Proof.Machine.execMeetMark at_ b c s
  | .barrierStranded platen galley stick b => Sys2Proof.Machine.execBarrierStranded platen galley stick b s
  | .tile at_ areg dst => Sys2Proof.Machine.execTile at_ areg dst s
  | .tileLoad op => Sys2Proof.Machine.execTileLoad op s
  | .tileStore op => Sys2Proof.Machine.execTileStore op s
  | .tileOpen op => Sys2Proof.Machine.execTileOpen op s
  | .tileMma op => Sys2Proof.Machine.execTileMma op s
  | .tileMmaS op => Sys2Proof.Machine.execTileMmaS op s
  | .tileOut op => Sys2Proof.Machine.execTileOut op s
  | .pressStageStart op => Sys2Proof.Machine.execPressStageStart op s
  | .brayerChain op => Sys2Proof.Machine.execBrayerChain op s
  | .slice op => Sys2Proof.Machine.execSlice op s
  | .spread op => Sys2Proof.Machine.execSpread op s
  | .update op => Sys2Proof.Machine.execUpdate op s
  | .tileReadDone op => Sys2Proof.Machine.execTileReadDone op s
  | .tileDone op => Sys2Proof.Machine.execTileDone op s
  | .twaitRd at_ treg => Sys2Proof.Machine.execTwaitRd at_ treg s
  | .twaitDone at_ treg => Sys2Proof.Machine.execTwaitDone at_ treg s
  | .stickEnd platen galley stick => Sys2Proof.Machine.execStickEnd platen galley stick s
  | .attemptEnd forme seq => Sys2Proof.Machine.execAttemptEnd forme seq s
  | .swapComplete forme seq => Sys2Proof.Machine.execSwapComplete forme seq s
  | .rangeWalk forme eng va => Sys2Proof.Machine.execRangeWalk forme eng va s
  | .faultHoldExpiry forme faultId => Sys2Proof.Machine.execFaultHoldExpiry forme faultId s
  | .faultReevaluate forme faultId => Sys2Proof.Machine.execFaultReevaluate forme faultId s
  | .rangeInvalidation inv die => Sys2Proof.Machine.execRangeInvalidation inv die s
  | .engineDrainDone inv die drained => Sys2Proof.Machine.execEngineDrainDone inv die drained s
  | .invalidationAck inv => Sys2Proof.Machine.execInvalidationAck inv s
  | .rdShared l => Sys2Proof.Machine.execRdShared l s
  | .rdUnique l => Sys2Proof.Machine.execRdUnique l s
  | .upgrade l => Sys2Proof.Machine.execUpgrade l s
  | .ownNodata l => Sys2Proof.Machine.execOwnNodata l s
  | .lockFill l way => Sys2Proof.Machine.execLockFill l way s
  | .rdOnce l => Sys2Proof.Machine.execRdOnce l s
  | .wrFull l data hint => Sys2Proof.Machine.execWrFull l data hint s
  | .wrPart l mask data => Sys2Proof.Machine.execWrPart l mask data s
  | .wbDirty l => Sys2Proof.Machine.execWbDirty l s
  | .snpShared l => Sys2Proof.Machine.execSnpShared l s
  | .snpInv l => Sys2Proof.Machine.execSnpInv l s
  | .snpPeek l => Sys2Proof.Machine.execSnpPeek l s
  | .snpClean l => Sys2Proof.Machine.execSnpClean l s
  | .snpPush l => Sys2Proof.Machine.execSnpPush l s
  | .data l => Sys2Proof.Machine.execData l s
  | .fwd l => Sys2Proof.Machine.execFwd l s
  | .snpData l => Sys2Proof.Machine.execSnpData l s
  | .snpAck l => Sys2Proof.Machine.execSnpAck l s
  | .snpNp l => Sys2Proof.Machine.execSnpNp l s
  | .comp l => Sys2Proof.Machine.execComp l s
  | .grantAck l => Sys2Proof.Machine.execGrantAck l s
  | .snoopTimeout l => Sys2Proof.Machine.execSnoopTimeout l s
  | .suspectProbe agent passes => Sys2Proof.Machine.execSuspectProbe agent passes s
  | .streamTimeout platen stream => Sys2Proof.Machine.execStreamTimeout platen stream s
  | .memoryRead pa priority errs => Sys2Proof.Machine.execMemoryRead pa priority errs s
  | .memoryWrite pa mask data => Sys2Proof.Machine.execMemoryWrite pa mask data s
  | .writeCrcError stack pch lane pa => Sys2Proof.Machine.execWriteCrcError stack pch lane pa s
  | .byteLaneLoss stack pch lane => Sys2Proof.Machine.execByteLaneLoss stack pch lane s
  | .byteLaneRecovered stack pch => Sys2Proof.Machine.execByteLaneRecovered stack pch s
  | .refresh stack pch bank => Sys2Proof.Machine.execRefresh stack pch bank s
  | .readRetrain stack pch => Sys2Proof.Machine.execReadRetrain stack pch s
  | .refreshDouble stack temp => Sys2Proof.Machine.execRefreshDouble stack temp s
  | .patrolScrub stack => Sys2Proof.Machine.execPatrolScrub stack s
  | .innerCorrPoll stack count => Sys2Proof.Machine.execInnerCorrPoll stack count s
  | .selfRefreshEntry stack => Sys2Proof.Machine.execSelfRefreshEntry stack s
  | .stackQuiesce stack => Sys2Proof.Machine.execStackQuiesce stack s
  | .repairStatusRead stack => Sys2Proof.Machine.execRepairStatusRead stack s
  | .rowRepair stack row hard => Sys2Proof.Machine.execRowRepair stack row hard s
  | .patternTest stack row fails => Sys2Proof.Machine.execPatternTest stack row fails s
  | .stackRelease stack => Sys2Proof.Machine.execStackRelease stack s
  | .testUnlock token => Sys2Proof.Machine.execTestUnlock token s
  | .jtagInstruction op => Sys2Proof.Machine.execJtagInstruction op s
  | .gutterLaneFail link dir group => Sys2Proof.Machine.execGutterLaneFail link dir group s
  | .laneSwapDone link dir group => Sys2Proof.Machine.execLaneSwapDone link dir group s
  | .gutterLinkLoss link => Sys2Proof.Machine.execGutterLinkLoss link s
  | .governorTimerExpiry platen => Sys2Proof.Machine.execGovernorTimerExpiry platen s
  | .caseSleepDone platen => Sys2Proof.Machine.execCaseSleepDone platen s
  | .platenWakeDone platen => Sys2Proof.Machine.execPlatenWakeDone platen s
  | .moduleIdleEntry => Sys2Proof.Machine.execModuleIdleEntry s
  | .moduleWakeDone => Sys2Proof.Machine.execModuleWakeDone s
  | .powerMeterSample millivolts milliamps => Sys2Proof.Machine.execPowerMeterSample millivolts milliamps s
  | .capLoopTick moduleAvgW formeAvgW => Sys2Proof.Machine.execCapLoopTick moduleAvgW formeAvgW s
  | .thermalSensor sensor temp => Sys2Proof.Machine.execThermalSensor sensor temp s
  | .thermalTrip sensor => Sys2Proof.Machine.execThermalTrip sensor s
  | .inputUndervoltage => Sys2Proof.Machine.execInputUndervoltage s
  | .runningPointStep platen => Sys2Proof.Machine.execRunningPointStep platen s
  | .droopDetect platen overHalfPercent => Sys2Proof.Machine.execDroopDetect platen overHalfPercent s
  | .meshLinkTrain port partner partnerGroup gen5 txLanes rxLanes => Sys2Proof.Machine.execMeshLinkTrain port partner partnerGroup gen5 txLanes rxLanes s
  | .meshTrainRetry port lanesFailed => Sys2Proof.Machine.execMeshTrainRetry port lanesFailed s
  | .gnidAnnounce port node gnid generation upPorts => Sys2Proof.Machine.execGnidAnnounce port node gnid generation upPorts s
  | .meshPut port p => Sys2Proof.Machine.execMeshPut port p s
  | .meshGet port p len => Sys2Proof.Machine.execMeshGet port p len s
  | .meshTransit port p => Sys2Proof.Machine.execMeshTransit port p s
  | .meshPacketAck copyId index code => Sys2Proof.Machine.execMeshPacketAck copyId index code s
  | .meshAckTimeout copyId index => Sys2Proof.Machine.execMeshAckTimeout copyId index s
  | .meshOrderTimeout src copyId index => Sys2Proof.Machine.execMeshOrderTimeout src copyId index s
  | .meshLaneFail port sending lane => Sys2Proof.Machine.execMeshLaneFail port sending lane s
  | .meshLinkLoss port neighbourLost => Sys2Proof.Machine.execMeshLinkLoss port neighbourLost s
  | .linkStateNotice node port width => Sys2Proof.Machine.execLinkStateNotice node port width s
  | .registrationExchange port here there => Sys2Proof.Machine.execRegistrationExchange port here there s
  | .registrationLock => Sys2Proof.Machine.execRegistrationLock s
  | .referenceLoss => Sys2Proof.Machine.execReferenceLoss s
  | .sbFrameReceive f => Sys2Proof.Machine.execSbFrameReceive f s
  | .sbStatus => Sys2Proof.Machine.execSbStatus s
  | .sbPowerState => Sys2Proof.Machine.execSbPowerState s
  | .sbCapSet => Sys2Proof.Machine.execSbCapSet s
  | .sbTelemetry => Sys2Proof.Machine.execSbTelemetry s
  | .sbJournal => Sys2Proof.Machine.execSbJournal s
  | .sbColdReset => Sys2Proof.Machine.execSbColdReset s
  | .sbWarmReset => Sys2Proof.Machine.execSbWarmReset s
  | .sbFormeReset => Sys2Proof.Machine.execSbFormeReset s
  | .snapshotExpiry group => Sys2Proof.Machine.execSnapshotExpiry group s
  | .transmitOpportunity => Sys2Proof.Machine.execTransmitOpportunity s
  | .invalidBeaconTimeout => Sys2Proof.Machine.execInvalidBeaconTimeout s
  | .announce => Sys2Proof.Machine.execAnnounce s
  | .powerOn => Sys2Proof.Machine.execPowerOn s
  | .startupComplete => Sys2Proof.Machine.execStartupComplete s
  | .pwrEnDeassert => Sys2Proof.Machine.execPwrEnDeassert s
  | .supplyLoss => Sys2Proof.Machine.execSupplyLoss s
  | .controlCoreHeartbeat core => Sys2Proof.Machine.execControlCoreHeartbeat core s
  | .watchdogTimeout => Sys2Proof.Machine.execWatchdogTimeout s
  | .controlCoreTakeover core => Sys2Proof.Machine.execControlCoreTakeover core s
  | .retirement cause => Sys2Proof.Machine.execRetirement cause s
  | .compositorALoss => Sys2Proof.Machine.execCompositorALoss s
  | .journalCheckpoint => Sys2Proof.Machine.execJournalCheckpoint s
  | .flashProgramDone => Sys2Proof.Machine.execFlashProgramDone s
  | .coreAccess hart va acc => Sys2Proof.Machine.execCoreAccess hart va acc s
  | .ncvt hart word => Sys2Proof.Machine.execNcvt hart word s
  | .nscale hart word => Sys2Proof.Machine.execNscale hart word s
  | .zlineL3 hart va => Sys2Proof.Machine.execZlineL3 hart va s
  | .cwlLock hart va len rd => Sys2Proof.Machine.execCwlLock hart va len rd s
  | .cwlUnlock hart way => Sys2Proof.Machine.execCwlUnlock hart way s
  | .sbiIpi hart targets => Sys2Proof.Machine.execSbiIpi hart targets s
  | .sbiRfence hart targets => Sys2Proof.Machine.execSbiRfence hart targets s
  | .sbiHsm hart target start entry arg => Sys2Proof.Machine.execSbiHsm hart target start entry arg s
  | .sbiSrst hart => Sys2Proof.Machine.execSbiSrst hart s
  | .sbiEntropy hart va => Sys2Proof.Machine.execSbiEntropy hart va s
  | .perstNRelease port => Sys2Proof.Machine.execPerstNRelease port s
  | .hostReadCompletion port tag data poisoned => Sys2Proof.Machine.execHostReadCompletion port tag data poisoned s
  | .meshRetrainDone port sending => Sys2Proof.Machine.execMeshRetrainDone port sending s
  | .selfRefreshExit stack => Sys2Proof.Machine.execSelfRefreshExit stack s
  | .inputLimitRelease => Sys2Proof.Machine.execInputLimitRelease s
  | .thermalLimitTick sensor => Sys2Proof.Machine.execThermalLimitTick sensor s
  | .droopRecovered platen => Sys2Proof.Machine.execDroopRecovered platen s
  | .checkpointFlashWritten => Sys2Proof.Machine.execCheckpointFlashWritten s
  | .controlCoreRejoin core => Sys2Proof.Machine.execControlCoreRejoin core s
  | .beaconReceived => Sys2Proof.Machine.execBeaconReceived s
  | .collision => Sys2Proof.Machine.execCollision s
  | .csmaCdBackoffExpiry => Sys2Proof.Machine.execCsmaCdBackoffExpiry s

end Sys2Proof.Machine
end

