-- ==== Sys2Proof/Machine/Step.lean ====
section
/-! DEFINITION. One step of the block: the command at the front of the queue, or the passing of time. -/

namespace Sys2Proof.Machine

open Sys2Proof

/-- A nanosecond passes: the registration counter moves on by it, and by what its rate corrects (14 R488, R491). -/
def State.tick (s : State) : State :=
  let a := ((s.mesh.frac : Int) + 100000000 + s.mesh.rate).toNat
  { s with now := (s.now + a / 100000000) % 2 ^ 64, mesh := { s.mesh with frac := a % 100000000 } }

/-- An idle step: a nanosecond passes while the Watch domain has power (notes/assumptions/5.md), links acknowledge
packets and send those that wait (notes/assumptions/127.md), harts that wait go on at their timer interrupt, homes serve
what has reached them (notes/assumptions/115.md), and a destroy or a reset whose command was aborted goes on
(notes/assumptions/82.md). -/
def State.idle (s : State) : State :=
  match s.phase with
  | .off => s
  | .lost => s
  | _ => orphanSteps (serveHomes (timerStep (meshTick s.tick)))

/-- A change that the journal held at its start, once it takes entries again, and the state without it (15 R527). -/
def heldRow (s : State) : Option (Instr × State) :=
  match s.journal.rows with
  | c :: rest => if journalHeld s then none else some (c, { s with journal := { s.journal with rows := rest } })
  | [] => none

/-- Takes the command at the front of the queue and makes its effect with the queue's rest; on an empty queue a change that
was held is made, or time passes. -/
def step (s : State) : Host.Outcome State Fault Refusal :=
  match s.pending with
  | c :: rest => exec c { s with pending := rest }
  | [] =>
    match heldRow s with
    | some (c, t) => exec c t
    | none => .next s.idle

/-- `s` with the command that a word spells put at the front of its queue; `s` where it spells none. -/
def State.withFetchWord (s : State) (nbits w : Nat) : State :=
  match decodeTableWord nbits w with
  | some c => { s with pending := c :: s.pending }
  | none => s

end Sys2Proof.Machine
end

