-- ==== Sys2Proof/Safety.lean ====
section
/-! DEFINITION. What the statements speak of beside the machine's own operations: what a step answers, what no command
may touch, the canonical form of what is held, and the parts of the state that a family of commands may change. -/

namespace Sys2Proof.Machine

open Sys2Proof

/-- The fuses, the straps and the queue: no command's effect writes them (notes/assumptions/10.md). -/
structure Fixed where
  grade : Nat
  serial : Nat
  rootDigest : Nat
  sbId : Nat
  tunlkAsserted : Bool
  pending : List Instr
deriving DecidableEq, Repr

def fixedOf (s : State) : Fixed :=
  { grade := s.sec.grade, serial := s.sec.serial, rootDigest := s.sec.rootDigest,
    sbId := s.pins.sbId, tunlkAsserted := s.pins.tunlkAsserted, pending := s.pending }

/-- The invariant of the machine: memory in its canonical form, rising keys of the lines and the snapshots, and the journal's
entries, newest first, numbered down one by one from the number before the next. -/
def Consistent (s : State) : Prop :=
  Memory.wf s.mem = true ∧ keysFrom 0 s.lines = true ∧ keysFrom 0 s.sb.snapshots = true ∧
    ∀ (i : Nat) (e : JEntry), s.journal.entries[i]? = some e → e.number + i + 1 = s.journal.next

/-- The command may run whatever it meets: it answers a next state. -/
def Completes (c : Instr) (s : State) : Prop := ∃ t, exec c s = .next t

/-! ## Mailbox commands -/

/-- The mailbox is there: a port of the table, or a forme. -/
def MboxThere (s : State) : MboxId → Prop
  | .host p => (mapGet s.ports p).isSome = true
  | .core f => (getForme s f).isSome = true

/-- The row ends the command in a slot with a status, a detail and a result, and leaves a state of which `P` holds. -/
def Ended (c : Instr) (s : State) (mb : MboxId) (k st detail result : Nat) (P : State → Prop) : Prop :=
  ∃ t, exec c s = .next t ∧
    getSlot t mb k = { getSlot s mb k with phase := .finished, status := st, detail := detail, result := result } ∧ P t

/-- The newest journal entry is of this kind, object and action, with this digest of the new value. -/
def Journaled (t : State) (kind id action new : Nat) : Prop :=
  ∃ e, t.journal.entries.head? = some e ∧ e.objKind = kind ∧ e.objId = id ∧ e.action = action ∧ e.new = new

/-! ## What a family leaves alone -/

/-- A forme but for its counters. -/
def uncounted (x : Forme) : Forme := { x with counters := [] }

/-- Of every forme only the counters may differ. -/
def OnlyCounters (s t : State) : Prop := ∀ f, (getForme t f).map uncounted = (getForme s f).map uncounted

/-- A hart but for its reservation and the wait for it. -/
def unreserved (h : Hart) : Hart := { h with resv := none, wrs := false }

/-- Of every hart only the reservation may differ, and the wait for it (11 R386). -/
def OnlyReservations (s t : State) : Prop := ∀ h, (mapGet t.harts h).map unreserved = (mapGet s.harts h).map unreserved

/-- What an access at a home may change (08 R268, R269, R276): memory with its poison and errors, the stacks with their
records, what the homes refuse, and counters. -/
def MemoryFrame (s t : State) : Prop :=
  t = { s with mem := t.mem, poison := t.poison, errors := t.errors, stackTab := t.stackTab, absentRing := t.absentRing,
               homeFull := t.homeFull, formes := t.formes, loose := t.loose, free := t.free } ∧ OnlyCounters s t

/-- What the coherence protocol may change besides (09). -/
def CoherenceFrame (s t : State) : Prop :=
  t = { s with mem := t.mem, poison := t.poison, errors := t.errors, stackTab := t.stackTab, absentRing := t.absentRing,
               homeFull := t.homeFull, formes := t.formes, loose := t.loose, free := t.free, lines := t.lines,
               dir := t.dir, dirAge := t.dirAge, txns := t.txns, harts := t.harts, suspects := t.suspects,
               timedOut := t.timedOut, streams := t.streams, gut := t.gut, recent := t.recent } ∧
    OnlyCounters s t ∧ OnlyReservations s t

/-- The rows of 09: requests, messages, timeouts. -/
def isCoherenceRow (c : Instr) : Bool :=
  match c with
  | .rdShared _ => true
  | .rdUnique _ => true
  | .upgrade _ => true
  | .ownNodata _ => true
  | .lockFill _ _ => true
  | .rdOnce _ => true
  | .wrFull _ _ _ => true
  | .wrPart _ _ _ => true
  | .wbDirty _ => true
  | .snpShared _ => true
  | .snpInv _ => true
  | .snpPeek _ => true
  | .snpClean _ => true
  | .snpPush _ => true
  | .data _ => true
  | .fwd _ => true
  | .snpData _ => true
  | .snpAck _ => true
  | .snpNp _ => true
  | .comp _ => true
  | .grantAck _ => true
  | .snoopTimeout _ => true
  | .suspectProbe _ _ => true
  | .streamTimeout _ _ => true
  | _ => false

/-- What a row of the test port may change besides memory (08 R282, 15 R519). -/
def TestFrame (s t : State) : Prop :=
  t = { s with mem := t.mem, poison := t.poison, errors := t.errors, stackTab := t.stackTab, absentRing := t.absentRing,
               homeFull := t.homeFull, formes := t.formes, loose := t.loose, free := t.free, jtag := t.jtag,
               journal := t.journal, sb := t.sb, waking := t.waking, sec := t.sec, flash := t.flash } ∧ OnlyCounters s t

/-- The rows of 08 but for the test port's and a sensor's reading. -/
def isPoolRow (c : Instr) : Bool :=
  match c with
  | .memoryRead _ _ _ => true
  | .memoryWrite _ _ _ => true
  | .writeCrcError _ _ _ _ => true
  | .byteLaneLoss _ _ _ => true
  | .byteLaneRecovered _ _ => true
  | .refresh _ _ _ => true
  | .readRetrain _ _ => true
  | .patrolScrub _ => true
  | .innerCorrPoll _ _ => true
  | .selfRefreshEntry _ => true
  | .selfRefreshExit _ => true
  | _ => false

/-- The rows of the test port. -/
def isTestRow (c : Instr) : Bool :=
  match c with
  | .stackQuiesce _ => true
  | .repairStatusRead _ => true
  | .rowRepair _ _ _ => true
  | .patternTest _ _ _ => true
  | .stackRelease _ => true
  | .testUnlock _ => true
  | .jtagInstruction _ => true
  | _ => false

/-- The rows of 14 that no packet's data depends on. -/
def isLinkRow (c : Instr) : Bool :=
  match c with
  | .meshLinkTrain _ _ _ _ _ _ => true
  | .meshTrainRetry _ _ => true
  | .gnidAnnounce _ _ _ _ _ => true
  | .linkStateNotice _ _ _ => true
  | .meshTransit _ _ => true
  | .meshOrderTimeout _ _ _ => true
  | .meshLaneFail _ _ _ => true
  | .meshRetrainDone _ _ => true
  | .meshLinkLoss _ _ => true
  | .registrationExchange _ _ _ => true
  | .registrationLock => true
  | .referenceLoss => true
  | _ => false

/-- The rows of 17 that only receive, answer or send. -/
def isSbRow (c : Instr) : Bool :=
  match c with
  | .sbFrameReceive _ => true
  | .sbStatus => true
  | .sbTelemetry => true
  | .snapshotExpiry _ => true
  | .transmitOpportunity => true
  | .invalidBeaconTimeout => true
  | .beaconReceived => true
  | .collision => true
  | .csmaCdBackoffExpiry => true
  | .announce => true
  | _ => false

/-- What an instruction of one slug may change: its stick, counters, and free draws. No other galley and no
other stick of its galley changes, and of its galley nothing but the sticks (06 R189 to R196). -/
def SlugFrame (s t : State) (a : SlugAt) : Prop :=
  t = { s with galleys := t.galleys, formes := t.formes, loose := t.loose, free := t.free } ∧ OnlyCounters s t ∧
    (∀ p g, galleyKey p g ≠ galleyKey a.platen a.galley → getGalley t p g = getGalley s p g) ∧
    getGalley t a.platen a.galley =
      { getGalley s a.platen a.galley with sticks := (getGalley t a.platen a.galley).sticks } ∧
    (∀ k, k ≠ a.stick → getStick t a.platen a.galley k = getStick s a.platen a.galley k)

/-- What a tile operation that touches local store alone may change: its galley, counters, and free draws. No
other galley and no other stick of its galley changes (06 R197 to R207). -/
def TileFrame (s t : State) (r : OpRef) : Prop :=
  t = { s with galleys := t.galleys, formes := t.formes, loose := t.loose, free := t.free } ∧ OnlyCounters s t ∧
    (∀ p g, galleyKey p g ≠ galleyKey r.platen r.galley → getGalley t p g = getGalley s p g) ∧
    (∀ k, k ≠ r.stick → getStick t r.platen r.galley k = getStick s r.platen r.galley k)

/-- The stick of `a` after its slug has become `y`. -/
def withSlug (t : Stick) (a : SlugAt) (y : Slug) : Stick := { t with slugs := t.slugs.modify a.slug (fun _ => y) }

end Sys2Proof.Machine
end

