-- ==== Sys2Proof/Certificates/Slice0/Obligations.lean ====
section
/-! DEFINITION. The statements of the model: what the spec says of its machine, family by family. -/

open Sys2Proof Sys2Proof.Machine

/-! ## Coherence (09) -/

/-- RD_SHARED reaches a home with no transaction of the line, or goes on its way where something is on it (01 R33, R34). With
`u` the state after the check of the directory's entry: the owner that the entry records is snooped, be it the requester
itself, whose copy has gone silently; otherwise the line is read from memory, once its pseudo-channel issues, and granted in E
when nobody else may hold it, in S when somebody may (09 R296).
RD_SHARED is shown to answer a next state, under conditions on the state and the operands alone. -/
def Obligations.SharedReadSnoopsTheOwnerOrGrants : Prop :=
  ∀ (l : LineAt) (s : State), s.homesOn = true → l.agent < 8 → mayFill s l.agent = true →
    heldState s l = none → paAbsent (lineOf l.pa * 128) = false → getTxn s (lineOf l.pa) = none →
    let ln := lineOf l.pa
    let r := rowReq s l .rdShared
    let u := dirRepair (carryRequest s.drawn ln r) ln
    let v := dirReserve u ln l.agent
    let x := Txn.start r [] []
    let blocked := pchBlocked v (paStack (ln * 128)) (paPch (ln * 128))
    (wayClear s ln r = false → exec (.rdShared l) s = .next (launchRequest (carryRequest s.drawn ln r) ln r)) ∧
    (wayClear s ln r = true →
      (∀ o, ownerOf u ln = some o →
        exec (.rdShared l) s = .next (setTxn v ln { x with waiting := [o], msgs := [.snp .shared o [] false false] })) ∧
      (ownerOf u ln = none →
        let d := homeReadLine false (ln * 128) (setTxn v ln x)
        let g : GrantKind := if (holdersOf v ln).all (fun h => h = l.agent) then .e else .s
        exec (.rdShared l) s = .next (if blocked then setTxn v ln x else
          setTxn d.1 ln { x with granted := true, msgs := [.dataTo l.agent g d.2.data d.2.p0 d.2.p1] })))

/-- RD_UNIQUE, OWN_NODATA and UPGRADE: every other possible holder is sent SNP_INV, and an owner that asks for the line again;
with none, RD_UNIQUE is granted M with the line's memory data, OWN_NODATA and UPGRADE are granted M without data, but for an
UPGRADE whose copy is gone, which is served with data (09 R295 to R297, Table 9.7). What needs memory waits for a
pseudo-channel that issues nothing, and a request whose way is not clear goes on its way (01 R33, R34).
Each of these rows is shown to answer a next state, under conditions on the state and the operands alone: RD_UNIQUE,
OWN_NODATA, UPGRADE. -/
def Obligations.OwnershipRequestInvalidatesTheOthers : Prop :=
  ∀ (l : LineAt) (s : State), s.homesOn = true → l.agent < 8 →
    paAbsent (lineOf l.pa * 128) = false → getTxn s (lineOf l.pa) = none →
    let ln := lineOf l.pa
    let r (k : ReqKind) := rowReq s l k
    let u (k : ReqKind) := dirRepair (carryRequest s.drawn ln (r k)) ln
    let v (k : ReqKind) := dirReserve (u k) ln l.agent
    let x (k : ReqKind) := Txn.start (r k) [] []
    let snooped (k : ReqKind) : List Nat :=
      (holdersOf (u k) ln).filter (fun h => h ≠ l.agent ∨ k ≠ .upgrade ∧ ownerOf (u k) ln = some h)
    let snooping (k : ReqKind) : State := setTxn (v k) ln { x k with
      waiting := snooped k, msgs := (snooped k).map (fun a => .snp .inv a [] false false) }
    let noData (k : ReqKind) : State :=
      setTxn (setTxn (v k) ln (x k)) ln { x k with granted := true, msgs := [.compTo l.agent (some .m)] }
    let withData (k : ReqKind) : State :=
      let d := homeReadLine false (ln * 128) (setTxn (v k) ln (x k))
      if pchBlocked (v k) (paStack (ln * 128)) (paPch (ln * 128)) then setTxn (v k) ln (x k)
      else setTxn d.1 ln { x k with granted := true, msgs := [.dataTo l.agent .m d.2.data d.2.p0 d.2.p1] }
    let goes (k : ReqKind) (t : State) : State :=
      if wayClear s ln (r k) then t else launchRequest (carryRequest s.drawn ln (r k)) ln (r k)
    (mayFill s l.agent = true → heldState s l = none →
      exec (.rdUnique l) s =
        .next (goes .rdUnique (if snooped .rdUnique = [] then withData .rdUnique else snooping .rdUnique)) ∧
      exec (.ownNodata l) s =
        .next (goes .ownNodata (if snooped .ownNodata = [] then noData .ownNodata else snooping .ownNodata))) ∧
    ((heldState s l = some .s ∨ heldState s l = some .o) → exec (.upgrade l) s = .next (goes .upgrade (
      if snooped .upgrade ≠ [] then snooping .upgrade
      else if (getLine (v .upgrade) l.agent ln).isSome then noData .upgrade else withData .upgrade)))

/-- RD_ONCE snoops an owner for a copy and reads memory without one; LOCK_FILL has an owner clean the line, and is granted
the memory's data in L, unless the Case is leaving coherence; WB_DIRTY writes the line, as its cache reads it then, to memory,
takes the agent out of its entry and is answered COMP, which ends the transaction (09 R294 to R298, R318, R322). What needs
memory waits for a pseudo-channel that issues nothing, and a request whose way is not clear goes on its way (01 R33, R34).
Each of these rows is shown to answer a next state, under conditions on the state and the operands alone: RD_ONCE,
LOCK_FILL, WB_DIRTY. -/
def Obligations.SnapshotLockFillAndWriteBack : Prop :=
  ∀ (l : LineAt) (s : State), s.homesOn = true →
    paAbsent (lineOf l.pa * 128) = false → getTxn s (lineOf l.pa) = none →
    let ln := lineOf l.pa
    let u (s : State) (k : ReqKind) := dirRepair (carryRequest s.drawn ln (rowReq s l k)) ln
    let x (s : State) (k : ReqKind) := Txn.start (rowReq s l k) [] []
    let v (s : State) (k : ReqKind) := setTxn (u s k) ln (x s k)
    let blocked (s : State) (k : ReqKind) := pchBlocked (u s k) (paStack (ln * 128)) (paPch (ln * 128))
    let snooping (k : ReqKind) (sn : SnpKind) (o : Nat) : State :=
      setTxn (u s k) ln { x s k with waiting := [o], msgs := [.snp sn o [] false false] }
    let withData (k : ReqKind) (g : GrantKind) : State :=
      let d := homeReadLine false (ln * 128) (v s k)
      if blocked s k then v s k
      else setTxn d.1 ln { x s k with granted := true, msgs := [.dataTo l.agent g d.2.data d.2.p0 d.2.p1] }
    let goes (w : State) (k : ReqKind) (t : State) : State :=
      if wayClear w ln (rowReq w l k) then t else launchRequest (carryRequest w.drawn ln (rowReq w l k)) ln (rowReq w l k)
    (8 ≤ l.agent → exec (.rdOnce l) s = .next (goes s .rdOnce (match ownerOf (u s .rdOnce) ln with
      | some o => snooping .rdOnce .peek o
      | none => withData .rdOnce .once))) ∧
    (l.agent < 6 → ∀ way,
      (mayLock s l.agent = true → exec (.lockFill l way) s = .next (goes s (.lockFill way) (
        match ownerOf (u s (.lockFill way)) ln with
        | some o => snooping (.lockFill way) .clean o
        | none => withData (.lockFill way) .l))) ∧
      (mayLock s l.agent = false → exec (.lockFill l way) s = .next s)) ∧
    (l.agent < 8 → (heldState s l = some .m ∨ heldState s l = some .o) →
      let c := caseCheck s l.agent ln false
      let w := markLeaving c l
      let done (t : State) : State :=
        setTxn t ln { x w .wbDirty with granted := true, ended := true, msgs := [.compTo l.agent none] }
      (∀ h, getLine (u w .wbDirty) l.agent ln = some h → (h.st = .m ∨ h.st = .o) →
        exec (.wbDirty l) s = .next (goes w .wbDirty (if blocked w .wbDirty then v w .wbDirty else
          done (caseCtr (dirClear (homeWriteLine (ln * 128) h.payload (v w .wbDirty)) ln l.agent) l.agent .caseWb 1)))) ∧
      (getLine (u w .wbDirty) l.agent ln = none →
        exec (.wbDirty l) s = .next (goes w .wbDirty (done (v w .wbDirty)))))

/-- WR_FULL and WR_PART send SNP_INV to every possible holder; with none, WR_PART writes the bytes its mask names and is
answered COMP, and WR_FULL is pushed to the cache its hint names where the home may do so, and otherwise written to memory
and answered COMP, a hint that is not honoured being counted (09 R297, R304 to R306). A Case sends WR_FULL too (09 R314).
A write of memory waits for a pseudo-channel that issues nothing, and a request whose way is not clear goes on its way
(01 R33, R34).
Each of these rows is shown to answer a next state, under conditions on the state and the operands alone: WR_FULL,
WR_PART. -/
def Obligations.CachelessWriteInvalidatesThenWrites : Prop :=
  ∀ (l : LineAt) (data : List Byte) (hint mask : Nat) (s : State), s.homesOn = true →
    paAbsent (lineOf l.pa * 128) = false → getTxn s (lineOf l.pa) = none →
    let ln := lineOf l.pa
    let full := ReqKind.wrFull data hint
    let part := ReqKind.wrPart mask data
    let u (k : ReqKind) := dirRepair (carryRequest s.drawn ln (rowReq s l k)) ln
    let x (k : ReqKind) := Txn.start (rowReq s l k) [] []
    let v (k : ReqKind) := setTxn (u k) ln (x k)
    let snooping (k : ReqKind) : State := setTxn (u k) ln { x k with
      waiting := holdersOf (u k) ln, msgs := (holdersOf (u k) ln).map (fun a => .snp .inv a [] false false) }
    let comp (w : State) (k : ReqKind) : State := setTxn { w with dir := mapDel w.dir ln } ln
      { x k with granted := true, ended := true, msgs := [.compTo l.agent none] }
    let half (o : Nat) (w : State) : State :=
      if mask / 2 ^ o % 2 ^ 64 = 0 then w
      else homeWrite (ln * 128 + o) (mask / 2 ^ o % 2 ^ 64) ((data.drop o).take 64) w
    let whole (w : State) : State :=
      comp (homeWriteLine (ln * 128) { data := data, p0 := false, p1 := false, absent := false } w) full
    let writes (k : ReqKind) (t : State) : State :=
      if pchBlocked (u k) (paStack (ln * 128)) (paPch (ln * 128)) then v k else t
    let goes (k : ReqKind) (t : State) : State :=
      if wayClear s ln (rowReq s l k) then t else launchRequest (carryRequest s.drawn ln (rowReq s l k)) ln (rowReq s l k)
    (8 ≤ l.agent → exec (.wrPart l mask data) s = .next (goes part (
      if holdersOf (u part) ln ≠ [] then snooping part else writes part (comp (half 64 (half 0 (v part))) part)))) ∧
    ((8 ≤ l.agent ∨ l.agent < 6) →
      (holdersOf (u full) ln ≠ [] → exec (.wrFull l data hint) s = .next (goes full (snooping full))) ∧
      (holdersOf (u full) ln = [] →
        (hintTarget ln hint = none → exec (.wrFull l data hint) s = .next (goes full (writes full (whole (v full))))) ∧
        (∀ g, hintTarget ln hint = some g → hintAllowed (v full) ln g = true → exec (.wrFull l data hint) s =
          .next (goes full (setTxn (dirPut (dirRoom (v full) ln) ln .exclusive g [g]) ln { x full with
            forwarded := true, waiting := [g], msgs := [.snp .push g data false false] }))) ∧
        (∀ g, hintTarget ln hint = some g → hintAllowed (v full) ln g = false → exec (.wrFull l data hint) s =
          .next (goes full (writes full (whole (dropHint (v full) ln)))))))

/-- A home takes one transaction of a line at a time and holds the later requests in the order of arrival; none is refused
(09 R298). A request whose way is not clear goes on its way instead (01 R33, R34). -/
def Obligations.LaterRequestsOfALineWaitInOrder : Prop :=
  ∀ (l : LineAt) (s : State) (x : Txn) (data : List Byte) (hint mask way : Nat), s.homesOn = true →
    paAbsent (lineOf l.pa * 128) = false → getTxn s (lineOf l.pa) = some x → x.ended = false →
    let ln := lineOf l.pa
    let queued (w : State) (k : ReqKind) : State :=
      let sent := carryRequest w.drawn ln (rowReq w l k)
      if wayClear w ln (rowReq w l k) then setTxn sent ln { x with queue := x.queue ++ [rowReq w l k] }
      else launchRequest sent ln (rowReq w l k)
    (l.agent < 8 → mayFill s l.agent = true → heldState s l = none →
      exec (.rdShared l) s = .next (queued s .rdShared) ∧ exec (.rdUnique l) s = .next (queued s .rdUnique) ∧
      exec (.ownNodata l) s = .next (queued s .ownNodata)) ∧
    (l.agent < 8 → (heldState s l = some .s ∨ heldState s l = some .o) →
      exec (.upgrade l) s = .next (queued s .upgrade)) ∧
    (l.agent < 8 → (heldState s l = some .m ∨ heldState s l = some .o) →
      let c := caseCheck s l.agent ln false
      exec (.wbDirty l) s = .next (queued (markLeaving c l) .wbDirty)) ∧
    (l.agent < 6 → mayLock s l.agent = true → exec (.lockFill l way) s = .next (queued s (.lockFill way))) ∧
    ((8 ≤ l.agent ∨ l.agent < 6) → exec (.wrFull l data hint) s = .next (queued s (.wrFull data hint))) ∧
    (8 ≤ l.agent → exec (.rdOnce l) s = .next (queued s .rdOnce) ∧
      exec (.wrPart l mask data) s = .next (queued s (.wrPart mask data)))

/-- What a snooped agent does with a line it holds and whose code finds nothing (09 Tables 9.4, 9.5, R293): the state it keeps
and the message it sends, for each snoop that arrives in a transaction that waits for its answer. What the code finds when the
line is read next is open (notes/assumptions/15.md). An SNP_INV whose requester takes no data is answered SNP_DATA by a holder
in E, O or M, which is the model's choice for OWN_NODATA (notes/assumptions/117.md).
Each of these rows is shown to answer a next state, under conditions on the state and the operands alone: SNP_SHARED,
SNP_INV, SNP_PEEK, SNP_CLEAN. -/
def Obligations.SnoopedAgentKeepsAndAnswersAsTabulated : Prop :=
  ∀ (l : LineAt) (s : State) (x : Txn) (h : Line), s.homesOn = true → getTxn s (lineOf l.pa) = some x →
    l.agent ∈ x.waiting → x.granted = false → x.ended = false → getLine s l.agent (lineOf l.pa) = some h → h.st ≠ .l →
    (h.err = 0 ∨ 6 ≤ l.agent) → keysFrom 0 s.lines = true →
    let ln := lineOf l.pa
    let dirty := h.st = .m ∨ h.st = .o
    let comes (k : SnpKind) : Prop := .snp k l.agent [] false false ∈ x.msgs ∧
      mayArrive s ln (.snp k l.agent [] false false) = true
    let fwd (g : GrantKind) : Msg := .fwdTo x.req.agent g h.data h.poison0 h.poison1 l.agent
    let answers (c : Instr) (keeps : Option LineState) (m : Msg) : Prop :=
      ∃ t y e, exec c s = .next t ∧ getLine t l.agent ln = keeps.map (fun st => { h with st := st, err := e }) ∧
        getTxn t ln = some y ∧ m ∈ y.msgs
    (comes .shared → x.req.kind = .rdShared →
      (h.st = .s → answers (.snpShared l) (some .s) (.snpAck l.agent)) ∧
      ((mapGet s.dir ln).isSome = true →
        (h.st = .e → answers (.snpShared l) (some .s) (fwd .s)) ∧
        (dirty → answers (.snpShared l) (some .o) (fwd .s)))) ∧
    (comes .inv →
      (h.st = .s → answers (.snpInv l) none (.snpAck l.agent)) ∧
      (h.st ≠ .s → x.req.kind = .rdUnique ∨ x.req.kind = .upgrade → answers (.snpInv l) none (fwd .m)) ∧
      (h.st ≠ .s → takesForward x.req.kind = false →
        answers (.snpInv l) none (.snpData l.agent h.data h.poison0 h.poison1))) ∧
    (comes .peek → x.req.kind = .rdOnce →
      (h.st = .s → answers (.snpPeek l) (some .s) (.snpAck l.agent)) ∧
      (h.st ≠ .s → answers (.snpPeek l) (some h.st) (fwd .once))) ∧
    (comes .clean →
      (dirty → answers (.snpClean l) (some .s) (.snpData l.agent h.data h.poison0 h.poison1)) ∧
      (¬ dirty → answers (.snpClean l) (some .s) (.snpAck l.agent)))

/-- A granted line is in the requester's cache in the state granted, and GRANT_ACK goes to the home, unless the node has
retired over making room; a snapshot, and a grant to a Case that takes no fills any more, is acknowledged and
not kept; a forward is taken once every other copy is gone; the target of a write hint takes the line in M and answers
SNP_ACK, or refuses the push with SNP_NP (09 R295, R299, R305, R322). The home hears the answers to its snoops: SNP_DATA
brings dirty data, SNP_NP takes the agent out of the entry; it goes on once none is outstanding, and a push that is taken is
answered COMP with nothing written to memory (R306). GRANT_ACK ends the transaction, and the next request of the line starts;
the COMP of a write-back ends the agent's hold of the line (09 R296, R298, R299).
Each of these rows is shown to answer a next state, under conditions on the state and the operands alone: DATA, FWD, COMP,
SNP_PUSH, SNP_DATA, SNP_ACK, SNP_NP, GRANT_ACK. -/
def Obligations.GrantsAndAnswersMoveTheTransactionOn : Prop :=
  (∀ (l : LineAt) (s : State) (x : Txn) (d : List Byte) (p0 p1 : Bool), s.homesOn = true →
    getTxn s (lineOf l.pa) = some x →
    let ln := lineOf l.pa
    let comes (test : Msg → Bool) (m : Msg) : Prop := x.msgs.find? test = some m ∧ mayArrive s ln m = true
    let st : GrantKind → LineState := fun g => match g with
      | .m => .m
      | .e => .e
      | .s => .s
      | .l => .l
      | .once => .s
    let takes (c : Instr) (g : GrantKind) (d : List Byte) (p0 p1 : Bool) (m : Msg) : Prop :=
      ∃ t w e, exec c s = .next t ∧ (t.phase = s.phase → getLine t l.agent ln =
          some { st := st g, data := d, poison0 := p0, poison1 := p1, way := w, err := e, leaving := false } ∧
        ∃ y, getTxn t ln = some y ∧ m ∈ y.msgs)
    let fills (g : GrantKind) : Prop :=
      g = .l ∧ mayLock s l.agent = true ∨ g ≠ .l ∧ g ≠ .once ∧ mayFill s l.agent = true
    (∀ g, comes (isDataTo l.agent) (.dataTo l.agent g d p0 p1) →
      (fills g → takes (.data l) g d p0 p1 (.grantAck l.agent)) ∧
      (¬ fills g → exec (.data l) s =
        .next (sendMsg (removeMsg s ln (.dataTo l.agent g d p0 p1)) ln (.grantAck l.agent)))) ∧
    (∀ g o, x.waiting = [] → comes (isFwdTo l.agent) (.fwdTo l.agent g d p0 p1 o) → fills g →
      takes (.fwd l) g d p0 p1 (.grantAck l.agent)) ∧
    (comes (isComp l.agent) (.compTo l.agent (some .m)) → mayFill s l.agent = true →
      (x.req.kind ≠ .upgrade ∨ (getLine s l.agent ln).isSome = true) →
      takes (.comp l) .m (grantedData s ln l.agent).data (grantedData s ln l.agent).p0 (grantedData s ln l.agent).p1
        (.grantAck l.agent)) ∧
    (l.agent ∈ x.waiting → x.ended = false → comes (isSnp .push l.agent) (.snp .push l.agent d false false) →
      (mayFill s l.agent = true → takes (.snpPush l) .m d false false (.snpAck l.agent)) ∧
      (mayFill s l.agent = false → exec (.snpPush l) s =
        .next (sendMsg (countNp (removeMsg s ln (.snp .push l.agent d false false)) ln) ln (.snpNp l.agent))))) ∧
  (∀ (l : LineAt) (s : State) (x : Txn) (d : List Byte) (p0 p1 : Bool), s.homesOn = true →
    getTxn s (lineOf l.pa) = some x →
    let ln := lineOf l.pa
    let comes (test : Msg → Bool) (m : Msg) : Prop := x.msgs.find? test = some m ∧ mayArrive s ln m = true
    let got (m : Msg) : State := removeMsg s ln m
    let heard (m : Msg) : State := setTxn (got m) ln
      { x with msgs := x.msgs.erase m, waiting := x.waiting.filter (· ≠ l.agent) }
    (comes (isSnpData l.agent) (.snpData l.agent d p0 p1) → exec (.snpData l) s =
      .next (homeGo (setTxn (heard (.snpData l.agent d p0 p1)) ln { x with
        msgs := x.msgs.erase (.snpData l.agent d p0 p1), waiting := x.waiting.filter (· ≠ l.agent),
        dirty := some (d, p0, p1) }) ln)) ∧
    (x.forwarded = false → comes (isSnpAck l.agent) (.snpAck l.agent) →
      exec (.snpAck l) s = .next (homeGo (heard (.snpAck l.agent)) ln)) ∧
    (x.forwarded = false → comes (isSnpNp l.agent) (.snpNp l.agent) →
      exec (.snpNp l) s = .next (homeGo (dirClear (heard (.snpNp l.agent)) ln l.agent) ln)) ∧
    (∀ data hint, x.forwarded = true → x.req.kind = .wrFull data hint → x.queue = [] →
      comes (isSnpAck l.agent) (.snpAck l.agent) → ∃ t y, exec (.snpAck l) s = .next t ∧ t.mem = s.mem ∧
        getTxn t ln = some y ∧ y.ended = true ∧ .compTo x.req.agent none ∈ y.msgs) ∧
    (comes (isGrantAck l.agent) (.grantAck l.agent) →
      let left := x.msgs.erase (.grantAck l.agent)
      let v := setTxn (got (.grantAck l.agent)) ln { x with msgs := left, ended := true }
      exec (.grantAck l) s = .next (match x.queue with
        | [] => if left.isEmpty then putTxn v ln none else v
        | r :: q => homeRun (q.length + 1) (homeStart v ln r q left) ln)) ∧
    (comes (isComp l.agent) (.compTo l.agent none) → x.ended = true →
      let left := x.msgs.erase (.compTo l.agent none)
      let v := match getLine s l.agent ln with
        | some h => if h.leaving then dropLine (got (.compTo l.agent none)) l.agent ln else got (.compTo l.agent none)
        | none => got (.compTo l.agent none)
      exec (.comp l) s = .next (if left.isEmpty then putTxn v ln none else v)))

/-- A read whose last outstanding snoop has gone unanswered for 32 µs: both sectors of the line are poisoned, the requester
is sent the line poisoned, an SNP_INV to the agent comes next, and the agent is suspect (09 R302). A second timeout of the
agent within 1 s ends the node's running. The probe of a suspect agent is counted in SNOOP_TIMEOUT; one that passes clears
it, one that fails ends the node's running (09 R303). A write stream is forgotten when it has timed out (09 R314).
Each of these rows is shown to answer a next state, under conditions on the state and the operands alone: SNOOP_TIMEOUT,
SUSPECT_PROBE, STREAM_TIMEOUT. -/
def Obligations.UnansweredSnoopPoisonsAndSuspects : Prop :=
  (∀ (l : LineAt) (s : State) (x : Txn), s.homesOn = true → getTxn s (lineOf l.pa) = some x → x.waiting = [l.agent] →
    x.granted = false → x.ended = false → x.forwarded = false → (x.req.kind = .rdShared ∨ x.req.kind = .rdUnique) →
    let ln := lineOf l.pa
    ((∀ a, mapGet s.timedOut l.agent = some a → a + 1000000000 ≤ s.now) →
      ∃ t y g, exec (.snoopTimeout l) s = .next t ∧ isPoisoned t (ln * 128) = true ∧
        isPoisoned t (ln * 128 + 64) = true ∧ l.agent ∈ t.suspects ∧ getTxn t ln = some y ∧
        .dataTo x.req.agent g (List.replicate 128 0#8) true true ∈ y.msgs ∧
        y.queue = cacheReq l.agent .dropCopy none false :: x.queue) ∧
    (∀ a, mapGet s.timedOut l.agent = some a → s.now < a + 1000000000 →
      ∃ t, exec (.snoopTimeout l) s = .next t ∧ t.phase = (if l.agent = 6 then .lost else .retired))) ∧
  (∀ (s : State) (agent platen stream : Nat),
    (s.powered = true → agent ∈ s.suspects →
      exec (.suspectProbe agent true) s = .next
        { countFor s (formeOfAgent s agent) .snoopTimeout 1 with suspects := s.suspects.filter (· ≠ agent) } ∧
      ∃ t, exec (.suspectProbe agent false) s = .next t ∧ t.phase = (if agent = 6 then .lost else .retired)) ∧
    exec (.streamTimeout platen stream) s = .next { s with streams := mapDel s.streams (streamKey platen stream) })

/-- What the rows of the coherence protocol leave alone in a node that runs on: everything but memory with its records,
caches, directory, transactions, the Gutter, suspects, streams, counters and free draws; of a forme only its counters change
and of a hart only its reservation with the wait for it (09 R285 to R318). -/
def Obligations.CoherenceRowsLeaveTheRestUnchanged : Prop :=
  ∀ (c : Instr) (s t : State), isCoherenceRow c = true → exec c s = .next t → t.phase = s.phase → CoherenceFrame s t

/-! ## The memory pool (08) -/

/-- MEMORY_READ (08 R258, R262, R268, R273): an absent address writes one record and nothing else; on a pseudo-channel that
issues nothing the read waits; one that finds a byte lane dead is held while the lane is recovered; a clean sector under its
own keys costs its data slot and changes nothing of memory; one with errors that the code corrects keeps its data, loses the
errors and leaves a record; a sector that carries the poison mark, or that no step decodes, ends poisoned with its record, in
which LANES is zero for the mark and open for a sector that no step decodes.
MEMORY_READ is shown to answer a next state, under conditions on the state and the operands alone. -/
def Obligations.MemoryReadDecodesItsSector : Prop :=
  ∀ (pa : Nat) (prio : Bool) (errs : List (Nat × Byte)) (s : State) (st : Stack), s.homesOn = true →
    mapGet s.stackTab (paStack pa) = some st →
    let k := paStack pa
    let p := paPch pa
    let u := addErrors s pa errs
    let held : MemReq := { pa := pa, priority := prio, write := none, time := s.now }
    let v := memSlot u pa prio false
    let pat := patternAdd (symbolErrors v pa) (if isPoisoned v pa then poisonMask else [])
    let sound := isPoisoned v pa = false ∧ readerKeys v pa = writtenKeys v pa
    let fails (kind symbols : Nat) (lanes : Nat → Prop) : Prop := ∃ t x, exec (.memoryRead pa prio errs) s = .next t ∧
      isPoisoned t pa = true ∧ lanes x ∧ (getStack t k).ring.recs.head? =
        some { time := s.now, addr := sectorBase pa, kind := kind, symbols := symbols, source := 1, lanes := x }
    (paAbsent pa = true → exec (.memoryRead pa prio errs) s = .next (memRecord s pa 6 0 1 0)) ∧
    (paAbsent pa = false → pchBlocked u k p = true → exec (.memoryRead pa prio errs) s = .next (enqueue u held)) ∧
    (paAbsent pa = false → pchBlocked u k p = false → ∀ lane, laneDead u pa = some lane →
      exec (.memoryRead pa prio errs) s = .next (modPch u k p (fun c =>
        { c with recovering := some lane, confirmed := false, replay := liveBursts s.now c.replay, failed := some held,
                 lostAt := some pa }))) ∧
    (paAbsent pa = false → pchBlocked u k p = false → laneDead u pa = none →
      (sound → pat = [] → exec (.memoryRead pa prio errs) s = .next v) ∧
      (∀ fix, sound → rsCorrect pat = some fix → fix ≠ [] → patternAdd pat fix = [] →
        ∃ t x, exec (.memoryRead pa prio errs) s = .next t ∧ t.mem = s.mem ∧
          t.errors = mapDel v.errors (sectorOf pa) ∧ (getStack t k).ring.recs.head? = some x ∧ x.kind = 1 ∧
          x.symbols = fix.length ∧ x.addr = sectorBase pa ∧ x.source = 1) ∧
      (∀ fix, rsCorrect pat = none → rsCorrect (patternAdd pat poisonMask) = some fix → fails 4 fix.length (· = 0)) ∧
      (rsCorrect pat = none → rsCorrect (patternAdd pat poisonMask) = none → fails 2 0xF (· < 2 ^ 40)))

/-- MEMORY_WRITE to a sector without errors under its own keys stores the bytes its mask names and no others: every other
byte of memory reads as before (a sector of Lumiz's area keeps what its table or its journal says of it,
notes/assumptions/125.md), and nothing but memory, its records and counters changes (08 R264, R269). A write of part
of a poisoned sector is discarded, the sector stays poisoned and a record says so; a whole one ends the poison (09 R292). On
a pseudo-channel that issues nothing the write waits (08 R262).
MEMORY_WRITE is shown to answer a next state, under conditions on the state and the operands alone. -/
def Obligations.MemoryWriteStoresTheBytesItsMaskNames : Prop :=
  ∀ (pa mask : Nat) (data : List Byte) (s : State) (st : Stack), s.homesOn = true → paAbsent pa = false →
    mapGet s.stackTab (paStack pa) = some st → data.length = 64 →
    (pchBlocked s (paStack pa) (paPch pa) = true → exec (.memoryWrite pa mask data) s =
      .next (enqueue s { pa := pa, priority := false, write := some (mask, data), time := s.now })) ∧
    (pchBlocked s (paStack pa) (paPch pa) = false → Memory.wf s.mem = true → symbolErrors s pa = [] →
      (isPoisoned s pa = false → readerKeys s pa = writtenKeys s pa →
        ∃ t, exec (.memoryWrite pa mask data) s = .next t ∧ MemoryFrame s t ∧
          (∀ i, i < 64 → byteAt t.mem (sectorBase pa + i) =
            if mask = fullMask ∨ bit mask i = true then data.getD i 0 else (poolBytes s pa).getD i 0) ∧
          (paReserved pa = false → ∀ i, i < 64 → (poolBytes s pa).getD i 0 = byteAt s.mem (sectorBase pa + i)) ∧
          (∀ a, a < sectorBase pa ∨ sectorBase pa + 64 ≤ a → byteAt t.mem a = byteAt s.mem a)) ∧
      (isPoisoned s pa = true → mask ≠ fullMask →
        ∃ t, exec (.memoryWrite pa mask data) s = .next t ∧ isPoisoned t pa = true ∧ t.mem = s.mem ∧
          (getStack t (paStack pa)).ring.recs.head? =
            some { time := s.now, addr := sectorBase pa, kind := 4, symbols := 0, source := 3, lanes := 0 }) ∧
      (keysFrom 0 s.poison = true → ∃ t, exec (.memoryWrite pa fullMask data) s = .next t ∧ isPoisoned t pa = false ∧
        ∀ i, i < 64 → byteAt t.mem (sectorBase pa + i) = data.getD i 0))

/-- Byte lanes (08 R273, R274, Table 8.10): the third write CRC error of a byte lane within 1 µs starts its recovery; a
confirmed loss takes the pair's spare, and retires the node when the spare is in use; the end of a recovery leaves the
pseudo-channel issuing, with no recovery. Maintenance of a stack: REFRESH closes the bank's row (the model's choice,
notes/assumptions/22.md), READ_RETRAIN changes nothing, the refresh rate doubles above 85 °C and returns at 82 °C or
less, and at 92 °C the home throttles the stack until 88 °C or less, THERM_ALERT_N follows, and at 102 °C the node
retires (08 R260, 16 Table 16.8), the inner code's increase is counted (08 R272), and a stack whose Platen sleeps enters
self-refresh (16 R541). PATROL_SCRUB reads the next sector of the home that is in use, as a read of the home, and moves
on (08 R278); SELF_REFRESH_EXIT ends self-refresh and serves what waited (16 R541).
Each of these rows is shown to answer a next state, under conditions on the state and the operands alone:
WRITE_CRC_ERROR, BYTE_LANE_LOSS, BYTE_LANE_RECOVERED, REFRESH, READ_RETRAIN, REFRESH_DOUBLE, INNER_CORR_POLL,
SELF_REFRESH_ENTRY, SELF_REFRESH_EXIT, PATROL_SCRUB. -/
def Obligations.StacksAreMaintainedAndByteLanesMoved : Prop :=
  (∀ (k p lane pa : Nat) (s : State) (st : Stack), k < 12 → p < 64 → s.powered = true → mapGet s.stackTab k = some st →
    let c := getPch s k p
    let recent := c.crcErrors.filter (fun e => s.now < e.2 + 1000)
    (((recent.filter (fun e => e.1 = lane)).length < 2 ∨ c.recovering ≠ none) →
      let w := modPch s k p (fun c => { c with crcErrors := (lane, s.now) :: recent })
      exec (.writeCrcError k p lane pa) s = .next (match (liveBursts s.now c.replay).find? (fun b => b.pa == sectorBase pa) with
        | some b => writeWhole w b.pa b.data
        | none => w)) ∧
    (2 ≤ (recent.filter (fun e => e.1 = lane)).length → c.recovering = none →
      ∃ t, exec (.writeCrcError k p lane pa) s = .next t ∧ (getPch t k p).recovering = some lane ∧
        (getPch t k p).confirmed = false) ∧
    (c.confirmed = false → st.sparesUsed.contains (p / 2) = false →
      ∃ t, exec (.byteLaneLoss k p lane) s = .next t ∧ (getPch t k p).recovering = some lane ∧
        (getPch t k p).confirmed = true ∧ p / 2 ∈ (getStack t k).sparesUsed ∧ t.phase = s.phase) ∧
    (c.confirmed = false → st.sparesUsed.contains (p / 2) = true →
      ∃ t, exec (.byteLaneLoss k p lane) s = .next t ∧ t.phase = .retired) ∧
    (∀ l, c.recovering = some l → c.confirmed = true → c.queue = [] → c.held = [] → c.failed = none → c.replay = [] →
      (∀ a, c.lostAt = some a → paStack a = k) →
      ∃ t, exec (.byteLaneRecovered k p) s = .next t ∧ (getPch t k p).recovering = none ∧ t.mem = s.mem ∧
        (getStack t k).ring.recs.head?.map (·.kind) = some 5)) ∧
  (∀ (k p bank temp count : Nat) (s : State) (st : Stack), s.powered = true → mapGet s.stackTab k = some st →
    let throttled := if 92 ≤ temp then true else if temp ≤ 88 then false else st.throttled
    let sensed (w : State) (hot : Bool) (since : Nat) : State :=
      let t := thermAlertStep
        (modStack w k (fun x => { x with temp := temp, refresh2x := hot, since2x := since, throttled := throttled }))
      if 102 ≤ temp then retire t { code := 5, unit := 0x10 + k, detail := 0 } else t
    let platen := (mapGetD s.platens PlatenPower.reset (k / 2)).state
    (st.selfRefresh = false → exec (.refresh k p bank) s =
      .next (modPch s k p (fun c => { c with openRows := mapDel c.openRows bank }))) ∧
    exec (.readRetrain k p) s = .next s ∧
    (85 < temp → exec (.refreshDouble k temp) s =
      .next (sensed s true (if st.refresh2x then st.since2x else s.now))) ∧
    (temp ≤ 82 → exec (.refreshDouble k temp) s = .next (sensed (if st.refresh2x then
        countFor s (formeOfStack s k) .memRefresh2x ((s.now - st.since2x) / 1000000) else s) false st.since2x)) ∧
    (82 < temp → temp ≤ 85 → exec (.refreshDouble k temp) s = .next (sensed s st.refresh2x st.since2x)) ∧
    exec (.innerCorrPoll k count) s =
      .next (countFor (modStack s k (fun x => { x with innerCount := count })) (formeOfStack s k) .memInnerCorr
        (count - st.innerCount)) ∧
    ((platen = .s2 ∨ platen = .s3) → st.quiesced = false →
      (∀ q ∈ st.pchs, q.2.queue = [] ∧ q.2.held = [] ∧ q.2.recovering = none) →
      exec (.selfRefreshEntry k) s = .next (modStack s k (fun x => { x with selfRefresh := true })))) ∧
  (∀ (k : Nat) (s : State) (st : Stack), s.powered = true → mapGet s.stackTab k = some st →
    (st.selfRefresh = false → st.quiesced = false →
      let first := if (formeOfStack s k).isSome then 0 else reservedSector
      let at_ := if st.scrub < first ∨ st.scrub ≥ backedSectors then first else st.scrub
      ∃ t, exec (.patrolScrub k) s = .next t ∧ (getStack t k).scrub = (at_ + 1) % backedSectors ∧
        t.mem = (homeRead 2 false (k * 2 ^ 37 + at_ * 64) s).1.mem) ∧
    (st.selfRefresh = true → s.moduleIdle = false → (∀ q ∈ st.pchs, q.2.queue = []) →
      ∃ t, exec (.selfRefreshExit k) s = .next t ∧ (getStack t k).selfRefresh = false ∧ t.mem = s.mem))

/-- Test unlock needs an engineering sample whose pin was held through the last cold reset, no forme, and a valid token (15
R519); STACK_QUIESCE needs test unlock and a stack without a forme, leaves the stack out of self-refresh and keeps no contents
(08 R282); the boundary-scan instructions run without test unlock, SAMPLE and EXTEST capturing the control pins, and any other
needs it (19 R612). The test controller works on a stack only under test unlock, with no forme on
the stack, and after the quiesce (08 R282): what it does then, and that it refuses otherwise, changing only whether the
access was accepted. While a checkpoint holds the journal a step that it records waits with its entry (15 R524, R527).
Each of these rows is shown to answer a next state, under conditions on the state and the operands alone: TEST_UNLOCK,
STACK_QUIESCE, JTAG_INSTRUCTION, REPAIR_STATUS_READ, ROW_REPAIR, PATTERN_TEST, STACK_RELEASE. -/
def Obligations.TestPortWorksOnlyUnderUnlock : Prop :=
  (∀ (token : List Byte) (k cells : Nat) (s : State),
    let refused := { s with jtag := { s.jtag with accepted := false } }
    let runs (c : Instr) (op : JtagOp) (cells captured : Nat) : Prop :=
      exec c s = .next { s with jtag := { s.jtag with op := op, cells := cells, captured := captured, accepted := true } }
    (s.powered = true → s.sec.grade = 2 → s.pins.tunlkAtReset = true → s.formes = [] → s.journal.full = false →
      Config.tokenValid s.sec.rootDigest token s.sec.serial = true →
      (journalHeld s = true → exec (.testUnlock token) s = .next (holdRow s (.testUnlock token))) ∧
      (journalHeld s = false → ∃ t, exec (.testUnlock token) s = .next t ∧
        t.sec = { s.sec with unlocked := true, unlocks := min 255 (s.sec.unlocks + 1) } ∧ t.jtag.accepted = true)) ∧
    ((s.sec.grade ≠ 2 ∨ s.pins.tunlkAtReset = false ∨ s.formes ≠ [] ∨
        Config.tokenValid s.sec.rootDigest token s.sec.serial = false) →
      exec (.testUnlock token) s = .next refused) ∧
    (s.powered = true → s.sec.unlocked = true → formeOfStack s k = none → (getStack s k).pchs = [] →
      let awake :=
        if (getStack s k).selfRefresh then modStack s k (fun x => { x with selfRefresh := false }) else s
      exec (.stackQuiesce k) s = .next
        { modStack awake k (fun x => { x with keySet := s.sec.nextKeys, quiesced := true }) with
          sec := { s.sec with nextKeys := s.sec.nextKeys + 1 }, jtag := { s.jtag with accepted := true } }) ∧
    ((s.sec.unlocked = false ∨ formeOfStack s k ≠ none) → exec (.stackQuiesce k) s = .next refused) ∧
    runs (.jtagInstruction .idcode) .idcode s.jtag.cells s.jtag.captured ∧
    runs (.jtagInstruction .bypass) .bypass s.jtag.cells s.jtag.captured ∧
    runs (.jtagInstruction (.samplePreload cells)) (.samplePreload cells) (cells % 2 ^ 12) (controlPins s) ∧
    runs (.jtagInstruction .extest) .extest s.jtag.cells (controlPins { s with jtag := { s.jtag with op := .extest } }) ∧
    (s.sec.unlocked = true → runs (.jtagInstruction .other) .other s.jtag.cells s.jtag.captured) ∧
    (s.sec.unlocked = false → exec (.jtagInstruction .other) s = .next refused)) ∧
  (∀ (k : Nat) (row : RowId) (hard fails : Bool) (s : State) (st : Stack), mapGet s.stackTab k = some st →
    let refused := { s with jtag := { s.jtag with accepted := false } }
    let done (w : State) := { w with jtag := { w.jtag with accepted := true } }
    let repair : Repair := { row := row, hard := hard, failed := false }
    (repairOpen s k = true → journalHeld s = true →
      exec (.repairStatusRead k) s = .next (holdRow s (.repairStatusRead k)) ∧
      (s.journal.full = false → hasResource st row hard = true →
        exec (.rowRepair k row hard) s = .next (holdRow s (.rowRepair k row hard))) ∧
      ((∃ x ∈ st.repairs, x.row = row) → exec (.patternTest k row fails) s = .next (holdRow s (.patternTest k row fails))) ∧
      (s.journal.full = false → exec (.stackRelease k) s = .next (holdRow s (.stackRelease k)))) ∧
    (repairOpen s k = true → journalHeld s = false →
      exec (.repairStatusRead k) s = .next (done (testEntry { s with jtag := { s.jtag with
        hardLeft := leftOf st true, softLeft := leftOf st false } } 3)) ∧
      (s.journal.full = false → hasResource st row hard = true → exec (.rowRepair k row hard) s =
        .next (done (modStack (testEntry s 4) k (fun x => { x with repairs := x.repairs ++ [repair] })))) ∧
      ((∃ x ∈ st.repairs, x.row = row) → ∃ t, exec (.patternTest k row fails) s = .next t ∧
        t.jtag.accepted = true ∧ t.jtag.tested = some (row, fails) ∧
        (getStack t k).repairs = st.repairs.map (fun r => if r.row = row then { r with failed := fails } else r)) ∧
      (s.journal.full = false → ∃ t, exec (.stackRelease k) s = .next t ∧ t.jtag.accepted = true ∧
        (getStack t k).quiesced = false ∧ (getStack t k).keySet = s.sec.lumizKeys ∧
        t.mem = s.mem.filter (fun c => !stackBytes k c.1))) ∧
    (repairOpen s k = false →
      exec (.repairStatusRead k) s = .next refused ∧ exec (.rowRepair k row hard) s = .next refused ∧
      exec (.patternTest k row fails) s = .next refused ∧ exec (.stackRelease k) s = .next refused) ∧
    (hasResource st row hard = false → exec (.rowRepair k row hard) s = .next refused))

/-- What the rows of the memory pool leave alone in a node that runs on: all but memory with its records, the stacks and
the counters, and for a sensor's reading THERM_ALERT_N with its notice (16 Table 16.8); the rows of the test port besides write
its own registers, the journal with the mark in flash that it has begun, the notices of its filling and the wake it asks for,
and the security state (08, 15 R519, R528). -/
def Obligations.MemoryRowsLeaveTheRestUnchanged : Prop :=
  ∀ (c : Instr) (s t : State), exec c s = .next t → t.phase = s.phase →
    (isPoolRow c = true → MemoryFrame s t) ∧ (isTestRow c = true → TestFrame s t) ∧
    (∀ k temp, c = .refreshDouble k temp → MemoryFrame s { t with pins := s.pins, sb := s.sb })

/-! ## The Gutter (01) -/

/-- A failed lane of a group moves onto the spare: the swap starts, and its end leaves the spare in use and a journal entry
of the link; with the spare in use, or a swap onto it under way (the model's choice, notes/assumptions/116.md), the node
retires, as it does at the loss of a link (01 R36 to R39). Before the links are trained a lane that fails is one for training
to find, and a link that is lost does not train (01 R39, 18 Table 18.2).
Each of these rows is shown to answer a next state, under conditions on the state and the operands alone:
GUTTER_LANE_FAIL, LANE_SWAP_DONE, GUTTER_LINK_LOSS. -/
def Obligations.GutterLaneSwapsOnceThenRetires : Prop :=
  ∀ (link dir group : Nat) (s : State), s.powered = true →
    let g := getLanes s link dir group
    let old := Config.freeNat s.free % 2 ^ 128
    let new := Config.freeNat (s.free + 1) % 2 ^ 128
    let set (w : State) (x : LaneGroup) : State := { w with lanes := mapSet w.lanes (laneKey link dir group) x }
    (s.untrained = false →
      (g.spareUsed = false → g.swapping = false → exec (.gutterLaneFail link dir group) s =
        .next (set s { failed := g.failed + 1, spareUsed := false, swapping := true })) ∧
      ((g.spareUsed = true ∨ g.swapping = true) →
        ∃ t, exec (.gutterLaneFail link dir group) s = .next t ∧ t.phase = .retired ∧
          t.sec.retirement = some (s.now, { code := 3, unit := 0x20 + link, detail := link + group * 2 ^ 8 })) ∧
      ∃ t, exec (.gutterLinkLoss link) s = .next t ∧ t.phase = .retired ∧
        t.sec.retirement = some (s.now, { code := 3, unit := 0x20 + link, detail := link })) ∧
    (s.untrained = true →
      exec (.gutterLaneFail link dir group) s = .next (set s { g with failed := g.failed + 1 }) ∧
      ∃ t, exec (.gutterLinkLoss link) s = .next t ∧ t.phase = .retired ∧
        t.sec.retirement = some (s.now, { code := 6, unit := 0x20 + link, detail := 0 })) ∧
    (g.swapping = true → journalHeld s = true →
      exec (.laneSwapDone link dir group) s = .next (holdRow s (.laneSwapDone link dir group))) ∧
    (g.swapping = true → journalHeld s = false → dir < 2 → group < 16 → exec (.laneSwapDone link dir group) s =
      .next (set (journalWrite s.drawn.drawn (jEntry JOrigin.firmware 0x0C link 2 old new))
        { g with spareUsed := true, swapping := false }))

/-! ## Sorts and slugs (06) -/

/-- Arithmetic and tallies (06 R189, R193, R195, Table 6.5): every active sort receives the result in the destination
register, every other register of every sort, every predicate, every other slug, stick and galley stays, and the slug goes
on at the next instruction. A register at or above REGS faults the stick instead: this is the form without it.
Each of these rows is shown to answer a next state, under conditions on the state and the operands alone: SORT_ARITHMETIC,
TALLY_SOME, TALLY_EVERY, TALLY_MASK, TALLY_COUNT, TALLY_SAME, TALLY_LIVE. -/
def Obligations.RegisterInstructionsWriteActiveSortsOnly : Prop :=
  ∀ (a : SlugAt) (i : Issue) (s : State) (d u v : Nat), issuing s a = some i → d < 256 →
    max d (max u v) < i.stick.header.regs →
    let x := i.slug
    let lanes := lanesOf x.active
    let writes (c : Instr) (val : Nat → W32) : Prop := ∃ t y, exec c s = .next t ∧ SlugFrame s t a ∧
      getStick t a.platen a.galley a.stick = some (withSlug i.stick a y) ∧
      y = Slug.goto { x with regs := y.regs } a.next ∧
      (∀ l r, l < 32 → r < 256 → regGet y l r = if r = d ∧ bit x.active l = true then val l else regGet x l r)
    (∀ op, writes (.sortArithmetic a op d u v) (fun l => arithResult op (regGet x l u) (regGet x l v))) ∧
    writes (.tallySome a d u) (fun _ => if lanes.any (fun l => predGet x l u) then 1 else 0) ∧
    writes (.tallyEvery a d u) (fun _ => if lanes.all (fun l => predGet x l u) then 1 else 0) ∧
    writes (.tallyMask a d u) (fun _ => BitVec.ofNat 32 (maskOf (lanes.filter (fun l => predGet x l u)))) ∧
    writes (.tallyCount a d u) (fun _ => BitVec.ofNat 32 (lanes.filter (fun l => predGet x l u)).length) ∧
    writes (.tallySame a d v) (fun _ => if lanes.all (fun l => regGet x l v == regGet x (lowLane x) v) then 1 else 0) ∧
    writes (.tallyLive a d) (fun _ => BitVec.ofNat 32 x.active)

/-- Exchanges (06 R195, R196, Table 6.5): every active sort receives the register of the sort at its source lane with valid
bit 1, or keeps its own value with valid bit 0 where the source is outside the slug, an empty lane or an exited sort.
Each of these rows is shown to answer a next state, under conditions on the state and the operands alone: XCH_AT,
XCH_ROT_W, XCH_ROT_C, XCH_FLIP, XCH_LOW. -/
def Obligations.ExchangesMoveAValueOrReportItInvalid : Prop :=
  ∀ (a : SlugAt) (i : Issue) (s : State) (d v r p m : Nat) (k : Int), issuing s a = some i → d < 256 → p < 256 →
    max d (max v r) < i.stick.header.regs → m < 32 →
    let x := i.slug
    let valid (src : Int) : Bool := decide (0 ≤ src) && decide (src < 32) &&
      decide (a.slug * 32 + src.toNat < i.stick.header.sorts) && !bit x.exited src.toNat
    let moves (c : Instr) (src : Nat → Int) : Prop := ∃ t y, exec c s = .next t ∧ SlugFrame s t a ∧
      getStick t a.platen a.galley a.stick = some (withSlug i.stick a y) ∧
      y = Slug.goto { x with regs := y.regs, preds := y.preds } a.next ∧
      (∀ l q, l < 32 → q < 256 → regGet y l q = if q = d ∧ bit x.active l = true then
        (if valid (src l) then regGet x (src l).toNat v else regGet x l v) else regGet x l q) ∧
      (∀ l q, l < 32 → q < 256 → predGet y l q = if q = p ∧ bit x.active l = true then valid (src l) else predGet x l q)
    moves (.xchAt a d v r p) (fun l => ((regGet x l r).toNat : Int)) ∧
    moves (.xchRotW a d v k p) (fun l => ((l : Int) + k) % 32) ∧
    moves (.xchRotC a d v k p) (fun l => (l : Int) + k) ∧
    moves (.xchFlip a d v m p) (fun l => ((Nat.xor l m : Nat) : Int)) ∧
    moves (.xchLow a d v p) (fun _ => (lowLane x : Int))

/-- Arithmetic never faults: an integer division by zero produces zero (06 R193); that sums, differences and products of
integers wrap is the model's choice (DESIGN CHOICE, notes/assumptions/29.md). -/
def Obligations.IntegerDivisionByZeroProducesZero : Prop :=
  ∀ (a b : W32), arithResult .divS a 0 = 0 ∧ arithResult .divU a 0 = 0 ∧
    arithResult .addI a b = a + b ∧ arithResult .subI a b = a - b ∧ arithResult .mulI a b = a * b ∧
    (arithResult .divU a b).toNat = a.toNat / b.toNat

/-- A branch (06 R191): all active sorts take it or none does, and the slug goes on there; a branch that differs opens a
divergence, runs the takers first and keeps the others for the join; beyond 32 divergences the stick faults. At the join the
others run, and then the union of the two sets but for sorts that have exited.
BRANCH is shown to answer a next state, under conditions on the state and the operands alone. -/
def Obligations.BranchRunsTakersThenOthersThenUnion : Prop :=
  ∀ (a : SlugAt) (i : Issue) (s : State) (p target join : Nat), issuing s a = some i →
    let x := i.slug
    let taken := maskOf ((lanesOf x.active).filter (fun l => predGet x l p))
    let rest := maskOf ((lanesOf x.active).filter (fun l => !predGet x l p))
    let d : Diverge := { join := join, other := rest, otherPc := a.next, secondSide := false, all := x.active }
    let w := countIssue s i.stick.forme
    (taken = 0 → branchTooDeep x p = false → exec (.branch a p target join) s = .next (setSlug w a (x.goto a.next))) ∧
    (taken ≠ 0 → rest = 0 → branchTooDeep x p = false →
      exec (.branch a p target join) s = .next (setSlug w a (x.goto target))) ∧
    (taken ≠ 0 → rest ≠ 0 → x.stack.length < 32 → exec (.branch a p target join) s =
      .next (setSlug w a (Slug.goto { x with active := taken, stack := d :: x.stack } target))) ∧
    (branchTooDeep x p = true → exec (.branch a p target join) s = .next (plainFault w a x .divergeDepth 0)) ∧
    (∀ (y : Slug) (st : List Diverge) (pc : Nat), y.stack = d :: st → y.active ≠ 0 → pc ≠ join →
      y.goto pc = { y with pc := pc, rerun := false }) ∧
    (∀ (y : Slug) (st : List Diverge), y.stack = d :: st → y.active ≠ 0 → rest ≠ 0 → a.next ≠ join →
      y.goto join = { y with active := rest, pc := a.next, rerun := false,
                             stack := { d with other := 0, secondSide := true } :: st }) ∧
    (∀ (y : Slug), y.stack = [d] → y.active ≠ 0 → a.next = join →
      y.goto join = { y with active := notExited y x.active, pc := join, stack := [], rerun := false }) ∧
    (∀ (y : Slug), y.stack = [{ d with other := 0, secondSide := true }] → y.active ≠ 0 →
      y.goto join = { y with active := notExited y x.active, pc := join, stack := [], rerun := false })

/-- EXIT ends the active sorts, which never run again (06 R192); READ_SPECIAL gives each active sort the value that
the tabled special has (06 Table 6.3), a free one for a binding the layer does not declare (notes/assumptions/31.md).
Each of these rows is shown to answer a next state, under conditions on the state and the operands alone: EXIT,
READ_SPECIAL. -/
def Obligations.ExitEndsActiveSortsAndSpecialsAreRead : Prop :=
  ∀ (a : SlugAt) (i : Issue) (s : State) (d : Nat) (sp : Special), issuing s a = some i →
    let x := i.slug
    let x' : Slug := { x with exited := Nat.lor x.exited x.active, active := 0 }
    exec (.exit a) s = .next (meetComplete (setSlug (countIssue s i.stick.forme) a (x'.goto a.next)) a) ∧
    (x.stack = [] → (x'.goto a.next).active = 0 ∧ (x'.goto a.next).exited = Nat.lor x.exited x.active) ∧
    (d + 1 < 256 → d + sizeRegs (specialSize sp) ≤ i.stick.header.regs →
      ∃ t y, exec (.readSpecial a d sp) s = .next t ∧ SlugFrame s t a ∧
        getStick t a.platen a.galley a.stick = some (withSlug i.stick a y) ∧
        ∀ l, l < 32 → bit x.active l = true →
          let v := specialValue s a i.stick l sp
          if sp = .time then pairGet y l d = v % 2 ^ 64 else (regGet y l d).toNat = v % 2 ^ 32)

/-- A fault of an instruction (06 R219 to R223, Tables 6.11, 6.12): the stick is dead, its operations that no unit has
accepted are gone, its fault is recorded with the code, lanes and place, and the counter rises. TRAP raises code 0x12; a
register at or above REGS raises 0x0C and the instruction writes nothing else.
TRAP is shown to answer a next state, under conditions on the state and the operands alone. -/
def Obligations.FaultingInstructionKillsItsStickAndIsRecorded : Prop :=
  ∀ (a : SlugAt) (i : Issue) (s : State) (op : ArithOp) (d u v : Nat) (f : Forme) (q : Pass), issuing s a = some i →
    getForme s i.stick.forme = some f → getPass s i.stick.forme i.stick.passSeq = some q →
    let r (code : Nat) : StickFault :=
      { passSeq := i.stick.passSeq, stick := i.stick.index, lanes := i.slug.active, addr := 0, pc := a.pc, code := code,
        slug := a.slug, attempt := i.stick.attempt, platen := a.platen, galley := a.galley, detail := 0 }
    let faults (c : Instr) (code : Nat) : Prop := ∃ t q', exec c s = .next t ∧
      getStick t a.platen a.galley a.stick = some { i.stick with dead := true, fault := some (r code) } ∧
      (∀ o ∈ (getGalley t a.platen a.galley).ops, o.stick = a.stick → o.started = true) ∧
      getPass t i.stick.forme i.stick.passSeq = some q' ∧ q'.faultCount = q.faultCount + 1 ∧
      q'.faults = (if (q.faults.filter (fun f => f.attempt = q.attempt)).length < 64 then q.faults ++ [r code] else q.faults) ∧
      (getForme t i.stick.forme).map (fun y => ctrGet y.counters .stickFaults) =
        some (ctrGet f.counters .stickFaults + 1)
    faults (.trap a) 0x12 ∧
    (i.stick.header.regs ≤ max d (max u v) → faults (.sortArithmetic a op d u v) 0x0C)

/-- Loads, stores and atomics in local store (06 R194, 09 R308, R310, R327): each active sort reads the bytes at its own aligned
address, zero-extended; the stores of one instruction are made in some order of its sorts; an atomic returns the value it
found and stores its operation's. One that acquires empties the galley's L1 first. No other register, stick or galley changes.
A qualifier that the instruction does not take makes it undefined, and faults the stick with ILLEGAL_OP. The zero extension and
the address in one register are the model's reading (DEDUCED, notes/assumptions/30.md).
Each of these rows is shown to answer a next state, under conditions on the state and the operands alone: SORT_LOAD,
SORT_STORE, SORT_ATOMIC. -/
def Obligations.LocalStoreAccessReadsAndWritesItsBytes : Prop :=
  ∀ (a : SlugAt) (i : Issue) (s : State) (size d r o c : Nat) (op : AtomOp) (ord : Ord), issuing s a = some i →
    memSize size = true → d + 1 < 256 → r < 256 →
    max (max d (max o c) + sizeRegs size - 1) r < i.stick.header.regs →
    let x := i.slug
    let addr (l : Nat) : Nat := (regGet x l r).toNat
    let reads (y : Slug) (l : Nat) : Nat := if size = 8 then pairGet y l d else (regGet y l d).toNat
    let base : State := if isAcquire ord then l1Clear s a.platen a.galley else s
    let illegal (c : Instr) : Prop := exec c s = .next (plainFault (countOnce s i) a x .illegalOp 0)
    (loadOrd ord = false → illegal (.sortLoad a true size d r ord)) ∧
    (storeOrd ord = false → illegal (.sortStore a true size d r ord)) ∧
    ((∀ l ∈ lanesOf x.active, addr l % size = 0 ∧ lsInside i.stick (addr l) size = true) →
      (loadOrd ord = true → ∃ t y, exec (.sortLoad a true size d r ord) s = .next t ∧ SlugFrame base t a ∧
        getStick t a.platen a.galley a.stick = some (withSlug i.stick a y) ∧ y = Slug.goto { x with regs := y.regs } a.next ∧
        ∀ l, l < 32 → bit x.active l = true → reads y l = ofBytes (readBytes i.stick.ls (addr l) size)) ∧
      (storeOrd ord = true → ∃ (t : State) (las : List Nat), exec (.sortStore a true size d r ord) s = .next t ∧
        SlugFrame s t a ∧ las.Perm (lanesOf x.active) ∧
        getStick t a.platen a.galley a.stick = some { withSlug i.stick a (x.goto a.next) with
          ls := las.foldl (fun m l => writeBytes m (addr l) (toBytes size (valGet x l d size))) i.stick.ls }) ∧
      ((size = 4 ∨ size = 8) → ∀ l, lanesOf x.active = [l] →
        let old := ofBytes (readBytes i.stick.ls (addr l) size)
        ∃ t y, exec (.sortAtomic a true op size d r o c ord) s = .next t ∧ SlugFrame base t a ∧
          getStick t a.platen a.galley a.stick = some { withSlug i.stick a y with
            ls := writeBytes i.stick.ls (addr l)
              (toBytes size (atomNew op size old (valGet x l o size) (valGet x l c size))) } ∧
          reads y l = old))

/-- Accesses of sorts to device memory (06 R194; 09 R308, R312, R313, R326): when every sort's address is aligned and
translates, a load takes its bytes from the lines at the addresses it translates to, unless a sector is poisoned; a
store writes its bytes line by line, through the stream tracker where it makes a whole line; an atomic is performed in
the Case lane by lane; ZLINE writes zeros over each line; each completes with the slug at the next instruction. An
address that is not aligned faults the stick, as does a qualifier that the instruction does not take, and one that waits
in a fault record leaves the slug waiting at the instruction (10 R361). FENCE.ACQ and FENCE.AR invalidate the galley's
L1, FENCE.REL does not; each completes, lets the slug go on and changes nothing else (09 R327, R328, R330). The pair of
registers that holds an address and the zero extension are the model's reading (notes/assumptions/30.md), the order of
the lanes' stores and atomics its choice (notes/assumptions/41.md), and so is that one held lane keeps the whole access
waiting (notes/assumptions/43.md).
Each of these rows is shown to answer a next state, under conditions on the state and the operands alone: SORT_LOAD,
SORT_STORE, SORT_ATOMIC, ZLINE, FENCE_ACQ, FENCE_REL, FENCE_AR. -/
def Obligations.DeviceAccessesTranslateAndFencesInvalidate : Prop :=
  (∀ (a : SlugAt) (i : Issue) (s : State) (size d r o k : Nat) (op : AtomOp) (ord : Ord) (pas : List (Nat × Nat)), issuing s a = some i →
    let x := i.slug
    let w := countOnce s i
    let las := laneAddrs x false r
    let tr (kind : Nat) := translateLanes (sortAccess i.stick a kind) a las w
    let all (kind : Nat) : Prop := (tr kind).2 = { ok := pas, denied := [], held := false }
    let fenced (u : State) : State := if isAcquire ord then l1Clear u a.platen a.galley else u
    let on (u : State) : State := modSlug u a (fun x => x.goto a.next)
    (memSize size = true → max (d + sizeRegs size - 1) (r + 1) < i.stick.header.regs →
      (∀ f, addrFaults i.stick false size size las = some f →
        (loadOrd ord = true → exec (.sortLoad a false size d r ord) s = .next (slugFault w a f)) ∧
        (storeOrd ord = true → exec (.sortStore a false size d r ord) s = .next (slugFault w a f))) ∧
      (loadOrd ord = false → exec (.sortLoad a false size d r ord) s = .next (plainFault w a x .illegalOp 0)) ∧
      (storeOrd ord = false → exec (.sortStore a false size d r ord) s = .next (plainFault w a x .illegalOp 0)) ∧
      (addrFaults i.stick false size size las = none →
        (loadOrd ord = true → all 0 →
          let q := readLines (fenced (tr 0).1) a.platen a.galley (distinctLines pas)
          (∀ la ∈ pas, linePoisoned q.2 la.2 = false) →
          exec (.sortLoad a false size d r ord) s = .next (setSlug q.1 a
            ((pas.foldl (fun y la => valSet y la.1 d size (ofBytes (lineBytes q.2 la.2 size))) x).goto a.next))) ∧
        (loadOrd ord = true → (tr 0).2.denied = [] → (tr 0).2.held = true →
          exec (.sortLoad a false size d r ord) s =
            .next (setSlug (tr 0).1 a { x with wait := .fault, rerun := true })) ∧
        (storeOrd ord = true → all 1 → exec (.sortStore a false size d r ord) s = .next (on
          ((gather (rotated (tr 1).1 pas) size (fun l => toBytes size (valGet x l d size))).foldl (fun u kv =>
            l1Update (if kv.2.1 = 2 ^ 128 - 1
              then caseWriteWhole u a.platen kv.1 kv.2.2 (noBypassOf u i.stick) i.stick.forme
              else cacheWrite u a.platen kv.1 kv.2.1 kv.2.2 none) a.platen a.galley kv.1 kv.2.1 kv.2.2)
            (tr 1).1.drawn))))) ∧
    ((size = 4 ∨ size = 8) → max (max d (max o k) + sizeRegs size - 1) (r + 1) < i.stick.header.regs →
      addrFaults i.stick false size size las = none → all 2 →
      let u := fenced (tr 2).1
      let q := (rotated u pas).foldl (fun (v : State × Slug × Nat) la =>
        let z := cacheAtomic v.1 a.platen la.2 size op (valGet x la.1 o size) (valGet x la.1 k size) none (some i.stick.forme)
        (l1Drop z.1 a.platen a.galley (lineOf la.2),
          if z.2.isSome then valSet v.2.1 la.1 d size (z.2.getD 0) else v.2.1,
          if z.2.isSome then v.2.2 else setBit v.2.2 la.1)) (u.drawn, x, 0)
      q.2.2 = 0 → exec (.sortAtomic a false op size d r o k ord) s = .next (setSlug q.1 a (q.2.1.goto a.next))) ∧
    (r + 1 < i.stick.header.regs →
      (∀ f, addrFaults i.stick false 128 128 las = some f → exec (.zline a r) s = .next (slugFault w a f)) ∧
      (addrFaults i.stick false 128 128 las = none → all 1 → exec (.zline a r) s = .next (on
        ((distinctLines pas).foldl (fun u ln =>
          l1Drop (cacheWrite u a.platen ln (2 ^ 128 - 1) (List.replicate 128 0#8) none) a.platen a.galley ln) (tr 1).1))))) ∧
  (∀ (a : SlugAt) (i : Issue) (s : State), issuing s a = some i →
    let w := countIssue s i.stick.forme
    let goes (w : State) : State := setSlug w a (i.slug.goto a.next)
    let cleared : State := modGalley w a.platen a.galley (fun x => { x with l1 := [] })
    exec (.fenceAcq a) s = .next (goes cleared) ∧ exec (.fenceAr a) s = .next (goes cleared) ∧
      exec (.fenceRel a) s = .next (goes w))

/-- Locks in local store by one sort (06 R209 to R213, Tables 6.9, 6.10): a free word is acquired with the sort's own holder
word and status 0, a word its own slug holds gives status 1, LOCK.TRY of another's gives 2 and LOCK.ACQ of it waits; the
release of a word that records the sort as its holder writes zero, and of any other faults the stick.
Each of these rows is shown to answer a next state, under conditions on the state and the operands alone: LOCK_ACQ,
LOCK_TRY, LOCK_REL. -/
def Obligations.LockIsAcquiredWaitedForAndReleased : Prop :=
  ∀ (a : SlugAt) (i : Issue) (s : State) (d r l : Nat), issuing s a = some i → lanesOf i.slug.active = [l] →
    max d r < i.stick.header.regs → d < 256 →
    let x := i.slug
    let addr := (regGet x l r).toNat
    addr % 4 = 0 → lsInside i.stick addr 4 = true →
    let word := ofBytes (readBytes i.stick.ls addr 4)
    let w := countOnce s i
    let own := lockWord a x.slot l
    let cleared (w : State) : State := l1Clear w a.platen a.galley
    let status (n : Nat) (y : Slug) : Slug := regSet y l d (BitVec.ofNat 32 n)
    (bit word 31 = false → x.locks.length < 16 →
      ∀ c ∈ [Instr.lockAcq a true d r, .lockTry a true d r], ∃ t y, exec c s = .next t ∧
        getStick t a.platen a.galley a.stick = some { withSlug i.stick a y with
          ls := writeBytes i.stick.ls addr (toBytes 4 own) } ∧
        (regGet y l d).toNat = 0 ∧ y.locks = x.locks ++ [{ isLocal := true, addr := addr, lane := l }]) ∧
    (bit word 31 = true → lockSelf a x.slot word = true →
      exec (.lockAcq a true d r) s = .next (modSlug (cleared w) a (fun x => { status 1 x with wait := .none }.goto a.next)) ∧
      exec (.lockTry a true d r) s = .next (modSlug (cleared w) a (fun x => (status 1 x).goto a.next))) ∧
    (bit word 31 = true → lockSelf a x.slot word = false →
      exec (.lockTry a true d r) s = .next (modSlug (cleared w) a (fun x => (status 2 x).goto a.next)) ∧
      exec (.lockAcq a true d r) s =
        .next (modSlug w a (fun x => { x with wait := .lock true d [(l, addr)] a.next false }))) ∧
    (lockMine a x.slot l word = true → exec (.lockRel a true r) s = .next (modSlug (modSlug (lockWrite w a true addr 0) a
      (fun x => { x with locks := x.locks.erase { isLocal := true, addr := addr, lane := l } })) a (fun x => x.goto a.next))) ∧
    (lockMine a x.slot l word = false → exec (.lockRel a true r) s =
      .next (slugFault w a { code := .lockNotHeld, addr := addr, lanes := maskOf [l], detail := 0 }))

/-- Barriers (06 R214 to R216): the active sorts arrive; with sorts of the stick still to come, MEET.WAIT leaves the slug
waiting and MEET.MARK lets it go on, and the phase stays open with the arrivals; a bad number, count or mismatch faults the
stick with BAD_BARRIER. A slug that waits in LOCK.ACQ for a local word (06 R211): a retry that finds the word free acquires
it and the slug goes on; its time-out faults the stick with LOCK_TIMEOUT. A barrier whose waiters are stranded faults it
with BARRIER_STRANDED (06 R218).
Each of these rows is shown to answer a next state, under conditions on the state and the operands alone: MEET_MARK,
MEET_WAIT, LOCK_RETRY, LOCK_TIMEOUT, BARRIER_STRANDED. -/
def Obligations.BarriersCountArrivalsAndWaitsEnd : Prop :=
  (∀ (a : SlugAt) (i : Issue) (s : State) (b : Nat) (c : MeetCount), issuing s a = some i →
    let t := i.stick
    let x := i.slug
    let w := countIssue s t.forme
    let n := meetCount t x c (lowLane x)
    let arrived (y : Slug) : State := meetComplete (setSlug (modStick w a.platen a.galley a.stick (fun t =>
      { t with barriers := mapUpd t.barriers { count := n, arrivals := 0 } b
                (fun p => { p with arrivals := p.arrivals + (lanesOf x.active).length }) })) a y) a
    (meetTop c < t.header.regs → meetBad t x b c = [] →
      exec (.meetWait a b c) s = .next (arrived { x with wait := .barrier b a.next }) ∧
      exec (.meetMark a b c) s = .next (arrived (x.goto a.next))) ∧
    (∀ l m r, meetTop c < t.header.regs → meetBad t x b c = (l, m) :: r →
      let f : FaultAt := { code := .badBarrier, addr := 0, lanes := maskOf (l :: r.map (·.1)), detail := barrierDetail b m }
      exec (.meetWait a b c) s = .next (slugFault w a f) ∧ exec (.meetMark a b c) s = .next (slugFault w a f)) ∧
    (∀ (u : Stick) (ph : Barrier), u.barriers = [(b, ph)] → ph.arrivals + exitedSorts u ≥ ph.count →
      (completeBarriers u).barriers = [] ∧
      ∀ y next, y ∈ u.slugs → y.wait = .barrier b next → ({ y with wait := .none }.goto next) ∈ (completeBarriers u).slugs)) ∧
  (∀ (p g k n d l addr next b : Nat) (s : State) (t : Stick) (x : Slug) (ph : Barrier), platenRuns s p = true →
    getStick s p g k = some t → t.dead = false → t.slugs[n]? = some x →
    let a := slugAt s p g k n
    (x.wait = .lock true d [(l, addr)] next false →
      (bit (ofBytes (readBytes t.ls addr 4)) 31 = false → x.locks.length < 16 →
        ∃ u y, exec (.lockRetry p g k n) s = .next u ∧ getStick u p g k = some { withSlug t a y with
            ls := writeBytes t.ls addr (toBytes 4 (lockWord a x.slot l)) } ∧ y.wait = .none ∧
          y.locks = x.locks ++ [{ isLocal := true, addr := addr, lane := l }]) ∧
      exec (.lockTimeout p g k n) s =
        .next (slugFault s a { code := .lockTimeout, addr := addr, lanes := maskOf [l], detail := 0 })) ∧
    (mapGet t.barriers b = some ph → t.slugs.findIdx (waitsAt b) = n → waitsAt b x = true →
      exec (.barrierStranded p g k b) s = .next (slugFault s a
        { code := .barrierStranded, addr := 0, lanes := x.active, detail := barrierDetail b ph.count })))

/-! ## Tile operations (06), Press (03, 04), Brayer (07) -/

/-- A tile operation is issued with the next ticket of its slug while fewer than sixteen are open (06 R201, R203, R204);
the waits go on at once when the event has come and otherwise wait for it; read-done and done wake the slug that waits, and
an operation that is done leaves the slug's sixteen. Of one without work or without a seed the two events occur together (03
R625, 07 R233). The address and the ticket are those of the lowest active lane (DEDUCED, notes/assumptions/34.md).
Each of these rows is shown to answer a next state, under conditions on the state and the operands alone: TILE, TWAIT_RD,
TWAIT_DONE, TILE_READ_DONE, TILE_DONE. -/
def Obligations.TileOperationsAreIssuedWaitedForAndEnd : Prop :=
  (∀ (a : SlugAt) (i : Issue) (s : State) (areg dst treg : Nat), issuing s a = some i →
    let x := i.slug
    let w := countIssue s i.stick.forme
    let addr := (regGet x (lowLane x) areg).toNat
    let b := lsNat i.stick addr 32
    let o : TileOp := { stick := a.stick, slug := a.slug, ticket := x.tickets, block := b, pc := a.pc, lanes := x.active,
                        started := false, performed := false, readDone := false, done := false, held := false,
                        together := false }
    let op : OpRef := { platen := a.platen, galley := a.galley, stick := a.stick, slug := a.slug, ticket := x.tickets }
    let ticket := (regGet x (lowLane x) treg).toNat
    let mine := (slugOps s a).filter (fun o => o.ticket = ticket)
    let waits (c : Instr) (ended : TileOp → Bool) (wait : SlugWait) : Prop := exec c s = .next (setSlug w a
      (if mine.all ended then x.goto a.next else { x.goto a.next with wait := wait }))
    (max areg dst < i.stick.header.regs → dst < 256 → (slugOps s a).length < 16 → addr % 32 = 0 →
      lsInside i.stick addr 32 = true → 1 ≤ tbOpc b → tbOpc b ≤ 7 → blockReservedBad b = false →
      ∃ t y, exec (.tile a areg dst) s = .next t ∧ TileFrame s t op ∧
        (getGalley t a.platen a.galley).ops = (getGalley s a.platen a.galley).ops ++ [o] ∧
        getStick t a.platen a.galley a.stick = some (withSlug i.stick a y) ∧
        y = Slug.goto { x with regs := y.regs, tickets := x.tickets + 1 } a.next ∧
        ∀ l q, l < 32 → q < 256 →
          regGet y l q = if q = dst ∧ bit x.active l = true then BitVec.ofNat 32 x.tickets else regGet x l q) ∧
    (16 ≤ (slugOps s a).length → exec (.tile a areg dst) s = .next s) ∧
    (treg < i.stick.header.regs → ticket < x.tickets →
      waits (.twaitRd a treg) (fun o => o.readDone) (.readDone ticket) ∧
      waits (.twaitDone a treg) (fun o => o.done) (.done ticket)) ∧
    (treg < i.stick.header.regs → x.tickets ≤ ticket →
      exec (.twaitRd a treg) s = .next (plainFault w a x .ticket 0) ∧
      exec (.twaitDone a treg) s = .next (plainFault w a x .ticket 0))) ∧
  (∀ (r : OpRef) (o : TileOp) (k : Stick) (x : Slug) (s : State), platenRuns s r.platen = true → getOp s r = some o →
    o.performed = true → getStick s r.platen r.galley r.stick = some k → k.slugs[r.slug]? = some x →
    let woken (t : State) (ends : Bool) : Prop := TileFrame s t r ∧ ∃ k', getStick t r.platen r.galley r.stick = some k' ∧
      k'.slugs[r.slug]? = some (if ends then { x with wait := .none } else x) ∧ k'.ls = k.ls
    let both (c : Instr) : Prop := ∃ t, exec c s = .next t ∧ getOp t r = none ∧
      woken t (x.wait = .readDone r.ticket ∨ x.wait = .done r.ticket)
    (o.together = false → ∃ t, exec (.tileReadDone r) s = .next t ∧ getOp t r = some { o with readDone := true } ∧
      woken t (x.wait = .readDone r.ticket)) ∧
    (o.together = false → o.readDone = true → ∃ t, exec (.tileDone r) s = .next t ∧ getOp t r = none ∧
      woken t (x.wait = .done r.ticket)) ∧
    (o.together = true → both (.tileReadDone r) ∧ both (.tileDone r)))

/-- TILE_LOAD copies the box's elements inside the extents into the tile, zeros elsewhere, and TILE_STORE copies them back
(06 R198, R202): local tensors change local store alone; for a tensor in device memory every line is translated, and the
operation faults, waits (10 R361, R366) or completes: TILE_LOAD with what the lines hold, unless a sector is poisoned, and
TILE_STORE with its bytes written line by line.
Each of these rows is shown to answer a next state, under conditions on the state and the operands alone: TILE_LOAD,
TILE_STORE. -/
def Obligations.TileLoadAndStoreMoveTheBox : Prop :=
  ∀ (r : OpRef) (n : OpNow) (d : TensorDesc) (s : State), startsNext s r n.op = true →
    boxCheck s n.stick n.op.block = .ok d →
    let b := n.op.block
    let rs := boxRuns d (tbOrig0 b) (tbOrig1 b) (tbOrig2 b) (tbRows b) (tbCols b)
    let tile := emptyTile d.type (tbRows b) (tbCols b)
    let tr (kind : Nat) := translateLines (opAccess n.stick r kind) (.tileOp r) (runLines rs) s
    let made (c : Instr) (m : Bytes) : Prop := ∃ t, exec c s = .next t ∧ TileFrame s t r ∧
      getStick t r.platen r.galley r.stick = some { n.stick with ls := m } ∧
      getOp t r = some { n.op with started := true, performed := true }
    let stops (c : Instr) (kind : Nat) : Prop :=
      (∀ va, (tr kind).2.denied = some va → exec c s = .next (opFault (tr kind).1 r n.op .translation va 0)) ∧
      ((tr kind).2.denied = none → (tr kind).2.held = true →
        exec c s = .next (modOp (tr kind).1 r (fun o => { o with held := true, started := true })))
    (opNow s r 1 = some n →
      (d.isLocal = true → made (.tileLoad r) (writeBytes n.stick.ls (tbDst b)
        (rs.foldl (fun tile x => patch tile x.dst (readBytes n.stick.ls x.addr x.len)) tile))) ∧
      (d.isLocal = false → stops (.tileLoad r) 0 ∧
        let m := readCaseLines (tr 0).1 r.platen (tr 0).2.ok
        ((tr 0).2.denied = none → (tr 0).2.held = false → rs.all (fun x => (runBytes m.2 x).isSome) = true →
          exec (.tileLoad r) s = .next (opPerformed (lsWrite m.1 r (tbDst b)
            (rs.foldl (fun tile x => patch tile x.dst ((runBytes m.2 x).getD [])) tile)) r)))) ∧
    (opNow s r 2 = some n →
      (d.isLocal = true → made (.tileStore r) (rs.foldl
        (fun m x => writeBytes m x.addr (readBytes n.stick.ls (tbDst b + x.dst) x.len)) n.stick.ls)) ∧
      (d.isLocal = false → stops (.tileStore r) 1 ∧
        ((tr 1).2.denied = none → (tr 1).2.held = false → exec (.tileStore r) s = .next (opPerformed
          ((runWrites n.stick (tbDst b) rs).foldl (fun u kv =>
            match mapGet (tr 1).2.ok kv.1 with
            | none => u
            | some ln =>
              if kv.2.1 = 2 ^ 128 - 1 then caseWriteWhole u r.platen ln kv.2.2 (noBypassOf u n.stick) n.stick.forme
              else cacheWrite u r.platen ln kv.2.1 kv.2.2 none) (tr 1).1) r))))

/-- A Press operation enters its stage in its turn (03 R112, R113, R625); TILE_OPEN opens its bank with every window empty,
or seeded with one element of its tile (03 R87 to R89). TILE_OUT rounds every window's value times 2^SHIFT to the target
type in blocks of one row (03 R107 to R111), writes the tile to local store, tells the Proof unit (05 R139), and closes the
bank when CLOSE is set.
Each of these rows is shown to answer a next state, under conditions on the state and the operands alone:
PRESS_STAGE_START, TILE_OPEN, TILE_OUT. -/
def Obligations.PressBanksAreOpenedAndRoundedOut : Prop :=
  ((∀ (r : OpRef) (o : TileOp) (s : State), platenRuns s r.platen = true → getOp s r = some o → isPressOp o.block = true →
    o.started = false → mayEnter s r o = true →
    let p := getPress s r (tbUnit o.block)
    let me := some (r.stick, r.slug, r.ticket)
    ∃ t, exec (.pressStageStart r) s = .next t ∧ TileFrame s t r ∧ getOp t r = some { o with started := true } ∧
      getPress t r (tbUnit o.block) = if isMultiply o.block then { p with multiply := me } else { p with output := me }) ∧
  (∀ (r : OpRef) (n : OpNow) (s : State), pressNow s r 3 = some n →
    let b := n.op.block
    (tbSeed b = true → lsInside n.stick (tbOpa b) (tileBytes (tbType b) 64 32) = true) → seedBad b = false →
    (bankSpan (tbWin b) = 2 → tbBank b % 2 = 0) →
    (∀ i, i < bankSpan (tbWin b) → positionUsed (getPress s r (tbUnit b)) (tbBank b + i) = false) →
    ∃ t bk, exec (.tileOpen r) s = .next t ∧ TileFrame s t r ∧ getStick t r.platen r.galley r.stick = some n.stick ∧
      mapGet (getPress t r (tbUnit b)).banks (tbBank b) = some bk ∧
      bk.stick = r.stick ∧ bk.slug = r.slug ∧ bk.win = tbWin b ∧ bk.terms = boolBit (tbSeed b) ∧
      ∀ i j, i < 64 → j < 32 →
        (tbSeed b = false → bankWindow bk (32 * i + j) = Window.opened (tbWin b)) ∧
        (∀ k, tbSeed b = true → typeKind (tbType b) = some k →
          bankWindow bk (32 * i + j) = (Window.opened (tbWin b)).seed (tbWin b)
            (tileVal (nd5Of s n.stick) (lsByte n.stick) (tbOpa b) (tbType b) k 0 64 32 i j)))) ∧
  (∀ (r : OpRef) (n : OpNow) (bk : Bank) (k : Kind) (s : State), pressNow s r 6 = some n →
    let b := n.op.block
    let tgt := outTarget s n.stick b
    let row (i : Nat) : List Window := (List.range 32).map (fun j => bankWindow bk (32 * i + j))
    let conv (i : Nat) : Nat × List Conv := convRow (nd5Of s n.stick) .away k false ((row i).map (fun w => w.value.scale tgt.2))
    let seen (i : Nat) : List Seen := ((row i).zip (conv i).2).map (fun x =>
      { v := x.1.value, ev := x.2.ev, inf := x.2.val.isInf, inexact := x.1.inexact })
    tagBad s n.stick (tbTag b) (tbBind b) = false → typeKind tgt.1 = some k →
    lsInside n.stick (tbDst b) (tileBytes tgt.1 64 32) = true → ownBank s r b = some bk →
    ∃ t, exec (.tileOut r) s = .next t ∧ TileFrame s t r ∧
      getStick t r.platen r.galley r.stick =
        some { n.stick with ls := writeBytes n.stick.ls (tbDst b) (tilePack k ((List.range 64).map conv)) } ∧
      (getPress t r (tbUnit b)).banks =
        (if tbClose b then mapDel (getPress s r (tbUnit b)).banks (tbBank b) else (getPress s r (tbUnit b)).banks) ∧
      mapGet (getGalley t r.platen r.galley).proof (n.stick.passSeq * 32 + tbTag b) =
        some (((List.range 64).flatMap seen).foldl (Stats.count (tagTop s n.stick (tbTag b)))
          (mapGetD (getGalley s r.platen r.galley).proof statsZero (n.stick.passSeq * 32 + tbTag b))))

/-- TILE_MMA and TILE_MMA_S add to window (i, j) of their bank the products of row i of A and row j of B (03 R81 to R86,
R90 to R97; 04 R123 to R131), and the bank's terms rise by as many as each window took. The products of a block of BF16 or
FP16 operands arrive in an order that is free (03 R95, notes/assumptions/24.md).
Each of these rows is shown to answer a next state, under conditions on the state and the operands alone: TILE_MMA,
TILE_MMA_S. -/
def Obligations.ProductsAreAddedToEveryWindow : Prop :=
  ∀ (r : OpRef) (n : OpNow) (bk : Bank) (s : State), ownBank s r n.op.block = some bk →
    let b := n.op.block
    let k := tbK b
    let adds (c : Instr) (terms : Nat) (f : Nat → Nat → Window → Window) : Prop :=
      ∃ t bk', exec c s = .next t ∧ TileFrame s t r ∧ getStick t r.platen r.galley r.stick = some n.stick ∧
        getOp t r = some { n.op with started := true, performed := true } ∧
        mapGet (getPress t r (tbUnit b)).banks (tbBank b) = some bk' ∧
        bk' = { bk with terms := bk.terms + terms, windows := bk'.windows } ∧
        ∀ i j, i < 64 → j < 32 → bankWindow bk' (32 * i + j) = f i j (bankWindow bk (32 * i + j))
    (pressNow s r 4 = some n → mmaFault s r n.stick b = none →
      let ta := tbType b
      let tb := typeOfB n.stick b
      let ra := operandBytes n.stick r.slug (tbAReg b) (tbOpa b) (tileBytes ta 64 k)
      let rb := operandBytes n.stick r.slug (tbBReg b) (tbOpb b) (tileBytes tb 32 k)
      adds (.tileMma r) k (fun i j w => w.mma bk.win (arrivals bk.win 128 (s.free + 128 * (32 * i + j))
        ((operandRow ra ta (tbUA b) 64 k i).zip (operandRow rb tb (tbUB b) 32 k j))))) ∧
    (pressNow s r 5 = some n → mmaSFault s r n.stick b = none →
      let da := SliceDesc.ofNat (lsNat n.stick (tbOpa b) 16)
      let db := SliceDesc.ofNat (lsNat n.stick (tbOpb b) 16)
      adds (.tileMmaS r) (da.s * (da.s + 1) / 2 * k) (fun i j w =>
        let e := slicedExp n.stick da i + slicedExp n.stick db j + tbUA b + tbUB b
        w.slicedSum da.s (e + 4 - 16 * (da.s : Int)) (e + 3) ((List.range k).map (slicedElem n.stick da 64 i))
          ((List.range k).map (slicedElem n.stick db 32 j))))

/-- The Brayer's operations (07 R230 to R252, R623), with every check passed: a chain writes its tile or its reductions in
the type of its target, SLICE the slice planes, the classes and the exponents, SPREAD a record for each row or column, and
UPDATE the two moments, the rounded weights and the residuals. One of zero rows or columns has no effect but its clocks, and its
two events occur together (R233).
Each of these rows is shown to answer a next state, under conditions on the state and the operands alone: BRAYER_CHAIN,
SLICE, SPREAD, UPDATE. -/
def Obligations.BrayerWritesWhatItsDescriptorNames : Prop :=
  ∀ (r : OpRef) (n : OpNow) (s : State),
    let b := n.op.block
    let k := n.stick
    let c := Chain.ofNat (lsNat k (tbOpa b) 128)
    tbOpa b % 32 = 0 → lsInside k (tbOpa b) 128 = true → c.headBad (tbBind b) = false →
    let nd5 := nd5Of s k
    let ends (i : Instr) (together : Bool) (m : Bytes) : Prop := ∃ t, exec i s = .next t ∧ TileFrame s t r ∧
      getStick t r.platen r.galley r.stick = some { k with ls := m } ∧
      getOp t r = some { n.op with started := true, performed := true, together := n.op.together || together }
    let done (i : Instr) (m : Bytes) : Prop := ends i false m
    let write (m : Bytes) (x : Nat × List Byte) : Bytes := writeBytes m x.1 x.2
    (brayerNow s r .chain = some n → chainHeadBad s k b c = false →
      (c.nstep = 0 ∨ c.rows = 0 ∨ c.cols = 0 → ends (.brayerChain r) true k.ls) ∧
      (∀ dir wf kind, c.nstep ≠ 0 → c.rows ≠ 0 → c.cols ≠ 0 → dirOf c.rnd = some dir → wfOf c.wf = some wf →
        typeKind (chainTarget s k b c).1 = some kind →
        regionFault k (c.named.map (chainSrc c) ++ [chainDst s k b c]) = none →
        overlapBad (chainDst s k b c) (c.named.map (chainSrc c)) = false →
        let e := chainEnv s k b c dir wf kind
        done (.brayerChain r) (writeBytes k.ls c.dst
          (if c.red = 0 then tilePack kind ((chainTile k e c).map (·.1))
           else packElems kind.bits ((List.range c.outCount).map (fun i =>
             (convElem nd5 dir kind ((reduceOut e c i).val.scale e.shift)).code)))))) ∧
    (c.rows = 0 ∨ c.cols = 0 →
      (brayerNow s r .slice = some n → sliceHeadBad s k b c = false → ends (.slice r) true k.ls) ∧
      (brayerNow s r .spread = some n → spreadHeadBad c = false → ends (.spread r) true k.ls) ∧
      (brayerNow s r .update = some n → updateHeadBad s k b c = false → ends (.update r) true k.ls)) ∧
    (∀ kind, brayerNow s r .slice = some n → sliceHeadBad s k b c = false → typeKind (c.typeOf 0) = some kind →
      c.rows ≠ 0 → c.cols ≠ 0 →
      regionFault k [sliceSrc c, sliceExps c, { base := c.dst, len := 16, align := 16 }] = none → sliceLate k c = none →
      sliceOverlap k c = false → sliceRangeBad nd5 k c kind = false →
      let d := sliceDescOf k c
      let elems := (List.range (c.cols / 32)).flatMap (fun b => (List.range c.rows).flatMap (fun i =>
        (List.range 32).map (fun j => sliceElem nd5 k c kind d.s i (32 * b + j))))
      done (.slice r) (((List.range d.s).map (fun i => (d.planeBase + i * d.stride,
          elems.map (fun e => BitVec.ofNat 8 (unsigned (8 * d.s) e.x / 2 ^ (8 * (d.s - 1 - i)))))) ++
        [(d.classBase, packClasses (elems.map (·.cls))), (d.expBase, readBytes k.ls (c.srcOf 1) (2 * c.rows))]).foldl
          write k.ls)) ∧
    (∀ kind, brayerNow s r .spread = some n → spreadHeadBad c = false → typeKind (c.typeOf 0) = some kind →
      c.rows ≠ 0 → c.cols ≠ 0 → regionFault k [sliceSrc c, spreadDst c] = none →
      overlapBad (spreadDst c) [sliceSrc c] = false →
      let v (i j : Nat) : Sys2Proof.Machine.Num := tileVal nd5 (lsByte k) (c.srcOf 0) (c.typeOf 0) kind 0 c.rows c.cols i j
      let fresh (i : Nat) : SpreadRec :=
        (if c.axis = 0 then (List.range c.cols).map (v i) else (List.range c.rows).map (fun j => v j i)).foldl
          (fun a x => a.join (SpreadRec.ofNum x)) SpreadRec.empty
      let joined (i : Nat) : SpreadRec :=
        if c.red = 1 then (SpreadRec.ofNat (lsNat k (c.dst + 8 * i) 8)).join (fresh i) else fresh i
      done (.spread r) (writeBytes k.ls c.dst ((List.range c.outCount).flatMap (fun i => (joined i).pack)))) ∧
    (brayerNow s r .update = some n → updateHeadBad s k b c = false → c.rows ≠ 0 → c.cols ≠ 0 →
      regionFault k (updateRegions c) = none → pairsMeet (updateRegions c) = false →
      let blocks := (List.range (c.cols / 32)).flatMap (fun b => (List.range c.rows).map (fun i => updateBlock nd5 k c b i))
      let row (f : FloatFmt) (g : Updated → Sys2Proof.Machine.Num) :=
        blocks.map (fun us => convRow nd5 .away (.scaled f) false (us.map g))
      done (.update r) ([(c.srcOf 1, tilePack (.scaled ffF8E4) (row ffF8E4 (·.m))),
        (c.srcOf 2, tilePack (.scaled ffF8E5) (row ffF8E5 (·.v))),
        (c.srcOf 3, packElems 16 (blocks.flatten.map (·.w.code))),
        (c.dst, blocks.flatten.map (fun x => BitVec.ofNat 8 (unsigned 8 x.r)))].foldl write k.ls))

/-! ## Passes (05, 06) -/

/-- PASS_LAUNCH (12 R415, Table 12.15): no sticks completes OK_EMPTY; with every check passed a pass of the layer starts
with the next number, the variant of the present input types and the divided sticks, and the command waits for it. A
galley with room whose turn it is takes the lowest pending stick of its part and starts it with zeroed registers and
local store (06 R182 to R188); a stick whose sorts have exited and whose operations are done ends, and leaves its place
(06 R192).
Each of these rows is shown to answer a next state, under conditions on the state and the operands alone: PASS_LAUNCH,
STICK_START, STICK_END. -/
def Obligations.PassesAreLaunchedAndSticksStart : Prop :=
  (∀ (mb : MboxId) (k c fid : Nat) (f : Forme) (s : State), startsCmd s mb k 0x50 = some c → formeOfMbox s mb = some fid →
    getForme s fid = some f →
    (lcSticks c = 0 → Ended (.passLaunch mb k) s mb k stOkEmpty 0 0 (fun _ => True)) ∧
    (∀ st d, lcSticks c ≠ 0 → firstBad (launchChecks f.plate c) = some (st, d) →
      Ended (.passLaunch mb k) s mb k st d 0 (fun _ => True)) ∧
    (∀ p l v, lcSticks c ≠ 0 → firstBad (launchChecks f.plate c) = none → f.plate = some p → launchLayer p c = some l →
      variantFor p l = some v →
      ∃ t q, exec (.passLaunch mb k) s = .next t ∧ getPass t fid s.sec.nextPass = some q ∧ q.forme = fid ∧ q.mb = mb ∧
        q.slot = k ∧ q.layer = l.num ∧ q.variant = v.1 ∧ q.header = v.2.header ∧ q.nsticks = lcSticks c ∧
        q.phase = .running ∧ q.attempt = 0 ∧ q.outs = l.outs.map (·.now) ∧ q.ins = l.ins.map (inputNow p) ∧
        q.parts = dividePass f.platens (lcSticks c) ∧ t.sec.nextPass = (s.sec.nextPass + 1) % 2 ^ 32 ∧
        (getSlot t mb k).phase = .running ∧ (getSlot t mb k).waitId = s.sec.nextPass)) ∧
  ((∀ (p g f : Nat) (q : Pass) (part : Part) (s : State), platenRuns s p = true → g < 64 → formeOfPlaten s p = some f →
    pendingPass s f p = some q → getPass s f q.seq = some q → q.parts.find? (fun x => x.platen = p) = some part →
    hasRoom (getGalley s p g) q = true → galleyTurn s q part g = true →
    let k := (freeSlots 32 ((getGalley s p g).sticks.map (·.1))).headD 0
    ∃ t x q', exec (.stickStart p g) s = .next t ∧ getStick t p g k = some x ∧ x.forme = f ∧ x.passSeq = q.seq ∧
      x.index = part.next ∧ x.attempt = q.attempt ∧ x.header = q.header ∧ x.ls = [] ∧ x.barriers = [] ∧ x.dead = false ∧
      x.slugs.length = q.header.slugCount ∧
      (∀ y ∈ x.slugs, y.regs = [] ∧ y.preds = [] ∧ y.exited = 0 ∧ y.pc = 8 ∧ y.wait = .none ∧ y.locks = []) ∧
      (∀ j, j ≠ k → getStick t p g j = getStick s p g j) ∧
      getPass t f q.seq = some q' ∧
      q'.parts.map (fun y => (y.platen, y.first, y.stop, y.next)) =
        q.parts.map (fun y => (y.platen, y.first, y.stop, if y.platen = p then y.next + 1 else y.next)) ∧
      ∀ y ∈ q'.parts, y.platen = p → y.turn = (g + 1) % 64) ∧
  (∀ (p g k : Nat) (x : Stick) (f : Forme) (q : Pass) (s : State), platenRuns s p = true → getStick s p g k = some x →
    (getGalley s p g).ops.any (fun o => o.stick == k && !o.done) = false → x.dead = true ∨ stickDone x = true →
    (∀ y ∈ x.slugs, ∀ h ∈ y.locks, h.isLocal = true) →
    getForme s x.forme = some f → getPass s x.forme x.passSeq = some q →
    ∃ t f' q', exec (.stickEnd p g k) s = .next t ∧
      (getGalley t p g).sticks = mapDel (getGalley (releaseLocks s p g k) p g).sticks k ∧
      (∀ j, j ≠ k → getStick t p g j = getStick s p g j) ∧ getForme t x.forme = some f' ∧
      ctrGet f'.counters .sticksDone = ctrGet f.counters .sticksDone + (if x.dead then 0 else 1) ∧
      getPass t x.forme x.passSeq = some q' ∧ q' = { q with tEnd := s.now }))

/-- The end of an attempt (05 R157, R165, R166): after a stick fault the pass ends STICK_FAULT with its staged records
discarded; with a binding over its threshold and a rung left every stick runs again, the over bindings on their next rung;
otherwise the pass commits, by a swap of its proofed bindings or at once. The commit swap (05 R157, 10 R343): once every die
has acknowledged, the visible and the staging entries of each proofed binding have exchanged their physical pages and are
valid, and the pass has ended. That the entries hold no pass sequence after the swap is the model's reading (DEDUCED,
notes/assumptions/46.md).
Each of these rows is shown to answer a next state, under conditions on the state and the operands alone: ATTEMPT_END,
SWAP_COMPLETE. -/
def Obligations.AttemptsEndAndSwapsExchangeBuffers : Prop :=
  (∀ (fid seq : Nat) (f : Forme) (q : Pass) (s : State), s.up = true → getForme s fid = some f →
    getPass s fid seq = some q → q.forme = fid → attemptOver s q = true →
    let q1 := { q with records := q.records ++ attemptRecords s f q }
    let faulted := q1.faults.any (fun r => r.attempt = q1.attempt)
    let to1 (P : State → Pass → Prop) : Prop :=
      ∃ t q', exec (.attemptEnd fid seq) s = .next t ∧ getPass t fid seq = some q' ∧ P t q'
    (faulted = true → to1 (fun _ q' => q'.phase = .ended ∧ q'.status = stStickFault ∧
      ∀ r ∈ q'.records, r.attempt = q.attempt → r.staged = true → r.discarded = true)) ∧
    (∀ l, faulted = false → f.plate.bind (fun p => p.layerNum q.layer) = some l →
      let raises := (List.range q1.outs.length).any (q1.canRaise l)
      (raises = true → to1 (fun _ q' => q'.phase = .running ∧ q'.attempt = q.attempt + 1 ∧
        q'.parts = q.parts.map (fun x => { x with next := x.first, turn := 0, placing := true }) ∧
        (∀ p, f.plate = some p → q'.ins = l.ins.map (inputNow p)) ∧
        (q.outs.length ≤ l.outs.length → ∀ b o, q.outs[b]? = some o →
          (q'.outs[b]?).map (fun x => (x.type, x.raises)) = some (if q1.canRaise l b
            then ((nextRung o.type).getD o.type, o.raises + 1) else (o.type, o.raises))))) ∧
      (raises = false → proofedBindings q l = [] →
        to1 (fun _ q' => q'.phase = .ended ∧ q'.status = q1.committing.commitStatus)) ∧
      (raises = false → proofedBindings q l ≠ [] → to1 (fun t q' => q'.phase = .swapping ∧
        ∃ i, t.invals = s.invals ++ [i] ∧ i.purpose = .swap seq ∧ i.toAck = f.platens ++ [6, 7] ∧
          i.ids = (proofedBindings q l).flatMap (bindingIds f))))) ∧
  (∀ (fid seq : Nat) (f : Forme) (q : Pass) (l : Layer) (i : Inval) (s : State), s.up = true → getForme s fid = some f →
    getPass s fid seq = some q → q.forme = fid → q.phase = .swapping →
    s.invals.find? (fun i => i.forme = fid ∧ i.purpose = .swap seq) = some i → i.toAck = [] →
    f.plate.bind (fun p => p.layerNum q.layer) = some l →
    ∃ t f' q', exec (.swapComplete fid seq) s = .next t ∧ getForme t fid = some f' ∧ getPass t fid seq = some q' ∧
      q' = { q.committing with phase := .ended, status := q.committing.commitStatus } ∧
      (∀ j ∈ t.invals, j.id ≠ i.id) ∧ f'.ranges.length = f.ranges.length ∧
      ∀ (n : Nat) (e o : RangeEntry), f.ranges[n]? = some e → e.id ∈ i.ids → swapPartner f (proofedBindings q l) e = some o →
        f'.ranges[n]? = some { e with paPage := o.paPage, state := .valid, passSeq := 0, mapTime := s.now })

/-! ## Translation (10) -/

/-- A walk reads the eight sectors of one group at their home, where no request waits, and puts a valid entry into the
engine's range cache (10 R344, R345); a die that receives an invalidation holds none of its entries any more, and once
drained it acknowledges with its count (10 Table 10.4, R353). The last acknowledgement (10 R352, R357): an UNMAP_RANGE
completes with 10 Table 10.5 and its entries are free; a lock makes them LOCKED and valid and completes its PLATE_LOAD;
an unlock and a retirement let theirs go on, a destroy ends; a swap waits for SWAP_COMPLETE.
Each of these rows is shown to answer a next state, under conditions on the state and the operands alone: RANGE_WALK,
RANGE_INVALIDATION, INVALIDATION_ACK, ENGINE_DRAIN_DONE. -/
def Obligations.InvalidationsClearCachesAndEnd : Prop :=
  ((∀ (fid va : Nat) (eng : Engine) (f : Forme) (s : State), s.homesOn = true → getForme s fid = some f →
    (∀ i, i < 8 → let pa := walkGroup fid f va + 64 * i
      let c := getPch s (paStack pa) (paPch pa)
      paAbsent pa = false ∧ formeOfStack s (paStack pa) = some fid ∧ laneDead s pa = none ∧
      pchBlocked s (paStack pa) (paPch pa) = false ∧ c.queue = [] ∧ c.held = []) →
    ∃ t f', exec (.rangeWalk fid eng va) s = .next t ∧ getForme t fid = some f' ∧
      ctrGet f'.counters .memRdPrioBytes = ctrGet f.counters .memRdPrioBytes + 512 ∧
      (∀ e, entryAt f va = some e → e.state = .valid →
        (cachedIds t fid eng).head? = some e.id ∧ (cachedIds t fid eng).length ≤ rangeCapacity eng.cls) ∧
      ((∀ e, entryAt f va = some e → e.state ≠ .valid) → t.rangeCaches = s.rangeCaches)) ∧
  (∀ (inv die drained : Nat) (i : Inval) (s : State), getInval s inv = some i →
    (die ∈ i.toReceive → ∃ t, exec (.rangeInvalidation inv die) s = .next t ∧
      getInval t inv = some { i with toReceive := i.toReceive.filter (· ≠ die) } ∧
      ∀ eng id, eng.die = die → id ∈ i.ids → id ∉ cachedIds t i.forme eng) ∧
    (die ∈ i.toAck → die ∉ i.toReceive → ∃ t, exec (.engineDrainDone inv die drained) s = .next t ∧
      getInval t inv = some { i with
        toAck := i.toAck.filter (· ≠ die), drained := min (2 ^ 32 - 1) (i.drained + drained),
        tDone := if i.toAck.filter (· ≠ die) = [] then s.now else i.tDone }))) ∧
  (∀ (inv : Nat) (i : Inval) (f : Forme) (s : State), getInval s inv = some i → i.toAck = [] →
    getForme s i.forme = some f →
    (∀ mb k, i.purpose = .unmap mb k → MboxThere s mb →
      Ended (.invalidationAck inv) s mb k stOk 0 (unmapResult i) (fun t => getInval t inv = none ∧
        ∃ f', getForme t i.forme = some f' ∧ f'.ranges = f.ranges.filter (fun e => !i.ids.contains e.id))) ∧
    (∀ mb k, i.purpose = .lock mb k →
      let u := invalRestores s i .locked
      exec (.invalidationAck inv) s =
        .next (endLoad ((plateRegionsOf s i.forme).foldl fillRegion u) i.forme mb k) ∧
      getInval u inv = none ∧ ∃ f', getForme u i.forme = some f' ∧ f'.ranges = f.ranges.map (fun e =>
        if i.ids.contains e.id then { e with kind := .locked, state := .valid, mapTime := s.now } else e)) ∧
    (∀ mb k, i.purpose = .unlock mb k → exec (.invalidationAck inv) s =
      .next (loadStep (unlockPlate (invalRestores s i .normal) i.forme) i.forme mb k)) ∧
    (∀ mb k, i.purpose = .retire mb k → exec (.invalidationAck inv) s =
      .next (loadStep (discardPlate (invalFrees s i) i.forme) i.forme mb k)) ∧
    (∀ mb k, i.purpose = .destroy mb k → exec (.invalidationAck inv) s = .next (destroyEnds s i.forme i mb k)) ∧
    (∀ seq, i.purpose = .swap seq → exec (.invalidationAck inv) s = .next s))

/-- A fault record that has been resolved is evaluated: a slug that waits runs its instruction again where the address now
translates, and the record is RESUMED (10 R364); a NO_RANGE record whose hold runs out is DENIED, and the stick that waited
has faulted with TRANSLATION (10 R359, R360), a report that waited ends TRANSLATION_FAULT (12 R406).
Each of these rows is shown to answer a next state, under conditions on the state and the operands alone:
FAULT_REEVALUATE, FAULT_HOLD_EXPIRY. -/
def Obligations.HeldRequestResumesOrIsDenied : Prop :=
  (∀ (fid id lanes va kind : Nat) (eng : Engine) (a : SlugAt) (r : FaultRec) (k : Stick) (x : Slug) (s : State),
    faultById s fid id = some r → r.state = .opened → r.waiters = [(.sort a lanes, eng, kind, va)] →
    getStick s a.platen a.galley a.stick = some k → k.dead = false → k.slugs[a.slug]? = some x →
    let gone := setFaultState s fid id .moved
    (r.resolved = true → x.wait = .fault → stillWaits gone fid (sameSlug a) = false →
      (∃ pa v, translate gone { forme := fid, eng := eng, kind := kind, pass := some k.passSeq } va = (v, .ok pa) ∧
        v.phase = s.phase) →
      ∃ t r', exec (.faultReevaluate fid id) s = .next t ∧ getSlug t a = some { x with wait := .none } ∧
        faultById t fid id = some r' ∧ r'.state = .resumed ∧ r'.waiters = []) ∧
    (r.resolved = false → r.reason = .noRange →
      ∃ t r' k', exec (.faultHoldExpiry fid id) s = .next t ∧ faultById t fid id = some r' ∧ r'.state = .denied ∧
        r'.waiters = [] ∧ getStick t a.platen a.galley a.stick = some k' ∧ k'.dead = true ∧
        k'.fault.map (fun y => (y.code, y.addr, y.lanes, y.pc)) = some (0x10, va % 2 ^ 56, lanes, x.pc))) ∧
  (∀ (fid id k va kind : Nat) (mb : MboxId) (eng : Engine) (r : FaultRec) (s : State),
    faultById s fid id = some r → r.state = .opened → r.resolved = false → r.reason = .noRange →
    r.waiters = [(.copy mb k, eng, kind, va)] → (getSlot s mb k).phase = .ready →
    slotOpcode (getMbox s mb) k ∈ [0x02, 0x51, 0x70, 0x71] →
    Ended (.faultHoldExpiry fid id) s mb k stTranslationFault 0
      (getSlot (denyReport (setFaultState s fid id .denied) mb k va) mb k).result (fun t =>
        (getSlot t mb k).result % 2 ^ 32 = (va - (OutDesc.ofCmd (slotCmd (getMbox s mb) k)).addr) % 2 ^ 32))

/-! ## The mailbox (12) -/

/-- A write into a slot is stored, or dropped and counted where Lumiz owns the slot; the write that makes the top byte of
the seal word 0xC5 seals the slot (12 R388, R390, R392). A register write of a host whose request the port takes, with no
posted write of the port waiting before it (12 R391), reaches the same block or the MSI-X table, which keeps its bytes and
sends the vectors that waited unmasked (12 R387). A requester that the filter does not know is turned away, as is a request
with an AT field, a PASID or of I/O, one that finds memory space off, and one with its EP set, each logged (13 Table 13.4).
Offsets from `configBase` on are configuration space, numbered as notes/assumptions/23.md and 126.md say (DESIGN CHOICE,
PRESUMED): its Command register sets Memory Space Enable, whose rise learns RID0 (13 Table 13.3), and a byte of the requester
filter that is written changes alone (00 R10).
Each of these rows is shown to answer a next state, under conditions on the state and the operands alone: SLOT_WRITE,
REGISTER_WRITE. -/
def Obligations.SlotAndRegisterWritesReachTheirPlace : Prop :=
  (∀ (mb : MboxId) (req : ReqInfo) (off k : Nat) (data : List Byte) (s : State), s.powered = true → MboxThere s mb →
    (∀ p, mb = .host p → linkOpen s p = true ∧ reqRefused (getPort s p) req true = none ∧ writeHeld s p = false ∧
      (getPort s p).waiting = [] ∧ ∀ r ∈ s.idleReqs, portOfReq r ≠ some p) →
    data ≠ [] → off / 512 = k → (off + data.length - 1) / 512 = k → k < 64 →
    let row (c : Instr) : Prop :=
      ((getSlot s mb k).owned = true → exec c s =
        .next (modMbox s mb (fun m => { m with dropped := min (2 ^ 32 - 1) (m.dropped + 1) }))) ∧
      ((getSlot s mb k).owned = false → ∃ t, exec c s = .next t ∧
        (getMbox t mb).bytes = writeBytes (getMbox s mb).bytes off data ∧ (getMbox t mb).dropped = (getMbox s mb).dropped ∧
        let sealed := decide (off + data.length = 512 * (k + 1)) && data.getLast? == some 0xC5#8
        (getMbox t mb).seals = (if sealed then ((getMbox s mb).seals + 1) % 2 ^ 32 else (getMbox s mb).seals) ∧
        getSlot t mb k = (if sealed then { Slot.reset with phase := .sealed, tSeal := s.now } else getSlot s mb k))
    let whole : Payload := { bytes := data, poisoned := false }
    row (.slotWrite mb req off whole) ∧ (∀ p, mb = .host p → row (.registerWrite p req off whole))) ∧
  (∀ (p off : Nat) (req : ReqInfo) (data : List Byte) (bad : Bool) (x : Port) (s : State), linkOpen s p = true →
    mapGet s.ports p = some x →
    let sent : Payload := { bytes := data, poisoned := bad }
    let row : Instr := .registerWrite p req off sent
    (off < configBase → ∀ i, i = row ∨ i = .slotWrite (.host p) req off sent →
      let logged (e : AerEvent) : Prop := ∃ t, exec i s = .next t ∧
        mapGet t.ports p = some { x with aer := x.aer ++ [(e, i)], cfg := x.cfg.noteAer e }
      (x.accepts req.rid = false → logged .unsupportedAdvisory) ∧
      (x.accepts req.rid = true → x.memSpace = false ∨ req.atField ≠ 0 ∨ req.pasid = true ∨ req.io = true →
        logged .unsupportedRequest) ∧
      (reqRefused x req true = none → bad = true → logged .poisonedTlp)) ∧
    (off < configBase → 0x8000 < off + data.length → reqRefused x req true = none → bad = false →
      writeHeld s p = false → x.waiting = [] → (∀ r ∈ s.idleReqs, portOfReq r ≠ some p) →
      ∃ t, exec row s = .next t ∧ mapGet t.ports p = some (storeMsix x off data).flushMsix ∧
        ∀ b, data = [b] → (storeMsix x off data).msixTable =
          if 0xA000 ≤ off ∧ off < 0xA400 then setByte x.msixTable (off - 0xA000) b else x.msixTable) ∧
    (configBase ≤ off → off + data.length ≤ configBase + 4 ∨ configBase + 8 ≤ off →
      ∃ t, exec row s = .next t ∧ mapGet t.ports p = some (x.configWrite (off - configBase) data)) ∧
    (∀ b, off = configBase + 4 → data = [b] → bit b.toNat 2 = x.busMaster → ∃ t y, exec row s = .next t ∧
      mapGet t.ports p = some y ∧ y.memSpace = bit b.toNat 1 ∧ y.busMaster = x.busMaster ∧
      (x.memSpace = false → bit b.toNat 1 = true → y.rid0 = req.rid % 2 ^ 16 ∧ bit y.valid 0 = true))) ∧
  (∀ (x : Port) (a : Nat) (b : Byte), a < 8 → x.valid < 8 → x.rid0 < 2 ^ 16 → x.rid1 < 2 ^ 16 → x.rid2 < 2 ^ 16 →
    let y := x.configWrite (0x170 + a) [b]
    (∀ j, j < 8 → j ≠ a → (toBytes 8 y.filter).getD j 0 = (toBytes 8 x.filter).getD j 0) ∧
    (toBytes 8 y.filter).getD a 0 = if a = 0 then b &&& 7#8 else if a = 1 then 0 else b)

/-- Lumiz takes the sealed slot that was sealed first, of the lowest mailbox and slot among equals (12 R394), and checks it
in the order of 12 Table 12.6; a command whose checks pass waits for its AFTER list, or is ready unless it is held (05 R158,
R161). A list whose commands have completed, and a hold that has ended, let it go on (12 R400, R403). While eight commands are
in their firmware part none is added (12 R427).
Each of these rows is shown to answer a next state, under conditions on the state and the operands alone: SLOT_TAKE,
AFTER_RELEASE, HOLD_RELEASE. -/
def Obligations.SlotsAreTakenInOrderAndReleased : Prop :=
  (∀ (mb : MboxId) (k : Nat) (s : State), s.up = true → firmwareFull s = false → nextSealed s = some (mb, k) →
    let u := modSlot s mb k (fun x =>
      { x with tTaken := s.now, phase := .waitAfter, afterBad := failedBefore s mb k })
    (∀ y, y ∈ ownedSlots s → (getSlot s y.1 y.2).phase = .sealed →
      keyLt (takeKey s y.1 y.2) (takeKey s mb k) = false) ∧
    (∀ st d, firstBad (takeChecks u mb k) = some (st, d) → exec .slotTake s = .next (reject u mb k st d)) ∧
    (firstBad (takeChecks u mb k) = none → exec .slotTake s = .next (
      if hdrAfterCnt (slotHeader (getMbox u mb) k) ≠ 0 then u
      else modSlot u mb k (fun x => { x with phase := if heldNow u mb k then .held else .ready })))) ∧
  (∀ (mb : MboxId) (k : Nat) (s : State), s.up = true → firmwareFull s = false →
    let n := hdrAfterCnt (slotHeader (getMbox s mb) k)
    ((getSlot s mb k).phase = .waitAfter → afterWhere (getMbox s mb) k 0 n (fun e => !afterDone s mb k e) = none →
      (∀ o, afterFailed s mb k = some o → exec (.afterRelease mb k) s = .next (reject s mb k stAfterFailed o)) ∧
      (afterFailed s mb k = none → exec (.afterRelease mb k) s =
        .next (modSlot s mb k (fun x => { x with phase := if heldNow s mb k then .held else .ready })))) ∧
    ((getSlot s mb k).phase = .held → heldNow s mb k = false →
      exec (.holdRelease mb k) s = .next (modSlot s mb k (fun x => { x with phase := .ready })))) ∧
  (∀ (mb : MboxId) (k : Nat) (s : State), firmwareFull s = true →
    exec .slotTake s = .next s ∧ exec (.afterRelease mb k) s = .next s ∧ exec (.holdRelease mb k) s = .next s)

/-- A completion (12 R396, R401, R430, Table 12.4): the result area, the seal word zero, the header in completion form; the
slot is the host's again and marked done, and its SEQ and status enter the history unless the status is BAD_SEQ; a command
that waits for one which ends with a failure keeps that it failed (12 R403).
SLOT_COMPLETE is shown to answer a next state, under conditions on the state and the operands alone. -/
def Obligations.CompletionWritesTheSlotAndSignals : Prop :=
  ∀ (mb : MboxId) (k : Nat) (s : State), s.up = true → (getSlot s mb k).phase = .finished →
    let m := getMbox s mb
    let x := getSlot s mb k
    let h := slotHeader m k
    ∃ t, exec (.slotComplete mb k) s = .next t ∧
      (getMbox t mb).bytes = writeBytes (writeBytes (writeBytes m.bytes (512 * k + 0x178) (toBytes 128 x.result))
        (512 * k + 0x1F8) (toBytes 8 0)) (512 * k) (toBytes 64 (completionHeader s.now m k)) ∧
      getSlot t mb k = { Slot.reset with done := true } ∧
      (getMbox t mb).history =
        (if x.status = stBadSeq then m.history else ((slotSeq m k, x.status) :: m.history).take 4096) ∧
      (∀ p, mb = .host p → ∃ y, mapGet t.ports p = some y ∧
        y.tx = (getPort s p).tx ++ (if hdrIrq h ∧ (getPort s p).mayIssue ∧ (getPort s p).vectorMasked (hdrVector h) = false ∧
          (getPort s p).d3hot = false then [.msix TlpAttr.clear (hdrVector h)] else []) ∧
        (hdrIrq h = true → (getPort s p).signals (hdrVector h) = false →
          mapGet y.unsent k = some (hdrVector h, doneRecord m k x.status))) ∧
      (∀ f, mb = .core f → hdrIrq h = true → (mapGet s.harts (hdrHart h)).isSome = true →
        hdrVector h ∈ (getHart t (hdrHart h)).pending) ∧
      (0x0100 ≤ x.status → ∀ w ∈ ownedSlots s, ∀ j ∈ namesCmd s mb k w, j ∈ (getSlot t w.1 w.2).afterBad)

/-! ## Mailbox commands (12) -/

/-- The commands that report (12 R405 to R407, R416, R420, R421, R433; 15 R518, R530): with their checks passed each writes
its output through its descriptor and completes OK with OUT_USED, or NO_SPACE with the length it needs; an output to a VA
ends TRANSLATION_FAULT at the first page that is denied, with the bytes written before it, and waits at one that is held; an
export marks its entries after its own journal entry; RECOVERY_READ with ACK arms the port again.
Each of these rows is shown to answer a next state, under conditions on the state and the operands alone: IDENTIFY,
ATTEST, PASS_STATUS, TELEMETRY, JOURNAL_READ, JOURNAL_EXPORT, RECOVERY_READ. -/
def Obligations.ReportingCommandsAnswer : Prop :=
  ∀ (mb : MboxId) (k c : Nat) (s : State),
    let d := OutDesc.ofCmd c
    let goes (i : Instr) (u : State) (data : List Byte) : Prop := exec i s = .next (report u mb k d data)
    let fine := firstBad (outChecks s mb c) = none
    (startsCmd s mb k 0x01 = some c → reservedAt [] c = none → Ended (.identify mb k) s mb k stOk 0 (packFields
      [(32, gutterWord s), (8, s.sec.grade), (1, boolBit s.sec.unlocked), (7, 0), (16, s.sec.lumizVer), (64, s.sec.serial),
       (15, s.config.node), (17, 0), (32, s.config.gnid), (8, (identifyPort s mb).2.1),
       (8, (formeOfMbox s mb).getD 0xFF), (1, boolBit (isAdmin s mb)), (1, (identifyPort s mb).2.2)]) (fun _ => True)) ∧
    (reports s mb k 0x02 = some c → d.len ≠ 0 → reservedAt ((383, 128) :: outFields) c = none → fine →
      644 + (certChain s).length ≤ d.len → goes (.attest mb k) s.drawn (quote s mb (bits c 383 128)).2) ∧
    (∀ fid q, reports s mb k 0x51 = some c → d.len ≠ 0 → reservedAt ((159, 128) :: outFields) c = none → fine →
      formeOfMbox s mb = some fid → recentPass s fid (bits c 159 128) = some q →
      goes (.passStatus mb k) s (passReport q)) ∧
    (∀ fid f, reports s mb k 0x70 = some c → d.len ≠ 0 → bits c 135 128 ≠ 0 → reservedAt ((135, 128) :: outFields) c = none →
      fine → formeOfMbox s mb = some fid → getForme (countAllWaits s fid) fid = some f →
      let u := countAllWaits s fid
      goes (.telemetry mb k) u.drawn (telemetry u f (bits c 135 128))) ∧
    (reports s mb k 0x71 = some c → firstBad (journalChecks s mb c) = none →
      (bit c 224 = false → goes (.journalRead mb k) s
        ((journalWanted s c).flatMap (fun e => (e.forPort (isAdmin s mb) (formeOfMbox s mb)).pack))) ∧
      (bit c 224 = true → journalHeld s = false →
        goes (.journalExport mb k) s ((journalWanted s c).flatMap JEntry.pack))) ∧
    (reports s mb k 0x71 = some c → ∀ st o, firstBad (journalChecks s mb c) = some (st, o) →
      (bit c 224 = false → Ended (.journalRead mb k) s mb k st o 0 (fun t => t.mem = s.mem)) ∧
      (bit c 224 = true → journalHeld s = false → Ended (.journalExport mb k) s mb k st o 0 (fun t =>
        t.mem = s.mem ∧ t.journal = s.journal))) ∧
    (∀ u data,
      (d.len < data.length → report u mb k d data = finish u mb k stNoSpace data.length 0) ∧
      (data.length ≤ d.len → report u mb k d data = output u mb k d data (reported mb k))) ∧
    (∀ u n st, let x := slotCmd (getMbox u mb) k
      let es := (journalWanted u x).take (n / 64)
      let ends (v : State) (rest : Nat) : Prop :=
        reported mb k u n st = finish v mb k st 0 (packFields [(32, n), (992, rest)])
      (slotOpcode (getMbox u mb) k = 0x71 →
        (bit x 224 = false → ends u (journalResult u es (bits x 191 128))) ∧
        (bit x 224 = true → let v := markExported u (originOf u mb k) es (bits x 191 128)
          ends v (journalResult v es (bits x 191 128)))) ∧
      (slotOpcode (getMbox u mb) k = 0x51 → ∀ q, statusPass u mb x = some q → ends u (passHeader q)) ∧
      (slotOpcode (getMbox u mb) k ≠ 0x71 → slotOpcode (getMbox u mb) k ≠ 0x51 → ends u 0)) ∧
    (∀ u data go p, mb = .host p → d.host = true → (getPort u p).d3hot = false →
      output u mb k d data go = go (modPort u p (fun x =>
        { x with tx := x.tx ++ busWrites (min 512 x.maxPayload) data.length d.addr data })) data.length stOk) ∧
    (∀ u data go fid n, d.host = false → formeOfMbox u mb = some fid →
      let w := outPages (outAccess fid mb) (.copy mb k) { agent := agentOfDie (dieOfMbox mb), unit := coresUnit, zero := false }
        (pageSpans d.addr data.length) data 0 u
      (∀ pas, w.2 = (n, .ok pas) → output u mb k d data go = go w.1 n stOk) ∧
      (w.2 = (n, .denied) → output u mb k d data go = go w.1 n stTranslationFault) ∧
      (w.2 = (n, .held) → output u mb k d data go = w.1)) ∧
    (∀ a w via va len r data n u, let t := reach a w [(va, len)] u
      outPages a w via [] data n u = (u, n, .ok []) ∧
      (∀ pas, t.2 = .ok pas → outPages a w via ((va, len) :: r) data n u =
        outPages a w via r (data.drop len) (n + len) (writePieces via 0 pas (data.take len) t.1)) ∧
      (t.2 = .denied → outPages a w via ((va, len) :: r) data n u = (t.1, n, .denied)) ∧
      (t.2 = .held → outPages a w via ((va, len) :: r) data n u = (t.1, n, .held))) ∧
    (∀ p x, mb = .host p → getPort s p = x → startsCmd s mb k 0xA0 = some c → reservedAt [(32, 32), (31, 0)] c = none →
      (bit c 32 = false → Ended (.recoveryRead mb k) s mb k stOk 0 (recoveryHeader x) (fun _ => True)) ∧
      (bit c 32 = true → bits c 31 0 = x.epoch → x.busMaster = true → x.records.any (fun r => r.2.outcome == 2) = false →
        Ended (.recoveryRead mb k) s mb k stOk 0 (recoveryHeader x)
          (fun t => (getPort t p).armed = true ∧ (getPort t p).pendingAck = false)))

/-- COPY, FILL and ZERO (12 R409 to R411, 13 R447, R448): no length completes OK_EMPTY, a failed check ends the command, and
otherwise it starts; each piece is read from its source and written to the destination in rising order, and after the last
the command ends OK. A host read that is answered, or that has failed, lets its COPY go on.
Each of these rows is shown to answer a next state, under conditions on the state and the operands alone: COPY, FILL,
ZERO, HOST_READ_COMPLETION, HOST_READ_TIMEOUT. -/
def Obligations.TransfersMoveTheirPieces : Prop :=
  ∀ (mb : MboxId) (k c fid : Nat) (f : Forme) (s : State), formeOfMbox s mb = some fid → getForme s fid = some f →
    let x := getSlot s mb k
    let dst := cpDst c + x.offset
    let line := min (cpLen c - x.offset) (128 - dst % 128)
    let starts (i : Nat → Instr) (opc : Nat) (checks : List (Bool × Nat × Nat)) (begun : State) : Prop :=
      startsCmd s mb k opc = some c →
        (cpLen c = 0 → ∀ n, Ended (i n) s mb k stOkEmpty 0 0 (fun _ => True)) ∧
        (∀ st d n, cpLen c ≠ 0 → firstBad checks = some (st, d) → Ended (i n) s mb k st d 0 (fun _ => True)) ∧
        (cpLen c ≠ 0 → firstBad checks = none → exec (i 0) s = .next begun)
    let fills (i : Nat → Instr) (opc pattern : Nat) : Prop := runsCmd s mb k opc = some c →
      (x.offset = cpLen c → ∀ n, Ended (i (n + 1)) s mb k stOk 0 0 (fun _ => True)) ∧
      (∀ pa, x.offset ≠ cpLen c → (translate s (copyAccess fid x 1) dst).2 = .ok pa →
        exec (i 1) s = .next (advance (writeBytesPa (translate s (copyAccess fid x 1) dst).1 (copyVia s x mb k) pa 0
          (patternBytes pattern x.offset line)) mb k line))
    let begun := startMove s mb k (engineDieFor f mb (cpDst c)) 0
    starts (.copy mb k) 0x30 (copyChecks s mb c) (copyStart s fid f mb k c) ∧
    starts (.fill mb k) 0x31 [reservedCheck fillFields c, vaCheck c 64] begun ∧
    starts (.zero mb k) 0x32 [reservedCheck zeroFields c, vaCheck c 64] begun ∧
    fills (.fill mb k) 0x31 (bits c 63 0) ∧ fills (.zero mb k) 0x32 0 ∧
    (runsCmd s mb k 0x30 = some c → moveOf c = .device →
      (x.offset = cpLen c → ∀ n, Ended (.copy mb k (n + 1)) s mb k stOk 0 0 (fun _ => True)) ∧
      (∀ u v data pa, x.offset ≠ cpLen c → readSource s fid x mb k (cpSrc c + x.offset) line = (u, (data, .none)) →
        data ≠ [] → translate u (copyAccess fid x 1) dst = (v, .ok pa) →
        exec (.copy mb k 1) s = .next (advance (writeBytesPa v (copyVia u x mb k) pa (cpHint c) data) mb k data.length))) ∧
    (∀ u data p, runsCmd s mb k 0x30 = some c → moveOf c = .toHost → mb = .host p → (getPort s p).d3hot = false →
      (getPort s p).link = .l0 → x.offset ≠ cpLen c →
      readSource s fid x mb k (cpSrc c + x.offset)
        (busPiece dst (min 512 (getPort s p).maxPayload) (cpLen c - x.offset)) = (u, (data, .none)) → data ≠ [] →
      exec (.copy mb k 1) s = .next (advance (hostSend u p (.write TlpAttr.clear dst data)) mb k data.length)) ∧
    (∀ port tag data bad r, s.powered = true → (getPort s port).link = .l0 → readByTag (getPort s port) tag = some r →
      exec (.hostReadCompletion port tag data bad) s = .next (afterRead (setRead (if bad then
          logAer s port .poisonedTlp (.hostReadCompletion port tag data bad) else s)
        port r { r with arrived := some ((data ++ List.replicate r.len 0#8).take r.len), poisoned := bad }) r) ∧
      exec (.hostReadTimeout port tag) s =
        .next (afterRead (setRead (logAer s port .completionTimeout (.hostReadTimeout port tag)) port r
          { r with failed := true }) r))

/-- Commands that change an object and are journaled (10 R346, R351; 12 R408, R417 to R419; 15 R497 to R502, R524; 16 R540,
R555): a failed check ends the command with its status and detail; otherwise the object changes as the command says, the
entry that names it is the journal's newest, no GAP or BOOT entry being due, and the command completes OK or runs on; a
stack at which nothing waits is taken by a new forme.
Each of these rows is shown to answer a next state, under conditions on the state and the operands alone: FORME_CREATE,
CAP_SET, MAP_RANGE, UNMAP_RANGE, SET_POLICY, POWER_STATE, CORE_GROUP_START, CORE_GROUP_STOP. -/
def Obligations.CommandsChangeTheirObjectAndAreJournaled : Prop :=
  ∀ (mb : MboxId) (k c : Nat) (s : State), journalHeld s = false → s.journal.lost = 0 → s.journal.bootDue = false →
    let fails (i : Instr) (checks : List (Bool × Nat × Nat)) : Prop :=
      ∀ st d, firstBad checks = some (st, d) → Ended i s mb k st d 0 (fun _ => True)
    (startsCmd s mb k 0x10 = some c → fails (.formeCreate mb k) (fcChecks s c) ∧
      (firstBad (fcChecks s c) = none → (∀ p ∈ fcPlatens c, ∀ i, i / 2 = p → ∀ x ∈ (getStack s i).pchs,
          x.2.recovering = none ∧ x.2.queue = [] ∧ x.2.held = []) → Ended (.formeCreate mb k) s mb k stOk 0 0 (fun t =>
        Journaled t 0x04 (fcForme c) 1 (digest16 (toBytes 48 c)) ∧
        (∃ g, getForme t (fcForme c) = some g ∧ g.platens = fcPlatens c ∧ g.groups = fcGroups c ∧ g.ports = fcPorts c ∧
          g.faultHold = fcHold c ∧ g.ranges = [] ∧ g.faults = [] ∧ g.plate = none ∧ g.cap = 3000) ∧
        (∀ p ∈ fcPorts c, (mapGet s.ports p).isSome = true → (getPort t p).forme = some (fcForme c)) ∧
        ∀ a, byteAt t.mem a = if inStacks (fcPlatens c) a then 0 else byteAt s.mem a))) ∧
    (startsCmd s mb k 0x61 = some c → fails (.capSet mb k) (capChecks s c) ∧
      (firstBad (capChecks s c) = none → bit c 16 = true → Ended (.capSet mb k) s mb k stOk 0 0 (fun t =>
        Journaled t 0x0A 0 2 (digest16 (toBytes 2 (csWatts c))) ∧ t.moduleCap = csWatts c)) ∧
      (∀ fid f, firstBad (capChecks s c) = none → bit c 16 = false → formeOfMbox s mb = some fid → getForme s fid = some f →
        Ended (.capSet mb k) s mb k stOk 0 0 (fun t => Journaled t 0x0A (1 + fid) 2 (digest16 (toBytes 2 (csWatts c))) ∧
          t.moduleCap = s.moduleCap ∧ (getForme t fid).map (·.cap) = some (csWatts c)))) ∧
    (∀ fid f, formeOfMbox s mb = some fid → getForme s fid = some f →
      (startsCmd s mb k 0x20 = some c → fails (.mapRange mb k) (mapChecks s f c) ∧
        (firstBad (mapChecks s f c) = none →
          let id := (lowestFreeId f).getD 0
          let e := newEntry s.now id (mapVa c) (mapPa c) (mapLen c) (bit c 192) (bit c 193) (bit c 194) (bit c 195) .normal
          Ended (.mapRange mb k) s mb k stOk 0 id (fun t => Journaled t 0x05 (rangeObj fid id) 1 e.digest ∧
            ∃ f', getForme t fid = some f' ∧ f'.ranges = f.ranges ++ [e]))) ∧
      (startsCmd s mb k 0x21 = some c → fails (.unmapRange mb k) (unmapChecks s f c) ∧
        (∀ e, firstBad (unmapChecks s f c) = none → unmapEntry f (bits c 55 0) = some e →
          ∃ t f', exec (.unmapRange mb k) s = .next t ∧ (getSlot t mb k).phase = .running ∧
            (getSlot t mb k).waitId = s.sec.nextInval ∧ Journaled t 0x05 (rangeObj fid e.id) 3 0 ∧
            getForme t fid = some f' ∧
            f'.ranges = f.ranges.map (fun y =>
              if y.id = e.id then { y with state := .invalidating, mapTime := s.now } else y))) ∧
      (startsCmd s mb k 0x52 = some c → ∀ p, f.plate = some p → fails (.setPolicy mb k) (policyChecks s p c) ∧
        (firstBad (policyChecks s p c) = none → Ended (.setPolicy mb k) s mb k stOk 0 0 (fun t =>
          Journaled t 0x08 (policyObj fid (bits c 79 64) (bits c 83 80)) 2 (digest16 (toBytes 8 (bits c 63 0))) ∧
          ∃ g l' b', getForme t fid = some g ∧ (g.plate.bind (fun p => p.layerNum (bits c 79 64))) = some l' ∧
            l'.outs[bits c 83 80]? = some b' ∧ b'.policy = policyOf (bits c 63 0) ∧
            (bit c 59 = true → b'.history = [])))) ∧
      (startsCmd s mb k 0x52 = some c → f.plate = none → Ended (.setPolicy mb k) s mb k stNoPlate 0 0 (fun _ => True)) ∧
      (startsCmd s mb k 0x60 = some c →
        (psKind c ≠ 2 → psKind c ≠ 3 → fails (.powerState mb k) (psChecks s f c)) ∧
        (psKind c = 2 → fails (.coreGroupStart mb k) (psChecks s f c)) ∧
        (psKind c = 3 → s.groupsRunning.contains (psIndex c) = true → fails (.coreGroupStop mb k) (psChecks s f c)) ∧
        (psKind c = 1 → firstBad (psChecks s f c) = none → ∀ x, mapGet s.platens (psIndex c) = some x →
          ∃ t, exec (.powerState mb k) s = .next t ∧ (getPlaten t (psIndex c)).rest = psState c ∧
            (getSlot t mb k).phase = (if psState c < x.state.depth then .running else .finished) ∧
            Journaled t 0x09 (powerObj c) 2 (digest16 (toBytes 24 c))) ∧
        (psKind c = 2 → firstBad (psChecks s f c) = none → Ended (.coreGroupStart mb k) s mb k stOk 0 0 (fun t =>
          Journaled t 0x09 (powerObj c) 2 (digest16 (toBytes 24 c)) ∧ psIndex c ∈ t.groupsRunning ∧
          ∀ h, mapGet s.harts (8 * psIndex c) = some h →
            mapGet t.harts (8 * psIndex c) = some (h.begin (8 * psIndex c) (psEntry c) (psArg c)))) ∧
        (psKind c = 3 → psIndex c ∈ s.groupsRunning → firstBad (psChecks s f c) = none →
          Ended (.coreGroupStop mb k) s mb k stOk 0 0 (fun t =>
            Journaled t 0x09 (powerObj c) 2 (digest16 (toBytes 24 c)) ∧ psIndex c ∉ t.groupsRunning)) ∧
        (psKind c = 3 → psIndex c ∉ s.groupsRunning → firstBad (psFieldChecks c) = none → psNotOwned f c = false →
          Ended (.coreGroupStop mb k) s mb k stOk 0 0 (fun t => t.journal = s.journal))) ∧
      (runsCmd s mb k 0x60 = some c → (getPlaten s (psIndex c)).state = .s0 →
        Ended (.powerState mb k) s mb k stOk 0 0 (fun _ => True)))

/-- Plates and node images (12 R412 to R414; 15 R509 to R514, R520 to R522): an image that cannot be read or fails a
check ends the command; a plate that passes is accepted, and takes its place at once where the forme has none and locks
nothing; a seal that verifies seals the plate, and one that a field of the command fails reads nothing (00 R13, R14); an
installed image is programmed into the flash and then preferred.
Each of these rows is shown to answer a next state, under conditions on the state and the operands alone: PLATE_LOAD,
PLATE_SEAL, IMAGE_INSTALL, FLASH_PROGRAM_DONE. -/
def Obligations.ImagesAreCheckedAndTakeTheirPlace : Prop :=
  (∀ (mb : MboxId) (k c fid : Nat) (f : Forme) (s : State), startsCmd s mb k 0x40 = some c → formeOfMbox s mb = some fid →
    getForme s fid = some f →
    let r := readImage s fid c
    let img := r.2.2.1
    (∀ st d, firstBad (plChecks c) = some (st, d) → Ended (.plateLoad mb k) s mb k st d 0 (fun _ => True)) ∧
    (firstBad (plChecks c) = none → r.2.2.2 = false →
      exec (.plateLoad mb k) s = .next (rejectImage r.1 mb k stBadField r.2.1)) ∧
    (firstBad (plChecks c) = none → r.2.2.2 = true → isNodeImage img = false →
      (∀ st off, plateErrors f img (plLen c) (Config.freeBool s.free) = some (st, off) →
        exec (.plateLoad mb k) s = .next (rejectImage r.1.drawn mb k st off)) ∧
      (plateErrors f img (plLen c) (Config.freeBool s.free) = none →
        ((f.plate.bind (·.sealKey)).isSome = true → bit c 128 = false →
          exec (.plateLoad mb k) s = .next (reject r.1 mb k stPlateSealed (fieldOff 128))) ∧
        ((f.plate.bind (·.sealKey)).isSome = false ∨ bit c 128 = true →
          (checkRanges f img { err := none, taken := [] }).err = none → s.journal.full = false → journalHeld s = false →
          exec (.plateLoad mb k) s = .next (acceptPlate r.1 fid f img mb k)))) ∧
    (firstBad (plChecks c) = none → r.2.2.2 = true → isNodeImage img = true →
      (isAdmin s mb = false → exec (.imageInstall mb k) s = .next (reject r.1 mb k stNotPermitted 0)) ∧
      (isAdmin s mb = true →
        (∀ st off, nodeImageErrors img (plLen c) = some (st, off) →
          exec (.imageInstall mb k) s = .next (rejectImage r.1 mb k st off)) ∧
        (nodeImageErrors img (plLen c) = none → imageVerifies s img = false →
          exec (.imageInstall mb k) s = .next (reject r.1 mb k stSigFail (fieldOff 0))) ∧
        (nodeImageErrors img (plLen c) = none → imageVerifies s img = true → s.flash.programming = none →
          s.journal.full = false → exec (.imageInstall mb k) s =
            .next (finish { r.1 with flash := { r.1.flash with programming := some (programmingOf s img) } } mb k stOk 0 0))))) ∧
  (∀ (mb : MboxId) (k fid : Nat) (f : Forme) (img : List Byte) (u : State), getForme u fid = some f → MboxThere u mb →
    f.plate = none → (plateOf f img).regions = [] →
    let t := acceptPlate u fid f img mb k
    (getSlot t mb k).phase = .finished ∧ (getSlot t mb k).status = stOk ∧
      ∃ g, getForme t fid = some g ∧ g.plate = some (plateOf f img) ∧ g.loading = none) ∧
  (∀ (mb : MboxId) (k c fid : Nat) (f : Forme) (s : State), startsCmd s mb k 0x41 = some c → formeOfMbox s mb = some fid →
    getForme s fid = some f →
    let r := peekVa s fid (bits c 63 0) 784
    let b := r.2.2.1
    let stops (st d : Nat) : Prop := exec (.plateSeal mb k) s = .next (reject s mb k st d)
    (f.plate = none → stops stNoPlate 0) ∧
    (∀ p, f.plate = some p →
      (p.sealKey.isSome = true → stops stPlateSealed 0) ∧
      (p.sealKey = none → bits c 95 64 = 0 → stops stBadLength (fieldOff 64)) ∧
      (∀ o, p.sealKey = none → bits c 95 64 ≠ 0 → reservedAt [(95, 64), (63, 0)] c = some o → stops stBadReserved o)) ∧
    (∀ p, f.plate = some p → p.sealKey = none → bits c 95 64 = 784 → reservedAt [(95, 64), (63, 0)] c = none →
      bits c 63 56 = 0 → ¬(r.2.2.2 = true ∧ sealFormat b = 2 ∧ sealReserved b = 0) →
      exec (.plateSeal mb k) s = .next (reject r.1 mb k stBadField (fieldOff 0))) ∧
    (∀ p, f.plate = some p → p.sealKey = none → bits c 95 64 = 784 → reservedAt [(95, 64), (63, 0)] c = none →
      bits c 63 56 = 0 → r.2.2.2 = true → sealFormat b = 2 → sealReserved b = 0 → s.journal.full = false →
      (sealVerifies s f p b = false → exec (.plateSeal mb k) s = .next (reject r.1 mb k stSigFail (fieldOff 0))) ∧
      (sealVerifies s f p b = true → journalHeld s = false → exec (.plateSeal mb k) s = .next (finish
        (modForme (journalWrite r.1 (jEntry (originOf s mb k) 0x07 fid 1 0 (digest16 b))) fid (fun x =>
          { x with plate := x.plate.map (fun p => { p with sealKey := some (ofBytes (sha256 (sealModulus b))) }) }))
        mb k stOk 0 0)))) ∧
  (∀ (s : State), s.powered = true → journalHeld s = false →
    (∀ bank img, s.flash.programming = some (.lumiz bank img) → ∃ t, exec .flashProgramDone s = .next t ∧
      (if bank = 0 then t.flash.bankA else t.flash.bankB) = some img ∧ t.flash.preferredBank = bank ∧
      t.flash.programming = none) ∧
    (∀ slot cfg, s.flash.programming = some (.config slot cfg) → ∃ t, exec .flashProgramDone s = .next t ∧
      (if slot = 0 then t.flash.slot0 else t.flash.slot1) = some cfg ∧ t.flash.preferredSlot = slot ∧
      t.flash.programming = none))

/-- The ends of passes, formes and mesh jobs (12 R408, R423; 14 R467 to R470; 15 Table 15.3; 18 R588, R589): PASS_ABORT ends a
running pass ABORTED; a forme reset and a destroy abort the forme's commands and go on once nothing of it runs to
completion; a set-up that passed its checks is active, and reused where its digest is retained; a release waits for the
job's packets and retains it.
Each of these rows is shown to answer a next state, under conditions on the state and the operands alone: PASS_ABORT,
FORME_RESET, FORME_DESTROY, MESH_JOB_SETUP, MESH_JOB_RELEASE. -/
def Obligations.AbortsResetsAndReleasesEndWhatRuns : Prop :=
  ∀ (mb : MboxId) (k c : Nat) (s : State),
    let fid := rfForme c
    (startsCmd s mb k 0x90 = some c → ∀ st d, firstBad (resetChecks s c) = some (st, d) →
      (rfScope c = 1 → Ended (.passAbort mb k) s mb k st d 0 (fun _ => True)) ∧
      (rfScope c ≠ 1 → Ended (.formeReset mb k) s mb k st d 0 (fun _ => True))) ∧
    (startsCmd s mb k 0x90 = some c → firstBad (resetChecks s c) = none → journalHeld s = false →
      (∀ q, rfScope c = 1 → recentPass s fid (rfSeq c) = some q → exec (.passAbort mb k) s =
        .next (finish (abortPass (journalReset s mb k c) q) mb k stOk 0 0)) ∧
      (rfScope c = 2 → resetRuns s fid (mb, k) = false → (getForme s fid).any (·.destroying) = false →
        exec (.formeReset mb k) s =
        .next (resetEnds (abortForme (runOn (journalReset s mb k c) mb k 0) fid (mb, k)) fid mb k))) ∧
    (runsCmd s mb k 0x90 = some c → let t := resetStops s fid
      exec (.formeReset mb k) s = .next (if formeQuiet s fid (mb, k) then
        if meshQuiet t fid then finish (resetRest t fid) mb k stOk 0 0 else t else s)) ∧
    (∀ q, q.phase = .running →
      let q' := interrupted s { q with tEnd := s.now }
      abortPass s q = endPass (clearProof (stopSticks s (fun t => t.forme == q.forme && t.passSeq == q.seq)) q.seq) q'
        stAborted ∧
      (∀ f, getForme s q.forme = some f → q.begun s = true → ∀ r ∈ q'.records, r.attempt = q.attempt → r.staged = true →
          r.discarded = true)) ∧
    (startsCmd s mb k 0x11 = some c →
      (∀ st d, firstBad (fdChecks s c) = some (st, d) → Ended (.formeDestroy mb k) s mb k st d 0 (fun _ => True)) ∧
      (∀ f, firstBad (fdChecks s c) = none → journalHeld s = false → getForme s (fdForme c) = some f → f.destroying = false →
        ∃ u, exec (.formeDestroy mb k) s = .next (destroyStep u (fdForme c) mb k) ∧
          u = abortForme (runOn (modForme (journalWrite s (jEntry ((originOf s mb k).about (fdForme c)) 0x04 (fdForme c) 3
            f.created 0)) (fdForme c) (fun x => { x with destroying := true })) mb k 0) (fdForme c) (mb, k))) ∧
    (runsCmd s mb k 0x11 = some c → exec (.formeDestroy mb k) s = .next (destroyStep s (fdForme c) mb k)) ∧
    (∀ g, formeOfMbox s mb = some g →
      (startsCmd s mb k 0x80 = some c →
        let r := peekVa s g (mjDesc c) (min (mjLen c) descMax)
        let d := descOf r.2.2.1
        let j0 := routed s (jobOf g d)
        let j := { j0 with digest := setupDigest s r.2.2.1 j0 }
        (∀ st e, firstBad (setupChecks s c r.2.2.2 d j) = some (st, e) →
          exec (.meshJobSetup mb k) s = .next (reject s mb k st e)) ∧
        (firstBad (setupChecks s c r.2.2.2 d j) = none → journalHeld s = false →
          exec (.meshJobSetup mb k) s = .next (setupJob r.1 mb k j))) ∧
      (∀ j, MboxThere s mb → j.active = true →
        let t := setupJob s mb k j
        let again := s.mesh.jobs.any (sameSetup j)
        (getSlot t mb k).phase = .finished ∧ (getSlot t mb k).status = (if again then stOkReused else stOk) ∧
          (getSlot t mb k).result = j.digest ∧ ∃ x ∈ t.mesh.jobs, sameSetup j x = true ∧ x.active = true) ∧
      (∀ j, startsCmd s mb k 0x81 = some c → mjJob c ≠ 0 → reservedAt [(7, 0)] c = none →
        s.mesh.jobs.find? (fun j => j.active && j.forme == g && j.job == mjJob c) = some j → s.journal.full = false →
        journalHeld s = false → exec (.meshJobRelease mb k) s = .next (releaseStep (runOn
          (journalWrite s (jEntry (originOf s mb k) 0x0B (jobObj g (mjJob c)) 3 (measureDigest j.digest) 0)) mb k 0)
          g mb k)) ∧
      (runsCmd s mb k 0x81 = some c → meshCopies s g = [] → let t := closeJobs s g
        exec (.meshJobRelease mb k) s = .next (if meshQuiet t g then finish (releaseJobs t g) mb k stOk 0 0 else t)))

/-! ## Host ports (13) -/

/-- Events of a port (13 R436 to R438, R451, R453, R628, Tables 13.3, 13.5; 12 R410, R429 to R432; 18 R579): each reset
raises the epoch, sets its KIND and time, disarms the port, puts configuration space at its defaults, drops its reads
and records every owned slot, which keeps what an earlier reset recorded of a transfer it cut off; a function-level
reset leaves the link up, and it and a hot reset wait while the journal is held (15 R527). A port trains in flit mode,
at a rate and a width of R437. The other events change what they name alone, and clearing the bus master ends the port's
transfers of host memory. A COPY from host memory that is cut off has written what had arrived, and ends HOST_ERROR
where data is missing.
Each of these rows is shown to answer a next state, under conditions on the state and the operands alone: HOT_RESET,
FUNCTION_LEVEL_RESET, LINK_DOWN, PERST_N_ASSERT, PERST_N_RELEASE, LINK_RETRAIN, D3HOT_ENTRY, PCIE_TRAIN_ATTEMPT,
MEMORY_SPACE_ENABLE, BUS_MASTER_ENABLE_WRITE. -/
def Obligations.PortEventsAndResets : Prop :=
  ∀ (p : Nat) (x : Port) (s : State), s.powered = true → portExists s p = true → mapGet s.ports p = some x →
    let told (k : Nat) : Prop := ∃ r0, mapGet x.records k = some r0 ∧ (r0.outcome = 4 ∨ r0.outcome = 5) ∧
      r0.seq = slotSeq x.mbox k ∧ (x.mbox.slotAt k).phase = .finished
    let cut (k status : Nat) : Prop :=
      if (x.mbox.slotAt k).aborting then status = stAborted
      else status ∈ [stOk, stHostError, stTranslationFault] ∧
        ((∀ q ∈ readsOf x (.host p) k, q.arrived = none) →
          (x.mbox.slotAt k).offset < cpLen (slotCmd x.mbox k) → status = stHostError)
    let resets (c : Instr) (kind : Nat) (link : LinkState) (perst : Bool) : Prop := ∃ t y, exec c s = .next t ∧
      mapGet t.ports p = some y ∧ (t.phase = s.phase → y.epoch = (x.epoch + 1) % 2 ^ 32 ∧ y.resetKind = kind ∧ y.tReset = s.now ∧
      y.pendingAck = true ∧ y.armed = false ∧ y.reads = [] ∧ y.memSpace = false ∧ y.busMaster = false ∧ y.d3hot = false ∧
      y.valid = 0 ∧ y.maxPayload = 128 ∧ y.maxReadReq = 512 ∧ y.link = link ∧ y.perstAsserted = perst ∧ y.forme = x.forme ∧
      ∀ k ∈ x.mbox.ownedSlots, ∃ r, mapGet y.records k = some r ∧ r.slot = k ∧ r.seq = slotSeq x.mbox k ∧
        r.opcode = slotOpcode x.mbox k ∧ r.epochLo = y.epoch % 2 ^ 16 ∧
        (hostMove s p k = none → ¬told k → r.outcome = 2 ∧ r.status = 0) ∧
        (∀ r0, told k → mapGet x.records k = some r0 → r = { r0 with slot := k, opcode := r.opcode, epochLo := r.epochLo }) ∧
        (hostMove s p k = some .toHost → r.outcome = 4 ∧ r.status = stTorn) ∧
        (hostMove s p k = some .fromHost → r.outcome = 5 ∧ (y.mbox.slotAt k).phase = .finished ∧
          (y.mbox.slotAt k).status = r.status ∧ cut k r.status))
    let becomes (c : Instr) (y : Port) : Prop := ∃ t, exec c s = .next t ∧ mapGet t.ports p = some y ∧
      t = { s with ports := t.ports }
    (x.link = .l0 → resets (.linkDown p) 3 .down x.perstAsserted ∧
      (journalHeld s = false → resets (.hotReset p) 1 .down x.perstAsserted ∧
        resets (.functionLevelReset p) 2 .l0 x.perstAsserted) ∧
      (journalHeld s = true → ∀ c, c = .hotReset p ∨ c = .functionLevelReset p → exec c s = .next (holdRow s c))) ∧
    (x.perstAsserted = false →
      (x.trained = true → resets (.perstNAssert p) 3 .down true) ∧
      (x.trained = false → becomes (.perstNAssert p) { x with perstAsserted := true })) ∧
    becomes (.perstNRelease p) { x with perstAsserted := false } ∧
    exec (.linkRetrain p) s = .next s ∧
    (x.link = .l0 → ∀ d0, becomes (.d3hotEntry p d0) { x with d3hot := !d0 }.flushMsix) ∧
    (s.up = true → x.perstAsserted = false → x.link = .down →
      ∀ e : Training,
        let fits := e.reachesL0 = true ∧ e.flitMode = true ∧ 1 ≤ e.rate ∧ e.rate ≤ 6 ∧ e.width ∈ [1, 2, 4, 8] ∧
          e.width ≤ portLanes s p
        (fits → becomes (.pcieTrainAttempt p e) { x with link := .l0, trained := true, rate := e.rate, width := e.width }) ∧
        (¬fits → becomes (.pcieTrainAttempt p e)
          { x with trainFail := min (2 ^ 32 - 1) (x.trainFail + 1) })) ∧
    (x.link = .l0 → x.memSpace = false → ∀ rid, becomes (.memorySpaceEnable p rid)
      { x with memSpace := true, rid0 := rid % 2 ^ 16, valid := setBit x.valid 0 }) ∧
    (x.link = .l0 → becomes (.busMasterEnableWrite p true) { x with busMaster := true }.flushMsix ∧
      ∃ t y, exec (.busMasterEnableWrite p false) s = .next t ∧ mapGet t.ports p = some y ∧ y.busMaster = false ∧
        y.epoch = x.epoch ∧ y.records = x.records ∧ (t.phase = s.phase →
        ∀ k ∈ x.mbox.ownedSlots,
          (hostMove s p k = none → y.mbox.slotAt k = x.mbox.slotAt k) ∧
          (hostMove s p k = some .toHost →
            (y.mbox.slotAt k).phase = .finished ∧ (y.mbox.slotAt k).status = stTorn) ∧
          (hostMove s p k = some .fromHost →
            (y.mbox.slotAt k).phase = .finished ∧ cut k (y.mbox.slotAt k).status)))

/-- Requests into the aperture (13 R442 to R446, R449, Tables 13.3, 13.4): one that the filter, the window or the request's
own fields refuse is logged and, unless posted, answered unsupported; in module idle an accepted one waits and wakes the
module (16 R544); behind a posted write of the port that waits it waits in order of arrival (09 R334); otherwise it is
translated, and is performed, held, or aborted.
Each of these rows is shown to answer a next state, under conditions on the state and the operands alone: APERTURE_READ,
APERTURE_WRITE, APERTURE_ATOMIC. -/
def Obligations.ApertureRequestsArePerformedOrRefused : Prop :=
  ∀ (p off len size u v : Nat) (req : ReqInfo) (data : List Byte) (tph : Tph) (op : AtomOp) (s : State),
    linkOpen s p = true →
    let x := getPort s p
    let read : Instr := .apertureRead p req off len
    let write : Instr := .apertureWrite p req off data tph false
    let atomic : Instr := .apertureAtomic p req off size op u v
    let refused (n : Nat) := aperRefused x req off n
    let at2 (f kind n : Nat) (i : Instr) := reach (aperAccess f p kind) (.inbound i) (pageSpans (x.aperBase + off) n) s
    let waits (i : Instr) : Prop := exec i s = .next { s with idleReqs := s.idleReqs ++ [i], waking := true }
    (∀ e, refused len = some e → exec read s = .next (hostSend (logAer s p e read) p (.unsupported req.tag))) ∧
    (∀ e, refused size = some e → exec atomic s = .next (hostSend (logAer s p e atomic) p (.unsupported req.tag))) ∧
    (∀ e bad, refused data.length = some e → 
      let w : Instr := .apertureWrite p req off data tph bad
      exec w s = .next (logAer s p e w)) ∧
    (refused data.length = none →
      let w : Instr := .apertureWrite p req off data tph true
      exec w s = .next (logAer s p .poisonedTlp w)) ∧
    (refused size = none → pcieAtomic op size = false →
      exec atomic s = .next (hostSend (logAer s p .unsupportedRequest atomic) p (.unsupported req.tag))) ∧
    (refused size = none → pcieAtomic op size = true → off % size ≠ 0 → exec atomic s = .next (logAer s p .malformedTlp atomic)) ∧
    (x.accepts req.rid = true → x.memSpace = false ∨ x.forme = none ∨ aperWindow x < off + len →
      refused len = some .unsupportedRequest) ∧
    (s.moduleIdle = true → (refused len = none → waits read) ∧ (refused data.length = none → waits write) ∧
      (refused size = none → pcieAtomic op size = true → off % size = 0 → waits atomic)) ∧
    (s.moduleIdle = false → (writeHeld s p = true ∨ x.waiting ≠ []) →
      let queues (i : Instr) : Prop := exec i s = .next (modPort s p (fun y => { y with waiting := y.waiting ++ [i] }))
      (refused len = none → queues read) ∧ (refused data.length = none → queues write) ∧
      (refused size = none → pcieAtomic op size = true → off % size = 0 → queues atomic)) ∧
    (∀ f, s.moduleIdle = false → writeHeld s p = false → x.waiting = [] → x.forme = some f →
      (refused len = none →
        (∀ pas, (at2 f 0 len read).2 = .ok pas →
          let d := readPieces (portVia p) pas (at2 f 0 len read).1
          exec read s = .next (hostSend d.1 p (.completion req.tag d.2.1 d.2.2))) ∧
        ((at2 f 0 len read).2 = .held → exec read s = .next (at2 f 0 len read).1) ∧
        ((at2 f 0 len read).2 = .denied → exec read s =
          .next (hostSend (logAer (at2 f 0 len read).1 p .completerAbort read) p (.abort req.tag)))) ∧
      (refused data.length = none →
        (∀ pas, (at2 f 1 data.length write).2 = .ok pas →
          exec write s = .next (writePieces (portVia p) (tphHint tph) pas data (at2 f 1 data.length write).1)) ∧
        ((at2 f 1 data.length write).2 = .held → exec write s = .next (at2 f 1 data.length write).1) ∧
        ((at2 f 1 data.length write).2 = .denied →
          exec write s = .next (logAer (at2 f 1 data.length write).1 p .completerAbort write))) ∧
      (refused size = none → pcieAtomic op size = true → off % size = 0 →
        ∀ pa n pas old w, (at2 f 2 size atomic).2 = .ok ((pa, n) :: pas) →
          let die := if p < 2 then 6 else 7
          cacheAtomic (breakResv (at2 f 2 size atomic).1 die (lineOf pa) none) die pa size op (u % 2 ^ (8 * size))
            (v % 2 ^ (8 * size)) none (some f) = (w, some old) →
          exec atomic s = .next (hostSend w p (.completion req.tag (toBytes size old) false))))

/-! ## Power (16) -/

/-- States of Platens and module idle (16 R535 to R544; 09 Table 9.13): an idle Platen goes one state lower at its
timer, or straight to the rest state commanded; S2 and S3 are entered once the Case has been emptied, and S3 loses its
locked lines; a Platen that has woken from S2 or S3 runs at the lowest limit in force, no higher than a droop step left
it (16 R551). Module idle begins when nothing runs and ends with the requests that waited.
Each of these rows is shown to answer a next state, under conditions on the state and the operands alone:
GOVERNOR_TIMER_EXPIRY, CASE_SLEEP_DONE, PLATEN_WAKE_DONE, MODULE_IDLE_ENTRY, MODULE_WAKE_DONE. -/
def Obligations.PlatensRestAndWake : Prop :=
  (∀ (p : Nat) (x : PlatenPower) (s : State), s.up = true → s.moduleIdle = false → platenBusy s p = false →
    mapGet s.platens p = some x → ∀ t, lowerTo x = some t →
    let becomes (st : PowerState) : Prop := ∃ u y, exec (.governorTimerExpiry p) s = .next u ∧ mapGet u.platens p = some y ∧
      y.state = st ∧ y.rest = x.rest
    (x.rest = 8 → t = x.state.depth + 1) ∧ (x.rest ≠ 8 → t = x.rest) ∧
    (x.state = .s0 → t = 1 → becomes .s1) ∧
    (x.state = .s0 → t ≠ 1 → ∃ u, exec (.governorTimerExpiry p) s = .next u ∧ u = startSleep s p 0 t) ∧
    (x.state = .s1 → exec (.governorTimerExpiry p) s = .next (startSleep s p 1 t)) ∧
    (x.state = .s2 → becomes .s3)) ∧
  (∀ (p : Nat) (x : PlatenPower) (s : State), s.powered = true → mapGet s.platens p = some x →
    (∀ frm dest, x.state = .entering frm dest → x.wakeAsked = false →
      ∃ t y, exec (.caseSleepDone p) s = .next t ∧ mapGet t.platens p = some y ∧
        y.state = (if dest = 2 then .s2 else .s3) ∧
        t.lines = (if dest = 3 then s.lines.filter (fun kv => kv.1 / 2 ^ 34 ≠ p) else s.lines)) ∧
    (∀ frm, x.state = .waking frm → s.moduleIdle = false →
      let cleared := { s with galleys := s.galleys.filter (fun kv => kv.1 / 64 ≠ p) }
      let runs (u : State) : State := govern (setPower u p (fun x =>
        let l := { x.limits with input := u.meter.inputLimit }
        let k := if frm = 1 then x.step else if l.droop then min x.step l.ceiling else l.ceiling
        { x with state := .s0, step := k, volt := voltOf k, target := none, limits := l })) p
      exec (.platenWakeDone p) s =
        .next (runs (if frm = 3 then (lockedRegions cleared p).foldl fillRegion cleared else s)) ∧
      ∃ y, mapGet (runs s).platens p = some y ∧ y.state = .s0 ∧
        let l := { x.limits with input := s.meter.inputLimit }
        y.step = (if frm = 1 then x.step else if l.droop then min x.step l.ceiling else l.ceiling))) ∧
  (∀ (s : State), idlePossible s = true → ∃ t, exec .moduleIdleEntry s = .next t ∧
    (t.phase = s.phase → t.moduleIdle = true ∧ t.lines = [] ∧ t.dir = [] ∧ t.txns = [] ∧ t.l3Locks = [] ∧
      (∀ x ∈ t.gut.flights, x.transit.isSome = true) ∧
      ∀ k x, mapGet t.stackTab k = some x → x.selfRefresh = !x.quiesced)) ∧
  (∀ (s : State), s.powered = true → s.moduleIdle = true → s.waking = true →
    ∃ t, exec .moduleWakeDone s = .next (s.idleReqs.foldl performInbound t) ∧ t.moduleIdle = false ∧ t.idleReqs = [] ∧
      t.journal.heldInIdle = 0 ∧
      (t.phase = s.phase → ∀ k x, k < 12 → mapGet t.stackTab k = some x → x.selfRefresh = false))

/-- Limits and running points (16 R546 to R556, Table 16.8; 18 Table 18.7): the meter's windows, the cap loop, the thermal
steps, the input limit, a step that has settled, droop. An input above 72 V is outside the ratings (19 R600), and the model
stops there.
Each of these rows is shown to answer a next state, under conditions on the state and the operands alone:
POWER_METER_SAMPLE, CAP_LOOP_TICK, THERMAL_SENSOR, THERMAL_LIMIT_TICK, THERMAL_TRIP, INPUT_UNDERVOLTAGE,
INPUT_LIMIT_RELEASE, DROOP_DETECT, DROOP_RECOVERED, RUNNING_POINT_STEP. -/
def Obligations.LimitsMoveTheRunningPoints : Prop :=
  (∀ (mv ma : Nat) (s : State), s.phase ≠ .off → s.phase ≠ .lost → s.pins.pwrEn = true →
    let mw := mv * ma / 1000
    let xs := (mw :: s.meter.samples).take 1000
    let fast := decide (9 ≤ s.meter.fresh) && decide (sumOf (xs.take 10) > 34000000)
    (72000 < mv → exec (.powerMeterSample mv ma) s = .fault .outsideRatings) ∧
    (mv ≤ 72000 → ∃ t, exec (.powerMeterSample mv ma) s = .next t ∧ t.meter.millivolts = mv ∧ t.meter.milliamps = ma ∧
      t.meter.samples = xs ∧ t.meter.mean = s.meter.mean.sample s.now mw ∧
      (fast = false → t.platens = s.platens ∧ t.formes = s.formes) ∧
      (fast = true → ∀ p x, p < 6 → mapGet s.platens p = some x → x.state = .s0 → ∃ y, mapGet t.platens p = some y ∧
        y.step = x.step - 2 ∧ y.volt = voltOf (x.step - 2) ∧ y.limits.fast = x.step - 2 ∧ y.target = none))) ∧
  (∀ (w : Nat) (ws : List Nat) (s : State), s.powered = true →
    let u := (List.range 6).foldl (fun s p => droopOver (fastOver s p) p) s
    let d := if s.moduleCap < w then capDown .module u (List.range 6) s.groupsRunning else u
    let f := d.formes.foldl (formeTick ws) d
    exec (.capLoopTick w ws) s =
      .next (if w + 50 ≤ s.moduleCap ∧ s.meter.raised + 1000000 ≤ s.now then
        capUp .module f (List.range 6) s.groupsRunning else f)) ∧
  (∀ (mv ma : Nat) (s : State), s.phase ≠ .off → s.pins.pwrEn = false → 44000 ≤ mv → mv ≤ 58000 →
    ∃ t, exec (.powerMeterSample mv ma) s = .next t ∧ t.phase = .off ∧ t.pins.pwrGood = false) ∧
  (∀ (p temp : Nat) (x : PlatenPower) (s : State), s.powered = true → mapGet s.platens p = some x →
    (temp < 102 → ∃ t y, exec (.thermalSensor (.platen p) temp) s = .next t ∧ mapGet t.platens p = some y ∧ y.temp = temp ∧
      y.limits.forced = (if 95 ≤ temp then true else if temp ≤ 90 then false else x.limits.forced)) ∧
    (∀ c, temp < 102 → ∃ t, exec (.thermalSensor (.compositor c) temp) s = .next t ∧ (getComp t c).temp = temp ∧
      (getComp t c).forced = (if 95 ≤ temp then true else if temp ≤ 90 then false else (getComp s c).forced)) ∧
    (∀ k st, temp < 102 → mapGet s.stackTab k = some st → ∃ t, exec (.thermalSensor (.stack k) temp) s = .next t ∧
      mapGet t.stackTab k = some { st with
        temp := temp, refresh2x := if 85 < temp then true else if temp ≤ 82 then false else st.refresh2x
        since2x := if 85 < temp && !st.refresh2x then s.now else st.since2x
        throttled := if 92 ≤ temp then true else if temp ≤ 88 then false else st.throttled }) ∧
    (∀ sn, 102 ≤ temp → ∃ t, exec (.thermalSensor sn temp) s = .next t ∧ t.phase = .retired) ∧
    (∀ c, ∃ t, exec (.thermalLimitTick (.compositor c)) s = .next t ∧ (getComp t c).thermal =
      (if 88 ≤ (getComp s c).temp then max 10 (min (getComp s c).thermal (compClock s c) - 1)
       else if (getComp s c).temp ≤ 85 ∧ (getComp s c).thermal < 26 then (getComp s c).thermal + 1
       else (getComp s c).thermal)) ∧
    (∀ k, exec (.thermalLimitTick (.stack k)) s = .next s) ∧
    (∀ sn, ∃ t, exec (.thermalTrip sn) s = .next t ∧ t.phase = .retired ∧
      t.sec.retirement = some (s.now, { code := 5, unit := sensorUnit sn, detail := 0 })) ∧
    (∃ t y, exec (.thermalLimitTick (.platen p)) s = .next t ∧ mapGet t.platens p = some y ∧ y.limits.thermal =
      (if 88 ≤ x.temp then min x.limits.thermal x.step - 1
       else if x.temp ≤ 85 ∧ x.limits.thermal < 18 then x.limits.thermal + 1 else x.limits.thermal)) ∧
    (∃ t y, exec (.droopDetect p true) s = .next t ∧ mapGet t.platens p = some y ∧
      (x.state = .s0 → y.stretching = true ∧ y.limits.droop = true ∧ y.droopAt = s.now ∧
        y.limits.droopTop = x.target.getD x.step - 1 ∧
        (x.target = none → y.target = if x.step = 0 then none else some (x.step - 1)) ∧
        (∀ k, x.target = some k → y.target = some k))) ∧
    (x.stretching = false → exec (.droopRecovered p) s = .next s) ∧
    (x.stretching = true → ∃ t y, exec (.droopRecovered p) s = .next t ∧ mapGet t.platens p = some y ∧ y.stretching = false ∧
      t = countFor { s.drawn with platens := t.platens } (formeOfPlaten s p) .stretchClocks (32 + Config.freeNat s.free)) ∧
    (∀ k, x.target = some k → x.state = .s0 → ∃ t y, exec (.runningPointStep p) s = .next t ∧ mapGet t.platens p = some y ∧
      y.step = k)) ∧
  (∀ (s : State), s.powered = true →
    (∃ t, exec .inputUndervoltage s = .next t ∧ t.meter.inputLimit = true ∧
      ∀ p x, p < 6 → mapGet s.platens p = some x → x.state = .s0 → ∃ y, mapGet t.platens p = some y ∧
        y.limits.input = true ∧ y.limits.ceiling = 0) ∧
    (s.meter.inputLimit = true → ∃ t, exec .inputLimitRelease s = .next t ∧ t.meter.inputLimit = false ∧
      ∀ p x, p < 6 → mapGet s.platens p = some x → ∃ y, mapGet t.platens p = some y ∧ y.limits.input = false))

/-! ## Mesh (14) -/

/-- Links, announcements and the registration counter (14 R460 to R462, R483, R484, R486 to R493, Table 14.8; 18 R581): a port
comes up at the widths its working lanes allow, narrows or goes down as lanes fail, and every change is noticed to the group;
announcements and notices enter the node's tables and go on; each end of an up link computes its delay and offset from four
timestamps, and the counter steps forward to its parent's at the first join, follows by a rate of the offset's sign afterwards
(which rate is open: notes/assumptions/127.md), and never steps at the loss of its reference. What memory, Cases, galleys and
Platens hold stays; but for the loss of lanes or a link, which may end a COPY, nothing but mesh, Gutter, journal and sideband
changes.
Each of these rows is shown to answer a next state, under conditions on the state and the operands alone: MESH_LINK_TRAIN,
MESH_TRAIN_RETRY, MESH_LANE_FAIL, MESH_RETRAIN_DONE, MESH_LINK_LOSS, GNID_ANNOUNCE, REGISTRATION_EXCHANGE,
REGISTRATION_LOCK, REFERENCE_LOSS, LINK_STATE_NOTICE. -/
def Obligations.MeshLinksAndRegistrationFollowTheirRules : Prop :=
  (∀ (c : Instr) (s t : State), isLinkRow c = true → exec c s = .next t →
    (t.mem = s.mem ∧ t.lines = s.lines ∧ t.dir = s.dir ∧ t.txns = s.txns ∧ t.galleys = s.galleys ∧ t.platens = s.platens ∧
      t.stackTab = s.stackTab) ∧
    ((∀ p b l, c ≠ .meshLaneFail p b l) → (∀ p b, c ≠ .meshLinkLoss p b) → t = { s with
      mesh := t.mesh, gut := t.gut, journal := t.journal, flash := t.flash, poison := t.poison, errors := t.errors, sb := t.sb,
      free := t.free, waking := t.waking, now := t.now })) ∧
  (∀ (port : Nat) (s : State), meshOn s = true → s.up = true → (getMeshPort s port).isUp = false →
    let x := getMeshPort s port
    let becomes (c : Instr) (y : MeshPort) : Prop := ∃ t, exec c s = .next t ∧ getMeshPort t port = y
    (∀ (partner grp : Nat) (gen5 : Bool) (tx rx : Nat),
      let c := Instr.meshLinkTrain port partner grp gen5 tx rx
      let t := widthFor gen5 tx
      let r := widthFor gen5 rx
      (neighbour s.config s.config.node port = none → becomes c { x with st := .edge }) ∧
      (∀ n, neighbour s.config s.config.node port = some n →
        ((partner ≠ n ∨ grp ≠ s.config.groupId) →
          becomes c (if x.st = .miswired then x else { x with st := .miswired, partner := partner })) ∧
        (partner = n → grp = s.config.groupId →
          ((t.1 = 0 ∨ r.1 = 0) → becomes c { x with st := .training, trainFails := min 255 (x.trainFails + 1) }) ∧
          (t.1 ≠ 0 → r.1 ≠ 0 → ∃ u y, exec c s = .next u ∧ getMeshPort u port = y ∧ y.st = .up ∧ y.txWidth = t.1 ∧
            y.rxWidth = r.1 ∧ y.partner = partner ∧ y.gen5 = gen5 ∧ .notice s.config.node port t.1 ∈ u.mesh.tx)))) ∧
    (∀ k, (x.st = .down ∨ x.st = .training) → (neighbour s.config s.config.node port).isSome = true →
      becomes (.meshTrainRetry port k)
        { x with st := .training, trainFails := if k = 0 then x.trainFails else min 255 (x.trainFails + 1) })) ∧
  (∀ (port : Nat) (s : State), meshOn s = true → (getMeshPort s port).isUp = true →
    let x := getMeshPort s port
    let becomes (c : Instr) (y : MeshPort) : Prop := ∃ t, exec c s = .next t ∧ getMeshPort t port = y
    let down (c : Instr) (gone : Bool) : Prop := ∃ t y, exec c s = .next t ∧ getMeshPort t port = y ∧ y.st = .down ∧
      y.txWidth = 0 ∧ y.rxWidth = 0 ∧ (gone = true → y.neighbourLost = true) ∧ .notice s.config.node port 0 ∈ t.mesh.tx
    (∀ (lane : Nat),
      let tx := setBit x.txFailed lane
      let was := widthFor x.gen5 (0xFFFF - x.txFailed)
      let w := widthFor x.gen5 (0xFFFF - tx)
      (w.1 = 0 → down (.meshLaneFail port true lane) false) ∧
      (w.1 ≠ 0 → w.2 = was.2 → becomes (.meshLaneFail port true lane) { x with txFailed := tx }) ∧
      (w.1 ≠ 0 → w.2 ≠ was.2 → ∃ t y, exec (.meshLaneFail port true lane) s = .next t ∧ getMeshPort t port = y ∧
        y = { x with txFailed := tx, txWidth := w.1, txRetraining := true, promptDetour := !x.gen5, queue := y.queue,
                     replay := y.replay, replays := y.replays })) ∧
    (∀ (lane : Nat),
      let rx := setBit x.rxFailed lane
      let was := widthFor x.gen5 (0xFFFF - x.rxFailed)
      let w := widthFor x.gen5 (0xFFFF - rx)
      (w.1 = 0 → down (.meshLaneFail port false lane) false) ∧
      (w.1 ≠ 0 → w.2 = was.2 → becomes (.meshLaneFail port false lane) { x with rxFailed := rx }) ∧
      (w.1 ≠ 0 → w.2 ≠ was.2 → becomes (.meshLaneFail port false lane)
        { x with rxFailed := rx, rxWidth := w.1, rxRetraining := true })) ∧
    (x.txRetraining = true → ∃ t y, exec (.meshRetrainDone port true) s = .next t ∧ getMeshPort t port = y ∧
      y.txRetraining = false ∧ y.txWidth = x.txWidth ∧ y.rxRetraining = x.rxRetraining) ∧
    (x.rxRetraining = true → becomes (.meshRetrainDone port false) { x with rxRetraining := false }) ∧
    (∀ gone, down (.meshLinkLoss port gone) gone) ∧
    (∀ (node gnid gen ups : Nat), inGroup s.config node = true → node ≠ s.config.node →
      let e := getGnid s node
      let g := if gen = 5 then 0 else gnid
      ¬(e.present = true ∧ e.gnid = g ∧ e.generation = gen ∧ e.upPorts = ups) →
      ∃ t, exec (.gnidAnnounce port node gnid gen ups) s = .next t ∧ .announce gnid node gen ups ∈ t.mesh.tx ∧
        (getGnid t node).present = true ∧ (getGnid t node).gnid = g ∧ (getGnid t node).nd5 = decide (gen = 5) ∧
        (getGnid t node).upPorts = ups ∧ (getGnid t node).generation = gen ∧
        (gen ≠ 5 → gnid = s.config.gnid → (getGnid t node).dup = true ∧ (getGnid t s.config.node).dup = true)) ∧
    (∀ (here there : Stamps), let r := linkTimes x.gen5 here there
      let steps := s.mesh.joinedBefore = false ∧ r.1 < -8000
      (x.gen5 = false → r = (((here.sent : Int) + here.received - (there.received + there.sent)) / 2,
        ((here.received : Int) - here.sent - ((there.sent : Int) - there.received)) / 2)) ∧
      ∃ t, exec (.registrationExchange port here there) s = .next t ∧
        getMeshPort t port = { x with delay := r.2, offset := r.1 } ∧
        (s.mesh.parent ≠ port ∨ s.mesh.regState = .free → t.now = s.now ∧ t.mesh.rate = s.mesh.rate) ∧
        (s.mesh.parent = port → s.mesh.regState ≠ .free → t.mesh.offset = r.1 ∧ t.mesh.joinedBefore = true ∧
          (steps → t.now = (s.now + (-r.1).toNat / 8) % 2 ^ 64) ∧
          (¬steps → t.now = s.now ∧ t.mesh.rate ≤ rateBound s.mesh.regState ∧ -t.mesh.rate ≤ rateBound s.mesh.regState ∧
            (r.1 = 0 → t.mesh.rate = 0) ∧ (0 < r.1 → t.mesh.rate < 0) ∧ (r.1 < 0 → 0 < t.mesh.rate))))) ∧
  (∀ (node port width : Nat) (s : State), meshOn s = true → inGroup s.config node = true → node ≠ s.config.node →
    (sendWidth s node port = width → exec (.linkStateNotice node port width) s = .next s) ∧
    (sendWidth s node port ≠ width → ∃ t, exec (.linkStateNotice node port width) s = .next t ∧
      .notice node port width ∈ t.mesh.tx ∧
      (distance node s.config.node ≤ 2 → mapGet t.mesh.linkWidths (node * 8 + port) = some width))) ∧
  (∀ (s : State), meshOn s = true →
    ((s.mesh.regState = .acquiring ∨ s.mesh.regState = .settling) →
      exec .registrationLock s = .next { s with mesh := { s.mesh with regState := .locked } }) ∧
    (s.mesh.regState ≠ .free → s.mesh.ref ≠ s.config.node → ∃ t, exec .referenceLoss s = .next t ∧ t.now = s.now ∧
      (getGnid t s.mesh.ref).present = false ∧ t.mesh.ref = refNode t))

/-- Packets at their target, on their way and back at their source (14 R464, R470, R471, R473, R477, R481, R482, R485 to R487,
Tables 14.7, 14.11): a put is refused at a border, by the checks of its window, or by translation, and is otherwise written
and acknowledged in the order of its COPY; a get is answered with data; a packet for another node goes on or is dropped with
an error response; an error response or a timeout ends the COPY with its code, and the last acknowledgement ends it OK.
Each of these rows is shown to answer a next state, under conditions on the state and the operands alone: MESH_PUT,
MESH_GET, MESH_TRANSIT, MESH_PACKET_ACK, MESH_ACK_TIMEOUT, MESH_ORDER_TIMEOUT. -/
def Obligations.MeshPacketsArePerformedAndAnswered : Prop :=
  (∀ (port : Nat) (p : Packet) (s : State), meshOn s = true → (getMeshPort s port).isUp = true → p.src ≠ s.config.node →
    let u := received s port
    let q := arrived p
    let due := mapGetD s.mesh.due 0 (copyKey p)
    let j := activeJob s p.job
    let sends (c : Instr) (m : MeshTx) : Prop := ∃ t, exec c s = .next t ∧ m ∈ t.mesh.tx
    let errs (c : Instr) (q : Packet) (code : Nat) : Prop := ∃ t, exec c s = .next t ∧ .error q code ∈ t.mesh.tx ∧
      t.mem = s.mem ∧ t.lines = s.lines
    (u = { s with free := u.free, mesh := { s.mesh with ports := u.mesh.ports } } ∧
      ∃ n, getMeshPort u port = { getMeshPort s port with fecCorr := n }) ∧
    (p.dst = s.config.node →
      (borderCrossed s port p = true → errs (.meshPut port p) p errBorder) ∧
      (borderCrossed s port p = false → p.index < due → exec (.meshPut port p) s = .next u) ∧
      (borderCrossed s port p = false → due ≤ p.index → isMember s p = false → errs (.meshPut port p) q errNotMember) ∧
      (borderCrossed s port p = false → due < p.index → isMember s p = true → exec (.meshPut port p) s =
        .next { u with mesh := { u.mesh with waiting := s.mesh.waiting ++ [(port, q)] } }) ∧
      (borderCrossed s port p = false → p.index = due → isMember s p = true →
        (∀ code, putRefused j q = some code → errs (.meshPut port p) q code) ∧
        (∀ job w, putRefused j q = none → j = some job → job.windowOf p.window = some w →
          let r := reach (meshAccess job.forme (dieOfMeshPort port) 1) (.inbound (.meshPut port q))
            (pageSpans (w.vaBase + p.offset) p.data.length) u
          (r.2 = .held → exec (.meshPut port p) s = .next r.1) ∧
          (r.2 = .denied → sends (.meshPut port p) (.error q errTranslation)) ∧
          (∀ pas, r.2 = .ok pas → (∀ y ∈ s.mesh.waiting, copyKey y.2 ≠ copyKey p) →
            let v := writePieces (meshVia port) (hintOr0 w.hint) pas p.data r.1
            ∃ t, exec (.meshPut port p) s = .next t ∧ .ack q ∈ t.mesh.tx ∧ t.mem = v.mem ∧ t.lines = v.lines ∧
              mapGet t.mesh.due (copyKey p) = some (p.index + 1)))) ∧
      ((getGnid s p.src).nd5 = true → ∀ (len : Nat),
        (borderCrossed s port p = true → errs (.meshGet port p len) p errBorder) ∧
        (borderCrossed s port p = false → isMember s p = false → errs (.meshGet port p len) p errNotMember) ∧
        (borderCrossed s port p = false → isMember s p = true →
          (∀ code, getRefused j q len = some code → errs (.meshGet port p len) q code) ∧
          (∀ job w, getRefused j q len = none → j = some job → job.windowOf p.window = some w →
            let r := reach (meshAccess job.forme (dieOfMeshPort port) 0) (.inbound (.meshGet port q len))
              (pageSpans (w.vaBase + p.offset) len) u
            (r.2 = .held → exec (.meshGet port p len) s = .next r.1) ∧
            (r.2 = .denied → sends (.meshGet port p len) (.error q errTranslation)) ∧
            (∀ pas, r.2 = .ok pas →
              let d := readPieces (meshVia port) pas r.1
              sends (.meshGet port p len) (.getData q (if d.2.2 then [] else d.2.1) d.2.2)))))) ∧
    (p.dst ≠ s.config.node →
      (borderCrossed s port p = true → exec (.meshTransit port p) s = .next (meshSend u (.error p errBorder))) ∧
      (borderCrossed s port p = false →
        (∀ h m, nextHop u q = .out h m → exec (.meshTransit port p) s = .next (toPort u none (dieOfMeshPort port) h m) ∧
          (dieOfMeshPort h = dieOfMeshPort port → (getMeshPort u h).isUp = true → (getMeshPort u h).queue = [] →
            let c := channelOn u h m
            (getMeshPort u h).credit h c = true → (getMeshPort u h).stops c = false →
            sends (.meshTransit port p) (.packet h c m))) ∧
        (∀ code, nextHop u q = .drop code → exec (.meshTransit port p) s = .next (meshSend u (.error p code)))))) ∧
  (∀ (copyId index : Nat) (x : SentPacket) (s : State), meshOn s = true → MboxThere s x.mb →
    s.mesh.sent.find? (fun y => y.copyId == copyId && y.index == index) = some x →
    let y := getSlot s x.mb x.slot
    let len := bits (slotCmd (getMbox s x.mb) x.slot) 191 128
    let forgotten (t : State) : Prop := ∀ z ∈ t.mesh.sent, z ≠ x ∧ (z.copyId = copyId → z.ended = true)
    let last : Prop := ∀ z ∈ s.mesh.sent, z ≠ x → z.copyId ≠ copyId
    let failed (code : Nat) := meshResult (unackedFrom s x.mb x.slot copyId) code
    let dropped (c : Instr) : Prop := ∃ t, exec c s = .next t ∧
      t = { s with formes := t.formes, mesh := { s.mesh with sent := s.mesh.sent.filter (fun z => z != x) } }
    (x.ended = true → (∀ code, dropped (.meshPacketAck copyId index code)) ∧ dropped (.meshAckTimeout copyId index)) ∧
    (x.ended = false → y.status = stAborted → ∀ code, code ≠ 0 →
      Ended (.meshPacketAck copyId index code) s x.mb x.slot stAborted 0 (failed 0) forgotten) ∧
    (x.ended = false → y.status ≠ stAborted →
      (∀ code, code ≠ 0 →
        Ended (.meshPacketAck copyId index code) s x.mb x.slot stMeshError 0 (failed code) forgotten) ∧
      Ended (.meshAckTimeout copyId index) s x.mb x.slot stMeshError 0 (failed errTimeout) forgotten) ∧
    (¬last → exec (.meshPacketAck copyId index 0) s =
      .next { s with mesh := { s.mesh with sent := s.mesh.sent.filter (fun z => z != x) } }) ∧
    (x.ended = false → last → y.status = 0 → y.offset = len →
      Ended (.meshPacketAck copyId index 0) s x.mb x.slot stOk 0 0 forgotten) ∧
    (x.ended = false → last → y.status ≠ 0 →
      Ended (.meshPacketAck copyId index 0) s x.mb x.slot y.status 0 (meshResult y.offset y.detail) forgotten)) ∧
  (∀ (src copyId index : Nat) (s : State), ∃ t, exec (.meshOrderTimeout src copyId index) s = .next t ∧
    t = { s with mesh := { s.mesh with waiting := t.mesh.waiting } } ∧
    ∀ y, y ∈ t.mesh.waiting ↔ y ∈ s.mesh.waiting ∧ ¬(y.2.src = src ∧ y.2.copyId = copyId ∧ y.2.index = index))

/-! ## Sideband (17) -/

/-- Frames received and requests served (17 R563 to R571, Tables 17.3 to 17.5; 18 R597): the first check that fails decides the
counter, a stale request is answered once in 100 ms, an accepted one is queued and its SEQ becomes the mark; the request at the
head of the queue is answered with the status of its first failed check, or performed and answered. The receiving and sending
rows change the sideband alone.
Each of these rows is shown to answer a next state, under conditions on the state and the operands alone:
SB_FRAME_RECEIVE, SB_STATUS, SB_POWER_STATE, SB_CAP_SET, SB_TELEMETRY, SB_JOURNAL, SNAPSHOT_EXPIRY. -/
def Obligations.FramesAreCheckedAndRequestsServed : Prop :=
  (∀ (c : Instr) (s t : State), isSbRow c = true → exec c s = .next t →
    t = { s with sb := t.sb, free := t.free, waking := t.waking }) ∧
  (∀ (f : SbFrame) (s : State), s.watchOn = true →
    let c := Instr.sbFrameReceive f
    let counts (g : SbCounters → SbCounters) : Prop :=
      exec c s = .next { s with sb := { s.sb with counters := g s.sb.counters } }
    let up (n : Nat) : Nat := min (2 ^ 32 - 1) (n + 1)
    (f.fcsOk = false → counts (fun k => { k with fcsErr := up k.fcsErr })) ∧
    (f.fcsOk = true → f.etherType ≠ 0x88B5 → counts (fun k => { k with notOurs := up k.notOurs })) ∧
    (f.fcsOk = true → f.etherType = 0x88B5 → (f.dst ≠ s.pins.sbIdAtReset ∨ s.sb.mode = .badId) →
      counts (fun k => { k with dstOther := up k.dstOther })) ∧
    (f.fcsOk = true → f.etherType = 0x88B5 → f.dst = s.pins.sbIdAtReset → s.sb.mode = .noKey →
      counts (fun k => { k with badTag := up k.badTag })) ∧
    (f.fcsOk = true → f.etherType = 0x88B5 → f.dst = s.pins.sbIdAtReset → s.sb.mode ≠ .badId → s.sb.mode ≠ .noKey →
      ((f.version ≠ 1 ∨ f.len ≠ f.body.length ∨ 1088 < f.len ∨ f.reserved ≠ 0 ∨ f.type ≠ 1 ∨ f.src ≠ 0) →
        counts (fun k => { k with malformed := up k.malformed })) ∧
      (f.version = 1 → f.len = f.body.length → f.len ≤ 1088 → f.reserved = 0 → f.type = 1 → f.src = 0 →
        (tagGood s f = false → counts (fun k => { k with badTag := up k.badTag })) ∧
        (tagGood s f = true → (f.seq / 2 ^ 32 ≠ s.sec.bootCount % 2 ^ 32 ∨ f.seq % 2 ^ 32 ≤ s.sb.mark) →
          ∃ t, exec c s = .next t ∧ t.sb.counters = { s.sb.counters with staleSeq := up s.sb.counters.staleSeq } ∧
            t.sb.mark = s.sb.mark ∧ t.sb.queue = s.sb.queue ∧
            ((∀ x, s.sb.staleAt = some x → x + 100000000 ≤ s.now) → t.sb.staleAt = some s.now ∧ ∃ o ∈ t.sb.out,
              o.type = 2 ∧ o.func = f.func ∧ o.status = stStaleSeq ∧ o.reqSeq = f.seq ∧
                o.body = toBytes 8 (s.sec.bootCount % 2 ^ 32) ++ toBytes 8 s.sb.mark) ∧
            ((∃ x, s.sb.staleAt = some x ∧ s.now < x + 100000000) → t.sb.out = s.sb.out)) ∧
        (tagGood s f = true → f.seq / 2 ^ 32 = s.sec.bootCount % 2 ^ 32 → s.sb.mark < f.seq % 2 ^ 32 →
          (4 ≤ s.sb.queue.length → counts (fun k => { k with overrun := up k.overrun })) ∧
          (s.sb.queue.length < 4 → exec c s = .next { s with sb := { s.sb with
            counters := { s.sb.counters with accepted := up s.sb.counters.accepted }
            mark := f.seq % 2 ^ 32
            queue := s.sb.queue ++ [{ func := f.func, seq := f.seq, body := f.body }] } }))))) ∧
  (∀ (r : SbReq) (q : List SbReq) (s : State), s.watchOn = true → s.sb.queue = r :: q →
    let answered (c : Instr) (status : Nat) (body : List Byte) (P : State → Prop) : Prop := ∃ t, exec c s = .next t ∧
      t.sb.queue = q ∧ { type := 2, func := r.func, status := status, reqSeq := r.seq, body := body } ∈ t.sb.out ∧ P t
    let refused (c : Instr) (status : Nat) : Prop := answered c status [] (fun t => t.formes = s.formes ∧
      t.platens = s.platens ∧ t.journal = s.journal)
    let quiet : Prop := s.journal.lost = 0 ∧ s.journal.bootDue = false
    let b0 := bodyNat r 0 1
    (r.func = 1 → r.body = [] → answered .sbStatus stOk (statusBody s) (fun _ => True)) ∧
    (r.func = 1 → r.body ≠ [] → refused .sbStatus stBadField) ∧
    ((r.func = 0 ∨ 6 < r.func) → refused .sbStatus stBadOpcode) ∧
    (s.up = false → (r.func = 2 → refused .sbPowerState stNotReady) ∧ (r.func = 3 → refused .sbCapSet stNotReady) ∧
      (r.func = 5 → refused .sbJournal stNotReady)) ∧
    (s.up = true → r.func = 2 →
      let st := bodyNat r 1 1
      let good : Prop := r.body.length = 2 ∧ b0 ≤ 5 ∧ (st ≤ 3 ∨ st = 8)
      (¬good → refused .sbPowerState stBadField) ∧
      (good → s.journal.full = true → refused .sbPowerState stJournalFull) ∧
      (good → s.journal.full = false → journalHeld s = true → exec .sbPowerState s = .next (wakeModule s)) ∧
      (good → s.journal.full = false → journalHeld s = false → quiet → answered .sbPowerState stOk [] (fun t =>
        Journaled t 0x09 (1 + 16 * b0) 2 (digest16 (toBytes 24 (sbPowerFields b0 st))) ∧
        ((mapGet s.platens b0).isSome = true → (getPlaten t b0).rest = st)))) ∧
    (s.up = true → r.func = 3 →
      let sc := bodyNat r 2 1
      let good : Prop := r.body.length = 3 ∧ bodyNat r 0 2 ≠ 0 ∧ sc ≤ 4 ∧ wattsBad (sc == 4) (bodyNat r 0 2) = false
      let there : Prop := sc = 4 ∨ (getForme s sc).isSome = true
      let saved (t : State) (id : Nat) : Prop := Journaled t 0x0A id 2 (digest16 (toBytes 2 (bodyNat r 0 2)))
      (¬good → refused .sbCapSet stBadField) ∧
      (good → ¬there → refused .sbCapSet stNoForme) ∧
      (good → there → s.journal.full = true → refused .sbCapSet stJournalFull) ∧
      (good → there → s.journal.full = false → journalHeld s = true → exec .sbCapSet s = .next (wakeModule s)) ∧
      (good → there → s.journal.full = false → journalHeld s = false → quiet → answered .sbCapSet stOk [] (fun t =>
        (sc = 4 → t.moduleCap = bodyNat r 0 2 ∧ saved t 0) ∧
        (sc ≠ 4 → (getForme t sc).map (·.cap) = some (bodyNat r 0 2) ∧ saved t (1 + sc))))) ∧
    (r.func = 4 →
      let o := bodyNat r 1 4
      let snap := wholeGroup (waitsCounted s) b0
      (s.up = true → r.body.length = 5 → b0 ≤ 8 → o = 0 →
        (s.moduleIdle = true → b0 = 3 → exec .sbTelemetry s = .next { s with waking := true }) ∧
        (¬(s.moduleIdle = true ∧ b0 = 3) → answered .sbTelemetry stOk (toBytes 4 snap.length ++ snap.take 1024) (fun t =>
          mapGet t.sb.snapshots b0 = some snap))) ∧
      (s.up = true → r.body.length = 5 → b0 ≤ 8 → o ≠ 0 →
        (mapGet s.sb.snapshots b0 = none → refused .sbTelemetry stExpired) ∧
        (∀ x, mapGet s.sb.snapshots b0 = some x →
          (x.length ≤ o → refused .sbTelemetry stBadField) ∧
          (o < x.length → answered .sbTelemetry stOk (toBytes 4 x.length ++ (x.drop o).take 1024) (fun _ => True)))) ∧
      (s.up = true → (r.body.length ≠ 5 ∨ 8 < b0) → refused .sbTelemetry stBadField) ∧
      (s.up = false → refused .sbTelemetry stNotReady)) ∧
    (s.up = true → r.func = 5 →
      let start := bodyNat r 0 8
      let n := bodyNat r 8 1
      let x := bodyNat r 9 1
      let good : Prop := r.body.length = 10 ∧ 1 ≤ n ∧ n ≤ 16 ∧ x ≤ 1 ∧ (x = 1 → start = s.journal.oldestUnexported)
      let es := journalFrom s start n
      let go := markExported s JOrigin.sideband es start
      (r.body.length = 10 → n = 0 → s.moduleIdle = false → (x = 1 → journalHeld s = false) →
        answered .sbJournal stOkEmpty (sbJournalBody s [] start) (fun t => t.journal = s.journal)) ∧
      (¬good → ¬(r.body.length = 10 ∧ n = 0) → refused .sbJournal stBadField) ∧
      (good → (s.moduleIdle = true ∨ (x = 1 ∧ journalHeld s = true)) → exec .sbJournal s = .next (wakeModule s)) ∧
      (good → s.moduleIdle = false → x = 0 → answered .sbJournal stOk (sbJournalBody s es start) (fun t =>
        t.journal = s.journal)) ∧
      (good → s.moduleIdle = false → x = 1 → journalHeld s = false →
        answered .sbJournal stOk (sbJournalBody go es start) (fun t => t.journal = go.journal)))) ∧
  (∀ (g : Nat) (s : State), keysFrom 0 s.sb.snapshots = true →
    ∃ t, exec (.snapshotExpiry g) s = .next t ∧ mapGet t.sb.snapshots g = none ∧
      ∀ h, h ≠ g → mapGet t.sb.snapshots h = mapGet s.sb.snapshots h)

/-- Resets asked for over the sideband, and what the node sends (17 R562 to R566, R572, R573, R575; 18 R589): an accepted reset
is journaled and answered, and begins once the response has left; a frame is sent signed with the newest key and the next SEQ;
a lost beacon turns to CSMA/CD and a beacon back to PLCA; a frame that collides waits, and is dropped after 16 attempts.
Each of these rows is shown to answer a next state, under conditions on the state and the operands alone: SB_COLD_RESET,
SB_WARM_RESET, SB_FORME_RESET, TRANSMIT_OPPORTUNITY, INVALID_BEACON_TIMEOUT, BEACON_RECEIVED, COLLISION,
CSMA_CD_BACKOFF_EXPIRY, ANNOUNCE. -/
def Obligations.ResetsAreTakenAndFramesSent : Prop :=
  (∀ (r : SbReq) (q : List SbReq) (s : State), s.watchOn = true → s.sb.queue = r :: q → r.func = 6 →
    let kind := bodyNat r 0 1
    let f := bodyNat r 1 1
    let refused (c : Instr) (status : Nat) : Prop := ∃ t, exec c s = .next t ∧ t.sb.queue = q ∧
      t.sb.resetAsked = s.sb.resetAsked ∧ t.journal = s.journal ∧
      { type := 2, func := 6, status := status, reqSeq := r.seq, body := [] } ∈ t.sb.out
    let taken (c : Instr) (k f id : Nat) : Prop := ∃ t e, exec c s = .next t ∧ t.sb.queue = q ∧
      { type := 2, func := 6, status := stOk, reqSeq := r.seq, body := [] } ∈ t.sb.out ∧
      t.journal.entries.head? = some e ∧ e.origin = 3 ∧ e.objKind = 0x0E ∧ e.objId = id ∧ e.action = 2 ∧
      (∃ x ∈ t.sb.resetAsked, x.1 ≤ k) ∧ (s.sb.resetAsked = [] → t.sb.resetAsked = [(k, f)])
    let rows (c : Instr) (k f id : Nat) : Prop :=
      (s.journal.full = true → refused c stJournalFull) ∧
      (s.journal.full = false → journalHeld s = true → exec c s = .next (wakeModule s)) ∧
      (s.journal.full = false → journalHeld s = false → s.journal.lost = 0 → s.journal.bootDue = false → taken c k f id)
    (kind = 1 → (r.body.length ≠ 2 → refused .sbColdReset stBadField) ∧
      (r.body.length = 2 → rows .sbColdReset 1 0 0xFF)) ∧
    (kind = 2 → (s.powered = false → refused .sbWarmReset stNotReady) ∧
      (s.powered = true → r.body.length ≠ 2 → refused .sbWarmReset stBadField) ∧
      (s.powered = true → r.body.length = 2 → rows .sbWarmReset 2 0 0xFF)) ∧
    (kind = 0 ∨ 3 ≤ kind → (s.up = false → refused .sbFormeReset stNotReady) ∧
      (s.up = true → (kind ≠ 3 ∨ r.body.length ≠ 2) → refused .sbFormeReset stBadField) ∧
      (s.up = true → kind = 3 → r.body.length = 2 →
        (getForme s f = none → refused .sbFormeReset stNoForme) ∧
        ((getForme s f).isSome = true → rows .sbFormeReset 3 f f)))) ∧
  (∀ (s : State), s.watchOn = true → s.sb.queue = [] → (∀ o ∈ s.sb.out, ¬(o.type = 2 ∧ o.func = 6)) →
    let goesOn (u : State) (f : Nat) : State := if formeQuiet u f noSlot then
        if meshQuiet (resetStops u f) f then dropAsked (resetRest (resetStops u f) f) 4 f else resetStops u f
      else u
    ((∃ f, (1, f) ∈ s.sb.resetAsked) → exec .sbColdReset s = .next (coldReset s)) ∧
    ((∃ f, (2, f) ∈ s.sb.resetAsked) → exec .sbWarmReset s = .next (moduleReset s 2 true)) ∧
    (∀ f, s.sb.resetAsked = [(3, f)] → resetRuns s f noSlot = false →
      (getForme s f).any (·.destroying) = false →
      exec .sbFormeReset s = .next (goesOn (abortForme { s with sb := { s.sb with resetAsked := [(4, f)] } } f noSlot) f)) ∧
    (∀ f, s.sb.resetAsked = [(4, f)] → exec .sbFormeReset s = .next (goesOn s f))) ∧
  (∀ (s : State), s.watchOn = true →
    (∀ (o : SbOut) (rest : List SbOut) (g k : Nat), (s.sb.mode = .plca ∨ (s.sb.mode = .csmaCd ∧ s.sb.backingOff = false)) →
      s.sb.out = o :: rest → (g, k) ∈ s.config.keys → (∀ x ∈ s.config.keys, x.1 < g ∨ x = (g, k)) →
      let n := s.sb.txSeq + 1
      let seq := (s.sec.bootCount % 2 ^ 32) * 2 ^ 32 + n % 2 ^ 32
      let id := s.pins.sbIdAtReset
      let h := sbHeader g id 0 o.type o.func o.status o.body.length seq o.reqSeq
      ∃ t, exec .transmitOpportunity s = .next t ∧ t.sb.out = rest ∧ t.sb.txSeq = n ∧ t.sb.attempts = 0 ∧
        t.sb.tx = s.sb.tx ++ [
          { dstMac := 0x020D60000000, srcMac := 0x020D60000000 + id, etherType := 0x88B5, keyGen := g, src := id, dst := 0,
            seq := seq, msg := o, tag := hmacSha256 (toBytes 32 k) (h ++ o.body) }] ∧
        t.sb.counters.txFrames = min (2 ^ 32 - 1) (s.sb.counters.txFrames + 1)) ∧
    ((s.sb.out = [] ∨ s.sb.mode = .badId ∨ s.sb.mode = .noKey) → exec .transmitOpportunity s = .next s) ∧
    (s.sb.mode = .plca → ∃ t, exec .invalidBeaconTimeout s = .next t ∧ t.sb.mode = .csmaCd ∧
      t.sb.counters.plcaLost = min (2 ^ 32 - 1) (s.sb.counters.plcaLost + 1) ∧ t.sb.out = s.sb.out) ∧
    (s.sb.mode = .csmaCd → ∃ t, exec .beaconReceived s = .next t ∧ t.sb.mode = .plca ∧ t.sb.attempts = 0 ∧
      t.sb.backingOff = false ∧ t.sb.out = s.sb.out) ∧
    (s.sb.mode = .csmaCd → s.sb.backingOff = false → s.sb.out ≠ [] → ∃ t, exec .collision s = .next t ∧
      t.sb.counters.collisions = min (2 ^ 32 - 1) (s.sb.counters.collisions + 1) ∧
      (s.sb.attempts + 1 < 16 → t.sb.out = s.sb.out ∧ t.sb.attempts = s.sb.attempts + 1 ∧ t.sb.backingOff = true) ∧
      (16 ≤ s.sb.attempts + 1 → t.sb.out = s.sb.out.drop 1 ∧ t.sb.attempts = 0 ∧
        t.sb.counters.excessColl = min (2 ^ 32 - 1) (s.sb.counters.excessColl + 1))) ∧
    exec .csmaCdBackoffExpiry s = .next { s with sb := { s.sb with backingOff := false } } ∧
    (∃ t, exec .announce s = .next t ∧
      { type := 3, func := 0x10, status := 0, reqSeq := 0, body := announceBody s } ∈ t.sb.out))

/-! ## Start-up, resets and supply (18) -/

/-- Power-on, cold and warm resets, the end of start-up, and the loss of supply (00 R11; 15 R502, R514, R515, R527, R528,
Table 15.7; 18 R576 to R587, R598, Tables 18.2, 18.4; 19 R604): what each leaves, loses and keeps. Training moves a lane group
with one failed lane onto its spare, and a group with two ends the start-up (01 R39). An image being programmed when supply is
lost is invalid (15 R514); PWR_EN is read from 44 to 58 V (19 R606); a rail that misses regulation leaves PWR_GOOD de-asserted
(18 Table 18.2), and whether one does is open (notes/assumptions/95.md).
Each of these rows is shown to answer a next state, under conditions on the state and the operands alone: POWER_ON,
STARTUP_COMPLETE, PWR_EN_DEASSERT, SUPPLY_LOSS. -/
def Obligations.ResetsAndSupplyLeaveTheTabledState : Prop :=
  let gone (t : State) : Prop := t.formes = [] ∧ t.galleys = [] ∧ t.lines = [] ∧ t.dir = [] ∧ t.txns = [] ∧ t.l3Locks = [] ∧
    t.rangeCaches = [] ∧ t.invals = [] ∧ t.harts = [] ∧ t.groupsRunning = [] ∧ t.powerCmds = [] ∧ t.moduleIdle = false ∧
    t.idleReqs = []
  let portsFresh (s t : State) : Prop := ∀ p x, mapGet s.ports p = some x → ∃ y, mapGet t.ports p = some y ∧
    y.mbox = Mailbox.reset ∧ y.forme = none ∧ y.armed = false ∧ y.epoch = 0 ∧ y.link = .down ∧ y.memSpace = false ∧
    y.busMaster = false ∧ y.perstAsserted = x.perstAsserted
  (∀ (s : State),
    let t := coldReset s
    t.phase = .starting ∧ gone t ∧ portsFresh s t ∧ t.sec.bootCount = s.sec.bootCount + 1 ∧ t.sec.unlocked = false ∧
      t.sec.lumizKeys = s.sec.lumizKeys ∧ t.sec.retirement = none ∧ t.now = s.now ∧
      (chooseBank s = none → t.sec.image = none) ∧
      (∀ b i, chooseBank s = some (b, i) → t.sec.image = some i ∧ t.sec.bank = b ∧ t.sec.lumizMeasurement = i.measurement) ∧
      (chooseSlot s = none → t.config = NodeConfig.shipped ∧ t.sec.configSlot = none) ∧
      (∀ k c, chooseSlot s = some (k, c) → t.config = c ∧ t.sec.configSlot = some k) ∧
      (t.config.keys ≠ [] → 1 ≤ s.pins.sbId → s.pins.sbId ≤ 8 → t.sb.mode = .plca) ∧ t.pins.sbIdAtReset = s.pins.sbId ∧
      t.mem = s.mem ∧ t.journal = s.journal ∧ t.flash = s.flash ∧ t.gut = Gutter.reset ∧ t.mesh = { Mesh.reset with tx := s.mesh.tx } ∧
      t.sb.mark = 0 ∧ t.sb.queue = [] ∧ t.absentRing = Ring.reset ∧
      (∀ kv ∈ t.lanes, kv.2.spareUsed = false ∧ kv.2.swapping = false ∧ 0 < kv.2.failed ∧
        ∃ g, (kv.1, g) ∈ s.lanes ∧ kv.2.failed ≤ g.failed) ∧
      ∀ k x, mapGet s.stackTab k = some x → ∃ y, mapGet t.stackTab k = some y ∧ y.ring = Ring.reset ∧ y.keySet = x.keySet ∧
        y.selfRefresh = true ∧
        y.repairs = x.repairs.filter (·.hard) ∧ ∀ q ∈ y.sparesUsed, q ∈ x.sparesUsed) ∧
  (∀ (s : State) (lumiz : Bool), s.phase = .running → (∀ k, (getStack s k).selfRefresh = false) →
    let t := moduleReset s 2 lumiz
    t.phase = .starting ∧ gone t ∧ portsFresh s t ∧ t.sec.bootCount = s.sec.bootCount ∧ t.sec.unlocked = s.sec.unlocked ∧
      t.config = s.config ∧ t.moduleCap = s.moduleCap ∧ t.now = s.now ∧ t.mem = s.mem ∧ t.flash = s.flash ∧
      t.lanes = s.lanes ∧ t.mesh.ports = s.mesh.ports ∧ t.mesh.regState = s.mesh.regState ∧ t.mesh.jobs = [] ∧
      t.sb.queue = [] ∧ t.sb.mark = s.sb.mark ∧ t.absentRing = s.absentRing) ∧
  (∀ (s : State) (lumiz : Bool), s.phase ≠ .running → moduleReset s 2 lumiz = coldReset s) ∧
  (∀ (s : State),
    let started (t : State) : Prop := t.phase = .starting ∧ gone t ∧ portsFresh s t ∧ t.now = 0 ∧
      t.pins.pwrEn = true ∧ t.pins.pwrGood = true ∧ t.pins.fuseOpen = false ∧ t.mem = [] ∧ t.poison = [] ∧ t.errors = [] ∧
      t.sec.bootCount = s.sec.bootCount + 1 ∧ t.sec.lumizKeys = s.sec.nextKeys ∧ t.sec.nextKeys = s.sec.nextKeys + 1 ∧
      t.sec.unlocks = 0 ∧ t.journal.entries = [] ∧ t.journal.bootDue = true ∧
      (s.flash.journalBegun = false → t.journal.next = 0 ∧ t.journal.chain = 0) ∧
      (s.flash.journalBegun = true → t.journal.next = 4096 * (s.flash.checkpoint + 2) ∧
        t.journal.chain = s.flash.checkpointChain)
    let failed (t : State) : Prop := t.phase = .off ∧ t.pins.pwrGood = false ∧ t.pins.railsFailed = true
    let tries (c : Instr) : Prop := ∃ t, exec c s = .next t ∧ if Config.freeBool s.free then started t else failed t
    (s.phase ≠ .off ∨ s.pins.railsFailed = true →
      exec .powerOn s = .next { s with pins := { s.pins with pwrEn := true } }) ∧
    (s.phase = .off → s.pins.railsFailed = false →
      (44000 ≤ s.meter.millivolts → s.meter.millivolts ≤ 58000 → tries .powerOn) ∧
      (s.meter.millivolts < 44000 → exec .powerOn s =
        .next { s with pins := { s.pins with pwrEn := true, startWaits := true } })) ∧
    (s.phase = .off → s.pins.startWaits = true → s.pins.pwrEn = true → ∀ mv ma, 44000 ≤ mv → mv ≤ 58000 →
      ∃ t, exec (.powerMeterSample mv ma) s = .next t ∧ t.phase = if Config.freeBool s.free then .starting else .off)) ∧
  (∀ (s : State), s.phase = .starting →
    (s.sec.coldStart = false → ∃ t, exec .startupComplete s = .next t ∧ t.phase = .running ∧ t.config = s.config ∧
      t.sec = s.sec ∧ t.mem = s.mem ∧ t.formes = s.formes) ∧
    (s.sec.coldStart = true → s.sec.image = none → ∃ t, exec .startupComplete s = .next t ∧ t.phase = .watchOnly ∧
      ∃ o ∈ t.sb.out, o.type = 3 ∧ o.func = 0x10) ∧
    (∀ i, s.sec.coldStart = true → s.sec.image = some i → (∃ kv ∈ s.lanes, 2 ≤ kv.2.failed) →
      ∃ t r, exec .startupComplete s = .next t ∧ t.phase = .retired ∧ t.sec.retirement = some r ∧ r.2.code = 6) ∧
    (∀ i, s.sec.coldStart = true → s.sec.image = some i → (∀ kv ∈ s.lanes, kv.2.failed < 2) →
      (∀ kv ∈ s.stackTab, kv.2.pchs = []) →
      ∃ t, exec .startupComplete s = .next t ∧ (∀ k g, mapGet t.lanes k = some g → g.spareUsed = true) ∧
      t.phase = .running ∧ t.sec.floor = max s.sec.floor i.floor ∧
      t.flash = { s.flash with journalBegun := s.flash.journalBegun || s.journal.bootDue } ∧ t.formes = s.formes ∧
      t.mem = s.mem ∧ t.config = s.config ∧ t.moduleCap = s.config.moduleCap ∧
      t.applPp = s.config.gutPp ∧ t.applCp = s.config.gutCp ∧ t.sec.image = s.sec.image ∧ t.sec.configSlot = s.sec.configSlot ∧
      (∀ k x, k < 12 → mapGet t.stackTab k = some x → x.selfRefresh = false) ∧
      (∃ o ∈ t.sb.out, o.type = 3 ∧ o.func = 0x10) ∧
      (s.journal.bootDue = true → s.lanes.length ≤ 1000 → s.journal.waiting = [] → ∃ e ∈ t.journal.entries,
        e.objKind = 0x10 ∧ e.objId = s.flash.checkpoint ∧ e.origin = 5))) ∧
  (∀ (s : State), s.phase ≠ .off →
    let lost (c : Instr) (P : State → Prop) : Prop := ∃ t, exec c s = .next t ∧ t.phase = .off ∧ gone t ∧ portsFresh s t ∧
      t.pins.pwrGood = false ∧ t.flash.programming = none ∧
      (s.flash.programming = none → t.flash = s.flash) ∧
      (∀ b i, s.flash.programming = some (.lumiz b i) → (if b = 0 then t.flash.bankA else t.flash.bankB) = none ∧
        (if b = 0 then t.flash.bankB = s.flash.bankB else t.flash.bankA = s.flash.bankA)) ∧
      (∀ k i, s.flash.programming = some (.config k i) → (if k = 0 then t.flash.slot0 else t.flash.slot1) = none ∧
        (if k = 0 then t.flash.slot1 = s.flash.slot1 else t.flash.slot0 = s.flash.slot0)) ∧
      t.journal.writing = none ∧ P t
    (44000 ≤ s.meter.millivolts → s.meter.millivolts ≤ 58000 →
      lost .pwrEnDeassert (fun t => t.pins.pwrEn = false ∧ t.pins.fuseOpen = s.pins.fuseOpen)) ∧
    lost .supplyLoss (fun t => t.pins.fuseOpen = true ∧ t.pins.pwrEn = s.pins.pwrEn)) ∧
  (∀ (s : State), s.phase = .off → exec .supplyLoss s = .next s ∧
    exec .pwrEnDeassert s = .next { s with pins := { s.pins with pwrEn := false, startWaits := false, railsFailed := false } })

/-- Control cores, retirement and checkpoints (15 R527; 18 R583, R593 to R598, Tables 18.8, 18.9): a heartbeat is kept, silence
ends in a warm reset, a sibling takes over and its entry records it; a retired node keeps its record, its flash and its
sideband and falls silent, and one that lost Compositor A writes neither record nor entry; a checkpoint is signed, written in
twelve pieces, and what waited for it is written once the flash holds it.
Each of these rows is shown to answer a next state, under conditions on the state and the operands alone:
WATCHDOG_TIMEOUT, CONTROL_CORE_HEARTBEAT, CONTROL_CORE_TAKEOVER, CONTROL_CORE_REJOIN, RETIREMENT, COMPOSITOR_A_LOSS,
JOURNAL_CHECKPOINT, CHECKPOINT_FLASH_WRITTEN. -/
def Obligations.CoresFailNodesRetireCheckpointsAreKept : Prop :=
  (∀ (core : Nat) (s : State),
    (s.powered = true → core ∉ s.sec.failedCores → ∃ t, exec (.controlCoreHeartbeat core) s = .next t ∧
      mapGet t.sec.beats core = some s.now ∧ t = { s with sec := { s.sec with beats := t.sec.beats } }) ∧
    (s.powered = true → exec .watchdogTimeout s = .next (moduleReset (resetEntry s JOrigin.firmware) 2 false)) ∧
    (s.up = true → core ∉ s.sec.failedCores → s.sec.failedCores.length < 7 →
      ∃ t, exec (.controlCoreTakeover core) s = .next t ∧ t.sec.failedCores = core :: s.sec.failedCores ∧
        t.formes = s.formes ∧ t.ports = s.ports ∧
        (journalHeld s = false → s.journal.lost = 0 → s.journal.bootDue = false → s.journal.unexported < journalRing →
          ∃ e, t.journal.entries.head? = some e ∧
          e.origin = 5 ∧ e.objKind = 0x0E ∧ e.objId = 0xFF)) ∧
    (∃ t, exec (.controlCoreRejoin core) s = .next t ∧ t = { s with sec := { s.sec with failedCores := t.sec.failedCores } } ∧
      ∀ c, c ∈ t.sec.failedCores ↔ c ∈ s.sec.failedCores ∧ c ≠ core)) ∧
  (∀ (s : State), s.powered = true →
    let silent (t : State) : Prop := t.galleys = [] ∧ t.harts = [] ∧ t.lines = [] ∧ t.groupsRunning = [] ∧
      (s.journal.bootDue = false → t.flash = s.flash) ∧ (∀ kv ∈ t.ports, kv.2.link = .down) ∧ (∀ kv ∈ t.mesh.ports, kv.2.st = .down)
    (∀ cause, ∃ t, exec (.retirement cause) s = .next t ∧ t.phase = .retired ∧ silent t ∧
      t.mem = s.mem.filter (fun c => decide (paStack c.1 < 2)) ∧
      (∀ k x, k < 2 → mapGet t.stackTab k = some x → x.selfRefresh = true) ∧
      t.sec.retirement = some (s.now, cause) ∧
      { type := 3, func := 0x11, status := 0, reqSeq := 0,
        body := 0x04#8 :: toBytes 8 s.now ++ retireRecord s.now cause } ∈ t.sb.out) ∧
    (∃ t, exec .compositorALoss s = .next t ∧ t.phase = .lost ∧ silent t ∧ t.mem = s.mem ∧ t.sec = s.sec ∧ t.journal = s.journal ∧
      t.sb = s.sb)) ∧
  (∀ (s : State), s.powered = false → exec .compositorALoss s = .next s ∧
    ∀ cause, exec (.retirement cause) s = .next s) ∧
  (∀ (k chain : Nat) (s : State), s.watchOn = true →
    (s.journal.due = some (k, chain) → s.journal.writing = none → ∃ t, exec .journalCheckpoint s = .next t ∧
      t.journal.writing = some (k, chain) ∧ t.flash = s.flash ∧
      (s.moduleIdle = false → s.journal.lost = 0 → s.journal.bootDue = false → s.journal.unexported + 12 ≤ journalRing →
        journalHeld s = false →
        s.journal.next % 4096 < 4085 → t.journal.next = s.journal.next + 12 ∧ ∀ j, j < 12 → ∃ e ∈ t.journal.entries,
          e.number = s.journal.next + j ∧ e.objKind = 0x0F ∧ e.objId = k ∧ e.piece = j)) ∧
    (s.journal.writing = some (k, chain) → ∃ t, exec .checkpointFlashWritten s = .next t ∧ t.flash.checkpoint = k ∧
      t.flash.checkpointChain = chain ∧ t.journal.writing = none ∧
      (s.journal.waiting = [] → t.journal.entries = s.journal.entries ∧ t.journal.next = s.journal.next)))

/-! ## Compositor cores (11) -/

/-- Accesses of a hart (11 R369, R372 to R378, R382 to R386, Tables 11.3, 11.6): a misaligned atomic traps, an access of the
core mailbox reaches its slots, one that translation holds stalls the hart, one it denies is a precise access fault with its
ndfault, and another is performed through the L3; a load of poison faults; LR reserves its line and SC stores only where the
reservation stands; CWL.LOCK loads a region into a way of the group that is not locked. x0 stays zero. A control register is
read into rd and written as its instruction says; the time CSR is the registration counter. The first clauses say what taking
an exception and SRET do to the registers, which the model takes from the RISC-V specification (PRESUMED,
notes/assumptions/74.md, notes/assumptions/76.md, notes/assumptions/123.md); the address saved in sepc is a free value, and
that ATOMICS counts an LR and a storing SC is the model's choice (notes/assumptions/117.md).
Each of these rows is shown to answer a next state, under conditions on the state and the operands alone: CORE_ACCESS,
ZLINE_L3, CWL_LOCK, CWL_UNLOCK. -/
def Obligations.CoreAccessesAreTranslatedAndPerformed : Prop :=
  (∀ (x : Hart) (r v k : Nat), (x.xset r v).xget k = (if k = 0 then 0 else if k = r then v % 2 ^ 64 else x.xget k)) ∧
  (∀ (x : Hart) (cause stval epc : Nat),
    let y := x.trap cause stval epc
    let guest : Bool := (x.mode == 2 || x.mode == 3) && bit (x.csr 0x602) cause
    let entered (status : Nat) : Prop := bit (y.csr status) 1 = false ∧ bit (y.csr status) 5 = bit (x.csr status) 1 ∧
      bit (y.csr status) 8 = (x.mode == 1 || x.mode == 2)
    y.cause = cause ∧ y.stval = stval ∧ y.xregs = x.xregs ∧ y.fregs = x.fregs ∧ y.vregs = x.vregs ∧ y.ndfault = x.ndfault ∧
    (guest = true → y.mode = 2 ∧ y.pc = x.csr 0x205 / 4 * 4 ∧ y.csr 0x241 = epc % 2 ^ 64 ∧ y.csr 0x242 = cause % 2 ^ 64 ∧
      y.csr 0x243 = stval % 2 ^ 64 ∧ entered 0x200) ∧
    (guest = false → y.mode = 1 ∧ y.pc = x.csr 0x105 / 4 * 4 ∧ y.csr 0x141 = epc % 2 ^ 64 ∧ y.csr 0x142 = cause % 2 ^ 64 ∧
      y.csr 0x143 = stval % 2 ^ 64 ∧ entered 0x100 ∧ bit (y.csr 0x600) 7 = (x.mode == 2 || x.mode == 3))) ∧
  (∀ (x : Hart), x.mode = 1 ∨ x.mode = 2 →
    let status := if x.mode = 2 then 0x200 else 0x100
    let spp := bit (x.csr status) 8
    x.sret.pc = x.csr (if x.mode = 2 then 0x241 else 0x141) ∧ bit (x.sret.csr status) 1 = bit (x.csr status) 5 ∧
      bit (x.sret.csr status) 8 = false ∧
      x.sret.mode = if x.mode = 2 ∨ bit (x.csr 0x600) 7 = true then (if spp then 2 else 3) else if spp then 1 else 0) ∧
  (∀ (h f va : Nat) (acc : CoreAcc) (s : State), hartRuns s h = some f →
    let c := Instr.coreAccess h va acc
    let g := groupOfHart h
    let die := dieOfHart h
    let becomes (u : State) (y : Hart → Hart) : Prop := exec c s = .next (modHart u h y)
    let traps (u : State) (cause stval : Nat) : Prop := becomes u.drawn (fun x => x.trap cause stval (Config.freeNat u.free))
    let faults (u : State) (nd : Nat) : Prop := becomes u.drawn (fun x =>
      { x.trap (accCause acc) va (Config.freeNat u.free) with ndfault := nd })
    let illegal : Prop := traps s.drawn 2 0
    let refused (cc : Nat) : Prop := (cc = 2 → illegal) ∧ (cc ≠ 2 → traps s cc 0)
    let amoGood : Prop := ∀ op n rd a b, acc = .amo op n rd a b → amoLegal op n = true
    let moves : Prop := (∀ op n rd v, acc ≠ .csr op n rd v) ∧ acc ≠ .wrsNto ∧ acc ≠ .wrsSto ∧ acc ≠ .sret ∧
      (∀ rd a t, acc ≠ .vsetvl rd a t) ∧ (∀ m, acc ≠ .privilege m) ∧ (∀ e n as, acc ≠ .sbi e n as) ∧ acc ≠ .prefetch ∧
      (∀ n rd e, acc ≠ .hload n rd e) ∧ (∀ n d, acc ≠ .hstore n d)
    let legal : Prop := moves ∧ amoGood ∧ cboRefused (getHart s h) acc = none
    let m := coreMmu h f (accKind acc) (accFault acc) (accStart acc va) (accSize acc) s
    let r := coreBoth h f (accKind acc) (accFault acc) (accStart acc va) (accSize acc) s
    (¬amoGood → illegal) ∧
    (∀ cc, moves → cboRefused (getHart s h) acc = some cc → refused cc) ∧
    (legal → ∀ cause, accAlign acc va = some cause → traps s cause va) ∧
    (∀ off, legal → accAlign acc va = none → mboxOffset m.2 = some off →
      (∀ n rd, acc = .load n rd → becomes m.1 (fun x =>
        x.xset rd (ofBytes (readBytes (getMbox m.1 (.core f)).bytes off n)))) ∧
      (∀ n rd, acc = .fload n rd → becomes m.1 (fun x =>
        x.fset rd n (ofBytes (readBytes (getMbox m.1 (.core f)).bytes off n)))) ∧
      (∀ n d, acc = .store n d → exec c s = .next (storeSlot m.1 (.core f) off d)) ∧
      ((∀ n rd, acc ≠ .load n rd) → (∀ n rd, acc ≠ .fload n rd) → (∀ n d, acc ≠ .store n d) →
        faults m.1 (packFields [(56, coreDevices + off), (4, 0), (4, 0)]))) ∧
    (legal → accAlign acc va = none → mboxOffset m.2 = none →
      (r.2.2 = .held → becomes r.1 (fun x => { x with st := .stalled, stalledOn := some c })) ∧
      (∀ nd, r.2.2 = .denied nd → faults r.1 nd) ∧
      (∀ cc a, r.2.2 = .trap cc a → traps r.1 cc a) ∧
      (∀ pas, r.2.2 = .ok pas →
        let d := coreReadPas h pas r.1
        let poisoned (u : State) (pa : Nat) : Prop := faults u (packFields [(56, sectorVa r.2.1 pas pa), (4, 0), (4, 2)])
        let loads (y : Hart → Hart) : Prop := (∀ pa, d.2.2 = some pa → poisoned d.1 pa) ∧ (d.2.2 = none → becomes d.1 y)
        (∀ n rd, acc = .load n rd → loads (fun x => x.xset rd (ofBytes d.2.1))) ∧
        (∀ n rd, acc = .fload n rd → loads (fun x => x.fset rd n (ofBytes d.2.1))) ∧
        (∀ n vd, acc = .vload n vd → loads (fun x => { x with vregs := writeBytes x.vregs (64 * vd) d.2.1 })) ∧
        (∀ n, acc = .fetch n →
          (∀ pa, d.2.2 = some pa → poisoned d.1 pa) ∧ (d.2.2 = none → exec c s = .next d.1)) ∧
        (∀ n data, acc = .store n data ∨ acc = .vstore n data → exec c s = .next (coreWritePas h pas data r.1)) ∧
        (acc = .cboZero → exec c s = .next (coreWritePas h pas (List.replicate 64 0#8) r.1)) ∧
        ((acc = .cboClean ∨ acc = .cboFlush ∨ acc = .cboInval) → exec c s = .next r.1) ∧
        (∀ n rd pa m rest, acc = .loadReserved n rd → pas = (pa, m) :: rest →
          let o := cacheOwn r.1 die (lineOf pa) (some g)
          (o.2.poisonAt (pa % 128) = true → poisoned o.1 (sectorBase pa)) ∧
          (o.2.poisonAt (pa % 128) = false → becomes (countFor o.1 (some f) .atomics 1) (fun x =>
            { x.xset rd (signExtend n (ofBytes (o.2.slice (pa % 128) n))) with resv := some (lineOf pa) }))) ∧
        (∀ n rd data pa m rest, acc = .storeCond n rd data → pas = (pa, m) :: rest →
          let ended (v : Nat) := modHart r.1 h (fun x => { x.xset rd v with resv := none, wrs := false })
          ((getHart r.1 h).resv = some (lineOf pa) → exec c s =
            .next (coreWritePas h pas data (countFor (ended 0) (some f) .atomics 1))) ∧
          ((getHart r.1 h).resv ≠ some (lineOf pa) → exec c s = .next (ended 1))) ∧
        (∀ op n rd a b pa m rest, acc = .amo op n rd a b → pas = (pa, m) :: rest →
          let u := breakResv r.1 die (lineOf pa) (some h)
          let o := cacheAtomic u die pa n op (a % 2 ^ (8 * n)) (b % 2 ^ (8 * n)) (some g) (some f)
          (o.2 = none → poisoned o.1 (sectorBase pa)) ∧
          (∀ old, o.2 = some old → becomes o.1 (fun x => x.amoSet rd n old))))) ∧
    (((∃ n rd e, acc = .hload n rd e) ∨ (∃ n d, acc = .hstore n d)) →
      (∀ cc, guestRefused (getHart s h) = some cc → refused cc) ∧
      (guestRefused (getHart s h) = none →
        let own := (getHart s h).mode
        let guest := if bit ((getHart s h).csr 0x600) 8 then 2 else 3
        let b := coreBoth h f (accKind acc) (accFault acc) va (accSize acc) (modHart s h (fun x => { x with mode := guest }))
        let u := modHart b.1 h (fun x => { x with mode := own })
        (b.2.2 = .held → becomes u (fun x => { x with st := .stalled, stalledOn := some c })) ∧
        (∀ nd, b.2.2 = .denied nd → faults u nd) ∧
        (∀ cc a, b.2.2 = .trap cc a → traps u cc a) ∧
        (∀ pas, b.2.2 = .ok pas →
          (∀ n data, acc = .hstore n data → exec c s = .next (coreWritePas h pas data u)) ∧
          (∀ n rd e, acc = .hload n rd e →
            let d := coreReadPas h pas u
            (∀ pa, d.2.2 = some pa → faults d.1 (packFields [(56, sectorVa b.2.1 pas pa), (4, 0), (4, 2)])) ∧
            (d.2.2 = none → becomes d.1 (fun x => x.xset rd (ofBytes d.2.1))))))) ∧
    (∀ op n rd v, acc = .csr op n rd v →
      let x := getHart s h
      let k := csrNum x n
      let writes (old : Nat) (y : Hart) : Hart := (if op = .read then y else y.writeCsr k (csrNew op old v)).xset rd old
      let counting : Prop := isCounter k = true ∧ k ≠ 0xC01
      (∀ cc, csrRefused x n (op != .read) = some cc → refused cc) ∧
      (csrRefused x n (op != .read) = none → siregMissing x k = true → illegal) ∧
      (csrRefused x n (op != .read) = none → siregMissing x k = false →
        (¬counting → becomes s (writes (csrValue s x k))) ∧
        (counting → becomes s.drawn (fun y =>
          writes ((mapGetD x.hpm 0 (k - 0xC00) + Config.freeNat s.free % 2 ^ 64) % 2 ^ 64) (y.count k (Config.freeNat s.free))))) ∧
      (csrValue s x 0xC01 = if x.virt then (s.now + x.csr 0x605) % 2 ^ 64 else s.now) ∧
      csrValue s x 0xDC0 = x.ndfault ∧ csrValue s x 0x142 = x.csr 0x142 ∧ csrValue s x 0x143 = x.csr 0x143) ∧
    (acc = .wrsNto →
      let goesOn (x : Hart) : Bool := x.interrupts 0 || (decide (x.csr 0x14D ≤ s.now) && bit (x.csr 0x104) 5) || x.resv.isNone
      becomes s (fun x => if goesOn x then x else { x with wrs := true })) ∧
    (acc = .sret →
      let x := getHart s h
      (x.mode = 0 → illegal) ∧ (x.mode = 3 ∨ x.mode = 2 ∧ bit (x.csr 0x600) 22 = true → traps s 22 0) ∧
      (x.mode = 1 ∨ x.mode = 2 ∧ bit (x.csr 0x600) 22 = false → becomes s Hart.sret)) ∧
    (∀ rd avl vt n, acc = .vsetvl rd avl vt → vlMax vt = some n →
      ∃ t x, exec c s = .next t ∧ mapGet t.harts h = some x ∧ x.vl ≤ n ∧ (avl ≤ n → x.vl = avl) ∧ (2 * n ≤ avl → x.vl = n) ∧
        x.vill = false ∧ x.sew = 8 * 2 ^ bits vt 5 3) ∧
    (∀ k, acc = .privilege k → becomes s (fun x => { x with mode := k % 4 })) ∧
    (acc = .prefetch ∨ acc = .wrsSto → exec c s = .next s)) ∧
  (∀ (h f va : Nat) (s : State), hartRuns s h = some f →
    let r := coreBoth h f 1 1 va 128 s
    let trapped (u : State) (cause stval : Nat) : Prop := exec (.zlineL3 h va) s =
      .next (modHart u.drawn h (fun x => x.trap cause stval (Config.freeNat u.free)))
    (va % 128 ≠ 0 → trapped s 6 va) ∧
    (va % 128 = 0 →
      (r.2.2 = .held → exec (.zlineL3 h va) s =
        .next (modHart r.1 h (fun x => { x with st := .stalled, stalledOn := some (.zlineL3 h va) }))) ∧
      (∀ nd, r.2.2 = .denied nd → exec (.zlineL3 h va) s =
        .next (modHart r.1.drawn h (fun x => { x.trap 7 va (Config.freeNat r.1.free) with ndfault := nd }))) ∧
      (∀ cc a, r.2.2 = .trap cc a → trapped r.1 cc a) ∧
      (∀ pas, r.2.2 = .ok pas → exec (.zlineL3 h va) s =
        .next (coreWritePas h pas (List.replicate 128 0#8) r.1)))) ∧
  (∀ (h f va len rd way : Nat) (s : State), hartRuns s h = some f →
    let g := groupOfHart h
    let c := Instr.cwlLock h va len rd
    let legal : Prop := (getHart s h).mode = 1 ∨ (getHart s h).mode = 2
    let illegal (c : Instr) : Prop := exec c s =
      .next (modHart s.drawn.drawn h (fun x => x.trap 2 0 (Config.freeNat s.drawn.free)))
    let fits : Prop := len ≠ 0 ∧ len ≤ 2 ^ 22 ∧ (lockedOf s g).length < 2 ∧ regionInEntry s h f va len = true ∧
      ∀ d, deviceVa s h f va = some d → d < coreDevices
    (¬legal → illegal c ∧ illegal (.cwlUnlock h way)) ∧
    (legal → exec (.cwlUnlock h way) s =
      .next { s with l3Locks := s.l3Locks.filter (fun l => !(l.group == g && l.way == way)) }) ∧
    (legal → ¬fits → exec c s = .next (modHart s h (fun x => x.xset rd (2 ^ 64 - 1)))) ∧
    (legal → fits → ∃ w ∈ groupWays g, w ∉ lockedOf s g ∧
      let u := { s.drawn with l3Locks := { die := dieOfHart h, way := w, group := g } :: s.l3Locks }
      let r := preload h f w va (lineStarts va len) u
      let back := unlockWay r.1 g w
      (∀ pas, r.2.2 = .ok pas → exec c s = .next (modHart r.1 h (fun x => x.xset rd w))) ∧
      (r.2.2 = .held → exec c s = .next (modHart back h (fun x => { x with st := .stalled, stalledOn := some c }))) ∧
      (∀ cc a, r.2.2 = .trap cc a → exec c s =
        .next (modHart back.drawn h (fun x => x.trap cc (max va a) (Config.freeNat back.free)))) ∧
      (∀ nd, r.2.2 = .denied nd → exec c s = .next (modHart back.drawn h (fun x =>
        { x.trap 5 (max va r.2.1) (Config.freeNat back.free) with ndfault := nd })))))

/-- Conversions and the calls of the core monitor (11 R370, R371, R379 to R381, R384, Table 11.5): a conversion that
R380 makes illegal traps and writes nothing, another writes its packed elements and accumulates its flags; a call
answers in a0 and a1; HSM starts a stopped hart in S-mode at its entry, stops the caller and tells a hart's state; TIME
sets stimecmp; SRST stops the forme's groups.
Each of these rows is shown to answer a next state, under conditions on the state and the operands alone: NCVT, NSCALE,
SBI_IPI, SBI_RFENCE, SBI_HSM, SBI_SRST, SBI_ENTROPY. -/
def Obligations.ConversionsAndMonitorCallsAnswer : Prop :=
  (∀ (h f w : Nat) (s : State), hartRuns s h = some f →
    let x := getHart s h
    let illegal (c : Instr) : Prop := ∃ v, (v = w ∨ v = 0) ∧ exec c s =
      .next (modHart s.drawn.drawn h (fun x => x.trap 2 v (Config.freeNat s.drawn.free)))
    (cvIllegal x w false = true → illegal (.ncvt h w)) ∧
    (cvIllegal x w true = true → illegal (.nscale h w)) ∧
    (cvIllegal x w false = false →
      let rs := (List.range x.vl).map (fun i => cvTarget x w i s.free)
      ∃ t, exec (.ncvt h w) s = .next t ∧ mapGet t.harts h = some { x with
        vregs := writeBytes x.vregs (64 * cvVd w) (packElems (typeBits (cvDfmt w)) (rs.map (·.1)))
        fflags := rs.foldl (fun a r => Nat.lor a r.2) x.fflags } ∧
      t = { s with harts := t.harts, free := t.free } ∧ ∀ k, k ≠ h → mapGet t.harts k = mapGet s.harts k) ∧
    (cvIllegal x w true = false → ∀ m, typeKind (cvDfmt w) = some (.scaled m) →
      let out := (List.range (x.vl / 32)).map (fun k =>
        BitVec.ofNat 8 (chooseScale m .away ((List.range 32).map (fun j => cvSource x w (32 * k + j)))))
      ∃ t, exec (.nscale h w) s = .next t ∧
        mapGet t.harts h = some { x with vregs := writeBytes x.vregs (64 * cvVd w) out } ∧
        t = { s with harts := t.harts } ∧ ∀ k, k ≠ h → mapGet t.harts k = mapGet s.harts k)) ∧
  (∀ (h f : Nat) (s : State), hartRuns s h = some f →
    let returns (t : State) (err : Nat) : Prop := (getHart t h).xget 10 = err ∧ (getHart t h).xget 11 = 0
    let frame (t : State) : Prop := t = { s with harts := t.harts }
    (∀ ts, sameFormeHarts s f ts = true → ∃ t, exec (.sbiIpi h ts) s = .next t ∧ frame t ∧ returns t 0 ∧
      ∀ k ∈ ts, (mapGet s.harts k).isSome = true → 1 ∈ (getHart t k).pending) ∧
    (∀ ts, sameFormeHarts s f ts = false → ∃ t, exec (.sbiIpi h ts) s = .next t ∧ frame t ∧ returns t (2 ^ 64 - 3) ∧
      ∀ k, k ≠ h → mapGet t.harts k = mapGet s.harts k) ∧
    (∀ ts, ∃ t, exec (.sbiRfence h ts) s = .next t ∧ frame t ∧
      returns t (if sameFormeHarts s f ts then 0 else 2 ^ 64 - 3) ∧ ∀ k, k ≠ h → mapGet t.harts k = mapGet s.harts k) ∧
    (∀ k e a, ∃ t, exec (.sbiHsm h k false e a) s = .next t ∧ frame t ∧
      (k = h → (getHart t h).st = .stopped) ∧ (k ≠ h → returns t (2 ^ 64 - 3)) ∧
      ∀ j, j ≠ h → mapGet t.harts j = mapGet s.harts j) ∧
    (∀ k e a, ∃ t, exec (.sbiHsm h k true e a) s = .next t ∧ frame t ∧
      let may := sameFormeHarts s f [k] && s.groupsRunning.contains (groupOfHart k)
      (may = false → returns t (2 ^ 64 - 3)) ∧
      (may = true → (getHart s k).st ≠ .stopped → returns t (2 ^ 64 - 6)) ∧
      (may = true → (getHart s k).st = .stopped → returns t 0 ∧ ((mapGet s.harts k).isSome = true →
        (getHart t k).st = .running ∧ (getHart t k).pc = e ∧ (getHart t k).mode = 1 ∧ (getHart t k).xget 10 = k % 2 ^ 64 ∧
          (getHart t k).xget 11 = a % 2 ^ 64))) ∧
    (∀ x, getForme s f = some x → ∃ t, exec (.sbiSrst h) s = .next t ∧ frame t ∧
      (∀ g ∈ x.groups, ∀ i, i < 8 → (getHart t (8 * g + i)).st = .stopped) ∧
      ∀ k, groupOfHart k ∉ x.groups → mapGet t.harts k = mapGet s.harts k) ∧
    (∀ va v, ∃ t, exec (.coreAccess h va (.sbi 0x54494D45 0 [v])) s = .next t ∧ frame t ∧ returns t 0 ∧
      (getHart t h).csr 0x14D = v % 2 ^ 64) ∧
    (∀ va k, sameFormeHarts s f [k] = true → ∃ t, exec (.coreAccess h va (.sbi 0x48534D 2 [k])) s = .next t ∧ frame t ∧
      (getHart t h).xget 10 = 0 ∧ (getHart t h).xget 11 = hsmStatus (getHart s k)) ∧
    (∀ va,
      let r := coreBoth h f 1 1 va 32 s
      (∀ pas, r.2.2 = .ok pas → ∃ bs : List Byte, bs.length = 32 ∧ exec (.sbiEntropy h va) s =
        .next (modHart (coreWritePas h pas bs r.1.drawn) h (fun x => (x.xset 10 0).xset 11 0))) ∧
      (r.2.2 = .held → exec (.sbiEntropy h va) s =
        .next (modHart r.1 h (fun x => { x with st := .stalled, stalledOn := some (.sbiEntropy h va) }))) ∧
      (∀ cc a, r.2.2 = .trap cc a → exec (.sbiEntropy h va) s =
        .next (modHart r.1.drawn h (fun x => x.trap cc a (Config.freeNat r.1.free)))) ∧
      (∀ nd, r.2.2 = .denied nd → exec (.sbiEntropy h va) s =
        .next (modHart r.1.drawn h (fun x => { x.trap 7 va (Config.freeNat r.1.free) with ndfault := nd })))))

/-! ## Windows of the Press (03) -/

/-- Whatever is added to a window, by a seed, a product or a sliced product: its anchor never falls (03 R97), its NaN flag once
set stays set, and a window with both infinity flags gives what one with the NaN flag gives (03 R104). -/
def Obligations.AnchorNeverFallsAndNanFlagStays : Prop :=
  ∀ (win s : Nat) (ebase T : Int) (x : Window),
    let kept (y : Window) : Prop :=
      (∀ a, x.anchor = some a → ∃ b, y.anchor = some b ∧ a ≤ b) ∧ (x.nan = true → y.nan = true)
    (∀ p, kept (x.addTerm win p T)) ∧ (∀ v, kept (x.seed win v)) ∧ (∀ ps, kept (Window.mma win x ps)) ∧
      (∀ as bs, kept (Window.slicedSum s ebase T x as bs)) ∧
      (x.pinf = true → x.ninf = true → x.value = ({ x with nan := true } : Window).value ∧
        x.inexact = ({ x with nan := true } : Window).inexact)

/-! ## The journal (15) -/

/-- An entry written takes the next number, the time, and the low half of the chain value before it; the chain value after it is
the SHA-256 of the one before and the entry's 64 bytes, in the Watch domain, which a cold reset leaves alone. Before entry 0 the
chain value is zero, and before the BOOT entry of a later power-up it is the one kept with the last checkpoint (15 R526,
R528). -/
def Obligations.JournalEntriesAreChained : Prop :=
  (∀ (s : State) (e : JEntry), let t := journalPut s e
    ∃ x, t.journal.entries.head? = some x ∧ x = { e with number := s.journal.next, time := s.now, prev := s.journal.chain % 2 ^ 64 } ∧
      x.pack.length = 64 ∧ t.journal.chain = ofBytes (sha256 (toBytes 32 s.journal.chain ++ x.pack)) ∧
      t.journal.next = s.journal.next + 1) ∧
  (∀ (s : State), (coldReset s).journal = s.journal) ∧
  (∀ (s : State), s.phase = .off → s.pins.railsFailed = false → 44000 ≤ s.meter.millivolts → s.meter.millivolts ≤ 58000 →
    ∃ t, exec .powerOn s = .next t ∧ (t.phase = .starting →
      (s.flash.journalBegun = false → t.journal.next = 0 ∧ toBytes 32 t.journal.chain = List.replicate 32 0#8) ∧
      (s.flash.journalBegun = true → t.journal.next = 4096 * (s.flash.checkpoint + 2) ∧
        t.journal.chain = s.flash.checkpointChain)))

/-! ## The machine -/

/-- A step takes the command at the front of the queue and is that command's effect on the state with the queue's rest. On an
empty queue, a change that the journal held at its start is made once the journal takes entries again (15 R527); otherwise the
block idles: without power nothing happens, with it the registration counter moves on by a nanosecond and what its rate
corrects, links send what waits, waiting harts go on at their timer interrupt, homes serve what has reached them, and a destroy
or a reset whose command was aborted goes on. What idling does is the model's choice (notes/assumptions/5.md, 82, 115, 127). -/
def Obligations.StepRunsTheFrontCommand : Prop :=
  (∀ (c : Instr) (q : List Instr) (s : State), s.pending = c :: q → step s = exec c { s with pending := q }) ∧
  (∀ (c : Instr) (rest : List Instr) (s : State), s.pending = [] → s.journal.rows = c :: rest → journalHeld s = false →
    step s = exec c { s with journal := { s.journal with rows := rest } }) ∧
  (∀ (s : State), s.pending = [] → (s.journal.rows = [] ∨ journalHeld s = true) →
    let a := ((s.mesh.frac : Int) + 100000000 + s.mesh.rate).toNat
    let later : State := { s with now := (s.now + a / 100000000) % 2 ^ 64, mesh := { s.mesh with frac := a % 100000000 } }
    (s.phase = .off ∨ s.phase = .lost → step s = .next s) ∧
    (s.phase ≠ .off → s.phase ≠ .lost → step s = .next (orphanSteps (serveHomes (timerStep (meshTick later)))) ∧
      (s.gut.flights = [] → s.gut.atHome = [] → s.txns = [] →
        (∀ p, p < 6 → (getMeshPort s p).queue = [] ∧ (getMeshPort s p).replay = []) →
        (∀ x ∈ s.harts, timerWakes later x.2 = false ∨ (x.2.wrs = false ∧ x.2.st ≠ .suspended)) →
        (∀ x ∈ s.formes, x.2.orphans = []) → step s = .next later)))

/-- What reset leaves (00 R11; 18 R586, Tables 18.3, 18.4; 15 Table 15.22): the registration counter and the journal at
their start, test unlock off, no forme, pass, hart or mesh job, registration FREE (14 R492), empty caches, directory and
error rings, mailboxes at zero and ports disarmed, and the values of 15 Table 15.22. The phase, starting, is the model's
choice (notes/assumptions/2.md); the last clause says that the invariant holds. -/
def Obligations.ResetLeavesTheStatedValues : Prop :=
  let s := State.reset
  s.now = 0 ∧ s.journal.next = 0 ∧ s.journal.chain = 0 ∧ s.sec.unlocked = false ∧ s.formes = [] ∧ s.harts = [] ∧
    s.groupsRunning = [] ∧ s.galleys = [] ∧ s.lines = [] ∧ s.dir = [] ∧ s.txns = [] ∧ s.rangeCaches = [] ∧ s.mesh.jobs = [] ∧
    s.mesh.regState = .free ∧ s.sb.queue = [] ∧ s.sb.mark = 0 ∧ s.pending = [] ∧ s.phase = .starting ∧
    s.config.nx = 1 ∧ s.config.ny = 1 ∧ s.config.nz = 1 ∧ s.config.gutPp = 2 ∧ s.config.gutCp = 3 ∧ s.config.admin = 1 ∧
    s.moduleCap = 3000 ∧ (∀ k, k < 12 → (getStack s k).ring = Ring.reset) ∧
    (∀ p, p < 4 → ∃ x, mapGet s.ports p = some x ∧ x.mbox = Mailbox.reset ∧ x.armed = false ∧ x.forme = none ∧
      x.maxPayload = 128 ∧ x.maxReadReq = 512) ∧
    (∀ a, byteAt s.mem a = 0) ∧ Consistent s

/-- The invariant: memory stays in its canonical form, the tables of lines and of snapshots keep rising keys, and the journal's
entries stay numbered one by one up to the next number (15 R525). Every step from a state that has it, reached or not, leads to
one that has it. -/
def Obligations.EveryStepKeepsTheInvariant : Prop :=
  ∀ (s t : State), Consistent s → step s = .next t → Consistent t

/-- Every command answers a next state in every state, but for a power sample above 72 V, at which the model stops (19 R600),
and none writes the fuses, the straps or the queue (15 R519, Table 15.7; 17 R560; notes/assumptions/10.md): a step takes
exactly one command from the queue. -/
def Obligations.CommandsCompleteAndLeaveFusesStrapsAndQueue : Prop :=
  ∀ (c : Instr) (s : State), (∃ t, exec c s = .next t ∧ fixedOf t = fixedOf s) ∨
    (∃ mv ma, c = .powerMeterSample mv ma ∧ 72000 < mv ∧ exec c s = .fault .outsideRatings)
end

