-- ==== Sys2Proof/Laws/Map.lean ====
section
/-! SUPPORT. The sparse tables and the addressed bytes: what a read gives after a write, what a write leaves, and the
canonical form that every write keeps. -/

namespace Sys2Proof.Machine

open Sys2Proof

variable {α : Type}

@[simp] theorem mapGet_mapSet_self (m : SMap α) (k : Nat) (v : α) : mapGet (mapSet m k v) k = some v := by
  induction m with
  | nil => simp [mapSet, mapGet]
  | cons x r ih =>
    obtain ⟨k', v'⟩ := x
    simp only [mapSet]
    split
    · simp [mapGet]
    · split
      · simp [mapGet]
      · rename_i h1 h2
        have : ¬ k' = k := fun h => h2 h.symm
        simp [mapGet, this, ih]

theorem mapGet_mapSet_ne (m : SMap α) {k j : Nat} (v : α) (h : j ≠ k) : mapGet (mapSet m k v) j = mapGet m j := by
  induction m with
  | nil => simp [mapSet, mapGet, h.symm]
  | cons x r ih =>
    obtain ⟨k', v'⟩ := x
    simp only [mapSet]
    split
    · simp [mapGet, h.symm]
    · split
      · rename_i h1 h2
        subst h2
        simp [mapGet, h.symm]
      · simp [mapGet, ih]

theorem mapGet_mapSet (m : SMap α) (k j : Nat) (v : α) :
    mapGet (mapSet m k v) j = if j = k then some v else mapGet m j := by
  split
  · rename_i h; subst h; exact mapGet_mapSet_self ..
  · rename_i h; exact mapGet_mapSet_ne m v h

@[simp] theorem mapSet_mapSet (m : SMap α) (k : Nat) (v w : α) : mapSet (mapSet m k v) k w = mapSet m k w := by
  induction m with
  | nil => simp [mapSet]
  | cons x r ih =>
    obtain ⟨k', v'⟩ := x
    simp only [mapSet]
    split
    · simp [mapSet]
    · split
      · simp [mapSet]
      · rename_i h1 h2
        simp [mapSet, h1, h2, ih]

@[simp] theorem mapGetD_mapSet_self (m : SMap α) (d : α) (k : Nat) (v : α) : mapGetD (mapSet m k v) d k = v := by
  simp [mapGetD]

theorem mapGetD_mapSet_ne (m : SMap α) (d : α) {k j : Nat} (v : α) (h : j ≠ k) :
    mapGetD (mapSet m k v) d j = mapGetD m d j := by
  simp [mapGetD, mapGet_mapSet_ne m v h]

theorem keysFrom_mono (m : SMap α) {a b : Nat} (h : a ≤ b) (hm : keysFrom b m = true) : keysFrom a m = true := by
  cases m with
  | nil => rfl
  | cons x r =>
    simp only [keysFrom, Bool.and_eq_true, decide_eq_true_eq] at hm ⊢
    exact ⟨Nat.le_trans h hm.1, hm.2⟩

theorem keysFrom_mapSet (m : SMap α) (lo k : Nat) (v : α) (hk : lo ≤ k) (hm : keysFrom lo m = true) :
    keysFrom lo (mapSet m k v) = true := by
  induction m generalizing lo with
  | nil => simp [mapSet, keysFrom, hk]
  | cons x r ih =>
    obtain ⟨k', v'⟩ := x
    simp only [keysFrom, Bool.and_eq_true, decide_eq_true_eq] at hm
    simp only [mapSet]
    split
    · simp [keysFrom, hk, hm.2]; omega
    · split
      · rename_i h; subst h; simp [keysFrom, hk, hm.2]
      · simp only [keysFrom, Bool.and_eq_true, decide_eq_true_eq]
        exact ⟨hm.1, ih _ (by omega) hm.2⟩

theorem keysFrom_mapDel (m : SMap α) (lo k : Nat) (hm : keysFrom lo m = true) : keysFrom lo (mapDel m k) = true := by
  induction m generalizing lo with
  | nil => rfl
  | cons x r ih =>
    obtain ⟨k', v'⟩ := x
    simp only [keysFrom, Bool.and_eq_true, decide_eq_true_eq] at hm
    simp only [mapDel]
    split
    · exact keysFrom_mono r (by omega) hm.2
    · simp only [keysFrom, Bool.and_eq_true, decide_eq_true_eq]
      exact ⟨hm.1, ih _ hm.2⟩

/-- In a table with rising keys, a key below the first one is absent. -/
theorem mapGet_below (m : SMap α) (lo k : Nat) (hm : keysFrom lo m = true) (hk : k < lo) : mapGet m k = none := by
  induction m generalizing lo with
  | nil => rfl
  | cons x r ih =>
    obtain ⟨k', v'⟩ := x
    simp only [keysFrom, Bool.and_eq_true, decide_eq_true_eq] at hm
    simp [mapGet, show ¬ k' = k by omega, ih _ hm.2 (by omega)]

theorem mapGet_mapDel_self (m : SMap α) (lo k : Nat) (hm : keysFrom lo m = true) : mapGet (mapDel m k) k = none := by
  induction m generalizing lo with
  | nil => rfl
  | cons x r ih =>
    obtain ⟨k', v'⟩ := x
    simp only [keysFrom, Bool.and_eq_true, decide_eq_true_eq] at hm
    simp only [mapDel]
    split
    · exact mapGet_below r _ _ hm.2 (by omega)
    · rename_i h; simp [mapGet, h, ih _ hm.2]

theorem mapGet_mapDel_ne (m : SMap α) {k j : Nat} (h : j ≠ k) : mapGet (mapDel m k) j = mapGet m j := by
  induction m with
  | nil => rfl
  | cons x r ih =>
    obtain ⟨k', v'⟩ := x
    simp only [mapDel]
    split
    · rename_i h'; subst h'; simp [mapGet, h.symm]
    · simp [mapGet, ih]

theorem mem_mapSet (m : SMap α) (k : Nat) (v : α) (c : Nat × α) (h : c ∈ mapSet m k v) : c ∈ m ∨ c = (k, v) := by
  induction m with
  | nil => simp [mapSet] at h; exact .inr h
  | cons x r ih =>
    obtain ⟨k', v'⟩ := x
    simp only [mapSet] at h
    split at h
    · rcases List.mem_cons.mp h with h | h
      · exact .inr h
      · exact .inl h
    · split at h
      · rcases List.mem_cons.mp h with h | h
        · exact .inr h
        · exact .inl (List.mem_cons_of_mem _ h)
      · rcases List.mem_cons.mp h with h | h
        · exact .inl (h ▸ List.mem_cons_self)
        · rcases ih h with h | h
          · exact .inl (List.mem_cons_of_mem _ h)
          · exact .inr h

theorem mem_mapDel (m : SMap α) (k : Nat) (c : Nat × α) (h : c ∈ mapDel m k) : c ∈ m := by
  induction m with
  | nil => exact h
  | cons x r ih =>
    obtain ⟨k', v'⟩ := x
    simp only [mapDel] at h
    split at h
    · exact List.mem_cons_of_mem _ h
    · rcases List.mem_cons.mp h with h | h
      · exact h ▸ List.mem_cons_self
      · exact List.mem_cons_of_mem _ (ih h)

/-! ## Addressed bytes -/

theorem wf_keys {m : Bytes} (h : Memory.wf m = true) : keysFrom 0 m = true := by
  simp only [Memory.wf, Bool.and_eq_true] at h; exact h.1

theorem wf_nil : Memory.wf ([] : Bytes) = true := rfl

theorem wf_setByte (m : Bytes) (a : Nat) (b : Byte) (h : Memory.wf m = true) : Memory.wf (setByte m a b) = true := by
  simp only [Memory.wf, Bool.and_eq_true, List.all_eq_true, decide_eq_true_eq] at h ⊢
  unfold setByte
  split
  · exact ⟨keysFrom_mapDel m 0 a h.1, fun c hc => h.2 c (mem_mapDel m a c hc)⟩
  · rename_i hb
    refine ⟨keysFrom_mapSet m 0 a b (Nat.zero_le _) h.1, fun c hc => ?_⟩
    rcases mem_mapSet m a b c hc with hc | hc
    · exact h.2 c hc
    · subst hc; exact hb

theorem wf_writeBytes (m : Bytes) (a : Nat) (bs : List Byte) (h : Memory.wf m = true) :
    Memory.wf (writeBytes m a bs) = true := by
  induction bs generalizing m a with
  | nil => exact h
  | cons b bs ih => exact ih _ _ (wf_setByte m a b h)

theorem keysFrom_filter (m : SMap α) (p : Nat × α → Bool) (lo : Nat) (h : keysFrom lo m = true) :
    keysFrom lo (m.filter p) = true := by
  induction m generalizing lo with
  | nil => rfl
  | cons x r ih =>
    obtain ⟨k', v'⟩ := x
    simp only [keysFrom, Bool.and_eq_true, decide_eq_true_eq] at h
    simp only [List.filter]
    split
    · simp only [keysFrom, Bool.and_eq_true, decide_eq_true_eq]
      exact ⟨h.1, ih _ h.2⟩
    · exact keysFrom_mono _ (by omega) (ih _ h.2)

theorem wf_filter (m : Bytes) (p : Nat × Byte → Bool) (h : Memory.wf m = true) : Memory.wf (m.filter p) = true := by
  simp only [Memory.wf, Bool.and_eq_true, List.all_eq_true, decide_eq_true_eq] at h ⊢
  exact ⟨keysFrom_filter m p 0 h.1, fun c hc => h.2 c (List.mem_filter.mp hc).1⟩

/-- A write is read back. -/
theorem byteAt_setByte_self (m : Bytes) (a : Nat) (b : Byte) (h : Memory.wf m = true) : byteAt (setByte m a b) a = b := by
  unfold setByte byteAt mapGetD
  split
  · rename_i hb; rw [mapGet_mapDel_self m 0 a (wf_keys h)]; exact hb.symm
  · rw [mapGet_mapSet_self]; rfl

/-- A write leaves every other byte as it was. -/
theorem byteAt_setByte_ne (m : Bytes) {a j : Nat} (b : Byte) (h : j ≠ a) : byteAt (setByte m a b) j = byteAt m j := by
  unfold setByte byteAt mapGetD
  split
  · rw [mapGet_mapDel_ne m h]
  · rw [mapGet_mapSet_ne m b h]

/-- A byte string is read back where it was written. -/
theorem byteAt_writeBytes_in (m : Bytes) (a : Nat) (bs : List Byte) (h : Memory.wf m = true) (i : Nat)
    (hi : i < bs.length) : byteAt (writeBytes m a bs) (a + i) = bs[i] := by
  induction bs generalizing m a i with
  | nil => simp at hi
  | cons b bs ih =>
    cases i with
    | zero =>
      have out : ∀ (bs : List Byte) (m : Bytes) (a j : Nat), j < a → byteAt (writeBytes m a bs) j = byteAt m j := by
        intro bs
        induction bs with
        | nil => intros; rfl
        | cons b bs ih =>
          intro m a j hj
          simp only [writeBytes]
          rw [ih _ _ _ (by omega), byteAt_setByte_ne m b (by omega)]
      simp only [writeBytes, Nat.add_zero, List.getElem_cons_zero]
      rw [out _ _ _ _ (Nat.lt_succ_self a), byteAt_setByte_self m a b h]
    | succ i =>
      simp only [writeBytes, List.getElem_cons_succ]
      rw [show a + (i + 1) = a + 1 + i by omega]
      exact ih _ _ (wf_setByte m a b h) i (by simpa using hi)

/-- A byte string leaves every byte outside it as it was. -/
theorem byteAt_writeBytes_out (m : Bytes) (a : Nat) (bs : List Byte) (j : Nat) (hj : j < a ∨ a + bs.length ≤ j) :
    byteAt (writeBytes m a bs) j = byteAt m j := by
  induction bs generalizing m a with
  | nil => rfl
  | cons b bs ih =>
    simp only [writeBytes]
    simp only [List.length_cons] at hj
    rw [ih _ _ (by omega), byteAt_setByte_ne m b (by omega)]

end Sys2Proof.Machine
end

