-- ==== Sys2Proof/Laws/State.lean ====
section
/-! SUPPORT. The named updates of the state, field by field: what each leaves alone, and what it writes. -/

namespace Sys2Proof.Machine

open Sys2Proof

/-! ## State.drawn: writes free -/

@[simp] theorem drawn_phase (s : State) : s.drawn.phase = s.phase := rfl
@[simp] theorem drawn_now (s : State) : s.drawn.now = s.now := rfl
@[simp] theorem drawn_free (s : State) : s.drawn.free = s.free + 1 := rfl
@[simp] theorem drawn_pins (s : State) : s.drawn.pins = s.pins := rfl
@[simp] theorem drawn_jtag (s : State) : s.drawn.jtag = s.jtag := rfl
@[simp] theorem drawn_sec (s : State) : s.drawn.sec = s.sec := rfl
@[simp] theorem drawn_flash (s : State) : s.drawn.flash = s.flash := rfl
@[simp] theorem drawn_config (s : State) : s.drawn.config = s.config := rfl
@[simp] theorem drawn_journal (s : State) : s.drawn.journal = s.journal := rfl
@[simp] theorem drawn_applPp (s : State) : s.drawn.applPp = s.applPp := rfl
@[simp] theorem drawn_applCp (s : State) : s.drawn.applCp = s.applCp := rfl
@[simp] theorem drawn_lanes (s : State) : s.drawn.lanes = s.lanes := rfl
@[simp] theorem drawn_gut (s : State) : s.drawn.gut = s.gut := rfl
@[simp] theorem drawn_mem (s : State) : s.drawn.mem = s.mem := rfl
@[simp] theorem drawn_poison (s : State) : s.drawn.poison = s.poison := rfl
@[simp] theorem drawn_errors (s : State) : s.drawn.errors = s.errors := rfl
@[simp] theorem drawn_stackTab (s : State) : s.drawn.stackTab = s.stackTab := rfl
@[simp] theorem drawn_homeFull (s : State) : s.drawn.homeFull = s.homeFull := rfl
@[simp] theorem drawn_absentRing (s : State) : s.drawn.absentRing = s.absentRing := rfl
@[simp] theorem drawn_lines (s : State) : s.drawn.lines = s.lines := rfl
@[simp] theorem drawn_dir (s : State) : s.drawn.dir = s.dir := rfl
@[simp] theorem drawn_dirAge (s : State) : s.drawn.dirAge = s.dirAge := rfl
@[simp] theorem drawn_txns (s : State) : s.drawn.txns = s.txns := rfl
@[simp] theorem drawn_streams (s : State) : s.drawn.streams = s.streams := rfl
@[simp] theorem drawn_recent (s : State) : s.drawn.recent = s.recent := rfl
@[simp] theorem drawn_suspects (s : State) : s.drawn.suspects = s.suspects := rfl
@[simp] theorem drawn_timedOut (s : State) : s.drawn.timedOut = s.timedOut := rfl
@[simp] theorem drawn_l3Locks (s : State) : s.drawn.l3Locks = s.l3Locks := rfl
@[simp] theorem drawn_rangeCaches (s : State) : s.drawn.rangeCaches = s.rangeCaches := rfl
@[simp] theorem drawn_invals (s : State) : s.drawn.invals = s.invals := rfl
@[simp] theorem drawn_ports (s : State) : s.drawn.ports = s.ports := rfl
@[simp] theorem drawn_formes (s : State) : s.drawn.formes = s.formes := rfl
@[simp] theorem drawn_loose (s : State) : s.drawn.loose = s.loose := rfl
@[simp] theorem drawn_galleys (s : State) : s.drawn.galleys = s.galleys := rfl
@[simp] theorem drawn_harts (s : State) : s.drawn.harts = s.harts := rfl
@[simp] theorem drawn_groupsRunning (s : State) : s.drawn.groupsRunning = s.groupsRunning := rfl
@[simp] theorem drawn_corePower (s : State) : s.drawn.corePower = s.corePower := rfl
@[simp] theorem drawn_platens (s : State) : s.drawn.platens = s.platens := rfl
@[simp] theorem drawn_powerCmds (s : State) : s.drawn.powerCmds = s.powerCmds := rfl
@[simp] theorem drawn_comps (s : State) : s.drawn.comps = s.comps := rfl
@[simp] theorem drawn_moduleIdle (s : State) : s.drawn.moduleIdle = s.moduleIdle := rfl
@[simp] theorem drawn_waking (s : State) : s.drawn.waking = s.waking := rfl
@[simp] theorem drawn_idleReqs (s : State) : s.drawn.idleReqs = s.idleReqs := rfl
@[simp] theorem drawn_moduleCap (s : State) : s.drawn.moduleCap = s.moduleCap := rfl
@[simp] theorem drawn_meter (s : State) : s.drawn.meter = s.meter := rfl
@[simp] theorem drawn_mesh (s : State) : s.drawn.mesh = s.mesh := rfl
@[simp] theorem drawn_sb (s : State) : s.drawn.sb = s.sb := rfl
@[simp] theorem drawn_pending (s : State) : s.drawn.pending = s.pending := rfl

/-! ## modForme: writes formes -/

@[simp] theorem modForme_phase (s : State) (f : Nat) (g : Forme → Forme) : (modForme s f g).phase = s.phase := rfl
@[simp] theorem modForme_now (s : State) (f : Nat) (g : Forme → Forme) : (modForme s f g).now = s.now := rfl
@[simp] theorem modForme_free (s : State) (f : Nat) (g : Forme → Forme) : (modForme s f g).free = s.free := rfl
@[simp] theorem modForme_pins (s : State) (f : Nat) (g : Forme → Forme) : (modForme s f g).pins = s.pins := rfl
@[simp] theorem modForme_jtag (s : State) (f : Nat) (g : Forme → Forme) : (modForme s f g).jtag = s.jtag := rfl
@[simp] theorem modForme_sec (s : State) (f : Nat) (g : Forme → Forme) : (modForme s f g).sec = s.sec := rfl
@[simp] theorem modForme_flash (s : State) (f : Nat) (g : Forme → Forme) : (modForme s f g).flash = s.flash := rfl
@[simp] theorem modForme_config (s : State) (f : Nat) (g : Forme → Forme) : (modForme s f g).config = s.config := rfl
@[simp] theorem modForme_journal (s : State) (f : Nat) (g : Forme → Forme) : (modForme s f g).journal = s.journal := rfl
@[simp] theorem modForme_applPp (s : State) (f : Nat) (g : Forme → Forme) : (modForme s f g).applPp = s.applPp := rfl
@[simp] theorem modForme_applCp (s : State) (f : Nat) (g : Forme → Forme) : (modForme s f g).applCp = s.applCp := rfl
@[simp] theorem modForme_lanes (s : State) (f : Nat) (g : Forme → Forme) : (modForme s f g).lanes = s.lanes := rfl
@[simp] theorem modForme_gut (s : State) (f : Nat) (g : Forme → Forme) : (modForme s f g).gut = s.gut := rfl
@[simp] theorem modForme_mem (s : State) (f : Nat) (g : Forme → Forme) : (modForme s f g).mem = s.mem := rfl
@[simp] theorem modForme_poison (s : State) (f : Nat) (g : Forme → Forme) : (modForme s f g).poison = s.poison := rfl
@[simp] theorem modForme_errors (s : State) (f : Nat) (g : Forme → Forme) : (modForme s f g).errors = s.errors := rfl
@[simp] theorem modForme_stackTab (s : State) (f : Nat) (g : Forme → Forme) : (modForme s f g).stackTab = s.stackTab := rfl
@[simp] theorem modForme_homeFull (s : State) (f : Nat) (g : Forme → Forme) : (modForme s f g).homeFull = s.homeFull := rfl
@[simp] theorem modForme_absentRing (s : State) (f : Nat) (g : Forme → Forme) : (modForme s f g).absentRing = s.absentRing := rfl
@[simp] theorem modForme_lines (s : State) (f : Nat) (g : Forme → Forme) : (modForme s f g).lines = s.lines := rfl
@[simp] theorem modForme_dir (s : State) (f : Nat) (g : Forme → Forme) : (modForme s f g).dir = s.dir := rfl
@[simp] theorem modForme_dirAge (s : State) (f : Nat) (g : Forme → Forme) : (modForme s f g).dirAge = s.dirAge := rfl
@[simp] theorem modForme_txns (s : State) (f : Nat) (g : Forme → Forme) : (modForme s f g).txns = s.txns := rfl
@[simp] theorem modForme_streams (s : State) (f : Nat) (g : Forme → Forme) : (modForme s f g).streams = s.streams := rfl
@[simp] theorem modForme_recent (s : State) (f : Nat) (g : Forme → Forme) : (modForme s f g).recent = s.recent := rfl
@[simp] theorem modForme_suspects (s : State) (f : Nat) (g : Forme → Forme) : (modForme s f g).suspects = s.suspects := rfl
@[simp] theorem modForme_timedOut (s : State) (f : Nat) (g : Forme → Forme) : (modForme s f g).timedOut = s.timedOut := rfl
@[simp] theorem modForme_l3Locks (s : State) (f : Nat) (g : Forme → Forme) : (modForme s f g).l3Locks = s.l3Locks := rfl
@[simp] theorem modForme_rangeCaches (s : State) (f : Nat) (g : Forme → Forme) : (modForme s f g).rangeCaches = s.rangeCaches := rfl
@[simp] theorem modForme_invals (s : State) (f : Nat) (g : Forme → Forme) : (modForme s f g).invals = s.invals := rfl
@[simp] theorem modForme_ports (s : State) (f : Nat) (g : Forme → Forme) : (modForme s f g).ports = s.ports := rfl
@[simp] theorem modForme_formes (s : State) (f : Nat) (g : Forme → Forme) : (modForme s f g).formes = mapMod s.formes f g := rfl
@[simp] theorem modForme_loose (s : State) (f : Nat) (g : Forme → Forme) : (modForme s f g).loose = s.loose := rfl
@[simp] theorem modForme_galleys (s : State) (f : Nat) (g : Forme → Forme) : (modForme s f g).galleys = s.galleys := rfl
@[simp] theorem modForme_harts (s : State) (f : Nat) (g : Forme → Forme) : (modForme s f g).harts = s.harts := rfl
@[simp] theorem modForme_groupsRunning (s : State) (f : Nat) (g : Forme → Forme) : (modForme s f g).groupsRunning = s.groupsRunning := rfl
@[simp] theorem modForme_corePower (s : State) (f : Nat) (g : Forme → Forme) : (modForme s f g).corePower = s.corePower := rfl
@[simp] theorem modForme_platens (s : State) (f : Nat) (g : Forme → Forme) : (modForme s f g).platens = s.platens := rfl
@[simp] theorem modForme_powerCmds (s : State) (f : Nat) (g : Forme → Forme) : (modForme s f g).powerCmds = s.powerCmds := rfl
@[simp] theorem modForme_comps (s : State) (f : Nat) (g : Forme → Forme) : (modForme s f g).comps = s.comps := rfl
@[simp] theorem modForme_moduleIdle (s : State) (f : Nat) (g : Forme → Forme) : (modForme s f g).moduleIdle = s.moduleIdle := rfl
@[simp] theorem modForme_waking (s : State) (f : Nat) (g : Forme → Forme) : (modForme s f g).waking = s.waking := rfl
@[simp] theorem modForme_idleReqs (s : State) (f : Nat) (g : Forme → Forme) : (modForme s f g).idleReqs = s.idleReqs := rfl
@[simp] theorem modForme_moduleCap (s : State) (f : Nat) (g : Forme → Forme) : (modForme s f g).moduleCap = s.moduleCap := rfl
@[simp] theorem modForme_meter (s : State) (f : Nat) (g : Forme → Forme) : (modForme s f g).meter = s.meter := rfl
@[simp] theorem modForme_mesh (s : State) (f : Nat) (g : Forme → Forme) : (modForme s f g).mesh = s.mesh := rfl
@[simp] theorem modForme_sb (s : State) (f : Nat) (g : Forme → Forme) : (modForme s f g).sb = s.sb := rfl
@[simp] theorem modForme_pending (s : State) (f : Nat) (g : Forme → Forme) : (modForme s f g).pending = s.pending := rfl

/-! ## modStack: writes stackTab -/

@[simp] theorem modStack_phase (s : State) (k : Nat) (g : Stack → Stack) : (modStack s k g).phase = s.phase := rfl
@[simp] theorem modStack_now (s : State) (k : Nat) (g : Stack → Stack) : (modStack s k g).now = s.now := rfl
@[simp] theorem modStack_free (s : State) (k : Nat) (g : Stack → Stack) : (modStack s k g).free = s.free := rfl
@[simp] theorem modStack_pins (s : State) (k : Nat) (g : Stack → Stack) : (modStack s k g).pins = s.pins := rfl
@[simp] theorem modStack_jtag (s : State) (k : Nat) (g : Stack → Stack) : (modStack s k g).jtag = s.jtag := rfl
@[simp] theorem modStack_sec (s : State) (k : Nat) (g : Stack → Stack) : (modStack s k g).sec = s.sec := rfl
@[simp] theorem modStack_flash (s : State) (k : Nat) (g : Stack → Stack) : (modStack s k g).flash = s.flash := rfl
@[simp] theorem modStack_config (s : State) (k : Nat) (g : Stack → Stack) : (modStack s k g).config = s.config := rfl
@[simp] theorem modStack_journal (s : State) (k : Nat) (g : Stack → Stack) : (modStack s k g).journal = s.journal := rfl
@[simp] theorem modStack_applPp (s : State) (k : Nat) (g : Stack → Stack) : (modStack s k g).applPp = s.applPp := rfl
@[simp] theorem modStack_applCp (s : State) (k : Nat) (g : Stack → Stack) : (modStack s k g).applCp = s.applCp := rfl
@[simp] theorem modStack_lanes (s : State) (k : Nat) (g : Stack → Stack) : (modStack s k g).lanes = s.lanes := rfl
@[simp] theorem modStack_gut (s : State) (k : Nat) (g : Stack → Stack) : (modStack s k g).gut = s.gut := rfl
@[simp] theorem modStack_mem (s : State) (k : Nat) (g : Stack → Stack) : (modStack s k g).mem = s.mem := rfl
@[simp] theorem modStack_poison (s : State) (k : Nat) (g : Stack → Stack) : (modStack s k g).poison = s.poison := rfl
@[simp] theorem modStack_errors (s : State) (k : Nat) (g : Stack → Stack) : (modStack s k g).errors = s.errors := rfl
@[simp] theorem modStack_stackTab (s : State) (k : Nat) (g : Stack → Stack) : (modStack s k g).stackTab = mapMod s.stackTab k g := rfl
@[simp] theorem modStack_homeFull (s : State) (k : Nat) (g : Stack → Stack) : (modStack s k g).homeFull = s.homeFull := rfl
@[simp] theorem modStack_absentRing (s : State) (k : Nat) (g : Stack → Stack) : (modStack s k g).absentRing = s.absentRing := rfl
@[simp] theorem modStack_lines (s : State) (k : Nat) (g : Stack → Stack) : (modStack s k g).lines = s.lines := rfl
@[simp] theorem modStack_dir (s : State) (k : Nat) (g : Stack → Stack) : (modStack s k g).dir = s.dir := rfl
@[simp] theorem modStack_dirAge (s : State) (k : Nat) (g : Stack → Stack) : (modStack s k g).dirAge = s.dirAge := rfl
@[simp] theorem modStack_txns (s : State) (k : Nat) (g : Stack → Stack) : (modStack s k g).txns = s.txns := rfl
@[simp] theorem modStack_streams (s : State) (k : Nat) (g : Stack → Stack) : (modStack s k g).streams = s.streams := rfl
@[simp] theorem modStack_recent (s : State) (k : Nat) (g : Stack → Stack) : (modStack s k g).recent = s.recent := rfl
@[simp] theorem modStack_suspects (s : State) (k : Nat) (g : Stack → Stack) : (modStack s k g).suspects = s.suspects := rfl
@[simp] theorem modStack_timedOut (s : State) (k : Nat) (g : Stack → Stack) : (modStack s k g).timedOut = s.timedOut := rfl
@[simp] theorem modStack_l3Locks (s : State) (k : Nat) (g : Stack → Stack) : (modStack s k g).l3Locks = s.l3Locks := rfl
@[simp] theorem modStack_rangeCaches (s : State) (k : Nat) (g : Stack → Stack) : (modStack s k g).rangeCaches = s.rangeCaches := rfl
@[simp] theorem modStack_invals (s : State) (k : Nat) (g : Stack → Stack) : (modStack s k g).invals = s.invals := rfl
@[simp] theorem modStack_ports (s : State) (k : Nat) (g : Stack → Stack) : (modStack s k g).ports = s.ports := rfl
@[simp] theorem modStack_formes (s : State) (k : Nat) (g : Stack → Stack) : (modStack s k g).formes = s.formes := rfl
@[simp] theorem modStack_loose (s : State) (k : Nat) (g : Stack → Stack) : (modStack s k g).loose = s.loose := rfl
@[simp] theorem modStack_galleys (s : State) (k : Nat) (g : Stack → Stack) : (modStack s k g).galleys = s.galleys := rfl
@[simp] theorem modStack_harts (s : State) (k : Nat) (g : Stack → Stack) : (modStack s k g).harts = s.harts := rfl
@[simp] theorem modStack_groupsRunning (s : State) (k : Nat) (g : Stack → Stack) : (modStack s k g).groupsRunning = s.groupsRunning := rfl
@[simp] theorem modStack_corePower (s : State) (k : Nat) (g : Stack → Stack) : (modStack s k g).corePower = s.corePower := rfl
@[simp] theorem modStack_platens (s : State) (k : Nat) (g : Stack → Stack) : (modStack s k g).platens = s.platens := rfl
@[simp] theorem modStack_powerCmds (s : State) (k : Nat) (g : Stack → Stack) : (modStack s k g).powerCmds = s.powerCmds := rfl
@[simp] theorem modStack_comps (s : State) (k : Nat) (g : Stack → Stack) : (modStack s k g).comps = s.comps := rfl
@[simp] theorem modStack_moduleIdle (s : State) (k : Nat) (g : Stack → Stack) : (modStack s k g).moduleIdle = s.moduleIdle := rfl
@[simp] theorem modStack_waking (s : State) (k : Nat) (g : Stack → Stack) : (modStack s k g).waking = s.waking := rfl
@[simp] theorem modStack_idleReqs (s : State) (k : Nat) (g : Stack → Stack) : (modStack s k g).idleReqs = s.idleReqs := rfl
@[simp] theorem modStack_moduleCap (s : State) (k : Nat) (g : Stack → Stack) : (modStack s k g).moduleCap = s.moduleCap := rfl
@[simp] theorem modStack_meter (s : State) (k : Nat) (g : Stack → Stack) : (modStack s k g).meter = s.meter := rfl
@[simp] theorem modStack_mesh (s : State) (k : Nat) (g : Stack → Stack) : (modStack s k g).mesh = s.mesh := rfl
@[simp] theorem modStack_sb (s : State) (k : Nat) (g : Stack → Stack) : (modStack s k g).sb = s.sb := rfl
@[simp] theorem modStack_pending (s : State) (k : Nat) (g : Stack → Stack) : (modStack s k g).pending = s.pending := rfl

/-! ## modPort: writes ports -/

@[simp] theorem modPort_phase (s : State) (p : Nat) (g : Port → Port) : (modPort s p g).phase = s.phase := rfl
@[simp] theorem modPort_now (s : State) (p : Nat) (g : Port → Port) : (modPort s p g).now = s.now := rfl
@[simp] theorem modPort_free (s : State) (p : Nat) (g : Port → Port) : (modPort s p g).free = s.free := rfl
@[simp] theorem modPort_pins (s : State) (p : Nat) (g : Port → Port) : (modPort s p g).pins = s.pins := rfl
@[simp] theorem modPort_jtag (s : State) (p : Nat) (g : Port → Port) : (modPort s p g).jtag = s.jtag := rfl
@[simp] theorem modPort_sec (s : State) (p : Nat) (g : Port → Port) : (modPort s p g).sec = s.sec := rfl
@[simp] theorem modPort_flash (s : State) (p : Nat) (g : Port → Port) : (modPort s p g).flash = s.flash := rfl
@[simp] theorem modPort_config (s : State) (p : Nat) (g : Port → Port) : (modPort s p g).config = s.config := rfl
@[simp] theorem modPort_journal (s : State) (p : Nat) (g : Port → Port) : (modPort s p g).journal = s.journal := rfl
@[simp] theorem modPort_applPp (s : State) (p : Nat) (g : Port → Port) : (modPort s p g).applPp = s.applPp := rfl
@[simp] theorem modPort_applCp (s : State) (p : Nat) (g : Port → Port) : (modPort s p g).applCp = s.applCp := rfl
@[simp] theorem modPort_lanes (s : State) (p : Nat) (g : Port → Port) : (modPort s p g).lanes = s.lanes := rfl
@[simp] theorem modPort_gut (s : State) (p : Nat) (g : Port → Port) : (modPort s p g).gut = s.gut := rfl
@[simp] theorem modPort_mem (s : State) (p : Nat) (g : Port → Port) : (modPort s p g).mem = s.mem := rfl
@[simp] theorem modPort_poison (s : State) (p : Nat) (g : Port → Port) : (modPort s p g).poison = s.poison := rfl
@[simp] theorem modPort_errors (s : State) (p : Nat) (g : Port → Port) : (modPort s p g).errors = s.errors := rfl
@[simp] theorem modPort_stackTab (s : State) (p : Nat) (g : Port → Port) : (modPort s p g).stackTab = s.stackTab := rfl
@[simp] theorem modPort_homeFull (s : State) (p : Nat) (g : Port → Port) : (modPort s p g).homeFull = s.homeFull := rfl
@[simp] theorem modPort_absentRing (s : State) (p : Nat) (g : Port → Port) : (modPort s p g).absentRing = s.absentRing := rfl
@[simp] theorem modPort_lines (s : State) (p : Nat) (g : Port → Port) : (modPort s p g).lines = s.lines := rfl
@[simp] theorem modPort_dir (s : State) (p : Nat) (g : Port → Port) : (modPort s p g).dir = s.dir := rfl
@[simp] theorem modPort_dirAge (s : State) (p : Nat) (g : Port → Port) : (modPort s p g).dirAge = s.dirAge := rfl
@[simp] theorem modPort_txns (s : State) (p : Nat) (g : Port → Port) : (modPort s p g).txns = s.txns := rfl
@[simp] theorem modPort_streams (s : State) (p : Nat) (g : Port → Port) : (modPort s p g).streams = s.streams := rfl
@[simp] theorem modPort_recent (s : State) (p : Nat) (g : Port → Port) : (modPort s p g).recent = s.recent := rfl
@[simp] theorem modPort_suspects (s : State) (p : Nat) (g : Port → Port) : (modPort s p g).suspects = s.suspects := rfl
@[simp] theorem modPort_timedOut (s : State) (p : Nat) (g : Port → Port) : (modPort s p g).timedOut = s.timedOut := rfl
@[simp] theorem modPort_l3Locks (s : State) (p : Nat) (g : Port → Port) : (modPort s p g).l3Locks = s.l3Locks := rfl
@[simp] theorem modPort_rangeCaches (s : State) (p : Nat) (g : Port → Port) : (modPort s p g).rangeCaches = s.rangeCaches := rfl
@[simp] theorem modPort_invals (s : State) (p : Nat) (g : Port → Port) : (modPort s p g).invals = s.invals := rfl
@[simp] theorem modPort_ports (s : State) (p : Nat) (g : Port → Port) : (modPort s p g).ports = mapMod s.ports p g := rfl
@[simp] theorem modPort_formes (s : State) (p : Nat) (g : Port → Port) : (modPort s p g).formes = s.formes := rfl
@[simp] theorem modPort_loose (s : State) (p : Nat) (g : Port → Port) : (modPort s p g).loose = s.loose := rfl
@[simp] theorem modPort_galleys (s : State) (p : Nat) (g : Port → Port) : (modPort s p g).galleys = s.galleys := rfl
@[simp] theorem modPort_harts (s : State) (p : Nat) (g : Port → Port) : (modPort s p g).harts = s.harts := rfl
@[simp] theorem modPort_groupsRunning (s : State) (p : Nat) (g : Port → Port) : (modPort s p g).groupsRunning = s.groupsRunning := rfl
@[simp] theorem modPort_corePower (s : State) (p : Nat) (g : Port → Port) : (modPort s p g).corePower = s.corePower := rfl
@[simp] theorem modPort_platens (s : State) (p : Nat) (g : Port → Port) : (modPort s p g).platens = s.platens := rfl
@[simp] theorem modPort_powerCmds (s : State) (p : Nat) (g : Port → Port) : (modPort s p g).powerCmds = s.powerCmds := rfl
@[simp] theorem modPort_comps (s : State) (p : Nat) (g : Port → Port) : (modPort s p g).comps = s.comps := rfl
@[simp] theorem modPort_moduleIdle (s : State) (p : Nat) (g : Port → Port) : (modPort s p g).moduleIdle = s.moduleIdle := rfl
@[simp] theorem modPort_waking (s : State) (p : Nat) (g : Port → Port) : (modPort s p g).waking = s.waking := rfl
@[simp] theorem modPort_idleReqs (s : State) (p : Nat) (g : Port → Port) : (modPort s p g).idleReqs = s.idleReqs := rfl
@[simp] theorem modPort_moduleCap (s : State) (p : Nat) (g : Port → Port) : (modPort s p g).moduleCap = s.moduleCap := rfl
@[simp] theorem modPort_meter (s : State) (p : Nat) (g : Port → Port) : (modPort s p g).meter = s.meter := rfl
@[simp] theorem modPort_mesh (s : State) (p : Nat) (g : Port → Port) : (modPort s p g).mesh = s.mesh := rfl
@[simp] theorem modPort_sb (s : State) (p : Nat) (g : Port → Port) : (modPort s p g).sb = s.sb := rfl
@[simp] theorem modPort_pending (s : State) (p : Nat) (g : Port → Port) : (modPort s p g).pending = s.pending := rfl

/-! ## modHart: writes harts -/

@[simp] theorem modHart_phase (s : State) (h : Nat) (g : Hart → Hart) : (modHart s h g).phase = s.phase := rfl
@[simp] theorem modHart_now (s : State) (h : Nat) (g : Hart → Hart) : (modHart s h g).now = s.now := rfl
@[simp] theorem modHart_free (s : State) (h : Nat) (g : Hart → Hart) : (modHart s h g).free = s.free := rfl
@[simp] theorem modHart_pins (s : State) (h : Nat) (g : Hart → Hart) : (modHart s h g).pins = s.pins := rfl
@[simp] theorem modHart_jtag (s : State) (h : Nat) (g : Hart → Hart) : (modHart s h g).jtag = s.jtag := rfl
@[simp] theorem modHart_sec (s : State) (h : Nat) (g : Hart → Hart) : (modHart s h g).sec = s.sec := rfl
@[simp] theorem modHart_flash (s : State) (h : Nat) (g : Hart → Hart) : (modHart s h g).flash = s.flash := rfl
@[simp] theorem modHart_config (s : State) (h : Nat) (g : Hart → Hart) : (modHart s h g).config = s.config := rfl
@[simp] theorem modHart_journal (s : State) (h : Nat) (g : Hart → Hart) : (modHart s h g).journal = s.journal := rfl
@[simp] theorem modHart_applPp (s : State) (h : Nat) (g : Hart → Hart) : (modHart s h g).applPp = s.applPp := rfl
@[simp] theorem modHart_applCp (s : State) (h : Nat) (g : Hart → Hart) : (modHart s h g).applCp = s.applCp := rfl
@[simp] theorem modHart_lanes (s : State) (h : Nat) (g : Hart → Hart) : (modHart s h g).lanes = s.lanes := rfl
@[simp] theorem modHart_gut (s : State) (h : Nat) (g : Hart → Hart) : (modHart s h g).gut = s.gut := rfl
@[simp] theorem modHart_mem (s : State) (h : Nat) (g : Hart → Hart) : (modHart s h g).mem = s.mem := rfl
@[simp] theorem modHart_poison (s : State) (h : Nat) (g : Hart → Hart) : (modHart s h g).poison = s.poison := rfl
@[simp] theorem modHart_errors (s : State) (h : Nat) (g : Hart → Hart) : (modHart s h g).errors = s.errors := rfl
@[simp] theorem modHart_stackTab (s : State) (h : Nat) (g : Hart → Hart) : (modHart s h g).stackTab = s.stackTab := rfl
@[simp] theorem modHart_homeFull (s : State) (h : Nat) (g : Hart → Hart) : (modHart s h g).homeFull = s.homeFull := rfl
@[simp] theorem modHart_absentRing (s : State) (h : Nat) (g : Hart → Hart) : (modHart s h g).absentRing = s.absentRing := rfl
@[simp] theorem modHart_lines (s : State) (h : Nat) (g : Hart → Hart) : (modHart s h g).lines = s.lines := rfl
@[simp] theorem modHart_dir (s : State) (h : Nat) (g : Hart → Hart) : (modHart s h g).dir = s.dir := rfl
@[simp] theorem modHart_dirAge (s : State) (h : Nat) (g : Hart → Hart) : (modHart s h g).dirAge = s.dirAge := rfl
@[simp] theorem modHart_txns (s : State) (h : Nat) (g : Hart → Hart) : (modHart s h g).txns = s.txns := rfl
@[simp] theorem modHart_streams (s : State) (h : Nat) (g : Hart → Hart) : (modHart s h g).streams = s.streams := rfl
@[simp] theorem modHart_recent (s : State) (h : Nat) (g : Hart → Hart) : (modHart s h g).recent = s.recent := rfl
@[simp] theorem modHart_suspects (s : State) (h : Nat) (g : Hart → Hart) : (modHart s h g).suspects = s.suspects := rfl
@[simp] theorem modHart_timedOut (s : State) (h : Nat) (g : Hart → Hart) : (modHart s h g).timedOut = s.timedOut := rfl
@[simp] theorem modHart_l3Locks (s : State) (h : Nat) (g : Hart → Hart) : (modHart s h g).l3Locks = s.l3Locks := rfl
@[simp] theorem modHart_rangeCaches (s : State) (h : Nat) (g : Hart → Hart) : (modHart s h g).rangeCaches = s.rangeCaches := rfl
@[simp] theorem modHart_invals (s : State) (h : Nat) (g : Hart → Hart) : (modHart s h g).invals = s.invals := rfl
@[simp] theorem modHart_ports (s : State) (h : Nat) (g : Hart → Hart) : (modHart s h g).ports = s.ports := rfl
@[simp] theorem modHart_formes (s : State) (h : Nat) (g : Hart → Hart) : (modHart s h g).formes = s.formes := rfl
@[simp] theorem modHart_loose (s : State) (h : Nat) (g : Hart → Hart) : (modHart s h g).loose = s.loose := rfl
@[simp] theorem modHart_galleys (s : State) (h : Nat) (g : Hart → Hart) : (modHart s h g).galleys = s.galleys := rfl
@[simp] theorem modHart_harts (s : State) (h : Nat) (g : Hart → Hart) : (modHart s h g).harts = mapMod s.harts h g := rfl
@[simp] theorem modHart_groupsRunning (s : State) (h : Nat) (g : Hart → Hart) : (modHart s h g).groupsRunning = s.groupsRunning := rfl
@[simp] theorem modHart_corePower (s : State) (h : Nat) (g : Hart → Hart) : (modHart s h g).corePower = s.corePower := rfl
@[simp] theorem modHart_platens (s : State) (h : Nat) (g : Hart → Hart) : (modHart s h g).platens = s.platens := rfl
@[simp] theorem modHart_powerCmds (s : State) (h : Nat) (g : Hart → Hart) : (modHart s h g).powerCmds = s.powerCmds := rfl
@[simp] theorem modHart_comps (s : State) (h : Nat) (g : Hart → Hart) : (modHart s h g).comps = s.comps := rfl
@[simp] theorem modHart_moduleIdle (s : State) (h : Nat) (g : Hart → Hart) : (modHart s h g).moduleIdle = s.moduleIdle := rfl
@[simp] theorem modHart_waking (s : State) (h : Nat) (g : Hart → Hart) : (modHart s h g).waking = s.waking := rfl
@[simp] theorem modHart_idleReqs (s : State) (h : Nat) (g : Hart → Hart) : (modHart s h g).idleReqs = s.idleReqs := rfl
@[simp] theorem modHart_moduleCap (s : State) (h : Nat) (g : Hart → Hart) : (modHart s h g).moduleCap = s.moduleCap := rfl
@[simp] theorem modHart_meter (s : State) (h : Nat) (g : Hart → Hart) : (modHart s h g).meter = s.meter := rfl
@[simp] theorem modHart_mesh (s : State) (h : Nat) (g : Hart → Hart) : (modHart s h g).mesh = s.mesh := rfl
@[simp] theorem modHart_sb (s : State) (h : Nat) (g : Hart → Hart) : (modHart s h g).sb = s.sb := rfl
@[simp] theorem modHart_pending (s : State) (h : Nat) (g : Hart → Hart) : (modHart s h g).pending = s.pending := rfl

/-! ## modGalley: writes galleys -/

@[simp] theorem modGalley_phase (s : State) (p k : Nat) (g : Galley → Galley) : (modGalley s p k g).phase = s.phase := rfl
@[simp] theorem modGalley_now (s : State) (p k : Nat) (g : Galley → Galley) : (modGalley s p k g).now = s.now := rfl
@[simp] theorem modGalley_free (s : State) (p k : Nat) (g : Galley → Galley) : (modGalley s p k g).free = s.free := rfl
@[simp] theorem modGalley_pins (s : State) (p k : Nat) (g : Galley → Galley) : (modGalley s p k g).pins = s.pins := rfl
@[simp] theorem modGalley_jtag (s : State) (p k : Nat) (g : Galley → Galley) : (modGalley s p k g).jtag = s.jtag := rfl
@[simp] theorem modGalley_sec (s : State) (p k : Nat) (g : Galley → Galley) : (modGalley s p k g).sec = s.sec := rfl
@[simp] theorem modGalley_flash (s : State) (p k : Nat) (g : Galley → Galley) : (modGalley s p k g).flash = s.flash := rfl
@[simp] theorem modGalley_config (s : State) (p k : Nat) (g : Galley → Galley) : (modGalley s p k g).config = s.config := rfl
@[simp] theorem modGalley_journal (s : State) (p k : Nat) (g : Galley → Galley) : (modGalley s p k g).journal = s.journal := rfl
@[simp] theorem modGalley_applPp (s : State) (p k : Nat) (g : Galley → Galley) : (modGalley s p k g).applPp = s.applPp := rfl
@[simp] theorem modGalley_applCp (s : State) (p k : Nat) (g : Galley → Galley) : (modGalley s p k g).applCp = s.applCp := rfl
@[simp] theorem modGalley_lanes (s : State) (p k : Nat) (g : Galley → Galley) : (modGalley s p k g).lanes = s.lanes := rfl
@[simp] theorem modGalley_gut (s : State) (p k : Nat) (g : Galley → Galley) : (modGalley s p k g).gut = s.gut := rfl
@[simp] theorem modGalley_mem (s : State) (p k : Nat) (g : Galley → Galley) : (modGalley s p k g).mem = s.mem := rfl
@[simp] theorem modGalley_poison (s : State) (p k : Nat) (g : Galley → Galley) : (modGalley s p k g).poison = s.poison := rfl
@[simp] theorem modGalley_errors (s : State) (p k : Nat) (g : Galley → Galley) : (modGalley s p k g).errors = s.errors := rfl
@[simp] theorem modGalley_stackTab (s : State) (p k : Nat) (g : Galley → Galley) : (modGalley s p k g).stackTab = s.stackTab := rfl
@[simp] theorem modGalley_homeFull (s : State) (p k : Nat) (g : Galley → Galley) : (modGalley s p k g).homeFull = s.homeFull := rfl
@[simp] theorem modGalley_absentRing (s : State) (p k : Nat) (g : Galley → Galley) : (modGalley s p k g).absentRing = s.absentRing := rfl
@[simp] theorem modGalley_lines (s : State) (p k : Nat) (g : Galley → Galley) : (modGalley s p k g).lines = s.lines := rfl
@[simp] theorem modGalley_dir (s : State) (p k : Nat) (g : Galley → Galley) : (modGalley s p k g).dir = s.dir := rfl
@[simp] theorem modGalley_dirAge (s : State) (p k : Nat) (g : Galley → Galley) : (modGalley s p k g).dirAge = s.dirAge := rfl
@[simp] theorem modGalley_txns (s : State) (p k : Nat) (g : Galley → Galley) : (modGalley s p k g).txns = s.txns := rfl
@[simp] theorem modGalley_streams (s : State) (p k : Nat) (g : Galley → Galley) : (modGalley s p k g).streams = s.streams := rfl
@[simp] theorem modGalley_recent (s : State) (p k : Nat) (g : Galley → Galley) : (modGalley s p k g).recent = s.recent := rfl
@[simp] theorem modGalley_suspects (s : State) (p k : Nat) (g : Galley → Galley) : (modGalley s p k g).suspects = s.suspects := rfl
@[simp] theorem modGalley_timedOut (s : State) (p k : Nat) (g : Galley → Galley) : (modGalley s p k g).timedOut = s.timedOut := rfl
@[simp] theorem modGalley_l3Locks (s : State) (p k : Nat) (g : Galley → Galley) : (modGalley s p k g).l3Locks = s.l3Locks := rfl
@[simp] theorem modGalley_rangeCaches (s : State) (p k : Nat) (g : Galley → Galley) : (modGalley s p k g).rangeCaches = s.rangeCaches := rfl
@[simp] theorem modGalley_invals (s : State) (p k : Nat) (g : Galley → Galley) : (modGalley s p k g).invals = s.invals := rfl
@[simp] theorem modGalley_ports (s : State) (p k : Nat) (g : Galley → Galley) : (modGalley s p k g).ports = s.ports := rfl
@[simp] theorem modGalley_formes (s : State) (p k : Nat) (g : Galley → Galley) : (modGalley s p k g).formes = s.formes := rfl
@[simp] theorem modGalley_loose (s : State) (p k : Nat) (g : Galley → Galley) : (modGalley s p k g).loose = s.loose := rfl
@[simp] theorem modGalley_harts (s : State) (p k : Nat) (g : Galley → Galley) : (modGalley s p k g).harts = s.harts := rfl
@[simp] theorem modGalley_groupsRunning (s : State) (p k : Nat) (g : Galley → Galley) : (modGalley s p k g).groupsRunning = s.groupsRunning := rfl
@[simp] theorem modGalley_corePower (s : State) (p k : Nat) (g : Galley → Galley) : (modGalley s p k g).corePower = s.corePower := rfl
@[simp] theorem modGalley_platens (s : State) (p k : Nat) (g : Galley → Galley) : (modGalley s p k g).platens = s.platens := rfl
@[simp] theorem modGalley_powerCmds (s : State) (p k : Nat) (g : Galley → Galley) : (modGalley s p k g).powerCmds = s.powerCmds := rfl
@[simp] theorem modGalley_comps (s : State) (p k : Nat) (g : Galley → Galley) : (modGalley s p k g).comps = s.comps := rfl
@[simp] theorem modGalley_moduleIdle (s : State) (p k : Nat) (g : Galley → Galley) : (modGalley s p k g).moduleIdle = s.moduleIdle := rfl
@[simp] theorem modGalley_waking (s : State) (p k : Nat) (g : Galley → Galley) : (modGalley s p k g).waking = s.waking := rfl
@[simp] theorem modGalley_idleReqs (s : State) (p k : Nat) (g : Galley → Galley) : (modGalley s p k g).idleReqs = s.idleReqs := rfl
@[simp] theorem modGalley_moduleCap (s : State) (p k : Nat) (g : Galley → Galley) : (modGalley s p k g).moduleCap = s.moduleCap := rfl
@[simp] theorem modGalley_meter (s : State) (p k : Nat) (g : Galley → Galley) : (modGalley s p k g).meter = s.meter := rfl
@[simp] theorem modGalley_mesh (s : State) (p k : Nat) (g : Galley → Galley) : (modGalley s p k g).mesh = s.mesh := rfl
@[simp] theorem modGalley_sb (s : State) (p k : Nat) (g : Galley → Galley) : (modGalley s p k g).sb = s.sb := rfl
@[simp] theorem modGalley_pending (s : State) (p k : Nat) (g : Galley → Galley) : (modGalley s p k g).pending = s.pending := rfl

/-! ## modPlaten: writes platens -/

@[simp] theorem modPlaten_phase (s : State) (p : Nat) (g : PlatenPower → PlatenPower) : (modPlaten s p g).phase = s.phase := rfl
@[simp] theorem modPlaten_now (s : State) (p : Nat) (g : PlatenPower → PlatenPower) : (modPlaten s p g).now = s.now := rfl
@[simp] theorem modPlaten_free (s : State) (p : Nat) (g : PlatenPower → PlatenPower) : (modPlaten s p g).free = s.free := rfl
@[simp] theorem modPlaten_pins (s : State) (p : Nat) (g : PlatenPower → PlatenPower) : (modPlaten s p g).pins = s.pins := rfl
@[simp] theorem modPlaten_jtag (s : State) (p : Nat) (g : PlatenPower → PlatenPower) : (modPlaten s p g).jtag = s.jtag := rfl
@[simp] theorem modPlaten_sec (s : State) (p : Nat) (g : PlatenPower → PlatenPower) : (modPlaten s p g).sec = s.sec := rfl
@[simp] theorem modPlaten_flash (s : State) (p : Nat) (g : PlatenPower → PlatenPower) : (modPlaten s p g).flash = s.flash := rfl
@[simp] theorem modPlaten_config (s : State) (p : Nat) (g : PlatenPower → PlatenPower) : (modPlaten s p g).config = s.config := rfl
@[simp] theorem modPlaten_journal (s : State) (p : Nat) (g : PlatenPower → PlatenPower) : (modPlaten s p g).journal = s.journal := rfl
@[simp] theorem modPlaten_applPp (s : State) (p : Nat) (g : PlatenPower → PlatenPower) : (modPlaten s p g).applPp = s.applPp := rfl
@[simp] theorem modPlaten_applCp (s : State) (p : Nat) (g : PlatenPower → PlatenPower) : (modPlaten s p g).applCp = s.applCp := rfl
@[simp] theorem modPlaten_lanes (s : State) (p : Nat) (g : PlatenPower → PlatenPower) : (modPlaten s p g).lanes = s.lanes := rfl
@[simp] theorem modPlaten_gut (s : State) (p : Nat) (g : PlatenPower → PlatenPower) : (modPlaten s p g).gut = s.gut := rfl
@[simp] theorem modPlaten_mem (s : State) (p : Nat) (g : PlatenPower → PlatenPower) : (modPlaten s p g).mem = s.mem := rfl
@[simp] theorem modPlaten_poison (s : State) (p : Nat) (g : PlatenPower → PlatenPower) : (modPlaten s p g).poison = s.poison := rfl
@[simp] theorem modPlaten_errors (s : State) (p : Nat) (g : PlatenPower → PlatenPower) : (modPlaten s p g).errors = s.errors := rfl
@[simp] theorem modPlaten_stackTab (s : State) (p : Nat) (g : PlatenPower → PlatenPower) : (modPlaten s p g).stackTab = s.stackTab := rfl
@[simp] theorem modPlaten_homeFull (s : State) (p : Nat) (g : PlatenPower → PlatenPower) : (modPlaten s p g).homeFull = s.homeFull := rfl
@[simp] theorem modPlaten_absentRing (s : State) (p : Nat) (g : PlatenPower → PlatenPower) : (modPlaten s p g).absentRing = s.absentRing := rfl
@[simp] theorem modPlaten_lines (s : State) (p : Nat) (g : PlatenPower → PlatenPower) : (modPlaten s p g).lines = s.lines := rfl
@[simp] theorem modPlaten_dir (s : State) (p : Nat) (g : PlatenPower → PlatenPower) : (modPlaten s p g).dir = s.dir := rfl
@[simp] theorem modPlaten_dirAge (s : State) (p : Nat) (g : PlatenPower → PlatenPower) : (modPlaten s p g).dirAge = s.dirAge := rfl
@[simp] theorem modPlaten_txns (s : State) (p : Nat) (g : PlatenPower → PlatenPower) : (modPlaten s p g).txns = s.txns := rfl
@[simp] theorem modPlaten_streams (s : State) (p : Nat) (g : PlatenPower → PlatenPower) : (modPlaten s p g).streams = s.streams := rfl
@[simp] theorem modPlaten_recent (s : State) (p : Nat) (g : PlatenPower → PlatenPower) : (modPlaten s p g).recent = s.recent := rfl
@[simp] theorem modPlaten_suspects (s : State) (p : Nat) (g : PlatenPower → PlatenPower) : (modPlaten s p g).suspects = s.suspects := rfl
@[simp] theorem modPlaten_timedOut (s : State) (p : Nat) (g : PlatenPower → PlatenPower) : (modPlaten s p g).timedOut = s.timedOut := rfl
@[simp] theorem modPlaten_l3Locks (s : State) (p : Nat) (g : PlatenPower → PlatenPower) : (modPlaten s p g).l3Locks = s.l3Locks := rfl
@[simp] theorem modPlaten_rangeCaches (s : State) (p : Nat) (g : PlatenPower → PlatenPower) : (modPlaten s p g).rangeCaches = s.rangeCaches := rfl
@[simp] theorem modPlaten_invals (s : State) (p : Nat) (g : PlatenPower → PlatenPower) : (modPlaten s p g).invals = s.invals := rfl
@[simp] theorem modPlaten_ports (s : State) (p : Nat) (g : PlatenPower → PlatenPower) : (modPlaten s p g).ports = s.ports := rfl
@[simp] theorem modPlaten_formes (s : State) (p : Nat) (g : PlatenPower → PlatenPower) : (modPlaten s p g).formes = s.formes := rfl
@[simp] theorem modPlaten_loose (s : State) (p : Nat) (g : PlatenPower → PlatenPower) : (modPlaten s p g).loose = s.loose := rfl
@[simp] theorem modPlaten_galleys (s : State) (p : Nat) (g : PlatenPower → PlatenPower) : (modPlaten s p g).galleys = s.galleys := rfl
@[simp] theorem modPlaten_harts (s : State) (p : Nat) (g : PlatenPower → PlatenPower) : (modPlaten s p g).harts = s.harts := rfl
@[simp] theorem modPlaten_groupsRunning (s : State) (p : Nat) (g : PlatenPower → PlatenPower) : (modPlaten s p g).groupsRunning = s.groupsRunning := rfl
@[simp] theorem modPlaten_corePower (s : State) (p : Nat) (g : PlatenPower → PlatenPower) : (modPlaten s p g).corePower = s.corePower := rfl
@[simp] theorem modPlaten_powerCmds (s : State) (p : Nat) (g : PlatenPower → PlatenPower) : (modPlaten s p g).powerCmds = s.powerCmds := rfl
@[simp] theorem modPlaten_comps (s : State) (p : Nat) (g : PlatenPower → PlatenPower) : (modPlaten s p g).comps = s.comps := rfl
@[simp] theorem modPlaten_moduleIdle (s : State) (p : Nat) (g : PlatenPower → PlatenPower) : (modPlaten s p g).moduleIdle = s.moduleIdle := rfl
@[simp] theorem modPlaten_waking (s : State) (p : Nat) (g : PlatenPower → PlatenPower) : (modPlaten s p g).waking = s.waking := rfl
@[simp] theorem modPlaten_idleReqs (s : State) (p : Nat) (g : PlatenPower → PlatenPower) : (modPlaten s p g).idleReqs = s.idleReqs := rfl
@[simp] theorem modPlaten_moduleCap (s : State) (p : Nat) (g : PlatenPower → PlatenPower) : (modPlaten s p g).moduleCap = s.moduleCap := rfl
@[simp] theorem modPlaten_meter (s : State) (p : Nat) (g : PlatenPower → PlatenPower) : (modPlaten s p g).meter = s.meter := rfl
@[simp] theorem modPlaten_mesh (s : State) (p : Nat) (g : PlatenPower → PlatenPower) : (modPlaten s p g).mesh = s.mesh := rfl
@[simp] theorem modPlaten_sb (s : State) (p : Nat) (g : PlatenPower → PlatenPower) : (modPlaten s p g).sb = s.sb := rfl
@[simp] theorem modPlaten_pending (s : State) (p : Nat) (g : PlatenPower → PlatenPower) : (modPlaten s p g).pending = s.pending := rfl

/-! ## setLine: writes lines -/

@[simp] theorem setLine_phase (s : State) (a n : Nat) (l : Line) : (setLine s a n l).phase = s.phase := rfl
@[simp] theorem setLine_now (s : State) (a n : Nat) (l : Line) : (setLine s a n l).now = s.now := rfl
@[simp] theorem setLine_free (s : State) (a n : Nat) (l : Line) : (setLine s a n l).free = s.free := rfl
@[simp] theorem setLine_pins (s : State) (a n : Nat) (l : Line) : (setLine s a n l).pins = s.pins := rfl
@[simp] theorem setLine_jtag (s : State) (a n : Nat) (l : Line) : (setLine s a n l).jtag = s.jtag := rfl
@[simp] theorem setLine_sec (s : State) (a n : Nat) (l : Line) : (setLine s a n l).sec = s.sec := rfl
@[simp] theorem setLine_flash (s : State) (a n : Nat) (l : Line) : (setLine s a n l).flash = s.flash := rfl
@[simp] theorem setLine_config (s : State) (a n : Nat) (l : Line) : (setLine s a n l).config = s.config := rfl
@[simp] theorem setLine_journal (s : State) (a n : Nat) (l : Line) : (setLine s a n l).journal = s.journal := rfl
@[simp] theorem setLine_applPp (s : State) (a n : Nat) (l : Line) : (setLine s a n l).applPp = s.applPp := rfl
@[simp] theorem setLine_applCp (s : State) (a n : Nat) (l : Line) : (setLine s a n l).applCp = s.applCp := rfl
@[simp] theorem setLine_lanes (s : State) (a n : Nat) (l : Line) : (setLine s a n l).lanes = s.lanes := rfl
@[simp] theorem setLine_gut (s : State) (a n : Nat) (l : Line) : (setLine s a n l).gut = s.gut := rfl
@[simp] theorem setLine_mem (s : State) (a n : Nat) (l : Line) : (setLine s a n l).mem = s.mem := rfl
@[simp] theorem setLine_poison (s : State) (a n : Nat) (l : Line) : (setLine s a n l).poison = s.poison := rfl
@[simp] theorem setLine_errors (s : State) (a n : Nat) (l : Line) : (setLine s a n l).errors = s.errors := rfl
@[simp] theorem setLine_stackTab (s : State) (a n : Nat) (l : Line) : (setLine s a n l).stackTab = s.stackTab := rfl
@[simp] theorem setLine_homeFull (s : State) (a n : Nat) (l : Line) : (setLine s a n l).homeFull = s.homeFull := rfl
@[simp] theorem setLine_absentRing (s : State) (a n : Nat) (l : Line) : (setLine s a n l).absentRing = s.absentRing := rfl
@[simp] theorem setLine_lines (s : State) (a n : Nat) (l : Line) : (setLine s a n l).lines = mapSet s.lines (lineKey a n) l := rfl
@[simp] theorem setLine_dir (s : State) (a n : Nat) (l : Line) : (setLine s a n l).dir = s.dir := rfl
@[simp] theorem setLine_dirAge (s : State) (a n : Nat) (l : Line) : (setLine s a n l).dirAge = s.dirAge := rfl
@[simp] theorem setLine_txns (s : State) (a n : Nat) (l : Line) : (setLine s a n l).txns = s.txns := rfl
@[simp] theorem setLine_streams (s : State) (a n : Nat) (l : Line) : (setLine s a n l).streams = s.streams := rfl
@[simp] theorem setLine_recent (s : State) (a n : Nat) (l : Line) : (setLine s a n l).recent = s.recent := rfl
@[simp] theorem setLine_suspects (s : State) (a n : Nat) (l : Line) : (setLine s a n l).suspects = s.suspects := rfl
@[simp] theorem setLine_timedOut (s : State) (a n : Nat) (l : Line) : (setLine s a n l).timedOut = s.timedOut := rfl
@[simp] theorem setLine_l3Locks (s : State) (a n : Nat) (l : Line) : (setLine s a n l).l3Locks = s.l3Locks := rfl
@[simp] theorem setLine_rangeCaches (s : State) (a n : Nat) (l : Line) : (setLine s a n l).rangeCaches = s.rangeCaches := rfl
@[simp] theorem setLine_invals (s : State) (a n : Nat) (l : Line) : (setLine s a n l).invals = s.invals := rfl
@[simp] theorem setLine_ports (s : State) (a n : Nat) (l : Line) : (setLine s a n l).ports = s.ports := rfl
@[simp] theorem setLine_formes (s : State) (a n : Nat) (l : Line) : (setLine s a n l).formes = s.formes := rfl
@[simp] theorem setLine_loose (s : State) (a n : Nat) (l : Line) : (setLine s a n l).loose = s.loose := rfl
@[simp] theorem setLine_galleys (s : State) (a n : Nat) (l : Line) : (setLine s a n l).galleys = s.galleys := rfl
@[simp] theorem setLine_harts (s : State) (a n : Nat) (l : Line) : (setLine s a n l).harts = s.harts := rfl
@[simp] theorem setLine_groupsRunning (s : State) (a n : Nat) (l : Line) : (setLine s a n l).groupsRunning = s.groupsRunning := rfl
@[simp] theorem setLine_corePower (s : State) (a n : Nat) (l : Line) : (setLine s a n l).corePower = s.corePower := rfl
@[simp] theorem setLine_platens (s : State) (a n : Nat) (l : Line) : (setLine s a n l).platens = s.platens := rfl
@[simp] theorem setLine_powerCmds (s : State) (a n : Nat) (l : Line) : (setLine s a n l).powerCmds = s.powerCmds := rfl
@[simp] theorem setLine_comps (s : State) (a n : Nat) (l : Line) : (setLine s a n l).comps = s.comps := rfl
@[simp] theorem setLine_moduleIdle (s : State) (a n : Nat) (l : Line) : (setLine s a n l).moduleIdle = s.moduleIdle := rfl
@[simp] theorem setLine_waking (s : State) (a n : Nat) (l : Line) : (setLine s a n l).waking = s.waking := rfl
@[simp] theorem setLine_idleReqs (s : State) (a n : Nat) (l : Line) : (setLine s a n l).idleReqs = s.idleReqs := rfl
@[simp] theorem setLine_moduleCap (s : State) (a n : Nat) (l : Line) : (setLine s a n l).moduleCap = s.moduleCap := rfl
@[simp] theorem setLine_meter (s : State) (a n : Nat) (l : Line) : (setLine s a n l).meter = s.meter := rfl
@[simp] theorem setLine_mesh (s : State) (a n : Nat) (l : Line) : (setLine s a n l).mesh = s.mesh := rfl
@[simp] theorem setLine_sb (s : State) (a n : Nat) (l : Line) : (setLine s a n l).sb = s.sb := rfl
@[simp] theorem setLine_pending (s : State) (a n : Nat) (l : Line) : (setLine s a n l).pending = s.pending := rfl

/-! ## setTxn: writes txns -/

@[simp] theorem setTxn_phase (s : State) (n : Nat) (x : Txn) : (setTxn s n x).phase = s.phase := rfl
@[simp] theorem setTxn_now (s : State) (n : Nat) (x : Txn) : (setTxn s n x).now = s.now := rfl
@[simp] theorem setTxn_free (s : State) (n : Nat) (x : Txn) : (setTxn s n x).free = s.free := rfl
@[simp] theorem setTxn_pins (s : State) (n : Nat) (x : Txn) : (setTxn s n x).pins = s.pins := rfl
@[simp] theorem setTxn_jtag (s : State) (n : Nat) (x : Txn) : (setTxn s n x).jtag = s.jtag := rfl
@[simp] theorem setTxn_sec (s : State) (n : Nat) (x : Txn) : (setTxn s n x).sec = s.sec := rfl
@[simp] theorem setTxn_flash (s : State) (n : Nat) (x : Txn) : (setTxn s n x).flash = s.flash := rfl
@[simp] theorem setTxn_config (s : State) (n : Nat) (x : Txn) : (setTxn s n x).config = s.config := rfl
@[simp] theorem setTxn_journal (s : State) (n : Nat) (x : Txn) : (setTxn s n x).journal = s.journal := rfl
@[simp] theorem setTxn_applPp (s : State) (n : Nat) (x : Txn) : (setTxn s n x).applPp = s.applPp := rfl
@[simp] theorem setTxn_applCp (s : State) (n : Nat) (x : Txn) : (setTxn s n x).applCp = s.applCp := rfl
@[simp] theorem setTxn_lanes (s : State) (n : Nat) (x : Txn) : (setTxn s n x).lanes = s.lanes := rfl
@[simp] theorem setTxn_mem (s : State) (n : Nat) (x : Txn) : (setTxn s n x).mem = s.mem := rfl
@[simp] theorem setTxn_poison (s : State) (n : Nat) (x : Txn) : (setTxn s n x).poison = s.poison := rfl
@[simp] theorem setTxn_errors (s : State) (n : Nat) (x : Txn) : (setTxn s n x).errors = s.errors := rfl
@[simp] theorem setTxn_stackTab (s : State) (n : Nat) (x : Txn) : (setTxn s n x).stackTab = s.stackTab := rfl
@[simp] theorem setTxn_homeFull (s : State) (n : Nat) (x : Txn) : (setTxn s n x).homeFull = s.homeFull := rfl
@[simp] theorem setTxn_absentRing (s : State) (n : Nat) (x : Txn) : (setTxn s n x).absentRing = s.absentRing := rfl
@[simp] theorem setTxn_lines (s : State) (n : Nat) (x : Txn) : (setTxn s n x).lines = s.lines := rfl
@[simp] theorem setTxn_dir (s : State) (n : Nat) (x : Txn) : (setTxn s n x).dir = s.dir := rfl
@[simp] theorem setTxn_dirAge (s : State) (n : Nat) (x : Txn) : (setTxn s n x).dirAge = s.dirAge := rfl
@[simp] theorem setTxn_txns (s : State) (n : Nat) (x : Txn) : (setTxn s n x).txns = mapSet s.txns n x := rfl
@[simp] theorem setTxn_streams (s : State) (n : Nat) (x : Txn) : (setTxn s n x).streams = s.streams := rfl
@[simp] theorem setTxn_recent (s : State) (n : Nat) (x : Txn) : (setTxn s n x).recent = s.recent := rfl
@[simp] theorem setTxn_suspects (s : State) (n : Nat) (x : Txn) : (setTxn s n x).suspects = s.suspects := rfl
@[simp] theorem setTxn_timedOut (s : State) (n : Nat) (x : Txn) : (setTxn s n x).timedOut = s.timedOut := rfl
@[simp] theorem setTxn_l3Locks (s : State) (n : Nat) (x : Txn) : (setTxn s n x).l3Locks = s.l3Locks := rfl
@[simp] theorem setTxn_rangeCaches (s : State) (n : Nat) (x : Txn) : (setTxn s n x).rangeCaches = s.rangeCaches := rfl
@[simp] theorem setTxn_invals (s : State) (n : Nat) (x : Txn) : (setTxn s n x).invals = s.invals := rfl
@[simp] theorem setTxn_ports (s : State) (n : Nat) (x : Txn) : (setTxn s n x).ports = s.ports := rfl
@[simp] theorem setTxn_formes (s : State) (n : Nat) (x : Txn) : (setTxn s n x).formes = s.formes := rfl
@[simp] theorem setTxn_loose (s : State) (n : Nat) (x : Txn) : (setTxn s n x).loose = s.loose := rfl
@[simp] theorem setTxn_galleys (s : State) (n : Nat) (x : Txn) : (setTxn s n x).galleys = s.galleys := rfl
@[simp] theorem setTxn_harts (s : State) (n : Nat) (x : Txn) : (setTxn s n x).harts = s.harts := rfl
@[simp] theorem setTxn_groupsRunning (s : State) (n : Nat) (x : Txn) : (setTxn s n x).groupsRunning = s.groupsRunning := rfl
@[simp] theorem setTxn_corePower (s : State) (n : Nat) (x : Txn) : (setTxn s n x).corePower = s.corePower := rfl
@[simp] theorem setTxn_platens (s : State) (n : Nat) (x : Txn) : (setTxn s n x).platens = s.platens := rfl
@[simp] theorem setTxn_powerCmds (s : State) (n : Nat) (x : Txn) : (setTxn s n x).powerCmds = s.powerCmds := rfl
@[simp] theorem setTxn_comps (s : State) (n : Nat) (x : Txn) : (setTxn s n x).comps = s.comps := rfl
@[simp] theorem setTxn_moduleIdle (s : State) (n : Nat) (x : Txn) : (setTxn s n x).moduleIdle = s.moduleIdle := rfl
@[simp] theorem setTxn_waking (s : State) (n : Nat) (x : Txn) : (setTxn s n x).waking = s.waking := rfl
@[simp] theorem setTxn_idleReqs (s : State) (n : Nat) (x : Txn) : (setTxn s n x).idleReqs = s.idleReqs := rfl
@[simp] theorem setTxn_moduleCap (s : State) (n : Nat) (x : Txn) : (setTxn s n x).moduleCap = s.moduleCap := rfl
@[simp] theorem setTxn_meter (s : State) (n : Nat) (x : Txn) : (setTxn s n x).meter = s.meter := rfl
@[simp] theorem setTxn_mesh (s : State) (n : Nat) (x : Txn) : (setTxn s n x).mesh = s.mesh := rfl
@[simp] theorem setTxn_sb (s : State) (n : Nat) (x : Txn) : (setTxn s n x).sb = s.sb := rfl
@[simp] theorem setTxn_pending (s : State) (n : Nat) (x : Txn) : (setTxn s n x).pending = s.pending := rfl

/-! ## pushNotice: writes sb -/

@[simp] theorem pushNotice_phase (s : State) (o : SbOut) : (pushNotice s o).phase = s.phase := rfl
@[simp] theorem pushNotice_now (s : State) (o : SbOut) : (pushNotice s o).now = s.now := rfl
@[simp] theorem pushNotice_free (s : State) (o : SbOut) : (pushNotice s o).free = s.free := rfl
@[simp] theorem pushNotice_pins (s : State) (o : SbOut) : (pushNotice s o).pins = s.pins := rfl
@[simp] theorem pushNotice_jtag (s : State) (o : SbOut) : (pushNotice s o).jtag = s.jtag := rfl
@[simp] theorem pushNotice_sec (s : State) (o : SbOut) : (pushNotice s o).sec = s.sec := rfl
@[simp] theorem pushNotice_flash (s : State) (o : SbOut) : (pushNotice s o).flash = s.flash := rfl
@[simp] theorem pushNotice_config (s : State) (o : SbOut) : (pushNotice s o).config = s.config := rfl
@[simp] theorem pushNotice_journal (s : State) (o : SbOut) : (pushNotice s o).journal = s.journal := rfl
@[simp] theorem pushNotice_applPp (s : State) (o : SbOut) : (pushNotice s o).applPp = s.applPp := rfl
@[simp] theorem pushNotice_applCp (s : State) (o : SbOut) : (pushNotice s o).applCp = s.applCp := rfl
@[simp] theorem pushNotice_lanes (s : State) (o : SbOut) : (pushNotice s o).lanes = s.lanes := rfl
@[simp] theorem pushNotice_gut (s : State) (o : SbOut) : (pushNotice s o).gut = s.gut := rfl
@[simp] theorem pushNotice_mem (s : State) (o : SbOut) : (pushNotice s o).mem = s.mem := rfl
@[simp] theorem pushNotice_poison (s : State) (o : SbOut) : (pushNotice s o).poison = s.poison := rfl
@[simp] theorem pushNotice_errors (s : State) (o : SbOut) : (pushNotice s o).errors = s.errors := rfl
@[simp] theorem pushNotice_stackTab (s : State) (o : SbOut) : (pushNotice s o).stackTab = s.stackTab := rfl
@[simp] theorem pushNotice_homeFull (s : State) (o : SbOut) : (pushNotice s o).homeFull = s.homeFull := rfl
@[simp] theorem pushNotice_absentRing (s : State) (o : SbOut) : (pushNotice s o).absentRing = s.absentRing := rfl
@[simp] theorem pushNotice_lines (s : State) (o : SbOut) : (pushNotice s o).lines = s.lines := rfl
@[simp] theorem pushNotice_dir (s : State) (o : SbOut) : (pushNotice s o).dir = s.dir := rfl
@[simp] theorem pushNotice_dirAge (s : State) (o : SbOut) : (pushNotice s o).dirAge = s.dirAge := rfl
@[simp] theorem pushNotice_txns (s : State) (o : SbOut) : (pushNotice s o).txns = s.txns := rfl
@[simp] theorem pushNotice_streams (s : State) (o : SbOut) : (pushNotice s o).streams = s.streams := rfl
@[simp] theorem pushNotice_recent (s : State) (o : SbOut) : (pushNotice s o).recent = s.recent := rfl
@[simp] theorem pushNotice_suspects (s : State) (o : SbOut) : (pushNotice s o).suspects = s.suspects := rfl
@[simp] theorem pushNotice_timedOut (s : State) (o : SbOut) : (pushNotice s o).timedOut = s.timedOut := rfl
@[simp] theorem pushNotice_l3Locks (s : State) (o : SbOut) : (pushNotice s o).l3Locks = s.l3Locks := rfl
@[simp] theorem pushNotice_rangeCaches (s : State) (o : SbOut) : (pushNotice s o).rangeCaches = s.rangeCaches := rfl
@[simp] theorem pushNotice_invals (s : State) (o : SbOut) : (pushNotice s o).invals = s.invals := rfl
@[simp] theorem pushNotice_ports (s : State) (o : SbOut) : (pushNotice s o).ports = s.ports := rfl
@[simp] theorem pushNotice_formes (s : State) (o : SbOut) : (pushNotice s o).formes = s.formes := rfl
@[simp] theorem pushNotice_loose (s : State) (o : SbOut) : (pushNotice s o).loose = s.loose := rfl
@[simp] theorem pushNotice_galleys (s : State) (o : SbOut) : (pushNotice s o).galleys = s.galleys := rfl
@[simp] theorem pushNotice_harts (s : State) (o : SbOut) : (pushNotice s o).harts = s.harts := rfl
@[simp] theorem pushNotice_groupsRunning (s : State) (o : SbOut) : (pushNotice s o).groupsRunning = s.groupsRunning := rfl
@[simp] theorem pushNotice_corePower (s : State) (o : SbOut) : (pushNotice s o).corePower = s.corePower := rfl
@[simp] theorem pushNotice_platens (s : State) (o : SbOut) : (pushNotice s o).platens = s.platens := rfl
@[simp] theorem pushNotice_powerCmds (s : State) (o : SbOut) : (pushNotice s o).powerCmds = s.powerCmds := rfl
@[simp] theorem pushNotice_comps (s : State) (o : SbOut) : (pushNotice s o).comps = s.comps := rfl
@[simp] theorem pushNotice_moduleIdle (s : State) (o : SbOut) : (pushNotice s o).moduleIdle = s.moduleIdle := rfl
@[simp] theorem pushNotice_waking (s : State) (o : SbOut) : (pushNotice s o).waking = s.waking := rfl
@[simp] theorem pushNotice_idleReqs (s : State) (o : SbOut) : (pushNotice s o).idleReqs = s.idleReqs := rfl
@[simp] theorem pushNotice_moduleCap (s : State) (o : SbOut) : (pushNotice s o).moduleCap = s.moduleCap := rfl
@[simp] theorem pushNotice_meter (s : State) (o : SbOut) : (pushNotice s o).meter = s.meter := rfl
@[simp] theorem pushNotice_mesh (s : State) (o : SbOut) : (pushNotice s o).mesh = s.mesh := rfl
@[simp] theorem pushNotice_sb (s : State) (o : SbOut) : (pushNotice s o).sb = { s.sb with out := s.sb.out ++ [o] } := rfl
@[simp] theorem pushNotice_pending (s : State) (o : SbOut) : (pushNotice s o).pending = s.pending := rfl

/-! ## modSb: writes sb -/

@[simp] theorem modSb_phase (s : State) (g : Sideband → Sideband) : (modSb s g).phase = s.phase := rfl
@[simp] theorem modSb_now (s : State) (g : Sideband → Sideband) : (modSb s g).now = s.now := rfl
@[simp] theorem modSb_free (s : State) (g : Sideband → Sideband) : (modSb s g).free = s.free := rfl
@[simp] theorem modSb_pins (s : State) (g : Sideband → Sideband) : (modSb s g).pins = s.pins := rfl
@[simp] theorem modSb_jtag (s : State) (g : Sideband → Sideband) : (modSb s g).jtag = s.jtag := rfl
@[simp] theorem modSb_sec (s : State) (g : Sideband → Sideband) : (modSb s g).sec = s.sec := rfl
@[simp] theorem modSb_flash (s : State) (g : Sideband → Sideband) : (modSb s g).flash = s.flash := rfl
@[simp] theorem modSb_config (s : State) (g : Sideband → Sideband) : (modSb s g).config = s.config := rfl
@[simp] theorem modSb_journal (s : State) (g : Sideband → Sideband) : (modSb s g).journal = s.journal := rfl
@[simp] theorem modSb_applPp (s : State) (g : Sideband → Sideband) : (modSb s g).applPp = s.applPp := rfl
@[simp] theorem modSb_applCp (s : State) (g : Sideband → Sideband) : (modSb s g).applCp = s.applCp := rfl
@[simp] theorem modSb_lanes (s : State) (g : Sideband → Sideband) : (modSb s g).lanes = s.lanes := rfl
@[simp] theorem modSb_gut (s : State) (g : Sideband → Sideband) : (modSb s g).gut = s.gut := rfl
@[simp] theorem modSb_mem (s : State) (g : Sideband → Sideband) : (modSb s g).mem = s.mem := rfl
@[simp] theorem modSb_poison (s : State) (g : Sideband → Sideband) : (modSb s g).poison = s.poison := rfl
@[simp] theorem modSb_errors (s : State) (g : Sideband → Sideband) : (modSb s g).errors = s.errors := rfl
@[simp] theorem modSb_stackTab (s : State) (g : Sideband → Sideband) : (modSb s g).stackTab = s.stackTab := rfl
@[simp] theorem modSb_homeFull (s : State) (g : Sideband → Sideband) : (modSb s g).homeFull = s.homeFull := rfl
@[simp] theorem modSb_absentRing (s : State) (g : Sideband → Sideband) : (modSb s g).absentRing = s.absentRing := rfl
@[simp] theorem modSb_lines (s : State) (g : Sideband → Sideband) : (modSb s g).lines = s.lines := rfl
@[simp] theorem modSb_dir (s : State) (g : Sideband → Sideband) : (modSb s g).dir = s.dir := rfl
@[simp] theorem modSb_dirAge (s : State) (g : Sideband → Sideband) : (modSb s g).dirAge = s.dirAge := rfl
@[simp] theorem modSb_txns (s : State) (g : Sideband → Sideband) : (modSb s g).txns = s.txns := rfl
@[simp] theorem modSb_streams (s : State) (g : Sideband → Sideband) : (modSb s g).streams = s.streams := rfl
@[simp] theorem modSb_recent (s : State) (g : Sideband → Sideband) : (modSb s g).recent = s.recent := rfl
@[simp] theorem modSb_suspects (s : State) (g : Sideband → Sideband) : (modSb s g).suspects = s.suspects := rfl
@[simp] theorem modSb_timedOut (s : State) (g : Sideband → Sideband) : (modSb s g).timedOut = s.timedOut := rfl
@[simp] theorem modSb_l3Locks (s : State) (g : Sideband → Sideband) : (modSb s g).l3Locks = s.l3Locks := rfl
@[simp] theorem modSb_rangeCaches (s : State) (g : Sideband → Sideband) : (modSb s g).rangeCaches = s.rangeCaches := rfl
@[simp] theorem modSb_invals (s : State) (g : Sideband → Sideband) : (modSb s g).invals = s.invals := rfl
@[simp] theorem modSb_ports (s : State) (g : Sideband → Sideband) : (modSb s g).ports = s.ports := rfl
@[simp] theorem modSb_formes (s : State) (g : Sideband → Sideband) : (modSb s g).formes = s.formes := rfl
@[simp] theorem modSb_loose (s : State) (g : Sideband → Sideband) : (modSb s g).loose = s.loose := rfl
@[simp] theorem modSb_galleys (s : State) (g : Sideband → Sideband) : (modSb s g).galleys = s.galleys := rfl
@[simp] theorem modSb_harts (s : State) (g : Sideband → Sideband) : (modSb s g).harts = s.harts := rfl
@[simp] theorem modSb_groupsRunning (s : State) (g : Sideband → Sideband) : (modSb s g).groupsRunning = s.groupsRunning := rfl
@[simp] theorem modSb_corePower (s : State) (g : Sideband → Sideband) : (modSb s g).corePower = s.corePower := rfl
@[simp] theorem modSb_platens (s : State) (g : Sideband → Sideband) : (modSb s g).platens = s.platens := rfl
@[simp] theorem modSb_powerCmds (s : State) (g : Sideband → Sideband) : (modSb s g).powerCmds = s.powerCmds := rfl
@[simp] theorem modSb_comps (s : State) (g : Sideband → Sideband) : (modSb s g).comps = s.comps := rfl
@[simp] theorem modSb_moduleIdle (s : State) (g : Sideband → Sideband) : (modSb s g).moduleIdle = s.moduleIdle := rfl
@[simp] theorem modSb_waking (s : State) (g : Sideband → Sideband) : (modSb s g).waking = s.waking := rfl
@[simp] theorem modSb_idleReqs (s : State) (g : Sideband → Sideband) : (modSb s g).idleReqs = s.idleReqs := rfl
@[simp] theorem modSb_moduleCap (s : State) (g : Sideband → Sideband) : (modSb s g).moduleCap = s.moduleCap := rfl
@[simp] theorem modSb_meter (s : State) (g : Sideband → Sideband) : (modSb s g).meter = s.meter := rfl
@[simp] theorem modSb_mesh (s : State) (g : Sideband → Sideband) : (modSb s g).mesh = s.mesh := rfl
@[simp] theorem modSb_sb (s : State) (g : Sideband → Sideband) : (modSb s g).sb = g s.sb := rfl
@[simp] theorem modSb_pending (s : State) (g : Sideband → Sideband) : (modSb s g).pending = s.pending := rfl

/-! ## setJtag: writes jtag -/

@[simp] theorem setJtag_phase (s : State) (g : Jtag → Jtag) : (setJtag s g).phase = s.phase := rfl
@[simp] theorem setJtag_now (s : State) (g : Jtag → Jtag) : (setJtag s g).now = s.now := rfl
@[simp] theorem setJtag_free (s : State) (g : Jtag → Jtag) : (setJtag s g).free = s.free := rfl
@[simp] theorem setJtag_pins (s : State) (g : Jtag → Jtag) : (setJtag s g).pins = s.pins := rfl
@[simp] theorem setJtag_jtag (s : State) (g : Jtag → Jtag) : (setJtag s g).jtag = g s.jtag := rfl
@[simp] theorem setJtag_sec (s : State) (g : Jtag → Jtag) : (setJtag s g).sec = s.sec := rfl
@[simp] theorem setJtag_flash (s : State) (g : Jtag → Jtag) : (setJtag s g).flash = s.flash := rfl
@[simp] theorem setJtag_config (s : State) (g : Jtag → Jtag) : (setJtag s g).config = s.config := rfl
@[simp] theorem setJtag_journal (s : State) (g : Jtag → Jtag) : (setJtag s g).journal = s.journal := rfl
@[simp] theorem setJtag_applPp (s : State) (g : Jtag → Jtag) : (setJtag s g).applPp = s.applPp := rfl
@[simp] theorem setJtag_applCp (s : State) (g : Jtag → Jtag) : (setJtag s g).applCp = s.applCp := rfl
@[simp] theorem setJtag_lanes (s : State) (g : Jtag → Jtag) : (setJtag s g).lanes = s.lanes := rfl
@[simp] theorem setJtag_gut (s : State) (g : Jtag → Jtag) : (setJtag s g).gut = s.gut := rfl
@[simp] theorem setJtag_mem (s : State) (g : Jtag → Jtag) : (setJtag s g).mem = s.mem := rfl
@[simp] theorem setJtag_poison (s : State) (g : Jtag → Jtag) : (setJtag s g).poison = s.poison := rfl
@[simp] theorem setJtag_errors (s : State) (g : Jtag → Jtag) : (setJtag s g).errors = s.errors := rfl
@[simp] theorem setJtag_stackTab (s : State) (g : Jtag → Jtag) : (setJtag s g).stackTab = s.stackTab := rfl
@[simp] theorem setJtag_homeFull (s : State) (g : Jtag → Jtag) : (setJtag s g).homeFull = s.homeFull := rfl
@[simp] theorem setJtag_absentRing (s : State) (g : Jtag → Jtag) : (setJtag s g).absentRing = s.absentRing := rfl
@[simp] theorem setJtag_lines (s : State) (g : Jtag → Jtag) : (setJtag s g).lines = s.lines := rfl
@[simp] theorem setJtag_dir (s : State) (g : Jtag → Jtag) : (setJtag s g).dir = s.dir := rfl
@[simp] theorem setJtag_dirAge (s : State) (g : Jtag → Jtag) : (setJtag s g).dirAge = s.dirAge := rfl
@[simp] theorem setJtag_txns (s : State) (g : Jtag → Jtag) : (setJtag s g).txns = s.txns := rfl
@[simp] theorem setJtag_streams (s : State) (g : Jtag → Jtag) : (setJtag s g).streams = s.streams := rfl
@[simp] theorem setJtag_recent (s : State) (g : Jtag → Jtag) : (setJtag s g).recent = s.recent := rfl
@[simp] theorem setJtag_suspects (s : State) (g : Jtag → Jtag) : (setJtag s g).suspects = s.suspects := rfl
@[simp] theorem setJtag_timedOut (s : State) (g : Jtag → Jtag) : (setJtag s g).timedOut = s.timedOut := rfl
@[simp] theorem setJtag_l3Locks (s : State) (g : Jtag → Jtag) : (setJtag s g).l3Locks = s.l3Locks := rfl
@[simp] theorem setJtag_rangeCaches (s : State) (g : Jtag → Jtag) : (setJtag s g).rangeCaches = s.rangeCaches := rfl
@[simp] theorem setJtag_invals (s : State) (g : Jtag → Jtag) : (setJtag s g).invals = s.invals := rfl
@[simp] theorem setJtag_ports (s : State) (g : Jtag → Jtag) : (setJtag s g).ports = s.ports := rfl
@[simp] theorem setJtag_formes (s : State) (g : Jtag → Jtag) : (setJtag s g).formes = s.formes := rfl
@[simp] theorem setJtag_loose (s : State) (g : Jtag → Jtag) : (setJtag s g).loose = s.loose := rfl
@[simp] theorem setJtag_galleys (s : State) (g : Jtag → Jtag) : (setJtag s g).galleys = s.galleys := rfl
@[simp] theorem setJtag_harts (s : State) (g : Jtag → Jtag) : (setJtag s g).harts = s.harts := rfl
@[simp] theorem setJtag_groupsRunning (s : State) (g : Jtag → Jtag) : (setJtag s g).groupsRunning = s.groupsRunning := rfl
@[simp] theorem setJtag_corePower (s : State) (g : Jtag → Jtag) : (setJtag s g).corePower = s.corePower := rfl
@[simp] theorem setJtag_platens (s : State) (g : Jtag → Jtag) : (setJtag s g).platens = s.platens := rfl
@[simp] theorem setJtag_powerCmds (s : State) (g : Jtag → Jtag) : (setJtag s g).powerCmds = s.powerCmds := rfl
@[simp] theorem setJtag_comps (s : State) (g : Jtag → Jtag) : (setJtag s g).comps = s.comps := rfl
@[simp] theorem setJtag_moduleIdle (s : State) (g : Jtag → Jtag) : (setJtag s g).moduleIdle = s.moduleIdle := rfl
@[simp] theorem setJtag_waking (s : State) (g : Jtag → Jtag) : (setJtag s g).waking = s.waking := rfl
@[simp] theorem setJtag_idleReqs (s : State) (g : Jtag → Jtag) : (setJtag s g).idleReqs = s.idleReqs := rfl
@[simp] theorem setJtag_moduleCap (s : State) (g : Jtag → Jtag) : (setJtag s g).moduleCap = s.moduleCap := rfl
@[simp] theorem setJtag_meter (s : State) (g : Jtag → Jtag) : (setJtag s g).meter = s.meter := rfl
@[simp] theorem setJtag_mesh (s : State) (g : Jtag → Jtag) : (setJtag s g).mesh = s.mesh := rfl
@[simp] theorem setJtag_sb (s : State) (g : Jtag → Jtag) : (setJtag s g).sb = s.sb := rfl
@[simp] theorem setJtag_pending (s : State) (g : Jtag → Jtag) : (setJtag s g).pending = s.pending := rfl

/-! ## modMeshPort: writes mesh -/

@[simp] theorem modMeshPort_phase (s : State) (p : Nat) (g : MeshPort → MeshPort) : (modMeshPort s p g).phase = s.phase := rfl
@[simp] theorem modMeshPort_now (s : State) (p : Nat) (g : MeshPort → MeshPort) : (modMeshPort s p g).now = s.now := rfl
@[simp] theorem modMeshPort_free (s : State) (p : Nat) (g : MeshPort → MeshPort) : (modMeshPort s p g).free = s.free := rfl
@[simp] theorem modMeshPort_pins (s : State) (p : Nat) (g : MeshPort → MeshPort) : (modMeshPort s p g).pins = s.pins := rfl
@[simp] theorem modMeshPort_jtag (s : State) (p : Nat) (g : MeshPort → MeshPort) : (modMeshPort s p g).jtag = s.jtag := rfl
@[simp] theorem modMeshPort_sec (s : State) (p : Nat) (g : MeshPort → MeshPort) : (modMeshPort s p g).sec = s.sec := rfl
@[simp] theorem modMeshPort_flash (s : State) (p : Nat) (g : MeshPort → MeshPort) : (modMeshPort s p g).flash = s.flash := rfl
@[simp] theorem modMeshPort_config (s : State) (p : Nat) (g : MeshPort → MeshPort) : (modMeshPort s p g).config = s.config := rfl
@[simp] theorem modMeshPort_journal (s : State) (p : Nat) (g : MeshPort → MeshPort) : (modMeshPort s p g).journal = s.journal := rfl
@[simp] theorem modMeshPort_applPp (s : State) (p : Nat) (g : MeshPort → MeshPort) : (modMeshPort s p g).applPp = s.applPp := rfl
@[simp] theorem modMeshPort_applCp (s : State) (p : Nat) (g : MeshPort → MeshPort) : (modMeshPort s p g).applCp = s.applCp := rfl
@[simp] theorem modMeshPort_lanes (s : State) (p : Nat) (g : MeshPort → MeshPort) : (modMeshPort s p g).lanes = s.lanes := rfl
@[simp] theorem modMeshPort_gut (s : State) (p : Nat) (g : MeshPort → MeshPort) : (modMeshPort s p g).gut = s.gut := rfl
@[simp] theorem modMeshPort_mem (s : State) (p : Nat) (g : MeshPort → MeshPort) : (modMeshPort s p g).mem = s.mem := rfl
@[simp] theorem modMeshPort_poison (s : State) (p : Nat) (g : MeshPort → MeshPort) : (modMeshPort s p g).poison = s.poison := rfl
@[simp] theorem modMeshPort_errors (s : State) (p : Nat) (g : MeshPort → MeshPort) : (modMeshPort s p g).errors = s.errors := rfl
@[simp] theorem modMeshPort_stackTab (s : State) (p : Nat) (g : MeshPort → MeshPort) : (modMeshPort s p g).stackTab = s.stackTab := rfl
@[simp] theorem modMeshPort_homeFull (s : State) (p : Nat) (g : MeshPort → MeshPort) : (modMeshPort s p g).homeFull = s.homeFull := rfl
@[simp] theorem modMeshPort_absentRing (s : State) (p : Nat) (g : MeshPort → MeshPort) : (modMeshPort s p g).absentRing = s.absentRing := rfl
@[simp] theorem modMeshPort_lines (s : State) (p : Nat) (g : MeshPort → MeshPort) : (modMeshPort s p g).lines = s.lines := rfl
@[simp] theorem modMeshPort_dir (s : State) (p : Nat) (g : MeshPort → MeshPort) : (modMeshPort s p g).dir = s.dir := rfl
@[simp] theorem modMeshPort_dirAge (s : State) (p : Nat) (g : MeshPort → MeshPort) : (modMeshPort s p g).dirAge = s.dirAge := rfl
@[simp] theorem modMeshPort_txns (s : State) (p : Nat) (g : MeshPort → MeshPort) : (modMeshPort s p g).txns = s.txns := rfl
@[simp] theorem modMeshPort_streams (s : State) (p : Nat) (g : MeshPort → MeshPort) : (modMeshPort s p g).streams = s.streams := rfl
@[simp] theorem modMeshPort_recent (s : State) (p : Nat) (g : MeshPort → MeshPort) : (modMeshPort s p g).recent = s.recent := rfl
@[simp] theorem modMeshPort_suspects (s : State) (p : Nat) (g : MeshPort → MeshPort) : (modMeshPort s p g).suspects = s.suspects := rfl
@[simp] theorem modMeshPort_timedOut (s : State) (p : Nat) (g : MeshPort → MeshPort) : (modMeshPort s p g).timedOut = s.timedOut := rfl
@[simp] theorem modMeshPort_l3Locks (s : State) (p : Nat) (g : MeshPort → MeshPort) : (modMeshPort s p g).l3Locks = s.l3Locks := rfl
@[simp] theorem modMeshPort_rangeCaches (s : State) (p : Nat) (g : MeshPort → MeshPort) : (modMeshPort s p g).rangeCaches = s.rangeCaches := rfl
@[simp] theorem modMeshPort_invals (s : State) (p : Nat) (g : MeshPort → MeshPort) : (modMeshPort s p g).invals = s.invals := rfl
@[simp] theorem modMeshPort_ports (s : State) (p : Nat) (g : MeshPort → MeshPort) : (modMeshPort s p g).ports = s.ports := rfl
@[simp] theorem modMeshPort_formes (s : State) (p : Nat) (g : MeshPort → MeshPort) : (modMeshPort s p g).formes = s.formes := rfl
@[simp] theorem modMeshPort_loose (s : State) (p : Nat) (g : MeshPort → MeshPort) : (modMeshPort s p g).loose = s.loose := rfl
@[simp] theorem modMeshPort_galleys (s : State) (p : Nat) (g : MeshPort → MeshPort) : (modMeshPort s p g).galleys = s.galleys := rfl
@[simp] theorem modMeshPort_harts (s : State) (p : Nat) (g : MeshPort → MeshPort) : (modMeshPort s p g).harts = s.harts := rfl
@[simp] theorem modMeshPort_groupsRunning (s : State) (p : Nat) (g : MeshPort → MeshPort) : (modMeshPort s p g).groupsRunning = s.groupsRunning := rfl
@[simp] theorem modMeshPort_corePower (s : State) (p : Nat) (g : MeshPort → MeshPort) : (modMeshPort s p g).corePower = s.corePower := rfl
@[simp] theorem modMeshPort_platens (s : State) (p : Nat) (g : MeshPort → MeshPort) : (modMeshPort s p g).platens = s.platens := rfl
@[simp] theorem modMeshPort_powerCmds (s : State) (p : Nat) (g : MeshPort → MeshPort) : (modMeshPort s p g).powerCmds = s.powerCmds := rfl
@[simp] theorem modMeshPort_comps (s : State) (p : Nat) (g : MeshPort → MeshPort) : (modMeshPort s p g).comps = s.comps := rfl
@[simp] theorem modMeshPort_moduleIdle (s : State) (p : Nat) (g : MeshPort → MeshPort) : (modMeshPort s p g).moduleIdle = s.moduleIdle := rfl
@[simp] theorem modMeshPort_waking (s : State) (p : Nat) (g : MeshPort → MeshPort) : (modMeshPort s p g).waking = s.waking := rfl
@[simp] theorem modMeshPort_idleReqs (s : State) (p : Nat) (g : MeshPort → MeshPort) : (modMeshPort s p g).idleReqs = s.idleReqs := rfl
@[simp] theorem modMeshPort_moduleCap (s : State) (p : Nat) (g : MeshPort → MeshPort) : (modMeshPort s p g).moduleCap = s.moduleCap := rfl
@[simp] theorem modMeshPort_meter (s : State) (p : Nat) (g : MeshPort → MeshPort) : (modMeshPort s p g).meter = s.meter := rfl
@[simp] theorem modMeshPort_sb (s : State) (p : Nat) (g : MeshPort → MeshPort) : (modMeshPort s p g).sb = s.sb := rfl
@[simp] theorem modMeshPort_pending (s : State) (p : Nat) (g : MeshPort → MeshPort) : (modMeshPort s p g).pending = s.pending := rfl

/-! ## meshSend: writes mesh -/

@[simp] theorem meshSend_phase (s : State) (x : MeshTx) : (meshSend s x).phase = s.phase := rfl
@[simp] theorem meshSend_now (s : State) (x : MeshTx) : (meshSend s x).now = s.now := rfl
@[simp] theorem meshSend_free (s : State) (x : MeshTx) : (meshSend s x).free = s.free := rfl
@[simp] theorem meshSend_pins (s : State) (x : MeshTx) : (meshSend s x).pins = s.pins := rfl
@[simp] theorem meshSend_jtag (s : State) (x : MeshTx) : (meshSend s x).jtag = s.jtag := rfl
@[simp] theorem meshSend_sec (s : State) (x : MeshTx) : (meshSend s x).sec = s.sec := rfl
@[simp] theorem meshSend_flash (s : State) (x : MeshTx) : (meshSend s x).flash = s.flash := rfl
@[simp] theorem meshSend_config (s : State) (x : MeshTx) : (meshSend s x).config = s.config := rfl
@[simp] theorem meshSend_journal (s : State) (x : MeshTx) : (meshSend s x).journal = s.journal := rfl
@[simp] theorem meshSend_applPp (s : State) (x : MeshTx) : (meshSend s x).applPp = s.applPp := rfl
@[simp] theorem meshSend_applCp (s : State) (x : MeshTx) : (meshSend s x).applCp = s.applCp := rfl
@[simp] theorem meshSend_lanes (s : State) (x : MeshTx) : (meshSend s x).lanes = s.lanes := rfl
@[simp] theorem meshSend_gut (s : State) (x : MeshTx) : (meshSend s x).gut = s.gut := rfl
@[simp] theorem meshSend_mem (s : State) (x : MeshTx) : (meshSend s x).mem = s.mem := rfl
@[simp] theorem meshSend_poison (s : State) (x : MeshTx) : (meshSend s x).poison = s.poison := rfl
@[simp] theorem meshSend_errors (s : State) (x : MeshTx) : (meshSend s x).errors = s.errors := rfl
@[simp] theorem meshSend_stackTab (s : State) (x : MeshTx) : (meshSend s x).stackTab = s.stackTab := rfl
@[simp] theorem meshSend_homeFull (s : State) (x : MeshTx) : (meshSend s x).homeFull = s.homeFull := rfl
@[simp] theorem meshSend_absentRing (s : State) (x : MeshTx) : (meshSend s x).absentRing = s.absentRing := rfl
@[simp] theorem meshSend_lines (s : State) (x : MeshTx) : (meshSend s x).lines = s.lines := rfl
@[simp] theorem meshSend_dir (s : State) (x : MeshTx) : (meshSend s x).dir = s.dir := rfl
@[simp] theorem meshSend_dirAge (s : State) (x : MeshTx) : (meshSend s x).dirAge = s.dirAge := rfl
@[simp] theorem meshSend_txns (s : State) (x : MeshTx) : (meshSend s x).txns = s.txns := rfl
@[simp] theorem meshSend_streams (s : State) (x : MeshTx) : (meshSend s x).streams = s.streams := rfl
@[simp] theorem meshSend_recent (s : State) (x : MeshTx) : (meshSend s x).recent = s.recent := rfl
@[simp] theorem meshSend_suspects (s : State) (x : MeshTx) : (meshSend s x).suspects = s.suspects := rfl
@[simp] theorem meshSend_timedOut (s : State) (x : MeshTx) : (meshSend s x).timedOut = s.timedOut := rfl
@[simp] theorem meshSend_l3Locks (s : State) (x : MeshTx) : (meshSend s x).l3Locks = s.l3Locks := rfl
@[simp] theorem meshSend_rangeCaches (s : State) (x : MeshTx) : (meshSend s x).rangeCaches = s.rangeCaches := rfl
@[simp] theorem meshSend_invals (s : State) (x : MeshTx) : (meshSend s x).invals = s.invals := rfl
@[simp] theorem meshSend_ports (s : State) (x : MeshTx) : (meshSend s x).ports = s.ports := rfl
@[simp] theorem meshSend_formes (s : State) (x : MeshTx) : (meshSend s x).formes = s.formes := rfl
@[simp] theorem meshSend_loose (s : State) (x : MeshTx) : (meshSend s x).loose = s.loose := rfl
@[simp] theorem meshSend_galleys (s : State) (x : MeshTx) : (meshSend s x).galleys = s.galleys := rfl
@[simp] theorem meshSend_harts (s : State) (x : MeshTx) : (meshSend s x).harts = s.harts := rfl
@[simp] theorem meshSend_groupsRunning (s : State) (x : MeshTx) : (meshSend s x).groupsRunning = s.groupsRunning := rfl
@[simp] theorem meshSend_corePower (s : State) (x : MeshTx) : (meshSend s x).corePower = s.corePower := rfl
@[simp] theorem meshSend_platens (s : State) (x : MeshTx) : (meshSend s x).platens = s.platens := rfl
@[simp] theorem meshSend_powerCmds (s : State) (x : MeshTx) : (meshSend s x).powerCmds = s.powerCmds := rfl
@[simp] theorem meshSend_comps (s : State) (x : MeshTx) : (meshSend s x).comps = s.comps := rfl
@[simp] theorem meshSend_moduleIdle (s : State) (x : MeshTx) : (meshSend s x).moduleIdle = s.moduleIdle := rfl
@[simp] theorem meshSend_waking (s : State) (x : MeshTx) : (meshSend s x).waking = s.waking := rfl
@[simp] theorem meshSend_idleReqs (s : State) (x : MeshTx) : (meshSend s x).idleReqs = s.idleReqs := rfl
@[simp] theorem meshSend_moduleCap (s : State) (x : MeshTx) : (meshSend s x).moduleCap = s.moduleCap := rfl
@[simp] theorem meshSend_meter (s : State) (x : MeshTx) : (meshSend s x).meter = s.meter := rfl
@[simp] theorem meshSend_mesh (s : State) (x : MeshTx) : (meshSend s x).mesh = { s.mesh with tx := s.mesh.tx ++ [x] } := rfl
@[simp] theorem meshSend_sb (s : State) (x : MeshTx) : (meshSend s x).sb = s.sb := rfl
@[simp] theorem meshSend_pending (s : State) (x : MeshTx) : (meshSend s x).pending = s.pending := rfl

end Sys2Proof.Machine
end

