-- ==== Sys2Proof/Laws/Ops.lean ====
section
/-! SUPPORT. The named operations: what is read after a change of a forme, port, hart, stack, galley, stick, slot, line or
transaction, and what writing the journal may change. -/

namespace Sys2Proof.Machine

open Sys2Proof

/-! ## Tables -/

theorem mapGet_mapMod {α : Type} (m : SMap α) (i k : Nat) (f : α → α) :
    mapGet (mapMod m i f) k = if k = i then (mapGet m i).map f else mapGet m k := by
  unfold mapMod
  cases h : mapGet m i with
  | none =>
    dsimp only
    split
    · rename_i e; subst e; simp [h]
    · rfl
  | some v =>
    simp only [mapGet_mapSet, Option.map_some]

@[simp] theorem mapGet_mapMod_self {α : Type} (m : SMap α) (i : Nat) (f : α → α) :
    mapGet (mapMod m i f) i = (mapGet m i).map f := by simp [mapGet_mapMod]

theorem mapGet_mapMod_ne {α : Type} (m : SMap α) {i k : Nat} (f : α → α) (h : k ≠ i) :
    mapGet (mapMod m i f) k = mapGet m k := by simp [mapGet_mapMod, h]

theorem keysFrom_mapMod {α : Type} (m : SMap α) (lo i : Nat) (f : α → α) (h : keysFrom lo m = true) :
    keysFrom lo (mapMod m i f) = true := by
  unfold mapMod
  cases e : mapGet m i with
  | none => exact h
  | some v =>
    refine keysFrom_mapSet m lo i _ (Nat.le_of_not_lt fun hk => ?_) h
    rw [mapGet_below m lo i h hk] at e
    cases e

@[simp] theorem mapGet_mapUpd_self {α : Type} (m : SMap α) (d : α) (i : Nat) (f : α → α) :
    mapGet (mapUpd m d i f) i = some (f (mapGetD m d i)) := by simp [mapUpd]

theorem mapGet_mapUpd_ne {α : Type} (m : SMap α) (d : α) {i k : Nat} (f : α → α) (h : k ≠ i) :
    mapGet (mapUpd m d i f) k = mapGet m k := by simp [mapUpd, mapGet_mapSet_ne _ _ h]

@[simp] theorem mapGetD_mapUpd_self {α : Type} (m : SMap α) (d : α) (i : Nat) (f : α → α) :
    mapGetD (mapUpd m d i f) d i = f (mapGetD m d i) := by simp [mapUpd]

theorem mapGetD_mapUpd_ne {α : Type} (m : SMap α) (d : α) {i k : Nat} (f : α → α) (h : k ≠ i) :
    mapGetD (mapUpd m d i f) d k = mapGetD m d k := by simp [mapUpd, mapGetD_mapSet_ne _ _ _ h]

theorem mapGetD_mapMod_ne {α : Type} (m : SMap α) (d : α) {i k : Nat} (f : α → α) (h : k ≠ i) :
    mapGetD (mapMod m i f) d k = mapGetD m d k := by simp [mapGetD, mapGet_mapMod_ne _ _ h]

theorem mapGetD_mapMod_self {α : Type} (m : SMap α) (d : α) (i : Nat) (f : α → α) (x : α) (h : mapGet m i = some x) :
    mapGetD (mapMod m i f) d i = f x := by simp [mapGetD, h]

/-! ## Formes, ports, harts, stacks -/

@[simp] theorem getForme_modForme_self (s : State) (f : Nat) (g : Forme → Forme) :
    getForme (modForme s f g) f = (getForme s f).map g := mapGet_mapMod_self _ _ _

theorem getForme_modForme_ne (s : State) {f k : Nat} (g : Forme → Forme) (h : k ≠ f) :
    getForme (modForme s f g) k = getForme s k := mapGet_mapMod_ne _ _ h

theorem getPort_modPort_self (s : State) (p : Nat) (g : Port → Port) (x : Port) (h : mapGet s.ports p = some x) :
    getPort (modPort s p g) p = g x := mapGetD_mapMod_self _ _ _ _ _ h

theorem getPort_modPort_ne (s : State) {p k : Nat} (g : Port → Port) (h : k ≠ p) :
    getPort (modPort s p g) k = getPort s k := mapGetD_mapMod_ne _ _ _ h

theorem getHart_modHart_self (s : State) (i : Nat) (g : Hart → Hart) (x : Hart) (h : mapGet s.harts i = some x) :
    getHart (modHart s i g) i = g x := mapGetD_mapMod_self _ _ _ _ _ h

theorem getHart_modHart_ne (s : State) {i k : Nat} (g : Hart → Hart) (h : k ≠ i) :
    getHart (modHart s i g) k = getHart s k := mapGetD_mapMod_ne _ _ _ h

theorem getStack_modStack_self (s : State) (i : Nat) (g : Stack → Stack) (x : Stack) (h : mapGet s.stackTab i = some x) :
    getStack (modStack s i g) i = g x := mapGetD_mapMod_self _ _ _ _ _ h

theorem getStack_modStack_ne (s : State) {i k : Nat} (g : Stack → Stack) (h : k ≠ i) :
    getStack (modStack s i g) k = getStack s k := mapGetD_mapMod_ne _ _ _ h

@[simp] theorem getForme_modPort (s : State) (p f : Nat) (g : Port → Port) : getForme (modPort s p g) f = getForme s f := rfl
@[simp] theorem getPort_modForme (s : State) (f p : Nat) (g : Forme → Forme) : getPort (modForme s f g) p = getPort s p := rfl

/-! ## Galleys and sticks -/

@[simp] theorem getGalley_modGalley_self (s : State) (p g : Nat) (f : Galley → Galley) :
    getGalley (modGalley s p g f) p g = f (getGalley s p g) := mapGetD_mapUpd_self _ _ _ _

theorem getGalley_modGalley_ne (s : State) {p g p' g' : Nat} (f : Galley → Galley)
    (h : galleyKey p' g' ≠ galleyKey p g) : getGalley (modGalley s p g f) p' g' = getGalley s p' g' :=
  mapGetD_mapUpd_ne _ _ _ h

@[simp] theorem getStick_modStick_self (s : State) (p g k : Nat) (f : Stick → Stick) :
    getStick (modStick s p g k f) p g k = (getStick s p g k).map f := by
  simp [getStick, modStick]

theorem getStick_modStick_ne (s : State) (p g : Nat) {k j : Nat} (f : Stick → Stick) (h : j ≠ k) :
    getStick (modStick s p g k f) p g j = getStick s p g j := by
  simp [getStick, modStick, mapGet_mapMod_ne _ _ h]

/-! ## Lines and transactions (09) -/

@[simp] theorem getTxn_setTxn (s : State) (ln : Nat) (t : Txn) : getTxn (setTxn s ln t) ln = some t :=
  mapGet_mapSet_self _ _ _

@[simp] theorem getLine_setLine (s : State) (a ln : Nat) (l : Line) : getLine (setLine s a ln l) a ln = some l :=
  mapGet_mapSet_self _ _ _

@[simp] theorem ownerOf_setTxn (s : State) (ln : Nat) (t : Txn) (k : Nat) : ownerOf (setTxn s ln t) k = ownerOf s k := rfl
@[simp] theorem holdersOf_setTxn (s : State) (ln : Nat) (t : Txn) (k : Nat) :
    holdersOf (setTxn s ln t) k = holdersOf s k := rfl
@[simp] theorem getLine_setTxn (s : State) (ln : Nat) (t : Txn) (a k : Nat) : getLine (setTxn s ln t) a k = getLine s a k := rfl
@[simp] theorem getTxn_setLine (s : State) (a ln : Nat) (l : Line) (k : Nat) : getTxn (setLine s a ln l) k = getTxn s k := rfl

@[simp] theorem getTxn_countFor (s : State) (f : Option Nat) (c : Ctr) (n k : Nat) :
    getTxn (countFor s f c n) k = getTxn s k := by unfold countFor; split <;> rfl

@[simp] theorem getTxn_dirPut (s : State) (ln : Nat) (st : DirState) (o : Nat) (hs : List Nat) (k : Nat) :
    getTxn (dirPut s ln st o hs) k = getTxn s k := by unfold dirPut; split <;> rfl

@[simp] theorem getTxn_dropLine (s : State) (a ln k : Nat) : getTxn (dropLine s a ln) k = getTxn s k := by
  unfold dropLine; dsimp only; split <;> rfl

@[simp] theorem getLine_dirPut (s : State) (ln : Nat) (st : DirState) (o : Nat) (hs : List Nat) (a k : Nat) :
    getLine (dirPut s ln st o hs) a k = getLine s a k := by unfold dirPut; split <;> rfl

@[simp] theorem getLine_countFor (s : State) (f : Option Nat) (c : Ctr) (n a k : Nat) :
    getLine (countFor s f c n) a k = getLine s a k := by unfold countFor; split <;> rfl

/-- A line that is dropped is no longer held. -/
theorem getLine_dropLine (s : State) (a ln : Nat) (h : keysFrom 0 s.lines = true) : getLine (dropLine s a ln) a ln = none := by
  have e : getLine (dropLine s a ln) a ln = mapGet (mapDel s.lines (lineKey a ln)) (lineKey a ln) := by
    unfold dropLine; dsimp only; split <;> rfl
  rw [e]
  exact mapGet_mapDel_self _ 0 _ h

theorem sendMsg_of {s : State} {ln : Nat} {t : Txn} (m : Msg) (h : getTxn s ln = some t) :
    sendMsg s ln m = setTxn s ln (t.send m) := by simp [sendMsg, h]

theorem removeMsg_of {s : State} {ln : Nat} {t : Txn} (m : Msg) (h : getTxn s ln = some t) :
    removeMsg s ln m = setTxn s ln { t with msgs := t.msgs.erase m } := by simp [removeMsg, h]

/-- A home whose snoops are outstanding, that has granted, or that something still holds up, waits. -/
theorem homeProceed_waits {s : State} {ln : Nat} {t : Txn} (h : getTxn s ln = some t)
    (w : t.granted = true ∨ t.waiting ≠ [] ∨ homeStalled s ln t = true) :
    homeProceed s ln = s := by
  unfold homeProceed
  simp only [h]
  exact if_pos w

/-! ## Slots (12) -/

theorem getSlot_modSlot_host (s : State) (p k : Nat) (f : Slot → Slot) (h : (mapGet s.ports p).isSome = true) :
    getSlot (modSlot s (.host p) k f) (.host p) k = f (getSlot s (.host p) k) := by
  obtain ⟨x, hx⟩ := Option.isSome_iff_exists.mp h
  simp [getSlot, modSlot, modMbox, getMbox, getPort, modPort, mapGetD, hx, Mailbox.slotAt, mapUpd]

theorem getSlot_modSlot_core (s : State) (c k : Nat) (f : Slot → Slot) (h : (getForme s c).isSome = true) :
    getSlot (modSlot s (.core c) k f) (.core c) k = f (getSlot s (.core c) k) := by
  obtain ⟨x, hx⟩ := Option.isSome_iff_exists.mp h
  simp [getSlot, modSlot, modMbox, getMbox, hx, Mailbox.slotAt, mapUpd, mapGetD]

/-- Ending a command changes its slot alone; SLOT_COMPLETE writes its completion. -/
theorem finish_host (s : State) (p k st detail result : Nat) (h : (mapGet s.ports p).isSome = true) :
    getSlot (finish s (.host p) k st detail result) (.host p) k =
      { getSlot s (.host p) k with phase := .finished, status := st, detail := detail, result := result } :=
  getSlot_modSlot_host s p k _ h

theorem finish_core (s : State) (c k st detail result : Nat) (h : (getForme s c).isSome = true) :
    getSlot (finish s (.core c) k st detail result) (.core c) k =
      { getSlot s (.core c) k with phase := .finished, status := st, detail := detail, result := result } :=
  getSlot_modSlot_core s c k _ h

/-! ## The journal (15 R524 to R529) -/

@[simp] theorem alert_journal (s : State) (code : Nat) (extra : List Byte) : (alert s code extra).journal = s.journal := rfl

/-- What holds of a state, and of it with an ALERT, holds however the ring's filling is noticed. -/
theorem noticed {P : State → Prop} {c d : Prop} [Decidable c] [Decidable d] (u : State) (h : P u)
    (ha : ∀ k, P (alert u k [])) : P (if c then alert u 0x02 [] else if d then alert u 0x03 [] else u) := by
  split
  · exact ha _
  · split
    · exact ha _
    · exact h

/-- An entry changes the journal, the sector of the ring that it is written into, and the notices where the ring fills. -/
theorem journalPut_frame (s : State) (e : JEntry) :
    journalPut s e = { s with journal := (journalPut s e).journal, sb := (journalPut s e).sb,
                              poison := (journalPut s e).poison, errors := (journalPut s e).errors } := by
  unfold journalPut
  exact noticed (P := fun v => v = { s with journal := v.journal, sb := v.sb, poison := v.poison, errors := v.errors }) _ rfl
    (fun _ => rfl)

/-- The entry is the newest, with the next number, the time and the chain value before it. -/
theorem journalPut_entries (s : State) (e : JEntry) :
    (journalPut s e).journal.entries =
      ({ e with number := s.journal.next, time := s.now, prev := s.journal.chain % 2 ^ 64 } :: s.journal.entries).take
        journalRing := by
  unfold journalPut
  exact noticed (P := fun v => v.journal.entries = _) _ rfl (fun _ => rfl)

theorem journalPut_next (s : State) (e : JEntry) : (journalPut s e).journal.next = s.journal.next + 1 := by
  unfold journalPut
  exact noticed (P := fun v => v.journal.next = s.journal.next + 1) _ rfl (fun _ => rfl)

/-- States that writing entries may lead to: the journal, its ring's sectors and the mark in flash that it has begun,
the notices, and in module idle the wake that an entry asks for. -/
def JournalOnly (s t : State) : Prop :=
  t = { s with journal := t.journal, sb := t.sb, poison := t.poison, errors := t.errors, waking := t.waking, flash := t.flash }

theorem JournalOnly.trans {s t u : State} (a : JournalOnly s t) (b : JournalOnly t u) : JournalOnly s u := by
  unfold JournalOnly at *; rw [b, a]

theorem journalPut_only (s : State) (e : JEntry) : JournalOnly s (journalPut s e) := by
  unfold JournalOnly; rw [journalPut_frame]

theorem bootEntry_only (s : State) : JournalOnly s (bootEntry s) := by
  unfold bootEntry
  split
  · refine JournalOnly.trans (t := { s with flash := { s.flash with journalBegun := true } }) rfl ?_
    exact (journalPut_only _ _).trans rfl
  · rfl

theorem gapEntry_only (s : State) : JournalOnly s (gapEntry s) := by
  unfold gapEntry
  split
  · rfl
  · exact JournalOnly.trans (t := { s with journal := { s.journal with lost := 0 } }) rfl (journalPut_only _ _)

theorem journalPlace_only (s : State) (e : JEntry) : JournalOnly s (journalPlace s e) := by
  unfold journalPlace
  split
  · rfl
  · split
    · rfl
    · exact journalPut_only s e

/-- What writing an entry may change. -/
theorem journalWrite_frame (s : State) (e : JEntry) : JournalOnly s (journalWrite s e) :=
  ((bootEntry_only s).trans (gapEntry_only _)).trans (journalPlace_only _ e)

/-- With a place in the ring, no entry lost or due before it and nothing to wait for, the entry is written. -/
theorem journalWrite_put (s : State) (e : JEntry) (hb : s.journal.bootDue = false) (hr : s.journal.unexported < journalRing)
    (hh : journalHeld s = false) (hl : s.journal.lost = 0) : journalWrite s e = journalPut s e := by
  have b : bootEntry s = s := by unfold bootEntry; rw [hb]; rfl
  have g : gapEntry s = s := by unfold gapEntry; exact if_pos (.inl hl)
  unfold journalWrite
  rw [b, g]
  unfold journalPlace
  rw [if_neg (by omega), hh]
  rfl

/-! ## Retirement (18 R594 to R596) -/

theorem retire_stopped (s : State) (c : RetireCause) (h : s.powered = false) : retire s c = s := by
  unfold retire; rw [h]; rfl

theorem retire_phase (s : State) (c : RetireCause) (h : s.powered = true) : (retire s c).phase = .retired := by
  unfold retire; rw [if_pos h]

/-! ## Bytes -/

@[simp] theorem toBytes_length (n x : Nat) : (toBytes n x).length = n := by
  induction n generalizing x with
  | zero => rfl
  | succ n ih => simp [toBytes, ih]

@[simp] theorem readBytes_length (m : Bytes) (a n : Nat) : (readBytes m a n).length = n := by
  induction n generalizing a with
  | zero => rfl
  | succ n ih => simp [readBytes, ih]

@[simp] theorem entry_length (e : JEntry) : e.pack.length = 64 := toBytes_length _ _

theorem ofBytes_lt (bs : List Byte) : ofBytes bs < 256 ^ bs.length := by
  induction bs with
  | nil => simp [ofBytes]
  | cons b bs ih =>
    have := b.isLt
    simp only [ofBytes, List.length_cons, Nat.pow_succ]
    omega

end Sys2Proof.Machine
end

