-- ==== Sys2Proof/Laws/Der.lean ====
section
/-! SUPPORT. The certificates of the identity chain, whatever their open parts are: how long they can be (15 R518). -/

namespace Sys2Proof.Machine

open Sys2Proof

theorem derLength_length_le (n : Nat) : (derLength n).length ≤ 3 := by
  unfold derLength
  split
  · simp
  · split <;> simp [toBytesBE]

theorem der_length_le (tag : Nat) (bs : List Byte) : (der tag bs).length ≤ bs.length + 4 := by
  have := derLength_length_le bs.length
  simp only [der, List.length_append, List.length_cons]
  omega

theorem derSeq_length_le (ps : List (List Byte)) : (derSeq ps).length ≤ ps.flatten.length + 4 := der_length_le ..

theorem openPart_length_le (i : Nat) : (openPart i).length ≤ 64 := List.length_take_le _ _

@[simp] theorem toBytesBE_length (n x : Nat) : (toBytesBE n x).length = n := by simp [toBytesBE]

theorem derInt_length_le (n x : Nat) : (derInt n x).length ≤ n + 5 := by
  have := der_length_le 0x02 (0#8 :: toBytesBE n x)
  simpa [derInt] using this

theorem derBits_length_le (bs : List Byte) : (derBits bs).length ≤ bs.length + 5 := by
  have := der_length_le 0x03 (0#8 :: bs)
  simpa [derBits] using this

theorem spkiOf_length_le (i : Nat) : (spkiOf i).length ≤ 430 := by
  unfold spkiOf
  have h1 := derInt_length_le 384 (2 ^ 3071 + 2 * (Config.certModulus i % 2 ^ 3070) + 1)
  generalize derInt 384 (2 ^ 3071 + 2 * (Config.certModulus i % 2 ^ 3070) + 1) = n at h1 ⊢
  have h2 := der_length_le 0x02 [1#8, 0#8, 1#8]
  have h3 := derSeq_length_le [n, der 0x02 [1#8, 0#8, 1#8]]
  have h4 := derBits_length_le (derSeq [n, der 0x02 [1#8, 0#8, 1#8]])
  have h5 := derSeq_length_le [oidRsa]
  have h6 := derSeq_length_le [derSeq [oidRsa], derBits (derSeq [n, der 0x02 [1#8, 0#8, 1#8]])]
  have h7 : oidRsa.length = 13 := rfl
  simp only [List.flatten_cons, List.flatten_nil, List.append_nil, List.length_append, List.length_cons, List.length_nil] at *
  omega

/-- A certificate is at most 1,200 bytes longer than its names and its own extension. -/
theorem certOf_length_le (i : Nat) (issuer subject : List Byte) (key : Nat) (ext : List Byte) :
    (certOf i issuer subject key ext).length ≤ issuer.length + subject.length + ext.length + 1200 := by
  unfold certOf
  have a := derSeq_length_le [openPart (i + 1)]
  have v := der_length_le 0xA0 [0x02#8, 1#8, 2#8]
  have n := derInt_length_le 16 (ofBytes (openPart i))
  have w := derSeq_length_le [openPart (i + 2)]
  have k := spkiOf_length_le key
  have e := derSeq_length_le [openPart (i + 3), ext]
  have x := der_length_le 0xA3 (derSeq [openPart (i + 3), ext])
  have g := derBits_length_le (toBytesBE 384 (Config.certModulus (i + 4)))
  have p1 := openPart_length_le (i + 1)
  have p2 := openPart_length_le (i + 2)
  have p3 := openPart_length_le (i + 3)
  generalize derSeq [openPart (i + 1)] = alg at a ⊢
  generalize der 0xA0 [0x02#8, 1#8, 2#8] = ver at v ⊢
  generalize derInt 16 (ofBytes (openPart i)) = num at n ⊢
  generalize derSeq [openPart (i + 2)] = val at w ⊢
  generalize spkiOf key = spki at k ⊢
  generalize der 0xA3 (derSeq [openPart (i + 3), ext]) = exts at x ⊢
  generalize derBits (toBytesBE 384 (Config.certModulus (i + 4))) = sig at g ⊢
  have t := derSeq_length_le [ver, num, alg, issuer, val, subject, spki, exts]
  have c := derSeq_length_le [derSeq [ver, num, alg, issuer, val, subject, spki, exts], alg, sig]
  simp only [List.flatten_cons, List.flatten_nil, List.append_nil, List.length_append, List.length_cons, List.length_nil,
    toBytesBE_length] at *
  omega

theorem volhaicName_length_le (i : Nat) : (volhaicName i).length ≤ 68 := by
  have h := derSeq_length_le [openPart i]
  have p := openPart_length_le i
  simp only [List.flatten_cons, List.flatten_nil, List.append_nil] at h
  unfold volhaicName
  omega

theorem nameAttr_length_le (k : Nat) (text : List Byte) : (nameAttr k text).length ≤ text.length + 19 := by
  have a := der_length_le 0x06 [0x55#8, 4#8, BitVec.ofNat 8 k]
  have t := der_length_le 0x13 text
  have s := derSeq_length_le [der 0x06 [0x55#8, 4#8, BitVec.ofNat 8 k], der 0x13 text]
  have d := der_length_le 0x31 (derSeq [der 0x06 [0x55#8, 4#8, BitVec.ofNat 8 k], der 0x13 text])
  simp only [List.flatten_cons, List.flatten_nil, List.append_nil, List.length_append, List.length_cons, List.length_nil] at *
  unfold nameAttr
  omega

theorem deviceSubject_length_le (serial grade : Nat) : (deviceSubject serial grade).length ≤ 60 := by
  unfold deviceSubject
  have a := nameAttr_length_le 5 ((List.range 16).map (fun i => hexDigit (bits serial (63 - 4 * i) (60 - 4 * i))))
  have b := nameAttr_length_le 11 [hexDigit (grade % 16)]
  generalize nameAttr 5 _ = x at a ⊢
  generalize nameAttr 11 _ = y at b ⊢
  have s := derSeq_length_le [x, y]
  simp only [List.flatten_cons, List.flatten_nil, List.append_nil, List.length_append, List.length_cons, List.length_nil,
    List.length_map, List.length_range] at *
  omega

theorem provisioningExt_length_le : provisioningExt.length ≤ 470 := by
  unfold provisioningExt
  have a := der_length_le 0x06 (openPart 16)
  have p := openPart_length_le 16
  have b := der_length_le 0x04 (toBytesBE 384 (2 ^ 3071 + 2 * (Config.certModulus 16 % 2 ^ 3070) + 1))
  generalize der 0x06 (openPart 16) = x at a ⊢
  rw [toBytesBE_length] at b
  generalize der 0x04 (toBytesBE 384 (2 ^ 3071 + 2 * (Config.certModulus 16 % 2 ^ 3070) + 1)) = y at b ⊢
  have s := derSeq_length_le [x, y]
  simp only [List.flatten_cons, List.flatten_nil, List.append_nil, List.length_append] at *
  omega

/-- With it a quote stays within 6,144 bytes, 644 of them before the chain. -/
theorem identityChain_length_le (serial grade : Nat) : (identityChain serial grade).length ≤ 5500 := by
  have a := certOf_length_le 0 (volhaicName 20) (deviceSubject serial grade) 0 provisioningExt
  have b := certOf_length_le 8 (volhaicName 21) (volhaicName 20) 1 []
  have v0 := volhaicName_length_le 20
  have v1 := volhaicName_length_le 21
  have d := deviceSubject_length_le serial grade
  have p := provisioningExt_length_le
  simp only [identityChain, List.length_append, List.length_nil] at *
  omega

end Sys2Proof.Machine
end

