-- ==== Sys2Proof/Laws/Frames.lean ====
section
/-! SUPPORT. What the shared operations of memory and coherence may change: each leaves everything but the parts that
`CoherenceFrame` names, or stops the running of the node (09 R303, 08 R274) and leaves the formes but for their counters. -/

namespace Sys2Proof.Machine

open Sys2Proof

theorem OnlyCounters.refl (s : State) : OnlyCounters s s := fun _ => rfl

theorem OnlyCounters.trans {s t u : State} (h : OnlyCounters s t) (k : OnlyCounters t u) : OnlyCounters s u :=
  fun f => (k f).trans (h f)

theorem OnlyCounters.forme {s t : State} (h : OnlyCounters s t) {f : Nat} {x : Forme} (hx : getForme s f = some x) :
    ∃ y, getForme t f = some y ∧ uncounted y = uncounted x := by
  have := h f
  rw [hx, Option.map_some, Option.map_eq_some_iff] at this
  exact this

/-- Only the parts of memory and coherence differ, or the node no longer runs. -/
def Within (s t : State) : Prop :=
  CoherenceFrame s t ∨ (s.powered = true ∧ t.powered = false ∧ OnlyCounters s t)

/-- Of a forme only the counters may differ. -/
theorem Within.counters {s t : State} (h : Within s t) : OnlyCounters s t := h.elim (·.2.1) (·.2.2)

theorem CoherenceFrame.refl (s : State) : CoherenceFrame s s := ⟨rfl, fun _ => rfl, fun _ => rfl⟩

theorem CoherenceFrame.trans {s t u : State} (h : CoherenceFrame s t) (k : CoherenceFrame t u) : CoherenceFrame s u := by
  refine ⟨?_, fun f => (k.2.1 f).trans (h.2.1 f), fun f => (k.2.2 f).trans (h.2.2 f)⟩
  rw [k.1, h.1]

theorem CoherenceFrame.phase {s t : State} (h : CoherenceFrame s t) : t.phase = s.phase := by rw [h.1]

theorem CoherenceFrame.powered {s t : State} (h : CoherenceFrame s t) : t.powered = s.powered := by
  simp [State.powered, h.phase]

theorem Within.refl (s : State) : Within s s := .inl (.refl s)

theorem Within.trans {s t u : State} (h : Within s t) (k : Within t u) : Within s u := by
  rcases h with h | h
  · rcases k with k | k
    · exact .inl (h.trans k)
    · exact .inr ⟨h.powered ▸ k.1, k.2.1, h.2.1.trans k.2.2⟩
  · rcases k with k | k
    · exact .inr ⟨h.1, k.powered.trans h.2.1, h.2.2.trans k.2.1⟩
    · have := k.1; simp [h.2.1] at this

theorem Within.frame {s t : State} (h : Within s t) (hp : t.phase = s.phase) : CoherenceFrame s t := by
  rcases h with h | h
  · exact h
  · have := h.2.1; simp [State.powered, hp] at this; have := h.1; simp_all [State.powered]

theorem Within.foldl {α : Type} (f : State → α → State) (hf : ∀ s a, Within s (f s a)) (l : List α) (s : State) :
    Within s (l.foldl f s) := by
  induction l generalizing s with
  | nil => exact .refl s
  | cons a l ih => exact (hf s a).trans (ih (f s a))

theorem Within.of {s y t : State} (h : Within s y) (k : CoherenceFrame y t) : Within s t := h.trans (.inl k)

/-- An update of the parts named, of the formes and harts apart. -/
theorem Within.upd {s y : State} (h : Within s y) (mem : Bytes) (poison : SMap Unit) (errors : SMap (List (Nat × Byte)))
    (stackTab : SMap Stack) (absentRing : Ring) (homeFull : SMap Nat) (loose : Counters) (free : Nat) (lines : SMap Line)
    (dir : SMap DirEntry) (dirAge : Nat)
    (txns : SMap Txn) (suspects : List Nat) (timedOut : SMap Nat) (streams : SMap Stream) (gut : Gutter) (recent : SMap Nat) :
    Within s { y with mem := mem, poison := poison, errors := errors, stackTab := stackTab, absentRing := absentRing,
                      homeFull := homeFull, loose := loose, free := free, lines := lines, dir := dir,
                      dirAge := dirAge, txns := txns, suspects := suspects, timedOut := timedOut, streams := streams, gut := gut, recent := recent } :=
  h.of ⟨rfl, fun _ => rfl, fun _ => rfl⟩

/-! ## Counters and the end of running -/

theorem map_mapMod {α β : Type} (m : SMap α) (i : Nat) (f : α → α) (g : α → β) (hg : ∀ x, g (f x) = g x) (k : Nat) :
    (mapGet (mapMod m i f) k).map g = (mapGet m k).map g := by
  unfold mapMod
  cases h : mapGet m i with
  | none => rfl
  | some v =>
    simp only [mapGet_mapSet]
    split
    · rename_i h'; subst h'; simp [h, hg]
    · rfl

theorem drawn_within (s : State) : Within s s.drawn := .inl ⟨rfl, fun _ => rfl, fun _ => rfl⟩

/-- Adding to a counter changes the counters of one forme, or of what no forme did. -/
theorem countFor_frame (s : State) (f : Option Nat) (c : Ctr) (n : Nat) :
    countFor s f c n = { s with formes := (countFor s f c n).formes, loose := (countFor s f c n).loose } ∧
      OnlyCounters s (countFor s f c n) := by
  unfold countFor
  split
  · refine ⟨rfl, fun k => ?_⟩
    exact map_mapMod s.formes _ (fun x => { x with counters := ctrAdd x.counters c n }) uncounted (fun _ => rfl) k
  · exact ⟨rfl, fun _ => rfl⟩

theorem countFor_within (s : State) (f : Option Nat) (c : Ctr) (n : Nat) : Within s (countFor s f c n) := by
  refine .inl ⟨?_, (countFor_frame s f c n).2, fun k => ?_⟩
  · rw [(countFor_frame s f c n).1]
  · rw [(countFor_frame s f c n).1]

theorem journalWrite_formes (s : State) (e : JEntry) : (journalWrite s e).formes = s.formes := by rw [journalWrite_frame]

theorem coldEntry_formes (s : State) : (coldEntry s).formes = s.formes := journalWrite_formes ..

theorem powerOffStacks_formes (s : State) : (powerOffStacks s).formes = s.formes := rfl

theorem powerOffDies_formes (s : State) : (powerOffDies s).formes = s.formes := rfl

theorem alert_formes (s : State) (code : Nat) (extra : List Byte) : (alert s code extra).formes = s.formes := rfl

theorem idlePorts_formes (s : State) : (idleMeshPorts (idleHostPorts s)).formes = s.formes := rfl

/-- Retirement leaves the formes as they are (18 R595). -/
theorem retire_formes (s : State) (c : RetireCause) : (retire s c).formes = s.formes := by
  unfold retire
  split
  · simp only [powerOffStacks_formes, powerOffDies_formes, alert_formes, journalWrite_formes]
    split <;> simp only [coldEntry_formes, idlePorts_formes]
  · rfl

theorem retire_within (s : State) (c : RetireCause) : Within s (retire s c) := by
  by_cases h : s.powered = true
  · refine .inr ⟨h, ?_, fun f => ?_⟩
    · unfold retire; rw [if_pos h]; rfl
    · unfold getForme; rw [retire_formes]
  · unfold retire; rw [if_neg h]; exact .refl s

theorem loseCompositorA_within (s : State) : Within s (loseCompositorA s) := by
  unfold loseCompositorA
  split
  · rename_i h; exact .inr ⟨h, rfl, fun _ => rfl⟩
  · exact .refl _

/-- Only reservations differ where every hart is mapped so. -/
theorem reservations_map (m : SMap Hart) (g : Nat × Hart → Hart) (hg : ∀ kv, unreserved (g kv) = unreserved kv.2) (k : Nat) :
    (mapGet (m.map (fun kv => (kv.1, g kv))) k).map unreserved = (mapGet m k).map unreserved := by
  induction m with
  | nil => rfl
  | cons x r ih => simp only [List.map_cons, mapGet]; split <;> simp_all

theorem dropLine_within (s : State) (agent ln : Nat) : Within s (dropLine s agent ln) := by
  unfold dropLine
  dsimp only
  split
  · refine .inl ⟨rfl, fun _ => rfl, fun k => reservations_map _ _ (fun kv => ?_) k⟩
    split <;> rfl
  · exact .upd (.refl s) ..

theorem breakResv_within (s : State) (agent ln : Nat) (writer : Option Nat) :
    Within s (breakResv s agent ln writer) := by
  unfold breakResv
  split
  · refine .inl ⟨rfl, fun _ => rfl, fun k => reservations_map _ _ (fun kv => ?_) k⟩
    split <;> rfl
  · exact .refl s

/-- A choice between two updates. -/
theorem Within.ite {c : Prop} [Decidable c] {s a b : State} (ha : c → Within s a) (hb : ¬c → Within s b) :
    Within s (if c then a else b) := by
  split
  · exact ha ‹_›
  · exact hb ‹_›

/-! ## Agents that fail -/

theorem agentFails_within (s : State) (a : Nat) : Within s (agentFails s a) := by
  unfold agentFails
  repeat' first
    | with_reducible exact Within.refl _ | with_reducible refine Within.trans ?_ (drawn_within ..)
    | with_reducible refine Within.trans ?_ (retire_within ..)
    | with_reducible refine Within.trans ?_ (loseCompositorA_within ..) | dsimp only | split
    | with_reducible refine Within.upd ?_ ..

/-! ## Memory (08) -/

theorem modStack_within (s : State) (k : Nat) (g : Stack → Stack) : Within s (modStack s k g) := by
  unfold modStack
  repeat' first
    | with_reducible exact Within.refl _ | dsimp only | split | with_reducible refine Within.upd ?_ ..

theorem memRecord_within (s : State) (pa kind symbols source lanes : Nat) :
    Within s (memRecord s pa kind symbols source lanes) := by
  unfold memRecord
  repeat' first
    | with_reducible exact Within.refl _ | with_reducible refine Within.trans ?_ (modStack_within ..) | dsimp only
    | split | with_reducible refine Within.upd ?_ ..

theorem modPch_within (s : State) (k p : Nat) (g : Pch → Pch) : Within s (modPch s k p g) := by
  unfold modPch
  repeat' first
    | with_reducible exact Within.refl _ | with_reducible refine Within.trans ?_ (modStack_within ..) | dsimp only
    | split | with_reducible refine Within.upd ?_ ..

theorem poisonSector_within (s : State) (pa : Nat) : Within s (poisonSector s pa) := by
  have h : Within s (if isPoisoned s pa then s else countFor s (formeOfStack s (paStack pa)) .memPoisonSet 1) :=
    .ite (fun _ => .refl s) fun _ => countFor_within ..
  exact .upd (h.trans (modPch_within ..)) ..

theorem memSlot_within (s : State) (pa : Nat) (prio write : Bool) : Within s (memSlot s pa prio write) := by
  unfold memSlot
  repeat' first
    | with_reducible exact Within.refl _ | with_reducible refine Within.trans ?_ (modPch_within ..)
    | with_reducible refine Within.trans ?_ (countFor_within ..) | dsimp only | split
    | with_reducible refine Within.upd ?_ ..

theorem laneMove_within (s : State) (k p lane pa : Nat) : Within s (laneMove s k p lane pa) := by
  unfold laneMove
  repeat' first
    | with_reducible exact Within.refl _ | with_reducible refine Within.trans ?_ (modStack_within ..)
    | with_reducible refine Within.trans ?_ (retire_within ..) | dsimp only | split
    | with_reducible refine Within.upd ?_ ..

theorem laneDone_within (s : State) (k lane pa source : Nat) : Within s (laneDone s k lane pa source) := by
  unfold laneDone
  repeat' first
    | with_reducible exact Within.refl _ | with_reducible refine Within.trans ?_ (memRecord_within ..)
    | with_reducible refine Within.trans ?_ (countFor_within ..) | dsimp only | split
    | with_reducible refine Within.upd ?_ ..

theorem laneToSpare_within (s : State) (k p lane pa source : Nat) :
    Within s (laneToSpare s k p lane pa source) := by
  unfold laneToSpare
  repeat' first
    | with_reducible exact Within.refl _ | with_reducible refine Within.trans ?_ (laneDone_within ..)
    | with_reducible refine Within.trans ?_ (laneMove_within ..) | dsimp only | split
    | with_reducible refine Within.upd ?_ ..

theorem readFails_within (s : State) (pa kind symbols source : Nat) :
    Within s (readFails s pa kind symbols source).1 := by
  have h : Within s (if isPoisoned s pa then s else poisonSector s pa) :=
    .ite (fun _ => .refl s) fun _ => poisonSector_within ..
  unfold readFails
  dsimp only
  split
  · exact (h.trans (drawn_within _)).trans (memRecord_within ..)
  · exact h.trans (memRecord_within ..)

theorem setErrors_within (s : State) (pa : Nat) (p : List (Nat × Nat)) : Within s (setErrors s pa p) := by
  unfold setErrors
  repeat' first
    | with_reducible exact Within.refl _ | dsimp only | split | with_reducible refine Within.upd ?_ ..

theorem readTag_within (s : State) (pa source : Nat) (fixed left : List (Nat × Nat)) :
    Within s (readTag s pa source fixed left).1 := by
  unfold readTag
  repeat' first
    | with_reducible exact Within.refl _ | with_reducible refine Within.trans ?_ (setErrors_within ..)
    | with_reducible refine Within.trans ?_ (readFails_within ..)
    | with_reducible refine Within.trans ?_ (memRecord_within ..)
    | with_reducible refine Within.trans ?_ (countFor_within ..) | dsimp only | split
    | with_reducible refine Within.upd ?_ ..

theorem readDecode_within (s : State) (pa source : Nat) : Within s (readDecode s pa source).1 := by
  unfold readDecode
  repeat' first
    | with_reducible exact Within.refl _ | with_reducible refine Within.trans ?_ (readTag_within ..)
    | with_reducible refine Within.trans ?_ (readFails_within ..) | dsimp only | split
    | with_reducible refine Within.upd ?_ ..

theorem sectorRead_within (source : Nat) (prio : Bool) (pa : Nat) (s : State) :
    Within s (sectorRead source prio pa s).1 := by
  unfold sectorRead
  repeat' first
    | with_reducible exact Within.refl _ | with_reducible refine Within.trans ?_ (readDecode_within ..)
    | with_reducible refine Within.trans ?_ (laneToSpare_within ..)
    | with_reducible refine Within.trans ?_ (memSlot_within ..) | dsimp only | split
    | with_reducible refine Within.upd ?_ ..

theorem writeWhole_within (s : State) (pa : Nat) (data : List Byte) : Within s (writeWhole s pa data) := by
  unfold writeWhole
  repeat' first
    | with_reducible exact Within.refl _ | dsimp only | split | with_reducible refine Within.upd ?_ ..

theorem burst_within (s : State) (pa : Nat) (data : List Byte) : Within s (burst s pa data) := by
  unfold burst
  repeat' first
    | with_reducible exact Within.refl _ | with_reducible refine Within.trans ?_ (writeWhole_within ..)
    | with_reducible refine Within.trans ?_ (memSlot_within ..)
    | with_reducible refine Within.trans ?_ (modPch_within ..) | dsimp only | split
    | with_reducible refine Within.upd ?_ ..

theorem mergeWrite_within (s : State) (pa mask : Nat) (data : List Byte) : Within s (mergeWrite s pa mask data) := by
  unfold mergeWrite
  repeat' first
    | with_reducible exact Within.refl _ | with_reducible refine Within.trans ?_ (burst_within ..)
    | with_reducible refine Within.trans ?_ (readDecode_within ..) | dsimp only | split
    | with_reducible refine Within.upd ?_ ..

theorem sectorWrite_within (pa mask : Nat) (data : List Byte) (s : State) : Within s (sectorWrite pa mask data s) := by
  have h := memSlot_within s pa false false
  refine .ite (fun _ => burst_within ..) fun _ => ?_
  dsimp only
  generalize memSlot s pa false false = u at h ⊢
  cases laneDead u pa with
  | some lane => exact (h.trans (laneToSpare_within ..)).trans (mergeWrite_within ..)
  | none => exact h.trans (mergeWrite_within ..)

theorem noteRefusal_within (s : State) (k : Nat) : Within s (noteRefusal s k) := by
  unfold noteRefusal
  dsimp only
  cases mapGet s.homeFull (k / 2) with
  | none => exact .ite (fun _ => .upd (.refl s) ..) fun _ => .refl s
  | some t => exact .ite (fun _ => .refl s) fun _ => (Within.upd (.refl s) ..).trans (countFor_within ..)

theorem letIn_within (s : State) (k p : Nat) : Within s (letIn s k p) := by
  unfold letIn
  split
  · exact (modPch_within ..).trans (noteRefusal_within ..)
  · exact .refl s

theorem serve_within (s : State) (r : MemReq) : Within s (serve s r) := by
  unfold serve
  repeat' first
    | with_reducible exact Within.refl _ | with_reducible refine Within.trans ?_ (sectorWrite_within ..)
    | with_reducible refine Within.trans ?_ (sectorRead_within ..) | dsimp only | split
    | with_reducible refine Within.upd ?_ ..

theorem serveFor_within (n : Nat) (s : State) (k p : Nat) : Within s (serveFor n s k p) := by
  induction n generalizing s with
  | zero => exact .refl s
  | succ n ih =>
    unfold serveFor
    split
    · exact .refl s
    · exact (((modPch_within ..).trans (letIn_within ..)).trans (serve_within ..)).trans (ih _)

theorem serveQueue_within (s : State) (k p : Nat) : Within s (serveQueue s k p) := by
  unfold serveQueue
  repeat' first
    | with_reducible exact Within.refl _ | with_reducible refine Within.trans ?_ (serveFor_within ..) | dsimp only
    | split | with_reducible refine Within.upd ?_ ..

theorem enqueue_within (s : State) (r : MemReq) : Within s (enqueue s r) :=
  (modPch_within ..).trans (noteRefusal_within ..)

theorem serveBefore_within (n : Nat) (s : State) (k p : Nat) (r : MemReq) : Within s (serveBefore n s k p r) := by
  induction n generalizing s with
  | zero => exact .refl s
  | succ n ih =>
    unfold serveBefore
    split
    · exact .refl s
    · rename_i x _
      have h := (modPch_within s k p (fun c => { c with queue := c.queue.erase x })).trans (letIn_within _ k p)
      exact .ite (fun _ => h) fun _ => (h.trans (serve_within ..)).trans (ih _)

/-- An access that takes its turn changes what its own act and the queue change. -/
theorem inTurn_within {α : Type} (s : State) (r : MemReq) (act : State → State × α) (h : ∀ u, Within u (act u).1) :
    Within s (inTurn s r act).1 := by
  unfold inTurn
  dsimp only
  split
  · exact h s
  · exact (((enqueue_within ..).trans (serveBefore_within ..)).trans (h _)).trans (serveQueue_within ..)

theorem heldPa_within (s : State) (k p : Nat) : Within s (heldPa s k p).1 := by
  unfold heldPa
  repeat' first
    | with_reducible exact Within.refl _ | with_reducible refine Within.trans ?_ (drawn_within ..) | dsimp only
    | split | with_reducible refine Within.upd ?_ ..

theorem reissue_within (s : State) (k p : Nat) : Within s (reissue s k p) :=
  (modPch_within ..).trans (Within.foldl _ (fun _ _ => writeWhole_within ..) _ _)

theorem goOn_within (s : State) (k p : Nat) (held : Option MemReq) : Within s (goOn s k p held) := by
  have h := (modPch_within s k p Pch.sound).trans (reissue_within _ k p)
  cases held with
  | none => exact h
  | some r => exact h.trans (serve_within ..)

theorem endRecovery_within (s : State) (k p lane : Nat) : Within s (endRecovery s k p lane) :=
  ((heldPa_within ..).trans (laneDone_within ..)).trans (goOn_within ..)

theorem serveFree_within (k : Nat) (s : State) (p : Nat) : Within s (serveFree k s p) :=
  .ite (fun _ => .refl s) fun _ => serveQueue_within ..

theorem wakeStack_within (s : State) (k : Nat) (but : Option Nat) : Within s (wakeStack s k but) :=
  .ite (fun _ => (modStack_within ..).trans (Within.foldl _ (fun _ _ => serveFree_within ..) _ _)) fun _ => .refl s

theorem recoverLane_within (s : State) (k p : Nat) : Within s (recoverLane s k p) := by
  unfold recoverLane
  cases (getPch s k p).recovering with
  | none => exact .refl s
  | some lane =>
    refine .ite (fun _ => endRecovery_within ..) fun _ => ?_
    have h := (heldPa_within s k p).trans (laneMove_within _ k p lane (heldPa s k p).2)
    exact .ite (fun _ => h.trans (endRecovery_within ..)) fun _ => h

theorem unblock_within (s : State) (k p : Nat) : Within s (unblock s k p) :=
  (wakeStack_within ..).trans (recoverLane_within ..)

theorem homeRead_within (source : Nat) (prio : Bool) (pa : Nat) (s : State) :
    Within s (homeRead source prio pa s).1 := by
  unfold homeRead
  split
  · exact memRecord_within ..
  · exact (unblock_within ..).trans (inTurn_within _ _ _ fun _ => sectorRead_within ..)

theorem writeInTurn_within (pa mask : Nat) (data : List Byte) (act : State → State) (s : State)
    (h : ∀ u, Within u (act u)) : Within s (writeInTurn pa mask data act s) :=
  (unblock_within ..).trans (inTurn_within _ _ _ h)

theorem homeWrite_within (pa mask : Nat) (data : List Byte) (s : State) : Within s (homeWrite pa mask data s) :=
  .ite (fun _ => (drawn_within s).trans (memRecord_within ..))
    fun _ => writeInTurn_within _ _ _ _ _ fun _ => sectorWrite_within ..

theorem poisonBurst_within (s : State) (pa : Nat) : Within s (poisonBurst s pa) :=
  (memSlot_within ..).trans (poisonSector_within ..)

theorem homeWriteSector_within (pa : Nat) (poisoned : Bool) (data : List Byte) (s : State) :
    Within s (homeWriteSector pa poisoned data s) :=
  .ite (fun _ => .ite (fun _ => (drawn_within s).trans (memRecord_within ..))
    fun _ => writeInTurn_within _ _ _ _ _ fun _ => poisonBurst_within ..) fun _ => homeWrite_within ..

theorem homeReadLine_within (prio : Bool) (pa : Nat) (s : State) : Within s (homeReadLine prio pa s).1 := by
  unfold homeReadLine
  split
  · exact memRecord_within ..
  · exact (homeRead_within ..).trans (homeRead_within ..)

theorem homeWriteLine_within (pa : Nat) (d : LineData) (s : State) : Within s (homeWriteLine pa d s) := by
  unfold homeWriteLine
  repeat' first
    | with_reducible exact Within.refl _ | with_reducible refine Within.trans ?_ (homeWriteSector_within ..)
    | dsimp only | split | with_reducible refine Within.upd ?_ ..

/-! ## The Gutter (01) -/

theorem gutMessage_within (s : State) (f : Option Nat) (src dst : Nat) (bulk : Bool) (kind bytes : Nat) :
    Within s (gutMessage s f src dst bulk kind bytes) := .upd (.refl s) ..

theorem carryRequest_within (s : State) (ln : Nat) (r : Req) : Within s (carryRequest s ln r) := .upd (.refl s) ..

theorem launchRequest_within (s : State) (ln : Nat) (r : Req) : Within s (launchRequest s ln r) := .upd (.refl s) ..

theorem parkRequest_within (s t : State) (h : parkRequest s = some t) : Within s t := by
  obtain ⟨q, -, rfl⟩ := Option.map_eq_some_iff.mp h
  exact .upd (.refl s) ..

theorem parkRequests_within (n : Nat) (s : State) : Within s (parkRequests n s) := by
  induction n generalizing s with
  | zero => exact .refl s
  | succ n ih =>
    unfold parkRequests
    split
    · exact (parkRequest_within _ _ ‹_›).trans (ih _)
    · exact .refl s

theorem arrivedRequest_within (s : State) (x : State × Nat × Req) (h : arrivedRequest s = some x) : Within s x.1 := by
  obtain ⟨q, -, rfl⟩ := Option.map_eq_some_iff.mp h
  exact .upd (parkRequests_within ..) ..

/-! ## Lines and the directory (09) -/

theorem setLine_within (s : State) (agent ln : Nat) (l : Line) : Within s (setLine s agent ln l) := by
  unfold setLine
  repeat' first
    | with_reducible exact Within.refl _ | dsimp only | split | with_reducible refine Within.upd ?_ ..

theorem dirPut_within (s : State) (ln : Nat) (st : DirState) (owner : Nat) (holders : List Nat) :
    Within s (dirPut s ln st owner holders) := by
  unfold dirPut
  repeat' first
    | with_reducible exact Within.refl _ | with_reducible refine Within.trans ?_ (drawn_within ..) | dsimp only
    | split | with_reducible refine Within.upd ?_ ..

theorem dirClear_within (s : State) (ln agent : Nat) : Within s (dirClear s ln agent) := by
  unfold dirClear
  repeat' first
    | with_reducible exact Within.refl _ | with_reducible refine Within.trans ?_ (dirPut_within ..) | dsimp only
    | split | with_reducible refine Within.upd ?_ ..

theorem caseCtr_within (s : State) (agent : Nat) (c : Ctr) (n : Nat) : Within s (caseCtr s agent c n) := by
  unfold caseCtr
  repeat' first
    | with_reducible exact Within.refl _ | with_reducible refine Within.trans ?_ (countFor_within ..) | dsimp only
    | split | with_reducible refine Within.upd ?_ ..

theorem caseCheck_within (s : State) (agent ln : Nat) (prio : Bool) : Within s (caseCheck s agent ln prio) := by
  unfold caseCheck
  cases getLine s agent ln with
  | none => exact .refl s
  | some l =>
    have d := drawn_within s
    refine .ite (fun _ => .refl s) fun _ => .ite (fun _ => d.trans (setLine_within ..)) fun _ => ?_
    refine .ite (fun _ => (d.trans (caseCtr_within ..)).trans (setLine_within ..)) fun _ => ?_
    refine .ite (fun _ => (d.trans (setLine_within ..)).trans (memRecord_within ..)) fun _ => ?_
    exact .ite (fun _ => (d.trans (homeReadLine_within ..)).trans (setLine_within ..)) fun _ => dropLine_within ..

theorem countNp_within (s : State) (ln : Nat) : Within s (countNp s ln) := by
  unfold countNp
  repeat' first
    | with_reducible exact Within.refl _ | with_reducible refine Within.trans ?_ (countFor_within ..) | dsimp only
    | split | with_reducible refine Within.upd ?_ ..

theorem purgeOne_within (ln : Nat) (s : State) (a : Nat) : Within s (purgeOne ln s a) := by
  have h := (gutMessage_within s (lineForme s ln) (lineHome ln) a false 1 0).trans (caseCheck_within _ a ln false)
  unfold purgeOne
  dsimp only
  generalize caseCheck (gutMessage s (lineForme s ln) (lineHome ln) a false 1 0) a ln false = u at h ⊢
  cases getLine u a ln with
  | none => exact (h.trans (gutMessage_within ..)).trans (countNp_within ..)
  | some l =>
    dsimp only
    have g := h.trans (gutMessage_within u (lineForme s ln) a (lineHome ln) (l.st == .m || l.st == .o)
      (if (l.st == .m || l.st == .o) = true then 5 else 6) (if (l.st == .m || l.st == .o) = true then 128 else 0))
    generalize gutMessage u (lineForme s ln) a (lineHome ln) (l.st == .m || l.st == .o)
      (if (l.st == .m || l.st == .o) = true then 5 else 6) (if (l.st == .m || l.st == .o) = true then 128 else 0) = v at g ⊢
    refine .ite (fun _ => g.trans (countNp_within ..)) fun _ => ?_
    exact .ite (fun _ => (g.trans (dropLine_within ..)).trans (homeWriteLine_within ..)) fun _ => g.trans (dropLine_within ..)

theorem purgeLine_within (s : State) (ln : Nat) (agents : List Nat) : Within s (purgeLine s ln agents) :=
  Within.foldl _ (fun _ _ => purgeOne_within ..) _ _

theorem dirRepair_within (s : State) (ln : Nat) : Within s (dirRepair s ln) := by
  unfold dirRepair
  cases mapGet s.dir ln with
  | none => exact .refl s
  | some e => exact .ite (fun _ => (Within.upd (purgeLine_within ..) ..).trans (countFor_within ..)) fun _ => .refl s

theorem dirEvict_within (s : State) (v : Nat × DirEntry) : Within s (dirEvict s v) :=
  .ite (fun _ => dirRepair_within ..) fun _ => (Within.upd (purgeLine_within ..) ..).trans (countFor_within ..)

theorem dirRoom_within (s : State) (ln : Nat) : Within s (dirRoom s ln) := by
  unfold dirRoom
  refine .ite (fun _ => .refl s) fun _ => ?_
  have h := Within.foldl (fun s (kv : Nat × DirEntry) => dirRepair s kv.1) (fun _ _ => dirRepair_within ..)
    ((dirSetOf s ln).filter (fun kv => (getTxn s kv.1).isNone)) s
  dsimp only
  generalize ((dirSetOf s ln).filter (fun kv => (getTxn s kv.1).isNone)).foldl
    (fun s (kv : Nat × DirEntry) => dirRepair s kv.1) s = u at h ⊢
  refine .ite (fun _ => h) fun _ => ?_
  split
  · exact h
  · exact h.trans (dirEvict_within ..)

theorem dirEnter_within (s : State) (ln : Nat) (st : DirState) (owner : Nat) (holders : List Nat) :
    Within s (dirEnter s ln st owner holders) := by
  have h : Within s (if holders.isEmpty then s else dirRoom s ln) := .ite (fun _ => .refl s) fun _ => dirRoom_within ..
  exact h.trans (dirPut_within ..)

theorem dirReserve_within (s : State) (ln agent : Nat) : Within s (dirReserve s ln agent) :=
  .ite (fun _ => .refl s) fun _ => dirEnter_within ..

theorem dirAdd_within (s : State) (ln agent : Nat) : Within s (dirAdd s ln agent) := by
  unfold dirAdd
  split
  · exact dirEnter_within ..
  · exact dirPut_within ..

theorem dirOwned_within (s : State) (ln agent : Nat) (t : Txn) : Within s (dirOwned s ln agent t) := dirEnter_within ..

/-! ## Transactions (09) -/

theorem putTxn_within (s : State) (ln : Nat) (t : Option Txn) : Within s (putTxn s ln t) := by
  unfold putTxn
  repeat' first
    | with_reducible exact Within.refl _ | dsimp only | split | with_reducible refine Within.upd ?_ ..

theorem setTxn_within (s : State) (ln : Nat) (t : Txn) : Within s (setTxn s ln t) := by
  unfold setTxn
  repeat' first
    | with_reducible exact Within.refl _ | with_reducible refine Within.trans ?_ (putTxn_within ..) | dsimp only
    | split | with_reducible refine Within.upd ?_ ..

theorem grantData_within (s : State) (ln : Nat) (t : Txn) (g : GrantKind) : Within s (grantData s ln t g) := by
  unfold grantData
  repeat' first
    | with_reducible exact Within.refl _ | with_reducible refine Within.trans ?_ (setTxn_within ..)
    | with_reducible refine Within.trans ?_ (homeReadLine_within ..) | dsimp only | split
    | with_reducible refine Within.upd ?_ ..

theorem performed_within (s : State) (ln : Nat) (t : Txn) : Within s (performed s ln t) := by
  unfold performed
  repeat' first
    | with_reducible exact Within.refl _ | with_reducible refine Within.trans ?_ (setTxn_within ..) | dsimp only
    | split | with_reducible refine Within.upd ?_ ..

theorem finishWrite_within (s : State) (ln : Nat) (t : Txn) (data : List Byte) : Within s (finishWrite s ln t data) :=
  ((homeWriteLine_within ..).trans (dirEnter_within ..)).trans (performed_within ..)

theorem dropHint_within (s : State) (ln : Nat) : Within s (dropHint s ln) := by
  unfold dropHint
  repeat' first
    | with_reducible exact Within.refl _ | with_reducible refine Within.trans ?_ (countFor_within ..) | dsimp only
    | split | with_reducible refine Within.upd ?_ ..

theorem pushLine_within (s : State) (ln : Nat) (t : Txn) (target : Nat) (data : List Byte) :
    Within s (pushLine s ln t target data) :=
  (dirOwned_within ..).trans (setTxn_within ..)

theorem mergeHalf_within (ln mask : Nat) (data : List Byte) (dirty : Option (List Byte × Bool × Bool)) (s : State) (o : Nat) :
    Within s (mergeHalf ln mask data dirty s o) := by
  cases dirty with
  | none => exact .ite (fun _ => .refl s) fun _ => homeWrite_within ..
  | some d => exact .ite (fun _ => homeWriteSector_within ..) fun _ => (homeWriteSector_within ..).trans (homeWrite_within ..)

theorem homeProceed_within (s : State) (ln : Nat) : Within s (homeProceed s ln) := by
  unfold homeProceed
  cases getTxn s ln with
  | none => exact .refl s
  | some t =>
    refine .ite (fun _ => .refl s) fun _ => ?_
    dsimp only
    cases t.req.kind with
    | rdShared => exact .ite (fun _ => setTxn_within ..) fun _ => grantData_within ..
    | rdUnique => exact .ite (fun _ => setTxn_within ..) fun _ => grantData_within ..
    | rdOnce => exact .ite (fun _ => setTxn_within ..) fun _ => grantData_within ..
    | upgrade =>
      refine .ite (fun _ => setTxn_within ..) fun _ => .ite (fun _ => grantData_within ..) fun _ => ?_
      exact .ite (fun _ => setTxn_within ..) fun _ => grantData_within ..
    | ownNodata => exact .ite (fun _ => grantData_within ..) fun _ => setTxn_within ..
    | lockFill w =>
      cases t.dirty with
      | none => exact grantData_within ..
      | some d => exact (homeWriteLine_within ..).trans (grantData_within ..)
    | wrFull data hint =>
      have drop := (dropHint_within s ln).trans (finishWrite_within (dropHint s ln) ln t data)
      refine .ite (fun _ => drop) fun _ => ?_
      cases hintTarget ln hint with
      | none => exact finishWrite_within ..
      | some g => exact .ite (fun _ => pushLine_within ..) fun _ => drop
    | wrPart mask data =>
      exact (((mergeHalf_within ..).trans (mergeHalf_within ..)).trans (dirEnter_within ..)).trans (performed_within ..)
    | wbDirty =>
      dsimp only
      cases getLine s t.req.agent ln with
      | none => exact performed_within ..
      | some l =>
        refine .ite (fun _ => ?_) fun _ => performed_within ..
        exact (((homeWriteLine_within ..).trans (dirClear_within ..)).trans (caseCtr_within ..)).trans (performed_within ..)
    | dropCopy =>
      have h := dirClear_within s ln t.req.agent
      dsimp only
      generalize dirClear s ln t.req.agent = u at h ⊢
      refine Within.trans ?_ (setTxn_within ..)
      cases mapGet u.dir ln with
      | none => exact h
      | some e => exact .ite (fun _ => h.trans (dirPut_within ..)) fun _ => h

theorem homeStart_within (s : State) (ln : Nat) (r : Req) (queue : List Req) (msgs : List Msg) :
    Within s (homeStart s ln r queue msgs) := by
  have go (u : State) (x : Txn) (h : Within s u) : Within s (homeProceed (setTxn u ln x) ln) :=
    (h.trans (setTxn_within ..)).trans (homeProceed_within ..)
  have h := dirRepair_within s ln
  unfold homeStart
  dsimp only
  generalize dirRepair s ln = u at h ⊢
  have room := h.trans (dirReserve_within u ln r.agent)
  cases r.kind with
  | rdShared =>
    dsimp only
    cases ownerOf u ln with
    | none => exact go _ _ room
    | some o => exact go _ _ room
  | rdUnique => exact go _ _ room
  | upgrade => exact go _ _ room
  | ownNodata => exact go _ _ room
  | lockFill w => dsimp only; split <;> exact go _ _ h
  | rdOnce => dsimp only; split <;> exact go _ _ h
  | wrFull d k => exact go _ _ h
  | wrPart m d => exact go _ _ h
  | wbDirty => exact go _ _ h
  | dropCopy => exact go _ _ h

theorem homeRun_within (n : Nat) (s : State) (ln : Nat) : Within s (homeRun n s ln) := by
  induction n generalizing s with
  | zero => exact .refl s
  | succ n ih =>
    unfold homeRun
    split
    · exact .refl s
    · split
      · split
        · exact .ite (fun _ => putTxn_within ..) fun _ => .refl s
        · exact (homeStart_within ..).trans (ih _)
      · exact .refl s

theorem homeGo_within (s : State) (ln : Nat) : Within s (homeGo s ln) := by
  have h := homeProceed_within s ln
  unfold homeGo
  dsimp only
  generalize homeProceed s ln = u at h ⊢
  cases getTxn u ln with
  | none => exact h
  | some t => exact h.trans (homeRun_within ..)

theorem homeArrive_within (s : State) (ln : Nat) (r : Req) : Within s (homeArrive s ln r) := by
  unfold homeArrive
  split
  · exact .ite (fun _ => (homeStart_within ..).trans (homeGo_within ..)) fun _ => setTxn_within ..
  · exact (homeStart_within ..).trans (homeGo_within ..)

theorem homeAccept_within (s : State) (ln : Nat) (r : Req) : Within s (homeAccept s ln r) := by
  refine .ite (fun _ => .ite (fun _ => (drawn_within s).trans (memRecord_within ..)) fun _ => memRecord_within ..) fun _ => ?_
  exact .ite (fun _ => (carryRequest_within ..).trans (homeArrive_within ..))
    fun _ => (carryRequest_within ..).trans (launchRequest_within ..)

theorem homeNext_within (s : State) (ln : Nat) : Within s (homeNext s ln) := by
  unfold homeNext
  repeat' first
    | with_reducible exact Within.refl _ | with_reducible refine Within.trans ?_ (homeRun_within ..)
    | with_reducible refine Within.trans ?_ (setTxn_within ..) | dsimp only | split
    | with_reducible refine Within.upd ?_ ..

/-! ## Ways and eviction (09) -/

theorem evictLine_within (s : State) (agent ln : Nat) : Within s (evictLine s agent ln) := by
  have h := caseCheck_within s agent ln false
  unfold evictLine
  dsimp only
  generalize caseCheck s agent ln false = u at h ⊢
  cases getLine u agent ln with
  | none => exact h
  | some l =>
    refine .ite (fun _ => h.trans (setLine_within ..)) fun _ => ?_
    exact .ite (fun _ => (h.trans (setLine_within ..)).trans (homeAccept_within ..)) fun _ => h.trans (dropLine_within ..)

theorem touchWay_within (s : State) (agent ln way : Nat) : Within s (touchWay s agent ln way) := .upd (.refl s) ..

theorem chooseWay_within (s : State) (agent ln : Nat) (group : Option Nat) :
    Within s (chooseWay s agent ln group).1 := by
  unfold chooseWay
  dsimp only
  split
  · exact .refl s
  · split
    · exact (drawn_within s).trans (evictLine_within ..)
    · exact drawn_within s

theorem fillLine_within (s : State) (agent ln : Nat) (st : LineState) (d : LineData) (group : Option Nat) :
    Within s (fillLine s agent ln st d group) := by
  have h : Within s (match heldLine s agent ln with
      | some l => (s, l.way)
      | none => chooseWay s agent ln group).1 := by
    cases heldLine s agent ln with
    | some l => exact .refl s
    | none => exact chooseWay_within ..
  exact ((h.trans (touchWay_within ..)).trans (drawn_within _)).trans (setLine_within ..)

/-! ## Delivery (09) -/

theorem removeMsg_within (s : State) (ln : Nat) (m : Msg) : Within s (removeMsg s ln m) := by
  unfold removeMsg
  repeat' first
    | with_reducible exact Within.refl _ | with_reducible refine Within.trans ?_ (setTxn_within ..) | dsimp only
    | split | with_reducible refine Within.upd ?_ ..

theorem sendMsg_within (s : State) (ln : Nat) (m : Msg) : Within s (sendMsg s ln m) := by
  unfold sendMsg
  repeat' first
    | with_reducible exact Within.refl _ | with_reducible refine Within.trans ?_ (setTxn_within ..) | dsimp only
    | split | with_reducible refine Within.upd ?_ ..

theorem answered_within (s : State) (ln agent : Nat) : Within s (answered s ln agent) := by
  unfold answered
  repeat' first
    | with_reducible exact Within.refl _ | with_reducible refine Within.trans ?_ (setTxn_within ..) | dsimp only
    | split | with_reducible refine Within.upd ?_ ..

theorem markForwarded_within (s : State) (ln : Nat) : Within s (markForwarded s ln) := by
  unfold markForwarded
  repeat' first
    | with_reducible exact Within.refl _ | with_reducible refine Within.trans ?_ (setTxn_within ..) | dsimp only
    | split | with_reducible refine Within.upd ?_ ..

theorem afterShared_within (s : State) (ln owner requester : Nat) (dirty : Bool) :
    Within s (afterShared s ln owner requester dirty) :=
  .ite (fun _ => dirEnter_within ..) fun _ => dirEnter_within ..

theorem answerNp_within (s : State) (ln agent : Nat) : Within s (answerNp s ln agent) := by
  unfold answerNp
  repeat' first
    | with_reducible exact Within.refl _ | with_reducible refine Within.trans ?_ (sendMsg_within ..)
    | with_reducible refine Within.trans ?_ (countNp_within ..) | dsimp only | split
    | with_reducible refine Within.upd ?_ ..

theorem snoopLine_within (s : State) (ln : Nat) (k : SnpKind) (agent : Nat) (r : Req) (l : Line) :
    Within s (snoopLine s ln k agent r l) := by
  have send (u : State) (m : Msg) (h : Within s u) : Within s (sendMsg u ln m) := h.trans (sendMsg_within ..)
  have fwd (u : State) (h : Within s u) : Within s (answered (markForwarded u ln) ln agent) :=
    (h.trans (markForwarded_within ..)).trans (answered_within ..)
  have clean : Within s (dirEnter (setLine s agent ln { l with st := .s }) ln .shared 0 (holdersOf s ln)) :=
    (setLine_within ..).trans (dirEnter_within ..)
  unfold snoopLine
  dsimp only
  cases k with
  | shared =>
    exact .ite (fun _ => send _ _ (.refl s))
      fun _ => send _ _ (fwd _ ((setLine_within ..).trans (afterShared_within ..)))
  | inv =>
    refine .ite (fun _ => send _ _ (dropLine_within ..)) fun _ => ?_
    exact .ite (fun _ => send _ _ (fwd _ (dropLine_within ..))) fun _ => send _ _ (dropLine_within ..)
  | peek => exact .ite (fun _ => send _ _ (.refl s)) fun _ => send _ _ (fwd _ (.refl s))
  | clean => exact .ite (fun _ => send _ _ clean) fun _ => send _ _ clean
  | push => exact .ite (fun _ => send _ _ clean) fun _ => send _ _ clean

theorem snoopAgent_within (s : State) (ln : Nat) (k : SnpKind) (agent : Nat) (push : List Byte) :
    Within s (snoopAgent s ln k agent push) := by
  have h := caseCheck_within s agent ln false
  unfold snoopAgent
  cases getTxn s ln with
  | none => exact .refl s
  | some t =>
    refine .ite (fun _ => .ite (fun _ => (fillLine_within ..).trans (sendMsg_within ..)) fun _ => answerNp_within ..) fun _ => ?_
    dsimp only
    generalize caseCheck s agent ln false = u at h ⊢
    cases getLine u agent ln with
    | none => exact h.trans (answerNp_within ..)
    | some l => exact .ite (fun _ => h.trans (answerNp_within ..)) fun _ => h.trans (snoopLine_within ..)

theorem takeOwned_within (s : State) (ln agent : Nat) (st : LineState) (d : LineData) (t : Txn) :
    Within s (takeOwned s ln agent st d t) := (fillLine_within ..).trans (dirOwned_within ..)

theorem takeGrant_within (s : State) (ln agent : Nat) (g : GrantKind) (d : LineData) (forwarded : Bool) :
    Within s (takeGrant s ln agent g d forwarded) := by
  unfold takeGrant
  cases getTxn s ln with
  | none => exact .refl s
  | some t =>
    have ack (u : State) (h : Within s u) : Within s (sendMsg u ln (.grantAck agent)) := h.trans (sendMsg_within ..)
    cases g with
    | once => exact ack _ (.refl s)
    | l => exact .ite (fun _ => ack _ ((drawn_within s).trans (setLine_within ..))) fun _ => ack _ (.refl s)
    | m =>
      refine .ite (fun _ => ack _ (takeOwned_within ..)) fun _ => ack _ ?_
      exact .ite (fun _ => homeWriteLine_within ..) fun _ => .refl s
    | e => exact ack _ (.ite (fun _ => takeOwned_within ..) fun _ => .refl s)
    | s => exact ack _ (.ite (fun _ => (fillLine_within ..).trans (dirAdd_within ..)) fun _ => .refl s)

theorem takeComp_within (s : State) (ln agent : Nat) (k : GrantKind) (r : Req) :
    Within s (takeComp s ln agent k r) := by
  unfold takeComp
  repeat' first
    | with_reducible exact Within.refl _ | with_reducible refine Within.trans ?_ (takeGrant_within ..)
    | with_reducible refine Within.trans ?_ (sendMsg_within ..) | dsimp only | split
    | with_reducible refine Within.upd ?_ ..

theorem takeDone_within (s : State) (ln agent : Nat) (t : Txn) : Within s (takeDone s ln agent t) := by
  have done (u : State) (h : Within s u) : Within s (if t.ended ∧ t.msgs.isEmpty then putTxn u ln none else u) :=
    .ite (fun _ => h.trans (putTxn_within ..)) fun _ => h
  unfold takeDone
  cases getLine s agent ln with
  | none => exact done _ (.refl s)
  | some l => exact done _ (.ite (fun _ => dropLine_within ..) fun _ => .refl s)

theorem pushAnswered_within (s : State) (ln agent : Nat) (taken : Bool) : Within s (pushAnswered s ln agent taken) := by
  have h := countFor_within s (formeOfStack s (paStack (ln * 128))) .hintPlaced 1
  refine .ite (fun _ => ?_) fun _ => (dirClear_within ..).trans (homeGo_within ..)
  dsimp only
  split
  · exact (h.trans (performed_within ..)).trans (homeGo_within ..)
  · exact h

theorem deliver_within (s : State) (ln : Nat) (m : Msg) : Within s (deliver s ln m) := by
  have h := removeMsg_within s ln m
  unfold deliver
  dsimp only
  generalize removeMsg s ln m = u at h ⊢
  have go (v : State) (k : Within s v) : Within s (homeGo v ln) := k.trans (homeGo_within ..)
  have ans (a : Nat) := h.trans (answered_within u ln a)
  cases getTxn u ln with
  | none => exact h
  | some t =>
    cases m with
    | snp k a d p q => exact go _ (h.trans (snoopAgent_within ..))
    | snpData a d p0 p1 =>
      have l := ans a
      refine go _ ?_
      generalize answered u ln a = w at l ⊢
      cases getTxn w ln with
      | none => exact l
      | some x => exact l.trans (setTxn_within ..)
    | snpAck a =>
      dsimp only
      split
      · exact .ite (fun _ => (ans a).trans (pushAnswered_within ..)) fun _ => go _ (ans a)
      · exact go _ (ans a)
    | snpNp a =>
      dsimp only
      split
      · exact .ite (fun _ => (ans a).trans (pushAnswered_within ..)) fun _ => go _ ((ans a).trans (dirClear_within ..))
      · exact go _ ((ans a).trans (dirClear_within ..))
    | dataTo a g d p0 p1 => exact h.trans (takeGrant_within ..)
    | fwdTo a g d p0 p1 o => exact h.trans (takeGrant_within ..)
    | compTo a g =>
      cases g with
      | some k => exact h.trans (takeComp_within ..)
      | none => exact h.trans (takeDone_within ..)
    | grantAck a => exact h.trans (homeNext_within ..)

theorem settleStep_within (s : State) (ln : Nat) (t : State) (h : settleStep s ln = some t) : Within s t := by
  unfold settleStep at h
  split at h
  · cases h; exact deliver_within ..
  · split at h
    · cases h; exact (unblock_within ..).trans (homeGo_within ..)
    · split at h
      · split at h
        · cases h; exact (arrivedRequest_within _ _ ‹_›).trans (homeArrive_within ..)
        · obtain ⟨k, -, h⟩ := Option.bind_eq_some_iff.mp h
          obtain ⟨m, -, rfl⟩ := Option.map_eq_some_iff.mp h
          exact deliver_within ..
      · cases h

theorem settleFor_within (n : Nat) (s : State) (ln : Nat) : Within s (settleFor n s ln) := by
  induction n generalizing s with
  | zero => exact .refl s
  | succ n ih =>
    unfold settleFor
    split
    · exact (settleStep_within _ _ _ ‹_›).trans (ih _)
    · exact .refl s

theorem settle_within (s : State) (ln : Nat) : Within s (settle s ln) := by
  unfold settle
  repeat' first
    | with_reducible exact Within.refl _ | with_reducible refine Within.trans ?_ (settleFor_within ..) | dsimp only
    | split | with_reducible refine Within.upd ?_ ..

theorem serveHome_within (s t : State) (h : serveHome s = some t) : Within s t := by
  unfold serveHome at h
  split at h
  · cases h; exact (arrivedRequest_within _ _ ‹_›).trans (homeArrive_within ..)
  · obtain ⟨kv, -, rfl⟩ := Option.map_eq_some_iff.mp h
    exact homeGo_within ..

theorem serveHomesFor_within (n : Nat) (s : State) : Within s (serveHomesFor n s) := by
  induction n generalizing s with
  | zero => exact .refl s
  | succ n ih =>
    unfold serveHomesFor
    split
    · exact (serveHome_within _ _ ‹_›).trans (ih _)
    · exact .refl s

theorem serveHomes_within (s : State) : Within s (serveHomes s) :=
  .ite (fun _ => serveHomesFor_within ..) fun _ => .refl s

/-! ## Whole transactions -/

theorem request_within (s : State) (ln : Nat) (r : Req) : Within s (request s ln r) := by
  unfold request
  repeat' first
    | with_reducible exact Within.refl _ | with_reducible refine Within.trans ?_ (settle_within ..)
    | with_reducible refine Within.trans ?_ (homeAccept_within ..) | dsimp only | split
    | with_reducible refine Within.upd ?_ ..

theorem lookup_within (s : State) (agent : Nat) (hit : Bool) : Within s (lookup s agent hit) := by
  unfold lookup
  repeat' first
    | with_reducible exact Within.refl _ | with_reducible refine Within.trans ?_ (caseCtr_within ..) | dsimp only
    | split | with_reducible refine Within.upd ?_ ..

theorem hitLine_within (s : State) (agent ln : Nat) (l : Line) : Within s (hitLine s agent ln l) := by
  unfold hitLine
  repeat' first
    | with_reducible exact Within.refl _ | with_reducible refine Within.trans ?_ (lookup_within ..)
    | with_reducible refine Within.trans ?_ (touchWay_within ..) | dsimp only | split
    | with_reducible refine Within.upd ?_ ..

theorem acquireShared_within (s : State) (agent ln : Nat) (group : Option Nat) (prio : Bool) :
    Within s (acquireShared s agent ln group prio) := by
  have h := settle_within s ln
  unfold acquireShared
  dsimp only
  cases heldLine (settle s ln) agent ln with
  | some l => exact h.trans (hitLine_within ..)
  | none => exact (h.trans (lookup_within ..)).trans (request_within ..)

theorem acquireOwned_within (s : State) (agent ln : Nat) (whole : Bool) (group : Option Nat) :
    Within s (acquireOwned s agent ln whole group) := by
  have h := settle_within s ln
  unfold acquireOwned
  dsimp only
  cases heldLine (settle s ln) agent ln with
  | some l =>
    have k := h.trans (hitLine_within (settle s ln) agent ln l)
    dsimp only
    split
    · exact k
    · exact k.trans (setLine_within ..)
    · exact k.trans (request_within ..)
  | none => exact (h.trans (lookup_within ..)).trans (request_within ..)

theorem awaitFor_within (n : Nat) (s : State) (agent ln : Nat) : Within s (awaitFor n s agent ln).1 := by
  induction n generalizing s with
  | zero => exact .refl s
  | succ n ih =>
    unfold awaitFor
    split
    · exact .refl s
    · split
      · exact (settleStep_within _ _ _ ‹_›).trans (ih _)
      · exact .refl s

theorem readOnce_within (s : State) (agent unit ln : Nat) (prio : Bool) : Within s (readOnce s agent unit ln prio).1 := by
  unfold readOnce
  dsimp only
  split
  · exact (settle_within ..).trans (homeReadLine_within ..)
  · exact (((settle_within ..).trans (homeAccept_within ..)).trans (awaitFor_within ..)).trans (settle_within ..)

theorem writeFull_within (s : State) (agent unit ln : Nat) (data : List Byte) (hint : Nat) (zero : Bool) :
    Within s (writeFull s agent unit ln data hint zero) := by
  unfold writeFull
  repeat' first
    | with_reducible exact Within.refl _ | with_reducible refine Within.trans ?_ (request_within ..)
    | with_reducible refine Within.trans ?_ (homeWrite_within ..) | dsimp only | split
    | with_reducible refine Within.upd ?_ ..

theorem writePart_within (s : State) (agent unit ln mask : Nat) (data : List Byte) :
    Within s (writePart s agent unit ln mask data) := by
  unfold writePart
  repeat' first
    | with_reducible exact Within.refl _ | with_reducible refine Within.trans ?_ (request_within ..)
    | with_reducible refine Within.trans ?_ (homeWrite_within ..) | dsimp only | split
    | with_reducible refine Within.upd ?_ ..

/-! ## Rows of 09 -/

theorem sendReq_within (s : State) (l : LineAt) (k : ReqKind) : Within s (sendReq s l k) := by
  unfold sendReq
  repeat' first
    | with_reducible exact Within.refl _ | with_reducible refine Within.trans ?_ (homeAccept_within ..)
    | with_reducible refine Within.trans ?_ (drawn_within ..) | dsimp only | split
    | with_reducible refine Within.upd ?_ ..

theorem askFor_within (s : State) (l : LineAt) (k : ReqKind) : Within s (askFor s l k) := by
  unfold askFor
  repeat' first
    | with_reducible exact Within.refl _ | with_reducible refine Within.trans ?_ (sendReq_within ..) | dsimp only
    | split | with_reducible refine Within.upd ?_ ..

theorem markLeaving_within (s : State) (l : LineAt) : Within s (markLeaving s l) := by
  unfold markLeaving
  repeat' first
    | with_reducible exact Within.refl _ | with_reducible refine Within.trans ?_ (setLine_within ..) | dsimp only
    | split | with_reducible refine Within.upd ?_ ..

theorem arrive_within (s : State) (l : LineAt) (test : Msg → Bool) : Within s (arrive s l test) := by
  unfold arrive
  repeat' first
    | with_reducible exact Within.refl _ | with_reducible refine Within.trans ?_ (deliver_within ..) | dsimp only
    | split | with_reducible refine Within.upd ?_ ..

theorem poisonLine_within (s : State) (ln : Nat) : Within s (poisonLine s ln) := by
  unfold poisonLine
  repeat' first
    | with_reducible exact Within.refl _ | with_reducible refine Within.trans ?_ (poisonSector_within ..)
    | with_reducible refine Within.trans ?_ (memRecord_within ..) | dsimp only | split
    | with_reducible refine Within.upd ?_ ..

theorem suspect_within (s : State) (agent : Nat) : Within s (suspect s agent) :=
  .ite (fun _ => (Within.upd (.refl s) ..).trans (agentFails_within ..)) fun _ => .upd (.refl s) ..

/-! ## The caches as their agents read and write them -/

theorem cacheRead_within (s : State) (agent ln : Nat) (group : Option Nat) (prio : Bool) :
    Within s (cacheRead s agent ln group prio).1 :=
  ((settle_within s ln).trans (caseCheck_within ..)).trans (acquireShared_within ..)

theorem cacheOwn_within (s : State) (agent ln : Nat) (group : Option Nat) : Within s (cacheOwn s agent ln group).1 :=
  ((settle_within s ln).trans (caseCheck_within ..)).trans (acquireOwned_within ..)

theorem cacheWrite_within (s : State) (agent ln mask : Nat) (data : List Byte) (group : Option Nat) :
    Within s (cacheWrite s agent ln mask data group) := by
  unfold cacheWrite
  repeat' first
    | with_reducible exact Within.refl _ | with_reducible refine Within.trans ?_ (acquireOwned_within ..)
    | with_reducible refine Within.trans ?_ (settle_within ..)
    | with_reducible refine Within.trans ?_ (caseCheck_within ..)
    | with_reducible refine Within.trans ?_ (setLine_within ..)
    | with_reducible refine Within.trans ?_ (memRecord_within ..) | dsimp only | split
    | with_reducible refine Within.upd ?_ ..

end Sys2Proof.Machine
end

