-- ==== Sys2Proof/Laws/Trans.lean ====
section
/-! SUPPORT. What a range-table walk changes, and when a translation fault is held. -/

namespace Sys2Proof.Machine

open Sys2Proof

/-- A walk changes nothing of a forme but its counters (10 R344). -/
theorem walkRead_counters (s : State) (fid die : Nat) (f : Forme) (va : Nat) : OnlyCounters s (walkRead s fid die f va) :=
  (((gutMessage_within ..).trans (Within.foldl _ (fun _ _ => homeRead_within ..) _ _)).trans (gutMessage_within ..)).counters

theorem fillCached_counters {s t : State} (h : OnlyCounters s t) (f : Nat) (e : Engine) (id : Nat) :
    OnlyCounters s (fillCached t f e id) := fun k => h k

/-- Nor does a translation. -/
theorem translate_counters (s : State) (a : Access) (va : Nat) : OnlyCounters s (translate s a va).1 := by
  unfold translate
  repeat' first
    | with_reducible exact .refl _ | with_reducible exact walkRead_counters ..
    | with_reducible exact fillCached_counters (walkRead_counters ..) _ _ _ | split | dsimp only

/-- A fault of a class that is held for its reason opens a record in which its request waits (10 R361, R362). -/
theorem raiseFault_held {s : State} {a : Access} {f : Forme} (va : Nat) {r : Reason} (e : Option RangeEntry) (w : Waiter)
    (hf : getForme s a.forme = some f) (hr : f.faults = []) (hh : reasonHeld a.eng.cls f.faultHold r = true) :
    (raiseFault s a va r e w).2 = true := by
  simp [raiseFault, hf, hr, hh, placeFault]

/-- A request whose translation faults, asked for by a class that is held for the reason: it waits in a record. -/
theorem translate_held {s : State} {a : Access} {va : Nat} {f : Forme} {r : Reason} {e : Option RangeEntry}
    (ht : (translate s a va).2 = .fault r e) (hf : getForme s a.forme = some f) (hr : f.faults = [])
    (hh : reasonHeld a.eng.cls f.faultHold r = true) :
    ∃ t, translate s a va = (t, .fault r e) ∧ ∀ w, (raiseFault t a va r e w).2 = true := by
  obtain ⟨y, hy, hu⟩ := (translate_counters s a va).forme hf
  have hold : (uncounted y).faultHold = (uncounted f).faultHold := by rw [hu]
  have none : (uncounted y).faults = (uncounted f).faults := by rw [hu]
  exact ⟨_, Prod.ext rfl ht, fun w => raiseFault_held va _ w hy (none.trans hr)
    (Eq.subst (motive := fun n => reasonHeld a.eng.cls n r = true) hold.symm hh)⟩

end Sys2Proof.Machine
end

