-- ==== Sys2Proof/WellFormed.lean ====
section
/-! DEFINITION. The ranges of the operands of a command: what the spec's numbering admits. `Instr.wf` is a check, not a
premise of the meanings, which are total. -/

namespace Sys2Proof

def MboxId.wf : MboxId → Bool
  | .host p => p < 4
  | .core f => f < 4

def SlugAt.wf (a : SlugAt) : Bool := a.platen < 6 && a.galley < 64 && a.stick < 32 && a.slug < 32 && a.pc < 2 ^ 32

def OpRef.wf (o : OpRef) : Bool := o.platen < 6 && o.galley < 64 && o.stick < 32 && o.slug < 32

def Engine.wf (e : Engine) : Bool := 1 ≤ e.cls && e.cls ≤ 6 && e.die < 8 && e.unit < 64

/-- Agents 0 to 9 and a line-aligned physical address (09 Table 9.6, R285). -/
def LineAt.wf (l : LineAt) : Bool := l.agent < 10 && l.pa % 128 == 0 && l.pa < 2 ^ 41

/-- A row as 08 Tables 8.1 and 8.2 number it. -/
def RowId.wf (r : RowId) : Bool := r.pch < 64 && r.sid < 4 && r.bg < 4 && r.bank < 4 && r.row < 24576

def SensorId.wf : SensorId → Bool
  | .platen p => p < 6
  | .compositor c => c == 6 || c == 7
  | .stack k => k < 12

/-- Access sizes of a sort (06 R194). -/
def sizeOk (n : Nat) : Bool := n == 1 || n == 2 || n == 4 || n == 8

/-- Sizes of an atomic (09 R308). -/
def atomSizeOk (n : Nat) : Bool := n == 4 || n == 8

def reg8 (r : Nat) : Bool := r < 256

def CoreAcc.wf : CoreAcc → Bool
  | .load n rd => sizeOk n && rd < 32
  | .fetch n => n == 2 || n == 4
  | .store n d => sizeOk n && d.length == n
  | .amo op n rd _ _ => (atomSizeOk n || (op == .cas && n == 16)) && op != .fadd && rd < 32
  | .loadReserved n rd => atomSizeOk n && rd < 32
  | .storeCond n rd d => atomSizeOk n && rd < 32 && d.length == n
  | .cboZero => true
  | .cboClean => true
  | .cboFlush => true
  | .cboInval => true
  | .prefetch => true
  | .csr _ n rd v => n < 4096 && rd < 32 && v < 2 ^ 64
  | .wrsNto => true
  | .wrsSto => true
  | .fload n rd => (n == 2 || n == 4 || n == 8) && rd < 32
  | .vload n vd => 1 ≤ n && n ≤ 512 && 64 * vd + n ≤ 2048
  | .vstore n d => 1 ≤ n && n ≤ 512 && d.length == n
  | .hload n rd x => (if x then n == 2 || n == 4 else sizeOk n) && rd < 32
  | .hstore n d => sizeOk n && d.length == n
  | .sret => true
  | .vsetvl rd a t => rd < 32 && a < 2 ^ 64 && t < 2 ^ 64
  | .privilege m => m < 4
  | .sbi e f as => e < 2 ^ 64 && f < 2 ^ 64 && as.length ≤ 6 && as.all (· < 2 ^ 64)

def mbSlot (mb : MboxId) (slot : Nat) : Bool := mb.wf && slot < 64

def Instr.wf : Instr → Bool
  | .slotWrite mb _ off d => mb.wf && off + d.bytes.length ≤ 0x8000
  | .registerWrite p _ off d => p < 4 && off + d.bytes.length ≤ 0x200000
  | .slotTake => true
  | .afterRelease mb s => mbSlot mb s
  | .holdRelease mb s => mbSlot mb s
  | .slotComplete mb s => mbSlot mb s
  | .identify mb s => mbSlot mb s
  | .attest mb s => mbSlot mb s
  | .formeCreate mb s => mbSlot mb s
  | .formeDestroy mb s => mbSlot mb s
  | .mapRange mb s => mbSlot mb s
  | .unmapRange mb s => mbSlot mb s
  | .copy mb s _ => mbSlot mb s
  | .fill mb s _ => mbSlot mb s
  | .zero mb s _ => mbSlot mb s
  | .plateLoad mb s => mbSlot mb s
  | .imageInstall mb s => mbSlot mb s
  | .plateSeal mb s => mbSlot mb s
  | .passLaunch mb s => mbSlot mb s
  | .passStatus mb s => mbSlot mb s
  | .setPolicy mb s => mbSlot mb s
  | .powerState mb s => mbSlot mb s
  | .coreGroupStart mb s => mbSlot mb s
  | .coreGroupStop mb s => mbSlot mb s
  | .capSet mb s => mbSlot mb s
  | .telemetry mb s => mbSlot mb s
  | .journalRead mb s => mbSlot mb s
  | .journalExport mb s => mbSlot mb s
  | .meshJobSetup mb s => mbSlot mb s
  | .meshJobRelease mb s => mbSlot mb s
  | .passAbort mb s => mbSlot mb s
  | .formeReset mb s => mbSlot mb s
  | .recoveryRead mb s => mbSlot mb s
  | .hotReset p => p < 4
  | .functionLevelReset p => p < 4
  | .linkDown p => p < 4
  | .perstNAssert p => p < 4
  | .linkRetrain p => p < 4
  | .d3hotEntry p _ => p < 4
  | .pcieTrainAttempt p e => p < 4 && 1 ≤ e.rate && e.rate ≤ 6 && e.width ≤ 16
  | .memorySpaceEnable p rid => p < 4 && rid < 2 ^ 16
  | .busMasterEnableWrite p _ => p < 4
  | .apertureRead p _ _ len => p < 4 && len ≤ 4096
  | .apertureWrite p _ _ d _ _ => p < 4 && d.length ≤ 4096
  | .apertureAtomic p _ _ n _ _ _ => p < 4 && (n == 4 || n == 8 || n == 16)
  | .hostReadTimeout p _ => p < 4
  | .stickStart p g => p < 6 && g < 64
  | .sortArithmetic a _ d x y => a.wf && reg8 d && reg8 x && reg8 y
  | .branch a p _ _ => a.wf && reg8 p
  | .exit a => a.wf
  | .readSpecial a d _ => a.wf && reg8 d
  | .xchAt a d v r p => a.wf && reg8 d && reg8 v && reg8 r && reg8 p
  | .xchRotW a d v n p => a.wf && reg8 d && reg8 v && -31 ≤ n && n ≤ 31 && reg8 p
  | .xchRotC a d v n p => a.wf && reg8 d && reg8 v && -31 ≤ n && n ≤ 31 && reg8 p
  | .xchFlip a d v m p => a.wf && reg8 d && reg8 v && m < 32 && reg8 p
  | .xchLow a d v p => a.wf && reg8 d && reg8 v && reg8 p
  | .tallySome a d p => a.wf && reg8 d && reg8 p
  | .tallyEvery a d p => a.wf && reg8 d && reg8 p
  | .tallyMask a d p => a.wf && reg8 d && reg8 p
  | .tallyCount a d p => a.wf && reg8 d && reg8 p
  | .tallySame a d v => a.wf && reg8 d && reg8 v
  | .tallyLive a d => a.wf && reg8 d
  | .sortLoad a _ n d r o => a.wf && sizeOk n && reg8 d && reg8 r && (o == .plain || o == .acq)
  | .sortStore a _ n d r o => a.wf && sizeOk n && reg8 d && reg8 r && (o == .plain || o == .rel)
  | .sortAtomic a _ _ n d r o c _ => a.wf && atomSizeOk n && reg8 d && reg8 r && reg8 o && reg8 c
  | .zline a r => a.wf && reg8 r
  | .fenceAcq a => a.wf
  | .fenceRel a => a.wf
  | .fenceAr a => a.wf
  | .trap a => a.wf
  | .lockAcq a _ d r => a.wf && reg8 d && reg8 r
  | .lockTry a _ d r => a.wf && reg8 d && reg8 r
  | .lockRetry p g s u => p < 6 && g < 64 && s < 32 && u < 32
  | .lockTimeout p g s u => p < 6 && g < 64 && s < 32 && u < 32
  | .lockRel a _ r => a.wf && reg8 r
  | .meetWait a _ _ => a.wf
  | .meetMark a _ _ => a.wf
  | .barrierStranded p g s b => p < 6 && g < 64 && s < 32 && b < 16
  | .tile a r d => a.wf && reg8 r && reg8 d
  | .tileLoad o => o.wf
  | .tileStore o => o.wf
  | .tileOpen o => o.wf
  | .tileMma o => o.wf
  | .tileMmaS o => o.wf
  | .tileOut o => o.wf
  | .pressStageStart o => o.wf
  | .brayerChain o => o.wf
  | .slice o => o.wf
  | .spread o => o.wf
  | .update o => o.wf
  | .tileReadDone o => o.wf
  | .tileDone o => o.wf
  | .twaitRd a t => a.wf && reg8 t
  | .twaitDone a t => a.wf && reg8 t
  | .stickEnd p g s => p < 6 && g < 64 && s < 32
  | .attemptEnd f _ => f < 4
  | .swapComplete f _ => f < 4
  | .rangeWalk f e va => f < 4 && e.wf && va < 2 ^ 56
  | .faultHoldExpiry f _ => f < 4
  | .faultReevaluate f _ => f < 4
  | .rangeInvalidation _ d => d < 8
  | .engineDrainDone _ d _ => d < 8
  | .invalidationAck _ => true
  | .rdShared l => l.wf
  | .rdUnique l => l.wf
  | .upgrade l => l.wf
  | .ownNodata l => l.wf
  | .lockFill l w => l.wf && w < 32
  | .rdOnce l => l.wf
  | .wrFull l d _ => l.wf && d.length == 128
  | .wrPart l _ d => l.wf && d.length == 128
  | .wbDirty l => l.wf
  | .snpShared l => l.wf
  | .snpInv l => l.wf
  | .snpPeek l => l.wf
  | .snpClean l => l.wf
  | .snpPush l => l.wf
  | .data l => l.wf
  | .fwd l => l.wf
  | .snpData l => l.wf
  | .snpAck l => l.wf
  | .snpNp l => l.wf
  | .comp l => l.wf
  | .grantAck l => l.wf
  | .snoopTimeout l => l.wf
  | .suspectProbe a _ => a < 8
  | .streamTimeout p st => p < 6 && st < 64
  | .memoryRead pa _ errs => pa < 2 ^ 41 && errs.all (fun e => e.1 < 80)
  | .memoryWrite pa _ d => pa < 2 ^ 41 && d.length == 64
  | .writeCrcError k p l pa => k < 12 && p < 64 && l < 5 && pa < 2 ^ 41
  | .byteLaneLoss k p l => k < 12 && p < 64 && l < 5
  | .byteLaneRecovered k p => k < 12 && p < 64
  | .refresh k p b => k < 12 && p < 64 && b < 64
  | .readRetrain k p => k < 12 && p < 64
  | .refreshDouble k _ => k < 12
  | .patrolScrub k => k < 12
  | .innerCorrPoll k _ => k < 12
  | .selfRefreshEntry k => k < 12
  | .stackQuiesce k => k < 12
  | .repairStatusRead k => k < 12
  | .rowRepair k r _ => k < 12 && r.wf
  | .patternTest k r _ => k < 12 && r.wf
  | .stackRelease k => k < 12
  | .testUnlock _ => true
  | .jtagInstruction _ => true
  | .gutterLaneFail l d g => l < 19 && d < 2 && g < 16
  | .laneSwapDone l d g => l < 19 && d < 2 && g < 16
  | .gutterLinkLoss l => l < 19
  | .governorTimerExpiry p => p < 6
  | .caseSleepDone p => p < 6
  | .platenWakeDone p => p < 6
  | .moduleIdleEntry => true
  | .moduleWakeDone => true
  | .powerMeterSample _ _ => true
  | .capLoopTick _ l => l.length ≤ 4
  | .thermalSensor x _ => x.wf
  | .thermalTrip x => x.wf
  | .inputUndervoltage => true
  | .runningPointStep p => p < 6
  | .droopDetect p _ => p < 6
  | .meshLinkTrain p n _ _ tx rx => p < 6 && n < 2 ^ 15 && tx < 2 ^ 16 && rx < 2 ^ 16
  | .meshTrainRetry p n => p < 6 && n ≤ 32
  | .gnidAnnounce p n g _ _ => p < 6 && n < 2 ^ 15 && g < 2 ^ 32
  | .meshPut p _ => p < 6
  | .meshGet p _ _ => p < 6
  | .meshTransit p _ => p < 6
  | .meshPacketAck _ _ _ => true
  | .meshAckTimeout _ _ => true
  | .meshOrderTimeout _ _ _ => true
  | .meshLaneFail p _ l => p < 6 && l < 16
  | .meshLinkLoss p _ => p < 6
  | .linkStateNotice _ p w => p < 6 && w ≤ 16
  | .registrationExchange p _ _ => p < 6
  | .registrationLock => true
  | .referenceLoss => true
  | .sbFrameReceive _ => true
  | .sbStatus => true
  | .sbPowerState => true
  | .sbCapSet => true
  | .sbTelemetry => true
  | .sbJournal => true
  | .sbColdReset => true
  | .sbWarmReset => true
  | .sbFormeReset => true
  | .snapshotExpiry _ => true
  | .transmitOpportunity => true
  | .invalidBeaconTimeout => true
  | .announce => true
  | .powerOn => true
  | .startupComplete => true
  | .pwrEnDeassert => true
  | .supplyLoss => true
  | .controlCoreHeartbeat c => c < 8
  | .watchdogTimeout => true
  | .controlCoreTakeover c => c < 8
  | .retirement _ => true
  | .compositorALoss => true
  | .journalCheckpoint => true
  | .flashProgramDone => true
  | .coreAccess h va a => h < 96 && va < 2 ^ 64 && a.wf
  | .ncvt h w => h < 96 && w < 2 ^ 32
  | .nscale h w => h < 96 && w < 2 ^ 32
  | .zlineL3 h _ => h < 96
  | .cwlLock h _ _ rd => h < 96 && rd < 32
  | .cwlUnlock h _ => h < 96
  | .sbiIpi h _ => h < 96
  | .sbiRfence h _ => h < 96
  | .sbiHsm h t _ _ _ => h < 96 && t < 96
  | .sbiSrst h => h < 96
  | .sbiEntropy h _ => h < 96
  | .perstNRelease p => p < 4
  | .hostReadCompletion p _ _ _ => p < 4
  | .meshRetrainDone p _ => p < 6
  | .selfRefreshExit k => k < 12
  | .inputLimitRelease => true
  | .thermalLimitTick x => x.wf
  | .droopRecovered p => p < 6
  | .checkpointFlashWritten => true
  | .controlCoreRejoin c => c < 8
  | .beaconReceived => true
  | .collision => true
  | .csmaCdBackoffExpiry => true

end Sys2Proof
end

