-- ==== Sys2Proof/Tests/Slice0.lean ====
section
/-! SUPPORT. Tests on fixed values: ill-formed commands that the checks of WellFormed refuse; for every statement with
hypotheses, concrete states and operands that meet them, clause by clause; and results worked out by hand from the spec. -/

namespace Sys2Proof.Machine.Tests

open Sys2Proof Sys2Proof.Machine

set_option Elab.async false

/-! ## Small states -/

/-- A node that runs. -/
def sUp : State :=
  { State.reset with phase := .running, journal := { State.reset.journal with bootDue := false } }

/-- A node with the state `t` of the transaction of line 0 at its home. -/
def sTxn (x : Txn) : State := { sUp with txns := [(0, x)] }

def req (agent : Nat) (k : ReqKind) : Req := cacheReq agent k none false

def aLine (st : LineState) : Line :=
  { st := st, data := List.replicate 128 7#8, poison0 := false, poison1 := false, way := 0, err := 0,
    leaving := false }

/-- Agent `a` at line 0. -/
def la (a : Nat) : LineAt := { agent := a, pa := 0 }

/-- Line 0 held by agent `a`, listed at its home as owned or shared. -/
def sHeld (a : Nat) (st : LineState) (d : DirState) : State :=
  { sUp with lines := [(lineKey a 0, aLine st)], dir := [(0, { st := d, owner := a, sharers := 2 ^ a, age := 0, bad := false })] }

/-- One entry of a range table: device pages 0 to 3 at stack 0, page 0. -/
def entry0 : RangeEntry :=
  { id := 0, vaPage := 0, pages := 4, paPage := 0, r := true, w := true, aper := true, mesh := true, kind := .normal,
    state := .valid, passSeq := 0, mapTime := 0 }

def forme0 : Forme :=
  { platens := [0], groups := [0], ports := [0], faultHold := 100, faultVec := 0, faultHart := 0, faultIdent := 1,
    keySet := 0, reroutes := [], ranges := [entry0], faults := [], nextFaultId := 0, plate := none, loading := none,
    passes := [], cap := 3000, counters := [], coreMbox := Mailbox.reset, destroying := false, created := 0,
    capRaised := 0, orphans := [] }

def platen0 : PlatenPower := { PlatenPower.reset with state := .s0, rest := 8, step := 10, volt := voltOf 10 }

/-- A node that runs, with forme 0 on Platen 0 and port 0. -/
def sForme (f : Forme) : State :=
  { sUp with formes := [(0, f)], platens := [(0, platen0)],
             ports := [(0, { Port.reset with forme := some 0, link := .l0, perstAsserted := false, memSpace := true,
                                             busMaster := true, rid0 := 9, valid := 1, aperLog2 := 14 })] }

def header0 : StickHeader := { defTmo := true, tmoLog2 := 0, lsBytes := 4096, regs := 16, sorts := 32 }

def slug0 : Slug :=
  { slot := 0, active := 1, exited := 0, pc := 8, stack := [], regs := [], preds := [], tickets := 0, wait := .none, rerun := false,
    locks := [] }

def stick0 (x : Slug) : Stick :=
  { forme := 0, passSeq := 1, index := 0, attempt := 0, header := header0, slugs := [x], ls := [], barriers := [], fault := none,
    dead := false }

def pass0 : Pass :=
  { seq := 1, forme := 0, mb := .host 0, slot := 0, layer := 0, variant := 0, header := header0, nsticks := 1, nd5 := false,
    noBypass := false, fixedSplit := false, lsStep := 1, phase := .running, attempt := 0, outs := [], ins := [],
    parts := [{ platen := 0, first := 0, next := 0, stop := 1, turn := 0, placing := true }], faultCount := 0, faults := [], records := [], tStart := 0,
    tEnd := 0, tStartFirst := 0, status := 0, overMask := 0, noHist := [] }

/-- Stick 0 in galley 0 of Platen 0, of pass 1, with tile operations. -/
def sOps (t : Stick) (ops : List TileOp) (ps : SMap Press) : State :=
  { sForme { forme0 with passes := [{ pass0 with parts :=
      [{ platen := 0, first := 0, next := 1, stop := 1, turn := 1, placing := true }] }] } with
    galleys := [(0, { Galley.reset with sticks := [(0, t)], ops := ops, presses := ps, lsSteps := 1, resident := 1 })] }

def sStick (t : Stick) : State := sOps t [] []

def sSlug (x : Slug) : State := sStick (stick0 x)

def a0 : SlugAt := { platen := 0, galley := 0, stick := 0, slug := 0, pc := 8, next := 16 }

/-- The state a command leaves when it answers a next state. -/
def after (c : Instr) (s : State) : State :=
  match exec c s with
  | .next t => t
  | _ => s

/-! ## Coherence: witnesses -/

def txnOf (agent : Nat) (k : ReqKind) (msgs : List Msg) (waiting : List Nat) : Txn :=
  { Txn.start (req agent k) [] [] with msgs := msgs, waiting := waiting }

/-- The state in which a home starts the request of kind `k` of agent `a` for line 0. -/
def started (s : State) (a : Nat) (k : ReqKind) : State := dirRepair (carryRequest s.drawn 0 (rowReq s (la a) k)) 0

/-- SharedReadSnoopsTheOwnerOrGrants, OwnershipRequestInvalidatesTheOthers: nobody holds the line. -/
theorem witness_requests_alone : sUp.homesOn = true ∧ (la 7).agent < 8 ∧ mayFill sUp 7 = true ∧ mayFill (sForme forme0) 0 = true ∧
    getLine sUp 7 (lineOf (la 7).pa) = none ∧ paAbsent (lineOf (la 7).pa * 128) = false ∧
    getTxn sUp (lineOf (la 7).pa) = none ∧ ownerOf (started sUp 7 .rdShared) 0 = none ∧
    holdersOf (started sUp 7 .rdUnique) 0 = [] := by decide

/-- A node in which a request of Compositor B for line 1 is on its way to Platen 0. -/
def sWay : State := launchRequest (carryRequest sUp 1 (rowReq sUp (la 7) .rdShared)) 1 (rowReq sUp (la 7) .rdShared)

/-- The way is clear, and with another request on it it is not; the pseudo-channel of line 0 issues, and it does not. -/
theorem witness_ways : wayClear sUp 0 (rowReq sUp (la 7) .rdShared) = true ∧ sWay.homesOn = true ∧
    wayClear sWay 0 (rowReq sWay (la 7) .rdShared) = false ∧ heldState sWay (la 7) = none ∧ getTxn sWay 0 = none ∧
    pchBlocked (started sUp 7 .rdShared) 0 0 = false ∧
    pchBlocked (started { sUp with stackTab := [(0, { Stack.reset with selfRefresh := true })] } 7 .rdShared) 0 0 = true := by
  decide

/-- The same with another owner, and with the requester itself listed as owner. -/
theorem witness_requests_owned : getLine (sHeld 1 .m .owned) 7 0 = none ∧ getTxn (sHeld 1 .m .owned) 0 = none ∧
    ownerOf (started (sHeld 1 .m .owned) 7 .rdShared) 0 = some 1 ∧ holdersOf (started (sHeld 1 .m .owned) 7 .ownNodata) 0 = [1] ∧
    ownerOf (started { sUp with dir := [(0, { st := .owned, owner := 7, sharers := 128, age := 0, bad := false })] } 7
      .rdShared) 0 = some 7 := by decide

/-- UPGRADE from S and from O, with and without other holders, and of a copy that is gone. -/
theorem witness_upgrade : heldState (sHeld 0 .s .shared) (la 0) = some .s ∧ heldState (sHeld 0 .o .owned) (la 0) = some .o ∧
    (getLine (started (sHeld 0 .s .shared) 0 .upgrade) 0 0).isSome = true ∧
    holdersOf (started (sHeld 0 .s .shared) 0 .upgrade) 0 = [0] := by decide

/-- SnapshotLockFillAndWriteBack: agents 8 and 9 and Case 5 without and with an owner, and a dirty line written back. -/
theorem witness_snapshot : 8 ≤ (la 9).agent ∧ (la 5).agent < 6 ∧ ownerOf (started sUp 9 .rdOnce) 0 = none ∧
    ownerOf (started (sHeld 1 .m .owned) 9 .rdOnce) 0 = some 1 ∧ mayLock (sForme forme0) 0 = true ∧ mayLock sUp 5 = false ∧
    ownerOf (started (sForme forme0) 0 (.lockFill 3)) 0 = none ∧
    ownerOf (started { sHeld 1 .m .owned with platens := [(0, platen0)] } 0 (.lockFill 3)) 0 = some 1 ∧
    heldState (sHeld 7 .m .owned) (la 7) = some .m ∧ heldState (caseCheck (sHeld 7 .m .owned) 7 0 false) (la 7) = some .m ∧
    getLine (started (markLeaving (caseCheck (sHeld 7 .m .owned) 7 0 false) (la 7)) 7 .wbDirty) 7 0 =
      some { aLine .m with leaving := true } := by decide

/-- A write-back whose home finds the agent without the line, which the repair of its entry took away. -/
def sBad : State := { sHeld 7 .m .owned with dir := [(0, { st := .owned, owner := 7, sharers := 128, age := 0, bad := true })] }

theorem witness_write_back_gone : heldState sBad (la 7) = some .m ∧
    getLine (started (markLeaving (caseCheck sBad 7 0 false) (la 7)) 7 .wbDirty) 7 0 = none := by decide

/-- CachelessWriteInvalidatesThenWrites: with holders; without, hint 0 and 10 to memory and hint 1 to a Case that may take it. -/
theorem witness_cacheless : holdersOf (started (sHeld 1 .s .shared) 9 (.wrPart 1 [])) 0 = [1] ∧
    holdersOf (started sUp 9 (.wrFull [] 1)) 0 = [] ∧
    hintTarget 0 0 = none ∧ hintTarget 0 10 = none ∧ hintTarget 0 1 = some 0 ∧ hintTarget 0 9 = some 7 ∧
    hintAllowed (sForme forme0) 0 0 = true ∧ hintAllowed (sForme forme0) 0 7 = false ∧ hintAllowed sUp 0 0 = false := by decide

/-- LaterRequestsOfALineWaitInOrder: a transaction of the line, and an agent without it, with it in S, O and M. -/
theorem witness_later : getTxn (sTxn (txnOf 0 .rdShared [] [])) (lineOf (la 7).pa) = some (txnOf 0 .rdShared [] []) ∧
    (txnOf 0 .rdShared [] []).ended = false ∧ mayFill (sTxn (txnOf 0 .rdShared [] [])) 7 = true ∧
    mayLock { sForme forme0 with txns := [(0, txnOf 1 .rdShared [] [])] } 0 = true ∧
    getLine (sTxn (txnOf 0 .rdShared [] [])) 7 0 = none ∧ heldState (sHeld 0 .m .owned) (la 0) = some .m := by decide

def sSnooped (st : LineState) (r : ReqKind) (k : SnpKind) : State :=
  { sHeld 1 st .owned with txns := [(0, txnOf 0 r [.snp k 1 [] false false] [1])] }

/-- SnoopedAgentKeepsAndAnswersAsTabulated: each snoop finds the line in each state its clauses name. -/
theorem witness_snooped : keysFrom 0 (sSnooped .e .rdShared .shared).lines = true ∧
    (aLine .e).err = 0 ∧ (mapGet (sSnooped .e .rdShared .shared).dir 0).isSome = true ∧ mayArrive (sSnooped .e .rdShared .shared) 0 (.snp .shared 1 [] false false) = true ∧
    getTxn (sSnooped .e .rdShared .shared) 0 = some (txnOf 0 .rdShared [.snp .shared 1 [] false false] [1]) ∧
    getLine (sSnooped .s .rdShared .shared) 1 0 = some (aLine .s) ∧ getLine (sSnooped .e .rdUnique .inv) 1 0 = some (aLine .e) ∧
    getLine (sSnooped .o .upgrade .inv) 1 0 = some (aLine .o) ∧ takesForward .ownNodata = false ∧
    getLine (sSnooped .m .rdOnce .peek) 1 0 = some (aLine .m) ∧
    getLine (sSnooped .m (.lockFill 0) .clean) 1 0 = some (aLine .m) := by decide

/-- GrantsAndAnswersMoveTheTransactionOn: a grant with data, a forward, a completion, a push, and each answer. -/
theorem witness_messages :
    (txnOf 1 .rdUnique [.dataTo 1 .m [] false false] []).msgs.find? (isDataTo 1) = some (.dataTo 1 .m [] false false) ∧
    (txnOf 1 .rdShared [.fwdTo 1 .s [] false false 0] []).msgs.find? (isFwdTo 1) = some (.fwdTo 1 .s [] false false 0) ∧
    (txnOf 1 .upgrade [.compTo 1 (some .m)] []).msgs.find? (isComp 1) = some (.compTo 1 (some .m)) ∧
    (txnOf 8 (.wrFull [] 1) [.snp .push 0 [] false false] [0]).msgs.find? (isSnp .push 0) = some (.snp .push 0 [] false false) ∧
    mayFill (sForme forme0) 0 = true ∧ mayFill sUp 0 = false ∧ mayLock (sForme forme0) 0 = true ∧ mayLock sUp 0 = false ∧
    mayArrive (sTxn (txnOf 1 .rdUnique [.dataTo 1 .m [] false false] [])) 0 (.dataTo 1 .m [] false false) = true ∧
    mayArrive (sTxn (txnOf 1 .rdShared [.fwdTo 1 .s [] false false 0] [])) 0 (.fwdTo 1 .s [] false false 0) = true ∧
    mayArrive (sTxn (txnOf 1 .upgrade [.compTo 1 (some .m)] [])) 0 (.compTo 1 (some .m)) = true ∧
    mayArrive (sTxn (txnOf 8 (.wrFull [] 1) [.snp .push 0 [] false false] [0])) 0 (.snp .push 0 [] false false) = true ∧
    mayArrive (sTxn (txnOf 8 .rdOnce [.snpData 1 [] false false] [1])) 0 (.snpData 1 [] false false) = true ∧
    mayArrive (sTxn (txnOf 8 .rdOnce [.snpAck 1] [1])) 0 (.snpAck 1) = true ∧
    mayArrive (sTxn (txnOf 8 .rdOnce [.snpNp 1] [1])) 0 (.snpNp 1) = true ∧
    mayArrive (sTxn (txnOf 1 .rdShared [.grantAck 1] [])) 0 (.grantAck 1) = true ∧
    ({ txnOf 1 .wbDirty [.compTo 1 none] [] with ended := true } : Txn).ended = true ∧
    (txnOf 8 .rdOnce [.snpData 1 [] false false] [1]).msgs.find? (isSnpData 1) = some (.snpData 1 [] false false) ∧
    .snpAck 1 ∈ (txnOf 8 .rdOnce [.snpAck 1] [1]).msgs ∧ .snpNp 1 ∈ (txnOf 8 .rdOnce [.snpNp 1] [1]).msgs ∧
    .grantAck 1 ∈ (txnOf 1 .rdShared [.grantAck 1] []).msgs ∧
    (txnOf 1 .wbDirty [.compTo 1 none] []).msgs.find? (isComp 1) = some (.compTo 1 none) := by decide

/-- UnansweredSnoopPoisonsAndSuspects: the only outstanding snoop; no timeout before, one a second ago, one within it. -/
theorem witness_unanswered : (txnOf 0 .rdShared [.snp .shared 1 [] false false] [1]).waiting = [1] ∧
    mapGet sUp.timedOut 1 = none ∧
    (∀ a, mapGet { sUp with now := 1000000000, timedOut := [(1, 0)] }.timedOut 1 = some a → a + 1000000000 ≤ 1000000000) ∧
    mapGet { sUp with now := 999999999, timedOut := [(1, 0)] }.timedOut 1 = some 0 ∧ (999999999 : Nat) < 0 + 1000000000 ∧
    (1 : Nat) ∈ ({ sUp with suspects := [1] } : State).suspects :=
  ⟨rfl, rfl, fun a h => by cases h; decide, rfl, by decide, by decide⟩

/-- CoherenceRowsLeaveTheRestUnchanged, MemoryRowsLeaveTheRestUnchanged: a row that runs and leaves the phase. -/
theorem witness_frames : isCoherenceRow (.rdShared (la 0)) = true ∧ isPoolRow (.patrolScrub 0) = true ∧
    isTestRow (.jtagInstruction .bypass) = true ∧ exec (.jtagInstruction .bypass) sUp = .next
      { sUp with jtag := { sUp.jtag with op := .bypass, accepted := true } } :=
  ⟨rfl, rfl, rfl, rfl⟩

/-! ## Coherence: results -/

/-- 09 R296: nobody else may hold the line, so it is granted in E. -/
theorem test_rdShared_alone_is_e : ∃ t, exec (.rdShared (la 7)) sUp = .next t ∧ (getTxn t 0).map (fun x => x.granted) = some true :=
  ⟨_, rfl, by decide⟩

/-- 09 Table 9.5: SNP_SHARED finds M, the agent keeps O. -/
theorem test_snpShared_m_keeps_o : ∃ t, exec (.snpShared (la 1)) (sSnooped .m .rdShared .shared) = .next t ∧
    (getLine t 1 0).map (·.st) = some .o := ⟨_, rfl, by decide⟩

/-- 09 R298: a second request waits behind the transaction. -/
theorem test_second_request_waits : ∃ t, exec (.rdUnique (la 7)) (sTxn (txnOf 0 .rdShared [] [])) = .next t ∧
    (getTxn t 0).map (fun x => x.queue.map (·.agent)) = some [7] := ⟨_, rfl, by decide⟩

/-! ## Memory: witnesses -/

/-- A single wrong symbol of sector 0, and seven of them. -/
def sErr (n : Nat) : State := { sUp with errors := [(0, (List.range n).map (fun i => (11 * i, 0x5A#8)))] }

/-- MemoryReadDecodesItsSector: absent, blocked, clean, and with the poison mark. -/
theorem witness_read : paAbsent (2 ^ 41) = true ∧ paAbsent (2 ^ 41 - 1) = true ∧ paAbsent 0 = false ∧
    mapGet sUp.stackTab (paStack 0) = some Stack.reset ∧ pchBlocked sUp 0 0 = false ∧
    pchBlocked { sUp with stackTab := [(0, { Stack.reset with selfRefresh := true })] } 0 0 = true ∧
    laneDead sUp 0 = none ∧ readerKeys sUp 0 = writtenKeys sUp 0 ∧ symbolErrors sUp 0 = [] := by decide

theorem witness_read_absent_stack : mapGet { sUp with stackTab := [(16, Stack.reset)] }.stackTab (paStack (2 ^ 41)) =
    some Stack.reset := by decide

theorem witness_read_corrected : rsCorrect (patternAdd (symbolErrors (sErr 1) 0) []) = some [(0, 0x5A)] ∧
    patternAdd (patternAdd (symbolErrors (sErr 1) 0) []) [(0, 0x5A)] = [] ∧ Memory.wf (sErr 1).mem = true := by decide +kernel

theorem witness_read_poisoned : rsCorrect poisonMask = none ∧ rsCorrect (patternAdd poisonMask poisonMask) = some [] := by decide +kernel

/-- Wrong symbols on the companion byte lane alone, and the same with one on a data lane. -/
def sLane (n : Nat) : State := { sUp with errors := [(0, (List.range 7).map (fun i => (64 - n + i, 0x5A#8)))] }

theorem witness_read_lane : laneDead (sLane 0) 0 = some 4 ∧ pchBlocked (sLane 0) 0 0 = false := by decide +kernel

theorem witness_read_uncorrectable : rsCorrect (patternAdd (symbolErrors (sLane 1) 0) []) = none ∧
    rsCorrect (patternAdd (patternAdd (symbolErrors (sLane 1) 0) []) poisonMask) = none := by decide +kernel

/-- No byte lane carries both symbol 63 and symbol 64. -/
theorem witness_read_no_lane : laneDead (sLane 1) 0 = none := by
  have e : symbolErrors (sLane 1) 0 = (List.range 7).map (fun i => (63 + i, 0x5A)) := by decide +kernel
  have h : patternLane (symbolErrors (sLane 1) 0) = none := by
    rw [e, patternLane, if_neg (by decide), List.find?_eq_none]
    intro l _ hl
    have h63 := List.all_eq_true.mp hl (63, 0x5A) (by decide)
    have h64 := List.all_eq_true.mp hl (64, 0x5A) (by decide)
    simp [symbolInLane, byteLaneOf] at h63 h64
    omega
  simp only [laneDead, h, ite_self]

/-- MemoryWriteStoresTheBytesItsMaskNames: a clean sector and a poisoned one. -/
theorem witness_write : paAbsent 0 = false ∧ pchBlocked sUp (paStack 0) (paPch 0) = false ∧ Memory.wf sUp.mem = true ∧
    symbolErrors sUp 0 = [] ∧ isPoisoned sUp 0 = false ∧ readerKeys sUp 0 = writtenKeys sUp 0 ∧
    pchBlocked { sUp with stackTab := [(0, { Stack.reset with selfRefresh := true })] } (paStack 0) (paPch 0) = true ∧
    isPoisoned { sUp with poison := [(0, ())] } 0 = true ∧ (1 : Nat) ≠ fullMask ∧
    keysFrom 0 ({ sUp with poison := [(0, ())] } : State).poison = true := by decide

def sPch (c : Pch) (spares : List Nat) : State :=
  { sUp with stackTab := [(0, { Stack.reset with pchs := [(0, c)], sparesUsed := spares })] }

/-- StacksAreMaintainedAndByteLanesMoved: the second and the third write CRC error of a lane, 1 µs apart and less; a spare
free and in use; a confirmed recovery; temperatures 82, 83, 85 and 86. -/
theorem witness_lanes : sUp.powered = true ∧ ({ Pch.reset with recovering := some 1, confirmed := true } : Pch).replay = [] ∧
    liveBursts 60 [{ pa := 0, data := [], time := 0 }] ≠ [] ∧ liveBursts 61 [{ pa := 0, data := [], time := 0 }] = [] ∧ (getPch (sPch { Pch.reset with crcErrors := [(2, 0)] } []) 0 0).crcErrors = [(2, 0)] ∧
    (getPch (sPch { Pch.reset with crcErrors := [(2, 0), (2, 0)] } []) 0 0).recovering = none ∧
    ([(2, 0), (2, 0)].filter (fun e : Nat × Nat => 999 < e.2 + 1000)).length = 2 ∧
    ([(2, 0), (2, 0)].filter (fun e : Nat × Nat => 1000 < e.2 + 1000)).length = 0 ∧
    (getStack (sPch Pch.reset [0]) 0).sparesUsed.contains (0 / 2) = true ∧
    (getPch (sPch { Pch.reset with recovering := some 1, confirmed := true } []) 0 0).recovering = some 1 := by decide

theorem witness_stack : mapGet sUp.stackTab 11 = some Stack.reset ∧ Stack.reset.selfRefresh = false ∧
    (85 : Nat) < 86 ∧ Stack.reset.refresh2x = false ∧ (82 : Nat) ≤ 82 ∧ (82 : Nat) < 83 ∧ (85 : Nat) ≤ 85 ∧
    (mapGetD sUp.platens PlatenPower.reset (11 / 2)).state = .s3 ∧ Stack.reset.pchs = [] ∧
    ({ Stack.reset with selfRefresh := true } : Stack).selfRefresh = true ∧ sUp.moduleIdle = false := by decide

/-- An engineering sample whose pin was held, under test unlock; whether a token is valid is open (Config.tokenValid). -/
def sTest (q : Bool) : State :=
  { sUp with sec := { sUp.sec with grade := 2, unlocked := true }, pins := { sUp.pins with tunlkAtReset := true },
             stackTab := [(0, { Stack.reset with quiesced := q, repairs :=
               [{ row := { pch := 0, sid := 0, bg := 0, bank := 0, row := 0 }, hard := false, failed := false }] })] }

/-- A journal that a checkpoint holds up. -/
def holdJournal (s : State) : State := { s with journal := { s.journal with next := 8192, base := 0 } }

theorem witness_journal_held : journalHeld (holdJournal sUp) = true ∧ journalHeld sUp = false ∧ (holdJournal sUp).journal.full = false ∧
    sUp.journal.bootDue = false ∧ sUp.journal.lost = 0 := by decide

/-- TestPortWorksOnlyUnderUnlock: open and shut. -/
theorem witness_test_port : (sTest true).powered = true ∧ (sTest true).formes = [] ∧ (sTest true).journal.full = false ∧
    formeOfStack (sTest false) 0 = none ∧ (getStack (sTest false) 0).pchs = [] ∧ repairOpen (sTest true) 0 = true ∧
    repairOpen sUp 0 = false ∧ repairOpen (holdJournal (sTest true)) 0 = true ∧ (getStack sUp 0).selfRefresh = false ∧ sUp.sec.grade ≠ 2 ∧ formeOfStack (sForme forme0) 1 ≠ none ∧
    hasResource (getStack (sTest true) 0) { pch := 0, sid := 0, bg := 0, bank := 1, row := 3 } true = true := by decide

theorem witness_test_port_used : hasResource { Stack.reset with repairs := (List.range 64).map (fun i =>
    { row := { pch := 0, sid := 0, bg := 0, bank := 0, row := i }, hard := true, failed := false }) }
    { pch := 0, sid := 0, bg := 0, bank := 0, row := 64 } true = false := by decide

/-- GutterLaneSwapsOnceThenRetires: a fresh group, one that swaps, one whose spare is in use; before and after training. -/
theorem witness_gutter : sUp.untrained = false ∧
    ({ sUp with phase := .starting, sec := { sUp.sec with coldStart := true } } : State).untrained = true ∧
    ({ sUp with phase := .starting } : State).powered = true ∧ getLanes sUp 18 1 15 = { failed := 0, spareUsed := false, swapping := false } ∧
    getLanes { sUp with lanes := [(laneKey 0 0 0, { failed := 1, spareUsed := false, swapping := true })] } 0 0 0 =
      { failed := 1, spareUsed := false, swapping := true } ∧
    getLanes { sUp with lanes := [(laneKey 0 0 0, { failed := 1, spareUsed := true, swapping := false })] } 0 0 0 =
      { failed := 1, spareUsed := true, swapping := false } := by decide

/-! ## Memory: results -/

/-- 08 R269: byte 3 is written and byte 4 keeps what it held. -/
theorem test_write_mask : ∃ t, exec (.memoryWrite 0 8 (List.replicate 64 0xAB#8)) sUp = .next t ∧ byteAt t.mem 3 = 0xAB#8 ∧
    byteAt t.mem 4 = 0#8 := ⟨_, rfl, by decide, by decide⟩

/-- 01 R38: with the spare in use, a further lane failure retires the node. -/
theorem test_gutter_retires : ∃ t, exec (.gutterLaneFail 0 0 0)
    { sUp with lanes := [(laneKey 0 0 0, { failed := 1, spareUsed := true, swapping := false })] } = .next t ∧ t.phase = .retired :=
  ⟨_, rfl, rfl⟩

/-! ## Sorts: witnesses -/

/-- A slug with two sorts, register 1 of lane 0 holding `v`. -/
def slugR (v : W32) : Slug := { slug0 with active := 3, regs := [(1, v)] }

def iss (x : Slug) : Option Issue := some { stick := stick0 x, slug := x }

/-- RegisterInstructionsWriteActiveSortsOnly, ExchangesMoveAValueOrReportItInvalid: every register at the highest the stick
has, with one, two and all sorts active. -/
theorem witness_registers : issuing (sSlug slug0) a0 = iss slug0 ∧ issuing (sSlug (slugR 5)) a0 = iss (slugR 5) ∧
    issuing (sSlug { slug0 with active := 2 ^ 32 - 1 }) a0 = iss { slug0 with active := 2 ^ 32 - 1 } ∧
    max 15 (max 15 15) < (stick0 slug0).header.regs ∧ (255 : Nat) < 256 ∧ (31 : Nat) < 32 := by decide

/-- Two sorts of which lane 0 takes the branch, none does, both do. -/
def slugB (ps : SMap Bool) (st : List Diverge) : Slug := { slug0 with active := 3, preds := ps, stack := st }

def takers (x : Slug) : Nat := maskOf ((lanesOf x.active).filter (fun l => predGet x l 0))

def dv (join : Nat) (second : Bool) : Diverge :=
  { join := join, other := if second then 0 else 2, otherPc := 16, secondSide := second, all := 3 }

/-- BranchRunsTakersThenOthersThenUnion: no taker; all take it; they differ, with 31 divergences open and with 32; a slug
that is not at its join, at it on the first side, and at it on the second side. -/
theorem witness_branch : issuing (sSlug (slugB [] [])) a0 = iss (slugB [] []) ∧ takers (slugB [] []) = 0 ∧
    takers (slugB [(0, true), (256, true)] []) = 3 ∧ takers (slugB [(0, true)] []) = 1 ∧
    branchTooDeep (slugB [] []) 0 = false ∧
    branchTooDeep (slugB [(0, true)] (List.replicate 31 (dv 64 false))) 0 = false ∧
    issuing (sSlug (slugB [(0, true)] (List.replicate 32 (dv 64 false)))) a0 =
      iss (slugB [(0, true)] (List.replicate 32 (dv 64 false))) ∧
    branchTooDeep (slugB [(0, true)] (List.replicate 32 (dv 64 false))) 0 = true ∧
    (slugB [(0, true)] [dv 64 false]).stack = [dv 64 false] ∧ (slugB [] [dv 64 false]).active ≠ 0 ∧ a0.next ≠ 64 ∧ a0.next = 16 ∧
    (slugB [] [dv 64 true]).stack = [{ dv 64 false with other := 0, secondSide := true }] := by decide

/-- ExitEndsActiveSortsAndSpecialsAreRead: a slug without divergences; the pair of TIME in the last two registers. -/
theorem witness_exit : issuing (sSlug slug0) a0 = iss slug0 ∧ slug0.stack = [] ∧ (14 : Nat) + 1 < 256 ∧
    14 + sizeRegs (specialSize .time) ≤ (stick0 slug0).header.regs ∧ 15 + sizeRegs (specialSize .lane) ≤ (stick0 slug0).header.regs := by
  decide

/-- FaultingInstructionKillsItsStickAndIsRecorded: the stick's forme and pass are there; the first register too high is 16. -/
theorem witness_stick_fault : issuing (sSlug slug0) a0 = iss slug0 ∧ (getForme (sSlug slug0) 0).isSome = true ∧
    (getPass (sSlug slug0) 0 1).isSome = true ∧ (stick0 slug0).header.regs ≤ max 16 (max 0 0) := by decide

/-- LocalStoreAccessReadsAndWritesItsBytes: the last double word of a local store of 4,096 bytes, and byte 0. -/
theorem witness_local : issuing (sSlug (slugR 4088)) a0 = iss (slugR 4088) ∧ memSize 8 = true ∧ memSize 1 = true ∧
    loadOrd .plain = true ∧ loadOrd .rel = false ∧ storeOrd .rel = true ∧ storeOrd .ar = false ∧ isAcquire .acq = true ∧ max (max 14 (max 14 14) + sizeRegs 8 - 1) 1 < header0.regs ∧
    (∀ l ∈ lanesOf (slugR 4088).active, (regGet (slugR 4088) l 1).toNat % 8 = 0 ∧
      lsInside (stick0 (slugR 4088)) (regGet (slugR 4088) l 1).toNat 8 = true) ∧
    lsInside (stick0 (slugR 4088)) 4092 8 = false ∧ lanesOf slug0.active = [0] := by decide

def slugVa (v : W32) : Slug := { slug0 with regs := [(2, v)] }

/-- DeviceAccessesTranslateAndFencesInvalidate: address 128 translates and its line is clean; address 4 is not aligned for a
double word nor for ZLINE; an address of no entry waits in a record. -/
theorem witness_device : issuing (sSlug (slugVa 128)) a0 = iss (slugVa 128) ∧ max (14 + sizeRegs 8 - 1) (2 + 1) < header0.regs ∧
    addrFaults (stick0 (slugVa 4)) false 8 8 (laneAddrs (slugVa 4) false 2) =
      some { code := .misaligned, addr := 4, lanes := 1, detail := 0 } ∧
    (addrFaults (stick0 (slugVa 4)) false 128 128 (laneAddrs (slugVa 4) false 2)).isSome = true ∧
    addrFaults (stick0 (slugVa 128)) false 8 8 (laneAddrs (slugVa 128) false 2) = none ∧
    addrFaults (stick0 (slugVa 128)) false 128 128 (laneAddrs (slugVa 128) false 2) = none := by decide

/-- The same node with entry 0 in the range cache of galley 0. -/
def sCached (s : State) : State := { s with rangeCaches := [(0, (sortAccess (stick0 slug0) a0 0).eng, [0])] }

theorem witness_device_translates :
    let w := countIssue (sCached (sSlug (slugVa 128))) 0
    let las := laneAddrs (slugVa 128) false 2
    (translateLanes (sortAccess (stick0 (slugVa 128)) a0 0) a0 las w).2 = { ok := [(0, 1 * 128)], denied := [], held := false } ∧
    (translateLanes (sortAccess (stick0 (slugVa 128)) a0 1) a0 las w).2 = { ok := [(0, 1 * 128)], denied := [], held := false } ∧
    linePoisoned (readLines (translateLanes (sortAccess (stick0 (slugVa 128)) a0 0) a0 las w).1 0 0 [1]).2 128 = false := by
  decide +kernel

/-- One lane's request of an address without an entry is held for a forme that holds. -/
theorem lane_held {s : State} {acc : Access} {va : Nat} {f : Forme} (a : SlugAt)
    (hv : (translate s acc va).2 = .fault .noRange none) (hf : getForme s acc.forme = some f) (hr : f.faults = [])
    (hh : reasonHeld acc.eng.cls f.faultHold .noRange = true) :
    (translateLanes acc a [(0, va)] s).2 = { ok := [], denied := [], held := true } := by
  obtain ⟨t, ht, hh⟩ := translate_held hv hf hr hh
  simp [translateLanes, ht, hh]

theorem witness_device_held : (translateLanes (sortAccess (stick0 (slugVa 0x80000000)) a0 0) a0
    (laneAddrs (slugVa 0x80000000) false 2) (countIssue (sSlug (slugVa 0x80000000)) 0)).2 =
      { ok := [], denied := [], held := true } :=
  lane_held a0 rfl rfl rfl (by decide)

/-- A store of inactive lanes only is no slug that issues; a store whose requests all translate to nothing has none. -/
theorem witness_device_empty (s : State) : (translateLanes (sortAccess (stick0 slug0) a0 1) a0 [] s).2 =
    { ok := [], denied := [], held := false } := rfl

/-- The stick whose word at 0 holds `w`, and a sort whose register 1 names word 0. -/
def sWord (w : Nat) (held : List LockHeld) : State :=
  sStick { stick0 { slug0 with locks := held } with ls := writeBytes [] 0 (toBytes 4 w) }

/-- LockIsAcquiredWaitedForAndReleased: the word free, held by this sort, by another sort of this slug and by another slug,
and with fifteen locks held. -/
theorem witness_lock : (issuing (sWord 0 []) a0).map (·.slug) = some slug0 ∧ lanesOf slug0.active = [0] ∧
    (regGet slug0 0 1).toNat % 4 = 0 ∧ lsInside (stick0 slug0) 0 4 = true ∧ bit 0 31 = false ∧
    bit (lockWord a0 0 0) 31 = true ∧ lockSelf a0 0 (lockWord a0 0 0) = true ∧ lockSelf a0 0 (lockWord a0 0 7) = true ∧
    bit (lockWord a0 5 0) 31 = true ∧ lockSelf a0 0 (lockWord a0 5 0) = false ∧ lockWord a0 5 0 ≠ lockWord a0 0 0 ∧
    ofBytes (readBytes (writeBytes [] 0 (toBytes 4 (lockWord a0 0 0))) 0 4) = lockWord a0 0 0 ∧
    lockMine a0 0 0 (lockWord a0 0 0) = true ∧ lockMine a0 0 0 (lockWord a0 0 7) = false ∧
    (List.replicate 15 ({ isLocal := true, addr := 4, lane := 0 } : LockHeld)).length < 16 := by decide

def slugW (w : SlugWait) : Slug := { slug0 with wait := w }

/-- BarriersCountArrivalsAndWaitsEnd: a good barrier 15 of 32 sorts; barrier 16, count 0 and count 33; a phase complete; a
slug that waits for a word; one that waits at a barrier. -/
theorem witness_barrier : issuing (sSlug slug0) a0 = iss slug0 ∧ meetTop (.imm 32) < header0.regs ∧
    meetBad (stick0 slug0) slug0 15 (.imm 32) = [] ∧ meetBad (stick0 slug0) slug0 16 .none = [(0, 32)] ∧
    meetBad (stick0 slug0) slug0 0 (.imm 0) = [(0, 0)] ∧ meetBad (stick0 slug0) slug0 0 (.imm 33) = [(0, 33)] ∧
    ({ count := 1, arrivals := 1 } : Barrier).arrivals + exitedSorts (stick0 slug0) ≥ 1 ∧
    platenRuns (sSlug (slugW (.lock true 3 [(0, 0)] 16 false))) 0 = true ∧
    getStick (sSlug (slugW (.lock true 3 [(0, 0)] 16 false))) 0 0 0 = some (stick0 (slugW (.lock true 3 [(0, 0)] 16 false))) ∧
    (stick0 (slugW (.lock true 3 [(0, 0)] 16 false))).slugs[0]? = some (slugW (.lock true 3 [(0, 0)] 16 false)) ∧
    bit (ofBytes (readBytes (stick0 slug0).ls 0 4)) 31 = false ∧
    (stick0 (slugW (.barrier 2 16))).slugs.findIdx (waitsAt 2) = 0 ∧ waitsAt 2 (slugW (.barrier 2 16)) = true ∧
    mapGet ({ stick0 (slugW (.barrier 2 16)) with barriers := [(2, { count := 2, arrivals := 1 })] } : Stick).barriers 2 =
      some { count := 2, arrivals := 1 } := by decide

/-! ## Sorts: results -/

/-- 06 R193: 0xFFFFFFFF + 1 wraps to 0; −7 / 2 is −3; 7 / 0 is 0; the float 1 + 1 is 2. -/
theorem test_arith : arithResult .addI 0xFFFFFFFF 1 = 0 ∧ arithResult .divS 0xFFFFFFF9 2 = 0xFFFFFFFD ∧
    arithResult .divU 7 0 = 0 ∧ arithResult .addF 0x3F800000 0x3F800000 = 0x40000000 := by decide

/-- 06 R189: an inactive sort keeps its register. -/
theorem test_inactive_keeps : ∃ t, exec (.tallyLive a0 3) (sSlug (slugR 5)) = .next t ∧
    (getSlug t a0).map (fun x => [regGet x 0 3, regGet x 1 3, regGet x 2 3]) = some [3, 3, 0] := ⟨_, rfl, by decide⟩

/-- 06 Table 6.5: ROT.C by 1 in two sorts: lane 0 gets lane 1's value; lane 1's source is not empty here, being of 32 sorts. -/
theorem test_rot : ∃ t, exec (.xchRotC a0 3 1 (-1) 0) (sSlug (slugR 5)) = .next t ∧
    (getSlug t a0).map (fun x => (regGet x 0 3, predGet x 0 0, regGet x 1 3, predGet x 1 0)) = some (5, false, 5, true) :=
  ⟨_, rfl, by decide⟩

/-- 06 R191: the taker runs first, at the target. -/
theorem test_branch : ∃ t, exec (.branch a0 0 64 128) (sSlug (slugB [(0, true)] [])) = .next t ∧
    (getSlug t a0).map (fun x => (x.active, x.pc)) = some (1, 64) := ⟨_, rfl, by decide⟩

/-- 06 R192: a sort that exits runs no more. -/
theorem test_exit : ∃ t, exec (.exit a0) (sSlug slug0) = .next t ∧
    (getSlug t a0).map (fun x => (x.active, x.exited)) = some (0, 1) := ⟨_, rfl, by decide⟩

/-- 06 R219: TRAP is code 0x12. -/
theorem test_trap : ∃ t, exec (.trap a0) (sSlug slug0) = .next t ∧
    (getStick t 0 0 0).map (fun k => (k.dead, k.fault.map (·.code))) = some (true, some 0x12) := ⟨_, rfl, by decide⟩

/-- 09 Table 9.10: an add wraps; the signed and unsigned minimum of −1 and 1; a CAS that fails keeps the old value. -/
theorem test_atomics : atomNew .add 4 0xFFFFFFFF 2 0 = 1 ∧ atomNew .minS 4 0xFFFFFFFF 1 0 = 0xFFFFFFFF ∧
    atomNew .minU 4 0xFFFFFFFF 1 0 = 1 ∧ atomNew .cas 8 5 9 6 = 5 ∧ atomNew .cas 8 5 9 5 = 9 := by decide

/-! ## Tile operations, Press, Brayer: witnesses -/

/-- A tile command block (06 Table 6.7) of an operation whose fields not named are zero. -/
def blk (opc : Nat) (win k type rows cols opb opa dst : Nat) : Nat :=
  packFields [(32, dst), (32, opa), (32, opb), (4, 0), (13, cols), (7, rows), (16, 0), (24, 0), (32, 0), (8, type), (13, k),
    (21, 0), (2, win), (5, 0), (5, 31), (2, 0), (2, 0), (6, opc)]

/-- A tensor of one row of 64 FP32 elements from `base` (06 Table 6.6), in local store or device memory. -/
def tdesc (isLocal : Bool) (base : Nat) : Nat :=
  packFields [(56, base), (8, 0x0B), (32, 64), (24, 1), (16, 1), (40, 256), (40, 256), (39, 0), (1, boolBit isLocal)]

def headerL : StickHeader := { header0 with lsBytes := 65536 }

/-- The stick with bytes in its local store. -/
def stickL (ws : List (Nat × Nat × Nat)) : Stick :=
  { stick0 slug0 with header := headerL, ls := ws.foldl (fun m w => writeBytes m w.1 (toBytes w.2.1 w.2.2)) [] }

def op1 (block : Nat) (started : Bool) : TileOp :=
  { stick := 0, slug := 0, ticket := 0, block := block, pc := 8, lanes := 1, started := started, performed := false,
    readDone := false, done := false, held := false, together := false }

def r0 : OpRef := { platen := 0, galley := 0, stick := 0, slug := 0, ticket := 0 }

/-- A command block of TILE_LOAD at local-store address 0. -/
def sTile : State := sStick (stickL [(0, 32, blk 1 0 0 0x0B 1 32 64 0 1024)])

/-- TileOperationsAreIssuedWaitedForAndEnd: an aligned block of a good opcode; a slug with sixteen operations; a ticket
issued and one not; an operation performed, with its read-done and without. -/
theorem witness_tile : (issuing sTile a0).isSome = true ∧ max 15 15 < headerL.regs ∧ (slugOps sTile a0).length < 16 ∧
    lsInside (stickL []) 0 32 = true ∧ tbOpc (lsNat (stickL [(0, 32, blk 1 0 0 0x0B 1 32 64 0 1024)]) 0 32) = 1 ∧
    blockReservedBad (lsNat (stickL [(0, 32, blk 1 0 0 0x0B 1 32 64 0 1024)]) 0 32) = false ∧ tbOpc (blk 7 0 0 0 0 0 0 0 0) = 7 ∧
    (slugOps (sOps (stick0 slug0) ((List.range 16).map (fun i => { op1 0 false with ticket := i })) []) a0).length = 16 ∧
    issuing (sSlug { slug0 with tickets := 1 }) a0 = iss { slug0 with tickets := 1 } ∧
    (regGet slug0 (lowLane slug0) 0).toNat < 1 ∧ slug0.tickets ≤ (regGet slug0 (lowLane slug0) 0).toNat := by decide

theorem witness_tile_events :
    let o := { op1 (blk 1 0 0 0x0B 1 32 64 0 1024) true with performed := true }
    let s := sOps (stick0 slug0) [o] []
    platenRuns s r0.platen = true ∧ getOp s r0 = some o ∧ o.performed = true ∧ getStick s 0 0 0 = some (stick0 slug0) ∧
    (stick0 slug0).slugs[r0.slug]? = some slug0 ∧
    getOp (sOps (stick0 slug0) [{ o with readDone := true }] []) r0 = some { o with readDone := true } ∧
    getOp (sOps (stick0 slug0) [{ o with together := true }] []) r0 = some { o with together := true } := by decide

def tload (opc : Nat) (base : Nat) (isLocal : Bool) : State :=
  sOps (stickL [(64, 32, tdesc isLocal base)]) [op1 (blk opc 0 0 0x0B 1 32 64 0 1024) false] []

/-- TileLoadAndStoreMoveTheBox: a tensor in local store, one in mapped memory, one that is not mapped. -/
theorem witness_box : startsNext (tload 1 2048 true) r0 (op1 (blk 1 0 0 0x0B 1 32 64 0 1024) false) = true ∧
    (boxCheck (tload 1 2048 true) (stickL [(64, 32, tdesc true 2048)]) (blk 1 0 0 0x0B 1 32 64 0 1024)).toOption =
      some (TensorDesc.ofNat (tdesc true 2048)) ∧
    (boxCheck (tload 2 0 false) (stickL [(64, 32, tdesc false 0)]) (blk 2 0 0 0x0B 1 32 64 0 1024)).toOption =
      some (TensorDesc.ofNat (tdesc false 0)) ∧
    (TensorDesc.ofNat (tdesc true 2048)).isLocal = true ∧ (TensorDesc.ofNat (tdesc false 0)).isLocal = false ∧
    opNow (tload 1 2048 true) r0 1 = some { op := op1 (blk 1 0 0 0x0B 1 32 64 0 1024) false, stick := stickL [(64, 32, tdesc true 2048)] } ∧
    (opNow (tload 2 0 false) r0 2).isSome = true := by decide +kernel

theorem witness_box_lines : ∀ kind ∈ [0, 1],
    let d := TensorDesc.ofNat (tdesc false 0)
    let q := translateLines (opAccess (stickL []) r0 kind) (.tileOp r0) (runLines (boxRuns d 0 0 0 1 32))
      (sCached (tload 1 0 false))
    q.2.denied = none ∧ q.2.held = false ∧ (boxRuns d 0 0 0 1 32).all (fun x =>
      (runBytes (readCaseLines q.1 0 q.2.ok).2 x).isSome) = true := by decide +kernel

/-- A box of one line that is not mapped waits. -/
theorem witness_box_held : (translateLines (opAccess (stickL []) r0 0) (.tileOp r0)
    (runLines (boxRuns (TensorDesc.ofNat (tdesc false 0x80000000)) 0 0 0 1 32)) (tload 1 0x80000000 false)).2.held = true := by
  have hl : runLines (boxRuns (TensorDesc.ofNat (tdesc false 0x80000000)) 0 0 0 1 32) = [(0x1000000, 0x80000000)] := by
    decide +kernel
  obtain ⟨t, ht, hh⟩ := translate_held (s := tload 1 0x80000000 false) (a := opAccess (stickL []) r0 0) (va := 0x80000000)
    rfl rfl rfl (by decide)
  rw [hl]
  simp [translateLines, ht, hh]

def bank0 (win : Nat) : Bank := { stick := 0, slug := 0, win := win, terms := 0, windows := [] }

/-- The galley with one Press operation and bank 0 of Press 0 open. -/
def sPress (k : Stick) (block : Nat) (started : Bool) (banks : SMap Bank) : State :=
  sOps k [op1 block started] [(0, { Press.empty with banks := banks })]

/-- PressBanksAreOpenedAndRoundedOut: an operation that may enter, an open without and with a seed, an output. -/
theorem witness_press : platenRuns (sPress (stickL []) (blk 3 1 0 0 0 0 0 0 0) false []) 0 = true ∧
    getOp (sPress (stickL []) (blk 3 1 0 0 0 0 0 0 0) false []) r0 = some (op1 (blk 3 1 0 0 0 0 0 0 0) false) ∧
    isPressOp (blk 3 1 0 0 0 0 0 0 0) = true ∧ isPressOp (blk 6 0 0 0 0 0 0 0 0) = true ∧
    mayEnter (sPress (stickL []) (blk 3 1 0 0 0 0 0 0 0) false []) r0 (op1 (blk 3 1 0 0 0 0 0 0 0) false) = true ∧
    (pressNow (sPress (stickL []) (blk 3 3 0 0 0 0 0 0 0) true []) r0 3).isSome = true ∧
    seedBad (blk 3 3 0 0 0 0 0 0 0) = false ∧ bankSpan (tbWin (blk 3 3 0 0 0 0 0 0 0)) = 2 ∧
    tbSeed (blk 3 3 0 0x0B 0 0 0 0 0 + 2 ^ 238) = true ∧ seedBad (blk 3 3 0 0x0B 0 0 0 0 0 + 2 ^ 238) = false ∧
    lsInside (stickL []) 0 (tileBytes 0x0B 64 32) = true ∧
    (∀ i, i < 2 → positionUsed (getPress (sPress (stickL []) (blk 3 3 0 0 0 0 0 0 0) true []) r0 0) (0 + i) = false) := by
  decide +kernel

/-- The same at both boundaries: bank 3 with one position, bank 2 with two. -/
theorem witness_press_out : let s := sPress (stickL []) (blk 6 1 0 0x0B 0 0 0 0 1024) true [(0, bank0 1)]
    (pressNow s r0 6).isSome = true ∧ tagBad s (stickL []) 31 false = false ∧ typeKind 0x0B = some (.float ffFP32) ∧
    outTarget s (stickL []) (blk 6 1 0 0x0B 0 0 0 0 1024) = (0x0B, 0) ∧
    lsInside (stickL []) 1024 (tileBytes 0x0B 64 32) = true ∧ ownBank s r0 (blk 6 1 0 0x0B 0 0 0 0 1024) = some (bank0 1) ∧
    tbClose (blk 6 1 0 0x0B 0 0 0 0 1024 + 2 ^ 239) = true := by decide +kernel

/-- The type byte of B before its tile; a slice descriptor of three slices. -/
def mmaStick : Stick := stickL [(4096 - 1, 1, 0x31), (0, 16, packFields [(19, 8192), (19, 2048), (19, 20480), (19, 24576), (4, 3), (1, 1)]),
  (16, 16, packFields [(19, 8192), (19, 2048), (19, 20480), (19, 24576), (4, 3), (1, 1)])]

/-- ProductsAreAddedToEveryWindow: INT8 operands with a 128-bit integer window; sliced operands with a 256-bit window. -/
theorem witness_products :
    let s := sPress mmaStick (blk 4 0 32 0x31 0 0 4096 6144 0) true [(0, bank0 0)]
    let s' := sPress mmaStick (blk 5 3 32 0 0 0 16 0 0) true [(0, bank0 3)]
    ownBank s r0 (blk 4 0 32 0x31 0 0 4096 6144 0) = some (bank0 0) ∧ (pressNow s r0 4).isSome = true ∧
    mmaFault s r0 mmaStick (blk 4 0 32 0x31 0 0 4096 6144 0) = none ∧
    ownBank s' r0 (blk 5 3 32 0 0 0 16 0 0) = some (bank0 3) ∧ (pressNow s' r0 5).isSome = true ∧
    mmaSFault s' r0 mmaStick (blk 5 3 32 0 0 0 16 0 0) = none := by decide +kernel

/-- A Brayer descriptor (07 Table 7.1): `kind`, sizes, types, places; one step 0x00 of source 0 where `steps` is 1. -/
def brd (kind steps cols rows dtype dst t0 t1 t2 t3 s0 s1 s2 s3 : Nat) : Nat :=
  packFields [(19, s0), (19, s1), (19, s2), (19, s3), (8, t0), (8, t1), (8, t2), (8, t3), (28, 0), (19, dst), (8, dtype), (7, 0),
    (7, rows), (13, cols), (4, steps), (2, 0), (3, 0), (3, 0), (2, 0), (2, kind)]

def sBrayer (d : Nat) (more : List (Nat × Nat × Nat)) : Stick × State :=
  let k := stickL ((0, 128, d) :: more)
  (k, sOps k [op1 (blk 7 0 0 0 0 0 0 0 0) false] [])

/-- BrayerWritesWhatItsDescriptorNames: the checks of the block and the header. -/
theorem witness_brayer_head : tbOpa (blk 7 0 0 0 0 0 0 0 0) % 32 = 0 ∧ lsInside (stickL []) 0 128 = true := by decide

/-- One step ABS of source 0 (07 Table 7.3) and a store of 32 FP32 elements at 2,048. -/
def chainD : Nat := brd 0 1 32 1 0x0B 2048 0x0B 0 0 0 1024 0 0 0 + 2 ^ 512 * 2 ^ 16 * 0x0B

theorem witness_chain : let n := sBrayer chainD []
    let c := Chain.ofNat (lsNat n.1 0 128)
    c.headBad false = false ∧ (brayerNow n.2 r0 .chain).isSome = true ∧
    chainHeadBad n.2 n.1 (blk 7 0 0 0 0 0 0 0 0) c = false ∧ c.nstep ≠ 0 ∧ c.rows ≠ 0 ∧ c.cols ≠ 0 ∧ dirOf c.rnd = some .away ∧
    wfOf c.wf = some .fp32 ∧ typeKind (chainTarget n.2 n.1 (blk 7 0 0 0 0 0 0 0 0) c).1 = some (.float ffFP32) ∧
    regionFault n.1 (c.named.map (chainSrc c) ++ [chainDst n.2 n.1 (blk 7 0 0 0 0 0 0 0 0) c]) = none ∧
    overlapBad (chainDst n.2 n.1 (blk 7 0 0 0 0 0 0 0 0) c) (c.named.map (chainSrc c)) = false := by decide +kernel

/-- No rows and no step; the same chain in the other kinds' places. -/
theorem witness_chain_empty : let n := sBrayer (brd 0 0 0 0 0x0B 2048 0 0 0 0 0 0 0 0) []
    let c := Chain.ofNat (lsNat n.1 0 128)
    c.headBad false = false ∧ (brayerNow n.2 r0 .chain).isSome = true ∧
    chainHeadBad n.2 n.1 (blk 7 0 0 0 0 0 0 0 0) c = false ∧ c.nstep = 0 := by decide +kernel

/-- SLICE, SPREAD and UPDATE of no rows. -/
theorem witness_empty :
    let n (k t0 : Nat) : Stick × State := sBrayer (brd k 0 32 0 0 2048 t0 0x32 0 0 1024 4096 0 0)
      [(2048, 16, packFields [(19, 8192), (19, 64), (19, 20480), (19, 24576), (4, 3), (1, 1)])];
    let u := sBrayer (brd 3 0 32 0 0x31 2048 0x08 0x07 0x08 0x09 1024 4096 6144 8192) []
    let c (n : Stick × State) := Chain.ofNat (lsNat n.1 0 128)
    (c (n 1 0x0B)).rows = 0 ∧ (c (n 1 0x0B)).headBad false = false ∧ (brayerNow (n 1 0x0B).2 r0 .slice).isSome = true ∧
    sliceHeadBad (n 1 0x0B).2 (n 1 0x0B).1 (blk 7 0 0 0 0 0 0 0 0) (c (n 1 0x0B)) = false ∧
    (brayerNow (sBrayer (brd 2 0 32 0 0 2048 0x0B 0 0 0 1024 0 0 0) []).2 r0 .spread).isSome = true ∧
    spreadHeadBad (c (sBrayer (brd 2 0 32 0 0 2048 0x0B 0 0 0 1024 0 0 0) [])) = false ∧
    (brayerNow u.2 r0 .update).isSome = true ∧ updateHeadBad u.2 u.1 (blk 7 0 0 0 0 0 0 0 0) (c u) = false := by decide +kernel

/-- 32 zero FP32 elements, exponent 0, three slices. -/
theorem witness_slice : let d := packFields [(19, 8192), (19, 64), (19, 20480), (19, 24576), (4, 3), (1, 1)]
    let n := sBrayer (brd 1 0 32 1 0 2048 0x0B 0x32 0 0 1024 4096 0 0) [(2048, 16, d)]
    let c := Chain.ofNat (lsNat n.1 0 128)
    c.headBad false = false ∧ (brayerNow n.2 r0 .slice).isSome = true ∧
    sliceHeadBad n.2 n.1 (blk 7 0 0 0 0 0 0 0 0) c = false ∧ typeKind (c.typeOf 0) = some (.float ffFP32) ∧
    c.rows ≠ 0 ∧ c.cols ≠ 0 ∧ regionFault n.1 [sliceSrc c, sliceExps c, { base := c.dst, len := 16, align := 16 }] = none ∧
    sliceLate n.1 c = none ∧ sliceOverlap n.1 c = false ∧ sliceRangeBad false n.1 c (.float ffFP32) = false := by decide +kernel

theorem witness_spread : let n := sBrayer (brd 2 0 32 1 0 2048 0x0B 0 0 0 1024 0 0 0) []
    let c := Chain.ofNat (lsNat n.1 0 128)
    c.headBad false = false ∧ (brayerNow n.2 r0 .spread).isSome = true ∧ spreadHeadBad c = false ∧
    typeKind (c.typeOf 0) = some (.float ffFP32) ∧ c.rows ≠ 0 ∧ c.cols ≠ 0 ∧
    regionFault n.1 [sliceSrc c, spreadDst c] = none ∧ overlapBad (spreadDst c) [sliceSrc c] = false := by decide +kernel

theorem witness_update : let n := sBrayer (brd 3 0 32 1 0x31 2048 0x08 0x07 0x08 0x09 1024 4096 6144 8192) []
    let c := Chain.ofNat (lsNat n.1 0 128)
    c.headBad false = false ∧ (brayerNow n.2 r0 .update).isSome = true ∧
    updateHeadBad n.2 n.1 (blk 7 0 0 0 0 0 0 0 0) c = false ∧ c.rows ≠ 0 ∧ c.cols ≠ 0 ∧
    regionFault n.1 (updateRegions c) = none ∧ pairsMeet (updateRegions c) = false := by decide +kernel

/-! ## Tile operations, Press, Brayer: results -/

/-- 03 Table 3.1: INT8 with INT8 uses the 128-bit integer window, FP16 with FP16 the 192-bit one; INT8 with FP16 has none. -/
theorem test_pair_window : pairWindow 0x31 0x31 = some (0, 4) ∧ pairWindow 0x0A 0x0A = some (2, 2) ∧ pairWindow 0x31 0x0A = none := by
  decide

/-- 02 Table 2.1: type bytes 0x01 and 0x33 are valid, 0x00, 0x0D and 0x40 are not; 32 elements of 4 bits take 16 bytes. -/
theorem test_types : typeValid 0x01 = true ∧ typeValid 0x33 = true ∧ typeValid 0 = false ∧ typeValid 0x0D = false ∧
    typeValid 0x40 = false ∧ blockBytes 0x01 = 16 := by decide

/-- 06 R203: the first ticket of a slug is 0, and the next is 1. -/
theorem test_ticket : (getSlug (after (.tile a0 1 3) sTile) a0).map (fun x => (x.tickets, regGet x 0 3, x.pc)) = some (1, 0, 16) := by
  decide +kernel

/-! ## Passes, translation: witnesses -/

def policy0 (proofed : Bool) : Policy :=
  { proofed := proofed, adapt := false, depth := 8, margin := 0, rerunLimit := 3, ovfThresh := 0, hold := 7, word := 0 }

/-- An FP8 binding with one raise, its visible buffer at page 0 and its staging buffer at page 2. -/
def out0 (proofed : Bool) : OutBinding :=
  { type := 0x03, s0 := 0, histTop := 0, rungs := 1, elements := 32, rlen := 32, visVa := 0, visPa := 0, stgVa := 0x2000, stgPa := 0x2000,
    aper := false, mesh := false, policy := policy0 proofed, history := [], holdType := 0, holdLeft := 0,
    committed := none }

def layer0 (proofed : Bool) : Layer :=
  { num := 0, outs := [out0 proofed], ins := [], variants := [{ inTypes := [], header := header0, codeOff := 0, codeLen := 0 }] }

def plate0 (proofed : Bool) : Plate := { measurement := 0, layers := [layer0 proofed], regions := [], sealKey := none }

def mb0 : MboxId := .host 0

/-- Forme 0 with a command in slot 5 of port 0, in a phase of its work. -/
def sCmd (f : Forme) (phase : SlotPhase) (wait opc c : Nat) : State :=
  let s := sForme f
  modPort s 0 (fun p => { p with mbox := { p.mbox with
    bytes := writeBytes (writeBytes [] 2560 (toBytes 2 opc)) 2688 (toBytes 64 c),
    slots := [(5, { Slot.reset with phase := phase, waitId := wait, pastStep8 := true })] } })

def fPlate (proofed : Bool) (qs : List Pass) : Forme := { forme0 with plate := some (plate0 proofed), passes := qs }

/-- PassesAreLaunchedAndSticksStart: no sticks; 1 stick without a plate; 2^32 − 1 sticks with one. -/
theorem witness_launch : startsCmd (sCmd (fPlate true []) .ready 0 0x50 0) mb0 5 0x50 = some 0 ∧
    formeOfMbox (sCmd (fPlate true []) .ready 0 0x50 0) mb0 = some 0 ∧ lcSticks 0 = 0 ∧ lcSticks (2 ^ 32 - 1) ≠ 0 ∧
    firstBad (launchChecks none 1) = some (stNoPlate, 0) ∧
    firstBad (launchChecks (some (plate0 true)) (2 ^ 32 - 1)) = none ∧ launchLayer (plate0 true) 1 = some (layer0 true) ∧
    (variantFor (plate0 true) (layer0 true)).isSome = true := by decide +kernel

/-- A running pass of `n` sticks of which `d` have started, with bindings of a policy. -/
def pass1 (proofed : Bool) (d n : Nat) : Pass :=
  { pass0 with parts := [{ platen := 0, first := 0, next := d, stop := n, turn := 0, placing := true }], nsticks := n, outs := [(out0 proofed).now] }

def part0 : Part := { platen := 0, first := 0, next := 0, stop := 1, turn := 0, placing := true }

theorem witness_start : let s := sForme { forme0 with passes := [pass1 true 0 1] }
    platenRuns s 0 = true ∧ formeOfPlaten s 0 = some 0 ∧ pendingPass s 0 0 = some (pass1 true 0 1) ∧
    getPass s 0 1 = some (pass1 true 0 1) ∧
    (pass1 true 0 1).parts.find? (fun x => x.platen = 0) = some part0 ∧
    hasRoom (getGalley s 0 0) (pass1 true 0 1) = true ∧
    galleyTurn s (pass1 true 0 1) part0 0 = true ∧ (63 : Nat) < 64 := by decide +kernel

/-- StickEnd: a stick whose sorts have exited, and one that has faulted with a local lock held. -/
theorem witness_stick_end : stickDone (stick0 { slug0 with active := 0 }) = true ∧
    (getGalley (sSlug { slug0 with active := 0 }) 0 0).ops.any (fun o => o.stick == 0 && !o.done) = false ∧
    (getStick (sStick { stick0 { slug0 with locks := [{ isLocal := true, addr := 0, lane := 0 }] } with dead := true }) 0 0 0).map (·.dead) =
      some true ∧ (getPass (sSlug slug0) 0 1).isSome = true ∧ (getForme (sSlug slug0) 0).isSome = true := by decide

def stats1 (ovf : Nat) : Stats := { statsZero with elements := 1, ovf := ovf, amax := some (9, 0) }

/-- The last stick of a pass has ended, with the counts of its galley. -/
def sOver (proofed : Bool) (ovf : Nat) (faults : List StickFault) : State :=
  { sForme (fPlate proofed [{ pass1 proofed 1 1 with faults := faults }]) with
    galleys := [(0, { Galley.reset with proof := [(32, stats1 ovf)] })] }

def fault1 : StickFault :=
  { passSeq := 1, stick := 0, lanes := 1, addr := 0, pc := 8, code := 0x12, slug := 0, attempt := 0, platen := 0, galley := 0, detail := 0 }

def over1 (proofed : Bool) (ovf : Nat) (faults : List StickFault) : Pass :=
  let q := { pass1 proofed 1 1 with faults := faults }
  { q with records := attemptRecords (sOver proofed ovf faults) (fPlate proofed [q]) q }

/-- AttemptsEndAndSwapsExchangeBuffers: an attempt that is over; a stick fault; an overflow that can be raised; none, with
and without a proofed binding. -/
theorem witness_attempt : (sOver true 1 []).up = true ∧ attemptOver (sOver true 1 []) (pass1 true 1 1) = true ∧
    (over1 true 1 [fault1]).faults.any (fun r => r.attempt = 0) = true ∧ (over1 true 1 []).faults.any (fun r => r.attempt = 0) = false ∧
    (plate0 true).layerNum 0 = some (layer0 true) ∧
    (List.range 1).any ((over1 true 1 []).canRaise (layer0 true)) = true ∧
    (List.range 1).any ((over1 true 0 []).canRaise (layer0 true)) = false ∧
    (List.range 1).any ((over1 false 1 []).canRaise (layer0 false)) = false ∧
    proofedBindings (pass1 true 1 1) (layer0 true) = [out0 true] ∧ proofedBindings (pass1 false 1 1) (layer0 false) = [] ∧
    (pass1 true 1 1).outs.length ≤ (layer0 true).outs.length := by decide +kernel

def entryK (id page : Nat) (k : RangeKind) (st : RangeState) : RangeEntry :=
  { entry0 with id := id, vaPage := page, pages := 1, paPage := page, kind := k, state := st }

def inval0 (p : InvPurpose) (toAck : List Nat) : Inval :=
  { id := 7, forme := 0, ids := [1, 2], purpose := p, toReceive := [], toAck := toAck, drained := 0, faulted := 0, tInval := 0, tDone := 0 }

def fSwap : Forme := { fPlate true [{ pass1 true 1 1 with phase := .swapping }] with
  ranges := [entryK 1 0 .visible .swapping, entryK 2 2 .staging .swapping] }

theorem witness_swap : let s := { sForme fSwap with invals := [inval0 (.swap 1) []] }
    s.up = true ∧ (getPass s 0 1).map (·.phase) = some .swapping ∧
    s.invals.find? (fun i => i.forme = 0 ∧ i.purpose = .swap 1) = some (inval0 (.swap 1) []) ∧
    swapPartner fSwap (proofedBindings (pass1 true 1 1) (layer0 true)) (entryK 1 0 .visible .swapping) =
      some (entryK 2 2 .staging .swapping) ∧
    swapPartner fSwap (proofedBindings (pass1 true 1 1) (layer0 true)) (entryK 2 2 .staging .swapping) =
      some (entryK 1 0 .visible .swapping) := by decide +kernel

/-- InvalidationsClearCachesAndEnd: a mapped and an unmapped address; a die that must receive and one that must
acknowledge; each purpose with every acknowledgement in. -/
theorem witness_inval : (sForme forme0).powered = true ∧ entryAt forme0 0x3FFF = some entry0 ∧ entryAt forme0 0x4000 = none ∧
    entry0.state = .valid ∧
    getInval { sForme forme0 with invals := [{ inval0 (.swap 1) [0, 6] with toReceive := [6] }] } 7 =
      some { inval0 (.swap 1) [0, 6] with toReceive := [6] } ∧ (0 : Nat) ∉ [6] ∧
    getInval { sForme forme0 with invals := [inval0 (.unmap mb0 5) []] } 7 = some (inval0 (.unmap mb0 5) []) ∧
    (mapGet (sForme forme0).ports 0).isSome = true ∧ MboxThere (sForme forme0) (.core 0) := by
  refine ⟨by decide, by decide, by decide, by decide, by decide, by decide, by decide, by decide, ?_⟩
  show (getForme (sForme forme0) 0).isSome = true
  decide

def faultRec0 (reason : Reason) (resolved : Bool) : FaultRec :=
  { faultId := 0, state := .opened, unit := 0, die := 0, firstClass := 1, classes := 2, access := 1, reason := reason, covered := false,
    rangeId := 0, count := 1, va := 0, tFirst := 0, waiters := [(.sort a0 1, { cls := 1, die := 0, unit := 0 }, 0, 0)],
    resolved := resolved }

/-- The addresses of a walk of the only group lie in Lumiz's area of stack 0, wherever the table lies there. -/
theorem place_below (r p i : Nat) (hi : i < 8) : 0 * 2 ^ 37 + 0x17FC000000 + (1 - r) * 2 ^ 25 + p % 65281 * 512 + 512 * 0 + 64 * i <
    0x1800000000 := by omega

theorem walk_below (i : Nat) (hi : i < 8) : walkGroup 0 forme0 0 + 64 * i < 0x1800000000 := by
  have e : ((walkIndex forme0).filter (fun v => decide (v * 4096 ≤ 0))).length - 1 = 0 := by decide
  have m : tableStack forme0 = 0 := by decide
  rw [walkGroup, tableBase, e, m]
  have o : reservedOffset = 0x17FC000000 := rfl
  generalize ringHalf = r, Config.tablePlace 0 = p
  rw [o]
  exact place_below r p i hi

theorem below_present (pa : Nat) (b : pa < 0x1800000000) : paStack pa = 0 ∧ paAbsent pa = false := by
  have h : paStack pa = 0 := by simp only [paStack]; omega
  have r : paRow pa < 24576 := by simp only [paRow, bits]; omega
  refine ⟨h, ?_⟩
  simp only [paAbsent, h, Bool.or_eq_false_iff, decide_eq_false_iff_not]
  omega

theorem clean_no_lane (pa : Nat) : laneDead (sForme forme0) pa = none := by
  have e : symbolErrors (sForme forme0) pa = [] := rfl
  have p : isPoisoned (sForme forme0) pa = false := rfl
  have c : (rsCorrect (patternAdd [] [])).isNone = false := by decide +kernel
  unfold laneDead
  simp only [e, p, Bool.false_eq_true, if_false, c, Bool.false_and]

/-- A forme's walk of its only group stays in its lowest stack and finds no request waiting. -/
theorem witness_walk (i : Nat) (hi : i < 8) : let pa := walkGroup 0 forme0 0 + 64 * i
    let c := getPch (sForme forme0) (paStack pa) (paPch pa)
    paAbsent pa = false ∧ formeOfStack (sForme forme0) (paStack pa) = some 0 ∧ laneDead (sForme forme0) pa = none ∧
      pchBlocked (sForme forme0) (paStack pa) (paPch pa) = false ∧ c.queue = [] ∧ c.held = [] := by
  have b := below_present _ (walk_below i hi)
  have q (p : Nat) : getPch (sForme forme0) 0 p = Pch.reset := rfl
  refine ⟨b.2, by rw [b.1]; decide, clean_no_lane _, ?_, ?_, ?_⟩
  · rw [b.1, pchBlocked, q]
    rfl
  · rw [b.1, q]
    rfl
  · rw [b.1, q]
    rfl

/-- HeldRequestResumesOrIsDenied: a resolved record whose address is mapped now, and an open NO_RANGE record. -/
theorem witness_held : let s (r : FaultRec) : State :=
      { sForme { forme0 with faults := [r] } with
        galleys := (sSlug (slugW .fault)).galleys, rangeCaches := [(0, { cls := 1, die := 0, unit := 0 }, [0])] }
    faultById (s (faultRec0 .noRange true)) 0 0 = some (faultRec0 .noRange true) ∧
    faultById (s (faultRec0 .noRange false)) 0 0 = some (faultRec0 .noRange false) ∧
    getStick (s (faultRec0 .noRange true)) 0 0 0 = some (stick0 (slugW .fault)) ∧
    stillWaits (setFaultState (s (faultRec0 .noRange true)) 0 0 .moved) 0 (sameSlug a0) = false ∧
    (translate (setFaultState (s (faultRec0 .noRange true)) 0 0 .moved)
      { forme := 0, eng := { cls := 1, die := 0, unit := 0 }, kind := 0, pass := some 1 } 0).2 = .ok 0 ∧
    (translate (setFaultState (s (faultRec0 .noRange true)) 0 0 .moved)
      { forme := 0, eng := { cls := 1, die := 0, unit := 0 }, kind := 0, pass := some 1 } 0).1.phase = .running := by decide +kernel

/-- A report that waits in an open NO_RANGE record. -/
theorem witness_held_report :
    let r : FaultRec := { faultRec0 .noRange false with waiters := [(.copy mb0 5, { cls := 4, die := 6, unit := 0 }, 1, 0)] }
    let s := sCmd { forme0 with faults := [r] } .ready 0 0x51 0
    faultById s 0 0 = some r ∧ r.resolved = false ∧ (getSlot s mb0 5).phase = .ready ∧
    slotOpcode (getMbox s mb0) 5 ∈ [0x02, 0x51, 0x70, 0x71] := by decide +kernel

/-! ## Passes, translation: results -/

/-- 06 R182: 7 sticks over three Platens are 3, 2 and 2. -/
theorem test_divide : (dividePass [1, 4, 5] 7).map (fun x => (x.platen, x.first, x.stop)) = [(1, 0, 3), (4, 3, 5), (5, 5, 7)] := by decide

/-- 06 R186: 32 sorts of 16 registers take 512 of 131,072 registers; the most sticks in a galley is 32. -/
theorem test_resident : residentSticks header0 none = 32 ∧ residentSticks { header0 with sorts := 2048 } none = 1 := by decide

/-- 05 Table 5.6: FP8 E4M3 goes on to BF16, BF16 to FP32, and FP32 no further. -/
theorem test_rungs : nextRung 0x03 = some 0x09 ∧ nextRung 0x09 = some 0x0B ∧ nextRung 0x0B = none := by decide

/-- 10 Table 10.6: a write without W is PERMISSION, an aperture access without APER as well, a fetch is a read. -/
theorem test_reasons : entryRefuses { forme := 0, eng := { cls := 1, die := 0, unit := 0 }, kind := 1, pass := none } { entry0 with w := false } =
      some .permission ∧
    entryRefuses { forme := 0, eng := { cls := 5, die := 0, unit := 0 }, kind := 0, pass := none } { entry0 with aper := false } =
      some .permission ∧
    entryRefuses { forme := 0, eng := { cls := 1, die := 0, unit := 0 }, kind := 1, pass := none } { entry0 with kind := .locked } =
      some .locked := by decide

/-- 05 R157, 10 R343: the swap exchanges the physical pages 0 and 2. -/
theorem test_swap : (getForme (after (.swapComplete 0 1) { sForme fSwap with invals := [inval0 (.swap 1) []] }) 0).map
    (fun f => f.ranges.map (fun e => (e.paPage, e.state))) = some [(2, .valid), (0, .valid)] := by decide +kernel

/-! ## The mailbox and its commands: witnesses -/

/-- What a request of a requester carries; SlotAndRegisterWritesReachTheirPlace: a byte of slot 0 and the top byte of slot 63, a slot owned and one free, a known
and an unknown requester, an MSI-X write at both ends of the table and beyond them, and configuration space. -/
def info (rid : Nat) : ReqInfo := { rid := rid, atField := 0, pasid := false, io := false, tag := 3 }

theorem witness_writes : let s := sCmd forme0 .ready 0 0x30 0
    s.powered = true ∧ (mapGet s.ports 0).isSome = true ∧ linkOpen s 0 = true ∧ reqRefused (getPort s 0) (info 9) true = none ∧
    writeHeld s 0 = false ∧ (getPort s 0).waiting = [] ∧ s.idleReqs = [] ∧ (getPort s 0).accepts 9 = true ∧
    (getPort s 0).accepts 8 = false ∧ (getPort s 0).memSpace = true ∧ bit 6 2 = (getPort s 0).busMaster ∧ bit 6 1 = true ∧
    bit 4 2 = (getPort s 0).busMaster ∧ bit 4 1 = false ∧ (0x7FFF : Nat) / 512 = 63 ∧ (0 : Nat) / 512 = 0 ∧ (getSlot s mb0 5).owned = true ∧
    (getSlot s mb0 63).owned = false ∧ 0x8000 < 0xA000 + [0#8].length ∧ 0x8000 < 0xA3FF + [0#8].length ∧
    0x8000 < 0xA400 + [0#8].length ∧ (0xA400 : Nat) < configBase ∧ (getPort s 0).link = .l0 ∧ configBase ≤ 0x100000 := by
  decide +kernel

/-- A sealed slot whose header has AFTER_CNT `n` and whose first entry names SEQ 3 of port 0; the command is IDENTIFY. -/
def sSealed (phase : SlotPhase) (n seq : Nat) (history : List (Nat × Nat)) : State :=
  modPort (sForme forme0) 0 (fun p => { p with mbox := { p.mbox with
    bytes := [(2560, 2624, packFields [(16, 1), (4, n)]), (2624, 2632, if n = 0 then 0 else 3 + 2 ^ 63),
      (3064, 3072, seq + 2 ^ 56 * 0xC5)].foldl (fun m x => writeBytes m x.1 (toBytes (x.2.1 - x.1) x.2.2)) [],
    slots := [(5, { Slot.reset with phase := phase, tSeal := 4 })], history := history } })

def taken (s : State) : State :=
  modSlot s mb0 5 (fun x => { x with tTaken := s.now, phase := .waitAfter, afterBad := failedBefore s mb0 5 })

/-- SlotsAreTakenInOrderAndReleased: a good slot without and with an AFTER list, one with SEQ zero; a list that has
completed, with the named command OK and failed; a hold that has ended. -/
theorem witness_take : (sSealed .sealed 0 7 []).up = true ∧ firmwareFull (sSealed .sealed 0 7 []) = false ∧
    nextSealed (sSealed .sealed 0 7 []) = some (mb0, 5) ∧
    firstBad (takeChecks (taken (sSealed .sealed 0 7 [])) mb0 5) = none ∧
    firstBad (takeChecks (taken (sSealed .sealed 0 0 [])) mb0 5) = some (stBadSeq, 0x1F8) ∧
    firstBad (takeChecks (taken (sSealed .sealed 1 7 [(3, 0)])) mb0 5) = none ∧
    firstBad (takeChecks (taken (sSealed .sealed 1 7 [])) mb0 5) = some (stBadAfter, 0x40) := by decide +kernel

theorem witness_release : let s (st : Nat) : State := sSealed .waitAfter 1 7 [(3, st)]
    (getSlot (s 0) mb0 5).phase = .waitAfter ∧ hdrAfterCnt (slotHeader (getMbox (s 0) mb0) 5) = 1 ∧
    afterWhere (getMbox (s 0) mb0) 5 0 1 (fun e => !afterDone (s 0) mb0 5 e) = none ∧
    afterFailed (s 0xFF) mb0 5 = none ∧ firmwareFull (s 0) = false ∧
    afterFailed (modSlot (s 0x100) mb0 5 (fun x => { x with afterBad := failedBefore (s 0x100) mb0 5 })) mb0 5 = some 0x40 ∧
    (getSlot (sSealed .held 0 7 []) mb0 5).phase = .held ∧ heldNow (sSealed .held 0 7 []) mb0 5 = false := by decide +kernel

/-- Eight commands in their firmware part. -/
theorem witness_firmware : firmwareFull (modPort (sForme forme0) 0 (fun p => { p with mbox := { p.mbox with
    slots := (List.range 8).map (fun i => (i, { Slot.reset with phase := .ready })) } })) = true := by decide +kernel

/-- CompletionWritesTheSlotAndSignals. -/
theorem witness_complete : (sCmd forme0 .finished 0 1 0).up = true ∧ (getSlot (sCmd forme0 .finished 0 1 0) mb0 5).phase = .finished ∧
    hdrIrq (2 ^ 20) = true ∧ (mapGet (sForme forme0).ports 0).isSome = true := by decide +kernel

/-- ReportingCommandsAnswer: each command with its fields good; outputs of the port's host memory and of the forme's. -/
theorem witness_report : let s (opc c : Nat) : State := sCmd (fPlate true [pass1 true 1 1]) .ready 0 opc c
    let out : Nat := 2 ^ 64 * 0xFFFFFFC0 + 64
    startsCmd (s 1 0) mb0 5 0x01 = some 0 ∧ reservedAt [] 0 = none ∧ reports (s 2 out) mb0 5 0x02 = some out ∧
    (OutDesc.ofCmd out).len = 0xFFFFFFC0 ∧ reservedAt ((383, 128) :: outFields) out = none ∧
    firstBad (outChecks (s 2 out) mb0 out) = none ∧
    reports (s 0x51 (out + 2 ^ 128)) mb0 5 0x51 = some (out + 2 ^ 128) ∧ (recentPass (s 0x51 (out + 2 ^ 128)) 0 (bits (out + 2 ^ 128) 159 128)).isSome = true ∧
    reservedAt ((159, 128) :: outFields) (out + 2 ^ 128) = none ∧
    reports (s 0x70 (out + 2 ^ 128)) mb0 5 0x70 = some (out + 2 ^ 128) ∧ bits (out + 2 ^ 128) 135 128 ≠ 0 ∧
    reservedAt ((135, 128) :: outFields) (out + 2 ^ 128) = none ∧ formeOfMbox (s 1 0) mb0 = some 0 ∧
    (OutDesc.ofCmd out).host = false ∧ (OutDesc.ofCmd (out + 2 ^ 96)).host = true ∧ (getPort (s 1 0) 0).d3hot = false := by decide +kernel

theorem witness_report_length (s : State) : 644 + (certChain s).length ≤ (OutDesc.ofCmd (2 ^ 64 * 0xFFFFFFC0 + 64)).len := by
  have : (certChain s).length ≤ 5500 := identityChain_length_le _ _
  have h : (OutDesc.ofCmd (2 ^ 64 * 0xFFFFFFC0 + 64)).len = 4294967232 := by decide +kernel
  omega

theorem witness_journal_read : let s (c : Nat) : State := sCmd forme0 .ready 0 0x71 c
    let c : Nat := 2 ^ 64 * 64 + 64 + 2 ^ 192
    reports (s c) mb0 5 0x71 = some c ∧ bits c 223 192 = 1 ∧ bit c 224 = false ∧ bit (c + 2 ^ 224) 224 = true ∧
    reservedAt journalFields (c + 2 ^ 224) = none ∧ firstBad (outChecks (s c) mb0 c) = none ∧ journalHeld (s c) = false ∧
    bits c 191 128 = (s c).journal.oldestUnexported ∧
    (reach (outAccess 0 mb0) (.copy mb0 5) (pageSpans 64 64) (s c)).2 = .ok [(64, 64)] := by decide +kernel

/-- An export whose START is not the oldest entry not exported. -/
theorem witness_journal_bad : let c : Nat := 2 ^ 64 * 64 + 64 + 2 ^ 128 * 7 + 2 ^ 192 + 2 ^ 224
    reports (sCmd forme0 .ready 0 0x71 c) mb0 5 0x71 = some c ∧
    (firstBad (journalChecks (sCmd forme0 .ready 0 0x71 c) mb0 c)).isSome = true ∧ journalHeld (sCmd forme0 .ready 0 0x71 c) = false ∧
    (getForme (countAllWaits (sCmd forme0 .ready 0 0x70 c) 0) 0).isSome = true := by decide +kernel

/-- A page of a report that is written, one that is denied, and one that waits. -/
theorem witness_pages : let s := { sForme forme0 with rangeCaches := [(0, (outAccess 0 mb0).eng, [0])] }
    (∀ va, va = 64 → ∃ pas, (reach (outAccess 0 mb0) (.copy mb0 5) [(va, 64)] s).2 = .ok pas) ∧
    (reach (outAccess 0 mb0) (.copy mb0 5) [(2 ^ 56, 64)] s).2 = .denied ∧
    (reach (outAccess 0 mb0) (.copy mb0 5) [(0x4000, 64)] (sForme forme0)).2 = .held := by
  refine ⟨fun va h => ⟨[(64, 64)], by subst h; decide +kernel⟩, by decide +kernel, ?_⟩
  obtain ⟨t, ht, hh⟩ := translate_held (s := sForme forme0) (a := outAccess 0 mb0) (va := 0x4000)
    rfl rfl rfl (by decide)
  simp [reach, ht, hh]

theorem witness_recovery : let s (c : Nat) : State := sCmd forme0 .ready 0 0xA0 c
    startsCmd (s (2 ^ 32)) mb0 5 0xA0 = some (2 ^ 32) ∧ reservedAt [(32, 32), (31, 0)] (2 ^ 32) = none ∧
    bit (2 ^ 32) 32 = true ∧ bit 0 32 = false ∧ bits (2 ^ 32) 31 0 = (getPort (s 0) 0).epoch ∧ (getPort (s 0) 0).busMaster = true ∧
    (getPort (s 0) 0).records.any (fun r => r.2.outcome == 2) = false := by decide +kernel

/-- COPY of `n` bytes from 0 to 0x1000; FILL and ZERO of the same destination. -/
def cpy (n : Nat) : Nat := 2 ^ 64 * 0x1000 + 2 ^ 128 * n

/-- TransfersMoveTheirPieces: starting with length 0, 2^64 − 1 and a reserved bit; running at the start and at the end. -/
theorem witness_transfer : startsCmd (sCmd forme0 .ready 0 0x30 (cpy 0)) mb0 5 0x30 = some (cpy 0) ∧ cpLen (cpy 0) = 0 ∧
    firstBad (copyChecks (sForme forme0) mb0 (cpy 1)) = none ∧ (firstBad (copyChecks (sForme forme0) mb0 (cpy 1 + 2 ^ 203))).isSome = true ∧
    firstBad [reservedCheck fillFields (cpy 1), vaCheck (cpy 1) 64] = none ∧
    firstBad [reservedCheck zeroFields (cpy 1), vaCheck (cpy 1) 64] = none ∧
    (firstBad [reservedCheck zeroFields (cpy 1 + 1), vaCheck (cpy 1 + 1) 64]).isSome = true ∧
    startsCmd (sCmd forme0 .ready 0 0x31 (cpy 1)) mb0 5 0x31 = some (cpy 1) ∧
    startsCmd (sCmd forme0 .ready 0 0x32 (cpy 1)) mb0 5 0x32 = some (cpy 1) ∧
    runsCmd (sCmd forme0 .running 0 0x30 (cpy 1)) mb0 5 0x30 = some (cpy 1) ∧
    runsCmd (sCmd forme0 .running 0 0x31 (cpy 1)) mb0 5 0x31 = some (cpy 1) ∧
    runsCmd (sCmd forme0 .running 0 0x32 (cpy 1)) mb0 5 0x32 = some (cpy 1) ∧ moveOf (cpy 1) = .device ∧
    moveOf (cpy 1 + 2 ^ 201) = .toHost := by decide +kernel

/-- The transfer of one byte, on the copy engine of Platen 0, whose range cache holds entry 0. -/
def sMove : State :=
  let s := modSlot (sCmd forme0 .running 0 0x30 (cpy 1)) mb0 5 (fun x => { x with engine := 1 })
  { s with rangeCaches := [(0, (getSlot s mb0 5).eng, [0])] }

theorem witness_transfer_piece : let s := sMove
    let x := getSlot s mb0 5
    (translate s (copyAccess 0 x 1) 0x1000).2 = .ok 0x1000 ∧ x.offset ≠ cpLen (cpy 1) ∧
    (readSource s 0 x mb0 5 0 1).2 = ([0#8], .none) ∧
    (translate (readSource s 0 x mb0 5 0 1).1 (copyAccess 0 x 1) 0x1000).2 = .ok 0x1000 ∧
    (getSlot (modSlot s mb0 5 (fun x => { x with offset := 1 })) mb0 5).offset = cpLen (cpy 1) ∧
    (readSource s 0 x mb0 5 0 (busPiece 0x1000 (min 512 128) 1)).2 = ([0#8], .none) ∧ (getPort s 0).link = .l0 := by decide +kernel

theorem witness_host_read : readByTag { getPort (sForme forme0) 0 with reads :=
      [{ tag := 767, mb := mb0, slot := 5, offset := 0, len := 4, arrived := none, poisoned := false, failed := false }] } 767 =
    some { tag := 767, mb := mb0, slot := 5, offset := 0, len := 4, arrived := none, poisoned := false, failed := false } := by decide +kernel

/-- FORME_CREATE of forme 1 with Platen 1 and port 1, its aperture of 2^20 bytes at 2^20. -/
def fcC : Nat := packFields [(6, 2), (12, 0), (4, 2), (2, 1)] + 2 ^ 192 * (2 ^ 20 + 2 ^ 56 * 20)

/-- CommandsChangeTheirObjectAndAreJournaled: each command with good fields, and one that fails. -/
theorem witness_create : let u := { sCmd forme0 .ready 0 0x10 fcC with config := { NodeConfig.shipped with portsA := true, admin := 15 } }
    let s := { u with ports := mapSet u.ports 1 Port.reset }
    journalHeld s = false ∧ s.journal.lost = 0 ∧ s.journal.bootDue = false ∧ (getStack s 2).pchs = [] ∧ (getStack s 3).pchs = [] ∧
    startsCmd s mb0 5 0x10 = some fcC ∧ firstBad (fcChecks s fcC) = none ∧
    (firstBad (fcChecks s 0)).isSome = true ∧ fcForme fcC = 1 ∧ (1 : Nat) ∈ fcPorts fcC ∧ (mapGet s.ports 1).isSome = true := by decide +kernel

theorem witness_cap : let s (c : Nat) : State := sCmd forme0 .ready 0 0x61 c
    startsCmd (s (1000 + 2 ^ 16)) mb0 5 0x61 = some (1000 + 2 ^ 16) ∧ firstBad (capChecks (s 0) (1000 + 2 ^ 16)) = none ∧
    firstBad (capChecks (s 0) 3000) = none ∧ (firstBad (capChecks (s 0) (999 + 2 ^ 16))).isSome = true ∧
    (firstBad (capChecks (s 0) 3001)).isSome = true ∧ bit (1000 + 2 ^ 16) 16 = true ∧ bit 3000 16 = false := by decide +kernel

theorem witness_map : let c : Nat := 0x4000 + 2 ^ 64 * 0x4000 + 2 ^ 128 * 0x1000 + 2 ^ 192
    startsCmd (sCmd forme0 .ready 0 0x20 c) mb0 5 0x20 = some c ∧ firstBad (mapChecks (sCmd forme0 .ready 0 0x20 c) forme0 c) = none ∧
    firstBad (mapChecks (sForme forme0) forme0 (c - 0x4000)) = some (stOverlap, 0x80) ∧
    startsCmd (sCmd forme0 .ready 0 0x21 0) mb0 5 0x21 = some 0 ∧ firstBad (unmapChecks (sForme forme0) forme0 0) = none ∧
    unmapEntry forme0 0 = some entry0 ∧ firstBad (unmapChecks (sForme forme0) forme0 0x1000) = some (stNotMapped, 0x80) := by decide +kernel

theorem witness_policy : let f := fPlate true []
    let c : Nat := 2 ^ 54 + 2 ^ 56 + 2 ^ 58 + 2 ^ 59
    startsCmd (sCmd f .ready 0 0x52 c) mb0 5 0x52 = some c ∧ f.plate = some (plate0 true) ∧ forme0.plate = none ∧
    firstBad (policyChecks (sForme f) (plate0 true) c) = none ∧ bit c 59 = true ∧
    (firstBad (policyChecks (sForme f) (plate0 true) 0)).isSome = true := by decide +kernel

theorem witness_power : let f := { forme0 with groups := [11] }
    startsCmd (sCmd f .ready 0 0x60 1) mb0 5 0x60 = some 1 ∧ firstBad (psChecks (sForme f) f 1) = none ∧
    (mapGet (sForme f).platens (psIndex 1)).isSome = true ∧ firstBad (psChecks (sForme f) f (2 + 16 * 11)) = none ∧
    firstBad (psChecks { sForme f with groupsRunning := [11] } f (3 + 16 * 11)) = none ∧
    firstBad (psFieldChecks (3 + 16 * 11)) = none ∧ psNotOwned f (3 + 16 * 11) = false ∧
    psIndex (3 + 16 * 11) ∈ ({ sForme f with groupsRunning := [11] } : State).groupsRunning ∧
    psIndex (3 + 16 * 11) ∉ (sForme f).groupsRunning ∧ (firstBad (psChecks (sForme f) f (1 + 16))).isSome = true ∧
    runsCmd (sCmd f .running 0 0x60 1) mb0 5 0x60 = some 1 ∧ (getPlaten (sForme f) 0).state = .s0 := by decide +kernel

/-! ### Images -/

/-- The body of a plate without layers and regions, with 64 bytes of code, and its image (15 Tables 15.5, 15.16). -/
def body0 : List Byte := toBytes 64 (packFields [(160, 0), (32, 128), (32, 64)]) ++ List.replicate 64 0#8

def img0 : List Byte := toBytes 16 (packFields [(16, 0x0D6C), (8, 1), (8, 1), (64, 192)]) ++ treeDigest body0 ++ List.replicate 16 0#8 ++ body0

/-- Bytes at address 0 and on, held by the Case of Platen 0. -/
def sHolds (f : Forme) (phase : SlotPhase) (opc c : Nat) (bs : List Byte) : State :=
  let line (i : Nat) : Line := { aLine .m with data := ((bs.drop (128 * i)).take 128 ++ List.replicate 128 0#8).take 128 }
  let n := (bs.length + 127) / 128
  { sCmd f phase 0 opc c with
    lines := (List.range n).map (fun i => (lineKey 0 i, line i))
    dir := (List.range n).map (fun i => (i, { st := .owned, owner := 0, sharers := 1, age := 0, bad := false })) }

def plC (len : Nat) : Nat := 2 ^ 64 * len

/-- ImagesAreCheckedAndTakeTheirPlace: a good plate image; an image of zeros; no length; an unmapped source. -/
theorem witness_plate : let s := sHolds forme0 .ready 0x40 (plC 192) img0
    startsCmd s mb0 5 0x40 = some (plC 192) ∧ firstBad (plChecks (plC 192)) = none ∧ (readImage s 0 (plC 192)).2.2 = (img0, true) ∧
    isNodeImage img0 = false ∧ (plateErrors forme0 img0 192 true = none ∧ plateErrors forme0 img0 192 false = none) ∧
    (checkRanges forme0 img0 { err := none, taken := [] }).err = none ∧ (forme0.plate.bind (·.sealKey)).isSome = false ∧
    (plateOf forme0 img0).regions = [] := by decide +kernel

theorem witness_plate_bad : firstBad (plChecks 0) = some (stBadLength, 0x88) ∧
    (readImage (sForme forme0) 0 (0x4000 + plC 64)).2.2.2 = false ∧
    plateErrors forme0 (List.replicate 64 0#8) 64 true = some (stBadField, 0) ∧
    ((fPlate true []).plate.bind (·.sealKey)).isSome = false ∧
    (({ forme0 with plate := some { plate0 true with sealKey := some 0 } } : Forme).plate.bind (·.sealKey)).isSome = true ∧
    bit (plC 192) 128 = false ∧ bit (plC 192 + 2 ^ 128) 128 = true := by decide +kernel

/-- Node images: of a port that is not administrative, of one that is, with a fault. That a good image verifies rests on the
public functions Config.certKey and an owner's signature; PLATE_SEAL's witness below has such a signature. -/
theorem witness_node_image : isNodeImage (toBytes 64 (2 ^ 16 * 3)) = true ∧ isAdmin (sForme forme0) mb0 = true ∧
    isAdmin (sForme forme0) (.host 1) = false ∧ nodeImageErrors (toBytes 64 (2 ^ 16 * 3)) 64 = some (stBadField, 0) ∧
    (sForme forme0).flash.programming = none := by decide +kernel

theorem witness_flash : sUp.powered = true ∧
    ({ sUp.flash with programming := some (.lumiz 1 { svn := 1, floor := 0, measurement := 0 }) } : Flash).programming =
      some (.lumiz 1 { svn := 1, floor := 0, measurement := 0 }) ∧
    ({ sUp.flash with programming := some (.config 0 NodeConfig.shipped) } : Flash).programming = some (.config 0 NodeConfig.shipped) := by
  decide

/-! A modulus of 3,072 bits and a signature by its key, made outside Lean, of 32 zero bytes (a measurement) followed by the
lock digest of a forme with one Platen and no region, the SHA-256 of 32 zero bytes (15 R520, R521). -/

def sealN : Nat := packFields
  [(384, 0x669e5c33637541b8f9da608ea75ca1e5d5180509e2316300ebae905af985c19b945a547d96ec401171f7da1b5341f873),
   (384, 0x5406f87582b392a55598fcbe206c1475ee5bbe85fd6765e4de0f26f627070650c80390be6a86afea2e0b3103ad99844d),
   (384, 0xc14bfe9587206c23d288c5e8c17230779fec99e1edfd22736428da1bbd64b7342cf651a7fd7252c645fb5b8df8882ef6),
   (384, 0xd67ed8e1df5d8bac02440abd5f159ef3e1fcfc934597bbadcfebb8c21f051b836056b66af170f744561d5691c3a0fa55),
   (384, 0xac6d93907e2486a30195b8fed62c9ac71bb2777de7bd54be5f8dd756996243426aff61b098374a07bafc1ab0c7053e95),
   (384, 0xba032e2ef9ffa46d5378dd5e06194dd4b4a9c44a6ef57e3d16cd0566b7d03ce26a5bb3151b4e7d08cbadf6606cc1fe88),
   (384, 0xe6c5e6a5007964d3dc18ccf416f220acde819224a3af6975316427f1e7206b12cf19d750f4e785377a96ffdde8544de5),
   (384, 0xbcc19303f77bbaccc5f6b198f3e6cdc4b28f0758c8408b66c8e88b7b330a8b0e5152826de6990811cd9bc52dc1c15c85)]

def sealS : Nat := packFields
  [(384, 0x892526234743df6ae738a0126b556c04c28c6d2e4750346d060e01338c769d9e7297fef28efec9d637d96e122b80d793),
   (384, 0x6d4a74b623bd9dbf1af2cf6ff18549f53e055d2476fb6415ea82153dda8c92775eda6c5ba1bca05d523db24e70826872),
   (384, 0xb1e1fe952991e9a3b84c6411ff1c26ceead31fa639737c49774732c459342ff628e2facbc3482899a57f568383cd8185),
   (384, 0xfd2a18116268703b464e882a0ce9e21d3b1f20dd5fe311546914c8cf5826749e77b4940e3394167a585722da851d0b1f),
   (384, 0x6115f34674eee85a90de35ed2109a1928a433ef2aae26741544350fab7226d09ecd650e566e9cae5aae38fe74fe8ba3b),
   (384, 0xdacf022dacb2753398813ee2b0f1aa7e14f86700bc742cecafe9487c1782cca520e0468c692aaeee789bba583947d456),
   (384, 0xc753346d1498d496b781e6ef642b4fa87b9923c33a17e84a7553774afa11921d4ee1b9492ddf538a9b35259b27947f4f),
   (384, 0x8bf5e6bfefda64cbc14a995f02efbf6255b01dc80e1e889e7b09ddafcbf4ea5af1c05aa1f89df92fa0b591be49730f66)]

/-- A seal block (15 Table 15.9). -/
def sealB : List Byte := toBytes 16 2 ++ toBytesBE 384 sealN ++ toBytesBE 384 sealS

def fSeal : Forme := { forme0 with plate := some { plate0 true with layers := [] } }

theorem witness_seal : sealVerifies (sForme fSeal) fSeal { plate0 true with layers := [] } sealB = true := by decide +kernel

theorem witness_seal_block : let c : Nat := 2 ^ 64 * 784
    let s := sHolds fSeal .ready 0x41 c sealB
    startsCmd s mb0 5 0x41 = some c ∧ (peekVa s 0 (bits c 63 0) 784).2.2 = (sealB, true) ∧ sealFormat sealB = 2 ∧ sealReserved sealB = 0 ∧
    bits c 95 64 = 784 ∧ reservedAt [(95, 64), (63, 0)] c = none ∧ s.journal.full = false ∧ journalHeld s = false := by decide +kernel

/-- PLATE_SEAL that reads nothing: no plate, a sealed one, no length, a reserved bit; and one of an unmapped block. -/
theorem witness_seal_bad : forme0.plate = none ∧ fSeal.plate.map (·.sealKey) = some none ∧
    ({ plate0 true with sealKey := some 0 } : Plate).sealKey.isSome = true ∧ bits (2 ^ 96) 95 64 = 0 ∧
    (reservedAt [(95, 64), (63, 0)] (2 ^ 96 + 2 ^ 64 * 784)).isSome = true ∧
    (peekVa (sHolds fSeal .ready 0x41 (2 ^ 64 * 784) []) 0 (0x4000 : Nat) 784).2.2.2 = false ∧ bits (0x4000 : Nat) 63 56 = 0 := by
  decide +kernel

/-! ### Aborts, resets, jobs -/

/-- AbortsResetsAndReleasesEndWhatRuns: a reset of scope 1 and 2, a destroy, a set-up and a release. -/
theorem witness_reset : let s (c : Nat) : State := sCmd (fPlate true [pass1 true 0 1]) .ready 0 0x90 c
    let c1 : Nat := 1 + 2 ^ 32
    startsCmd (s c1) mb0 5 0x90 = some c1 ∧ firstBad (resetChecks (s c1) c1) = none ∧ firstBad (resetChecks (s 2) 2) = none ∧
    rfScope c1 = 1 ∧ (recentPass (s c1) 0 (rfSeq c1)).isSome = true ∧ rfScope 2 = 2 ∧ resetRuns (s 2) 0 (mb0, 5) = false ∧ (getForme (s 2) 0).any (·.destroying) = false ∧
    (firstBad (resetChecks (s 0) 1)).isSome = true ∧ (firstBad (resetChecks (s 0) 3)).isSome = true ∧
    runsCmd (sCmd forme0 .running 0 0x90 2) mb0 5 0x90 = some 2 ∧ formeQuiet (sCmd forme0 .running 0 0x90 2) 0 (mb0, 5) = true ∧
    (pass1 true 0 1).phase = .running ∧ ({ pass1 true 0 1 with attempt := 1 } : Pass).begun (s 2) = true := by decide +kernel

theorem witness_destroy : let s := { sCmd forme0 .ready 0 0x11 0 with config := { NodeConfig.shipped with admin := 1 } }
    startsCmd s mb0 5 0x11 = some 0 ∧ firstBad (fdChecks s 0) = none ∧ (firstBad (fdChecks s 1)).isSome = true ∧
    forme0.destroying = false ∧ fdForme 0 = 0 ∧ runsCmd (sCmd forme0 .running 0 0x11 0) mb0 5 0x11 = some 0 := by decide +kernel

/-- A descriptor of a job of one node without windows (14 Table 14.3). -/
def desc0 : List Byte := toBytes 64 (packFields [(8, 1), (8, 1), (8, 0), (2, 0), (6, 0), (15, 0), (1, 0), (6, 1), (2, 0), (6, 1), (2, 0), (6, 1)])

def job0 (active : Bool) : MeshJob :=
  { forme := 0, job := 1, digest := 5, origin := 0, extX := 1, extY := 1, extZ := 1, margin := 0, windows := [], border := 0, detours := [],
    active := active, closing := false, released := 0 }

theorem witness_setup : let c : Nat := 1 + 2 ^ 128 * 64
    let s := sHolds forme0 .ready 0x80 c desc0
    startsCmd s mb0 5 0x80 = some c ∧ (peekVa s 0 (mjDesc c) (min (mjLen c) descMax)).2.2 = (desc0, true) ∧
    firstBad (setupChecks s c true (descOf desc0) (routed s (jobOf 0 (descOf desc0)))) = none ∧
    (firstBad (setupChecks s (c + 1) true (descOf desc0) (routed s (jobOf 0 (descOf desc0))))).isSome = true ∧
    ({ sUp.mesh with jobs := [job0 false] } : Mesh).jobs.any (sameSetup (job0 true)) = true ∧
    sUp.mesh.jobs.any (sameSetup (job0 true)) = false ∧ (job0 true).active = true := by decide +kernel

theorem witness_job_release : let s := { sCmd forme0 .ready 0 0x81 1 with mesh := { sUp.mesh with jobs := [job0 true] } }
    startsCmd s mb0 5 0x81 = some 1 ∧ mjJob 1 ≠ 0 ∧ reservedAt [(7, 0)] 1 = none ∧
    s.mesh.jobs.find? (fun j => j.active && j.forme == 0 && j.job == 1) = some (job0 true) ∧
    runsCmd (sCmd forme0 .running 0 0x81 1) mb0 5 0x81 = some 1 ∧ meshCopies (sCmd forme0 .running 0 0x81 1) 0 = [] ∧
    meshQuiet (closeJobs (sCmd forme0 .running 0 0x81 1) 0) 0 = true := by decide +kernel

/-! ## The mailbox and its commands: results -/

/-- FIPS 180-4: the digest of the three bytes of abc begins BA 78 16 BF. -/
theorem test_sha : (sha256 [0x61#8, 0x62#8, 0x63#8]).take 4 = [0xBA#8, 0x78#8, 0x16#8, 0xBF#8] := by decide +kernel

/-- A version 3 certificate, unsigned, for the modulus above and the exponent 65,537. -/
def certA : List Byte := derSeq [derSeq [der 0xA0 [2#8, 1#8, 2#8], derInt 1 5, derSeq [], derSeq [], derSeq [], derSeq [],
  derSeq [derSeq [oidRsa], derBits (derSeq [derInt 384 sealN, derInt 3 65537])], der 0xA3 (derSeq [])], derSeq [], derBits [0#8]]

/-- 15 R511: the certificate ends where its length says, and its key is the one it holds; without version 3 there is none. -/
theorem test_certificate : certificate (certA ++ [9#8]) = some (certA, sealN, 65537) ∧
    certificate (certA.set 12 0#8) = none := by decide +kernel

/-- 12 R401, Table 12.4: a SEQ of zero is BAD_SEQ, and DETAIL names the seal word. -/
theorem test_take_bad_seq : (getSlot (after .slotTake (sSealed .sealed 0 0 [])) mb0 5).status = stBadSeq := by decide +kernel

/-- 12 R411: FILL repeats its pattern from the low byte on, from its destination. -/
theorem test_fill : patternBytes 0x0807060504030201 6 4 = [7#8, 8#8, 1#8, 2#8] := by decide +kernel

/-- 10 R347: MAP_RANGE takes the lowest free identifier. -/
theorem test_lowest_id : lowestFreeId { forme0 with ranges := [entryK 0 0 .normal .valid, entryK 2 8 .normal .valid] } = some 1 := by decide +kernel

/-! ## Host ports, power: witnesses -/

/-- A port that is down with its PERST_N released and Memory Space clear, and the port of `sForme`. -/
def sPort (f : Port → Port) : State := modPort (sForme forme0) 0 f

/-- PortEventsAndResets: the port up, down, with PERST_N asserted, and with Memory Space clear; a slot with no transfer, one
toward host memory and one from it. -/
theorem witness_port : (sForme forme0).powered = true ∧ portExists (sForme forme0) 0 = true ∧ (mapGet (sForme forme0).ports 0).isSome = true ∧
    (getPort (sForme forme0) 0).link = .l0 ∧ (getPort (sForme forme0) 0).perstAsserted = false ∧
    (getPort (sPort (fun x => { x with link := .down })) 0).link = .down ∧
    (getPort (sPort (fun x => { x with memSpace := false })) 0).memSpace = false ∧ (sForme forme0).up = true ∧
    (5 : Nat) ∈ (getPort (sCmd forme0 .running 0 0x30 (cpy 1)) 0).mbox.ownedSlots ∧
    journalHeld (sForme forme0) = false ∧ journalHeld (holdJournal (sForme forme0)) = true ∧ portLanes (sForme forme0) 0 = 8 ∧
    (getPort (sPort (fun x => { x with trained := true })) 0).trained = true ∧ (getPort (sForme forme0) 0).trained = false ∧
    mapGet (getPort (sCmd forme0 .running 0 0x30 (cpy 1)) 0).records 5 = none ∧
    hostMove (sCmd forme0 .running 0 0x30 (cpy 1)) 0 5 = none ∧
    hostMove (sCmd forme0 .running 0 0x30 (cpy 1 + 2 ^ 201)) 0 5 = some .toHost ∧
    hostMove (sCmd forme0 .running 0 0x30 (cpy 1 + 2 ^ 200)) 0 5 = some .fromHost := by decide +kernel

/-- ApertureRequestsArePerformedOrRefused: the last byte of the window and one beyond, an unknown requester, an AT field, a
poisoned write, a PCI Express atomic and another, module idle, a mapped address, one in a swap and one without APER. -/
theorem witness_aperture : linkOpen (sForme forme0) 0 = true ∧ aperWindow (getPort (sForme forme0) 0) = 0x4000 ∧
    (getPort (sForme forme0) 0).accepts 9 = true ∧ 0x3FF9 % 8 ≠ 0 ∧
    (getPort (sPort (fun x => { x with memSpace := false })) 0).accepts 9 = true ∧ aperRefused (getPort (sForme forme0) 0) (info 9) 0x3FFC 4 = none ∧
    aperRefused (getPort (sForme forme0) 0) (info 9) 0x3FFD 4 = some .unsupportedRequest ∧
    aperRefused (getPort (sForme forme0) 0) (info 8) 0 4 = some .unsupportedAdvisory ∧
    aperRefused (getPort (sForme forme0) 0) { info 9 with atField := 1 } 0 4 = some .unsupportedRequest ∧
    pcieAtomic .add 8 = true ∧ pcieAtomic .minU 8 = false ∧ 0x3FF8 % 8 = 0 ∧ ({ sForme forme0 with moduleIdle := true } : State).moduleIdle = true ∧
    (getPort (sForme forme0) 0).forme = some 0 := by decide +kernel

theorem witness_aperture_reach : let at2 (f : Forme) (kind : Nat) : Reached :=
      (reach (aperAccess 0 0 kind) (.inbound .slotTake) (pageSpans 0x3FF8 8) { sForme f with rangeCaches := [(0, (aperAccess 0 0 kind).eng, [0])] }).2
    at2 forme0 0 = .ok [(0x3FF8, 8)] ∧ at2 forme0 1 = .ok [(0x3FF8, 8)] ∧ at2 forme0 2 = .ok [(0x3FF8, 8)] ∧
    at2 { forme0 with ranges := [{ entry0 with aper := false }] } 1 = .denied := by decide +kernel

theorem witness_aperture_held : (reach (aperAccess 0 0 0) (.inbound .slotTake) (pageSpans 0x3FF8 8)
    (sForme { forme0 with ranges := [{ entry0 with state := .swapping }] })).2 = .held := by
  have hl : pageSpans 0x3FF8 8 = [(0x3FF8, 8)] := by decide
  obtain ⟨t, ht, hh⟩ := translate_held (s := sForme { forme0 with ranges := [{ entry0 with state := .swapping }] })
    (a := aperAccess 0 0 0) (va := 0x3FF8) rfl rfl rfl (by decide)
  rw [hl]
  simp [reach, ht, hh]

/-- A port with a posted write that waits in an open record, and one behind it. -/
theorem witness_aperture_behind :
    let w : Instr := .apertureWrite 0 (info 9) 0 [7#8] { th := false, ph := 0, st := 0 } false
    let r : FaultRec := { faultRec0 .swap false with waiters := [(.inbound w, { cls := 5, die := 6, unit := 0 }, 1, 0)] }
    writeHeld (sForme { forme0 with faults := [r] }) 0 = true ∧ writeHeld (sForme forme0) 0 = false ∧
    (getPort (sPort (fun x => { x with waiting := [w] })) 0).waiting ≠ [] ∧ (getPort (sForme forme0) 0).waiting = [] := by decide +kernel

theorem witness_aperture_atomic :
    (cacheAtomic (breakResv (sForme forme0) 6 127 none) 6 0x3FF8 8 .add 1 0 none (some 0)).2 = some 0 := by decide +kernel

def sPlaten (x : PlatenPower) : State := { sUp with platens := mapSet sUp.platens 0 x }

/-- PlatensRestAndWake: every state with and without a commanded rest state, entering and waking; a node that may idle, and
one that wakes. -/
theorem witness_platen : sUp.up = true ∧ sUp.moduleIdle = false ∧ platenBusy (sPlaten platen0) 0 = false ∧
    mapGet (sPlaten platen0).platens 0 = some platen0 ∧ lowerTo platen0 = some 1 ∧ lowerTo { platen0 with rest := 3 } = some 3 ∧
    lowerTo { platen0 with state := .s1 } = some 2 ∧ lowerTo { platen0 with state := .s2 } = some 3 ∧
    mapGet (sPlaten { platen0 with state := .entering 1 2 }).platens 0 = some { platen0 with state := .entering 1 2 } ∧
    ({ platen0 with state := .entering 0 3 } : PlatenPower).wakeAsked = false ∧
    mapGet (sPlaten { platen0 with state := .waking 3 }).platens 0 = some { platen0 with state := .waking 3 } ∧
    lowerTo { platen0 with limits := { platen0.limits with droop := true } } = some 1 ∧ idlePossible sUp = true ∧ sUp.powered = true ∧ ({ sUp with moduleIdle := true, waking := true } : State).waking = true := by
  decide +kernel

/-- LimitsMoveTheRunningPoints: the input at its rating and above; the tenth sample above 3,400 W; every threshold of a
sensor. -/
theorem witness_limits : sUp.pins.pwrEn = true ∧ sUp.pins.startWaits = false ∧
    ({ sUp with pins := { sUp.pins with pwrEn := false } } : State).pins.pwrEn = false ∧ platen0.target = none ∧ platen0.step ≠ 0 ∧
    ({ platen0 with stretching := true } : PlatenPower).stretching = true ∧ platen0.stretching = false ∧ sUp.phase ≠ .off ∧ sUp.phase ≠ .lost ∧ (72000 : Nat) ≤ 72000 ∧ (72000 : Nat) < 72001 ∧
    (decide (9 ≤ 9) && decide (sumOf (((3400001 : Nat) :: List.replicate 9 3400000).take 10) > 34000000)) = true ∧
    (decide (9 ≤ 8) && decide (sumOf ([3400001].take 10) > 34000000)) = false ∧
    mapGet (sPlaten platen0).platens 0 = some platen0 ∧ platen0.state = .s0 ∧ (mapGet sUp.stackTab 11).isSome = true ∧
    (101 : Nat) < 102 ∧ (102 : Nat) ≤ 102 ∧ ({ platen0 with target := some 9 } : PlatenPower).target = some 9 ∧
    ({ sUp with meter := { sUp.meter with inputLimit := true } } : State).meter.inputLimit = true ∧
    sUp.meter.raised + 1000000 ≤ 1000000 := by decide +kernel

/-! ## Mesh: witnesses -/

/-- A node at (1, 0, 0) of a 3 × 1 × 1 group with a node configuration image in force; ports 0 and 1 are up. -/
def sMesh : State :=
  { sForme forme0 with
    config := { NodeConfig.shipped with nx := 3, node := 1, gnid := 77 }
    sec := { sUp.sec with configSlot := some 0 }
    mesh := { sUp.mesh with
      ports := [(0, { MeshPort.reset with st := .up, txWidth := 16, rxWidth := 16, partner := 2 }),
                (1, { MeshPort.reset with st := .up, txWidth := 16, rxWidth := 16, partner := 0 })]
      parent := 1, regState := .locked } }

/-- MeshLinksAndRegistrationFollowTheirRules: a port at the edge and one with a neighbour; a partner that is not it; no
lane, one lane and every lane; lanes that fail; an announcement, a notice, an exchange. -/
theorem witness_mesh : isLinkRow (.meshLaneFail 0 true 15) = true ∧ meshOn sMesh = true ∧ sMesh.up = true ∧
    (getMeshPort sMesh 2).isUp = false ∧ neighbour sMesh.config 1 2 = none ∧ neighbour sMesh.config 1 0 = some 2 ∧
    sMesh.config.groupId = 0 ∧ widthFor false 0 = (0, 0) ∧ widthFor false 0x8000 = (1, 0x8000) ∧ widthFor true 0x7FFF = (8, 0xFF) ∧
    (getMeshPort sMesh 2).st = .down ∧ (getMeshPort sMesh 0).isUp = true ∧
    widthFor false (0xFFFF - setBit 0 15) = (8, 0xFF) ∧ widthFor false 0xFFFF = (16, 0xFFFF) ∧
    widthFor false (0xFFFF - setBit 0xFFFE 0) = (0, 0) ∧ widthFor false (0xFFFF - setBit 0x8000 14) = widthFor false (0xFFFF - 0x8000) ∧
    inGroup sMesh.config 2 = true ∧ (2 : Nat) ≠ sMesh.config.node ∧ (getGnid sMesh 2).present = false ∧
    sMesh.mesh.regState ≠ .free ∧ sMesh.mesh.ref ≠ sMesh.config.node ∧ sendWidth sMesh 2 1 ≠ 16 ∧ sendWidth sMesh 2 1 = 0 ∧
    distance 2 1 ≤ 2 ∧ sMesh.mesh.joinedBefore = false ∧ (linkTimes false ⟨0, 0⟩ ⟨20000, 20000⟩).1 = -20000 ∧
    (linkTimes true ⟨0, 16⟩ ⟨8, 8⟩).1 = 0 ∧ sMesh.mesh.parent = 1 := by decide +kernel

theorem witness_mesh_more :
    (getMeshPort { sMesh with mesh := { sMesh.mesh with ports := [(0, { MeshPort.reset with st := .up, txRetraining := true })] } } 0).txRetraining = true ∧
    (getMeshPort { sMesh with mesh := { sMesh.mesh with ports := [(0, { MeshPort.reset with st := .up, rxRetraining := true })] } } 0).rxRetraining = true ∧
    ({ sMesh.mesh with regState := .acquiring } : Mesh).regState = .acquiring ∧ (getMeshPort { sMesh with mesh := { sMesh.mesh with
      ports := [(0, { MeshPort.reset with st := .training })] } } 0).st = .training := by decide +kernel

def win0 : MeshWindow := { window := 2, vaBase := 0, pages := 4, hint := 0, put := true, get := true }

def job1 (origin ext margin : Nat) : MeshJob :=
  { job0 true with job := 5, origin := origin, extX := ext, margin := margin, windows := [win0] }

def sJob (j : MeshJob) : State := { sMesh with mesh := { sMesh.mesh with jobs := [j] } }

/-- A put of one byte from node 0, the `n`-th of its COPY. -/
def pkt (dst off n : Nat) : Packet :=
  { job := 5, src := 0, dst := dst, window := 2, offset := off, data := [7#8], prompt := false, copyId := 3, index := n, detours := 0, path := [] }

/-- MeshPacketsArePerformedAndAnswered: the packet due, an earlier and a later one; inside and outside the job's box and
window; the last byte of the window; gets of an ND5 node; a packet for another node. -/
theorem witness_put : let s := sJob (job1 0 3 0)
    (pkt 1 0 0).src ≠ s.config.node ∧ (pkt 1 0 0).dst = s.config.node ∧ borderCrossed s 1 (pkt 1 0 0) = false ∧
    borderCrossed (sJob (job1 1 1 0)) 1 (pkt 1 0 0) = true ∧ mapGetD s.mesh.due 0 (copyKey (pkt 1 0 0)) = 0 ∧ isMember s (pkt 1 0 0) = true ∧
    isMember (sJob { job1 0 3 0 with closing := true }) (pkt 1 0 0) = false ∧
    mapGetD ({ s.mesh with due := [(3, 1)] } : Mesh).due 0 (copyKey (pkt 1 0 0)) = 1 ∧ putRefused (activeJob s 5) (pkt 1 0x3FFF 0) = none ∧
    putRefused (activeJob s 5) (pkt 1 0x4000 0) = some errWindowRange ∧ activeJob s 5 = some (job1 0 3 0) ∧
    (job1 0 3 0).windowOf 2 = some win0 ∧
    (reach (meshAccess 0 6 1) (.inbound (.meshPut 1 (arrived (pkt 1 0x3FFF 0)))) (pageSpans 0x3FFF 1) s).2 = .ok [(0x3FFF, 1)] ∧
    s.mesh.waiting = [] := by decide +kernel

theorem witness_get : let s := { sJob (job1 0 3 0) with mesh := { (sJob (job1 0 3 0)).mesh with gnids := [(0, { GnidEntry.absent with nd5 := true })] } }
    (getGnid s 0).nd5 = true ∧ getRefused (activeJob s 5) (pkt 1 0x3FFF 0) 1 = none ∧
    getRefused (activeJob s 5) (pkt 1 0x3FFF 0) 2 = some errWindowRange ∧
    (reach (meshAccess 0 6 0) (.inbound (.meshGet 1 (arrived (pkt 1 0x3FFF 0)) 1)) (pageSpans 0x3FFF 1) s).2 = .ok [(0x3FFF, 1)] := by
  decide +kernel

theorem witness_transit : let s := sJob (job1 0 3 0)
    (pkt 2 0 0).dst ≠ s.config.node ∧ borderCrossed s 1 (pkt 2 0 0) = false ∧ nextHop s (pkt 2 0 0) = .out 0 (pkt 2 0 0) ∧
    nextHop (sJob (job1 0 2 0)) (pkt 2 0 0) = .drop errBorder ∧ dieOfMeshPort 0 = dieOfMeshPort 1 ∧
    (getMeshPort s 0).queue = [] ∧ (getMeshPort s 0).replay = [] ∧ (getMeshPort s 0).stops (channelOn s 0 (pkt 2 0 0)) = false ∧
    (getMeshPort s 0).inUse (channelOn s 0 (pkt 2 0 0)) = 0 := by decide +kernel

def sent0 (i : Nat) : SentPacket := { forme := 0, mb := mb0, slot := 5, copyId := 3, index := i, offset := 0, len := 0, ended := false }

def sSent (n : Nat) : State :=
  let s := sCmd forme0 .running 3 0x30 (cpy 0)
  { s with
    config := sMesh.config
    sec := sMesh.sec
    mesh := { sMesh.mesh with
      sent := (List.range n).map sent0 } }

theorem witness_sent : meshOn (sSent 1) = true ∧ (mapGet (sSent 1).ports 0).isSome = true ∧
    (sSent 1).mesh.sent.find? (fun y => y.copyId == 3 && y.index == 0) =
      some (sent0 0) ∧
    (∀ z ∈ (sSent 1).mesh.sent, z ≠ sent0 0 → z.copyId ≠ 3) ∧
    ¬(∀ z ∈ (sSent 2).mesh.sent, z ≠ sent0 0 → z.copyId ≠ 3) ∧
    (sent0 0).ended = false ∧ ({ sent0 0 with ended := true } : SentPacket).ended = true ∧
    (getSlot (modSlot (sSent 1) mb0 5 (fun x => { x with status := stAborted })) mb0 5).status = stAborted ∧
    (getSlot (sSent 1) mb0 5).status = 0 ∧ (getSlot (sSent 1) mb0 5).offset = bits (slotCmd (getMbox (sSent 1) mb0) 5) 191 128 ∧
    (getSlot (modSlot (sSent 1) mb0 5 (fun x => { x with status := stMeshError })) mb0 5).status ≠ 0 := by decide +kernel

/-! ## Host ports, power, mesh: results -/

/-- 12 R429: a hot reset raises the epoch, sets KIND 1 and takes the link down. -/
theorem test_hot_reset : let x := getPort (after (.hotReset 0) (sForme forme0)) 0
    (x.epoch, x.resetKind, x.link, x.memSpace, x.forme) = (1, 1, .down, false, some 0) := by decide +kernel

/-- 13 Table 13.4: an aperture read beyond the window is answered unsupported. -/
theorem test_aperture_ur : (getPort (after (.apertureRead 0 (info 9) 0x3FFD 4) (sForme forme0)) 0).tx = [.unsupported 3] := by decide +kernel

/-- 16 Table 16.6: step 0 runs at 0.650 V, steps 1 and 2 at 0.675 V, step 18 at 0.875 V. -/
theorem test_volt : (voltOf 0, voltOf 1, voltOf 2, voltOf 18) = (26, 27, 27, 35) := by decide

/-- 19 R600: the model stops above 72 V, and nowhere else. -/
theorem test_ratings : exec (.powerMeterSample 72001 0) sUp = .fault .outsideRatings := rfl

/-- 14 R473: x first, then y, then z; the neighbour in +x of node 1 is node 2. -/
theorem test_route : (routePort 0 (nodeAt 1 1 1), routePort 1 (nodeAt 1 1 1), routePort 33 (nodeAt 1 1 1), routePort 7 7) =
    (some 0, some 2, some 4, none) := by decide

/-- 14 R481: a put of one byte is stored and acknowledged. -/
theorem test_put : let t := after (.meshPut 1 (pkt 1 9 0)) { sJob (job1 0 3 0) with
      rangeCaches := [(0, (meshAccess 0 6 1).eng, [0])] }
    (byteAt t.mem 9, t.mesh.tx.length, mapGet t.mesh.due 3) = (7#8, 1, some 1) := by decide +kernel

/-! ## Sideband: witnesses -/

/-- A node on the sideband with two chassis keys. -/
def sSb (f : Sideband → Sideband) : State :=
  let s := { sUp with
    config := { NodeConfig.shipped with keys := [(1, 5), (2, 7)] }
    pins := { sUp.pins with sbId := 3, sbIdAtReset := 3 } }
  modSb s (fun b => f { b with mode := .plca })

/-- A STATUS request to node 3 under key generation 2, without its tag. -/
def frame0 : SbFrame :=
  { dstMac := 0x020D60000003, srcMac := 0x020D60000000, fcsOk := true, etherType := 0x88B5, version := 1, reserved := 0, keyGen := 2, src := 0, dst := 3, type := 1, func := 1,
    status := 0, len := 0, seq := 2 ^ 32 + 1, reqSeq := 0, body := [], tag := [] }

def frame1 : SbFrame := { frame0 with tag := hmacSha256 (toBytes 32 7) (frameHeader frame0) }

/-- FramesAreCheckedAndRequestsServed, the frames: one that passes every check, and one that stops at each. -/
theorem witness_sb : let s := sSb id
    s.watchOn = true ∧ frame0.etherType = 0x88B5 ∧ frame0.dst = s.pins.sbIdAtReset ∧ s.sb.mode = .plca ∧ frame0.len = frame0.body.length ∧
    tagGood s frame0 = false ∧ tagGood s frame1 = true ∧ frame1.seq / 2 ^ 32 = s.sec.bootCount % 2 ^ 32 ∧
    s.sb.mark < frame1.seq % 2 ^ 32 ∧ s.sb.queue.length < 4 ∧ frame1.seq % 2 ^ 32 ≤ (sSb (fun b => { b with mark := 1 })).sb.mark ∧
    s.sb.staleAt = none ∧ (sSb (fun b => { b with staleAt := some 0 })).now < 0 + 100000000 ∧
    tagGood (sSb (fun b => { b with mark := 1, staleAt := some 0 })) frame1 = true := by decide +kernel

theorem witness_sb_refused : let s := sSb id
    ({ frame0 with fcsOk := false } : SbFrame).fcsOk = false ∧ ({ frame0 with etherType := 0x0800 } : SbFrame).etherType ≠ 0x88B5 ∧
    ({ frame0 with dst := 4 } : SbFrame).dst ≠ s.pins.sbIdAtReset ∧ (sSb (fun b => { b with mode := .badId })).sb.mode = .badId ∧
    (sSb (fun b => { b with mode := .noKey })).sb.mode = .noKey ∧ (1088 : Nat) < 1089 ∧
    4 ≤ (sSb (fun b => { b with queue := List.replicate 4 { func := 1, seq := 9, body := [] } })).sb.queue.length := by decide +kernel

/-- A request of function `f` at the head of the queue. -/
def sAsk (f : Nat) (body : List Byte) : State := sSb (fun b => { b with queue := [{ func := f, seq := 9, body := body }] })

def jFull (s : State) : State := { s with journal := { s.journal with next := 1044480 } }

/-- Entry 8,192 waits for checkpoint 1. -/
def jHeld (s : State) : State := { s with journal := { s.journal with next := 8192, oldestUnexported := 8192, writing := some (1, 5) } }

theorem witness_journal : (sAsk 2 [0, 3]).journal.full = false ∧ journalHeld (sAsk 2 [0, 3]) = false ∧ (jFull sUp).journal.full = true ∧
    (jHeld sUp).journal.full = false ∧ journalHeld (jHeld sUp) = true := by decide +kernel

/-- FramesAreCheckedAndRequestsServed, the functions: good and bad bodies of each, a forme that is there and one that is not, a
snapshot kept, and module idle. -/
theorem witness_functions : (sAsk 2 [0, 3]).watchOn = true ∧ (sAsk 2 [0, 3]).up = true ∧ { sAsk 2 [] with phase := .retired }.up = false ∧
    { sAsk 2 [] with phase := .retired }.watchOn = true ∧
    (sAsk 2 [5, 8]).sb.queue = [{ func := 2, seq := 9, body := [5, 8] }] ∧ bodyNat { func := 2, seq := 9, body := [5, 8] } 1 1 = 8 ∧
    wattsBad true (bodyNat { func := 3, seq := 9, body := [0xB8#8, 0x0B#8, 4#8] } 0 2) = false ∧
    wattsBad false (bodyNat { func := 3, seq := 9, body := [0x2C#8, 1#8, 0#8] } 0 2) = false ∧
    (getForme (sForme forme0) 0).isSome = true ∧ (getForme (sForme forme0) 3).isSome = false ∧
    mapGet (sSb (fun b => { b with snapshots := [(2, [1, 2, 3])] })).sb.snapshots 2 = some [1, 2, 3] ∧
    keysFrom 0 [((2 : Nat), [1#8, 2#8])] = true ∧ (mapGet sUp.platens 5).isSome = true ∧
    sUp.journal.oldestUnexported = 0 ∧ sUp.journal.lost = 0 ∧ sUp.journal.bootDue = false ∧ ({ sUp with moduleIdle := true } : State).moduleIdle = true := by decide +kernel

/-- ResetsAreTakenAndFramesSent: each KIND; each reset asked for with its response sent; a key in force, each mode, a frame to
send with attempts left and at its last. -/
theorem witness_resets : bodyNat { func := 6, seq := 9, body := [1#8, 0#8] } 0 1 = 1 ∧ (sAsk 6 [2, 0]).powered = true ∧
    ({ sAsk 6 [2, 0] with phase := .watchOnly } : State).powered = false ∧ ({ sAsk 6 [2, 0] with phase := .watchOnly } : State).watchOn = true ∧
    (1, 0) ∈ (sSb (fun b => { b with resetAsked := [(1, 0)] })).sb.resetAsked ∧
    (sSb (fun b => { b with resetAsked := [(3, 0)] })).sb.resetAsked = [(3, 0)] ∧
    resetRuns (sSb (fun b => { b with resetAsked := [(3, 0)] })) 0 noSlot = false ∧
    (sSb (fun b => { b with resetAsked := [(4, 0)] })).sb.resetAsked = [(4, 0)] ∧
    ((getForme (sSb id) 0).any (·.destroying)) = false ∧ sUp.journal.lost = 0 ∧ sUp.journal.bootDue = false ∧
    (sSb id).sb.queue = [] ∧ (sSb id).sb.out = [] := by decide +kernel

def notice0 : SbOut := { type := 3, func := 0x10, status := 0, reqSeq := 0, body := [] }

theorem witness_sending : (sSb (fun b => { b with out := [notice0] })).sb.out = notice0 :: [] ∧ (2, 7) ∈ (sSb id).config.keys ∧
    (∀ x ∈ (sSb id).config.keys, x.1 < 2 ∨ x = (2, 7)) ∧ (sSb (fun b => { b with mode := .csmaCd })).sb.backingOff = false ∧
    (sSb (fun b => { b with attempts := 14 })).sb.attempts + 1 < 16 ∧ 16 ≤ (sSb (fun b => { b with attempts := 15 })).sb.attempts + 1 := by
  decide +kernel

/-- 17 Table 17.3: the first check that fails decides. -/
theorem test_frame_checked : (after (.sbFrameReceive { frame1 with dst := 4, fcsOk := false }) (sSb id)).sb.counters.fcsErr = 1 ∧
    (after (.sbFrameReceive { frame1 with dst := 4 }) (sSb id)).sb.counters.fcsErr = 0 ∧
    (after (.sbFrameReceive { frame1 with dst := 4 }) (sSb id)).sb.counters.dstOther = 1 ∧
    (after (.sbFrameReceive frame1) (sSb id)).sb.mark = 1 ∧ (after (.sbFrameReceive frame1) (sSb id)).sb.queue.length = 1 := by
  decide +kernel

/-- 17 Table 17.4: an unknown function, and a STATUS with a body. -/
theorem test_sb_refused : (after .sbStatus (sAsk 7 [])).sb.out.map (·.status) = [stBadOpcode] ∧
    (after .sbStatus (sAsk 1 [0])).sb.out.map (·.status) = [stBadField] ∧ (after .sbStatus (sAsk 1 [])).sb.out.map (·.status) = [0] := by
  decide +kernel

theorem test_sb_power : (getPlaten (after .sbPowerState (sAsk 2 [5, 3])) 5).rest = 3 ∧
    (after .sbPowerState (sAsk 2 [6, 3])).sb.out.map (·.status) = [stBadField] ∧
    (after .sbCapSet (sAsk 3 [0xB8, 0x0B, 4])).moduleCap = 3000 := by decide +kernel

theorem test_sb_reset : (after .sbColdReset (sAsk 6 [1, 0])).sb.resetAsked = [(1, 0)] ∧ (after .sbColdReset (sAsk 6 [1, 0])).phase = .running ∧
    (after .sbColdReset (sSb (fun b => { b with resetAsked := [(1, 0)] }))).sec.bootCount = 2 ∧
    (after .sbWarmReset (sSb (fun b => { b with resetAsked := [(2, 0)] }))).sec.bootCount = 1 := by decide +kernel

/-- 17 R565: the SEQ of the first frame of the first start-up, and 17 R562: 16 attempts. -/
theorem test_sending : (after .transmitOpportunity (sSb (fun b => { b with out := [notice0] }))).sb.tx.map (·.seq) = [2 ^ 32 + 1] ∧
    (after .collision (sSb (fun b => { b with mode := .csmaCd, out := [notice0], attempts := 15 }))).sb.out = [] ∧
    (after .collision (sSb (fun b => { b with mode := .csmaCd, out := [notice0], attempts := 14 }))).sb.out = [notice0] := by
  decide +kernel

/-! ## Start-up, resets, supply: witnesses -/

def sPhase (p : Phase) : State := { State.reset with phase := p }

def img1 : LumizImage := { svn := 3, floor := 2, measurement := 5 }

def sFlash (a b : Option LumizImage) (slot : Option NodeConfig) (begun : Bool) : State :=
  { State.reset with
    flash := { State.reset.flash with bankA := a, bankB := b, slot1 := slot, journalBegun := begun, checkpoint := 4, checkpointChain := 9 }
    journal := { State.reset.journal with bootDue := true }
    sec := { State.reset.sec with image := a } }

def sLow (p : Phase) : State := { sPhase p with meter := { State.reset.meter with millivolts := 43999 } }

/-- PWR_EN asserted below the operating range. -/
def sWaiting (p : Phase) : State := { sPhase p with pins := { State.reset.pins with pwrEn := true, startWaits := true } }

/-- ResetsAndSupplyLeaveTheTabledState: each phase; a bank that verifies, the other one, none, and one below the floor; a slot
and none. -/
theorem witness_startup : (sPhase .running).phase = .running ∧ (sPhase .starting).phase ≠ .running ∧ (sPhase .off).phase = .off ∧
    (sPhase .retired).phase ≠ .off ∧ State.reset.phase = .starting ∧ State.reset.sec.coldStart = true ∧
    chooseBank (sFlash none none none false) = none ∧ chooseBank (sFlash (some img1) none none false) = some (0, img1) ∧
    chooseBank (sFlash none (some img1) none false) = some (1, img1) ∧
    chooseBank { sFlash (some img1) none none false with sec := { State.reset.sec with floor := 4 } } = none ∧
    chooseSlot (sFlash none none none false) = none ∧
    chooseSlot (sFlash none none (some NodeConfig.shipped) false) = some (1, NodeConfig.shipped) ∧
    (sFlash none none none true).flash.journalBegun = true ∧ (sFlash none none none true).journal.bootDue = true ∧
    mapGet State.reset.ports 0 = some Port.reset ∧ (mapGet State.reset.stackTab 0).isSome = true ∧
    ({ State.reset with sec := { State.reset.sec with coldStart := false } } : State).sec.coldStart = false ∧
    State.reset.pins.railsFailed = false ∧ ({ State.reset.pins with railsFailed := true } : Pins).railsFailed = true ∧
    (∀ k ∈ [0, 11], (getStack (sPhase .running) k).selfRefresh = false) ∧ (State.reset.stackTab.all (fun kv => kv.2.pchs.isEmpty)) = true ∧
    State.reset.lanes = [] ∧ State.reset.journal.waiting = [] ∧
    ({ State.reset with lanes := [(0, { failed := 2, spareUsed := false, swapping := false })] } : State).lanes.any (fun kv => decide (2 ≤ kv.2.failed)) = true ∧
    ({ State.reset.flash with programming := some (.lumiz 0 img1) } : Flash).programming = some (.lumiz 0 img1) ∧
    ({ State.reset.flash with programming := some (.config 1 NodeConfig.shipped) } : Flash).programming = some (.config 1 NodeConfig.shipped) ∧
    ({ State.reset.meter with millivolts := 54000 } : Meter).millivolts ≤ 58000 ∧
    44000 ≤ ({ State.reset.meter with millivolts := 54000 } : Meter).millivolts ∧ (sLow .off).meter.millivolts < 44000 ∧ (sLow .off).phase = .off ∧
    (sPhase .off).pins.railsFailed = false ∧ (sWaiting .off).phase = .off ∧ (sWaiting .off).pins.startWaits = true ∧
    (sWaiting .off).pins.pwrEn = true ∧ (44000 : Nat) ≤ 44000 ∧ (58000 : Nat) ≤ 58000 := by decide +kernel

def sDue (due writing : Option (Nat × Nat)) : State :=
  { sUp with journal := { sUp.journal with next := 4096, oldestUnexported := 4000, due := due, writing := writing } }

/-- CoresFailNodesRetireCheckpointsAreKept: a core that runs, seven that failed less one, a checkpoint due and one being
written. -/
theorem witness_checkpoints : sUp.powered = true ∧ 3 ∉ sUp.sec.failedCores ∧ (List.range 6).length < 7 ∧ sUp.up = true ∧
    journalHeld sUp = false ∧ sUp.journal.unexported < journalRing ∧ (sPhase .off).powered = false ∧
    (sDue (some (1, 9)) none).watchOn = true ∧ (sDue (some (1, 9)) none).journal.due = some (1, 9) ∧
    (sDue (some (1, 9)) none).journal.writing = none ∧ (sDue none (some (1, 9))).journal.writing = some (1, 9) ∧
    (sDue (some (1, 9)) none).moduleIdle = false ∧ (sDue (some (1, 9)) none).journal.lost = 0 ∧ sUp.journal.bootDue = false ∧
    (sDue (some (1, 9)) none).journal.unexported + 12 ≤ journalRing ∧ journalHeld (sDue (some (1, 9)) none) = false ∧
    (sDue (some (1, 9)) none).journal.next % 4096 < 4085 ∧ (sDue none (some (1, 9))).journal.waiting = [] := by decide +kernel

/-- 18 Table 18.4: a cold reset counts BOOT on and keeps memory; a warm one keeps BOOT. -/
theorem test_resets : (coldReset sUp).sec.bootCount = 2 ∧ (moduleReset sUp 2 true).sec.bootCount = 1 ∧
    (coldReset (sForme forme0)).formes = [] ∧ (moduleReset (sForme forme0) 2 false).formes = [] ∧
    (coldReset { sUp with mem := [(0, 7#8)] }).mem = [(0, 7#8)] := by decide +kernel

/-- 15 R528: the numbers after a power-up go on at 4,096 (k + 2). -/
theorem test_power_on : let s := startPower { sFlash none none none true with phase := .off } true
    s.journal.next = 24576 ∧ s.journal.chain = 9 ∧ s.phase = .starting ∧ s.now = 0 := by decide +kernel

/-- 19 R606: below 44 V PWR_EN waits for the input; 18 Table 18.2: a rail that fails ends the attempt. -/
theorem test_power_waits : let s := after .powerOn (sLow .off)
    s.phase = .off ∧ s.pins.startWaits = true ∧ inRange 43999 = false ∧ inRange 44000 = true ∧
    (startPower (sPhase .off) false).pins.railsFailed = true ∧
    (after .powerOn (startPower (sPhase .off) false)).phase = .off := by decide +kernel

/-- 15 R528: the BOOT entry is the first of a power-up; the floor is raised. -/
theorem test_startup : let s := after .startupComplete (sFlash (some img1) none none false)
    s.phase = .running ∧ s.sec.floor = 2 ∧ s.journal.entries.map (·.objKind) = [0x03, 0x10] ∧
    (after .startupComplete (sFlash none none none false)).phase = .watchOnly := by decide +kernel

theorem test_retired : let s := after (.retirement { code := 5, unit := 0, detail := 0 }) sUp
    s.phase = .retired ∧ s.sb.out.map (fun o => (o.type, o.func, o.body.length)) = [(3, 0x11, 25)] ∧
    (after .compositorALoss sUp).phase = .lost ∧ (after .compositorALoss sUp).sb.out = [] := by decide +kernel

theorem test_cores : mapGet (after (.controlCoreHeartbeat 3) sUp).sec.beats 3 = some 0 ∧
    (after (.controlCoreTakeover 3) sUp).sec.failedCores = [3] ∧
    (after (.controlCoreRejoin 3) (after (.controlCoreTakeover 3) sUp)).sec.failedCores = [] ∧
    (after .watchdogTimeout sUp).phase = .starting := by decide +kernel

theorem test_flash_written : (after .checkpointFlashWritten (sDue none (some (1, 9)))).flash.checkpoint = 1 ∧
    (after .checkpointFlashWritten (sDue none (some (1, 9)))).flash.checkpointChain = 9 := by decide +kernel

/-! ## Compositor cores: witnesses -/

/-- Hart 0 of forme 0 runs; hart 1 of its group is stopped. -/
def sHart (f : Forme) (y : Hart → Hart) : State :=
  { sForme f with harts := [(0, y { Hart.reset with st := .running }), (1, Hart.reset)], groupsRunning := [0] }

def denied0 : Forme := { forme0 with ranges := [{ entry0 with w := false, r := false }] }
def swap0 : Forme := { forme0 with ranges := [{ entry0 with state := .swapping }] }

/-- The range cache of the hart's group holds entry 0. -/
def sNear (s : State) : State := { s with rangeCaches := [(0, (hartAccess 0 0 1).eng, [0])] }

/-- CoreAccessesAreTranslatedAndPerformed: a running hart; an atomic that is not one, a misaligned one; cache-block operations
that senvcfg and henvcfg refuse; the core mailbox, its last bytes and the region beyond; an access that goes through, one that
is held, one that is denied and one that meets a page fault. -/
theorem witness_core : hartRuns (sHart forme0 id) 0 = some 0 ∧ amoLegal .fadd 4 = false ∧ amoLegal .add 8 = true ∧
    accAlign (.amo .add 8 1 0 0) 4 = some 6 ∧ accAlign (.amo .add 8 1 0 0) 8 = none ∧ accAlign (.loadReserved 8 1) 4 = some 4 ∧
    cboRefused (getHart (sHart forme0 (fun x => { x with mode := 0 })) 0) .cboZero = some 2 ∧
    cboRefused (getHart (sHart forme0 (fun x => { x with mode := 2 })) 0) .cboClean = some 22 ∧
    cboRefused (getHart (sHart forme0 id) 0) .cboZero = none ∧ cboRefused (getHart (sHart forme0 id) 0) (.load 8 1) = none := by
  decide +kernel

theorem witness_core_mbox : let at8 (va : Nat) : CoreAt := (coreMmu 0 0 0 0 va 8 (sHart forme0 id)).2
    mboxOffset (at8 coreDevices) = some 0 ∧ mboxOffset (at8 (coreDevices + 0x7FF8)) = some 0x7FF8 ∧
    mboxOffset (at8 (coreDevices + 0x8000)) = none ∧ mboxOffset (at8 0x3FF8) = none := by decide +kernel

/-- An address that is no sign extension under Sv39 is a page fault, in the mode that satp's mode field 8 gives. -/
theorem witness_core_reach :
    let at2 (f : Forme) (va n : Nat) : CoreAt := (coreBoth 0 0 1 1 va n (sNear (sHart f id))).2.2
    at2 forme0 0x3FF8 8 = .ok [(0x3FF8, 8)] ∧ at2 denied0 0x10 8 = .denied (ndfaultOf 1 2 0x10) ∧
    at2 forme0 (coreDevices + 0x8000) 8 = .denied (ndfaultOf 0 0 (coreDevices + 0x8000)) ∧ at2 forme0 0 128 = .ok [(0, 128)] ∧
    (coreBoth 0 0 1 1 (2 ^ 40) 8 (sHart forme0 (fun x => x.setCsr csrSatp (8 * 2 ^ 60)))).2.2 = .trap 15 (2 ^ 40) := by
  decide +kernel

theorem witness_core_held : (coreBoth 0 0 1 1 0x10 8 (sHart swap0 id)).2.2 = .held := by
  obtain ⟨t, ht, hh⟩ := translate_held (s := sHart swap0 id) (a := hartAccess 0 0 1) (va := 0x10)
    (r := .swap) (e := some { entry0 with state := .swapping }) rfl rfl rfl (by decide)
  have hm : coreMmu 0 0 1 1 0x10 8 (sHart swap0 id) = (sHart swap0 id, .ok [(0x10, 8)]) := by decide +kernel
  have hl : lineParts [(0x10, 8)] = [(0x10, 8)] := by decide
  simp [coreBoth, hm, hl, coreReach, ht, hh, coreDevices]

/-- Byte 0 holds 7; its sector is poisoned in the second state. -/
def sByte : State := { sNear (sHart forme0 id) with mem := [(0, 7#8)] }
def sPoison : State := { sNear (sHart forme0 id) with poison := [(0, ())] }

theorem witness_core_data : (coreReadPas 0 [(0, 8)] sByte).2 = ([7, 0, 0, 0, 0, 0, 0, 0], none) ∧
    (coreReadPas 0 [(0, 8)] sPoison).2.2 = some 0 ∧ (cacheOwn sByte 6 0 (some 0)).2.poisonAt 0 = false ∧
    (cacheOwn sPoison 6 0 (some 0)).2.poisonAt 0 = true ∧
    (getHart (sHart forme0 (fun x => { x with resv := some 0 })) 0).resv = some 0 ∧ (getHart (sHart forme0 id) 0).resv ≠ some 0 ∧
    (cacheAtomic (breakResv sByte 6 0 (some 0)) 6 0 8 .add 1 0 (some 0) (some 0)).2 = some 7 ∧
    (cacheAtomic (breakResv sPoison 6 0 (some 0)) 6 0 8 .add 1 0 (some 0) (some 0)).2 = none := by decide +kernel

/-- Control registers: the time CSR in HS-mode, a register of HS-mode from U-mode, one of HS-mode from a guest, a selected
register of the interrupt file and one that does not exist; vector types that the core has. -/
theorem witness_csr : let x := { Hart.reset with st := .running }
    csrRefused x 0xC01 false = none ∧ csrRefused { x with mode := 0 } 0x100 true = some 2 ∧
    csrRefused { x with mode := 2 } 0x600 false = some 22 ∧ siregMissing (x.setCsr 0x150 0x70) 0x151 = false ∧
    siregMissing (x.setCsr 0x150 0x71) 0x151 = true ∧ vlMax 0xD0 = some 16 ∧ vlMax 0xD4 = none ∧ vlMax 0xD8 = some 8 := by
  decide +kernel

/-- Accesses as a guest: a hart in HS-mode, one in VS-mode and one in U-mode without HU; translation in VU-mode of a page that the
range maps, and of one it denies; SRET in each mode. -/
theorem witness_guest : guestRefused (getHart (sHart forme0 id) 0) = none ∧
    guestRefused (getHart (sHart forme0 (fun x => { x with mode := 2 })) 0) = some 22 ∧
    guestRefused (getHart (sHart forme0 (fun x => { x with mode := 0 })) 0) = some 2 ∧
    (coreBoth 0 0 1 1 0x10 8 (modHart (sNear (sHart forme0 id)) 0 (fun x => { x with mode := 3 }))).2.2 = .ok [(0x10, 8)] ∧
    (coreBoth 0 0 1 1 0x10 8 (modHart (sNear (sHart denied0 id)) 0 (fun x => { x with mode := 3 }))).2.2 =
      .denied (ndfaultOf 1 2 0x10) ∧
    bit ((getHart (sHart forme0 id) 0).csr 0x600) 22 = false ∧
    bit ((Hart.reset.setCsr 0x600 (2 ^ 22)).csr 0x600) 22 = true ∧ (Hart.reset.setCsr 0x602 (2 ^ 13)).csr 0x602 = 2 ^ 13 := by
  decide +kernel

/-- A floating-point and a vector load of the byte; counters; a wait that goes on and one that waits. -/
theorem witness_core_forms : accAlign (.fload 8 1) 4 = none ∧ accAlign (.vload 8 2) 4 = none ∧ isCounter 0xC03 = true ∧
    isCounter 0x142 = false ∧ csrRefused Hart.reset 0xC03 false = none ∧ Hart.reset.resv.isNone = true ∧
    ({ Hart.reset with resv := some 0 } : Hart).interrupts 0 = false := by decide +kernel

/-- CWL: a hart in S-mode and one in U-mode; a region of the range, one past its end, and one of the devices; two ways
locked; a region that loads and one denied. -/
theorem witness_cwl : (getHart (sHart forme0 id) 0).mode = 1 ∧ (getHart (sHart forme0 (fun x => { x with mode := 0 })) 0).mode = 0 ∧
    (lockedOf (sHart forme0 id) 0).length < 2 ∧ deviceVa (sHart forme0 id) 0 0 0 = some 0 ∧
    regionInEntry (sHart forme0 id) 0 0 0 0x4000 = true ∧ regionInEntry (sHart forme0 id) 0 0 1 0x4000 = false ∧
    deviceVa (sHart forme0 id) 0 0 coreDevices = some coreDevices ∧
    (preload 0 0 3 0 (lineStarts 0 128) (sNear (sHart forme0 id))).2.2 = .ok [] ∧
    (preload 0 0 3 0 (lineStarts 0 128) (sNear (sHart denied0 id))).2.2 = .denied (ndfaultOf 1 2 0) := by decide +kernel

/-- 11 Table 11.5: BF16 to FP8 E4M3 of register 2 to register 1, and the scales of an FP32 source for an E4M3 /M32 target. -/
def cvWord (op d f vs1 vs2 vd : Nat) : Nat := packFields [(7, 0x0B), (5, vd), (5, vs2), (5, vs1), (4, f), (4, d), (2, op)]

/-- ConversionsAndMonitorCallsAnswer: a legal and an illegal word of each; harts of the forme and one that is not; a hart that
is stopped and one that runs. -/
theorem witness_cv : let x := { Hart.reset with st := .running, vl := 32, sew := 16, lmul := 0, vill := false }
    let y := { x with sew := 32, lmul := 1 }
    hartRuns (sHart forme0 (fun _ => x)) 0 = some 0 ∧ cvIllegal x (cvWord 0 3 9 0 2 1) false = false ∧
    cvIllegal { x with vstart := 1 } (cvWord 0 3 9 0 2 1) false = true ∧ cvIllegal y (cvWord 1 7 11 0 2 1) true = false ∧
    cvIllegal y (cvWord 1 3 11 0 2 1) true = true ∧ (∃ m, typeKind (cvDfmt (cvWord 1 7 11 0 2 1)) = some (.scaled m)) ∧
    sameFormeHarts (sHart forme0 id) 0 [0, 1] = true ∧ sameFormeHarts (sHart forme0 id) 0 [8] = false ∧
    (sHart forme0 id).groupsRunning.contains (groupOfHart 1) = true ∧ (getHart (sHart forme0 id) 1).st = .stopped ∧
    (getHart (sHart forme0 id) 0).st ≠ .stopped ∧ (mapGet (sHart forme0 id).harts 1).isSome = true ∧
    getForme (sHart forme0 id) 0 = some forme0 := by
  simp only []
  refine ⟨by decide +kernel, by decide +kernel, by decide +kernel, by decide +kernel, by decide +kernel, ⟨_, rfl⟩, ?_⟩
  decide +kernel

/-- RISC-V: an access fault enters S-mode with the mode and SIE in sstatus, and SRET goes back. -/
theorem test_trap_and_sret : let x := Hart.reset.trap 5 0x40 0x80
    (x.mode, x.pc, x.csr 0x141, x.csr 0x142, x.csr 0x143) = (1, 0, 0x80, 5, 0x40) ∧ bit (x.csr 0x100) 8 = true ∧
    (x.sret.mode, x.sret.pc) = (1, 0x80) ∧ (getHart (after (.coreAccess 0 0 (.vload 8 2)) sByte) 0).vregs = [(128, 7#8)] ∧
    (getHart (after (.coreAccess 0 0 (.fload 4 2)) sByte) 0).fregs = [(2, 0xFFFFFFFF00000007)] := by decide +kernel

theorem test_core_load : (getHart (after (.coreAccess 0 0 (.load 8 5)) sByte) 0).xget 5 = 7 ∧
    (getHart (after (.coreAccess 0 0 (.load 8 5)) sPoison) 0).cause = 5 ∧
    (getHart (after (.coreAccess 0 0 (.load 8 5)) sPoison) 0).ndfault = 2 ^ 61 ∧
    (getHart (after (.coreAccess 0 0 (.load 8 0)) sByte) 0).xget 0 = 0 := by decide +kernel

/-- 09 R309: SC stores where the reservation stands, and answers 0. -/
theorem test_core_sc : let s := after (.coreAccess 0 0 (.loadReserved 8 5)) sByte
    let t := after (.coreAccess 0 0 (.storeCond 8 6 [9, 0, 0, 0, 0, 0, 0, 0])) s
    (getHart t 0).xget 6 = 0 ∧ (getHart (after (.coreAccess 0 0 (.load 1 7)) t) 0).xget 7 = 9 ∧
    (getHart (after (.coreAccess 0 0 (.storeCond 8 6 [9, 0, 0, 0, 0, 0, 0, 0])) t) 0).xget 6 = 1 := by decide +kernel

/-- 11 Table 11.5: 1.0 in BF16 is 0x3F80, and in FP8 E4M3 0x38. -/
theorem test_ncvt : let x := { Hart.reset with st := .running, vl := 2, sew := 16, vill := false, vregs := [(128, 0x80#8), (129, 0x3F#8)] }
    (getHart (after (.ncvt 0 (cvWord 0 3 9 0 2 1)) (sHart forme0 (fun _ => x))) 0).vregs = [(64, 0x38#8), (128, 0x80#8), (129, 0x3F#8)] := by
  decide +kernel

theorem test_sbi : let s := after (.sbiHsm 0 1 true 0x80 7) (sHart forme0 id)
    (getHart s 1).st = .running ∧ (getHart s 1).pc = 0x80 ∧ (getHart s 1).xget 11 = 7 ∧
    (getHart (after (.sbiIpi 0 [1]) s) 1).pending = [1] ∧ (getHart (after (.sbiSrst 1) s) 0).st = .stopped := by decide +kernel

/-- 11 R385: the time CSR is the registration counter, and a guest's is moved by htimedelta. -/
theorem test_time : let s := { sHart forme0 (fun x => { x.setCsr 0x605 5 with mode := 2, csrs := [(0x605, 5), (0x606, 2)] }) with now := 40 }
    (getHart (after (.coreAccess 0 0 (.csr .read 0xC01 7 0)) s) 0).xget 7 = 45 := by decide +kernel

/-- RISC-V Sv39, by hand: a leaf at level 2 whose A and D bits are set maps 1 GiB; VA 0x10 goes to device VA 0x10. -/
theorem test_sv39 : let leaf : Nat := 0xCF
    let s := { sNear (sHart forme0 (fun x => x.setCsr csrSatp (8 * 2 ^ 60 + 1))) with
      mem := [(0x10, 7#8), (0x1000, BitVec.ofNat 8 leaf)] }
    (getHart (after (.coreAccess 0 0x10 (.load 1 5)) s) 0).xget 5 = 7 ∧
    (getHart (after (.coreAccess 0 0x40000010 (.load 1 5)) s) 0).cause = 13 := by decide +kernel

/-! ## Windows, journal, machine: witnesses -/

/-- AnchorNeverFallsAndNanFlagStays: a window with an anchor, with the NaN flag, and with both infinity flags. -/
theorem witness_window : ((Window.opened 0).anchor = some 0) ∧ ({ Window.opened 1 with nan := true } : Window).nan = true ∧
    ({ Window.opened 1 with pinf := true, ninf := true } : Window).pinf = true ∧
    ({ Window.opened 1 with pinf := true, ninf := true } : Window).ninf = true ∧
    ({ Window.opened 1 with pinf := true, ninf := true } : Window).value = .nan := by decide +kernel

/-- 03 R95, R97: a term 21 bits below the top of the window sets the anchor; a greater one raises it. -/
theorem test_anchor : ((Window.opened 1).addTerm 1 (.fin false 1 0) 1).anchor = some (-106) ∧
    (((Window.opened 1).addTerm 1 (.fin false 1 0) 1).addTerm 1 (.fin false 1 10) 11).anchor = some (-96) ∧
    (((Window.opened 1).addTerm 1 (.fin false 1 10) 11).addTerm 1 (.fin false 1 0) 1).value =
      .fin false (1025 * 2 ^ 96) (-96) := by decide +kernel

/-- StepRunsTheFrontCommand and JournalEntriesAreChained: a queue with a command, an empty one with and without power. -/
theorem witness_step : ({ sUp with pending := [.fenceAcq a0] } : State).pending = .fenceAcq a0 :: [] ∧ sUp.pending = [] ∧
    sUp.phase ≠ .off ∧ sUp.phase ≠ .lost ∧ (sPhase .off).phase = .off ∧ (sPhase .lost).phase = .lost ∧
    (sPhase .off).flash.journalBegun = false ∧ (sPhase .off).pins.railsFailed = false ∧
    ({ State.reset.meter with millivolts := 44000 } : Meter).millivolts ≤ 58000 := by decide +kernel

/-- A row that a checkpoint held, and one that waits still; a state in which idling only lets time pass. -/
theorem witness_step_held : (holdRow sUp (.functionLevelReset 0)).journal.rows = [.functionLevelReset 0] ∧
    journalHeld (holdRow sUp (.functionLevelReset 0)) = false ∧
    journalHeld (holdRow (holdJournal sUp) (.functionLevelReset 0)) = true ∧ sUp.gut.flights = [] ∧ sUp.gut.atHome = [] ∧
    sUp.txns = [] ∧ (getMeshPort sUp 0).queue = [] ∧ (getMeshPort sUp 5).replay = [] ∧ sUp.harts = [] ∧ sUp.formes = [] := by
  decide +kernel

/-- 15 R527: what was held is made when the journal takes entries again: the row leaves the list and the port's epoch rises. -/
theorem test_held_row : (match step (holdRow (sForme forme0) (.functionLevelReset 0)) with
    | .next t => (t.journal.rows, (getPort t 0).epoch - (getPort (sForme forme0) 0).epoch)
    | _ => ([.announce], 0)) = ([], 1) := by decide +kernel

/-- EveryStepKeepsTheInvariant: the reset state has the invariant, and a step from it answers a next state. -/
theorem witness_invariant : Consistent State.reset ∧ step State.reset = .next { State.reset with now := 1 } := by
  refine ⟨⟨?_, ?_, ?_, fun i e h => nomatch h⟩, rfl⟩
  all_goals decide +kernel

theorem test_step : (match step { sUp with pending := [.moduleIdleEntry, .announce] } with
    | .next t => t.pending
    | _ => []) = [.announce] ∧
    decodeTableWord 32 0 = none := by decide +kernel

/-! ## Ill-formed commands -/

def badSlug : SlugAt := { a0 with galley := 64 }
def badOp : OpRef := { platen := 6, galley := 0, stick := 0, slug := 0, ticket := 0 }
def badLine : LineAt := { agent := 0, pa := 64 }
def badRow : RowId := { pch := 0, sid := 0, bg := 0, bank := 0, row := 24576 }

theorem smoke_slots : ([.slotWrite (.host 4) (info 0) 0 ⟨[], false⟩, .slotWrite (.host 0) (info 0) 0x7FFF ⟨[1, 2], false⟩, .registerWrite 4 (info 0) 0 ⟨[], false⟩,
    .afterRelease (.core 4) 0, .holdRelease (.host 0) 64, .slotComplete (.host 4) 0, .identify (.host 0) 64, .attest (.host 4) 0,
    .formeCreate (.host 0) 64, .formeDestroy (.host 0) 64, .mapRange (.host 0) 64, .unmapRange (.host 0) 64,
    .copy (.host 0) 64 0, .fill (.host 0) 64 0, .zero (.host 0) 64 0, .plateLoad (.host 0) 64, .imageInstall (.host 0) 64,
    .plateSeal (.host 0) 64, .passLaunch (.host 0) 64, .passStatus (.host 0) 64, .setPolicy (.host 0) 64,
    .powerState (.host 0) 64, .coreGroupStart (.host 0) 64, .coreGroupStop (.host 0) 64, .capSet (.host 0) 64,
    .telemetry (.host 0) 64, .journalRead (.host 0) 64, .journalExport (.host 0) 64, .meshJobSetup (.host 0) 64,
    .meshJobRelease (.host 0) 64, .passAbort (.host 0) 64, .formeReset (.host 0) 64, .recoveryRead (.host 0) 64] :
      List Instr).all (fun i => !i.wf) = true := by decide +kernel

theorem smoke_ports : ([.hotReset 4, .functionLevelReset 4, .linkDown 4, .perstNAssert 4, .perstNRelease 4, .linkRetrain 4,
    .d3hotEntry 4 true, .pcieTrainAttempt 4 ⟨true, true, 6, 16⟩, .pcieTrainAttempt 0 ⟨true, true, 7, 16⟩, .memorySpaceEnable 0 65536, .busMasterEnableWrite 4 true,
    .apertureRead 4 (info 0) 0 4, .apertureWrite 4 (info 0) 0 [] { th := false, ph := 0, st := 0 } false, .apertureAtomic 0 (info 0) 0 2 .add 0 0,
    .hostReadTimeout 4 0, .hostReadCompletion 4 0 [] false] : List Instr).all (fun i => !i.wf) = true := by decide +kernel

theorem smoke_sorts : ([.stickStart 0 64, .sortArithmetic a0 .addI 256 0 0, .branch badSlug 0 0 0, .exit badSlug,
    .readSpecial a0 256 .stick, .xchAt a0 0 0 256 0, .xchRotW a0 0 0 32 0, .xchRotC a0 0 0 (-32) 0, .xchFlip a0 0 0 32 0,
    .xchLow badSlug 0 0 0, .tallySome badSlug 0 0, .tallyEvery badSlug 0 0, .tallyMask badSlug 0 0, .tallyCount badSlug 0 0,
    .tallySame badSlug 0 0, .tallyLive badSlug 0, .sortLoad a0 false 3 0 0 .plain, .sortStore a0 false 16 0 0 .plain,
    .sortAtomic a0 false .add 2 0 0 0 0 .plain, .zline a0 256, .fenceAcq badSlug, .fenceRel badSlug, .fenceAr badSlug,
    .trap badSlug, .lockAcq a0 false 256 0, .lockTry a0 false 0 256, .lockRetry 6 0 0 0, .lockTimeout 0 64 0 0,
    .lockRel badSlug false 0, .meetWait badSlug 0 .none, .meetMark badSlug 0 .none, .barrierStranded 0 0 0 16] :
      List Instr).all (fun i => !i.wf) = true := by decide +kernel

theorem smoke_tiles : ([.tile badSlug 0 0, .tileLoad badOp, .tileStore badOp, .tileOpen badOp, .tileMma badOp,
    .tileMmaS badOp, .tileOut badOp, .pressStageStart badOp, .brayerChain badOp, .slice badOp, .spread badOp, .update badOp,
    .tileReadDone badOp, .tileDone badOp, .twaitRd badSlug 0, .twaitDone badSlug 0, .stickEnd 0 0 32, .attemptEnd 4 1,
    .swapComplete 4 1] : List Instr).all (fun i => !i.wf) = true := by decide +kernel

theorem smoke_translation : ([.rangeWalk 0 { cls := 7, die := 0, unit := 0 } 0, .faultHoldExpiry 4 0, .faultReevaluate 4 0,
    .rangeInvalidation 0 8, .engineDrainDone 0 8 0] : List Instr).all (fun i => !i.wf) = true := by decide +kernel

theorem smoke_coherence : ([.rdShared badLine, .rdUnique badLine, .upgrade badLine, .ownNodata badLine, .lockFill (la 0) 32,
    .rdOnce badLine, .wrFull (la 0) [] 0, .wrPart (la 0) 0 [], .wbDirty badLine, .snpShared badLine, .snpInv badLine,
    .snpPeek badLine, .snpClean badLine, .snpPush badLine, .data badLine, .fwd badLine, .snpData badLine, .snpAck badLine,
    .snpNp badLine, .comp badLine, .grantAck badLine, .snoopTimeout badLine, .suspectProbe 8 true, .streamTimeout 6 0] :
      List Instr).all (fun i => !i.wf) = true := by decide +kernel

theorem smoke_memory : ([.memoryRead (2 ^ 41) true [], .memoryWrite 0 0 [], .writeCrcError 0 0 5 0, .byteLaneLoss 0 64 0,
    .byteLaneRecovered 12 0, .refresh 0 0 64, .readRetrain 0 64, .refreshDouble 12 0, .patrolScrub 12, .innerCorrPoll 12 0,
    .selfRefreshEntry 12, .selfRefreshExit 12, .stackQuiesce 12, .repairStatusRead 12, .rowRepair 0 badRow true,
    .patternTest 0 badRow true, .stackRelease 12, .gutterLaneFail 19 0 0, .laneSwapDone 0 2 0, .gutterLinkLoss 19] :
      List Instr).all (fun i => !i.wf) = true := by decide +kernel

theorem smoke_power_mesh : ([.governorTimerExpiry 6, .caseSleepDone 6, .platenWakeDone 6, .capLoopTick 0 [0, 0, 0, 0, 0],
    .thermalSensor (.compositor 5) 0, .thermalTrip (.stack 12), .thermalLimitTick (.platen 6), .runningPointStep 6,
    .droopDetect 6 true, .droopRecovered 6, .meshLinkTrain 6 0 0 true 0 0, .meshTrainRetry 6 0, .gnidAnnounce 6 0 0 0 0,
    .meshPut 6 (pkt 0 0 0), .meshGet 6 (pkt 0 0 0) 0, .meshTransit 6 (pkt 0 0 0), .meshLaneFail 0 true 16,
    .meshLinkLoss 6 true, .meshRetrainDone 6 true, .linkStateNotice 0 0 17, .registrationExchange 6 ⟨0, 0⟩ ⟨0, 0⟩] :
      List Instr).all (fun i => !i.wf) = true := by decide +kernel

theorem smoke_cores : ([.controlCoreHeartbeat 8, .controlCoreTakeover 8, .controlCoreRejoin 8, .coreAccess 96 0 .cboZero,
    .coreAccess 0 0 (.load 3 0), .coreAccess 0 0 (.fetch 8), .coreAccess 0 0 (.store 2 [0]), .coreAccess 0 0 (.amo .fadd 4 0 0 0),
    .coreAccess 0 0 (.loadReserved 2 0), .coreAccess 0 0 (.storeCond 4 32 [0, 0, 0, 0]), .coreAccess 0 0 (.fload 1 0), .coreAccess 0 0 (.vload 0 0),
    .coreAccess 0 0 (.vstore 513 []), .coreAccess 0 0 (.hload 8 0 true), .coreAccess 0 0 (.hstore 2 [0]), .ncvt 0 (2 ^ 32), .nscale 96 0,
    .zlineL3 96 0, .cwlLock 0 0 0 32, .cwlUnlock 96 0, .sbiIpi 96 [], .sbiRfence 96 [], .sbiHsm 0 96 true 0 0, .sbiSrst 96,
    .sbiEntropy 96 0] : List Instr).all (fun i => !i.wf) = true := by decide +kernel

end Sys2Proof.Machine.Tests
end

section
/-! PROOFS. What reset, power-on, the resets, the end of start-up and a loss of supply leave (18; 15 R515, R528). -/

namespace Sys2Proof.Machine

open Sys2Proof

/-! ## The reset state -/

theorem byteAt_nil (a : Nat) : byteAt [] a = 0 := rfl

/-- The reset state has the invariant: nothing is held yet, so nothing is out of order. -/
theorem reset_consistent : Consistent State.reset :=
  ⟨wf_nil, rfl, rfl, fun _ _ h => nomatch h⟩

theorem reset_getStack {k : Nat} (hk : k < 12) : getStack State.reset k = Stack.reset := by
  have all : ∀ k < 12, getStack State.reset k = Stack.reset := by decide
  exact all k hk

theorem reset_port {p : Nat} (hp : p < 4) : mapGet State.reset.ports p = some Port.reset := by
  have all : ∀ p < 4, mapGet State.reset.ports p = some Port.reset := by decide
  exact all p hp

/-- Settles O58: each value is read off the reset state. Memory that reads 0 everywhere and the payload and read-request sizes
are the model's choices (notes/assumptions/4.md, 3.md), as the phase is (2.md). -/
theorem resetLeavesTheStatedValues : Obligations.ResetLeavesTheStatedValues := by
  have rings : ∀ k, k < 12 → (getStack State.reset k).ring = Ring.reset := fun k hk => by rw [reset_getStack hk]; rfl
  unfold Obligations.ResetLeavesTheStatedValues
  refine ⟨rfl, rfl, rfl, rfl, rfl, rfl, rfl, rfl, rfl, rfl, rfl, rfl, rfl, rfl, rfl, rfl, rfl, rfl,
    rfl, rfl, rfl, rfl, rfl, rfl, rfl, rings, fun p hp => ⟨Port.reset, reset_port hp, rfl, rfl, rfl, rfl, rfl⟩,
    byteAt_nil, reset_consistent⟩

/-! ## Tables whose every entry is mapped -/

theorem mapGet_map {α β : Type} (m : SMap α) (g : Nat → α → β) (k : Nat) :
    mapGet (m.map (fun kv => (kv.1, g kv.1 kv.2))) k = (mapGet m k).map (g k) := by
  induction m with
  | nil => rfl
  | cons x r ih =>
    simp only [List.map_cons, mapGet]
    split
    · rename_i h; subst h; rfl
    · exact ih

/-- What a table reads is one of its pairs. -/
theorem mem_of_mapGet {α : Type} (m : SMap α) (k : Nat) (v : α) (h : mapGet m k = some v) : (k, v) ∈ m := by
  induction m with
  | nil => cases h
  | cons x r ih =>
    simp only [mapGet] at h
    split at h
    · rename_i e; subst e; cases h; exact List.mem_cons_self
    · exact List.mem_cons_of_mem _ (ih h)

/-! ## What every reset clears (18 Table 18.4) -/

/-- Formes, Platens, cores and caches hold nothing. -/
def DiesCleared (t : State) : Prop :=
  t.formes = [] ∧ t.galleys = [] ∧ t.lines = [] ∧ t.dir = [] ∧ t.txns = [] ∧ t.l3Locks = [] ∧ t.rangeCaches = [] ∧
    t.invals = [] ∧ t.harts = [] ∧ t.groupsRunning = [] ∧ t.powerCmds = [] ∧ t.moduleIdle = false ∧ t.idleReqs = []

/-- Every host port is as at reset but for its PERST_N input. -/
def PortsFresh (s t : State) : Prop :=
  ∀ p x, mapGet s.ports p = some x → ∃ y, mapGet t.ports p = some y ∧ y.mbox = Mailbox.reset ∧ y.forme = none ∧
    y.armed = false ∧ y.epoch = 0 ∧ y.link = .down ∧ y.memSpace = false ∧ y.busMaster = false ∧
    y.perstAsserted = x.perstAsserted

theorem clearDies_cleared (s : State) : DiesCleared (clearDies s) :=
  ⟨rfl, rfl, rfl, rfl, rfl, rfl, rfl, rfl, rfl, rfl, rfl, rfl, rfl⟩

theorem clearDies_ports (s : State) (p : Nat) : mapGet (clearDies s).ports p = (mapGet s.ports p).map Port.fresh :=
  mapGet_map s.ports (fun _ => Port.fresh) p

theorem clearDies_portsFresh (s : State) : PortsFresh s (clearDies s) := fun p x hx =>
  ⟨x.fresh, by rw [clearDies_ports, hx]; rfl, rfl, rfl, rfl, rfl, rfl, rfl, rfl, rfl⟩

/-- Ports of which PERST_N alone matters: what they held before they were cleared is gone. -/
theorem PortsFresh.of_perst {s u t : State} (h : PortsFresh u t)
    (hp : ∀ p, (mapGet u.ports p).map (·.perstAsserted) = (mapGet s.ports p).map (·.perstAsserted)) : PortsFresh s t := by
  intro p x hx
  obtain ⟨z, hz, hzx⟩ : ∃ z, mapGet u.ports p = some z ∧ z.perstAsserted = x.perstAsserted := by
    have := hp p
    rwa [hx, Option.map_some, Option.map_eq_some_iff] at this
  obtain ⟨y, hy, mbox, forme, armed, epoch, link, mem, master, perst⟩ := h p z hz
  exact ⟨y, hy, mbox, forme, armed, epoch, link, mem, master, perst.trans hzx⟩

/-! ## Cold reset (15 R515, Table 15.7; 18 R584) -/

/-- What boot verification puts in force: configuration, image and the port's state of the sideband. -/
theorem verifyImages_eq (s : State) : verifyImages s =
    let c := ((chooseSlot s).map (·.2)).getD NodeConfig.shipped
    { s with
      config := c
      sec := { s.sec with
        configSlot := (chooseSlot s).map (·.1)
        image := (chooseBank s).map (·.2)
        bank := ((chooseBank s).map (·.1)).getD s.sec.bank
        lumizMeasurement := ((chooseBank s).map (·.2.measurement)).getD s.sec.lumizMeasurement }
      sb := { s.sb with mode := sbModeOf { s with config := c } } } := by
  have choice : ∀ c z, chooseBank { s with config := c, sec := { s.sec with configSlot := z } } = chooseBank s :=
    fun _ _ => rfl
  unfold verifyImages
  dsimp only
  rw [choice]
  cases chooseBank s <;> rfl

theorem coldWatch_eq (s : State) : coldWatch s =
    let c := ((chooseSlot s).map (·.2)).getD NodeConfig.shipped
    let pins := { s.pins with tunlkAtReset := s.pins.tunlkAsserted, sbIdAtReset := s.pins.sbId }
    { s with
      config := c
      pins := pins
      sec := { s.sec with
        bootCount := s.sec.bootCount + 1, unlocked := false, retirement := none, failedCores := [], beats := []
        coldStart := true
        configSlot := (chooseSlot s).map (·.1)
        image := (chooseBank s).map (·.2)
        bank := ((chooseBank s).map (·.1)).getD s.sec.bank
        lumizMeasurement := ((chooseBank s).map (·.2.measurement)).getD s.sec.lumizMeasurement }
      sb := { Sideband.reset with tx := s.sb.tx, mode := sbModeOf { s with config := c, pins := pins } } } := by
  unfold coldWatch
  dsimp only
  rw [verifyImages_eq]
  rfl

/-- A cold reset, with the Watch domain's part of it apart. -/
theorem coldReset_eq (s : State) : coldReset s =
    { clearDies s with
      phase := .starting
      config := (coldWatch s).config
      pins := (coldWatch s).pins
      sec := (coldWatch s).sec
      sb := (coldWatch s).sb
      lanes := failedAtTraining (s.free + 1024) s.lanes
      free := s.free + 4096
      gut := Gutter.reset
      absentRing := Ring.reset
      ports := (clearDies s).ports.map (fun kv => (kv.1, { kv.2 with trainFail := 0 }))
      stackTab := s.stackTab.map (fun kv => (kv.1, kv.2.cold (s.free + 64 * kv.1)))
      homeFull := []
      mesh := { Mesh.reset with tx := s.mesh.tx } } := by
  unfold coldReset
  simp only [coldWatch_eq]
  rfl

theorem coldReset_sec (s : State) : (coldReset s).sec = (coldWatch s).sec := by rw [coldReset_eq]

theorem coldReset_config (s : State) :
    (coldReset s).config = ((chooseSlot s).map (·.2)).getD NodeConfig.shipped := by
  rw [coldReset_eq, coldWatch_eq]

theorem coldReset_sb (s : State) : (coldReset s).sb = (coldWatch s).sb := by rw [coldReset_eq]

theorem coldReset_security (s : State) : let t := coldReset s
    t.sec.bootCount = s.sec.bootCount + 1 ∧ t.sec.unlocked = false ∧ t.sec.lumizKeys = s.sec.lumizKeys ∧
      t.sec.retirement = none := by
  dsimp only
  rw [coldReset_sec, coldWatch_eq]
  exact ⟨rfl, rfl, rfl, rfl⟩

theorem coldReset_keeps (s : State) : let t := coldReset s
    t.now = s.now ∧ t.mem = s.mem ∧ t.journal = s.journal ∧ t.flash = s.flash := by
  dsimp only
  rw [coldReset_eq]
  exact ⟨rfl, rfl, rfl, rfl⟩

theorem coldReset_clears (s : State) : let t := coldReset s
    t.gut = Gutter.reset ∧ t.mesh = { Mesh.reset with tx := s.mesh.tx } ∧ t.absentRing = Ring.reset := by
  dsimp only
  rw [coldReset_eq]
  exact ⟨rfl, rfl, rfl⟩

theorem coldReset_sideband (s : State) : let t := coldReset s
    t.pins.sbIdAtReset = s.pins.sbId ∧ t.sb.mark = 0 ∧ t.sb.queue = [] := by
  dsimp only
  rw [coldReset_eq, coldWatch_eq]
  exact ⟨rfl, rfl, rfl⟩

theorem coldReset_cleared (s : State) : DiesCleared (coldReset s) := by
  rw [coldReset_eq]
  exact clearDies_cleared s

theorem coldReset_portsFresh (s : State) : PortsFresh s (coldReset s) := fun p x hx => by
  have hy : mapGet (coldReset s).ports p = some { x.fresh with trainFail := 0 } := by
    rw [coldReset_eq]
    exact (mapGet_map _ (fun _ (y : Port) => { y with trainFail := 0 }) p).trans (by rw [clearDies_ports, hx])
  exact ⟨_, hy, rfl, rfl, rfl, rfl, rfl, rfl, rfl, rfl⟩

/-- A verified image is in force, with its bank and measurement. -/
theorem coldReset_image (s : State) {b : Nat} {i : LumizImage} (h : chooseBank s = some (b, i)) :
    (coldReset s).sec.image = some i ∧ (coldReset s).sec.bank = b ∧
      (coldReset s).sec.lumizMeasurement = i.measurement := by
  rw [coldReset_sec, coldWatch_eq, h]
  exact ⟨rfl, rfl, rfl⟩

theorem coldReset_noImage (s : State) (h : chooseBank s = none) : (coldReset s).sec.image = none := by
  rw [coldReset_sec, coldWatch_eq, h]
  rfl

theorem coldReset_slot (s : State) {k : Nat} {c : NodeConfig} (h : chooseSlot s = some (k, c)) :
    (coldReset s).config = c ∧ (coldReset s).sec.configSlot = some k := by
  rw [coldReset_config, coldReset_sec, coldWatch_eq, h]
  exact ⟨rfl, rfl⟩

theorem coldReset_noSlot (s : State) (h : chooseSlot s = none) :
    (coldReset s).config = NodeConfig.shipped ∧ (coldReset s).sec.configSlot = none := by
  rw [coldReset_config, coldReset_sec, coldWatch_eq, h]
  exact ⟨rfl, rfl⟩

/-- With a key in force and a strap from 1 to 8 the sideband comes up under PLCA (17 R560, R566). -/
theorem coldReset_plca (s : State) (keys : (coldReset s).config.keys ≠ []) (h1 : 1 ≤ s.pins.sbId)
    (h8 : s.pins.sbId ≤ 8) : (coldReset s).sb.mode = .plca := by
  rw [coldReset_config] at keys
  rw [coldReset_sb, coldWatch_eq]
  have strap : ¬(s.pins.sbId < 1 ∨ s.pins.sbId > 8) := by omega
  have key : (((chooseSlot s).map (·.2)).getD NodeConfig.shipped).keys.isEmpty = false := by simpa using keys
  exact (if_neg strap).trans (if_neg (Bool.eq_false_iff.mp key))

/-- Training finds of a lane group only failed lanes it had, and forgets it where it finds none (01 R39). -/
theorem mem_failedAtTraining {free : Nat} {m : SMap LaneGroup} {kv : Nat × LaneGroup}
    (h : kv ∈ failedAtTraining free m) : kv.2.spareUsed = false ∧ kv.2.swapping = false ∧ 0 < kv.2.failed ∧
      ∃ g, (kv.1, g) ∈ m ∧ kv.2.failed ≤ g.failed := by
  obtain ⟨hmem, hpos⟩ := List.mem_filter.mp h
  obtain ⟨x, hx, rfl⟩ := List.mem_map.mp hmem
  refine ⟨rfl, rfl, of_decide_eq_true hpos, x.2, hx, ?_⟩
  exact Nat.le_trans (List.length_filter_le _ _) (Nat.le_of_eq List.length_range)

theorem coldReset_lanes (s : State) : (coldReset s).lanes = failedAtTraining (s.free + 1024) s.lanes := by
  rw [coldReset_eq]

theorem coldReset_stack (s : State) {k : Nat} {x : Stack} (h : mapGet s.stackTab k = some x) :
    mapGet (coldReset s).stackTab k = some (x.cold (s.free + 64 * k)) := by
  rw [coldReset_eq]
  exact (mapGet_map _ (fun k (y : Stack) => y.cold (s.free + 64 * k)) k).trans (by rw [h]; rfl)

/-! ## Power-on (18 Table 18.1 steps 1 and 2, Table 18.2) -/

/-- What a start-up from no supply leaves where every rail reaches regulation: memory and the keys are gone, and the journal
resumes behind the last checkpoint in flash (15 R502, R528). -/
def PowerStarted (s t : State) : Prop :=
  t.phase = .starting ∧ DiesCleared t ∧ PortsFresh s t ∧ t.now = 0 ∧
    t.pins.pwrEn = true ∧ t.pins.pwrGood = true ∧ t.pins.fuseOpen = false ∧ t.mem = [] ∧ t.poison = [] ∧ t.errors = [] ∧
    t.sec.bootCount = s.sec.bootCount + 1 ∧ t.sec.lumizKeys = s.sec.nextKeys ∧ t.sec.nextKeys = s.sec.nextKeys + 1 ∧
    t.sec.unlocks = 0 ∧ t.journal.entries = [] ∧ t.journal.bootDue = true ∧
    (s.flash.journalBegun = false → t.journal.next = 0 ∧ t.journal.chain = 0) ∧
    (s.flash.journalBegun = true → t.journal.next = 4096 * (s.flash.checkpoint + 2) ∧
      t.journal.chain = s.flash.checkpointChain)

/-- Where a rail misses regulation the module stays off. -/
def PowerFailed (t : State) : Prop := t.phase = .off ∧ t.pins.pwrGood = false ∧ t.pins.railsFailed = true

theorem startPower_fails (s : State) (h : s.phase = .off) : PowerFailed (startPower s false) := ⟨h, rfl, rfl⟩

theorem resumeJournal_first (s : State) (h : s.flash.journalBegun = false) :
    (resumeJournal s).journal.next = 0 ∧ (resumeJournal s).journal.chain = 0 := by
  simp [resumeJournal, h]

theorem resumeJournal_again (s : State) (h : s.flash.journalBegun = true) :
    (resumeJournal s).journal.next = 4096 * (s.flash.checkpoint + 2) ∧
      (resumeJournal s).journal.chain = s.flash.checkpointChain := by
  simp [resumeJournal, h]

/-- A power-up counts the test unlocks anew (15 R518). -/
def unlocksAnew (s : State) : State := { s with sec := { s.sec with unlocks := 0 } }

theorem startPower_starts (s : State) (h : s.pins.pwrEn = true) : PowerStarted s (startPower s true) := by
  have pins (u : State) : (coldReset u).pins.pwrEn = u.pins.pwrEn := by rw [coldReset_eq, coldWatch_eq]
  have keys (u : State) : (coldReset u).sec.nextKeys = u.sec.nextKeys := by rw [coldReset_eq, coldWatch_eq]
  have boots (u : State) : (coldReset u).sec.bootCount = u.sec.bootCount + 1 := by rw [coldReset_eq, coldWatch_eq]
  have unlocks (u : State) : (coldReset u).sec.unlocks = u.sec.unlocks := by rw [coldReset_eq, coldWatch_eq]
  have flash (u : State) : (coldReset u).flash = u.flash := by rw [coldReset_eq]; rfl
  refine ⟨rfl, coldReset_cleared _, coldReset_portsFresh (unlocksAnew s), rfl, (pins _).trans h, rfl, rfl, rfl, rfl, rfl,
    boots _, keys _, congrArg (· + 1) (keys _), unlocks _, rfl, rfl, fun begun => ?_, fun begun => ?_⟩
  · have begun' := (congrArg Flash.journalBegun (flash (unlocksAnew s))).trans begun
    exact resumeJournal_first (loseMemory (coldReset (unlocksAnew s))) begun'
  · have begun' := (congrArg Flash.journalBegun (flash (unlocksAnew s))).trans begun
    have again := resumeJournal_again (loseMemory (coldReset (unlocksAnew s))) begun'
    have kept : (loseMemory (coldReset (unlocksAnew s))).flash = s.flash := flash _
    rwa [kept] at again

/-- An attempt with PWR_EN asserted: which way it goes is open. -/
theorem tryPower_outcome (s : State) (hoff : s.phase = .off) (hen : s.pins.pwrEn = true) :
    if Config.freeBool s.free then PowerStarted s (tryPower s) else PowerFailed (tryPower s) := by
  unfold tryPower
  cases Config.freeBool s.free
  · exact startPower_fails s.drawn hoff
  · exact startPower_starts s.drawn hen

theorem tryPower_phase (s : State) (hoff : s.phase = .off) :
    (tryPower s).phase = if Config.freeBool s.free then .starting else .off := by
  unfold tryPower
  cases Config.freeBool s.free
  · exact hoff
  · rfl

theorem inRange_of {mv : Nat} (lo : 44000 ≤ mv) (hi : mv ≤ 58000) : inRange mv = true := by simp [inRange, lo, hi]

theorem not_inRange_of {mv : Nat} (h : mv < 44000) : inRange mv = false := by
  simp [inRange, Nat.not_le.mpr h]

/-- The state in which PWR_EN has been asserted and waits for the input. -/
def pwrEnWaits (s : State) : State := { s with pins := { s.pins with pwrEn := true, startWaits := true } }

theorem execPowerOn_off {s : State} (hoff : s.phase = .off) (hrail : s.pins.railsFailed = false) :
    execPowerOn s =
      .next (if inRange s.meter.millivolts then tryPower (pwrEnWaits s) else pwrEnWaits s) := if_pos ⟨hoff, hrail⟩

theorem execPowerOn_ignored {s : State} (h : s.phase ≠ .off ∨ s.pins.railsFailed = true) :
    execPowerOn s = .next { s with pins := { s.pins with pwrEn := true } } := by
  refine if_neg fun ⟨hoff, hrail⟩ => ?_
  rcases h with h | h
  · exact h hoff
  · exact Bool.false_ne_true (hrail.symm.trans h)

/-! ## A power sample while the start-up waits for the input (19 R606) -/

theorem countFor_phase (s : State) (f : Option Nat) (c : Ctr) (n : Nat) : (countFor s f c n).phase = s.phase := by
  rw [(countFor_frame s f c n).1]

theorem account_phase (s : State) (p : Nat) : (account s p).phase = s.phase := by
  unfold account
  simp only [modPlaten_phase]
  split
  · rw [countFor_phase, countFor_phase]
  · split
    · rw [countFor_phase, countFor_phase]
    · exact countFor_phase ..

theorem fastDrop_phase (s : State) (p : Nat) : (fastDrop s p).phase = s.phase := by
  unfold fastDrop setPower
  rw [modPlaten_phase, account_phase]

theorem meterSample_phase (s : State) (mv ma : Nat) : (meterSample s mv ma).phase = s.phase := by
  unfold meterSample
  dsimp only
  split
  · refine List.foldlRecOn (motive := fun t => t.phase = s.phase) _ _ ?_ fun t ht p _ => (fastDrop_phase t p).trans ht
    rfl
  · rfl

theorem readPwrEn_waits {s : State} (hr : inRange s.meter.millivolts = true) (hoff : s.phase = .off)
    (hw : s.pins.startWaits = true) : readPwrEn s = tryPower s := by
  simp [readPwrEn, hr, hoff, hw]

/-- The state in which the meter has read the input voltage. -/
def voltageRead (s : State) (mv : Nat) : State := { s with meter := { s.meter with millivolts := mv } }

theorem execPowerMeterSample_phase {s : State} {mv ma : Nat} (h : mv ≤ 72000) : ∃ t,
    execPowerMeterSample mv ma s = .next t ∧
      t.phase = (readPwrEn (voltageRead s mv)).phase := by
  unfold execPowerMeterSample
  rw [if_neg (Nat.not_lt.mpr h)]
  refine ⟨_, rfl, ?_⟩
  split
  · rfl
  · exact meterSample_phase ..

/-- The input comes into range: the start-up that waited begins. -/
theorem powerMeterSample_starts {s : State} (hoff : s.phase = .off) (hw : s.pins.startWaits = true) {mv ma : Nat}
    (lo : 44000 ≤ mv) (hi : mv ≤ 58000) : ∃ t, exec (.powerMeterSample mv ma) s = .next t ∧
      t.phase = if Config.freeBool s.free then .starting else .off := by
  obtain ⟨t, ht, phase⟩ := execPowerMeterSample_phase (s := s) (ma := ma) (show mv ≤ 72000 by omega)
  have starts : readPwrEn (voltageRead s mv) = tryPower (voltageRead s mv) := readPwrEn_waits (inRange_of lo hi) hoff hw
  exact ⟨t, ht, phase.trans (starts ▸ tryPower_phase (voltageRead s mv) hoff)⟩

/-! ## Loss of supply (15 R514; 18 R583; 19 R604, R608) -/

theorem cut_programming (x : Flash) : x.cut.programming = none := by
  unfold Flash.cut
  split
  · assumption
  · split <;> rfl
  · split <;> rfl

theorem cut_idle {x : Flash} (h : x.programming = none) : x.cut = x := by
  unfold Flash.cut
  rw [h]

/-- Of the banks the one being programmed is invalid and the other as it was. -/
theorem cut_lumiz {x : Flash} {b : Nat} {i : LumizImage} (h : x.programming = some (.lumiz b i)) :
    (if b = 0 then x.cut.bankA else x.cut.bankB) = none ∧
      (if b = 0 then x.cut.bankB = x.bankB else x.cut.bankA = x.bankA) := by
  unfold Flash.cut
  rw [h]
  dsimp only
  split <;> exact ⟨rfl, rfl⟩

theorem cut_config {x : Flash} {k : Nat} {c : NodeConfig} (h : x.programming = some (.config k c)) :
    (if k = 0 then x.cut.slot0 else x.cut.slot1) = none ∧
      (if k = 0 then x.cut.slot1 = x.slot1 else x.cut.slot0 = x.slot0) := by
  unfold Flash.cut
  rw [h]
  dsimp only
  split <;> exact ⟨rfl, rfl⟩

/-- What a loss of supply leaves: no die, port or image in progress survives it; `P` says which pin brought it. -/
def SupplyLost (P : State → Prop) (s t : State) : Prop :=
  t.phase = .off ∧ DiesCleared t ∧ PortsFresh s t ∧ t.pins.pwrGood = false ∧ t.flash.programming = none ∧
    (s.flash.programming = none → t.flash = s.flash) ∧
    (∀ b i, s.flash.programming = some (.lumiz b i) → (if b = 0 then t.flash.bankA else t.flash.bankB) = none ∧
      (if b = 0 then t.flash.bankB = s.flash.bankB else t.flash.bankA = s.flash.bankA)) ∧
    (∀ k i, s.flash.programming = some (.config k i) → (if k = 0 then t.flash.slot0 else t.flash.slot1) = none ∧
      (if k = 0 then t.flash.slot1 = s.flash.slot1 else t.flash.slot0 = s.flash.slot0)) ∧
    t.journal.writing = none ∧ P t

theorem supplyOff_lost (P : State → Prop) (s : State) (h : P (supplyOff s)) : SupplyLost P s (supplyOff s) :=
  ⟨rfl, clearDies_cleared s, clearDies_portsFresh s, rfl, cut_programming s.flash, cut_idle, fun _ _ => cut_lumiz,
    fun _ _ => cut_config, rfl, h⟩

/-- PWR_EN is read as de-asserted; what a failed start-up left is forgotten (19 R606). -/
def pwrEnCleared (s : State) : State :=
  { s with pins := { s.pins with pwrEn := false, startWaits := false, railsFailed := false } }

/-- The electronic fuse is open (19 R604). -/
def fuseOpened (s : State) : State := { s with pins := { s.pins with fuseOpen := true } }

theorem execPwrEnDeassert_on {s : State} (hon : s.phase ≠ .off) (hr : inRange s.meter.millivolts = true) :
    execPwrEnDeassert s = .next (supplyOff (pwrEnCleared s)) := by
  simp [execPwrEnDeassert, pwrEnCleared, hon, hr]

theorem execPwrEnDeassert_off {s : State} (hoff : s.phase = .off) : execPwrEnDeassert s = .next (pwrEnCleared s) := by
  simp [execPwrEnDeassert, pwrEnCleared, hoff]

theorem execSupplyLoss_on {s : State} (hon : s.phase ≠ .off) : execSupplyLoss s = .next (supplyOff (fuseOpened s)) :=
  if_neg hon

theorem execSupplyLoss_off {s : State} (hoff : s.phase = .off) : execSupplyLoss s = .next s := if_pos hoff

/-! ## Warm reset (18 R585) -/

/-- What completing a command may change: the ports but for their PERST_N, the formes and the harts. -/
def CompletionOnly (s t : State) : Prop :=
  t = { s with ports := t.ports, formes := t.formes, harts := t.harts } ∧
    ∀ p, (mapGet t.ports p).map (·.perstAsserted) = (mapGet s.ports p).map (·.perstAsserted)

theorem CompletionOnly.refl (s : State) : CompletionOnly s s := ⟨rfl, fun _ => rfl⟩

theorem CompletionOnly.trans {s t u : State} (h : CompletionOnly s t) (k : CompletionOnly t u) : CompletionOnly s u :=
  ⟨by rw [k.1, h.1], fun p => (k.2 p).trans (h.2 p)⟩

theorem CompletionOnly.ite {c : Prop} [Decidable c] {s a b : State} (ha : CompletionOnly s a) (hb : CompletionOnly s b) :
    CompletionOnly s (if c then a else b) := by
  split
  · exact ha
  · exact hb

theorem modPort_completion (s : State) (p : Nat) (g : Port → Port) (hg : ∀ x, (g x).perstAsserted = x.perstAsserted) :
    CompletionOnly s (modPort s p g) := ⟨rfl, map_mapMod s.ports p g (·.perstAsserted) hg⟩

theorem modForme_completion (s : State) (f : Nat) (g : Forme → Forme) : CompletionOnly s (modForme s f g) :=
  ⟨rfl, fun _ => rfl⟩

theorem modMbox_completion (s : State) (mb : MboxId) (g : Mailbox → Mailbox) : CompletionOnly s (modMbox s mb g) := by
  cases mb with
  | host p => exact modPort_completion s p _ fun _ => rfl
  | core f => exact modForme_completion s f _

theorem dropWaiters_completion (s : State) (test : Waiter → Bool) : CompletionOnly s (dropWaiters s test) :=
  ⟨rfl, fun _ => rfl⟩

theorem signal_perst (x : Port) (v : Nat) : (x.signal v).perstAsserted = x.perstAsserted := by
  unfold Port.signal
  split
  · rfl
  · split <;> rfl

theorem recordDone_perst (x : Port) (k seq st : Nat) : (x.recordDone k seq st).perstAsserted = x.perstAsserted := by
  unfold Port.recordDone
  split
  · split <;> rfl
  · rfl

/-- What a completion does to its port. -/
theorem completed_perst (x : Port) (k seq st : Nat) (irq : Bool) (v : Nat) (r : RecRec) :
    ((x.recordDone k seq st).noteUnsent k irq v r).perstAsserted = x.perstAsserted := recordDone_perst ..

theorem signalMsix_completion (s : State) (p v : Nat) : CompletionOnly s (signalMsix s p v) :=
  modPort_completion s p _ fun x => signal_perst x v

theorem signalHart_completion (s : State) (h ident : Nat) : CompletionOnly s (signalHart s h ident) := ⟨rfl, fun _ => rfl⟩

theorem noteFailed_completion (s : State) (mb : MboxId) (k : Nat) : CompletionOnly s (noteFailed s mb k) :=
  List.foldlRecOn _ _ (.refl s) fun t ht _ _ => ht.trans (.ite (.refl t) (modMbox_completion ..))

theorem completeSlot_completion (s : State) (mb : MboxId) (k : Nat) : CompletionOnly s (completeSlot s mb k) := by
  have noted : CompletionOnly s (if failed ((getMbox s mb).slotAt k).status then noteFailed s mb k else s) :=
    .ite (noteFailed_completion ..) (.refl s)
  unfold completeSlot
  dsimp only
  generalize (if failed ((getMbox s mb).slotAt k).status then noteFailed s mb k else s) = u at noted ⊢
  have done := (noted.trans (modMbox_completion u mb (fun m => m.complete u.now k))).trans
    (dropWaiters_completion _ (· == .copy mb k))
  generalize dropWaiters (modMbox u mb fun m => m.complete u.now k) (· == .copy mb k) = v at done ⊢
  cases mb with
  | host p =>
    have recorded (g : Port → Port) (hg : ∀ x, (g x).perstAsserted = x.perstAsserted) :
        CompletionOnly s (modPort v p g) := done.trans (modPort_completion v p g hg)
    exact .ite ((recorded _ fun _ => completed_perst ..).trans (signalMsix_completion ..))
      (recorded _ fun _ => completed_perst ..)
  | core f => exact .ite (done.trans (signalHart_completion ..)) done

theorem modSlot_completion (s : State) (mb : MboxId) (k : Nat) (f : Slot → Slot) : CompletionOnly s (modSlot s mb k f) :=
  modMbox_completion s mb _

theorem abortOwned_completion (s : State) (x : MboxId × Nat) : CompletionOnly s (abortOwned s x) := by
  unfold abortOwned
  dsimp only
  exact .trans (.ite (.refl s) (modSlot_completion ..)) (completeSlot_completion ..)

/-- A warm reset begins by completing what is owned, where a control core still runs Lumiz. -/
theorem abortAll_completion (s : State) (lumiz : Bool) :
    CompletionOnly s (if lumiz then (ownedSlots s).foldl abortOwned s else s) :=
  .ite (List.foldlRecOn _ _ (.refl s) fun t ht x _ => ht.trans (abortOwned_completion t x)) (.refl s)

theorem wakeStacks_awake {s : State} (h : ∀ k, (getStack s k).selfRefresh = false) : wakeStacks s = s := by
  have one (k : Nat) : wakeStack s k none = s := if_neg (by rw [h k]; exact Bool.false_ne_true)
  have all (l : List Nat) : l.foldl (fun s k => wakeStack s k none) s = s := by
    induction l with
    | nil => rfl
    | cons k l ih => rw [List.foldl_cons, one, ih]
  exact all _

/-- What a warm reset keeps, loses and puts back (18 Table 18.4). -/
def WarmFrom (u t : State) : Prop :=
  t.phase = .starting ∧ DiesCleared t ∧ PortsFresh u t ∧ t.sec.bootCount = u.sec.bootCount ∧
    t.sec.unlocked = u.sec.unlocked ∧ t.config = u.config ∧ t.moduleCap = u.moduleCap ∧ t.now = u.now ∧
    t.mem = u.mem ∧ t.flash = u.flash ∧ t.lanes = u.lanes ∧ t.mesh.ports = u.mesh.ports ∧ t.mesh.regState = u.mesh.regState ∧ t.mesh.jobs = [] ∧
    t.sb.queue = [] ∧ t.sb.mark = u.sb.mark ∧ t.absentRing = u.absentRing

theorem idleHostPorts_perst (s : State) (p : Nat) :
    (mapGet (idleHostPorts s).ports p).map (·.perstAsserted) = (mapGet s.ports p).map (·.perstAsserted) := by
  have h : mapGet (idleHostPorts s).ports p = (mapGet s.ports p).map Port.idle := mapGet_map s.ports (fun _ => Port.idle) p
  rw [h]
  cases mapGet s.ports p <;> rfl

theorem warmReset_from {s : State} (lumiz : Bool) (h : ∀ k, (getStack s k).selfRefresh = false) :
    WarmFrom s (warmReset s lumiz) := by
  obtain ⟨frame, perst⟩ := abortAll_completion s lumiz
  unfold warmReset
  dsimp only
  generalize (if lumiz then (ownedSlots s).foldl abortOwned s else s) = u at frame perst ⊢
  have awake : wakeStacks u = u := wakeStacks_awake fun k => by rw [frame]; exact h k
  rw [awake]
  have ports : PortsFresh s (clearDies (idleHostPorts u)) :=
    (clearDies_portsFresh (idleHostPorts u)).of_perst fun p => (idleHostPorts_perst u p).trans (perst p)
  refine ⟨rfl, clearDies_cleared (idleHostPorts u), ports, ?_⟩
  rw [frame]
  exact ⟨rfl, rfl, rfl, rfl, rfl, rfl, rfl, rfl, rfl, rfl, rfl, rfl, rfl, rfl⟩

theorem moduleReset_running {s : State} (h : s.phase = .running) (lumiz : Bool) :
    moduleReset s 2 lumiz = warmReset s lumiz := if_pos ⟨rfl, h⟩

/-- A warm reset before start-up is complete is performed as cold (18 Table 18.10). -/
theorem moduleReset_notRunning {s : State} (h : s.phase ≠ .running) (lumiz : Bool) :
    moduleReset s 2 lumiz = coldReset s := if_neg fun hc => h hc.2

/-! ## The end of start-up (18 R580; 15 R528, Table 15.7) -/

/-- What training the Gutter and the journal's entries may change: the journal and what its entries touch, the lane groups
and free draws. -/
def TrainOnly (s t : State) : Prop :=
  t = { s with free := t.free, lanes := t.lanes, journal := t.journal, sb := t.sb, poison := t.poison, errors := t.errors,
               waking := t.waking, flash := t.flash }

theorem TrainOnly.refl (s : State) : TrainOnly s s := rfl

theorem TrainOnly.trans {s t u : State} (h : TrainOnly s t) (k : TrainOnly t u) : TrainOnly s u := by
  unfold TrainOnly at *; rw [k, h]

theorem JournalOnly.trainOnly {s t : State} (h : JournalOnly s t) : TrainOnly s t := by
  unfold JournalOnly at h
  unfold TrainOnly
  rw [h]

theorem TrainOnly.stackTab {s t : State} (h : TrainOnly s t) : t.stackTab = s.stackTab := by rw [h]

theorem TrainOnly.phase {s t : State} (h : TrainOnly s t) : t.phase = s.phase := by rw [h]

theorem TrainOnly.getStack {s t : State} (h : TrainOnly s t) (k : Nat) : getStack t k = getStack s k := by
  unfold Machine.getStack
  rw [h.stackTab]

theorem JournalOnly.config {s t : State} (h : JournalOnly s t) : t.config = s.config := by rw [h]

theorem JournalOnly.sec {s t : State} (h : JournalOnly s t) : t.sec = s.sec := by rw [h]

theorem JournalOnly.mem {s t : State} (h : JournalOnly s t) : t.mem = s.mem := by rw [h]

theorem JournalOnly.formes {s t : State} (h : JournalOnly s t) : t.formes = s.formes := by rw [h]

theorem JournalOnly.refl (s : State) : JournalOnly s s := rfl

theorem resumeWaiting_only (s : State) : JournalOnly s (resumeWaiting s) :=
  .trans (t := { s with journal := { s.journal with heldInIdle := 0, waiting := [] } }) rfl
    (List.foldlRecOn _ _ (.refl _) fun t ht e _ => ht.trans (journalWrite_frame t e))

theorem coldEntry_only (s : State) : TrainOnly s (coldEntry s) :=
  .trans (t := s.drawn) rfl (journalWrite_frame _ _).trainOnly

theorem laneSwapped_only (s : State) (k : Nat) : TrainOnly s (laneSwapped s k) :=
  (TrainOnly.trans (t := s.drawn.drawn) rfl (journalWrite_frame _ _).trainOnly).trans rfl

/-! ### Lane groups -/

theorem trainLanes_swaps {s : State} (h : ∀ kv ∈ s.lanes, kv.2.failed < 2) :
    trainLanes s = (s.lanes.map (·.1)).foldl laneSwapped s := by
  have none : s.lanes.find? (fun kv => 2 ≤ kv.2.failed) = none :=
    List.find?_eq_none.mpr fun kv hkv => by simpa using h kv hkv
  unfold trainLanes
  rw [none]

theorem trainLanes_retires {s : State} (h : ∃ kv ∈ s.lanes, 2 ≤ kv.2.failed) :
    ∃ kv ∈ s.lanes, trainLanes s = retire s { code := 6, unit := 0x20 + kv.1 / 32, detail := 0 } := by
  obtain ⟨kv, hkv⟩ : ∃ kv, s.lanes.find? (fun kv => 2 ≤ kv.2.failed) = some kv :=
    Option.isSome_iff_exists.mp (List.find?_isSome.mpr (by simpa using h))
  refine ⟨kv, List.mem_of_find?_eq_some hkv, ?_⟩
  unfold trainLanes
  rw [hkv]

/-- A lane group that runs on its spare. -/
def LaneGroup.swapped (g : LaneGroup) : LaneGroup := { g with spareUsed := true, swapping := false }

theorem laneSwapped_lanes (s : State) (k : Nat) : (laneSwapped s k).lanes = mapMod s.lanes k LaneGroup.swapped := by
  unfold laneSwapped
  dsimp only
  rw [journalWrite_frame]
  rfl

theorem foldl_laneSwapped_lanes (l : List Nat) (s : State) (k : Nat) :
    mapGet (l.foldl laneSwapped s).lanes k =
      if k ∈ l then (mapGet s.lanes k).map LaneGroup.swapped else mapGet s.lanes k := by
  have twice : (LaneGroup.swapped ∘ LaneGroup.swapped) = LaneGroup.swapped := rfl
  induction l generalizing s with
  | nil => rfl
  | cons a l ih =>
    rw [List.foldl_cons, ih, laneSwapped_lanes, mapGet_mapMod]
    by_cases ha : k = a
    · subst ha
      by_cases hl : k ∈ l <;> simp [hl, twice]
    · by_cases hl : k ∈ l <;> simp [ha, hl]

/-- After training every lane group there is runs on its spare. -/
theorem trainLanes_spareUsed {s : State} (h : ∀ kv ∈ s.lanes, kv.2.failed < 2) (k : Nat) (g : LaneGroup)
    (hg : mapGet (trainLanes s).lanes k = some g) : g.spareUsed = true := by
  rw [trainLanes_swaps h, foldl_laneSwapped_lanes] at hg
  by_cases hk : k ∈ s.lanes.map (·.1)
  · rw [if_pos hk] at hg
    obtain ⟨x, -, rfl⟩ := Option.map_eq_some_iff.mp hg
    rfl
  · rw [if_neg hk] at hg
    exact absurd (List.mem_map_of_mem (f := (·.1)) (mem_of_mapGet s.lanes k g hg)) hk

theorem trainLanes_only {s : State} (h : ∀ kv ∈ s.lanes, kv.2.failed < 2) : TrainOnly s (trainLanes s) := by
  rw [trainLanes_swaps h]
  exact List.foldlRecOn _ _ (.refl s) fun t ht k _ => ht.trans (laneSwapped_only t k)

/-! ### The journal: what is written after the BOOT entry -/

/-- The BOOT entry is written and the flash is as it was then. -/
def Booted (fl : Flash) (s : State) : Prop := s.journal.bootDue = false ∧ s.flash = fl

/-- One of the newest `n` entries is the BOOT entry that names checkpoint `k`. -/
def BootAmong (k n : Nat) (s : State) : Prop :=
  ∃ e ∈ s.journal.entries.take n, e.objKind = 0x10 ∧ e.objId = k ∧ e.origin = 5

theorem journalPut_bootDue (s : State) (e : JEntry) : (journalPut s e).journal.bootDue = s.journal.bootDue := by
  unfold journalPut
  exact noticed (P := fun v => v.journal.bootDue = s.journal.bootDue) _ rfl (fun _ => rfl)

theorem journalPut_booted {fl : Flash} {s : State} (e : JEntry) (h : Booted fl s) : Booted fl (journalPut s e) :=
  ⟨(journalPut_bootDue s e).trans h.1, by rw [journalPut_frame]; exact h.2⟩

theorem bootEntry_booted {fl : Flash} {s : State} (h : Booted fl s) : bootEntry s = s := by
  unfold bootEntry
  rw [h.1]
  rfl

theorem gapEntry_booted {fl : Flash} {s : State} (h : Booted fl s) : Booted fl (gapEntry s) := by
  unfold gapEntry
  split
  · exact h
  · exact journalPut_booted _ (s := { s with journal := { s.journal with lost := 0 } }) h

theorem journalPlace_booted {fl : Flash} {s : State} (e : JEntry) (h : Booted fl s) : Booted fl (journalPlace s e) := by
  unfold journalPlace
  split
  · exact h
  · split
    · exact h
    · exact journalPut_booted e h

theorem journalWrite_booted {fl : Flash} {s : State} (e : JEntry) (h : Booted fl s) : Booted fl (journalWrite s e) := by
  unfold journalWrite
  rw [bootEntry_booted h]
  exact journalPlace_booted e (gapEntry_booted h)

/-- The flash once the journal has begun with a BOOT entry that was due (15 R528). -/
def begunFlash (s : State) : Flash := { s.flash with journalBegun := s.flash.journalBegun || s.journal.bootDue }

theorem bootEntry_boots (s : State) : Booted (begunFlash s) (bootEntry s) := by
  unfold bootEntry begunFlash
  cases h : s.journal.bootDue with
  | false => exact ⟨h, by rw [Bool.or_false]; rfl⟩
  | true =>
    refine ⟨rfl, ?_⟩
    rw [Bool.or_true, if_pos rfl, journalPut_frame]

theorem BootAmong.mono {k n m : Nat} {s : State} (h : BootAmong k n s) (hnm : n ≤ m) : BootAmong k m s := by
  obtain ⟨e, he, boot⟩ := h
  exact ⟨e, List.take_subset_take_left _ hnm he, boot⟩

theorem journalPut_bootAmong {k n : Nat} {s : State} (e : JEntry) (h : BootAmong k n s) (hn : n + 1 ≤ journalRing) :
    BootAmong k (n + 1) (journalPut s e) := by
  obtain ⟨b, hb, boot⟩ := h
  refine ⟨b, ?_, boot⟩
  rw [journalPut_entries, List.take_take, Nat.min_eq_left hn, List.take_succ_cons]
  exact List.mem_cons_of_mem _ hb

theorem gapEntry_bootAmong {k n : Nat} {s : State} (h : BootAmong k n s) (hn : n + 1 ≤ journalRing) :
    BootAmong k (n + 1) (gapEntry s) := by
  unfold gapEntry
  split
  · exact h.mono (Nat.le_succ n)
  · exact journalPut_bootAmong _ (s := { s with journal := { s.journal with lost := 0 } }) h hn

theorem journalPlace_bootAmong {k n : Nat} {s : State} (e : JEntry) (h : BootAmong k n s) (hn : n + 1 ≤ journalRing) :
    BootAmong k (n + 1) (journalPlace s e) := by
  unfold journalPlace
  split
  · exact h.mono (Nat.le_succ n)
  · split
    · exact h.mono (Nat.le_succ n)
    · exact journalPut_bootAmong e h hn

/-- An entry after the BOOT entry comes with a GAP entry at most. -/
theorem journalWrite_bootAmong {fl : Flash} {k n : Nat} {s : State} (e : JEntry) (b : Booted fl s) (h : BootAmong k n s)
    (hn : n + 2 ≤ journalRing) : BootAmong k (n + 2) (journalWrite s e) := by
  unfold journalWrite
  rw [bootEntry_booted b]
  exact journalPlace_bootAmong e (gapEntry_bootAmong h (by omega)) hn

theorem journalPut_newest (s : State) (e : JEntry) : (journalPut s e).journal.entries.take 1 =
    [{ e with number := s.journal.next, time := s.now, prev := s.journal.chain % 2 ^ 64 }] := by
  rw [journalPut_entries, List.take_take, Nat.min_eq_left (show 1 ≤ journalRing by decide)]
  rfl

theorem bootEntry_bootAmong {s : State} (h : s.journal.bootDue = true) : BootAmong s.flash.checkpoint 1 (bootEntry s) := by
  have newest := journalPut_newest { s with flash := { s.flash with journalBegun := true } }
    (jEntry JOrigin.firmware 0x10 s.flash.checkpoint 4 0 0)
  unfold bootEntry
  rw [if_pos h]
  exact ⟨_, newest ▸ List.mem_singleton_self _, rfl, rfl, rfl⟩

theorem laneSwapped_booted {fl : Flash} {s : State} (k : Nat) (h : Booted fl s) : Booted fl (laneSwapped s k) :=
  journalWrite_booted (s := s.drawn.drawn) _ h

theorem foldl_laneSwapped_bootAmong {fl : Flash} {k n : Nat} (l : List Nat) {s : State} (b : Booted fl s)
    (h : BootAmong k n s) (hn : n + 2 * l.length ≤ journalRing) :
    BootAmong k (n + 2 * l.length) (l.foldl laneSwapped s) := by
  induction l generalizing s n with
  | nil => exact h
  | cons a l ih =>
    rw [List.length_cons] at hn ⊢
    have first : BootAmong k (n + 2) (laneSwapped s a) :=
      journalWrite_bootAmong (s := s.drawn.drawn) _ b h (by omega)
    have rest := ih (laneSwapped_booted a b) first (by omega)
    exact rest.mono (by omega)

theorem coldEntry_booted {fl : Flash} {s : State} (h : Booted fl s) : Booted fl (coldEntry s) :=
  journalWrite_booted (s := s.drawn) _ h

theorem coldEntry_bootAmong {fl : Flash} {k n : Nat} {s : State} (b : Booted fl s) (h : BootAmong k n s)
    (hn : n + 2 ≤ journalRing) : BootAmong k (n + 2) (coldEntry s) :=
  journalWrite_bootAmong (s := s.drawn) _ b h hn

/-! ### Stacks -/

/-- No request waits at a pseudo-channel. -/
def NoneWait (s : State) : Prop := ∀ kv ∈ s.stackTab, kv.2.pchs = []

def Stack.awake (x : Stack) : Stack := { x with selfRefresh := false }

theorem getStack_noneWait {s : State} (h : NoneWait s) (k : Nat) : (getStack s k).pchs = [] := by
  unfold getStack mapGetD
  cases hx : mapGet s.stackTab k with
  | none => rfl
  | some x => exact h _ (mem_of_mapGet _ _ _ hx)

theorem modStack_noneWait {s : State} (h : NoneWait s) (k : Nat) {f : Stack → Stack} (hf : ∀ x, (f x).pchs = x.pchs) :
    NoneWait (modStack s k f) := by
  intro kv hkv
  rw [modStack, mapMod] at hkv
  cases hx : mapGet s.stackTab k with
  | none => rw [hx] at hkv; exact h kv hkv
  | some x =>
    rw [hx] at hkv
    rcases mem_mapSet _ _ _ _ hkv with hkv | rfl
    · exact h kv hkv
    · exact (hf x).trans (h _ (mem_of_mapGet _ _ _ hx))

/-- A stack at which nothing waits wakes alone. -/
theorem wakeStack_noneWait {s : State} (h : NoneWait s) (k : Nat) :
    wakeStack s k none = if (getStack s k).selfRefresh then modStack s k Stack.awake else s := by
  have idle : waitingPchs (modStack s k Stack.awake) k none = [] := by
    rw [waitingPchs, getStack_noneWait (modStack_noneWait (f := Stack.awake) h k fun _ => rfl) k]
    rfl
  unfold wakeStack
  split
  · exact congrArg (List.foldl (serveFree k) (modStack s k Stack.awake)) idle
  · rfl

theorem getStack_awake (s : State) (k j : Nat) :
    getStack (modStack s k Stack.awake) j = if j = k then (getStack s k).awake else getStack s j := by
  split
  · rename_i e
    subst e
    cases hx : mapGet s.stackTab j with
    | none => simp [getStack, modStack, mapGetD, hx]; rfl
    | some x => rw [getStack_modStack_self _ _ _ x hx, getStack, mapGetD, hx]; rfl
  · rename_i e
    exact getStack_modStack_ne s Stack.awake e

/-- Only the stacks differ. -/
def OnlyStacks (s t : State) : Prop := t = { s with stackTab := t.stackTab }

theorem OnlyStacks.trans {s t u : State} (h : OnlyStacks s t) (k : OnlyStacks t u) : OnlyStacks s u := by
  unfold OnlyStacks at *; rw [k, h]

theorem OnlyStacks.booted {fl : Flash} {s t : State} (h : OnlyStacks s t) (b : Booted fl s) : Booted fl t := by
  rw [h]
  exact b

theorem OnlyStacks.bootAmong {k n : Nat} {s t : State} (h : OnlyStacks s t) (b : BootAmong k n s) : BootAmong k n t := by
  rw [h]
  exact b

/-- What a wake of stacks at which nothing waits leaves: the stacks named are awake, and those that were. -/
structure Wakes (l : List Nat) (s t : State) : Prop where
  only : OnlyStacks s t
  noneWait : NoneWait t
  awake : ∀ k, (k ∈ l ∨ (getStack s k).selfRefresh = false) → (getStack t k).selfRefresh = false

theorem wakeStack_wakes {s : State} (h : NoneWait s) (k : Nat) : Wakes [k] s (wakeStack s k none) := by
  rw [wakeStack_noneWait h]
  split
  · refine ⟨rfl, modStack_noneWait h k fun _ => rfl, fun j hj => ?_⟩
    rw [getStack_awake]
    split
    · rfl
    · rename_i ne
      exact hj.resolve_left fun m => ne (List.mem_singleton.mp m)
  · rename_i awake
    refine ⟨rfl, h, fun j hj => hj.elim (fun m => ?_) id⟩
    rw [List.mem_singleton.mp m]
    exact Bool.eq_false_iff.mpr awake

theorem foldl_wakeStack_wakes (l : List Nat) {s : State} (h : NoneWait s) :
    Wakes l s (l.foldl (fun s k => wakeStack s k none) s) := by
  induction l generalizing s with
  | nil => exact ⟨rfl, h, fun k hk => hk.resolve_left (List.not_mem_nil)⟩
  | cons a l ih =>
    have first := wakeStack_wakes h a
    have rest := ih first.noneWait
    refine ⟨first.only.trans rest.only, rest.noneWait, fun k hk => rest.awake k ?_⟩
    rcases hk with hk | hk
    · rcases List.mem_cons.mp hk with rfl | hk
      · exact .inr (first.awake k (.inl List.mem_cons_self))
      · exact .inl hk
    · exact .inr (first.awake k (.inr hk))

theorem wakeStacks_wakes {s : State} (h : NoneWait s) : Wakes (List.range 12) s (wakeStacks s) :=
  foldl_wakeStack_wakes _ h

/-! ### The configuration takes effect -/

theorem getStack_modStack_keeps {β : Type} (s : State) (k j : Nat) (f : Stack → Stack) (g : Stack → β)
    (hg : ∀ x, g (f x) = g x) : g (getStack (modStack s k f) j) = g (getStack s j) := by
  have h : (mapGet (mapMod s.stackTab k f) j).map g = (mapGet s.stackTab j).map g := map_mapMod s.stackTab k f g hg j
  unfold getStack mapGetD modStack
  rw [← Option.getD_map g, h, Option.getD_map]

theorem getStack_of_mapGet {s : State} {k : Nat} {x : Stack} (h : mapGet s.stackTab k = some x) : getStack s k = x := by
  rw [getStack, mapGetD, h]
  rfl

/-- Of the stacks only what leaves self-refresh alone differs, and the mesh. -/
structure ConfigOnly (s t : State) : Prop where
  only : t = { s with stackTab := t.stackTab, mesh := t.mesh }
  selfRefresh : ∀ k, (getStack t k).selfRefresh = (getStack s k).selfRefresh

theorem ConfigOnly.refl (s : State) : ConfigOnly s s := ⟨rfl, fun _ => rfl⟩

theorem ConfigOnly.trans {s t u : State} (h : ConfigOnly s t) (k : ConfigOnly t u) : ConfigOnly s u :=
  ⟨by rw [k.only, h.only], fun j => (k.selfRefresh j).trans (h.selfRefresh j)⟩

theorem softRepair_config (s : State) (x : Nat × RowId) : ConfigOnly s (softRepair s x) := by
  unfold softRepair
  split
  · exact ⟨rfl, fun k => getStack_modStack_keeps s x.1 k _ (·.selfRefresh) fun _ => rfl⟩
  · exact .refl s

theorem openMeshPort_config (s : State) (p : Nat) : ConfigOnly s (openMeshPort s p) := by
  unfold openMeshPort
  split <;> exact ⟨rfl, fun _ => rfl⟩

/-- The module's cap and the division of the Gutter are those of the configuration. -/
def capsTaken (s : State) : State :=
  { s with moduleCap := s.config.moduleCap, applPp := s.config.gutPp, applCp := s.config.gutCp }

theorem takeConfig_config (s : State) : ConfigOnly (capsTaken s) (takeConfig s) := by
  have repaired : ConfigOnly (capsTaken s) (s.config.repairs.foldl softRepair (capsTaken s)) :=
    List.foldlRecOn _ _ (.refl _) fun t ht x _ => ht.trans (softRepair_config t x)
  unfold takeConfig
  dsimp only
  split
  · exact List.foldlRecOn _ _ repaired fun t ht p _ => ht.trans (openMeshPort_config t p)
  · exact repaired

theorem takeConfig_selfRefresh (s : State) (x : Sec) (k : Nat) :
    (getStack (takeConfig { s with sec := x }) k).selfRefresh = (getStack s k).selfRefresh :=
  (takeConfig_config _).selfRefresh k

theorem announceNow_phase {s : State} : (announceNow s).phase = s.phase := by
  unfold announceNow withRecord
  split
  · split <;> rfl
  · rfl

theorem announceNow_eq {s : State} (h : s.phase ≠ .retired) : announceNow s =
    pushNotice s { type := 3, func := 0x10, status := 0, reqSeq := 0, body := announceBody s } := by
  unfold announceNow withRecord
  split
  · exact if_neg h
  · rfl

/-! ### The state when the start-up of an image is over -/

/-- The journal has resumed and the Gutter is trained. -/
def gutterTrained (s : State) : State := trainLanes (resumeWaiting (bootEntry s))

/-- The stacks are awake, and the entry of the cold reset is written. -/
def coldEntered (s : State) : State := coldEntry (wakeStacks (gutterTrained s))

theorem resumed_only (s : State) : JournalOnly s (resumeWaiting (bootEntry s)) :=
  (bootEntry_only s).trans (resumeWaiting_only _)

theorem resumeWaiting_booted {fl : Flash} {s : State} (h : Booted fl s) : Booted fl (resumeWaiting s) :=
  List.foldlRecOn (motive := Booted fl) s.journal.waiting journalWrite h fun _ ht e _ => journalWrite_booted e ht

theorem journalPut_waiting (s : State) (e : JEntry) : (journalPut s e).journal.waiting = s.journal.waiting := by
  unfold journalPut
  exact noticed (P := fun v => v.journal.waiting = s.journal.waiting) _ rfl (fun _ => rfl)

theorem bootEntry_waiting (s : State) : (bootEntry s).journal.waiting = s.journal.waiting := by
  unfold bootEntry
  split
  · exact journalPut_waiting ..
  · rfl

/-- Where no entry waits none is written. -/
theorem resumeWaiting_entries {s : State} (h : s.journal.waiting = []) :
    (resumeWaiting s).journal.entries = s.journal.entries := by
  unfold resumeWaiting journalFlush
  rw [h]
  rfl

section
variable {s : State} (hlanes : ∀ kv ∈ s.lanes, kv.2.failed < 2)
include hlanes

theorem resumed_lanes : ∀ kv ∈ (resumeWaiting (bootEntry s)).lanes, kv.2.failed < 2 := by
  rw [resumed_only]
  exact hlanes

theorem gutterTrained_only : TrainOnly s (gutterTrained s) :=
  (resumed_only s).trainOnly.trans (trainLanes_only (resumed_lanes hlanes))

theorem gutterTrained_booted : Booted (begunFlash s) (gutterTrained s) := by
  unfold gutterTrained
  rw [trainLanes_swaps (resumed_lanes hlanes)]
  exact List.foldlRecOn _ _ (resumeWaiting_booted (bootEntry_boots s)) fun _ ht k _ => laneSwapped_booted k ht

/-- Each lane group that is swapped puts two entries before the BOOT entry at most. -/
theorem gutterTrained_bootAmong (due : s.journal.bootDue = true) (wait : s.journal.waiting = [])
    (room : 1 + 2 * s.lanes.length ≤ journalRing) :
    BootAmong s.flash.checkpoint (1 + 2 * s.lanes.length) (gutterTrained s) := by
  have first : BootAmong s.flash.checkpoint 1 (resumeWaiting (bootEntry s)) := by
    unfold BootAmong
    rw [resumeWaiting_entries ((bootEntry_waiting s).trans wait)]
    exact bootEntry_bootAmong due
  have count : ((resumeWaiting (bootEntry s)).lanes.map (·.1)).length = s.lanes.length := by
    rw [List.length_map, resumed_only]
  unfold gutterTrained
  rw [trainLanes_swaps (resumed_lanes hlanes), ← count]
  exact foldl_laneSwapped_bootAmong _ (resumeWaiting_booted (bootEntry_boots s)) first (by rw [count]; exact room)

theorem gutterTrained_noneWait (hstacks : NoneWait s) : NoneWait (gutterTrained s) := fun kv hkv =>
  hstacks kv ((gutterTrained_only hlanes).stackTab ▸ hkv)

theorem gutterTrained_powered (hphase : s.phase = .starting) : (gutterTrained s).powered = true := by
  unfold State.powered
  rw [(gutterTrained_only hlanes).phase, hphase]
  rfl

end

theorem coldEntry_lanes (s : State) : (coldEntry s).lanes = s.lanes := by
  unfold coldEntry
  rw [journalWrite_frame]
  rfl

/-- The configuration is in effect. -/
def configTaken (s : State) : State :=
  takeConfig { coldEntered s with sec := { (gutterTrained s).sec with coldStart := false } }

/-- The node runs, and the floor of the fuses is raised to the image's. -/
def startedUp (s : State) (i : LumizImage) : State :=
  { configTaken s with phase := .running, sec := { (configTaken s).sec with floor := max (configTaken s).sec.floor i.floor } }

theorem startCold_runs {s : State} (i : LumizImage) (h : (gutterTrained s).powered = true) :
    startCold s i = announceNow (startedUp s i) := by
  unfold startCold
  unfold startedUp configTaken coldEntered gutterTrained at *
  exact if_pos h

/-- The entry of the cold reset leaves what waking the stacks leaves, and the configuration what the entry leaves. -/
theorem configTaken_of {s v w e c : State} (hv : TrainOnly s v) (hw : OnlyStacks v w) (he : TrainOnly w e)
    (hc : c = { capsTaken { e with sec := { v.sec with coldStart := false } } with stackTab := c.stackTab, mesh := c.mesh }) :
    c = { s with
      sec := { s.sec with coldStart := false }
      moduleCap := s.config.moduleCap, applPp := s.config.gutPp, applCp := s.config.gutCp
      free := e.free, lanes := e.lanes, journal := e.journal, sb := e.sb, poison := e.poison, errors := e.errors
      waking := e.waking, flash := e.flash, stackTab := c.stackTab, mesh := c.mesh } := by
  rw [hc, he, hw, hv]
  rfl

section
variable {s : State} (hlanes : ∀ kv ∈ s.lanes, kv.2.failed < 2) (hstacks : NoneWait s)
include hlanes hstacks

theorem woken_wakes : Wakes (List.range 12) (gutterTrained s) (wakeStacks (gutterTrained s)) :=
  wakeStacks_wakes (gutterTrained_noneWait hlanes hstacks)

theorem coldEntered_booted : Booted (begunFlash s) (coldEntered s) := by
  unfold coldEntered
  exact coldEntry_booted ((woken_wakes hlanes hstacks).only.booted (gutterTrained_booted hlanes))

theorem coldEntered_bootAmong (due : s.journal.bootDue = true) (few : s.lanes.length ≤ 1000) (wait : s.journal.waiting = []) :
    BootAmong s.flash.checkpoint (1 + 2 * s.lanes.length + 2) (coldEntered s) := by
  have wakes := woken_wakes hlanes hstacks
  have booted := gutterTrained_booted hlanes
  have room : 1 + 2 * s.lanes.length + 2 ≤ journalRing := by unfold journalRing; omega
  have among := gutterTrained_bootAmong hlanes due wait (by omega)
  unfold coldEntered
  exact coldEntry_bootAmong (wakes.only.booted booted) (wakes.only.bootAmong among) room

/-- Of the state before the start-up a running node keeps all that no step of the start-up names. -/
theorem configTaken_frame : configTaken s = { s with
    sec := { s.sec with coldStart := false }
    moduleCap := s.config.moduleCap, applPp := s.config.gutPp, applCp := s.config.gutCp
    free := (coldEntered s).free, lanes := (coldEntered s).lanes
    journal := (coldEntered s).journal, sb := (coldEntered s).sb
    poison := (coldEntered s).poison, errors := (coldEntered s).errors
    waking := (coldEntered s).waking, flash := (coldEntered s).flash
    stackTab := (configTaken s).stackTab, mesh := (configTaken s).mesh } :=
  configTaken_of (gutterTrained_only hlanes) (woken_wakes hlanes hstacks).only (coldEntry_only _) (takeConfig_config _).only

theorem startedUp_keeps (i : LumizImage) : let t := startedUp s i
    t.phase = .running ∧ t.sec.floor = max s.sec.floor i.floor ∧ t.formes = s.formes ∧ t.mem = s.mem ∧
      t.config = s.config ∧ t.moduleCap = s.config.moduleCap ∧ t.applPp = s.config.gutPp ∧ t.applCp = s.config.gutCp ∧
      t.sec.image = s.sec.image ∧ t.sec.configSlot = s.sec.configSlot := by
  unfold startedUp
  rw [configTaken_frame hlanes hstacks]
  exact ⟨rfl, rfl, rfl, rfl, rfl, rfl, rfl, rfl, rfl, rfl⟩

theorem startedUp_entered (i : LumizImage) : let t := startedUp s i
    t.flash = (coldEntered s).flash ∧ t.journal = (coldEntered s).journal ∧ t.lanes = (coldEntered s).lanes := by
  unfold startedUp
  dsimp only
  refine ⟨?_, ?_, ?_⟩ <;> rw [configTaken_frame hlanes hstacks]

theorem startedUp_flash (i : LumizImage) : (startedUp s i).flash = begunFlash s :=
  (startedUp_entered hlanes hstacks i).1.trans (coldEntered_booted hlanes hstacks).2

theorem startedUp_boots (i : LumizImage) (due : s.journal.bootDue = true) (few : s.lanes.length ≤ 1000)
    (wait : s.journal.waiting = []) :
    ∃ e ∈ (startedUp s i).journal.entries, e.objKind = 0x10 ∧ e.objId = s.flash.checkpoint ∧ e.origin = 5 := by
  obtain ⟨-, journal, -⟩ := startedUp_entered hlanes hstacks i
  obtain ⟨e, he, boot⟩ := coldEntered_bootAmong hlanes hstacks due few wait
  rw [journal]
  exact ⟨e, List.mem_of_mem_take he, boot⟩

theorem startedUp_lanes (i : LumizImage) (k : Nat) (g : LaneGroup) (hg : mapGet (startedUp s i).lanes k = some g) :
    g.spareUsed = true := by
  obtain ⟨-, -, lanes⟩ := startedUp_entered hlanes hstacks i
  have woken : (wakeStacks (gutterTrained s)).lanes = (gutterTrained s).lanes := by rw [(woken_wakes hlanes hstacks).only]
  rw [lanes, coldEntered, coldEntry_lanes, woken] at hg
  exact trainLanes_spareUsed (resumed_lanes hlanes) k g hg

theorem configTaken_awake (k : Nat) (hk : k < 12) : (getStack (configTaken s) k).selfRefresh = false := by
  unfold configTaken
  rw [takeConfig_selfRefresh, coldEntered, (coldEntry_only _).getStack k]
  exact (woken_wakes hlanes hstacks).awake k (.inl (List.mem_range.mpr hk))

theorem startedUp_awake (i : LumizImage) (k : Nat) (x : Stack) (hk : k < 12)
    (hx : mapGet (startedUp s i).stackTab k = some x) : x.selfRefresh = false := by
  unfold startedUp at hx
  dsimp only at hx
  rw [← getStack_of_mapGet hx]
  exact configTaken_awake hlanes hstacks k hk

end

/-- A node that has lost power in training goes no further. -/
theorem startCold_stops {s : State} (i : LumizImage) (h : (gutterTrained s).powered = false) :
    startCold s i = gutterTrained s := by
  unfold startCold gutterTrained at *
  exact if_neg (Bool.eq_false_iff.mp h)

theorem retire_retirement (s : State) (c : RetireCause) (h : s.powered = true) :
    (retire s c).sec.retirement = some (s.now, c) := by
  have entry (u : State) : (coldEntry u).sec = u.sec := by
    unfold coldEntry
    rw [journalWrite_frame]
    rfl
  unfold retire
  rw [if_pos h]
  dsimp only [powerOffStacks, powerOffDies, alert, pushNotice]
  rw [journalWrite_frame]
  dsimp only
  split
  · rw [entry]; rfl
  · rfl

/-- A lane group with two failed lanes ends the start-up (01 R39, 18 Table 18.2). -/
theorem startCold_retires {s : State} (i : LumizImage) (hphase : s.phase = .starting)
    (hlanes : ∃ kv ∈ s.lanes, 2 ≤ kv.2.failed) : ∃ r, (startCold s i).phase = .retired ∧
      (startCold s i).sec.retirement = some r ∧ r.2.code = 6 := by
  have only := resumed_only s
  have powered : (resumeWaiting (bootEntry s)).powered = true := by rw [only]; simp [State.powered, hphase]
  obtain ⟨kv, -, retired⟩ := trainLanes_retires (s := resumeWaiting (bootEntry s)) (by rw [only]; exact hlanes)
  have phase : (gutterTrained s).phase = .retired := by unfold gutterTrained; rw [retired, retire_phase _ _ powered]
  rw [startCold_stops i (by simp [State.powered, phase])]
  have record : (gutterTrained s).sec.retirement =
      some ((resumeWaiting (bootEntry s)).now, { code := 6, unit := 0x20 + kv.1 / 32, detail := 0 }) := by
    unfold gutterTrained
    rw [retired, retire_retirement _ _ powered]
  exact ⟨_, phase, record, rfl⟩

theorem execStartupComplete_warm {s : State} (hphase : s.phase = .starting) (hwarm : s.sec.coldStart = false) :
    execStartupComplete s = .next { resumeWaiting s with phase := .running } := by
  simp [execStartupComplete, hphase, hwarm]

theorem execStartupComplete_noImage {s : State} (hphase : s.phase = .starting) (hcold : s.sec.coldStart = true)
    (himage : s.sec.image = none) :
    execStartupComplete s = .next (announceNow { coldEntry s with phase := .watchOnly }) := by
  simp [execStartupComplete, hphase, hcold, himage]

theorem execStartupComplete_image {s : State} {i : LumizImage} (hphase : s.phase = .starting)
    (hcold : s.sec.coldStart = true) (himage : s.sec.image = some i) :
    execStartupComplete s = .next (startCold s i) := by
  simp [execStartupComplete, hphase, hcold, himage]

/-- A node that is not retired announces itself. -/
theorem announceNow_announces {s : State} (h : s.phase ≠ .retired) :
    ∃ o ∈ (announceNow s).sb.out, o.type = 3 ∧ o.func = 0x10 := by
  rw [announceNow_eq h]
  exact ⟨_, List.mem_append_right _ List.mem_cons_self, rfl, rfl⟩

/-! ## What power-on, resets and a loss of supply leave -/

/-- Settles O51: the resets by what clears the dies and what boot verification puts in force, the end of start-up by what each
of its steps may change. The model's own choices among what is stated are in notes/assumptions/95.md (self-refresh until step 7,
the open fuse that POWER_ON replaces, the images taken at the cold reset, whether a rail fails), 116.md (the lanes found at
training) and 101.md (the output lists that are kept). -/
theorem resetsAndSupplyLeaveTheTabledState : Obligations.ResetsAndSupplyLeaveTheTabledState := by
  unfold Obligations.ResetsAndSupplyLeaveTheTabledState
  intro gone portsFresh
  refine ⟨fun s => ?cold, fun s lumiz hrun hawake => ?warm, fun s lumiz h => moduleReset_notRunning h lumiz, fun s => ?power,
    fun s hphase => ?startup, fun s hon => ?loss, fun s hoff => ⟨?offLoss, ?offDeassert⟩⟩
  case cold =>
    obtain ⟨boots, unlocked, keys, retirement⟩ := coldReset_security s
    obtain ⟨now, mem, journal, flash⟩ := coldReset_keeps s
    obtain ⟨gut, mesh, absent⟩ := coldReset_clears s
    obtain ⟨strap, mark, queue⟩ := coldReset_sideband s
    exact ⟨rfl, coldReset_cleared s, coldReset_portsFresh s, boots, unlocked, keys, retirement, now, coldReset_noImage s,
      fun b i => coldReset_image s, coldReset_noSlot s, fun k c => coldReset_slot s, coldReset_plca s, strap, mem, journal,
      flash, gut, mesh, mark, queue, absent, fun kv hkv => mem_failedAtTraining (coldReset_lanes s ▸ hkv),
      fun k x hx => ⟨_, coldReset_stack s hx, rfl, rfl, rfl, rfl, fun q hq => (List.mem_filter.mp hq).1⟩⟩
  case warm =>
    rw [moduleReset_running hrun]
    exact warmReset_from lumiz hawake
  case power =>
    refine ⟨execPowerOn_ignored, fun hoff hrail => ⟨fun lo hi => ?_, fun low => ?_⟩, fun hoff hwaits _ mv ma lo hi =>
      powerMeterSample_starts hoff hwaits lo hi⟩
    · refine ⟨tryPower (pwrEnWaits s), (execPowerOn_off hoff hrail).trans (by rw [inRange_of lo hi]; rfl), ?_⟩
      exact tryPower_outcome (pwrEnWaits s) hoff rfl
    · exact (execPowerOn_off hoff hrail).trans (by rw [not_inRange_of low]; rfl)
  case startup =>
    refine ⟨fun hwarm => ?_, fun hcold himage => ?_, fun i hcold himage hfailed => ?_,
      fun i hcold himage hlanes hstacks => ?_⟩
    · have only := resumeWaiting_only s
      exact ⟨_, execStartupComplete_warm hphase hwarm, rfl, only.config, only.sec, only.mem, only.formes⟩
    · exact ⟨_, execStartupComplete_noImage hphase hcold himage, announceNow_phase, announceNow_announces (by simp)⟩
    · obtain ⟨r, outcome⟩ := startCold_retires i hphase hfailed
      exact ⟨_, r, execStartupComplete_image hphase hcold himage, outcome⟩
    · obtain ⟨phase, floor, formes, mem, config, cap, pp, cp, image, slot⟩ := startedUp_keeps hlanes hstacks i
      have runs := startCold_runs i (gutterTrained_powered hlanes hphase)
      have notRetired : (startedUp s i).phase ≠ .retired := by rw [phase]; decide
      have spare := startedUp_lanes hlanes hstacks i
      have flash := startedUp_flash hlanes hstacks i
      have awake := startedUp_awake hlanes hstacks i
      have boot := startedUp_boots hlanes hstacks i
      have announces := announceNow_announces notRetired
      have completes := execStartupComplete_image hphase hcold himage
      refine ⟨announceNow (startedUp s i), completes.trans (by rw [runs]), ?_⟩
      clear completes runs
      rw [announceNow_eq notRetired] at announces ⊢
      generalize startedUp s i = t at *
      exact ⟨spare, phase, floor, flash, formes, mem, config, cap, pp, cp, image, slot, awake, announces, boot⟩
  case loss =>
    refine ⟨fun lo hi => ⟨_, execPwrEnDeassert_on hon (inRange_of lo hi), ?_⟩, _, execSupplyLoss_on hon, ?_⟩
    · exact supplyOff_lost (fun t => t.pins.pwrEn = false ∧ t.pins.fuseOpen = s.pins.fuseOpen) (pwrEnCleared s)
        ⟨rfl, rfl⟩
    · exact supplyOff_lost (fun t => t.pins.fuseOpen = true ∧ t.pins.pwrEn = s.pins.pwrEn) (fuseOpened s) ⟨rfl, rfl⟩
  case offLoss => exact execSupplyLoss_off hoff
  case offDeassert => exact execPwrEnDeassert_off hoff

end Sys2Proof.Machine
end

section
/-! PROOFS. A read request at its home (09 R296), and the lanes of the Gutter (01 R36 to R39). -/

namespace Sys2Proof.Machine

open Sys2Proof

/-! ## A request reaches its home (01 R33, R34; 09 R298) -/

/-- A caching agent that takes fills and has no copy of the line sends its request. -/
theorem askFor_sends {s : State} {l : LineAt} (k : ReqKind) (hon : s.homesOn = true) (hagent : l.agent < 8)
    (hfill : mayFill s l.agent = true) (hheld : heldState s l = none) : askFor s l k = sendReq s l k := by
  simp [askFor, isCaching, hon, hagent, hfill, hheld]

section
variable {s : State} {ln : Nat} {r : Req} (habsent : paAbsent (ln * 128) = false)
include habsent

/-- Behind others on its way, a request goes on its way. -/
theorem homeAccept_launches (hway : wayClear s ln r = false) :
    homeAccept s ln r = launchRequest (carryRequest s ln r) ln r := by
  simp [homeAccept, habsent, hway]

/-- On a clear way to a line without a transaction, a request starts its own. -/
theorem homeAccept_starts (hway : wayClear s ln r = true) (htxn : getTxn s ln = none) :
    homeAccept s ln r = homeGo (homeStart (carryRequest s ln r) ln r [] []) ln := by
  have none : getTxn (carryRequest s ln r) ln = none := htxn
  simp [homeAccept, homeArrive, habsent, hway, none]

end

/-! ## A transaction under way -/

/-- Only the transaction that has ended makes place for the next one. -/
theorem homeRun_open {s : State} {ln : Nat} {t : Txn} (n : Nat) (h : getTxn s ln = some t) (hopen : t.ended = false) :
    homeRun n s ln = s := by
  cases n with
  | zero => rfl
  | succ n => simp [homeRun, h, hopen]

/-- A home goes no further with an open transaction that waits or has its grant. -/
theorem homeGo_waits {s : State} {ln : Nat} {t : Txn} (h : getTxn s ln = some t) (hopen : t.ended = false)
    (w : t.granted = true ∨ t.waiting ≠ [] ∨ homeStalled s ln t = true) : homeGo s ln = s := by
  simp [homeGo, homeProceed_waits h w, h, homeRun_open _ h hopen]

/-- A read that no snoop has been lost for is granted with the line's data from memory. -/
theorem grantData_reads {s : State} {ln : Nat} {t : Txn} (g : GrantKind) (hlost : t.lost = false) :
    grantData s ln t g =
      let d := homeReadLine t.req.prio (ln * 128) s
      setTxn d.1 ln { t.send (.dataTo t.req.agent g d.2.data d.2.p0 d.2.p1) with granted := true } := by
  simp [grantData, hlost]

/-! ## RD_SHARED at its home (09 R296) -/

/-- A read that waits for nothing is granted from memory: in E when nobody else may hold the line. -/
theorem homeProceed_rdShared {s : State} {ln : Nat} {t : Txn} (htxn : getTxn s ln = some t) (hkind : t.req.kind = .rdShared)
    (hgranted : t.granted = false) (hwaiting : t.waiting = []) (hforwarded : t.forwarded = false)
    (hstalled : homeStalled s ln t = false) :
    homeProceed s ln = grantData s ln t (if (holdersOf s ln).all (fun h => h = t.req.agent) then .e else .s) := by
  simp [homeProceed, htxn, hkind, hgranted, hwaiting, hforwarded, hstalled]

section
variable {s : State} {ln : Nat} {r : Req} (hkind : r.kind = .rdShared)
include hkind

/-- A read that has just started needs memory, and so waits for nothing but the pseudo-channel of its line. -/
theorem homeStalled_rdShared : homeStalled s ln (Txn.start r [] []) = pchBlocked s (paStack (ln * 128)) (paPch (ln * 128)) := by
  simp [homeStalled, needsMemory, Txn.start, hkind]

/-- The owner that the entry records is snooped. -/
theorem homeStart_rdShared_owned {o : Nat} (howner : ownerOf (dirRepair s ln) ln = some o) :
    homeStart s ln r [] [] = setTxn (dirReserve (dirRepair s ln) ln r.agent) ln ((Txn.start r [] []).snoop .shared [o]) := by
  have start : homeStart s ln r [] [] =
      homeProceed (setTxn (dirReserve (dirRepair s ln) ln r.agent) ln ((Txn.start r [] []).snoop .shared [o])) ln := by
    simp [homeStart, hkind, howner]
  exact start.trans (homeProceed_waits (getTxn_setTxn ..) (.inr (.inl (by simp [Txn.snoop]))))

/-- Without an owner, the home goes on with the read itself. -/
theorem homeStart_rdShared_unowned (howner : ownerOf (dirRepair s ln) ln = none) :
    homeStart s ln r [] [] = homeProceed (setTxn (dirReserve (dirRepair s ln) ln r.agent) ln (Txn.start r [] [])) ln := by
  simp [homeStart, hkind, howner]

/-- A read that has just started waits for a pseudo-channel that issues nothing. -/
theorem homeProceed_rdShared_blocked (hblocked : pchBlocked s (paStack (ln * 128)) (paPch (ln * 128)) = true) :
    homeProceed (setTxn s ln (Txn.start r [] [])) ln = setTxn s ln (Txn.start r [] []) :=
  homeProceed_waits (getTxn_setTxn ..) (.inr (.inr ((homeStalled_rdShared hkind).trans hblocked)))

/-- A read that has just started, and whose pseudo-channel issues, is granted from memory. -/
theorem homeProceed_rdShared_issues (hissues : pchBlocked s (paStack (ln * 128)) (paPch (ln * 128)) = false) :
    homeProceed (setTxn s ln (Txn.start r [] [])) ln =
      grantData (setTxn s ln (Txn.start r [] [])) ln (Txn.start r [] [])
        (if (holdersOf s ln).all (fun h => h = r.agent) then .e else .s) :=
  homeProceed_rdShared (getTxn_setTxn ..) hkind rfl rfl rfl ((homeStalled_rdShared hkind).trans hissues)

end

/-- Settles O1: on a clear way the home starts the read, which waits for the owner's answer, waits for its pseudo-channel, or
has its grant. -/
theorem sharedReadSnoopsTheOwnerOrGrants : Obligations.SharedReadSnoopsTheOwnerOrGrants := by
  unfold Obligations.SharedReadSnoopsTheOwnerOrGrants
  intro l s hon hagent hfill hheld habsent htxn ln r u v x blocked
  have sends : exec (.rdShared l) s = .next (homeAccept s.drawn ln r) :=
    congrArg Host.Outcome.next (askFor_sends .rdShared hon hagent hfill hheld)
  have kind : r.kind = .rdShared := rfl
  have txn (w : State) (y : Txn) : getTxn (setTxn w ln y) ln = some y := getTxn_setTxn w ln y
  refine ⟨fun hway => ?launch, fun hway => ?start⟩
  case launch => exact sends.trans (congrArg Host.Outcome.next (homeAccept_launches (s := s.drawn) habsent hway))
  case start =>
    have starts : exec (.rdShared l) s = .next (homeGo (homeStart (carryRequest s.drawn ln r) ln r [] []) ln) :=
      sends.trans (congrArg Host.Outcome.next (homeAccept_starts (s := s.drawn) habsent hway htxn))
    refine ⟨fun o howner => ?owned, fun howner => ?unowned⟩
    case owned =>
      rw [starts, homeStart_rdShared_owned kind howner, homeGo_waits (txn ..) rfl (.inr (.inl (List.cons_ne_nil o [])))]
      rfl
    case unowned =>
      intro d g
      have goes : homeStart (carryRequest s.drawn ln r) ln r [] [] = homeProceed (setTxn v ln x) ln :=
        homeStart_rdShared_unowned kind howner
      rw [starts, goes]
      cases hb : blocked with
      | true =>
        rw [homeProceed_rdShared_blocked kind hb, homeGo_waits (txn v x) rfl (.inr (.inr ((homeStalled_rdShared kind).trans hb)))]
        rfl
      | false =>
        rw [homeProceed_rdShared_issues kind hb, grantData_reads _ rfl, homeGo_waits (txn ..) rfl (.inl rfl)]
        rfl

/-! ## The Gutter (01 R36 to R39) -/

/-- A powered node that retires is retired, with its record. -/
theorem retire_retires {s : State} (c : RetireCause) (h : s.powered = true) :
    (retire s c).phase = .retired ∧ (retire s c).sec.retirement = some (s.now, c) :=
  ⟨retire_phase s c h, retire_retirement s c h⟩

/-- The link of a lane group is read off its key. -/
theorem laneKey_link {dir group : Nat} (link : Nat) (hdir : dir < 2) (hgroup : group < 16) :
    laneKey link dir group / 32 = link := by
  unfold laneKey
  omega

/-- A group that swaps is one that has failed before: the table holds it. -/
theorem mapGet_of_swapping {s : State} {link dir group : Nat} (h : (getLanes s link dir group).swapping = true) :
    mapGet s.lanes (laneKey link dir group) = some (getLanes s link dir group) := by
  unfold getLanes mapGetD at *
  cases e : mapGet s.lanes (laneKey link dir group) with
  | none => rw [e] at h; cases h
  | some g => rfl

/-- A lane group of a link becomes `x`. -/
def setLanes (s : State) (link dir group : Nat) (x : LaneGroup) : State :=
  { s with lanes := mapSet s.lanes (laneKey link dir group) x }

/-- The end of a swap journals the link and leaves the group on its spare. -/
theorem laneSwapped_of_swapping {s : State} {link dir group : Nat} (h : (getLanes s link dir group).swapping = true)
    (hdir : dir < 2) (hgroup : group < 16) :
    laneSwapped s (laneKey link dir group) =
      setLanes (journalWrite s.drawn.drawn (jEntry JOrigin.firmware 0x0C link 2 (Config.freeNat s.free % 2 ^ 128)
        (Config.freeNat (s.free + 1) % 2 ^ 128))) link dir group (getLanes s link dir group).swapped := by
  unfold laneSwapped
  dsimp only
  rw [laneKey_link link hdir hgroup]
  generalize hw : journalWrite s.drawn.drawn _ = w
  have lanes : w.lanes = s.lanes := by rw [← hw, journalWrite_frame]; rfl
  have mod : mapMod w.lanes (laneKey link dir group) LaneGroup.swapped =
      mapSet w.lanes (laneKey link dir group) (getLanes s link dir group).swapped := by
    rw [lanes, mapMod, mapGet_of_swapping h]
  exact congrArg (fun m => { w with lanes := m }) mod

section
variable {s : State} (hon : s.powered = true) (link dir group : Nat)
include hon

/-- GUTTER_LANE_FAIL of a trained group with its spare free. -/
theorem execGutterLaneFail_swaps (htrained : s.untrained = false) (hspare : (getLanes s link dir group).spareUsed = false)
    (hswap : (getLanes s link dir group).swapping = false) :
    execGutterLaneFail link dir group s = .next (setLanes s link dir group
      { failed := (getLanes s link dir group).failed + 1, spareUsed := false, swapping := true }) := by
  simp [execGutterLaneFail, setLanes, hon, htrained, hspare, hswap]

/-- GUTTER_LANE_FAIL of a trained group whose spare is taken. -/
theorem execGutterLaneFail_retires (htrained : s.untrained = false)
    (htaken : (getLanes s link dir group).spareUsed = true ∨ (getLanes s link dir group).swapping = true) :
    execGutterLaneFail link dir group s = .next (gutterRetire (setLanes s link dir group
      { getLanes s link dir group with failed := (getLanes s link dir group).failed + 1 }) link group) := by
  simp [execGutterLaneFail, setLanes, hon, htrained, htaken]

/-- GUTTER_LANE_FAIL before training. -/
theorem execGutterLaneFail_untrained (huntrained : s.untrained = true) :
    execGutterLaneFail link dir group s = .next (setLanes s link dir group
      { getLanes s link dir group with failed := (getLanes s link dir group).failed + 1 }) := by
  simp [execGutterLaneFail, setLanes, hon, huntrained]

theorem execGutterLinkLoss_trained (htrained : s.untrained = false) :
    execGutterLinkLoss link s = .next (gutterRetire s link 0) := by
  simp [execGutterLinkLoss, hon, htrained]

theorem execGutterLinkLoss_untrained (huntrained : s.untrained = true) :
    execGutterLinkLoss link s = .next (retire s { code := 6, unit := 0x20 + link, detail := 0 }) := by
  simp [execGutterLinkLoss, hon, huntrained]

theorem execLaneSwapDone_swapping (h : (getLanes s link dir group).swapping = true) :
    execLaneSwapDone link dir group s = .next (if journalHeld s then holdRow s (.laneSwapDone link dir group)
      else laneSwapped s (laneKey link dir group)) := by
  simp [execLaneSwapDone, hon, h]

end

/-- Settles O15: by whether the links are trained and the spare is taken. That a swap under way counts as a spare in use, and
that DETAIL names lane group 0 when a whole link is lost, are the model's choices (notes/assumptions/116.md). -/
theorem gutterLaneSwapsOnceThenRetires : Obligations.GutterLaneSwapsOnceThenRetires := by
  unfold Obligations.GutterLaneSwapsOnceThenRetires
  intro link dir group s hon g old new put
  refine ⟨fun trained => ⟨execGutterLaneFail_swaps hon link dir group trained, fun taken => ?failed, ?lost⟩,
    fun untrained => ⟨execGutterLaneFail_untrained hon link dir group untrained, ?lostUntrained⟩,
    fun swapping held => ?held, fun swapping free hdir hgroup => ?swapped⟩
  case failed => exact ⟨_, execGutterLaneFail_retires hon link dir group trained taken, retire_retires _ hon⟩
  case lost => exact ⟨_, execGutterLinkLoss_trained hon link trained, retire_retires _ hon⟩
  case lostUntrained => exact ⟨_, execGutterLinkLoss_untrained hon link untrained, retire_retires _ hon⟩
  case held => exact (execLaneSwapDone_swapping hon link dir group swapping).trans (by rw [if_pos held])
  case swapped =>
    exact (execLaneSwapDone_swapping hon link dir group swapping).trans
      (by rw [if_neg (by simp [free]), laneSwapped_of_swapping swapping hdir hgroup]; rfl)

end Sys2Proof.Machine
end

section
/-! PROOFS. What is added to a window of the Press (03 R97, R104). -/

namespace Sys2Proof.Machine

open Sys2Proof

/-- From `x` to `y` the anchor has not fallen, and the NaN flag stands if it stood. -/
def WindowKept (x y : Window) : Prop :=
  (∀ a, x.anchor = some a → ∃ b, y.anchor = some b ∧ a ≤ b) ∧ (x.nan = true → y.nan = true)

theorem WindowKept.of_eq {x y : Window} (anchor : y.anchor = x.anchor) (nan : x.nan = true → y.nan = true) : WindowKept x y :=
  ⟨fun a h => ⟨a, anchor.trans h, Int.le_refl a⟩, nan⟩

theorem WindowKept.trans {x y z : Window} (h : WindowKept x y) (k : WindowKept y z) : WindowKept x z := by
  refine ⟨fun a ha => ?_, k.2 ∘ h.2⟩
  obtain ⟨b, hb, hab⟩ := h.1 a ha
  obtain ⟨c, hc, hbc⟩ := k.1 b hb
  exact ⟨c, hc, Int.le_trans hab hbc⟩

theorem WindowKept.refl (x : Window) : WindowKept x x := .of_eq rfl id

/-- The anchor is set where there was none, moved up to a greater one, or left. -/
theorem raise_kept (win : Nat) (T : Int) (x : Window) : WindowKept x (x.raise win T) := by
  unfold Window.raise
  split
  case isFalse => exact .refl x
  case isTrue =>
    dsimp only
    split
    case h_1 none => exact ⟨fun a h => by simp [none] at h, id⟩
    case h_2 a anchor =>
      split
      case isTrue higher =>
        refine ⟨fun b h => ⟨_, rfl, ?_⟩, id⟩
        obtain rfl : a = b := Option.some.inj (anchor.symm.trans h)
        exact Int.le_of_lt higher
      case isFalse => exact .refl x

/-- A term raises the anchor and changes the sum; a zero changes neither, and an infinity or a NaN sets a flag alone. -/
theorem addTerm_kept (win : Nat) (x : Window) (p : Num) (T : Int) : WindowKept x (x.addTerm win p T) := by
  cases p with
  | nan => exact .of_eq rfl (fun _ => rfl)
  | inf neg => cases neg <;> exact .of_eq rfl id
  | fin n m e =>
    have negzero : WindowKept x (if n && m == 0 then x else { x with negzero := false }) := by
      split
      · exact .refl x
      · exact .of_eq rfl id
    simp only [Window.addTerm]
    generalize (if n && m == 0 then x else { x with negzero := false }) = y at negzero ⊢
    split
    · exact negzero
    · exact (negzero.trans (raise_kept win T y)).trans (.of_eq rfl id)

theorem mma_kept (win : Nat) (x : Window) (ps : List (Operand × Operand)) : WindowKept x (x.mma win ps) := by
  induction ps generalizing x with
  | nil => exact .refl x
  | cons p ps ih => exact (addTerm_kept ..).trans (ih _)

theorem foldl_kept {α : Type} (f : Window → α → Window) (hf : ∀ x a, WindowKept x (f x a)) (x : Window) (l : List α) :
    WindowKept x (l.foldl f x) := by
  induction l generalizing x with
  | nil => exact .refl x
  | cons a l ih => exact (hf x a).trans (ih _)

theorem slicedTerm_kept (s : Nat) (ebase T : Int) (x : Window) (a b : Sliced) :
    WindowKept x (x.slicedTerm s ebase T a b) := by
  unfold Window.slicedTerm
  split
  · exact foldl_kept _ (fun _ _ => addTerm_kept ..) x _
  · exact addTerm_kept ..

theorem slicedSum_kept (s : Nat) (ebase T : Int) (x : Window) (as bs : List Sliced) :
    WindowKept x (x.slicedSum s ebase T as bs) := by
  induction as generalizing x bs with
  | nil => exact .refl x
  | cons a as ih =>
    cases bs with
    | nil => exact .refl x
    | cons b bs => exact (slicedTerm_kept ..).trans (ih _ bs)

/-- A window with both infinity flags holds NaN, as one with the NaN flag does. -/
theorem value_of_nan {x : Window} (h : x.nan = true ∨ (x.pinf = true ∧ x.ninf = true)) : x.value = .nan := by
  unfold Window.value
  exact if_pos (by simpa using h)

theorem inexact_of_nan {x : Window} (h : x.value = .nan) : x.inexact = false := by simp [Window.inexact, h, Num.isNan]

/-- Settles O55: every addition is a sequence of terms, and each term keeps the anchor from falling and the NaN flag. -/
theorem anchorNeverFallsAndNanFlagStays : Obligations.AnchorNeverFallsAndNanFlagStays := by
  unfold Obligations.AnchorNeverFallsAndNanFlagStays
  intro win s ebase T x kept
  refine ⟨fun p => addTerm_kept win x p T, fun v => addTerm_kept win x v _, mma_kept win x, slicedSum_kept s ebase T x,
    fun hp hn => ?_⟩
  have both : x.value = .nan := value_of_nan (.inr ⟨hp, hn⟩)
  have flagged : ({ x with nan := true } : Window).value = .nan := value_of_nan (.inl rfl)
  exact ⟨both.trans flagged.symm, (inexact_of_nan both).trans (inexact_of_nan flagged).symm⟩

end Sys2Proof.Machine
end

section
/-! PROOFS. What the shared operations of tile operations may change and what is read after them, and the operations of the
Press: the entry into a stage, TILE_OPEN, TILE_MMA, TILE_MMA_S and TILE_OUT (03, 04). -/

namespace Sys2Proof.Machine

open Sys2Proof

/-! ## What a tile operation may change -/

theorem TileFrame.trans {s t u : State} {r : OpRef} (h : TileFrame s t r) (k : TileFrame t u r) : TileFrame s u r := by
  obtain ⟨rest, counters, galleys, sticks⟩ := h
  obtain ⟨rest', counters', galleys', sticks'⟩ := k
  refine ⟨?_, counters.trans counters', fun p g hne => (galleys' p g hne).trans (galleys p g hne),
    fun i hi => (sticks' i hi).trans (sticks i hi)⟩
  rw [rest', rest]

/-- A change of the operation's own galley that leaves the other sticks. -/
theorem modGalley_tileFrame (s : State) (r : OpRef) (f : Galley → Galley)
    (h : ∀ k, k ≠ r.stick → mapGet (f (getGalley s r.platen r.galley)).sticks k = mapGet (getGalley s r.platen r.galley).sticks k) :
    TileFrame s (modGalley s r.platen r.galley f) r := by
  refine ⟨rfl, .refl s, fun p g hne => getGalley_modGalley_ne s f hne, fun k hk => ?_⟩
  simpa [getStick] using h k hk

theorem modOp_tileFrame (s : State) (r : OpRef) (f : TileOp → TileOp) : TileFrame s (modOp s r f) r :=
  modGalley_tileFrame s r _ (fun _ _ => rfl)

theorem opPerformed_tileFrame (s : State) (r : OpRef) : TileFrame s (opPerformed s r) r :=
  .trans (t := clearStages s r) (modGalley_tileFrame s r _ (fun _ _ => rfl)) (modOp_tileFrame ..)

theorem modPress_tileFrame (s : State) (r : OpRef) (unit : Nat) (f : Press → Press) : TileFrame s (modPress s r unit f) r :=
  modGalley_tileFrame s r _ (fun _ _ => rfl)

theorem lsWrite_tileFrame (s : State) (r : OpRef) (a : Nat) (d : List Byte) : TileFrame s (lsWrite s r a d) r :=
  modGalley_tileFrame s r _ (fun _ hk => mapGet_mapMod_ne _ _ hk)

theorem proofCount_tileFrame (s : State) (r : OpRef) (t : Stick) (tag : Nat) (xs : List Seen) :
    TileFrame s (proofCount s r t tag xs) r := modGalley_tileFrame s r _ (fun _ _ => rfl)

@[simp] theorem countFor_galleys (s : State) (f : Option Nat) (c : Ctr) (n : Nat) : (countFor s f c n).galleys = s.galleys := by
  rw [(countFor_frame s f c n).1]

@[simp] theorem countFor_free (s : State) (f : Option Nat) (c : Ctr) (n : Nat) : (countFor s f c n).free = s.free := by
  rw [(countFor_frame s f c n).1]

/-- Counting and free draws leave the galleys. -/
theorem tileFrame_of_galleys {s t : State} (r : OpRef)
    (rest : t = { s with formes := t.formes, loose := t.loose, free := t.free }) (counters : OnlyCounters s t) :
    TileFrame s t r := by
  have galleys : t.galleys = s.galleys := by rw [rest]
  refine ⟨?_, counters, fun p g _ => ?_, fun k _ => ?_⟩
  · rw [rest]
  · simp [getGalley, galleys]
  · simp [getStick, getGalley, galleys]

theorem countFor_tileFrame (s : State) (r : OpRef) (f : Option Nat) (c : Ctr) (n : Nat) : TileFrame s (countFor s f c n) r :=
  tileFrame_of_galleys r (by rw [(countFor_frame s f c n).1]) (countFor_frame s f c n).2

/-! ## What is read of a galley after each operation on it -/

section
variable (s : State) (r : OpRef)

@[simp] theorem getStick_modOp (f : TileOp → TileOp) (k : Nat) :
    getStick (modOp s r f) r.platen r.galley k = getStick s r.platen r.galley k := by simp [getStick, modOp]

@[simp] theorem getPress_modOp (f : TileOp → TileOp) (unit : Nat) : getPress (modOp s r f) r unit = getPress s r unit := by
  simp [getPress, modOp]

@[simp] theorem proof_modOp (f : TileOp → TileOp) :
    (getGalley (modOp s r f) r.platen r.galley).proof = (getGalley s r.platen r.galley).proof := by simp [modOp]

/-- A change that leaves what names operations is seen by the operation it was made for. -/
theorem getOp_modOp (f : TileOp → TileOp) (hf : ∀ o, isOp r (f o) = isOp r o) :
    getOp (modOp s r f) r = (getOp s r).map f := by
  have named : (isOp r ∘ fun o => if isOp r o then f o else o) = isOp r := by
    funext o
    simp only [Function.comp]
    split
    · exact hf o
    · rfl
  simp only [getOp, modOp, getGalley_modGalley_self, List.find?_map, named]
  cases found : (getGalley s r.platen r.galley).ops.find? (isOp r) with
  | none => rfl
  | some o => simp [List.find?_some found]

@[simp] theorem getPress_modPress (unit : Nat) (f : Press → Press) :
    getPress (modPress s r unit f) r unit = f (getPress s r unit) := by simp [getPress, modPress]

@[simp] theorem getStick_modPress (unit : Nat) (f : Press → Press) (k : Nat) :
    getStick (modPress s r unit f) r.platen r.galley k = getStick s r.platen r.galley k := by simp [getStick, modPress]

@[simp] theorem getOp_modPress (unit : Nat) (f : Press → Press) : getOp (modPress s r unit f) r = getOp s r := by
  simp [getOp, modPress]

@[simp] theorem proof_modPress (unit : Nat) (f : Press → Press) :
    (getGalley (modPress s r unit f) r.platen r.galley).proof = (getGalley s r.platen r.galley).proof := by simp [modPress]

@[simp] theorem getStick_lsWrite (a : Nat) (d : List Byte) : getStick (lsWrite s r a d) r.platen r.galley r.stick =
    (getStick s r.platen r.galley r.stick).map (fun t => { t with ls := writeBytes t.ls a d }) := getStick_modStick_self ..

@[simp] theorem getPress_lsWrite (a : Nat) (d : List Byte) (unit : Nat) :
    getPress (lsWrite s r a d) r unit = getPress s r unit := by simp [getPress, lsWrite, modStick]

@[simp] theorem proof_lsWrite (a : Nat) (d : List Byte) :
    (getGalley (lsWrite s r a d) r.platen r.galley).proof = (getGalley s r.platen r.galley).proof := by
  simp [lsWrite, modStick]

@[simp] theorem tagTop_lsWrite (a : Nat) (d : List Byte) (t : Stick) (tag : Nat) :
    tagTop (lsWrite s r a d) t tag = tagTop s t tag := rfl

section
variable (t : Stick) (tag : Nat) (xs : List Seen)

@[simp] theorem getStick_proofCount (k : Nat) :
    getStick (proofCount s r t tag xs) r.platen r.galley k = getStick s r.platen r.galley k := by simp [getStick, proofCount]

@[simp] theorem getPress_proofCount (unit : Nat) : getPress (proofCount s r t tag xs) r unit = getPress s r unit := by
  simp [getPress, proofCount]

@[simp] theorem mapGet_proof_proofCount :
    mapGet (getGalley (proofCount s r t tag xs) r.platen r.galley).proof (t.passSeq * 32 + tag) =
      some (xs.foldl (Stats.count (tagTop s t tag))
        (mapGetD (getGalley s r.platen r.galley).proof statsZero (t.passSeq * 32 + tag))) := by simp [proofCount]

end

@[simp] theorem banks_clearStages (unit : Nat) : (getPress (clearStages s r) r unit).banks = (getPress s r unit).banks := by
  simp only [getPress, clearStages, getGalley_modGalley_self, mapGetD,
    mapGet_map (getGalley s r.platen r.galley).presses (fun _ p => { p with
      multiply := if p.multiply = some (r.stick, r.slug, r.ticket) then none else p.multiply
      output := if p.output = some (r.stick, r.slug, r.ticket) then none else p.output })]
  cases mapGet (getGalley s r.platen r.galley).presses unit <;> rfl

@[simp] theorem getStick_opPerformed (k : Nat) :
    getStick (opPerformed s r) r.platen r.galley k = getStick s r.platen r.galley k :=
  (getStick_modOp ..).trans (by simp [getStick, clearStages])

@[simp] theorem banks_opPerformed (unit : Nat) : (getPress (opPerformed s r) r unit).banks = (getPress s r unit).banks := by
  rw [opPerformed, getPress_modOp, banks_clearStages]

@[simp] theorem proof_opPerformed :
    (getGalley (opPerformed s r) r.platen r.galley).proof = (getGalley s r.platen r.galley).proof :=
  (proof_modOp ..).trans (by simp [clearStages])

@[simp] theorem getOp_opPerformed :
    getOp (opPerformed s r) r = (getOp s r).map (fun o => { o with started := true, performed := true }) := by
  have cleared : getOp (clearStages s r) r = getOp s r := by simp [getOp, clearStages]
  rw [opPerformed, getOp_modOp, cleared]
  exact fun _ => rfl

end

/-- What is there of an operation that has its effect now. -/
theorem of_pressNow {s : State} {r : OpRef} {opc : Nat} {n : OpNow} (h : pressNow s r opc = some n) :
    getOp s r = some n.op ∧ getStick s r.platen r.galley r.stick = some n.stick := by
  have now : opNow s r opc = some n := by
    unfold pressNow at h
    split at h
    case h_2 => cases h
    case h_1 m now =>
      split at h
      · exact now.trans h
      · cases h
  unfold opNow at now
  split at now
  case isFalse => cases now
  case isTrue =>
    split at now
    case h_2 => cases now
    case h_1 o k op stick =>
      split at now
      · obtain rfl := Option.some.inj now
        exact ⟨op, stick⟩
      · cases now

/-! ## Banks -/

/-- A table made over a list of keys reads what was made for the key. -/
theorem mapGet_tabulate {α : Type} (g : Nat → α) {l : List Nat} {k : Nat} (h : k ∈ l) :
    mapGet (l.map (fun n => (n, g n))) k = some (g k) := by
  induction l with
  | nil => cases h
  | cons n l ih =>
    simp only [List.map_cons, mapGet]
    split
    case isTrue e => rw [e]
    case isFalse ne => exact ih (List.mem_of_ne_of_mem (fun e => ne e.symm) h)

theorem bankWindow_mapBank (b : Bank) (f : Nat → Nat → Window → Window) (terms : Nat) {i j : Nat} (hi : i < 64) (hj : j < 32) :
    bankWindow { mapBank b f with terms := terms } (32 * i + j) = f i j (bankWindow b (32 * i + j)) := by
  have row : (32 * i + j) / 32 = i := by omega
  have col : (32 * i + j) % 32 = j := by omega
  have window := mapGet_tabulate (fun n => f (n / 32) (n % 32) (bankWindow b n))
    (List.mem_range.mpr (show 32 * i + j < 2048 by omega))
  rw [bankWindow, mapGetD, mapBank, window, row, col, Option.getD_some]

section
variable (s : State) (r : OpRef) (block : Nat) (b : Bank)

theorem setBank_tileFrame : TileFrame s (setBank s r block b) r := modPress_tileFrame ..

@[simp] theorem getStick_setBank (k : Nat) :
    getStick (setBank s r block b) r.platen r.galley k = getStick s r.platen r.galley k := getStick_modPress ..

@[simp] theorem getOp_setBank : getOp (setBank s r block b) r = getOp s r := getOp_modPress ..

@[simp] theorem mapGet_banks_setBank : mapGet (getPress (setBank s r block b) r (tbUnit block)).banks (tbBank block) = some b := by
  simp [setBank]

end

/-! ## A Press operation enters its stage (03 R112, R113, R625) -/

theorem execPressStageStart_enters {s : State} {r : OpRef} {o : TileOp} (hon : platenRuns s r.platen = true)
    (hop : getOp s r = some o) (hpress : isPressOp o.block = true) (hwaits : o.started = false) (hmay : mayEnter s r o = true) :
    execPressStageStart r s = .next (modOp (modPress s r (tbUnit o.block) (fun p =>
      if isMultiply o.block then { p with multiply := some (r.stick, r.slug, r.ticket) }
      else { p with output := some (r.stick, r.slug, r.ticket) })) r (fun o => { o with started := true })) := by
  simp [execPressStageStart, hon, hop, hpress, hwaits, hmay]

/-! ## TILE_OPEN (03 R87 to R89) -/

theorem seedBad_false {block : Nat} (h : seedBad block = false) (hseed : tbSeed block = true) : typeValid (tbType block) = true := by
  simp only [seedBad, hseed, Bool.true_and, Bool.or_eq_false_iff, Bool.not_eq_false'] at h
  exact h.1

theorem execTileOpen_opens {s : State} {r : OpRef} {n : OpNow} (hnow : pressNow s r 3 = some n)
    (hinside : tbSeed n.op.block = true →
      lsInside n.stick (tbOpa n.op.block) (tileBytes (tbType n.op.block) 64 32) = true)
    (hseed : seedBad n.op.block = false) (hpair : bankSpan (tbWin n.op.block) = 2 → tbBank n.op.block % 2 = 0)
    (hunused : ∀ i, i < bankSpan (tbWin n.op.block) →
      positionUsed (getPress s r (tbUnit n.op.block)) (tbBank n.op.block + i) = false) :
    execTileOpen r s = .next
      (if tbSeed n.op.block then opPerformed (setBank s r n.op.block (openBank s r n.stick n.op.block)) r
       else opTogether (setBank s r n.op.block (openBank s r n.stick n.op.block)) r) := by
  have valid : (tbSeed n.op.block && !typeValid (tbType n.op.block)) = false := by
    cases seed : tbSeed n.op.block with
    | false => rfl
    | true => simp [seedBad_false hseed seed]
  have inside : (tbSeed n.op.block && !lsInside n.stick (tbOpa n.op.block) (tileBytes (tbType n.op.block) 64 32)) = false := by
    cases seed : tbSeed n.op.block with
    | false => rfl
    | true => simp [hinside seed]
  have paired : (bankSpan (tbWin n.op.block) == 2 && tbBank n.op.block % 2 == 1) = false := by
    cases span : bankSpan (tbWin n.op.block) == 2 with
    | false => rfl
    | true => simp [hpair (beq_iff_eq.mp span)]
  have unused : (List.range (bankSpan (tbWin n.op.block))).any
      (fun i => positionUsed (getPress s r (tbUnit n.op.block)) (tbBank n.op.block + i)) = false := by
    simpa using hunused
  simp only [execTileOpen, hnow, valid, inside, paired, unused, hseed, Bool.or_false, Bool.false_eq_true, if_false]
  split <;> rfl

theorem openBank_unseeded (s : State) (r : OpRef) (t : Stick) {block : Nat} (h : tbSeed block = false) :
    openBank s r t block = { stick := r.stick, slug := r.slug, win := tbWin block, terms := 0, windows := [] } := by
  simp [openBank, h]

theorem openBank_seeded (s : State) (r : OpRef) (t : Stick) {block : Nat} {k : Kind} (h : tbSeed block = true)
    (hk : typeKind (tbType block) = some k) :
    openBank s r t block =
      { mapBank { stick := r.stick, slug := r.slug, win := tbWin block, terms := 0, windows := [] } (fun i j w =>
          w.seed (tbWin block) (tileVal (nd5Of s t) (lsByte t) (tbOpa block) (tbType block) k 0 64 32 i j)) with terms := 1 } := by
  simp [openBank, h, hk]

/-- The slug that opens a bank owns it, and it has one term if it is seeded. -/
theorem openBank_head (s : State) (r : OpRef) (t : Stick) {block : Nat} (h : seedBad block = false) :
    (openBank s r t block).stick = r.stick ∧ (openBank s r t block).slug = r.slug ∧
      (openBank s r t block).win = tbWin block ∧ (openBank s r t block).terms = boolBit (tbSeed block) := by
  cases seed : tbSeed block with
  | false =>
    rw [openBank_unseeded s r t seed]
    exact ⟨rfl, rfl, rfl, rfl⟩
  | true =>
    obtain ⟨k, hk⟩ := Option.isSome_iff_exists.mp (seedBad_false h seed)
    rw [openBank_seeded s r t seed hk]
    exact ⟨rfl, rfl, rfl, rfl⟩

section
variable (s : State) (r : OpRef)

theorem opTogether_tileFrame : TileFrame s (opTogether s r) r := (opPerformed_tileFrame s r).trans (modOp_tileFrame ..)

@[simp] theorem getStick_opTogether (k : Nat) :
    getStick (opTogether s r) r.platen r.galley k = getStick s r.platen r.galley k :=
  (getStick_modOp ..).trans (getStick_opPerformed ..)

@[simp] theorem banks_opTogether (unit : Nat) : (getPress (opTogether s r) r unit).banks = (getPress s r unit).banks := by
  rw [opTogether, getPress_modOp, banks_opPerformed]

end

/-! ## TILE_OUT (03 R107 to R111) -/

/-- The state that TILE_OUT leaves when the rows of its bank are `rows`. -/
def tileOutDone (s : State) (r : OpRef) (t : Stick) (block : Nat) (k : Kind) (rows : List ((Nat × List Conv) × List Seen)) :
    State :=
  let u := proofCount (lsWrite s r (tbDst block) (tilePack k (rows.map (·.1)))) r t (tbTag block) (rows.flatMap (·.2))
  opPerformed (if tbClose block then
    modPress u r (tbUnit block) (fun p => { p with banks := mapDel p.banks (tbBank block) }) else u) r

theorem execTileOut_writes {s : State} {r : OpRef} {n : OpNow} {bk : Bank} {k : Kind} (hnow : pressNow s r 6 = some n)
    (htag : tagBad s n.stick (tbTag n.op.block) (tbBind n.op.block) = false)
    (hkind : typeKind (outTarget s n.stick n.op.block).1 = some k)
    (hinside : lsInside n.stick (tbDst n.op.block) (tileBytes (outTarget s n.stick n.op.block).1 64 32) = true)
    (hown : ownBank s r n.op.block = some bk) :
    execTileOut r s = .next (tileOutDone s r n.stick n.op.block k
      (outRows (nd5Of s n.stick) k (outTarget s n.stick n.op.block).2 bk)) := by
  simp [execTileOut, tileOutDone, hnow, htag, hkind, hinside, hown]

section
variable (s : State) (r : OpRef) (t : Stick) (block : Nat) (k : Kind) (rows : List ((Nat × List Conv) × List Seen))

theorem tileOutDone_tileFrame : TileFrame s (tileOutDone s r t block k rows) r := by
  have told : TileFrame s (proofCount (lsWrite s r (tbDst block) (tilePack k (rows.map (·.1)))) r t (tbTag block)
      (rows.flatMap (·.2))) r := (lsWrite_tileFrame ..).trans (proofCount_tileFrame ..)
  unfold tileOutDone
  dsimp only
  split
  · exact (told.trans (modPress_tileFrame ..)).trans (opPerformed_tileFrame ..)
  · exact told.trans (opPerformed_tileFrame ..)

theorem getStick_tileOutDone (h : getStick s r.platen r.galley r.stick = some t) :
    getStick (tileOutDone s r t block k rows) r.platen r.galley r.stick =
      some { t with ls := writeBytes t.ls (tbDst block) (tilePack k (rows.map (·.1))) } := by
  unfold tileOutDone
  dsimp only
  split <;> simp [h]

theorem banks_tileOutDone : (getPress (tileOutDone s r t block k rows) r (tbUnit block)).banks =
    if tbClose block then mapDel (getPress s r (tbUnit block)).banks (tbBank block)
    else (getPress s r (tbUnit block)).banks := by
  unfold tileOutDone
  dsimp only
  split <;> simp

theorem proof_tileOutDone :
    mapGet (getGalley (tileOutDone s r t block k rows) r.platen r.galley).proof (t.passSeq * 32 + tbTag block) =
      some ((rows.flatMap (·.2)).foldl (Stats.count (tagTop s t (tbTag block)))
        (mapGetD (getGalley s r.platen r.galley).proof statsZero (t.passSeq * 32 + tbTag block))) := by
  unfold tileOutDone
  dsimp only
  split <;> simp

end

/-- Settles O28: each operation is rewritten to the state it leaves, whose parts are read one by one. -/
theorem pressBanksAreOpenedAndRoundedOut : Obligations.PressBanksAreOpenedAndRoundedOut := by
  unfold Obligations.PressBanksAreOpenedAndRoundedOut
  refine ⟨⟨?enter, ?opened⟩, ?out⟩
  case enter =>
    intro r o s hon hop hpress hwaits hmay p me
    refine ⟨_, execPressStageStart_enters hon hop hpress hwaits hmay,
      (modPress_tileFrame ..).trans (modOp_tileFrame ..), ?_, ?_⟩
    · rw [getOp_modOp, getOp_modPress, hop, Option.map_some]
      exact fun _ => rfl
    · rw [getPress_modOp, getPress_modPress]
  case opened =>
    intro r n s hnow b hinside hseed hpair hunused
    obtain ⟨-, hstick⟩ := of_pressNow hnow
    obtain ⟨stick, slug, win, terms⟩ := openBank_head s r n.stick hseed
    refine ⟨_, openBank s r n.stick b, execTileOpen_opens hnow hinside hseed hpair hunused, ?_, ?_, ?_,
      stick, slug, win, terms, fun i j hi hj => ⟨fun seed => ?_, fun k seed hk => ?_⟩⟩
    · split
      · exact (setBank_tileFrame ..).trans (opPerformed_tileFrame ..)
      · exact (setBank_tileFrame ..).trans (opTogether_tileFrame ..)
    · split <;> simp [hstick]
    · split <;> simp [b]
    · rw [openBank_unseeded s r n.stick seed]
      rfl
    · rw [openBank_seeded s r n.stick seed hk, bankWindow_mapBank _ _ _ hi hj]
      rfl
  case out =>
    intro r n bk k s hnow b tgt row conv seen htag hkind hinside hown
    obtain ⟨-, hstick⟩ := of_pressNow hnow
    have rows : outRows (nd5Of s n.stick) k tgt.2 bk = (List.range 64).map (fun i => (conv i, seen i)) := rfl
    have convs : (outRows (nd5Of s n.stick) k tgt.2 bk).map (·.1) = (List.range 64).map conv := by
      rw [rows, List.map_map]; rfl
    have seens : (outRows (nd5Of s n.stick) k tgt.2 bk).flatMap (·.2) = (List.range 64).flatMap seen := by
      rw [rows, List.flatMap_map]
    refine ⟨_, execTileOut_writes hnow htag hkind hinside hown, tileOutDone_tileFrame .., ?_, banks_tileOutDone .., ?_⟩
    · rw [← convs]
      exact getStick_tileOutDone s r n.stick b k _ hstick
    · rw [← seens]
      exact proof_tileOutDone ..

/-! ## TILE_MMA and TILE_MMA_S (03 R81 to R86, R90 to R97; 04 R123 to R131) -/

/-- TILE_MMA whose checks pass: it counts its clocks, draws the orders of its blocks, and leaves the bank with its products. -/
theorem execTileMma_adds {s : State} {r : OpRef} {n : OpNow} {bk : Bank} (hnow : pressNow s r 4 = some n)
    (hfault : mmaFault s r n.stick n.op.block = none) (hown : ownBank s r n.op.block = some bk) :
    ∃ u, TileFrame s u r ∧ u.galleys = s.galleys ∧ execTileMma r s =
      .next (opPerformed (setBank u r n.op.block (mmaBank n.stick r.slug n.op.block bk s.free)) r) := by
  simp only [execTileMma, hnow, hfault, hown, countFor_free]
  generalize hu : countFor s (some n.stick.forme) .pressBusy _ = u
  have counted : TileFrame s u r := hu ▸ countFor_tileFrame ..
  have galleys : u.galleys = s.galleys := hu ▸ countFor_galleys ..
  refine ⟨_, ?_, ?_, rfl⟩
  · split
    · exact counted.trans (tileFrame_of_galleys r rfl (.refl _))
    · exact counted
  · split <;> exact galleys

theorem execTileMmaS_adds {s : State} {r : OpRef} {n : OpNow} {bk : Bank} (hnow : pressNow s r 5 = some n)
    (hfault : mmaSFault s r n.stick n.op.block = none) (hown : ownBank s r n.op.block = some bk) :
    ∃ u, TileFrame s u r ∧ u.galleys = s.galleys ∧ execTileMmaS r s =
      .next (opPerformed (setBank u r n.op.block (mmaSBank n.stick n.op.block bk)) r) := by
  simp only [execTileMmaS, hnow, hfault, hown]
  exact ⟨_, countFor_tileFrame .., countFor_galleys .., rfl⟩

/-- Of a bank whose windows are mapped, and whose terms become `terms`, nothing else changes. -/
theorem mapBank_frame (b : Bank) (f : Nat → Nat → Window → Window) (terms : Nat) :
    { mapBank b f with terms := terms } =
      { b with terms := terms, windows := ({ mapBank b f with terms := terms } : Bank).windows } := by
  rw [mapBank]

/-- The window at (i, j) has taken the products of row i of A and row j of B. -/
theorem bankWindow_mmaBank (t : Stick) (slug block : Nat) (bk : Bank) (d : Nat) {i j : Nat} (hi : i < 64) (hj : j < 32) :
    bankWindow (mmaBank t slug block bk d) (32 * i + j) =
      (bankWindow bk (32 * i + j)).mma bk.win (arrivals bk.win 128 (d + 128 * (32 * i + j))
        ((operandRow (operandBytes t slug (tbAReg block) (tbOpa block) (tileBytes (tbType block) 64 (tbK block)))
            (tbType block) (tbUA block) 64 (tbK block) i).zip
          (operandRow (operandBytes t slug (tbBReg block) (tbOpb block) (tileBytes (typeOfB t block) 32 (tbK block)))
            (typeOfB t block) (tbUB block) 32 (tbK block) j))) := by
  simp [mmaBank, bankWindow_mapBank _ _ _ hi hj, hi, hj]

theorem bankWindow_mmaSBank (t : Stick) (block : Nat) (bk : Bank) {i j : Nat} (hi : i < 64) (hj : j < 32) :
    let da := SliceDesc.ofNat (lsNat t (tbOpa block) 16)
    let db := SliceDesc.ofNat (lsNat t (tbOpb block) 16)
    let e := slicedExp t da i + slicedExp t db j + tbUA block + tbUB block
    bankWindow (mmaSBank t block bk) (32 * i + j) =
      (bankWindow bk (32 * i + j)).slicedSum da.s (e + 4 - 16 * (da.s : Int)) (e + 3)
        ((List.range (tbK block)).map (slicedElem t da 64 i)) ((List.range (tbK block)).map (slicedElem t db 32 j)) := by
  intro da db e
  simp [mmaSBank, bankWindow_mapBank _ _ _ hi hj, hi, hj, da, db, e]

/-- What is read after an operation has set its bank and made its effect. -/
theorem opPerformed_setBank {s u : State} {r : OpRef} {n : OpNow} {opc : Nat} (hnow : pressNow s r opc = some n)
    (frame : TileFrame s u r) (galleys : u.galleys = s.galleys) (b : Bank) :
    let t := opPerformed (setBank u r n.op.block b) r
    TileFrame s t r ∧ getStick t r.platen r.galley r.stick = some n.stick ∧
      getOp t r = some { n.op with started := true, performed := true } ∧
      mapGet (getPress t r (tbUnit n.op.block)).banks (tbBank n.op.block) = some b := by
  obtain ⟨hop, hstick⟩ := of_pressNow hnow
  have same : getGalley u r.platen r.galley = getGalley s r.platen r.galley := by simp [getGalley, galleys]
  have op : getOp u r = some n.op := by rw [getOp, same]; exact hop
  have stick : getStick u r.platen r.galley r.stick = some n.stick := by rw [getStick, same]; exact hstick
  refine ⟨(frame.trans (setBank_tileFrame ..)).trans (opPerformed_tileFrame ..), ?_, ?_, ?_⟩
  · simpa using stick
  · simp [op]
  · simp

/-- Settles O29: the operation leaves its bank mapped window by window, and each window reads its own row and column. The
order of the products in a block is the model's free draw (notes/assumptions/24.md). -/
theorem productsAreAddedToEveryWindow : Obligations.ProductsAreAddedToEveryWindow := by
  unfold Obligations.ProductsAreAddedToEveryWindow
  intro r n bk s hown b k adds
  refine ⟨fun hnow hfault => ?_, fun hnow hfault => ?_⟩
  · obtain ⟨u, frame, galleys, runs⟩ := execTileMma_adds hnow hfault hown
    obtain ⟨frame', stick, op, bank⟩ := opPerformed_setBank hnow frame galleys (mmaBank n.stick r.slug b bk s.free)
    exact ⟨_, _, runs, frame', stick, op, bank, mapBank_frame ..,
      fun i j hi hj => bankWindow_mmaBank n.stick r.slug b bk s.free hi hj⟩
  · obtain ⟨u, frame, galleys, runs⟩ := execTileMmaS_adds hnow hfault hown
    obtain ⟨frame', stick, op, bank⟩ := opPerformed_setBank hnow frame galleys (mmaSBank n.stick b bk)
    exact ⟨_, _, runs, frame', stick, op, bank, mapBank_frame ..,
      fun i j hi hj => bankWindow_mmaSBank n.stick b bk hi hj⟩

end Sys2Proof.Machine
end

section
/-! PROOFS. No access of memory or of a cache, no translation and no retirement starts an invalidation (08, 09; 10 R357;
18 R595). -/

namespace Sys2Proof.Machine

open Sys2Proof

section
variable {L : List Inval} {s : State}

/-! ## The shape of an operation -/

@[simp] theorem ite_invals_subset {c : Prop} [Decidable c] {a b : State} (ha : a.invals ⊆ L) (hb : b.invals ⊆ L) :
    (if c then a else b).invals ⊆ L := by
  split
  · exact ha
  · exact hb

theorem foldl_invals_subset {α : Type} {f : State → α → State} (hf : ∀ s a, s.invals ⊆ L → (f s a).invals ⊆ L)
    (l : List α) (h : s.invals ⊆ L) : (l.foldl f s).invals ⊆ L := by
  induction l generalizing s with
  | nil => exact h
  | cons a l ih => exact ih (hf s a h)

/-! ## What leaves the invalidations alone -/

@[simp] theorem countFor_invals (f : Option Nat) (c : Ctr) (n : Nat) : (countFor s f c n).invals = s.invals := by
  rw [(countFor_frame s f c n).1]

@[simp] theorem modPch_invals (k p : Nat) (g : Pch → Pch) : (modPch s k p g).invals = s.invals := by rw [modPch]; rfl

@[simp] theorem memRecord_invals (pa kind symbols source lanes : Nat) :
    (memRecord s pa kind symbols source lanes).invals = s.invals := by
  unfold memRecord; dsimp only; split <;> rfl

@[simp] theorem poisonSector_invals (pa : Nat) : (poisonSector s pa).invals = s.invals := by
  simp only [poisonSector, modPch_invals]; split <;> simp

@[simp] theorem memSlot_invals (pa : Nat) (prio write : Bool) : (memSlot s pa prio write).invals = s.invals := by
  simp only [memSlot, countFor_invals]; split <;> simp

@[simp] theorem laneDone_invals (k lane pa source : Nat) : (laneDone s k lane pa source).invals = s.invals := by
  simp [laneDone]

@[simp] theorem readFails_invals (pa kind symbols source : Nat) :
    (readFails s pa kind symbols source).1.invals = s.invals := by
  unfold readFails; dsimp only; repeat' split
  all_goals simp

@[simp] theorem setErrors_invals (pa : Nat) (p : List (Nat × Nat)) : (setErrors s pa p).invals = s.invals := by
  unfold setErrors; split <;> rfl

@[simp] theorem readTag_invals (pa source : Nat) (fixed left : List (Nat × Nat)) :
    (readTag s pa source fixed left).1.invals = s.invals := by
  unfold readTag
  split
  · dsimp only; split <;> simp
  · simp

@[simp] theorem readDecode_invals (pa source : Nat) : (readDecode s pa source).1.invals = s.invals := by
  unfold readDecode; dsimp only; repeat' split
  all_goals simp

@[simp] theorem burst_invals (pa : Nat) (data : List Byte) : (burst s pa data).invals = s.invals := by
  simp [burst, writeWhole]

@[simp] theorem mergeWrite_invals (pa mask : Nat) (data : List Byte) : (mergeWrite s pa mask data).invals = s.invals := by
  unfold mergeWrite; dsimp only; split <;> simp

@[simp] theorem noteRefusal_invals (k : Nat) : (noteRefusal s k).invals = s.invals := by
  unfold noteRefusal; dsimp only; repeat' split
  all_goals simp

@[simp] theorem letIn_invals (k p : Nat) : (letIn s k p).invals = s.invals := by
  unfold letIn; split <;> simp

@[simp] theorem heldPa_invals (k p : Nat) : (heldPa s k p).1.invals = s.invals := by
  unfold heldPa; split <;> rfl

/-! ## Retirement (18 R595) and memory (08) -/

@[simp] theorem retire_invals_subset (c : RetireCause) (h : s.invals ⊆ L) : (retire s c).invals ⊆ L := by
  unfold retire
  split
  · exact List.nil_subset L
  · exact h

@[simp] theorem laneMove_invals_subset (k p lane pa : Nat) (h : s.invals ⊆ L) : (laneMove s k p lane pa).invals ⊆ L := by
  simp [laneMove, h]

@[simp] theorem laneToSpare_invals_subset (k p lane pa source : Nat) (h : s.invals ⊆ L) :
    (laneToSpare s k p lane pa source).invals ⊆ L := by
  simp [laneToSpare, h]

@[simp] theorem sectorRead_invals_subset (source : Nat) (prio : Bool) (pa : Nat) (h : s.invals ⊆ L) :
    (sectorRead source prio pa s).1.invals ⊆ L := by
  unfold sectorRead; dsimp only; split <;> simp [h]

@[simp] theorem sectorWrite_invals_subset (pa mask : Nat) (data : List Byte) (h : s.invals ⊆ L) :
    (sectorWrite pa mask data s).invals ⊆ L := by
  unfold sectorWrite; dsimp only; repeat' split
  all_goals simp [h]

@[simp] theorem serve_invals_subset (r : MemReq) (h : s.invals ⊆ L) : (serve s r).invals ⊆ L := by
  unfold serve; split <;> simp [h]

@[simp] theorem serveFor_invals_subset (n k p : Nat) (h : s.invals ⊆ L) : (serveFor n s k p).invals ⊆ L := by
  induction n generalizing s with
  | zero => exact h
  | succ n ih =>
    unfold serveFor
    split
    · exact h
    · exact ih (by simp [h])

@[simp] theorem serveQueue_invals_subset (k p : Nat) (h : s.invals ⊆ L) : (serveQueue s k p).invals ⊆ L := by
  simp [serveQueue, h]

@[simp] theorem serveBefore_invals_subset (n k p : Nat) (r : MemReq) (h : s.invals ⊆ L) :
    (serveBefore n s k p r).invals ⊆ L := by
  induction n generalizing s with
  | zero => exact h
  | succ n ih =>
    unfold serveBefore
    split
    · exact h
    · exact ite_invals_subset (by simp [h]) (ih (by simp [h]))

/-- An access that takes its turn starts no invalidation where its own act starts none. -/
theorem inTurn_invals_subset {α : Type} {r : MemReq} {act : State → State × α}
    (hact : ∀ s, s.invals ⊆ L → (act s).1.invals ⊆ L) (h : s.invals ⊆ L) : (inTurn s r act).1.invals ⊆ L := by
  unfold inTurn
  dsimp only
  split
  · exact hact s h
  · exact serveQueue_invals_subset _ _ (hact _ (by simp [enqueue, h]))

@[simp] theorem goOn_invals_subset (k p : Nat) (held : Option MemReq) (h : s.invals ⊆ L) :
    (goOn s k p held).invals ⊆ L := by
  have reissued : (reissue (modPch s k p Pch.sound) k p).invals ⊆ L := by
    unfold reissue
    exact foldl_invals_subset (fun _ _ h => by simp [writeWhole, h]) _ (by simp [h])
  unfold goOn
  dsimp only
  split <;> simp [reissued]

@[simp] theorem endRecovery_invals_subset (k p lane : Nat) (h : s.invals ⊆ L) : (endRecovery s k p lane).invals ⊆ L := by
  simp [endRecovery, h]

@[simp] theorem wakeStack_invals_subset (k : Nat) (but : Option Nat) (h : s.invals ⊆ L) :
    (wakeStack s k but).invals ⊆ L :=
  ite_invals_subset (foldl_invals_subset (fun _ _ h => by simp [serveFree, h]) _ h) h

@[simp] theorem unblock_invals_subset (k p : Nat) (h : s.invals ⊆ L) : (unblock s k p).invals ⊆ L := by
  have woken := wakeStack_invals_subset k (some p) h
  unfold unblock recoverLane
  split
  · exact woken
  · exact ite_invals_subset (by simp [woken]) (ite_invals_subset (by simp [woken]) (by simp [woken]))

@[simp] theorem homeRead_invals_subset (source : Nat) (prio : Bool) (pa : Nat) (h : s.invals ⊆ L) :
    (homeRead source prio pa s).1.invals ⊆ L := by
  unfold homeRead
  split
  · simp [h]
  · exact inTurn_invals_subset (fun _ h => sectorRead_invals_subset _ _ _ h) (by simp [h])

theorem writeInTurn_invals_subset {pa mask : Nat} {data : List Byte} {act : State → State}
    (hact : ∀ s, s.invals ⊆ L → (act s).invals ⊆ L) (h : s.invals ⊆ L) :
    (writeInTurn pa mask data act s).invals ⊆ L :=
  inTurn_invals_subset hact (by simp [h])

@[simp] theorem homeWrite_invals_subset (pa mask : Nat) (data : List Byte) (h : s.invals ⊆ L) :
    (homeWrite pa mask data s).invals ⊆ L :=
  ite_invals_subset (by simp [h]) (writeInTurn_invals_subset (fun _ h => sectorWrite_invals_subset _ _ _ h) h)

@[simp] theorem homeWriteSector_invals_subset (pa : Nat) (poisoned : Bool) (data : List Byte) (h : s.invals ⊆ L) :
    (homeWriteSector pa poisoned data s).invals ⊆ L :=
  ite_invals_subset
    (ite_invals_subset (by simp [h]) (writeInTurn_invals_subset (fun _ h => by simp [poisonBurst, h]) h))
    (by simp [h])

@[simp] theorem homeReadLine_invals_subset (prio : Bool) (pa : Nat) (h : s.invals ⊆ L) :
    (homeReadLine prio pa s).1.invals ⊆ L := by
  unfold homeReadLine; split <;> simp [h]

@[simp] theorem homeWriteLine_invals_subset (pa : Nat) (d : LineData) (h : s.invals ⊆ L) :
    (homeWriteLine pa d s).invals ⊆ L := by
  simp [homeWriteLine, h]

/-! ## The Gutter, lines and the directory (01, 09) -/

@[simp] theorem gutMessage_invals (f : Option Nat) (src dst : Nat) (bulk : Bool) (kind bytes : Nat) :
    (gutMessage s f src dst bulk kind bytes).invals = s.invals := by rw [gutMessage]

@[simp] theorem carryRequest_invals (ln : Nat) (r : Req) : (carryRequest s ln r).invals = s.invals := by rw [carryRequest]

@[simp] theorem launchRequest_invals (ln : Nat) (r : Req) : (launchRequest s ln r).invals = s.invals := by rw [launchRequest]

theorem parkRequest_invals {t : State} (h : parkRequest s = some t) : t.invals = s.invals := by
  obtain ⟨q, -, rfl⟩ := Option.map_eq_some_iff.mp h
  rfl

@[simp] theorem parkRequests_invals (n : Nat) : (parkRequests n s).invals = s.invals := by
  induction n generalizing s with
  | zero => rfl
  | succ n ih =>
    unfold parkRequests
    split
    · exact ih.trans (parkRequest_invals ‹_›)
    · rfl

theorem arrivedRequest_invals {x : State × Nat × Req} (h : arrivedRequest s = some x) : x.1.invals = s.invals := by
  obtain ⟨q, -, rfl⟩ := Option.map_eq_some_iff.mp h
  exact parkRequests_invals _

@[simp] theorem dropLine_invals (agent ln : Nat) : (dropLine s agent ln).invals = s.invals := by
  unfold dropLine; dsimp only; split <;> rfl

@[simp] theorem dirPut_invals (ln : Nat) (st : DirState) (owner : Nat) (holders : List Nat) :
    (dirPut s ln st owner holders).invals = s.invals := by
  unfold dirPut; split <;> rfl

@[simp] theorem dirClear_invals (ln agent : Nat) : (dirClear s ln agent).invals = s.invals := by
  unfold dirClear
  split
  · rfl
  · dsimp only; split <;> simp

@[simp] theorem caseCtr_invals (agent : Nat) (c : Ctr) (n : Nat) : (caseCtr s agent c n).invals = s.invals := by
  unfold caseCtr; split <;> simp

@[simp] theorem countNp_invals (ln : Nat) : (countNp s ln).invals = s.invals := by simp [countNp]

@[simp] theorem putTxn_invals (ln : Nat) (t : Option Txn) : (putTxn s ln t).invals = s.invals := by unfold putTxn; rfl

@[simp] theorem performed_invals (ln : Nat) (t : Txn) : (performed s ln t).invals = s.invals := by rw [performed]; rfl

@[simp] theorem caseCheck_invals_subset (agent ln : Nat) (prio : Bool) (h : s.invals ⊆ L) :
    (caseCheck s agent ln prio).invals ⊆ L := by
  unfold caseCheck
  dsimp only
  repeat' split
  all_goals simp [State.drawn, h]

@[simp] theorem purgeOne_invals_subset (ln a : Nat) (h : s.invals ⊆ L) : (purgeOne ln s a).invals ⊆ L := by
  have checked : (caseCheck (gutMessage s (lineForme s ln) (lineHome ln) a false 1 0) a ln false).invals ⊆ L :=
    caseCheck_invals_subset _ _ _ h
  unfold purgeOne
  dsimp only
  repeat' split
  all_goals simp [checked]

@[simp] theorem purgeLine_invals_subset (ln : Nat) (agents : List Nat) (h : s.invals ⊆ L) :
    (purgeLine s ln agents).invals ⊆ L :=
  foldl_invals_subset (fun _ _ h => purgeOne_invals_subset _ _ h) _ h

@[simp] theorem dirRepair_invals_subset (ln : Nat) (h : s.invals ⊆ L) : (dirRepair s ln).invals ⊆ L := by
  unfold dirRepair
  split
  · exact ite_invals_subset (by simp [h]) h
  · exact h

@[simp] theorem dirEvict_invals_subset (v : Nat × DirEntry) (h : s.invals ⊆ L) : (dirEvict s v).invals ⊆ L :=
  ite_invals_subset (by simp [h]) (by simp [h])

@[simp] theorem dirRoom_invals_subset (ln : Nat) (h : s.invals ⊆ L) : (dirRoom s ln).invals ⊆ L := by
  have repaired (l : SMap DirEntry) : (l.foldl (fun s kv => dirRepair s kv.1) s).invals ⊆ L :=
    foldl_invals_subset (fun _ _ h => dirRepair_invals_subset _ h) l h
  unfold dirRoom
  dsimp only
  repeat' split
  all_goals simp [h, repaired]

@[simp] theorem dirEnter_invals_subset (ln : Nat) (st : DirState) (owner : Nat) (holders : List Nat) (h : s.invals ⊆ L) :
    (dirEnter s ln st owner holders).invals ⊆ L := by
  simp [dirEnter, h]

@[simp] theorem dirReserve_invals_subset (ln agent : Nat) (h : s.invals ⊆ L) : (dirReserve s ln agent).invals ⊆ L := by
  simp [dirReserve, h]

@[simp] theorem dirAdd_invals_subset (ln agent : Nat) (h : s.invals ⊆ L) : (dirAdd s ln agent).invals ⊆ L := by
  unfold dirAdd; split <;> simp [h]

@[simp] theorem dirOwned_invals_subset (ln agent : Nat) (t : Txn) (h : s.invals ⊆ L) :
    (dirOwned s ln agent t).invals ⊆ L := dirEnter_invals_subset _ _ _ _ h

/-! ## Transactions at the home (09) -/

@[simp] theorem grantData_invals_subset (ln : Nat) (t : Txn) (g : GrantKind) (h : s.invals ⊆ L) :
    (grantData s ln t g).invals ⊆ L :=
  ite_invals_subset h (by simp [h])

@[simp] theorem finishWrite_invals_subset (ln : Nat) (t : Txn) (data : List Byte) (h : s.invals ⊆ L) :
    (finishWrite s ln t data).invals ⊆ L := by
  simp [finishWrite, h]

@[simp] theorem pushLine_invals_subset (ln : Nat) (t : Txn) (target : Nat) (data : List Byte) (h : s.invals ⊆ L) :
    (pushLine s ln t target data).invals ⊆ L := by
  simp [pushLine, h]

@[simp] theorem mergeHalf_invals_subset (ln mask : Nat) (data : List Byte) (dirty : Option (List Byte × Bool × Bool)) (o : Nat)
    (h : s.invals ⊆ L) : (mergeHalf ln mask data dirty s o).invals ⊆ L := by
  unfold mergeHalf; dsimp only; split <;> split <;> simp [h]

@[simp] theorem homeProceed_invals_subset (ln : Nat) (h : s.invals ⊆ L) : (homeProceed s ln).invals ⊆ L := by
  have merged (x : Txn) (mask : Nat) (data : List Byte) :
      (mergeHalf ln mask data x.dirty (mergeHalf ln mask data x.dirty s 0) 64).invals ⊆ L := by simp [h]
  unfold homeProceed
  dsimp only
  repeat' split
  all_goals simp [dropHint, merged, h]

@[simp] theorem homeStart_invals_subset (ln : Nat) (r : Req) (queue : List Req) (msgs : List Msg) (h : s.invals ⊆ L) :
    (homeStart s ln r queue msgs).invals ⊆ L := by
  have repaired := dirRepair_invals_subset ln h
  have started {u : State} (t : Txn) (hu : u.invals ⊆ L) : (homeProceed (setTxn u ln t) ln).invals ⊆ L :=
    homeProceed_invals_subset ln hu
  unfold homeStart
  dsimp only
  repeat' split
  all_goals simp [started, repaired]

@[simp] theorem homeRun_invals_subset (n ln : Nat) (h : s.invals ⊆ L) : (homeRun n s ln).invals ⊆ L := by
  induction n generalizing s with
  | zero => exact h
  | succ n ih =>
    unfold homeRun
    repeat' split
    all_goals simp [h, ih]

@[simp] theorem homeGo_invals_subset (ln : Nat) (h : s.invals ⊆ L) : (homeGo s ln).invals ⊆ L := by
  unfold homeGo; dsimp only; split <;> simp [h]

@[simp] theorem homeArrive_invals_subset (ln : Nat) (r : Req) (h : s.invals ⊆ L) : (homeArrive s ln r).invals ⊆ L := by
  unfold homeArrive
  repeat' split
  all_goals simp [h]

@[simp] theorem homeAccept_invals_subset (ln : Nat) (r : Req) (h : s.invals ⊆ L) : (homeAccept s ln r).invals ⊆ L := by
  unfold homeAccept
  repeat' split
  all_goals simp [h]

@[simp] theorem homeNext_invals_subset (ln : Nat) (h : s.invals ⊆ L) : (homeNext s ln).invals ⊆ L := by
  unfold homeNext; split
  · exact h
  · exact homeRun_invals_subset _ _ h

/-! ## Lines that enter and leave a cache (09) -/

@[simp] theorem evictLine_invals_subset (agent ln : Nat) (h : s.invals ⊆ L) : (evictLine s agent ln).invals ⊆ L := by
  unfold evictLine
  dsimp only
  repeat' split
  all_goals simp [setLine, h]

@[simp] theorem chooseWay_invals_subset (agent ln : Nat) (group : Option Nat) (h : s.invals ⊆ L) :
    (chooseWay s agent ln group).1.invals ⊆ L := by
  unfold chooseWay
  dsimp only
  repeat' split
  all_goals simp [State.drawn, h]

@[simp] theorem fillLine_invals_subset (agent ln : Nat) (st : LineState) (d : LineData) (group : Option Nat)
    (h : s.invals ⊆ L) : (fillLine s agent ln st d group).invals ⊆ L := by
  unfold fillLine; dsimp only; split <;> simp [touchWay, h]

/-! ## Messages and their delivery (09) -/

@[simp] theorem removeMsg_invals (ln : Nat) (m : Msg) : (removeMsg s ln m).invals = s.invals := by
  unfold removeMsg; split <;> simp

@[simp] theorem sendMsg_invals (ln : Nat) (m : Msg) : (sendMsg s ln m).invals = s.invals := by
  unfold sendMsg; split <;> simp

@[simp] theorem answered_invals (ln agent : Nat) : (answered s ln agent).invals = s.invals := by
  unfold answered; split <;> simp

@[simp] theorem markForwarded_invals (ln : Nat) : (markForwarded s ln).invals = s.invals := by
  unfold markForwarded; split <;> simp

@[simp] theorem answerNp_invals (ln agent : Nat) : (answerNp s ln agent).invals = s.invals := by simp [answerNp]

@[simp] theorem snoopLine_invals_subset (ln : Nat) (k : SnpKind) (agent : Nat) (r : Req) (l : Line) (h : s.invals ⊆ L) :
    (snoopLine s ln k agent r l).invals ⊆ L := by
  unfold snoopLine afterShared
  dsimp only
  repeat' split
  all_goals simp [setLine, h]

@[simp] theorem snoopAgent_invals_subset (ln : Nat) (k : SnpKind) (agent : Nat) (push : List Byte) (h : s.invals ⊆ L) :
    (snoopAgent s ln k agent push).invals ⊆ L := by
  unfold snoopAgent
  dsimp only
  repeat' split
  all_goals simp [h]

@[simp] theorem takeGrant_invals_subset (ln agent : Nat) (g : GrantKind) (d : LineData) (forwarded : Bool)
    (h : s.invals ⊆ L) : (takeGrant s ln agent g d forwarded).invals ⊆ L := by
  unfold takeGrant takeOwned
  dsimp only
  repeat' split
  all_goals simp [h]

@[simp] theorem takeComp_invals_subset (ln agent : Nat) (k : GrantKind) (r : Req) (h : s.invals ⊆ L) :
    (takeComp s ln agent k r).invals ⊆ L := by
  simp [takeComp, h]

@[simp] theorem takeDone_invals_subset (ln agent : Nat) (t : Txn) (h : s.invals ⊆ L) :
    (takeDone s ln agent t).invals ⊆ L := by
  unfold takeDone
  dsimp only
  repeat' split
  all_goals simp [h]

@[simp] theorem pushAnswered_invals_subset (ln agent : Nat) (taken : Bool) (h : s.invals ⊆ L) :
    (pushAnswered s ln agent taken).invals ⊆ L := by
  unfold pushAnswered
  dsimp only
  repeat' split
  all_goals simp [h]

@[simp] theorem deliver_invals_subset (ln : Nat) (m : Msg) (h : s.invals ⊆ L) : (deliver s ln m).invals ⊆ L := by
  unfold deliver
  dsimp only
  repeat' split
  all_goals simp [h]

theorem settleStep_invals_subset {ln : Nat} {t : State} (ht : settleStep s ln = some t) (h : s.invals ⊆ L) :
    t.invals ⊆ L := by
  unfold settleStep at ht
  split at ht
  · cases ht; simp [h]
  · split at ht
    · cases ht; simp [h]
    · split at ht
      · split at ht
        · cases ht; simp [arrivedRequest_invals ‹_›, h]
        · obtain ⟨k, -, hk⟩ := Option.bind_eq_some_iff.mp ht
          obtain ⟨m, -, rfl⟩ := Option.map_eq_some_iff.mp hk
          simp [h]
      · cases ht

@[simp] theorem settle_invals_subset (ln : Nat) (h : s.invals ⊆ L) : (settle s ln).invals ⊆ L := by
  unfold settle
  generalize settleFuel s = n
  induction n generalizing s with
  | zero => exact h
  | succ n ih =>
    unfold settleFor
    split
    · exact ih (settleStep_invals_subset ‹_› h)
    · exact h

/-! ## Accesses of a cache, and translations (09, 10) -/

@[simp] theorem request_invals_subset (ln : Nat) (r : Req) (h : s.invals ⊆ L) : (request s ln r).invals ⊆ L :=
  settle_invals_subset ln (by simp [h])

@[simp] theorem hitLine_invals (agent ln : Nat) (l : Line) : (hitLine s agent ln l).invals = s.invals := by
  simp [hitLine, touchWay, lookup]

@[simp] theorem acquireOwned_invals_subset (agent ln : Nat) (whole : Bool) (group : Option Nat) (h : s.invals ⊆ L) :
    (acquireOwned s agent ln whole group).invals ⊆ L := by
  unfold acquireOwned
  dsimp only
  repeat' split
  all_goals simp [lookup, h]

@[simp] theorem cacheWrite_invals_subset (agent ln mask : Nat) (data : List Byte) (group : Option Nat) (h : s.invals ⊆ L) :
    (cacheWrite s agent ln mask data group).invals ⊆ L := by
  have checked : (caseCheck (settle s ln) agent ln false).invals ⊆ L := by simp [h]
  unfold cacheWrite
  dsimp only
  repeat' split
  all_goals simp [checked, h]

@[simp] theorem fillCached_invals (f : Nat) (e : Engine) (id : Nat) : (fillCached s f e id).invals = s.invals := by
  rw [fillCached, setCached]

/-- The sectors of one group, read in turn. -/
theorem readGroup_invals_subset (base : Nat) (l : List Nat) (h : s.invals ⊆ L) :
    (l.foldl (fun s i => (homeRead 1 true (base + 64 * i) s).1) s).invals ⊆ L :=
  foldl_invals_subset (fun _ i h => homeRead_invals_subset 1 true (base + 64 * i) h) l h

@[simp] theorem walkRead_invals_subset (fid die : Nat) (f : Forme) (va : Nat) (h : s.invals ⊆ L) :
    (walkRead s fid die f va).invals ⊆ L := by
  rw [walkRead, gutMessage_invals]
  exact readGroup_invals_subset _ _ (by simp [h])

@[simp] theorem translate_invals_subset (a : Access) (va : Nat) (h : s.invals ⊆ L) : (translate s a va).1.invals ⊆ L := by
  unfold translate
  dsimp only
  repeat' split
  all_goals simp [h]

/-! ## The end of a stick (06 R213, R220) -/

@[simp] theorem clearLockWord_invals_subset (p g k : Nat) (t : Stick) (x : LockHeld) (h : s.invals ⊆ L) :
    (clearLockWord s p g k t x).invals ⊆ L := by
  unfold clearLockWord
  dsimp only
  repeat' split
  all_goals simp [modStick, l1Update, h]

end

end Sys2Proof.Machine
end

section
/-! PROOFS. The end of an attempt, and the commit swap (05 R157, R165, R166; 10 R343). -/

namespace Sys2Proof.Machine

open Sys2Proof

/-! ## What stopping sticks may change (06 R220) -/

/-- A forme but for its counters and its fault records. -/
def unfaulted (x : Forme) : Forme := { x with counters := [], faults := [] }

/-- Of every forme only the counters and the fault records may differ, and no invalidation has started. -/
def StopFrame (s t : State) : Prop :=
  (∀ f, (getForme t f).map unfaulted = (getForme s f).map unfaulted) ∧ t.invals ⊆ s.invals

theorem StopFrame.refl (s : State) : StopFrame s s := ⟨fun _ => rfl, List.Subset.refl _⟩

theorem StopFrame.trans {s t u : State} (h : StopFrame s t) (k : StopFrame t u) : StopFrame s u :=
  ⟨fun f => (k.1 f).trans (h.1 f), List.Subset.trans k.2 h.2⟩

theorem StopFrame.ite {c : Prop} [Decidable c] {s a b : State} (ha : StopFrame s a) (hb : StopFrame s b) :
    StopFrame s (if c then a else b) := by
  split
  · exact ha
  · exact hb

theorem StopFrame.foldl {α : Type} {f : State → α → State} (hf : ∀ s a, StopFrame s (f s a)) (l : List α) (s : State) :
    StopFrame s (l.foldl f s) := by
  induction l generalizing s with
  | nil => exact .refl s
  | cons a l ih => exact (hf s a).trans (ih _)

theorem StopFrame.of_counters {s t : State} (h : OnlyCounters s t) (i : t.invals ⊆ s.invals) : StopFrame s t := by
  refine ⟨fun f => ?_, i⟩
  have g : unfaulted = unfaulted ∘ uncounted := rfl
  rw [g, ← Option.map_map, h f, Option.map_map]

/-- What is read of a forme but for its counters and fault records is the same after it. -/
theorem StopFrame.forme {s t : State} (h : StopFrame s t) {f : Nat} {x : Forme} (hx : getForme s f = some x) :
    ∃ y, getForme t f = some y ∧ unfaulted y = unfaulted x := by
  have := h.1 f
  rw [hx, Option.map_some, Option.map_eq_some_iff] at this
  exact this

/-- A change of the galleys. -/
theorem modGalley_stopFrame (s : State) (p g : Nat) (f : Galley → Galley) : StopFrame s (modGalley s p g f) := .refl s

theorem countFor_stopFrame (s : State) (f : Option Nat) (c : Ctr) (n : Nat) : StopFrame s (countFor s f c n) :=
  .of_counters (countFor_frame s f c n).2 (by simp)

/-- A change of fault records alone. -/
theorem modForme_stopFrame (s : State) (f : Nat) {g : Forme → Forme} (hg : ∀ x, unfaulted (g x) = unfaulted x) :
    StopFrame s (modForme s f g) :=
  ⟨fun k => map_mapMod s.formes f g unfaulted hg k, List.Subset.refl _⟩

theorem dropWaiters_stopFrame (s : State) (test : Waiter → Bool) : StopFrame s (dropWaiters s test) := by
  refine ⟨fun f => ?_, List.Subset.refl _⟩
  have dropped := mapGet_map s.formes (fun _ x => ({ x with faults := x.faults.map (fun r =>
    { r with waiters := r.waiters.filter (fun w => !test w.1) }) } : Forme)) f
  exact (congrArg _ dropped).trans (Option.map_map ..)

theorem countWaits_stopFrame (s : State) (p g k : Nat) : StopFrame s (countWaits s p g k) := by
  unfold countWaits
  split
  · exact .refl s
  · refine .foldl (fun u x => ?_) _ s
    split
    · exact countFor_stopFrame u.drawn _ _ _
    · exact .refl u

theorem clearLockWord_stopFrame (s : State) (p g k : Nat) (t : Stick) (h : LockHeld) :
    StopFrame s (clearLockWord s p g k t h) := by
  refine .of_counters ?_ (clearLockWord_invals_subset _ _ _ _ _ (List.Subset.refl _))
  have translated := translate_counters s (stickAccess t p g 1) h.addr
  unfold clearLockWord
  split
  · exact .refl s
  · dsimp only
    split
    · exact translated
    · exact translated.trans (cacheWrite_within ..).counters

theorem releaseLocks_stopFrame (s : State) (p g k : Nat) : StopFrame s (releaseLocks s p g k) := by
  unfold releaseLocks
  split
  · exact .refl s
  · exact (StopFrame.foldl (fun _ _ => clearLockWord_stopFrame ..) _ s).trans (modGalley_stopFrame ..)

theorem endOps_stopFrame (s : State) (p g k : Nat) : StopFrame s (endOps s p g k) :=
  (dropWaiters_stopFrame s _).trans (modGalley_stopFrame ..)

theorem freeUnheld_stopFrame (s : State) (p g k : Nat) : StopFrame s (freeUnheld s p g k) := by
  unfold freeUnheld
  split
  · exact .refl s
  · exact .ite ((endOps_stopFrame ..).trans (modGalley_stopFrame ..)) (.refl s)

/-- What a stopped stick holds is let go. -/
theorem letGo_stopFrame (s : State) (p g k : Nat) :
    StopFrame s (freeUnheld (endOps (discardBanks (releaseLocks s p g k) p g k) p g k) p g k) :=
  (((releaseLocks_stopFrame s p g k).trans (modGalley_stopFrame ..)).trans (endOps_stopFrame ..)).trans
    (freeUnheld_stopFrame ..)

theorem stickStop_stopFrame (s : State) (p g k : Nat) : StopFrame s (stickStop s p g k) := by
  unfold stickStop
  split
  · exact .refl s
  · rename_i t _
    have counted : StopFrame s (if t.dead then s else countWaits s p g k) := .ite (.refl s) (countWaits_stopFrame ..)
    have stopped := counted.trans
      (letGo_stopFrame (modStick (if t.dead then s else countWaits s p g k) p g k (fun t => { t with dead := true })) p g k)
    exact .ite stopped (stopped.trans (countFor_stopFrame ..))

theorem finishStops_stopFrame (s : State) (fid : Nat) : StopFrame s (finishStops s fid) :=
  .foldl (fun _ _ => .foldl (fun _ _ => .ite (stickStop_stopFrame ..) (.refl _)) _ _) _ s

theorem resolveEntries_stopFrame (s : State) (f : Nat) (ids : List Nat) : StopFrame s (resolveEntries s f ids) :=
  modForme_stopFrame s f fun _ => rfl

/-! ## What is read of a pass -/

theorem seq_of_getPass {s : State} {f seq : Nat} {q : Pass} (h : getPass s f seq = some q) : q.seq = seq := by
  obtain ⟨x, -, hx⟩ := Option.bind_eq_some_iff.mp h
  simpa using List.find?_some hx

theorem getPass_of_forme {s : State} {f seq : Nat} {x : Forme} (h : getForme s f = some x) :
    getPass s f seq = x.passes.find? (fun p => p.seq = seq) := by rw [getPass, h, Option.bind_some]

/-- States whose formes have the same passes have the same passes. -/
theorem getPass_congr {s t : State} {f : Nat} (h : (getForme t f).map (·.passes) = (getForme s f).map (·.passes)) (seq : Nat) :
    getPass t f seq = getPass s f seq := by
  have byMap (u : State) : getPass u f seq = ((getForme u f).map (·.passes)).bind (List.find? (fun p => p.seq = seq)) := by
    rw [getPass, Option.bind_map]; rfl
  rw [byMap, byMap, h]

/-- A pass that is replaced under its own number. -/
theorem getPass_modPass {s : State} {f seq : Nat} {q r : Pass} (h : getPass s f seq = some q) (hr : r.seq = seq) :
    getPass (modPass s f seq (fun _ => r)) f seq = some r := by
  obtain ⟨x, hx, hq⟩ := Option.bind_eq_some_iff.mp h
  have same : (fun p : Pass => decide (p.seq = seq)) ∘ (fun p => if p.seq = seq then r else p) = fun p => decide (p.seq = seq) := by
    funext p
    by_cases hp : p.seq = seq <;> simp [hp, hr]
  rw [modPass, getPass_of_forme (x := { x with passes := x.passes.map (fun p => if p.seq = seq then r else p) }) (by simp [hx]),
    List.find?_map, same, hq, Option.map_some, if_pos (seq_of_getPass h)]

/-- What of a forme is not its passes a change of a pass leaves. -/
theorem map_getForme_modPass {β : Type} {π : Forme → β} (hπ : ∀ x l, π { x with passes := l } = π x) (s : State)
    (f seq : Nat) (g : Pass → Pass) (k : Nat) : (getForme (modPass s f seq g) k).map π = (getForme s k).map π :=
  map_mapMod _ _ _ _ (fun _ => hπ _ _) k

theorem map_getForme_modLayer {β : Type} {π : Forme → β} (hπ : ∀ x p, π { x with plate := p } = π x) (s : State)
    (f n : Nat) (g : Layer → Layer) (k : Nat) : (getForme (modLayer s f n g) k).map π = (getForme s k).map π :=
  map_mapMod _ _ _ _ (fun _ => hπ _ _) k

/-- What of a forme is not its mailbox the end of a command leaves. -/
theorem map_getForme_finish {β : Type} {π : Forme → β} (hπ : ∀ x m, π { x with coreMbox := m } = π x) (s : State)
    (mb : MboxId) (k st detail result f : Nat) :
    (getForme (finish s mb k st detail result) f).map π = (getForme s f).map π := by
  cases mb with
  | host p => rfl
  | core c => exact map_mapMod _ _ _ _ (fun _ => hπ _ _) f

@[simp] theorem finish_invals (s : State) (mb : MboxId) (k st detail result : Nat) :
    (finish s mb k st detail result).invals = s.invals := by cases mb <;> rfl

/-! ## A pass that ends -/

theorem getPass_endPass {s : State} {q r : Pass} (st : Nat) (h : getPass s q.forme q.seq = some r) :
    getPass (endPass s q st) q.forme q.seq = some { q with phase := .ended, status := st } := by
  have ended := getPass_modPass (r := { q with phase := .ended, status := st }) h rfl
  unfold endPass
  dsimp only
  split
  · rwa [getPass_congr (map_getForme_finish (fun _ _ => rfl) ..)]
  · exact ended

theorem map_ranges_endPass (s : State) (q : Pass) (st f : Nat) :
    (getForme (endPass s q st) f).map (·.ranges) = (getForme s f).map (·.ranges) := by
  have ended := map_getForme_modPass (π := (·.ranges)) (fun _ _ => rfl) s q.forme q.seq
    (fun _ => { q with phase := .ended, status := st }) f
  unfold endPass
  dsimp only
  split
  · rwa [map_getForme_finish (π := (·.ranges)) (fun _ _ => rfl)]
  · exact ended

@[simp] theorem endPass_invals (s : State) (q : Pass) (st : Nat) : (endPass s q st).invals = s.invals := by
  unfold endPass; dsimp only; split <;> simp [modPass]

/-- The pass as its commit leaves it (05 R166). -/
theorem getPass_completePass {s : State} {q r : Pass} (h : getPass s q.forme q.seq = some r) :
    getPass (completePass s q) q.forme q.seq =
      some { q.committing with phase := .ended, status := q.committing.commitStatus } := by
  refine getPass_endPass (q := q.committing) (r := r) _ ?_
  rwa [getPass_congr (map_getForme_modLayer (fun _ _ => rfl) ..)]

theorem map_ranges_completePass (s : State) (q : Pass) (f : Nat) :
    (getForme (completePass s q) f).map (·.ranges) = (getForme s f).map (·.ranges) :=
  (map_ranges_endPass ..).trans (map_getForme_modLayer (π := (·.ranges)) (fun _ _ => rfl) ..)

@[simp] theorem completePass_invals (s : State) (q : Pass) : (completePass s q).invals = s.invals := by
  simp [completePass, modLayer]

/-! ## Range entries that change (10 R347, R357) -/

/-- Lumiz's writes of its sectors end marks and errors there, and change nothing else. -/
theorem foldl_reservedWritten_frame (g : Nat → Nat) (l : List Nat) (s : State) :
    ∃ poison errors, l.foldl (fun s i => reservedWritten s (g i)) s = { s with poison := poison, errors := errors } := by
  induction l generalizing s with
  | nil => exact ⟨_, _, rfl⟩
  | cons i l ih => exact ih (reservedWritten s (g i))

theorem modRanges_frame {s : State} {fid : Nat} {f : Forme} (h : getForme s fid = some f)
    (g : List RangeEntry → List RangeEntry) : ∃ poison errors, modRanges s fid g =
      { s with formes := mapSet s.formes fid { f with ranges := g f.ranges }, poison := poison, errors := errors } := by
  simp only [modRanges, h]
  exact foldl_reservedWritten_frame ..

/-- Entries enter a state, and one invalidation of them goes to every Platen of the forme and both Compositors. -/
theorem startInval_starts {s : State} {fid : Nat} {f : Forme} (h : getForme s fid = some f) (ids : List Nat) (st : RangeState)
    (purpose : InvPurpose) : ∃ i es, getForme (startInval s fid ids st purpose) fid = some { f with ranges := es } ∧
      (startInval s fid ids st purpose).invals = s.invals ++ [i] ∧ i.purpose = purpose ∧ i.toAck = f.platens ++ [6, 7] ∧
      i.ids = ids := by
  obtain ⟨poison, errors, frame⟩ := modRanges_frame h
    (fun es => es.map (fun e => if ids.contains e.id then { e with state := st, mapTime := s.now } else e))
  simp only [startInval, h, frame]
  exact ⟨_, _, mapGet_mapSet_self .., rfl, rfl, rfl, rfl⟩

/-! ## The records of an attempt (05 R165) -/

/-- A change of records that leaves what tells them apart, and their counts, leaves which bindings are over. -/
theorem isOver_mark {f : StatRec → StatRec}
    (hf : ∀ r, (f r).attempt = r.attempt ∧ (f r).binding = r.binding ∧ (f r).stats = r.stats) (q : Pass)
    (test : StatRec → Bool) (b : Nat) : (q.mark test f).isOver b = q.isOver b := by
  have kept (r : StatRec) : let x := if r.attempt = q.attempt ∧ test r then f r else r
      x.attempt = r.attempt ∧ x.binding = r.binding ∧ x.stats = r.stats := by
    dsimp only
    split
    · exact hf r
    · exact ⟨rfl, rfl, rfl⟩
  have counts : ((q.mark test f).recordOf b).map (·.stats) = (q.recordOf b).map (·.stats) := by
    simp only [Pass.recordOf, Pass.current, Pass.mark, List.filter_map, List.find?_map, Option.map_map, Function.comp_def,
      fun r => (kept r).1, fun r => (kept r).2.1, fun r => (kept r).2.2]
  have outs : (q.mark test f).outs = q.outs := rfl
  cases hy : q.recordOf b with
  | none =>
    rw [hy, Option.map_none, Option.map_eq_none_iff] at counts
    simp only [Pass.isOver, outs, counts, hy]
  | some r =>
    rw [hy, Option.map_some, Option.map_eq_some_iff] at counts
    obtain ⟨x, hx, same⟩ := counts
    simp only [Pass.isOver, outs, hx, hy]
    cases q.outs[b]? with
    | none => rfl
    | some o => simp only [same]

theorem canRaise_mark {f : StatRec → StatRec}
    (hf : ∀ r, (f r).attempt = r.attempt ∧ (f r).binding = r.binding ∧ (f r).stats = r.stats) (q : Pass)
    (test : StatRec → Bool) (l : Layer) (b : Nat) : (q.mark test f).canRaise l b = q.canRaise l b := by
  simp only [Pass.canRaise, isOver_mark hf]
  rfl

theorem running_of_attemptOver {s : State} {q : Pass} (h : attemptOver s q = true) : q.phase = .running := by
  simp only [attemptOver, Bool.and_eq_true, beq_iff_eq] at h
  exact h.1.1

/-- The records of an attempt that a mark takes are marked. -/
theorem mark_records {q : Pass} {test : StatRec → Bool} {f : StatRec → StatRec} {P : StatRec → Prop} (hf : ∀ r, P (f r))
    {r : StatRec} (hr : r ∈ (q.mark test f).records) : P r ∨ ¬(r.attempt = q.attempt ∧ test r = true) := by
  obtain ⟨x, -, rfl⟩ := List.mem_map.mp hr
  split
  · exact .inl (hf x)
  · exact .inr ‹_›

theorem getElem?_filterMap_of_some {α β : Type} {g : α → Option β} {l : List α} (h : ∀ a ∈ l, (g a).isSome = true) (i : Nat) :
    (l.filterMap g)[i]? = l[i]?.bind g := by
  induction l generalizing i with
  | nil => rfl
  | cons a l ih =>
    obtain ⟨b, hb⟩ := Option.isSome_iff_exists.mp (h a (by simp))
    rw [List.filterMap_cons_some hb]
    cases i with
    | zero => simp [hb]
    | succ i => simpa using ih (fun x hx => h x (by simp [hx])) i

/-- What an output binding runs on in the next attempt: the next rung where it can be raised, else the type it had (05
R165). -/
theorem rerun_outs {q : Pass} {p : Plate} {l : Layer} (hlen : q.outs.length ≤ l.outs.length) {b : Nat} {o : OutNow}
    (ho : q.outs[b]? = some o) : ((q.rerun p l).outs[b]?).map (fun x => (x.type, x.raises)) =
      some (if q.canRaise l b then ((nextRung o.type).getD o.type, o.raises + 1) else (o.type, o.raises)) := by
  have hb : b < q.outs.length := (List.getElem?_eq_some_iff.mp ho).1
  have marked := canRaise_mark (f := fun r => { r with discarded := true }) (fun _ => ⟨rfl, rfl, rfl⟩) q isOutput l b
  unfold Pass.rerun
  dsimp only
  rw [getElem?_filterMap_of_some (fun a ha => ?_)]
  · have hl : l.outs[b]? = some l.outs[b] := List.getElem?_eq_getElem (by omega)
    simp only [Pass.mark] at marked ⊢
    simp only [List.getElem?_range hb, Option.bind_some, ho, hl, Option.map_some, marked]
    split <;> rfl
  · have ha : a < q.outs.length := List.mem_range.mp ha
    have hq : q.outs[a]? = some q.outs[a] := List.getElem?_eq_getElem ha
    have hl : l.outs[a]? = some l.outs[a] := List.getElem?_eq_getElem (by omega)
    simp [Pass.mark, hq, hl]

/-! ## ATTEMPT_END (05 R157, R165, R166) -/

section
variable {s : State} {fid seq : Nat} {f : Forme} {q : Pass} {l : Layer}

/-- The pass with the records that its attempt leaves. -/
def recorded (s : State) (f : Forme) (q : Pass) : Pass := { q with records := q.records ++ attemptRecords s f q }

theorem execAttemptEnd_faulted (hup : s.up = true) (hf : getForme s fid = some f) (hq : getPass s fid seq = some q)
    (hover : attemptOver s q = true)
    (hfault : (recorded s f q).faults.any (fun r => r.attempt = (recorded s f q).attempt) = true) :
    execAttemptEnd fid seq s = .next (endPass (clearProof s seq)
      ((recorded s f q).mark (·.staged) (fun r => { r with discarded := true })) stStickFault) := by
  simp only [execAttemptEnd, hf, hq, hup, hover]
  exact if_pos hfault

/-- Without a stick fault the pass runs again where a binding can be raised, else it commits. -/
theorem execAttemptEnd_unfaulted {p : Plate} (hup : s.up = true) (hf : getForme s fid = some f)
    (hq : getPass s fid seq = some q) (hover : attemptOver s q = true)
    (hfault : (recorded s f q).faults.any (fun r => r.attempt = (recorded s f q).attempt) = false)
    (hp : f.plate = some p) (hl : p.layerNum q.layer = some l) : execAttemptEnd fid seq s =
      if (List.range (recorded s f q).outs.length).any ((recorded s f q).canRaise l) then
        .next (modPass (clearL1s (clearProof s seq) f) fid seq (fun _ => (recorded s f q).rerun p l))
      else .next (commitPass (clearProof s seq) f l (recorded s f q)) := by
  simp only [execAttemptEnd, hf, hq, hup, hover, hp, Option.bind_some, hl, Option.map_some]
  exact if_neg (Bool.eq_false_iff.mp hfault)

/-- Where no binding is proofed the pass is complete at once (05 R157). -/
theorem commitPass_unproofed (h : proofedBindings q l = []) : commitPass s f l q = completePass s q := by
  simp only [commitPass, h]

/-- Proofed bindings swap first. -/
theorem commitPass_proofed (h : proofedBindings q l ≠ []) : commitPass s f l q =
    startInval (modPass s q.forme q.seq (fun _ => { q with phase := .swapping })) q.forme
      ((proofedBindings q l).flatMap (bindingIds f)) .swapping (.swap q.seq) := by
  unfold commitPass
  cases hb : proofedBindings q l with
  | nil => exact absurd hb h
  | cons b bs => rfl

/-- A commit that swaps: the pass is swapping, and one invalidation of the entries of its proofed bindings has started. -/
theorem commitPass_swaps {x : Pass} (hf : getForme s q.forme = some f) (hq : getPass s q.forme q.seq = some x)
    (h : proofedBindings q l ≠ []) : ∃ i, getPass (commitPass s f l q) q.forme q.seq = some { q with phase := .swapping } ∧
      (commitPass s f l q).invals = s.invals ++ [i] ∧ i.purpose = .swap q.seq ∧ i.toAck = f.platens ++ [6, 7] ∧
      i.ids = (proofedBindings q l).flatMap (bindingIds f) := by
  have swapping := getPass_modPass (r := { q with phase := .swapping }) hq rfl
  obtain ⟨y, hy, hfind⟩ := Option.bind_eq_some_iff.mp swapping
  have platens : y.platens = f.platens := by
    have := map_getForme_modPass (π := (·.platens)) (fun _ _ => rfl) s q.forme q.seq
      (fun _ => { q with phase := .swapping }) q.forme
    rwa [hy, hf, Option.map_some, Option.map_some, Option.some.injEq] at this
  obtain ⟨i, es, forme, invals, purpose, acks, ids⟩ := startInval_starts hy ((proofedBindings q l).flatMap (bindingIds f))
    .swapping (.swap q.seq)
  rw [commitPass_proofed h]
  refine ⟨i, ?_, invals, purpose, platens ▸ acks, ids⟩
  rw [getPass_of_forme forme]
  exact hfind

end

/-! ## SWAP_COMPLETE (05 R157, 10 R343) -/

/-- An entry of a swap: its physical pages are its partner's, and it is valid and of no pass (notes/assumptions/46.md). -/
def swapEntry (now : Nat) (f : Forme) (bs : List OutBinding) (ids : List Nat) (e : RangeEntry) : RangeEntry :=
  if ids.contains e.id then
    match swapPartner f bs e with
    | some o => { e with paPage := o.paPage, state := .valid, passSeq := 0, mapTime := now }
    | none => { e with state := .valid, passSeq := 0, mapTime := now }
  else e

theorem swapEntries_eq {s : State} {fid : Nat} {f : Forme} (h : getForme s fid = some f) (bs : List OutBinding)
    (ids : List Nat) : swapEntries s fid bs ids = modRanges s fid (List.map (swapEntry s.now f bs ids)) := by
  simp only [swapEntries, h]
  rfl

/-- The physical extents of the proofed bindings of a layer change places. -/
def swapLayer (q : Pass) (l : Layer) : Layer :=
  { l with outs := (List.range l.outs.length).filterMap (fun b =>
    match q.outs[b]?, l.outs[b]? with
    | some o, some d => some (if o.policy.proofed then d.swapped else d)
    | none, some d => some d
    | _, none => none) }

/-- The exchange itself, before waiters and stopped sticks go on. -/
def exchanged (s : State) (fid : Nat) (q : Pass) (l : Layer) (i : Inval) : State :=
  let t := swapEntries s fid (proofedBindings q l) i.ids
  modLayer { t with invals := t.invals.filter (fun j => j.id ≠ i.id) } fid q.layer (swapLayer q)

section
variable {s : State} {fid seq : Nat} {f : Forme} {q : Pass} {l : Layer} {i : Inval}

theorem execSwapComplete_exchanges (hup : s.up = true) (hf : getForme s fid = some f) (hq : getPass s fid seq = some q)
    (hswap : q.phase = .swapping) (hi : s.invals.find? (fun i => i.forme = fid ∧ i.purpose = .swap seq) = some i)
    (hack : i.toAck = []) (hl : f.plate.bind (fun p => p.layerNum q.layer) = some l) : execSwapComplete fid seq s =
      .next (completePass (finishStops (resolveEntries (exchanged s fid q l i) fid i.ids) fid) q) := by
  simp only [execSwapComplete, hi, hf, hq, hup, hack, hswap, hl]
  rfl

theorem exchanged_forme (hf : getForme s fid = some f) : ∃ x, getForme (exchanged s fid q l i) fid = some x ∧
    x.passes = f.passes ∧ x.ranges = f.ranges.map (swapEntry s.now f (proofedBindings q l) i.ids) := by
  obtain ⟨poison, errors, frame⟩ := modRanges_frame hf (List.map (swapEntry s.now f (proofedBindings q l) i.ids))
  simp only [exchanged, modLayer, swapEntries_eq hf, frame, getForme_modForme_self]
  refine ⟨_, (congrArg _ (mapGet_mapSet_self ..)).trans (Option.map_some ..), rfl, rfl⟩

theorem exchanged_invals (hf : getForme s fid = some f) :
    (exchanged s fid q l i).invals = s.invals.filter (fun j => j.id ≠ i.id) := by
  obtain ⟨poison, errors, frame⟩ := modRanges_frame hf (List.map (swapEntry s.now f (proofedBindings q l) i.ids))
  simp only [exchanged, modLayer, modForme_invals, swapEntries_eq hf, frame]

/-- The exchange, and what goes on after it: the forme's passes are its own and its entries the exchanged ones, and the
invalidation is gone. -/
theorem exchanged_goesOn (hf : getForme s fid = some f) :
    let t := finishStops (resolveEntries (exchanged s fid q l i) fid i.ids) fid
    (∃ y, getForme t fid = some y ∧ y.passes = f.passes ∧
      y.ranges = f.ranges.map (swapEntry s.now f (proofedBindings q l) i.ids)) ∧ ∀ j ∈ t.invals, j.id ≠ i.id := by
  obtain ⟨x, hx, passes, ranges⟩ := exchanged_forme (q := q) (l := l) (i := i) hf
  have stops := (resolveEntries_stopFrame (exchanged s fid q l i) fid i.ids).trans (finishStops_stopFrame _ fid)
  obtain ⟨y, hy, same⟩ := stops.forme hx
  refine ⟨⟨y, hy, (congrArg Forme.passes same).trans passes, (congrArg Forme.ranges same).trans ranges⟩, fun j hj => ?_⟩
  have kept := stops.2 hj
  rw [exchanged_invals hf] at kept
  simpa using (List.mem_filter.mp kept).2

end

/-- Settles O32: an attempt that is over ends in one of three ways, and SWAP_COMPLETE exchanges the entries; stopping sticks,
whose locks it then writes, changes neither entries nor passes and starts no invalidation. -/
theorem attemptsEndAndSwapsExchangeBuffers : Obligations.AttemptsEndAndSwapsExchangeBuffers := by
  unfold Obligations.AttemptsEndAndSwapsExchangeBuffers
  refine ⟨?attemptEnd, ?swapComplete⟩
  case attemptEnd =>
    intro fid seq f q s hup hf hq hforme hover q1 faulted to1
    have hseq : q.seq = seq := seq_of_getPass hq
    subst hforme hseq
    refine ⟨fun hfault => ?_, fun l hfault hl => ?_⟩
    · refine ⟨_, _, execAttemptEnd_faulted hup hf hq hover hfault, getPass_endPass _ hq, rfl, rfl, ?_⟩
      intro r hr hattempt hstaged
      exact (mark_records (P := fun r => r.discarded = true) (fun _ => rfl) hr).resolve_right
        fun unmarked => unmarked ⟨hattempt, hstaged⟩
    · obtain ⟨p, hp, hlayer⟩ := Option.bind_eq_some_iff.mp hl
      have runs := execAttemptEnd_unfaulted hup hf hq hover hfault hp hlayer
      have commits (hraise : (List.range q1.outs.length).any (q1.canRaise l) = false) :=
        runs.trans (if_neg (Bool.eq_false_iff.mp hraise))
      intro raises
      refine ⟨fun hraise => ?_, fun hraise hnone => ?_, fun hraise hsome => ?_⟩
      · refine ⟨_, _, runs.trans (if_pos hraise), getPass_modPass hq rfl, (running_of_attemptOver hover :), rfl, rfl,
          fun p' hp' => ?_, fun hlen b o ho => rerun_outs (q := q1) hlen ho⟩
        rw [Option.some.inj (hp'.symm.trans hp)]
        rfl
      · exact ⟨_, _, (commits hraise).trans (congrArg _ (commitPass_unproofed hnone)), getPass_completePass (q := q1) hq, rfl, rfl⟩
      · obtain ⟨i, swapping, started⟩ := commitPass_swaps (s := clearProof s q.seq) (q := q1) hf hq hsome
        exact ⟨_, _, commits hraise, swapping, rfl, i, started⟩
  case swapComplete =>
    intro fid seq f q l i s hup hf hq hforme hswap hi hack hl
    have hseq : q.seq = seq := seq_of_getPass hq
    subst hforme hseq
    obtain ⟨⟨y, hy, passes, ranges⟩, gone⟩ := exchanged_goesOn (q := q) (l := l) (i := i) hf
    have pass := (getPass_of_forme hy).trans ((congrArg _ passes).trans ((getPass_of_forme hf).symm.trans hq))
    have entries := map_ranges_completePass (finishStops (resolveEntries (exchanged s q.forme q l i) q.forme i.ids) q.forme) q
      q.forme
    rw [hy, Option.map_some, Option.map_eq_some_iff] at entries
    obtain ⟨f', hf', same⟩ := entries
    rw [ranges] at same
    refine ⟨_, f', _, execSwapComplete_exchanges hup hf hq hswap hi hack hl, hf', getPass_completePass pass, rfl, ?_, ?_, ?_⟩
    · rw [completePass_invals]
      exact gone
    · rw [same, List.length_map]
    · intro n e o he hid hpartner
      rw [same, List.getElem?_map, he, Option.map_some, swapEntry, if_pos (by simpa using hid), hpartner]

end Sys2Proof.Machine
end

section
/-! PROOFS. The slug that issues: what is known of it, its registers, where it goes on, what an instruction of one slug may
change, and the instructions over registers alone (06 R189, R193, R195, R196). -/

namespace Sys2Proof.Machine

open Sys2Proof

/-! ## The slug that may issue (06 R189, R190) -/

/-- What is there of a slug that may issue. -/
theorem of_issuing {s : State} {a : SlugAt} {i : Issue} (h : issuing s a = some i) :
    getStick s a.platen a.galley a.stick = some i.stick ∧ i.stick.slugs[a.slug]? = some i.slug ∧ i.stick.dead = false := by
  unfold issuing at h
  split at h
  case isFalse => cases h
  case isTrue =>
    split at h
    case h_1 => cases h
    case h_2 t stick =>
      split at h
      case h_1 => cases h
      case h_2 x slug =>
        split at h
        case isFalse => cases h
        case isTrue may =>
          obtain rfl := Option.some.inj h
          simp only [Bool.and_eq_true, Bool.not_eq_true'] at may
          obtain ⟨⟨⟨⟨alive, -⟩, -⟩, -⟩, -⟩ := may
          exact ⟨stick, slug, alive⟩

/-! ## Lanes and registers (06 R189) -/

theorem mem_lanesOf {m l : Nat} : l ∈ lanesOf m ↔ l < 32 ∧ bit m l = true := by simp [lanesOf, bitsOf]

/-- Registers and predicates of two sorts have different keys. -/
theorem sortKey_inj {l l' r r' : Nat} (hr : r < 256) (hr' : r' < 256) : l' * 256 + r' = l * 256 + r ↔ r' = r ∧ l' = l := by
  omega

theorem regGet_regSet (x : Slug) (l : Nat) {r r' : Nat} (v : W32) (l' : Nat) (hr : r < 256) (hr' : r' < 256) :
    regGet (regSet x l r v) l' r' = if r' = r ∧ l' = l then v else regGet x l' r' := by
  simp only [regGet, regSet, mapGetD, mapGet_mapSet, sortKey_inj hr hr']
  split <;> rfl

theorem predGet_predSet (x : Slug) (l : Nat) {p p' : Nat} (b : Bool) (l' : Nat) (hp : p < 256) (hp' : p' < 256) :
    predGet (predSet x l p b) l' p' = if p' = p ∧ l' = l then b else predGet x l' p' := by
  simp only [predGet, predSet, mapGetD, mapGet_mapSet, sortKey_inj hp hp']
  split <;> rfl

/-- Writing a register in some lanes leaves all but the registers. -/
theorem foldl_regSet_frame (r : Nat) (v : Nat → W32) (ls : List Nat) (x : Slug) :
    ls.foldl (fun y l => regSet y l r (v l)) x = { x with regs := (ls.foldl (fun y l => regSet y l r (v l)) x).regs } := by
  induction ls generalizing x with
  | nil => rfl
  | cons l ls ih => rw [List.foldl_cons, ih]; rfl

theorem foldl_predSet_frame (p : Nat) (v : Nat → Bool) (ls : List Nat) (x : Slug) :
    ls.foldl (fun y l => predSet y l p (v l)) x = { x with preds := (ls.foldl (fun y l => predSet y l p (v l)) x).preds } := by
  induction ls generalizing x with
  | nil => rfl
  | cons l ls ih => rw [List.foldl_cons, ih]; rfl

theorem regGet_foldl_regSet {r r' : Nat} (v : Nat → W32) (hr : r < 256) (hr' : r' < 256) (l' : Nat) (ls : List Nat) (x : Slug) :
    regGet (ls.foldl (fun y l => regSet y l r (v l)) x) l' r' = if r' = r ∧ l' ∈ ls then v l' else regGet x l' r' := by
  induction ls generalizing x with
  | nil => simp
  | cons l ls ih =>
    rw [List.foldl_cons, ih, regGet_regSet x l (v l) l' hr hr']
    by_cases e : r' = r <;> by_cases m : l' ∈ ls <;> by_cases el : l' = l <;> simp [e, m, el]

theorem predGet_foldl_predSet {p p' : Nat} (v : Nat → Bool) (hp : p < 256) (hp' : p' < 256) (l' : Nat) (ls : List Nat)
    (x : Slug) : predGet (ls.foldl (fun y l => predSet y l p (v l)) x) l' p' =
      if p' = p ∧ l' ∈ ls then v l' else predGet x l' p' := by
  induction ls generalizing x with
  | nil => simp
  | cons l ls ih =>
    rw [List.foldl_cons, ih, predGet_predSet x l (v l) l' hp hp']
    by_cases e : p' = p <;> by_cases m : l' ∈ ls <;> by_cases el : l' = l <;> simp [e, m, el]

theorem regSetAll_frame (x : Slug) (r : Nat) (v : Nat → W32) :
    regSetAll x r v = { x with regs := (regSetAll x r v).regs } := foldl_regSet_frame ..

theorem predSetAll_frame (x : Slug) (p : Nat) (v : Nat → Bool) :
    predSetAll x p v = { x with preds := (predSetAll x p v).preds } := foldl_predSet_frame ..

/-- Every active sort receives its value, and no other register of any sort changes. -/
theorem regGet_regSetAll (x : Slug) {r r' : Nat} (v : Nat → W32) {l : Nat} (hr : r < 256) (hl : l < 32) (hr' : r' < 256) :
    regGet (regSetAll x r v) l r' = if r' = r ∧ bit x.active l = true then v l else regGet x l r' := by
  rw [regSetAll, regGet_foldl_regSet v hr hr']
  simp only [mem_lanesOf, hl, true_and]

theorem predGet_predSetAll (x : Slug) {p p' : Nat} (v : Nat → Bool) {l : Nat} (hp : p < 256) (hl : l < 32) (hp' : p' < 256) :
    predGet (predSetAll x p v) l p' = if p' = p ∧ bit x.active l = true then v l else predGet x l p' := by
  rw [predSetAll, predGet_foldl_predSet v hp hp']
  simp only [mem_lanesOf, hl, true_and]

/-! ## Exchanges (06 R195, R196) -/

section
variable (t : Stick) (slug : Nat) (x : Slug) {d v p : Nat} (src : Nat → Int)

theorem exchange_frame (d v p : Nat) : exchange t slug x d v p src =
    { x with regs := (exchange t slug x d v p src).regs, preds := (exchange t slug x d v p src).preds } := by
  rw [exchange, predSetAll_frame, regSetAll_frame]

theorem regGet_exchange {l q : Nat} (hd : d < 256) (hl : l < 32) (hq : q < 256) :
    regGet (exchange t slug x d v p src) l q = if q = d ∧ bit x.active l = true then
      (if laneValid t slug x (src l) then regGet x (src l).toNat v else regGet x l v) else regGet x l q := by
  rw [exchange, predSetAll_frame]
  exact regGet_regSetAll x _ hd hl hq

theorem predGet_exchange {l q : Nat} (hp : p < 256) (hl : l < 32) (hq : q < 256) :
    predGet (exchange t slug x d v p src) l q =
      if q = p ∧ bit x.active l = true then laneValid t slug x (src l) else predGet x l q := by
  rw [exchange, predGet_predSetAll _ _ hp hl hq, regSetAll_frame]
  rfl

end

/-- TALLY.SOME asks whether a predicate of an active sort is set (06 Table 6.5). -/
theorem some_tallyLanes (x : Slug) (p : Nat) :
    (!(tallyLanes x p).isEmpty) = (lanesOf x.active).any (fun l => predGet x l p) := by
  rw [Bool.eq_iff_iff]
  simp [tallyLanes]

/-! ## Where a slug goes on (06 R191, R192) -/

/-- Joins move the active sorts, the counter and the divergences alone. -/
theorem joinSteps_frame (n : Nat) (x : Slug) : joinSteps n x =
    { x with active := (joinSteps n x).active, pc := (joinSteps n x).pc, stack := (joinSteps n x).stack } := by
  induction n generalizing x with
  | zero => rfl
  | succ n ih =>
    rw [joinSteps]
    split
    · rfl
    · split
      · split
        · rw [ih]
        · rw [ih]
      · rfl

theorem goto_frame (x : Slug) (pc : Nat) : x.goto pc =
    { x with active := (x.goto pc).active, pc := (x.goto pc).pc, stack := (x.goto pc).stack, rerun := false } :=
  joinSteps_frame ..

section
variable (x : Slug) (pc : Nat)

@[simp] theorem goto_regs : (x.goto pc).regs = x.regs := by rw [goto_frame]
@[simp] theorem goto_preds : (x.goto pc).preds = x.preds := by rw [goto_frame]
@[simp] theorem goto_wait : (x.goto pc).wait = x.wait := by rw [goto_frame]
@[simp] theorem goto_locks : (x.goto pc).locks = x.locks := by rw [goto_frame]

@[simp] theorem regGet_goto (l r : Nat) : regGet (x.goto pc) l r = regGet x l r := by simp [regGet]
@[simp] theorem pairGet_goto (l r : Nat) : pairGet (x.goto pc) l r = pairGet x l r := by simp [pairGet]
@[simp] theorem predGet_goto (l p : Nat) : predGet (x.goto pc) l p = predGet x l p := by simp [predGet]

end

/-! ## What an instruction of one slug may change -/

theorem SlugFrame.trans {s t u : State} {a : SlugAt} (h : SlugFrame s t a) (k : SlugFrame t u a) : SlugFrame s u a := by
  obtain ⟨rest, counters, galleys, own, sticks⟩ := h
  obtain ⟨rest', counters', galleys', own', sticks'⟩ := k
  refine ⟨?_, counters.trans counters', fun p g hne => (galleys' p g hne).trans (galleys p g hne), ?_,
    fun i hi => (sticks' i hi).trans (sticks i hi)⟩
  · rw [rest', rest]
  · rw [own', own]

/-- Only counting and free draws lie between the states. -/
def OnlyCounted (s t : State) : Prop :=
  t = { s with formes := t.formes, loose := t.loose, free := t.free } ∧ OnlyCounters s t

theorem OnlyCounted.refl (s : State) : OnlyCounted s s := ⟨rfl, .refl s⟩

theorem OnlyCounted.trans {s t u : State} (h : OnlyCounted s t) (k : OnlyCounted t u) : OnlyCounted s u := by
  refine ⟨?_, h.2.trans k.2⟩
  rw [k.1, h.1]

theorem countFor_onlyCounted (s : State) (f : Option Nat) (c : Ctr) (n : Nat) : OnlyCounted s (countFor s f c n) :=
  ⟨by rw [(countFor_frame s f c n).1], (countFor_frame s f c n).2⟩

theorem countClocks_onlyCounted (s : State) (f : Nat) (c : Ctr) : OnlyCounted s (countClocks s f c) :=
  .trans (t := s.drawn) ⟨rfl, fun _ => rfl⟩ (countFor_onlyCounted ..)

theorem countWaits_onlyCounted (s : State) (p g k : Nat) : OnlyCounted s (countWaits s p g k) := by
  unfold countWaits
  split
  · exact .refl s
  · refine List.foldlRecOn (motive := OnlyCounted s) _ _ (.refl s) (fun u counted x _ => ?_)
    split
    · exact counted.trans (countClocks_onlyCounted ..)
    · exact counted

section
variable {s t : State} (h : OnlyCounted s t)
include h

theorem OnlyCounted.getGalley (p g : Nat) : getGalley t p g = getGalley s p g := by rw [h.1]; rfl

theorem OnlyCounted.getStick (p g k : Nat) : getStick t p g k = getStick s p g k := by rw [h.1]; rfl

theorem OnlyCounted.slugFrame (a : SlugAt) : SlugFrame s t a := by
  refine ⟨?_, h.2, fun p g _ => h.getGalley p g, ?_, fun k _ => h.getStick ..⟩
  · rw [h.1]
  · rw [h.getGalley]

theorem OnlyCounted.tileFrame (r : OpRef) : TileFrame s t r := tileFrame_of_galleys r h.1 h.2

end

theorem countIssue_onlyCounted (s : State) (f : Nat) : OnlyCounted s (countIssue s f) := countFor_onlyCounted ..

theorem countOnce_onlyCounted (s : State) (i : Issue) : OnlyCounted s (countOnce s i) := by
  unfold countOnce
  split
  · exact .refl s
  · exact countIssue_onlyCounted ..

theorem modStick_slugFrame (s : State) (a : SlugAt) (f : Stick → Stick) :
    SlugFrame s (modStick s a.platen a.galley a.stick f) a := by
  refine ⟨rfl, .refl s, fun p g hne => getGalley_modGalley_ne s _ hne, ?_, fun k hk => getStick_modStick_ne s _ _ f hk⟩
  simp [modStick]

theorem modSlug_slugFrame (s : State) (a : SlugAt) (f : Slug → Slug) : SlugFrame s (modSlug s a f) a :=
  modStick_slugFrame ..

/-! ## What is read after each operation on a slug -/

/-- Changing the entry there is, is putting another in its place. -/
theorem modify_of_getElem? {α : Type} {l : List α} {n : Nat} {x : α} (f : α → α) (h : l[n]? = some x) :
    l.modify n f = l.modify n (fun _ => f x) := by
  apply List.ext_getElem?
  intro j
  rw [List.getElem?_modify, List.getElem?_modify]
  by_cases e : n = j
  · subst e
    simp [h]
  · simp [e]

/-- A slug that is changed becomes what the change makes of it, in its stick. -/
theorem getStick_modSlug {s : State} {a : SlugAt} {t : Stick} {x : Slug} (f : Slug → Slug)
    (ht : getStick s a.platen a.galley a.stick = some t) (hx : t.slugs[a.slug]? = some x) :
    getStick (modSlug s a f) a.platen a.galley a.stick = some (withSlug t a (f x)) := by
  rw [modSlug, getStick_modStick_self, ht, Option.map_some, withSlug, modify_of_getElem? f hx]

@[simp] theorem withSlug_slugs_self {t : Stick} {a : SlugAt} {x : Slug} (y : Slug) (hx : t.slugs[a.slug]? = some x) :
    (withSlug t a y).slugs[a.slug]? = some y := by simp [withSlug, hx]

@[simp] theorem withSlug_withSlug (t : Stick) (a : SlugAt) (x y : Slug) : withSlug (withSlug t a x) a y = withSlug t a y := by
  simp only [withSlug, List.modify_modify_eq]
  rfl

/-! ## An instruction over registers alone -/

section
variable {s : State} {a : SlugAt} {i : Issue} (h : issuing s a = some i)
include h

theorem issueRegs_runs {top : Nat} (f : Stick → Slug → Slug) (htop : top < i.stick.header.regs) :
    issueRegs s a top f = setSlug (countIssue s i.stick.forme) a ((f i.stick i.slug).goto a.next) := by
  simp [issueRegs, h, Nat.not_le.mpr htop]

/-- A register at or above REGS faults the stick (06 R194). -/
theorem issueRegs_badRegister {top : Nat} (f : Stick → Slug → Slug) (htop : i.stick.header.regs ≤ top) :
    issueRegs s a top f = plainFault (countIssue s i.stick.forme) a i.slug .badRegister 0 := by
  simp [issueRegs, h, htop]

/-- It replaces its slug and changes nothing else. -/
theorem issueRegs_replaces {top : Nat} (f : Stick → Slug → Slug) (htop : top < i.stick.header.regs) :
    SlugFrame s (issueRegs s a top f) a ∧ getStick (issueRegs s a top f) a.platen a.galley a.stick =
      some (withSlug i.stick a ((f i.stick i.slug).goto a.next)) := by
  obtain ⟨stick, slug, -⟩ := of_issuing h
  rw [issueRegs_runs h f htop]
  have counted := countIssue_onlyCounted s i.stick.forme
  exact ⟨(counted.slugFrame a).trans (modSlug_slugFrame ..), getStick_modSlug _ ((counted.getStick ..).trans stick) slug⟩

/-- One that writes a register in the active lanes. -/
theorem issueRegs_writes {d top : Nat} {val : Nat → W32} {f : Stick → Slug → Slug} (hd : d < 256)
    (htop : top < i.stick.header.regs) (hf : f i.stick i.slug = regSetAll i.slug d val) :
    let t := issueRegs s a top f
    ∃ y, SlugFrame s t a ∧ getStick t a.platen a.galley a.stick = some (withSlug i.stick a y) ∧
      y = Slug.goto { i.slug with regs := y.regs } a.next ∧
      ∀ l r, l < 32 → r < 256 →
        regGet y l r = if r = d ∧ bit i.slug.active l = true then val l else regGet i.slug l r := by
  obtain ⟨frame, stick⟩ := issueRegs_replaces h f htop
  rw [hf] at stick
  refine ⟨_, frame, stick, ?_, fun l r hl hr => ?_⟩
  · rw [goto_regs, ← regSetAll_frame]
  · rw [regGet_goto, regGet_regSetAll _ _ hd hl hr]

/-- An exchange writes a register and a predicate bit in the active lanes (06 R195, R196). -/
theorem issueRegs_exchanges {d v p top : Nat} {src : Nat → Int} {f : Stick → Slug → Slug} (hd : d < 256) (hp : p < 256)
    (htop : top < i.stick.header.regs) (hf : f i.stick i.slug = exchange i.stick a.slug i.slug d v p src) :
    let t := issueRegs s a top f
    let valid (l : Nat) : Bool := laneValid i.stick a.slug i.slug (src l)
    ∃ y, SlugFrame s t a ∧ getStick t a.platen a.galley a.stick = some (withSlug i.stick a y) ∧
      y = Slug.goto { i.slug with regs := y.regs, preds := y.preds } a.next ∧
      (∀ l q, l < 32 → q < 256 → regGet y l q = if q = d ∧ bit i.slug.active l = true then
        (if valid l then regGet i.slug (src l).toNat v else regGet i.slug l v) else regGet i.slug l q) ∧
      ∀ l q, l < 32 → q < 256 →
        predGet y l q = if q = p ∧ bit i.slug.active l = true then valid l else predGet i.slug l q := by
  obtain ⟨frame, stick⟩ := issueRegs_replaces h f htop
  rw [hf] at stick
  refine ⟨_, frame, stick, ?_, fun l q hl hq => ?_, fun l q hl hq => ?_⟩
  · rw [goto_regs, goto_preds, ← exchange_frame]
  · rw [regGet_goto, regGet_exchange _ _ _ _ hd hl hq]
  · rw [predGet_goto, predGet_exchange _ _ _ _ hp hl hq]

end

/-- Settles O16: each row is an instruction over registers alone that writes one register in the active lanes. -/
theorem registerInstructionsWriteActiveSortsOnly : Obligations.RegisterInstructionsWriteActiveSortsOnly := by
  unfold Obligations.RegisterInstructionsWriteActiveSortsOnly
  intro a i s d u v h hd htop x lanes writes
  have row {c : Instr} {top : Nat} {f : Stick → Slug → Slug} {val : Nat → W32}
      (runs : exec c s = .next (issueRegs s a top f)) (below : top < i.stick.header.regs)
      (effect : f i.stick x = regSetAll x d val) : writes c val := by
    obtain ⟨y, written⟩ := issueRegs_writes h hd below effect
    exact ⟨_, y, runs, written⟩
  have one : d < i.stick.header.regs := by omega
  have two : max d v < i.stick.header.regs := by omega
  refine ⟨fun op => row rfl htop rfl, row rfl one ?_, row rfl one rfl, row rfl one rfl, row rfl one rfl, row rfl two rfl,
    row rfl one rfl⟩
  rw [some_tallyLanes]
  rfl

/-- Settles O17: each row is an exchange, and its source lane is the tabled one. -/
theorem exchangesMoveAValueOrReportItInvalid : Obligations.ExchangesMoveAValueOrReportItInvalid := by
  unfold Obligations.ExchangesMoveAValueOrReportItInvalid
  intro a i s d v r p m k h hd hp htop hm x valid moves
  have row {c : Instr} {top : Nat} {f : Stick → Slug → Slug} {src : Nat → Int}
      (runs : exec c s = .next (issueRegs s a top f)) (below : top < i.stick.header.regs)
      (effect : f i.stick x = exchange i.stick a.slug x d v p src) : moves c src := by
    obtain ⟨y, moved⟩ := issueRegs_exchanges h hd hp below effect
    exact ⟨_, y, runs, moved⟩
  have two : max d v < i.stick.header.regs := by omega
  refine ⟨row rfl htop rfl, row rfl two rfl, row rfl two rfl, row rfl two ?_, row rfl two rfl⟩
  simp only [Nat.mod_eq_of_lt hm]

end Sys2Proof.Machine
end

section
/-! PROOFS. Branches and their joins, exits, special values and integer arithmetic (06 R185, R191 to R193), and the fault of
a stick (06 R219 to R223). -/

namespace Sys2Proof.Machine

open Sys2Proof

/-! ## Integers (06 R193) -/

/-- Settles O18: the quotient by zero is zero, and one that divides by zero is not the quotient that does not fit. -/
theorem integerDivisionByZeroProducesZero : Obligations.IntegerDivisionByZeroProducesZero := by
  unfold Obligations.IntegerDivisionByZeroProducesZero
  intro a b
  have fits : a.toNat / b.toNat < 2 ^ 32 := Nat.lt_of_le_of_lt (Nat.div_le_self ..) a.isLt
  refine ⟨?_, ?_, rfl, rfl, rfl, ?_⟩
  · simp [arithResult]
  · simp [arithResult]
  · simpa [arithResult] using fits

/-! ## Branches and joins (06 R191) -/

section
variable {x : Slug} {d : Diverge} {st : List Diverge} {pc : Nat} (n : Nat)

/-- A slug that is at no join goes on as it is. -/
theorem joinSteps_apart (hstack : x.stack = d :: st) (hactive : x.active ≠ 0) (hpc : x.pc ≠ d.join) : joinSteps n x = x := by
  cases n with
  | zero => rfl
  | succ n => simp [joinSteps, hstack, hactive, hpc]

/-- At the join of the first side the others run. -/
theorem joinSteps_others (hstack : x.stack = d :: st) (hpc : x.pc = d.join) (hside : d.secondSide = false) :
    joinSteps (n + 1) x = joinSteps n { x with active := d.other, pc := d.otherPc,
                                               stack := { d with other := 0, secondSide := true } :: st } := by
  simp [joinSteps, hstack, hpc, hside]

/-- At the join of the second side the union runs, but for sorts that have exited. -/
theorem joinSteps_union (hstack : x.stack = d :: st) (hpc : x.pc = d.join) (hside : d.secondSide = true) :
    joinSteps (n + 1) x = joinSteps n { x with active := notExited x d.all, pc := d.join, stack := st } := by
  simp [joinSteps, hstack, hpc, hside]

theorem joinSteps_undiverged (hstack : x.stack = []) : joinSteps n x = x := by
  cases n with
  | zero => rfl
  | succ n => simp [joinSteps, hstack]

end

/-- Without divergences a slug goes on at the counter it is given. -/
theorem goto_undiverged {x : Slug} (pc : Nat) (hstack : x.stack = []) : x.goto pc = { x with pc := pc, rerun := false } :=
  joinSteps_undiverged _ hstack

theorem goto_apart {x : Slug} {d : Diverge} {st : List Diverge} {pc : Nat} (hstack : x.stack = d :: st)
    (hactive : x.active ≠ 0) (hpc : pc ≠ d.join) : x.goto pc = { x with pc := pc, rerun := false } :=
  joinSteps_apart (x := { x with pc := pc, rerun := false }) _ hstack hactive hpc

theorem goto_others {x : Slug} {d : Diverge} {st : List Diverge} (hstack : x.stack = d :: st) (hside : d.secondSide = false)
    (hother : d.other ≠ 0) (hpc : d.otherPc ≠ d.join) : x.goto d.join =
      { x with active := d.other, pc := d.otherPc, rerun := false,
               stack := { d with other := 0, secondSide := true } :: st } :=
  (joinSteps_others (x := { x with pc := d.join, rerun := false }) _ hstack rfl hside).trans
    (joinSteps_apart _ rfl hother hpc)

/-- At the join of a second side, and at that of a first side whose others wait there already, the union runs. -/
theorem goto_union {x : Slug} {d : Diverge} (hstack : x.stack = [d]) (hpc : d.secondSide = false → d.otherPc = d.join) :
    x.goto d.join = { x with active := notExited x d.all, pc := d.join, stack := [], rerun := false } := by
  have done (y : Slug) (n : Nat) (h : y.stack = []) : joinSteps n y = y := joinSteps_undiverged n h
  cases hside : d.secondSide with
  | true =>
    exact (joinSteps_union (x := { x with pc := d.join, rerun := false }) _ hstack rfl hside).trans (done _ _ rfl)
  | false =>
    exact ((joinSteps_others (x := { x with pc := d.join, rerun := false }) _ hstack rfl hside).trans
      (joinSteps_union _ rfl (hpc hside) rfl)).trans (done _ _ rfl)

section
variable {s : State} {a : SlugAt} {i : Issue} {p target join : Nat} (h : issuing s a = some i)
include h

theorem execBranch_runs (hdepth : branchTooDeep i.slug p = false) : execBranch a p target join s =
    .next (setSlug (countIssue s i.stick.forme) a (branchSlug i.slug p target join a.next)) := by
  simp [execBranch, h, hdepth]

theorem execBranch_tooDeep (hdepth : branchTooDeep i.slug p = true) : execBranch a p target join s =
    .next (plainFault (countIssue s i.stick.forme) a i.slug .divergeDepth 0) := by
  simp [execBranch, h, hdepth]

end

/-- Settles O19: the branch by who takes it, and the joins by the side that reaches them. -/
theorem branchRunsTakersThenOthersThenUnion : Obligations.BranchRunsTakersThenOthersThenUnion := by
  unfold Obligations.BranchRunsTakersThenOthersThenUnion
  intro a i s p target join h x taken rest d w
  refine ⟨fun none hdepth => ?_, fun some all hdepth => ?_, fun some others room => ?_, execBranch_tooDeep h, ?_, ?_, ?_, ?_⟩
  · exact (execBranch_runs h hdepth).trans (by rw [branchSlug, if_pos none])
  · exact (execBranch_runs h hdepth).trans (by rw [branchSlug, if_neg some, if_pos all])
  · have few : decide (x.stack.length ≥ 32) = false := decide_eq_false (Nat.not_le.mpr room)
    have hdepth : branchTooDeep x p = false := by simp only [branchTooDeep, few, Bool.false_and]
    exact (execBranch_runs h hdepth).trans (by rw [branchSlug, if_neg some, if_neg others])
  · exact fun y st pc hstack hactive hpc => goto_apart hstack hactive hpc
  · exact fun y st hstack _ hrest hnext => goto_others hstack rfl hrest hnext
  · exact fun y hstack _ hnext => goto_union hstack (fun _ => hnext)
  · exact fun y hstack _ => goto_union hstack (fun first => nomatch first)

/-! ## Exits and special values (06 R185, R192) -/

theorem pairGet_pairSet (x : Slug) (l : Nat) {r : Nat} (v l' : Nat) (hr : r + 1 < 256) :
    pairGet (pairSet x l r v) l' r = if l' = l then v % 2 ^ 64 else pairGet x l' r := by
  have low : r < 256 := by omega
  have joined : v % 2 ^ 32 + 2 ^ 32 * (v / 2 ^ 32 % 2 ^ 32) = v % 2 ^ 64 := by omega
  simp only [pairGet, pairSet, regGet_regSet _ _ _ _ hr hr, regGet_regSet _ _ _ _ hr low, regGet_regSet _ _ _ _ low hr,
    regGet_regSet _ _ _ _ low low]
  by_cases e : l' = l
  · simpa [e] using joined
  · simp [e]

theorem pairGet_foldl_pairSet {r : Nat} (v : Nat → Nat) (hr : r + 1 < 256) (l' : Nat) (ls : List Nat) (x : Slug) :
    pairGet (ls.foldl (fun y l => pairSet y l r (v l)) x) l' r = if l' ∈ ls then v l' % 2 ^ 64 else pairGet x l' r := by
  induction ls generalizing x with
  | nil => simp
  | cons l ls ih =>
    rw [List.foldl_cons, ih, pairGet_pairSet x l (v l) l' hr]
    by_cases m : l' ∈ ls <;> by_cases el : l' = l <;> simp [m, el]

/-- Every active sort receives its value of a special, in one register or a pair. -/
theorem special_received (x : Slug) (sp : Special) {r l : Nat} (v : Nat → Nat) (hr : r + 1 < 256) (hl : l < 32)
    (hactive : bit x.active l = true) :
    let y := (lanesOf x.active).foldl (fun y l => valSet y l r (specialSize sp) (v l)) x
    if sp = .time then pairGet y l r = v l % 2 ^ 64 else (regGet y l r).toNat = v l % 2 ^ 32 := by
  have there : l ∈ lanesOf x.active := mem_lanesOf.mpr ⟨hl, hactive⟩
  have low : r < 256 := by omega
  by_cases time : sp = .time
  · subst time
    exact (pairGet_foldl_pairSet v hr l _ x).trans (if_pos there)
  · have size : specialSize sp = 4 := by
      cases sp
      case time => exact absurd rfl time
      all_goals rfl
    have word := regGet_foldl_regSet (fun l => BitVec.ofNat 32 (v l)) low low l (lanesOf x.active) x
    rw [if_pos ⟨rfl, there⟩] at word
    rw [if_neg time]
    simp only [size, valSet]
    exact (congrArg BitVec.toNat word).trans (BitVec.toNat_ofNat ..)

theorem execExit_issuing {s : State} {a : SlugAt} {i : Issue} (h : issuing s a = some i) : execExit a s = .next
    (meetComplete (setSlug (countIssue s i.stick.forme) a
      (Slug.goto { i.slug with exited := Nat.lor i.slug.exited i.slug.active, active := 0 } a.next)) a) := by
  simp [execExit, h]

/-- Settles O20: EXIT by what it leaves of the slug, READ_SPECIAL as an instruction over registers alone. The free value of a
binding that is not declared is the model's (notes/assumptions/31.md). -/
theorem exitEndsActiveSortsAndSpecialsAreRead : Obligations.ExitEndsActiveSortsAndSpecialsAreRead := by
  unfold Obligations.ExitEndsActiveSortsAndSpecialsAreRead
  intro a i s d sp h x x'
  refine ⟨execExit_issuing h, fun hstack => ?_, fun hd htop => ?_⟩
  · rw [goto_undiverged a.next (x := x') hstack]
    exact ⟨rfl, rfl⟩
  · have some : 1 ≤ sizeRegs (specialSize sp) := by
      unfold sizeRegs
      split <;> decide
    obtain ⟨frame, stick⟩ := issueRegs_replaces h (fun t g => (lanesOf g.active).foldl
      (fun y l => valSet y l d (specialSize sp) (specialValue s a t l sp)) g)
      (show d + sizeRegs (specialSize sp) - 1 < i.stick.header.regs by omega)
    refine ⟨_, _, rfl, frame.trans (OnlyCounted.slugFrame ⟨rfl, fun _ => rfl⟩ a), stick, fun l hl hactive => ?_⟩
    have received := special_received x sp (fun l => specialValue s a i.stick l sp) hd hl hactive
    simpa using received

/-! ## Counters and passes under counting -/

theorem ctrGet_ctrAdd (m : Counters) (c d : Ctr) (n : Nat) :
    ctrGet (ctrAdd m c n) d = if d = c then ctrGet m c + n else ctrGet m d := by
  induction m with
  | nil => by_cases e : c = d <;> simp [ctrAdd, ctrGet, e, eq_comm]
  | cons x m ih =>
    obtain ⟨k, v⟩ := x
    by_cases ek : k = c
    · subst ek
      by_cases ed : k = d
      · simp [ctrAdd, ctrGet, ed]
      · simp [ctrAdd, ctrGet, ed, Ne.symm ed]
    · by_cases ed : k = d
      · subst ed
        simp [ctrAdd, ctrGet, ek]
      · simp [ctrAdd, ctrGet, ek, ed, ih]

/-- A counter of a forme. -/
def formeCtr (s : State) (f : Nat) (c : Ctr) : Option Nat := (getForme s f).map (fun x => ctrGet x.counters c)

theorem formeCtr_countFor_self (s : State) (f : Nat) (c : Ctr) (n : Nat) :
    formeCtr (countFor s (some f) c n) f c = (formeCtr s f c).map (· + n) := by
  have added : getForme (countFor s (some f) c n) f =
      (getForme s f).map (fun x => { x with counters := ctrAdd x.counters c n }) := getForme_modForme_self ..
  rw [formeCtr, formeCtr, added]
  cases getForme s f with
  | none => rfl
  | some x => simp [ctrGet_ctrAdd]

/-- Counting under one counter leaves the others. -/
theorem formeCtr_countFor_ne (s : State) (g : Option Nat) (n f : Nat) {c d : Ctr} (h : d ≠ c) :
    formeCtr (countFor s g c n) f d = formeCtr s f d := by
  unfold countFor
  split
  · exact map_mapMod s.formes _ _ _ (fun x => by simp [ctrGet_ctrAdd, h]) f
  · rfl

/-- The waits are counted under counters of their own (06 Table 6.8). -/
theorem waitCounter_ne_stickFaults (x : Galley) (stick slug : Nat) (w : SlugWait) :
    waitCounter x stick slug w ≠ some .stickFaults := by
  cases w <;> simp [waitCounter]

theorem formeCtr_countWaits (s : State) (p g k f : Nat) :
    formeCtr (countWaits s p g k) f .stickFaults = formeCtr s f .stickFaults := by
  unfold countWaits
  split
  · rfl
  · refine List.foldlRecOn (motive := fun u => formeCtr u f .stickFaults = formeCtr s f .stickFaults) _ _ rfl
      (fun u same x _ => ?_)
    split
    · rename_i c counted
      exact (formeCtr_countFor_ne u.drawn _ _ _ fun e => waitCounter_ne_stickFaults _ _ _ _ (e ▸ counted)).trans same
    · exact same

theorem OnlyCounters.getPass {s t : State} (h : OnlyCounters s t) (f seq : Nat) : getPass t f seq = getPass s f seq := by
  refine getPass_congr ?_ seq
  have passes : Forme.passes = Forme.passes ∘ uncounted := rfl
  rw [passes, ← Option.map_map, h f, Option.map_map]

/-- A pass that is changed, not its number, is read changed. -/
theorem getPass_modPass_map (s : State) (f seq : Nat) (g : Pass → Pass) (hg : ∀ q, (g q).seq = q.seq) :
    getPass (modPass s f seq g) f seq = (getPass s f seq).map g := by
  have same : (fun q : Pass => decide (q.seq = seq)) ∘ (fun q => if q.seq = seq then g q else q) =
      fun q => decide (q.seq = seq) := by
    funext q
    by_cases e : q.seq = seq <;> simp [e, hg]
  unfold getPass modPass
  rw [getForme_modForme_self]
  cases getForme s f with
  | none => rfl
  | some x =>
    rw [Option.map_some, Option.bind_some, Option.bind_some, List.find?_map, same]
    cases found : x.passes.find? (fun q => decide (q.seq = seq)) with
    | none => rfl
    | some q => simpa using fun e => absurd (by simpa using List.find?_some found) e

/-! ## The fault of a stick (06 R219 to R223) -/

/-- The record of a fault (06 Table 6.12). -/
def faultRecord (t : Stick) (p g slug pc : Nat) (w : FaultAt) : StickFault :=
  { passSeq := t.passSeq, stick := t.index, lanes := w.lanes, addr := w.addr % 2 ^ 56, pc := pc, code := w.code.code,
    slug := slug, attempt := t.attempt, platen := p, galley := g, detail := w.detail }

/-- A pass that has been told of a fault: it keeps the first 64 records of its attempt. -/
def Pass.told (r : StickFault) (q : Pass) : Pass :=
  { q with faultCount := q.faultCount + 1,
           faults := if (q.faults.filter (fun f => f.attempt = q.attempt)).length < 64 then q.faults ++ [r] else q.faults }

section
variable {s : State} {p g k : Nat} {t : Stick} (ht : getStick s p g k = some t) (halive : t.dead = false)
include ht halive

theorem stickFault_runs (slug pc : Nat) (w : FaultAt) :
    let r := faultRecord t p g slug pc w
    stickFault s p g k slug pc w = modPass (countFor (modGalley (modStick (countWaits s p g k) p g k
      (fun t => { t with dead := true, fault := some r })) p g
      (fun x => { x with ops := x.ops.filter (fun o => o.stick ≠ k || o.started) })) (some t.forme) .stickFaults 1)
      t.forme t.passSeq (Pass.told r) := by
  simp only [stickFault, ht, halive]
  rfl

/-- The stick is dead and has its record, and its operations that no unit has accepted are gone. -/
theorem stickFault_stick (slug pc : Nat) (w : FaultAt) :
    getStick (stickFault s p g k slug pc w) p g k =
      some { t with dead := true, fault := some (faultRecord t p g slug pc w) } ∧
    ∀ o ∈ (getGalley (stickFault s p g k slug pc w) p g).ops, o.stick = k → o.started = true := by
  have waited : getStick (countWaits s p g k) p g k = some t := ((countWaits_onlyCounted s p g k).getStick p g k).trans ht
  rw [stickFault_runs ht halive]
  have galley (u : State) (f seq : Nat) (m : Pass → Pass) (c : Ctr) (n : Nat) :
      getGalley (modPass (countFor u (some f) c n) f seq m) p g = getGalley u p g := rfl
  refine ⟨?_, fun o ho hk => ?_⟩
  · simp only [getStick, galley, getGalley_modGalley_self]
    exact (getStick_modStick_self ..).trans (by rw [waited]; rfl)
  · rw [galley, getGalley_modGalley_self] at ho
    simpa [hk] using (List.mem_filter.mp ho).2

/-- The pass is told, and the forme's counter rises. -/
theorem stickFault_forme {q : Pass} (hq : getPass s t.forme t.passSeq = some q) (slug pc : Nat) (w : FaultAt) :
    getPass (stickFault s p g k slug pc w) t.forme t.passSeq = some (q.told (faultRecord t p g slug pc w)) ∧
    formeCtr (stickFault s p g k slug pc w) t.forme .stickFaults = (formeCtr s t.forme .stickFaults).map (· + 1) := by
  rw [stickFault_runs ht halive]
  refine ⟨?_, ?_⟩
  · rw [getPass_modPass_map _ _ _ (Pass.told _) (fun _ => rfl), (countFor_frame ..).2.getPass]
    exact congrArg _ (((countWaits_onlyCounted s p g k).2.getPass ..).trans hq)
  · rw [formeCtr, map_getForme_modPass (fun _ _ => rfl)]
    exact (formeCtr_countFor_self ..).trans (congrArg _ (formeCtr_countWaits s p g k t.forme))

end

/-- The fault of an instruction that its slug has issued. -/
theorem issued_faults {s : State} {a : SlugAt} {i : Issue} {q : Pass} (h : issuing s a = some i)
    (hq : getPass s i.stick.forme i.stick.passSeq = some q) (w : FaultAt) :
    let t := slugFault (countIssue s i.stick.forme) a w
    let r := faultRecord i.stick a.platen a.galley a.slug a.pc w
    getStick t a.platen a.galley a.stick = some { i.stick with dead := true, fault := some r } ∧
    (∀ o ∈ (getGalley t a.platen a.galley).ops, o.stick = a.stick → o.started = true) ∧
    getPass t i.stick.forme i.stick.passSeq = some (q.told r) ∧
    formeCtr t i.stick.forme .stickFaults = (formeCtr s i.stick.forme .stickFaults).map (· + 1) := by
  obtain ⟨stick, -, alive⟩ := of_issuing h
  have counted := countIssue_onlyCounted s i.stick.forme
  have there := (counted.getStick ..).trans stick
  obtain ⟨dead, cancelled⟩ := stickFault_stick there alive a.slug a.pc w
  obtain ⟨told, risen⟩ := stickFault_forme there alive ((counted.2.getPass ..).trans hq) a.slug a.pc w
  refine ⟨dead, cancelled, told, risen.trans (congrArg _ ?_)⟩
  exact formeCtr_countFor_ne _ _ _ _ (by decide)

theorem execTrap_faults {s : State} {a : SlugAt} {i : Issue} (h : issuing s a = some i) :
    execTrap a s = .next (plainFault (countIssue s i.stick.forme) a i.slug .trap 0) := by simp [execTrap, h]

/-- Settles O21: both instructions are counted and fault their stick, each with its code. -/
theorem faultingInstructionKillsItsStickAndIsRecorded : Obligations.FaultingInstructionKillsItsStickAndIsRecorded := by
  unfold Obligations.FaultingInstructionKillsItsStickAndIsRecorded
  intro a i s op d u v f q h hf hq r faults
  have recorded (c : Instr) (code : StickCode)
      (hc : exec c s = .next (plainFault (countIssue s i.stick.forme) a i.slug code 0)) : faults c code.code := by
    obtain ⟨dead, cancelled, told, risen⟩ := issued_faults h hq { code := code, addr := 0, lanes := i.slug.active, detail := 0 }
    refine ⟨_, _, hc, dead, cancelled, told, rfl, rfl, risen.trans ?_⟩
    rw [formeCtr, hf]
    rfl
  refine ⟨recorded _ .trap (execTrap_faults h), fun htop => recorded _ .badRegister ?_⟩
  exact congrArg Host.Outcome.next (issueRegs_badRegister h _ htop)

end Sys2Proof.Machine
end

section
/-! PROOFS. The memory instructions of a sort: how each issue ends, its accesses of device memory, ZLINE and fences (06 R194;
09 R308, R312, R313, R326 to R330; 10 R361). -/

namespace Sys2Proof.Machine

open Sys2Proof

/-! ## How the issue of a memory instruction ends (06 R194, 10 R361) -/

section
variable {s : State} {a : SlugAt} {i : Issue} {isLocal ok : Bool} {top areg size align kind : Nat} (h : issuing s a = some i)
  (go : State → Stick → Slug → List (Nat × Nat) → State) (htop : top < i.stick.header.regs)
include h htop

theorem issueMem_illegal (hok : ok = false) : issueMem s a isLocal top areg size align kind ok go =
    plainFault (countOnce s i) a i.slug .illegalOp 0 := by
  simp [issueMem, h, Nat.not_le.mpr htop, hok]

section
variable (hok : ok = true)
include hok

theorem issueMem_badAddress {w : FaultAt}
    (haddr : addrFaults i.stick isLocal size align (laneAddrs i.slug isLocal areg) = some w) :
    issueMem s a isLocal top areg size align kind ok go = slugFault (countOnce s i) a w := by
  simp [issueMem, h, Nat.not_le.mpr htop, hok, haddr]

theorem issueMem_local (haddr : addrFaults i.stick true size align (laneAddrs i.slug true areg) = none) :
    issueMem s a true top areg size align kind ok go = go (countOnce s i) i.stick i.slug (laneAddrs i.slug true areg) := by
  simp [issueMem, h, Nat.not_le.mpr htop, hok, haddr]

section
variable (haddr : addrFaults i.stick false size align (laneAddrs i.slug false areg) = none)
include haddr

theorem issueMem_translated {u : State} {pas : List (Nat × Nat)}
    (htr : translateLanes (sortAccess i.stick a kind) a (laneAddrs i.slug false areg) (countOnce s i) =
      (u, { ok := pas, denied := [], held := false })) :
    issueMem s a false top areg size align kind ok go = go u i.stick i.slug pas := by
  simp [issueMem, h, Nat.not_le.mpr htop, hok, haddr, htr, lanesFault]

/-- A request that waits in a fault record keeps its slug at the instruction. -/
theorem issueMem_held {u : State} {q : LanesAt}
    (htr : translateLanes (sortAccess i.stick a kind) a (laneAddrs i.slug false areg) (countOnce s i) = (u, q))
    (hdenied : q.denied = []) (hheld : q.held = true) :
    issueMem s a false top areg size align kind ok go = setSlug u a { i.slug with wait := .fault, rerun := true } := by
  simp [issueMem, h, Nat.not_le.mpr htop, hok, haddr, htr, hdenied, hheld, lanesFault]

end
end
end

/-! ## Accesses of device memory (09 R308, R312, R313, R326) -/

/-- Steps that agree fold alike. -/
theorem foldl_congr_step {α β : Type} {f g : β → α → β} (hstep : ∀ b a, f b a = g b a) (b : β) (l : List α) :
    l.foldl f b = l.foldl g b := by
  rw [show f = g from funext fun b => funext (hstep b)]

section
variable {s : State} {a : SlugAt} {i : Issue} {size d r : Nat} {ord : Ord} {pas : List (Nat × Nat)} {u : State}
  (h : issuing s a = some i)
include h

/-- A load whose lines hold no poison takes its bytes from them. -/
theorem execSortLoad_device (htop : max (d + sizeRegs size - 1) (r + 1) < i.stick.header.regs)
    (hok : (memSize size && loadOrd ord) = true)
    (haddr : addrFaults i.stick false size size (laneAddrs i.slug false r) = none)
    (htr : translateLanes (sortAccess i.stick a 0) a (laneAddrs i.slug false r) (countOnce s i) =
      (u, { ok := pas, denied := [], held := false })) :
    let q := readLines (if isAcquire ord then l1Clear u a.platen a.galley else u) a.platen a.galley (distinctLines pas)
    (∀ la ∈ pas, linePoisoned q.2 la.2 = false) →
    execSortLoad a false size d r ord s = .next (setSlug q.1 a
      ((pas.foldl (fun y la => valSet y la.1 d size (ofBytes (lineBytes q.2 la.2 size))) i.slug).goto a.next)) := by
  intro q hclean
  have clean : pas.filter (fun la => linePoisoned q.2 la.2) = [] := List.filter_eq_nil_iff.mpr fun la hla => by
    simp [hclean la hla]
  refine congrArg Host.Outcome.next ((issueMem_translated h _ htop hok haddr htr).trans ?_)
  simp only [Bool.false_eq_true, if_false]
  rw [clean]
  rfl

theorem execSortStore_device (htop : max (d + sizeRegs size - 1) (r + 1) < i.stick.header.regs)
    (hok : (memSize size && storeOrd ord) = true)
    (haddr : addrFaults i.stick false size size (laneAddrs i.slug false r) = none)
    (htr : translateLanes (sortAccess i.stick a 1) a (laneAddrs i.slug false r) (countOnce s i) =
      (u, { ok := pas, denied := [], held := false })) :
    execSortStore a false size d r ord s = .next (modSlug
      ((gather (rotated u pas) size (fun l => toBytes size (valGet i.slug l d size))).foldl (fun u kv =>
        l1Update (if kv.2.1 = 2 ^ 128 - 1
          then caseWriteWhole u a.platen kv.1 kv.2.2 (noBypassOf u i.stick) i.stick.forme
          else cacheWrite u a.platen kv.1 kv.2.1 kv.2.2 none) a.platen a.galley kv.1 kv.2.1 kv.2.2) u.drawn)
      a (fun x => x.goto a.next)) :=
  congrArg Host.Outcome.next (issueMem_translated h _ htop hok haddr htr)

/-- One lane's atomic in the Case: the state, the slug so far and the lanes that met poison. -/
def atomicLane (a : SlugAt) (t : Stick) (x : Slug) (op : AtomOp) (size d o k : Nat) (v : State × Slug × Nat)
    (la : Nat × Nat) : State × Slug × Nat :=
  let z := cacheAtomic v.1 a.platen la.2 size op (valGet x la.1 o size) (valGet x la.1 k size) none (some t.forme)
  (l1Drop z.1 a.platen a.galley (lineOf la.2),
    if z.2.isSome then valSet v.2.1 la.1 d size (z.2.getD 0) else v.2.1,
    if z.2.isSome then v.2.2 else setBit v.2.2 la.1)

theorem execSortAtomic_device {op : AtomOp} {o k : Nat}
    (htop : max (max d (max o k) + sizeRegs size - 1) (r + 1) < i.stick.header.regs) (hsize : size = 4 ∨ size = 8)
    (haddr : addrFaults i.stick false size size (laneAddrs i.slug false r) = none)
    (htr : translateLanes (sortAccess i.stick a 2) a (laneAddrs i.slug false r) (countOnce s i) =
      (u, { ok := pas, denied := [], held := false })) :
    let v := if isAcquire ord then l1Clear u a.platen a.galley else u
    let q := (rotated v pas).foldl (atomicLane a i.stick i.slug op size d o k) (v.drawn, i.slug, 0)
    q.2.2 = 0 → execSortAtomic a false op size d r o k ord s = .next (setSlug q.1 a (q.2.1.goto a.next)) := by
  intro v q hclean
  refine congrArg Host.Outcome.next ((issueMem_translated h _ htop (by simpa using hsize) haddr htr).trans ?_)
  simp only [Bool.false_eq_true, if_false]
  rw [foldl_congr_step (g := atomicLane a i.stick i.slug op size d o k) (fun v la => ?_)]
  · exact if_pos hclean
  · simp only [atomicLane]
    split <;> rename_i found <;> simp [found]

theorem execZline_device (htop : r + 1 < i.stick.header.regs)
    (haddr : addrFaults i.stick false 128 128 (laneAddrs i.slug false r) = none)
    (htr : translateLanes (sortAccess i.stick a 1) a (laneAddrs i.slug false r) (countOnce s i) =
      (u, { ok := pas, denied := [], held := false })) :
    execZline a r s = .next (modSlug ((distinctLines pas).foldl (fun u ln =>
      l1Drop (cacheWrite u a.platen ln (2 ^ 128 - 1) (List.replicate 128 0#8) none) a.platen a.galley ln) u)
      a (fun x => x.goto a.next)) :=
  congrArg Host.Outcome.next (issueMem_translated h _ htop rfl haddr htr)

/-! ## Fences (09 R327, R328, R330) -/

theorem execFenceAcq_issuing : execFenceAcq a s =
    .next (setSlug (l1Clear (countIssue s i.stick.forme) a.platen a.galley) a (i.slug.goto a.next)) := by
  simp [execFenceAcq, h]

theorem execFenceAr_issuing : execFenceAr a s =
    .next (setSlug (l1Clear (countIssue s i.stick.forme) a.platen a.galley) a (i.slug.goto a.next)) := by
  simp [execFenceAr, h]

theorem execFenceRel_issuing : execFenceRel a s = .next (setSlug (countIssue s i.stick.forme) a (i.slug.goto a.next)) := by
  simp [execFenceRel, h]

end

/-- Settles O23: each access by how its issue ends. That FENCE.AR empties the L1 is the model's (notes/assumptions/42.md). -/
theorem deviceAccessesTranslateAndFencesInvalidate : Obligations.DeviceAccessesTranslateAndFencesInvalidate := by
  unfold Obligations.DeviceAccessesTranslateAndFencesInvalidate
  refine ⟨?_, fun a i s h => ⟨execFenceAcq_issuing h, execFenceAr_issuing h, execFenceRel_issuing h⟩⟩
  intro a i s size d r o k op ord pas h x w las tr all fenced on
  have translated (kind : Nat) (hall : all kind) : tr kind = ((tr kind).1, { ok := pas, denied := [], held := false }) :=
    Prod.ext rfl hall
  refine ⟨fun hsize htop => ?_, fun hsize htop haddr hall => ?_, fun htop => ?_⟩
  · refine ⟨fun f hf => ?_, fun hord => ?_, fun hord => ?_, fun haddr => ?_⟩
    · exact ⟨fun hord => congrArg _ (issueMem_badAddress h _ htop (by simp [hsize, hord]) hf),
        fun hord => congrArg _ (issueMem_badAddress h _ htop (by simp [hsize, hord]) hf)⟩
    · exact congrArg _ (issueMem_illegal h _ htop (by simp [hord]))
    · exact congrArg _ (issueMem_illegal h _ htop (by simp [hord]))
    · refine ⟨fun hord hall => ?_, fun hord hdenied hheld => ?_, fun hord hall => ?_⟩
      · exact execSortLoad_device h htop (by simp [hsize, hord]) haddr (translated 0 hall)
      · have apart : tr 0 = ((tr 0).1, (tr 0).2) := rfl
        exact congrArg _ (issueMem_held h _ htop (by simp [hsize, hord]) haddr apart hdenied hheld)
      · exact execSortStore_device h htop (by simp [hsize, hord]) haddr (translated 1 hall)
  · exact execSortAtomic_device h htop hsize haddr (translated 2 hall)
  · exact ⟨fun f hf => congrArg _ (issueMem_badAddress h _ htop rfl hf),
      fun haddr hall => execZline_device h htop haddr (translated 1 hall)⟩

end Sys2Proof.Machine
end

section
/-! PROOFS. Locks in local store and barriers: attempts, waits, releases, arrivals and the ends of waits (06 R209 to R218). -/

namespace Sys2Proof.Machine

open Sys2Proof

/-! ## One sort's attempt on a word in local store (06 R210) -/

@[simp] theorem getStick_l1Clear (s : State) (p g k : Nat) : getStick (l1Clear s p g) p g k = getStick s p g k := by
  simp [getStick, l1Clear]

theorem getStick_lockWrite {s : State} {a : SlugAt} {t : Stick} (ht : getStick s a.platen a.galley a.stick = some t)
    (addr w : Nat) : getStick (lockWrite s a true addr w) a.platen a.galley a.stick =
      some { t with ls := writeBytes t.ls addr (toBytes 4 w) } :=
  (getStick_modStick_self ..).trans (by rw [ht]; rfl)

section
variable {s : State} {a : SlugAt} {t : Stick} {x : Slug} {l addr : Nat}
  (ht : getStick s a.platen a.galley a.stick = some t) (hx : t.slugs[a.slug]? = some x)
include ht hx

theorem getSlug_of_stick : getSlug s a = some x := by simp [getSlug, ht, hx]

/-- A free word is acquired. -/
theorem lockOne_free (hword : bit (ofBytes (readBytes t.ls addr 4)) 31 = false) (hroom : x.locks.length < 16) :
    lockOne s a true l addr addr = (modSlug (lockWrite s a true addr (lockWord a x.slot l)) a
      (fun x => { x with locks := x.locks ++ [{ isLocal := true, addr := addr, lane := l }] }), .acquired) := by
  simp [lockOne, getSlug_of_stick ht hx, lockRead, countAttempt, ht, hword, Nat.not_le.mpr hroom]

theorem lockOne_self (hword : bit (ofBytes (readBytes t.ls addr 4)) 31 = true)
    (hself : lockSelf a x.slot (ofBytes (readBytes t.ls addr 4)) = true) : lockOne s a true l addr addr = (s, .self) := by
  simp [lockOne, getSlug_of_stick ht hx, lockRead, countAttempt, ht, hword, hself]

theorem lockOne_busy (hword : bit (ofBytes (readBytes t.ls addr 4)) 31 = true)
    (hself : lockSelf a x.slot (ofBytes (readBytes t.ls addr 4)) = false) : lockOne s a true l addr addr = (s, .busy) := by
  simp [lockOne, getSlug_of_stick ht hx, lockRead, countAttempt, ht, hword, hself]

theorem unlockOne_mine (hmine : lockMine a x.slot l (ofBytes (readBytes t.ls addr 4)) = true) :
    unlockOne s a true l addr addr = (modSlug (lockWrite s a true addr 0) a
      (fun x => { x with locks := x.locks.erase { isLocal := true, addr := addr, lane := l } }), none) := by
  simp [unlockOne, getSlug_of_stick ht hx, lockRead, ht, hmine]

/-- A word that does not record the sort as its holder is not released (06 R212). -/
theorem unlockOne_other (hmine : lockMine a x.slot l (ofBytes (readBytes t.ls addr 4)) = false) :
    unlockOne s a true l addr addr = (s, some .lockNotHeld) := by
  simp [unlockOne, getSlug_of_stick ht hx, lockRead, ht, hmine]

/-- The stick of a slug that has acquired a word and goes on as `f` has it. -/
theorem getStick_acquired (n : Nat) (g f : Slug → Slug) :
    getStick (modSlug (l1Clear (modSlug (lockWrite s a true addr n) a g) a.platen a.galley) a f)
      a.platen a.galley a.stick = some { withSlug t a (f (g x)) with ls := writeBytes t.ls addr (toBytes 4 n) } := by
  have acquired := getStick_modSlug g (getStick_lockWrite ht addr n) hx
  rw [getStick_modSlug f ((getStick_l1Clear ..).trans acquired) (withSlug_slugs_self _ hx), withSlug_withSlug]
  rfl

end

/-- LOCK.ACQ of one sort whose attempt has ended: it goes on with its status. -/
theorem lockWaits_ended (s : State) (a : SlugAt) (isLocal : Bool) (d next l va : Nat) {o : LockTry} (ho : o ≠ .busy) :
    lockWaits s a isLocal d next [(l, va, o)] = modSlug (l1Clear s a.platen a.galley) a
      (fun x => { regSet x l d (BitVec.ofNat 32 o.code) with wait := .none }.goto next) := by
  simp [lockWaits, lockStatuses, ho]

/-- LOCK.ACQ of one sort of a word that another slug holds: it waits. -/
theorem lockWaits_busy (s : State) (a : SlugAt) (isLocal : Bool) (d next l va : Nat) :
    lockWaits s a isLocal d next [(l, va, .busy)] =
      modSlug s a (fun x => { x with wait := .lock isLocal d [(l, va)] next false }) := by
  simp [lockWaits, lockStatuses]

/-! ## LOCK.ACQ, LOCK.TRY and LOCK.REL of one sort (06 R209 to R213) -/

section
variable {s : State} {a : SlugAt} {i : Issue} {d r l : Nat} (h : issuing s a = some i) (hl : lanesOf i.slug.active = [l])
  (haddr : (regGet i.slug l r).toNat % 4 = 0) (hinside : lsInside i.stick (regGet i.slug l r).toNat 4 = true)
include hl

theorem laneAddrs_one : laneAddrs i.slug true r = [(l, (regGet i.slug l r).toNat)] := by simp [laneAddrs, hl, addrGet]

include haddr hinside

theorem addrFaults_one : addrFaults i.stick true 4 4 (laneAddrs i.slug true r) = none := by
  simp [laneAddrs_one hl, addrFaults, addrFault, haddr, hinside, lanesFault]

include h

theorem execLockRel_one (htop : r < i.stick.header.regs) {u : State} {c : Option StickCode}
    (hone : unlockOne (countOnce s i) a true l (regGet i.slug l r).toNat (regGet i.slug l r).toNat = (u, c)) :
    execLockRel a true r s = .next (match c with
      | none => modSlug u a (fun x => x.goto a.next)
      | some c => slugFault u a { code := c, addr := (regGet i.slug l r).toNat, lanes := maskOf [l], detail := 0 }) := by
  refine congrArg Host.Outcome.next ((issueMem_local h _ htop rfl (addrFaults_one hl haddr hinside)).trans ?_)
  cases c <;> simp [laneAddrs_one hl, addrGet, hone, lanesFault]

variable (htop : max d r < i.stick.header.regs) {u : State} {o : LockTry}
  (hone : lockOne (countOnce s i) a true l (regGet i.slug l r).toNat (regGet i.slug l r).toNat = (u, o))
  (hfault : lockFault [(l, (regGet i.slug l r).toNat, o)] = none)
include htop hone hfault

theorem execLockAcq_one : execLockAcq a true d r s =
    .next (lockWaits u a true d a.next [(l, (regGet i.slug l r).toNat, o)]) := by
  refine congrArg Host.Outcome.next ((issueMem_local h _ htop rfl (addrFaults_one hl haddr hinside)).trans ?_)
  simp [laneAddrs_one hl, lockMany, addrGet, hone, hfault]

theorem execLockTry_one : execLockTry a true d r s = .next (modSlug (l1Clear u a.platen a.galley) a
    (fun x => (regSet x l d (BitVec.ofNat 32 o.code)).goto a.next)) := by
  refine congrArg Host.Outcome.next ((issueMem_local h _ htop rfl (addrFaults_one hl haddr hinside)).trans ?_)
  simp [laneAddrs_one hl, lockMany, addrGet, hone, hfault, lockStatuses]

end

/-- The status of an acquired word is zero. -/
theorem status_acquired (x : Slug) (l : Nat) {d : Nat} (hd : d < 256) :
    (regGet (regSet x l d (BitVec.ofNat 32 LockTry.acquired.code)) l d).toNat = 0 := by
  rw [regGet_regSet _ _ _ _ hd hd, if_pos ⟨rfl, rfl⟩]
  rfl

/-- Settles O24: each row by the outcome of its sort's one attempt. -/
theorem lockIsAcquiredWaitedForAndReleased : Obligations.LockIsAcquiredWaitedForAndReleased := by
  unfold Obligations.LockIsAcquiredWaitedForAndReleased
  intro a i s d r l h hl htop hd x addr haddr hinside word w own cleared status
  obtain ⟨stick, slug, -⟩ := of_issuing h
  have there : getStick w a.platen a.galley a.stick = some i.stick := ((countOnce_onlyCounted s i).getStick ..).trans stick
  have rtop : r < i.stick.header.regs := by omega
  refine ⟨fun hword hroom c hc => ?_, fun hword hself => ?_, fun hword hself => ?_, fun hmine => ?_, fun hmine => ?_⟩
  · have free := lockOne_free (l := l) there slug hword hroom
    simp only [List.mem_cons, List.not_mem_nil, or_false] at hc
    obtain rfl | rfl := hc
    · have runs := execLockAcq_one h hl haddr hinside htop free rfl
      rw [lockWaits_ended (o := .acquired) _ _ _ _ _ _ _ (by decide)] at runs
      refine ⟨_, _, runs, getStick_acquired there slug _ _ _, ?_, goto_locks ..⟩
      exact (congrArg _ (regGet_goto ..)).trans (status_acquired _ l hd)
    · have runs := execLockTry_one h hl haddr hinside htop free rfl
      refine ⟨_, _, runs, getStick_acquired there slug _ _ _, ?_, goto_locks ..⟩
      exact (congrArg _ (regGet_goto ..)).trans (status_acquired _ l hd)
  · have self := lockOne_self (l := l) there slug hword hself
    have acq := execLockAcq_one h hl haddr hinside htop self rfl
    rw [lockWaits_ended (o := .self) _ _ _ _ _ _ _ (by decide)] at acq
    have tried := execLockTry_one h hl haddr hinside htop self rfl
    exact ⟨acq, tried⟩
  · have busy := lockOne_busy (l := l) there slug hword hself
    have acq := execLockAcq_one h hl haddr hinside htop busy rfl
    rw [lockWaits_busy] at acq
    have tried := execLockTry_one h hl haddr hinside htop busy rfl
    exact ⟨tried, acq⟩
  · exact execLockRel_one h hl haddr hinside rtop (unlockOne_mine there slug hmine)
  · exact execLockRel_one h hl haddr hinside rtop (unlockOne_other there slug hmine)

/-! ## Arrivals at a barrier (06 R214 to R216) -/

section
variable {s : State} {a : SlugAt} {i : Issue} {b : Nat} {c : MeetCount} (h : issuing s a = some i)
  (htop : meetTop c < i.stick.header.regs) (waits : Bool)
include h htop

theorem meet_arrives (hbad : meetBad i.stick i.slug b c = []) : meet s a b c waits =
    meetComplete (setSlug (modStick (countIssue s i.stick.forme) a.platen a.galley a.stick (fun t =>
      { t with barriers := mapUpd t.barriers { count := meetCount i.stick i.slug c (lowLane i.slug), arrivals := 0 } b
                (fun p => { p with arrivals := p.arrivals + (lanesOf i.slug.active).length }) })) a
      (if waits then { i.slug with wait := .barrier b a.next } else i.slug.goto a.next)) a := by
  simp [meet, h, Nat.not_le.mpr htop, hbad]

theorem meet_faults {l n : Nat} {r : List (Nat × Nat)} (hbad : meetBad i.stick i.slug b c = (l, n) :: r) :
    meet s a b c waits = slugFault (countIssue s i.stick.forme) a
      { code := .badBarrier, addr := 0, lanes := maskOf (l :: r.map (·.1)), detail := barrierDetail b n } := by
  simp [meet, h, Nat.not_le.mpr htop, hbad]

end

/-- The one open phase of a stick completes, and its waiters go on. -/
theorem completeBarriers_one {t : Stick} {b : Nat} {ph : Barrier} (hopen : t.barriers = [(b, ph)])
    (hdone : ph.arrivals + exitedSorts t ≥ ph.count) :
    completeBarriers t = { t with barriers := [], slugs := t.slugs.map (releaseWaiter b) } := by
  simp [completeBarriers, hopen, hdone]

theorem releaseWaiter_waits {x : Slug} {b next : Nat} (hwait : x.wait = .barrier b next) :
    releaseWaiter b x = Slug.goto { x with wait := .none } next := by simp [releaseWaiter, hwait]

/-! ## The ends of waits (06 R211, R218) -/

section
variable {s : State} {p g k n : Nat} {t : Stick} {x : Slug} (hon : platenRuns s p = true)
  (ht : getStick s p g k = some t) (hx : t.slugs[n]? = some x)
include hon ht hx

theorem execBarrierStranded_faults {b : Nat} {ph : Barrier} (hopen : mapGet t.barriers b = some ph)
    (hfirst : t.slugs.findIdx (waitsAt b) = n) (hwaits : waitsAt b x = true) :
    execBarrierStranded p g k b s = .next (slugFault s (slugAt s p g k n)
      { code := .barrierStranded, addr := 0, lanes := x.active, detail := barrierDetail b ph.count }) := by
  have some : t.slugs.any (waitsAt b) = true := List.any_eq_true.mpr ⟨x, List.mem_of_getElem? hx, hwaits⟩
  simp [execBarrierStranded, hon, ht, hopen, some, hfirst, hx]

variable (halive : t.dead = false)
include halive

theorem waiting_of_stick : waiting s (slugAt s p g k n) = some (t, x) := by
  simp [waiting, slugAt, hon, ht, halive, hx]

variable {d next l addr : Nat} (hwait : x.wait = .lock true d [(l, addr)] next false)
include hwait

theorem execLockTimeout_faults : execLockTimeout p g k n s = .next (slugFault s (slugAt s p g k n)
    { code := .lockTimeout, addr := addr, lanes := maskOf [l], detail := 0 }) := by
  simp [execLockTimeout, waiting_of_stick hon ht hx halive, hwait]

/-- The retry of one sort by the outcome of its attempt. -/
theorem execLockRetriedone {u : State} {o : LockTry}
    (hone : lockOne (countWaits s p g k) (slugAt s p g k n) true l addr addr = (u, o))
    (hfault : lockFault [(l, addr, o)] = none) :
    execLockRetry p g k n s = .next (lockWaits u (slugAt s p g k n) true d next [(l, addr, o)]) := by
  simp [execLockRetry, waiting_of_stick hon ht hx halive, hwait, retryLocks, lanesFault, lockMany, hone, hfault]

end

/-- Settles O25: arrivals by what is bad of them, phases by their completion, and each row that ends a wait. -/
theorem barriersCountArrivalsAndWaitsEnd : Obligations.BarriersCountArrivalsAndWaitsEnd := by
  unfold Obligations.BarriersCountArrivalsAndWaitsEnd
  refine ⟨?_, ?_⟩
  · intro a i s b c h t x w n arrived
    refine ⟨fun htop hbad => ?_, fun l m r htop hbad => ?_, fun u ph hopen hdone => ?_⟩
    · exact ⟨congrArg _ (meet_arrives h htop true hbad), congrArg _ (meet_arrives h htop false hbad)⟩
    · exact ⟨congrArg _ (meet_faults h htop true hbad), congrArg _ (meet_faults h htop false hbad)⟩
    · rw [completeBarriers_one hopen hdone]
      refine ⟨rfl, fun y next hy hwait => ?_⟩
      rw [← releaseWaiter_waits hwait]
      exact List.mem_map_of_mem hy
  · intro p g k n d l addr next b s t x ph hon ht halive hx a
    refine ⟨fun hwait => ⟨fun hword hroom => ?_, execLockTimeout_faults hon ht hx halive hwait⟩,
      execBarrierStranded_faults hon ht hx⟩
    have there : getStick (countWaits s p g k) a.platen a.galley a.stick = some t :=
      ((countWaits_onlyCounted s p g k).getStick ..).trans ht
    have slug : t.slugs[a.slug]? = some x := hx
    have runs := execLockRetriedone hon ht hx halive hwait (lockOne_free (l := l) there slug hword hroom) rfl
    rw [lockWaits_ended (o := .acquired) _ _ _ _ _ _ _ (by decide)] at runs
    exact ⟨_, _, runs, getStick_acquired there slug _ _ _, goto_wait .., goto_locks ..⟩

end Sys2Proof.Machine
end

section
/-! PROOFS. Tile operations: their issue, tickets, waits and events, and the boxes that TILE_LOAD and TILE_STORE move (06 R198,
R201 to R204; 10 R361). -/

namespace Sys2Proof.Machine

open Sys2Proof

/-! ## TILE (06 R201, R203, R204) -/

theorem SlugFrame.tileFrame {s t : State} {a : SlugAt} (h : SlugFrame s t a) (ticket : Nat) :
    TileFrame s t { platen := a.platen, galley := a.galley, stick := a.stick, slug := a.slug, ticket := ticket } := by
  obtain ⟨rest, counters, galleys, -, sticks⟩ := h
  exact ⟨rest, counters, galleys, sticks⟩

/-- A slug with the next ticket in a register of every active sort. -/
def ticketed (x : Slug) (dst : Nat) : Slug :=
  { regSetAll x dst (fun _ => BitVec.ofNat 32 x.tickets) with tickets := x.tickets + 1 }

theorem ticketed_frame (x : Slug) (dst : Nat) : ticketed x dst =
    { x with regs := (ticketed x dst).regs, tickets := x.tickets + 1 } := by
  rw [ticketed, regSetAll_frame]

/-- An operation of a slug, as it is issued. -/
def issuedOp (a : SlugAt) (x : Slug) (block : Nat) : TileOp :=
  { stick := a.stick, slug := a.slug, ticket := x.tickets, block := block, pc := a.pc, lanes := x.active, started := false,
    performed := false, readDone := false, done := false, held := false, together := false }

section
variable {s : State} {a : SlugAt} {i : Issue} (h : issuing s a = some i)
include h

theorem execTile_full {areg dst : Nat} (hfull : 16 ≤ (slugOps s a).length) : execTile a areg dst s = .next s := by
  simp [execTile, h, hfull]

theorem execTile_issues {areg dst addr : Nat} (haddr : (regGet i.slug (lowLane i.slug) areg).toNat = addr)
    (htop : max areg dst < i.stick.header.regs) (hroom : (slugOps s a).length < 16) (haligned : addr % 32 = 0)
    (hinside : lsInside i.stick addr 32 = true) (hopc : 1 ≤ tbOpc (lsNat i.stick addr 32))
    (hopc' : tbOpc (lsNat i.stick addr 32) ≤ 7) (hreserved : blockReservedBad (lsNat i.stick addr 32) = false) :
    execTile a areg dst s = .next (setSlug (modGalley (countIssue s i.stick.forme) a.platen a.galley (fun g =>
      { g with ops := g.ops ++ [issuedOp a i.slug (lsNat i.stick addr 32)] })) a ((ticketed i.slug dst).goto a.next)) := by
  have opcode : ¬ (tbOpc (lsNat i.stick addr 32) = 0 ∨ tbOpc (lsNat i.stick addr 32) > 7) := by omega
  have tickets (v : Nat → W32) : (regSetAll i.slug dst v).tickets = i.slug.tickets := by rw [regSetAll_frame]
  simp only [execTile, h, haddr, hinside, hreserved, opcode, haligned, Nat.not_le.mpr htop, Nat.not_le.mpr hroom, tickets,
    if_false, ne_eq, not_true_eq_false, Bool.not_true, Bool.false_eq_true]
  rfl

/-- The stick, the operations and the frame of a slug that has issued an operation. -/
theorem issued_replaces (o : TileOp) (y : Slug) (ticket : Nat) :
    let t := setSlug (modGalley (countIssue s i.stick.forme) a.platen a.galley (fun g => { g with ops := g.ops ++ [o] })) a y
    TileFrame s t { platen := a.platen, galley := a.galley, stick := a.stick, slug := a.slug, ticket := ticket } ∧
    (getGalley t a.platen a.galley).ops = (getGalley s a.platen a.galley).ops ++ [o] ∧
    getStick t a.platen a.galley a.stick = some (withSlug i.stick a y) := by
  obtain ⟨stick, slug, -⟩ := of_issuing h
  have counted := countIssue_onlyCounted s i.stick.forme
  have added := modGalley_tileFrame (countIssue s i.stick.forme)
    { platen := a.platen, galley := a.galley, stick := a.stick, slug := a.slug, ticket := ticket }
    (fun g => { g with ops := g.ops ++ [o] }) (fun _ _ => rfl)
  refine ⟨((counted.tileFrame _).trans added).trans ((modSlug_slugFrame ..).tileFrame ticket), ?_, ?_⟩
  · simp [setSlug, modSlug, modStick, counted.getGalley]
  · refine getStick_modSlug _ ?_ slug
    rw [getStick, getGalley_modGalley_self]
    exact (counted.getStick ..).trans stick

/-! ## TWAIT (06 R203) -/

section
variable {treg : Nat} (ended : TileOp → Bool) (wait : Nat → SlugWait) (htop : treg < i.stick.header.regs)
include htop

theorem twait_issued (hticket : (regGet i.slug (lowLane i.slug) treg).toNat < i.slug.tickets) :
    twait s a treg ended wait = setSlug (countIssue s i.stick.forme) a
      (if ((slugOps s a).filter (fun o => o.ticket = (regGet i.slug (lowLane i.slug) treg).toNat)).all ended
        then i.slug.goto a.next
        else { i.slug.goto a.next with wait := wait (regGet i.slug (lowLane i.slug) treg).toNat }) := by
  have ops : slugOps (countIssue s i.stick.forme) a = slugOps s a := by
    rw [slugOps, (countIssue_onlyCounted ..).getGalley, slugOps]
  simp only [twait, h, Nat.not_le.mpr htop, Nat.not_le.mpr hticket, ops, if_false]

theorem twait_unissued (hticket : i.slug.tickets ≤ (regGet i.slug (lowLane i.slug) treg).toNat) :
    twait s a treg ended wait = plainFault (countIssue s i.stick.forme) a i.slug .ticket 0 := by
  simp [twait, h, Nat.not_le.mpr htop, hticket]

end
end

/-! ## Read-done and done (06 R203, R204; 03 R625) -/

/-- A slug that goes on if it waits for the event. -/
def Slug.woken (w : SlugWait) (x : Slug) : Slug := if x.wait = w then { x with wait := .none } else x

/-- Waking for one event and then for the other wakes a slug that waits for either. -/
theorem woken_woken (w v : SlugWait) (x : Slug) :
    (x.woken w).woken v = if x.wait = w ∨ x.wait = v then { x with wait := .none } else x := by
  by_cases e : x.wait = w <;> simp [Slug.woken, e]

section
variable (s : State) (r : OpRef)

theorem wakeSlug_tileFrame (w : SlugWait) : TileFrame s (wakeSlug s r w) r :=
  ((countWaits_onlyCounted ..).tileFrame r).trans (modGalley_tileFrame _ r _ (fun _ hk => mapGet_mapMod_ne _ _ hk))

@[simp] theorem getOp_wakeSlug (w : SlugWait) : getOp (wakeSlug s r w) r = getOp s r := by
  simp [getOp, wakeSlug, modStick, (countWaits_onlyCounted ..).getGalley]

/-- Waking touches the slug's wait alone. -/
theorem getStick_wakeSlug (w : SlugWait) : getStick (wakeSlug s r w) r.platen r.galley r.stick =
    (getStick s r.platen r.galley r.stick).map (fun k => { k with slugs := k.slugs.modify r.slug (Slug.woken w) }) := by
  rw [wakeSlug, getStick_modStick_self, (countWaits_onlyCounted ..).getStick]
  rfl

theorem removeOp_tileFrame : TileFrame s (removeOp s r) r := modGalley_tileFrame s r _ (fun _ _ => rfl)

@[simp] theorem getStick_removeOp (k : Nat) :
    getStick (removeOp s r) r.platen r.galley k = getStick s r.platen r.galley k := by simp [getStick, removeOp]

@[simp] theorem getOp_removeOp : getOp (removeOp s r) r = none := by
  simp [getOp, removeOp]

@[simp] theorem getStick_opRead : getStick (opRead s r) r.platen r.galley r.stick =
    (getStick s r.platen r.galley r.stick).map
      (fun k => { k with slugs := k.slugs.modify r.slug (Slug.woken (.readDone r.ticket)) }) :=
  (getStick_modOp ..).trans (getStick_wakeSlug ..)

@[simp] theorem getStick_opDone : getStick (opDone s r) r.platen r.galley r.stick =
    (getStick s r.platen r.galley r.stick).map
      (fun k => { k with slugs := k.slugs.modify r.slug (Slug.woken (.done r.ticket)) }) :=
  (getStick_removeOp ..).trans (getStick_wakeSlug ..)

theorem opRead_tileFrame : TileFrame s (opRead s r) r := (wakeSlug_tileFrame ..).trans (modOp_tileFrame ..)

theorem opDone_tileFrame : TileFrame s (opDone s r) r := (wakeSlug_tileFrame ..).trans (removeOp_tileFrame ..)

theorem getOp_opRead : getOp (opRead s r) r = (getOp s r).map (fun o => { o with readDone := true }) := by
  rw [opRead, getOp_modOp, getOp_wakeSlug]
  exact fun _ => rfl

@[simp] theorem getOp_opDone : getOp (opDone s r) r = none := getOp_removeOp ..

end

section
variable {s : State} {r : OpRef} {o : TileOp} (hon : platenRuns s r.platen = true) (hop : getOp s r = some o)
  (hperformed : o.performed = true)
include hon hop hperformed

theorem execTileReadDone_apart (h : o.together = false) : execTileReadDone r s = .next (opRead s r) := by
  simp [execTileReadDone, hon, hop, hperformed, h]

theorem execTileDone_apart (h : o.together = false) (hread : o.readDone = true) : execTileDone r s = .next (opDone s r) := by
  simp [execTileDone, hon, hop, hperformed, h, hread]

theorem execTileReadDone_together (h : o.together = true) : execTileReadDone r s = .next (opBoth s r) := by
  simp [execTileReadDone, hon, hop, hperformed, h]

theorem execTileDone_together (h : o.together = true) : execTileDone r s = .next (opBoth s r) := by
  simp [execTileDone, hon, hop, hperformed, h]

end

/-- A change of the operation's slug, seen in its stick. -/
theorem slug_changed {t : State} {r : OpRef} {k : Stick} {x : Slug} {f : Slug → Slug} (hx : k.slugs[r.slug]? = some x)
    (ht : getStick t r.platen r.galley r.stick = some { k with slugs := k.slugs.modify r.slug f }) :
    ∃ k', getStick t r.platen r.galley r.stick = some k' ∧ k'.slugs[r.slug]? = some (f x) ∧ k'.ls = k.ls :=
  ⟨_, ht, by simp [hx], rfl⟩

/-- Settles O26: TILE and the waits by how their issue ends, the events by whether they occur together. That one lane gives the
address and the ticket is the model's (notes/assumptions/34.md). -/
theorem tileOperationsAreIssuedWaitedForAndEnd : Obligations.TileOperationsAreIssuedWaitedForAndEnd := by
  unfold Obligations.TileOperationsAreIssuedWaitedForAndEnd
  refine ⟨?_, ?_⟩
  · intro a i s areg dst treg h x w addr b o op ticket mine waits
    refine ⟨fun htop hdst hroom haligned hinside hopc hopc' hreserved => ?_, execTile_full h, fun htop hticket => ?_,
      fun htop hticket => ?_⟩
    · obtain ⟨frame, ops, stick⟩ := issued_replaces h o ((ticketed x dst).goto a.next) x.tickets
      refine ⟨_, _, execTile_issues h rfl htop hroom haligned hinside hopc hopc' hreserved, frame, ops, stick, ?_, ?_⟩
      · rw [goto_regs, ← ticketed_frame]
      · intro l q hl hq
        exact (regGet_goto ..).trans (regGet_regSetAll x _ hdst hl hq)
    · exact ⟨congrArg _ (twait_issued h _ _ htop hticket), congrArg _ (twait_issued h _ _ htop hticket)⟩
    · exact ⟨congrArg _ (twait_unissued h _ _ htop hticket), congrArg _ (twait_unissued h _ _ htop hticket)⟩
  · intro r o k x s hon hop hperformed hk hx woken both
    have once (w : SlugWait) : x.woken w = if decide (x.wait = w) then { x with wait := .none } else x := by
      simp [Slug.woken]
    have ends : (x.woken (.readDone r.ticket)).woken (.done r.ticket) =
        if decide (x.wait = .readDone r.ticket ∨ x.wait = .done r.ticket) then { x with wait := .none } else x := by
      simp [woken_woken]
    refine ⟨fun apart => ?_, fun apart hread => ?_, fun together => ?_⟩
    · refine ⟨_, execTileReadDone_apart hon hop hperformed apart, ?_, opRead_tileFrame .., ?_⟩
      · rw [getOp_opRead, hop]
        rfl
      · rw [← once]
        exact slug_changed hx ((getStick_opRead ..).trans (by rw [hk]; rfl))
    · refine ⟨_, execTileDone_apart hon hop hperformed apart hread, getOp_opDone .., opDone_tileFrame .., ?_⟩
      rw [← once]
      exact slug_changed hx ((getStick_opDone ..).trans (by rw [hk]; rfl))
    · have wakes : woken (opBoth s r) (x.wait = .readDone r.ticket ∨ x.wait = .done r.ticket) := by
        refine ⟨(opRead_tileFrame ..).trans (opDone_tileFrame ..), ?_⟩
        rw [← ends]
        refine slug_changed (f := Slug.woken (.done r.ticket) ∘ Slug.woken (.readDone r.ticket)) hx ?_
        rw [opBoth, getStick_opDone, getStick_opRead, hk, Option.map_some, Option.map_some, ← List.modify_modify_eq]
      exact ⟨⟨_, execTileReadDone_together hon hop hperformed together, getOp_opDone .., wakes⟩,
        ⟨_, execTileDone_together hon hop hperformed together, getOp_opDone .., wakes⟩⟩

/-! ## TILE_LOAD and TILE_STORE (06 R198, R202; 10 R361) -/

/-- What is there of an operation whose effect is still to be made. -/
theorem of_opNow {s : State} {r : OpRef} {opc : Nat} {n : OpNow} (h : opNow s r opc = some n) :
    getOp s r = some n.op ∧ getStick s r.platen r.galley r.stick = some n.stick := by
  unfold opNow at h
  split at h
  case isFalse => cases h
  case isTrue =>
    split at h
    case h_2 => cases h
    case h_1 o k op stick =>
      split at h
      case isFalse => cases h
      case isTrue =>
        obtain rfl := Option.some.inj h
        exact ⟨op, stick⟩

@[simp] theorem getOp_lsWrite (s : State) (r : OpRef) (a : Nat) (d : List Byte) : getOp (lsWrite s r a d) r = getOp s r := by
  simp [getOp, lsWrite, modStick]

section
variable {s : State} {r : OpRef} {n : OpNow} {d : TensorDesc} (hstarts : startsNext s r n.op = true)
  (hcheck : boxCheck s n.stick n.op.block = .ok d)
include hstarts hcheck

theorem execTileLoad_loads (hnow : opNow s r 1 = some n) : execTileLoad r s = .next (loadFrom s r n.op n.stick d) := by
  simp [execTileLoad, hnow, hstarts, hcheck]

theorem execTileStore_stores (hnow : opNow s r 2 = some n) : execTileStore r s = .next (storeTo s r n.op n.stick d) := by
  simp [execTileStore, hnow, hstarts, hcheck]

end

/-- An operation that has written local store and been performed. -/
theorem performed_made {s u : State} {r : OpRef} {opc : Nat} {n : OpNow} {m : Bytes} (hnow : opNow s r opc = some n)
    (frame : TileFrame s u r) (op : getOp u r = getOp s r)
    (stick : getStick u r.platen r.galley r.stick = some { n.stick with ls := m }) :
    TileFrame s (opPerformed u r) r ∧
    getStick (opPerformed u r) r.platen r.galley r.stick = some { n.stick with ls := m } ∧
    getOp (opPerformed u r) r = some { n.op with started := true, performed := true } := by
  obtain ⟨hop, -⟩ := of_opNow hnow
  refine ⟨frame.trans (opPerformed_tileFrame ..), (getStick_opPerformed ..).trans stick, ?_⟩
  rw [getOp_opPerformed, op, hop]
  rfl

section
variable {s : State} {r : OpRef} {o : TileOp} {t : Stick} {d : TensorDesc} {u : State} {q : LinesAt}

/-- The runs of the box of an operation. -/
def opRuns (d : TensorDesc) (block : Nat) : List Run :=
  boxRuns d (tbOrig0 block) (tbOrig1 block) (tbOrig2 block) (tbRows block) (tbCols block)

theorem loadFrom_local (h : d.isLocal = true) : loadFrom s r o t d = opPerformed (lsWrite s r (tbDst o.block)
    ((opRuns d o.block).foldl (fun tile x => patch tile x.dst (readBytes t.ls x.addr x.len))
      (emptyTile d.type (tbRows o.block) (tbCols o.block)))) r := by
  simp [loadFrom, opRuns, h]

section
variable (h : d.isLocal = false)
  (htr : translateLines (opAccess t r 0) (.tileOp r) (runLines (opRuns d o.block)) s = (u, q))
include h htr

theorem loadFrom_denied {va : Nat} (hdenied : q.denied = some va) :
    loadFrom s r o t d = opFault u r o .translation va 0 := by
  rw [opRuns] at htr
  simp [loadFrom, h, htr, hdenied]

theorem loadFrom_held (hdenied : q.denied = none) (hheld : q.held = true) : loadFrom s r o t d = holdOp u r := by
  rw [opRuns] at htr
  simp [loadFrom, h, htr, hdenied, hheld]

theorem loadFrom_device (hdenied : q.denied = none) (hheld : q.held = false) :
    let m := readCaseLines u r.platen q.ok
    (opRuns d o.block).all (fun x => (runBytes m.2 x).isSome) = true →
    loadFrom s r o t d = opPerformed (lsWrite m.1 r (tbDst o.block)
      ((opRuns d o.block).foldl (fun tile x => patch tile x.dst ((runBytes m.2 x).getD []))
        (emptyTile d.type (tbRows o.block) (tbCols o.block)))) r := by
  intro m hclean
  have clean : (opRuns d o.block).find? (fun x => (runBytes m.2 x).isNone) = none := by
    simpa [List.find?_eq_none, Option.isSome_iff_ne_none] using hclean
  rw [opRuns] at htr clean
  simp only [loadFrom, h, htr, hdenied, hheld, Bool.false_eq_true, if_false]
  rw [clean]
  rfl

end
end

/-! ### Writes of the runs -/

section
variable (r : OpRef) (addr : Run → Nat) (data : Run → List Byte) (rs : List Run) (s : State)

theorem foldl_lsWrite_tileFrame : TileFrame s (rs.foldl (fun s x => lsWrite s r (addr x) (data x)) s) r := by
  induction rs generalizing s with
  | nil => exact (OnlyCounted.refl s).tileFrame r
  | cons x rs ih => exact (lsWrite_tileFrame ..).trans (ih _)

theorem getOp_foldl_lsWrite : getOp (rs.foldl (fun s x => lsWrite s r (addr x) (data x)) s) r = getOp s r := by
  induction rs generalizing s with
  | nil => rfl
  | cons x rs ih => rw [List.foldl_cons, ih, getOp_lsWrite]

theorem getStick_foldl_lsWrite :
    getStick (rs.foldl (fun s x => lsWrite s r (addr x) (data x)) s) r.platen r.galley r.stick =
      (getStick s r.platen r.galley r.stick).map
        (fun t => { t with ls := rs.foldl (fun m x => writeBytes m (addr x) (data x)) t.ls }) := by
  induction rs generalizing s with
  | nil => simp
  | cons x rs ih =>
    rw [List.foldl_cons, ih, getStick_lsWrite, Option.map_map]
    rfl

end

section
variable {s : State} {r : OpRef} {o : TileOp} {t : Stick} {d : TensorDesc} {u : State} {q : LinesAt}

theorem storeTo_local (h : d.isLocal = true) : storeTo s r o t d = opPerformed ((opRuns d o.block).foldl (fun s x =>
    lsWrite s r x.addr (readBytes t.ls (tbDst o.block + x.dst) x.len)) s) r := by
  simp [storeTo, opRuns, h]

section
variable (h : d.isLocal = false)
  (htr : translateLines (opAccess t r 1) (.tileOp r) (runLines (opRuns d o.block)) s = (u, q))
include h htr

theorem storeTo_denied {va : Nat} (hdenied : q.denied = some va) :
    storeTo s r o t d = opFault u r o .translation va 0 := by
  rw [opRuns] at htr
  simp [storeTo, h, htr, hdenied]

theorem storeTo_held (hdenied : q.denied = none) (hheld : q.held = true) : storeTo s r o t d = holdOp u r := by
  rw [opRuns] at htr
  simp [storeTo, h, htr, hdenied, hheld]

/-- One line of a store: whole lines go through the stream tracker. -/
def storeLine (r : OpRef) (t : Stick) (ok : SMap Nat) (u : State) (kv : Nat × Nat × List Byte) : State :=
  match mapGet ok kv.1 with
  | none => u
  | some ln =>
    if kv.2.1 = 2 ^ 128 - 1 then caseWriteWhole u r.platen ln kv.2.2 (noBypassOf u t) t.forme
    else cacheWrite u r.platen ln kv.2.1 kv.2.2 none

theorem storeTo_device (hdenied : q.denied = none) (hheld : q.held = false) : storeTo s r o t d =
    opPerformed ((runWrites t (tbDst o.block) (opRuns d o.block)).foldl (storeLine r t q.ok) u) r := by
  rw [opRuns] at htr
  simp only [storeTo, h, htr, hdenied, hheld, Bool.false_eq_true, if_false]
  rfl

end
end

/-- Settles O27: a box in local store moves there, and one in device memory by what becomes of its translations. -/
theorem tileLoadAndStoreMoveTheBox : Obligations.TileLoadAndStoreMoveTheBox := by
  unfold Obligations.TileLoadAndStoreMoveTheBox
  intro r n d s hstarts hcheck b rs tile tr made stops
  refine ⟨fun hnow => ?_, fun hnow => ?_⟩
  · have runs := execTileLoad_loads hstarts hcheck hnow
    refine ⟨fun hlocal => ?_, fun hdev => ⟨⟨fun va hdenied => ?_, fun hdenied hheld => ?_⟩, fun hdenied hheld hclean => ?_⟩⟩
    · rw [loadFrom_local hlocal] at runs
      obtain ⟨-, hstick⟩ := of_opNow hnow
      exact ⟨_, runs, performed_made hnow (lsWrite_tileFrame ..) (getOp_lsWrite ..)
        ((getStick_lsWrite ..).trans (by rw [hstick]; rfl))⟩
    · exact runs.trans (congrArg _ (loadFrom_denied hdev rfl hdenied))
    · exact runs.trans (congrArg _ (loadFrom_held hdev rfl hdenied hheld))
    · exact runs.trans (congrArg _ (loadFrom_device hdev rfl hdenied hheld hclean))
  · have runs := execTileStore_stores hstarts hcheck hnow
    refine ⟨fun hlocal => ?_, fun hdev => ⟨⟨fun va hdenied => ?_, fun hdenied hheld => ?_⟩, fun hdenied hheld => ?_⟩⟩
    · rw [storeTo_local hlocal] at runs
      obtain ⟨-, hstick⟩ := of_opNow hnow
      exact ⟨_, runs, performed_made hnow (foldl_lsWrite_tileFrame ..) (getOp_foldl_lsWrite ..)
        ((getStick_foldl_lsWrite ..).trans (by rw [hstick]; rfl))⟩
    · exact runs.trans (congrArg _ (storeTo_denied hdev rfl hdenied))
    · exact runs.trans (congrArg _ (storeTo_held hdev rfl hdenied hheld))
    · exact runs.trans (congrArg _ (storeTo_device hdev rfl hdenied hheld))

end Sys2Proof.Machine
end

section
/-! PROOFS. The operations of the Brayer: what each writes when its checks pass, and the end of one of no work (07 R230 to R252,
R623; 04 R119 to R122, R133; 05 R173 to R175). -/

namespace Sys2Proof.Machine

open Sys2Proof

/-! ## A Brayer operation in turn (07 R226, R623) -/

/-- What is in its turn at the Brayer is an operation whose effect is still to be made. -/
theorem opNow_of_brayerNow {s : State} {r : OpRef} {kind : BrayerKind} {n : OpNow} (h : brayerNow s r kind = some n) :
    opNow s r 7 = some n := by
  unfold brayerNow at h
  split at h
  case h_1 => cases h
  case h_2 m now =>
    dsimp only at h
    split at h
    · exact now.trans h
    · cases h

/-- The descriptor of a Brayer operation. -/
def OpNow.chain (n : OpNow) : Chain := Chain.ofNat (lsNat n.stick (tbOpa n.op.block) 128)

section
variable {s : State} {r : OpRef} {n : OpNow} {head zero : Chain → Bool} {regions : Chain → List TileRegion}
  {late : Chain → Option (StickCode × Nat)} {overlap : Chain → Bool} {go : State → Chain → State}
  (haligned : tbOpa n.op.block % 32 = 0) (hinside : lsInside n.stick (tbOpa n.op.block) 128 = true)
  (hheader : n.chain.headBad (tbBind n.op.block) = false) (hhead : head n.chain = false)
include haligned hinside hheader hhead

theorem brayerRun_idle (hzero : zero n.chain = true) :
    brayerRun s r n head zero regions late overlap go = zeroWork s r n.stick := by
  rw [OpNow.chain] at hheader hhead hzero
  simp [brayerRun, haligned, hinside, hheader, hhead, hzero]

theorem brayerRun_goes (hzero : zero n.chain = false) (hregions : regionFault n.stick (regions n.chain) = none)
    (hlate : late n.chain = none) (hoverlap : overlap n.chain = false) :
    brayerRun s r n head zero regions late overlap go = go s n.chain := by
  rw [OpNow.chain] at hheader hhead hzero hregions hlate hoverlap
  simp [brayerRun, haligned, hinside, hheader, hhead, hzero, hregions, hlate, hoverlap, OpNow.chain]

end

/-! ## What an operation has written before its effect is made -/

@[simp] theorem getOp_proofCount (s : State) (r : OpRef) (t : Stick) (tag : Nat) (xs : List Seen) :
    getOp (proofCount s r t tag xs) r = getOp s r := by
  simp [getOp, proofCount]

@[simp] theorem getOp_opTogether (s : State) (r : OpRef) : getOp (opTogether s r) r =
    (getOp s r).map (fun o => { o with started := true, performed := true, together := true }) := by
  rw [opTogether, getOp_modOp, getOp_opPerformed, Option.map_map]
  · rfl
  · exact fun _ => rfl

/-- An operation of stick `k` has made local store `m`, and is not yet performed. -/
structure Written (s u : State) (r : OpRef) (k : Stick) (m : Bytes) : Prop where
  frame : TileFrame s u r
  op : getOp u r = getOp s r
  stick : getStick u r.platen r.galley r.stick = some { k with ls := m }

namespace Written
variable {s u : State} {r : OpRef} {k : Stick} {m : Bytes}

section
variable (h : Written s u r k m)
include h

theorem lsWrite (a : Nat) (d : List Byte) : Written s (lsWrite u r a d) r k (writeBytes m a d) :=
  ⟨h.frame.trans (lsWrite_tileFrame ..), (getOp_lsWrite ..).trans h.op, (getStick_lsWrite ..).trans (by rw [h.stick]; rfl)⟩

theorem proofCount (t : Stick) (tag : Nat) (xs : List Seen) : Written s (proofCount u r t tag xs) r k m :=
  ⟨h.frame.trans (proofCount_tileFrame ..), (getOp_proofCount ..).trans h.op, (getStick_proofCount ..).trans h.stick⟩

theorem counted {v : State} (hv : OnlyCounted u v) : Written s v r k m :=
  ⟨h.frame.trans (hv.tileFrame r), by rw [getOp, hv.getGalley]; exact h.op, (hv.getStick ..).trans h.stick⟩

theorem brayerBusy (t : Stick) (clocks : Nat) : Written s (brayerBusy u t clocks) r k m := h.counted (countFor_onlyCounted ..)

end

/-- Writes one after another, each to its address. -/
theorem writes {α : Type} (addr : α → Nat) (data : α → List Byte) (xs : List α) (h : Written s u r k m) :
    Written s (xs.foldl (fun u x => Machine.lsWrite u r (addr x) (data x)) u) r k
      (xs.foldl (fun m x => writeBytes m (addr x) (data x)) m) := by
  induction xs generalizing u m with
  | nil => exact h
  | cons x xs ih => exact ih (h.lsWrite ..)

end Written

/-- An operation of the Brayer has been performed: its stick's local store is `m`, and its events may occur together. -/
def BrayerEnded (s t : State) (r : OpRef) (n : OpNow) (together : Bool) (m : Bytes) : Prop :=
  TileFrame s t r ∧ getStick t r.platen r.galley r.stick = some { n.stick with ls := m } ∧
    getOp t r = some { n.op with started := true, performed := true, together := n.op.together || together }

section
variable {s u : State} {r : OpRef} {kind : BrayerKind} {n : OpNow} {m : Bytes} (hnow : brayerNow s r kind = some n)
include hnow

theorem Written.performed (h : Written s u r n.stick m) : BrayerEnded s (opPerformed u r) r n false m := by
  rw [BrayerEnded, Bool.or_false]
  exact performed_made (opNow_of_brayerNow hnow) h.frame h.op h.stick

/-- Before it writes, its stick's local store is as it was read. -/
theorem written_start : Written s s r n.stick n.stick.ls :=
  have ⟨_, hstick⟩ := of_opNow (opNow_of_brayerNow hnow)
  ⟨(OnlyCounted.refl s).tileFrame r, rfl, hstick⟩

theorem zeroWork_ended : BrayerEnded s (zeroWork s r n.stick) r n true n.stick.ls := by
  obtain ⟨hop, -⟩ := of_opNow (opNow_of_brayerNow hnow)
  have drawn : OnlyCounted s s.drawn := ⟨rfl, fun _ => rfl⟩
  have busy := ((written_start hnow).counted drawn).brayerBusy n.stick (Config.freeNat s.free % 21)
  refine ⟨busy.frame.trans (opTogether_tileFrame ..), (getStick_opTogether ..).trans busy.stick, ?_⟩
  rw [zeroWork, getOp_opTogether, busy.op, hop, Bool.or_true]
  rfl

/-! ## Chains (07 R230 to R246) -/

theorem chainGo_ended {b : Nat} {c : Chain} {dir : Dir} {wf : WorkFmt} {fmt : Kind} (hdir : dirOf c.rnd = some dir)
    (hwf : wfOf c.wf = some wf) (hfmt : typeKind (chainTarget s n.stick b c).1 = some fmt) :
    let e := chainEnv s n.stick b c dir wf fmt
    BrayerEnded s (chainGo s r n.stick b c) r n false (writeBytes n.stick.ls c.dst
      (if c.red = 0 then tilePack fmt ((chainTile n.stick e c).map (·.1))
       else packElems fmt.bits ((List.range c.outCount).map (fun i =>
         (convElem (nd5Of s n.stick) dir fmt ((reduceOut e c i).val.scale e.shift)).code)))) := by
  intro e
  simp only [chainGo, hdir, hwf, hfmt]
  split
  case isTrue hred => exact ((((written_start hnow).lsWrite ..).proofCount ..).brayerBusy ..).performed hnow
  case isFalse hred =>
    simp only [List.map_map]
    exact ((((written_start hnow).lsWrite ..).proofCount ..).brayerBusy ..).performed hnow

/-! ## SLICE (07 R247, 04 R119 to R122) -/

theorem sliceGo_ended {c : Chain} {fmt : Kind} (hfmt : typeKind (c.typeOf 0) = some fmt)
    (hrange : sliceRangeBad (nd5Of s n.stick) n.stick c fmt = false) :
    let d := sliceDescOf n.stick c
    let elems := (List.range (c.cols / 32)).flatMap (fun b => (List.range c.rows).flatMap (fun i =>
      (List.range 32).map (fun j => sliceElem (nd5Of s n.stick) n.stick c fmt d.s i (32 * b + j))))
    BrayerEnded s (sliceGo s r n.op n.stick c) r n false
      (((List.range d.s).map (fun i => (d.planeBase + i * d.stride,
          elems.map (fun e => BitVec.ofNat 8 (unsigned (8 * d.s) e.x / 2 ^ (8 * (d.s - 1 - i)))))) ++
        [(d.classBase, packClasses (elems.map (·.cls))), (d.expBase, readBytes n.stick.ls (c.srcOf 1) (2 * c.rows))]).foldl
          (fun m x => writeBytes m x.1 x.2) n.stick.ls) := by
  intro d elems
  rw [List.foldl_append, List.foldl_map]
  have planes := (written_start hnow).writes (fun i => d.planeBase + i * d.stride)
    (fun i => elems.map (fun e => BitVec.ofNat 8 (unsigned (8 * d.s) e.x / 2 ^ (8 * (d.s - 1 - i))))) (List.range d.s)
  simp only [sliceGo, hfmt, hrange, Bool.false_eq_true, if_false]
  exact ((((planes.lsWrite ..).lsWrite ..).proofCount ..).brayerBusy ..).performed hnow

/-! ## SPREAD (07 R248, 04 R133) -/

theorem spreadGo_ended {c : Chain} {fmt : Kind} (hfmt : typeKind (c.typeOf 0) = some fmt) :
    let v (i j : Nat) : Num :=
      tileVal (nd5Of s n.stick) (lsByte n.stick) (c.srcOf 0) (c.typeOf 0) fmt 0 c.rows c.cols i j
    let fresh (i : Nat) : SpreadRec :=
      (if c.axis = 0 then (List.range c.cols).map (v i) else (List.range c.rows).map (fun j => v j i)).foldl
        (fun a x => a.join (SpreadRec.ofNum x)) SpreadRec.empty
    let joined (i : Nat) : SpreadRec :=
      if c.red = 1 then (SpreadRec.ofNat (lsNat n.stick (c.dst + 8 * i) 8)).join (fresh i) else fresh i
    BrayerEnded s (spreadGo s r n.stick c) r n false
      (writeBytes n.stick.ls c.dst ((List.range c.outCount).flatMap (fun i => (joined i).pack))) := by
  intro v fresh joined
  simp only [spreadGo, hfmt]
  exact (((written_start hnow).lsWrite ..).brayerBusy ..).performed hnow

/-! ## UPDATE (07 R249 to R252, 05 R173 to R175) -/

theorem updateGo_ended (b : Nat) (c : Chain) :
    let blocks := (List.range (c.cols / 32)).flatMap (fun j => (List.range c.rows).map (fun i =>
      updateBlock (nd5Of s n.stick) n.stick c j i))
    let row (f : FloatFmt) (g : Updated → Num) :=
      blocks.map (fun us => convRow (nd5Of s n.stick) .away (.scaled f) false (us.map g))
    BrayerEnded s (updateGo s r n.stick b c) r n false
      ([(c.srcOf 1, tilePack (.scaled ffF8E4) (row ffF8E4 (·.m))), (c.srcOf 2, tilePack (.scaled ffF8E5) (row ffF8E5 (·.v))),
        (c.srcOf 3, packElems 16 (blocks.flatten.map (·.w.code))),
        (c.dst, blocks.flatten.map (fun x => BitVec.ofNat 8 (unsigned 8 x.r)))].foldl
          (fun m x => writeBytes m x.1 x.2) n.stick.ls) := by
  intro blocks row
  exact ((((((((written_start hnow).lsWrite ..).lsWrite ..).lsWrite ..).lsWrite ..).proofCount ..).proofCount ..).brayerBusy
    ..).performed hnow

end

/-! ## The four operations -/

section
variable {s : State} {r : OpRef} {n : OpNow} (haligned : tbOpa n.op.block % 32 = 0)
  (hinside : lsInside n.stick (tbOpa n.op.block) 128 = true) (hheader : n.chain.headBad (tbBind n.op.block) = false)
include haligned hinside hheader

section
variable (hnow : brayerNow s r .chain = some n) (hhead : chainHeadBad s n.stick n.op.block n.chain = false)
include hnow hhead

theorem execBrayerChain_idle (hzero : n.chain.nstep = 0 ∨ n.chain.rows = 0 ∨ n.chain.cols = 0) :
    execBrayerChain r s = .next (zeroWork s r n.stick) := by
  simp only [execBrayerChain, hnow]
  exact congrArg _ (brayerRun_idle haligned hinside hheader hhead (by simpa [or_assoc] using hzero))

theorem execBrayerChain_goes (hsteps : n.chain.nstep ≠ 0) (hrows : n.chain.rows ≠ 0) (hcols : n.chain.cols ≠ 0)
    (hregions : regionFault n.stick
      (n.chain.named.map (chainSrc n.chain) ++ [chainDst s n.stick n.op.block n.chain]) = none)
    (hoverlap : overlapBad (chainDst s n.stick n.op.block n.chain) (n.chain.named.map (chainSrc n.chain)) = false) :
    execBrayerChain r s = .next (chainGo s r n.stick n.op.block n.chain) := by
  simp only [execBrayerChain, hnow]
  exact congrArg _ (brayerRun_goes haligned hinside hheader hhead (by simp [hsteps, hrows, hcols]) hregions rfl hoverlap)

end

section
variable (hnow : brayerNow s r .slice = some n) (hhead : sliceHeadBad s n.stick n.op.block n.chain = false)
include hnow hhead

theorem execSlice_idle (hzero : n.chain.rows = 0 ∨ n.chain.cols = 0) :
    execSlice r s = .next (zeroWork s r n.stick) := by
  simp only [execSlice, hnow]
  exact congrArg _ (brayerRun_idle haligned hinside hheader hhead (by simpa using hzero))

theorem execSlice_goes (hrows : n.chain.rows ≠ 0) (hcols : n.chain.cols ≠ 0)
    (hregions : regionFault n.stick
      [sliceSrc n.chain, sliceExps n.chain, { base := n.chain.dst, len := 16, align := 16 }] = none)
    (hlate : sliceLate n.stick n.chain = none) (hoverlap : sliceOverlap n.stick n.chain = false) :
    execSlice r s = .next (sliceGo s r n.op n.stick n.chain) := by
  simp only [execSlice, hnow]
  exact congrArg _ (brayerRun_goes haligned hinside hheader hhead (by simp [hrows, hcols]) hregions hlate hoverlap)

end

section
variable (hnow : brayerNow s r .spread = some n) (hhead : spreadHeadBad n.chain = false)
include hnow hhead

theorem execSpread_idle (hzero : n.chain.rows = 0 ∨ n.chain.cols = 0) :
    execSpread r s = .next (zeroWork s r n.stick) := by
  simp only [execSpread, hnow]
  exact congrArg _ (brayerRun_idle haligned hinside hheader hhead (by simpa using hzero))

theorem execSpread_goes (hrows : n.chain.rows ≠ 0) (hcols : n.chain.cols ≠ 0)
    (hregions : regionFault n.stick [sliceSrc n.chain, spreadDst n.chain] = none)
    (hoverlap : overlapBad (spreadDst n.chain) [sliceSrc n.chain] = false) :
    execSpread r s = .next (spreadGo s r n.stick n.chain) := by
  simp only [execSpread, hnow]
  exact congrArg _ (brayerRun_goes haligned hinside hheader hhead (by simp [hrows, hcols]) hregions rfl hoverlap)

end

section
variable (hnow : brayerNow s r .update = some n) (hhead : updateHeadBad s n.stick n.op.block n.chain = false)
include hnow hhead

theorem execUpdate_idle (hzero : n.chain.rows = 0 ∨ n.chain.cols = 0) :
    execUpdate r s = .next (zeroWork s r n.stick) := by
  simp only [execUpdate, hnow]
  exact congrArg _ (brayerRun_idle haligned hinside hheader hhead (by simpa using hzero))

theorem execUpdate_goes (hrows : n.chain.rows ≠ 0) (hcols : n.chain.cols ≠ 0)
    (hregions : regionFault n.stick (updateRegions n.chain) = none) (hmeet : pairsMeet (updateRegions n.chain) = false) :
    execUpdate r s = .next (updateGo s r n.stick n.op.block n.chain) := by
  simp only [execUpdate, hnow]
  exact congrArg _ (brayerRun_goes haligned hinside hheader hhead (by simp [hrows, hcols]) hregions rfl hmeet)

end
end

/-- Settles O30: an operation whose checks pass has no work, or it goes, and what it has written is read off. -/
theorem brayerWritesWhatItsDescriptorNames : Obligations.BrayerWritesWhatItsDescriptorNames := by
  unfold Obligations.BrayerWritesWhatItsDescriptorNames
  intro r n s b k c haligned hinside hheader nd5 ends done write
  refine ⟨?chain, ?idle, ?slice, ?spread, ?update⟩
  case chain =>
    intro hnow hhead
    refine ⟨fun hzero => ⟨_, execBrayerChain_idle haligned hinside hheader hnow hhead hzero, zeroWork_ended hnow⟩, ?_⟩
    intro dir wf kind hsteps hrows hcols hdir hwf hkind hregions hoverlap e
    exact ⟨_, execBrayerChain_goes haligned hinside hheader hnow hhead hsteps hrows hcols hregions hoverlap,
      chainGo_ended hnow hdir hwf hkind⟩
  case idle =>
    intro hzero
    exact ⟨
      fun hnow hhead => ⟨_, execSlice_idle haligned hinside hheader hnow hhead hzero, zeroWork_ended hnow⟩,
      fun hnow hhead => ⟨_, execSpread_idle haligned hinside hheader hnow hhead hzero, zeroWork_ended hnow⟩,
      fun hnow hhead => ⟨_, execUpdate_idle haligned hinside hheader hnow hhead hzero, zeroWork_ended hnow⟩⟩
  case slice =>
    intro kind hnow hhead hkind hrows hcols hregions hlate hoverlap hrange d elems
    exact ⟨_, execSlice_goes haligned hinside hheader hnow hhead hrows hcols hregions hlate hoverlap,
      sliceGo_ended hnow hkind hrange⟩
  case spread =>
    intro kind hnow hhead hkind hrows hcols hregions hoverlap v fresh joined
    exact ⟨_, execSpread_goes haligned hinside hheader hnow hhead hrows hcols hregions hoverlap, spreadGo_ended hnow hkind⟩
  case update =>
    intro hnow hhead hrows hcols hregions hmeet blocks row
    exact ⟨_, execUpdate_goes haligned hinside hheader hnow hhead hrows hcols hregions hmeet, updateGo_ended hnow b c⟩

end Sys2Proof.Machine
end

section
/-! PROOFS. What the operations of the homes and the rows of 08 leave alone: all but memory, its records and counters, in a
node that runs on (08 R258 to R282, 15 R519, R528, 16 R541). -/

namespace Sys2Proof.Machine

open Sys2Proof

/-! ## The homes -/

theorem MemoryFrame.refl (s : State) : MemoryFrame s s := ⟨rfl, fun _ => rfl⟩

theorem MemoryFrame.trans {s t u : State} (h : MemoryFrame s t) (k : MemoryFrame t u) : MemoryFrame s u := by
  refine ⟨?_, h.2.trans k.2⟩
  rw [k.1, h.1]

theorem MemoryFrame.powered {s t : State} (h : MemoryFrame s t) : t.powered = s.powered := by
  rw [h.1]
  rfl

/-- What an operation of the homes leads to: only memory, its records and counters differ, or the node no longer runs (08
R274); and every stack is still there. -/
structure InMemory (s t : State) : Prop where
  frame : MemoryFrame s t ∨ (s.powered = true ∧ t.powered = false)
  present : ∀ k, (mapGet s.stackTab k).isSome = true → (mapGet t.stackTab k).isSome = true

namespace InMemory

variable {s t u : State}

theorem refl (s : State) : InMemory s s := ⟨.inl (.refl s), fun _ h => h⟩

theorem trans (h : InMemory s t) (k : InMemory t u) : InMemory s u := by
  refine ⟨?_, fun i hi => k.present i (h.present i hi)⟩
  rcases h.frame with h | ⟨on, off⟩
  · rcases k.frame with k | ⟨on, off⟩
    · exact .inl (h.trans k)
    · exact .inr ⟨h.powered ▸ on, off⟩
  · rcases k.frame with k | ⟨on', -⟩
    · exact .inr ⟨on, k.powered.trans off⟩
    · exact absurd on' (Bool.eq_false_iff.mp off)

theorem ite {c : Prop} [Decidable c] (ht : InMemory s t) (hu : InMemory s u) : InMemory s (if c then t else u) := by
  split
  · exact ht
  · exact hu

theorem foldl {α : Type} {f : State → α → State} (hf : ∀ s a, InMemory s (f s a)) (l : List α) (s : State) :
    InMemory s (l.foldl f s) := by
  induction l generalizing s with
  | nil => exact refl s
  | cons a l ih => exact (hf s a).trans (ih (f s a))

/-- A node that is still in its phase has only memory, its records and counters changed. -/
theorem memoryFrame (h : InMemory s t) (hp : t.phase = s.phase) : MemoryFrame s t := by
  refine h.frame.resolve_right fun ⟨on, off⟩ => ?_
  rw [State.powered, hp] at off
  exact Bool.eq_false_iff.mp off on

/-- An update of memory, of what the homes keep besides the stacks, and of the draws. -/
theorem upd (h : InMemory s t) (mem : Bytes) (poison : SMap Unit) (errors : SMap (List (Nat × Byte))) (absentRing : Ring)
    (homeFull : SMap Nat) (free : Nat) : InMemory s
      { t with mem := mem, poison := poison, errors := errors, absentRing := absentRing, homeFull := homeFull, free := free } :=
  h.trans ⟨.inl ⟨rfl, fun _ => rfl⟩, fun _ h => h⟩

end InMemory

theorem drawn_inMemory (s : State) : InMemory s s.drawn := .upd (.refl s) ..

theorem countFor_inMemory (s : State) (f : Option Nat) (c : Ctr) (n : Nat) : InMemory s (countFor s f c n) := by
  refine ⟨.inl ⟨?_, (countFor_frame s f c n).2⟩, fun k h => ?_⟩ <;> rw [(countFor_frame s f c n).1]
  exact h

theorem modStack_inMemory (s : State) (k : Nat) (g : Stack → Stack) : InMemory s (modStack s k g) := by
  refine ⟨.inl ⟨rfl, fun _ => rfl⟩, fun i h => ?_⟩
  rw [modStack, mapGet_mapMod]
  split
  · subst i
    rwa [Option.isSome_map]
  · exact h

theorem modPch_inMemory (s : State) (k p : Nat) (g : Pch → Pch) : InMemory s (modPch s k p g) := modStack_inMemory ..

theorem powerOffStacks_present (s : State) (k : Nat) :
    (mapGet (powerOffStacks s).stackTab k).isSome = (mapGet s.stackTab k).isSome := by
  have entry := mapGet_map s.stackTab
    (fun i x => if i < 2 then { x with selfRefresh := true } else { x with keySet := s.sec.nextKeys, pchs := [] }) k
  exact (congrArg Option.isSome entry).trans (Option.isSome_map ..)

/-- Retirement ends the node's running; the stacks without power stay in the table, with nothing in them (18 Table 18.8). -/
theorem retire_inMemory (s : State) (c : RetireCause) : InMemory s (retire s c) := by
  by_cases h : s.powered = true
  · have cold (u : State) : (if u.untrained then coldEntry u else u).stackTab = u.stackTab := by
      split
      · exact (coldEntry_only u).stackTab
      · rfl
    refine ⟨.inr ⟨h, ?_⟩, fun k hk => ?_⟩
    · rw [State.powered, retire_phase s c h]
      rfl
    · unfold retire
      rw [if_pos h]
      refine (powerOffStacks_present _ k).trans ?_
      dsimp only [powerOffDies, alert, pushNotice]
      rw [(journalWrite_frame _ _).trainOnly.stackTab, cold]
      exact hk
  · rw [retire_stopped s c (Bool.eq_false_iff.mpr h)]
    exact .refl s

theorem memRecord_inMemory (s : State) (pa kind symbols source lanes : Nat) :
    InMemory s (memRecord s pa kind symbols source lanes) := .ite (modStack_inMemory ..) (.upd (.refl s) ..)

theorem poisonSector_inMemory (s : State) (pa : Nat) : InMemory s (poisonSector s pa) :=
  .upd ((InMemory.ite (.refl s) (countFor_inMemory ..)).trans (modPch_inMemory ..)) ..

theorem memSlot_inMemory (s : State) (pa : Nat) (prio write : Bool) : InMemory s (memSlot s pa prio write) :=
  ((modPch_inMemory ..).trans (.ite (countFor_inMemory ..) (.refl _))).trans (countFor_inMemory ..)

theorem laneMove_inMemory (s : State) (k p lane pa : Nat) : InMemory s (laneMove s k p lane pa) :=
  .ite (retire_inMemory ..) (.upd (modStack_inMemory ..) ..)

theorem laneDone_inMemory (s : State) (k lane pa source : Nat) : InMemory s (laneDone s k lane pa source) :=
  (memRecord_inMemory ..).trans (countFor_inMemory ..)

theorem laneToSpare_inMemory (s : State) (k p lane pa source : Nat) : InMemory s (laneToSpare s k p lane pa source) :=
  .ite (laneMove_inMemory ..) ((laneMove_inMemory ..).trans (laneDone_inMemory ..))

theorem readFails_inMemory (s : State) (pa kind symbols source : Nat) :
    InMemory s (readFails s pa kind symbols source).1 := by
  have marked : InMemory s (if isPoisoned s pa then s else poisonSector s pa) := .ite (.refl s) (poisonSector_inMemory ..)
  unfold readFails
  dsimp only
  split
  · exact (marked.trans (drawn_inMemory _)).trans (memRecord_inMemory ..)
  · exact marked.trans (memRecord_inMemory ..)

theorem setErrors_inMemory (s : State) (pa : Nat) (p : List (Nat × Nat)) : InMemory s (setErrors s pa p) :=
  .ite (.upd (.refl s) ..) (.upd (.refl s) ..)

theorem readTag_inMemory (s : State) (pa source : Nat) (fixed left : List (Nat × Nat)) :
    InMemory s (readTag s pa source fixed left).1 := by
  unfold readTag
  split
  · exact .ite (.refl s) (((countFor_inMemory ..).trans (memRecord_inMemory ..)).trans (setErrors_inMemory ..))
  · exact readFails_inMemory ..

theorem readDecode_inMemory (s : State) (pa source : Nat) : InMemory s (readDecode s pa source).1 := by
  unfold readDecode
  dsimp only
  split
  · exact readTag_inMemory ..
  · split <;> exact readFails_inMemory ..

theorem sectorRead_inMemory (source : Nat) (prio : Bool) (pa : Nat) (s : State) :
    InMemory s (sectorRead source prio pa s).1 := by
  have slot := memSlot_inMemory s pa prio false
  unfold sectorRead
  dsimp only
  split
  · exact (slot.trans (laneToSpare_inMemory ..)).trans (readDecode_inMemory ..)
  · exact slot.trans (readDecode_inMemory ..)

theorem writeWhole_inMemory (s : State) (pa : Nat) (data : List Byte) : InMemory s (writeWhole s pa data) :=
  .upd (.refl s) ..

theorem burst_inMemory (s : State) (pa : Nat) (data : List Byte) : InMemory s (burst s pa data) :=
  ((memSlot_inMemory ..).trans (modPch_inMemory ..)).trans (writeWhole_inMemory ..)

theorem mergeWrite_inMemory (s : State) (pa mask : Nat) (data : List Byte) : InMemory s (mergeWrite s pa mask data) :=
  .ite (readDecode_inMemory ..) ((readDecode_inMemory ..).trans (burst_inMemory ..))

theorem sectorWrite_inMemory (pa mask : Nat) (data : List Byte) (s : State) : InMemory s (sectorWrite pa mask data s) := by
  have slot := memSlot_inMemory s pa false false
  unfold sectorWrite
  dsimp only
  split
  · exact burst_inMemory ..
  · split
    · exact (slot.trans (laneToSpare_inMemory ..)).trans (mergeWrite_inMemory ..)
    · exact slot.trans (mergeWrite_inMemory ..)

/-! ## The queues -/

theorem noteRefusal_inMemory (s : State) (k : Nat) : InMemory s (noteRefusal s k) := by
  unfold noteRefusal
  dsimp only
  split
  · exact .ite (.upd (.refl s) ..) (.refl s)
  · exact .ite (.refl s) ((InMemory.upd (.refl s) ..).trans (countFor_inMemory ..))

theorem letIn_inMemory (s : State) (k p : Nat) : InMemory s (letIn s k p) := by
  unfold letIn
  split
  · exact (modPch_inMemory ..).trans (noteRefusal_inMemory ..)
  · exact .refl s

theorem serve_inMemory (s : State) (r : MemReq) : InMemory s (serve s r) := by
  unfold serve
  split
  · exact sectorWrite_inMemory ..
  · exact sectorRead_inMemory ..

theorem serveFor_inMemory (n : Nat) (s : State) (k p : Nat) : InMemory s (serveFor n s k p) := by
  induction n generalizing s with
  | zero => exact .refl s
  | succ n ih =>
    unfold serveFor
    split
    · exact .refl s
    · exact (((modPch_inMemory ..).trans (letIn_inMemory ..)).trans (serve_inMemory ..)).trans (ih _)

theorem serveQueue_inMemory (s : State) (k p : Nat) : InMemory s (serveQueue s k p) := serveFor_inMemory ..

theorem enqueue_inMemory (s : State) (r : MemReq) : InMemory s (enqueue s r) :=
  (modPch_inMemory ..).trans (noteRefusal_inMemory ..)

theorem serveBefore_inMemory (n : Nat) (s : State) (k p : Nat) (r : MemReq) : InMemory s (serveBefore n s k p r) := by
  induction n generalizing s with
  | zero => exact .refl s
  | succ n ih =>
    unfold serveBefore
    split
    · exact .refl s
    · next x _ =>
      have taken := (modPch_inMemory s k p fun c => { c with queue := c.queue.erase x }).trans (letIn_inMemory _ k p)
      exact .ite taken ((taken.trans (serve_inMemory ..)).trans (ih _))

/-- An access that takes its turn changes what its own act and the queue change. -/
theorem inTurn_inMemory {α : Type} (s : State) (r : MemReq) (act : State → State × α) (h : ∀ u, InMemory u (act u).1) :
    InMemory s (inTurn s r act).1 := by
  unfold inTurn
  dsimp only
  split
  · exact h s
  · exact (((enqueue_inMemory ..).trans (serveBefore_inMemory ..)).trans (h _)).trans (serveQueue_inMemory ..)

/-! ## Recoveries, self-refresh, and accesses that wait for their end -/

theorem heldPa_inMemory (s : State) (k p : Nat) : InMemory s (heldPa s k p).1 := by
  unfold heldPa
  split
  · exact .refl s
  · exact drawn_inMemory s

theorem goOn_inMemory (s : State) (k p : Nat) (held : Option MemReq) : InMemory s (goOn s k p held) := by
  have issued : InMemory s (reissue (modPch s k p Pch.sound) k p) :=
    ((modPch_inMemory ..).trans (modPch_inMemory ..)).trans (.foldl (fun _ _ => writeWhole_inMemory ..) _ _)
  cases held with
  | none => exact issued
  | some r => exact issued.trans (serve_inMemory ..)

theorem endRecovery_inMemory (s : State) (k p lane : Nat) : InMemory s (endRecovery s k p lane) :=
  ((heldPa_inMemory ..).trans (laneDone_inMemory ..)).trans (goOn_inMemory ..)

theorem serveFree_inMemory (k : Nat) (s : State) (p : Nat) : InMemory s (serveFree k s p) :=
  .ite (.refl s) (serveQueue_inMemory ..)

theorem wakeStack_inMemory (s : State) (k : Nat) (but : Option Nat) : InMemory s (wakeStack s k but) :=
  .ite ((modStack_inMemory ..).trans (.foldl (serveFree_inMemory k) _ _)) (.refl s)

theorem recoverLane_inMemory (s : State) (k p : Nat) : InMemory s (recoverLane s k p) := by
  have moved (lane : Nat) := (heldPa_inMemory s k p).trans (laneMove_inMemory _ k p lane (heldPa s k p).2)
  unfold recoverLane
  split
  · exact .refl s
  · exact .ite (endRecovery_inMemory ..) (.ite ((moved _).trans (endRecovery_inMemory ..)) (moved _))

theorem unblock_inMemory (s : State) (k p : Nat) : InMemory s (unblock s k p) :=
  (wakeStack_inMemory ..).trans (recoverLane_inMemory ..)

theorem homeRead_inMemory (source : Nat) (prio : Bool) (pa : Nat) (s : State) :
    InMemory s (homeRead source prio pa s).1 := by
  unfold homeRead
  split
  · exact memRecord_inMemory ..
  · exact (unblock_inMemory ..).trans (inTurn_inMemory _ _ _ (sectorRead_inMemory source prio pa))

theorem homeWrite_inMemory (pa mask : Nat) (data : List Byte) (s : State) : InMemory s (homeWrite pa mask data s) :=
  .ite ((drawn_inMemory s).trans (memRecord_inMemory ..))
    ((unblock_inMemory ..).trans (inTurn_inMemory _ _ _ (sectorWrite_inMemory pa mask data)))

/-! ## The rows of the pool -/

section
variable {s t : State}

theorem addErrors_inMemory (s : State) (pa : Nat) (errs : List (Nat × Byte)) : InMemory s (addErrors s pa errs) :=
  .ite (.refl s) (.ite (.upd (.refl s) ..) (.upd (.refl s) ..))

theorem execMemoryRead_inMemory {pa : Nat} {prio : Bool} {errs : List (Nat × Byte)}
    (h : execMemoryRead pa prio errs s = .next t) : InMemory s t := by
  have found := addErrors_inMemory s pa errs
  unfold execMemoryRead at h
  dsimp only at h
  split at h
  · cases h; exact .refl s
  · split at h
    · cases h; exact memRecord_inMemory ..
    · split at h
      · cases h; exact found.trans (enqueue_inMemory ..)
      · split at h <;> cases h
        · exact found.trans (modPch_inMemory ..)
        · exact (found.trans (memSlot_inMemory ..)).trans (readDecode_inMemory ..)

theorem execMemoryWrite_inMemory {pa mask : Nat} {data : List Byte} (h : execMemoryWrite pa mask data s = .next t) :
    InMemory s t := by
  unfold execMemoryWrite at h
  dsimp only at h
  split at h
  · cases h; exact .refl s
  · split at h
    · cases h; exact homeWrite_inMemory ..
    · split at h
      · cases h; exact enqueue_inMemory ..
      · split at h <;> cases h
        · exact .ite (sectorWrite_inMemory ..) (modPch_inMemory ..)
        · exact sectorWrite_inMemory ..

/-- The error of a byte lane is noted, with those of the last microsecond (08 Table 8.10). -/
def crcNoted (s : State) (k p lane : Nat) : State :=
  modPch s k p fun c => { c with crcErrors := (lane, s.now) :: c.crcErrors.filter (fun e => s.now < e.2 + 1000) }

/-- A write that the replay buffer still holds is issued again (08 R273). -/
def burstIssued (s : State) (b : Option Burst) : State :=
  match b with
  | some b => writeWhole s b.pa b.data
  | none => s

/-- The error is noted, and the write at fault issued again from the replay buffer. -/
def crcIssued (s : State) (k p lane pa : Nat) : State :=
  let w := crcNoted s k p lane
  burstIssued w ((liveBursts s.now (getPch w k p).replay).find? (fun b => b.pa == sectorBase pa))

/-- The byte lane has had its third error within a microsecond, and no recovery is under way. -/
def crcLost (s : State) (k p lane : Nat) : Bool :=
  decide (((getPch s k p).crcErrors.filter (fun e => e.1 = lane)).length ≥ 3) && (getPch s k p).recovering.isNone

theorem execWriteCrcError_on {k p lane pa : Nat} (hon : s.powered = true) : execWriteCrcError k p lane pa s =
    if crcLost (crcIssued s k p lane pa) k p lane then
      .next (modPch (crcIssued s k p lane pa) k p fun c =>
        { stopPch (crcIssued s k p lane pa).now lane c with lostAt := some pa })
    else .next (crcIssued s k p lane pa) := by
  unfold execWriteCrcError
  rw [hon]
  rfl

theorem burstIssued_inMemory (s : State) (b : Option Burst) : InMemory s (burstIssued s b) := by
  cases b with
  | none => exact .refl s
  | some b => exact writeWhole_inMemory ..

theorem execWriteCrcError_inMemory {k p lane pa : Nat} (h : execWriteCrcError k p lane pa s = .next t) : InMemory s t := by
  have issued : InMemory s (crcIssued s k p lane pa) := (modPch_inMemory ..).trans (burstIssued_inMemory ..)
  cases hon : s.powered with
  | false =>
    rw [execWriteCrcError, hon] at h
    cases h
    exact .refl s
  | true =>
    rw [execWriteCrcError_on hon] at h
    split at h <;> cases h
    · exact issued.trans (modPch_inMemory ..)
    · exact issued

theorem execByteLaneLoss_inMemory {k p lane : Nat} (h : execByteLaneLoss k p lane s = .next t) : InMemory s t := by
  unfold execByteLaneLoss at h
  split at h <;> cases h
  · exact .refl s
  · exact ((heldPa_inMemory ..).trans (modPch_inMemory ..)).trans (laneMove_inMemory ..)

theorem lanesPass_inMemory (s : State) (k p : Nat) : InMemory s (lanesPass s k p) := by
  unfold lanesPass
  split
  · exact (readFails_inMemory ..).trans (goOn_inMemory ..)
  · exact goOn_inMemory ..

theorem execByteLaneRecovered_inMemory {k p : Nat} (h : execByteLaneRecovered k p s = .next t) : InMemory s t := by
  have ended (lane : Nat) :
      InMemory s (if (getPch s k p).confirmed then endRecovery s k p lane else lanesPass s k p) :=
    .ite (endRecovery_inMemory ..) (lanesPass_inMemory ..)
  unfold execByteLaneRecovered at h
  split at h
  · cases h; exact .refl s
  · split at h <;> cases h
    · exact .refl s
    · exact (ended _).trans (.ite (.refl _) (serveQueue_inMemory ..))

theorem execRefresh_inMemory {k p bank : Nat} (h : execRefresh k p bank s = .next t) : InMemory s t := by
  unfold execRefresh at h
  split at h <;> cases h
  · exact modPch_inMemory ..
  · exact .refl s

theorem execPatrolScrub_inMemory {k : Nat} (h : execPatrolScrub k s = .next t) : InMemory s t := by
  unfold execPatrolScrub at h
  dsimp only at h
  split at h <;> cases h
  · exact .refl s
  · exact (homeRead_inMemory ..).trans (modStack_inMemory ..)

theorem execInnerCorrPoll_inMemory {k count : Nat} (h : execInnerCorrPoll k count s = .next t) : InMemory s t := by
  unfold execInnerCorrPoll at h
  dsimp only at h
  split at h <;> cases h
  · exact .refl s
  · exact (modStack_inMemory ..).trans (countFor_inMemory ..)

theorem execSelfRefreshEntry_inMemory {k : Nat} (h : execSelfRefreshEntry k s = .next t) : InMemory s t := by
  unfold execSelfRefreshEntry at h
  dsimp only at h
  split at h <;> cases h
  · exact modStack_inMemory ..
  · exact .refl s

theorem execSelfRefreshExit_inMemory {k : Nat} (h : execSelfRefreshExit k s = .next t) : InMemory s t := by
  cases h
  exact .ite (wakeStack_inMemory ..) (.refl s)

theorem poolRow_inMemory {c : Instr} (hrow : isPoolRow c = true) (h : exec c s = .next t) : InMemory s t := by
  cases c with
  | memoryRead pa prio errs => exact execMemoryRead_inMemory h
  | memoryWrite pa mask data => exact execMemoryWrite_inMemory h
  | writeCrcError k p lane pa => exact execWriteCrcError_inMemory h
  | byteLaneLoss k p lane => exact execByteLaneLoss_inMemory h
  | byteLaneRecovered k p => exact execByteLaneRecovered_inMemory h
  | refresh k p bank => exact execRefresh_inMemory h
  | readRetrain k p => cases h; exact .refl s
  | patrolScrub k => exact execPatrolScrub_inMemory h
  | innerCorrPoll k count => exact execInnerCorrPoll_inMemory h
  | selfRefreshEntry k => exact execSelfRefreshEntry_inMemory h
  | selfRefreshExit k => exact execSelfRefreshExit_inMemory h
  | _ => exact absurd hrow Bool.false_ne_true

/-! ## A sensor's reading (08 R260, 16 Table 16.8) -/

/-- THERM_ALERT_N and its notice alone change with the sensors. -/
theorem thermAlertStep_only (s : State) :
    thermAlertStep s = { s with pins := (thermAlertStep s).pins, sb := (thermAlertStep s).sb } := by
  unfold thermAlertStep
  dsimp only
  split
  · rfl
  · split <;> rfl

theorem stackTemp_frame (s : State) (k temp : Nat) : MemoryFrame s (stackTemp s k temp) := by
  refine ((InMemory.ite (countFor_inMemory ..) (.refl s)).trans (modStack_inMemory ..)).memoryFrame ?_
  dsimp only [modStack]
  split
  · exact countFor_phase ..
  · rfl

/-- A reading of a stack is the home's, but for THERM_ALERT_N and its notice, or it trips. -/
theorem execRefreshDouble_frame {k temp : Nat} (h : execRefreshDouble k temp s = .next t) (hp : t.phase = s.phase) :
    MemoryFrame s { t with pins := s.pins, sb := s.sb } := by
  have read := stackTemp_frame s k temp
  have alerted := thermAlertStep_only (stackTemp s k temp)
  have frame : MemoryFrame s { thermAlertStep (stackTemp s k temp) with pins := s.pins, sb := s.sb } := by
    rw [alerted]
    refine ⟨?_, read.2⟩
    dsimp only
    rw [read.1]
  cases h
  split at hp
  · next on =>
    rw [if_pos on]
    unfold senseStep sense at hp ⊢
    dsimp only at hp ⊢
    split at hp
    · have still : (thermAlertStep (stackTemp s k temp)).powered = true := by
        rw [alerted]
        exact read.powered.trans on
      rw [trip, retire_phase _ _ still] at hp
      rw [State.powered, ← hp] at on
      exact absurd on Bool.false_ne_true
    · next cool =>
      rw [if_neg cool]
      exact frame
  · next off =>
    rw [if_neg off]
    exact .refl s

end

/-! ## The rows of the test port (08 R280 to R282, 15 R519, 19 R612) -/

section
variable {s t u : State}

theorem TestFrame.refl (s : State) : TestFrame s s := ⟨rfl, fun _ => rfl⟩

theorem TestFrame.trans (h : TestFrame s t) (k : TestFrame t u) : TestFrame s u := by
  refine ⟨?_, h.2.trans k.2⟩
  rw [k.1, h.1]

theorem MemoryFrame.testFrame (h : MemoryFrame s t) : TestFrame s t := by
  refine ⟨?_, h.2⟩
  rw [h.1]

theorem JournalOnly.testFrame (h : JournalOnly s t) : TestFrame s t := by
  refine ⟨?_, fun f => ?_⟩ <;> rw [h]
  rfl

theorem modStack_testFrame (s : State) (k : Nat) (g : Stack → Stack) : TestFrame s (modStack s k g) :=
  ⟨rfl, fun _ => rfl⟩

theorem setJtag_testFrame (s : State) (g : Jtag → Jtag) : TestFrame s (setJtag s g) := ⟨rfl, fun _ => rfl⟩

theorem holdRow_testFrame (s : State) (c : Instr) : TestFrame s (holdRow s c) := ⟨rfl, fun _ => rfl⟩

theorem testEntry_testFrame (s : State) (step : Nat) : TestFrame s (testEntry s step) :=
  .trans (t := s.drawn) ⟨rfl, fun _ => rfl⟩ (journalWrite_frame ..).testFrame

theorem zeroStack_testFrame (s : State) (k keys : Nat) : TestFrame s (zeroStack s k keys) := ⟨rfl, fun _ => rfl⟩

theorem forgetStack_testFrame (s : State) (k : Nat) : TestFrame s (forgetStack s k) := ⟨rfl, fun _ => rfl⟩

theorem drainStack_inMemory (s : State) (k : Nat) : InMemory s (drainStack s k) :=
  ((wakeStack_inMemory ..).trans (.foldl (fun _ _ => recoverLane_inMemory ..) _ _)).trans (.foldl (serveFree_inMemory k) _ _)

theorem execStackQuiesce_testFrame {k : Nat} (h : execStackQuiesce k s = .next t) (hp : t.phase = s.phase) :
    TestFrame s t := by
  have drained := drainStack_inMemory s k
  unfold execStackQuiesce at h
  dsimp only at h
  split at h
  · cases h
    split at hp
    · next on =>
      rw [if_pos on]
      exact ((drained.memoryFrame hp).testFrame.trans (forgetStack_testFrame ..)).trans (setJtag_testFrame ..)
    · next off =>
      rw [if_neg off]
      exact (drained.memoryFrame hp).testFrame
  · cases h
    exact setJtag_testFrame ..

theorem execRepairStatusRead_testFrame {k : Nat} (h : execRepairStatusRead k s = .next t) : TestFrame s t := by
  unfold execRepairStatusRead at h
  dsimp only at h
  split at h
  · split at h <;> cases h
    · exact holdRow_testFrame ..
    · exact ((setJtag_testFrame ..).trans (testEntry_testFrame ..)).trans (setJtag_testFrame ..)
  · cases h
    exact setJtag_testFrame ..

theorem execRowRepair_testFrame {k : Nat} {row : RowId} {hard : Bool} (h : execRowRepair k row hard s = .next t) :
    TestFrame s t := by
  unfold execRowRepair at h
  dsimp only at h
  split at h
  · split at h <;> cases h
    · exact holdRow_testFrame ..
    · exact ((testEntry_testFrame ..).trans (modStack_testFrame ..)).trans (setJtag_testFrame ..)
  · cases h
    exact setJtag_testFrame ..

theorem execPatternTest_testFrame {k : Nat} {row : RowId} {fails : Bool} (h : execPatternTest k row fails s = .next t) :
    TestFrame s t := by
  unfold execPatternTest at h
  dsimp only at h
  split at h
  · split at h <;> cases h
    · exact holdRow_testFrame ..
    · exact (((testEntry_testFrame ..).trans (setJtag_testFrame ..)).trans (modStack_testFrame ..)).trans
        (setJtag_testFrame ..)
  · cases h
    exact setJtag_testFrame ..

theorem execStackRelease_testFrame {k : Nat} (h : execStackRelease k s = .next t) : TestFrame s t := by
  unfold execStackRelease at h
  dsimp only at h
  split at h
  · split at h <;> cases h
    · exact holdRow_testFrame ..
    · exact (((testEntry_testFrame ..).trans (zeroStack_testFrame ..)).trans (modStack_testFrame ..)).trans
        (setJtag_testFrame ..)
  · cases h
    exact setJtag_testFrame ..

theorem execTestUnlock_testFrame {token : List Byte} (h : execTestUnlock token s = .next t) : TestFrame s t := by
  unfold execTestUnlock at h
  dsimp only at h
  split at h
  · split at h <;> cases h
    · exact holdRow_testFrame ..
    · exact ((testEntry_testFrame ..).trans ⟨rfl, fun _ => rfl⟩).trans (setJtag_testFrame ..)
  · cases h
    exact setJtag_testFrame ..

theorem jtagDone_testFrame (h : TestFrame s t) : TestFrame s (jtagDone t) := h.trans (setJtag_testFrame ..)

theorem execJtagInstruction_testFrame {op : JtagOp} (h : execJtagInstruction op s = .next t) : TestFrame s t := by
  have captured (u : State) : TestFrame u (capturePins u) := setJtag_testFrame ..
  unfold execJtagInstruction at h
  cases op with
  | idcode =>
    obtain rfl := Host.Outcome.next.inj h
    exact jtagDone_testFrame (setJtag_testFrame ..)
  | bypass =>
    obtain rfl := Host.Outcome.next.inj h
    exact jtagDone_testFrame (setJtag_testFrame ..)
  | samplePreload cells =>
    obtain rfl := Host.Outcome.next.inj h
    exact jtagDone_testFrame ((captured s).trans (setJtag_testFrame ..))
  | extest =>
    obtain rfl := Host.Outcome.next.inj h
    exact jtagDone_testFrame ((setJtag_testFrame ..).trans (captured _))
  | other =>
    dsimp only at h
    split at h <;> obtain rfl := Host.Outcome.next.inj h
    · exact jtagDone_testFrame (setJtag_testFrame ..)
    · exact setJtag_testFrame ..

theorem testRow_testFrame {c : Instr} (hrow : isTestRow c = true) (h : exec c s = .next t) (hp : t.phase = s.phase) :
    TestFrame s t := by
  cases c with
  | stackQuiesce k => exact execStackQuiesce_testFrame h hp
  | repairStatusRead k => exact execRepairStatusRead_testFrame h
  | rowRepair k row hard => exact execRowRepair_testFrame h
  | patternTest k row fails => exact execPatternTest_testFrame h
  | stackRelease k => exact execStackRelease_testFrame h
  | testUnlock token => exact execTestUnlock_testFrame h
  | jtagInstruction op => exact execJtagInstruction_testFrame h
  | _ => exact absurd hrow Bool.false_ne_true

end

/-- Settles O14: a row of the pool is an operation of the homes, and each row of the test port changes only what is its own. -/
theorem memoryRowsLeaveTheRestUnchanged : Obligations.MemoryRowsLeaveTheRestUnchanged := by
  unfold Obligations.MemoryRowsLeaveTheRestUnchanged
  intro c s t h hp
  refine ⟨fun hrow => (poolRow_inMemory hrow h).memoryFrame hp, fun hrow => testRow_testFrame hrow h hp, ?_⟩
  rintro k temp rfl
  exact execRefreshDouble_frame h hp

end Sys2Proof.Machine
end

section
/-! PROOFS. MEMORY_READ and MEMORY_WRITE: what each answers, record by record and byte by byte (08 R258, R262 to R273). -/

namespace Sys2Proof.Machine

open Sys2Proof

/-! ## Records (08 Table 8.11, R276) -/

@[simp] theorem memRecord_mem (s : State) (pa kind symbols source lanes : Nat) :
    (memRecord s pa kind symbols source lanes).mem = s.mem := by
  unfold memRecord
  dsimp only
  split <;> rfl

@[simp] theorem memRecord_poison (s : State) (pa kind symbols source lanes : Nat) :
    (memRecord s pa kind symbols source lanes).poison = s.poison := by
  unfold memRecord
  dsimp only
  split <;> rfl

@[simp] theorem memRecord_errors (s : State) (pa kind symbols source lanes : Nat) :
    (memRecord s pa kind symbols source lanes).errors = s.errors := by
  unfold memRecord
  dsimp only
  split <;> rfl

theorem getStack_countFor (s : State) (f : Option Nat) (c : Ctr) (n k : Nat) :
    getStack (countFor s f c n) k = getStack s k := by
  rw [(countFor_frame s f c n).1]
  rfl

theorem paStack_lt {pa : Nat} (h : paAbsent pa = false) : paStack pa < 12 := by
  simp only [paAbsent, Bool.or_eq_false_iff, decide_eq_false_iff_not] at h
  omega

/-- A record is the newest of its stack's ring. -/
theorem memRecord_newest {s : State} {pa : Nat} (hpa : paStack pa < 12)
    (hst : (mapGet s.stackTab (paStack pa)).isSome = true) (kind symbols source lanes : Nat) :
    (getStack (memRecord s pa kind symbols source lanes) (paStack pa)).ring.recs.head? = some
      { time := s.now, addr := sectorBase pa, kind := kind, symbols := symbols, source := source, lanes := lanes } := by
  obtain ⟨st, hst⟩ := Option.isSome_iff_exists.mp hst
  unfold memRecord
  dsimp only
  rw [if_pos hpa, getStack_modStack_self _ _ _ st hst]
  rfl

/-! ## Data slots and the poison mark -/

/-- A data slot changes its stack and counters alone (08 R262, 01 Table 1.8). -/
theorem memSlot_only (s : State) (pa : Nat) (prio write : Bool) : memSlot s pa prio write =
    { s with stackTab := (memSlot s pa prio write).stackTab, formes := (memSlot s pa prio write).formes,
             loose := (memSlot s pa prio write).loose } := by
  unfold memSlot
  dsimp only
  rw [(countFor_frame _ _ _ 64).1]
  split
  · rw [(countFor_frame _ _ .memRowMiss 1).1]
    rfl
  · rfl

section
variable (s : State) (pa : Nat) (prio write : Bool)

@[simp] theorem memSlot_mem : (memSlot s pa prio write).mem = s.mem := by rw [memSlot_only]
@[simp] theorem memSlot_poison : (memSlot s pa prio write).poison = s.poison := by rw [memSlot_only]
@[simp] theorem memSlot_errors : (memSlot s pa prio write).errors = s.errors := by rw [memSlot_only]
@[simp] theorem memSlot_now : (memSlot s pa prio write).now = s.now := by rw [memSlot_only]

end

@[simp] theorem isPoisoned_poisonSector (s : State) (pa : Nat) : isPoisoned (poisonSector s pa) pa = true :=
  congrArg Option.isSome (mapGet_mapSet_self ..)

@[simp] theorem poisonSector_now (s : State) (pa : Nat) : (poisonSector s pa).now = s.now := by
  unfold poisonSector
  dsimp only [modPch, modStack]
  split
  · rfl
  · rw [(countFor_frame ..).1]

/-! ## Decoding (08 R268) -/

/-- The symbols of a codeword that differ from a right one: those in error, and the poison mark. -/
def readPattern (s : State) (pa : Nat) : List (Nat × Nat) :=
  patternAdd (symbolErrors s pa) (if isPoisoned s pa then poisonMask else [])

section
variable {s : State} {pa source : Nat}

theorem readDecode_corrects {fix : List (Nat × Nat)} (h : rsCorrect (readPattern s pa) = some fix) :
    readDecode s pa source = readTag s pa source fix (patternAdd (readPattern s pa) fix) := by
  unfold readDecode
  unfold readPattern at h
  dsimp only
  rw [h]
  rfl

theorem readDecode_marked (h : rsCorrect (readPattern s pa) = none) {fix : List (Nat × Nat)}
    (hfix : rsCorrect (patternAdd (readPattern s pa) poisonMask) = some fix) :
    readDecode s pa source = readFails s pa 4 fix.length source := by
  unfold readDecode
  unfold readPattern at h hfix
  dsimp only
  rw [h, hfix]

theorem readDecode_lost (h : rsCorrect (readPattern s pa) = none)
    (hmark : rsCorrect (patternAdd (readPattern s pa) poisonMask) = none) :
    readDecode s pa source = readFails s pa 2 0xF source := by
  unfold readDecode
  unfold readPattern at h hmark
  dsimp only
  rw [h, hmark]

section
variable (hclean : isPoisoned s pa = false) (hkeys : readerKeys s pa = writtenKeys s pa)
include hclean hkeys

/-- A right codeword under its own keys deciphers to what was written. -/
theorem openWord_own : openWord s pa [] = some (poolBytes s pa) := if_pos ⟨hkeys, rfl, hclean⟩

theorem readTag_right : readTag s pa source [] [] =
    (s, { data := poolBytes s pa, poisoned := false, absent := false }) := by
  unfold readTag
  rw [openWord_own hclean hkeys]
  rfl

/-- A corrected codeword loses its errors and leaves a record, the newest of its stack (08 R271). -/
theorem readTag_corrected (hpa : paStack pa < 12) (hst : (mapGet s.stackTab (paStack pa)).isSome = true)
    {fix : List (Nat × Nat)} (hfix : fix ≠ []) :
    let t := (readTag s pa source fix []).1
    t.mem = s.mem ∧ t.errors = mapDel s.errors (sectorOf pa) ∧
      ∃ x, (getStack t (paStack pa)).ring.recs.head? = some x ∧ x.kind = 1 ∧ x.symbols = fix.length ∧
        x.addr = sectorBase pa ∧ x.source = source := by
  have counted := countFor_frame s (formeOfStack s (paStack pa)) .memCorr 1
  have still := (countFor_inMemory s (formeOfStack s (paStack pa)) .memCorr 1).present _ hst
  unfold readTag
  rw [openWord_own hclean hkeys]
  dsimp only
  rw [if_neg (by simpa using hfix)]
  refine ⟨?_, ?_, _, memRecord_newest hpa still .., rfl, rfl, rfl, rfl⟩
  · exact (memRecord_mem ..).trans (by rw [counted.1])
  · refine congrArg (mapDel · (sectorOf pa)) ((memRecord_errors ..).trans ?_)
    rw [counted.1]

/-- A sector without errors is read as it stands. -/
theorem readDecode_clean (hpat : readPattern s pa = []) : readDecode s pa source =
    (s, { data := poolBytes s pa, poisoned := false, absent := false }) := by
  have decoded : rsCorrect (readPattern s pa) = some [] := by
    rw [hpat]
    decide
  have left : patternAdd (readPattern s pa) [] = [] := by
    rw [hpat]
    decide
  rw [readDecode_corrects decoded, left, readTag_right hclean hkeys]

end

/-- A sector that no step decodes is stored poisoned, and a record says so; LANES is zero but where the decoder located
symbols that it could not correct (08 Table 8.11). -/
theorem readFails_record (hpa : paStack pa < 12) (hst : (mapGet s.stackTab (paStack pa)).isSome = true)
    (kind symbols : Nat) : ∃ x, isPoisoned (readFails s pa kind symbols source).1 pa = true ∧
      (getStack (readFails s pa kind symbols source).1 (paStack pa)).ring.recs.head? = some
        { time := s.now, addr := sectorBase pa, kind := kind, symbols := symbols, source := source, lanes := x } ∧
      x < 2 ^ 40 ∧ (kind ≠ 2 ∨ source = 3 → x = 0) := by
  have marked : ∃ u, (if isPoisoned s pa then s else poisonSector s pa) = u ∧ isPoisoned u pa = true ∧ u.now = s.now ∧
      (mapGet u.stackTab (paStack pa)).isSome = true := by
    refine ⟨_, rfl, ?_⟩
    split
    · next h => exact ⟨h, rfl, hst⟩
    · exact ⟨isPoisoned_poisonSector .., poisonSector_now .., (poisonSector_inMemory s pa).present _ hst⟩
  obtain ⟨u, hu, poisoned, now, present⟩ := marked
  unfold readFails
  rw [hu]
  dsimp only
  split
  · next free =>
    refine ⟨Config.freeNat u.free % 2 ^ 40, ?_, ?_, Nat.mod_lt _ (by decide), fun h => ?_⟩
    · rwa [isPoisoned, memRecord_poison]
    · rw [← now]
      exact memRecord_newest (s := u.drawn) hpa present ..
    · exact (h.elim (· free.1) (free.2 ·)).elim
  · refine ⟨0, ?_, ?_, by decide, fun _ => rfl⟩
    · rwa [isPoisoned, memRecord_poison]
    · rw [← now]
      exact memRecord_newest hpa present ..

end

/-! ## MEMORY_READ -/

@[simp] theorem addErrors_mem (s : State) (pa : Nat) (errs : List (Nat × Byte)) : (addErrors s pa errs).mem = s.mem := by
  unfold addErrors
  dsimp only
  repeat' split
  all_goals rfl

@[simp] theorem addErrors_now (s : State) (pa : Nat) (errs : List (Nat × Byte)) : (addErrors s pa errs).now = s.now := by
  unfold addErrors
  dsimp only
  repeat' split
  all_goals rfl

section
variable {pa : Nat} {prio : Bool} {errs : List (Nat × Byte)} {s : State} (hon : s.homesOn = true)
include hon

theorem execMemoryRead_absent (h : paAbsent pa = true) :
    execMemoryRead pa prio errs s = .next (memRecord s pa 6 0 1 0) := by
  unfold execMemoryRead
  rw [hon, h]
  rfl

variable (hpa : paAbsent pa = false)
include hpa

theorem execMemoryRead_blocked (h : pchBlocked (addErrors s pa errs) (paStack pa) (paPch pa) = true) :
    execMemoryRead pa prio errs s = .next (enqueue (addErrors s pa errs)
      { pa := pa, priority := prio, write := none, time := s.now }) := by
  unfold execMemoryRead
  rw [hon, hpa]
  dsimp only
  rw [h, addErrors_now]
  rfl

variable (hissues : pchBlocked (addErrors s pa errs) (paStack pa) (paPch pa) = false)
include hissues

theorem execMemoryRead_held {lane : Nat} (h : laneDead (addErrors s pa errs) pa = some lane) :
    execMemoryRead pa prio errs s = .next (beginRecovery (addErrors s pa errs)
      { pa := pa, priority := prio, write := none, time := s.now } lane) := by
  unfold execMemoryRead
  rw [hon, hpa]
  dsimp only
  rw [hissues, h, addErrors_now]
  rfl

theorem execMemoryRead_decodes (h : laneDead (addErrors s pa errs) pa = none) : execMemoryRead pa prio errs s =
    .next (readDecode (memSlot (addErrors s pa errs) pa prio false) pa 1).1 := by
  unfold execMemoryRead
  rw [hon, hpa]
  dsimp only
  rw [hissues, h]
  rfl

end

/-- Settles O10: where the pseudo-channel issues and no byte lane is dead, the row is the decoding of its sector. -/
theorem memoryReadDecodesItsSector : Obligations.MemoryReadDecodesItsSector := by
  unfold Obligations.MemoryReadDecodesItsSector
  intro pa prio errs s st hon hst k p u held v pat sound fails
  refine ⟨execMemoryRead_absent hon, execMemoryRead_blocked hon, fun hpa hissues lane hlane => ?held, ?decodes⟩
  case held =>
    refine (execMemoryRead_held hon hpa hissues hlane).trans ?_
    rw [beginRecovery, addErrors_now]
    rfl
  case decodes =>
    intro hpa hissues hlane
    have stack := paStack_lt hpa
    have present : (mapGet v.stackTab k).isSome = true :=
      ((addErrors_inMemory s pa errs).trans (memSlot_inMemory _ pa prio false)).present k (by rw [hst]; rfl)
    have mem : v.mem = s.mem := (memSlot_mem ..).trans (addErrors_mem ..)
    have now : v.now = s.now := (memSlot_now ..).trans (addErrors_now ..)
    have answers (r : State × SectorRead) (h : readDecode v pa 1 = r) : exec (.memoryRead pa prio errs) s = .next r.1 :=
      (execMemoryRead_decodes hon hpa hissues hlane).trans (h ▸ rfl)
    refine ⟨fun ⟨hclean, hkeys⟩ hpat => ?clean, fun fix ⟨hclean, hkeys⟩ hfix hne hleft => ?corrected,
      fun fix hpat hfix => ?marked, fun hpat hmark => ?lost⟩
    case clean => exact answers _ (readDecode_clean hclean hkeys hpat)
    case corrected =>
      obtain ⟨kept, gone, x, newest⟩ := readTag_corrected (source := 1) hclean hkeys stack present hne
      have decoded := (readDecode_corrects (source := 1) hfix).trans (congrArg (readTag v pa 1 fix) hleft)
      exact ⟨_, x, answers _ decoded, kept.trans mem, gone, newest⟩
    case marked =>
      obtain ⟨x, poisoned, newest, -, none⟩ := readFails_record (source := 1) stack present 4 fix.length
      refine ⟨_, x, answers _ (readDecode_marked hpat hfix), poisoned,
        none (.inl (by decide)), ?_⟩
      rw [← now]
      exact newest
    case lost =>
      obtain ⟨x, poisoned, newest, lanes, -⟩ := readFails_record (source := 1) stack present 2 0xF
      refine ⟨_, x, answers _ (readDecode_lost hpat hmark), poisoned, lanes, ?_⟩
      rw [← now]
      exact newest

end Sys2Proof.Machine
end

section
/-! PROOFS. MEMORY_WRITE of part of a sector: what it merges with, and a table of formes in which that is not what the sector
held (08 R269, 10 R344). -/

namespace Sys2Proof.Machine

open Sys2Proof

/-! ## The merge -/

/-- No byte lane is dead where no symbol is in error. -/
theorem laneDead_none {s : State} {pa : Nat} (h : symbolErrors s pa = []) : laneDead s pa = none := by
  have none : patternLane [] = none := rfl
  unfold laneDead
  dsimp only
  rw [h, none, ite_self]

section
variable {s : State} {pa mask : Nat} {data : List Byte}

/-- The row on a pseudo-channel that issues, of a sector without symbol errors. -/
theorem execMemoryWrite_issues (hon : s.homesOn = true) (hpa : paAbsent pa = false)
    (hissues : pchBlocked s (paStack pa) (paPch pa) = false) (herr : symbolErrors s pa = []) :
    execMemoryWrite pa mask data s = .next (sectorWrite pa mask data s) := by
  unfold execMemoryWrite
  rw [hon, hpa]
  dsimp only
  rw [hissues, laneDead_none herr]
  rfl

/-- A write of part of a right sector reads it after the read's data slot, and writes it whole with the bytes of its mask. -/
theorem sectorWrite_merges (hmask : mask ≠ fullMask) (herr : symbolErrors s pa = []) (hclean : isPoisoned s pa = false)
    (hkeys : readerKeys (memSlot s pa false false) pa = writtenKeys (memSlot s pa false false) pa) :
    sectorWrite pa mask data s = burst (memSlot s pa false false) pa
      (mergeBytes mask (poolBytes (memSlot s pa false false) pa) data) := by
  have errors : symbolErrors (memSlot s pa false false) pa = [] := by rwa [symbolErrors, memSlot_errors]
  have clean : isPoisoned (memSlot s pa false false) pa = false := by rwa [isPoisoned, memSlot_poison]
  have pattern : readPattern (memSlot s pa false false) pa = [] := by
    rw [readPattern, errors, clean]
    decide
  unfold sectorWrite
  rw [if_neg hmask]
  dsimp only
  rw [laneDead_none errors]
  unfold mergeWrite
  rw [readDecode_clean clean hkeys pattern]
  rfl

theorem burst_mem : (burst s pa data).mem = writeBytes s.mem (sectorBase pa) data := by
  unfold burst writeWhole
  dsimp only [modPch, modStack]
  rw [memSlot_mem]

end

section
variable {mask : Nat} {old new : List Byte} (h : new.length = old.length)
include h

theorem mergeBytes_length : (mergeBytes mask old new).length = old.length := by simp [mergeBytes, h]

/-- A merge has the new byte where the mask names it, and the old one elsewhere (08 R269). -/
theorem mergeBytes_getElem (i : Nat) (hi : i < old.length) :
    (mergeBytes mask old new)[i]'(by rwa [mergeBytes_length h]) =
      if bit mask i then new[i]'(by rwa [h]) else old[i] := by
  simp [mergeBytes]

/-- What a merged burst leaves at each byte of its sector. -/
theorem byteAt_burst_mergeBytes {s : State} (pa : Nat) (hwf : Memory.wf s.mem = true) (i : Nat) (hi : i < old.length) :
    byteAt (burst s pa (mergeBytes mask old new)).mem (sectorBase pa + i) =
      if bit mask i then new.getD i 0 else old.getD i 0 := by
  rw [burst_mem, byteAt_writeBytes_in _ _ _ hwf i (by rwa [mergeBytes_length h]), mergeBytes_getElem h i hi,
    List.getD_eq_getElem?_getD, List.getD_eq_getElem?_getD, List.getElem?_eq_getElem hi,
    List.getElem?_eq_getElem (h.symm ▸ hi), Option.getD_some, Option.getD_some]

end

/-! ## A table of formes out of order

A data slot is counted for the forme that holds the stack, and `mapSet` writes a changed forme where its key belongs in a table
of rising keys. Where the keys do not rise, that can be in front of a forme that stood before it. If the range tables of both
lie in one place, `tableAt`, which takes the formes in their order, answers another table after the count than before it, and
the merge writes back what the sector did not hold. The statement asks for no order of the keys. -/

/-- A sequence of numbers below a bound takes some value twice. -/
theorem exists_repeat (bound : Nat) (f : Nat → Nat) (hf : ∀ n, f n < bound) : ∃ i j, i < j ∧ f i = f j := by
  induction bound generalizing f with
  | zero => exact absurd (hf 0) (Nat.not_lt_zero _)
  | succ m ih =>
    by_cases top : ∃ i, f i = m
    · obtain ⟨i, hi⟩ := top
      by_cases again : ∃ j, i < j ∧ f j = m
      · obtain ⟨j, hij, hj⟩ := again
        exact ⟨i, j, hij, hi.trans hj.symm⟩
      · have below (n : Nat) : f (i + 1 + n) < m :=
          Nat.lt_of_le_of_ne (Nat.le_of_lt_succ (hf _)) fun h => again ⟨i + 1 + n, by omega, h⟩
        obtain ⟨a, b, hab, same⟩ := ih (fun n => f (i + 1 + n)) below
        exact ⟨i + 1 + a, i + 1 + b, by omega, same⟩
    · exact ih f fun n => Nat.lt_of_le_of_ne (Nat.le_of_lt_succ (hf n)) fun h => top ⟨n, h⟩

/-- Two formes whose keys give their range tables the same place in the reserved area. -/
theorem exists_samePlace : ∃ i j, i < j ∧ Config.tablePlace i % 65281 = Config.tablePlace j % 65281 :=
  exists_repeat 65281 _ fun _ => Nat.mod_lt _ (by decide)

/-- A forme on Platens `ps` with a range table of these entries, and nothing else. -/
def bareForme (ps : List Nat) (ranges : List RangeEntry) : Forme :=
  { platens := ps, groups := [], ports := [], faultHold := 0, faultVec := 0, faultHart := 0, faultIdent := 0, keySet := 0,
    reroutes := [], ranges := ranges, faults := [], nextFaultId := 0, plate := none, loading := none, passes := [], cap := 0,
    capRaised := 0, counters := [], coreMbox := Mailbox.reset, destroying := false, orphans := [], created := 0 }

/-- A range of one page at VA page 1. -/
def oneRange : RangeEntry :=
  { id := 0, vaPage := 1, pages := 1, paPage := 0, r := true, w := true, aper := false, mesh := false, kind := .normal,
    state := .valid, passSeq := 0, mapTime := 0 }

/-- The forme with no Platen stands before that which holds Platen 5 with stacks 10 and 11, under a greater key. -/
def outOfOrder (i j : Nat) : State :=
  { State.reset with phase := .running, formes := [(j, bareForme [] [oneRange]), (i, bareForme [5] [])] }

/-- The table of a forme on Platen 5, and that of one on none, lies in stack 10. -/
theorem tableStack_ten {f : Forme} (h : f.platens = [] ∨ f.platens = [5]) : tableStack f = 10 := by
  unfold tableStack
  rcases h with h | h <;> rw [h] <;> rfl

/-- Where the table of a forme begins that lies in stack 10. -/
def tableStart (i : Nat) : Nat :=
  10 * 2 ^ 37 + reservedOffset + (1 - ringHalf) * 2 ^ 25 + Config.tablePlace i % 65281 * 512

theorem tableBase_ten {i : Nat} {f : Forme} (h : tableStack f = 10) : tableBase i f = tableStart i := by
  rw [tableBase, h, tableStart]

/-- Any half of the reserved area of stack 10, and any place in it, lies in that area. -/
theorem reserved_bounds {half place : Nat} (hhalf : half < 2) (hplace : place < 65281) :
    let pa := 10 * 2 ^ 37 + reservedOffset + (1 - half) * 2 ^ 25 + place * 512
    10 * 2 ^ 37 + 0x17FC000000 ≤ pa ∧ pa < 10 * 2 ^ 37 + 0x1800000000 := by
  unfold reservedOffset
  omega

theorem tableStart_bounds (i : Nat) :
    10 * 2 ^ 37 + 0x17FC000000 ≤ tableStart i ∧ tableStart i < 10 * 2 ^ 37 + 0x1800000000 :=
  reserved_bounds (Nat.mod_lt _ (by decide)) (Nat.mod_lt _ (by decide))

theorem paStack_tableStart (i : Nat) : paStack (tableStart i) = 10 := by
  have := tableStart_bounds i
  simp only [paStack]
  omega

theorem paReserved_tableStart (i : Nat) : paReserved (tableStart i) = true := by
  have := tableStart_bounds i
  simp only [paReserved, decide_eq_true_eq]
  omega

theorem paAbsent_tableStart (i : Nat) : paAbsent (tableStart i) = false := by
  have bounds := tableStart_bounds i
  have row : paRow (tableStart i) < 24576 := by
    simp only [paRow, bits]
    omega
  simp only [paAbsent, paStack_tableStart, Bool.or_eq_false_iff, decide_eq_false_iff_not]
  omega

/-- A place in the reserved area holds the table of the first forme whose table lies there. -/
theorem poolBytes_front {s : State} {k : Nat} {f : Forme} {rest : SMap Forme} (hs : s.formes = (k, f) :: rest)
    (hf : f.platens = [] ∨ f.platens = [5]) : poolBytes s (tableStart k) = tableSector f 0 := by
  have start : tableBase k f = tableStart k := tableBase_ten (tableStack_ten hf)
  have found : tableAt (tableStart k) s.formes = some (tableSector f 0) := by
    rw [hs, tableAt, start, if_pos (by omega), Nat.sub_self]
  unfold poolBytes
  rw [paReserved_tableStart, found]
  rfl

/-- A count for a forme behind another of a greater key writes it in front. -/
theorem countFor_front {s : State} {i j : Nat} {f g : Forme} (hs : s.formes = [(j, f), (i, g)]) (hlt : i < j)
    (c : Ctr) (n : Nat) :
    (countFor s (some i) c n).formes = [(i, { g with counters := ctrAdd g.counters c n }), (j, f), (i, g)] := by
  simp [countFor, modForme, mapMod, mapGet, mapSet, hs, hlt, Nat.ne_of_gt hlt]

/-- A count for the forme in front changes its counters in place. -/
theorem countFor_head {s : State} {i : Nat} {g : Forme} {rest : SMap Forme} (hs : s.formes = (i, g) :: rest) (c : Ctr)
    (n : Nat) : (countFor s (some i) c n).formes = (i, { g with counters := ctrAdd g.counters c n }) :: rest := by
  simp [countFor, modForme, mapMod, mapGet, mapSet, hs]

/-- The data slot of a stack whose holder stands behind another forme of a greater key puts the holder in front. -/
theorem memSlot_front {s : State} {pa i j : Nat} {f g : Forme} (hs : s.formes = [(j, f), (i, g)]) (hlt : i < j)
    (hholder : formeOfStack s (paStack pa) = some i) (prio write : Bool) :
    ∃ counters rest, (memSlot s pa prio write).formes = (i, { g with counters := counters }) :: rest := by
  have moved (h : Pch → Pch) : (modPch s (paStack pa) (paPch pa) h).formes = [(j, f), (i, g)] := hs
  unfold memSlot
  dsimp only
  rw [hholder]
  split
  · exact ⟨_, _, countFor_head (countFor_front (moved _) hlt _ _) _ _⟩
  · exact ⟨_, _, countFor_front (moved _) hlt _ _⟩

/-- A data slot leaves the stack as quiesced as it was. -/
theorem memSlot_quiesced (s : State) (pa : Nat) (prio write : Bool) (k : Nat) :
    (getStack (memSlot s pa prio write) k).quiesced = (getStack s k).quiesced := by
  have kept := getStack_modStack_keeps s (paStack pa) k (g := (·.quiesced))
  unfold memSlot
  dsimp only
  rw [getStack_countFor]
  split
  · rw [getStack_countFor]
    exact kept _ fun _ => rfl
  · exact kept _ fun _ => rfl

/-- Lumiz's area is written and read under Lumiz's keys (10 R340, 15 R502). -/
theorem reserved_keys {s : State} {pa : Nat} (h : paReserved pa = true) (hq : (getStack s (paStack pa)).quiesced = false) :
    readerKeys s pa = writtenKeys s pa := by
  rw [readerKeys, writtenKeys, h, hq]
  rfl

/-- A range table with no range begins with a zero, that with `oneRange` with the 1 of its VA page. -/
theorem tableSector_firstBytes (counters : Counters) :
    (tableSector { bareForme [5] [] with counters := counters } 0).length = 64 ∧
      (tableSector { bareForme [5] [] with counters := counters } 0).getD 0 0 = 0 ∧
      (tableSector (bareForme [] [oneRange]) 0).getD 0 0 = 1 := ⟨rfl, rfl, by decide⟩

section
variable {i j : Nat}

theorem outOfOrder_quiesced : (getStack (outOfOrder i j) (paStack (tableStart i))).quiesced = false := by
  rw [paStack_tableStart]
  rfl

theorem outOfOrder_issues : pchBlocked (outOfOrder i j) (paStack (tableStart i)) (paPch (tableStart i)) = false := by
  rw [paStack_tableStart]
  rfl

/-- The sector holds the start of the front forme's table. -/
theorem outOfOrder_before (hsame : Config.tablePlace i % 65281 = Config.tablePlace j % 65281) :
    (poolBytes (outOfOrder i j) (tableStart i)).getD 0 0 = 1 := by
  obtain ⟨-, -, one⟩ := tableSector_firstBytes []
  have start : tableStart i = tableStart j := by rw [tableStart, tableStart, hsame]
  rw [start, poolBytes_front (s := outOfOrder i j) rfl (.inl rfl), one]

variable (hlt : i < j)
include hlt

/-- Once its data slot is counted, the sector holds the start of the holder's table. -/
theorem outOfOrder_after : (poolBytes (memSlot (outOfOrder i j) (tableStart i) false false) (tableStart i)).length = 64 ∧
    (poolBytes (memSlot (outOfOrder i j) (tableStart i) false false) (tableStart i)).getD 0 0 = 0 := by
  have holder : formeOfStack (outOfOrder i j) (paStack (tableStart i)) = some i := by
    rw [paStack_tableStart]
    rfl
  obtain ⟨counters, rest, formes⟩ := memSlot_front (s := outOfOrder i j) rfl hlt holder false false
  obtain ⟨length, zero, -⟩ := tableSector_firstBytes counters
  rw [poolBytes_front formes (.inr rfl)]
  exact ⟨length, zero⟩

/-- So a write that names no byte stores a zero there. -/
theorem outOfOrder_write : ∃ t, exec (.memoryWrite (tableStart i) 0 (List.replicate 64 0)) (outOfOrder i j) = .next t ∧
    byteAt t.mem (sectorBase (tableStart i) + 0) = 0 := by
  obtain ⟨length, zero⟩ := outOfOrder_after hlt
  have keys := reserved_keys (s := memSlot (outOfOrder i j) (tableStart i) false false) (paReserved_tableStart i)
    ((memSlot_quiesced ..).trans outOfOrder_quiesced)
  refine ⟨_, (execMemoryWrite_issues rfl (paAbsent_tableStart i) outOfOrder_issues rfl).trans
    (congrArg Host.Outcome.next (sectorWrite_merges (by decide) rfl rfl keys)), ?_⟩
  rw [byteAt_burst_mergeBytes (List.length_replicate.trans length.symm) _ (by rw [memSlot_mem]; rfl) 0
    (by rw [length]; decide), zero]
  rfl

end

/-- Refutes O11: where the keys of the formes do not rise, a write that names no byte stores zeros of another table over a
sector whose first byte was 1. -/
theorem not_memoryWriteStoresTheBytesItsMaskNames : ¬ Obligations.MemoryWriteStoresTheBytesItsMaskNames := by
  unfold Obligations.MemoryWriteStoresTheBytesItsMaskNames
  intro claim
  obtain ⟨i, j, hlt, hsame⟩ := exists_samePlace
  obtain ⟨-, partly⟩ := claim (tableStart i) 0 (List.replicate 64 0) (outOfOrder i j) Stack.reset rfl
    (paAbsent_tableStart i) (by rw [paStack_tableStart]; rfl) List.length_replicate
  obtain ⟨clean, -⟩ := partly outOfOrder_issues rfl rfl
  obtain ⟨t, ht, -, stored, -⟩ := clean rfl (reserved_keys (paReserved_tableStart i) outOfOrder_quiesced)
  obtain ⟨u, hu, zero⟩ := outOfOrder_write hlt
  obtain rfl := Host.Outcome.next.inj (ht.symm.trans hu)
  have byte := stored 0 (by decide)
  rw [zero, outOfOrder_before hsame] at byte
  exact absurd byte (by decide)

end Sys2Proof.Machine
end

section
/-! PROOFS. Byte lanes that fail and move to the spare, and the maintenance of a stack (08 R260, R272 to R274, R278, Table 8.10;
16 R541, Table 16.8). -/

namespace Sys2Proof.Machine

open Sys2Proof

/-! ## A stack and a pseudo-channel after a change -/

/-- A change of a stack is what it makes of the stack. -/
theorem modStack_congr {s : State} {k : Nat} {st : Stack} (hst : mapGet s.stackTab k = some st) {f g : Stack → Stack}
    (h : f st = g st) : modStack s k f = modStack s k g := by
  rw [modStack, modStack, mapMod, mapMod, hst]
  dsimp only
  rw [h]

theorem getPch_of_mapGet {s : State} {k : Nat} {st : Stack} (hst : mapGet s.stackTab k = some st) (p : Nat) :
    getPch s k p = mapGetD st.pchs Pch.reset p := by
  rw [getPch, getStack_of_mapGet hst]

/-- A change of a pseudo-channel is what it makes of the pseudo-channel. -/
theorem modPch_congr {s : State} {k : Nat} {st : Stack} (hst : mapGet s.stackTab k = some st) {p : Nat} {f g : Pch → Pch}
    (h : f (getPch s k p) = g (getPch s k p)) : modPch s k p f = modPch s k p g := by
  rw [getPch_of_mapGet hst] at h
  refine modStack_congr hst ?_
  rw [mapUpd, mapUpd, h]

theorem getPch_modPch_self {s : State} {k : Nat} (hst : (mapGet s.stackTab k).isSome = true) (p : Nat) (g : Pch → Pch) :
    getPch (modPch s k p g) k p = g (getPch s k p) := by
  obtain ⟨st, hst⟩ := Option.isSome_iff_exists.mp hst
  rw [getPch, modPch, getStack_modStack_self _ _ _ st hst, getPch_of_mapGet hst]
  exact mapGetD_mapUpd_self ..

/-- A change of a stack that leaves its pseudo-channels alone. -/
theorem getPch_modStack {s : State} {k : Nat} {g : Stack → Stack} (hg : ∀ x, (g x).pchs = x.pchs) (j p : Nat) :
    getPch (modStack s k g) j p = getPch s j p :=
  congrArg (mapGetD · Pch.reset p) (getStack_modStack_keeps s k j g (·.pchs) hg)

theorem getPch_memRecord (s : State) (pa kind symbols source lanes k p : Nat) :
    getPch (memRecord s pa kind symbols source lanes) k p = getPch s k p := by
  unfold memRecord
  dsimp only
  split
  · exact getPch_modStack (by intro; rfl) k p
  · rfl

/-! ## Write CRC errors (08 R273) -/

section
variable {s : State} {k p lane pa : Nat} (hst : (mapGet s.stackTab k).isSome = true)
include hst

theorem getPch_crcNoted : getPch (crcNoted s k p lane) k p = { getPch s k p with
    crcErrors := (lane, s.now) :: (getPch s k p).crcErrors.filter (fun e => s.now < e.2 + 1000) } :=
  getPch_modPch_self hst p _

theorem getPch_crcIssued : getPch (crcIssued s k p lane pa) k p = { getPch s k p with
    crcErrors := (lane, s.now) :: (getPch s k p).crcErrors.filter (fun e => s.now < e.2 + 1000) } := by
  have issued (u : State) (b : Option Burst) : getPch (burstIssued u b) k p = getPch u k p := by cases b <;> rfl
  exact (issued ..).trans (getPch_crcNoted hst)

/-- With two errors of the byte lane within a microsecond before it, an error is the loss of the lane. -/
theorem crcLost_crcIssued : crcLost (crcIssued s k p lane pa) k p lane =
    (decide (2 ≤ (((getPch s k p).crcErrors.filter (fun e => s.now < e.2 + 1000)).filter (fun e => e.1 = lane)).length) &&
      (getPch s k p).recovering.isNone) := by
  rw [crcLost, getPch_crcIssued hst, List.filter_cons_of_pos (by simp), List.length_cons]
  simp

end

/-! ## The loss of a byte lane and its move to the spare (08 R274, Table 8.10) -/

section
variable (s : State) (k p : Nat)

@[simp] theorem heldPa_stackTab : (heldPa s k p).1.stackTab = s.stackTab := by
  unfold heldPa
  split <;> rfl

@[simp] theorem heldPa_phase : (heldPa s k p).1.phase = s.phase := by
  unfold heldPa
  split <;> rfl

@[simp] theorem heldPa_mem : (heldPa s k p).1.mem = s.mem := by
  unfold heldPa
  split <;> rfl

/-- The address that a recovery's record names lies in the stack, where that at which the recovery began does. -/
theorem paStack_heldPa (hp : p < 64) (hlost : ∀ a, (getPch s k p).lostAt = some a → paStack a = k) :
    paStack (heldPa s k p).2 = k := by
  have inStack {x : Nat} (hx : x < 2 ^ 16) : paStack (k * 2 ^ 37 + x * 2 ^ 15 + p * 2 ^ 9) = k := by
    simp only [paStack]
    omega
  unfold heldPa
  split
  · next a h => exact hlost a h
  · exact inStack (Nat.mod_lt _ (by decide))

end

section
variable {s : State} {k p lane pa : Nat}

/-- The loopback test has confirmed the loss of the byte lane. -/
def lossConfirmed (now lane : Nat) (c : Pch) : Pch :=
  { (if c.recovering.isSome then c else stopPch now lane c) with recovering := some lane, confirmed := true }

theorem execByteLaneLoss_on (hon : s.powered = true) (hconf : (getPch s k p).confirmed = false) :
    execByteLaneLoss k p lane s = .next
      (laneMove (modPch (heldPa s k p).1 k p (lossConfirmed s.now lane)) k p lane (heldPa s k p).2) := by
  unfold execByteLaneLoss
  rw [hon, hconf]
  rfl

theorem lossConfirmed_stack {st : Stack} (hst : mapGet s.stackTab k = some st) :
    mapGet (modPch (heldPa s k p).1 k p (lossConfirmed s.now lane)).stackTab k =
      some { st with pchs := mapUpd st.pchs Pch.reset p (lossConfirmed s.now lane) } := by
  rw [modPch, modStack, mapGet_mapMod_self, heldPa_stackTab, hst]
  rfl

/-- With the spare free the byte lane is on it, and the pseudo-channels are as they were. -/
theorem laneMove_free {st : Stack} (hst : mapGet s.stackTab k = some st) (h : st.sparesUsed.contains (p / 2) = false) :
    (laneMove s k p lane pa).phase = s.phase ∧ p / 2 ∈ (getStack (laneMove s k p lane pa) k).sparesUsed ∧
      getPch (laneMove s k p lane pa) k p = getPch s k p := by
  have moved : ∃ g : Stack → Stack, (∀ x, (g x).pchs = x.pchs) ∧ (g st).sparesUsed = st.sparesUsed ++ [p / 2] ∧
      laneMove s k p lane pa = { modStack s k g with errors := withoutLane k p lane s.errors } := by
    refine ⟨fun x => { x with sparesUsed := x.sparesUsed ++ [p / 2] }, fun _ => rfl, rfl, ?_⟩
    unfold laneMove
    rw [getStack_of_mapGet hst, h]
    rfl
  obtain ⟨g, pchs, spare, moved⟩ := moved
  rw [moved]
  refine ⟨rfl, ?_, getPch_modStack pchs k p⟩
  change p / 2 ∈ (getStack (modStack s k g) k).sparesUsed
  rw [getStack_modStack_self _ _ _ st hst, spare]
  exact List.mem_append_right _ List.mem_cons_self

theorem laneMove_used {st : Stack} (hst : mapGet s.stackTab k = some st) (h : st.sparesUsed.contains (p / 2) = true)
    (hon : s.powered = true) : (laneMove s k p lane pa).phase = .retired := by
  unfold laneMove
  rw [getStack_of_mapGet hst, h]
  exact retire_phase _ _ hon

/-! ## The end of a recovery (08 Table 8.10) -/

theorem nextSlot_idle {c : Pch} (h : c.queue = []) (now : Nat) : nextSlot c now = none := by
  unfold nextSlot
  rw [h]
  rfl

/-- A pseudo-channel with nothing in its queue carries out nothing. -/
theorem serveQueue_idle (h : (getPch s k p).queue = []) : serveQueue s k p = s := by
  unfold serveQueue
  generalize (getPch s k p).queue.length + (getPch s k p).held.length = n
  cases n with
  | zero => rfl
  | succ n => rw [serveFor, nextSlot_idle h]

theorem reissue_nothing (h : (getPch (modPch s k p Pch.sound) k p).replay = []) :
    goOn s k p none = modPch (modPch s k p Pch.sound) k p (fun c => { c with replay := [] }) := by
  unfold goOn reissue
  dsimp only
  rw [h]
  rfl

theorem getPch_laneDone (source : Nat) : getPch (laneDone s k lane pa source) k p = getPch s k p := by
  unfold laneDone
  dsimp only
  exact (congrArg (fun x : Stack => mapGetD x.pchs Pch.reset p) (getStack_countFor ..)).trans (getPch_memRecord ..)

theorem laneDone_mem (source : Nat) : (laneDone s k lane pa source).mem = s.mem := by
  unfold laneDone
  dsimp only
  rw [(countFor_frame ..).1]
  exact memRecord_mem ..

/-- A confirmed recovery with nothing to issue again ends with a LANE record, and leaves the pseudo-channel sound. -/
theorem endRecovery_ended (hk : k < 12) (hp : p < 64) (hst : (mapGet s.stackTab k).isSome = true)
    (hfailed : (getPch s k p).failed = none) (hreplay : (getPch s k p).replay = [])
    (hlost : ∀ a, (getPch s k p).lostAt = some a → paStack a = k) :
    let t := endRecovery s k p lane
    getPch t k p = { (getPch s k p).sound with replay := [] } ∧ t.mem = s.mem ∧
      (getStack t k).ring.recs.head?.map (·.kind) = some 5 := by
  have place := paStack_heldPa s k p hp hlost
  obtain ⟨d, hd⟩ : ∃ d, laneDone (heldPa s k p).1 k lane (heldPa s k p).2 (getPch s k p).laneSource = d := ⟨_, rfl⟩
  have pch : getPch d k p = getPch s k p := by
    rw [← hd, getPch_laneDone, getPch, getStack, heldPa_stackTab]
    rfl
  have present : (mapGet d.stackTab k).isSome = true := by
    rw [← hd]
    exact ((heldPa_inMemory s k p).trans (laneDone_inMemory ..)).present k hst
  have sound := getPch_modPch_self present p Pch.sound
  have ended : endRecovery s k p lane = modPch (modPch d k p Pch.sound) k p (fun c => { c with replay := [] }) := by
    unfold endRecovery
    dsimp only
    rw [hfailed, hd, reissue_nothing (by rw [sound, pch]; exact hreplay)]
  have ring : (getStack d k).ring.recs.head?.map (·.kind) = some 5 := by
    have newest := memRecord_newest (s := (heldPa s k p).1) (pa := (heldPa s k p).2) (by rw [place]; exact hk)
      (by rw [place, heldPa_stackTab]; exact hst) 5 0 (getPch s k p).laneSource (laneMask lane)
    rw [place] at newest
    rw [← hd, laneDone, getStack_countFor, newest]
    rfl
  rw [ended]
  refine ⟨?_, ?_, ?_⟩
  · rw [getPch_modPch_self ((modPch_inMemory ..).present k present), sound, pch]
  · exact (congrArg State.mem hd.symm).trans ((laneDone_mem _).trans (heldPa_mem ..))
  · have kept (u : State) (g : Pch → Pch) : (getStack (modPch u k p g) k).ring = (getStack u k).ring :=
      getStack_modStack_keeps u k k _ (·.ring) fun _ => rfl
    rw [kept, kept, ring]

theorem execByteLaneRecovered_confirmed (hon : s.powered = true) {l : Nat} (hrec : (getPch s k p).recovering = some l)
    (hconf : (getPch s k p).confirmed = true) : execByteLaneRecovered k p s =
      .next (if (getStack (endRecovery s k p l) k).selfRefresh then endRecovery s k p l
        else serveQueue (endRecovery s k p l) k p) := by
  unfold execByteLaneRecovered
  rw [hon, hrec]
  dsimp only
  rw [hconf]
  rfl

end

/-! ## Refresh and the inner code's count (08 R272, Table 8.5) -/

theorem execRefresh_on {s : State} {k : Nat} {st : Stack} (hst : mapGet s.stackTab k = some st) (hon : s.powered = true)
    {p bank : Nat} (hself : st.selfRefresh = false) :
    execRefresh k p bank s = .next (modPch s k p (fun c => { c with openRows := mapDel c.openRows bank })) := by
  unfold execRefresh
  rw [getStack_of_mapGet hst, hon, hself]
  rfl

theorem execInnerCorrPoll_on {s : State} {k : Nat} {st : Stack} (hst : mapGet s.stackTab k = some st)
    (hon : s.powered = true) {count : Nat} : execInnerCorrPoll k count s =
      .next (countFor (modStack s k (fun x => { x with innerCount := count })) (formeOfStack s k) .memInnerCorr
        (count - st.innerCount)) := by
  unfold execInnerCorrPoll
  rw [getStack_of_mapGet hst, hon]
  rfl

/-! ## The temperature of a stack (08 R260, 16 Table 16.8) -/

section
variable {s : State} {k temp : Nat}

theorem execRefreshDouble_on (hon : s.powered = true) : execRefreshDouble k temp s =
    .next (if 102 ≤ temp then retire (thermAlertStep (stackTemp s k temp)) { code := 5, unit := 0x10 + k, detail := 0 }
      else thermAlertStep (stackTemp s k temp)) := by
  unfold execRefreshDouble
  rw [if_pos hon]
  rfl

/-- What a reading writes: the temperature, the refresh rate with the time of its doubling, and the throttle. -/
def tempRead (st : Stack) (temp : Nat) (hot : Bool) (since : Nat) (x : Stack) : Stack :=
  { x with temp := temp, refresh2x := hot, since2x := since,
           throttled := if 92 ≤ temp then true else if temp ≤ 88 then false else st.throttled }

variable {st : Stack} (hst : mapGet s.stackTab k = some st)
include hst

theorem stackTemp_hot (h : 85 < temp) : stackTemp s k temp =
    modStack s k (tempRead st temp true (if st.refresh2x then st.since2x else s.now)) := by
  have warm : ¬ temp ≤ 82 := by omega
  unfold stackTemp
  rw [getStack_of_mapGet hst]
  simp only [warm, decide_false, Bool.and_false, Bool.false_eq_true, if_false]
  refine modStack_congr hst ?_
  cases st.refresh2x <;> simp [tempRead, h]

theorem stackTemp_cool (h : temp ≤ 82) : stackTemp s k temp = modStack (if st.refresh2x then
    countFor s (formeOfStack s k) .memRefresh2x ((s.now - st.since2x) / 1000000) else s) k
      (tempRead st temp false st.since2x) := by
  have cool : ¬ 85 < temp := by omega
  have counted (u : State) (hu : mapGet u.stackTab k = some st) : modStack u k (fun y =>
      { y with temp := temp, refresh2x := if 85 < temp then true else if temp ≤ 82 then false else y.refresh2x,
               since2x := if 85 < temp && !y.refresh2x then u.now else y.since2x,
               throttled := if 92 ≤ temp then true else if temp ≤ 88 then false else y.throttled }) =
      modStack u k (tempRead st temp false st.since2x) := modStack_congr hu (by simp [tempRead, cool, h])
  have still : (countFor s (formeOfStack s k) .memRefresh2x ((s.now - st.since2x) / 1000000)).stackTab = s.stackTab := by
    rw [(countFor_frame ..).1]
  unfold stackTemp
  rw [getStack_of_mapGet hst]
  dsimp only
  rw [counted]
  · simp [h]
  · split
    · rw [still, hst]
    · exact hst

theorem stackTemp_between (hlow : 82 < temp) (hhigh : temp ≤ 85) :
    stackTemp s k temp = modStack s k (tempRead st temp st.refresh2x st.since2x) := by
  have warm : ¬ temp ≤ 82 := by omega
  have cool : ¬ 85 < temp := by omega
  unfold stackTemp
  rw [getStack_of_mapGet hst]
  simp only [warm, decide_false, Bool.and_false, Bool.false_eq_true, if_false]
  exact modStack_congr hst (by simp [tempRead, cool])

end

/-! ## Self-refresh and the scrub (08 R278, 16 R541) -/

/-- A stack at which nothing is queued leaves self-refresh and carries out nothing. -/
theorem wakeStack_idle {s : State} {k : Nat} {st : Stack} (hst : mapGet s.stackTab k = some st)
    (hself : st.selfRefresh = true) (hidle : ∀ q ∈ st.pchs, q.2.queue = []) :
    wakeStack s k none = modStack s k Stack.awake := by
  have queue (p : Nat) : (getPch (modStack s k Stack.awake) k p).queue = [] := by
    rw [getPch_modStack (g := Stack.awake) (fun _ => rfl), getPch_of_mapGet hst, mapGetD]
    cases h : mapGet st.pchs p with
    | none => rfl
    | some c => exact hidle _ (mem_of_mapGet _ _ _ h)
  have free (p : Nat) : serveFree k (modStack s k Stack.awake) p = modStack s k Stack.awake := by
    rw [serveFree, serveQueue_idle (queue p), ite_self]
  unfold wakeStack
  rw [getStack_of_mapGet hst, if_pos hself]
  exact List.foldlRecOn (motive := (· = modStack s k Stack.awake)) _ _ rfl fun u hu p _ => by rw [hu, free]

/-- The scrub of a stack that is there moves on. -/
theorem scrub_moved {s : State} {k : Nat} (hst : (mapGet s.stackTab k).isSome = true) (n : Nat) :
    (getStack (modStack s k fun x => { x with scrub := n }) k).scrub = n := by
  obtain ⟨x, hx⟩ := Option.isSome_iff_exists.mp hst
  rw [getStack_modStack_self _ _ _ x hx]

/-- The scrub of a stack at the sector that comes next and is in use. -/
theorem execPatrolScrub_on {s : State} {k : Nat} {st : Stack} (hst : mapGet s.stackTab k = some st) (hon : s.powered = true)
    (hself : st.selfRefresh = false) (hquiet : st.quiesced = false) {first sector : Nat}
    (hfirst : first = if (formeOfStack s k).isSome then 0 else reservedSector)
    (hsector : sector = if st.scrub < first ∨ st.scrub ≥ backedSectors then first else st.scrub) :
    execPatrolScrub k s = .next (modStack (homeRead 2 false (k * 2 ^ 37 + sector * 64) s).1 k fun x =>
      { x with scrub := (sector + 1) % backedSectors }) := by
  unfold execPatrolScrub
  rw [getStack_of_mapGet hst, hon]
  dsimp only
  rw [hself, hquiet, ← hfirst, ← hsector]
  rfl

theorem execSelfRefreshEntry_on {s : State} {k : Nat} {st : Stack} (hst : mapGet s.stackTab k = some st)
    (hon : s.powered = true) (hplaten : (mapGetD s.platens PlatenPower.reset (k / 2)).state = .s2 ∨
      (mapGetD s.platens PlatenPower.reset (k / 2)).state = .s3) (hquiet : st.quiesced = false)
    (hidle : ∀ q ∈ st.pchs, q.2.queue = [] ∧ q.2.held = [] ∧ q.2.recovering = none) :
    execSelfRefreshEntry k s = .next (modStack s k fun x => { x with selfRefresh := true }) := by
  have idle : st.pchs.all (fun kv => kv.2.queue.isEmpty && kv.2.held.isEmpty && kv.2.recovering.isNone) = true := by
    refine List.all_eq_true.mpr fun q hq => ?_
    obtain ⟨queue, held, sound⟩ := hidle q hq
    rw [queue, held, sound]
    rfl
  unfold execSelfRefreshEntry
  dsimp only
  rw [getStack_of_mapGet hst, hon, hquiet, idle, if_pos]
  rcases hplaten with h | h <;> rw [h] <;> rfl

/-- Settles O12: row by row, what each changes read off the stack and the pseudo-channel after it. -/
theorem stacksAreMaintainedAndByteLanesMoved : Obligations.StacksAreMaintainedAndByteLanesMoved := by
  unfold Obligations.StacksAreMaintainedAndByteLanesMoved
  refine ⟨?lanes, ?stack, ?scrub⟩
  case lanes =>
    intro k p lane pa s st hk hp hon hst c recent
    have present : (mapGet s.stackTab k).isSome = true := by
      rw [hst]
      rfl
    have lost := crcLost_crcIssued (lane := lane) (pa := pa) (p := p) present
    have notes : crcNoted s k p lane = modPch s k p (fun c => { c with crcErrors := (lane, s.now) :: recent }) :=
      modPch_congr hst rfl
    have issued : InMemory s (crcIssued s k p lane pa) := (modPch_inMemory ..).trans (burstIssued_inMemory ..)
    refine ⟨fun few => ?few, fun three sound => ?third, fun hconf hspare => ?moved, fun hconf hspare => ?retired,
      ?recovered⟩
    case few =>
      have replay : (getPch (crcNoted s k p lane) k p).replay = c.replay := by
        rw [getPch_crcNoted present]
      refine (execWriteCrcError_on hon).trans ((if_neg ?_).trans (congrArg Host.Outcome.next ?_))
      · rw [lost, Bool.and_eq_true, decide_eq_true_eq, Option.isNone_iff_eq_none]
        rintro ⟨two, none⟩
        exact few.elim (Nat.not_le_of_lt · two) (· none)
      · unfold crcIssued
        dsimp only
        rw [replay, notes]
        rfl
    case third =>
      refine ⟨_, (execWriteCrcError_on hon).trans (if_pos ?_), ?_⟩
      · rw [lost, Bool.and_eq_true, decide_eq_true_eq, Option.isNone_iff_eq_none]
        exact ⟨three, sound⟩
      · rw [getPch_modPch_self (issued.present k present)]
        exact ⟨rfl, rfl⟩
    case moved =>
      obtain ⟨phase, spare, pch⟩ := laneMove_free (lane := lane) (pa := (heldPa s k p).2)
        (lossConfirmed_stack (p := p) (lane := lane) hst) hspare
      have confirmed := pch.trans (getPch_modPch_self (by rwa [heldPa_stackTab]) p _)
      refine ⟨_, execByteLaneLoss_on hon hconf, ?_, ?_, spare, phase.trans (heldPa_phase ..)⟩ <;> rw [confirmed] <;> rfl
    case retired =>
      have on : (modPch (heldPa s k p).1 k p (lossConfirmed s.now lane)).powered = true := by
        change (heldPa s k p).1.powered = true
        rwa [State.powered, heldPa_phase]
      exact ⟨_, execByteLaneLoss_on hon hconf, laneMove_used (lossConfirmed_stack hst) hspare on⟩
    case recovered =>
      intro l hrec hconf hqueue hheld hfailed hreplay hlost
      obtain ⟨pch, mem, kind⟩ := endRecovery_ended (lane := l) hk hp present hfailed hreplay hlost
      have idle : (getPch (endRecovery s k p l) k p).queue = [] := by
        rw [pch]
        exact hqueue
      refine ⟨_, (execByteLaneRecovered_confirmed hon hrec hconf).trans ?_, ?_, mem, kind⟩
      · rw [serveQueue_idle idle, ite_self]
      · rw [pch]
        rfl
  case stack =>
    intro k p bank temp count s st hon hst throttled sensed platen
    refine ⟨fun hself => ?refresh, rfl, fun hot => ?hot, fun cool => ?cool, fun low high => ?between, ?poll,
      execSelfRefreshEntry_on hst hon⟩
    case refresh => exact execRefresh_on hst hon hself
    case hot => exact (execRefreshDouble_on hon).trans (by rw [stackTemp_hot hst hot]; rfl)
    case cool => exact (execRefreshDouble_on hon).trans (by rw [stackTemp_cool hst cool]; rfl)
    case between => exact (execRefreshDouble_on hon).trans (by rw [stackTemp_between hst low high]; rfl)
    case poll => exact execInnerCorrPoll_on hst hon
  case scrub =>
    intro k s st hon hst
    refine ⟨?_, fun hself hmodule hidle => ?_⟩
    · intro hself hquiet first at_
      obtain ⟨sector, hsector⟩ : ∃ x, x = at_ := ⟨_, rfl⟩
      rw [← hsector]
      have read := homeRead_inMemory 2 false (k * 2 ^ 37 + sector * 64) s
      have there := read.present k (by rw [hst]; rfl)
      exact ⟨_, execPatrolScrub_on hst hon hself hquiet rfl hsector, scrub_moved there _, modStack_mem ..⟩
    · have row : exec (.selfRefreshExit k) s = .next (modStack s k Stack.awake) := by
        refine (congrArg Host.Outcome.next (if_pos ?_)).trans (congrArg Host.Outcome.next (wakeStack_idle hst hself hidle))
        rw [hon, hmodule]
        rfl
      exact ⟨_, row, congrArg Stack.selfRefresh (getStack_modStack_self _ _ _ st hst), rfl⟩

end Sys2Proof.Machine
end

section
/-! PROOFS. The slots of a mailbox, the end of a command in one, and the entry that a command journals (12 R396, R399;
15 R524 to R526). -/

namespace Sys2Proof.Machine

open Sys2Proof

/-! ## The slots of a mailbox -/

/-- The slots of a mailbox that is there. -/
def slotsOf (s : State) : MboxId → Option (SMap Slot)
  | .host p => (mapGet s.ports p).map (·.mbox.slots)
  | .core f => (getForme s f).map (·.coreMbox.slots)

theorem mboxThere_iff {s : State} {mb : MboxId} : MboxThere s mb ↔ (slotsOf s mb).isSome = true := by
  cases mb <;> simp [MboxThere, slotsOf]

theorem getSlot_of_slots (s : State) (mb : MboxId) (k : Nat) :
    getSlot s mb k = mapGetD ((slotsOf s mb).getD []) Slot.reset k := by
  cases mb with
  | host p =>
    simp only [getSlot, getMbox, getPort, slotsOf, mapGetD]
    cases mapGet s.ports p <;> rfl
  | core f =>
    simp only [getSlot, getMbox, slotsOf]
    cases getForme s f <;> rfl

theorem getSlot_congr {s t : State} {mb : MboxId} (h : slotsOf t mb = slotsOf s mb) (k : Nat) :
    getSlot t mb k = getSlot s mb k := by rw [getSlot_of_slots, getSlot_of_slots, h]

theorem MboxThere.congr {s t : State} {mb : MboxId} (h : slotsOf t mb = slotsOf s mb) (hs : MboxThere s mb) :
    MboxThere t mb := by
  rw [mboxThere_iff] at hs ⊢
  rw [h, hs]

/-- A slot that is in use is one of a mailbox that is there. -/
theorem mboxThere_of_phase {s : State} {mb : MboxId} {k : Nat} (h : (getSlot s mb k).phase ≠ .free) : MboxThere s mb := by
  rw [mboxThere_iff]
  rw [getSlot_of_slots] at h
  cases hm : slotsOf s mb with
  | none => rw [hm] at h; exact absurd rfl h
  | some m => rfl

theorem getSlot_modSlot_self {s : State} {mb : MboxId} (h : MboxThere s mb) (k : Nat) (g : Slot → Slot) :
    getSlot (modSlot s mb k g) mb k = g (getSlot s mb k) := by
  cases mb with
  | host p => exact getSlot_modSlot_host s p k g h
  | core f => exact getSlot_modSlot_core s f k g h

/-! ## What leaves the slots alone -/

theorem slotsOf_of_parts {s t : State} (hports : t.ports = s.ports)
    (hformes : ∀ f, (getForme t f).map (·.coreMbox.slots) = (getForme s f).map (·.coreMbox.slots)) (mb : MboxId) :
    slotsOf t mb = slotsOf s mb := by
  cases mb with
  | host p => simp only [slotsOf, hports]
  | core f => exact hformes f

theorem slotsOf_modForme (s : State) (fid : Nat) {g : Forme → Forme} (hg : ∀ x, (g x).coreMbox.slots = x.coreMbox.slots)
    (mb : MboxId) : slotsOf (modForme s fid g) mb = slotsOf s mb :=
  slotsOf_of_parts (s := s) (t := modForme s fid g) rfl (fun f => map_mapMod s.formes fid g (·.coreMbox.slots) hg f) mb

theorem slotsOf_modPort (s : State) (p : Nat) {g : Port → Port} (hg : ∀ x, (g x).mbox.slots = x.mbox.slots) (mb : MboxId) :
    slotsOf (modPort s p g) mb = slotsOf s mb := by
  cases mb with
  | host q => exact map_mapMod s.ports p g (·.mbox.slots) hg q
  | core f => rfl

theorem OnlyCounters.slotsOf {s t : State} (h : OnlyCounters s t) (hports : t.ports = s.ports) (mb : MboxId) :
    slotsOf t mb = slotsOf s mb := by
  refine slotsOf_of_parts hports (fun f => ?_) mb
  have slots : (fun x : Forme => x.coreMbox.slots) = (·.coreMbox.slots) ∘ uncounted := rfl
  rw [slots, ← Option.map_map, h f, Option.map_map]

theorem JournalOnly.slotsOf {s t : State} (h : JournalOnly s t) (mb : MboxId) : slotsOf t mb = slotsOf s mb := by
  rw [h]
  cases mb <;> rfl

/-! ## The end of a command -/

/-- A command that ends where its slots are what they were. -/
theorem ended_of_finish {c : Instr} {s u : State} {mb : MboxId} {k st detail result : Nat} {P : State → Prop}
    (hexec : exec c s = .next (finish u mb k st detail result)) (hthere : MboxThere s mb) (hslots : slotsOf u mb = slotsOf s mb)
    (hP : P (finish u mb k st detail result)) : Ended c s mb k st detail result P := by
  refine ⟨_, hexec, ?_, hP⟩
  rw [finish, getSlot_modSlot_self (hthere.congr hslots), getSlot_congr hslots]

/-- A check that fails ends its command with its status and detail. -/
theorem ended_of_check {c : Instr} {s go : State} {mb : MboxId} {k : Nat} {cs : List (Bool × Nat × Nat)}
    (hexec : exec c s = .next (checked s mb k cs go)) (hthere : MboxThere s mb) (st d : Nat)
    (hbad : firstBad cs = some (st, d)) : Ended c s mb k st d 0 (fun _ => True) := by
  rw [checked, hbad] at hexec
  exact ended_of_finish hexec hthere rfl trivial

theorem checked_passes {s go : State} {mb : MboxId} {k : Nat} {cs : List (Bool × Nat × Nat)} (h : firstBad cs = none) :
    checked s mb k cs go = go := by rw [checked, h]

theorem not_bad_of_firstBad {cs : List (Bool × Nat × Nat)} (h : firstBad cs = none) : ∀ x ∈ cs, x.1 = false := by
  induction cs with
  | nil => simp
  | cons y cs ih =>
    obtain ⟨b, st, d⟩ := y
    cases b with
    | true => simp [firstBad] at h
    | false => simpa [firstBad] using ih h

/-- A command that starts is one in a slot at step 9, of a mailbox that is there, while Lumiz runs. -/
theorem of_startsCmd {s : State} {mb : MboxId} {k opc c : Nat} (h : startsCmd s mb k opc = some c) :
    s.up = true ∧ MboxThere s mb := by
  unfold startsCmd at h
  dsimp only at h
  split at h
  · next starts =>
    simp only [Bool.and_eq_true, beq_iff_eq] at starts
    obtain ⟨⟨⟨⟨up, -⟩, ready⟩, -⟩, -⟩ := starts
    exact ⟨up, mboxThere_of_phase (k := k) (by rw [getSlot, ready]; decide)⟩
  · cases h

/-- A command that runs is one that has started. -/
theorem of_runsCmd {s : State} {mb : MboxId} {k opc c : Nat} (h : runsCmd s mb k opc = some c) :
    startsCmd s mb k opc = none ∧ MboxThere s mb := by
  unfold runsCmd at h
  dsimp only at h
  split at h
  · next runs =>
    simp only [Bool.and_eq_true, beq_iff_eq] at runs
    obtain ⟨⟨⟨-, running⟩, -⟩, -⟩ := runs
    refine ⟨?_, mboxThere_of_phase (k := k) (by rw [getSlot, running]; decide)⟩
    simp [startsCmd, running]
  · cases h

/-! ## The entry of a command -/

/-- The journal takes an entry: no entry before it is due or lost, nothing holds it up and there is a place for it. -/
structure JournalTakes (s : State) : Prop where
  held : journalHeld s = false
  lost : s.journal.lost = 0
  bootDue : s.journal.bootDue = false
  full : s.journal.full = false

theorem JournalTakes.write {s : State} (h : JournalTakes s) (e : JEntry) : journalWrite s e = journalPut s e := by
  have room : ¬ s.journal.unexported ≥ journalRefuseAt := of_decide_eq_false h.full
  refine journalWrite_put s e h.bootDue ?_ h.held h.lost
  have less : journalRefuseAt < journalRing := by decide
  omega

/-- The entry is the journal's newest. -/
theorem JournalTakes.journaled {s t : State} (h : JournalTakes s) {e : JEntry} (ht : t.journal = (journalWrite s e).journal) :
    Journaled t e.objKind e.objId e.action e.new := by
  refine ⟨{ e with number := s.journal.next, time := s.now, prev := s.journal.chain % 2 ^ 64 }, ?_, rfl, rfl, rfl, rfl⟩
  rw [ht, h.write, journalPut_entries]
  rfl

end Sys2Proof.Machine
end

section
/-! PROOFS. The end of a fault record: a slug that waits in it goes on or faults, and a report that waits ends (10 R359, R360,
R364; 12 R406). -/

namespace Sys2Proof.Machine

open Sys2Proof

/-! ## Translations of a node that runs on (10 R344) -/

theorem walkRead_within (s : State) (fid die : Nat) (f : Forme) (va : Nat) : Within s (walkRead s fid die f va) :=
  ((gutMessage_within ..).trans (Within.foldl _ (fun _ _ => homeRead_within ..) _ _)).trans (gutMessage_within ..)

/-- A translation changes nothing, walks, or walks and fills the range cache (10 R344, R345). -/
theorem translate_walks (s : State) (a : Access) (va : Nat) : (translate s a va).1 = s ∨
    ∃ f, (translate s a va).1 = walkRead s a.forme a.eng.die f va ∨
      ∃ id, (translate s a va).1 = fillCached (walkRead s a.forme a.eng.die f va) a.forme a.eng id := by
  unfold translate
  split
  · exact .inl rfl
  · split
    · exact .inl rfl
    · split
      · exact .inr ⟨_, .inl rfl⟩
      · dsimp only
        split <;> split
        case h_1.isFalse => exact .inr ⟨_, .inr ⟨_, rfl⟩⟩
        case h_2.isFalse => exact .inr ⟨_, .inl rfl⟩
        case h_3.isFalse => exact .inr ⟨_, .inl rfl⟩
        all_goals exact .inl rfl

@[simp] theorem fillCached_phase (s : State) (f : Nat) (e : Engine) (id : Nat) : (fillCached s f e id).phase = s.phase := rfl
@[simp] theorem fillCached_galleys (s : State) (f : Nat) (e : Engine) (id : Nat) :
    (fillCached s f e id).galleys = s.galleys := rfl

/-- A translation over which the node runs on changes no galley. -/
theorem translate_galleys {s : State} {a : Access} {va : Nat} (hp : (translate s a va).1.phase = s.phase) :
    (translate s a va).1.galleys = s.galleys := by
  have walked {f : Forme} (h : (walkRead s a.forme a.eng.die f va).phase = s.phase) :
      (walkRead s a.forme a.eng.die f va).galleys = s.galleys := by rw [((walkRead_within ..).frame h).1]
  obtain still | ⟨f, walks | ⟨id, fills⟩⟩ := translate_walks s a va
  · rw [still]
  · rw [walks] at hp ⊢
    exact walked hp
  · rw [fills, fillCached_phase] at hp
    rw [fills, fillCached_galleys, walked hp]

/-! ## Fault records by their number (10 R359) -/

theorem faultById_congr {s t : State} {f : Nat} (h : (getForme t f).map (·.faults) = (getForme s f).map (·.faults)) (id : Nat) :
    faultById t f id = faultById s f id := by
  have byMap (u : State) : faultById u f id = ((getForme u f).map (·.faults)).bind (List.find? (fun r => r.faultId = id)) := by
    rw [faultById, Option.bind_map]
    rfl
  rw [byMap, byMap, h]

theorem OnlyCounters.faults {s t : State} (h : OnlyCounters s t) (f : Nat) :
    (getForme t f).map (·.faults) = (getForme s f).map (·.faults) := by
  have faults : Forme.faults = Forme.faults ∘ uncounted := rfl
  rw [faults, ← Option.map_map, h f, Option.map_map]

/-- A record whose waiters have been seen to: it is resolved, and nothing waits in it. -/
def FaultRec.closed (r : FaultRec) (st : FaultState) : FaultRec := { r with state := st, resolved := true, waiters := [] }

theorem faultById_setFaultState {s : State} {f id : Nat} {r : FaultRec} (h : faultById s f id = some r) (st : FaultState) :
    faultById (setFaultState s f id st) f id = some (r.closed st) := by
  obtain ⟨x, hx, hr⟩ := Option.bind_eq_some_iff.mp h
  have same : (fun r : FaultRec => decide (r.faultId = id)) ∘ (fun r => if r.faultId = id then r.closed st else r) =
      fun r => decide (r.faultId = id) := by
    funext r
    by_cases e : r.faultId = id <;> simp [e, FaultRec.closed]
  have number : r.faultId = id := by simpa using List.find?_some hr
  have record : (x.faults.map (fun r => if r.faultId = id then r.closed st else r)).find? (fun r => decide (r.faultId = id)) =
      some (r.closed st) := by rw [List.find?_map, same, hr, Option.map_some, if_pos number]
  rw [faultById, setFaultState, getForme_modForme_self, hx]
  exact record

theorem getMbox_setFaultState (s : State) (f id : Nat) (st : FaultState) (mb : MboxId) :
    getMbox (setFaultState s f id st) mb = getMbox s mb := by
  cases mb with
  | host p => rfl
  | core c =>
    have kept : (getForme (setFaultState s f id st) c).map (·.coreMbox) = (getForme s c).map (·.coreMbox) :=
      map_mapMod _ _ _ _ (by intro; rfl) c
    unfold getMbox
    cases h : getForme s c <;> cases h' : getForme (setFaultState s f id st) c <;> simp_all

theorem getSlot_setFaultState (s : State) (f id : Nat) (st : FaultState) (mb : MboxId) (k : Nat) :
    getSlot (setFaultState s f id st) mb k = getSlot s mb k := by rw [getSlot, getSlot, getMbox_setFaultState]

/-! ## A slug that waits (10 R360, R364) -/

theorem stillWaits_congr {s t : State} {f : Nat} (h : (getForme t f).map (·.faults) = (getForme s f).map (·.faults))
    (same : Waiter → Bool) : stillWaits t f same = stillWaits s f same := by
  have byMap (u : State) : stillWaits u f same =
      (((getForme u f).map (·.faults)).getD []).any (fun r => r.waiters.any (fun w => same w.1)) := by
    unfold stillWaits
    cases getForme u f <;> rfl
  rw [byMap, byMap, h]

/-- What came of a waiter whose request is allowed (10 R364). -/
theorem evaluate_allowed {f va kind pa : Nat} {s v : State} {t : Fate} {w : Waiter} {eng : Engine}
    (hgone : waiterGone s w = false)
    (ht : translate s { forme := f, eng := eng, kind := kind, pass := waiterPass s w } va = (v, .ok pa)) :
    evaluate f s t (w, eng, kind, va) = (proceed v f w, { t with resumed := true }) := by
  simp [evaluate, hgone, ht]

section
variable {s : State} {a : SlugAt} {k : Stick} {x : Slug} (hk : getStick s a.platen a.galley a.stick = some k)
include hk

theorem getSlug_of_getStick : getSlug s a = k.slugs[a.slug]? := by rw [getSlug, hk, Option.bind_some]

/-- The slug that waits no more runs its instruction again. -/
theorem getSlug_proceed (hx : k.slugs[a.slug]? = some x) (f lanes : Nat) (hwait : stillWaits s f (sameSlug a) = false) :
    getSlug (proceed s f (.sort a lanes)) a = some { x with wait := x.wait.freed } := by
  have runs : proceed s f (.sort a lanes) = modSlug s a (fun x => { x with wait := x.wait.freed }) :=
    if_neg (by simp [hwait])
  rw [runs, getSlug_of_getStick (getStick_modSlug _ hk hx), withSlug_slugs_self _ hx]

/-- The slug that is denied faults its stick with TRANSLATION. -/
theorem denyWaiter_sort (hx : k.slugs[a.slug]? = some x) (lanes va : Nat) (reason : Reason) :
    denyWaiter s (.sort a lanes) va reason = stickFault s a.platen a.galley a.stick a.slug x.pc
      { code := .translation, addr := va, lanes := lanes, detail := 0 } := by
  simp [denyWaiter, getSlug_of_getStick hk, hx, slugFault]

/-- The fault of a stick leaves the fault records of translation. -/
theorem stickFault_faults (halive : k.dead = false) (slug pc : Nat) (w : FaultAt) (f : Nat) :
    (getForme (stickFault s a.platen a.galley a.stick slug pc w) f).map (·.faults) = (getForme s f).map (·.faults) := by
  rw [stickFault_runs hk halive, map_getForme_modPass (π := (·.faults)) fun _ _ => rfl, (countFor_frame ..).2.faults]
  exact (countWaits_onlyCounted s a.platen a.galley a.stick).2.faults f

end

/-! ## A report that waits (12 R406) -/

theorem slotsOf_markExported (s : State) (o : JOrigin) (es : List JEntry) (start : Nat) (mb : MboxId) :
    slotsOf (markExported s o es start) mb = slotsOf s mb := by
  unfold markExported
  dsimp only
  split
  · exact (journalWrite_frame s _).slotsOf mb
  · exact (journalWrite_frame s _).slotsOf mb

/-- A report that is denied ends, with OUT_USED up to the page denied. -/
theorem denyReport_finishes (s : State) (mb : MboxId) (k va : Nat) : ∃ u rest, slotsOf u mb = slotsOf s mb ∧
    denyReport s mb k va = finish u mb k stTranslationFault 0
      (packFields [(32, va - (OutDesc.ofCmd (slotCmd (getMbox s mb) k)).addr), (992, rest)]) := by
  refine ⟨_, _, ?_, rfl⟩
  split
  · exact slotsOf_markExported ..
  · rfl

/-- A reporting command is no transfer. -/
theorem denyCopy_report {s : State} {mb : MboxId} {k : Nat} (h : slotOpcode (getMbox s mb) k ∈ [0x02, 0x51, 0x70, 0x71])
    (va : Nat) : denyCopy s mb k va = denyReport s mb k va := by
  have other (o : Nat) (ho : o ∉ [0x02, 0x51, 0x70, 0x71]) : slotOpcode (getMbox s mb) k ≠ o := fun e => ho (e ▸ h)
  simp [denyCopy, other 0x30 (by decide), other 0x31 (by decide), other 0x32 (by decide)]

/-! ## FAULT_REEVALUATE and FAULT_HOLD_EXPIRY -/

section
variable {s : State} {fid id va kind : Nat} {w : Waiter} {eng : Engine} {r : FaultRec} (hr : faultById s fid id = some r)
  (hopen : r.state = .opened) (hwaits : r.waiters = [(w, eng, kind, va)])
include hr hopen hwaits

theorem execFaultReevaluate_allowed {v : State} {pa : Nat} (hresolved : r.resolved = true) :
    let gone := setFaultState s fid id .moved
    waiterGone gone w = false →
    translate gone { forme := fid, eng := eng, kind := kind, pass := waiterPass gone w } va = (v, .ok pa) →
    execFaultReevaluate fid id s = .next (setFaultState (proceed v fid w) fid id .resumed) := by
  intro gone hgone ht
  simp [execFaultReevaluate, hr, hopen, hresolved, hwaits, evaluateAll, evaluate_allowed hgone ht, gone]

theorem execFaultHoldExpiry_denies (hunresolved : r.resolved = false) (hreason : r.reason = .noRange)
    (hgone : waiterGone (setFaultState s fid id .denied) w = false) : execFaultHoldExpiry fid id s =
      .next (denyWaiter (setFaultState s fid id .denied) w va .noRange) := by
  simp [execFaultHoldExpiry, hr, hopen, hunresolved, hreason, hwaits, hgone]

end

/-- Settles O34: the one waiter is a slug that goes on, a slug that faults its stick, or a report that ends. -/
theorem heldRequestResumesOrIsDenied : Obligations.HeldRequestResumesOrIsDenied := by
  unfold Obligations.HeldRequestResumesOrIsDenied
  refine ⟨fun fid id lanes va kind eng a r k x s hr hopen hwaits hk halive hx => ?slug, ?report⟩
  case slug =>
    have there (st : FaultState) : waiterGone (setFaultState s fid id st) (.sort a lanes) = false := by
      have still : getStick (setFaultState s fid id st) a.platen a.galley a.stick = some k := hk
      simp [waiterGone, still]
    refine ⟨fun hresolved hwait hstill ⟨pa, v, ht, hphase⟩ => ?resumed, fun hunresolved hreason => ?denied⟩
    case resumed =>
      have pass : waiterPass (setFaultState s fid id .moved) (.sort a lanes) = some k.passSeq := congrArg (Option.map _) hk
      have counters := translate_counters (setFaultState s fid id .moved)
        { forme := fid, eng := eng, kind := kind, pass := some k.passSeq } va
      have galleys := translate_galleys (s := setFaultState s fid id .moved)
        (a := { forme := fid, eng := eng, kind := kind, pass := some k.passSeq }) (va := va)
      rw [ht] at counters galleys
      have stick : getStick v a.platen a.galley a.stick = some k := by
        rw [getStick, getGalley, galleys hphase]
        exact hk
      have waits := (stillWaits_congr (counters.faults fid) (sameSlug a)).trans hstill
      have record : faultById (proceed v fid (.sort a lanes)) fid id = some (r.closed .moved) := by
        have runs : proceed v fid (.sort a lanes) = modSlug v a (fun x => { x with wait := x.wait.freed }) :=
          if_neg (by simp [waits])
        rw [runs]
        exact (faultById_congr (counters.faults fid) id).trans (faultById_setFaultState hr .moved)
      refine ⟨_, _, execFaultReevaluate_allowed hr hopen hwaits hresolved (there .moved) (pass ▸ ht), ?_,
        faultById_setFaultState record .resumed, rfl, rfl⟩
      exact (getSlug_proceed stick hx fid lanes waits).trans (by rw [hwait]; rfl)
    case denied =>
      have stick : getStick (setFaultState s fid id .denied) a.platen a.galley a.stick = some k := hk
      let w : FaultAt := { code := .translation, addr := va, lanes := lanes, detail := 0 }
      refine ⟨_, r.closed .denied, { k with dead := true, fault := some (faultRecord k a.platen a.galley a.slug x.pc w) },
        execFaultHoldExpiry_denies hr hopen hwaits hunresolved hreason (there .denied), ?_, rfl, rfl, ?_, rfl, rfl⟩
      · rw [denyWaiter_sort stick hx, faultById_congr (stickFault_faults stick halive a.slug x.pc w fid)]
        exact faultById_setFaultState hr .denied
      · rw [denyWaiter_sort stick hx]
        exact (stickFault_stick stick halive a.slug x.pc w).1
  case report =>
    intro fid id k va kind mb eng r s hr hopen hunresolved hreason hwaits hphase hopcode
    let u := setFaultState s fid id .denied
    have mbox : getMbox u mb = getMbox s mb := getMbox_setFaultState ..
    have slot : getSlot u mb k = getSlot s mb k := getSlot_setFaultState ..
    have there : MboxThere s mb := mboxThere_of_phase (k := k) (by rw [hphase]; decide)
    have slots : slotsOf u mb = slotsOf s mb := slotsOf_modForme s fid (by intro; rfl) mb
    have hgone : waiterGone u (.copy mb k) = false := by simp [waiterGone, slot, hphase]
    have hexec : exec (.faultHoldExpiry fid id) s = .next (denyReport u mb k va) := by
      refine (execFaultHoldExpiry_denies hr hopen hwaits hunresolved hreason hgone).trans (congrArg _ ?_)
      exact denyCopy_report (by rw [mbox]; exact hopcode) va
    obtain ⟨v, rest, kept, ends⟩ := denyReport_finishes u mb k va
    rw [ends] at hexec
    have result : (getSlot (denyReport u mb k va) mb k).result =
        packFields [(32, va - (OutDesc.ofCmd (slotCmd (getMbox s mb) k)).addr), (992, rest)] := by
      rw [ends, finish, getSlot_modSlot_self (there.congr (kept.trans slots)), mbox]
    rw [mbox, ← result] at hexec
    refine ended_of_finish hexec there (kept.trans slots) ?_
    rw [finish, getSlot_modSlot_self (there.congr (kept.trans slots)), result, packFields]
    omega

end Sys2Proof.Machine
end

section
/-! PROOFS. A walk of the range table: the eight sectors of a group read at their homes, where nothing waits, and the range cache
that it fills (08 R262, R268; 10 R344, R345). -/

namespace Sys2Proof.Machine

open Sys2Proof

/-! ## The forme that holds a stack, under counting -/

theorem formeWith_mapSet {p : Forme → Bool} {m : SMap Forme} {i : Nat} {x v : Forme} (h : formeWith p m = some i)
    (hx : mapGet m i = some x) (hv : p v = p x) : formeWith p (mapSet m i v) = some i := by
  induction m with
  | nil => cases h
  | cons y r ih =>
    obtain ⟨k, y⟩ := y
    rw [mapSet]
    split
    · rw [formeWith, h]
      exact ite_self _
    · split
      · next e =>
        subst e
        obtain rfl : y = x := by simpa [mapGet] using hx
        rwa [formeWith, hv]
      · next ne =>
        have other : p y = false := Bool.eq_false_iff.mpr fun hp => by
          rw [formeWith, if_pos hp] at h
          exact ne (Option.some.inj h).symm
        rw [formeWith, other] at h ⊢
        rw [mapGet, if_neg (Ne.symm ne)] at hx
        exact ih h hx

/-- Counting under the forme that holds a stack leaves it the holder, in whatever order the formes stand. -/
theorem formeOfStack_countFor {s : State} {k fid : Nat} (h : formeOfStack s k = some fid) (c : Ctr) (n : Nat) :
    formeOfStack (countFor s (some fid) c n) k = some fid := by
  change formeWith _ (mapMod s.formes fid _) = _
  unfold mapMod
  split
  · next x hx => exact formeWith_mapSet h hx rfl
  · exact h

/-! ## Pseudo-channels under a change -/

/-- What of the pseudo-channels a change of one leaves alone. -/
theorem getPch_modPch_keeps {β : Type} (s : State) (k p j q : Nat) {g : Pch → Pch} (π : Pch → β)
    (hg : ∀ c, π (g c) = π c) :
    π (getPch (modPch s k p g) j q) = π (getPch s j q) := by
  refine getStack_modStack_keeps s k j _ (fun x => π (mapGetD x.pchs Pch.reset q)) fun x => ?_
  by_cases e : q = p
  · subst e
    dsimp only
    rw [mapGetD_mapUpd_self, hg]
  · dsimp only
    rw [mapGetD_mapUpd_ne _ _ _ e]

/-- Nothing is different at the pseudo-channels but their slots, rows and replay buffers: what waits, what is recovered, and
whether their stacks are in self-refresh. -/
structure ChannelsKept (s t : State) : Prop where
  blocked : ∀ k p, pchBlocked t k p = pchBlocked s k p
  queue : ∀ k p, (getPch t k p).queue = (getPch s k p).queue
  held : ∀ k p, (getPch t k p).held = (getPch s k p).held

namespace ChannelsKept

variable {s t u : State}

theorem trans (h : ChannelsKept s t) (k : ChannelsKept t u) : ChannelsKept s u :=
  ⟨fun i p => (k.blocked i p).trans (h.blocked i p), fun i p => (k.queue i p).trans (h.queue i p),
    fun i p => (k.held i p).trans (h.held i p)⟩

theorem of_stackTab (h : t.stackTab = s.stackTab) : ChannelsKept s t := by
  have stack (k : Nat) : getStack t k = getStack s k := by rw [getStack, getStack, h]
  refine ⟨fun k p => ?_, fun k p => ?_, fun k p => ?_⟩ <;> simp only [pchBlocked, getPch, stack]

theorem modPch (k p : Nat) {g : Pch → Pch}
    (hg : ∀ c, (g c).queue = c.queue ∧ (g c).held = c.held ∧ (g c).recovering = c.recovering) :
    ChannelsKept s (modPch s k p g) := by
  refine ⟨fun j q => ?_, fun j q => getPch_modPch_keeps s k p j q (·.queue) fun c => (hg c).1,
    fun j q => getPch_modPch_keeps s k p j q (·.held) fun c => (hg c).2.1⟩
  have refresh : (getStack (Machine.modPch s k p g) j).selfRefresh = (getStack s j).selfRefresh :=
    getStack_modStack_keeps s k j _ (·.selfRefresh) fun _ => rfl
  rw [pchBlocked, pchBlocked, refresh, getPch_modPch_keeps s k p j q (·.recovering) fun c => (hg c).2.2]

theorem memRecord (pa kind symbols source lanes : Nat) : ChannelsKept s (memRecord s pa kind symbols source lanes) := by
  have refresh (j : Nat) : (getStack (Machine.memRecord s pa kind symbols source lanes) j).selfRefresh =
      (getStack s j).selfRefresh := by
    unfold Machine.memRecord
    dsimp only
    split
    · exact getStack_modStack_keeps s _ j _ (·.selfRefresh) fun _ => rfl
    · rfl
  refine ⟨fun j q => ?_, fun j q => ?_, fun j q => ?_⟩ <;> simp only [pchBlocked, refresh, getPch_memRecord]

end ChannelsKept

/-! ## What reading a sector leaves -/

theorem memRecord_only (s : State) (pa kind symbols source lanes : Nat) : memRecord s pa kind symbols source lanes =
    { s with stackTab := (memRecord s pa kind symbols source lanes).stackTab,
             absentRing := (memRecord s pa kind symbols source lanes).absentRing } := by
  unfold memRecord
  dsimp only
  split <;> rfl

/-- A read of the sector of `pa`, of a stack of forme `fid`, that counts `n` bytes in the priority class: nothing else of the
formes differs but their counters, no other sector's errors or poison, and nothing that waits at a pseudo-channel. -/
structure ReadFrame (fid pa n : Nat) (s t : State) : Prop where
  counters : OnlyCounters s t
  caches : t.rangeCaches = s.rangeCaches
  bytes : formeCtr t fid .memRdPrioBytes = (formeCtr s fid .memRdPrioBytes).map (· + n)
  holder : ∀ k, formeOfStack s k = some fid → formeOfStack t k = some fid
  channels : ChannelsKept s t
  errors : ∀ i, i ≠ sectorOf pa → mapGet t.errors i = mapGet s.errors i
  poison : ∀ i, i ≠ sectorOf pa → mapGet t.poison i = mapGet s.poison i

namespace ReadFrame

variable {fid pa n m : Nat} {s t u : State}

theorem trans (h : ReadFrame fid pa n s t) (k : ReadFrame fid pa m t u) : ReadFrame fid pa (n + m) s u where
  counters := h.counters.trans k.counters
  caches := k.caches.trans h.caches
  bytes := by
    rw [k.bytes, h.bytes, Option.map_map]
    exact congrArg (Option.map · _) (funext fun x => (Nat.add_assoc x n m))
  holder j hj := k.holder j (h.holder j hj)
  channels := h.channels.trans k.channels
  errors i hi := (k.errors i hi).trans (h.errors i hi)
  poison i hi := (k.poison i hi).trans (h.poison i hi)

/-- A change that leaves the formes and the range caches. -/
theorem of_formes (hformes : t.formes = s.formes) (hcaches : t.rangeCaches = s.rangeCaches) (hchannels : ChannelsKept s t)
    (herrors : ∀ i, i ≠ sectorOf pa → mapGet t.errors i = mapGet s.errors i)
    (hpoison : ∀ i, i ≠ sectorOf pa → mapGet t.poison i = mapGet s.poison i) : ReadFrame fid pa 0 s t where
  counters f := by rw [getForme, hformes]; rfl
  caches := hcaches
  bytes := by
    rw [formeCtr, formeCtr, getForme, hformes]
    exact Option.map_id'.symm
  holder k hk := by rwa [formeOfStack, formeOfPlaten, hformes]
  channels := hchannels
  errors := herrors
  poison := hpoison

theorem refl (s : State) : ReadFrame fid pa 0 s s :=
  of_formes rfl rfl (.of_stackTab rfl) (fun _ _ => rfl) (fun _ _ => rfl)

theorem ite {c : Prop} [Decidable c] (ht : ReadFrame fid pa n s t) (hu : ReadFrame fid pa n s u) :
    ReadFrame fid pa n s (if c then t else u) := by
  split
  · exact ht
  · exact hu

/-- A count under the forme that holds the stack. -/
theorem counted (c : Ctr) (a b : Nat)
    (hbytes : formeCtr (countFor s (some fid) c a) fid .memRdPrioBytes = (formeCtr s fid .memRdPrioBytes).map (· + b)) :
    ReadFrame fid pa b s (countFor s (some fid) c a) where
  counters := (countFor_frame ..).2
  caches := rfl
  bytes := hbytes
  holder _ hj := formeOfStack_countFor hj c a
  channels := .of_stackTab rfl
  errors _ _ := rfl
  poison _ _ := rfl

/-- A count under any other counter. -/
theorem countFor {k : Nat} (h : formeOfStack s k = some fid) {c : Ctr} (hc : c ≠ .memRdPrioBytes) (a : Nat) :
    ReadFrame fid pa 0 s (countFor s (formeOfStack s k) c a) := by
  rw [h]
  exact counted c a 0 ((formeCtr_countFor_ne s _ a fid (Ne.symm hc)).trans (Option.map_id' ..).symm)

theorem drawn (s : State) : ReadFrame fid pa 0 s s.drawn :=
  of_formes rfl rfl (.of_stackTab rfl) (fun _ _ => rfl) (fun _ _ => rfl)

theorem memRecord (kind symbols source lanes : Nat) : ReadFrame fid pa 0 s (memRecord s pa kind symbols source lanes) := by
  refine of_formes ?_ ?_ (.memRecord ..) (fun _ _ => by rw [memRecord_errors]) (fun _ _ => by rw [memRecord_poison]) <;>
    rw [memRecord_only]

theorem poisonSector (h : formeOfStack s (paStack pa) = some fid) : ReadFrame fid pa 0 s (poisonSector s pa) := by
  have counted : ReadFrame fid pa 0 s
      (if isPoisoned s pa then s else Machine.countFor s (formeOfStack s (paStack pa)) .memPoisonSet 1) :=
    ite (refl s) (countFor h (by decide) 1)
  unfold Machine.poisonSector
  dsimp only
  generalize (if isPoisoned s pa then s else Machine.countFor s (formeOfStack s (paStack pa)) .memPoisonSet 1) = u at counted ⊢
  have emptied : ChannelsKept u (modPch u (paStack pa) (paPch pa) (fun c =>
      { c with replay := c.replay.filter (fun b => b.pa ≠ sectorBase pa) })) := .modPch _ _ fun _ => ⟨rfl, rfl, rfl⟩
  refine ReadFrame.trans (n := 0) (m := 0) counted (of_formes rfl rfl (emptied.trans (.of_stackTab rfl)) ?_ ?_)
  · exact fun _ hi => mapGet_mapDel_ne u.errors hi
  · exact fun _ hi => mapGet_mapSet_ne u.poison () hi

theorem setErrors (p : List (Nat × Nat)) : ReadFrame fid pa 0 s (setErrors s pa p) :=
  ite (of_formes rfl rfl (.of_stackTab rfl) (fun _ => mapGet_mapDel_ne _) fun _ _ => rfl)
    (of_formes rfl rfl (.of_stackTab rfl) (fun _ => mapGet_mapSet_ne _ _) fun _ _ => rfl)

theorem readFails (h : formeOfStack s (paStack pa) = some fid) (kind symbols source : Nat) :
    ReadFrame fid pa 0 s (readFails s pa kind symbols source).1 := by
  have stored : ReadFrame fid pa 0 s (if isPoisoned s pa then s else Machine.poisonSector s pa) :=
    ite (refl s) (poisonSector h)
  unfold Machine.readFails
  dsimp only
  split
  · exact (stored.trans (drawn _)).trans (memRecord (s := State.drawn _) ..)
  · exact stored.trans (memRecord ..)

theorem readTag (h : formeOfStack s (paStack pa) = some fid) (source : Nat) (fixed left : List (Nat × Nat)) :
    ReadFrame fid pa 0 s (readTag s pa source fixed left).1 := by
  unfold Machine.readTag
  split
  · exact ite (refl s) (((countFor h (by decide) 1).trans (memRecord ..)).trans (setErrors left))
  · exact readFails h ..

theorem readDecode (h : formeOfStack s (paStack pa) = some fid) (source : Nat) :
    ReadFrame fid pa 0 s (readDecode s pa source).1 := by
  unfold Machine.readDecode
  dsimp only
  split
  · exact readTag h ..
  · split <;> exact readFails h ..

/-- The data slot of a read in the priority class counts the 64 bytes of its sector. -/
theorem memSlot (h : formeOfStack s (paStack pa) = some fid) : ReadFrame fid pa 64 s (memSlot s pa true false) := by
  have slot : ReadFrame fid pa 0 s (modPch s (paStack pa) (paPch pa) (fun p =>
      { p with slots := (true :: p.slots).take 16, openRows := mapSet p.openRows (paBank pa) (paRow pa) })) :=
    of_formes rfl rfl (.modPch _ _ fun _ => ⟨rfl, rfl, rfl⟩) (fun _ _ => rfl) fun _ _ => rfl
  unfold Machine.memSlot
  dsimp only
  rw [h]
  refine ReadFrame.trans (n := 0) (ite ?_ slot) (counted .memRdPrioBytes 64 64 (formeCtr_countFor_self ..))
  exact slot.trans (counted .memRowMiss 1 0 ((formeCtr_countFor_ne _ _ _ _ (by decide)).trans Option.map_id'.symm))

end ReadFrame

/-! ## A sector that is read at once (08 R262, R268, R273) -/

/-- A present sector of a stack of forme `fid`, with no byte lane dead, at a pseudo-channel that issues and at which nothing
waits. -/
structure Readable (s : State) (fid pa : Nat) : Prop where
  present : paAbsent pa = false
  holder : formeOfStack s (paStack pa) = some fid
  lane : laneDead s pa = none
  issues : pchBlocked s (paStack pa) (paPch pa) = false
  queue : (getPch s (paStack pa) (paPch pa)).queue = []
  held : (getPch s (paStack pa) (paPch pa)).held = []

theorem laneDead_congr {s t : State} {pa : Nat} (herrors : mapGet t.errors (sectorOf pa) = mapGet s.errors (sectorOf pa))
    (hpoison : mapGet t.poison (sectorOf pa) = mapGet s.poison (sectorOf pa)) : laneDead t pa = laneDead s pa := by
  have errors : symbolErrors t pa = symbolErrors s pa := by rw [symbolErrors, herrors, symbolErrors]
  have poisoned : isPoisoned t pa = isPoisoned s pa := by rw [isPoisoned, hpoison, isPoisoned]
  rw [laneDead, errors, poisoned, laneDead]

/-- Reading one sector leaves the others as readable as they were. -/
theorem Readable.after {fid pa n a : Nat} {s t : State} (h : Readable s fid a) (r : ReadFrame fid pa n s t)
    (ha : sectorOf a ≠ sectorOf pa) : Readable t fid a where
  present := h.present
  holder := r.holder _ h.holder
  lane := (laneDead_congr (r.errors _ ha) (r.poison _ ha)).trans h.lane
  issues := (r.channels.blocked ..).trans h.issues
  queue := (r.channels.queue ..).trans h.queue
  held := (r.channels.held ..).trans h.held

theorem unblock_issues {s : State} {k p : Nat} (h : pchBlocked s k p = false) : unblock s k p = s := by
  obtain ⟨refresh, recovering⟩ := Bool.or_eq_false_iff.mp h
  have awake : wakeStack s k (some p) = s := if_neg (by simp [refresh])
  rw [unblock, awake, recoverLane, Option.not_isSome_iff_eq_none.mp (Bool.eq_false_iff.mp recovering)]

/-- Nothing waits before such a read, and it is decoded. -/
theorem Readable.homeRead {s : State} {fid pa : Nat} (h : Readable s fid pa) :
    homeRead 1 true pa s = readDecode (memSlot s pa true false) pa 1 := by
  have lane : laneDead (memSlot s pa true false) pa = none :=
    (laneDead_congr (by rw [memSlot_errors]) (by rw [memSlot_poison])).trans h.lane
  rw [Machine.homeRead, h.present, unblock_issues h.issues]
  simp [inTurn, h.queue, h.held, sectorRead, lane]

/-- It counts its 64 bytes and leaves what `ReadFrame` says. -/
theorem Readable.readFrame {s : State} {fid pa : Nat} (h : Readable s fid pa) :
    ReadFrame fid pa 64 s (Machine.homeRead 1 true pa s).1 := by
  have slot : ReadFrame fid pa 64 s (memSlot s pa true false) := .memSlot h.holder
  rw [h.homeRead]
  exact ReadFrame.trans (m := 0) slot (.readDecode (slot.holder _ h.holder) 1)

/-! ## A walk (10 R344) -/

/-- What a walk leaves: of the formes all but their counters, the range caches, and `n` more bytes in the priority class. -/
structure GroupRead (fid n : Nat) (s t : State) : Prop where
  counters : OnlyCounters s t
  caches : t.rangeCaches = s.rangeCaches
  bytes : formeCtr t fid .memRdPrioBytes = (formeCtr s fid .memRdPrioBytes).map (· + n)

theorem sectorOf_ne {base i j : Nat} (h : i ≠ j) : sectorOf (base + 64 * i) ≠ sectorOf (base + 64 * j) := by
  simp only [sectorOf]
  omega

/-- The sectors of a group, each readable at first, are read one after another. -/
theorem readGroup_walked {fid base : Nat} (l : List Nat) (hl : l.Nodup) (s : State)
    (h : ∀ i ∈ l, Readable s fid (base + 64 * i)) :
    GroupRead fid (64 * l.length) s (l.foldl (fun s i => (homeRead 1 true (base + 64 * i) s).1) s) := by
  induction l generalizing s with
  | nil => exact ⟨.refl s, rfl, Option.map_id'.symm⟩
  | cons i l ih =>
    obtain ⟨fresh, hl⟩ := List.nodup_cons.mp hl
    have first := (h i List.mem_cons_self).readFrame
    have rest := ih hl _ fun j hj =>
      (h j (List.mem_cons_of_mem i hj)).after first (sectorOf_ne fun e => fresh (e ▸ hj))
    refine ⟨first.counters.trans rest.counters, rest.caches.trans first.caches, ?_⟩
    rw [List.foldl_cons, rest.bytes, first.bytes, Option.map_map]
    refine congrArg (Option.map · _) (funext fun x => ?_)
    simp only [Function.comp_apply, List.length_cons]
    omega

theorem Readable.gutMessage {s : State} {fid pa : Nat} (h : Readable s fid pa) (f : Option Nat) (src dst : Nat) (bulk : Bool)
    (kind bytes : Nat) : Readable (gutMessage s f src dst bulk kind bytes) fid pa :=
  ⟨h.present, h.holder, h.lane, h.issues, h.queue, h.held⟩

/-- The messages that ask for a group and bring it are bytes on the Gutter. -/
theorem GroupRead.between {fid n : Nat} {s t : State} {f : Option Nat} {src dst : Nat} {bulk : Bool} {kind bytes : Nat}
    (h : GroupRead fid n (Machine.gutMessage s f src dst bulk kind bytes) t) (f' : Option Nat) (src' dst' : Nat) (bulk' : Bool)
    (kind' bytes' : Nat) : GroupRead fid n s (Machine.gutMessage t f' src' dst' bulk' kind' bytes') :=
  ⟨h.counters, h.caches, h.bytes⟩

/-- A walk of a group whose sectors are readable reads its 512 bytes. -/
theorem walkRead_groupRead {s : State} {fid va : Nat} {f : Forme} (die : Nat)
    (h : ∀ i, i < 8 → Readable s fid (walkGroup fid f va + 64 * i)) : GroupRead fid 512 s (walkRead s fid die f va) :=
  (readGroup_walked (List.range 8) List.nodup_range (gutMessage s (some fid) die (tableStack f / 2) false 12 0)
    fun i hi => (h i (List.mem_range.mp hi)).gutMessage _ _ _ _ _ _).between ..

/-! ## RANGE_WALK (10 R344, R345) -/

theorem cachedIds_setCached (s : State) (f : Nat) (e : Engine) {ids : List Nat} (h : ids ≠ []) :
    cachedIds (setCached s f e ids) f e = ids := by
  cases ids with
  | nil => exact absurd rfl h
  | cons i ids => simp [cachedIds, setCached]

/-- The entry that a walk found is the newest of its range cache, which holds no more than it has room for. -/
theorem cachedIds_fillCached (s : State) (f : Nat) (e : Engine) (id : Nat) :
    (cachedIds (fillCached s f e id) f e).head? = some id ∧
      (cachedIds (fillCached s f e id) f e).length ≤ rangeCapacity e.cls := by
  obtain ⟨n, room⟩ : ∃ n, rangeCapacity e.cls = n + 1 := by
    unfold rangeCapacity
    split
    · exact ⟨31, rfl⟩
    · split
      · exact ⟨15, rfl⟩
      · exact ⟨63, rfl⟩
  have cached : cachedIds (fillCached s f e id) f e =
      (id :: (cachedIds s f e).filter (· ≠ id)).take (rangeCapacity e.cls) :=
    cachedIds_setCached s f e (by simp [room])
  rw [cached]
  exact ⟨by rw [room, List.take_succ_cons, List.head?_cons], List.length_take_le _ _⟩

theorem execRangeWalk_on {s : State} {fid : Nat} {f : Forme} (hf : getForme s fid = some f) (hon : s.homesOn = true)
    (eng : Engine) (va : Nat) : execRangeWalk fid eng va s = .next (match (entryAt f va).filter (·.state == .valid) with
      | some e => fillCached (walkRead s fid eng.die f va) fid eng e.id
      | none => walkRead s fid eng.die f va) := by
  rw [execRangeWalk, hf]
  simp only [hon, Bool.not_true, Bool.false_eq_true, if_false]
  cases entryAt f va with
  | none => rfl
  | some e => cases h : e.state == RangeState.valid <;> simp [Option.filter, h]

end Sys2Proof.Machine
end

section
/-! PROOFS. No access of memory or of a cache, no translation and no retirement writes a slot of a port's mailbox (08, 09; 12
R387; 18 R595, R598). -/

namespace Sys2Proof.Machine

open Sys2Proof

/-- The slots of the mailboxes of the ports. -/
def portSlots (ports : SMap Port) : SMap (SMap Slot) := ports.map (fun kv => (kv.1, kv.2.mbox.slots))

section
variable {s : State}

/-! ## The shape of an operation -/

@[simp] theorem portSlots_ite (c : Prop) [Decidable c] (a b : State) :
    portSlots (if c then a else b).ports = if c then portSlots a.ports else portSlots b.ports := by split <;> rfl

theorem foldl_portSlots {α : Type} {f : State → α → State} (hf : ∀ s a, portSlots (f s a).ports = portSlots s.ports)
    (l : List α) (s : State) : portSlots (l.foldl f s).ports = portSlots s.ports := by
  induction l generalizing s with
  | nil => rfl
  | cons a l ih => exact (ih (f s a)).trans (hf s a)

/-! ## What leaves the ports alone -/

@[simp] theorem countFor_ports (f : Option Nat) (c : Ctr) (n : Nat) : (countFor s f c n).ports = s.ports := by
  rw [(countFor_frame s f c n).1]

@[simp] theorem modPch_ports (k p : Nat) (g : Pch → Pch) : (modPch s k p g).ports = s.ports := by rw [modPch]; rfl

@[simp] theorem memRecord_ports (pa kind symbols source lanes : Nat) :
    (memRecord s pa kind symbols source lanes).ports = s.ports := by
  unfold memRecord; dsimp only; split <;> rfl

@[simp] theorem poisonSector_ports (pa : Nat) : (poisonSector s pa).ports = s.ports := by
  simp only [poisonSector, modPch_ports]; split <;> simp

@[simp] theorem memSlot_ports (pa : Nat) (prio write : Bool) : (memSlot s pa prio write).ports = s.ports := by
  simp only [memSlot, countFor_ports]; split <;> simp

@[simp] theorem laneDone_ports (k lane pa source : Nat) : (laneDone s k lane pa source).ports = s.ports := by
  simp [laneDone]

@[simp] theorem readFails_ports (pa kind symbols source : Nat) :
    (readFails s pa kind symbols source).1.ports = s.ports := by
  unfold readFails; dsimp only; repeat' split
  all_goals simp

@[simp] theorem setErrors_ports (pa : Nat) (p : List (Nat × Nat)) : (setErrors s pa p).ports = s.ports := by
  unfold setErrors; split <;> rfl

@[simp] theorem readTag_ports (pa source : Nat) (fixed left : List (Nat × Nat)) :
    (readTag s pa source fixed left).1.ports = s.ports := by
  unfold readTag
  split
  · dsimp only; split <;> simp
  · simp

@[simp] theorem readDecode_ports (pa source : Nat) : (readDecode s pa source).1.ports = s.ports := by
  unfold readDecode; dsimp only; repeat' split
  all_goals simp

@[simp] theorem burst_ports (pa : Nat) (data : List Byte) : (burst s pa data).ports = s.ports := by
  simp [burst, writeWhole]

@[simp] theorem mergeWrite_ports (pa mask : Nat) (data : List Byte) : (mergeWrite s pa mask data).ports = s.ports := by
  unfold mergeWrite; dsimp only; split <;> simp

@[simp] theorem noteRefusal_ports (k : Nat) : (noteRefusal s k).ports = s.ports := by
  unfold noteRefusal; dsimp only; repeat' split
  all_goals simp

@[simp] theorem letIn_ports (k p : Nat) : (letIn s k p).ports = s.ports := by
  unfold letIn; split <;> simp

@[simp] theorem heldPa_ports (k p : Nat) : (heldPa s k p).1.ports = s.ports := by
  unfold heldPa; split <;> rfl

/-! ## Retirement (18 R595) and memory (08) -/

/-- Ports that go idle keep their mailboxes. -/
@[simp] theorem portSlots_idle (ports : SMap Port) : portSlots (ports.map (fun kv => (kv.1, kv.2.idle))) = portSlots ports := by
  rw [portSlots, List.map_map]
  rfl

@[simp] theorem journalWrite_ports (e : JEntry) : (journalWrite s e).ports = s.ports := by rw [journalWrite_frame]

@[simp] theorem coldEntry_ports : (coldEntry s).ports = s.ports := journalWrite_ports ..

@[simp] theorem idlePorts_portSlots : portSlots (idleMeshPorts (idleHostPorts s)).ports = portSlots s.ports := portSlots_idle _

@[simp] theorem retire_portSlots (c : RetireCause) : portSlots (retire s c).ports = portSlots s.ports := by
  have off (u : State) : (powerOffStacks (powerOffDies u)).ports = u.ports := rfl
  have told (u : State) (code : Nat) (extra : List Byte) : (alert u code extra).ports = u.ports := rfl
  unfold retire
  split
  · simp [off, told]
  · rfl

@[simp] theorem laneMove_portSlots (k p lane pa : Nat) : portSlots (laneMove s k p lane pa).ports = portSlots s.ports := by
  unfold laneMove
  split
  · simp
  · rfl

@[simp] theorem laneToSpare_portSlots (k p lane pa source : Nat) :
    portSlots (laneToSpare s k p lane pa source).ports = portSlots s.ports := by
  simp [laneToSpare]

@[simp] theorem sectorRead_portSlots (source : Nat) (prio : Bool) (pa : Nat) :
    portSlots (sectorRead source prio pa s).1.ports = portSlots s.ports := by
  unfold sectorRead; dsimp only; split <;> simp

@[simp] theorem sectorWrite_portSlots (pa mask : Nat) (data : List Byte) :
    portSlots (sectorWrite pa mask data s).ports = portSlots s.ports := by
  unfold sectorWrite; dsimp only; repeat' split
  all_goals simp

@[simp] theorem serve_portSlots (r : MemReq) : portSlots (serve s r).ports = portSlots s.ports := by
  unfold serve; split <;> simp

@[simp] theorem serveFor_portSlots (n k p : Nat) : portSlots (serveFor n s k p).ports = portSlots s.ports := by
  induction n generalizing s with
  | zero => rfl
  | succ n ih => unfold serveFor; split <;> simp [ih]

@[simp] theorem serveQueue_portSlots (k p : Nat) : portSlots (serveQueue s k p).ports = portSlots s.ports :=
  serveFor_portSlots ..

@[simp] theorem serveBefore_portSlots (n k p : Nat) (r : MemReq) :
    portSlots (serveBefore n s k p r).ports = portSlots s.ports := by
  induction n generalizing s with
  | zero => rfl
  | succ n ih => unfold serveBefore; split <;> simp [ih]

/-- An access that takes its turn writes no slot where its own act writes none. -/
theorem inTurn_portSlots {α : Type} (r : MemReq) {act : State → State × α}
    (hact : ∀ s, portSlots (act s).1.ports = portSlots s.ports) : portSlots (inTurn s r act).1.ports = portSlots s.ports := by
  unfold inTurn
  dsimp only
  split <;> simp [hact, enqueue]

@[simp] theorem goOn_portSlots (k p : Nat) (held : Option MemReq) :
    portSlots (goOn s k p held).ports = portSlots s.ports := by
  have reissued : portSlots (reissue (modPch s k p Pch.sound) k p).ports = portSlots s.ports :=
    foldl_portSlots (f := fun s (b : Burst) => writeWhole s b.pa b.data) (fun _ _ => rfl) _ _
  unfold goOn
  dsimp only
  split <;> simp [reissued]

@[simp] theorem wakeStack_portSlots (k : Nat) (but : Option Nat) :
    portSlots (wakeStack s k but).ports = portSlots s.ports := by
  have served (u : State) (l : List Nat) : portSlots (l.foldl (serveFree k) u).ports = portSlots u.ports :=
    foldl_portSlots (fun _ _ => by simp [serveFree]) l u
  simp [wakeStack, served, modStack]

@[simp] theorem unblock_portSlots (k p : Nat) : portSlots (unblock s k p).ports = portSlots s.ports := by
  unfold unblock recoverLane
  split <;> simp [endRecovery]

@[simp] theorem homeRead_portSlots (source : Nat) (prio : Bool) (pa : Nat) :
    portSlots (homeRead source prio pa s).1.ports = portSlots s.ports := by
  unfold homeRead
  split
  · simp
  · exact (inTurn_portSlots _ fun _ => sectorRead_portSlots ..).trans (unblock_portSlots ..)

theorem writeInTurn_portSlots (pa mask : Nat) (data : List Byte) {act : State → State}
    (hact : ∀ s, portSlots (act s).ports = portSlots s.ports) :
    portSlots (writeInTurn pa mask data act s).ports = portSlots s.ports :=
  (inTurn_portSlots _ hact).trans (unblock_portSlots ..)

@[simp] theorem homeWrite_portSlots (pa mask : Nat) (data : List Byte) :
    portSlots (homeWrite pa mask data s).ports = portSlots s.ports := by
  simp [homeWrite, writeInTurn_portSlots]

@[simp] theorem homeWriteSector_portSlots (pa : Nat) (poisoned : Bool) (data : List Byte) :
    portSlots (homeWriteSector pa poisoned data s).ports = portSlots s.ports := by
  simp [homeWriteSector, writeInTurn_portSlots, poisonBurst]

@[simp] theorem homeReadLine_portSlots (prio : Bool) (pa : Nat) :
    portSlots (homeReadLine prio pa s).1.ports = portSlots s.ports := by
  unfold homeReadLine; split <;> simp

@[simp] theorem homeWriteLine_portSlots (pa : Nat) (d : LineData) :
    portSlots (homeWriteLine pa d s).ports = portSlots s.ports := by
  simp [homeWriteLine]

/-! ## The Gutter, lines and the directory (01, 09) -/

@[simp] theorem gutMessage_ports (f : Option Nat) (src dst : Nat) (bulk : Bool) (kind bytes : Nat) :
    (gutMessage s f src dst bulk kind bytes).ports = s.ports := by rw [gutMessage]

@[simp] theorem carryRequest_ports (ln : Nat) (r : Req) : (carryRequest s ln r).ports = s.ports := by rw [carryRequest]

@[simp] theorem launchRequest_ports (ln : Nat) (r : Req) : (launchRequest s ln r).ports = s.ports := by rw [launchRequest]

theorem parkRequest_ports {t : State} (h : parkRequest s = some t) : t.ports = s.ports := by
  obtain ⟨q, -, rfl⟩ := Option.map_eq_some_iff.mp h
  rfl

@[simp] theorem parkRequests_ports (n : Nat) : (parkRequests n s).ports = s.ports := by
  induction n generalizing s with
  | zero => rfl
  | succ n ih =>
    unfold parkRequests
    split
    · exact ih.trans (parkRequest_ports ‹_›)
    · rfl

theorem arrivedRequest_ports {x : State × Nat × Req} (h : arrivedRequest s = some x) : x.1.ports = s.ports := by
  obtain ⟨q, -, rfl⟩ := Option.map_eq_some_iff.mp h
  exact parkRequests_ports _

@[simp] theorem dropLine_ports (agent ln : Nat) : (dropLine s agent ln).ports = s.ports := by
  unfold dropLine; dsimp only; split <;> rfl

@[simp] theorem dirPut_ports (ln : Nat) (st : DirState) (owner : Nat) (holders : List Nat) :
    (dirPut s ln st owner holders).ports = s.ports := by
  unfold dirPut; split <;> rfl

@[simp] theorem dirClear_ports (ln agent : Nat) : (dirClear s ln agent).ports = s.ports := by
  unfold dirClear
  split
  · rfl
  · dsimp only; split <;> simp

@[simp] theorem caseCtr_ports (agent : Nat) (c : Ctr) (n : Nat) : (caseCtr s agent c n).ports = s.ports := by
  unfold caseCtr; split <;> simp

@[simp] theorem countNp_ports (ln : Nat) : (countNp s ln).ports = s.ports := by simp [countNp]

@[simp] theorem putTxn_ports (ln : Nat) (t : Option Txn) : (putTxn s ln t).ports = s.ports := by unfold putTxn; rfl

@[simp] theorem performed_ports (ln : Nat) (t : Txn) : (performed s ln t).ports = s.ports := by rw [performed]; rfl

@[simp] theorem caseCheck_portSlots (agent ln : Nat) (prio : Bool) :
    portSlots (caseCheck s agent ln prio).ports = portSlots s.ports := by
  unfold caseCheck
  dsimp only
  repeat' split
  all_goals simp [State.drawn]

@[simp] theorem purgeOne_portSlots (ln a : Nat) : portSlots (purgeOne ln s a).ports = portSlots s.ports := by
  unfold purgeOne
  dsimp only
  repeat' split
  all_goals simp

@[simp] theorem purgeLine_portSlots (ln : Nat) (agents : List Nat) :
    portSlots (purgeLine s ln agents).ports = portSlots s.ports :=
  foldl_portSlots (fun _ _ => purgeOne_portSlots ..) _ s

@[simp] theorem dirRepair_portSlots (ln : Nat) : portSlots (dirRepair s ln).ports = portSlots s.ports := by
  unfold dirRepair
  split <;> simp

@[simp] theorem dirEvict_portSlots (v : Nat × DirEntry) : portSlots (dirEvict s v).ports = portSlots s.ports := by
  simp [dirEvict]

@[simp] theorem dirRoom_portSlots (ln : Nat) : portSlots (dirRoom s ln).ports = portSlots s.ports := by
  have repaired (l : SMap DirEntry) : portSlots (l.foldl (fun s kv => dirRepair s kv.1) s).ports = portSlots s.ports :=
    foldl_portSlots (fun _ _ => dirRepair_portSlots ..) l s
  unfold dirRoom
  dsimp only
  repeat' split
  all_goals simp [repaired]

@[simp] theorem dirEnter_portSlots (ln : Nat) (st : DirState) (owner : Nat) (holders : List Nat) :
    portSlots (dirEnter s ln st owner holders).ports = portSlots s.ports := by
  simp [dirEnter]

@[simp] theorem dirReserve_portSlots (ln agent : Nat) : portSlots (dirReserve s ln agent).ports = portSlots s.ports := by
  simp [dirReserve]

@[simp] theorem dirAdd_portSlots (ln agent : Nat) : portSlots (dirAdd s ln agent).ports = portSlots s.ports := by
  unfold dirAdd; split <;> simp

@[simp] theorem dirOwned_portSlots (ln agent : Nat) (t : Txn) :
    portSlots (dirOwned s ln agent t).ports = portSlots s.ports := dirEnter_portSlots ..

/-! ## Transactions at the home (09) -/

@[simp] theorem grantData_portSlots (ln : Nat) (t : Txn) (g : GrantKind) :
    portSlots (grantData s ln t g).ports = portSlots s.ports := by
  simp [grantData]

@[simp] theorem finishWrite_portSlots (ln : Nat) (t : Txn) (data : List Byte) :
    portSlots (finishWrite s ln t data).ports = portSlots s.ports := by
  simp [finishWrite]

@[simp] theorem pushLine_portSlots (ln : Nat) (t : Txn) (target : Nat) (data : List Byte) :
    portSlots (pushLine s ln t target data).ports = portSlots s.ports := by
  simp [pushLine]

@[simp] theorem mergeHalf_portSlots (ln mask : Nat) (data : List Byte) (dirty : Option (List Byte × Bool × Bool)) (o : Nat) :
    portSlots (mergeHalf ln mask data dirty s o).ports = portSlots s.ports := by
  unfold mergeHalf; dsimp only; split <;> split <;> simp

@[simp] theorem homeProceed_portSlots (ln : Nat) : portSlots (homeProceed s ln).ports = portSlots s.ports := by
  unfold homeProceed
  dsimp only
  repeat' split
  all_goals simp [dropHint]

@[simp] theorem homeStart_portSlots (ln : Nat) (r : Req) (queue : List Req) (msgs : List Msg) :
    portSlots (homeStart s ln r queue msgs).ports = portSlots s.ports := by
  have started (u : State) (t : Txn) : portSlots (homeProceed (setTxn u ln t) ln).ports = portSlots u.ports :=
    homeProceed_portSlots ln
  unfold homeStart
  dsimp only
  repeat' split
  all_goals simp [started]

@[simp] theorem homeRun_portSlots (n ln : Nat) : portSlots (homeRun n s ln).ports = portSlots s.ports := by
  induction n generalizing s with
  | zero => rfl
  | succ n ih =>
    unfold homeRun
    repeat' split
    all_goals simp [ih]

@[simp] theorem homeGo_portSlots (ln : Nat) : portSlots (homeGo s ln).ports = portSlots s.ports := by
  unfold homeGo; dsimp only; split <;> simp

@[simp] theorem homeArrive_portSlots (ln : Nat) (r : Req) : portSlots (homeArrive s ln r).ports = portSlots s.ports := by
  unfold homeArrive
  repeat' split
  all_goals simp

@[simp] theorem homeAccept_portSlots (ln : Nat) (r : Req) : portSlots (homeAccept s ln r).ports = portSlots s.ports := by
  unfold homeAccept
  repeat' split
  all_goals simp

@[simp] theorem homeNext_portSlots (ln : Nat) : portSlots (homeNext s ln).ports = portSlots s.ports := by
  unfold homeNext; split
  · rfl
  · exact homeRun_portSlots ..

/-! ## Lines that enter and leave a cache (09) -/

@[simp] theorem evictLine_portSlots (agent ln : Nat) : portSlots (evictLine s agent ln).ports = portSlots s.ports := by
  unfold evictLine
  dsimp only
  repeat' split
  all_goals simp [setLine]

@[simp] theorem chooseWay_portSlots (agent ln : Nat) (group : Option Nat) :
    portSlots (chooseWay s agent ln group).1.ports = portSlots s.ports := by
  unfold chooseWay
  dsimp only
  repeat' split
  all_goals simp [State.drawn]

@[simp] theorem fillLine_portSlots (agent ln : Nat) (st : LineState) (d : LineData) (group : Option Nat) :
    portSlots (fillLine s agent ln st d group).ports = portSlots s.ports := by
  unfold fillLine; dsimp only; split <;> simp [touchWay]

/-! ## Messages and their delivery (09) -/

@[simp] theorem removeMsg_ports (ln : Nat) (m : Msg) : (removeMsg s ln m).ports = s.ports := by
  unfold removeMsg; split <;> simp

@[simp] theorem sendMsg_ports (ln : Nat) (m : Msg) : (sendMsg s ln m).ports = s.ports := by
  unfold sendMsg; split <;> simp

@[simp] theorem answered_ports (ln agent : Nat) : (answered s ln agent).ports = s.ports := by
  unfold answered; split <;> simp

@[simp] theorem markForwarded_ports (ln : Nat) : (markForwarded s ln).ports = s.ports := by
  unfold markForwarded; split <;> simp

@[simp] theorem answerNp_ports (ln agent : Nat) : (answerNp s ln agent).ports = s.ports := by simp [answerNp]

@[simp] theorem snoopLine_portSlots (ln : Nat) (k : SnpKind) (agent : Nat) (r : Req) (l : Line) :
    portSlots (snoopLine s ln k agent r l).ports = portSlots s.ports := by
  unfold snoopLine afterShared
  dsimp only
  repeat' split
  all_goals simp [setLine]

@[simp] theorem snoopAgent_portSlots (ln : Nat) (k : SnpKind) (agent : Nat) (push : List Byte) :
    portSlots (snoopAgent s ln k agent push).ports = portSlots s.ports := by
  unfold snoopAgent
  dsimp only
  repeat' split
  all_goals simp

@[simp] theorem takeGrant_portSlots (ln agent : Nat) (g : GrantKind) (d : LineData) (forwarded : Bool) :
    portSlots (takeGrant s ln agent g d forwarded).ports = portSlots s.ports := by
  unfold takeGrant takeOwned
  dsimp only
  repeat' split
  all_goals simp

@[simp] theorem takeComp_portSlots (ln agent : Nat) (k : GrantKind) (r : Req) :
    portSlots (takeComp s ln agent k r).ports = portSlots s.ports := by
  simp [takeComp]

@[simp] theorem takeDone_portSlots (ln agent : Nat) (t : Txn) :
    portSlots (takeDone s ln agent t).ports = portSlots s.ports := by
  unfold takeDone
  dsimp only
  repeat' split
  all_goals simp

@[simp] theorem pushAnswered_portSlots (ln agent : Nat) (taken : Bool) :
    portSlots (pushAnswered s ln agent taken).ports = portSlots s.ports := by
  unfold pushAnswered
  dsimp only
  repeat' split
  all_goals simp

@[simp] theorem deliver_portSlots (ln : Nat) (m : Msg) : portSlots (deliver s ln m).ports = portSlots s.ports := by
  unfold deliver
  dsimp only
  repeat' split
  all_goals simp

theorem settleStep_portSlots {ln : Nat} {t : State} (ht : settleStep s ln = some t) :
    portSlots t.ports = portSlots s.ports := by
  unfold settleStep at ht
  split at ht
  · cases ht; simp
  · split at ht
    · cases ht; simp
    · split at ht
      · split at ht
        · cases ht; simp [arrivedRequest_ports ‹_›]
        · obtain ⟨k, -, hk⟩ := Option.bind_eq_some_iff.mp ht
          obtain ⟨m, -, rfl⟩ := Option.map_eq_some_iff.mp hk
          simp
      · cases ht

@[simp] theorem settle_portSlots (ln : Nat) : portSlots (settle s ln).ports = portSlots s.ports := by
  unfold settle
  generalize settleFuel s = n
  induction n generalizing s with
  | zero => rfl
  | succ n ih =>
    unfold settleFor
    split
    · exact ih.trans (settleStep_portSlots ‹_›)
    · rfl

/-! ## Accesses of a cache, and translations (09, 10) -/

@[simp] theorem request_portSlots (ln : Nat) (r : Req) : portSlots (request s ln r).ports = portSlots s.ports :=
  (settle_portSlots ln).trans (by simp)

@[simp] theorem hitLine_ports (agent ln : Nat) (l : Line) : (hitLine s agent ln l).ports = s.ports := by
  simp [hitLine, touchWay, lookup]

@[simp] theorem acquireOwned_portSlots (agent ln : Nat) (whole : Bool) (group : Option Nat) :
    portSlots (acquireOwned s agent ln whole group).ports = portSlots s.ports := by
  unfold acquireOwned
  dsimp only
  repeat' split
  all_goals simp [lookup]

@[simp] theorem cacheWrite_portSlots (agent ln mask : Nat) (data : List Byte) (group : Option Nat) :
    portSlots (cacheWrite s agent ln mask data group).ports = portSlots s.ports := by
  unfold cacheWrite
  dsimp only
  repeat' split
  all_goals simp

@[simp] theorem fillCached_ports (f : Nat) (e : Engine) (id : Nat) : (fillCached s f e id).ports = s.ports := by
  rw [fillCached, setCached]

/-- The sectors of one group, read in turn. -/
theorem readGroup_portSlots (base : Nat) (l : List Nat) :
    portSlots (l.foldl (fun s i => (homeRead 1 true (base + 64 * i) s).1) s).ports = portSlots s.ports :=
  foldl_portSlots (fun _ _ => homeRead_portSlots ..) l s

@[simp] theorem walkRead_portSlots (fid die : Nat) (f : Forme) (va : Nat) :
    portSlots (walkRead s fid die f va).ports = portSlots s.ports := by
  rw [walkRead, gutMessage_ports]
  exact (readGroup_portSlots ..).trans (by simp)

@[simp] theorem translate_portSlots (a : Access) (va : Nat) : portSlots (translate s a va).1.ports = portSlots s.ports := by
  unfold translate
  dsimp only
  repeat' split
  all_goals simp

/-! ## The end of a stick (06 R213, R220) -/

@[simp] theorem clearLockWord_portSlots (p g k : Nat) (t : Stick) (x : LockHeld) :
    portSlots (clearLockWord s p g k t x).ports = portSlots s.ports := by
  unfold clearLockWord
  dsimp only
  repeat' split
  all_goals simp [modStick, l1Update]

@[simp] theorem releaseLocks_portSlots (p g k : Nat) : portSlots (releaseLocks s p g k).ports = portSlots s.ports := by
  have cleared (t : Stick) (l : List LockHeld) :
      portSlots (l.foldl (fun s h => clearLockWord s p g k t h) s).ports = portSlots s.ports :=
    foldl_portSlots (fun _ _ => clearLockWord_portSlots ..) l s
  unfold releaseLocks
  split
  · rfl
  · exact cleared ..

/-! ## Sticks that stop (06 R220) -/

@[simp] theorem countWaits_ports (p g k : Nat) : (countWaits s p g k).ports = s.ports := by
  have counted (l : List (Slug × Nat)) (step : State → Slug × Nat → State) (hstep : ∀ u x, (step u x).ports = u.ports)
      (u : State) : (l.foldl step u).ports = u.ports := by
    induction l generalizing u with
    | nil => rfl
    | cons x l ih => exact (ih _).trans (hstep u x)
  unfold countWaits
  split
  · rfl
  · refine counted _ _ (fun u x => ?_) s
    split
    · exact countFor_ports (s := u.drawn) ..
    · rfl

@[simp] theorem endOps_ports (p g k : Nat) : (endOps s p g k).ports = s.ports := rfl

@[simp] theorem freeUnheld_ports (p g k : Nat) : (freeUnheld s p g k).ports = s.ports := by
  unfold freeUnheld
  split
  · rfl
  · split <;> rfl

@[simp] theorem stickStop_portSlots (p g k : Nat) : portSlots (stickStop s p g k).ports = portSlots s.ports := by
  unfold stickStop
  split
  · rfl
  · simp [discardBanks, modGalley, modStick]

theorem finishStops_portSlots (s : State) (fid : Nat) : portSlots (finishStops s fid).ports = portSlots s.ports :=
  foldl_portSlots (fun _ _ => foldl_portSlots (fun _ _ => by simp) ..) ..

end

/-- Writes that waited go on, and no slot of a mailbox is written. -/
theorem slotsOf_finishStops (s : State) (fid : Nat) (mb : MboxId) : slotsOf (finishStops s fid) mb = slotsOf s mb := by
  have ofPort (ports : SMap Port) (p : Nat) : (mapGet ports p).map (·.mbox.slots) = mapGet (portSlots ports) p :=
    (mapGet_map ports (fun _ x => x.mbox.slots) p).symm
  cases mb with
  | host p => rw [slotsOf, ofPort, finishStops_portSlots, ← ofPort, slotsOf]
  | core f =>
    have slots : (fun x : Forme => x.coreMbox.slots) = (·.coreMbox.slots) ∘ unfaulted := rfl
    rw [slotsOf, slots, ← Option.map_map, (finishStops_stopFrame s fid).1 f, Option.map_map, slotsOf]
    rfl

end Sys2Proof.Machine
end

section
/-! PROOFS. Invalidations: their reception, their drain and their last acknowledgement (10 Table 10.4, R352, R353, R357). -/

namespace Sys2Proof.Machine

open Sys2Proof

/-! ## Reception and drain -/

theorem getInval_modInval_self {s : State} {inv : Nat} {i : Inval} (h : getInval s inv = some i) {g : Inval → Inval}
    (hg : ∀ x, (g x).id = x.id) : getInval (modInval s inv g) inv = some (g i) := by
  have same : (fun x : Inval => decide (x.id = inv)) ∘ (fun x => if x.id = inv then g x else x) =
      fun x => decide (x.id = inv) := by
    funext x
    by_cases e : x.id = inv <;> simp [e, hg]
  have id : i.id = inv := by simpa using List.find?_some h
  rw [getInval] at h
  rw [getInval, modInval, List.find?_map, same, h, Option.map_some, if_pos id]

/-- No engine of a die keeps an entry that the die drops. -/
theorem not_mem_cachedIds_dropCached {s : State} {f die id : Nat} {ids : List Nat} {eng : Engine} (hdie : eng.die = die)
    (hid : id ∈ ids) : id ∉ cachedIds (dropCached s f die ids) f eng := by
  have key : (fun c : Nat × Engine × List Nat => decide (c.1 = f ∧ c.2.1 = eng)) ∘ (fun c =>
      if c.1 = f ∧ c.2.1.die = die then (c.1, c.2.1, c.2.2.filter (fun i => !ids.contains i)) else c) =
      fun c => decide (c.1 = f ∧ c.2.1 = eng) := by
    funext c
    dsimp only [Function.comp_apply]
    split <;> rfl
  rw [cachedIds, dropCached, List.find?_map, key]
  cases h : s.rangeCaches.find? (fun c => decide (c.1 = f ∧ c.2.1 = eng)) with
  | none => simp
  | some c =>
    obtain ⟨hf, he⟩ : c.1 = f ∧ c.2.1 = eng := by simpa using List.find?_some h
    simp [hf, he, hdie, hid]

theorem execRangeInvalidation_receives {s : State} {inv die : Nat} {i : Inval} (h : getInval s inv = some i)
    (hdie : die ∈ i.toReceive) : execRangeInvalidation inv die s = .next (modInval (dropCached s i.forme die i.ids) inv
      (fun i => { i with toReceive := i.toReceive.filter (· ≠ die) })) := by
  simp [execRangeInvalidation, h, hdie]

/-- A die that has acknowledged, at a time, with its count. -/
def Inval.acknowledged (i : Inval) (die drained now : Nat) : Inval :=
  { i with toAck := i.toAck.filter (· ≠ die), drained := min (2 ^ 32 - 1) (i.drained + drained),
           tDone := if i.toAck.filter (· ≠ die) = [] then now else i.tDone }

theorem execEngineDrainDone_acknowledges {s : State} {inv die drained : Nat} {i : Inval} (h : getInval s inv = some i)
    (hack : die ∈ i.toAck) (hreceived : die ∉ i.toReceive) :
    execEngineDrainDone inv die drained s = .next (modInval s inv (·.acknowledged die drained s.now)) := by
  have drain : execEngineDrainDone inv die drained s = .next (modInval s inv (fun i =>
      let left := i.toAck.filter (· ≠ die)
      { i with toAck := left, drained := satAdd (2 ^ 32 - 1) i.drained drained,
               tDone := if left.isEmpty then s.now else i.tDone })) := by
    simp [execEngineDrainDone, h, hack, hreceived]
  rw [drain]
  refine congrArg (fun g => Host.Outcome.next (modInval s inv g)) (funext fun i => ?_)
  simp only [Inval.acknowledged, satAdd, List.isEmpty_iff]

/-! ## The last acknowledgement -/

/-- What follows the last acknowledgement of an invalidation. -/
def invalEnds (s : State) (i : Inval) : State :=
  match i.purpose with
  | .swap _ => s
  | .unmap mb k => finish (invalFrees s i) mb k stOk 0 (unmapResult i)
  | .unlock mb k => loadStep (unlockPlate (invalRestores s i .normal) i.forme) i.forme mb k
  | .retire mb k => loadStep (discardPlate (invalFrees s i) i.forme) i.forme mb k
  | .lock mb k =>
    let u := invalRestores s i .locked
    endLoad ((plateRegionsOf u i.forme).foldl fillRegion u) i.forme mb k
  | .destroy mb k => destroyEnds s i.forme i mb k

theorem execInvalidationAck_last {s : State} {inv : Nat} {i : Inval} (hi : getInval s inv = some i) (hack : i.toAck = []) :
    execInvalidationAck inv s = .next (invalEnds s i) := by
  simp only [execInvalidationAck, hi, hack, List.isEmpty_nil, Bool.not_true, Bool.false_eq_true, if_false, invalEnds]
  cases i.purpose <;> rfl

section
variable {s : State} {i : Inval} {f : Forme}

theorem mem_invals_removeInval {id : Nat} : ∀ j ∈ (removeInval s id).invals, j.id ≠ id := by
  intro j hj
  simpa using (List.mem_filter.mp hj).2

theorem getInval_none_of {t : State} {id : Nat} (h : ∀ j ∈ t.invals, j.id ≠ id) : getInval t id = none := by
  rw [getInval, List.find?_eq_none]
  simpa using h

/-- The entries that an invalidation is done with, as a change leaves them, and what waited for them. -/
def invalSettles (s : State) (i : Inval) (g : List RangeEntry → List RangeEntry) : State :=
  finishStops (resolveEntries (modRanges (removeInval s i.id) i.forme g) i.forme i.ids) i.forme

theorem invalFrees_eq (s : State) (i : Inval) :
    invalFrees s i = invalSettles s i (List.filter (fun e => !i.ids.contains e.id)) := rfl

theorem invalRestores_eq (s : State) (i : Inval) (kind : RangeKind) :
    invalRestores s i kind = invalSettles s i (List.map (fun e =>
      if i.ids.contains e.id then { e with kind := kind, state := .valid, mapTime := s.now } else e)) := rfl

/-- The invalidation is gone, and the entries of its forme are what the change makes of them. -/
theorem invalSettles_ends (hf : getForme s i.forme = some f) (g : List RangeEntry → List RangeEntry) :
    getInval (invalSettles s i g) i.id = none ∧
      ∃ f', getForme (invalSettles s i g) i.forme = some f' ∧ f'.ranges = g f.ranges ∧ f'.plate = f.plate := by
  have stops := (resolveEntries_stopFrame (modRanges (removeInval s i.id) i.forme g) i.forme i.ids).trans
    (finishStops_stopFrame _ i.forme)
  obtain ⟨poison, errors, frame⟩ := modRanges_frame (s := removeInval s i.id) hf g
  rw [frame] at stops
  obtain ⟨f', hf', same⟩ := stops.forme (mapGet_mapSet_self ..)
  rw [invalSettles, frame]
  exact ⟨getInval_none_of fun j hj => mem_invals_removeInval j (stops.2 hj), f', hf', congrArg Forme.ranges same,
    (congrArg Forme.plate same :)⟩

/-- A forme that is replaced by one with its own slots. -/
theorem slotsOf_setForme {t : State} {fid : Nat} {x : Forme} (hf : getForme s fid = some f) (hports : t.ports = s.ports)
    (hformes : t.formes = mapSet s.formes fid x) (hx : x.coreMbox.slots = f.coreMbox.slots) (mb : MboxId) :
    slotsOf t mb = slotsOf s mb := by
  refine slotsOf_of_parts hports (fun j => ?_) mb
  rw [getForme, hformes]
  by_cases e : j = fid
  · rw [e, mapGet_mapSet_self, hf, Option.map_some, Option.map_some, hx]
  · rw [mapGet_mapSet_ne _ _ e, getForme]

/-- Changes of entries write no slot of a mailbox. -/
theorem slotsOf_modRanges {fid : Nat} (hf : getForme s fid = some f) (g : List RangeEntry → List RangeEntry) (mb : MboxId) :
    slotsOf (modRanges s fid g) mb = slotsOf s mb := by
  obtain ⟨poison, errors, frame⟩ := modRanges_frame hf g
  refine slotsOf_setForme (x := { f with ranges := g f.ranges }) hf ?_ ?_ rfl mb <;> rw [frame]

theorem slotsOf_resolveEntries (s : State) (fid : Nat) (ids : List Nat) (mb : MboxId) :
    slotsOf (resolveEntries s fid ids) mb = slotsOf s mb := by
  unfold resolveEntries resolveFaults
  exact slotsOf_modForme s fid (by intro; rfl) mb

/-- No slot of a mailbox is written. -/
theorem slotsOf_invalSettles (hf : getForme s i.forme = some f) (g : List RangeEntry → List RangeEntry) (mb : MboxId) :
    slotsOf (invalSettles s i g) mb = slotsOf s mb := by
  have ranges : slotsOf (modRanges (removeInval s i.id) i.forme g) mb = slotsOf s mb :=
    slotsOf_modRanges (s := removeInval s i.id) hf g mb
  rw [invalSettles, slotsOf_finishStops, slotsOf_resolveEntries, ranges]

end

theorem getForme_fillCached (s : State) (f : Nat) (e : Engine) (id g : Nat) :
    getForme (fillCached s f e id) g = getForme s g := rfl

/-- Settles O33: a walk reads eight sectors that are readable, a die that receives an invalidation drops its entries, and its
last acknowledgement settles them: the invalidation is gone, no slot is written, and each purpose goes on from there. -/
theorem invalidationsClearCachesAndEnd : Obligations.InvalidationsClearCachesAndEnd := by
  unfold Obligations.InvalidationsClearCachesAndEnd
  refine ⟨⟨?walk, ?received⟩, ?acknowledged⟩
  case walk =>
    intro fid va eng f s hon hf hread
    have read : GroupRead fid 512 s (walkRead s fid eng.die f va) := walkRead_groupRead eng.die fun i hi => by
      obtain ⟨present, holder, lane, issues, queue, held⟩ := hread i hi
      exact ⟨present, holder, lane, issues, queue, held⟩
    obtain ⟨f', hf', -⟩ := read.counters.forme hf
    have bytes : ctrGet f'.counters .memRdPrioBytes = ctrGet f.counters .memRdPrioBytes + 512 := by
      have counted := read.bytes
      rw [formeCtr, formeCtr, hf, hf'] at counted
      exact Option.some.inj counted
    cases hit : (entryAt f va).filter (·.state == .valid) with
    | none =>
      refine ⟨_, f', (execRangeWalk_on hf hon eng va).trans (by rw [hit]), hf', bytes, fun e he hvalid => ?_,
        fun _ => read.caches⟩
      simp [he, Option.filter, hvalid] at hit
    | some e =>
      obtain ⟨found, valid⟩ := Option.filter_eq_some_iff.mp hit
      refine ⟨fillCached (walkRead s fid eng.die f va) fid eng e.id, f', (execRangeWalk_on hf hon eng va).trans (by rw [hit]),
        (getForme_fillCached ..).trans hf', bytes, fun e' he' _ => ?_, fun none => ?_⟩
      · obtain rfl := Option.some.inj (found.symm.trans he')
        exact cachedIds_fillCached ..
      · exact absurd (by simpa using valid) (none e found)
  case received =>
    intro inv die drained i s hi
    refine ⟨fun hdie => ⟨_, execRangeInvalidation_receives hi hdie, ?_, fun eng id heng hid => ?_⟩,
      fun hack hreceived => ?_⟩
    · exact getInval_modInval_self (s := dropCached s i.forme die i.ids) hi fun _ => rfl
    · exact not_mem_cachedIds_dropCached (s := s) heng hid
    · exact ⟨_, execEngineDrainDone_acknowledges hi hack hreceived, getInval_modInval_self hi fun _ => rfl⟩
  case acknowledged =>
    intro inv i f s hi hack hf
    obtain rfl : i.id = inv := by simpa using List.find?_some hi
    have ends {t : State} (ht : invalEnds s i = t) : exec (.invalidationAck i.id) s = .next t :=
      ht ▸ execInvalidationAck_last hi hack
    refine ⟨fun mb k hp hthere => ?unmap, fun mb k hp => ?lock,
      fun mb k hp => ends (by rw [invalEnds, hp]), fun mb k hp => ends (by rw [invalEnds, hp]),
      fun mb k hp => ends (by rw [invalEnds, hp]), fun seq hp => ends (by rw [invalEnds, hp])⟩
    case unmap =>
      obtain ⟨gone, f', hf', ranges, -⟩ := invalSettles_ends hf (List.filter (fun e => !i.ids.contains e.id))
      have finished : invalEnds s i = finish (invalFrees s i) mb k stOk 0 (unmapResult i) := by rw [invalEnds, hp]
      refine ended_of_finish (ends finished) hthere (slotsOf_invalSettles hf _ mb) ⟨?_, ?_⟩
      · rwa [getInval, finish_invals]
      · have kept := map_getForme_finish (π := (·.ranges)) (fun _ _ => rfl) (invalFrees s i) mb k stOk 0 (unmapResult i) i.forme
        rw [invalFrees_eq, hf', Option.map_some, Option.map_eq_some_iff] at kept
        obtain ⟨y, hy, same⟩ := kept
        exact ⟨y, hy, same.trans ranges⟩
    case lock =>
      obtain ⟨gone, f', hf', ranges, plate⟩ := invalSettles_ends hf (List.map (fun e =>
        if i.ids.contains e.id then { e with kind := .locked, state := .valid, mapTime := s.now } else e))
      rw [← invalRestores_eq s i .locked] at gone hf'
      have regions : plateRegionsOf (invalRestores s i .locked) i.forme = plateRegionsOf s i.forme := by
        simp only [plateRegionsOf, hf, hf', Option.bind_some, plate]
      exact ⟨ends (by rw [invalEnds, hp, ← regions]), gone, f', hf', ranges⟩

end Sys2Proof.Machine
end

section
/-! PROOFS. Commands that change caps, the range table and policies: each is checked, journaled and completed (10 R346, R351;
12 R417; 15 R524; 16 R555). -/

namespace Sys2Proof.Machine

open Sys2Proof

/-! ## A command that its checks let go on -/

@[simp] theorem finish_journal (s : State) (mb : MboxId) (k st detail result : Nat) :
    (finish s mb k st detail result).journal = s.journal := by cases mb <;> rfl

@[simp] theorem finish_moduleCap (s : State) (mb : MboxId) (k st detail result : Nat) :
    (finish s mb k st detail result).moduleCap = s.moduleCap := by cases mb <;> rfl

theorem JournalOnly.moduleCap {s t : State} (h : JournalOnly s t) : t.moduleCap = s.moduleCap := by rw [h]

theorem JournalOnly.getForme {s t : State} (h : JournalOnly s t) (f : Nat) : getForme t f = Machine.getForme s f := by
  rw [Machine.getForme, h.formes, Machine.getForme]

/-- The journal has room where the check of a command for it passes. -/
theorem journalTakes_of_checks {s : State} {cs : List (Bool × Nat × Nat)} (hheld : journalHeld s = false)
    (hlost : s.journal.lost = 0) (hboot : s.journal.bootDue = false) (hpass : firstBad cs = none)
    (hroom : journalCheck s ∈ cs) : JournalTakes s := ⟨hheld, hlost, hboot, not_bad_of_firstBad hpass _ hroom⟩

theorem firstBad_append_good {cs : List (Bool × Nat × Nat)} {st d : Nat} (h : firstBad cs = none) :
    firstBad (cs ++ [(false, st, d)]) = none := by
  induction cs with
  | nil => rfl
  | cons y cs ih =>
    obtain ⟨b, y⟩ := y
    cases b with
    | true => cases h
    | false => exact ih h

/-- A command whose checks pass completes OK, its entry the journal's newest. -/
theorem ended_of_journaled {c : Instr} {s u v : State} {mb : MboxId} {k r : Nat} {cs : List (Bool × Nat × Nat)}
    {P : State → Prop} (e : JEntry)
    (hexec : exec c s = .next (checked s mb k cs (finish u mb k stOk 0 r))) (hthere : MboxThere s mb)
    (hpass : firstBad cs = none) (htakes : JournalTakes v) (hentry : u.journal = (journalWrite v e).journal)
    (hslots : slotsOf u mb = slotsOf s mb) (hP : P (finish u mb k stOk 0 r)) :
    Ended c s mb k stOk 0 r (fun t => Journaled t e.objKind e.objId e.action e.new ∧ P t) := by
  rw [checked_passes hpass] at hexec
  refine ended_of_finish hexec hthere hslots ⟨htakes.journaled ?_, hP⟩
  rw [finish_journal, hentry]

/-- What of a forme is not its mailbox is there at the end of a command. -/
theorem getForme_finish {s : State} {fid : Nat} {f : Forme} (h : getForme s fid = some f) (mb : MboxId)
    (k st detail result : Nat) :
    ∃ f', getForme (finish s mb k st detail result) fid = some f' ∧ { f' with coreMbox := f.coreMbox } = f := by
  have kept := map_getForme_finish (π := fun x => { x with coreMbox := f.coreMbox }) (fun _ _ => rfl) s mb k st detail result fid
  rw [h, Option.map_some, Option.map_eq_some_iff] at kept
  exact kept

/-! ## CAP_SET (16 R555) -/

theorem execCapSet_starts {s : State} {mb : MboxId} {k c : Nat} (hstart : startsCmd s mb k 0x61 = some c)
    (hheld : journalHeld s = false) : exec (.capSet mb k) s = .next (checked s mb k (capChecks s c)
      (finish (applyCap s (originOf s mb k) (if bit c 16 then none else formeOfMbox s mb) (csWatts c)) mb k stOk 0 0)) := by
  change execCapSet mb k s = _
  simp only [execCapSet, hstart, hheld, Bool.and_false, Bool.false_eq_true, if_false]

theorem slotsOf_journalWrite (s : State) (e : JEntry) (mb : MboxId) : slotsOf (journalWrite s e) mb = slotsOf s mb :=
  (journalWrite_frame s e).slotsOf mb

theorem slotsOf_setCap (s : State) (f : Option Nat) (w : Nat) (mb : MboxId) : slotsOf (setCap s f w) mb = slotsOf s mb := by
  cases f with
  | none => rfl
  | some f => exact slotsOf_modForme s f (by intro; rfl) mb

/-- The entry of a cap: object 0 is the module, and the formes follow it. -/
def capEntry (s : State) (o : JOrigin) (f : Option Nat) (w : Nat) : JEntry :=
  jEntry o 0x0A (match f with | none => 0 | some f => 1 + f) 2 (digest16 (toBytes 2 (capNow s f))) (digest16 (toBytes 2 w))

theorem applyCap_eq (s : State) (o : JOrigin) (f : Option Nat) (w : Nat) :
    applyCap s o f w = setCap (journalWrite s (capEntry s o f w)) f w := by
  cases f <;> rfl

section
variable {s : State} {mb : MboxId} {k c : Nat} (hstart : startsCmd s mb k 0x61 = some c) (hheld : journalHeld s = false)
  (hlost : s.journal.lost = 0) (hboot : s.journal.bootDue = false) (hpass : firstBad (capChecks s c) = none)
include hstart hheld hlost hboot hpass

/-- The cap that the command names is set, and no other. -/
theorem capSet_ends {f : Option Nat} (hf : (if bit c 16 then none else formeOfMbox s mb) = f) {P : State → Prop}
    (hP : ∀ e, P (finish (setCap (journalWrite s e) f (csWatts c)) mb k stOk 0 0)) :
    let e := capEntry s (originOf s mb k) f (csWatts c)
    Ended (.capSet mb k) s mb k stOk 0 0 (fun t => Journaled t e.objKind e.objId e.action e.new ∧ P t) := by
  have takes : JournalTakes s := journalTakes_of_checks hheld hlost hboot hpass (by simp [capChecks])
  have runs := execCapSet_starts hstart hheld
  rw [hf, applyCap_eq] at runs
  refine ended_of_journaled _ runs (of_startsCmd hstart).2 hpass takes ?_ ?_ (hP _)
  · cases f <;> rfl
  · rw [slotsOf_setCap, slotsOf_journalWrite]

theorem capSet_module (hmodule : bit c 16 = true) : Ended (.capSet mb k) s mb k stOk 0 0 (fun t =>
    Journaled t 0x0A 0 2 (digest16 (toBytes 2 (csWatts c))) ∧ t.moduleCap = csWatts c) :=
  capSet_ends hstart hheld hlost hboot hpass (if_pos hmodule) fun _ => by cases mb <;> rfl

theorem capSet_forme (hforme : bit c 16 = false) {fid : Nat} {f : Forme} (hfid : formeOfMbox s mb = some fid)
    (hf : getForme s fid = some f) : Ended (.capSet mb k) s mb k stOk 0 0 (fun t =>
    Journaled t 0x0A (1 + fid) 2 (digest16 (toBytes 2 (csWatts c))) ∧ t.moduleCap = s.moduleCap ∧
      (getForme t fid).map (·.cap) = some (csWatts c)) := by
  refine capSet_ends (f := some fid) hstart hheld hlost hboot hpass (by simp [hforme, hfid]) fun e => ⟨?_, ?_⟩
  · rw [finish_moduleCap]
    exact (journalWrite_frame s e).moduleCap
  · rw [map_getForme_finish (π := (·.cap)) (fun _ _ => rfl), setCap, getForme_modForme_self,
      (journalWrite_frame s e).getForme, hf]
    rfl

end

/-! ## MAP_RANGE (10 R346) -/

section
variable {s : State} {mb : MboxId} {k c fid : Nat} {f : Forme} (hheld : journalHeld s = false)
  (hfid : formeOfMbox s mb = some fid) (hf : getForme s fid = some f)

/-- The entry that the command makes. -/
def mapEntry (s : State) (f : Forme) (c : Nat) : RangeEntry :=
  newEntry s.now ((lowestFreeId f).getD 0) (mapVa c) (mapPa c) (mapLen c) (bit c 192) (bit c 193) (bit c 194) (bit c 195) .normal

/-- What the command journals. -/
def mapJEntry (s : State) (mb : MboxId) (k fid : Nat) (f : Forme) (c : Nat) : JEntry :=
  jEntry (originOf s mb k) 0x05 (rangeObj fid ((lowestFreeId f).getD 0)) 1 0 (mapEntry s f c).digest

/-- The entry is in the table, and the records that it covers are resolved. -/
def rangeMapped (s : State) (fid : Nat) (e : RangeEntry) : State :=
  resolveCovered (addEntry s fid e) fid e.vaStart e.vaStop

theorem rangeMapped_journal {e : RangeEntry} (hf : getForme s fid = some f) : (rangeMapped s fid e).journal = s.journal := by
  obtain ⟨poison, errors, frame⟩ := modRanges_frame hf (fun es => es ++ [e])
  rw [rangeMapped, addEntry, frame]
  rfl

theorem rangeMapped_forme {e : RangeEntry} (hf : getForme s fid = some f) :
    ∃ f', getForme (rangeMapped s fid e) fid = some f' ∧ f'.ranges = f.ranges ++ [e] := by
  obtain ⟨poison, errors, frame⟩ := modRanges_frame hf (fun es => es ++ [e])
  rw [rangeMapped, addEntry, frame, resolveCovered, resolveFaults, getForme_modForme_self]
  exact ⟨_, congrArg (Option.map _) (mapGet_mapSet_self ..), rfl⟩

theorem slotsOf_rangeMapped {e : RangeEntry} (hf : getForme s fid = some f) (mb : MboxId) :
    slotsOf (rangeMapped s fid e) mb = slotsOf s mb := by
  unfold rangeMapped resolveCovered resolveFaults
  exact (slotsOf_modForme _ _ (by intro; rfl) mb).trans (slotsOf_modRanges hf _ mb)

include hheld hfid hf

theorem execMapRange_starts (hstart : startsCmd s mb k 0x20 = some c) :
    exec (.mapRange mb k) s = .next (checked s mb k (mapChecks s f c) (finish
      (rangeMapped (journalWrite s (mapJEntry s mb k fid f c)) fid (mapEntry s f c)) mb k stOk 0 ((lowestFreeId f).getD 0))) := by
  change execMapRange mb k s = _
  simp only [execMapRange, hstart, hfid, hf, hheld, Bool.and_false, Bool.false_eq_true, if_false]
  rfl

theorem mapRange_ends (hlost : s.journal.lost = 0) (hboot : s.journal.bootDue = false) (hstart : startsCmd s mb k 0x20 = some c)
    (hpass : firstBad (mapChecks s f c) = none) : Ended (.mapRange mb k) s mb k stOk 0 ((lowestFreeId f).getD 0) (fun t =>
      Journaled t 0x05 (rangeObj fid ((lowestFreeId f).getD 0)) 1 (mapEntry s f c).digest ∧
        ∃ f', getForme t fid = some f' ∧ f'.ranges = f.ranges ++ [mapEntry s f c]) := by
  have takes : JournalTakes s := journalTakes_of_checks hheld hlost hboot hpass (by simp [mapChecks])
  have written : getForme (journalWrite s (mapJEntry s mb k fid f c)) fid = some f :=
    ((journalWrite_frame ..).getForme fid).trans hf
  refine ended_of_journaled (mapJEntry s mb k fid f c) (execMapRange_starts hheld hfid hf hstart) (of_startsCmd hstart).2 hpass
    takes (rangeMapped_journal written) ?_ ?_
  · rw [slotsOf_rangeMapped written, slotsOf_journalWrite]
  · obtain ⟨x, hx, ranges⟩ := rangeMapped_forme (e := mapEntry s f c) written
    obtain ⟨f', hf', same⟩ := getForme_finish hx mb k stOk 0 ((lowestFreeId f).getD 0)
    exact ⟨f', hf', (congrArg Forme.ranges same).trans ranges⟩

end

/-! ## UNMAP_RANGE (10 R351, R352) -/

theorem JournalOnly.now {s t : State} (h : JournalOnly s t) : t.now = s.now := by rw [h]

@[simp] theorem runOn_journal (s : State) (mb : MboxId) (k w : Nat) : (runOn s mb k w).journal = s.journal := by cases mb <;> rfl

@[simp] theorem runOn_now (s : State) (mb : MboxId) (k w : Nat) : (runOn s mb k w).now = s.now := by cases mb <;> rfl

/-- What of a forme is not its mailbox is there while a command runs on. -/
theorem getForme_runOn {s : State} {fid : Nat} {f : Forme} (h : getForme s fid = some f) (mb : MboxId) (k w : Nat) :
    ∃ f', getForme (runOn s mb k w) fid = some f' ∧ { f' with coreMbox := f.coreMbox } = f := by
  cases mb with
  | host p => exact ⟨f, h, rfl⟩
  | core g =>
    have kept := map_mapMod s.formes g (fun x => { x with coreMbox := { x.coreMbox with
      slots := mapUpd x.coreMbox.slots Slot.reset k (fun x => { x with phase := .running, waitId := w, pastStep8 := true }) } })
      (fun x => { x with coreMbox := f.coreMbox }) (fun _ => rfl) fid
    change (getForme (runOn s (.core g) k w) fid).map _ = (getForme s fid).map _ at kept
    rw [h, Option.map_some, Option.map_eq_some_iff] at kept
    exact kept

/-- An entry in a state, from a time on. -/
def RangeEntry.entering (ids : List Nat) (st : RangeState) (now : Nat) (e : RangeEntry) : RangeEntry :=
  if ids.contains e.id then { e with state := st, mapTime := now } else e

/-- An invalidation that starts changes the entries, and what Lumiz counts. -/
theorem startInval_frame {s : State} {fid : Nat} {f : Forme} (h : getForme s fid = some f) (ids : List Nat) (st : RangeState)
    (purpose : InvPurpose) : ∃ poison errors invals sec, startInval s fid ids st purpose = { s with
      formes := mapSet s.formes fid { f with ranges := f.ranges.map (·.entering ids st s.now) },
      poison := poison, errors := errors, invals := invals, sec := sec } := by
  obtain ⟨poison, errors, frame⟩ := modRanges_frame h (List.map (·.entering ids st s.now))
  obtain ⟨invals, sec, started⟩ : ∃ invals sec, startInval s fid ids st purpose =
      { modRanges s fid (List.map (·.entering ids st s.now)) with invals := invals, sec := sec } := by
    rw [startInval, h]
    exact ⟨_, _, rfl⟩
  rw [frame] at started
  exact ⟨poison, errors, invals, sec, started⟩

theorem slotsOf_startInval {s : State} {fid : Nat} {f : Forme} (h : getForme s fid = some f) (ids : List Nat) (st : RangeState)
    (purpose : InvPurpose) (mb : MboxId) : slotsOf (startInval s fid ids st purpose) mb = slotsOf s mb := by
  obtain ⟨poison, errors, invals, sec, frame⟩ := startInval_frame h ids st purpose
  refine slotsOf_setForme (x := { f with ranges := f.ranges.map (·.entering ids st s.now) }) h ?_ ?_ rfl mb <;> rw [frame]

section
variable {s : State} {mb : MboxId} {k c fid : Nat} {f : Forme} {e : RangeEntry} (hheld : journalHeld s = false)
  (hfid : formeOfMbox s mb = some fid) (hf : getForme s fid = some f)

/-- What the command journals. -/
def unmapJEntry (s : State) (mb : MboxId) (k fid : Nat) (e : RangeEntry) : JEntry :=
  jEntry (originOf s mb k) 0x05 (rangeObj fid e.id) 3 e.digest 0

/-- The command runs on, its entry invalidating. -/
def unmapStarts (s : State) (mb : MboxId) (k fid : Nat) (e : RangeEntry) : State :=
  startInval (runOn s mb k s.sec.nextInval) fid [e.id] .invalidating (.unmap mb k)

include hheld hfid hf

theorem execUnmapRange_starts (hstart : startsCmd s mb k 0x21 = some c) : exec (.unmapRange mb k) s =
    .next (checked s mb k (unmapChecks s f c) (match unmapEntry f (bits c 55 0) with
      | none => s
      | some e => unmapStarts (journalWrite s (unmapJEntry s mb k fid e)) mb k fid e)) := by
  change execUnmapRange mb k s = _
  simp only [execUnmapRange, hstart, hfid, hf, hheld, Bool.and_false, Bool.false_eq_true, if_false]
  rfl

theorem unmapRange_runs (hlost : s.journal.lost = 0) (hboot : s.journal.bootDue = false)
    (hstart : startsCmd s mb k 0x21 = some c) (hpass : firstBad (unmapChecks s f c) = none)
    (he : unmapEntry f (bits c 55 0) = some e) : ∃ t f', exec (.unmapRange mb k) s = .next t ∧
      (getSlot t mb k).phase = .running ∧ (getSlot t mb k).waitId = s.sec.nextInval ∧
      Journaled t 0x05 (rangeObj fid e.id) 3 0 ∧ getForme t fid = some f' ∧ f'.ranges = f.ranges.map (fun y =>
        if y.id = e.id then { y with state := .invalidating, mapTime := s.now } else y) := by
  have takes : JournalTakes s := journalTakes_of_checks hheld hlost hboot hpass (by simp [unmapChecks])
  have runs := execUnmapRange_starts hheld hfid hf hstart
  simp only [checked_passes hpass, he] at runs
  have only := journalWrite_frame s (unmapJEntry s mb k fid e)
  obtain ⟨u, hu⟩ : ∃ u, journalWrite s (unmapJEntry s mb k fid e) = u := ⟨_, rfl⟩
  rw [hu] at runs only
  obtain ⟨x, hx, same⟩ := getForme_runOn ((only.getForme fid).trans hf) mb k u.sec.nextInval
  have slots : slotsOf (unmapStarts u mb k fid e) mb = slotsOf (runOn u mb k u.sec.nextInval) mb := slotsOf_startInval hx ..
  have there : MboxThere u mb := (of_startsCmd hstart).2.congr (only.slotsOf mb)
  have slot : getSlot (unmapStarts u mb k fid e) mb k =
      { getSlot u mb k with phase := .running, waitId := u.sec.nextInval, pastStep8 := true } := by
    rw [getSlot_congr slots, runOn, getSlot_modSlot_self there]
  obtain ⟨poison, errors, invals, sec, frame⟩ := startInval_frame hx [e.id] .invalidating (.unmap mb k)
  refine ⟨_, { x with ranges := x.ranges.map (·.entering [e.id] .invalidating u.now) }, runs, ?_, ?_, ?_, ?_, ?_⟩
  · rw [slot]
  · rw [slot, only.sec]
  · refine takes.journaled (e := unmapJEntry s mb k fid e) ?_
    rw [hu, unmapStarts, frame, runOn_journal]
  · rw [unmapStarts, frame, runOn_now]
    exact mapGet_mapSet_self ..
  · have ranges : x.ranges = f.ranges := (congrArg Forme.ranges same :)
    rw [ranges, only.now]
    refine List.map_congr_left fun y _ => ?_
    simp [RangeEntry.entering]
end

/-! ## SET_POLICY (05 R151 to R155, 12 R417) -/

/-- The command's CLR_HIST is bit 59 of its policy word. -/
theorem bit_bits_low (c n i : Nat) (h : i ≤ n) : bit (bits c n 0) i = bit c i := by
  have low : bits c n 0 = c % 2 ^ (n + 1) := by simp [bits]
  rw [low, bit, ← Nat.testBit_eq_decide_div_mod_eq, Nat.testBit_mod_two_pow, bit, ← Nat.testBit_eq_decide_div_mod_eq,
    decide_eq_true (by omega), Bool.true_and]

section
variable {s : State} {mb : MboxId} {k c fid : Nat} {f : Forme} {p : Plate}

/-- What the command journals. -/
def policyJEntry (s : State) (mb : MboxId) (k fid : Nat) (p : Plate) (c : Nat) : JEntry :=
  jEntry (originOf s mb k) 0x08 (policyObj fid (bits c 79 64) (bits c 83 80)) 2
    (match (p.layerNum (bits c 79 64)).bind (fun l => l.outs[bits c 83 80]?) with
      | some b => digest16 (toBytes 8 b.policy.word)
      | none => 0)
    (digest16 (toBytes 8 (bits c 63 0)))

/-- The policy takes effect. -/
def policySet (s : State) (fid c : Nat) : State :=
  shutHistory (modLayer s fid (bits c 79 64) (fun l =>
    { l with outs := l.outs.modify (bits c 83 80) (fun b => b.setPolicy (bits c 63 0)) })) fid (bits c 79 64) (bits c 83 80)
    (bits c 63 0)

theorem policySet_journal (s : State) (fid c : Nat) : (policySet s fid c).journal = s.journal := by
  unfold policySet shutHistory
  split <;> rfl

theorem slotsOf_policySet (s : State) (fid c : Nat) (mb : MboxId) : slotsOf (policySet s fid c) mb = slotsOf s mb := by
  have layer (g : Layer → Layer) : slotsOf (modLayer s fid (bits c 79 64) g) mb = slotsOf s mb :=
    slotsOf_modForme s fid (by intro; rfl) mb
  unfold policySet shutHistory
  split
  · exact (slotsOf_modForme _ _ (by intro; rfl) mb).trans (layer _)
  · exact layer _

/-- The plate of the forme with the layer changed. -/
theorem policySet_plate (hf : getForme s fid = some f) : ∃ g, getForme (policySet s fid c) fid = some g ∧
    g.plate = f.plate.map (fun p => { p with layers := p.layers.map (fun l => if l.num = bits c 79 64 then
      { l with outs := l.outs.modify (bits c 83 80) (fun b => b.setPolicy (bits c 63 0)) } else l) }) := by
  unfold policySet shutHistory
  split
  · rw [getForme_modForme_self, modLayer, getForme_modForme_self, hf]
    exact ⟨_, rfl, rfl⟩
  · rw [modLayer, getForme_modForme_self, hf]
    exact ⟨_, rfl, rfl⟩

/-- The layer of a number, where layers of that number are changed. -/
theorem layerNum_map {p : Plate} {n : Nat} {l : Layer} (hl : p.layerNum n = some l) {g : Layer → Layer}
    (hg : ∀ l, (g l).num = l.num) :
    ({ p with layers := p.layers.map (fun l => if l.num = n then g l else l) } : Plate).layerNum n = some (g l) := by
  have same : (fun l : Layer => decide (l.num = n)) ∘ (fun l => if l.num = n then g l else l) = fun l => decide (l.num = n) := by
    funext l
    by_cases e : l.num = n <;> simp [e, hg]
  have num : l.num = n := by simpa using List.find?_some hl
  rw [Plate.layerNum] at hl
  rw [Plate.layerNum, List.find?_map, same, hl, Option.map_some, if_pos num]

variable (hheld : journalHeld s = false) (hfid : formeOfMbox s mb = some fid) (hf : getForme s fid = some f)
include hfid hf

theorem execSetPolicy_unplated (hstart : startsCmd s mb k 0x52 = some c) (hp : f.plate = none) :
    exec (.setPolicy mb k) s = .next (finish s mb k stNoPlate 0 0) := by
  change execSetPolicy mb k s = _
  simp only [execSetPolicy, hstart, hfid, hf, hp, Option.bind_some, Option.map_some]
  rfl

include hheld

theorem execSetPolicy_starts (hstart : startsCmd s mb k 0x52 = some c) (hp : f.plate = some p) : exec (.setPolicy mb k) s =
    .next (checked s mb k (policyChecks s p c)
      (finish (policySet (journalWrite s (policyJEntry s mb k fid p c)) fid c) mb k stOk 0 0)) := by
  change execSetPolicy mb k s = _
  simp only [execSetPolicy, hstart, hfid, hf, hp, hheld, Option.bind_some, Option.map_some, Bool.and_false, Bool.false_eq_true,
    if_false]
  rfl

theorem setPolicy_ends (hlost : s.journal.lost = 0) (hboot : s.journal.bootDue = false)
    (hstart : startsCmd s mb k 0x52 = some c) (hp : f.plate = some p) (hpass : firstBad (policyChecks s p c) = none) :
    Ended (.setPolicy mb k) s mb k stOk 0 0 (fun t =>
      Journaled t 0x08 (policyObj fid (bits c 79 64) (bits c 83 80)) 2 (digest16 (toBytes 8 (bits c 63 0))) ∧
      ∃ g l' b', getForme t fid = some g ∧ (g.plate.bind (fun p => p.layerNum (bits c 79 64))) = some l' ∧
        l'.outs[bits c 83 80]? = some b' ∧ b'.policy = policyOf (bits c 63 0) ∧ (bit c 59 = true → b'.history = [])) := by
  have takes : JournalTakes s := journalTakes_of_checks hheld hlost hboot hpass (by simp [policyChecks])
  have only := journalWrite_frame s (policyJEntry s mb k fid p c)
  refine ended_of_journaled (policyJEntry s mb k fid p c) (execSetPolicy_starts hheld hfid hf hstart hp)
    (of_startsCmd hstart).2 hpass takes (policySet_journal ..) ((slotsOf_policySet ..).trans (only.slotsOf mb)) ?_
  obtain ⟨l, b, hl, hb⟩ : ∃ l b, p.layerNum (bits c 79 64) = some l ∧ l.outs[bits c 83 80]? = some b := by
    have bound := not_bad_of_firstBad hpass (((p.layerNum (bits c 79 64)).bind (fun l => l.outs[bits c 83 80]?)).isNone, stBadField,
      fieldOff 80) (by simp [policyChecks])
    obtain ⟨b, hb⟩ := Option.isSome_iff_exists.mp (Option.isNone_eq_false_iff.mp bound)
    obtain ⟨l, hl, hb⟩ := Option.bind_eq_some_iff.mp hb
    exact ⟨l, b, hl, hb⟩
  obtain ⟨x, hx, changed⟩ := policySet_plate (c := c) ((only.getForme fid).trans hf)
  obtain ⟨g, hg, same⟩ := getForme_finish hx mb k stOk 0 0
  have plate : g.plate = x.plate := (congrArg Forme.plate same :)
  refine ⟨g, { l with outs := l.outs.modify (bits c 83 80) (fun b => b.setPolicy (bits c 63 0)) }, b.setPolicy (bits c 63 0),
    hg, ?_, ?_, ?_, fun hclear => ?_⟩
  · rw [plate, changed, hp]
    exact layerNum_map hl fun _ => rfl
  · rw [List.getElem?_modify_eq, hb]
    rfl
  · unfold OutBinding.setPolicy
    dsimp only
    split <;> rfl
  · unfold OutBinding.setPolicy
    dsimp only
    rw [if_pos ((bit_bits_low c 63 59 (by decide)).trans hclear)]

end

end Sys2Proof.Machine
end

section
/-! PROOFS. Commanded power (12 R418, R419; 16 R540; 11 R371): rest states of Platens, and core groups that start and stop. -/

namespace Sys2Proof.Machine

open Sys2Proof

/-! ## What a change of a Platen's power leaves alone -/

/-- Of the formes, and of what no forme holds, only the counters differ, and beside them the Platens, and whether the
module is to wake. -/
def PowerOnly (s t : State) : Prop :=
  t = { s with formes := t.formes, loose := t.loose, platens := t.platens, waking := t.waking } ∧ OnlyCounters s t

namespace PowerOnly

variable {s t u : State}

theorem refl (s : State) : PowerOnly s s := ⟨rfl, .refl s⟩

theorem trans (h : PowerOnly s t) (k : PowerOnly t u) : PowerOnly s u := by
  refine ⟨?_, h.2.trans k.2⟩
  rw [k.1, h.1]

theorem ite {c : Prop} [Decidable c] (ht : PowerOnly s t) (hu : PowerOnly s u) : PowerOnly s (if c then t else u) := by
  split
  · exact ht
  · exact hu

theorem slotsOf (h : PowerOnly s t) (mb : MboxId) : slotsOf t mb = Machine.slotsOf s mb := h.2.slotsOf (by rw [h.1]) mb

theorem journal (h : PowerOnly s t) : t.journal = s.journal := by rw [h.1]

theorem countFor (s : State) (f : Option Nat) (c : Ctr) (n : Nat) : PowerOnly s (countFor s f c n) := by
  obtain ⟨frame, counters⟩ := countFor_frame s f c n
  exact ⟨by rw [frame], counters⟩

theorem modPlaten (s : State) (p : Nat) (g : PlatenPower → PlatenPower) : PowerOnly s (modPlaten s p g) := ⟨rfl, .refl s⟩

theorem account (s : State) (p : Nat) : PowerOnly s (account s p) := by
  unfold Machine.account
  dsimp only
  split
  · exact ((countFor ..).trans (countFor ..)).trans (modPlaten ..)
  · split
    · exact ((countFor ..).trans (countFor ..)).trans (modPlaten ..)
    · exact (countFor ..).trans (modPlaten ..)

theorem setPower (s : State) (p : Nat) (g : PlatenPower → PlatenPower) : PowerOnly s (setPower s p g) :=
  (account s p).trans (modPlaten ..)

theorem wakePlaten (s : State) (p : Nat) : PowerOnly s (wakePlaten s p) := by
  have module : PowerOnly s (wakeModule s) := ite ⟨rfl, .refl s⟩ (refl s)
  refine module.trans ?_
  unfold Machine.wakePlaten
  dsimp only
  split
  · exact refl _
  · exact refl _
  · exact setPower ..
  all_goals exact (setPower ..).trans (countFor ..)

theorem applyRest (s : State) (p st : Nat) : PowerOnly s (applyRest s p st) :=
  ite ((setPower ..).trans (wakePlaten ..)) (setPower ..)

end PowerOnly

/-! ## The rest state of a Platen (16 R540) -/

@[simp] theorem countFor_platens (s : State) (f : Option Nat) (c : Ctr) (n : Nat) : (countFor s f c n).platens = s.platens := by
  rw [(countFor_frame s f c n).1]

theorem account_platens (s : State) (p : Nat) :
    (account s p).platens = mapMod s.platens p (fun y => { y with since := s.now }) := by
  have now (u : State) (f : Option Nat) (c : Ctr) (n : Nat) : (countFor u f c n).now = u.now := by
    rw [(countFor_frame u f c n).1]
  unfold account modPlaten
  dsimp only
  split
  · simp [now]
  · split <;> simp [now]

theorem mapGet_setPower (s : State) (p : Nat) (g : PlatenPower → PlatenPower) :
    mapGet (setPower s p g).platens p = (mapGet s.platens p).map (fun y => g { y with since := s.now }) := by
  change mapGet (mapMod (account s p).platens p g) p = _
  rw [account_platens, mapGet_mapMod_self, mapGet_mapMod_self, Option.map_map]
  rfl

/-- A wake leaves the rest state. -/
theorem rest_wakePlaten {s : State} {p : Nat} {x : PlatenPower} (h : mapGet s.platens p = some x) :
    ∃ y, mapGet (wakePlaten s p).platens p = some y ∧ y.rest = x.rest := by
  have woken : (wakeModule s).platens = s.platens := by
    unfold wakeModule
    split <;> rfl
  have powered (g : PlatenPower → PlatenPower) (hg : ∀ y, (g y).rest = y.rest) :
      ∃ y, mapGet (setPower (wakeModule s) p g).platens p = some y ∧ y.rest = x.rest := by
    rw [mapGet_setPower, woken, h]
    exact ⟨_, rfl, hg _⟩
  unfold wakePlaten
  dsimp only
  split
  · exact ⟨x, by rw [woken, h], rfl⟩
  · exact ⟨x, by rw [woken, h], rfl⟩
  · exact powered _ fun _ => rfl
  all_goals
    rw [countFor_platens]
    exact powered _ fun _ => rfl

theorem rest_applyRest {s : State} {p : Nat} {x : PlatenPower} (h : mapGet s.platens p = some x) (st : Nat) :
    (getPlaten (applyRest s p st) p).rest = st := by
  have set : ∃ y, mapGet (setPower s p (fun y => { y with rest := st })).platens p = some y ∧ y.rest = st := by
    rw [mapGet_setPower, h]
    exact ⟨_, rfl, rfl⟩
  have woken : ∃ y, mapGet (applyRest s p st).platens p = some y ∧ y.rest = st := by
    obtain ⟨y, hy, rest⟩ := set
    unfold applyRest
    dsimp only
    split
    · obtain ⟨z, hz, same⟩ := rest_wakePlaten hy
      exact ⟨z, hz, same.trans rest⟩
    · exact ⟨y, hy, rest⟩
  obtain ⟨y, hy, rest⟩ := woken
  rw [getPlaten, mapGetD, hy]
  exact rest

/-! ## Groups that start and stop -/

theorem startGroup_journal (s : State) (g entry arg : Nat) : (startGroup s g entry arg).journal = s.journal := rfl

theorem slotsOf_startGroup (s : State) (g entry arg : Nat) (mb : MboxId) : slotsOf (startGroup s g entry arg) mb = slotsOf s mb :=
  slotsOf_of_parts rfl (fun _ => rfl) mb

theorem startGroup_groupsRunning (s : State) (g entry arg : Nat) :
    (startGroup s g entry arg).groupsRunning = g :: s.groupsRunning := rfl

theorem startGroup_harts (s : State) (g entry arg : Nat) :
    (startGroup s g entry arg).harts = mapMod s.harts (8 * g) (fun x => x.begin (8 * g) entry arg) := rfl

/-- A change of harts and of nothing else. -/
def HartsOnly (s t : State) : Prop := t = { s with harts := t.harts }

theorem HartsOnly.foldl {α : Type} {f : State → α → State} (hf : ∀ s a, HartsOnly s (f s a)) (l : List α) (s : State) :
    HartsOnly s (l.foldl f s) := by
  induction l generalizing s with
  | nil => rfl
  | cons a l ih =>
    have first := hf s a
    have rest := ih (f s a)
    unfold HartsOnly at first rest ⊢
    rw [List.foldl_cons, rest, first]

theorem HartsOnly.slotsOf {s t : State} (h : HartsOnly s t) (mb : MboxId) : slotsOf t mb = Machine.slotsOf s mb := by
  rw [h]
  exact slotsOf_of_parts rfl (fun _ => rfl) mb

theorem HartsOnly.journal {s t : State} (h : HartsOnly s t) : t.journal = s.journal := by rw [h]

theorem HartsOnly.groupsRunning {s t : State} (h : HartsOnly s t) : t.groupsRunning = s.groupsRunning := by rw [h]

theorem haltGroups_only (s : State) (gs : List Nat) : HartsOnly s (gs.foldl haltGroup s) :=
  .foldl (fun s g => .foldl (f := fun s h => modHart s h Hart.halt) (fun _ _ => rfl) (hartsOf g) s) gs s

theorem stopGroups_journal (s : State) (gs : List Nat) : (stopGroups s gs).journal = s.journal :=
  (haltGroups_only s gs).journal

theorem slotsOf_stopGroups (s : State) (gs : List Nat) (mb : MboxId) : slotsOf (stopGroups s gs) mb = slotsOf s mb :=
  (slotsOf_of_parts rfl (fun _ => rfl) mb).trans ((haltGroups_only s gs).slotsOf mb)

theorem stopGroups_groupsRunning (s : State) (gs : List Nat) :
    (stopGroups s gs).groupsRunning = s.groupsRunning.filter (fun g => !gs.contains g) :=
  congrArg (List.filter (fun g => !gs.contains g)) (haltGroups_only s gs).groupsRunning

/-! ## The entry of a power state -/

/-- The power states that have been commanded, with that of a command. -/
def powerNoted (s : State) (c : Nat) : State := { s with powerCmds := mapSet s.powerCmds (powerObj c) (c % 2 ^ 192) }

def powerJEntry (s : State) (o : JOrigin) (c : Nat) : JEntry :=
  jEntry o 0x09 (powerObj c) 2 (match mapGet s.powerCmds (powerObj c) with | some x => digest16 (toBytes 24 x) | none => 0)
    (digest16 (toBytes 24 c))

theorem journalPower_eq (s : State) (o : JOrigin) (c : Nat) :
    journalPower s o c = journalWrite (powerNoted s c) (powerJEntry s o c) := rfl

theorem JournalTakes.powerNoted {s : State} (h : JournalTakes s) (c : Nat) : JournalTakes (powerNoted s c) :=
  ⟨h.held, h.lost, h.bootDue, h.full⟩

theorem JournalOnly.platens {s t : State} (h : JournalOnly s t) : t.platens = s.platens := by rw [h]

theorem JournalOnly.harts {s t : State} (h : JournalOnly s t) : t.harts = s.harts := by rw [h]

theorem JournalOnly.groupsRunning {s t : State} (h : JournalOnly s t) : t.groupsRunning = s.groupsRunning := by rw [h]

@[simp] theorem finish_platens (s : State) (mb : MboxId) (k st detail result : Nat) :
    (finish s mb k st detail result).platens = s.platens := by cases mb <;> rfl

@[simp] theorem finish_harts (s : State) (mb : MboxId) (k st detail result : Nat) :
    (finish s mb k st detail result).harts = s.harts := by cases mb <;> rfl

@[simp] theorem finish_groupsRunning (s : State) (mb : MboxId) (k st detail result : Nat) :
    (finish s mb k st detail result).groupsRunning = s.groupsRunning := by cases mb <;> rfl

@[simp] theorem runOn_platens (s : State) (mb : MboxId) (k w : Nat) : (runOn s mb k w).platens = s.platens := by cases mb <;> rfl

section
variable {s : State} {mb : MboxId} {k c : Nat} {f : Forme}

/-! ## POWER_STATE -/

theorem issuer_of {fid : Nat} (hfid : formeOfMbox s mb = some fid) (hf : getForme s fid = some f) : issuer s mb = some f := by
  rw [issuer, hfid, Option.bind_some, hf]

section
variable (hissuer : issuer s mb = some f) (hheld : journalHeld s = false) (hstart : startsCmd s mb k 0x60 = some c)
include hissuer hheld hstart

theorem execPowerState_starts (hstarts : psKind c ≠ 2) (hstops : psKind c ≠ 3) : exec (.powerState mb k) s =
    .next (checked s mb k (psChecks s f c) (
      let t := applyRest (journalWrite (powerNoted s c) (powerJEntry s (originOf s mb k) c)) (psIndex c) (psState c)
      if restWaits s (psIndex c) (psState c) then runOn t mb k (psIndex c) else finish t mb k stOk 0 0)) := by
  have other : ¬ (psKind c = 2 ∨ psKind c = 3) := fun h => h.elim hstarts hstops
  change execPowerState mb k s = _
  simp only [execPowerState, hstart, hissuer, other, hheld, Bool.and_false, Bool.false_eq_true, if_false]
  rfl

theorem execCoreGroupStart_starts (hkind : psKind c = 2) : exec (.coreGroupStart mb k) s =
    .next (checked s mb k (psChecks s f c) (finish (startGroup (journalWrite (powerNoted s c) (powerJEntry s (originOf s mb k) c))
      (psIndex c) (psEntry c) (psArg c)) mb k stOk 0 0)) := by
  change execCoreGroupStart mb k s = _
  simp only [execCoreGroupStart, hstart, hissuer, hkind, ne_eq, not_true, hheld, Bool.and_false, Bool.false_eq_true, if_false]
  rfl

theorem execCoreGroupStop_starts (hkind : psKind c = 3) (hruns : s.groupsRunning.contains (psIndex c) = true) :
    exec (.coreGroupStop mb k) s =
    .next (checked s mb k (psChecks s f c) (finish (stopGroups (journalWrite (powerNoted s c) (powerJEntry s (originOf s mb k) c))
      [psIndex c]) mb k stOk 0 0)) := by
  change execCoreGroupStop mb k s = _
  simp only [execCoreGroupStop, hstart, hissuer, hkind, ne_eq, not_true, hruns, if_true, hheld, Bool.and_false, Bool.false_eq_true,
    if_false]
  rfl

omit hheld in
theorem execCoreGroupStop_stopped (hkind : psKind c = 3) (hstopped : psIndex c ∉ s.groupsRunning) :
    exec (.coreGroupStop mb k) s = .next (checked s mb k (psFieldChecks c ++ [(psNotOwned f c, stNotOwned, fieldOff 4)])
      (finish s mb k stOk 0 0)) := by
  have idle : s.groupsRunning.contains (psIndex c) = false := by simpa using hstopped
  change execCoreGroupStop mb k s = _
  simp only [execCoreGroupStop, hstart, hissuer, hkind, ne_eq, not_true, idle, Bool.false_eq_true, if_false]

section
variable (hlost : s.journal.lost = 0) (hboot : s.journal.bootDue = false) (hpass : firstBad (psChecks s f c) = none)
include hlost hboot hpass

omit hissuer hstart in
theorem powerTakes : JournalTakes (powerNoted s c) :=
  (journalTakes_of_checks hheld hlost hboot hpass (by simp [psChecks])).powerNoted c

theorem powerState_rests (hkind : psKind c = 1) {x : PlatenPower} (hx : mapGet s.platens (psIndex c) = some x) :
    ∃ t, exec (.powerState mb k) s = .next t ∧ (getPlaten t (psIndex c)).rest = psState c ∧
      (getSlot t mb k).phase = (if psState c < x.state.depth then .running else .finished) ∧
      Journaled t 0x09 (powerObj c) 2 (digest16 (toBytes 24 c)) := by
  have runs := execPowerState_starts hissuer hheld hstart (by omega) (by omega)
  have waits : restWaits s (psIndex c) (psState c) = decide (psState c < x.state.depth) := by
    rw [restWaits, getPlaten, mapGetD, hx]
    rfl
  rw [checked_passes hpass, waits] at runs
  have only := journalWrite_frame (powerNoted s c) (powerJEntry s (originOf s mb k) c)
  obtain ⟨u, hu⟩ : ∃ u, journalWrite (powerNoted s c) (powerJEntry s (originOf s mb k) c) = u := ⟨_, rfl⟩
  rw [hu] at runs only
  have applied : PowerOnly u (applyRest u (psIndex c) (psState c)) := .applyRest ..
  have rest : (getPlaten (applyRest u (psIndex c) (psState c)) (psIndex c)).rest = psState c :=
    rest_applyRest ((congrArg (mapGet · (psIndex c)) only.platens).trans hx) (psState c)
  generalize applyRest u (psIndex c) (psState c) = t at runs applied rest
  have there : MboxThere t mb := (of_startsCmd hstart).2.congr ((applied.slotsOf mb).trans (only.slotsOf mb))
  have entry : t.journal = (journalWrite (powerNoted s c) (powerJEntry s (originOf s mb k) c)).journal := by
    rw [applied.journal, hu]
  have takes := powerTakes hheld hlost hboot hpass
  by_cases hwait : psState c < x.state.depth
  · simp only [hwait, decide_true, if_true] at runs ⊢
    refine ⟨_, runs, ?_, ?_, takes.journaled (e := powerJEntry s (originOf s mb k) c) ?_⟩
    · rwa [getPlaten, runOn_platens]
    · rw [runOn, getSlot_modSlot_self there]
    · rw [runOn_journal, entry]
  · simp only [hwait, decide_false, Bool.false_eq_true, if_false] at runs ⊢
    refine ⟨_, runs, ?_, ?_, takes.journaled (e := powerJEntry s (originOf s mb k) c) ?_⟩
    · rwa [getPlaten, finish_platens]
    · rw [finish, getSlot_modSlot_self there]
    · rw [finish_journal, entry]

/-! ## Core groups (11 R371) -/

theorem coreGroupStart_ends (hkind : psKind c = 2) : Ended (.coreGroupStart mb k) s mb k stOk 0 0 (fun t =>
    Journaled t 0x09 (powerObj c) 2 (digest16 (toBytes 24 c)) ∧ psIndex c ∈ t.groupsRunning ∧
      ∀ h, mapGet s.harts (8 * psIndex c) = some h →
        mapGet t.harts (8 * psIndex c) = some (h.begin (8 * psIndex c) (psEntry c) (psArg c))) := by
  have only := journalWrite_frame (powerNoted s c) (powerJEntry s (originOf s mb k) c)
  refine ended_of_journaled (powerJEntry s (originOf s mb k) c) (execCoreGroupStart_starts hissuer hheld hstart hkind)
    (of_startsCmd hstart).2 hpass (powerTakes hheld hlost hboot hpass) (startGroup_journal ..)
    ((slotsOf_startGroup ..).trans (only.slotsOf mb)) ⟨?_, fun h hh => ?_⟩
  · rw [finish_groupsRunning, startGroup_groupsRunning]
    exact List.mem_cons_self
  · rw [finish_harts, startGroup_harts, only.harts, mapGet_mapMod_self]
    exact congrArg (Option.map _) hh

theorem coreGroupStop_ends (hkind : psKind c = 3) (hruns : psIndex c ∈ s.groupsRunning) :
    Ended (.coreGroupStop mb k) s mb k stOk 0 0 (fun t =>
      Journaled t 0x09 (powerObj c) 2 (digest16 (toBytes 24 c)) ∧ psIndex c ∉ t.groupsRunning) := by
  have only := journalWrite_frame (powerNoted s c) (powerJEntry s (originOf s mb k) c)
  refine ended_of_journaled (powerJEntry s (originOf s mb k) c)
    (execCoreGroupStop_starts hissuer hheld hstart hkind (by simpa using hruns)) (of_startsCmd hstart).2 hpass
    (powerTakes hheld hlost hboot hpass) (stopGroups_journal ..) ((slotsOf_stopGroups ..).trans (only.slotsOf mb)) ?_
  rw [finish_groupsRunning, stopGroups_groupsRunning]
  simp

end

end

/-- A group that is stopped is left as it is, without an entry. -/
theorem coreGroupStop_stopped (hissuer : issuer s mb = some f) (hstart : startsCmd s mb k 0x60 = some c) (hkind : psKind c = 3)
    (hstopped : psIndex c ∉ s.groupsRunning) (hfields : firstBad (psFieldChecks c) = none) (howned : psNotOwned f c = false) :
    Ended (.coreGroupStop mb k) s mb k stOk 0 0 (fun t => t.journal = s.journal) := by
  have pass : firstBad (psFieldChecks c ++ [(psNotOwned f c, stNotOwned, fieldOff 4)]) = none := by
    rw [howned]
    exact firstBad_append_good hfields
  have runs := execCoreGroupStop_stopped hissuer hstart hkind hstopped
  rw [checked_passes pass] at runs
  exact ended_of_finish runs (of_startsCmd hstart).2 rfl (finish_journal ..)

/-- A Platen that has reached S0 ends the command that waited for it. -/
theorem powerState_awake (hissuer : issuer s mb = some f) (hrun : runsCmd s mb k 0x60 = some c)
    (hawake : (getPlaten s (psIndex c)).state = .s0) : Ended (.powerState mb k) s mb k stOk 0 0 (fun _ => True) := by
  obtain ⟨idle, there⟩ := of_runsCmd hrun
  refine ended_of_finish ?_ there rfl trivial
  change execPowerState mb k s = _
  simp only [execPowerState, idle, hrun, hissuer, hawake, beq_self_eq_true, if_true]

end

end Sys2Proof.Machine
end

section
/-! PROOFS. FORME_CREATE (12 R408; 15 R497 to R502, Table 15.2): stacks at which nothing waits are taken, and the new forme has
its parts. -/

namespace Sys2Proof.Machine

open Sys2Proof

/-! ## Stacks at which nothing waits -/

/-- Nothing waits at the pseudo-channels of a stack, and none is recovered. -/
def StackIdle (s : State) (k : Nat) : Prop :=
  ∀ x ∈ (getStack s k).pchs, x.2.recovering = none ∧ x.2.queue = [] ∧ x.2.held = []

/-- Only stacks differ, and of them not the pseudo-channels. -/
structure PchsKept (s t : State) : Prop where
  only : OnlyStacks s t
  pchs : ∀ k, (getStack t k).pchs = (getStack s k).pchs

theorem PchsKept.refl (s : State) : PchsKept s s := ⟨rfl, fun _ => rfl⟩

theorem PchsKept.trans {s t u : State} (h : PchsKept s t) (k : PchsKept t u) : PchsKept s u :=
  ⟨h.only.trans k.only, fun j => (k.pchs j).trans (h.pchs j)⟩

theorem StackIdle.kept {s t : State} {k : Nat} (h : StackIdle s k) (kept : PchsKept s t) : StackIdle t k := by
  rw [StackIdle, kept.pchs]
  exact h

theorem StackIdle.of_stackTab {s t : State} {k : Nat} (h : StackIdle s k) (same : t.stackTab = s.stackTab) : StackIdle t k := by
  rw [StackIdle, getStack, same]
  exact h

theorem StackIdle.waitingPchs {s : State} {k : Nat} (h : StackIdle s k) : waitingPchs s k none = [] := by
  rw [Machine.waitingPchs, List.filter_eq_nil_iff.mpr, List.map_nil]
  intro x hx
  obtain ⟨-, queue, held⟩ := h x hx
  simp [queue, held]

theorem StackIdle.recoverLane {s : State} {k : Nat} (h : StackIdle s k) (p : Nat) : recoverLane s k p = s := by
  have sound : (getPch s k p).recovering = none := by
    rw [getPch, mapGetD]
    cases hp : mapGet (getStack s k).pchs p with
    | none => rfl
    | some x => exact (h _ (mem_of_mapGet _ _ _ hp)).1
  rw [Machine.recoverLane, sound]

/-- Such a stack leaves self-refresh, if it was in it. -/
theorem StackIdle.wakeStack {s : State} {k : Nat} (h : StackIdle s k) : PchsKept s (wakeStack s k none) := by
  have woken : PchsKept s (modStack s k Stack.awake) := ⟨rfl, fun j => getStack_modStack_keeps s k j _ (·.pchs) fun _ => rfl⟩
  unfold Machine.wakeStack
  split
  · change PchsKept s ((Machine.waitingPchs (modStack s k Stack.awake) k none).foldl (serveFree k) (modStack s k Stack.awake))
    rw [(h.kept woken).waitingPchs]
    exact woken
  · exact .refl s

/-- Its home has nothing to carry out. -/
theorem StackIdle.drainStack {s : State} {k : Nat} (h : StackIdle s k) : PchsKept s (drainStack s k) := by
  have woken := h.wakeStack
  have idle := h.kept woken
  have recovered (l : List Nat) : l.foldl (fun s p => Machine.recoverLane s k p) (Machine.wakeStack s k none) =
      Machine.wakeStack s k none :=
    List.foldlRecOn (motive := (· = Machine.wakeStack s k none)) l _ rfl fun u hu p _ => by rw [hu, idle.recoverLane]
  rw [Machine.drainStack, recovered, idle.waitingPchs]
  exact woken

/-- The homes of the stacks of some Platens have nothing to carry out. -/
theorem drainStacks_kept {l : List Nat} {s : State} (h : ∀ p ∈ l, ∀ i, i / 2 = p → StackIdle s i) :
    PchsKept s (l.foldl (fun s p => drainStack (drainStack s (2 * p)) (2 * p + 1)) s) := by
  induction l generalizing s with
  | nil => exact .refl s
  | cons p l ih =>
    have even : StackIdle s (2 * p) := h p List.mem_cons_self _ (by omega)
    have odd : StackIdle s (2 * p + 1) := h p List.mem_cons_self _ (by omega)
    have first := even.drainStack.trans (odd.kept even.drainStack).drainStack
    have rest : ∀ q ∈ l, ∀ i, i / 2 = q → StackIdle (drainStack (drainStack s (2 * p)) (2 * p + 1)) i :=
      fun q hq i hi => (h q (List.mem_cons_of_mem p hq) i hi).kept first
    rw [List.foldl_cons]
    exact first.trans (ih rest)

/-! ## Memory -/

theorem mapGet_filter_key {α : Type} (m : SMap α) (q : Nat → Bool) (a : Nat) :
    mapGet (m.filter (fun kv => q kv.1)) a = if q a then mapGet m a else none := by
  induction m with
  | nil => simp [mapGet]
  | cons x m ih =>
    obtain ⟨k, v⟩ := x
    by_cases e : k = a
    · subst e
      cases h : q k <;> simp [mapGet, h, ih]
    · cases h : q k <;> simp [mapGet, h, ih, e]

/-- Every byte of the stacks reads zero, and every other as before (15 Table 15.2 step 3). -/
theorem byteAt_zeroStacks (s : State) (platens : List Nat) (keys a : Nat) :
    byteAt (zeroStacks s platens keys).mem a = if inStacks platens a then 0 else byteAt s.mem a := by
  change mapGetD (s.mem.filter (fun kv => !inStacks platens kv.1)) 0 a = _
  rw [mapGetD, mapGet_filter_key s.mem (fun a => !inStacks platens a)]
  cases inStacks platens a <;> rfl

/-! ## The parts of the new forme -/

/-- The ports join the forme. -/
theorem attachPorts_only (fid c : Nat) (l : List Nat) (s : State) :
    l.foldl (attachPort fid c) s = { s with ports := (l.foldl (attachPort fid c) s).ports } := by
  induction l generalizing s with
  | nil => rfl
  | cons p l ih => rw [List.foldl_cons, ih (attachPort fid c s p)]; rfl

theorem slotsOf_attachPorts (fid c : Nat) (l : List Nat) (s : State) (mb : MboxId) :
    slotsOf (l.foldl (attachPort fid c) s) mb = slotsOf s mb :=
  List.foldlRecOn (motive := fun t => slotsOf t mb = slotsOf s mb) l _ rfl fun t ht p _ =>
    (slotsOf_modPort t p (by intro; rfl) mb).trans ht

/-- Joining again changes nothing of which forme it is. -/
theorem forme_attachPort (fid c : Nat) (s : State) (p q : Nat)
    (h : (mapGet s.ports q).map (·.forme) = some (some fid) ∨ p = q ∧ (mapGet s.ports q).isSome = true) :
    (mapGet (attachPort fid c s p).ports q).map (·.forme) = some (some fid) := by
  change (mapGet (mapMod s.ports p _) q).map _ = _
  rw [mapGet_mapMod]
  split
  · next e =>
    subst e
    have there : (mapGet s.ports q).isSome = true := h.elim (fun h => by cases hq : mapGet s.ports q <;> simp_all) (·.2)
    obtain ⟨x, hx⟩ := Option.isSome_iff_exists.mp there
    rw [hx]
    rfl
  · next ne => exact h.resolve_right fun e => ne e.1.symm

theorem forme_attachPorts (fid c : Nat) (l : List Nat) (s : State) (q : Nat)
    (h : (mapGet s.ports q).map (·.forme) = some (some fid) ∨ q ∈ l ∧ (mapGet s.ports q).isSome = true) :
    (mapGet (l.foldl (attachPort fid c) s).ports q).map (·.forme) = some (some fid) := by
  induction l generalizing s with
  | nil => exact h.resolve_right fun h => absurd h.1 List.not_mem_nil
  | cons p l ih =>
    rw [List.foldl_cons]
    refine ih _ ?_
    rcases h with joined | ⟨hq, there⟩
    · exact .inl (forme_attachPort fid c s p q (.inl joined))
    · rcases List.mem_cons.mp hq with rfl | hq
      · exact .inl (forme_attachPort fid c s q q (.inr ⟨rfl, there⟩))
      · refine .inr ⟨hq, ?_⟩
        change (mapGet (mapMod s.ports p _) q).isSome = true
        rw [mapGet_mapMod]
        split
        · next e => rw [Option.isSome_map, ← e, there]
        · exact there

/-- Their harts are reset. -/
theorem freshGroups_only (l : List Nat) (s : State) : HartsOnly s (l.foldl freshGroup s) :=
  .foldl (fun s g => .foldl (f := fun s h => { s with harts := mapSet s.harts h Hart.reset }) (fun _ _ => rfl) (hartsOf g) s) l s

theorem HartsOnly.getForme {s t : State} (h : HartsOnly s t) (f : Nat) : getForme t f = Machine.getForme s f := by rw [h]; rfl

theorem HartsOnly.mem {s t : State} (h : HartsOnly s t) : t.mem = s.mem := by rw [h]

theorem HartsOnly.ports {s t : State} (h : HartsOnly s t) : t.ports = s.ports := by rw [h]

/-- The stacks of the new forme are taken, under a new key set. -/
def stacksTaken (s : State) (c : Nat) : State := zeroStacks { s with
  sec := { s.sec with nextKeys := s.sec.nextKeys + 1 }, gut := s.gut.fresh (fcForme c) } (fcPlatens c) s.sec.nextKeys

/-- Its Platens have the rest state of a new forme. -/
def formeGround (s : State) (c : Nat) : State :=
  (fcPlatens c).foldl (fun s p => setPower s p (fun x => { x with rest := 8 })) (stacksTaken s c)

/-- The forme is entered, and its ports join it. -/
def formeEntered (s : State) (c : Nat) : State :=
  (fcPorts c).foldl (attachPort (fcForme c) c)
    { formeGround s c with formes := mapSet (formeGround s c).formes (fcForme c) (newForme s c) }

theorem createForme_only (s : State) (c : Nat) : HartsOnly (formeEntered s c) (createForme s c) := freshGroups_only ..

theorem powerOnly_foldl {α : Type} {f : State → α → State} (hf : ∀ s a, PowerOnly s (f s a)) (l : List α) (s : State) :
    PowerOnly s (l.foldl f s) :=
  List.foldlRecOn (motive := PowerOnly s) l f (.refl s) fun t ht a _ => ht.trans (hf t a)

theorem formeGround_power (s : State) (c : Nat) : PowerOnly (stacksTaken s c) (formeGround s c) :=
  powerOnly_foldl (fun _ _ => .setPower ..) ..

theorem PowerOnly.mem {s t : State} (h : PowerOnly s t) : t.mem = s.mem := by rw [h.1]

theorem PowerOnly.ports {s t : State} (h : PowerOnly s t) : t.ports = s.ports := by rw [h.1]

/-! ## What the command leaves -/

theorem formeEntered_eq (s : State) (c : Nat) : formeEntered s c = { formeGround s c with
    formes := mapSet (formeGround s c).formes (fcForme c) (newForme s c), ports := (formeEntered s c).ports } := attachPorts_only ..

theorem createForme_journal (s : State) (c : Nat) : (createForme s c).journal = s.journal := by
  rw [(createForme_only s c).journal, formeEntered_eq]
  exact (formeGround_power s c).journal

theorem createForme_forme (s : State) (c : Nat) : getForme (createForme s c) (fcForme c) = some (newForme s c) := by
  rw [(createForme_only s c).getForme, formeEntered_eq]
  exact mapGet_mapSet_self ..

theorem byteAt_createForme (s : State) (c a : Nat) :
    byteAt (createForme s c).mem a = if inStacks (fcPlatens c) a then 0 else byteAt s.mem a := by
  rw [(createForme_only s c).mem, formeEntered_eq]
  change byteAt (formeGround s c).mem a = _
  rw [(formeGround_power s c).mem]
  exact byteAt_zeroStacks _ (fcPlatens c) s.sec.nextKeys a

theorem createForme_port {s : State} {c p : Nat} (hp : p ∈ fcPorts c) (there : (mapGet s.ports p).isSome = true) :
    (mapGet (createForme s c).ports p).map (·.forme) = some (some (fcForme c)) := by
  rw [(createForme_only s c).ports]
  refine forme_attachPorts _ _ _ _ _ (.inr ⟨hp, ?_⟩)
  change (mapGet (formeGround s c).ports p).isSome = true
  rw [(formeGround_power s c).ports]
  exact there

/-- Only the mailbox of the new forme is new. -/
theorem slotsOf_createForme {s : State} {c : Nat} {mb : MboxId} (h : mb ≠ .core (fcForme c)) :
    slotsOf (createForme s c) mb = slotsOf s mb := by
  have entered : slotsOf (formeEntered s c) mb = slotsOf (formeGround s c) mb := by
    refine (slotsOf_attachPorts ..).trans ?_
    cases mb with
    | host p => rfl
    | core f => exact congrArg (Option.map _) (mapGet_mapSet_ne _ _ fun e => h (congrArg MboxId.core e))
  rw [(createForme_only s c).slotsOf, entered, (formeGround_power s c).slotsOf]
  exact slotsOf_of_parts (s := s) (t := stacksTaken s c) rfl (fun _ => rfl) mb

theorem OnlyStacks.journal {s t : State} (h : OnlyStacks s t) : t.journal = s.journal := by rw [h]

theorem OnlyStacks.mem {s t : State} (h : OnlyStacks s t) : t.mem = s.mem := by rw [h]

theorem OnlyStacks.ports {s t : State} (h : OnlyStacks s t) : t.ports = s.ports := by rw [h]

theorem OnlyStacks.phase {s t : State} (h : OnlyStacks s t) : t.phase = s.phase := by rw [h]

theorem OnlyStacks.slotsOf {s t : State} (h : OnlyStacks s t) (mb : MboxId) : slotsOf t mb = Machine.slotsOf s mb := by
  rw [h]
  exact slotsOf_of_parts rfl (fun _ => rfl) mb

theorem JournalOnly.phase {s t : State} (h : JournalOnly s t) : t.phase = s.phase := by rw [h]

theorem JournalOnly.ports {s t : State} (h : JournalOnly s t) : t.ports = s.ports := by rw [h]

theorem JournalOnly.stackTab {s t : State} (h : JournalOnly s t) : t.stackTab = s.stackTab := by rw [h]

@[simp] theorem finish_mem (s : State) (mb : MboxId) (k st detail result : Nat) :
    (finish s mb k st detail result).mem = s.mem := by cases mb <;> rfl

/-- The end of a command leaves the forme of a port. -/
theorem map_forme_finish (s : State) (mb : MboxId) (k st detail result p : Nat) :
    (mapGet (finish s mb k st detail result).ports p).map (·.forme) = (mapGet s.ports p).map (·.forme) := by
  cases mb with
  | host q =>
    refine map_mapMod s.ports q _ (·.forme) ?_ p
    intro x
    rfl
  | core f => rfl

/-! ## FORME_CREATE -/

def createJEntry (s : State) (mb : MboxId) (k c : Nat) : JEntry :=
  jEntry ((originOf s mb k).about (fcForme c)) 0x04 (fcForme c) 1 0 (digest16 (toBytes 48 c))

/-- The entry is written, and the homes of the stacks carry out what waits there. -/
def createDrained (s : State) (mb : MboxId) (k c : Nat) : State :=
  (fcPlatens c).foldl (fun s p => drainStack (drainStack s (2 * p)) (2 * p + 1)) (journalWrite s (createJEntry s mb k c))

section
variable {s : State} {mb : MboxId} {k c : Nat} (hstart : startsCmd s mb k 0x10 = some c) (hheld : journalHeld s = false)
include hstart hheld

theorem execFormeCreate_starts : exec (.formeCreate mb k) s = .next (checked s mb k (fcChecks s c)
    (if (createDrained s mb k c).powered then finish (createForme (createDrained s mb k c) c) mb k stOk 0 0
      else createDrained s mb k c)) := by
  change execFormeCreate mb k s = _
  simp only [execFormeCreate, hstart, hheld, Bool.and_false, Bool.false_eq_true, if_false]
  rfl

theorem formeCreate_ends (hlost : s.journal.lost = 0) (hboot : s.journal.bootDue = false)
    (hpass : firstBad (fcChecks s c) = none) (hidle : ∀ p ∈ fcPlatens c, ∀ i, i / 2 = p → StackIdle s i) :
    Ended (.formeCreate mb k) s mb k stOk 0 0 (fun t =>
      Journaled t 0x04 (fcForme c) 1 (digest16 (toBytes 48 c)) ∧
      (∃ g, getForme t (fcForme c) = some g ∧ g.platens = fcPlatens c ∧ g.groups = fcGroups c ∧ g.ports = fcPorts c ∧
        g.faultHold = fcHold c ∧ g.ranges = [] ∧ g.faults = [] ∧ g.plate = none ∧ g.cap = 3000) ∧
      (∀ p ∈ fcPorts c, (mapGet s.ports p).isSome = true → (getPort t p).forme = some (fcForme c)) ∧
      ∀ a, byteAt t.mem a = if inStacks (fcPlatens c) a then 0 else byteAt s.mem a) := by
  obtain ⟨up, there⟩ := of_startsCmd hstart
  have takes : JournalTakes s := journalTakes_of_checks hheld hlost hboot hpass (by simp [fcChecks])
  have only := journalWrite_frame s (createJEntry s mb k c)
  have unused : getForme s (fcForme c) = none := by
    have free := not_bad_of_firstBad hpass ((getForme s (fcForme c)).isSome, stResourceBusy, fieldOff 22) (by simp [fcChecks])
    simpa using free
  have elsewhere : mb ≠ .core (fcForme c) := by
    rintro rfl
    simp [MboxThere, unused] at there
  have drained : OnlyStacks (journalWrite s (createJEntry s mb k c)) (createDrained s mb k c) :=
    (drainStacks_kept fun p hp i hi => (hidle p hp i hi).of_stackTab only.stackTab).only
  have runs := execFormeCreate_starts hstart hheld
  obtain ⟨u, hu⟩ : ∃ u, createDrained s mb k c = u := ⟨_, rfl⟩
  rw [hu] at runs drained
  have powered : u.powered = true := by
    rw [State.powered, drained.phase, only.phase]
    exact Bool.or_eq_true_iff.mpr (.inl up)
  rw [powered, if_pos rfl] at runs
  refine ended_of_journaled (createJEntry s mb k c) runs there hpass takes ?_ ?_ ⟨?_, fun p hp hport => ?_, fun a => ?_⟩
  · rw [createForme_journal, drained.journal]
  · rw [slotsOf_createForme elsewhere, drained.slotsOf, only.slotsOf]
  · obtain ⟨g, hg, same⟩ := getForme_finish (createForme_forme u c) mb k stOk 0 0
    exact ⟨g, hg, (congrArg Forme.platens same :), (congrArg Forme.groups same :), (congrArg Forme.ports same :),
      (congrArg Forme.faultHold same :), (congrArg Forme.ranges same :), (congrArg Forme.faults same :),
      (congrArg Forme.plate same :), (congrArg Forme.cap same :)⟩
  · have joined := createForme_port (s := u) hp (by rw [drained.ports, only.ports, hport])
    rw [← map_forme_finish _ mb k stOk 0 0, Option.map_eq_some_iff] at joined
    obtain ⟨x, hx, forme⟩ := joined
    rw [getPort, mapGetD, hx]
    exact forme
  · rw [finish_mem, byteAt_createForme, drained.mem, only.mem]

end

/-- Settles O40, command by command: each is one list of checks, whose failure ends it, and one change under one entry. -/
theorem commandsChangeTheirObjectAndAreJournaled : Obligations.CommandsChangeTheirObjectAndAreJournaled := by
  unfold Obligations.CommandsChangeTheirObjectAndAreJournaled
  intro mb k c s hheld hlost hboot fails
  have failing {i : Instr} {cs : List (Bool × Nat × Nat)} {go : State} {opc : Nat} (hstart : startsCmd s mb k opc = some c)
      (hexec : exec i s = .next (checked s mb k cs go)) : fails i cs :=
    ended_of_check hexec (of_startsCmd hstart).2
  refine ⟨fun hstart => ?formeCreate, fun hstart => ?capSet, fun fid f hfid hf => ⟨fun hstart => ?mapRange,
    fun hstart => ?unmapRange, fun hstart p hp => ?setPolicy, fun hstart hp => ?unplated, fun hstart => ?power,
    fun hrun hawake => ?awake⟩⟩
  case formeCreate =>
    exact ⟨failing hstart (execFormeCreate_starts hstart hheld), formeCreate_ends hstart hheld hlost hboot⟩
  case capSet =>
    exact ⟨failing hstart (execCapSet_starts hstart hheld), capSet_module hstart hheld hlost hboot,
      fun fid f hpass hforme hfid hf => capSet_forme hstart hheld hlost hboot hpass hforme hfid hf⟩
  case mapRange =>
    exact ⟨failing hstart (execMapRange_starts hheld hfid hf hstart), mapRange_ends hheld hfid hf hlost hboot hstart⟩
  case unmapRange =>
    exact ⟨failing hstart (execUnmapRange_starts hheld hfid hf hstart),
      fun e hpass he => unmapRange_runs hheld hfid hf hlost hboot hstart hpass he⟩
  case setPolicy =>
    exact ⟨failing hstart (execSetPolicy_starts hheld hfid hf hstart hp), setPolicy_ends hheld hfid hf hlost hboot hstart hp⟩
  case unplated =>
    exact ended_of_finish (execSetPolicy_unplated hfid hf hstart hp) (of_startsCmd hstart).2 rfl trivial
  case power =>
    have hissuer : issuer s mb = some f := issuer_of hfid hf
    refine ⟨fun hstarts hstops => failing hstart (execPowerState_starts hissuer hheld hstart hstarts hstops),
      fun hkind => failing hstart (execCoreGroupStart_starts hissuer hheld hstart hkind),
      fun hkind hruns => failing hstart (execCoreGroupStop_starts hissuer hheld hstart hkind hruns),
      fun hkind hpass x hx => powerState_rests hissuer hheld hstart hlost hboot hpass hkind hx,
      fun hkind hpass => coreGroupStart_ends hissuer hheld hstart hlost hboot hpass hkind,
      fun hkind hruns hpass => coreGroupStop_ends hissuer hheld hstart hlost hboot hpass hkind hruns,
      fun hkind hstopped hfields howned => coreGroupStop_stopped hissuer hstart hkind hstopped hfields howned⟩
  case awake => exact powerState_awake (issuer_of hfid hf) hrun hawake

end Sys2Proof.Machine
end

section
/-! PROOFS. Harts: their registers, the bits of their status registers, exceptions and SRET (11 R369, R374). -/

namespace Sys2Proof.Machine

open Sys2Proof

/-! ## Bits of a register -/

theorem bit_eq_testBit (v i : Nat) : bit v i = v.testBit i := (Nat.testBit_eq_decide_div_mod_eq ..).symm

theorem bit_mod_word {i : Nat} (v : Nat) (hi : i < 64) : bit (v % 2 ^ 64) i = bit v i := by
  rw [bit_eq_testBit, Nat.testBit_mod_two_pow, decide_eq_true hi, Bool.true_and, bit_eq_testBit]

/-- Adding a power of two where its bit is clear sets that bit, and carries nowhere. -/
theorem bit_add_two_pow {v i : Nat} (h : bit v i = false) (j : Nat) : bit (v + 2 ^ i) j = if j = i then true else bit v j := by
  rw [bit_eq_testBit] at h
  simp only [bit_eq_testBit]
  rcases Nat.lt_trichotomy j i with hj | rfl | hj
  · rw [if_neg (Nat.ne_of_lt hj), Nat.add_comm, Nat.testBit_two_pow_add_gt hj]
  · rw [if_pos rfl, Nat.add_comm, Nat.testBit_two_pow_add_eq, h]
    rfl
  · obtain ⟨k, rfl⟩ := Nat.exists_eq_add_of_lt hj
    have even : v / 2 ^ i % 2 = 0 := by simpa [Nat.testBit_eq_decide_div_mod_eq] using h
    have above : (v + 2 ^ i) / 2 ^ (i + 1) = v / 2 ^ (i + 1) := by
      rw [Nat.pow_succ, ← Nat.div_div_eq_div_mul, ← Nat.div_div_eq_div_mul, Nat.add_div_right _ (Nat.two_pow_pos i)]
      omega
    rw [if_neg (Nat.ne_of_gt hj), show i + k + 1 = k + (i + 1) by omega, Nat.testBit_add, Nat.testBit_add, above]

theorem bit_setBit (v i j : Nat) : bit (setBit v i) j = if j = i then true else bit v j := by
  unfold setBit
  split
  · rename_i set
    split
    · rename_i e
      rw [e, set]
    · rfl
  · rename_i clear
    exact bit_add_two_pow (by simpa using clear) j

theorem bit_clearBit (v i j : Nat) : bit (clearBit v i) j = if j = i then false else bit v j := by
  unfold clearBit
  split
  · rename_i set
    have le : 2 ^ i ≤ v := Nat.ge_two_pow_of_testBit (by rwa [← bit_eq_testBit])
    have clear : bit (v - 2 ^ i) i = false := by
      have flips := Nat.testBit_two_pow_add_eq (v - 2 ^ i) i
      rw [Nat.add_sub_cancel' le, ← bit_eq_testBit, ← bit_eq_testBit, set] at flips
      simpa using flips.symm
    have back := bit_add_two_pow clear j
    rw [Nat.sub_add_cancel le] at back
    split
    · rename_i e
      rw [e, clear]
    · rename_i e
      rw [back, if_neg e]
  · rename_i clear
    split
    · rename_i e
      simpa [e] using clear
    · rfl

@[simp] theorem bit_withBit (v i : Nat) (b : Bool) (j : Nat) : bit (withBit v i b) j = if j = i then b else bit v j := by
  cases b
  · exact bit_clearBit v i j
  · exact bit_setBit v i j

/-! ## Registers of a hart -/

/-- x0 stays zero; another register holds what was written last, in 64 bits. -/
theorem xget_xset (x : Hart) (r v k : Nat) :
    (x.xset r v).xget k = if k = 0 then 0 else if k = r then v % 2 ^ 64 else x.xget k := by
  unfold Hart.xset Hart.xget
  by_cases hk : k = 0
  · simp [hk]
  · by_cases hr : r = 0
    · simp [hr, hk]
    · by_cases e : k = r
      · simp [e, hr]
      · simp [hk, hr, e, mapGetD_mapSet_ne]

/-- Writing an integer register leaves the rest of the hart. -/
theorem xset_frame (x : Hart) (r v : Nat) : x.xset r v = { x with xregs := (x.xset r v).xregs } := by
  unfold Hart.xset
  split <;> rfl

@[simp] theorem xset_st (x : Hart) (r v : Nat) : (x.xset r v).st = x.st := by rw [xset_frame]
@[simp] theorem xset_pc (x : Hart) (r v : Nat) : (x.xset r v).pc = x.pc := by rw [xset_frame]
@[simp] theorem xset_mode (x : Hart) (r v : Nat) : (x.xset r v).mode = x.mode := by rw [xset_frame]
@[simp] theorem xset_vl (x : Hart) (r v : Nat) : (x.xset r v).vl = x.vl := by rw [xset_frame]
@[simp] theorem xset_vill (x : Hart) (r v : Nat) : (x.xset r v).vill = x.vill := by rw [xset_frame]
@[simp] theorem xset_sew (x : Hart) (r v : Nat) : (x.xset r v).sew = x.sew := by rw [xset_frame]
@[simp] theorem xset_pending (x : Hart) (r v : Nat) : (x.xset r v).pending = x.pending := by rw [xset_frame]
@[simp] theorem xset_csr (x : Hart) (r v n : Nat) : (x.xset r v).csr n = x.csr n := by
  rw [xset_frame]
  rfl

@[simp] theorem csr_setCsr (x : Hart) (n v k : Nat) : (x.setCsr n v).csr k = if k = n then v % 2 ^ 64 else x.csr k := by
  unfold Hart.csr Hart.setCsr
  by_cases e : k = n
  · rw [if_pos e, e, mapGetD_mapSet_self]
  · rw [if_neg e]
    exact mapGetD_mapSet_ne _ _ _ e

/-! ## Exceptions and SRET (11 R374) -/

section
variable (x : Hart) (cause stval epc : Nat)

/-- An exception leaves every register that a program holds values in. -/
theorem trap_registers : (x.trap cause stval epc).cause = cause ∧ (x.trap cause stval epc).stval = stval ∧
    (x.trap cause stval epc).xregs = x.xregs ∧ (x.trap cause stval epc).fregs = x.fregs ∧
    (x.trap cause stval epc).vregs = x.vregs ∧ (x.trap cause stval epc).ndfault = x.ndfault := by
  unfold Hart.trap
  by_cases hguest : x.virt = true ∧ bit (x.csr 0x602) cause = true
  · simp only [if_pos hguest, Hart.setCsr, and_self]
  · simp only [if_neg hguest, Hart.setCsr, and_self]

theorem bit_statusTrap (v : Nat) (spp : Bool) : bit (statusTrap v spp) 1 = false ∧ bit (statusTrap v spp) 5 = bit v 1 ∧
    bit (statusTrap v spp) 8 = spp := by simp [statusTrap]

theorem bit_statusReturn (v : Nat) : bit (statusReturn v) 1 = bit v 5 ∧ bit (statusReturn v) 8 = false := by
  simp [statusReturn]

variable {x cause}

section
variable (hguest : x.virt = true ∧ bit (x.csr 0x602) cause = true)
include hguest

theorem trap_delegated : (x.trap cause stval epc).mode = 2 ∧ (x.trap cause stval epc).pc = x.csr 0x205 / 4 * 4 := by
  unfold Hart.trap
  rw [if_pos hguest]
  exact ⟨rfl, rfl⟩

theorem trap_delegated_csr (n : Nat) : (x.trap cause stval epc).csr n =
    ((((x.setCsr 0x241 epc).setCsr 0x242 cause).setCsr 0x243 stval).setCsr 0x200
      (statusTrap (x.csr 0x200) (x.mode == 1 || x.mode == 2))).csr n := by
  unfold Hart.trap
  rw [if_pos hguest]
  rfl

end

section
variable (hhost : ¬(x.virt = true ∧ bit (x.csr 0x602) cause = true))
include hhost

theorem trap_taken : (x.trap cause stval epc).mode = 1 ∧ (x.trap cause stval epc).pc = x.csr 0x105 / 4 * 4 := by
  unfold Hart.trap
  rw [if_neg hhost]
  exact ⟨rfl, rfl⟩

/-- In HS-mode hstatus records, besides what S-mode keeps, whether a guest was left. -/
theorem trap_taken_csr : ∃ hs, bit hs 7 = x.virt ∧ ∀ n, (x.trap cause stval epc).csr n =
    (((((x.setCsr 0x141 epc).setCsr 0x142 cause).setCsr 0x143 stval).setCsr 0x100
      (statusTrap (x.csr 0x100) (x.mode == 1 || x.mode == 2))).setCsr 0x600 hs).csr n := by
  let hs := withBit (withBit (x.csr 0x600) 7 x.virt) 6 (x.virt && stval != 0)
  refine ⟨if x.virt then withBit hs 8 (x.mode == 2) else hs, ?_, fun n => ?_⟩
  · split <;> simp [hs]
  · unfold Hart.trap
    rw [if_neg hhost]
    rfl

end

end

/-- What an exception writes: the status register of the mode it enters keeps the interrupt enable and the mode left. -/
theorem trap_enters (x : Hart) (cause stval epc : Nat) :
    let y := x.trap cause stval epc
    let guest : Bool := (x.mode == 2 || x.mode == 3) && bit (x.csr 0x602) cause
    let entered (status : Nat) : Prop := bit (y.csr status) 1 = false ∧ bit (y.csr status) 5 = bit (x.csr status) 1 ∧
      bit (y.csr status) 8 = (x.mode == 1 || x.mode == 2)
    (guest = true → y.mode = 2 ∧ y.pc = x.csr 0x205 / 4 * 4 ∧ y.csr 0x241 = epc % 2 ^ 64 ∧ y.csr 0x242 = cause % 2 ^ 64 ∧
      y.csr 0x243 = stval % 2 ^ 64 ∧ entered 0x200) ∧
    (guest = false → y.mode = 1 ∧ y.pc = x.csr 0x105 / 4 * 4 ∧ y.csr 0x141 = epc % 2 ^ 64 ∧ y.csr 0x142 = cause % 2 ^ 64 ∧
      y.csr 0x143 = stval % 2 ^ 64 ∧ entered 0x100 ∧ bit (y.csr 0x600) 7 = (x.mode == 2 || x.mode == 3)) := by
  intro y guest entered
  have delegated : guest = true ↔ x.virt = true ∧ bit (x.csr 0x602) cause = true :=
    iff_of_eq (Bool.and_eq_true ..)
  constructor
  · intro hguest
    obtain ⟨mode, pc⟩ := trap_delegated stval epc (delegated.mp hguest)
    have csr := trap_delegated_csr stval epc (delegated.mp hguest)
    obtain ⟨sie, spie, spp⟩ := bit_statusTrap (x.csr 0x200) (x.mode == 1 || x.mode == 2)
    refine ⟨mode, pc, ?_, ?_, ?_, ?_, ?_, ?_⟩
    all_goals simp only [y, csr, csr_setCsr, reduceIte, Nat.reduceEqDiff, bit_mod_word, Nat.reduceLT, sie, spie, spp]
  · intro hhost
    have taken := mt delegated.mpr (by rw [hhost]; exact Bool.false_ne_true)
    obtain ⟨mode, pc⟩ := trap_taken stval epc taken
    obtain ⟨hs, spv, csr⟩ := trap_taken_csr stval epc taken
    obtain ⟨sie, spie, spp⟩ := bit_statusTrap (x.csr 0x100) (x.mode == 1 || x.mode == 2)
    refine ⟨mode, pc, ?_, ?_, ?_, ⟨?_, ?_, ?_⟩, ?_⟩
    all_goals simp only [y, csr, csr_setCsr, reduceIte, Nat.reduceEqDiff, bit_mod_word, Nat.reduceLT, sie, spie, spp, spv]
    rfl

theorem sret_csr_guest {x : Hart} (h : x.mode = 2) (n : Nat) :
    x.sret.csr n = (x.setCsr 0x200 (statusReturn (x.csr 0x200))).csr n := by
  unfold Hart.sret
  rw [if_pos h]
  rfl

theorem sret_csr_host {x : Hart} (h : x.mode ≠ 2) (n : Nat) : x.sret.csr n =
    ((x.setCsr 0x100 (statusReturn (x.csr 0x100))).setCsr 0x600 (withBit (x.csr 0x600) 7 false)).csr n := by
  unfold Hart.sret
  rw [if_neg h]
  rfl

/-- SRET goes back to the mode that the status register names, within the guest or out of HS-mode. -/
theorem sret_returns (x : Hart) :
    let status := if x.mode = 2 then 0x200 else 0x100
    let spp := bit (x.csr status) 8
    x.sret.pc = x.csr (if x.mode = 2 then 0x241 else 0x141) ∧ bit (x.sret.csr status) 1 = bit (x.csr status) 5 ∧
      bit (x.sret.csr status) 8 = false ∧
      x.sret.mode = if x.mode = 2 ∨ bit (x.csr 0x600) 7 = true then (if spp then 2 else 3) else if spp then 1 else 0 := by
  by_cases guest : x.mode = 2
  · obtain ⟨sie, spp⟩ := bit_statusReturn (x.csr 0x200)
    simp only [guest, reduceIte, true_or, sret_csr_guest guest, csr_setCsr, bit_mod_word, Nat.reduceLT, sie, spp, true_and]
    simp only [Hart.sret, guest, reduceIte, and_self]
  · obtain ⟨sie, spp⟩ := bit_statusReturn (x.csr 0x100)
    simp only [guest, reduceIte, false_or, sret_csr_host guest, csr_setCsr, Nat.reduceEqDiff, bit_mod_word, Nat.reduceLT, sie,
      spp, true_and]
    simp only [Hart.sret, guest, reduceIte, and_self]

/-! ## Changes of one hart -/

/-- Two changes of a hart that agree on the hart as it is are the same change. -/
theorem modHart_congr {s : State} {h : Nat} {g g' : Hart → Hart} (e : g (getHart s h) = g' (getHart s h)) :
    modHart s h g = modHart s h g' := by
  unfold modHart mapMod
  unfold getHart mapGetD at e
  cases there : mapGet s.harts h with
  | none => rfl
  | some x =>
    rw [there] at e
    dsimp only
    rw [show g x = g' x from e]

theorem running_of_hartRuns {s : State} {h f : Nat} (hr : hartRuns s h = some f) : (getHart s h).st = .running := by
  unfold hartRuns at hr
  dsimp only at hr
  split at hr
  · rename_i runs
    simp only [Bool.and_eq_true, beq_iff_eq] at runs
    obtain ⟨⟨-, running⟩, -⟩ := runs
    exact running
  · cases hr

/-- A hart that runs is in the table: one that is not there reads as stopped. -/
theorem mapGet_of_hartRuns {s : State} {h f : Nat} (hr : hartRuns s h = some f) : mapGet s.harts h = some (getHart s h) := by
  have running := running_of_hartRuns hr
  unfold getHart mapGetD at running ⊢
  cases there : mapGet s.harts h with
  | some x => rfl
  | none =>
    rw [there] at running
    cases running

theorem getHart_modHart {s : State} {h : Nat} (g : Hart → Hart) (hthere : (mapGet s.harts h).isSome = true) :
    getHart (modHart s h g) h = g (getHart s h) := by
  obtain ⟨x, hx⟩ := Option.isSome_iff_exists.mp hthere
  rw [getHart_modHart_self s h g x hx, getHart, mapGetD, hx, Option.getD_some]

theorem isSome_modHart (s : State) (i k : Nat) (g : Hart → Hart) :
    (mapGet (modHart s i g).harts k).isSome = (mapGet s.harts k).isSome := by
  rw [modHart_harts, mapGet_mapMod]
  split
  · rename_i e
    rw [e, Option.isSome_map]
  · rfl

/-- What a change of a hart keeps of it reads as before of every hart. -/
theorem getHart_modHart_kept {α : Type} (P : Hart → α) {g : Hart → Hart} (hg : ∀ x, P (g x) = P x) (s : State) (i k : Nat) :
    P (getHart (modHart s i g) k) = P (getHart s k) := by
  by_cases e : k = i
  · subst e
    unfold getHart mapGetD
    rw [modHart_harts, mapGet_mapMod_self]
    cases mapGet s.harts k with
    | none => rfl
    | some x => exact hg x
  · rw [getHart_modHart_ne s g e]

end Sys2Proof.Machine
end

section
/-! PROOFS. Accesses of a hart, its control registers and its locked L3 ways (11 R369, R372 to R378, R382 to R386, Tables 11.3,
11.6). -/

namespace Sys2Proof.Machine

open Sys2Proof

/-! ## Exceptions that an instruction takes instead of its effect -/

/-- No row carries the instruction's word here, so that stval is zero either way. -/
theorem coreIllegal_zero (s : State) (h : Nat) : coreIllegal s h 0 = coreTrap s.drawn h 2 0 := by
  rw [coreIllegal, ite_self]
  rfl

/-- What an instruction does that its mode may not use: an illegal or a virtual instruction. -/
def coreRefused (s : State) (h cause : Nat) : State := if cause = causeIllegal then coreIllegal s h 0 else coreTrap s h cause 0

theorem coreRefused_cases {c : Instr} {s : State} {h cause : Nat} (he : exec c s = .next (coreRefused s h cause)) :
    (cause = 2 → exec c s = .next (coreTrap s.drawn h 2 0)) ∧ (cause ≠ 2 → exec c s = .next (coreTrap s h cause 0)) := by
  unfold coreRefused causeIllegal at he
  constructor
  · intro e
    rw [he, if_pos e, coreIllegal_zero]
  · intro e
    rw [he, if_neg e]

/-! ## What comes of an access that is translated (11 R374, R375) -/

/-- An access whose translation came to `a`: the hart stalls, takes an exception, or makes its effect. -/
def reachEnds (u : State) (h : Nat) (c : Instr) (cause va : Nat) (a : CoreAt) (done : List (Nat × Nat) → State) : State :=
  match a with
  | .held => stallHart u h c
  | .denied nd => coreFault u h cause va nd
  | .trap cc x => coreTrap u h cc x
  | .ok pas => done pas

theorem reachEnds_cases {c : Instr} {s u : State} {h cause va : Nat} {a : CoreAt} {done : List (Nat × Nat) → State}
    (he : exec c s = .next (reachEnds u h c cause va a done)) :
    (a = .held → exec c s = .next (modHart u h (fun x => { x with st := .stalled, stalledOn := some c }))) ∧
    (∀ nd, a = .denied nd → exec c s = .next (modHart u.drawn h (fun x =>
      { x.trap cause va (Config.freeNat u.free) with ndfault := nd }))) ∧
    (∀ cc x, a = .trap cc x → exec c s = .next (modHart u.drawn h (fun y => y.trap cc x (Config.freeNat u.free)))) ∧
    (∀ pas, a = .ok pas → exec c s = .next (done pas)) := by
  refine ⟨?_, ?_, ?_, ?_⟩
  · rintro rfl
    exact he
  · rintro nd rfl
    exact he
  · rintro cc x rfl
    exact he
  · rintro pas rfl
    exact he

/-! ## Reading accesses -/

/-- An access that reads its pieces through the L3: it faults on the first that meets poison, or ends with the bytes. -/
def readEnds (s : State) (h va : Nat) (acc : CoreAcc) (dvas pas : List (Nat × Nat)) (done : State → List Byte → State) : State :=
  let d := coreReadPas h pas s
  match d.2.2 with
  | some pa => coreFault d.1 h (accCause acc) va (ndfaultOf 2 0 (sectorVa dvas pas pa))
  | none => done d.1 d.2.1

theorem readEnds_cases {c : Instr} {s u : State} {h va : Nat} {acc : CoreAcc} {dvas pas : List (Nat × Nat)}
    {done : State → List Byte → State} (he : exec c s = .next (readEnds u h va acc dvas pas done)) :
    (∀ pa, (coreReadPas h pas u).2.2 = some pa →
      exec c s = .next (coreFault (coreReadPas h pas u).1 h (accCause acc) va (ndfaultOf 2 0 (sectorVa dvas pas pa)))) ∧
    ((coreReadPas h pas u).2.2 = none → exec c s = .next (done (coreReadPas h pas u).1 (coreReadPas h pas u).2.1)) := by
  unfold readEnds at he
  constructor
  · intro pa e
    simp only [he, e]
  · intro e
    simp only [he, e]

section
variable (s : State) (h f va n rd : Nat) (dvas pas : List (Nat × Nat))

theorem coreAt_load : coreAt s h f va (.load n rd) dvas pas = readEnds s h va (.load n rd) dvas pas
    (fun u bs => modHart u h (fun x => x.xset rd (ofBytes bs))) := rfl

theorem coreAt_fload : coreAt s h f va (.fload n rd) dvas pas = readEnds s h va (.fload n rd) dvas pas
    (fun u bs => modHart u h (fun x => x.fset rd n (ofBytes bs))) := rfl

theorem coreAt_vload : coreAt s h f va (.vload n rd) dvas pas = readEnds s h va (.vload n rd) dvas pas
    (fun u bs => modHart u h (fun x => { x with vregs := writeBytes x.vregs (64 * rd) bs })) := rfl

theorem coreAt_fetch : coreAt s h f va (.fetch n) dvas pas = readEnds s h va (.fetch n) dvas pas (fun u _ => u) := rfl

theorem coreAt_hload (e : Bool) : coreAt s h f va (.hload n rd e) dvas pas = readEnds s h va (.hload n rd e) dvas pas
    (fun u bs => modHart u h (fun x => x.xset rd (ofBytes bs))) := rfl

end

/-! ## Atomic accesses (11 R369, R386; 09 R309) -/

section
variable {s : State} {h f va n rd : Nat} {dvas pas rest : List (Nat × Nat)} {pa m : Nat}
  (hpas : pas = (pa, m) :: rest)
include hpas

section
variable {o : State × LineData} (ho : cacheOwn s (dieOfHart h) (lineOf pa) (some (groupOfHart h)) = o)
include ho

theorem coreAt_loadReserved_poisoned (hp : o.2.poisonAt (pa % 128) = true) : coreAt s h f va (.loadReserved n rd) dvas pas =
    coreFault o.1 h causeLoad va (ndfaultOf 2 0 (sectorVa dvas pas (sectorBase pa))) := by
  simp only [coreAt, hpas, List.head?_cons, ho, hp, if_true]
  rfl

theorem coreAt_loadReserved (hp : o.2.poisonAt (pa % 128) = false) : coreAt s h f va (.loadReserved n rd) dvas pas =
    modHart (countFor o.1 (some f) .atomics 1) h (fun x =>
      { x.xset rd (signExtend n (ofBytes (o.2.slice (pa % 128) n))) with resv := some (lineOf pa) }) := by
  simp only [coreAt, hpas, List.head?_cons, ho, hp, Bool.false_eq_true, if_false]

end

theorem coreAt_storeCond_won {data : List Byte} (hresv : (getHart s h).resv = some (lineOf pa)) :
    coreAt s h f va (.storeCond n rd data) dvas pas = coreWritePas h pas data
      (countFor (modHart s h (fun x => (x.xset rd 0).unreserve)) (some f) .atomics 1) := by
  simp only [coreAt, hpas, List.head?_cons, hresv, beq_self_eq_true, if_true]

theorem coreAt_storeCond_lost {data : List Byte} (hresv : (getHart s h).resv ≠ some (lineOf pa)) :
    coreAt s h f va (.storeCond n rd data) dvas pas = modHart s h (fun x => (x.xset rd 1).unreserve) := by
  simp only [coreAt, hpas, List.head?_cons, beq_eq_false_iff_ne.mpr hresv, Bool.false_eq_true, if_false]

section
variable {op : AtomOp} {a b : Nat} {o : State × Option Nat}
  (ho : cacheAtomic (breakResv s (dieOfHart h) (lineOf pa) (some h)) (dieOfHart h) pa n op (a % 2 ^ (8 * n)) (b % 2 ^ (8 * n))
    (some (groupOfHart h)) (some f) = o)
include ho

theorem coreAt_amo_poisoned (hp : o.2 = none) : coreAt s h f va (.amo op n rd a b) dvas pas =
    coreFault o.1 h causeStore va (ndfaultOf 2 0 (sectorVa dvas pas (sectorBase pa))) := by
  simp only [coreAt, hpas, List.head?_cons, ho, hp]
  rfl

theorem coreAt_amo {old : Nat} (hold : o.2 = some old) :
    coreAt s h f va (.amo op n rd a b) dvas pas = modHart o.1 h (fun x => x.amoSet rd n old) := by
  simp only [coreAt, hpas, List.head?_cons, ho, hold]

end

end

/-! ## An access that moves data -/

/-- An access of memory from the hart's own mode, as the statement names it. -/
def MovesData (acc : CoreAcc) : Prop := (∀ op n rd v, acc ≠ .csr op n rd v) ∧ acc ≠ .wrsNto ∧ acc ≠ .wrsSto ∧ acc ≠ .sret ∧
  (∀ rd a t, acc ≠ .vsetvl rd a t) ∧ (∀ m, acc ≠ .privilege m) ∧ (∀ e n as, acc ≠ .sbi e n as) ∧ acc ≠ .prefetch ∧
  (∀ n rd e, acc ≠ .hload n rd e) ∧ (∀ n d, acc ≠ .hstore n d)

def AmoLegal (acc : CoreAcc) : Prop := ∀ op n rd a b, acc = .amo op n rd a b → amoLegal op n = true

/-- Only cache-block operations are refused by the enables of their mode. -/
theorem cboRefused_amo (x : Hart) (op : AtomOp) (n rd a b : Nat) : cboRefused x (.amo op n rd a b) = none := by
  simp [cboRefused]

theorem amoLegal_of_cboRefused {x : Hart} {acc : CoreAcc} {cc : Nat} (hcbo : cboRefused x acc = some cc) : AmoLegal acc := by
  rintro op n rd a b rfl
  rw [cboRefused_amo] at hcbo
  cases hcbo

theorem exec_coreAccess (h va : Nat) (acc : CoreAcc) (s : State) : exec (.coreAccess h va acc) s = execCoreAccess h va acc s :=
  rfl

section
variable {s : State} {h f va : Nat} {acc : CoreAcc} (hr : hartRuns s h = some f)
include hr

theorem exec_amo_illegal (hamo : ¬AmoLegal acc) : exec (.coreAccess h va acc) s = .next (coreTrap s.drawn h 2 0) := by
  simp only [AmoLegal, Classical.not_forall] at hamo
  obtain ⟨op, n, rd, a, b, rfl, illegal⟩ := hamo
  rw [exec_coreAccess, execCoreAccess, hr, ← coreIllegal_zero]
  exact if_neg illegal

/-- An access that moves data is refused by the enables of its mode, or made. -/
theorem exec_movesData (hm : MovesData acc) (hamo : AmoLegal acc) : exec (.coreAccess h va acc) s =
    .next ((cboRefused (getHart s h) acc).elim (corePerform s h f va acc) (coreRefused s h)) := by
  rw [exec_coreAccess, execCoreAccess, hr]
  obtain ⟨csr, nto, sto, sret, vset, priv, sbi, pre, hload, hstore⟩ := hm
  cases acc with
  | amo op n rd a b =>
    rw [cboRefused_amo]
    exact if_pos (hamo op n rd a b rfl)
  | csr op n rd v => exact absurd rfl (csr op n rd v)
  | wrsNto => exact absurd rfl nto
  | wrsSto => exact absurd rfl sto
  | sret => exact absurd rfl sret
  | vsetvl rd a t => exact absurd rfl (vset rd a t)
  | privilege m => exact absurd rfl (priv m)
  | sbi e n as => exact absurd rfl (sbi e n as)
  | prefetch => exact absurd rfl pre
  | hload n rd e => exact absurd rfl (hload n rd e)
  | hstore n d => exact absurd rfl (hstore n d)
  | _ => dsimp only; cases cboRefused (getHart s h) _ <;> rfl

theorem exec_movesData_refused {cc : Nat} (hm : MovesData acc) (hcbo : cboRefused (getHart s h) acc = some cc) :
    exec (.coreAccess h va acc) s = .next (coreRefused s h cc) := by
  rw [exec_movesData hr hm (amoLegal_of_cboRefused hcbo), hcbo]
  rfl

theorem exec_movesData_performs (hm : MovesData acc) (hamo : AmoLegal acc) (hcbo : cboRefused (getHart s h) acc = none) :
    exec (.coreAccess h va acc) s = .next (corePerform s h f va acc) := by
  rw [exec_movesData hr hm hamo, hcbo]
  rfl

end

section
variable (s : State) (h f va : Nat) (acc : CoreAcc)

theorem corePerform_misaligned {cause : Nat} (ha : accAlign acc va = some cause) :
    corePerform s h f va acc = coreTrap s h cause va := by rw [corePerform, ha]

section
variable (ha : accAlign acc va = none)
include ha

theorem corePerform_mbox {off : Nat}
    (hm : mboxOffset (coreMmu h f (accKind acc) (accFault acc) (accStart acc va) (accSize acc) s).2 = some off) :
    corePerform s h f va acc =
      mboxAccess (coreMmu h f (accKind acc) (accFault acc) (accStart acc va) (accSize acc) s).1 h f off va acc := by
  simp only [corePerform, ha, hm]

theorem corePerform_reaches
    (hm : mboxOffset (coreMmu h f (accKind acc) (accFault acc) (accStart acc va) (accSize acc) s).2 = none) :
    let r := coreBoth h f (accKind acc) (accFault acc) (accStart acc va) (accSize acc) s
    corePerform s h f va acc = reachEnds r.1 h (.coreAccess h va acc) (accCause acc) va r.2.2
      (fun pas => coreAt r.1 h f va acc r.2.1 pas) := by
  intro r
  simp only [corePerform, ha, hm]
  rfl

end

end

/-- What is neither a load nor a store of the core mailbox faults there. -/
theorem mboxAccess_faults (s : State) (h f off va : Nat) (acc : CoreAcc) (hload : ∀ n rd, acc ≠ .load n rd)
    (hfload : ∀ n rd, acc ≠ .fload n rd) (hstore : ∀ n d, acc ≠ .store n d) :
    mboxAccess s h f off va acc = coreFault s h (accCause acc) va (ndfaultOf 0 0 (coreDevices + off)) := by
  cases acc with
  | load n rd => exact absurd rfl (hload n rd)
  | fload n rd => exact absurd rfl (hfload n rd)
  | store n d => exact absurd rfl (hstore n d)
  | _ => rfl

/-! ## Accesses as a guest (11 R369, RISC-V hypervisor loads and stores) -/

theorem guestPerform_reaches (s : State) (h f va : Nat) (acc : CoreAcc) :
    let own := (getHart s h).mode
    let guest := if bit ((getHart s h).csr 0x600) 8 then 2 else 3
    let b := coreBoth h f (accKind acc) (accFault acc) va (accSize acc) (modHart s h (fun x => { x with mode := guest }))
    let u := modHart b.1 h (fun x => { x with mode := own })
    guestPerform s h f va acc = reachEnds u h (.coreAccess h va acc) (accCause acc) va b.2.2
      (fun pas => coreAt u h f va acc b.2.1 pas) := rfl

section
variable {s : State} {h f va : Nat} {acc : CoreAcc} (hr : hartRuns s h = some f)
  (hguest : (∃ n rd e, acc = .hload n rd e) ∨ (∃ n d, acc = .hstore n d))
include hr hguest

/-- A hypervisor load or store is refused by its mode, or made as the guest's. -/
theorem exec_guest : exec (.coreAccess h va acc) s =
    .next ((guestRefused (getHart s h)).elim (guestPerform s h f va acc) (coreRefused s h)) := by
  rw [exec_coreAccess, execCoreAccess, hr]
  rcases hguest with ⟨n, rd, e, rfl⟩ | ⟨n, d, rfl⟩
  all_goals
    dsimp only
    cases guestRefused (getHart s h) <;> rfl

theorem exec_guest_refused {cc : Nat} (hno : guestRefused (getHart s h) = some cc) :
    exec (.coreAccess h va acc) s = .next (coreRefused s h cc) := by
  rw [exec_guest hr hguest, hno]
  rfl

theorem exec_guest_performs (hmay : guestRefused (getHart s h) = none) :
    exec (.coreAccess h va acc) s = .next (guestPerform s h f va acc) := by
  rw [exec_guest hr hguest, hmay]
  rfl

end

/-! ## Control registers (11 R369, R374, R385) -/

section
variable {s : State} {h num rd v : Nat} {op : CsrOp}

theorem csrPerform_refused {cc : Nat} (hno : csrRefused (getHart s h) num (op != .read) = some cc) :
    csrPerform s h op num rd v = coreRefused s h cc := by
  simp only [csrPerform, hno]
  rfl

section
variable (hmay : csrRefused (getHart s h) num (op != .read) = none)
include hmay

theorem csrPerform_missing (hgone : siregMissing (getHart s h) (csrNum (getHart s h) num) = true) :
    csrPerform s h op num rd v = coreTrap s.drawn h 2 0 := by
  rw [← coreIllegal_zero]
  simp only [csrPerform, hmay, hgone, if_true]

variable (hthere : siregMissing (getHart s h) (csrNum (getHart s h) num) = false)
include hthere

/-- The old value goes to rd, and the register takes what the instruction makes of it. -/
theorem csrPerform_plain (hplain : ¬(isCounter (csrNum (getHart s h) num) = true ∧ csrNum (getHart s h) num ≠ 0xC01)) :
    csrPerform s h op num rd v = modHart s h (fun y =>
      let k := csrNum (getHart s h) num
      let old := csrValue s (getHart s h) k
      (if op = .read then y else y.writeCsr k (csrNew op old v)).xset rd old) := by
  have plain : (isCounter (csrNum (getHart s h) num) && csrNum (getHart s h) num != 0xC01) = false := by
    simpa using hplain
  simp only [csrPerform, hmay, hthere, plain, Bool.false_eq_true, if_false]
  exact modHart_congr rfl

/-- An event or clock counter has counted on since it was last read. -/
theorem csrPerform_counter (hcounts : isCounter (csrNum (getHart s h) num) = true ∧ csrNum (getHart s h) num ≠ 0xC01) :
    csrPerform s h op num rd v = modHart s.drawn h (fun y =>
      let k := csrNum (getHart s h) num
      let z := y.count k (Config.freeNat s.free)
      let old := csrValue s.drawn ((getHart s h).count k (Config.freeNat s.free)) k
      (if op = .read then z else z.writeCsr k (csrNew op old v)).xset rd old) := by
  have counts : (isCounter (csrNum (getHart s h) num) && csrNum (getHart s h) num != 0xC01) = true := by
    simpa using hcounts
  simp only [csrPerform, hmay, hthere, counts, Bool.false_eq_true, if_false, if_true]
  exact modHart_congr rfl

end

end

/-- A counter that has counted on reads what it held and what it has counted, in 64 bits. -/
theorem csrValue_count (s : State) (x : Hart) {k : Nat} (n : Nat) (hk : isCounter k = true) (htime : k ≠ 0xC01) :
    csrValue s (x.count k n) k = (mapGetD x.hpm 0 (k - 0xC00) + n % 2 ^ 64) % 2 ^ 64 := by
  have hrange : 0xC00 ≤ k ∧ k ≤ 0xC1F := by simpa [isCounter] using hk
  have reads (y : Hart) : csrValue s y k = mapGetD y.hpm 0 (k - 0xC00) := by
    unfold csrValue
    repeat rw [if_neg (by omega)]
    exact if_pos hk
  have hpm : (x.count k n).hpm =
      mapSet x.hpm (k - 0xC00) ((mapGetD x.hpm 0 (k - 0xC00) + n % 2 ^ 64) % 2 ^ 64) := by
    unfold Hart.count Hart.overflow
    dsimp only
    split
    · split <;> rfl
    · rfl
  rw [reads, hpm, mapGetD_mapSet_self]

/-! ## The vector configuration (11 R379) -/

/-- The length lies within VLMAX, is the request where that fits, and VLMAX from twice VLMAX up. -/
theorem vsetPerform_sets {s : State} {h rd avl vt n : Nat} {x : Hart} (hx : mapGet s.harts h = some x) (hn : vlMax vt = some n) :
    ∃ y, mapGet (vsetPerform s h rd avl vt).harts h = some y ∧ y.vl ≤ n ∧ (avl ≤ n → y.vl = avl) ∧ (2 * n ≤ avl → y.vl = n) ∧
      y.vill = false ∧ y.sew = 8 * 2 ^ bits vt 5 3 := by
  let lo := ceilDiv avl 2
  let vl := if avl ≤ n then avl else if avl < 2 * n then lo + Config.freeNat s.free % (n - lo + 1) else n
  have rem : Config.freeNat s.free % (n - lo + 1) < n - lo + 1 := Nat.mod_lt _ (Nat.succ_pos _)
  have hlo : lo = (avl + 2 - 1) / 2 := rfl
  have bounds : vl ≤ n ∧ (avl ≤ n → vl = avl) ∧ (2 * n ≤ avl → vl = n) := by
    by_cases fits : avl ≤ n
    · have e : vl = avl := if_pos fits
      omega
    · by_cases between : avl < 2 * n
      · have e : vl = lo + Config.freeNat s.free % (n - lo + 1) := (if_neg fits).trans (if_pos between)
        omega
      · have e : vl = n := (if_neg fits).trans (if_neg between)
        omega
  refine ⟨Hart.xset (Hart.setCsr
    { x with vill := false, vl := vl, vstart := 0, sew := 8 * 2 ^ bits vt 5 3, lmul := signed 3 (bits vt 2 0) } 0xC21 vt) rd vl,
    ?_, ?_⟩
  · simp only [vsetPerform, hn, modHart_harts, drawn_harts, mapGet_mapMod_self, hx, Option.map_some]
    rfl
  · simp only [xset_vl, xset_vill, xset_sew, Hart.setCsr, and_true]
    exact bounds

/-! ## CWL (11 R382, R383) -/

theorem eq_of_mem_short {l : List Nat} (hl : l.length < 2) {a b : Nat} (ha : a ∈ l) (hb : b ∈ l) : a = b := by
  match l, hl with
  | [], _ => cases ha
  | [x], _ => rw [List.mem_singleton.mp ha, List.mem_singleton.mp hb]

theorem mem_groupWays {g i : Nat} (hi : i < 4) : g % 6 * 4 + i ∈ groupWays g :=
  List.mem_map.mpr ⟨i, List.mem_range.mpr hi, rfl⟩

/-- A group that has fewer than two ways locked has one of its ways left: no two of them are both locked. -/
theorem exists_unlocked_way {s : State} {g : Nat} (hfew : (lockedOf s g).length < 2) :
    (groupWays g).filter (fun w => !(lockedOf s g).contains w) ≠ [] := by
  intro gone
  have locked {w : Nat} (hw : w ∈ groupWays g) : w ∈ lockedOf s g := by
    have drops := List.filter_eq_nil_iff.mp gone w hw
    rw [Bool.not_eq_true, Bool.not_eq_false'] at drops
    exact List.contains_iff_mem.mp drops
  have same := eq_of_mem_short hfew (locked (mem_groupWays (i := 0) (by decide))) (locked (mem_groupWays (i := 1) (by decide)))
  omega

/-- CWL.LOCK once it has taken way `w`: the region is loaded, or the way is in normal use again. -/
def cwlInWay (s : State) (h f va len rd w : Nat) : State :=
  let g := groupOfHart h
  let u := { s.drawn with l3Locks := { die := dieOfHart h, way := w, group := g } :: s.l3Locks }
  let r := preload h f w va (lineStarts va len) u
  match r.2.2 with
  | .ok _ => modHart r.1 h (fun x => x.xset rd w)
  | .held => stallHart (unlockWay r.1 g w) h (.cwlLock h va len rd)
  | .denied nd => coreFault (unlockWay r.1 g w) h causeLoad (max va r.2.1) nd
  | .trap c a => coreTrap (unlockWay r.1 g w) h c (max va a)

/-- The region and the ways that CWL.LOCK needs. -/
def CwlFits (s : State) (h f va len : Nat) : Prop :=
  len ≠ 0 ∧ len ≤ 2 ^ 22 ∧ (lockedOf s (groupOfHart h)).length < 2 ∧ regionInEntry s h f va len = true ∧
    ∀ d, deviceVa s h f va = some d → d < coreDevices

theorem not_cwlFits_iff (s : State) (h f va len : Nat) : ¬CwlFits s h f va len ↔
    len = 0 ∨ len > 2 ^ 22 ∨ (lockedOf s (groupOfHart h)).length ≥ 2 ∨ regionInEntry s h f va len = false ∨
      (deviceVa s h f va).any (coreDevices ≤ ·) = true := by
  have devices : (deviceVa s h f va).any (coreDevices ≤ ·) = true ↔ ¬∀ d, deviceVa s h f va = some d → d < coreDevices := by
    cases deviceVa s h f va <;> simp
  rw [devices, ← Bool.not_eq_true]
  unfold CwlFits
  simp only [Classical.not_and_iff_not_or_not, Classical.not_not, Nat.not_le, Nat.not_lt, ne_eq]

theorem cwlPerform_fails {s : State} {h f va len rd : Nat} (hno : ¬CwlFits s h f va len) :
    cwlPerform s h f va len rd = modHart s h (fun x => x.xset rd (2 ^ 64 - 1)) :=
  if_pos ((not_cwlFits_iff ..).mp hno)

/-- Some free way of the group is drawn. -/
theorem cwlPerform_way {s : State} {h f va len rd : Nat}
    (hfits : CwlFits s h f va len) :
    ∃ w ∈ groupWays (groupOfHart h), w ∉ lockedOf s (groupOfHart h) ∧
      cwlPerform s h f va len rd = cwlInWay s h f va len rd w := by
  let free := (groupWays (groupOfHart h)).filter (fun w => !(lockedOf s (groupOfHart h)).contains w)
  let k := Config.freeNat s.free % free.length
  have ⟨_, _, few, _, _⟩ := hfits
  have inside : k < free.length := Nat.mod_lt _ (List.length_pos_iff.mpr (exists_unlocked_way few))
  have drawn : free.getD k 0 ∈ free := by
    rw [List.getD_eq_getElem?_getD, List.getElem?_eq_getElem inside]
    exact List.getElem_mem inside
  obtain ⟨here, unlocked⟩ := List.mem_filter.mp drawn
  refine ⟨free.getD k 0, here, by simpa using unlocked, ?_⟩
  have passes := mt (not_cwlFits_iff ..).mpr (not_not_intro hfits)
  exact if_neg passes

/-! ## What the other instructions of a hart do -/

section
variable {s : State} {h f : Nat} (hr : hartRuns s h = some f) (va : Nat)
include hr

theorem exec_csr (op : CsrOp) (n rd v : Nat) :
    exec (.coreAccess h va (.csr op n rd v)) s = .next (csrPerform s h op n rd v) := by
  rw [exec_coreAccess, execCoreAccess, hr]

theorem exec_wrsNto : exec (.coreAccess h va .wrsNto) s = .next (wrsPerform s h) := by
  rw [exec_coreAccess, execCoreAccess, hr]

theorem exec_sret : exec (.coreAccess h va .sret) s = .next (sretPerform s h) := by
  rw [exec_coreAccess, execCoreAccess, hr]

theorem exec_vsetvl (rd avl vt : Nat) : exec (.coreAccess h va (.vsetvl rd avl vt)) s = .next (vsetPerform s h rd avl vt) := by
  rw [exec_coreAccess, execCoreAccess, hr]

theorem exec_privilege (k : Nat) :
    exec (.coreAccess h va (.privilege k)) s = .next (modHart s h (fun x => { x with mode := k % 4 })) := by
  rw [exec_coreAccess, execCoreAccess, hr]

theorem exec_sbi (e n : Nat) (as : List Nat) :
    exec (.coreAccess h va (.sbi e n as)) s = .next (sbiPerform s h f e n as) := by
  rw [exec_coreAccess, execCoreAccess, hr]

theorem exec_prefetch : exec (.coreAccess h va .prefetch) s = .next s := by
  rw [exec_coreAccess, execCoreAccess, hr]

theorem exec_wrsSto : exec (.coreAccess h va .wrsSto) s = .next s := by
  rw [exec_coreAccess, execCoreAccess, hr]

theorem exec_zlineL3 : exec (.zlineL3 h va) s = .next (zlinePerform s h f va) := by
  change execZlineL3 h va s = _
  rw [execZlineL3, hr]

end

theorem sretPerform_user {s : State} {h : Nat} (hmode : (getHart s h).mode = 0) : sretPerform s h = coreTrap s.drawn h 2 0 := by
  rw [← coreIllegal_zero]
  exact if_pos hmode

theorem sretPerform_guest {s : State} {h : Nat}
    (hmode : (getHart s h).mode = 3 ∨ (getHart s h).mode = 2 ∧ bit ((getHart s h).csr 0x600) 22 = true) :
    sretPerform s h = coreTrap s h 22 0 := by
  have user : (getHart s h).mode ≠ 0 := by omega
  simp only [sretPerform, if_neg user]
  exact if_pos (by simpa using hmode)

theorem sretPerform_returns {s : State} {h : Nat}
    (hmode : (getHart s h).mode = 1 ∨ (getHart s h).mode = 2 ∧ bit ((getHart s h).csr 0x600) 22 = false) :
    sretPerform s h = modHart s h Hart.sret := by
  have user : (getHart s h).mode ≠ 0 := by omega
  simp only [sretPerform, if_neg user]
  refine if_neg ?_
  rcases hmode with hmode | ⟨hmode, hmay⟩
  · simp [hmode]
  · simp [hmode, hmay]

theorem zlinePerform_misaligned {s : State} {h f va : Nat} (ha : va % 128 ≠ 0) : zlinePerform s h f va = coreTrap s h 6 va :=
  if_pos ha

theorem zlinePerform_reaches {s : State} {h f va : Nat} (ha : va % 128 = 0) :
    zlinePerform s h f va = reachEnds (coreBoth h f 1 1 va 128 s).1 h (.zlineL3 h va) 7 va (coreBoth h f 1 1 va 128 s).2.2
      (fun pas => coreWritePas h pas (List.replicate 128 0#8) (coreBoth h f 1 1 va 128 s).1) :=
  if_neg (not_not_intro ha)

section
variable {s : State} {h f : Nat} (hr : hartRuns s h = some f)
include hr

theorem exec_cwlLock_refused (hmode : ¬((getHart s h).mode = 1 ∨ (getHart s h).mode = 2)) (va len rd : Nat) :
    exec (.cwlLock h va len rd) s = .next (coreTrap s.drawn h 2 0) := by
  change execCwlLock h va len rd s = _
  rw [execCwlLock, hr, ← coreIllegal_zero]
  exact if_neg (by simpa [cwlLegal] using hmode)

theorem exec_cwlUnlock_refused (hmode : ¬((getHart s h).mode = 1 ∨ (getHart s h).mode = 2)) (way : Nat) :
    exec (.cwlUnlock h way) s = .next (coreTrap s.drawn h 2 0) := by
  change execCwlUnlock h way s = _
  rw [execCwlUnlock, hr, ← coreIllegal_zero]
  exact if_neg (by simpa [cwlLegal] using hmode)

theorem exec_cwlLock (hmode : (getHart s h).mode = 1 ∨ (getHart s h).mode = 2) (va len rd : Nat) :
    exec (.cwlLock h va len rd) s = .next (cwlPerform s h f va len rd) := by
  change execCwlLock h va len rd s = _
  rw [execCwlLock, hr]
  exact if_pos (by simpa [cwlLegal] using hmode)

theorem exec_cwlUnlock (hmode : (getHart s h).mode = 1 ∨ (getHart s h).mode = 2) (way : Nat) :
    exec (.cwlUnlock h way) s = .next (unlockWay s (groupOfHart h) way) := by
  change execCwlUnlock h way s = _
  rw [execCwlUnlock, hr]
  exact if_pos (by simpa [cwlLegal] using hmode)

end

/-- How CWL.LOCK ends in the way it has taken. -/
theorem cwlInWay_cases {c : Instr} {s : State} {h f va len rd w : Nat} (he : exec c s = .next (cwlInWay s h f va len rd w)) :
    let u := { s.drawn with l3Locks := { die := dieOfHart h, way := w, group := groupOfHart h } :: s.l3Locks }
    let r := preload h f w va (lineStarts va len) u
    let back := unlockWay r.1 (groupOfHart h) w
    (∀ pas, r.2.2 = .ok pas → exec c s = .next (modHart r.1 h (fun x => x.xset rd w))) ∧
    (r.2.2 = .held → exec c s = .next (stallHart back h (.cwlLock h va len rd))) ∧
    (∀ cc a, r.2.2 = .trap cc a → exec c s = .next (coreTrap back h cc (max va a))) ∧
    (∀ nd, r.2.2 = .denied nd → exec c s = .next (coreFault back h causeLoad (max va r.2.1) nd)) := by
  intro u r back
  unfold cwlInWay at he
  refine ⟨fun pas e => ?_, fun e => ?_, fun cc a e => ?_, fun nd e => ?_⟩
  all_goals
    dsimp only [r, u] at e
    simp only [he, e]
    rfl

/-- Settles O53: each kind of access by what its alignment, its address and its translation come to, the other instructions by
their own effects. What is the model's in it: what exceptions and SRET do to the registers (notes/assumptions/75.md, with 74,
76 and 123), the alignment of atomics and the extension of what is loaded (77.md), the faults of the mailbox region (78.md), the
way that CWL.LOCK takes (79.md) and what ATOMICS counts (117.md). -/
theorem coreAccessesAreTranslatedAndPerformed : Obligations.CoreAccessesAreTranslatedAndPerformed := by
  unfold Obligations.CoreAccessesAreTranslatedAndPerformed
  refine ⟨xget_xset, fun x cause stval epc => ?trap, fun x _ => sret_returns x, ?access, ?zline, ?cwl⟩
  case trap =>
    obtain ⟨hcause, hstval, hx, hf, hv, hnd⟩ := trap_registers x cause stval epc
    exact ⟨hcause, hstval, hx, hf, hv, hnd, trap_enters x cause stval epc⟩
  case access =>
    intro h f va acc s hr c g die becomes traps faults illegal refused amoGood moves legal m r
    have performs : legal → exec c s = .next (corePerform s h f va acc) :=
      fun ⟨hm, hamo, hcbo⟩ => exec_movesData_performs hr hm hamo hcbo
    refine ⟨exec_amo_illegal hr, fun cc hm hcbo => coreRefused_cases (exec_movesData_refused hr hm hcbo),
      fun hl cause ha => (performs hl).trans (congrArg _ (corePerform_misaligned s h f va acc ha)), fun off hl ha hoff => ?mbox,
      fun hl ha hoff => ?reaches, fun hguest => ?guest, ?csr, ?wrs, ?sret, ?vset, ?priv, ?idle⟩
    case mbox =>
      have he := (performs hl).trans (congrArg _ (corePerform_mbox s h f va acc ha hoff))
      refine ⟨?_, ?_, ?_, fun hload hfload hstore => ?_⟩
      · rintro n rd rfl
        exact he
      · rintro n rd rfl
        exact he
      · rintro n d rfl
        exact he
      · exact he.trans (congrArg _ (mboxAccess_faults m.1 h f off va acc hload hfload hstore))
    case reaches =>
      obtain ⟨held, denied, trapped, made⟩ :=
        reachEnds_cases ((performs hl).trans (congrArg _ (corePerform_reaches s h f va acc ha hoff)))
      refine ⟨held, denied, trapped, fun pas hpas => ?_⟩
      have he := made pas hpas
      intro d poisoned loads
      refine ⟨?loads, ?floads, ?vloads, ?fetches, ?stores, ?zeroes, ?keeps, ?reserves, ?storesCond, ?atomics⟩
      case loads =>
        rintro n rd rfl
        exact readEnds_cases (he.trans (congrArg _ (coreAt_load ..)))
      case floads =>
        rintro n rd rfl
        exact readEnds_cases (he.trans (congrArg _ (coreAt_fload ..)))
      case vloads =>
        rintro n rd rfl
        exact readEnds_cases (he.trans (congrArg _ (coreAt_vload ..)))
      case fetches =>
        rintro n rfl
        exact readEnds_cases (he.trans (congrArg _ (coreAt_fetch ..)))
      case stores =>
        rintro n data (rfl | rfl)
        · exact he
        · exact he
      case zeroes =>
        rintro rfl
        exact he
      case keeps =>
        rintro (rfl | rfl | rfl)
        · exact he
        · exact he
        · exact he
      case reserves =>
        rintro n rd pa m rest rfl first
        exact ⟨fun hp => he.trans (congrArg _ (coreAt_loadReserved_poisoned first rfl hp)),
          fun hp => he.trans (congrArg _ (coreAt_loadReserved first rfl hp))⟩
      case storesCond =>
        rintro n rd data pa m rest rfl first
        exact ⟨fun won => he.trans (congrArg _ (coreAt_storeCond_won first won)),
          fun lost => he.trans (congrArg _ (coreAt_storeCond_lost first lost))⟩
      case atomics =>
        rintro op n rd a b pa m rest rfl first
        exact ⟨fun gone => he.trans (congrArg _ (coreAt_amo_poisoned first rfl gone)),
          fun old read => he.trans (congrArg _ (coreAt_amo first rfl read))⟩
    case guest =>
      refine ⟨fun cc hno => coreRefused_cases (exec_guest_refused hr hguest hno), fun hmay => ?_⟩
      intro own guest b u
      obtain ⟨held, denied, trapped, made⟩ :=
        reachEnds_cases ((exec_guest_performs hr hguest hmay).trans (congrArg _ (guestPerform_reaches s h f va acc)))
      refine ⟨held, denied, trapped, fun pas hpas => ⟨?_, ?_⟩⟩
      · rintro n data rfl
        exact made pas hpas
      · rintro n rd e rfl
        exact readEnds_cases ((made pas hpas).trans (congrArg _ (coreAt_hload ..)))
    case csr =>
      rintro op n rd v rfl
      have he := exec_csr hr va op n rd v
      refine ⟨fun cc hno => coreRefused_cases (he.trans (congrArg _ (csrPerform_refused hno))),
        fun hmay hgone => he.trans (congrArg _ (csrPerform_missing hmay hgone)),
        fun hmay hthere => ⟨fun hplain => he.trans (congrArg _ (csrPerform_plain hmay hthere hplain)), ?_⟩,
        rfl, rfl, rfl, rfl⟩
      rintro ⟨hcounter, htime⟩
      rw [← csrValue_count s.drawn _ _ hcounter htime]
      exact he.trans (congrArg _ (csrPerform_counter hmay hthere ⟨hcounter, htime⟩))
    case wrs =>
      rintro rfl
      exact exec_wrsNto hr va
    case sret =>
      rintro rfl
      have he := exec_sret hr va
      exact ⟨fun hmode => he.trans (congrArg _ (sretPerform_user hmode)),
        fun hmode => he.trans (congrArg _ (sretPerform_guest hmode)),
        fun hmode => he.trans (congrArg _ (sretPerform_returns hmode))⟩
    case vset =>
      rintro rd avl vt n rfl hn
      obtain ⟨y, hy, sets⟩ := vsetPerform_sets (mapGet_of_hartRuns hr) hn
      exact ⟨_, y, exec_vsetvl hr va rd avl vt, hy, sets⟩
    case priv =>
      rintro k rfl
      exact exec_privilege hr va k
    case idle =>
      rintro (rfl | rfl)
      · exact exec_prefetch hr va
      · exact exec_wrsSto hr va
  case zline =>
    intro h f va s hr r trapped
    have he := exec_zlineL3 hr va
    exact ⟨fun ha => he.trans (congrArg _ (zlinePerform_misaligned ha)),
      fun ha => reachEnds_cases (he.trans (congrArg _ (zlinePerform_reaches ha)))⟩
  case cwl =>
    intro h f va len rd way s hr g c legal illegal fits
    refine ⟨fun hmode => ⟨exec_cwlLock_refused hr hmode va len rd, exec_cwlUnlock_refused hr hmode way⟩,
      fun hmode => exec_cwlUnlock hr hmode way, fun hmode hno => ?_, fun hmode hfits => ?_⟩
    · exact (exec_cwlLock hr hmode va len rd).trans (congrArg _ (cwlPerform_fails hno))
    · obtain ⟨w, here, unlocked, inWay⟩ := cwlPerform_way (rd := rd) hfits
      exact ⟨w, here, unlocked, cwlInWay_cases ((exec_cwlLock hr hmode va len rd).trans (congrArg _ inWay))⟩

end Sys2Proof.Machine
end

section
/-! PROOFS. Conversions of a hart, and the calls of the core monitor (11 R370, R371, R379 to R381, R384, Table 11.5). -/

namespace Sys2Proof.Machine

open Sys2Proof

/-! ## Conversions (11 R379 to R381) -/

/-- Whether stval holds the word of an illegal instruction is open. -/
theorem coreIllegal_word (s : State) (h w : Nat) : ∃ v, (v = w ∨ v = 0) ∧ coreIllegal s h w = coreTrap s.drawn h 2 v := by
  refine ⟨if Config.freeBool s.free then w else 0, ?_, rfl⟩
  split
  · exact .inl rfl
  · exact .inr rfl

section
variable {s : State} {h f w : Nat} (hr : hartRuns s h = some f)
include hr

theorem exec_ncvt_illegal (hill : cvIllegal (getHart s h) w false = true) : exec (.ncvt h w) s = .next (coreIllegal s h w) := by
  change execNcvt h w s = _
  rw [execNcvt, hr]
  exact if_pos hill

theorem exec_nscale_illegal (hill : cvIllegal (getHart s h) w true = true) :
    exec (.nscale h w) s = .next (coreIllegal s h w) := by
  change execNscale h w s = _
  rw [execNscale, hr]
  exact if_pos hill

theorem exec_ncvt (hlegal : cvIllegal (getHart s h) w false = false) : exec (.ncvt h w) s = .next (ncvtPerform s h w) := by
  change execNcvt h w s = _
  rw [execNcvt, hr]
  exact if_neg (by simp [hlegal])

theorem exec_nscale (hlegal : cvIllegal (getHart s h) w true = false) : exec (.nscale h w) s = .next (nscalePerform s h w) := by
  change execNscale h w s = _
  rw [execNscale, hr]
  exact if_neg (by simp [hlegal])

theorem ncvtPerform_hart :
    let x := getHart s h
    let rs := (List.range x.vl).map (fun i => cvTarget x w i s.free)
    mapGet (ncvtPerform s h w).harts h = some { x with
      vregs := writeBytes x.vregs (64 * cvVd w) (packElems (typeBits (cvDfmt w)) (rs.map (·.1)))
      fflags := rs.foldl (fun a r => Nat.lor a r.2) x.fflags } := by
  intro x rs
  simp only [ncvtPerform, modHart_harts, mapGet_mapMod_self, mapGet_of_hartRuns hr]
  rfl

theorem nscalePerform_hart {m : FloatFmt} (hm : typeKind (cvDfmt w) = some (.scaled m)) :
    let x := getHart s h
    let out := (List.range (x.vl / 32)).map (fun k =>
      BitVec.ofNat 8 (chooseScale m .away ((List.range 32).map (fun j => cvSource x w (32 * k + j)))))
    mapGet (nscalePerform s h w).harts h = some { x with vregs := writeBytes x.vregs (64 * cvVd w) out } := by
  intro x out
  simp only [nscalePerform, modHart_harts, mapGet_mapMod_self, mapGet_of_hartRuns hr, hm]
  rfl

end

/-! ## Calls of the core monitor (11 R370, R371, R384) -/

/-- A call answers in a0 and a1. -/
theorem sbiReturn_answers {s : State} {h : Nat} (err val : Nat) (hthere : (mapGet s.harts h).isSome = true) :
    (getHart (sbiReturn s h err val) h).xget 10 = err % 2 ^ 64 ∧
      (getHart (sbiReturn s h err val) h).xget 11 = val % 2 ^ 64 := by
  rw [sbiReturn, getHart_modHart _ hthere]
  exact ⟨by simp [xget_xset], by simp [xget_xset]⟩

theorem mapGet_sbiReturn_ne (s : State) {h k : Nat} (err val : Nat) (hk : k ≠ h) :
    mapGet (sbiReturn s h err val).harts k = mapGet s.harts k := mapGet_mapMod_ne _ _ hk

theorem HartsOnly.sbiReturn {s t : State} (ht : HartsOnly s t) (h err val : Nat) :
    HartsOnly s (Machine.sbiReturn t h err val) := by
  unfold HartsOnly Machine.sbiReturn modHart
  rw [ht]

/-! ### IPI (11 R384) -/

theorem goOn_pending (x : Hart) (h : Nat) : (x.goOn h).pending = x.pending := by
  unfold Hart.goOn
  dsimp only
  split
  · split
    · rfl
    · rw [xset_pending, xset_pending]
  · rfl

theorem woken_pending (x : Hart) (h : Nat) : (x.woken h).pending = x.pending := by
  unfold Hart.woken
  split
  · exact goOn_pending x h
  · rfl

/-- A signal leaves pending what was, and makes its identity pending in a hart that is there. -/
theorem signalHart_pending {s : State} {t k ident : Nat} (hthere : (mapGet s.harts k).isSome = true)
    (hp : ident ∈ (getHart s k).pending ∨ k = t) : ident ∈ (getHart (signalHart s t ident) k).pending := by
  unfold signalHart
  by_cases e : k = t
  · subst e
    rw [getHart_modHart _ hthere, woken_pending]
    split
    · rename_i h
      simpa using h
    · exact List.mem_append_right _ (List.mem_singleton.mpr rfl)
  · rw [getHart_modHart_ne s _ e]
    exact hp.resolve_right e

theorem isSome_signalHart (s : State) (t ident k : Nat) :
    (mapGet (signalHart s t ident).harts k).isSome = (mapGet s.harts k).isSome := isSome_modHart ..

theorem isSome_signalHarts (ts : List Nat) (s : State) (ident k : Nat) :
    (mapGet (ts.foldl (fun s t => signalHart s t ident) s).harts k).isSome = (mapGet s.harts k).isSome := by
  induction ts generalizing s with
  | nil => rfl
  | cons t ts ih => rw [List.foldl_cons, ih, isSome_signalHart]

theorem signalHarts_pending (ts : List Nat) {s : State} {ident k : Nat} (hthere : (mapGet s.harts k).isSome = true)
    (hp : ident ∈ (getHart s k).pending ∨ k ∈ ts) :
    ident ∈ (getHart (ts.foldl (fun s t => signalHart s t ident) s) k).pending := by
  induction ts generalizing s with
  | nil => exact hp.resolve_right List.not_mem_nil
  | cons t ts ih =>
    refine ih ((isSome_signalHart ..).trans hthere) ?_
    rcases hp with hp | hp
    · exact .inl (signalHart_pending hthere (.inl hp))
    · rcases List.mem_cons.mp hp with e | hp
      · exact .inl (signalHart_pending hthere (.inr e))
      · exact .inr hp

theorem sbiReturn_pending (s : State) (h err val k : Nat) :
    (getHart (sbiReturn s h err val) k).pending = (getHart s k).pending :=
  getHart_modHart_kept (·.pending) (fun x => by rw [xset_pending, xset_pending]) s h k

/-! ### SRST (11 R370) -/

theorem mem_hartsOf {g k : Nat} : k ∈ hartsOf g ↔ groupOfHart k = g := by
  simp only [hartsOf, groupOfHart, List.mem_map, List.mem_range]
  constructor
  · rintro ⟨i, hi, rfl⟩
    omega
  · rintro rfl
    exact ⟨k % 8, by omega, by omega⟩

theorem haltGroups_eq (gs : List Nat) (s : State) :
    gs.foldl haltGroup s = (gs.flatMap hartsOf).foldl (fun s h => modHart s h Hart.halt) s := by
  rw [List.foldl_flatMap]
  rfl

/-- A hart that is halted is stopped; one that is not there reads as stopped. -/
theorem halted_stops (s : State) (k : Nat) : (getHart (modHart s k Hart.halt) k).st = .stopped := by
  unfold getHart mapGetD
  rw [modHart_harts, mapGet_mapMod_self]
  cases mapGet s.harts k <;> rfl

theorem halts_stop (l : List Nat) {s : State} {k : Nat} (h : (getHart s k).st = .stopped ∨ k ∈ l) :
    (getHart (l.foldl (fun s h => modHart s h Hart.halt) s) k).st = .stopped := by
  induction l generalizing s with
  | nil => exact h.resolve_right List.not_mem_nil
  | cons a l ih =>
    refine ih ?_
    by_cases e : k = a
    · subst e
      exact .inl (halted_stops s k)
    · rw [getHart_modHart_ne s _ e]
      exact h.imp_right (fun m => (List.mem_cons.mp m).resolve_left e)

theorem mapGet_halts_ne (l : List Nat) (s : State) {k : Nat} (h : k ∉ l) :
    mapGet (l.foldl (fun s h => modHart s h Hart.halt) s).harts k = mapGet s.harts k := by
  induction l generalizing s with
  | nil => rfl
  | cons a l ih =>
    rw [List.mem_cons, not_or] at h
    rw [List.foldl_cons, ih _ h.2, modHart_harts, mapGet_mapMod_ne _ _ h.1]

/-! ### Entropy (11 R370) -/

theorem entropy32_length (s : State) : (entropy32 s).2.length = 32 := by simp [entropy32]

theorem entropyPerform_reaches (s : State) (h f va : Nat) :
    let r := coreBoth h f 1 1 va 32 s
    entropyPerform s h f va = reachEnds r.1 h (.sbiEntropy h va) causeStore va r.2.2
      (fun pas => sbiReturn (coreWritePas h pas (entropy32 r.1).2 r.1.drawn) h sbiOk 0) := rfl

/-! ### The calls -/

section
variable {s : State} {h f : Nat} (hr : hartRuns s h = some f)
include hr

theorem exec_sbiIpi {ts : List Nat} (hsame : sameFormeHarts s f ts = true) :
    exec (.sbiIpi h ts) s = .next (sbiReturn (ts.foldl (fun s t => signalHart s t 1) s) h sbiOk 0) := by
  change execSbiIpi h ts s = _
  rw [execSbiIpi, hr]
  exact if_pos hsame

theorem exec_sbiIpi_invalid {ts : List Nat} (hother : sameFormeHarts s f ts = false) :
    exec (.sbiIpi h ts) s = .next (sbiReturn s h sbiInvalidParam 0) := by
  change execSbiIpi h ts s = _
  rw [execSbiIpi, hr]
  exact if_neg (by simp [hother])

theorem exec_sbiRfence (ts : List Nat) : exec (.sbiRfence h ts) s =
    .next (sbiReturn s h (if sameFormeHarts s f ts then sbiOk else sbiInvalidParam) 0) := by
  change execSbiRfence h ts s = _
  rw [execSbiRfence, hr]

theorem exec_sbiHsm_stop (e a : Nat) : exec (.sbiHsm h h false e a) s = .next (modHart s h Hart.halt) := by
  change execSbiHsm h h false e a s = _
  rw [execSbiHsm, hr]
  exact (if_pos rfl).trans (if_pos rfl)

theorem exec_sbiHsm_stop_other {k : Nat} (hk : k ≠ h) (e a : Nat) :
    exec (.sbiHsm h k false e a) s = .next (sbiReturn s h sbiInvalidParam 0) := by
  change execSbiHsm h k false e a s = _
  rw [execSbiHsm, hr]
  exact if_neg hk

section
variable {k : Nat} (e a : Nat)

theorem exec_sbiHsm_invalid (hmay : (sameFormeHarts s f [k] && s.groupsRunning.contains (groupOfHart k)) = false) :
    exec (.sbiHsm h k true e a) s = .next (sbiReturn s h sbiInvalidParam 0) := by
  change execSbiHsm h k true e a s = _
  have mayNot : (!sameFormeHarts s f [k] || !s.groupsRunning.contains (groupOfHart k)) = true := by
    rw [← Bool.not_and, hmay]
    rfl
  rw [execSbiHsm, hr]
  exact (if_neg Bool.false_ne_true).trans (if_pos mayNot)

variable (hmay : (sameFormeHarts s f [k] && s.groupsRunning.contains (groupOfHart k)) = true)
include hmay

/-- A hart that the caller may start is started where it is stopped. -/
theorem exec_sbiHsm_start : exec (.sbiHsm h k true e a) s =
    .next (if (getHart s k).st = .stopped then sbiReturn (modHart s k (fun x => x.begin k e a)) h sbiOk 0
      else sbiReturn s h sbiAlreadyAvailable 0) := by
  change execSbiHsm h k true e a s = _
  rw [execSbiHsm, hr]
  have may : (!sameFormeHarts s f [k] || !s.groupsRunning.contains (groupOfHart k)) = false := by
    rw [← Bool.not_and, hmay]
    rfl
  by_cases stopped : (getHart s k).st = .stopped
  · simp only [may, stopped, bne_self_eq_false, Bool.not_true, Bool.false_eq_true, if_false, if_true]
  · simp only [may, bne_iff_ne.mpr stopped, stopped, Bool.not_true, Bool.false_eq_true, if_false, if_true]

end

theorem exec_sbiSrst {x : Forme} (hx : getForme s f = some x) : exec (.sbiSrst h) s = .next (x.groups.foldl haltGroup s) := by
  change execSbiSrst h s = _
  rw [execSbiSrst, hr]
  dsimp only
  rw [hx]

theorem exec_sbiEntropy (va : Nat) : exec (.sbiEntropy h va) s = .next (entropyPerform s h f va) := by
  change execSbiEntropy h va s = _
  rw [execSbiEntropy, hr]

end

/-- TIME sets stimecmp. -/
theorem sbiPerform_time (s : State) (h f v : Nat) : sbiPerform s h f 0x54494D45 0 [v] =
    sbiReturn (modHart s h (fun x => x.setCsr 0x14D v)) h sbiOk 0 := rfl

theorem sbiPerform_status {s : State} {h f k : Nat} (hsame : sameFormeHarts s f [k] = true) :
    sbiPerform s h f 0x48534D 2 [k] = sbiReturn s h sbiOk (hsmStatus (getHart s k)) := by
  have status : sbiPerform s h f 0x48534D 2 [k] =
      if sameFormeHarts s f [k] then sbiReturn s h sbiOk (hsmStatus (getHart s k)) else sbiReturn s h sbiInvalidParam 0 := rfl
  rw [status, if_pos hsame]

theorem hsmStatus_lt (x : Hart) : hsmStatus x < 2 ^ 64 := by
  unfold hsmStatus
  split <;> decide

/-- A started hart: running in S-mode at its entry, its ID in a0 and the argument in a1 (11 R371). -/
theorem begin_starts (x : Hart) (k e a : Nat) : (x.begin k e a).st = .running ∧ (x.begin k e a).pc = e ∧
    (x.begin k e a).mode = 1 ∧ (x.begin k e a).xget 10 = k % 2 ^ 64 ∧ (x.begin k e a).xget 11 = a % 2 ^ 64 := by
  unfold Hart.begin
  refine ⟨by simp, by simp, by simp, by simp [xget_xset], by simp [xget_xset]⟩

/-- Settles O54: the two conversions by whether R380 makes them illegal, each call by the hart it names. What is the model's in it:
which harts HSM starts and stops and what SRST leaves (notes/assumptions/81.md), the registers and tail bytes of the conversions
(80.md), and the numbers of the calls (123.md). -/
theorem conversionsAndMonitorCallsAnswer : Obligations.ConversionsAndMonitorCallsAnswer := by
  unfold Obligations.ConversionsAndMonitorCallsAnswer
  refine ⟨?conversions, ?calls⟩
  case conversions =>
    intro h f w s hr x illegal
    have traps {c : Instr} (he : exec c s = .next (coreIllegal s h w)) : illegal c := by
      obtain ⟨v, hv, hw⟩ := coreIllegal_word s h w
      exact ⟨v, hv, he.trans (congrArg _ hw)⟩
    exact ⟨fun hill => traps (exec_ncvt_illegal hr hill), fun hill => traps (exec_nscale_illegal hr hill),
      fun hlegal => ⟨_, exec_ncvt hr hlegal, ncvtPerform_hart hr, rfl, fun k hk => mapGet_mapMod_ne _ _ hk⟩,
      fun hlegal m hm => ⟨_, exec_nscale hr hlegal, nscalePerform_hart hr hm, rfl, fun k hk => mapGet_mapMod_ne _ _ hk⟩⟩
  case calls =>
    intro h f s hr returns frame
    have there : (mapGet s.harts h).isSome = true := by rw [mapGet_of_hartRuns hr]; rfl
    have answers {t : State} (err : Nat) (hlt : err < 2 ^ 64) (ht : (mapGet t.harts h).isSome = true) :
        returns (sbiReturn t h err 0) err := by
      obtain ⟨a0, a1⟩ := sbiReturn_answers err 0 ht
      exact ⟨a0.trans (Nat.mod_eq_of_lt hlt), a1⟩
    refine ⟨fun ts hsame => ?ipi, fun ts hother => ?ipiInvalid, fun ts => ?rfence, fun k e a => ?stop, fun k e a => ?start,
      fun x hx => ?srst, fun va v => ?time, fun va k hsame => ?status, fun va => ?entropy⟩
    case ipi =>
      refine ⟨_, exec_sbiIpi hr hsame, ?_, answers 0 (by decide) ((isSome_signalHarts ..).trans there), fun k hk hthere => ?_⟩
      · exact (HartsOnly.foldl (f := fun s t => signalHart s t 1) (fun _ _ => rfl) ts s).sbiReturn ..
      · rw [sbiReturn_pending]
        exact signalHarts_pending ts hthere (.inr hk)
    case ipiInvalid =>
      exact ⟨_, exec_sbiIpi_invalid hr hother, rfl, answers _ (by decide) there, fun k hk => mapGet_sbiReturn_ne s _ _ hk⟩
    case rfence =>
      refine ⟨_, exec_sbiRfence hr ts, rfl, answers _ ?_ there, fun k hk => mapGet_sbiReturn_ne s _ _ hk⟩
      split <;> decide
    case stop =>
      by_cases hk : k = h
      · subst hk
        exact ⟨_, exec_sbiHsm_stop hr e a, rfl, fun _ => halted_stops s k, fun other => absurd rfl other,
          fun j hj => mapGet_mapMod_ne _ _ hj⟩
      · exact ⟨_, exec_sbiHsm_stop_other hr hk e a, rfl, fun same => absurd same hk, fun _ => answers _ (by decide) there,
          fun j hj => mapGet_sbiReturn_ne s _ _ hj⟩
    case start =>
      cases hmay : sameFormeHarts s f [k] && s.groupsRunning.contains (groupOfHart k) with
      | false =>
        exact ⟨_, exec_sbiHsm_invalid hr e a hmay, rfl, fun _ => answers _ (by decide) there, nofun, nofun⟩
      | true =>
        have he := exec_sbiHsm_start hr e a hmay
        by_cases stopped : (getHart s k).st = .stopped
        · rw [if_pos stopped] at he
          have apart : k ≠ h := by
            rintro rfl
            rw [running_of_hartRuns hr] at stopped
            cases stopped
          refine ⟨_, he, rfl, nofun, fun _ runs => absurd stopped runs,
            fun _ _ => ⟨answers _ (by decide) ((isSome_modHart ..).trans there), fun hthere => ?_⟩⟩
          rw [sbiReturn, getHart_modHart_ne _ _ apart, getHart_modHart _ hthere]
          exact begin_starts ..
        · rw [if_neg stopped] at he
          exact ⟨_, he, rfl, nofun, fun _ _ => answers _ (by decide) there, fun _ is => absurd is stopped⟩
    case srst =>
      refine ⟨_, exec_sbiSrst hr hx, haltGroups_only s x.groups, fun g hg i hi => ?_, fun k hk => ?_⟩
      · rw [haltGroups_eq]
        refine halts_stop _ (.inr (List.mem_flatMap.mpr ⟨g, hg, mem_hartsOf.mpr ?_⟩))
        unfold groupOfHart
        omega
      · rw [haltGroups_eq]
        refine mapGet_halts_ne _ s (fun hm => hk ?_)
        obtain ⟨g, hg, hkg⟩ := List.mem_flatMap.mp hm
        rwa [mem_hartsOf.mp hkg]
    case time =>
      have there' : (mapGet (modHart s h (fun x => x.setCsr 0x14D v)).harts h).isSome = true := (isSome_modHart ..).trans there
      refine ⟨_, (exec_sbi hr va _ _ _).trans (congrArg _ (sbiPerform_time s h f v)), rfl, answers _ (by decide) there', ?_⟩
      rw [sbiReturn, getHart_modHart _ there', getHart_modHart _ there, xset_csr, xset_csr, csr_setCsr, if_pos rfl]
    case status =>
      refine ⟨_, (exec_sbi hr va _ _ _).trans (congrArg _ (sbiPerform_status hsame)), rfl, ?_⟩
      obtain ⟨a0, a1⟩ := sbiReturn_answers sbiOk (hsmStatus (getHart s k)) there
      exact ⟨a0, a1.trans (Nat.mod_eq_of_lt (hsmStatus_lt _))⟩
    case entropy =>
      intro r
      obtain ⟨held, denied, trapped, made⟩ :=
        reachEnds_cases ((exec_sbiEntropy hr va).trans (congrArg _ (entropyPerform_reaches s h f va)))
      exact ⟨fun pas hpas => ⟨_, entropy32_length r.1, made pas hpas⟩, held, trapped, denied⟩

end Sys2Proof.Machine
end

section
/-! PROOFS. Slots are taken in the order of their seals, checked, and let go on (12 R394, R399, R400, R403, R427; 05 R158,
R161). -/

namespace Sys2Proof.Machine

open Sys2Proof

/-! ## The order of 12 R394 -/

theorem keyLt_iff (a b : Nat × Nat × Nat) : keyLt a b = true ↔
    a.1 < b.1 ∨ a.1 = b.1 ∧ (a.2.1 < b.2.1 ∨ a.2.1 = b.2.1 ∧ a.2.2 < b.2.2) := by
  simp [keyLt]

theorem keyLt_irrefl (a : Nat × Nat × Nat) : keyLt a a = false := by
  rw [Bool.eq_false_iff, ne_eq, keyLt_iff]
  omega

theorem keyLt_trans {a b c : Nat × Nat × Nat} (hab : keyLt a b = true) (hbc : keyLt b c = true) : keyLt a c = true := by
  rw [keyLt_iff] at *
  omega

theorem keyLt_asymm {a b : Nat × Nat × Nat} (h : keyLt a b = true) : keyLt b a = false := by
  rw [Bool.eq_false_iff]
  intro h'
  have both := keyLt_trans h h'
  rw [keyLt_irrefl] at both
  cases both

theorem firstOf_none {s : State} {l : List (MboxId × Nat)} (h : firstOf s l = none) : l = [] := by
  cases l with
  | nil => rfl
  | cons x r =>
    rw [firstOf] at h
    cases hr : firstOf s r with
    | none => simp [hr] at h
    | some y =>
      simp only [hr] at h
      split at h <;> cases h

/-- No slot of a list comes before the first one of it. -/
theorem firstOf_first {s : State} {l : List (MboxId × Nat)} {x : MboxId × Nat} (h : firstOf s l = some x) :
    ∀ y ∈ l, keyLt (takeKey s y.1 y.2) (takeKey s x.1 x.2) = false := by
  induction l generalizing x with
  | nil => simp
  | cons z r ih =>
    rw [firstOf] at h
    cases hr : firstOf s r with
    | none =>
      rw [hr] at h
      obtain rfl : z = x := Option.some.inj h
      simp [firstOf_none hr, keyLt_irrefl]
    | some w =>
      simp only [hr] at h
      have rest := ih hr
      intro y hy
      split at h
      · next before =>
        obtain rfl : z = x := Option.some.inj h
        rcases List.mem_cons.mp hy with rfl | hy
        · exact keyLt_irrefl _
        · refine Bool.eq_false_iff.mpr fun later => ?_
          have first := rest y hy
          rw [keyLt_trans later before] at first
          cases first
      · next after =>
        obtain rfl : w = x := Option.some.inj h
        rcases List.mem_cons.mp hy with rfl | hy
        · exact Bool.eq_false_iff.mpr after
        · exact rest y hy

/-! ## SLOT_TAKE, AFTER_RELEASE and HOLD_RELEASE -/

/-- Step 8 puts a command among those held or those ready (05 R158, R161). -/
theorem toStart_eq (s : State) (mb : MboxId) (k : Nat) :
    toStart s mb k = modSlot s mb k (fun x => { x with phase := if heldNow s mb k then .held else .ready }) := by
  unfold toStart
  split <;> rfl

/-- The state in which Lumiz checks a slot that it has just taken. -/
def slotTaken (s : State) (mb : MboxId) (k : Nat) : State :=
  modSlot s mb k (fun x => { x with tTaken := s.now, phase := .waitAfter, afterBad := failedBefore s mb k })

section
variable {s : State} {mb : MboxId} {k : Nat} (hup : s.up = true) (hroom : firmwareFull s = false)
include hup hroom

theorem execSlotTake_rejects (hnext : nextSealed s = some (mb, k)) {st d : Nat}
    (hbad : firstBad (takeChecks (slotTaken s mb k) mb k) = some (st, d)) :
    execSlotTake s = .next (reject (slotTaken s mb k) mb k st d) := by
  rw [slotTaken] at hbad ⊢
  simp [execSlotTake, hup, hroom, hnext, hbad]

theorem execSlotTake_passes (hnext : nextSealed s = some (mb, k))
    (hpass : firstBad (takeChecks (slotTaken s mb k) mb k) = none) :
    execSlotTake s = .next (if hdrAfterCnt (slotHeader (getMbox (slotTaken s mb k) mb) k) ≠ 0 then slotTaken s mb k
      else toStart (slotTaken s mb k) mb k) := by
  rw [slotTaken] at hpass ⊢
  simp only [execSlotTake, hup, hroom, hnext, hpass, Bool.not_true, Bool.or_false, Bool.false_eq_true, if_false, ne_eq,
    ite_not]
  split <;> rfl

section
variable (hwaits : (getSlot s mb k).phase = .waitAfter) (hdone : afterWhere (getMbox s mb) k 0
  (hdrAfterCnt (slotHeader (getMbox s mb) k)) (fun e => !afterDone s mb k e) = none)
include hwaits hdone

theorem execAfterRelease_fails {o : Nat} (hfailed : afterFailed s mb k = some o) :
    execAfterRelease mb k s = .next (reject s mb k stAfterFailed o) := by
  simp [execAfterRelease, hup, hroom, hwaits, hdone, hfailed]

theorem execAfterRelease_passes (hfine : afterFailed s mb k = none) : execAfterRelease mb k s = .next (toStart s mb k) := by
  simp [execAfterRelease, hup, hroom, hwaits, hdone, hfine]

end

theorem execHoldRelease_goesOn (hheld : (getSlot s mb k).phase = .held) (hended : heldNow s mb k = false) :
    execHoldRelease mb k s = .next (modSlot s mb k (fun x => { x with phase := .ready })) := by
  simp [execHoldRelease, hup, hroom, hheld, hended]

end

/-- Settles O36: the order of the seals is a strict one, so the slot taken is the first of it; each row by its own branch. -/
theorem slotsAreTakenInOrderAndReleased : Obligations.SlotsAreTakenInOrderAndReleased := by
  unfold Obligations.SlotsAreTakenInOrderAndReleased
  refine ⟨fun mb k s hup hroom hnext => ⟨fun y hy hsealed => ?first, fun st d hbad => ?rejected, fun hpass => ?taken⟩,
    fun mb k s hup hroom => ⟨fun hwaits hdone => ⟨fun o hfailed => ?failed, fun hfine => ?released⟩, fun hheld hended => ?held⟩,
    fun mb k s hfull => ?full⟩
  case first => exact firstOf_first hnext y (List.mem_filter.mpr ⟨hy, beq_iff_eq.mpr hsealed⟩)
  case rejected => exact execSlotTake_rejects hup hroom hnext hbad
  case taken =>
    refine (execSlotTake_passes hup hroom hnext hpass).trans ?_
    rw [toStart_eq, slotTaken]
  case failed => exact execAfterRelease_fails hup hroom hwaits hdone hfailed
  case released => exact (execAfterRelease_passes hup hroom hwaits hdone hfine).trans (by rw [toStart_eq])
  case held => exact execHoldRelease_goesOn hup hroom hheld hended
  case full => simp [exec, execSlotTake, execAfterRelease, execHoldRelease, hfull]

end Sys2Proof.Machine
end

section
/-! PROOFS. The mailboxes that are there, what leaves them alone, and SLOT_COMPLETE (12 R396, R401, R403, R430, Table 12.4). -/

namespace Sys2Proof.Machine

open Sys2Proof

/-! ## A mailbox that is there -/

def mboxOf (s : State) : MboxId → Option Mailbox
  | .host p => (mapGet s.ports p).map (·.mbox)
  | .core f => (getForme s f).map (·.coreMbox)

theorem mboxOf_isSome_iff {s : State} {mb : MboxId} : (mboxOf s mb).isSome = true ↔ MboxThere s mb := by
  cases mb <;> simp [MboxThere, mboxOf]

theorem getMbox_eq (s : State) (mb : MboxId) : getMbox s mb = (mboxOf s mb).getD Mailbox.reset := by
  cases mb with
  | host p =>
    simp only [getMbox, getPort, mboxOf, mapGetD]
    cases mapGet s.ports p <;> rfl
  | core f =>
    simp only [getMbox, mboxOf]
    cases getForme s f <;> rfl

theorem mboxOf_of_there {s : State} {mb : MboxId} (h : MboxThere s mb) : mboxOf s mb = some (getMbox s mb) := by
  obtain ⟨m, hm⟩ := Option.isSome_iff_exists.mp (mboxOf_isSome_iff.mpr h)
  rw [getMbox_eq, hm, Option.getD_some]

theorem getMbox_congr {s t : State} {mb : MboxId} (h : mboxOf t mb = mboxOf s mb) : getMbox t mb = getMbox s mb := by
  rw [getMbox_eq, getMbox_eq, h]

theorem mboxOf_modMbox (s : State) (mb mb' : MboxId) (g : Mailbox → Mailbox) :
    mboxOf (modMbox s mb g) mb' = if mb' = mb then (mboxOf s mb).map g else mboxOf s mb' := by
  cases mb with
  | host p =>
    cases mb' with
    | host q =>
      simp only [mboxOf, modMbox, modPort, mapGet_mapMod, MboxId.host.injEq]
      split
      · rw [Option.map_map, Option.map_map]
        rfl
      · rfl
    | core c => rfl
  | core f =>
    cases mb' with
    | host q => rfl
    | core c =>
      simp only [mboxOf, modMbox, modForme, getForme, mapGet_mapMod, MboxId.core.injEq]
      split
      · rw [Option.map_map, Option.map_map]
        rfl
      · rfl

theorem getMbox_modMbox_self {s : State} {mb : MboxId} (h : MboxThere s mb) (g : Mailbox → Mailbox) :
    getMbox (modMbox s mb g) mb = g (getMbox s mb) := by
  rw [getMbox_eq, mboxOf_modMbox, if_pos rfl, mboxOf_of_there h, Option.map_some, Option.getD_some]

theorem getMbox_modMbox_ne (s : State) {mb mb' : MboxId} (h : mb' ≠ mb) (g : Mailbox → Mailbox) :
    getMbox (modMbox s mb g) mb' = getMbox s mb' := getMbox_congr (by rw [mboxOf_modMbox, if_neg h])

theorem MboxThere.modMbox {s : State} {mb : MboxId} (h : MboxThere s mb) (mb' : MboxId) (g : Mailbox → Mailbox) :
    MboxThere (modMbox s mb' g) mb := by
  rw [← mboxOf_isSome_iff] at h ⊢
  rw [mboxOf_modMbox]
  split
  · next e => rw [← e, Option.isSome_map, h]
  · exact h

theorem getSlot_modSlot_ne (s : State) {mb mb' : MboxId} {k k' : Nat} (h : (mb', k') ≠ (mb, k)) (g : Slot → Slot) :
    getSlot (modSlot s mb k g) mb' k' = getSlot s mb' k' := by
  by_cases e : mb' = mb
  · subst e
    have other : k' ≠ k := fun e => h (by rw [e])
    by_cases there : MboxThere s mb'
    · rw [getSlot, modSlot, getMbox_modMbox_self there]
      exact mapGetD_mapUpd_ne _ _ _ other
    · have absent : mboxOf s mb' = none := by
        rw [← Option.not_isSome_iff_eq_none]
        exact fun is => there (mboxOf_isSome_iff.mp is)
      rw [getSlot, getSlot, modSlot, getMbox_eq, getMbox_eq, mboxOf_modMbox, if_pos rfl, absent]
      rfl
  · rw [getSlot, modSlot, getMbox_modMbox_ne s e]
    rfl

theorem mboxOf_dropWaiters (s : State) (test : Waiter → Bool) (mb : MboxId) : mboxOf (dropWaiters s test) mb = mboxOf s mb := by
  cases mb with
  | host p => rfl
  | core f =>
    simp only [mboxOf, getForme, dropWaiters]
    induction s.formes with
    | nil => rfl
    | cons kv r ih =>
      simp only [List.map_cons, mapGet]
      split
      · rfl
      · exact ih

theorem mboxOf_modPort (s : State) (p : Nat) {g : Port → Port} (hg : ∀ x, (g x).mbox = x.mbox) (mb : MboxId) :
    mboxOf (modPort s p g) mb = mboxOf s mb := by
  cases mb with
  | host q => exact map_mapMod s.ports p g (·.mbox) hg q
  | core f => rfl

/-! ## The signals of a port (13 R447) -/

@[simp] theorem signal_mbox (x : Port) (v : Nat) : (x.signal v).mbox = x.mbox := by
  unfold Port.signal
  split
  · rfl
  · split <;> rfl

theorem signal_tx (x : Port) (v : Nat) :
    (x.signal v).tx = x.tx ++ (if x.signals v then [.msix TlpAttr.clear v] else []) := by
  unfold Port.signal
  split
  · rfl
  · split <;> simp

theorem signal_unsent {x : Port} {v : Nat} (h : x.signals v = false) : (x.signal v).unsent = x.unsent := by
  rw [Port.signal, h, if_neg Bool.false_ne_true]
  split <;> rfl

theorem signals_iff (x : Port) (v : Nat) :
    x.signals v = true ↔ x.mayIssue = true ∧ x.vectorMasked v = false ∧ x.d3hot = false := by
  simp [Port.signals, and_assoc]

/-- What a completion notes at its port, before the signal. -/
def Port.noted (x : Port) (k seq st : Nat) (irq : Bool) (v : Nat) (r : RecRec) : Port :=
  (x.recordDone k seq st).noteUnsent k irq v r

theorem noted_eq (x : Port) (k seq st : Nat) (irq : Bool) (v : Nat) (r : RecRec) :
    x.noted k seq st irq v r = { x with records := (x.noted k seq st irq v r).records,
                                        unsent := if irq && !x.signals v then mapSet x.unsent k (v, r) else mapDel x.unsent k } := by
  unfold Port.noted Port.recordDone
  split
  · split <;> rfl
  · rfl

@[simp] theorem noted_tx (x : Port) (k seq st : Nat) (irq : Bool) (v : Nat) (r : RecRec) :
    (x.noted k seq st irq v r).tx = x.tx := by rw [noted_eq]

@[simp] theorem noted_signals (x : Port) (k seq st : Nat) (irq : Bool) (v : Nat) (r : RecRec) (w : Nat) :
    (x.noted k seq st irq v r).signals w = x.signals w := by
  rw [noted_eq]
  rfl

/-! ## What only changes slots -/

/-- A mailbox but for its slots, and a port but for its mailbox. -/
def unslotted (m : Mailbox) : Mailbox := { m with slots := [] }
def unmailed (x : Port) : Port := { x with mbox := Mailbox.reset }

/-- Of the mailboxes only slots may differ; time and the harts are as they were. -/
structure SlotsOnly (s t : State) : Prop where
  now : t.now = s.now
  harts : t.harts = s.harts
  ports : ∀ p, (mapGet t.ports p).map unmailed = (mapGet s.ports p).map unmailed
  mbox : ∀ mb, (mboxOf t mb).map unslotted = (mboxOf s mb).map unslotted

theorem SlotsOnly.refl (s : State) : SlotsOnly s s := ⟨rfl, rfl, fun _ => rfl, fun _ => rfl⟩

theorem SlotsOnly.trans {s t u : State} (h : SlotsOnly s t) (k : SlotsOnly t u) : SlotsOnly s u :=
  ⟨k.now.trans h.now, k.harts.trans h.harts, fun p => (k.ports p).trans (h.ports p), fun mb => (k.mbox mb).trans (h.mbox mb)⟩

theorem map_unmailed_modMbox (s : State) (mb : MboxId) (g : Mailbox → Mailbox) (p : Nat) :
    (mapGet (modMbox s mb g).ports p).map unmailed = (mapGet s.ports p).map unmailed := by
  cases mb with
  | host q => exact map_mapMod s.ports q (fun x => { x with mbox := g x.mbox }) unmailed (fun _ => rfl) p
  | core f => rfl

theorem modSlot_slotsOnly (s : State) (mb : MboxId) (k : Nat) (g : Slot → Slot) : SlotsOnly s (modSlot s mb k g) := by
  refine ⟨by cases mb <;> rfl, by cases mb <;> rfl, map_unmailed_modMbox s mb _, fun mb' => ?_⟩
  · rw [modSlot, mboxOf_modMbox]
    split
    · next e =>
      rw [e, Option.map_map]
      rfl
    · rfl

theorem SlotsOnly.there {s t : State} (h : SlotsOnly s t) {mb : MboxId} (hs : MboxThere s mb) : MboxThere t mb := by
  rw [← mboxOf_isSome_iff] at hs ⊢
  rw [← Option.isSome_map (f := unslotted), h.mbox, Option.isSome_map, hs]

theorem SlotsOnly.unslotted {s t : State} (h : SlotsOnly s t) {mb : MboxId} (hs : MboxThere s mb) :
    unslotted (getMbox t mb) = unslotted (getMbox s mb) := by
  have same := h.mbox mb
  rw [mboxOf_of_there hs, mboxOf_of_there (h.there hs)] at same
  exact Option.some.inj same

/-! ## The commands that wait for one that fails (12 R403) -/

/-- A slot that waits keeps which of its entries have failed. -/
def noteNamed (s : State) (mb : MboxId) (k : Nat) (t : State) (w : MboxId × Nat) : State :=
  if (namesCmd s mb k w).isEmpty then t
  else modSlot t w.1 w.2 (fun x => { x with afterBad := x.afterBad ++ namesCmd s mb k w })

theorem noteFailed_eq (s : State) (mb : MboxId) (k : Nat) : noteFailed s mb k = (ownedSlots s).foldl (noteNamed s mb k) s := rfl

theorem noteNamed_slotsOnly (s : State) (mb : MboxId) (k : Nat) (t : State) (w : MboxId × Nat) :
    SlotsOnly t (noteNamed s mb k t w) := by
  unfold noteNamed
  split
  · exact .refl t
  · exact modSlot_slotsOnly ..

theorem foldl_noteNamed_slotsOnly (s : State) (mb : MboxId) (k : Nat) (l : List (MboxId × Nat)) (t : State) :
    SlotsOnly t (l.foldl (noteNamed s mb k) t) :=
  List.foldlRecOn _ _ (.refl t) fun _ hu _ _ => hu.trans (noteNamed_slotsOnly ..)

/-- A slot that does not wait names no command. -/
theorem namesCmd_of_phase {s : State} {w : MboxId × Nat} (h : (getSlot s w.1 w.2).phase ≠ .waitAfter) (mb : MboxId) (k : Nat) :
    namesCmd s mb k w = [] := by
  rw [getSlot] at h
  simp [namesCmd, h]

theorem getSlot_noteNamed_of_phase {s : State} {w : MboxId × Nat} (h : (getSlot s w.1 w.2).phase ≠ .waitAfter) (mb : MboxId)
    (k : Nat) (t : State) (v : MboxId × Nat) : getSlot (noteNamed s mb k t v) w.1 w.2 = getSlot t w.1 w.2 := by
  unfold noteNamed
  split
  · rfl
  · next named =>
    refine getSlot_modSlot_ne t (fun e => ?_) _
    obtain rfl : w = v := e
    rw [namesCmd_of_phase h] at named
    exact named rfl

/-- What a slot keeps as failed stays, and the slot that is noted keeps what it names. -/
theorem mem_afterBad_noteNamed {s t : State} {mb : MboxId} {k j : Nat} {v w : MboxId × Nat} (hthere : MboxThere t w.1)
    (h : j ∈ (getSlot t w.1 w.2).afterBad ∨ v = w ∧ j ∈ namesCmd s mb k w) :
    j ∈ (getSlot (noteNamed s mb k t v) w.1 w.2).afterBad := by
  unfold noteNamed
  by_cases e : v = w
  · subst e
    split
    · next none =>
      rw [List.isEmpty_iff] at none
      simpa [none] using h
    · rw [getSlot_modSlot_self hthere]
      exact List.mem_append.mpr (h.imp id And.right)
  · have kept : j ∈ (getSlot t w.1 w.2).afterBad := h.resolve_right fun both => e both.1
    split
    · exact kept
    · rwa [getSlot_modSlot_ne t (fun same => e same.symm)]

theorem mem_afterBad_foldl_noteNamed {s : State} {mb : MboxId} {k j : Nat} {w : MboxId × Nat} (l : List (MboxId × Nat))
    {t : State} (hthere : MboxThere t w.1)
    (h : j ∈ (getSlot t w.1 w.2).afterBad ∨ w ∈ l ∧ j ∈ namesCmd s mb k w) :
    j ∈ (getSlot (l.foldl (noteNamed s mb k) t) w.1 w.2).afterBad := by
  induction l generalizing t with
  | nil => exact h.resolve_right fun both => List.not_mem_nil both.1
  | cons v l ih =>
    refine ih ((noteNamed_slotsOnly ..).there hthere) ?_
    rcases h with kept | ⟨hw, hj⟩
    · exact .inl (mem_afterBad_noteNamed hthere (.inl kept))
    · rcases List.mem_cons.mp hw with rfl | hw
      · exact .inl (mem_afterBad_noteNamed hthere (.inr ⟨rfl, hj⟩))
      · exact .inr ⟨hw, hj⟩

/-! ## SLOT_COMPLETE -/

/-- What a completion has noted of the commands that wait for it. -/
def failureNoted (s : State) (mb : MboxId) (k : Nat) : State :=
  if failed (getSlot s mb k).status then noteFailed s mb k else s

theorem failureNoted_slotsOnly (s : State) (mb : MboxId) (k : Nat) : SlotsOnly s (failureNoted s mb k) := by
  unfold failureNoted
  split
  · exact foldl_noteNamed_slotsOnly ..
  · exact .refl s

theorem getSlot_failureNoted {s : State} {mb : MboxId} {k : Nat} (h : (getSlot s mb k).phase ≠ .waitAfter) :
    getSlot (failureNoted s mb k) mb k = getSlot s mb k := by
  unfold failureNoted
  split
  · rw [noteFailed_eq]
    exact List.foldlRecOn (motive := fun t => getSlot t mb k = getSlot s mb k) _ _ rfl fun t ht v _ =>
      (getSlot_noteNamed_of_phase (w := (mb, k)) h mb k t v).trans ht
  · rfl

/-- The slot completed, with nothing of its command waiting in a fault record any more. -/
def slotCompleted (s : State) (mb : MboxId) (k : Nat) : State :=
  let u := failureNoted s mb k
  dropWaiters (modMbox u mb (fun m => m.complete u.now k)) (· == .copy mb k)

theorem mboxOf_slotCompleted {s : State} {mb : MboxId} (hthere : MboxThere s mb) (k : Nat) (mb' : MboxId) :
    mboxOf (slotCompleted s mb k) mb' = if mb' = mb then some ((getMbox (failureNoted s mb k) mb).complete s.now k)
      else mboxOf (failureNoted s mb k) mb' := by
  have only := failureNoted_slotsOnly s mb k
  rw [slotCompleted, mboxOf_dropWaiters, mboxOf_modMbox, mboxOf_of_there (only.there hthere), only.now]
  rfl

theorem slotCompleted_harts (s : State) (mb : MboxId) (k : Nat) : (slotCompleted s mb k).harts = s.harts := by
  refine Eq.trans ?_ (failureNoted_slotsOnly s mb k).harts
  cases mb <;> rfl

theorem slotCompleted_port {s : State} {p : Nat} {x : Port} (hx : mapGet s.ports p = some x) (k : Nat) :
    ∃ m, mapGet (slotCompleted s (.host p) k).ports p = some { x with mbox := m } := by
  have same := (failureNoted_slotsOnly s (.host p) k).ports p
  rw [hx, Option.map_some] at same
  obtain ⟨y, hy, unmail⟩ := Option.map_eq_some_iff.mp same
  refine ⟨y.mbox.complete (failureNoted s (.host p) k).now k, ?_⟩
  have there : mapGet (slotCompleted s (.host p) k).ports p =
      some { y with mbox := y.mbox.complete (failureNoted s (.host p) k).now k } := by
    refine (mapGet_mapMod_self _ _ _).trans ?_
    rw [hy]
    rfl
  rw [there]
  exact congrArg (fun z : Port => some { z with mbox := y.mbox.complete (failureNoted s (.host p) k).now k }) unmail

section
variable (s : State) (p k : Nat)

/-- The port after the completion: what it notes, and the signal that its header asks for. -/
def completedPort (x : Port) : Port :=
  let m := getMbox s (.host p)
  let h := slotHeader m k
  let y := x.noted k (slotSeq m k) (getSlot s (.host p) k).status (hdrIrq h) (hdrVector h)
    (doneRecord m k (getSlot s (.host p) k).status)
  if hdrIrq h then y.signal (hdrVector h) else y

theorem completedPort_mbox (x : Port) : (completedPort s p k x).mbox = x.mbox := by
  unfold completedPort
  dsimp only
  split
  · rw [signal_mbox, noted_eq]
  · rw [noted_eq]

theorem completedPort_tx (x : Port) : (completedPort s p k x).tx =
    x.tx ++ (if hdrIrq (slotHeader (getMbox s (.host p)) k) ∧ x.signals (hdrVector (slotHeader (getMbox s (.host p)) k))
      then [.msix TlpAttr.clear (hdrVector (slotHeader (getMbox s (.host p)) k))] else []) := by
  rw [completedPort]
  cases hdrIrq (slotHeader (getMbox s (.host p)) k) with
  | false => simp
  | true => simp [signal_tx]

/-- A signal that does not leave the port at once is kept with the record of its slot. -/
theorem completedPort_unsent {x : Port} (hirq : hdrIrq (slotHeader (getMbox s (.host p)) k) = true)
    (hwithheld : x.signals (hdrVector (slotHeader (getMbox s (.host p)) k)) = false) :
    mapGet (completedPort s p k x).unsent k = some (hdrVector (slotHeader (getMbox s (.host p)) k),
      doneRecord (getMbox s (.host p)) k (getSlot s (.host p) k).status) := by
  simp only [completedPort, hirq, if_true]
  rw [signal_unsent (by rw [noted_signals, hwithheld]), noted_eq]
  simp [hwithheld]

theorem modPort_modPort (g h : Port → Port) : modPort (modPort s p g) p h = modPort s p (fun x => h (g x)) := by
  unfold modPort mapMod
  cases hx : mapGet s.ports p with
  | none => simp [hx]
  | some x => simp

theorem completeSlot_host : completeSlot s (.host p) k = modPort (slotCompleted s (.host p) k) p (completedPort s p k) := by
  unfold completeSlot slotCompleted failureNoted completedPort
  dsimp only
  split
  · exact modPort_modPort ..
  · rfl

end

theorem completeSlot_core (s : State) (f k : Nat) : completeSlot s (.core f) k =
    (let h := slotHeader (getMbox s (.core f)) k
     if hdrIrq h then signalHart (slotCompleted s (.core f) k) (hdrHart h) (hdrVector h) else slotCompleted s (.core f) k) := rfl

/-- The signal of a completion leaves the mailboxes as the completion has made them. -/
theorem mboxOf_completeSlot (s : State) (mb : MboxId) (k : Nat) (mb' : MboxId) :
    mboxOf (completeSlot s mb k) mb' = mboxOf (slotCompleted s mb k) mb' := by
  cases mb with
  | host p =>
    rw [completeSlot_host]
    exact mboxOf_modPort _ p (completedPort_mbox s p k) mb'
  | core f =>
    rw [completeSlot_core]
    dsimp only
    split
    · cases mb' <;> rfl
    · rfl

/-- The completed mailbox is that of the state before: what is noted of a failure are slots that wait. -/
theorem complete_bytes_history {m n : Mailbox} {k : Nat} (hm : unslotted m = unslotted n) (hslot : m.slotAt k = n.slotAt k)
    (now : Nat) : (m.complete now k).bytes = (n.complete now k).bytes ∧ (m.complete now k).history = (n.complete now k).history := by
  obtain ⟨bytes, slots, history, dropped, seals⟩ := m
  obtain ⟨bytes', slots', history', dropped', seals'⟩ := n
  simp only [unslotted, Mailbox.mk.injEq] at hm
  obtain ⟨rfl, -, rfl, rfl, rfl⟩ := hm
  simp only [Mailbox.complete, completionHeader, hslot]
  exact ⟨rfl, rfl⟩

theorem slotAt_complete (m : Mailbox) (now k j : Nat) :
    (m.complete now k).slotAt j = if j = k then { Slot.reset with done := true } else m.slotAt j := by
  simp only [Mailbox.slotAt, Mailbox.complete, mapGetD, mapGet_mapSet]
  split <;> rfl

/-- Settles O37: the completion notes the failure in the slots that wait, which the completed one is not among; then the bytes
and the history; then the signal. What is the model's in it: that a signal withheld under a mask or in D3hot waits
(notes/assumptions/66.md), and the record that is kept of one withheld (109.md). -/
theorem completionWritesTheSlotAndSignals : Obligations.CompletionWritesTheSlotAndSignals := by
  unfold Obligations.CompletionWritesTheSlotAndSignals
  intro mb k s hup hphase m x h
  have there : MboxThere s mb := mboxThere_of_phase (k := k) (by rw [hphase]; decide)
  have idle : (getSlot s mb k).phase ≠ .waitAfter := by rw [hphase]; decide
  have only := failureNoted_slotsOnly s mb k
  have runs : exec (.slotComplete mb k) s = .next (completeSlot s mb k) := by
    have finished : ((getMbox s mb).slotAt k).phase = .finished := hphase
    exact if_pos (by rw [hup, finished]; rfl)
  have mbox : getMbox (completeSlot s mb k) mb = (getMbox (failureNoted s mb k) mb).complete s.now k := by
    rw [getMbox_eq, mboxOf_completeSlot, mboxOf_slotCompleted there, if_pos rfl, Option.getD_some]
  obtain ⟨bytes, history⟩ := complete_bytes_history (only.unslotted there) (getSlot_failureNoted idle) s.now
  refine ⟨_, runs, ?bytes, ?slot, ?history, fun p hp => ?port, fun f hf hirq hhart => ?hart, fun hfail w hw j hj => ?waits⟩
  case bytes => rw [mbox, bytes]; rfl
  case slot => rw [getSlot, mbox, slotAt_complete, if_pos rfl]
  case history => rw [mbox, history]; rfl
  case port =>
    subst hp
    obtain ⟨y, hy⟩ := Option.isSome_iff_exists.mp there
    obtain ⟨n, hn⟩ := slotCompleted_port hy k
    have port : getPort s p = y := by rw [getPort, mapGetD, hy, Option.getD_some]
    refine ⟨completedPort s p k { y with mbox := n }, ?_, ?_, fun hirq hwithheld => ?_⟩
    · rw [completeSlot_host]
      exact (mapGet_mapMod_self _ _ _).trans (by rw [hn]; rfl)
    · rw [port, completedPort_tx]
      simp only [signals_iff]
      rfl
    · exact completedPort_unsent s p k hirq (port ▸ hwithheld)
  case hart =>
    subst hf
    rw [completeSlot_core]
    dsimp only
    rw [if_pos hirq]
    exact signalHart_pending (by rw [slotCompleted_harts]; exact hhart) (.inr rfl)
  case waits =>
    have waiting : (getSlot s w.1 w.2).phase = .waitAfter := by
      refine Decidable.byContradiction fun other => ?_
      rw [namesCmd_of_phase other] at hj
      exact List.not_mem_nil hj
    have wthere : MboxThere s w.1 := mboxThere_of_phase (k := w.2) (by rw [waiting]; decide)
    have noted : j ∈ (getSlot (failureNoted s mb k) w.1 w.2).afterBad := by
      rw [failureNoted, if_pos (show failed (getSlot s mb k).status = true from decide_eq_true hfail), noteFailed_eq]
      exact mem_afterBad_foldl_noteNamed _ wthere (.inr ⟨hw, hj⟩)
    have kept : getSlot (completeSlot s mb k) w.1 w.2 = getSlot (failureNoted s mb k) w.1 w.2 := by
      by_cases e : w.1 = mb
      · have other : w.2 ≠ k := by
          rintro rfl
          rw [← e, waiting] at hphase
          cases hphase
        rw [getSlot, e, mbox, slotAt_complete, if_neg other]
        rfl
      · rw [getSlot, getMbox_congr (mboxOf_completeSlot ..), getMbox_eq, mboxOf_slotCompleted there, if_neg e, ← getMbox_eq]
        rfl
    rwa [kept]

end Sys2Proof.Machine
end

section
/-! PROOFS. STICK_END of a stopped stick, after which its pass is not told that a stick has ended (06 R192, R220, R221). -/

namespace Sys2Proof.Machine

open Sys2Proof

/-- A pass with one stick, whose last stick before ended at time 1. -/
def endingPass : Pass :=
  { seq := 0, forme := 0, mb := .host 0, slot := 0, layer := 0, variant := 0,
    header := { defTmo := false, tmoLog2 := 0, lsBytes := 4096, regs := 16, sorts := 32 }, nsticks := 2, nd5 := false,
    noBypass := false, fixedSplit := false, lsStep := 0, phase := .running, attempt := 0, outs := [], ins := [],
    parts := dividePass [0] 2, faultCount := 0, faults := [], records := [], tStart := 0, tEnd := 1, tStartFirst := 0,
    status := 0, overMask := 0, noHist := [] }

/-- A stick of it that has been stopped: it issues nothing more, and no fault ended it. -/
def stoppedStick : Stick :=
  { forme := 0, passSeq := 0, index := 0, attempt := 0, header := endingPass.header, slugs := [], ls := [], barriers := [],
    fault := none, dead := true }

/-- At time 0 the stopped stick is the only one of galley 0 of Platen 0, which runs. -/
def withStoppedStick : State :=
  { State.reset with
    phase := .running, platens := [(0, { PlatenPower.reset with state := .s0 })],
    formes := [(0, { newForme State.reset 0 with platens := [0], passes := [endingPass] })],
    galleys := [(0, { Galley.reset with sticks := [(0, stoppedStick)] })] }

/-- STICK_END frees a stopped stick and leaves its pass as it was. -/
theorem stickEnd_withStoppedStick : ∃ t, exec (.stickEnd 0 0 0) withStoppedStick = .next t ∧
    getPass t 0 0 = some endingPass := ⟨_, rfl, rfl⟩

/-- Refutes O31: a stick that was stopped is no stick that ends, so STICK_END leaves the end time of its pass, which here is
1 at time 0. -/
theorem not_passesAreLaunchedAndSticksStart : ¬ Obligations.PassesAreLaunchedAndSticksStart := by
  unfold Obligations.PassesAreLaunchedAndSticksStart
  intro ⟨_, _, ends⟩
  obtain ⟨t, f, q, ht, -, -, -, -, hq, told⟩ := ends 0 0 0 stoppedStick _ endingPass withStoppedStick (by decide) rfl rfl
    (.inl rfl) (fun _ => nofun) rfl rfl
  obtain ⟨u, hu, kept⟩ := stickEnd_withStoppedStick
  obtain rfl := Host.Outcome.next.inj (ht.symm.trans hu)
  have same : q = endingPass := Option.some.inj (hq.symm.trans kept)
  have time : endingPass.tEnd = 0 := congrArg Pass.tEnd (same.symm.trans told)
  exact absurd time (by decide)

end Sys2Proof.Machine
end

section
/-! PROOFS. A slot write over bytes whose addresses do not rise, which seals a slot without writing its seal (12 R388, R390). -/

namespace Sys2Proof.Machine

open Sys2Proof

/-- A core mailbox that lists the top byte of the seal word of slot 0 twice. -/
def listedTwice : Mailbox := { Mailbox.reset with bytes := [(511, 0), (511, 0xC5)] }

def withListedTwice : State :=
  { State.reset with phase := .running, formes := [(0, { newForme State.reset 0 with coreMbox := listedTwice })] }

def plainRequest : ReqInfo := { rid := 0, atField := 0, pasid := false, io := false, tag := 0 }

/-- A zero written there takes one of the two away, and what is read is the seal. -/
theorem slotWrite_withListedTwice (req : ReqInfo) : ∃ t,
    exec (.slotWrite (.core 0) req 511 { bytes := [0], poisoned := false }) withListedTwice = .next t ∧
      (getMbox t (.core 0)).seals = 1 := ⟨_, rfl, rfl⟩

/-- Refutes O35: where the bytes of a mailbox list an address twice, a write that makes the top byte of a seal word zero
seals the slot, which is what the write of 0xC5 alone does by the statement. -/
theorem not_slotAndRegisterWritesReachTheirPlace : ¬ Obligations.SlotAndRegisterWritesReachTheirPlace := by
  unfold Obligations.SlotAndRegisterWritesReachTheirPlace
  intro ⟨slots, _, _⟩
  obtain ⟨⟨-, free⟩, -⟩ := slots (.core 0) plainRequest 511 0 [0] withListedTwice rfl rfl (fun _ => nofun)
    (List.cons_ne_nil _ _) rfl rfl (by decide)
  obtain ⟨t, ht, -, -, seals, -⟩ := free rfl
  obtain ⟨u, hu, sealed⟩ := slotWrite_withListedTwice plainRequest
  obtain rfl := Host.Outcome.next.inj (ht.symm.trans hu)
  exact absurd (sealed.symm.trans seals) (by decide)

end Sys2Proof.Machine
end

section
/-! PROOFS. The commands that report (12 R405 to R407, R416, R420, R421, R433; 15 R518, R530): the checks of each, the output
through the descriptor, and RECOVERY_READ. -/

namespace Sys2Proof.Machine

open Sys2Proof

/-! ## Checks that pass -/

theorem firstBad_append (cs ds : List (Bool × Nat × Nat)) : firstBad (cs ++ ds) = (firstBad cs).or (firstBad ds) := by
  induction cs with
  | nil => rfl
  | cons x cs ih =>
    obtain ⟨b, st, d⟩ := x
    cases b with
    | true => rfl
    | false => exact ih

theorem firstBad_cons_false (st d : Nat) (cs : List (Bool × Nat × Nat)) : firstBad ((false, st, d) :: cs) = firstBad cs := rfl

theorem checked_fails {s go : State} {mb : MboxId} {k st d : Nat} {cs : List (Bool × Nat × Nat)}
    (h : firstBad cs = some (st, d)) : checked s mb k cs go = finish s mb k st d 0 := by
  rw [checked, h]
  rfl

theorem reservedCheck_none {fields : List (Nat × Nat)} {c : Nat} (h : reservedAt fields c = none) :
    reservedCheck fields c = (false, stBadReserved, 0) := by rw [reservedCheck, h]

/-! ## The reports start (12 R406) -/

section
variable {s : State} {mb : MboxId} {k c : Nat} (hfine : firstBad (outChecks s mb c) = none)

theorem execIdentify_ends (hstart : startsCmd s mb k 0x01 = some c) (hres : reservedAt [] c = none) :
    Ended (.identify mb k) s mb k stOk 0 (packFields
      [(32, gutterWord s), (8, s.sec.grade), (1, boolBit s.sec.unlocked), (7, 0), (16, s.sec.lumizVer), (64, s.sec.serial),
       (15, s.config.node), (17, 0), (32, s.config.gnid), (8, (identifyPort s mb).2.1),
       (8, (formeOfMbox s mb).getD 0xFF), (1, boolBit (isAdmin s mb)), (1, (identifyPort s mb).2.2)]) (fun _ => True) := by
  refine ended_of_finish (u := (identifyPort s mb).1) ?_ (of_startsCmd hstart).2 (by cases mb <;> rfl) trivial
  change execIdentify mb k s = _
  simp only [execIdentify, hstart, checked_passes (show firstBad [reservedCheck [] c] = none by rw [reservedCheck_none hres]; rfl)]

include hfine

theorem execAttest_reports (hstart : reports s mb k 0x02 = some c) (hlen : (OutDesc.ofCmd c).len ≠ 0)
    (hres : reservedAt ((383, 128) :: outFields) c = none) (hroom : 644 + (certChain s).length ≤ (OutDesc.ofCmd c).len) :
    execAttest mb k s = .next (report s.drawn mb k (OutDesc.ofCmd c) (quote s mb (bits c 383 128)).2) := by
  simp only [execAttest, hstart]
  rw [checked_passes]
  · rfl
  · simp [firstBad_append, hfine, reservedCheck_none hres, firstBad, hlen, hroom]

theorem execPassStatus_reports (hstart : reports s mb k 0x51 = some c) (hlen : (OutDesc.ofCmd c).len ≠ 0)
    (hres : reservedAt ((159, 128) :: outFields) c = none) {q : Pass} (hq : statusPass s mb c = some q) :
    execPassStatus mb k s = .next (report s mb k (OutDesc.ofCmd c) (passReport q)) := by
  simp only [execPassStatus, hstart, if_neg hlen, hq]
  rw [checked_passes]
  simp [firstBad_append, hfine, reservedCheck_none hres, firstBad]

theorem execTelemetry_reports (hstart : reports s mb k 0x70 = some c) (hlen : (OutDesc.ofCmd c).len ≠ 0)
    (hmask : bits c 135 128 ≠ 0) (hres : reservedAt ((135, 128) :: outFields) c = none) {fid : Nat} {f : Forme}
    (hfid : formeOfMbox s mb = some fid) (hf : getForme (countAllWaits s fid) fid = some f) :
    execTelemetry mb k s = .next (report (countAllWaits s fid).drawn mb k (OutDesc.ofCmd c)
      (telemetry (countAllWaits s fid) f (bits c 135 128))) := by
  simp only [execTelemetry, hstart, hfid, hf]
  rw [checked_passes]
  simp [hfine, reservedCheck_none hres, firstBad, hlen, hmask]

end

section
variable {s : State} {mb : MboxId} {k c : Nat} (hstart : reports s mb k 0x71 = some c)
include hstart

theorem execJournalRead_checks (hread : bit c 224 = false) : execJournalRead mb k s = .next (checked s mb k (journalChecks s mb c)
    (report s mb k (OutDesc.ofCmd c)
      ((journalWanted s c).flatMap (fun e => (e.forPort (isAdmin s mb) (formeOfMbox s mb)).pack)))) := by
  simp only [execJournalRead, hstart, hread, Bool.false_eq_true, if_false]

theorem execJournalExport_checks (hexport : bit c 224 = true) (hheld : journalHeld s = false) :
    execJournalExport mb k s = .next (checked s mb k (journalChecks s mb c)
      (report s mb k (OutDesc.ofCmd c) ((journalWanted s c).flatMap JEntry.pack))) := by
  simp [execJournalExport, hstart, hexport, hheld]

end

/-- A report that may start is a command that may. -/
theorem of_reports {s : State} {mb : MboxId} {k opc c : Nat} (h : reports s mb k opc = some c) : startsCmd s mb k opc = some c := by
  unfold reports at h
  split at h
  · cases h
  · exact h

/-! ## The output (12 R406, 10 R345, R358) -/

theorem report_noSpace {d : OutDesc} {data : List Byte} (h : d.len < data.length) (s : State) (mb : MboxId) (k : Nat) :
    report s mb k d data = finish s mb k stNoSpace data.length 0 := if_pos h

theorem report_fits {d : OutDesc} {data : List Byte} (h : data.length ≤ d.len) (s : State) (mb : MboxId) (k : Nat) :
    report s mb k d data = output s mb k d data (reported mb k) := if_neg (Nat.not_lt.mpr h)

section
variable (s : State) (mb : MboxId) (k n st : Nat)

theorem reported_read (hopc : slotOpcode (getMbox s mb) k = 0x71) (hread : bit (slotCmd (getMbox s mb) k) 224 = false) :
    reported mb k s n st = finish s mb k st 0 (packFields [(32, n), (992, journalResult s
      ((journalWanted s (slotCmd (getMbox s mb) k)).take (n / 64)) (bits (slotCmd (getMbox s mb) k) 191 128))]) := by
  simp [reported, hopc, hread]

theorem reported_export (hopc : slotOpcode (getMbox s mb) k = 0x71) (hexport : bit (slotCmd (getMbox s mb) k) 224 = true) :
    let x := slotCmd (getMbox s mb) k
    let es := (journalWanted s x).take (n / 64)
    let v := markExported s (originOf s mb k) es (bits x 191 128)
    reported mb k s n st = finish v mb k st 0 (packFields [(32, n), (992, journalResult v es (bits x 191 128))]) := by
  simp [reported, hopc, hexport]

theorem reported_status (hopc : slotOpcode (getMbox s mb) k = 0x51) {q : Pass}
    (hq : statusPass s mb (slotCmd (getMbox s mb) k) = some q) :
    reported mb k s n st = finish s mb k st 0 (packFields [(32, n), (992, passHeader q)]) := by
  simp [reported, reportRest, hopc, hq]

theorem reported_other (hjournal : slotOpcode (getMbox s mb) k ≠ 0x71) (hstatus : slotOpcode (getMbox s mb) k ≠ 0x51) :
    reported mb k s n st = finish s mb k st 0 (packFields [(32, n), (992, 0)]) := by
  simp [reported, reportRest, hjournal, hstatus]

end

theorem output_host {s : State} {p : Nat} {d : OutDesc} (hhost : d.host = true) (hawake : (getPort s p).d3hot = false) (k : Nat)
    (data : List Byte) (go : State → Nat → Nat → State) :
    output s (.host p) k d data go = go (hostOutput s p d.addr data) data.length stOk := by
  simp [output, hhost, portOf, hawake]

/-- What is written of an output to a VA. -/
def outWritten (s : State) (mb : MboxId) (k fid : Nat) (d : OutDesc) (data : List Byte) : State × Nat × Reached :=
  outPages (outAccess fid mb) (.copy mb k) { agent := agentOfDie (dieOfMbox mb), unit := coresUnit, zero := false }
    (pageSpans d.addr data.length) data 0 s

section
variable {s : State} {mb : MboxId} {k fid n : Nat} {d : OutDesc} {data : List Byte} (hva : d.host = false)
  (hfid : formeOfMbox s mb = some fid) (go : State → Nat → Nat → State)
include hva hfid

theorem output_written {pas : List (Nat × Nat)} (hpages : (outWritten s mb k fid d data).2 = (n, .ok pas)) :
    output s mb k d data go = go (outWritten s mb k fid d data).1 n stOk := by
  rw [outWritten] at hpages ⊢
  simp only [output, hva, hfid, hpages, Bool.false_eq_true, if_false]

theorem output_denied (hpages : (outWritten s mb k fid d data).2 = (n, .denied)) :
    output s mb k d data go = go (outWritten s mb k fid d data).1 n stTranslationFault := by
  rw [outWritten] at hpages ⊢
  simp only [output, hva, hfid, hpages, Bool.false_eq_true, if_false]

theorem output_held (hpages : (outWritten s mb k fid d data).2 = (n, .held)) :
    output s mb k d data go = (outWritten s mb k fid d data).1 := by
  rw [outWritten] at hpages ⊢
  simp only [output, hva, hfid, hpages, Bool.false_eq_true, if_false]

end

section
variable {a : Access} {w : Waiter} {via : Via} {va len n : Nat} {r : List (Nat × Nat)} {data : List Byte} {s : State}

theorem outPages_ok {pas : List (Nat × Nat)} (h : (reach a w [(va, len)] s).2 = .ok pas) :
    outPages a w via ((va, len) :: r) data n s =
      outPages a w via r (data.drop len) (n + len) (writePieces via 0 pas (data.take len) (reach a w [(va, len)] s).1) := by
  simp only [outPages, h]

theorem outPages_denied (h : (reach a w [(va, len)] s).2 = .denied) :
    outPages a w via ((va, len) :: r) data n s = ((reach a w [(va, len)] s).1, n, .denied) := by
  simp only [outPages, h]

theorem outPages_held (h : (reach a w [(va, len)] s).2 = .held) :
    outPages a w via ((va, len) :: r) data n s = ((reach a w [(va, len)] s).1, n, .held) := by
  simp only [outPages, h]

end

/-! ## RECOVERY_READ (12 R433) -/

/-- What a port sends changes neither its mailbox nor whether it is armed. -/
def sentAlike (x y : Port) : Prop := y.mbox = x.mbox ∧ y.armed = x.armed ∧ y.pendingAck = x.pendingAck

theorem sendMsix_alike (x : Port) (v : Nat) : sentAlike x (x.sendMsix v) := ⟨rfl, rfl, rfl⟩

theorem flushMsix_alike (x : Port) : sentAlike x x.flushMsix := by
  unfold Port.flushMsix
  split
  · refine List.foldlRecOn _ _ ⟨rfl, rfl, rfl⟩ fun y ⟨mbox, armed, ack⟩ v _ => ?_
    split
    · exact ⟨mbox, armed, ack⟩
    · obtain ⟨mbox', armed', ack'⟩ := sendMsix_alike y v
      exact ⟨mbox'.trans mbox, armed'.trans armed, ack'.trans ack⟩
  · exact ⟨rfl, rfl, rfl⟩

/-- The device signals again on a port that was read to the end. -/
def rearmed (x : Port) : Port := { x with armed := true, pendingAck := false }.flushMsix

theorem rearmed_eq : (fun x : Port => { x with armed := true, pendingAck := false }.flushMsix) = rearmed := rfl

theorem rearmed_mbox (x : Port) : (rearmed x).mbox = x.mbox := (flushMsix_alike _).1

theorem rearmed_armed (x : Port) : (rearmed x).armed = true ∧ (rearmed x).pendingAck = false := (flushMsix_alike _).2

section
variable {s : State} {p k c : Nat} (hstart : startsCmd s (.host p) k 0xA0 = some c)
  (hres : reservedAt [(32, 32), (31, 0)] c = none)
include hstart hres

theorem execRecoveryRead_reads (hread : bit c 32 = false) : execRecoveryRead (.host p) k s =
    .next (finish s (.host p) k stOk 0 (recoveryHeader (getPort s p))) := by
  simp only [execRecoveryRead, hstart, hread, Bool.false_eq_true, if_false]
  rw [checked_passes (by rw [reservedCheck_none hres]; rfl)]

theorem execRecoveryRead_acks (hack : bit c 32 = true) (hepoch : bits c 31 0 = (getPort s p).epoch)
    (hmaster : (getPort s p).busMaster = true) (hdone : (getPort s p).records.any (fun r => r.2.outcome == 2) = false) :
    execRecoveryRead (.host p) k s =
      .next (finish (modPort s p rearmed) (.host p) k stOk 0 (recoveryHeader (getPort s p))) := by
  simp only [execRecoveryRead, hstart, hack, if_true, rearmed_eq]
  refine congrArg _ (checked_passes ?_)
  rw [reservedCheck_none hres, hepoch, hmaster, hdone, bne_self_eq_false]
  rfl

end

/-- The end of a command changes its port's mailbox alone. -/
theorem getPort_finish_rearmed {s : State} {p : Nat} (hthere : MboxThere s (.host p)) (k st detail result : Nat) :
    (getPort (finish (modPort s p rearmed) (.host p) k st detail result) p).armed = true ∧
      (getPort (finish (modPort s p rearmed) (.host p) k st detail result) p).pendingAck = false := by
  obtain ⟨x, hx⟩ := Option.isSome_iff_exists.mp hthere
  have port : (mapGet (finish (modPort s p rearmed) (.host p) k st detail result).ports p).map unmailed =
      some (unmailed (rearmed x)) := by
    rw [finish, modSlot, map_unmailed_modMbox, modPort, mapGet_mapMod_self, hx]
    rfl
  obtain ⟨y, hy, same⟩ := Option.map_eq_some_iff.mp port
  obtain ⟨armed, ack⟩ := rearmed_armed x
  rw [getPort, mapGetD, hy, Option.getD_some]
  exact ⟨(congrArg Port.armed same :).trans armed, (congrArg Port.pendingAck same :).trans ack⟩

/-- Settles O38: each row by its checks, the output by the descriptor's target, page by page for a VA, and the end by the
opcode. What is the model's in it: an output ends or waits at the first page that is not granted, with what lies below it
written (notes/assumptions/17.md); RECOVERY_READ answers the header as it stood before its ACK, and compares EPOCH with ACK
alone (83.md). -/
theorem reportingCommandsAnswer : Obligations.ReportingCommandsAnswer := by
  unfold Obligations.ReportingCommandsAnswer
  intro mb k c s d goes fine
  refine ⟨execIdentify_ends, fun hstart hlen hres hfine hroom => ?attest, fun fid q hstart hlen hres hfine hfid hq => ?status,
    fun fid f hstart hlen hmask hres hfine hfid hf => ?telemetry, fun hstart hpass => ⟨fun hread => ?read,
      fun hexport hheld => ?exported⟩,
    fun hstart st o hbad => ⟨fun hread => ?readBad, fun hexport hheld => ?exportBad⟩,
    fun u data => ⟨fun h => report_noSpace h u mb k, fun h => report_fits h u mb k⟩, fun u n st => ⟨fun hopc =>
      ⟨reported_read u mb k n st hopc, reported_export u mb k n st hopc⟩, fun hopc q => reported_status u mb k n st hopc,
      reported_other u mb k n st⟩, fun u data go p hp hhost hawake => ?host, fun u data go fid n hva hfid => ?va,
    fun a w via va len r data n u => ⟨rfl, fun pas => outPages_ok, outPages_denied, outPages_held⟩,
    fun p x hp hx hstart hres => ⟨fun hread => ?recovery, fun hack hepoch hmaster hdone => ?ack⟩⟩
  case attest => exact execAttest_reports hfine hstart hlen hres hroom
  case status => exact execPassStatus_reports hfine hstart hlen hres (by rw [statusPass, hfid]; exact hq)
  case telemetry => exact execTelemetry_reports hfine hstart hlen hmask hres hfid hf
  case read => exact (execJournalRead_checks hstart hread).trans (by rw [checked_passes hpass])
  case exported => exact (execJournalExport_checks hstart hexport hheld).trans (by rw [checked_passes hpass])
  case readBad =>
    refine ended_of_finish (u := s) ?_ (of_startsCmd (of_reports hstart)).2 rfl (finish_mem ..)
    exact (execJournalRead_checks hstart hread).trans (by rw [checked_fails hbad])
  case exportBad =>
    refine ended_of_finish (u := s) ?_ (of_startsCmd (of_reports hstart)).2 rfl ⟨finish_mem .., finish_journal ..⟩
    exact (execJournalExport_checks hstart hexport hheld).trans (by rw [checked_fails hbad])
  case host =>
    subst hp
    exact output_host hhost hawake k data go
  case va => exact ⟨fun pas => output_written hva hfid go, output_denied hva hfid go, output_held hva hfid go⟩
  case recovery =>
    subst hp hx
    exact ended_of_finish (execRecoveryRead_reads hstart hres hread) (of_startsCmd hstart).2 rfl trivial
  case ack =>
    subst hp hx
    have there := (of_startsCmd hstart).2
    refine ended_of_finish (execRecoveryRead_acks hstart hres hack hepoch hmaster hdone) there ?_
      (getPort_finish_rearmed there ..)
    exact slotsOf_modPort s p (fun x => by rw [rearmed_mbox]) (.host p)

end Sys2Proof.Machine
end

section
/-! PROOFS. COPY, FILL and ZERO start, end, and move a piece (12 R409 to R411); the reads of a host port (13 R448). -/

namespace Sys2Proof.Machine

open Sys2Proof

/-! ## A command that runs, or has ended -/

theorem of_runsCmd_runs {s : State} {mb : MboxId} {k opc c : Nat} (h : runsCmd s mb k opc = some c) : stalled s mb k = false := by
  unfold runsCmd at h
  dsimp only at h
  split at h
  · next runs =>
    simp only [Bool.and_eq_true, beq_iff_eq, Bool.not_eq_true'] at runs
    obtain ⟨⟨⟨-, running⟩, -⟩, free⟩ := runs
    have phase : (getSlot s mb k).phase = .running := running
    rw [stalled, free, phase]
    rfl
  · cases h

theorem stalled_finish {s : State} {mb : MboxId} (hthere : MboxThere s mb) (k st detail result : Nat) :
    stalled (finish s mb k st detail result) mb k = true := by
  rw [stalled, finish, getSlot_modSlot_self hthere]
  rfl

section
variable {s : State} {mb : MboxId} {k : Nat}

theorem moveSteps_stalled (h : stalled s mb k = true) (n fid c : Nat) : moveSteps n fid mb k c s = s := by
  cases n with
  | zero => rfl
  | succ n => exact if_pos h

theorem moveSteps_succ (h : stalled s mb k = false) (n fid c : Nat) :
    moveSteps (n + 1) fid mb k c s = moveSteps n fid mb k c (moveStep s fid mb k c) := by
  rw [moveSteps, h, if_neg Bool.false_ne_true]

theorem fillSteps_stalled (h : stalled s mb k = true) (n fid c pat : Nat) : fillSteps n fid mb k c pat s = s := by
  cases n with
  | zero => rfl
  | succ n => exact if_pos h

theorem fillSteps_succ (h : stalled s mb k = false) (n fid c pat : Nat) :
    fillSteps (n + 1) fid mb k c pat s = fillSteps n fid mb k c pat (fillStep s fid mb k c pat) := by
  rw [fillSteps, h, if_neg Bool.false_ne_true]

end

/-! ## COPY, FILL and ZERO start (12 R409, R411) -/

section
variable {s : State} {mb : MboxId} {k c fid : Nat} {f : Forme} (hfid : formeOfMbox s mb = some fid)
  (hf : getForme s fid = some f)
include hfid hf

theorem execCopy_starts (hstart : startsCmd s mb k 0x30 = some c) (n : Nat) : execCopy mb k n s =
    .next (if cpLen c = 0 then reject s mb k stOkEmpty 0
      else moveSteps n fid mb k c (checked s mb k (copyChecks s mb c) (copyStart s fid f mb k c))) := by
  simp only [execCopy, hstart, hfid, hf]
  split <;> rfl

theorem fillRow_starts {opc : Nat} (hstart : startsCmd s mb k opc = some c) (n : Nat) (fields : List (Nat × Nat))
    (pattern : Nat → Nat) : fillRow s mb k opc n fields pattern = if cpLen c = 0 then reject s mb k stOkEmpty 0
      else fillSteps n fid mb k c (pattern c)
        (checked s mb k [reservedCheck fields c, vaCheck c 64] (startMove s mb k (engineDieFor f mb (cpDst c)) 0)) := by
  simp only [fillRow, hstart, hfid, hf]

end

/-- A row that starts a command of no length, of a check that fails, and of checks that pass, for either way `steps` in which
the pieces move. -/
theorem transfer_starts {s begun : State} {mb : MboxId} {k c : Nat} {i : Nat → Instr} {checks : List (Bool × Nat × Nat)}
    {steps : Nat → State → State} (hthere : MboxThere s mb)
    (hexec : ∀ n, exec (i n) s = .next (if cpLen c = 0 then reject s mb k stOkEmpty 0 else steps n (checked s mb k checks begun)))
    (hnone : ∀ t, steps 0 t = t) (hstalled : ∀ n t, stalled t mb k = true → steps n t = t) :
    (cpLen c = 0 → ∀ n, Ended (i n) s mb k stOkEmpty 0 0 (fun _ => True)) ∧
      (∀ st d n, cpLen c ≠ 0 → firstBad checks = some (st, d) → Ended (i n) s mb k st d 0 (fun _ => True)) ∧
      (cpLen c ≠ 0 → firstBad checks = none → exec (i 0) s = .next begun) := by
  refine ⟨fun empty n => ?_, fun st d n some hbad => ?_, fun some hpass => ?_⟩
  · have runs := hexec n
    rw [if_pos empty] at runs
    exact ended_of_finish runs hthere rfl trivial
  · have runs := hexec n
    rw [if_neg some, checked_fails hbad, hstalled n _ (stalled_finish hthere ..)] at runs
    exact ended_of_finish runs hthere rfl trivial
  · rw [hexec, if_neg some, checked_passes hpass, hnone]

/-! ## COPY, FILL and ZERO run -/

section
variable {s : State} {mb : MboxId} {k c fid : Nat} (hfid : formeOfMbox s mb = some fid)
include hfid

theorem execCopy_runs (hrun : runsCmd s mb k 0x30 = some c) (hmove : moveOf c ≠ .fromHost) (n : Nat) :
    execCopy mb k n s = .next (moveSteps n fid mb k c s) := by
  simp only [execCopy, (of_runsCmd hrun).1, hrun, hfid, if_neg hmove]

theorem fillRow_runs {opc : Nat} (hrun : runsCmd s mb k opc = some c) (n : Nat) (fields : List (Nat × Nat)) (pattern : Nat → Nat) :
    fillRow s mb k opc n fields pattern = fillSteps n fid mb k c (pattern c) s := by
  simp only [fillRow, (of_runsCmd hrun).1, hrun, hfid]

end

theorem writeDest_ok {s v : State} {fid k va pa : Nat} {x : Slot} (htrans : translate s (copyAccess fid x 1) va = (v, .ok pa))
    (mb : MboxId) (hint : Nat) (data : List Byte) : writeDest s fid x mb k va hint data false =
      (writeBytesPa v (copyVia s x mb k) pa hint data, .none) := by
  simp only [writeDest, htrans, Bool.false_eq_true, if_false]

section
variable {s : State} {mb : MboxId} {k c : Nat}

theorem deviceStep_done (h : (getSlot s mb k).offset = cpLen c) (fid : Nat) :
    deviceStep s fid mb k c = finish s mb k stOk 0 0 := if_pos h

theorem fillStep_done (h : (getSlot s mb k).offset = cpLen c) (fid pattern : Nat) :
    fillStep s fid mb k c pattern = finish s mb k stOk 0 0 := if_pos h

section
variable {u v : State} {data : List Byte} {fid pa : Nat} (hmore : (getSlot s mb k).offset ≠ cpLen c)
include hmore

theorem deviceStep_moves (hread : readSource s fid (getSlot s mb k) mb k (cpSrc c + (getSlot s mb k).offset)
      (min (cpLen c - (getSlot s mb k).offset) (128 - (cpDst c + (getSlot s mb k).offset) % 128)) = (u, (data, .none)))
    (hdata : data ≠ []) (htrans : translate u (copyAccess fid (getSlot s mb k) 1) (cpDst c + (getSlot s mb k).offset) = (v, .ok pa)) :
    deviceStep s fid mb k c =
      advance (writeBytesPa v (copyVia u (getSlot s mb k) mb k) pa (cpHint c) data) mb k data.length := by
  simp only [deviceStep, if_neg hmore, hread, List.isEmpty_iff, if_neg hdata, writeDest_ok htrans, stopped]

theorem toHostStep_moves {p : Nat} (hmb : mb = .host p) (hawake : (getPort s p).d3hot = false) (hlink : (getPort s p).link = .l0)
    (hread : readSource s fid (getSlot s mb k) mb k (cpSrc c + (getSlot s mb k).offset)
      (busPiece (cpDst c + (getSlot s mb k).offset) (min 512 (getPort s p).maxPayload) (cpLen c - (getSlot s mb k).offset)) =
        (u, (data, .none))) (hdata : data ≠ []) : toHostStep s fid mb k c =
      advance (hostSend u p (.write TlpAttr.clear (cpDst c + (getSlot s mb k).offset) data)) mb k data.length := by
  subst hmb
  have goes : ((getPort s p).d3hot || (getPort s p).link != .l0) = false := by rw [hawake, hlink]; rfl
  simp only [toHostStep, portOf, if_neg hmore, goes, Bool.false_eq_true, if_false, hread, List.isEmpty_iff, if_neg hdata, stopped]

theorem fillStep_moves {pattern : Nat}
    (htrans : (translate s (copyAccess fid (getSlot s mb k) 1) (cpDst c + (getSlot s mb k).offset)).2 = .ok pa) :
    fillStep s fid mb k c pattern =
      (let line := min (cpLen c - (getSlot s mb k).offset) (128 - (cpDst c + (getSlot s mb k).offset) % 128)
       advance (writeBytesPa (translate s (copyAccess fid (getSlot s mb k) 1) (cpDst c + (getSlot s mb k).offset)).1
        (copyVia s (getSlot s mb k) mb k) pa 0 (patternBytes pattern (getSlot s mb k).offset line)) mb k line) := by
  simp only [fillStep, if_neg hmore, writeDest_ok (Prod.ext rfl htrans)]

end

end

/-- FILL and ZERO end after their last line, and write the line that they are at. -/
theorem fill_runs {s : State} {mb : MboxId} {k c fid opc pattern : Nat} {i : Nat → Instr} (hrun : runsCmd s mb k opc = some c)
    (hexec : ∀ n, exec (i n) s = .next (fillSteps n fid mb k c pattern s)) :
    ((getSlot s mb k).offset = cpLen c → ∀ n, Ended (i (n + 1)) s mb k stOk 0 0 (fun _ => True)) ∧
      (∀ pa, (getSlot s mb k).offset ≠ cpLen c →
        (translate s (copyAccess fid (getSlot s mb k) 1) (cpDst c + (getSlot s mb k).offset)).2 = .ok pa →
        exec (i 1) s = .next (
          let line := min (cpLen c - (getSlot s mb k).offset) (128 - (cpDst c + (getSlot s mb k).offset) % 128)
          advance (writeBytesPa (translate s (copyAccess fid (getSlot s mb k) 1) (cpDst c + (getSlot s mb k).offset)).1
            (copyVia s (getSlot s mb k) mb k) pa 0 (patternBytes pattern (getSlot s mb k).offset line)) mb k line)) := by
  have runs := of_runsCmd_runs hrun
  have there := (of_runsCmd hrun).2
  refine ⟨fun done n => ?_, fun pa more htrans => ?_⟩
  · refine ended_of_finish ((hexec _).trans ?_) there rfl trivial
    rw [fillSteps_succ runs, fillStep_done done, fillSteps_stalled (stalled_finish there ..)]
  · rw [hexec, fillSteps_succ runs, fillStep_moves more htrans]
    rfl

/-! ## Answers to reads (13 R448) -/

section
variable {s : State} {port tag : Nat} {r : HostRead} (hon : s.powered = true) (hread : readByTag (getPort s port) tag = some r)
include hon hread

theorem execHostReadCompletion_answers (hlink : (getPort s port).link = .l0) (data : List Byte) (bad : Bool) :
    execHostReadCompletion port tag data bad s = .next (afterRead (setRead (if bad then
        logAer s port .poisonedTlp (.hostReadCompletion port tag data bad) else s)
      port r { r with arrived := some ((data ++ List.replicate r.len 0#8).take r.len), poisoned := bad }) r) := by
  have goes : (!s.powered || (getPort s port).link != .l0) = false := by rw [hon, hlink]; rfl
  simp only [execHostReadCompletion, goes, Bool.false_eq_true, if_false, hread]

theorem execHostReadTimeout_fails : execHostReadTimeout port tag s =
    .next (afterRead (setRead (logAer s port .completionTimeout (.hostReadTimeout port tag)) port r { r with failed := true }) r) := by
  simp only [execHostReadTimeout, hon, Bool.not_true, Bool.false_eq_true, if_false, hread]

end

/-- Settles O39: a row moves as many pieces as its budget says, so it starts with none, moves one with one, and ends at the
first once all are moved. What is the model's in it: the engine that FILL and ZERO take (notes/assumptions/61.md), and the
poison of a host's completion, which goes on with its data (64.md). -/
theorem transfersMoveTheirPieces : Obligations.TransfersMoveTheirPieces := by
  unfold Obligations.TransfersMoveTheirPieces
  intro mb k c fid f s hfid hf
  refine ⟨fun hstart => ?copyStarts, fun hstart => ?fillStarts, fun hstart => ?zeroStarts, fun hrun => ?fill, fun hrun => ?zero,
    fun hrun hmove => ⟨fun hdone n => ?copyEnds, fun u v data pa hmore hread hdata htrans => ?copyMoves⟩,
    fun u data p hrun hmove hmb hawake hlink hmore hread hdata => ?toHost, fun port tag data bad r hon hlink hread =>
      ⟨execHostReadCompletion_answers hon hread hlink data bad, execHostReadTimeout_fails hon hread⟩⟩
  case copyStarts =>
    exact transfer_starts (steps := fun n => moveSteps n fid mb k c) (of_startsCmd hstart).2 (execCopy_starts hfid hf hstart)
      (fun _ => rfl) fun n _ h => moveSteps_stalled h n fid c
  case fillStarts =>
    exact transfer_starts (steps := fun n => fillSteps n fid mb k c (bits c 63 0)) (of_startsCmd hstart).2
      (fun n => congrArg _ (fillRow_starts hfid hf hstart n ..)) (fun _ => rfl) fun n _ h => fillSteps_stalled h n fid c _
  case zeroStarts =>
    exact transfer_starts (steps := fun n => fillSteps n fid mb k c 0) (of_startsCmd hstart).2
      (fun n => congrArg _ (fillRow_starts hfid hf hstart n ..)) (fun _ => rfl) fun n _ h => fillSteps_stalled h n fid c _
  case fill => exact fill_runs hrun fun n => congrArg _ (fillRow_runs hfid hrun n ..)
  case zero => exact fill_runs hrun fun n => congrArg _ (fillRow_runs hfid hrun n ..)
  case copyEnds =>
    have there := (of_runsCmd hrun).2
    refine ended_of_finish ((execCopy_runs hfid hrun (by rw [hmove]; decide) _).trans ?_) there rfl trivial
    rw [moveSteps_succ (of_runsCmd_runs hrun), moveStep, hmove]
    dsimp only
    rw [deviceStep_done hdone, moveSteps_stalled (stalled_finish there ..)]
  case copyMoves =>
    refine (execCopy_runs hfid hrun (by rw [hmove]; decide) _).trans ?_
    rw [moveSteps_succ (of_runsCmd_runs hrun), moveStep, hmove]
    exact congrArg _ (deviceStep_moves hmore hread hdata htrans)
  case toHost =>
    refine (execCopy_runs hfid hrun (by rw [hmove]; decide) _).trans ?_
    rw [moveSteps_succ (of_runsCmd_runs hrun), moveStep, hmove]
    exact congrArg _ (toHostStep_moves hmore hmb hawake hlink hread hdata)

end Sys2Proof.Machine
end

section
/-! PROOFS. Plates and node images are checked, accepted, sealed and installed (12 R412 to R414; 15 R509 to R514, R520 to
R522). -/

namespace Sys2Proof.Machine

open Sys2Proof

/-! ## PLATE_LOAD and IMAGE_INSTALL: the image and its checks -/

section
variable {s : State} {mb : MboxId} {k c fid : Nat} {f : Forme} (hstart : startsCmd s mb k 0x40 = some c)
  (hfid : formeOfMbox s mb = some fid)

section
variable (hf : getForme s fid = some f)
include hstart hfid hf

theorem execPlateLoad_badWord {st d : Nat} (hbad : firstBad (plChecks c) = some (st, d)) :
    execPlateLoad mb k s = .next (finish s mb k st d 0) := by
  simp only [execPlateLoad, hstart, hfid, hf, Option.bind_some, Option.map_some, hbad]
  rfl

section
variable (hword : firstBad (plChecks c) = none)
include hword

theorem execPlateLoad_unreadable (hread : (readImage s fid c).2.2.2 = false) :
    execPlateLoad mb k s = .next (rejectImage (readImage s fid c).1 mb k stBadField (readImage s fid c).2.1) := by
  simp only [execPlateLoad, hstart, hfid, hf, Option.bind_some, Option.map_some, hword, hread, Bool.not_false, if_true]

section
variable (hread : (readImage s fid c).2.2.2 = true) (hplate : isNodeImage (readImage s fid c).2.2.1 = false)
include hread hplate

theorem execPlateLoad_badImage {st off : Nat}
    (hbad : plateErrors f (readImage s fid c).2.2.1 (plLen c) (Config.freeBool s.free) = some (st, off)) :
    execPlateLoad mb k s = .next (rejectImage (readImage s fid c).1.drawn mb k st off) := by
  simp only [execPlateLoad, hstart, hfid, hf, Option.bind_some, Option.map_some, hword, hread, hplate, hbad, Bool.not_true,
    Bool.false_eq_true, if_false]

variable (hfine : plateErrors f (readImage s fid c).2.2.1 (plLen c) (Config.freeBool s.free) = none)
include hfine

theorem execPlateLoad_sealed (hsealed : (f.plate.bind (·.sealKey)).isSome = true) (hover : bit c 128 = false) :
    execPlateLoad mb k s = .next (reject (readImage s fid c).1 mb k stPlateSealed (fieldOff 128)) := by
  simp only [execPlateLoad, hstart, hfid, hf, Option.bind_some, Option.map_some, hword, hread, hplate, hfine, hsealed, hover,
    Bool.not_true, Bool.false_eq_true, if_false, Bool.not_false, Bool.and_self, if_true]

theorem execPlateLoad_accepts (hopen : (f.plate.bind (·.sealKey)).isSome = false ∨ bit c 128 = true)
    (hranges : (checkRanges f (readImage s fid c).2.2.1 { err := none, taken := [] }).err = none)
    (hroom : s.journal.full = false) (hheld : journalHeld s = false) : execPlateLoad mb k s =
      .next (acceptPlate (readImage s fid c).1 fid f (readImage s fid c).2.2.1 mb k) := by
  have goes : ((f.plate.bind (·.sealKey)).isSome && !bit c 128) = false := by
    rcases hopen with unsealed | overrides
    · rw [unsealed, Bool.false_and]
    · rw [overrides, Bool.not_true, Bool.and_false]
  simp only [execPlateLoad, hstart, hfid, hf, Option.bind_some, Option.map_some, hword, hread, hplate, hfine, goes, hranges,
    hroom, hheld, Bool.not_true, Bool.false_eq_true, if_false]

end

end

end

section
variable (hword : firstBad (plChecks c) = none) (hread : (readImage s fid c).2.2.2 = true)
  (hnode : isNodeImage (readImage s fid c).2.2.1 = true)
include hstart hfid hword hread hnode

theorem execImageInstall_denied (hadmin : isAdmin s mb = false) :
    execImageInstall mb k s = .next (reject (readImage s fid c).1 mb k stNotPermitted 0) := by
  simp only [execImageInstall, hstart, hfid, hword, hread, hnode, hadmin, Option.isSome_none, Bool.not_true, Bool.or_false,
    Bool.false_eq_true, if_false, Bool.not_false, if_true]

variable (hadmin : isAdmin s mb = true)
include hadmin

theorem execImageInstall_badImage {st off : Nat} (hbad : nodeImageErrors (readImage s fid c).2.2.1 (plLen c) = some (st, off)) :
    execImageInstall mb k s = .next (rejectImage (readImage s fid c).1 mb k st off) := by
  simp only [execImageInstall, hstart, hfid, hword, hread, hnode, hadmin, hbad, Option.isSome_none, Bool.not_true, Bool.or_false,
    Bool.false_eq_true, if_false]

/-- The checks of an image that holds together. -/
def installChecks (s : State) (img : List Byte) : List (Bool × Nat × Nat) :=
  [(!imageVerifies s img, stSigFail, fieldOff 0), (s.flash.programming.isSome, stResourceBusy, 0), journalCheck s]

variable (hfine : nodeImageErrors (readImage s fid c).2.2.1 (plLen c) = none)
include hfine

theorem execImageInstall_checks : execImageInstall mb k s =
    .next (checked (readImage s fid c).1 mb k (installChecks s (readImage s fid c).2.2.1)
      (finish { (readImage s fid c).1 with flash := { (readImage s fid c).1.flash with
        programming := some (programmingOf s (readImage s fid c).2.2.1) } } mb k stOk 0 0)) := by
  simp only [execImageInstall, hstart, hfid, hword, hread, hnode, hadmin, hfine, Option.isSome_none, Bool.not_true,
    Bool.or_false, Bool.false_eq_true, if_false]
  rfl

theorem execImageInstall_unsigned (hsig : imageVerifies s (readImage s fid c).2.2.1 = false) :
    execImageInstall mb k s = .next (reject (readImage s fid c).1 mb k stSigFail (fieldOff 0)) := by
  rw [execImageInstall_checks hstart hfid hword hread hnode hadmin hfine, installChecks, hsig]
  rfl

theorem execImageInstall_programs (hsig : imageVerifies s (readImage s fid c).2.2.1 = true) (hidle : s.flash.programming = none)
    (hroom : s.journal.full = false) : execImageInstall mb k s =
      .next (finish { (readImage s fid c).1 with flash := { (readImage s fid c).1.flash with
        programming := some (programmingOf s (readImage s fid c).2.2.1) } } mb k stOk 0 0) := by
  rw [execImageInstall_checks hstart hfid hword hread hnode hadmin hfine, installChecks, journalCheck, hsig, hidle, hroom]
  rfl

end

end

/-! ## A plate takes its place (12 R413) -/

/-- What becomes of the range table and the fault records of a forme changes neither its plate nor a slot. -/
structure EntriesOnly (fid : Nat) (s t : State) : Prop where
  slots : ∀ mb, slotsOf t mb = slotsOf s mb
  plate : (getForme t fid).map (·.plate) = (getForme s fid).map (·.plate)

namespace EntriesOnly

variable {fid : Nat} {s t u : State}

theorem refl (fid : Nat) (s : State) : EntriesOnly fid s s := ⟨fun _ => rfl, rfl⟩

theorem trans (h : EntriesOnly fid s t) (k : EntriesOnly fid t u) : EntriesOnly fid s u :=
  ⟨fun mb => (k.slots mb).trans (h.slots mb), k.plate.trans h.plate⟩

theorem addEntry {f : Forme} (hf : getForme s fid = some f) (e : RangeEntry) : EntriesOnly fid s (addEntry s fid e) := by
  obtain ⟨poison, errors, frame⟩ := modRanges_frame hf (fun es => es ++ [e])
  refine ⟨slotsOf_modRanges hf _, ?_⟩
  rw [Machine.addEntry, frame, hf]
  exact (congrArg (Option.map Forme.plate) (mapGet_mapSet_self ..)).trans rfl

theorem createEntry (fid : Nat) (s : State) (x : PlateExt) : EntriesOnly fid s (createEntry fid s x) := by
  unfold Machine.createEntry
  split
  · exact refl ..
  · next f hf =>
    split
    · exact refl ..
    · exact addEntry hf _

theorem resolveCovered (fid : Nat) (s : State) (a b : Nat) : EntriesOnly fid s (resolveCovered s fid a b) := by
  unfold Machine.resolveCovered resolveFaults
  exact ⟨slotsOf_modForme s fid (by intro; rfl), map_mapMod s.formes fid _ (·.plate) (by intro; rfl) fid⟩

theorem foldl {α : Type} {step : State → α → State} (h : ∀ s x, EntriesOnly fid s (step s x)) (l : List α) (s : State) :
    EntriesOnly fid s (l.foldl step s) :=
  List.foldlRecOn _ _ (refl fid s) fun _ ht x _ => ht.trans (h _ x)

end EntriesOnly

section
variable {s : State} {fid : Nat} {mb : MboxId} (hthere : MboxThere s mb)
include hthere

/-- A load that is complete has ended OK, with the plate in its place. -/
theorem endLoad_ends {f : Forme} (hf : getForme s fid = some f) (k : Nat) :
    (getSlot (endLoad s fid mb k) mb k).phase = .finished ∧ (getSlot (endLoad s fid mb k) mb k).status = stOk ∧
      ∃ g, getForme (endLoad s fid mb k) fid = some g ∧ g.plate = f.plate ∧ g.loading = none := by
  obtain ⟨u, hu, ends⟩ : ∃ u, EntriesOnly fid s u ∧
      endLoad s fid mb k = finish (modForme u fid (fun x => { x with loading := none })) mb k stOk 0 0 := by
    unfold endLoad
    split
    · exact ⟨_, .foldl (fun s (x : PlateExt) => .resolveCovered fid s x.va (x.va + x.len)) _ s, rfl⟩
    · exact ⟨s, .refl fid s, rfl⟩
  have slots := slotsOf_modForme u fid (g := fun x => { x with loading := none }) (by intro; rfl) mb
  have finished : getSlot (endLoad s fid mb k) mb k =
      { getSlot u mb k with phase := .finished, status := stOk, detail := 0, result := 0 } := by
    rw [ends, finish, getSlot_modSlot_self ((hthere.congr (hu.slots mb)).congr slots), getSlot_congr slots]
  refine ⟨by rw [finished], by rw [finished], ?_⟩
  obtain ⟨x, hx, plate⟩ : ∃ x, getForme u fid = some x ∧ x.plate = f.plate := by
    have kept := hu.plate
    rw [hf, Option.map_some, Option.map_eq_some_iff] at kept
    exact kept
  obtain ⟨g, hg, same⟩ := getForme_finish (s := modForme u fid (fun x => { x with loading := none }))
    (f := { x with loading := none }) (by rw [getForme_modForme_self, hx]; rfl) mb k stOk 0 0
  have samePlate : g.plate = x.plate := (congrArg Forme.plate same :)
  exact ⟨g, ends ▸ hg, samePlate.trans plate, (congrArg Forme.loading same :)⟩

/-- A plate that locks nothing takes its place at once. -/
theorem installPlate_ends (hf : (getForme s fid).isSome = true) {p : Plate} (hlocks : p.regions = []) (k : Nat) :
    (getSlot (installPlate s fid p mb k) mb k).phase = .finished ∧ (getSlot (installPlate s fid p mb k) mb k).status = stOk ∧
      ∃ g, getForme (installPlate s fid p mb k) fid = some g ∧ g.plate = some p ∧ g.loading = none := by
  have entries := EntriesOnly.foldl (.createEntry fid) p.exts s
  have slots := slotsOf_modForme (p.exts.foldl (createEntry fid) s) fid (g := fun x => { x with plate := some p }) (by intro; rfl) mb
  obtain ⟨x, hx⟩ : ∃ x, getForme (p.exts.foldl (createEntry fid) s) fid = some x := by
    have kept := congrArg Option.isSome entries.plate
    rw [Option.isSome_map, Option.isSome_map, hf] at kept
    exact Option.isSome_iff_exists.mp kept
  have install : installPlate s fid p mb k =
      endLoad (modForme (p.exts.foldl (createEntry fid) s) fid (fun x => { x with plate := some p })) fid mb k := by
    rw [installPlate, hlocks]
    rfl
  rw [install]
  exact endLoad_ends ((hthere.congr (entries.slots mb)).congr slots) (f := { x with plate := some p })
    (by rw [getForme_modForme_self, hx]; rfl) k

end

/-- The forme of an accepted image, before its load takes a step: the entry is written and the plate is being loaded. -/
def plateLoading (s : State) (mb : MboxId) (k fid : Nat) (p : Plate) : State :=
  modForme (journalWrite s (jEntry (originOf s mb k) 0x06 fid 1 0 (measureDigest p.measurement))) fid
    (fun x => { x with loading := some p })

section
variable {s : State} {mb : MboxId} {k fid : Nat} {f : Forme} {p : Plate}

theorem slotsOf_plateLoading (mb' : MboxId) : slotsOf (plateLoading s mb k fid p) mb' = slotsOf s mb' :=
  (slotsOf_modForme _ fid (by intro; rfl) mb').trans (slotsOf_journalWrite ..)

theorem getForme_plateLoading (hf : getForme s fid = some f) :
    getForme (plateLoading s mb k fid p) fid = some { f with loading := some p } := by
  rw [plateLoading, getForme_modForme_self, (journalWrite_frame ..).getForme, hf]
  rfl

theorem acceptPlate_loads (hnone : f.plate = none) {img : List Byte} (hlocks : (plateOf f img).regions = []) :
    acceptPlate s fid f img mb k = loadStep (runOn (plateLoading s mb k fid (plateOf f img)) mb k 0) fid mb k := by
  rw [acceptPlate, hlocks, hnone]
  rfl

/-- An image for a forme without a plate. -/
theorem acceptPlate_installs (hthere : MboxThere s mb) (hf : getForme s fid = some f) (hnone : f.plate = none) {img : List Byte}
    (hlocks : (plateOf f img).regions = []) : ∃ u, MboxThere u mb ∧ (getForme u fid).isSome = true ∧
      acceptPlate s fid f img mb k = installPlate u fid (plateOf f img) mb k := by
  obtain ⟨g, hg, same⟩ := getForme_runOn (getForme_plateLoading (mb := mb) (k := k) (p := plateOf f img) hf) mb k 0
  have plate : g.plate = none := (congrArg Forme.plate same :).trans hnone
  have load : g.loading = some (plateOf f img) := (congrArg Forme.loading same :)
  refine ⟨_, (hthere.congr (slotsOf_plateLoading mb)).modMbox mb _, Option.isSome_iff_exists.mpr ⟨g, hg⟩, ?_⟩
  rw [acceptPlate_loads hnone hlocks, loadStep, hg]
  simp only [load, plate]
  rfl

end

/-! ## PLATE_SEAL (15 R520 to R522) -/

/-- What is checked before the seal is read. -/
def sealWordChecks (p : Plate) (c : Nat) : List (Bool × Nat × Nat) :=
  [(p.sealKey.isSome, stPlateSealed, 0), (bits c 95 64 == 0, stBadLength, fieldOff 64), reservedCheck [(95, 64), (63, 0)] c,
   vaCheck c 0, (bits c 95 64 != 784, stBadField, fieldOff 64)]

/-- What is checked of a seal that could be read, or not. -/
def sealChecks (s : State) (f : Forme) (p : Plate) (b : List Byte) (readable : Bool) : List (Bool × Nat × Nat) :=
  [(!readable || sealFormat b != 2 || sealReserved b != 0, stBadField, fieldOff 0), (!sealVerifies s f p b, stSigFail, fieldOff 0),
   journalCheck s]

/-- The plate of the forme sealed, and the entry that says so. -/
def plateSealed (s t : State) (mb : MboxId) (k fid : Nat) (b : List Byte) : State :=
  modForme (journalWrite t (jEntry (originOf s mb k) 0x07 fid 1 0 (digest16 b))) fid (fun x =>
    { x with plate := x.plate.map (fun p => { p with sealKey := some (ofBytes (sha256 (sealModulus b))) }) })

section
variable {s : State} {mb : MboxId} {k c fid : Nat} {f : Forme} (hstart : startsCmd s mb k 0x41 = some c)
  (hfid : formeOfMbox s mb = some fid) (hf : getForme s fid = some f)
include hstart hfid hf

theorem execPlateSeal_unplated (hp : f.plate = none) : execPlateSeal mb k s = .next (reject s mb k stNoPlate 0) := by
  simp only [execPlateSeal, hstart, hfid, hf, hp, Option.bind_some, Option.map_some]

variable {p : Plate} (hp : f.plate = some p)
include hp

/-- A field of the command that fails reads nothing (00 R13, R14). -/
theorem execPlateSeal_badWord {st d : Nat} (hbad : firstBad (sealWordChecks p c) = some (st, d)) :
    execPlateSeal mb k s = .next (reject s mb k st d) := by
  have bad (rest : List (Bool × Nat × Nat)) : firstBad (sealWordChecks p c ++ rest) = some (st, d) := by
    rw [firstBad_append, hbad, Option.some_or]
  rw [sealWordChecks] at hbad bad
  simp only [execPlateSeal, hstart, hfid, hf, hp, Option.bind_some, Option.map_some, hbad, bad, Option.isSome_some, if_true,
    Option.isNone_some, Bool.false_and, Bool.false_eq_true, if_false]
  rw [checked_fails (bad _), reject]

section
variable (hword : firstBad (sealWordChecks p c) = none)
include hword

theorem execPlateSeal_checks (hgoes : firstBad (sealChecks s f p (peekVa s fid (bits c 63 0) 784).2.2.1
      (peekVa s fid (bits c 63 0) 784).2.2.2) = none → journalHeld s = false) :
    execPlateSeal mb k s = .next (checked (peekVa s fid (bits c 63 0) 784).1 mb k
      (sealChecks s f p (peekVa s fid (bits c 63 0) 784).2.2.1 (peekVa s fid (bits c 63 0) 784).2.2.2)
      (finish (plateSealed s (peekVa s fid (bits c 63 0) 784).1 mb k fid (peekVa s fid (bits c 63 0) 784).2.2.1)
        mb k stOk 0 0)) := by
  have rest (cs : List (Bool × Nat × Nat)) : firstBad (sealWordChecks p c ++ cs) = firstBad cs := by
    rw [firstBad_append, hword, Option.none_or]
  have goes : ((firstBad (sealChecks s f p (peekVa s fid (bits c 63 0) 784).2.2.1
      (peekVa s fid (bits c 63 0) 784).2.2.2)).isNone && journalHeld s) = false := by
    cases hfirst : firstBad (sealChecks s f p (peekVa s fid (bits c 63 0) 784).2.2.1 (peekVa s fid (bits c 63 0) 784).2.2.2) with
    | none => rw [hgoes hfirst, Bool.and_false]
    | some bad => rfl
  rw [sealWordChecks] at hword rest
  rw [sealChecks] at goes ⊢
  simp only [execPlateSeal, hstart, hfid, hf, hp, Option.bind_some, Option.map_some, hword, Option.isSome_none,
    Bool.false_eq_true, if_false, rest, goes, checked]
  rfl

end

end

/-! ## FLASH_PROGRAM_DONE (15 R514) -/

theorem journalWrite_flash (s : State) (e : JEntry) : (journalWrite s e).flash = begunFlash s :=
  (journalPlace_booted e (gapEntry_booted (bootEntry_boots s))).2

/-- The flash that holds the image it was programmed with, and prefers it. -/
def programmed (x : Flash) : Programming → Flash
  | .lumiz bank img =>
    { (if bank = 0 then { x with bankA := some img } else { x with bankB := some img } : Flash) with
      preferredBank := bank, programming := none }
  | .config slot cfg =>
    { (if slot = 0 then { x with slot0 := some cfg } else { x with slot1 := some cfg } : Flash) with
      preferredSlot := slot, programming := none }

theorem execFlashProgramDone_programmed {s : State} (hon : s.powered = true) (hheld : journalHeld s = false) {x : Programming}
    (hx : s.flash.programming = some x) :
    ∃ t, execFlashProgramDone s = .next t ∧ t.flash = begunFlash { s with flash := programmed s.flash x } := by
  have goes : (s.flash.programming.isSome && journalHeld s) = false := by rw [hheld, Bool.and_false]
  unfold execFlashProgramDone
  rw [hon, goes, Bool.not_true, if_neg Bool.false_ne_true, if_neg Bool.false_ne_true]
  cases x with
  | lumiz bank img =>
    simp only [hx]
    exact ⟨_, rfl, (journalWrite_flash ..).trans (by simp only [programmed, hx])⟩
  | config slot cfg =>
    simp only [hx]
    exact ⟨_, rfl, (journalWrite_flash ..).trans (by simp only [programmed, hx])⟩

/-- What the fields of a PLATE_SEAL must be for its checks to pass (15 R522). -/
theorem sealWordChecks_none {p : Plate} {c : Nat} (hkey : p.sealKey = none) (hlen : bits c 95 64 = 784)
    (hres : reservedAt [(95, 64), (63, 0)] c = none) (hva : bits c 63 56 = 0) : firstBad (sealWordChecks p c) = none := by
  rw [sealWordChecks, reservedCheck_none hres, vaCheck, hkey, hlen, hva]
  rfl

/-- Settles O41: each row by the first of its checks that fails; a plate that locks nothing by the load's one step; the flash
by what a journal entry leaves of it. What is the model's in it: PLATE_SEALED after the checks of the image, and its DETAIL
(notes/assumptions/51.md), the slot that is programmed (52.md), and the DETAIL of PLATE_SEAL (53.md). -/
theorem imagesAreCheckedAndTakeTheirPlace : Obligations.ImagesAreCheckedAndTakeTheirPlace := by
  unfold Obligations.ImagesAreCheckedAndTakeTheirPlace
  refine ⟨fun mb k c fid f s hstart hfid hf => ⟨fun st d hbad => ?word, fun hword hread => ?unreadable,
      fun hword hread hplate => ⟨fun st off hbad => ?image, fun hfine => ⟨fun hsealed hover => ?sealed,
        fun hopen hranges hroom hheld => ?accepts⟩⟩,
      fun hword hread hnode => ⟨fun hadmin => ?denied, fun hadmin => ⟨fun st off hbad => ?nodeImage, fun hfine hsig => ?unsigned,
        fun hfine hsig hidle hroom => ?programs⟩⟩⟩,
    fun mb k fid f img u hf hthere hnone hlocks => ?place,
    fun mb k c fid f s hstart hfid hf => ⟨fun hp => ?unplated, fun p hp => ⟨fun hkey => ?again, fun hkey hlen => ?length,
        fun o hkey hlen hres => ?reserved⟩, fun p hp hkey hlen hres hva hbad => ?format,
      fun p hp hkey hlen hres hva hread hformat hzero hroom => ⟨fun hsig => ?sig, fun hsig hheld => ?seals⟩⟩,
    fun s hon hheld => ⟨fun bank img hprog => ?bank, fun slot cfg hprog => ?slot⟩⟩
  case word => exact ended_of_finish (execPlateLoad_badWord hstart hfid hf hbad) (of_startsCmd hstart).2 rfl trivial
  case unreadable => exact execPlateLoad_unreadable hstart hfid hf hword hread
  case image => exact execPlateLoad_badImage hstart hfid hf hword hread hplate hbad
  case sealed => exact execPlateLoad_sealed hstart hfid hf hword hread hplate hfine hsealed hover
  case accepts => exact execPlateLoad_accepts hstart hfid hf hword hread hplate hfine hopen hranges hroom hheld
  case denied => exact execImageInstall_denied hstart hfid hword hread hnode hadmin
  case nodeImage => exact execImageInstall_badImage hstart hfid hword hread hnode hadmin hbad
  case unsigned => exact execImageInstall_unsigned hstart hfid hword hread hnode hadmin hfine hsig
  case programs => exact execImageInstall_programs hstart hfid hword hread hnode hadmin hfine hsig hidle hroom
  case place =>
    obtain ⟨v, there, forme, accept⟩ := acceptPlate_installs (k := k) hthere hf hnone hlocks
    rw [accept]
    exact installPlate_ends there forme hlocks k
  case unplated => exact execPlateSeal_unplated hstart hfid hf hp
  case again =>
    refine execPlateSeal_badWord hstart hfid hf hp ?_
    rw [sealWordChecks, hkey]
    rfl
  case length =>
    refine execPlateSeal_badWord hstart hfid hf hp ?_
    rw [sealWordChecks, hkey, hlen]
    rfl
  case reserved =>
    refine execPlateSeal_badWord hstart hfid hf hp ?_
    rw [sealWordChecks, hkey, reservedCheck, hres]
    simp [firstBad, hlen]
  case format =>
    have bad : firstBad (sealChecks s f p (peekVa s fid (bits c 63 0) 784).2.2.1 (peekVa s fid (bits c 63 0) 784).2.2.2) =
        some (stBadField, fieldOff 0) := by
      refine if_pos ?_
      refine Decidable.byContradiction fun fine => ?_
      exact hbad (by simpa [and_assoc] using fine)
    refine (execPlateSeal_checks hstart hfid hf hp (sealWordChecks_none hkey hlen hres hva) ?_).trans ?_
    · exact fun passes => absurd (bad.symm.trans passes) (by simp)
    · rw [checked_fails bad, reject]
  case sig =>
    have bad : firstBad (sealChecks s f p (peekVa s fid (bits c 63 0) 784).2.2.1 (peekVa s fid (bits c 63 0) 784).2.2.2) =
        some (stSigFail, fieldOff 0) := by
      rw [sealChecks, hread, hformat, hzero, hsig]
      rfl
    refine (execPlateSeal_checks hstart hfid hf hp (sealWordChecks_none hkey hlen hres hva) ?_).trans ?_
    · exact fun passes => absurd (bad.symm.trans passes) (by simp)
    · rw [checked_fails bad, reject]
  case seals =>
    refine (execPlateSeal_checks hstart hfid hf hp (sealWordChecks_none hkey hlen hres hva) fun _ => hheld).trans ?_
    rw [checked_passes, plateSealed]
    rw [sealChecks, journalCheck, hread, hformat, hzero, hsig, hroom]
    rfl
  case bank =>
    obtain ⟨t, runs, flash⟩ := execFlashProgramDone_programmed hon hheld hprog
    refine ⟨t, runs, ?_⟩
    rw [flash, begunFlash, programmed]
    refine ⟨?_, rfl, rfl⟩
    split <;> rfl
  case slot =>
    obtain ⟨t, runs, flash⟩ := execFlashProgramDone_programmed hon hheld hprog
    refine ⟨t, runs, ?_⟩
    rw [flash, begunFlash, programmed]
    refine ⟨?_, rfl, rfl⟩
    split <;> rfl

end Sys2Proof.Machine
end

section
/-! PROOFS. What ends passes, formes and mesh jobs: PASS_ABORT, FORME_RESET, FORME_DESTROY, MESH_JOB_SETUP and
MESH_JOB_RELEASE (12 R408, R423; 14 R467 to R470; 15 Table 15.3; 18 R588, R589). -/

namespace Sys2Proof.Machine

open Sys2Proof

/-! ## RESET_FORME (12 R423, 18 R588, R589) -/

theorem recentPass_journalReset (s : State) (mb : MboxId) (k c f seq : Nat) :
    recentPass (journalReset s mb k c) f seq = recentPass s f seq := by
  rw [recentPass, journalReset, (journalWrite_frame _ _).getForme]
  rfl

section
variable {s : State} {mb : MboxId} {k c : Nat} (hstart : startsCmd s mb k 0x90 = some c)
include hstart

section
variable {st d : Nat} (hbad : firstBad (resetChecks s c) = some (st, d))
include hbad

theorem execPassAbort_fails (hscope : rfScope c = 1) : execPassAbort mb k s = .next (finish s mb k st d 0) := by
  simp only [execPassAbort, hstart, hscope, hbad, ne_eq, not_true_eq_false, if_false, Option.isNone_some, Bool.false_and,
    Bool.false_eq_true, checked_fails hbad]

theorem execFormeReset_fails (hscope : rfScope c ≠ 1) : execFormeReset mb k s = .next (finish s mb k st d 0) := by
  simp only [execFormeReset, hstart, if_neg hscope, hbad, Option.isNone_some, Bool.false_and, Bool.false_eq_true, if_false,
    checked_fails hbad]

end

variable (hpass : firstBad (resetChecks s c) = none) (hheld : journalHeld s = false)
include hpass hheld

theorem execPassAbort_aborts (hscope : rfScope c = 1) {q : Pass} (hq : recentPass s (rfForme c) (rfSeq c) = some q) :
    execPassAbort mb k s = .next (finish (abortPass (journalReset s mb k c) q) mb k stOk 0 0) := by
  simp only [execPassAbort, hstart, hscope, hheld, recentPass_journalReset, hq, ne_eq, not_true_eq_false, if_false,
    Bool.and_false, Bool.false_eq_true, checked_passes hpass]

theorem execFormeReset_starts (hscope : rfScope c ≠ 1) (hother : resetRuns s (rfForme c) (mb, k) = false)
    (hstays : (getForme s (rfForme c)).any (·.destroying) = false) : execFormeReset mb k s =
      .next (resetEnds (abortForme (runOn (journalReset s mb k c) mb k 0) (rfForme c) (mb, k)) (rfForme c) mb k) := by
  simp only [execFormeReset, hstart, if_neg hscope, hheld, hother, hstays, Bool.or_self, Bool.and_false, Bool.false_eq_true,
    if_false, checked_passes hpass]

end

theorem execFormeReset_runs {s : State} {mb : MboxId} {k c : Nat} (hrun : runsCmd s mb k 0x90 = some c) :
    execFormeReset mb k s = .next (resetEnds s (rfForme c) mb k) := by
  simp only [execFormeReset, (of_runsCmd hrun).1, hrun]

/-! ## The end of a pass (18 R588) -/

/-- The records an abort interrupts are added to the pass; its number and its forme stay. -/
theorem interrupted_names (s : State) (q : Pass) : (interrupted s q).forme = q.forme ∧ (interrupted s q).seq = q.seq := by
  unfold interrupted
  split <;> exact ⟨rfl, rfl⟩

theorem abortPass_running {s : State} {q : Pass} (h : q.phase = .running) : abortPass s q =
    endPass (clearProof (stopSticks s (fun t => t.forme == q.forme && t.passSeq == q.seq)) q.seq)
      (interrupted s { q with tEnd := s.now }) stAborted := by
  obtain ⟨forme, seq⟩ := interrupted_names s { q with tEnd := s.now }
  rw [abortPass, if_pos h]
  simp only [forme, seq]

theorem interrupted_discards {s : State} {q : Pass} {f : Forme} (hf : getForme s q.forme = some f) (hbegun : q.begun s = true) :
    ∀ r ∈ (interrupted s { q with tEnd := s.now }).records, r.attempt = q.attempt → r.staged = true → r.discarded = true := by
  have begun : ({ q with tEnd := s.now } : Pass).begun s = true := hbegun
  intro r hr hattempt hstaged
  simp only [interrupted, begun, if_true, hf] at hr
  exact (mark_records (P := fun r => r.discarded = true) (fun _ => rfl) hr).resolve_right fun other => other ⟨hattempt, hstaged⟩

/-! ## FORME_DESTROY (12 R408, 15 Table 15.3) -/

section
variable {s : State} {mb : MboxId} {k c : Nat}

theorem execFormeDestroy_fails (hstart : startsCmd s mb k 0x11 = some c) {st d : Nat}
    (hbad : firstBad (fdChecks s c) = some (st, d)) : execFormeDestroy mb k s = .next (finish s mb k st d 0) := by
  simp only [execFormeDestroy, hstart, hbad, Option.isNone_some, Bool.false_and, Bool.false_eq_true, if_false, checked_fails hbad]

/-- A destroy that has begun: its entry, and the forme's commands aborted. -/
def destroyBegun (s : State) (mb : MboxId) (k c : Nat) (f : Forme) : State :=
  abortForme (runOn (modForme (journalWrite s (jEntry ((originOf s mb k).about (fdForme c)) 0x04 (fdForme c) 3 f.created 0))
    (fdForme c) (fun x => { x with destroying := true })) mb k 0) (fdForme c) (mb, k)

theorem execFormeDestroy_starts (hstart : startsCmd s mb k 0x11 = some c) (hpass : firstBad (fdChecks s c) = none)
    (hheld : journalHeld s = false) {f : Forme} (hf : getForme s (fdForme c) = some f) (hstays : f.destroying = false) :
    execFormeDestroy mb k s = .next (destroyStep (destroyBegun s mb k c f) (fdForme c) mb k) := by
  simp only [execFormeDestroy, hstart, hheld, hf, Option.any_some, hstays, Bool.or_self, Bool.and_false, Bool.false_eq_true,
    if_false, checked_passes hpass]
  rfl

theorem execFormeDestroy_runs (hrun : runsCmd s mb k 0x11 = some c) :
    execFormeDestroy mb k s = .next (destroyStep s (fdForme c) mb k) := by
  simp only [execFormeDestroy, (of_runsCmd hrun).1, hrun]

end

/-! ## MESH_JOB_SETUP (14 R467 to R469) -/

/-- The job that a descriptor sets up for a forme, with its routes and its digest. -/
def describedJob (s : State) (g : Nat) (bs : List Byte) : MeshJob :=
  let j := routed s (jobOf g (descOf bs))
  { j with digest := setupDigest s bs j }

section
variable {s : State} {mb : MboxId} {k c g : Nat} {r : State × (Nat × List Byte × Bool)}
  (hstart : startsCmd s mb k 0x80 = some c) (hg : formeOfMbox s mb = some g)
  (hr : peekVa s g (mjDesc c) (min (mjLen c) descMax) = r)
include hstart hg hr

theorem execMeshJobSetup_fails {st e : Nat}
    (hbad : firstBad (setupChecks s c r.2.2.2 (descOf r.2.2.1) (describedJob s g r.2.2.1)) = some (st, e)) :
    execMeshJobSetup mb k s = .next (reject s mb k st e) := by
  rw [describedJob] at hbad
  simp only [execMeshJobSetup, hstart, hg, hr, hbad, Option.isNone_some, Bool.false_and, Bool.false_eq_true, if_false,
    checked_fails hbad]
  rfl

theorem execMeshJobSetup_sets (hpass : firstBad (setupChecks s c r.2.2.2 (descOf r.2.2.1) (describedJob s g r.2.2.1)) = none)
    (hheld : journalHeld s = false) : execMeshJobSetup mb k s = .next (setupJob r.1 mb k (describedJob s g r.2.2.1)) := by
  rw [describedJob] at hpass ⊢
  simp only [execMeshJobSetup, hstart, hg, hr, hheld, Bool.and_false, Bool.false_eq_true, if_false, checked_passes hpass]

end

/-- The entry of a set-up leaves the jobs as they are. -/
def setupEntered (s : State) (mb : MboxId) (k : Nat) (j : MeshJob) : State :=
  journalWrite s (jEntry (originOf s mb k) 0x0B (jobObj j.forme j.job) 1 0 (measureDigest j.digest))

theorem setupEntered_only (s : State) (mb : MboxId) (k : Nat) (j : MeshJob) : JournalOnly s (setupEntered s mb k j) :=
  journalWrite_frame ..

theorem JournalOnly.mesh {s t : State} (h : JournalOnly s t) : t.mesh = s.mesh := by rw [h]

@[simp] theorem finish_mesh (s : State) (mb : MboxId) (k st detail result : Nat) :
    (finish s mb k st detail result).mesh = s.mesh := by cases mb <;> rfl

@[simp] theorem countFor_mesh (s : State) (f : Option Nat) (c : Ctr) (n : Nat) : (countFor s f c n).mesh = s.mesh := by
  rw [(countFor_frame s f c n).1]

section
variable {s : State} {mb : MboxId} {k : Nat} {j : MeshJob}

/-- The set-up that is there is active again. -/
def reactivated (j : MeshJob) (js : List MeshJob) : List MeshJob :=
  js.map (fun x => if sameSetup j x then { x with active := true, closing := false } else x)

theorem setupJob_again (h : s.mesh.jobs.any (sameSetup j) = true) : ∃ u, slotsOf u mb = slotsOf s mb ∧
    u.mesh.jobs = reactivated j s.mesh.jobs ∧ setupJob s mb k j = finish u mb k stOkReused 0 j.digest := by
  have only := setupEntered_only s mb k j
  have again : (setupEntered s mb k j).mesh.jobs.any (sameSetup j) = true := by rw [only.mesh, h]
  refine ⟨_, ?_, ?_, if_pos again⟩
  · obtain ⟨frame, counters⟩ := countFor_frame { setupEntered s mb k j with mesh := { (setupEntered s mb k j).mesh with
      jobs := reactivated j (setupEntered s mb k j).mesh.jobs } } (some j.forme) .meshSetupReused 1
    refine (counters.slotsOf (by rw [frame]) mb).trans ((only.slotsOf mb).symm ▸ ?_)
    cases mb <;> rfl
  · rw [countFor_mesh, ← only.mesh]
    rfl

theorem setupJob_new (h : s.mesh.jobs.any (sameSetup j) = false) : ∃ u, slotsOf u mb = slotsOf s mb ∧
    u.mesh.jobs = programJob s.mesh.jobs j ∧ setupJob s mb k j = finish u mb k stOk 0 j.digest := by
  have only := setupEntered_only s mb k j
  have fresh : ¬ (setupEntered s mb k j).mesh.jobs.any (sameSetup j) = true := by
    rw [only.mesh, h]
    exact Bool.false_ne_true
  refine ⟨_, ?_, ?_, if_neg fresh⟩
  · refine Eq.trans ?_ (only.slotsOf mb)
    cases mb <;> rfl
  · rw [← only.mesh]
    rfl

theorem sameSetup_refl (j : MeshJob) : sameSetup j j = true := by simp [sameSetup]

theorem active_of_reactivated {js : List MeshJob} (h : js.any (sameSetup j) = true) :
    ∃ x ∈ reactivated j js, sameSetup j x = true ∧ x.active = true := by
  obtain ⟨x, hx, same⟩ := List.any_eq_true.mp h
  refine ⟨{ x with active := true, closing := false }, List.mem_map.mpr ⟨x, hx, if_pos same⟩, same, rfl⟩

theorem mem_programJob (js : List MeshJob) (j : MeshJob) : j ∈ programJob js j := List.mem_append_right _ (List.mem_singleton_self j)

/-- A set-up that passed its checks ends OK, or reused, with its digest for its result, and is active. -/
theorem setupJob_ends (hthere : MboxThere s mb) (hactive : j.active = true) :
    (getSlot (setupJob s mb k j) mb k).phase = .finished ∧
      (getSlot (setupJob s mb k j) mb k).status = (if s.mesh.jobs.any (sameSetup j) then stOkReused else stOk) ∧
      (getSlot (setupJob s mb k j) mb k).result = j.digest ∧
      ∃ x ∈ (setupJob s mb k j).mesh.jobs, sameSetup j x = true ∧ x.active = true := by
  cases again : s.mesh.jobs.any (sameSetup j) with
  | true =>
    obtain ⟨u, slots, jobs, ends⟩ := setupJob_again (mb := mb) (k := k) again
    rw [ends, finish_mesh, jobs, finish, getSlot_modSlot_self (hthere.congr slots)]
    exact ⟨rfl, rfl, rfl, active_of_reactivated again⟩
  | false =>
    obtain ⟨u, slots, jobs, ends⟩ := setupJob_new (mb := mb) (k := k) again
    rw [ends, finish_mesh, jobs, finish, getSlot_modSlot_self (hthere.congr slots)]
    exact ⟨rfl, rfl, rfl, j, mem_programJob .., sameSetup_refl j, hactive⟩

end

/-! ## MESH_JOB_RELEASE (14 R470) -/

section
variable {s : State} {mb : MboxId} {k c g : Nat} (hg : formeOfMbox s mb = some g)
include hg

theorem execMeshJobRelease_starts (hstart : startsCmd s mb k 0x81 = some c) (hjob : mjJob c ≠ 0)
    (hres : reservedAt [(7, 0)] c = none) {j : MeshJob}
    (hj : s.mesh.jobs.find? (fun j => j.active && j.forme == g && j.job == mjJob c) = some j) (hroom : s.journal.full = false)
    (hheld : journalHeld s = false) : execMeshJobRelease mb k s = .next (releaseStep (runOn
      (journalWrite s (jEntry (originOf s mb k) 0x0B (jobObj g (mjJob c)) 3 (measureDigest j.digest) 0)) mb k 0) g mb k) := by
  simp only [execMeshJobRelease, hstart, hg, hj, hheld, Bool.and_false, Bool.false_eq_true, if_false]
  rw [checked_passes]
  simp [reservedCheck_none hres, journalCheck, firstBad, hjob, hroom]

theorem execMeshJobRelease_runs (hrun : runsCmd s mb k 0x81 = some c) :
    execMeshJobRelease mb k s = .next (releaseStep s g mb k) := by
  simp only [execMeshJobRelease, (of_runsCmd hrun).1, hrun, hg]

end

theorem releaseStep_copyless {s : State} {g : Nat} (h : meshCopies s g = []) (mb : MboxId) (k : Nat) : releaseStep s g mb k =
    if meshQuiet (closeJobs s g) g then finish (releaseJobs (closeJobs s g) g) mb k stOk 0 0 else closeJobs s g := by
  rw [releaseStep, h]
  rfl

/-- Settles O42: each row by its checks and by what it begins; a pass that an abort ends by the records that it interrupts; a
set-up by whether the jobs hold one of its digest. What is the model's in it: T_END of a pass aborted
(notes/assumptions/49.md), the order of a destroy and of a reset with a mesh that is quiet (82.md), and the DETAIL of a set-up
(85.md). -/
theorem abortsResetsAndReleasesEndWhatRuns : Obligations.AbortsResetsAndReleasesEndWhatRuns := by
  unfold Obligations.AbortsResetsAndReleasesEndWhatRuns
  intro mb k c s
  refine ⟨fun hstart st d hbad => ⟨fun hscope => ?passBad, fun hscope => ?formeBad⟩,
    fun hstart hpass hheld => ⟨fun q hscope hq => ?pass, fun hscope hother hstays => ?forme⟩, fun hrun => ?resetRuns,
    fun q hq => ⟨abortPass_running hq, fun f hf hbegun => interrupted_discards hf hbegun⟩,
    fun hstart => ⟨fun st d hbad => ?destroyBad, fun f hpass hheld hf hstays => ?destroy⟩, execFormeDestroy_runs,
    fun g hg => ⟨fun hstart => ⟨fun st e hbad => ?setupBad, fun hpass hheld => ?setup⟩,
      fun j hthere hactive => setupJob_ends hthere hactive, fun j hstart hjob hres hj hroom hheld => ?release,
      fun hrun hcopies => ?releaseRuns⟩⟩
  case passBad => exact ended_of_finish (execPassAbort_fails hstart hbad hscope) (of_startsCmd hstart).2 rfl trivial
  case formeBad => exact ended_of_finish (execFormeReset_fails hstart hbad hscope) (of_startsCmd hstart).2 rfl trivial
  case pass => exact execPassAbort_aborts hstart hpass hheld hscope hq
  case forme => exact execFormeReset_starts hstart hpass hheld (by rw [hscope]; decide) hother hstays
  case resetRuns => exact execFormeReset_runs hrun
  case destroyBad => exact ended_of_finish (execFormeDestroy_fails hstart hbad) (of_startsCmd hstart).2 rfl trivial
  case destroy => exact ⟨_, execFormeDestroy_starts hstart hpass hheld hf hstays, rfl⟩
  case setupBad => exact execMeshJobSetup_fails hstart hg rfl hbad
  case setup => exact execMeshJobSetup_sets hstart hg rfl hpass hheld
  case release => exact execMeshJobRelease_starts hg hstart hjob hres hj hroom hheld
  case releaseRuns => exact (execMeshJobRelease_runs hg hrun).trans (by rw [releaseStep_copyless hcopies])

end Sys2Proof.Machine
end

section
/-! PROOFS. What every function of the model keeps: the fuses, the straps and the queue (15 R519, Table 15.7; 17 R560),
memory's canonical form, the order of the tables of lines and of snapshots, and the numbers of the journal (15 R525). -/

namespace Sys2Proof.Machine

open Sys2Proof

/-! Each body is elaborated before the next: `Keeps.upd` has default arguments, which wait for the theorems before them. -/
set_option Elab.async false

/-! ## The relation -/

/-- A change of state that leaves the fuses, the straps and the queue, and keeps the invariant. -/
structure Keeps (s t : State) : Prop where
  fixed : fixedOf t = fixedOf s
  consistent : Consistent s → Consistent t

/-- The command answers a next state that keeps both. -/
def Answers (s : State) (o : Host.Outcome State Fault Refusal) : Prop :=
  ∃ t, o = .next t ∧ Keeps s t

variable {r s t : State}

theorem Keeps.refl (s : State) : Keeps s s := ⟨rfl, id⟩

theorem Keeps.trans (h : Keeps r s) (k : Keeps s t) : Keeps r t :=
  ⟨k.fixed.trans h.fixed, k.consistent ∘ h.consistent⟩

/-- The journal's entries are numbered down one by one from the number before the next. -/
def numbered (j : Journal) : Prop := ∀ (i : Nat) (e : JEntry), j.entries[i]? = some e → e.number + i + 1 = j.next

/-- The fuses and the straps. -/
def fixedParts (c : Sec) (p : Pins) : Nat × Nat × Nat × Nat × Bool :=
  (c.grade, c.serial, c.rootDigest, p.sbId, p.tunlkAsserted)

theorem fixedOf_eq (h : fixedParts t.sec t.pins = fixedParts s.sec s.pins) (hp : t.pending = s.pending) :
    fixedOf t = fixedOf s := by
  simp only [fixedParts, Prod.mk.injEq] at h
  obtain ⟨grade, serial, root, id, pin⟩ := h
  simp only [fixedOf, grade, serial, root, id, pin, hp]

/-- A change that keeps what the two statements speak of; that it does is seen by unfolding, but where memory, the lines,
the snapshots or the journal's entries change. -/
theorem Keeps.upd {phase : Phase} {now free applPp applCp dirAge moduleCap : Nat} {pins : Pins} {jtag : Jtag}
    {sec : Sec} {flash : Flash} {config : NodeConfig} {journal : Journal} {lanes : SMap LaneGroup} {gut : Gutter}
    {mem : Bytes} {poison : SMap Unit} {errors : SMap (List (Nat × Byte))} {stackTab : SMap Stack}
    {homeFull recent timedOut powerCmds : SMap Nat} {absentRing : Ring} {lines : SMap Line} {dir : SMap DirEntry}
    {txns : SMap Txn} {streams : SMap Stream} {suspects groupsRunning : List Nat} {l3Locks : List L3Lock}
    {rangeCaches : List (Nat × Engine × List Nat)} {invals : List Inval} {ports : SMap Port} {formes : SMap Forme}
    {loose : Counters} {galleys : SMap Galley} {harts : SMap Hart} {corePower : SMap CorePower}
    {platens : SMap PlatenPower} {comps : SMap CompPower} {moduleIdle waking : Bool} {idleReqs : List Instr}
    {meter : Meter} {mesh : Mesh} {sb : Sideband}
    (h : Keeps r s) (hmem : Memory.wf s.mem = true → Memory.wf mem = true := by exact fun h => h)
    (hlines : keysFrom 0 s.lines = true → keysFrom 0 lines = true := by exact fun h => h)
    (hsnap : keysFrom 0 s.sb.snapshots = true → keysFrom 0 sb.snapshots = true := by simp only [imp_self])
    (hjournal : numbered s.journal → numbered journal := by simp only [numbered, imp_self])
    (hfixed : fixedParts sec pins = fixedParts s.sec s.pins := by simp only [fixedParts]) :
    Keeps r { s with
      phase := phase, now := now, free := free, pins := pins, jtag := jtag, sec := sec, flash := flash,
      config := config, journal := journal, applPp := applPp, applCp := applCp, lanes := lanes, gut := gut,
      mem := mem, poison := poison, errors := errors, stackTab := stackTab, homeFull := homeFull,
      absentRing := absentRing, lines := lines, dir := dir, dirAge := dirAge, txns := txns, streams := streams,
      recent := recent, suspects := suspects, timedOut := timedOut, l3Locks := l3Locks, rangeCaches := rangeCaches,
      invals := invals, ports := ports, formes := formes, loose := loose, galleys := galleys, harts := harts,
      groupsRunning := groupsRunning, corePower := corePower, platens := platens, powerCmds := powerCmds,
      comps := comps, moduleIdle := moduleIdle, waking := waking, idleReqs := idleReqs, moduleCap := moduleCap,
      meter := meter, mesh := mesh, sb := sb } := by
  refine ⟨?_, fun c => ?_⟩
  · rw [← h.fixed]
    exact fixedOf_eq hfixed rfl
  · obtain ⟨a, b, c, d⟩ := h.consistent c
    exact ⟨hmem a, hlines b, hsnap c, hjournal d⟩

theorem Keeps.ite {c : Prop} [Decidable c] (h : Keeps r s) (k : Keeps r t) : Keeps r (if c then s else t) := by
  split
  · exact h
  · exact k

theorem Keeps.fst {α : Type} {x : State × α} {a : α} (h : Keeps r x.1) (e : x = (s, a)) : Keeps r s := by
  rwa [e] at h

theorem Keeps.foldl {α : Type} {f : State → α → State} {l : List α} (h : Keeps r s)
    (hf : ∀ s a, Keeps r s → Keeps r (f s a)) :
    Keeps r (l.foldl f s) := by
  induction l generalizing s with
  | nil => exact h
  | cons a l ih => exact ih (hf s a h)

theorem Keeps.foldlFst {α β : Type} {f : State × β → α → State × β} {l : List α} {x : State × β}
    (h : Keeps r x.1) (hf : ∀ x a, Keeps r x.1 → Keeps r (f x a).1) : Keeps r (l.foldl f x).1 := by
  induction l generalizing x with
  | nil => exact h
  | cons a l ih => exact ih (hf x a h)

theorem Keeps.next (h : Keeps r s) : Answers r (.next s) := ⟨s, rfl, h⟩

theorem Answers.ite {c : Prop} [Decidable c] {a b : Host.Outcome State Fault Refusal} (h : Answers r a)
    (k : Answers r b) : Answers r (if c then a else b) := by
  split
  · exact h
  · exact k

/-! ## The functions of the model, in its order -/

/-! ### Pool -/

theorem keeps_reservedWritten {pa : Nat} (h : Keeps r s) : Keeps r (reservedWritten s pa) := h.upd

/-! ### Ops -/

theorem keeps_drawn (h : Keeps r s) : Keeps r (State.drawn s) := h.upd

theorem keeps_modForme {f : Nat} {g : Forme → Forme} (h : Keeps r s) : Keeps r (modForme s f g) := h.upd

theorem keeps_countFor {f : Option Nat} {c : Ctr} {n : Nat} (h : Keeps r s) : Keeps r (countFor s f c n) := by
  unfold countFor
  split
  · exact keeps_modForme h
  · exact h.upd

theorem keeps_pushNotice {o : SbOut} (h : Keeps r s) : Keeps r (pushNotice s o) := h.upd

theorem keeps_alert {code : Nat} {extra : List Byte} (h :
    Keeps r s) : Keeps r (alert s code extra) :=
  keeps_pushNotice h

theorem keeps_openDigest (h : Keeps r s) : Keeps r (openDigest s).1 := keeps_drawn h

/-- The journal with a further entry: the entry's number is the next one, and one more place behind it than before each
older entry. -/
theorem numbered_put {e : JEntry} {l : List JEntry} {n m : Nat} (hn : e.number = n)
    (h : ∀ (i : Nat) (x : JEntry), l[i]? = some x → x.number + i + 1 = n) (i : Nat) (x : JEntry)
    (hx : ((e :: l).take m)[i]? = some x) : x.number + i + 1 = n + 1 := by
  have hx : (e :: l)[i]? = some x := by rw [List.getElem?_take] at hx; split at hx <;> simp_all
  cases i with
  | zero => simp only [List.getElem?_cons_zero, Option.some.injEq] at hx; rw [← hx, hn]
  | succ i => have := h i x (by simpa using hx); omega

theorem keeps_journalPut {e : JEntry} (h : Keeps r s) : Keeps r (journalPut s e) := by
  refine ⟨?_, fun c => ?_⟩
  · rw [journalPut_frame]
    exact h.fixed
  · obtain ⟨mem, lines, snaps, numbers⟩ := h.consistent c
    have snapshots : (journalPut s e).sb.snapshots = s.sb.snapshots := by
      unfold journalPut
      exact noticed (P := fun u => u.sb.snapshots = s.sb.snapshots) _ rfl fun _ => rfl
    unfold Consistent
    rw [snapshots, journalPut_entries, journalPut_next, journalPut_frame]
    exact ⟨mem, lines, snaps, numbered_put rfl numbers⟩

theorem keeps_bootEntry (h : Keeps r s) : Keeps r (bootEntry s) := .ite ((keeps_journalPut h.upd).upd) h

theorem keeps_journalPlace {e : JEntry} (h : Keeps r s) : Keeps r (journalPlace s e) :=
  .ite h.upd (.ite h.upd (keeps_journalPut h))

theorem keeps_gapEntry (h : Keeps r s) : Keeps r (gapEntry s) := .ite h (keeps_journalPut h.upd)

theorem keeps_journalWrite {e : JEntry} (h : Keeps r s) : Keeps r (journalWrite s e) :=
  keeps_journalPlace (keeps_gapEntry (keeps_bootEntry h))

theorem keeps_holdRow {c : Instr} (h : Keeps r s) : Keeps r (holdRow s c) := h.upd

theorem keeps_journalFlush (h : Keeps r s) : Keeps r (journalFlush s) := h.upd.foldl fun _ _ h => keeps_journalWrite h

theorem keeps_coldEntry (h : Keeps r s) : Keeps r (coldEntry s) := keeps_journalWrite (keeps_openDigest h)

theorem keeps_idleHostPorts (h : Keeps r s) : Keeps r (idleHostPorts s) := h.upd

theorem keeps_idleMeshPorts (h : Keeps r s) : Keeps r (idleMeshPorts s) := h.upd

theorem keeps_powerOffDies (h : Keeps r s) : Keeps r (powerOffDies s) := h.upd id fun _ => rfl

theorem keeps_powerOffStacks (h : Keeps r s) : Keeps r (powerOffStacks s) := h.upd (wf_filter _ _)

theorem keeps_retire {c : RetireCause} (h : Keeps r s) : Keeps r (retire s c) := by
  unfold retire
  refine .ite (Keeps.upd (keeps_powerOffStacks (keeps_powerOffDies (keeps_alert (keeps_journalWrite
    (.ite ?_ ?_)))))) h
  · exact keeps_coldEntry (keeps_idleMeshPorts (keeps_idleHostPorts h.upd))
  · exact keeps_idleMeshPorts (keeps_idleHostPorts h.upd)

theorem keeps_loseCompositorA (h : Keeps r s) : Keeps r (loseCompositorA s) :=
  .ite ((keeps_powerOffDies (keeps_idleMeshPorts (keeps_idleHostPorts h))).upd) h

theorem keeps_agentFails {agent : Nat} (h : Keeps r s) : Keeps r (agentFails s agent) :=
  .ite (keeps_loseCompositorA h) (keeps_retire (keeps_drawn h))

/-! ### Mem -/

theorem keeps_modStack {k : Nat} {g : Stack → Stack} (h : Keeps r s) : Keeps r (modStack s k g) := h.upd

theorem keeps_memRecord {pa kind symbols source lanes : Nat} (h : Keeps r s) :
    Keeps r (memRecord s pa kind symbols source lanes) := .ite (keeps_modStack h) h.upd

theorem keeps_modPch {k p : Nat} {g : Pch → Pch} (h : Keeps r s) : Keeps r (modPch s k p g) := keeps_modStack h

theorem keeps_poisonSector {pa : Nat} (h : Keeps r s) : Keeps r (poisonSector s pa) :=
  Keeps.upd (keeps_modPch (.ite h (keeps_countFor h))) (wf_writeBytes _ _ _)

theorem keeps_memSlot {pa : Nat} {prio write : Bool} (h : Keeps r s) : Keeps r (memSlot s pa prio write) :=
  keeps_countFor (.ite (keeps_countFor (keeps_modPch h)) (keeps_modPch h))

theorem keeps_laneMove {k p lane pa : Nat} (h : Keeps r s) : Keeps r (laneMove s k p lane pa) :=
  .ite (keeps_retire h) ((keeps_modStack h).upd)

theorem keeps_laneDone {k lane pa source : Nat} (h : Keeps r s) : Keeps r (laneDone s k lane pa source) :=
  keeps_countFor (keeps_memRecord h)

theorem keeps_laneToSpare {k p lane pa source : Nat} (h : Keeps r s) : Keeps r (laneToSpare s k p lane pa source) :=
  .ite (keeps_laneMove h) (keeps_laneDone (keeps_laneMove h))

theorem keeps_stackTemp {k t : Nat} (h : Keeps r s) : Keeps r (stackTemp s k t) :=
  keeps_modStack (.ite (keeps_countFor h) h)

theorem keeps_readFails {pa kind symbols source : Nat} (h :
    Keeps r s) : Keeps r (readFails s pa kind symbols source).1 := by
  unfold readFails
  dsimp only
  split
  · exact keeps_memRecord (keeps_drawn (.ite h (keeps_poisonSector h)))
  · exact keeps_memRecord (.ite h (keeps_poisonSector h))

theorem keeps_setErrors {pa : Nat} {p : List (Nat × Nat)} (h :
    Keeps r s) : Keeps r (setErrors s pa p) :=
  .ite h.upd h.upd

theorem keeps_readTag {pa source : Nat} {fixed left : List (Nat × Nat)} (h : Keeps r s) :
    Keeps r (readTag s pa source fixed left).1 := by
  unfold readTag
  dsimp only
  split
  · exact .ite h (keeps_setErrors (keeps_memRecord (keeps_countFor h)))
  · exact keeps_readFails h

theorem keeps_readDecode {pa source : Nat} (h : Keeps r s) : Keeps r (readDecode s pa source).1 := by
  unfold readDecode
  dsimp only
  split
  · exact keeps_readTag h
  · split <;> exact keeps_readFails h

theorem keeps_sectorRead {source : Nat} {prio : Bool} {pa : Nat} (h :
    Keeps r s) : Keeps r (sectorRead source prio pa s).1 := by
  unfold sectorRead
  dsimp only
  split
  · exact keeps_readDecode (keeps_laneToSpare (keeps_memSlot h))
  · exact keeps_readDecode (keeps_memSlot h)

theorem keeps_writeWhole {pa : Nat} {data : List Byte} (h : Keeps r s) : Keeps r (writeWhole s pa data) :=
  h.upd (wf_writeBytes _ _ _)

theorem keeps_burst {pa : Nat} {data : List Byte} (h : Keeps r s) : Keeps r (burst s pa data) :=
  keeps_writeWhole (keeps_modPch (keeps_memSlot h))

theorem keeps_mergeWrite {pa mask : Nat} {data : List Byte} (h : Keeps r s) : Keeps r (mergeWrite s pa mask data) :=
  .ite (keeps_readDecode h) (keeps_burst (keeps_readDecode h))

theorem keeps_sectorWrite {pa mask : Nat} {data : List Byte} (h :
    Keeps r s) : Keeps r (sectorWrite pa mask data s) := by
  unfold sectorWrite
  dsimp only
  split
  · exact keeps_burst h
  · split
    · exact keeps_mergeWrite (keeps_laneToSpare (keeps_memSlot h))
    · exact keeps_mergeWrite (keeps_memSlot h)

theorem keeps_noteRefusal {k : Nat} (h : Keeps r s) : Keeps r (noteRefusal s k) := by
  unfold noteRefusal
  dsimp only
  split
  · exact .ite h.upd h
  · exact .ite h (keeps_countFor h.upd)

theorem keeps_letIn {k p : Nat} (h : Keeps r s) : Keeps r (letIn s k p) := by
  unfold letIn
  split
  · exact keeps_noteRefusal (keeps_modPch h)
  · exact h

theorem keeps_serve {r' : MemReq} (h : Keeps r s) : Keeps r (serve s r') := by
  unfold serve
  split
  · exact keeps_sectorWrite h
  · exact keeps_sectorRead h

theorem keeps_serveFor {n k p : Nat} (h : Keeps r s) : Keeps r (serveFor n s k p) := by
  induction n generalizing s with
  | zero => exact h
  | succ n ih =>
    unfold serveFor
    split
    · exact h
    · exact ih (keeps_serve (keeps_letIn (keeps_modPch h)))

theorem keeps_serveQueue {k p : Nat} (h : Keeps r s) : Keeps r (serveQueue s k p) := keeps_serveFor h

theorem keeps_enqueue {r' : MemReq} (h : Keeps r s) : Keeps r (enqueue s r') := keeps_noteRefusal (keeps_modPch h)

theorem keeps_serveBefore {n k p : Nat} {q : MemReq} (h : Keeps r s) : Keeps r (serveBefore n s k p q) := by
  induction n generalizing s with
  | zero => exact h
  | succ n ih =>
    unfold serveBefore
    split
    · exact h
    · exact .ite (keeps_letIn (keeps_modPch h)) (ih (keeps_serve (keeps_letIn (keeps_modPch h))))

theorem keeps_inTurn {α : Type} {q : MemReq} {act : State → State × α} (h : Keeps r s)
    (hact : ∀ s, Keeps r s → Keeps r (act s).1) : Keeps r (inTurn s q act).1 := by
  unfold inTurn
  dsimp only
  split
  · exact hact s h
  · exact keeps_serveQueue (hact _ (keeps_serveBefore (keeps_enqueue h)))

theorem keeps_heldPa {k p : Nat} (h : Keeps r s) : Keeps r (heldPa s k p).1 := by
  unfold heldPa
  split
  · exact h
  · exact keeps_drawn h

theorem keeps_reissue {k p : Nat} (h : Keeps r s) : Keeps r (reissue s k p) :=
  (keeps_modPch h).foldl fun _ _ h => keeps_writeWhole h

theorem keeps_goOn {k p : Nat} {held : Option MemReq} (h : Keeps r s) : Keeps r (goOn s k p held) := by
  unfold goOn
  dsimp only
  split
  · exact keeps_serve (keeps_reissue (keeps_modPch h))
  · exact keeps_reissue (keeps_modPch h)

theorem keeps_endRecovery {k p lane : Nat} (h : Keeps r s) : Keeps r (endRecovery s k p lane) :=
  keeps_goOn (keeps_laneDone (keeps_heldPa h))

theorem keeps_serveFree {k p : Nat} (h : Keeps r s) : Keeps r (serveFree k s p) := .ite h (keeps_serveQueue h)

theorem keeps_wakeStack {k : Nat} {but : Option Nat} (h : Keeps r s) : Keeps r (wakeStack s k but) :=
  .ite ((keeps_modStack h).foldl fun _ _ h => keeps_serveFree h) h

theorem keeps_wakeStacks (h : Keeps r s) : Keeps r (wakeStacks s) := h.foldl fun _ _ h => keeps_wakeStack h

theorem keeps_recoverLane {k p : Nat} (h : Keeps r s) : Keeps r (recoverLane s k p) := by
  unfold recoverLane
  dsimp only
  split
  · exact h
  · exact .ite (keeps_endRecovery h) (.ite (keeps_endRecovery (keeps_laneMove (keeps_heldPa h))) (keeps_laneMove
      (keeps_heldPa h)))

theorem keeps_unblock {k p : Nat} (h : Keeps r s) : Keeps r (unblock s k p) := keeps_recoverLane (keeps_wakeStack h)

theorem keeps_homeRead {source : Nat} {prio : Bool} {pa : Nat} (h :
    Keeps r s) : Keeps r (homeRead source prio pa s).1 := by
  unfold homeRead
  dsimp only
  split
  · exact keeps_memRecord h
  · exact keeps_inTurn (keeps_unblock h) (fun _ h => keeps_sectorRead h)

theorem keeps_writeInTurn {pa mask : Nat} {data : List Byte} {act : State → State} (h : Keeps r s)
    (hact : ∀ s, Keeps r s → Keeps r (act s)) : Keeps r (writeInTurn pa mask data act s) :=
  keeps_inTurn (keeps_unblock h) hact

theorem keeps_homeWrite {pa mask : Nat} {data : List Byte} (h : Keeps r s) : Keeps r (homeWrite pa mask data s) :=
  .ite (keeps_memRecord (keeps_drawn h)) (keeps_writeInTurn h (fun _ h => keeps_sectorWrite h))

theorem keeps_poisonBurst {pa : Nat} (h :
    Keeps r s) : Keeps r (poisonBurst s pa) :=
  keeps_poisonSector (keeps_memSlot h)

theorem keeps_homeWriteSector {pa : Nat} {poisoned : Bool} {data : List Byte} (h : Keeps r s) :
    Keeps r (homeWriteSector pa poisoned data s) :=
  .ite (.ite (keeps_memRecord (keeps_drawn h)) (keeps_writeInTurn h (fun _ h => keeps_poisonBurst h)))
    (keeps_homeWrite h)

theorem keeps_homeReadLine {prio : Bool} {pa : Nat} (h : Keeps r s) : Keeps r (homeReadLine prio pa s).1 := by
  unfold homeReadLine
  dsimp only
  split
  · exact keeps_memRecord h
  · exact keeps_homeRead (keeps_homeRead h)

theorem keeps_homeWriteLine {pa : Nat} {d : LineData} (h : Keeps r s) : Keeps r (homeWriteLine pa d s) :=
  keeps_homeWriteSector (keeps_homeWriteSector h)

/-! ### Gutter -/

theorem keeps_gutMessage {f : Option Nat} {src dst : Nat} {bulk : Bool} {kind bytes : Nat} (h : Keeps r s) :
    Keeps r (gutMessage s f src dst bulk kind bytes) := h.upd

theorem keeps_carryRequest {ln : Nat} {r' : Req} (h : Keeps r s) : Keeps r (carryRequest s ln r') := h.upd

theorem keeps_launchRequest {ln : Nat} {r' : Req} (h : Keeps r s) : Keeps r (launchRequest s ln r') := h.upd

theorem keeps_parkRequest (h : Keeps r s) (e : parkRequest s = some t) : Keeps r t := by
  obtain ⟨q, -, rfl⟩ := Option.map_eq_some_iff.mp e
  exact h.upd

theorem keeps_parkRequests {n : Nat} (h : Keeps r s) : Keeps r (parkRequests n s) := by
  induction n generalizing s with
  | zero => exact h
  | succ n ih =>
    unfold parkRequests
    split
    · exact ih (keeps_parkRequest h ‹_›)
    · exact h

theorem keeps_arrivedRequest {ln : Nat} {q : Req} (h :
    Keeps r s) (e : arrivedRequest s = some (t, ln, q)) : Keeps r t := by
  obtain ⟨x, -, e⟩ := Option.map_eq_some_iff.mp e
  cases e
  exact (keeps_parkRequests h).upd

/-! ### Coh -/

theorem keeps_setLine {agent ln : Nat} {l : Line} (h : Keeps r s) : Keeps r (setLine s agent ln l) :=
  h.upd id (keysFrom_mapSet _ 0 _ _ (Nat.zero_le _))

theorem keeps_dropLine {agent ln : Nat} (h : Keeps r s) : Keeps r (dropLine s agent ln) := by
  unfold dropLine
  exact .ite (h.upd id (keysFrom_mapDel _ 0 _)) (h.upd id (keysFrom_mapDel _ 0 _))

theorem keeps_breakResv {agent ln : Nat} {writer : Option Nat} (h :
    Keeps r s) : Keeps r (breakResv s agent ln writer) :=
  .ite h.upd h

theorem keeps_dirPut {ln : Nat} {st : DirState} {owner : Nat} {holders : List Nat} (h : Keeps r s) :
    Keeps r (dirPut s ln st owner holders) := by
  unfold dirPut
  dsimp only
  split
  · exact h.upd
  · exact (keeps_drawn h).upd

theorem keeps_dirClear {ln agent : Nat} (h : Keeps r s) : Keeps r (dirClear s ln agent) := by
  unfold dirClear
  dsimp only
  split
  · exact h
  · exact .ite (keeps_dirPut h) (keeps_dirPut h)

theorem keeps_putTxn {ln : Nat} {t : Option Txn} (h : Keeps r s) : Keeps r (putTxn s ln t) := h.upd

theorem keeps_setTxn {ln : Nat} {t : Txn} (h : Keeps r s) : Keeps r (setTxn s ln t) := keeps_putTxn h

theorem keeps_caseCtr {agent : Nat} {c : Ctr} {n : Nat} (h : Keeps r s) : Keeps r (caseCtr s agent c n) :=
  .ite (keeps_countFor h) h

theorem keeps_caseCheck {agent ln : Nat} {prio : Bool} (h : Keeps r s) : Keeps r (caseCheck s agent ln prio) := by
  unfold caseCheck
  dsimp only
  split
  · exact h
  · exact .ite h (.ite (keeps_setLine (keeps_drawn h)) (.ite (keeps_setLine (keeps_caseCtr (keeps_drawn h))) (.ite
      (keeps_memRecord (keeps_setLine (keeps_drawn h))) (.ite (keeps_setLine (keeps_homeReadLine (keeps_drawn h)))
        (keeps_dropLine h)))))

theorem keeps_countNp {ln : Nat} (h : Keeps r s) : Keeps r (countNp s ln) := keeps_countFor h

theorem keeps_purgeOne {ln a : Nat} (h : Keeps r s) : Keeps r (purgeOne ln s a) := by
  unfold purgeOne
  dsimp only
  split
  · exact keeps_countNp (keeps_gutMessage (keeps_caseCheck (keeps_gutMessage h)))
  · exact .ite (keeps_countNp (keeps_gutMessage (keeps_caseCheck (keeps_gutMessage h)))) (.ite (keeps_homeWriteLine
      (keeps_dropLine (keeps_gutMessage (keeps_caseCheck (keeps_gutMessage h))))) (keeps_dropLine (keeps_gutMessage
        (keeps_caseCheck (keeps_gutMessage h)))))

theorem keeps_purgeLine {ln : Nat} {agents : List Nat} (h : Keeps r s) : Keeps r (purgeLine s ln agents) :=
  h.foldl fun _ _ h => keeps_purgeOne h

theorem keeps_dirRepair {ln : Nat} (h : Keeps r s) : Keeps r (dirRepair s ln) := by
  unfold dirRepair
  dsimp only
  split
  · exact .ite (keeps_countFor ((keeps_purgeLine h).upd)) h
  · exact h

theorem keeps_dirEvict {v : Nat × DirEntry} (h : Keeps r s) : Keeps r (dirEvict s v) :=
  .ite (keeps_dirRepair h) (keeps_countFor ((keeps_purgeLine h).upd))

theorem keeps_dirRoom {ln : Nat} (h : Keeps r s) : Keeps r (dirRoom s ln) := by
  unfold dirRoom
  dsimp only
  split
  · exact h
  · split
    · exact h.foldl fun _ _ h => keeps_dirRepair h
    · split
      · exact h.foldl fun _ _ h => keeps_dirRepair h
      · exact keeps_dirEvict (h.foldl fun _ _ h => keeps_dirRepair h)

theorem keeps_dirEnter {ln : Nat} {st : DirState} {owner : Nat} {holders : List Nat} (h : Keeps r s) :
    Keeps r (dirEnter s ln st owner holders) := keeps_dirPut (.ite h (keeps_dirRoom h))

theorem keeps_dirReserve {ln agent : Nat} (h :
    Keeps r s) : Keeps r (dirReserve s ln agent) :=
  .ite h (keeps_dirEnter h)

theorem keeps_dirAdd {ln agent : Nat} (h : Keeps r s) : Keeps r (dirAdd s ln agent) := by
  unfold dirAdd
  dsimp only
  split
  · exact keeps_dirEnter h
  · exact keeps_dirPut h

theorem keeps_grantData {ln : Nat} {t : Txn} {g : GrantKind} (h : Keeps r s) : Keeps r (grantData s ln t g) :=
  .ite (keeps_setTxn h) (keeps_setTxn (keeps_homeReadLine h))

theorem keeps_performed {ln : Nat} {t : Txn} (h : Keeps r s) : Keeps r (performed s ln t) := keeps_setTxn h

theorem keeps_finishWrite {ln : Nat} {t : Txn} {data : List Byte} (h :
    Keeps r s) : Keeps r (finishWrite s ln t data) :=
  keeps_performed (keeps_dirEnter (keeps_homeWriteLine h))

theorem keeps_dropHint {ln : Nat} (h : Keeps r s) : Keeps r (dropHint s ln) := keeps_countFor h

theorem keeps_dirOwned {ln agent : Nat} {t : Txn} (h :
    Keeps r s) : Keeps r (dirOwned s ln agent t) :=
  keeps_dirEnter h

theorem keeps_pushLine {ln : Nat} {t : Txn} {target : Nat} {data : List Byte} (h : Keeps r s) :
    Keeps r (pushLine s ln t target data) := keeps_setTxn (keeps_dirOwned h)

theorem keeps_mergeHalf {ln mask : Nat} {data : List Byte} {dirty : Option (List Byte × Bool × Bool)} {o : Nat}
    (h : Keeps r s) :
    Keeps r (mergeHalf ln mask data dirty s o) := by
  unfold mergeHalf
  dsimp only
  split
  · split
    · exact keeps_homeWriteSector h
    · exact h
  · split
    · exact keeps_homeWrite (keeps_homeWriteSector h)
    · exact keeps_homeWrite h

theorem keeps_homeProceed {ln : Nat} (h : Keeps r s) : Keeps r (homeProceed s ln) := by
  unfold homeProceed
  dsimp only
  split
  · exact h
  · split
    · exact h
    · split
      · exact .ite (keeps_setTxn h) (keeps_grantData h)
      · exact .ite (keeps_setTxn h) (keeps_grantData h)
      · exact .ite (keeps_setTxn h) (keeps_grantData h)
      · exact .ite (keeps_setTxn h) (.ite (keeps_grantData h) (.ite (keeps_setTxn h) (keeps_grantData h)))
      · exact .ite (keeps_grantData h) (keeps_setTxn h)
      · split
        · exact keeps_grantData (keeps_homeWriteLine h)
        · exact keeps_grantData h
      · split
        · exact keeps_finishWrite (keeps_dropHint h)
        · split
          · exact keeps_finishWrite h
          · exact .ite (keeps_pushLine h) (keeps_finishWrite (keeps_dropHint h))
      · exact keeps_performed (keeps_dirEnter (keeps_mergeHalf (keeps_mergeHalf h)))
      · split
        · exact .ite (keeps_performed (keeps_caseCtr (keeps_dirClear (keeps_homeWriteLine h)))) (keeps_performed h)
        · exact keeps_performed h
      · split
        · exact keeps_setTxn (.ite (keeps_dirPut (keeps_dirClear h)) (keeps_dirClear h))
        · exact keeps_setTxn (keeps_dirClear h)

theorem keeps_homeStart {ln : Nat} {r' : Req} {queue : List Req} {msgs : List Msg} (h : Keeps r s) :
    Keeps r (homeStart s ln r' queue msgs) := by
  unfold homeStart
  dsimp only
  split
  · split <;> exact keeps_homeProceed (keeps_setTxn (keeps_dirReserve (keeps_dirRepair h)))
  · exact keeps_homeProceed (keeps_setTxn (keeps_dirReserve (keeps_dirRepair h)))
  · exact keeps_homeProceed (keeps_setTxn (keeps_dirReserve (keeps_dirRepair h)))
  · exact keeps_homeProceed (keeps_setTxn (keeps_dirReserve (keeps_dirRepair h)))
  · split <;> exact keeps_homeProceed (keeps_setTxn (keeps_dirRepair h))
  · split <;> exact keeps_homeProceed (keeps_setTxn (keeps_dirRepair h))
  · exact keeps_homeProceed (keeps_setTxn (keeps_dirRepair h))
  · exact keeps_homeProceed (keeps_setTxn (keeps_dirRepair h))
  · exact keeps_homeProceed (keeps_setTxn (keeps_dirRepair h))
  · exact keeps_homeProceed (keeps_setTxn (keeps_dirRepair h))

theorem keeps_homeRun {n ln : Nat} (h : Keeps r s) : Keeps r (homeRun n s ln) := by
  induction n generalizing s with
  | zero => exact h
  | succ n ih =>
    unfold homeRun
    split
    · exact h
    · refine .ite ?_ h
      split
      · exact .ite (keeps_putTxn h) h
      · exact ih (keeps_homeStart h)

theorem keeps_homeGo {ln : Nat} (h : Keeps r s) : Keeps r (homeGo s ln) := by
  unfold homeGo
  dsimp only
  split
  · exact keeps_homeRun (keeps_homeProceed h)
  · exact keeps_homeProceed h

theorem keeps_homeArrive {ln : Nat} {r' : Req} (h : Keeps r s) : Keeps r (homeArrive s ln r') := by
  unfold homeArrive
  split
  · exact .ite (keeps_homeGo (keeps_homeStart h)) (keeps_setTxn h)
  · exact keeps_homeGo (keeps_homeStart h)

theorem keeps_homeAccept {ln : Nat} {r' : Req} (h : Keeps r s) : Keeps r (homeAccept s ln r') :=
  .ite (.ite (keeps_memRecord (keeps_drawn h)) (keeps_memRecord h)) (.ite (keeps_homeArrive (keeps_carryRequest h))
    (keeps_launchRequest (keeps_carryRequest h)))

theorem keeps_homeNext {ln : Nat} (h : Keeps r s) : Keeps r (homeNext s ln) := by
  unfold homeNext
  split
  · exact h
  · exact keeps_homeRun (keeps_setTxn h)

theorem keeps_evictLine {agent ln : Nat} (h : Keeps r s) : Keeps r (evictLine s agent ln) := by
  unfold evictLine
  dsimp only
  split
  · exact keeps_caseCheck h
  · exact .ite (keeps_setLine (keeps_caseCheck h)) (.ite (keeps_homeAccept (keeps_setLine (keeps_caseCheck h)))
      (keeps_dropLine (keeps_caseCheck h)))

theorem keeps_touchWay {agent ln way : Nat} (h : Keeps r s) : Keeps r (touchWay s agent ln way) := h.upd

theorem keeps_chooseWay {agent ln : Nat} {group : Option Nat} (h :
    Keeps r s) : Keeps r (chooseWay s agent ln group).1 := by
  unfold chooseWay
  dsimp only
  split
  · exact h
  · split
    · exact keeps_evictLine (keeps_drawn h)
    · exact keeps_drawn h

theorem keeps_fillLine {agent ln : Nat} {st : LineState} {d : LineData} {group : Option Nat} (h : Keeps r s) :
    Keeps r (fillLine s agent ln st d group) := by
  unfold fillLine
  dsimp only
  split
  · exact keeps_setLine (keeps_drawn (keeps_touchWay h))
  · exact keeps_setLine (keeps_drawn (keeps_touchWay (keeps_chooseWay h)))

theorem keeps_removeMsg {ln : Nat} {m : Msg} (h : Keeps r s) : Keeps r (removeMsg s ln m) := by
  unfold removeMsg
  split
  · exact keeps_setTxn h
  · exact h

theorem keeps_sendMsg {ln : Nat} {m : Msg} (h : Keeps r s) : Keeps r (sendMsg s ln m) := by
  unfold sendMsg
  split
  · exact keeps_setTxn h
  · exact h

theorem keeps_answered {ln agent : Nat} (h : Keeps r s) : Keeps r (answered s ln agent) := by
  unfold answered
  split
  · exact keeps_setTxn h
  · exact h

theorem keeps_markForwarded {ln : Nat} (h : Keeps r s) : Keeps r (markForwarded s ln) := by
  unfold markForwarded
  split
  · exact keeps_setTxn h
  · exact h

theorem keeps_afterShared {ln owner requester : Nat} {dirty : Bool} (h : Keeps r s) :
    Keeps r (afterShared s ln owner requester dirty) := .ite (keeps_dirEnter h) (keeps_dirEnter h)

theorem keeps_answerNp {ln agent : Nat} (h : Keeps r s) : Keeps r (answerNp s ln agent) :=
  keeps_sendMsg (keeps_countNp h)

theorem keeps_snoopLine {ln : Nat} {k : SnpKind} {agent : Nat} {r' : Req} {l : Line} (h : Keeps r s) :
    Keeps r (snoopLine s ln k agent r' l) := by
  unfold snoopLine
  dsimp only
  split
  · exact .ite (keeps_sendMsg h) (keeps_sendMsg (keeps_answered (keeps_markForwarded (keeps_afterShared
      (keeps_setLine h)))))
  · exact .ite (keeps_sendMsg (keeps_dropLine h)) (.ite (keeps_sendMsg (keeps_answered (keeps_markForwarded
      (keeps_dropLine h)))) (keeps_sendMsg (keeps_dropLine h)))
  · exact .ite (keeps_sendMsg h) (keeps_sendMsg (keeps_answered (keeps_markForwarded h)))
  · exact .ite (keeps_sendMsg (keeps_dirEnter (keeps_setLine h))) (keeps_sendMsg (keeps_dirEnter (keeps_setLine h)))

theorem keeps_snoopAgent {ln : Nat} {k : SnpKind} {agent : Nat} {push : List Byte} (h : Keeps r s) :
    Keeps r (snoopAgent s ln k agent push) := by
  unfold snoopAgent
  dsimp only
  split
  · exact h
  · split
    · exact .ite (keeps_sendMsg (keeps_fillLine h)) (keeps_answerNp h)
    · split
      · exact keeps_answerNp (keeps_caseCheck h)
      · exact .ite (keeps_answerNp (keeps_caseCheck h)) (keeps_snoopLine (keeps_caseCheck h))

theorem keeps_takeOwned {ln agent : Nat} {st : LineState} {d : LineData} {t : Txn} (h : Keeps r s) :
    Keeps r (takeOwned s ln agent st d t) := keeps_dirOwned (keeps_fillLine h)

theorem keeps_takeGrant {ln agent : Nat} {g : GrantKind} {d : LineData} {forwarded : Bool} (h : Keeps r s) :
    Keeps r (takeGrant s ln agent g d forwarded) := by
  unfold takeGrant
  dsimp only
  split
  · exact h
  · split
    · exact keeps_sendMsg h
    · exact .ite (keeps_sendMsg (keeps_setLine (keeps_drawn h))) (keeps_sendMsg h)
    · exact .ite (keeps_sendMsg (keeps_takeOwned h)) (keeps_sendMsg (.ite (keeps_homeWriteLine h) h))
    · exact keeps_sendMsg (.ite (keeps_takeOwned h) h)
    · exact keeps_sendMsg (.ite (keeps_dirAdd (keeps_fillLine h)) h)

theorem keeps_takeComp {ln agent : Nat} {k : GrantKind} {r' : Req} (h :
    Keeps r s) : Keeps r (takeComp s ln agent k r') :=
  .ite (keeps_sendMsg h) (keeps_takeGrant h)

theorem keeps_takeDone {ln agent : Nat} {t : Txn} (h : Keeps r s) : Keeps r (takeDone s ln agent t) := by
  unfold takeDone
  dsimp only
  split
  · split
    · exact keeps_putTxn (.ite (keeps_dropLine h) h)
    · exact keeps_putTxn h
  · split
    · exact .ite (keeps_dropLine h) h
    · exact h

theorem keeps_pushAnswered {ln agent : Nat} {taken : Bool} (h :
    Keeps r s) : Keeps r (pushAnswered s ln agent taken) := by
  unfold pushAnswered
  dsimp only
  split
  · split
    · exact keeps_homeGo (keeps_performed (keeps_countFor h))
    · exact keeps_countFor h
  · exact keeps_homeGo (keeps_dirClear h)

theorem keeps_deliver {ln : Nat} {m : Msg} (h : Keeps r s) : Keeps r (deliver s ln m) := by
  unfold deliver
  dsimp only
  split
  · exact keeps_removeMsg h
  · split
    · exact keeps_homeGo (keeps_snoopAgent (keeps_removeMsg h))
    · split
      · exact keeps_homeGo (keeps_setTxn (keeps_answered (keeps_removeMsg h)))
      · exact keeps_homeGo (keeps_answered (keeps_removeMsg h))
    · split
      · exact .ite (keeps_pushAnswered (keeps_answered (keeps_removeMsg h))) (keeps_homeGo (keeps_answered
          (keeps_removeMsg h)))
      · exact keeps_homeGo (keeps_answered (keeps_removeMsg h))
    · split
      · exact .ite (keeps_pushAnswered (keeps_answered (keeps_removeMsg h))) (keeps_homeGo (keeps_dirClear
          (keeps_answered (keeps_removeMsg h))))
      · exact keeps_homeGo (keeps_dirClear (keeps_answered (keeps_removeMsg h)))
    · exact keeps_takeGrant (keeps_removeMsg h)
    · exact keeps_takeGrant (keeps_removeMsg h)
    · split
      · exact keeps_takeComp (keeps_removeMsg h)
      · exact keeps_takeDone (keeps_removeMsg h)
    · exact keeps_homeNext (keeps_removeMsg h)

theorem keeps_settleStep {ln : Nat} (h : Keeps r s) (e : settleStep s ln = some t) : Keeps r t := by
  unfold settleStep at e
  split at e
  · cases e; exact keeps_deliver h
  · split at e
    · cases e; exact keeps_homeGo (keeps_unblock h)
    · split at e
      · split at e
        · cases e; exact keeps_homeArrive (keeps_arrivedRequest h ‹_›)
        · obtain ⟨k, -, e⟩ := Option.bind_eq_some_iff.mp e
          obtain ⟨m, -, rfl⟩ := Option.map_eq_some_iff.mp e
          exact keeps_deliver h
      · cases e

theorem keeps_settleFor {n ln : Nat} (h : Keeps r s) : Keeps r (settleFor n s ln) := by
  induction n generalizing s with
  | zero => exact h
  | succ n ih =>
    unfold settleFor
    split
    · exact ih (keeps_settleStep h ‹_›)
    · exact h

theorem keeps_settle {ln : Nat} (h : Keeps r s) : Keeps r (settle s ln) := keeps_settleFor h

theorem keeps_serveHome (h : Keeps r s) (e : serveHome s = some t) : Keeps r t := by
  unfold serveHome at e
  split at e
  · cases e; exact keeps_homeArrive (keeps_arrivedRequest h ‹_›)
  · obtain ⟨kv, -, rfl⟩ := Option.map_eq_some_iff.mp e
    exact keeps_homeGo h

theorem keeps_serveHomesFor {n : Nat} (h : Keeps r s) : Keeps r (serveHomesFor n s) := by
  induction n generalizing s with
  | zero => exact h
  | succ n ih =>
    unfold serveHomesFor
    split
    · exact ih (keeps_serveHome h ‹_›)
    · exact h

theorem keeps_serveHomes (h : Keeps r s) : Keeps r (serveHomes s) := .ite (keeps_serveHomesFor h) h

theorem keeps_request {ln : Nat} {r' : Req} (h : Keeps r s) : Keeps r (request s ln r') :=
  keeps_settle (keeps_homeAccept (keeps_settle h))

theorem keeps_lookup {agent : Nat} {hit : Bool} (h : Keeps r s) : Keeps r (lookup s agent hit) := keeps_caseCtr h

theorem keeps_hitLine {agent ln : Nat} {l : Line} (h : Keeps r s) : Keeps r (hitLine s agent ln l) :=
  keeps_touchWay (keeps_lookup h)

theorem keeps_acquireShared {agent ln : Nat} {group : Option Nat} {prio : Bool} (h : Keeps r s) :
    Keeps r (acquireShared s agent ln group prio) := by
  unfold acquireShared
  dsimp only
  split
  · exact keeps_hitLine (keeps_settle h)
  · exact keeps_request (keeps_lookup (keeps_settle h))

theorem keeps_acquireOwned {agent ln : Nat} {whole : Bool} {group : Option Nat} (h : Keeps r s) :
    Keeps r (acquireOwned s agent ln whole group) := by
  unfold acquireOwned
  dsimp only
  split
  · split
    · exact keeps_hitLine (keeps_settle h)
    · exact keeps_setLine (keeps_hitLine (keeps_settle h))
    · exact keeps_request (keeps_hitLine (keeps_settle h))
  · exact keeps_request (keeps_lookup (keeps_settle h))

theorem keeps_awaitFor {n agent ln : Nat} (h : Keeps r s) : Keeps r (awaitFor n s agent ln).1 := by
  induction n generalizing s with
  | zero => exact h
  | succ n ih =>
    unfold awaitFor
    split
    · exact h
    · split
      · exact ih (keeps_settleStep h ‹_›)
      · exact h

theorem keeps_readOnce {agent unit ln : Nat} {prio : Bool} (h :
    Keeps r s) : Keeps r (readOnce s agent unit ln prio).1 := by
  unfold readOnce
  dsimp only
  split
  · exact keeps_homeReadLine (keeps_settle h)
  · exact keeps_settle (keeps_awaitFor (keeps_homeAccept (keeps_settle h)))

theorem keeps_writeFull {agent unit ln : Nat} {data : List Byte} {hint : Nat} {zero : Bool} (h : Keeps r s) :
    Keeps r (writeFull s agent unit ln data hint zero) := .ite (keeps_homeWrite h) (keeps_request h)

theorem keeps_writePart {agent unit ln mask : Nat} {data : List Byte} (h : Keeps r s) :
    Keeps r (writePart s agent unit ln mask data) := .ite (keeps_homeWrite h) (keeps_request h)

/-! ### Trans -/

theorem keeps_modPort {p : Nat} {g : Port → Port} (h : Keeps r s) : Keeps r (modPort s p g) := h.upd

theorem keeps_signalMsix {p v : Nat} (h : Keeps r s) : Keeps r (signalMsix s p v) := keeps_modPort h

theorem keeps_modHart {h' : Nat} {g : Hart → Hart} (h : Keeps r s) : Keeps r (modHart s h' g) := h.upd

theorem keeps_signalHart {h' ident : Nat} (h : Keeps r s) : Keeps r (signalHart s h' ident) := keeps_modHart h

theorem keeps_signalFault {f : Nat} (h : Keeps r s) : Keeps r (signalFault s f) := by
  unfold signalFault
  dsimp only
  split
  · exact h
  · exact .ite (h.foldl fun _ _ h => keeps_signalMsix h) (keeps_signalHart (h.foldl fun _ _ h => keeps_signalMsix h))

theorem keeps_setCached {f : Nat} {e : Engine} {ids : List Nat} (h :
    Keeps r s) : Keeps r (setCached s f e ids) :=
  h.upd

theorem keeps_fillCached {f : Nat} {e : Engine} {id : Nat} (h : Keeps r s) : Keeps r (fillCached s f e id) :=
  keeps_setCached h

theorem keeps_dropCached {f die : Nat} {ids : List Nat} (h : Keeps r s) : Keeps r (dropCached s f die ids) := h.upd

theorem keeps_walkRead {fid die : Nat} {f : Forme} {va : Nat} (h : Keeps r s) : Keeps r (walkRead s fid die f va) :=
  keeps_gutMessage ((keeps_gutMessage h).foldl fun _ _ h => keeps_homeRead h)

theorem keeps_modRanges {fid : Nat} {g : List RangeEntry → List RangeEntry} (h : Keeps r s) :
    Keeps r (modRanges s fid g) := by
  unfold modRanges
  dsimp only
  split
  · exact h
  · exact h.upd.foldl fun _ _ h => keeps_reservedWritten h

theorem keeps_translate {a : Access} {va : Nat} (h : Keeps r s) : Keeps r (translate s a va).1 := by
  unfold translate
  dsimp only
  split
  · exact h
  · split
    · exact h
    · split
      · exact keeps_walkRead h
      · split
        · split
          · exact h
          · exact keeps_fillCached (keeps_walkRead h)
        · split
          · exact h
          · exact keeps_walkRead h
        · split
          · exact h
          · exact keeps_walkRead h

theorem keeps_raiseFault {a : Access} {va : Nat} {reason : Reason} {e : Option RangeEntry} {w : Waiter}
    (h : Keeps r s) :
    Keeps r (raiseFault s a va reason e w).1 := by
  unfold raiseFault
  split
  · exact h
  · extract_lets held id t
    have k : Keeps r t := .ite h.upd h
    split
    · exact keeps_modForme k
    · dsimp only
      split
      · exact keeps_signalFault (keeps_modForme k)
      · dsimp only
        exact keeps_countFor k

theorem keeps_resolveFaults {f : Nat} {p : FaultRec → Bool} (h : Keeps r s) : Keeps r (resolveFaults s f p) :=
  keeps_modForme h

theorem keeps_resolveEntries {f : Nat} {ids : List Nat} (h : Keeps r s) : Keeps r (resolveEntries s f ids) :=
  keeps_resolveFaults h

theorem keeps_resolveCovered {f vaStart vaStop : Nat} (h : Keeps r s) : Keeps r (resolveCovered s f vaStart vaStop) :=
  keeps_resolveFaults h

theorem keeps_setFaultState {f id : Nat} {st : FaultState} (h : Keeps r s) : Keeps r (setFaultState s f id st) :=
  keeps_modForme h

theorem keeps_startInval {f : Nat} {ids : List Nat} {st : RangeState} {purpose : InvPurpose} (h : Keeps r s) :
    Keeps r (startInval s f ids st purpose) := by
  unfold startInval
  dsimp only
  split
  · exact h
  · exact (keeps_modRanges h).upd

theorem keeps_modInval {id : Nat} {g : Inval → Inval} (h : Keeps r s) : Keeps r (modInval s id g) := h.upd

/-! ### GalleyOps -/

theorem keeps_modGalley {p g : Nat} {f : Galley → Galley} (h : Keeps r s) : Keeps r (modGalley s p g f) := h.upd

theorem keeps_modStick {p g k : Nat} {f : Stick → Stick} (h : Keeps r s) : Keeps r (modStick s p g k f) :=
  keeps_modGalley h

theorem keeps_modSlug {a : SlugAt} {f : Slug → Slug} (h : Keeps r s) : Keeps r (modSlug s a f) := keeps_modStick h

theorem keeps_setSlug {a : SlugAt} {x : Slug} (h : Keeps r s) : Keeps r (setSlug s a x) := keeps_modSlug h

theorem keeps_modPlaten {p : Nat} {f : PlatenPower → PlatenPower} (h : Keeps r s) : Keeps r (modPlaten s p f) := h.upd

theorem keeps_countIssue {f : Nat} (h : Keeps r s) : Keeps r (countIssue s f) := keeps_countFor h

theorem keeps_countOnce {i : Issue} (h : Keeps r s) : Keeps r (countOnce s i) := .ite h (keeps_countIssue h)

theorem keeps_countClocks {f : Nat} {c : Ctr} (h : Keeps r s) : Keeps r (countClocks s f c) :=
  keeps_countFor (keeps_drawn h)

theorem keeps_countWaits {p g k : Nat} (h : Keeps r s) : Keeps r (countWaits s p g k) := by
  unfold countWaits
  split
  · exact h
  · refine h.foldl fun s x h => ?_
    split
    · exact keeps_countClocks h
    · exact h

theorem keeps_modPass {f seq : Nat} {g : Pass → Pass} (h :
    Keeps r s) : Keeps r (modPass s f seq g) :=
  keeps_modForme h

theorem keeps_stickFault {p g k slug pc : Nat} {w : FaultAt} (h :
    Keeps r s) : Keeps r (stickFault s p g k slug pc w) := by
  unfold stickFault
  dsimp only
  split
  · exact h
  · exact .ite h (keeps_modPass (keeps_countFor (keeps_modGalley (keeps_modStick (keeps_countWaits h)))))

theorem keeps_slugFault {a : SlugAt} {w : FaultAt} (h : Keeps r s) : Keeps r (slugFault s a w) := keeps_stickFault h

theorem keeps_plainFault {a : SlugAt} {x : Slug} {c : StickCode} {detail : Nat} (h : Keeps r s) :
    Keeps r (plainFault s a x c detail) := keeps_slugFault h

theorem keeps_issueRegs {a : SlugAt} {top : Nat} {f : Stick → Slug → Slug} (h : Keeps r s) :
    Keeps r (issueRegs s a top f) := by
  unfold issueRegs
  dsimp only
  split
  · exact h
  · exact .ite (keeps_plainFault (keeps_countIssue h)) (keeps_setSlug (keeps_countIssue h))

theorem keeps_cacheRead {agent ln : Nat} {group : Option Nat} {prio : Bool} (h : Keeps r s) :
    Keeps r (cacheRead s agent ln group prio).1 := keeps_acquireShared (keeps_caseCheck (keeps_settle h))

theorem keeps_cacheWrite {agent ln mask : Nat} {data : List Byte} {group : Option Nat} (h : Keeps r s) :
    Keeps r (cacheWrite s agent ln mask data group) := by
  unfold cacheWrite
  dsimp only
  split
  · exact keeps_acquireOwned (.ite h (keeps_caseCheck (keeps_settle h)))
  · exact keeps_setLine (.ite (keeps_memRecord (.ite (keeps_memRecord (keeps_acquireOwned (.ite h (keeps_caseCheck
      (keeps_settle h))))) (keeps_acquireOwned (.ite h (keeps_caseCheck (keeps_settle h)))))) (.ite (keeps_memRecord
        (keeps_acquireOwned (.ite h (keeps_caseCheck (keeps_settle h))))) (keeps_acquireOwned (.ite h
          (keeps_caseCheck (keeps_settle h))))))

theorem keeps_cacheOwn {agent ln : Nat} {group : Option Nat} (h :
    Keeps r s) : Keeps r (cacheOwn s agent ln group).1 :=
  keeps_acquireOwned (keeps_caseCheck (keeps_settle h))

theorem keeps_trackStream {p ln : Nat} (h : Keeps r s) : Keeps r (trackStream s p ln) := by
  unfold trackStream
  dsimp only
  split <;> exact h.upd

theorem keeps_caseWriteWhole {p ln : Nat} {data : List Byte} {noBypass : Bool} {f : Nat} (h : Keeps r s) :
    Keeps r (caseWriteWhole s p ln data noBypass f) :=
  .ite (keeps_writeFull (keeps_countFor (keeps_lookup (keeps_trackStream (keeps_settle h))))) (keeps_cacheWrite
    (keeps_trackStream (keeps_settle h)))

theorem keeps_l1Clear {p g : Nat} (h : Keeps r s) : Keeps r (l1Clear s p g) := keeps_modGalley h

theorem keeps_l1Drop {p g ln : Nat} (h : Keeps r s) : Keeps r (l1Drop s p g ln) := keeps_modGalley h

theorem keeps_l1Read {p g ln : Nat} (h : Keeps r s) : Keeps r (l1Read s p g ln).1 := by
  unfold l1Read
  dsimp only
  split
  · split
    · exact keeps_drawn h
    · exact keeps_modGalley (keeps_cacheRead (keeps_drawn h))
  · exact keeps_modGalley (keeps_cacheRead h)

theorem keeps_l1Update {p g ln mask : Nat} {data : List Byte} (h :
    Keeps r s) : Keeps r (l1Update s p g ln mask data) :=
  keeps_modGalley h

theorem keeps_clearLockWord {p g k : Nat} {t : Stick} {h' : LockHeld} (h : Keeps r s) :
    Keeps r (clearLockWord s p g k t h') := by
  unfold clearLockWord
  dsimp only
  split
  · exact keeps_modStick h
  · split
    · exact keeps_translate h
    · exact keeps_l1Update (keeps_cacheWrite (keeps_translate h))

theorem keeps_releaseLocks {p g k : Nat} (h : Keeps r s) : Keeps r (releaseLocks s p g k) := by
  unfold releaseLocks
  dsimp only
  split
  · exact h
  · exact keeps_modStick (h.foldl fun _ _ h => keeps_clearLockWord h)

theorem keeps_discardBanks {p g k : Nat} (h : Keeps r s) : Keeps r (discardBanks s p g k) := keeps_modGalley h

theorem keeps_dropWaiters {test : Waiter → Bool} (h : Keeps r s) : Keeps r (dropWaiters s test) := h.upd

theorem keeps_endOps {p g k : Nat} (h : Keeps r s) : Keeps r (endOps s p g k) := keeps_modGalley (keeps_dropWaiters h)

theorem keeps_freeStick {p g k : Nat} (h :
    Keeps r s) : Keeps r (freeStick s p g k) :=
  keeps_modGalley (keeps_endOps h)

theorem keeps_freeUnheld {p g k : Nat} (h : Keeps r s) : Keeps r (freeUnheld s p g k) := by
  unfold freeUnheld
  split
  · exact h
  · exact .ite (keeps_freeStick h) h

theorem keeps_stickStop {p g k : Nat} (h : Keeps r s) : Keeps r (stickStop s p g k) := by
  unfold stickStop
  dsimp only
  split
  · exact h
  · exact .ite (keeps_freeUnheld (keeps_endOps (keeps_discardBanks (keeps_releaseLocks (keeps_modStick (.ite h
      (keeps_countWaits h))))))) (keeps_countFor (keeps_freeUnheld (keeps_endOps (keeps_discardBanks
        (keeps_releaseLocks (keeps_modStick (.ite h (keeps_countWaits h))))))))

theorem keeps_stopSticks {test : Stick → Bool} (h : Keeps r s) : Keeps r (stopSticks s test) :=
  h.foldl fun _ _ h => h.foldl fun _ _ h => .ite (keeps_stickStop h) h

theorem keeps_finishStops {fid : Nat} (h : Keeps r s) : Keeps r (finishStops s fid) := keeps_stopSticks h

/-! ### Sorts -/

theorem keeps_execSortArithmetic {a : SlugAt} {op : ArithOp} {dst x y : Nat} (h : Keeps r s) :
    Answers r (execSortArithmetic a op dst x y s) := (keeps_issueRegs h).next

theorem keeps_execBranch {a : SlugAt} {pred target join : Nat} (h : Keeps r s) :
    Answers r (execBranch a pred target join s) := by
  unfold execBranch
  dsimp only
  split
  · exact h.next
  · exact .ite ((keeps_plainFault (keeps_countIssue h)).next) ((keeps_setSlug (keeps_countIssue h)).next)

theorem keeps_meetComplete {a : SlugAt} (h : Keeps r s) : Keeps r (meetComplete s a) := by
  unfold meetComplete
  dsimp only
  split
  · exact h
  · exact .ite (keeps_l1Clear (keeps_modStick (.ite (keeps_countWaits h) h))) (keeps_modStick (.ite
      (keeps_countWaits h) h))

theorem keeps_execExit {a : SlugAt} (h : Keeps r s) : Answers r (execExit a s) := by
  unfold execExit
  dsimp only
  split
  · exact h.next
  · exact (keeps_meetComplete (keeps_setSlug (keeps_countIssue h))).next

theorem keeps_execTrap {a : SlugAt} (h : Keeps r s) : Answers r (execTrap a s) := by
  unfold execTrap
  split
  · exact h.next
  · exact (keeps_plainFault (keeps_countIssue h)).next

theorem keeps_drawnLanes (h : Keeps r s) : Keeps r (State.drawnLanes s) := h.upd

theorem keeps_execReadSpecial {a : SlugAt} {dst : Nat} {sp : Special} (h : Keeps r s) :
    Answers r (execReadSpecial a dst sp s) := (keeps_drawnLanes (keeps_issueRegs h)).next

theorem keeps_execXchAt {a : SlugAt} {dst v r' p : Nat} (h : Keeps r s) : Answers r (execXchAt a dst v r' p s) :=
  (keeps_issueRegs h).next

theorem keeps_execXchRotW {a : SlugAt} {dst v : Nat} {d : Int} {p : Nat} (h : Keeps r s) :
    Answers r (execXchRotW a dst v d p s) := (keeps_issueRegs h).next

theorem keeps_execXchRotC {a : SlugAt} {dst v : Nat} {d : Int} {p : Nat} (h : Keeps r s) :
    Answers r (execXchRotC a dst v d p s) := (keeps_issueRegs h).next

theorem keeps_execXchFlip {a : SlugAt} {dst v m p : Nat} (h : Keeps r s) : Answers r (execXchFlip a dst v m p s) :=
  (keeps_issueRegs h).next

theorem keeps_execXchLow {a : SlugAt} {dst v p : Nat} (h : Keeps r s) : Answers r (execXchLow a dst v p s) :=
  (keeps_issueRegs h).next

theorem keeps_execTallySome {a : SlugAt} {dst p : Nat} (h : Keeps r s) : Answers r (execTallySome a dst p s) :=
  (keeps_issueRegs h).next

theorem keeps_execTallyEvery {a : SlugAt} {dst p : Nat} (h : Keeps r s) : Answers r (execTallyEvery a dst p s) :=
  (keeps_issueRegs h).next

theorem keeps_execTallyMask {a : SlugAt} {dst p : Nat} (h : Keeps r s) : Answers r (execTallyMask a dst p s) :=
  (keeps_issueRegs h).next

theorem keeps_execTallyCount {a : SlugAt} {dst p : Nat} (h : Keeps r s) : Answers r (execTallyCount a dst p s) :=
  (keeps_issueRegs h).next

theorem keeps_execTallySame {a : SlugAt} {dst v : Nat} (h : Keeps r s) : Answers r (execTallySame a dst v s) :=
  (keeps_issueRegs h).next

theorem keeps_execTallyLive {a : SlugAt} {dst : Nat} (h : Keeps r s) : Answers r (execTallyLive a dst s) :=
  (keeps_issueRegs h).next

/-! ### SortMem -/

theorem keeps_translateLanes {acc : Access} {a : SlugAt} {las : List (Nat × Nat)} (h : Keeps r s) :
    Keeps r (translateLanes acc a las s).1 := by
  refine Keeps.foldlFst (x := (s, _)) h fun x la h => ?_
  have k := keeps_translate (a := acc) (va := la.2) h
  dsimp only
  split
  · exact k
  · split
    · split
      · exact keeps_raiseFault k
      · exact keeps_raiseFault k
    · exact k

theorem keeps_issueMem {a : SlugAt} {isLocal sizeOk : Bool} {top areg size align kind : Nat}
    {go : State → Stick → Slug → List (Nat × Nat) → State} (h : Keeps r s)
    (hgo : ∀ s t x las, Keeps r s → Keeps r (go s t x las)) :
    Keeps r (issueMem s a isLocal top areg size align kind sizeOk go) := by
  unfold issueMem
  split
  · exact h
  · refine .ite (keeps_plainFault (keeps_countOnce h)) (.ite (keeps_plainFault (keeps_countOnce h)) ?_)
    dsimp only
    split
    · exact keeps_slugFault (keeps_countOnce h)
    · refine .ite (hgo _ _ _ _ (keeps_countOnce h)) ?_
      split
      · exact keeps_slugFault (keeps_translateLanes (keeps_countOnce h))
      · exact .ite (keeps_setSlug (keeps_translateLanes (keeps_countOnce h)))
          (hgo _ _ _ _ (keeps_translateLanes (keeps_countOnce h)))

theorem keeps_readLines {p g : Nat} {lns : List Nat} (h : Keeps r s) : Keeps r (readLines s p g lns).1 :=
  Keeps.foldlFst (x := (s, _)) h fun _ _ h => keeps_l1Read h

theorem keeps_execSortLoad {a : SlugAt} {isLocal : Bool} {size dst areg : Nat} {ord : Ord} (h : Keeps r s) :
    Answers r (execSortLoad a isLocal size dst areg ord s) := by
  refine Keeps.next (keeps_issueMem h fun s t x las h => ?_)
  have k : Keeps r (if isAcquire ord then l1Clear s a.platen a.galley else s) := .ite (keeps_l1Clear h) h
  refine .ite (keeps_setSlug k) ?_
  dsimp only
  split
  · exact keeps_slugFault (keeps_readLines k)
  · exact keeps_setSlug (keeps_readLines k)

theorem keeps_execSortStore {a : SlugAt} {isLocal : Bool} {size src areg : Nat} {ord : Ord} (h : Keeps r s) :
    Answers r (execSortStore a isLocal size src areg ord s) :=
  (keeps_issueMem h (fun _ _ _ _ h => keeps_modSlug (.ite (keeps_modStick (keeps_drawn h)) ((keeps_drawn h).foldl
    fun _ _ h => keeps_l1Update (.ite (keeps_caseWriteWhole h) (keeps_cacheWrite h)))))).next

theorem keeps_cacheAtomic {agent pa size : Nat} {op : AtomOp} {x cmp : Nat} {group f : Option Nat} (h : Keeps r s) :
    Keeps r (cacheAtomic s agent pa size op x cmp group f).1 := by
  unfold cacheAtomic
  dsimp only
  split
  · exact keeps_cacheOwn h
  · split
    · exact keeps_countFor (keeps_setLine (keeps_cacheOwn h))
    · exact keeps_countFor (keeps_cacheOwn h)

theorem keeps_execSortAtomic {a : SlugAt} {isLocal : Bool} {op : AtomOp} {size dst areg oreg creg : Nat} {ord : Ord}
    (h : Keeps r s) : Answers r (execSortAtomic a isLocal op size dst areg oreg creg ord s) := by
  refine Keeps.next (keeps_issueMem h fun s t x las h => ?_)
  have k : Keeps r (if isAcquire ord then l1Clear s a.platen a.galley else s) := .ite (keeps_l1Clear h) h
  refine .ite (keeps_setSlug (keeps_modStick (keeps_drawn k))) ?_
  have atomics {α : Type} {f : State × α → Nat × Nat → State × α} {las : List (Nat × Nat)} {y : α}
      (hf : ∀ x la, Keeps r x.1 → Keeps r (f x la).1) := Keeps.foldlFst (l := las) (x := (_, y)) (keeps_drawn k) hf
  refine .ite (keeps_setSlug (atomics fun x la h => ?_)) (keeps_slugFault (atomics fun x la h => ?_))
  all_goals
    dsimp only
    split
    · exact keeps_l1Drop (keeps_cacheAtomic h)
    · exact keeps_l1Drop (keeps_cacheAtomic h)

theorem keeps_execZline {a : SlugAt} {areg : Nat} (h : Keeps r s) : Answers r (execZline a areg s) :=
  (keeps_issueMem h (fun _ _ _ _ h => keeps_modSlug (h.foldl fun _ _ h => keeps_l1Drop (keeps_cacheWrite h)))).next

theorem keeps_execFenceAcq {a : SlugAt} (h : Keeps r s) : Answers r (execFenceAcq a s) := by
  unfold execFenceAcq
  split
  · exact h.next
  · exact (keeps_setSlug (keeps_l1Clear (keeps_countIssue h))).next

theorem keeps_execFenceRel {a : SlugAt} (h : Keeps r s) : Answers r (execFenceRel a s) := by
  unfold execFenceRel
  split
  · exact h.next
  · exact (keeps_setSlug (keeps_countIssue h)).next

theorem keeps_execFenceAr {a : SlugAt} (h : Keeps r s) : Answers r (execFenceAr a s) := by
  unfold execFenceAr
  split
  · exact h.next
  · exact (keeps_setSlug (keeps_l1Clear (keeps_countIssue h))).next

theorem keeps_lockRead {a : SlugAt} {isLocal : Bool} {addr : Nat} (h : Keeps r s) :
    Keeps r (lockRead s a isLocal addr).1 := by
  unfold lockRead
  dsimp only
  split
  · exact h
  · exact keeps_l1Drop (keeps_cacheOwn h)

theorem keeps_lockWrite {a : SlugAt} {isLocal : Bool} {addr w : Nat} (h : Keeps r s) :
    Keeps r (lockWrite s a isLocal addr w) := .ite (keeps_modStick h) (keeps_l1Drop (keeps_cacheWrite h))

theorem keeps_countAttempt {a : SlugAt} {isLocal : Bool} (h : Keeps r s) : Keeps r (countAttempt s a isLocal) :=
  .ite h (keeps_countFor h)

theorem keeps_lockOne {a : SlugAt} {isLocal : Bool} {lane va addr : Nat} (h : Keeps r s) :
    Keeps r (lockOne s a isLocal lane va addr).1 := by
  unfold lockOne
  dsimp only
  split
  · exact h
  · split
    · exact keeps_lockRead h
    · split
      · split
        · exact keeps_countAttempt (keeps_lockRead h)
        · exact keeps_modSlug (keeps_lockWrite (keeps_countAttempt (keeps_lockRead h)))
      · split <;> exact keeps_countAttempt (keeps_lockRead h)

theorem keeps_lockMany {a : SlugAt} {isLocal : Bool} {va : Nat → Nat} {las : List (Nat × Nat)} (h : Keeps r s) :
    Keeps r (lockMany s a isLocal va las).1 :=
  Keeps.foldlFst (x := (s, _)) h fun _ _ h => keeps_lockOne h

theorem keeps_lockWaits {a : SlugAt} {isLocal : Bool} {dst next : Nat} {out : List (Nat × Nat × LockTry)}
    (h : Keeps r s) :
    Keeps r (lockWaits s a isLocal dst next out) := .ite (keeps_modSlug (keeps_l1Clear h)) (keeps_modSlug h)

theorem keeps_execLockAcq {a : SlugAt} {isLocal : Bool} {dst areg : Nat} (h : Keeps r s) :
    Answers r (execLockAcq a isLocal dst areg s) := by
  refine Keeps.next (keeps_issueMem h fun s t x las h => ?_)
  dsimp only
  split
  · exact keeps_slugFault (keeps_lockMany h)
  · exact keeps_lockWaits (keeps_lockMany h)

theorem keeps_execLockTry {a : SlugAt} {isLocal : Bool} {dst areg : Nat} (h : Keeps r s) :
    Answers r (execLockTry a isLocal dst areg s) := by
  refine Keeps.next (keeps_issueMem h fun s t x las h => ?_)
  dsimp only
  split
  · exact keeps_slugFault (keeps_lockMany h)
  · exact keeps_modSlug (keeps_l1Clear (keeps_lockMany h))

theorem keeps_retryLocks {a : SlugAt} {t : Stick} {isLocal : Bool} {dst next : Nat} {lanes : List (Nat × Nat)}
    (h : Keeps r s) :
    Keeps r (retryLocks s a t isLocal dst next lanes) := by
  unfold retryLocks
  dsimp only
  split
  · split
    · exact keeps_slugFault h
    · exact keeps_slugFault (keeps_translateLanes h)
  · split
    · split
      · exact keeps_modSlug h
      · split
        · exact keeps_slugFault (keeps_lockMany h)
        · exact keeps_lockWaits (keeps_lockMany h)
    · split
      · exact keeps_modSlug (keeps_translateLanes h)
      · split
        · exact keeps_slugFault (keeps_lockMany (keeps_translateLanes h))
        · exact keeps_lockWaits (keeps_lockMany (keeps_translateLanes h))

theorem keeps_execLockRetry {p g k n : Nat} (h : Keeps r s) : Answers r (execLockRetry p g k n s) := by
  unfold execLockRetry
  dsimp only
  split
  · exact h.next
  · split
    · exact (keeps_retryLocks (keeps_countWaits h)).next
    · exact h.next

theorem keeps_execLockTimeout {p g k n : Nat} (h : Keeps r s) : Answers r (execLockTimeout p g k n s) := by
  unfold execLockTimeout
  dsimp only
  split
  · exact h.next
  · split
    · exact (keeps_slugFault h).next
    · exact h.next

theorem keeps_unlockOne {a : SlugAt} {isLocal : Bool} {lane va addr : Nat} (h : Keeps r s) :
    Keeps r (unlockOne s a isLocal lane va addr).1 := by
  unfold unlockOne
  dsimp only
  split
  · exact h
  · split
    · exact keeps_lockRead h
    · split
      · exact keeps_modSlug (keeps_lockWrite (keeps_lockRead h))
      · exact keeps_lockRead h

theorem keeps_execLockRel {a : SlugAt} {isLocal : Bool} {areg : Nat} (h : Keeps r s) :
    Answers r (execLockRel a isLocal areg s) := by
  refine Keeps.next (keeps_issueMem h fun s t x las h => ?_)
  have released {α : Type} {f : State × α → Nat × Nat → State × α} {y : α}
      (hf : ∀ x la, Keeps r x.1 → Keeps r (f x la).1) := Keeps.foldlFst (l := las) (x := (s, y)) h hf
  dsimp only
  split
  · exact keeps_slugFault (released fun _ _ h => keeps_unlockOne h)
  · exact keeps_modSlug (released fun _ _ h => keeps_unlockOne h)

theorem keeps_meet {a : SlugAt} {b : Nat} {c : MeetCount} {waits : Bool} (h :
    Keeps r s) : Keeps r (meet s a b c waits) := by
  unfold meet
  dsimp only
  split
  · exact h
  · split
    · exact keeps_plainFault (keeps_countIssue h)
    · split
      · exact keeps_slugFault (keeps_countIssue h)
      · exact keeps_meetComplete (keeps_setSlug (keeps_modStick (keeps_countIssue h)))

theorem keeps_execMeetWait {a : SlugAt} {b : Nat} {c : MeetCount} (h :
    Keeps r s) : Answers r (execMeetWait a b c s) :=
  (keeps_meet h).next

theorem keeps_execMeetMark {a : SlugAt} {b : Nat} {c : MeetCount} (h :
    Keeps r s) : Answers r (execMeetMark a b c s) :=
  (keeps_meet h).next

theorem keeps_execBarrierStranded {p g k b : Nat} (h : Keeps r s) : Answers r (execBarrierStranded p g k b s) := by
  unfold execBarrierStranded
  dsimp only
  split
  · split
    · exact h.next
    · split
      · exact h.next
      · exact .ite ((keeps_slugFault h).next) h.next
  · exact h.next

theorem keeps_execStickStart {p g : Nat} (h : Keeps r s) : Answers r (execStickStart p g s) := by
  unfold execStickStart
  dsimp only
  split
  · split
    · exact h.next
    · split
      · exact h.next
      · split
        · exact h.next
        · exact .ite ((keeps_modPass (keeps_modGalley h)).next) h.next
  · exact h.next

theorem keeps_execStickEnd {p g k : Nat} (h : Keeps r s) : Answers r (execStickEnd p g k s) := by
  unfold execStickEnd
  dsimp only
  split
  · split
    · exact h.next
    · exact .ite h.next ((Keeps.ite (.ite (keeps_freeStick (keeps_discardBanks (keeps_releaseLocks h)))
        (keeps_countFor (keeps_freeStick (keeps_discardBanks (keeps_releaseLocks h))))) (keeps_modPass (.ite
          (keeps_freeStick (keeps_discardBanks (keeps_releaseLocks h))) (keeps_countFor (keeps_freeStick
            (keeps_discardBanks (keeps_releaseLocks h))))))).next)
  · exact h.next

/-! ### Tiles -/

theorem keeps_modOp {r' : OpRef} {f : TileOp → TileOp} (h : Keeps r s) : Keeps r (modOp s r' f) := keeps_modGalley h

theorem keeps_removeOp {r' : OpRef} (h : Keeps r s) : Keeps r (removeOp s r') := keeps_modGalley h

theorem keeps_clearStages {r' : OpRef} (h : Keeps r s) : Keeps r (clearStages s r') := keeps_modGalley h

theorem keeps_opFault {r' : OpRef} {o : TileOp} {c : StickCode} {addr detail : Nat} (h : Keeps r s) :
    Keeps r (opFault s r' o c addr detail) := keeps_stickFault (keeps_removeOp (keeps_clearStages h))

theorem keeps_opPerformed {r' : OpRef} (h : Keeps r s) : Keeps r (opPerformed s r') :=
  keeps_modOp (keeps_clearStages h)

theorem keeps_opTogether {r' : OpRef} (h : Keeps r s) : Keeps r (opTogether s r') := keeps_modOp (keeps_opPerformed h)

theorem keeps_lsWrite {r' : OpRef} {a : Nat} {d : List Byte} (h : Keeps r s) : Keeps r (lsWrite s r' a d) :=
  keeps_modStick h

theorem keeps_execTile {a : SlugAt} {areg dst : Nat} (h : Keeps r s) : Answers r (execTile a areg dst s) := by
  unfold execTile
  dsimp only
  split
  · exact h.next
  · exact .ite h.next (.ite ((keeps_plainFault (keeps_countIssue h)).next) (.ite ((keeps_slugFault
      (keeps_countIssue h)).next) (.ite ((keeps_slugFault (keeps_countIssue h)).next) (.ite ((keeps_slugFault
        (keeps_countIssue h)).next) (.ite ((keeps_slugFault (keeps_countIssue h)).next) ((keeps_setSlug
          (keeps_modGalley (keeps_countIssue h))).next))))))

theorem keeps_twait {a : SlugAt} {treg : Nat} {ended : TileOp → Bool} {wait : Nat → SlugWait} (h : Keeps r s) :
    Keeps r (twait s a treg ended wait) := by
  unfold twait
  dsimp only
  split
  · exact h
  · exact .ite (keeps_plainFault (keeps_countIssue h)) (.ite (keeps_plainFault (keeps_countIssue h)) (keeps_setSlug
      (keeps_countIssue h)))

theorem keeps_execTwaitRd {a : SlugAt} {treg : Nat} (h : Keeps r s) : Answers r (execTwaitRd a treg s) :=
  (keeps_twait h).next

theorem keeps_execTwaitDone {a : SlugAt} {treg : Nat} (h : Keeps r s) : Answers r (execTwaitDone a treg s) :=
  (keeps_twait h).next

theorem keeps_wakeSlug {r' : OpRef} {w : SlugWait} (h : Keeps r s) : Keeps r (wakeSlug s r' w) :=
  keeps_modStick (keeps_countWaits h)

theorem keeps_opRead {r' : OpRef} (h : Keeps r s) : Keeps r (opRead s r') := keeps_modOp (keeps_wakeSlug h)

theorem keeps_opDone {r' : OpRef} (h : Keeps r s) : Keeps r (opDone s r') := keeps_removeOp (keeps_wakeSlug h)

theorem keeps_opBoth {r' : OpRef} (h : Keeps r s) : Keeps r (opBoth s r') := keeps_opDone (keeps_opRead h)

theorem keeps_execTileReadDone {r' : OpRef} (h : Keeps r s) : Answers r (execTileReadDone r' s) := by
  unfold execTileReadDone
  split
  · exact h.next
  · exact .ite ((Keeps.ite (keeps_opBoth h) (keeps_opRead h)).next) h.next

theorem keeps_execTileDone {r' : OpRef} (h : Keeps r s) : Answers r (execTileDone r' s) := by
  unfold execTileDone
  split
  · exact h.next
  · exact .ite ((keeps_opBoth h).next) (.ite ((keeps_opDone h).next) h.next)

theorem keeps_proofCount {r' : OpRef} {t : Stick} {tag : Nat} {xs : List Seen} (h : Keeps r s) :
    Keeps r (proofCount s r' t tag xs) := keeps_modGalley h

theorem keeps_translateLines {acc : Access} {w : Waiter} {lns : List (Nat × Nat)} (h : Keeps r s) :
    Keeps r (translateLines acc w lns s).1 := by
  refine Keeps.foldlFst (x := (s, _)) h fun x l h => ?_
  have k := keeps_translate (a := acc) (va := l.2) h
  dsimp only
  split
  · exact h
  · split
    · exact k
    · split
      · exact keeps_raiseFault k
      · exact keeps_raiseFault k

theorem keeps_holdOp {r' : OpRef} (h : Keeps r s) : Keeps r (holdOp s r') := keeps_modOp h

theorem keeps_readCaseLines {p : Nat} {ok : SMap Nat} (h : Keeps r s) : Keeps r (readCaseLines s p ok).1 :=
  Keeps.foldlFst (x := (s, _)) h fun _ _ h => keeps_cacheRead h

theorem keeps_loadFrom {r' : OpRef} {o : TileOp} {t : Stick} {d : TensorDesc} (h : Keeps r s) :
    Keeps r (loadFrom s r' o t d) := by
  unfold loadFrom
  dsimp only
  split
  · exact keeps_opPerformed (keeps_lsWrite h)
  · split
    · exact keeps_opFault (keeps_translateLines h)
    · split
      · exact keeps_holdOp (keeps_translateLines h)
      · split
        · exact keeps_opFault (keeps_readCaseLines (keeps_translateLines h))
        · exact keeps_opPerformed (keeps_lsWrite (keeps_readCaseLines (keeps_translateLines h)))

theorem keeps_execTileLoad {r' : OpRef} (h : Keeps r s) : Answers r (execTileLoad r' s) := by
  unfold execTileLoad
  split
  · exact h.next
  · split
    · split
      · exact (keeps_opFault h).next
      · exact (keeps_loadFrom h).next
    · exact h.next

theorem keeps_storeTo {q : OpRef} {o : TileOp} {t : Stick} {d : TensorDesc} (h : Keeps r s) :
    Keeps r (storeTo s q o t d) := by
  unfold storeTo
  refine .ite (keeps_opPerformed (h.foldl fun _ _ h => keeps_lsWrite h)) ?_
  have k := keeps_translateLines (acc := opAccess t q 1) (w := .tileOp q)
    (lns := runLines (boxRuns d (tbOrig0 o.block) (tbOrig1 o.block) (tbOrig2 o.block) (tbRows o.block)
      (tbCols o.block))) h
  dsimp only
  split
  · exact keeps_opFault k
  · refine .ite (keeps_holdOp k) (keeps_opPerformed (k.foldl fun s x h => ?_))
    split
    · exact h
    · exact .ite (keeps_caseWriteWhole h) (keeps_cacheWrite h)

theorem keeps_execTileStore {r' : OpRef} (h : Keeps r s) : Answers r (execTileStore r' s) := by
  unfold execTileStore
  split
  · exact h.next
  · split
    · split
      · exact (keeps_opFault h).next
      · exact (keeps_storeTo h).next
    · exact h.next

/-! ### PressOps -/

theorem keeps_modPress {r' : OpRef} {unit : Nat} {f : Press → Press} (h :
    Keeps r s) : Keeps r (modPress s r' unit f) :=
  keeps_modGalley h

theorem keeps_execPressStageStart {r' : OpRef} (h : Keeps r s) : Answers r (execPressStageStart r' s) := by
  unfold execPressStageStart
  dsimp only
  split
  · split
    · exact h.next
    · exact .ite ((keeps_modOp (keeps_modPress h)).next) h.next
  · exact h.next

theorem keeps_setBank {r' : OpRef} {block : Nat} {b : Bank} (h : Keeps r s) : Keeps r (setBank s r' block b) :=
  keeps_modPress h

theorem keeps_execTileOpen {r' : OpRef} (h : Keeps r s) : Answers r (execTileOpen r' s) := by
  unfold execTileOpen
  dsimp only
  split
  · exact h.next
  · exact .ite ((keeps_opFault h).next) (.ite ((keeps_opFault h).next) (.ite ((keeps_opFault h).next) (.ite
      ((keeps_opFault h).next) (.ite ((keeps_opPerformed (keeps_setBank h)).next) ((keeps_opTogether
        (keeps_setBank h)).next)))))

theorem keeps_execTileMma {r' : OpRef} (h : Keeps r s) : Answers r (execTileMma r' s) := by
  unfold execTileMma
  dsimp only
  split
  · exact h.next
  · split
    · exact (keeps_opFault h).next
    · exact (keeps_opFault h).next
    · exact (keeps_opPerformed (keeps_setBank (.ite ((keeps_countFor h).upd) (keeps_countFor h)))).next

theorem keeps_execTileMmaS {r' : OpRef} (h : Keeps r s) : Answers r (execTileMmaS r' s) := by
  unfold execTileMmaS
  dsimp only
  split
  · exact h.next
  · split
    · exact (keeps_opFault h).next
    · exact (keeps_opFault h).next
    · exact (keeps_opPerformed (keeps_setBank (keeps_countFor h))).next

theorem keeps_execTileOut {r' : OpRef} (h : Keeps r s) : Answers r (execTileOut r' s) := by
  unfold execTileOut
  dsimp only
  split
  · exact h.next
  · split
    · exact (keeps_opFault h).next
    · split
      · exact (keeps_opFault h).next
      · split
        · exact (keeps_opFault h).next
        · split
          · exact (keeps_opFault h).next
          · exact (keeps_opPerformed (.ite (keeps_modPress (keeps_proofCount (keeps_lsWrite h))) (keeps_proofCount
              (keeps_lsWrite h)))).next

/-! ### BrayerOps -/

theorem keeps_brayerBusy {t : Stick} {n : Nat} (h : Keeps r s) : Keeps r (brayerBusy s t n) := keeps_countFor h

theorem keeps_zeroWork {r' : OpRef} {t : Stick} (h : Keeps r s) : Keeps r (zeroWork s r' t) :=
  keeps_opTogether (keeps_brayerBusy (keeps_drawn h))

theorem keeps_brayerRun {q : OpRef} {n : OpNow} {head zero overlap : Chain → Bool} {regions : Chain → List TileRegion}
    {late : Chain → Option (StickCode × Nat)} {go : State → Chain → State} (h : Keeps r s)
    (hgo : ∀ s c, Keeps r s → Keeps r (go s c)) :
    Keeps r (brayerRun s q n head zero regions late overlap go) := by
  unfold brayerRun
  refine .ite (keeps_opFault h) (.ite (keeps_opFault h) (.ite (keeps_opFault h) (.ite (keeps_zeroWork h) ?_)))
  split
  · exact keeps_opFault h
  · split
    · exact keeps_opFault h
    · exact .ite (keeps_opFault h) (hgo s _ h)

theorem keeps_chainGo {r' : OpRef} {t : Stick} {block : Nat} {c : Chain} (h : Keeps r s) :
    Keeps r (chainGo s r' t block c) := by
  unfold chainGo
  dsimp only
  split
  · exact .ite (keeps_opPerformed (keeps_brayerBusy (keeps_proofCount (keeps_lsWrite h)))) (keeps_opPerformed
      (keeps_brayerBusy (keeps_proofCount (keeps_lsWrite h))))
  · exact keeps_opPerformed h

theorem keeps_execBrayerChain {r' : OpRef} (h : Keeps r s) : Answers r (execBrayerChain r' s) := by
  unfold execBrayerChain
  dsimp only
  split
  · exact h.next
  · exact (keeps_brayerRun h (fun _ _ h => keeps_chainGo h)).next

theorem keeps_sliceGo {r' : OpRef} {o : TileOp} {t : Stick} {c : Chain} (h :
    Keeps r s) : Keeps r (sliceGo s r' o t c) := by
  unfold sliceGo
  dsimp only
  split
  · exact keeps_opPerformed h
  · exact .ite (keeps_opFault h) (keeps_opPerformed (keeps_brayerBusy (keeps_proofCount (keeps_lsWrite (keeps_lsWrite
      (h.foldl fun _ _ h => keeps_lsWrite h))))))

theorem keeps_execSlice {r' : OpRef} (h : Keeps r s) : Answers r (execSlice r' s) := by
  unfold execSlice
  split
  · exact h.next
  · exact (keeps_brayerRun h (fun _ _ h => keeps_sliceGo h)).next

theorem keeps_spreadGo {r' : OpRef} {t : Stick} {c : Chain} (h : Keeps r s) : Keeps r (spreadGo s r' t c) := by
  unfold spreadGo
  dsimp only
  split
  · exact keeps_opPerformed h
  · exact keeps_opPerformed (keeps_brayerBusy (keeps_lsWrite h))

theorem keeps_execSpread {r' : OpRef} (h : Keeps r s) : Answers r (execSpread r' s) := by
  unfold execSpread
  split
  · exact h.next
  · exact (keeps_brayerRun h (fun _ _ h => keeps_spreadGo h)).next

theorem keeps_updateGo {r' : OpRef} {t : Stick} {block : Nat} {c : Chain} (h : Keeps r s) :
    Keeps r (updateGo s r' t block c) :=
  keeps_opPerformed (keeps_brayerBusy (keeps_proofCount (keeps_proofCount (keeps_lsWrite (keeps_lsWrite
    (keeps_lsWrite (keeps_lsWrite h)))))))

theorem keeps_execUpdate {r' : OpRef} (h : Keeps r s) : Answers r (execUpdate r' s) := by
  unfold execUpdate
  split
  · exact h.next
  · exact (keeps_brayerRun h (fun _ _ h => keeps_updateGo h)).next

/-! ### CohRows -/

theorem keeps_sendReq {l : LineAt} {k : ReqKind} (h : Keeps r s) : Keeps r (sendReq s l k) :=
  keeps_homeAccept (keeps_drawn h)

theorem keeps_askFor {l : LineAt} {k : ReqKind} (h : Keeps r s) : Keeps r (askFor s l k) := .ite (keeps_sendReq h) h

theorem keeps_execRdShared {l : LineAt} (h : Keeps r s) : Answers r (execRdShared l s) := (keeps_askFor h).next

theorem keeps_execRdUnique {l : LineAt} (h : Keeps r s) : Answers r (execRdUnique l s) := (keeps_askFor h).next

theorem keeps_execUpgrade {l : LineAt} (h : Keeps r s) : Answers r (execUpgrade l s) :=
  (Keeps.ite (keeps_sendReq h) h).next

theorem keeps_execOwnNodata {l : LineAt} (h : Keeps r s) : Answers r (execOwnNodata l s) := (keeps_askFor h).next

theorem keeps_execLockFill {l : LineAt} {way : Nat} (h : Keeps r s) : Answers r (execLockFill l way s) :=
  (Keeps.ite (keeps_sendReq h) h).next

theorem keeps_execRdOnce {l : LineAt} (h : Keeps r s) : Answers r (execRdOnce l s) :=
  (Keeps.ite (keeps_sendReq h) h).next

theorem keeps_execWrFull {l : LineAt} {data : List Byte} {hint : Nat} (h : Keeps r s) :
    Answers r (execWrFull l data hint s) := (Keeps.ite (keeps_sendReq h) h).next

theorem keeps_execWrPart {l : LineAt} {mask : Nat} {data : List Byte} (h : Keeps r s) :
    Answers r (execWrPart l mask data s) := (Keeps.ite (keeps_sendReq h) h).next

theorem keeps_markLeaving {l : LineAt} (h : Keeps r s) : Keeps r (markLeaving s l) := by
  unfold markLeaving
  split
  · exact keeps_setLine h
  · exact h

theorem keeps_execWbDirty {l : LineAt} (h : Keeps r s) : Answers r (execWbDirty l s) :=
  (Keeps.ite (keeps_sendReq (keeps_markLeaving (keeps_caseCheck h))) h).next

theorem keeps_arrive {l : LineAt} {test : Msg → Bool} (h : Keeps r s) : Keeps r (arrive s l test) := by
  unfold arrive
  split
  · split
    · exact h
    · split
      · exact .ite (keeps_deliver h) h
      · exact h
  · exact h

theorem keeps_execSnpShared {l : LineAt} (h : Keeps r s) : Answers r (execSnpShared l s) := (keeps_arrive h).next

theorem keeps_execSnpInv {l : LineAt} (h : Keeps r s) : Answers r (execSnpInv l s) := (keeps_arrive h).next

theorem keeps_execSnpPeek {l : LineAt} (h : Keeps r s) : Answers r (execSnpPeek l s) := (keeps_arrive h).next

theorem keeps_execSnpClean {l : LineAt} (h : Keeps r s) : Answers r (execSnpClean l s) := (keeps_arrive h).next

theorem keeps_execSnpPush {l : LineAt} (h : Keeps r s) : Answers r (execSnpPush l s) := (keeps_arrive h).next

theorem keeps_execData {l : LineAt} (h : Keeps r s) : Answers r (execData l s) := (keeps_arrive h).next

theorem keeps_execFwd {l : LineAt} (h : Keeps r s) : Answers r (execFwd l s) := (keeps_arrive h).next

theorem keeps_execSnpData {l : LineAt} (h : Keeps r s) : Answers r (execSnpData l s) := (keeps_arrive h).next

theorem keeps_execSnpAck {l : LineAt} (h : Keeps r s) : Answers r (execSnpAck l s) := (keeps_arrive h).next

theorem keeps_execSnpNp {l : LineAt} (h : Keeps r s) : Answers r (execSnpNp l s) := (keeps_arrive h).next

theorem keeps_execComp {l : LineAt} (h : Keeps r s) : Answers r (execComp l s) := (keeps_arrive h).next

theorem keeps_execGrantAck {l : LineAt} (h : Keeps r s) : Answers r (execGrantAck l s) := (keeps_arrive h).next

theorem keeps_poisonLine {ln : Nat} (h : Keeps r s) : Keeps r (poisonLine s ln) :=
  keeps_memRecord (keeps_poisonSector (keeps_poisonSector h))

theorem keeps_suspect {agent : Nat} (h : Keeps r s) : Keeps r (suspect s agent) := .ite (keeps_agentFails h.upd) h.upd

theorem keeps_execSnoopTimeout {l : LineAt} (h : Keeps r s) : Answers r (execSnoopTimeout l s) := by
  unfold execSnoopTimeout
  dsimp only
  split
  · exact h.next
  · exact .ite ((keeps_suspect (keeps_homeGo (keeps_setTxn (keeps_poisonLine h)))).next) h.next

theorem keeps_execSuspectProbe {agent : Nat} {passes : Bool} (h : Keeps r s) :
    Answers r (execSuspectProbe agent passes s) :=
  .ite (.ite (((keeps_countFor h).upd).next) ((keeps_agentFails (keeps_countFor h)).next)) h.next

theorem keeps_execStreamTimeout {platen stream : Nat} (h :
    Keeps r s) : Answers r (execStreamTimeout platen stream s) :=
  h.upd.next

/-! ### PowerOps -/

theorem keeps_account {p : Nat} (h : Keeps r s) : Keeps r (account s p) :=
  keeps_modPlaten (.ite (keeps_countFor (keeps_countFor h)) (.ite (keeps_countFor (keeps_countFor h))
    (keeps_countFor h)))

theorem keeps_setPower {p : Nat} {f : PlatenPower → PlatenPower} (h : Keeps r s) : Keeps r (setPower s p f) :=
  keeps_modPlaten (keeps_account h)

theorem keeps_wakeModule (h : Keeps r s) : Keeps r (wakeModule s) := .ite h.upd h

theorem keeps_wakePlaten {p : Nat} (h : Keeps r s) : Keeps r (wakePlaten s p) := by
  unfold wakePlaten
  dsimp only
  split
  · exact keeps_wakeModule h
  · exact keeps_wakeModule h
  · exact keeps_setPower (keeps_wakeModule h)
  · exact keeps_countFor (keeps_setPower (keeps_wakeModule h))
  · exact keeps_countFor (keeps_setPower (keeps_wakeModule h))
  · exact keeps_countFor (keeps_setPower (keeps_wakeModule h))

/-! ### Slots -/

theorem keeps_modMbox {mb : MboxId} {g : Mailbox → Mailbox} (h : Keeps r s) : Keeps r (modMbox s mb g) := by
  unfold modMbox
  split
  · exact keeps_modPort h
  · exact keeps_modForme h

theorem keeps_modSlot {mb : MboxId} {k : Nat} {f : Slot → Slot} (h : Keeps r s) : Keeps r (modSlot s mb k f) :=
  keeps_modMbox h

theorem keeps_finish {mb : MboxId} {k st detail result : Nat} (h :
    Keeps r s) : Keeps r (finish s mb k st detail result) :=
  keeps_modSlot h

theorem keeps_reject {mb : MboxId} {k st detail : Nat} (h : Keeps r s) : Keeps r (reject s mb k st detail) :=
  keeps_finish h

theorem keeps_runOn {mb : MboxId} {k w : Nat} (h : Keeps r s) : Keeps r (runOn s mb k w) := keeps_modSlot h

theorem keeps_checked {mb : MboxId} {k : Nat} {cs : List (Bool × Nat × Nat)} {go : State} (h : Keeps r s)
    (hgo : Keeps r go) :
    Keeps r (checked s mb k cs go) := by
  unfold checked
  split
  · exact keeps_reject h
  · exact hgo

theorem keeps_peekSpans {f : Nat} {spans : List (Nat × Nat)} (h : Keeps r s) : Keeps r (peekSpans f spans s).1 := by
  induction spans generalizing s with
  | nil => exact h
  | cons x rest ih =>
    unfold peekSpans
    dsimp only
    split
    · exact h
    · split
      · exact h
      · split
        · exact keeps_readOnce h
        · exact ih (keeps_readOnce h)

theorem keeps_peekVa {f va len : Nat} (h : Keeps r s) : Keeps r (peekVa s f va len).1 := keeps_peekSpans h

/-! ### Passes -/

theorem keeps_clearProof {seq : Nat} (h : Keeps r s) : Keeps r (clearProof s seq) := h.upd

theorem keeps_clearL1s {f : Forme} (h : Keeps r s) : Keeps r (clearL1s s f) := h.upd

theorem keeps_endPass {q : Pass} {st : Nat} (h : Keeps r s) : Keeps r (endPass s q st) :=
  .ite (keeps_finish (keeps_modPass h)) (keeps_modPass h)

theorem keeps_modLayer {f n : Nat} {g : Layer → Layer} (h :
    Keeps r s) : Keeps r (modLayer s f n g) :=
  keeps_modForme h

theorem keeps_completePass {q : Pass} (h : Keeps r s) : Keeps r (completePass s q) := keeps_endPass (keeps_modLayer h)

theorem keeps_commitPass {f : Forme} {l : Layer} {q : Pass} (h : Keeps r s) : Keeps r (commitPass s f l q) := by
  unfold commitPass
  dsimp only
  split
  · exact keeps_completePass h
  · exact keeps_startInval (keeps_modPass h)

theorem keeps_execAttemptEnd {forme seq : Nat} (h : Keeps r s) : Answers r (execAttemptEnd forme seq s) := by
  unfold execAttemptEnd
  dsimp only
  split
  · split
    · exact h.next
    · split
      · exact (keeps_endPass (keeps_clearProof h)).next
      · split
        · exact (keeps_endPass (keeps_clearProof h)).next
        · exact .ite ((keeps_modPass (keeps_clearL1s (keeps_clearProof h))).next) ((keeps_commitPass
            (keeps_clearProof h)).next)
  · exact h.next

theorem keeps_swapEntries {fid : Nat} {bs : List OutBinding} {ids : List Nat} (h : Keeps r s) :
    Keeps r (swapEntries s fid bs ids) := by
  unfold swapEntries
  split
  · exact h
  · exact keeps_modRanges h

theorem keeps_execSwapComplete {forme seq : Nat} (h : Keeps r s) : Answers r (execSwapComplete forme seq s) := by
  unfold execSwapComplete
  dsimp only
  split
  · split
    · exact h.next
    · split
      · exact h.next
      · exact (keeps_completePass (keeps_finishStops (keeps_resolveEntries (keeps_modLayer
          ((keeps_swapEntries h).upd))))).next
  · exact h.next

/-! ### Mailbox -/

theorem keeps_logAer {p : Nat} {e : AerEvent} {i : Instr} (h :
    Keeps r s) : Keeps r (logAer s p e i) :=
  keeps_modPort h

theorem keeps_storeSlot {mb : MboxId} {off : Nat} {data : List Byte} (h :
    Keeps r s) : Keeps r (storeSlot s mb off data) :=
  .ite h (.ite (keeps_modMbox h) (.ite (keeps_wakeModule (keeps_modSlot (keeps_modMbox (keeps_modMbox h))))
    (keeps_modMbox h)))

theorem keeps_toStart {mb : MboxId} {k : Nat} (h : Keeps r s) : Keeps r (toStart s mb k) :=
  .ite (keeps_modSlot h) (keeps_modSlot h)

theorem keeps_execSlotTake (h : Keeps r s) : Answers r (execSlotTake s) := by
  unfold execSlotTake
  dsimp only
  split
  · exact h.next
  · split
    · exact h.next
    · split
      · exact (keeps_reject (keeps_modSlot h)).next
      · exact .ite ((keeps_toStart (keeps_modSlot h)).next) ((keeps_modSlot h).next)

theorem keeps_execAfterRelease {mb : MboxId} {slot : Nat} (h :
    Keeps r s) : Answers r (execAfterRelease mb slot s) := by
  unfold execAfterRelease
  dsimp only
  split
  · split
    · exact (keeps_reject h).next
    · exact (keeps_toStart h).next
  · exact h.next

theorem keeps_execHoldRelease {mb : MboxId} {slot : Nat} (h : Keeps r s) : Answers r (execHoldRelease mb slot s) :=
  .ite ((keeps_modSlot h).next) h.next

theorem keeps_noteFailed {mb : MboxId} {k : Nat} (h : Keeps r s) : Keeps r (noteFailed s mb k) :=
  h.foldl fun _ _ h => .ite h (keeps_modSlot h)

theorem keeps_completeSlot {mb : MboxId} {slot : Nat} (h : Keeps r s) : Keeps r (completeSlot s mb slot) := by
  unfold completeSlot
  dsimp only
  split
  · exact .ite (keeps_signalMsix (keeps_modPort (keeps_dropWaiters (keeps_modMbox (.ite (keeps_noteFailed h) h)))))
      (keeps_modPort (keeps_dropWaiters (keeps_modMbox (.ite (keeps_noteFailed h) h))))
  · exact .ite (keeps_signalHart (keeps_dropWaiters (keeps_modMbox (.ite (keeps_noteFailed h) h))))
      (keeps_dropWaiters (keeps_modMbox (.ite (keeps_noteFailed h) h)))

theorem keeps_execSlotComplete {mb : MboxId} {slot : Nat} (h : Keeps r s) : Answers r (execSlotComplete mb slot s) :=
  .ite ((keeps_completeSlot h).next) h.next

/-! ### MeshOps -/

theorem keeps_modMeshPort {p : Nat} {f : MeshPort → MeshPort} (h : Keeps r s) : Keeps r (modMeshPort s p f) := h.upd

theorem keeps_meshSend {t : MeshTx} (h : Keeps r s) : Keeps r (meshSend s t) := h.upd

theorem keeps_endSent {copyId : Nat} (h : Keeps r s) : Keeps r (endSent s copyId) := h.upd

theorem keeps_forgetPacket {x : SentPacket} (h : Keeps r s) : Keeps r (forgetPacket s x) := h.upd

theorem keeps_packetFails {x : SentPacket} {code : Nat} (h : Keeps r s) : Keeps r (packetFails s x code) :=
  .ite (keeps_forgetPacket h) (.ite (keeps_finish (keeps_endSent (keeps_forgetPacket h))) (keeps_finish
    (keeps_endSent (keeps_forgetPacket h))))

theorem keeps_meshCopySettle {mb : MboxId} {k copyId len : Nat} (h : Keeps r s) :
    Keeps r (meshCopySettle s mb k copyId len) := .ite h (.ite (keeps_finish h) (.ite (keeps_finish h) h))

theorem keeps_packetAnswered {copyId index code : Nat} (h :
    Keeps r s) : Keeps r (packetAnswered s copyId index code) := by
  unfold packetAnswered
  dsimp only
  split
  · exact h
  · exact .ite (keeps_packetFails (keeps_countFor h)) (.ite (keeps_forgetPacket h) (keeps_meshCopySettle
      (keeps_forgetPacket h)))

theorem keeps_answerPacket {p : Packet} {code : Nat} (h : Keeps r s) : Keeps r (answerPacket s p code) :=
  .ite (keeps_packetAnswered h) (keeps_meshSend h)

theorem keeps_writeSpans {via : Via} {hint : Nat} {spans : List (Nat × Nat)} {data : List Byte} (h : Keeps r s) :
    Keeps r (writeSpans via hint spans data s) := by
  induction spans generalizing s data with
  | nil => exact h
  | cons x rest ih => exact ih (.ite (keeps_writeFull h) (keeps_writePart h))

theorem keeps_writeBytesPa {via : Via} {pa hint : Nat} {data : List Byte} (h : Keeps r s) :
    Keeps r (writeBytesPa s via pa hint data) := keeps_writeSpans h

theorem keeps_reach {a : Access} {w : Waiter} {spans : List (Nat × Nat)} (h :
    Keeps r s) : Keeps r (reach a w spans s).1 := by
  induction spans generalizing s with
  | nil => exact h
  | cons x rest ih =>
    have k := keeps_translate (a := a) (va := x.1) h
    unfold reach
    dsimp only
    split
    · exact keeps_raiseFault k
    · split
      · exact ih k
      · exact ih k

theorem keeps_writePieces {via : Via} {hint : Nat} {pieces : List (Nat × Nat)} {data : List Byte} (h : Keeps r s) :
    Keeps r (writePieces via hint pieces data s) := by
  induction pieces generalizing s data with
  | nil => exact h
  | cons x rest ih => exact ih (keeps_writeBytesPa h)

theorem keeps_readSpans {via : Via} {spans : List (Nat × Nat)} (h :
    Keeps r s) : Keeps r (readSpans via spans s).1 := by
  induction spans generalizing s with
  | nil => exact h
  | cons x rest ih => exact ih (keeps_readOnce h)

theorem keeps_readPieces {via : Via} {pas : List (Nat × Nat)} (h : Keeps r s) : Keeps r (readPieces via pas s).1 :=
  keeps_readSpans h

theorem keeps_rejectPacket {forme : Option Nat} {p : Packet} {code : Nat} (h : Keeps r s) :
    Keeps r (rejectPacket s forme p code) := keeps_answerPacket (keeps_countFor h)

theorem keeps_performPut {port : Nat} {p : Packet} (h : Keeps r s) : Keeps r (performPut s port p).1 := by
  unfold performPut
  dsimp only
  split
  · exact keeps_rejectPacket h
  · exact h
  · split
    · exact h
    · split
      · exact keeps_reach h
      · exact keeps_rejectPacket (keeps_reach h)
      · exact keeps_answerPacket ((keeps_countFor (keeps_writePieces (keeps_reach h))).upd)

theorem keeps_drainWaiting {n port key : Nat} (h : Keeps r s) : Keeps r (drainWaiting n port key s) := by
  induction n generalizing s with
  | zero => exact h
  | succ n ih =>
    unfold drainWaiting
    split
    · exact h
    · exact .ite (ih (keeps_performPut h.upd)) (keeps_performPut h.upd)

theorem keeps_putDue {port : Nat} {p : Packet} (h : Keeps r s) : Keeps r (putDue s port p) :=
  .ite (keeps_drainWaiting (keeps_performPut h)) (keeps_performPut h)

theorem keeps_inboundPut {port : Nat} {p : Packet} (h : Keeps r s) : Keeps r (inboundPut s port p) :=
  .ite h (.ite (keeps_rejectPacket h) (.ite h.upd (keeps_putDue h)))

theorem keeps_inboundGet {port : Nat} {p : Packet} {len : Nat} (h :
    Keeps r s) : Keeps r (inboundGet s port p len) := by
  unfold inboundGet
  dsimp only
  split
  · exact keeps_meshSend (keeps_countFor h)
  · exact h
  · split
    · exact h
    · split
      · exact keeps_reach h
      · exact keeps_meshSend (keeps_countFor (keeps_reach h))
      · exact keeps_meshSend (keeps_readPieces (keeps_reach h))

theorem keeps_transmit {port : Nat} {x : MeshChannel × Packet} (h : Keeps r s) : Keeps r (transmit s port x) :=
  keeps_meshSend (keeps_modMeshPort (keeps_drawn h))

theorem keeps_pump {n port : Nat} (h : Keeps r s) : Keeps r (pump n port s) := by
  induction n generalizing s with
  | zero => exact h
  | succ n ih =>
    unfold pump
    split
    · exact h
    · exact ih (keeps_transmit h)

theorem keeps_pumpPort {port : Nat} (h : Keeps r s) : Keeps r (pumpPort s port) := .ite (keeps_pump h) h

theorem keeps_sendPacket {port : Nat} {p : Packet} (h : Keeps r s) : Keeps r (sendPacket s port p) :=
  keeps_pumpPort (keeps_modMeshPort h)

theorem keeps_serveTransit (h : Keeps r s) (e : serveTransit s = some t) : Keeps r t := by
  obtain ⟨q, -, e⟩ := Option.bind_eq_some_iff.mp e
  obtain ⟨x, -, rfl⟩ := Option.map_eq_some_iff.mp e
  exact keeps_sendPacket h.upd

theorem keeps_serveTransitsFor {n : Nat} (h : Keeps r s) : Keeps r (serveTransitsFor n s) := by
  induction n generalizing s with
  | zero => exact h
  | succ n ih =>
    unfold serveTransitsFor
    split
    · exact ih (keeps_serveTransit h ‹_›)
    · exact h

theorem keeps_serveTransits (h : Keeps r s) : Keeps r (serveTransits s) := keeps_serveTransitsFor h

theorem keeps_toPort {forme : Option Nat} {src port : Nat} {p : Packet} (h : Keeps r s) :
    Keeps r (toPort s forme src port p) := .ite (keeps_sendPacket h) (keeps_serveTransits h.upd)

theorem keeps_dropPacket {p : Packet} {code : Nat} (h : Keeps r s) : Keeps r (dropPacket s p code) :=
  .ite (keeps_packetAnswered h) (keeps_meshSend h)

theorem keeps_reroute {src : Nat} {p : Packet} (h : Keeps r s) : Keeps r (reroute src s p) := by
  unfold reroute
  dsimp only
  split
  · exact keeps_dropPacket h
  · exact keeps_toPort (.ite h (keeps_countFor h))

theorem keeps_takePackets {port : Nat} {test : MeshChannel → Bool} (h :
    Keeps r s) : Keeps r (takePackets s port test).1 :=
  keeps_modMeshPort h

theorem keeps_rerouteAll {port : Nat} (h : Keeps r s) : Keeps r (rerouteAll s port) :=
  (keeps_takePackets h).foldl fun _ _ h => keeps_reroute h

theorem keeps_rerouteNarrow {port : Nat} (h : Keeps r s) : Keeps r (rerouteNarrow s port) :=
  .ite ((keeps_takePackets (keeps_modMeshPort (keeps_takePackets h))).foldl fun _ _ h => keeps_reroute h)
    (keeps_modMeshPort (keeps_takePackets h))

theorem keeps_meshTickPort {port : Nat} (h : Keeps r s) : Keeps r (meshTickPort s port) :=
  .ite (keeps_pumpPort h) (keeps_pumpPort (keeps_modMeshPort (keeps_drawn h)))

theorem keeps_meshTick (h : Keeps r s) : Keeps r (meshTick s) :=
  keeps_serveTransits (h.foldl fun _ _ h => keeps_meshTickPort h)

theorem keeps_received {port : Nat} (h : Keeps r s) : Keeps r (received s port) := keeps_modMeshPort (keeps_drawn h)

theorem keeps_countSent {forme : Nat} {prompt : Bool} {n : Nat} (h :
    Keeps r s) : Keeps r (countSent s forme prompt n) :=
  keeps_countFor h

theorem keeps_launchPacket {forme port : Nat} {p : Packet} (h :
    Keeps r s) : Keeps r (launchPacket s forme port p) := by
  unfold launchPacket
  dsimp only
  split
  · exact keeps_inboundPut (keeps_countSent h)
  · split
    · exact keeps_packetAnswered h
    · exact keeps_toPort (.ite (keeps_countSent h) (keeps_countFor (keeps_countSent h)))

theorem keeps_retree (h : Keeps r s) : Keeps r (retree s) := h.upd

/-! ### Copy -/

theorem keeps_gatherFrom {a : Access} {w : Waiter} {via : Via} {spans : List (Nat × Nat)} (h : Keeps r s) :
    Keeps r (gatherFrom a w via spans s).1 := by
  induction spans generalizing s with
  | nil => exact h
  | cons x rest ih =>
    have k := keeps_translate (a := a) (va := x.1) h
    unfold gatherFrom
    dsimp only
    split
    · exact keeps_raiseFault k
    · split
      · exact keeps_readOnce k
      · exact ih (keeps_readOnce k)

theorem keeps_readSource {f : Nat} {x : Slot} {mb : MboxId} {k va n : Nat} (h : Keeps r s) :
    Keeps r (readSource s f x mb k va n).1 := keeps_gatherFrom h

theorem keeps_poisonSpan {pa n : Nat} (h : Keeps r s) : Keeps r (poisonSpan s pa n) :=
  .ite (keeps_homeWriteSector h) (keeps_homeWriteSector (keeps_homeWriteSector h))

theorem keeps_writeDest {f : Nat} {x : Slot} {mb : MboxId} {k va hint : Nat} {data : List Byte} {bad : Bool}
    (h : Keeps r s) :
    Keeps r (writeDest s f x mb k va hint data bad).1 := by
  unfold writeDest
  dsimp only
  split
  · exact keeps_raiseFault (keeps_translate h)
  · exact .ite (keeps_poisonSpan (keeps_writeBytesPa (keeps_translate h))) (keeps_writeBytesPa (keeps_translate h))

theorem keeps_advance {mb : MboxId} {k n : Nat} (h : Keeps r s) : Keeps r (advance s mb k n) := keeps_modSlot h

theorem keeps_dropReads {p : Nat} {mb : MboxId} {k : Nat} (h :
    Keeps r s) : Keeps r (dropReads s p mb k) :=
  keeps_modPort h

theorem keeps_endsAt {mb : MboxId} {k st : Nat} (h : Keeps r s) : Keeps r (endsAt s mb k st) :=
  keeps_finish (keeps_dropReads h)

theorem keeps_stopped {mb : MboxId} {k : Nat} {a : Stop} (h : Keeps r s) : Keeps r (stopped s mb k a) := by
  unfold stopped
  split
  · exact h
  · exact h
  · exact keeps_endsAt h
  · exact keeps_endsAt h

theorem keeps_deviceStep {f : Nat} {mb : MboxId} {k c : Nat} (h : Keeps r s) : Keeps r (deviceStep s f mb k c) := by
  unfold deviceStep
  dsimp only
  split
  · exact keeps_finish h
  · split
    · exact keeps_stopped (keeps_readSource h)
    · split
      · exact keeps_stopped (keeps_advance (keeps_writeDest (keeps_readSource h)))
      · exact keeps_stopped (keeps_writeDest (keeps_readSource h))

theorem keeps_hostSend {p : Nat} {t : HostTlp} (h : Keeps r s) : Keeps r (hostSend s p t) := keeps_modPort h

theorem keeps_toHostStep {f : Nat} {mb : MboxId} {k c : Nat} (h : Keeps r s) : Keeps r (toHostStep s f mb k c) :=
  .ite (keeps_finish h) (.ite h (.ite (keeps_stopped (keeps_readSource h)) (keeps_stopped (keeps_advance
    (keeps_hostSend (keeps_readSource h))))))

theorem keeps_fromHostStep {mb : MboxId} {k c : Nat} (h : Keeps r s) : Keeps r (fromHostStep s mb k c) :=
  .ite h (keeps_modPort h)

theorem keeps_carryStep {f : Nat} {mb : MboxId} {k c : Nat} (h : Keeps r s) : Keeps r (carryStep s f mb k c) := by
  unfold carryStep
  dsimp only
  split
  · exact .ite (keeps_endsAt h) (keeps_finish h)
  · split
    · exact h
    · split
      · exact keeps_endsAt h
      · split
        · exact keeps_advance (keeps_modPort (keeps_writeDest h))
        · exact keeps_stopped (keeps_writeDest h)

theorem keeps_carry {n f k c : Nat} {mb : MboxId} (h : Keeps r s) : Keeps r (carry n f mb k c s) := by
  induction n generalizing s with
  | zero => exact h
  | succ n ih => exact .ite h (ih (keeps_carryStep h))

theorem keeps_carryAll {f : Nat} {mb : MboxId} {k c : Nat} (h : Keeps r s) : Keeps r (carryAll s f mb k c) :=
  .ite (keeps_endsAt (keeps_carry h)) (keeps_carry h)

theorem keeps_pend {mb : MboxId} {k st detail : Nat} (h :
    Keeps r s) : Keeps r (pend s mb k st detail) :=
  keeps_modSlot h

theorem keeps_meshStop {mb : MboxId} {k : Nat} {a : Stop} (h : Keeps r s) : Keeps r (meshStop s mb k a) := by
  unfold meshStop
  split
  · exact h
  · exact h
  · exact keeps_pend h
  · exact keeps_pend h

theorem keeps_meshStep {f : Nat} {mb : MboxId} {k c : Nat} (h : Keeps r s) : Keeps r (meshStep s f mb k c) := by
  unfold meshStep
  dsimp only
  split
  · exact h
  · split
    · exact h
    · split
      · exact .ite (keeps_meshStop (keeps_readSource h)) (keeps_meshCopySettle (keeps_meshStop (keeps_readSource h)))
      · split
        · exact keeps_readSource h
        · exact keeps_launchPacket (keeps_meshStop (keeps_advance ((keeps_readSource h).upd)))

theorem keeps_moveStep {f : Nat} {mb : MboxId} {k c : Nat} (h : Keeps r s) : Keeps r (moveStep s f mb k c) := by
  unfold moveStep
  split
  · exact keeps_deviceStep h
  · exact keeps_toHostStep h
  · exact keeps_fromHostStep h
  · exact keeps_meshStep h

theorem keeps_moveSteps {n f k c : Nat} {mb : MboxId} (h : Keeps r s) : Keeps r (moveSteps n f mb k c s) := by
  induction n generalizing s with
  | zero => exact h
  | succ n ih => exact .ite h (ih (keeps_moveStep h))

theorem keeps_startMove {mb : MboxId} {k die w : Nat} (h : Keeps r s) : Keeps r (startMove s mb k die w) :=
  keeps_modSlot h

theorem keeps_copyStart {fid : Nat} {f : Forme} {mb : MboxId} {k c : Nat} (h : Keeps r s) :
    Keeps r (copyStart s fid f mb k c) := by
  unfold copyStart
  dsimp only
  split
  · exact keeps_startMove h
  · exact keeps_startMove h
  · exact keeps_startMove h
  · split
    · exact keeps_finish h
    · exact keeps_startMove h.upd

theorem keeps_execCopy {mb : MboxId} {slot budget : Nat} (h : Keeps r s) : Answers r (execCopy mb slot budget s) := by
  unfold execCopy
  dsimp only
  split
  · split
    · exact h.next
    · exact .ite ((keeps_reject h).next) ((keeps_moveSteps (keeps_checked h (keeps_copyStart h))).next)
  · exact (keeps_moveSteps (.ite (keeps_carryAll h) h)).next
  · exact h.next

theorem keeps_fillStep {f : Nat} {mb : MboxId} {k c pattern : Nat} (h :
    Keeps r s) : Keeps r (fillStep s f mb k c pattern) := by
  unfold fillStep
  dsimp only
  split
  · exact keeps_finish h
  · split
    · exact keeps_advance (keeps_writeDest h)
    · exact keeps_stopped (keeps_writeDest h)

theorem keeps_fillSteps {n f k c pat : Nat} {mb : MboxId} (h : Keeps r s) : Keeps r (fillSteps n f mb k c pat s) := by
  induction n generalizing s with
  | zero => exact h
  | succ n ih => exact .ite h (ih (keeps_fillStep h))

theorem keeps_fillRow {mb : MboxId} {k opc budget : Nat} {fields : List (Nat × Nat)} {pattern : Nat → Nat}
    (h : Keeps r s) :
    Keeps r (fillRow s mb k opc budget fields pattern) := by
  unfold fillRow
  dsimp only
  split
  · split
    · exact h
    · exact .ite (keeps_reject h) (keeps_fillSteps (keeps_checked h (keeps_startMove h)))
  · exact keeps_fillSteps h
  · exact h

theorem keeps_execFill {mb : MboxId} {slot budget : Nat} (h : Keeps r s) : Answers r (execFill mb slot budget s) :=
  (keeps_fillRow h).next

theorem keeps_execZero {mb : MboxId} {slot budget : Nat} (h : Keeps r s) : Answers r (execZero mb slot budget s) :=
  (keeps_fillRow h).next

theorem keeps_setRead {p : Nat} {r' r'' : HostRead} (h : Keeps r s) : Keeps r (setRead s p r' r'') := keeps_modPort h

theorem keeps_afterRead {r' : HostRead} (h : Keeps r s) : Keeps r (afterRead s r') := by
  unfold afterRead
  split
  · exact h
  · exact .ite h (keeps_carryAll h)

theorem keeps_execHostReadCompletion {port tag : Nat} {data : List Byte} {poisoned : Bool}
    (h : Keeps r s) : Answers r (execHostReadCompletion port tag data poisoned s) := by
  unfold execHostReadCompletion
  dsimp only
  split
  · exact h.next
  · split
    · exact h.next
    · exact (keeps_afterRead (keeps_setRead (.ite (keeps_logAer h) h))).next

theorem keeps_execHostReadTimeout {port tag : Nat} (h : Keeps r s) : Answers r (execHostReadTimeout port tag s) := by
  unfold execHostReadTimeout
  dsimp only
  split
  · exact h.next
  · split
    · exact h.next
    · exact (keeps_afterRead (keeps_setRead (keeps_logAer h))).next

/-! ### HostPort -/

theorem keeps_tornOffset {p n : Nat} (h : Keeps r s) : Keeps r (tornOffset s p n).1 := keeps_drawn h

theorem keeps_cutReads {p k : Nat} (h : Keeps r s) : Keeps r (cutReads s p k) := by
  unfold cutReads
  dsimp only
  split
  · exact .ite (keeps_endsAt (keeps_carryAll (keeps_modPort h))) (keeps_carryAll (keeps_modPort h))
  · exact .ite (keeps_endsAt (keeps_modPort h)) (keeps_modPort h)

theorem keeps_cutMove {p k : Nat} {m : Move} (h : Keeps r s) : Keeps r (cutMove s p k m).1 := by
  unfold cutMove
  split
  · dsimp only
    exact keeps_finish (keeps_tornOffset h)
  · exact keeps_cutReads h

theorem keeps_recordSlot {p k : Nat} (h : Keeps r s) : Keeps r (recordSlot s p k) := by
  unfold recordSlot
  dsimp only
  split
  · exact keeps_modPort (keeps_cutMove h)
  · split
    · exact .ite (keeps_modPort h) (keeps_modPort h)
    · exact keeps_modPort h

theorem keeps_forgetReads {p : Nat} (h : Keeps r s) : Keeps r (forgetReads s p) := keeps_modPort h.upd

theorem keeps_portReset {p kind : Nat} {f : Port → Port} (h : Keeps r s) : Keeps r (portReset s p kind f) :=
  keeps_modPort (keeps_forgetReads ((keeps_modPort (keeps_modPort (keeps_journalWrite (keeps_openDigest h)))).foldl
    fun _ _ h => keeps_recordSlot h))

theorem keeps_execHotReset {port : Nat} (h : Keeps r s) : Answers r (execHotReset port s) :=
  .ite ((Keeps.ite (keeps_holdRow h) (keeps_portReset h)).next) h.next

theorem keeps_execFunctionLevelReset {port : Nat} (h : Keeps r s) : Answers r (execFunctionLevelReset port s) :=
  .ite ((Keeps.ite (keeps_holdRow h) (keeps_portReset h)).next) h.next

theorem keeps_execLinkDown {port : Nat} (h : Keeps r s) : Answers r (execLinkDown port s) :=
  .ite ((keeps_portReset h).next) h.next

theorem keeps_execPerstNAssert {port : Nat} (h : Keeps r s) : Answers r (execPerstNAssert port s) :=
  .ite h.next ((Keeps.ite (keeps_portReset (keeps_modPort h)) (keeps_modPort h)).next)

theorem keeps_execPerstNRelease {port : Nat} (h : Keeps r s) : Answers r (execPerstNRelease port s) :=
  (Keeps.ite (keeps_modPort h) h).next

theorem keeps_execLinkRetrain {_port : Nat} (h : Keeps r s) : Answers r (execLinkRetrain _port s) := h.next

theorem keeps_execD3hotEntry {port : Nat} {toD0 : Bool} (h : Keeps r s) : Answers r (execD3hotEntry port toD0 s) :=
  .ite ((keeps_modPort h).next) h.next

theorem keeps_execPcieTrainAttempt {port : Nat} {ends : Training} (h : Keeps r s) :
    Answers r (execPcieTrainAttempt port ends s) := .ite ((keeps_modPort h).next) h.next

theorem keeps_execMemorySpaceEnable {port rid : Nat} (h : Keeps r s) : Answers r (execMemorySpaceEnable port rid s) :=
  (Keeps.ite (keeps_modPort h) h).next

theorem keeps_setBusMaster {port : Nat} {value : Bool} (h : Keeps r s) : Keeps r (setBusMaster s port value) := by
  unfold setBusMaster
  refine .ite (keeps_modPort h) ((keeps_modPort h).foldl fun s k h => ?_)
  split
  · exact keeps_cutMove h
  · exact h

theorem keeps_execBusMasterEnableWrite {port : Nat} {value : Bool} (h : Keeps r s) :
    Answers r (execBusMasterEnableWrite port value s) := (Keeps.ite (keeps_setBusMaster h) h).next

theorem keeps_configWrite {port rid at_ : Nat} {data : List Byte} (h : Keeps r s) :
    Keeps r (configWrite s port rid at_ data) :=
  .ite (.ite (keeps_modPort (keeps_modPort h)) (keeps_setBusMaster (keeps_modPort (keeps_modPort h)))) (keeps_modPort
    (keeps_modPort h))

theorem keeps_aperDenied {p tag : Nat} {posted : Bool} {req : Instr} (h : Keeps r s) :
    Keeps r (aperDenied s p tag posted req) := .ite (keeps_logAer h) (keeps_hostSend (keeps_logAer h))

theorem keeps_aperReach {p f kind off len tag : Nat} {req : Instr} {posted : Bool} {go : State → List
    (Nat × Nat) → State}
    (h : Keeps r s) (hgo : ∀ s pas, Keeps r s → Keeps r (go s pas)) :
    Keeps r (aperReach s p f kind off len req tag posted go) := by
  unfold aperReach
  dsimp only
  split
  · exact hgo _ _ (keeps_reach h)
  · exact keeps_reach h
  · exact keeps_aperDenied (keeps_reach h)

theorem keeps_aperRead {p : Nat} {req : ReqInfo} {off len : Nat} (h :
    Keeps r s) : Keeps r (aperRead s p req off len) := by
  unfold aperRead
  dsimp only
  split
  · exact h
  · exact keeps_aperReach h (fun _ _ h => keeps_hostSend (keeps_readPieces h))

theorem keeps_aperWrite {p : Nat} {req : ReqInfo} {off : Nat} {data : List Byte} {tph : Tph} (h : Keeps r s) :
    Keeps r (aperWrite s p req off data tph) := by
  unfold aperWrite
  split
  · exact h
  · exact keeps_aperReach h (fun _ _ h => keeps_writePieces h)

theorem keeps_aperAtomic {p off size operand compare : Nat} {req : ReqInfo} {op : AtomOp} (h : Keeps r s) :
    Keeps r (aperAtomic s p req off size op operand compare) := by
  unfold aperAtomic
  split
  · exact h
  · refine keeps_aperReach h fun s pas h => ?_
    split
    · exact h
    · dsimp only
      split
      · exact keeps_hostSend (keeps_cacheAtomic (keeps_breakResv h))
      · exact keeps_hostSend (keeps_cacheAtomic (keeps_breakResv h))

theorem keeps_barWritten {p off : Nat} {data : List Byte} (h : Keeps r s) : Keeps r (barWritten s p off data) :=
  .ite (keeps_storeSlot h) (keeps_modPort h)

theorem keeps_inboundNow {a : Instr} (h : Keeps r s) : Keeps r (inboundNow s a) := by
  unfold inboundNow
  split
  · exact keeps_aperRead h
  · exact keeps_aperWrite h
  · exact keeps_aperAtomic h
  · exact keeps_putDue h
  · exact keeps_inboundGet h
  · exact keeps_barWritten h
  · exact keeps_barWritten h
  · exact h

theorem keeps_performInbound {i : Instr} (h : Keeps r s) : Keeps r (performInbound s i) := by
  unfold performInbound
  split
  · exact keeps_inboundNow h
  · exact .ite (keeps_modPort h) (keeps_inboundNow h)

theorem keeps_drainPort {n p : Nat} (h : Keeps r s) : Keeps r (drainPort n p s) := by
  induction n generalizing s with
  | zero => exact h
  | succ n ih =>
    unfold drainPort
    split
    · exact h
    · split
      · exact h
      · exact ih (keeps_inboundNow (keeps_modPort h))

theorem keeps_drainAfter {i : Instr} (h : Keeps r s) : Keeps r (drainAfter s i) := by
  unfold drainAfter
  split
  · exact h
  · exact keeps_drainPort h

theorem keeps_denyInbound {a : Instr} (h : Keeps r s) : Keeps r (denyInbound s a) := by
  unfold denyInbound
  split
  · exact keeps_aperDenied h
  · exact keeps_aperDenied h
  · exact keeps_aperDenied h
  · exact keeps_rejectPacket h
  · exact keeps_meshSend (keeps_countFor h)
  · exact h

theorem keeps_aperAccepted {i : Instr} (h : Keeps r s) : Keeps r (aperAccepted s i) :=
  .ite (keeps_wakeModule h.upd) (keeps_performInbound h)

theorem keeps_execApertureRead {port : Nat} {req : ReqInfo} {off len : Nat} (h : Keeps r s) :
    Answers r (execApertureRead port req off len s) := by
  unfold execApertureRead
  split
  · exact h.next
  · split
    · exact (keeps_hostSend (keeps_logAer h)).next
    · exact (keeps_aperAccepted h).next

theorem keeps_postedWrite {port : Nat} {refused : Option AerEvent} {poisoned : Bool} {i : Instr} {go : State}
    (h : Keeps r s)
    (hgo : Keeps r go) : Keeps r (postedWrite s port refused poisoned i go) := by
  unfold postedWrite
  split
  · exact keeps_logAer h
  · exact .ite (keeps_logAer h) hgo

theorem keeps_execApertureWrite {port : Nat} {req : ReqInfo} {off : Nat} {data : List Byte} {tph : Tph} {poisoned : Bool}
    (h : Keeps r s) : Answers r (execApertureWrite port req off data tph poisoned s) :=
  .ite h.next ((keeps_postedWrite h (keeps_aperAccepted h)).next)

theorem keeps_barAccepted {p : Nat} {i : Instr} (h : Keeps r s) : Keeps r (barAccepted s p i) :=
  .ite h.upd (keeps_performInbound h)

theorem keeps_execSlotWrite {mb : MboxId} {req : ReqInfo} {off : Nat} {data : Payload} (h : Keeps r s) :
    Answers r (execSlotWrite mb req off data s) := by
  unfold execSlotWrite
  dsimp only
  split
  · exact (Keeps.ite (keeps_storeSlot h) h).next
  · exact .ite h.next ((keeps_postedWrite h (keeps_barAccepted h)).next)

theorem keeps_execRegisterWrite {port : Nat} {req : ReqInfo} {off : Nat} {data : Payload} (h : Keeps r s) :
    Answers r (execRegisterWrite port req off data s) :=
  .ite h.next (.ite ((keeps_configWrite h).next) ((keeps_postedWrite h (keeps_barAccepted h)).next))

theorem keeps_execApertureAtomic {port : Nat} {req : ReqInfo} {off size : Nat} {op : AtomOp} {operand compare : Nat}
    (h : Keeps r s) :
    Answers r (execApertureAtomic port req off size op operand compare s) := by
  unfold execApertureAtomic
  dsimp only
  split
  · exact h.next
  · split
    · exact (keeps_hostSend (keeps_logAer h)).next
    · exact .ite ((keeps_hostSend (keeps_logAer h)).next) (.ite ((keeps_logAer h).next) ((keeps_aperAccepted h).next))

/-! ### CoreMmu -/

theorem keeps_coreTrap {h' cause stval : Nat} (h : Keeps r s) : Keeps r (coreTrap s h' cause stval) :=
  keeps_modHart (keeps_drawn h)

theorem keeps_coreIllegal {h' word : Nat} (h : Keeps r s) : Keeps r (coreIllegal s h' word) :=
  keeps_coreTrap (keeps_drawn h)

theorem keeps_coreFault {h' cause stval ndfault : Nat} (h :
    Keeps r s) : Keeps r (coreFault s h' cause stval ndfault) :=
  keeps_modHart (keeps_drawn h)

theorem keeps_coreReach {a : Access} {hart : Nat} {spans : List (Nat × Nat)} (h : Keeps r s) :
    Keeps r (coreReach a hart spans s).1 := by
  induction spans generalizing s with
  | nil => exact h
  | cons x rest ih =>
    have k := keeps_translate (a := a) (va := x.1) h
    unfold coreReach
    dsimp only
    split
    · exact h
    · split
      · exact keeps_raiseFault k
      · split
        · exact keeps_homeAccept k
        · split
          · exact ih k
          · exact ih k

theorem keeps_coreReadPas {hart : Nat} {spans : List (Nat × Nat)} (h : Keeps r s) :
    Keeps r (coreReadPas hart spans s).1 := by
  induction spans generalizing s with
  | nil => exact h
  | cons x rest ih =>
    unfold coreReadPas
    dsimp only
    split
    · exact keeps_cacheRead h
    · split
      · exact keeps_cacheRead h
      · exact ih (keeps_cacheRead h)

theorem keeps_readPte {h' f a : Nat} (h : Keeps r s) : Keeps r (readPte h' f a s).1 := by
  unfold readPte
  dsimp only
  split
  · exact keeps_coreReach h
  · exact keeps_coreReach h
  · exact keeps_coreReach h
  · split <;> exact keeps_coreReadPas (keeps_coreReach h)

theorem keeps_walkFrom {get : Nat → State → State × Walked} {wide : Bool} {allows : Nat → Bool} {va n base : Nat}
    (h : Keeps r s) (hget : ∀ a s, Keeps r s → Keeps r (get a s).1) :
    Keeps r (walkFrom get wide allows va n base s).1 := by
  induction n generalizing s base wide with
  | zero => exact h
  | succ n ih =>
    have k (a : Nat) := hget a s h
    unfold walkFrom
    dsimp only
    split
    · split
      · exact k _
      · split
        · split
          · exact k _
          · exact k _
        · split
          · exact k _
          · exact ih (k _)
    · exact k _

theorem keeps_guestStage {h' f kind a : Nat} (h : Keeps r s) : Keeps r (guestStage h' f kind a s).1 := by
  unfold guestStage
  dsimp only
  split
  · exact h
  · split
    · exact h
    · split <;> exact keeps_walkFrom h (fun _ _ h => keeps_readPte h)

theorem keeps_stagePte {h' f : Nat} {virt : Bool} {a : Nat} (h : Keeps r s) : Keeps r (stagePte h' f virt a s).1 := by
  unfold stagePte
  dsimp only
  split
  · split
    · exact keeps_readPte (keeps_guestStage h)
    · exact keeps_guestStage h
  · exact keeps_readPte h

theorem keeps_mmuOne {h' f kind va : Nat} (h : Keeps r s) : Keeps r (mmuOne h' f kind va s).1 := by
  unfold mmuOne
  dsimp only
  split
  · split
    · split
      · exact keeps_guestStage h
      · split
        · exact keeps_guestStage h
        · exact keeps_guestStage (keeps_walkFrom h (fun _ _ h => keeps_stagePte h))
    · split
      · exact h
      · split
        · exact h
        · exact keeps_walkFrom h (fun _ _ h => keeps_stagePte h)
  · split
    · split
      · exact h
      · split
        · exact h
        · exact keeps_walkFrom h (fun _ _ h => keeps_stagePte h)
    · split
      · exact h
      · split
        · exact h
        · exact keeps_walkFrom h (fun _ _ h => keeps_stagePte h)

theorem keeps_mmuPieces {hart f kind fault : Nat} {spans : List (Nat × Nat)} (h : Keeps r s) :
    Keeps r (mmuPieces hart f kind fault spans s).1 := by
  induction spans generalizing s with
  | nil => exact h
  | cons x rest ih =>
    have k := keeps_mmuOne (h' := hart) (f := f) (kind := kind) (va := x.1) h
    unfold mmuPieces
    dsimp only
    split
    · exact k
    · exact k
    · exact k
    · exact k
    · split
      · exact ih k
      · exact ih k

theorem keeps_coreMmu {h' f kind fault va n : Nat} (h : Keeps r s) : Keeps r (coreMmu h' f kind fault va n s).1 :=
  keeps_mmuPieces h

theorem keeps_coreBoth {h' f kind fault va n : Nat} (h :
    Keeps r s) : Keeps r (coreBoth h' f kind fault va n s).1 := by
  unfold coreBoth
  dsimp only
  split
  · exact keeps_coreReach (keeps_coreMmu h)
  · exact keeps_coreMmu h

/-! ### Csr -/

theorem keeps_timerStep (h : Keeps r s) : Keeps r (timerStep s) := h.upd

theorem keeps_csrPerform {h' : Nat} {op : CsrOp} {num rd v : Nat} (h :
    Keeps r s) : Keeps r (csrPerform s h' op num rd v) := by
  unfold csrPerform
  dsimp only
  split
  · exact .ite (keeps_coreIllegal h) (keeps_coreTrap h)
  · exact .ite (keeps_coreIllegal h) (keeps_modHart (.ite (keeps_drawn h) h))

theorem keeps_vsetPerform {h' rd avl vt : Nat} (h : Keeps r s) : Keeps r (vsetPerform s h' rd avl vt) := by
  unfold vsetPerform
  dsimp only
  split
  · exact keeps_modHart h
  · exact keeps_modHart (keeps_drawn h)

/-! ### Cores -/

theorem keeps_coreWritePas {hart : Nat} {spans : List (Nat × Nat)} {data : List Byte} (h : Keeps r s) :
    Keeps r (coreWritePas hart spans data s) := by
  induction spans generalizing s data with
  | nil => exact h
  | cons x rest ih => exact ih (keeps_cacheWrite (keeps_breakResv h))

theorem keeps_mboxAccess {h' f off va : Nat} {a : CoreAcc} (h :
    Keeps r s) : Keeps r (mboxAccess s h' f off va a) := by
  unfold mboxAccess
  split
  · exact keeps_modHart h
  · exact keeps_modHart h
  · exact keeps_storeSlot h
  · exact keeps_coreFault h

theorem keeps_coreAt {h' f va : Nat} {acc : CoreAcc} {dvas pas : List (Nat × Nat)} (h : Keeps r s) :
    Keeps r (coreAt s h' f va acc dvas pas) := by
  unfold coreAt
  dsimp only
  split
  · split
    · exact keeps_coreFault (keeps_coreReadPas h)
    · exact keeps_modHart (keeps_coreReadPas h)
  · split
    · exact keeps_coreFault (keeps_coreReadPas h)
    · exact keeps_coreReadPas h
  · split
    · exact keeps_coreFault (keeps_coreReadPas h)
    · exact keeps_modHart (keeps_coreReadPas h)
  · split
    · exact keeps_coreFault (keeps_coreReadPas h)
    · exact keeps_modHart (keeps_coreReadPas h)
  · split
    · exact keeps_coreFault (keeps_coreReadPas h)
    · exact keeps_modHart (keeps_coreReadPas h)
  · exact keeps_coreWritePas h
  · exact keeps_coreWritePas h
  · exact keeps_coreWritePas h
  · exact keeps_coreWritePas h
  · split
    · exact h
    · exact .ite (keeps_coreFault (keeps_cacheOwn h)) (keeps_modHart (keeps_countFor (keeps_cacheOwn h)))
  · split
    · exact h
    · exact .ite (keeps_coreWritePas (keeps_countFor (keeps_modHart h))) (keeps_modHart h)
  · split
    · exact h
    · split
      · exact keeps_coreFault (keeps_cacheAtomic (keeps_breakResv h))
      · exact keeps_modHart (keeps_cacheAtomic (keeps_breakResv h))
  · exact h

theorem keeps_stallHart {h' : Nat} {i : Instr} (h : Keeps r s) : Keeps r (stallHart s h' i) := keeps_modHart h

theorem keeps_corePerform {h' f va : Nat} {acc : CoreAcc} (h : Keeps r s) : Keeps r (corePerform s h' f va acc) := by
  unfold corePerform
  dsimp only
  split
  · exact keeps_coreTrap h
  · split
    · exact keeps_mboxAccess (keeps_coreMmu h)
    · split
      · exact keeps_stallHart (keeps_coreBoth h)
      · exact keeps_coreFault (keeps_coreBoth h)
      · exact keeps_coreTrap (keeps_coreBoth h)
      · exact keeps_coreAt (keeps_coreBoth h)

theorem keeps_guestPerform {h' f va : Nat} {acc : CoreAcc} (h :
    Keeps r s) : Keeps r (guestPerform s h' f va acc) := by
  unfold guestPerform
  dsimp only
  split
  · exact keeps_stallHart (keeps_modHart (keeps_coreBoth (keeps_modHart h)))
  · exact keeps_coreFault (keeps_modHart (keeps_coreBoth (keeps_modHart h)))
  · exact keeps_coreTrap (keeps_modHart (keeps_coreBoth (keeps_modHart h)))
  · exact keeps_coreAt (keeps_modHart (keeps_coreBoth (keeps_modHart h)))

theorem keeps_accessPerform {h' f va : Nat} {acc : CoreAcc} (h :
    Keeps r s) : Keeps r (accessPerform s h' f va acc) := by
  unfold accessPerform
  split
  · exact keeps_guestPerform h
  · exact keeps_guestPerform h
  · exact keeps_corePerform h

theorem keeps_sbiReturn {h' err val : Nat} (h : Keeps r s) : Keeps r (sbiReturn s h' err val) := keeps_modHart h

theorem keeps_sbiPerform {h' f ext fn : Nat} {args : List Nat} (h :
    Keeps r s) : Keeps r (sbiPerform s h' f ext fn args) :=
  .ite (.ite (keeps_sbiReturn h) (.ite (keeps_sbiReturn h) (keeps_sbiReturn h))) (.ite (keeps_sbiReturn
    (keeps_modHart h)) (.ite (.ite (keeps_sbiReturn h) (keeps_sbiReturn h)) (.ite (.ite (keeps_modHart
      (keeps_sbiReturn h)) (.ite (keeps_modHart h) (keeps_sbiReturn h))) (.ite (keeps_sbiReturn (.ite
        (keeps_modHart h) h)) (.ite (keeps_sbiReturn (keeps_drawn h)) (keeps_sbiReturn h))))))

theorem keeps_wrsPerform {h' : Nat} (h : Keeps r s) : Keeps r (wrsPerform s h') := keeps_modHart h

theorem keeps_sretPerform {h' : Nat} (h : Keeps r s) : Keeps r (sretPerform s h') :=
  .ite (keeps_coreIllegal h) (.ite (keeps_coreTrap h) (keeps_modHart h))

theorem keeps_execCoreAccess {hart va : Nat} {acc : CoreAcc} (h :
    Keeps r s) : Answers r (execCoreAccess hart va acc s) := by
  unfold execCoreAccess
  split
  · exact h.next
  · split
    · exact .ite ((keeps_corePerform h).next) ((keeps_coreIllegal h).next)
    · exact (keeps_csrPerform h).next
    · exact (keeps_wrsPerform h).next
    · exact h.next
    · exact (keeps_sretPerform h).next
    · split
      · exact (Keeps.ite (keeps_coreIllegal h) (keeps_coreTrap h)).next
      · exact (keeps_accessPerform h).next
    · split
      · exact (Keeps.ite (keeps_coreIllegal h) (keeps_coreTrap h)).next
      · exact (keeps_accessPerform h).next
    · exact (keeps_vsetPerform h).next
    · exact (keeps_modHart h).next
    · exact (keeps_sbiPerform h).next
    · exact h.next
    · split
      · exact (Keeps.ite (keeps_coreIllegal h) (keeps_coreTrap h)).next
      · exact (keeps_corePerform h).next

theorem keeps_zlinePerform {h' f va : Nat} (h : Keeps r s) : Keeps r (zlinePerform s h' f va) := by
  unfold zlinePerform
  dsimp only
  split
  · exact keeps_coreTrap h
  · split
    · exact keeps_stallHart (keeps_coreBoth h)
    · exact keeps_coreFault (keeps_coreBoth h)
    · exact keeps_coreTrap (keeps_coreBoth h)
    · exact keeps_coreWritePas (keeps_coreBoth h)

theorem keeps_execZlineL3 {hart va : Nat} (h : Keeps r s) : Answers r (execZlineL3 hart va s) := by
  unfold execZlineL3
  split
  · exact h.next
  · exact (keeps_zlinePerform h).next

theorem keeps_unlockWay {g way : Nat} (h : Keeps r s) : Keeps r (unlockWay s g way) := h.upd

theorem keeps_moveToWay {agent ln way : Nat} (h : Keeps r s) : Keeps r (moveToWay s agent ln way) := by
  unfold moveToWay
  dsimp only
  split
  · exact h
  · split
    · exact h
    · split
      · exact keeps_setLine (keeps_evictLine h)
      · exact keeps_setLine h

theorem keeps_preload {hart f way va : Nat} {lines : List Nat} (h : Keeps r s) :
    Keeps r (preload hart f way va lines s).1 := by
  induction lines generalizing s with
  | nil => exact h
  | cons a rest ih =>
    have k := keeps_coreBoth (h' := hart) (f := f) (kind := 0) (fault := 0) (va := a) (n := 128) h
    unfold preload
    dsimp only
    split
    · split
      · exact keeps_cacheRead k
      · exact ih (keeps_moveToWay (keeps_cacheRead k))
    · exact k

theorem keeps_cwlPerform {h' f va len rd : Nat} (h : Keeps r s) : Keeps r (cwlPerform s h' f va len rd) := by
  unfold cwlPerform
  dsimp only
  split
  · exact keeps_modHart h
  · split
    · exact keeps_modHart (keeps_preload ((keeps_drawn h).upd))
    · exact keeps_stallHart (keeps_unlockWay (keeps_preload ((keeps_drawn h).upd)))
    · exact keeps_coreFault (keeps_unlockWay (keeps_preload ((keeps_drawn h).upd)))
    · exact keeps_coreTrap (keeps_unlockWay (keeps_preload ((keeps_drawn h).upd)))

theorem keeps_execCwlLock {hart va len rd : Nat} (h : Keeps r s) : Answers r (execCwlLock hart va len rd s) := by
  unfold execCwlLock
  split
  · exact h.next
  · exact .ite ((keeps_cwlPerform h).next) ((keeps_coreIllegal h).next)

theorem keeps_execCwlUnlock {hart way : Nat} (h : Keeps r s) : Answers r (execCwlUnlock hart way s) := by
  unfold execCwlUnlock
  split
  · exact h.next
  · exact .ite ((keeps_unlockWay h).next) ((keeps_coreIllegal h).next)

theorem keeps_ncvtPerform {h' w : Nat} (h : Keeps r s) : Keeps r (ncvtPerform s h' w) := keeps_modHart h.upd

theorem keeps_execNcvt {hart word : Nat} (h : Keeps r s) : Answers r (execNcvt hart word s) := by
  unfold execNcvt
  split
  · exact h.next
  · exact .ite ((keeps_coreIllegal h).next) ((keeps_ncvtPerform h).next)

theorem keeps_nscalePerform {h' w : Nat} (h : Keeps r s) : Keeps r (nscalePerform s h' w) := keeps_modHart h

theorem keeps_execNscale {hart word : Nat} (h : Keeps r s) : Answers r (execNscale hart word s) := by
  unfold execNscale
  split
  · exact h.next
  · exact .ite ((keeps_coreIllegal h).next) ((keeps_nscalePerform h).next)

theorem keeps_execSbiIpi {hart : Nat} {targets : List Nat} (h :
    Keeps r s) : Answers r (execSbiIpi hart targets s) := by
  unfold execSbiIpi
  split
  · exact h.next
  · exact .ite ((keeps_sbiReturn (h.foldl fun _ _ h => keeps_signalHart h)).next) ((keeps_sbiReturn h).next)

theorem keeps_execSbiRfence {hart : Nat} {targets : List Nat} (h :
    Keeps r s) : Answers r (execSbiRfence hart targets s) := by
  unfold execSbiRfence
  split
  · exact h.next
  · exact (keeps_sbiReturn h).next

theorem keeps_execSbiHsm {hart target : Nat} {start : Bool} {entry arg : Nat} (h : Keeps r s) :
    Answers r (execSbiHsm hart target start entry arg s) := by
  unfold execSbiHsm
  split
  · exact h.next
  · exact .ite (.ite ((keeps_modHart h).next) ((keeps_sbiReturn h).next)) (.ite ((keeps_sbiReturn h).next) (.ite
      ((keeps_sbiReturn h).next) ((keeps_sbiReturn (keeps_modHart h)).next)))

theorem keeps_haltGroup {g : Nat} (h : Keeps r s) : Keeps r (haltGroup s g) := h.foldl fun _ _ h => keeps_modHart h

theorem keeps_execSbiSrst {hart : Nat} (h : Keeps r s) : Answers r (execSbiSrst hart s) := by
  unfold execSbiSrst
  split
  · exact h.next
  · split
    · exact h.next
    · exact (h.foldl fun _ _ h => keeps_haltGroup h).next

theorem keeps_entropy32 (h : Keeps r s) : Keeps r (entropy32 s).1 := keeps_drawn h

theorem keeps_entropyPerform {h' f va : Nat} (h : Keeps r s) : Keeps r (entropyPerform s h' f va) := by
  unfold entropyPerform
  dsimp only
  split
  · exact keeps_stallHart (keeps_coreBoth h)
  · exact keeps_coreFault (keeps_coreBoth h)
  · exact keeps_coreTrap (keeps_coreBoth h)
  · exact keeps_sbiReturn (keeps_coreWritePas (keeps_entropy32 (keeps_coreBoth h)))

theorem keeps_execSbiEntropy {hart va : Nat} (h : Keeps r s) : Answers r (execSbiEntropy hart va s) := by
  unfold execSbiEntropy
  split
  · exact h.next
  · exact (keeps_entropyPerform h).next

theorem keeps_resumeHart {h' : Nat} (h : Keeps r s) : Keeps r (resumeHart s h') := by
  unfold resumeHart
  dsimp only
  split
  · exact keeps_accessPerform (keeps_modHart h)
  · exact keeps_zlinePerform (keeps_modHart h)
  · exact keeps_cwlPerform (keeps_modHart h)
  · exact keeps_entropyPerform (keeps_modHart h)
  · exact keeps_modHart h

/-! ### MemRows -/

theorem keeps_addErrors {pa : Nat} {errs : List (Nat × Byte)} (h : Keeps r s) : Keeps r (addErrors s pa errs) :=
  .ite h (.ite h.upd h.upd)

theorem keeps_beginRecovery {r' : MemReq} {lane : Nat} (h : Keeps r s) : Keeps r (beginRecovery s r' lane) :=
  keeps_modPch h

theorem keeps_execMemoryRead {pa : Nat} {priority : Bool} {errs : List (Nat × Byte)} (h : Keeps r s) :
    Answers r (execMemoryRead pa priority errs s) := by
  unfold execMemoryRead
  dsimp only
  split
  · exact h.next
  · split
    · exact (keeps_memRecord h).next
    · split
      · exact (keeps_enqueue (keeps_addErrors h)).next
      · split
        · exact (keeps_beginRecovery (keeps_addErrors h)).next
        · exact (keeps_readDecode (keeps_memSlot (keeps_addErrors h))).next

theorem keeps_execMemoryWrite {pa mask : Nat} {data : List Byte} (h : Keeps r s) :
    Answers r (execMemoryWrite pa mask data s) := by
  unfold execMemoryWrite
  dsimp only
  split
  · exact h.next
  · split
    · exact (keeps_homeWrite h).next
    · split
      · exact (keeps_enqueue h).next
      · split
        · exact (Keeps.ite (keeps_sectorWrite h) (keeps_beginRecovery h)).next
        · exact (keeps_sectorWrite h).next

theorem keeps_execWriteCrcError {stack pch lane pa : Nat} (h : Keeps r s) :
    Answers r (execWriteCrcError stack pch lane pa s) := by
  unfold execWriteCrcError
  dsimp only
  split
  · exact h.next
  · split
    · exact .ite ((keeps_modPch (keeps_writeWhole (keeps_modPch h))).next) ((keeps_writeWhole (keeps_modPch h)).next)
    · exact .ite ((keeps_modPch (keeps_modPch h)).next) ((keeps_modPch h).next)

theorem keeps_execByteLaneLoss {stack pch lane : Nat} (h :
    Keeps r s) : Answers r (execByteLaneLoss stack pch lane s) :=
  .ite h.next ((keeps_laneMove (keeps_modPch (keeps_heldPa h))).next)

theorem keeps_lanesPass {k p : Nat} (h : Keeps r s) : Keeps r (lanesPass s k p) := by
  unfold lanesPass
  split
  · exact keeps_goOn (keeps_readFails h)
  · exact keeps_goOn h

theorem keeps_execByteLaneRecovered {stack pch : Nat} (h :
    Keeps r s) : Answers r (execByteLaneRecovered stack pch s) := by
  unfold execByteLaneRecovered
  dsimp only
  split
  · exact h.next
  · split
    · exact h.next
    · exact (Keeps.ite (.ite (keeps_endRecovery h) (keeps_lanesPass h)) (keeps_serveQueue (.ite (keeps_endRecovery h)
        (keeps_lanesPass h)))).next

theorem keeps_execRefresh {stack pch bank : Nat} (h : Keeps r s) : Answers r (execRefresh stack pch bank s) :=
  .ite ((keeps_modPch h).next) h.next

theorem keeps_execReadRetrain {_stack _pch : Nat} (h :
    Keeps r s) : Answers r (execReadRetrain _stack _pch s) :=
  h.next

theorem keeps_execPatrolScrub {stack : Nat} (h : Keeps r s) : Answers r (execPatrolScrub stack s) :=
  .ite h.next ((keeps_modStack (keeps_homeRead h)).next)

theorem keeps_execInnerCorrPoll {stack count : Nat} (h : Keeps r s) : Answers r (execInnerCorrPoll stack count s) :=
  .ite h.next ((keeps_countFor (keeps_modStack h)).next)

theorem keeps_execSelfRefreshEntry {stack : Nat} (h : Keeps r s) : Answers r (execSelfRefreshEntry stack s) :=
  .ite ((keeps_modStack h).next) h.next

theorem keeps_execSelfRefreshExit {stack : Nat} (h : Keeps r s) : Answers r (execSelfRefreshExit stack s) :=
  (Keeps.ite (keeps_wakeStack h) h).next

theorem keeps_setJtag {f : Jtag → Jtag} (h : Keeps r s) : Keeps r (setJtag s f) := h.upd

theorem keeps_jtagRefused (h : Keeps r s) : Keeps r (jtagRefused s) := keeps_setJtag h

theorem keeps_jtagDone (h : Keeps r s) : Keeps r (jtagDone s) := keeps_setJtag h

theorem keeps_testEntry {step : Nat} (h : Keeps r s) : Keeps r (testEntry s step) :=
  keeps_journalWrite (keeps_openDigest h)

theorem keeps_forgetStack {stack : Nat} (h : Keeps r s) : Keeps r (forgetStack s stack) := keeps_modStack h.upd

theorem keeps_drainStack {stack : Nat} (h : Keeps r s) : Keeps r (drainStack s stack) :=
  ((keeps_wakeStack h).foldl fun _ _ h => keeps_recoverLane h).foldl fun _ _ h => keeps_serveFree h

theorem keeps_execStackQuiesce {stack : Nat} (h : Keeps r s) : Answers r (execStackQuiesce stack s) :=
  .ite ((Keeps.ite (keeps_jtagDone (keeps_forgetStack (keeps_drainStack h))) (keeps_drainStack h)).next)
    ((keeps_jtagRefused h).next)

theorem keeps_execRepairStatusRead {stack : Nat} (h : Keeps r s) : Answers r (execRepairStatusRead stack s) :=
  .ite (.ite ((keeps_holdRow h).next) ((keeps_jtagDone (keeps_testEntry (keeps_setJtag h))).next))
    ((keeps_jtagRefused h).next)

theorem keeps_execRowRepair {stack : Nat} {row : RowId} {hard : Bool} (h : Keeps r s) :
    Answers r (execRowRepair stack row hard s) :=
  .ite (.ite ((keeps_holdRow h).next) ((keeps_jtagDone (keeps_modStack (keeps_testEntry h))).next))
    ((keeps_jtagRefused h).next)

theorem keeps_execPatternTest {stack : Nat} {row : RowId} {fails : Bool} (h : Keeps r s) :
    Answers r (execPatternTest stack row fails s) :=
  .ite (.ite ((keeps_holdRow h).next) ((keeps_jtagDone (keeps_modStack (keeps_setJtag (keeps_testEntry h)))).next))
    ((keeps_jtagRefused h).next)

theorem keeps_zeroStack {stack keys : Nat} (h : Keeps r s) : Keeps r (zeroStack s stack keys) :=
  keeps_modStack (h.upd (wf_filter _ _))

theorem keeps_execStackRelease {stack : Nat} (h : Keeps r s) : Answers r (execStackRelease stack s) :=
  .ite (.ite ((keeps_holdRow h).next) ((keeps_jtagDone (keeps_modStack (keeps_zeroStack (keeps_testEntry h)))).next))
    ((keeps_jtagRefused h).next)

theorem keeps_execTestUnlock {token : List Byte} (h : Keeps r s) : Answers r (execTestUnlock token s) :=
  .ite (.ite ((keeps_holdRow h).next) ((keeps_jtagDone ((keeps_testEntry h).upd)).next)) ((keeps_jtagRefused h).next)

theorem keeps_capturePins (h : Keeps r s) : Keeps r (capturePins s) := keeps_setJtag h

theorem keeps_execJtagInstruction {op : JtagOp} (h : Keeps r s) : Answers r (execJtagInstruction op s) := by
  unfold execJtagInstruction
  split
  · exact (keeps_jtagDone (keeps_setJtag h)).next
  · exact (keeps_jtagDone (keeps_setJtag h)).next
  · exact (keeps_jtagDone (keeps_setJtag (keeps_capturePins h))).next
  · exact (keeps_jtagDone (keeps_capturePins (keeps_setJtag h))).next
  · exact .ite ((keeps_jtagDone (keeps_setJtag h)).next) ((keeps_jtagRefused h).next)

/-! ### PassStart -/

theorem keeps_stagePass {fid seq : Nat} {bs : List OutBinding} (h : Keeps r s) : Keeps r (stagePass s fid seq bs) :=
  keeps_modRanges h

theorem keeps_execPassLaunch {mb : MboxId} {slot : Nat} (h : Keeps r s) : Answers r (execPassLaunch mb slot s) := by
  unfold execPassLaunch
  split
  · refine .ite (keeps_reject h).next ?_
    split
    · split
      · exact h.next
      · refine Keeps.next (Keeps.foldl (keeps_runOn (keeps_stagePass (keeps_clearL1s (keeps_modForme ?_))))
          fun _ _ h => keeps_wakePlaten h)
        exact h.upd
    · exact (keeps_reject h).next
    · exact h.next
  · exact h.next

/-! ### Ranges -/

theorem keeps_addEntry {f : Nat} {e : RangeEntry} (h : Keeps r s) : Keeps r (addEntry s f e) := keeps_modRanges h

theorem keeps_freeEntries {f : Nat} {ids : List Nat} (h :
    Keeps r s) : Keeps r (freeEntries s f ids) :=
  keeps_modRanges h

theorem keeps_execMapRange {mb : MboxId} {slot : Nat} (h : Keeps r s) : Answers r (execMapRange mb slot s) := by
  unfold execMapRange
  dsimp only
  split
  · split
    · exact h.next
    · exact .ite h.next ((keeps_checked h (keeps_finish (keeps_resolveCovered (keeps_addEntry
        (keeps_journalWrite h))))).next)
  · exact h.next

theorem keeps_execUnmapRange {mb : MboxId} {slot : Nat} (h : Keeps r s) : Answers r (execUnmapRange mb slot s) := by
  unfold execUnmapRange
  dsimp only
  split
  · split
    · exact h.next
    · split
      · exact h.next
      · split
        · exact (keeps_checked h h).next
        · exact (keeps_checked h (keeps_startInval (keeps_runOn (keeps_journalWrite h)))).next
  · exact h.next

theorem keeps_execRangeWalk {forme : Nat} {eng : Engine} {va : Nat} (h : Keeps r s) :
    Answers r (execRangeWalk forme eng va s) := by
  unfold execRangeWalk
  dsimp only
  split
  · exact h.next
  · split
    · exact h.next
    · split
      · exact (keeps_walkRead h).next
      · exact .ite ((keeps_fillCached (keeps_walkRead h)).next) ((keeps_walkRead h).next)

theorem keeps_execRangeInvalidation {inv die : Nat} (h :
    Keeps r s) : Answers r (execRangeInvalidation inv die s) := by
  unfold execRangeInvalidation
  split
  · exact h.next
  · exact .ite ((keeps_modInval (keeps_dropCached h)).next) h.next

theorem keeps_execEngineDrainDone {inv die drained : Nat} (h : Keeps r s) :
    Answers r (execEngineDrainDone inv die drained s) := by
  unfold execEngineDrainDone
  dsimp only
  split
  · exact h.next
  · exact .ite ((keeps_modInval h).next) h.next

/-! ### Plates -/

theorem keeps_afterWake {mb : MboxId} {k : Nat} {ps : List Nat} {go : State} (h : Keeps r s) (hgo : Keeps r go) :
    Keeps r (afterWake s mb k ps go) := by
  unfold afterWake
  split
  · exact hgo
  · exact (keeps_modSlot h).foldl fun _ _ h => keeps_wakePlaten h

theorem keeps_emptyWays {platen : Nat} {ways : List Nat} (h : Keeps r s) : Keeps r (emptyWays s platen ways) :=
  h.foldl fun _ _ h => keeps_settle (keeps_evictLine h)

theorem keeps_lockLine {platen : Nat} {l : Nat × Nat} (h :
    Keeps r s) : Keeps r (lockLine platen s l) :=
  keeps_request h

theorem keeps_fillRegion {r' : Region} (h : Keeps r s) : Keeps r (fillRegion s r') :=
  (keeps_emptyWays h).foldl fun _ _ h => keeps_lockLine h

theorem keeps_releaseRegion {r' : Region} (h : Keeps r s) : Keeps r (releaseRegion s r') :=
  h.foldl fun _ _ h => keeps_dropLine h

theorem keeps_readImage {f c : Nat} (h : Keeps r s) : Keeps r (readImage s f c).1 := keeps_peekVa h

theorem keeps_rejectImage {mb : MboxId} {k st off : Nat} (h : Keeps r s) : Keeps r (rejectImage s mb k st off) :=
  keeps_finish h

theorem keeps_createEntry {fid : Nat} {x : PlateExt} (h : Keeps r s) : Keeps r (createEntry fid s x) := by
  unfold createEntry
  dsimp only
  split
  · exact h
  · split
    · exact h
    · exact keeps_addEntry h

theorem keeps_endLoad {fid : Nat} {mb : MboxId} {k : Nat} (h : Keeps r s) : Keeps r (endLoad s fid mb k) := by
  unfold endLoad
  dsimp only
  split
  · exact keeps_finish (keeps_modForme (h.foldl fun _ _ h => keeps_resolveCovered h))
  · exact keeps_finish (keeps_modForme h)

theorem keeps_installPlate {fid : Nat} {p : Plate} {mb : MboxId} {k : Nat} (h : Keeps r s) :
    Keeps r (installPlate s fid p mb k) :=
  .ite (keeps_endLoad (keeps_modForme (h.foldl fun _ _ h => keeps_createEntry h))) (keeps_startInval (keeps_modForme
    (h.foldl fun _ _ h => keeps_createEntry h)))

theorem keeps_discardPlate {fid : Nat} (h : Keeps r s) : Keeps r (discardPlate s fid) := keeps_modForme h

theorem keeps_loadStep {fid : Nat} {mb : MboxId} {k : Nat} (h : Keeps r s) : Keeps r (loadStep s fid mb k) := by
  unfold loadStep
  split
  · exact h
  · split
    · exact h
    · exact keeps_installPlate h
    · exact .ite (keeps_startInval h) (.ite (keeps_startInval h) (keeps_installPlate (keeps_discardPlate h)))

theorem keeps_acceptPlate {fid : Nat} {f : Forme} {img : List Byte} {mb : MboxId} {k : Nat} (h : Keeps r s) :
    Keeps r (acceptPlate s fid f img mb k) :=
  keeps_afterWake h (keeps_loadStep (keeps_runOn (keeps_modForme (keeps_journalWrite h))))

theorem keeps_execPlateLoad {mb : MboxId} {slot : Nat} (h : Keeps r s) : Answers r (execPlateLoad mb slot s) := by
  unfold execPlateLoad
  dsimp only
  split
  · split
    · exact (keeps_reject h).next
    · split
      · exact (keeps_rejectImage (keeps_readImage h)).next
      · split
        · exact h.next
        · split
          · exact (keeps_rejectImage (keeps_drawn (keeps_readImage h))).next
          · split
            · exact (keeps_reject (keeps_readImage h)).next
            · split
              · exact (keeps_rejectImage (keeps_readImage h)).next
              · exact .ite ((keeps_reject (keeps_readImage h)).next) (.ite h.next ((keeps_acceptPlate
                  (keeps_readImage h)).next))
  · exact h.next

theorem keeps_execPlateSeal {mb : MboxId} {slot : Nat} (h : Keeps r s) : Answers r (execPlateSeal mb slot s) := by
  unfold execPlateSeal
  dsimp only
  split
  · split
    · exact (keeps_reject h).next
    · split
      · exact .ite h.next ((keeps_checked h (keeps_finish (keeps_modForme (keeps_journalWrite h)))).next)
      · exact .ite h.next ((keeps_checked (keeps_peekVa h) (keeps_finish (keeps_modForme (keeps_journalWrite
          (keeps_peekVa h))))).next)
  · exact h.next

theorem keeps_shutHistory {fid layer i w : Nat} (h : Keeps r s) : Keeps r (shutHistory s fid layer i w) :=
  .ite (keeps_modForme h) h

theorem keeps_execSetPolicy {mb : MboxId} {slot : Nat} (h : Keeps r s) : Answers r (execSetPolicy mb slot s) := by
  unfold execSetPolicy
  dsimp only
  split
  · split
    · exact (keeps_reject h).next
    · exact .ite h.next ((keeps_checked h (keeps_finish (keeps_shutHistory (keeps_modLayer
        (keeps_journalWrite h))))).next)
  · exact h.next

/-! ### GutterRows -/

theorem keeps_gutterRetire {link group : Nat} (h : Keeps r s) : Keeps r (gutterRetire s link group) := keeps_retire h

theorem keeps_execGutterLaneFail {link dir group : Nat} (h : Keeps r s) :
    Answers r (execGutterLaneFail link dir group s) :=
  .ite h.next (.ite h.upd.next (.ite ((keeps_gutterRetire h.upd).next) h.upd.next))

theorem keeps_laneSwapped {key : Nat} (h : Keeps r s) : Keeps r (laneSwapped s key) :=
  (keeps_journalWrite (keeps_drawn (keeps_drawn h))).upd

theorem keeps_execLaneSwapDone {link dir group : Nat} (h :
    Keeps r s) : Answers r (execLaneSwapDone link dir group s) :=
  .ite ((Keeps.ite (keeps_holdRow h) (keeps_laneSwapped h)).next) h.next

theorem keeps_trainLanes (h : Keeps r s) : Keeps r (trainLanes s) := by
  unfold trainLanes
  split
  · exact keeps_retire h
  · exact h.foldl fun _ _ h => keeps_laneSwapped h

theorem keeps_execGutterLinkLoss {link : Nat} (h : Keeps r s) : Answers r (execGutterLinkLoss link s) :=
  .ite h.next (.ite ((keeps_retire h).next) ((keeps_gutterRetire h).next))

/-! ### Reports -/

theorem keeps_hostOutput {p bus : Nat} {data : List Byte} (h : Keeps r s) : Keeps r (hostOutput s p bus data) :=
  keeps_modPort h

theorem keeps_outPages {a : Access} {w : Waiter} {via : Via} {pages : List (Nat × Nat)} {data : List Byte} {n : Nat}
    (h : Keeps r s) : Keeps r (outPages a w via pages data n s).1 := by
  induction pages generalizing s data n with
  | nil => exact h
  | cons x rest ih =>
    unfold outPages
    dsimp only
    split
    · exact ih (keeps_writePieces (keeps_reach h))
    · exact keeps_reach h

theorem keeps_output {mb : MboxId} {k : Nat} {d : OutDesc} {data : List Byte} {go : State → Nat → Nat → State}
    (h : Keeps r s) (hgo : ∀ s n st, Keeps r s → Keeps r (go s n st)) : Keeps r (output s mb k d data go) := by
  unfold output
  refine .ite (.ite h (hgo _ _ _ (keeps_hostOutput h))) ?_
  split
  · exact h
  · dsimp only
    split
    · exact keeps_outPages h
    · exact hgo _ _ _ (keeps_outPages h)
    · exact hgo _ _ _ (keeps_outPages h)

theorem keeps_markExported {o : JOrigin} {es : List JEntry} {start : Nat} (h : Keeps r s) :
    Keeps r (markExported s o es start) := by
  unfold markExported
  dsimp only
  split
  · exact (keeps_journalWrite h).upd
  · exact keeps_journalWrite h

theorem keeps_reported {mb : MboxId} {k n st : Nat} (h : Keeps r s) : Keeps r (reported mb k s n st) :=
  keeps_finish (.ite (keeps_markExported h) h)

theorem keeps_report {mb : MboxId} {k : Nat} {d : OutDesc} {data : List Byte} (h : Keeps r s) :
    Keeps r (report s mb k d data) := .ite (keeps_finish h) (keeps_output h (fun _ _ _ h => keeps_reported h))

theorem keeps_denyReport {mb : MboxId} {k va : Nat} (h :
    Keeps r s) : Keeps r (denyReport s mb k va) :=
  keeps_reported h

theorem keeps_identifyPort {a : MboxId} (h : Keeps r s) : Keeps r (identifyPort s a).1 := by
  unfold identifyPort
  split
  · exact h
  · exact keeps_drawn h

theorem keeps_execIdentify {mb : MboxId} {slot : Nat} (h : Keeps r s) : Answers r (execIdentify mb slot s) := by
  unfold execIdentify
  dsimp only
  split
  · exact h.next
  · exact (keeps_checked h (keeps_finish (keeps_identifyPort h))).next

theorem keeps_quote {mb : MboxId} {nonce : Nat} (h : Keeps r s) : Keeps r (quote s mb nonce).1 := keeps_drawn h

theorem keeps_execAttest {mb : MboxId} {slot : Nat} (h : Keeps r s) : Answers r (execAttest mb slot s) := by
  unfold execAttest
  dsimp only
  split
  · exact h.next
  · exact (keeps_checked h (keeps_report (keeps_quote h))).next

theorem keeps_passStatusEmpty {mb : MboxId} {k : Nat} {q : Option Pass} (h : Keeps r s) :
    Keeps r (passStatusEmpty s mb k q) := keeps_finish h

theorem keeps_execPassStatus {mb : MboxId} {slot : Nat} (h : Keeps r s) : Answers r (execPassStatus mb slot s) := by
  unfold execPassStatus
  dsimp only
  split
  · exact h.next
  · split
    · exact (keeps_passStatusEmpty h).next
    · split
      · exact (keeps_checked h (keeps_report h)).next
      · exact (keeps_checked h h).next

theorem keeps_countAllWaits {fid : Nat} (h : Keeps r s) : Keeps r (countAllWaits s fid) :=
  h.foldl fun _ _ h => h.foldl fun _ _ h => .ite (keeps_countWaits h) h

theorem keeps_execTelemetry {mb : MboxId} {slot : Nat} (h : Keeps r s) : Answers r (execTelemetry mb slot s) := by
  unfold execTelemetry
  dsimp only
  split
  · split
    · exact (keeps_checked h (keeps_report (keeps_drawn (keeps_countAllWaits h)))).next
    · exact (keeps_checked h (keeps_countAllWaits h)).next
  · exact h.next

theorem keeps_execJournalRead {mb : MboxId} {slot : Nat} (h : Keeps r s) : Answers r (execJournalRead mb slot s) := by
  unfold execJournalRead
  dsimp only
  split
  · exact h.next
  · exact .ite h.next ((keeps_checked h (keeps_report h)).next)

theorem keeps_execJournalExport {mb : MboxId} {slot : Nat} (h :
    Keeps r s) : Answers r (execJournalExport mb slot s) := by
  unfold execJournalExport
  split
  · exact h.next
  · exact .ite h.next ((keeps_checked h (keeps_report h)).next)

theorem keeps_execRecoveryRead {mb : MboxId} {slot : Nat} (h :
    Keeps r s) : Answers r (execRecoveryRead mb slot s) := by
  unfold execRecoveryRead
  dsimp only
  split
  · exact .ite ((keeps_checked h (keeps_finish (keeps_modPort h))).next) ((keeps_checked h (keeps_finish h)).next)
  · exact h.next

/-! ### Release -/

theorem keeps_proceed {f : Nat} {w : Waiter} (h : Keeps r s) : Keeps r (proceed s f w) := by
  unfold proceed
  split
  · exact .ite h (keeps_modSlug h)
  · exact .ite h (keeps_modOp h)
  · exact h
  · exact keeps_resumeHart h
  · exact keeps_drainAfter (keeps_inboundNow h)

theorem keeps_denyCopy {mb : MboxId} {k va : Nat} (h : Keeps r s) : Keeps r (denyCopy s mb k va) :=
  .ite (keeps_meshCopySettle (keeps_pend h)) (.ite (keeps_endsAt h) (keeps_denyReport h))

theorem keeps_denyOp {r' : OpRef} {va : Nat} (h : Keeps r s) : Keeps r (denyOp s r' va) := by
  unfold denyOp
  split
  · exact keeps_opFault h
  · exact h

theorem keeps_denyWaiter {w : Waiter} {va : Nat} {reason : Reason} (h :
    Keeps r s) : Keeps r (denyWaiter s w va reason) := by
  unfold denyWaiter
  dsimp only
  split
  · split
    · exact keeps_slugFault h
    · exact h
  · exact keeps_denyOp h
  · exact keeps_denyCopy h
  · exact keeps_coreFault (keeps_modHart h)
  · exact keeps_drainAfter (keeps_denyInbound h)

theorem keeps_evaluate {f : Nat} {t : Fate} {w : Waiter × Engine × Nat × Nat} (h :
    Keeps r s) : Keeps r (evaluate f s t w).1 := by
  unfold evaluate
  dsimp only
  split
  · exact h
  · split
    · exact keeps_proceed (keeps_translate h)
    · split
      · exact keeps_raiseFault (keeps_translate h)
      · exact keeps_denyWaiter (keeps_raiseFault (keeps_translate h))

theorem keeps_evaluateAll {f : Nat} {ws : List (Waiter × Engine × Nat × Nat)} (h : Keeps r s) :
    Keeps r (evaluateAll f s ws).1 := Keeps.foldlFst (x := (s, _)) h fun _ _ h => keeps_evaluate h

theorem keeps_execFaultReevaluate {forme faultId : Nat} (h : Keeps r s) :
    Answers r (execFaultReevaluate forme faultId s) := by
  unfold execFaultReevaluate
  dsimp only
  split
  · exact h.next
  · exact .ite ((keeps_setFaultState (keeps_evaluateAll (keeps_setFaultState h))).next) h.next

theorem keeps_execFaultHoldExpiry {forme faultId : Nat} (h : Keeps r s) :
    Answers r (execFaultHoldExpiry forme faultId s) := by
  unfold execFaultHoldExpiry
  dsimp only
  split
  · exact h.next
  · exact .ite (((keeps_setFaultState h).foldl fun _ _ h => .ite h (keeps_denyWaiter h)).next) h.next

/-! ### FormesCmd -/

theorem keeps_zeroStacks {platens : List Nat} {keys : Nat} (h : Keeps r s) : Keeps r (zeroStacks s platens keys) :=
  h.upd (wf_filter _ _)

theorem keeps_attachPort {fid c k : Nat} (h : Keeps r s) : Keeps r (attachPort fid c s k) := keeps_modPort h

theorem keeps_freshGroup {g : Nat} (h : Keeps r s) : Keeps r (freshGroup s g) := h.foldl fun _ _ h => h.upd

theorem keeps_createForme {c : Nat} (h : Keeps r s) : Keeps r (createForme s c) :=
  ((((keeps_zeroStacks h.upd).foldl fun _ _ h => keeps_setPower h).upd).foldl fun _ _ h => keeps_attachPort h).foldl
    fun _ _ h => keeps_freshGroup h

theorem keeps_execFormeCreate {mb : MboxId} {slot : Nat} (h : Keeps r s) : Answers r (execFormeCreate mb slot s) := by
  unfold execFormeCreate
  dsimp only
  split
  · exact h.next
  · exact .ite h.next ((keeps_checked h (.ite (keeps_finish (keeps_createForme ((keeps_journalWrite h).foldl
      fun _ _ h => keeps_drainStack (keeps_drainStack h)))) ((keeps_journalWrite h).foldl
        fun _ _ h => keeps_drainStack (keeps_drainStack h)))).next)

theorem keeps_abortPass {q : Pass} (h : Keeps r s) : Keeps r (abortPass s q) :=
  .ite (keeps_endPass (keeps_clearProof (keeps_stopSticks h))) h

theorem keeps_abortMove {fid : Nat} {mb : MboxId} {k : Nat} (h : Keeps r s) : Keeps r (abortMove s fid mb k) := by
  unfold abortMove
  dsimp only
  split
  · exact keeps_finish h
  · split
    · exact keeps_finish h
    · exact keeps_finish (keeps_tornOffset h)
    · exact keeps_carryAll (keeps_pend h)
    · exact keeps_meshCopySettle (keeps_pend h)

theorem keeps_orphan {mb : MboxId} {k : Nat} (h :
    Keeps r s) : Keeps r (orphan s mb k) :=
  keeps_finish (keeps_modForme h)

theorem keeps_abortSlot {fid : Nat} {x : MboxId × Nat} (h : Keeps r s) : Keeps r (abortSlot fid s x) := by
  unfold abortSlot
  dsimp only
  split
  · exact h
  · split
    · exact keeps_abortMove h
    · split
      · split
        · exact keeps_abortPass h
        · exact keeps_finish h
      · exact .ite (keeps_orphan h) (keeps_finish h)

theorem keeps_abortForme {fid : Nat} {self : MboxId × Nat} (h : Keeps r s) : Keeps r (abortForme s fid self) := by
  unfold abortForme
  dsimp only
  split
  · exact h.foldl fun _ _ h => keeps_abortSlot h
  · exact (h.foldl fun _ _ h => keeps_abortSlot h).foldl fun _ _ h => keeps_abortPass h

theorem keeps_stopGroups {gs : List Nat} (h : Keeps r s) : Keeps r (stopGroups s gs) :=
  (h.foldl fun _ _ h => keeps_haltGroup h).upd

theorem keeps_closeJobs {fid : Nat} (h : Keeps r s) : Keeps r (closeJobs s fid) :=
  h.upd.foldl fun _ _ h => keeps_rejectPacket h

theorem keeps_releaseJobs {fid : Nat} (h : Keeps r s) : Keeps r (releaseJobs s fid) := h.upd

theorem keeps_dropJobs {fid : Nat} (h : Keeps r s) : Keeps r (dropJobs s fid) := h.upd

theorem keeps_denyRecord {fid : Nat} {r' : FaultRec} (h : Keeps r s) : Keeps r (denyRecord fid s r') :=
  .ite ((keeps_setFaultState h).foldl fun _ _ h => .ite h (keeps_denyWaiter h)) h

theorem keeps_denyRecords {fid : Nat} (h : Keeps r s) : Keeps r (denyRecords s fid) := by
  unfold denyRecords
  split
  · exact h
  · exact h.foldl fun _ _ h => keeps_denyRecord h

theorem keeps_journalReset {mb : MboxId} {k c : Nat} (h : Keeps r s) : Keeps r (journalReset s mb k c) :=
  keeps_journalWrite (keeps_openDigest h)

theorem keeps_execPassAbort {mb : MboxId} {slot : Nat} (h : Keeps r s) : Answers r (execPassAbort mb slot s) := by
  unfold execPassAbort
  dsimp only
  split
  · exact h.next
  · split
    · exact h.next
    · split
      · exact h.next
      · split
        · exact (keeps_checked h (keeps_finish (keeps_abortPass (keeps_journalReset h)))).next
        · exact (keeps_checked h (keeps_finish (keeps_journalReset h))).next

theorem keeps_resetStops {fid : Nat} (h : Keeps r s) : Keeps r (resetStops s fid) := by
  unfold resetStops
  split
  · exact h
  · exact keeps_closeJobs (keeps_stopGroups h)

theorem keeps_resetRest {fid : Nat} (h : Keeps r s) : Keeps r (resetRest s fid) :=
  keeps_denyRecords (keeps_releaseJobs h)

theorem keeps_resetSteps {fid : Nat} {self : MboxId × Nat} {done : State → State} (h : Keeps r s)
    (hdone : ∀ s, Keeps r s → Keeps r (done s)) : Keeps r (resetSteps s fid self done) :=
  .ite (.ite (hdone _ (keeps_resetRest (keeps_resetStops h))) (keeps_resetStops h)) h

theorem keeps_resetEnds {fid : Nat} {mb : MboxId} {k : Nat} (h : Keeps r s) : Keeps r (resetEnds s fid mb k) :=
  keeps_resetSteps h (fun _ h => keeps_finish h)

theorem keeps_execFormeReset {mb : MboxId} {slot : Nat} (h : Keeps r s) : Answers r (execFormeReset mb slot s) := by
  unfold execFormeReset
  dsimp only
  split
  · exact .ite h.next (.ite h.next ((keeps_checked h (keeps_resetEnds (keeps_abortForme (keeps_runOn
      (keeps_journalReset h))))).next))
  · exact (keeps_resetEnds h).next
  · exact h.next

theorem keeps_destroyStep {fid : Nat} {mb : MboxId} {k : Nat} (h : Keeps r s) : Keeps r (destroyStep s fid mb k) := by
  unfold destroyStep
  dsimp only
  split
  · exact h
  · exact .ite h (.ite (keeps_closeJobs h) (keeps_startInval (keeps_denyRecords (keeps_stopGroups (keeps_dropJobs
      (keeps_releaseJobs (keeps_closeJobs h)))))))

theorem keeps_execFormeDestroy {mb : MboxId} {slot : Nat} (h :
    Keeps r s) : Answers r (execFormeDestroy mb slot s) := by
  unfold execFormeDestroy
  dsimp only
  split
  · split
    · exact h.next
    · split
      · exact (keeps_checked h h).next
      · exact (keeps_checked h (keeps_destroyStep (keeps_abortForme (keeps_runOn (keeps_modForme
          (keeps_journalWrite h)))))).next
  · exact (keeps_destroyStep h).next
  · exact h.next

theorem keeps_dropForme {f : Forme} (h : Keeps r s) : Keeps r (dropForme s f) := h.upd id (keysFrom_filter _ _ 0)

theorem keeps_detachPort {k : Nat} (h : Keeps r s) : Keeps r (detachPort s k) := keeps_modPort h

theorem keeps_removeForme {fid : Nat} (h : Keeps r s) : Keeps r (removeForme s fid) := by
  unfold removeForme
  dsimp only
  split
  · exact h
  · exact ((((keeps_dropForme h).upd).foldl fun _ _ h => keeps_setPower h).foldl fun _ _ h => keeps_detachPort h).upd

theorem keeps_destroyEnds {fid : Nat} {i : Inval} {mb : MboxId} {k : Nat} (h : Keeps r s) :
    Keeps r (destroyEnds s fid i mb k) := by
  unfold destroyEnds
  dsimp only
  split
  · exact h.foldl fun _ _ h => keeps_abortSlot h
  · exact .ite (.ite (keeps_finish (keeps_removeForme ((h.foldl fun _ _ h => keeps_abortSlot h).upd)))
      (keeps_removeForme ((h.foldl fun _ _ h => keeps_abortSlot h).upd))) (h.foldl fun _ _ h => keeps_abortSlot h)

theorem keeps_orphanStep {kv : Nat × Forme} (h : Keeps r s) : Keeps r (orphanStep s kv) :=
  .ite (keeps_destroyStep (.ite (keeps_resetSteps h (fun _ h => keeps_modForme h)) h)) (.ite (keeps_resetSteps h
    (fun _ h => keeps_modForme h)) h)

theorem keeps_orphanSteps (h : Keeps r s) : Keeps r (orphanSteps s) := h.foldl fun _ _ h => keeps_orphanStep h

/-! ### Images -/

theorem keeps_execImageInstall {mb : MboxId} {slot : Nat} (h :
    Keeps r s) : Answers r (execImageInstall mb slot s) := by
  unfold execImageInstall
  dsimp only
  split
  · split
    · exact h.next
    · split
      · exact h.next
      · split
        · exact (keeps_reject (keeps_readImage h)).next
        · split
          · exact (keeps_rejectImage (keeps_readImage h)).next
          · exact (keeps_checked (keeps_readImage h) (keeps_finish ((keeps_readImage h).upd))).next
  · exact h.next

theorem keeps_execFlashProgramDone (h : Keeps r s) : Answers r (execFlashProgramDone s) := by
  unfold execFlashProgramDone
  dsimp only
  split
  · exact h.next
  · split
    · exact (keeps_holdRow h).next
    · split
      · exact h.next
      · exact (keeps_journalWrite h.upd).next
      · exact (keeps_journalWrite h.upd).next

/-! ### Invalidations -/

theorem keeps_removeInval {id : Nat} (h : Keeps r s) : Keeps r (removeInval s id) := h.upd

theorem keeps_invalFrees {i : Inval} (h : Keeps r s) : Keeps r (invalFrees s i) :=
  keeps_finishStops (keeps_resolveEntries (keeps_freeEntries (keeps_removeInval h)))

theorem keeps_invalRestores {i : Inval} {kind : RangeKind} (h : Keeps r s) : Keeps r (invalRestores s i kind) :=
  keeps_finishStops (keeps_resolveEntries (keeps_modRanges (keeps_removeInval h)))

theorem keeps_unlockPlate {f : Nat} (h : Keeps r s) : Keeps r (unlockPlate s f) :=
  keeps_modForme (h.foldl fun _ _ h => keeps_releaseRegion h)

theorem keeps_execInvalidationAck {inv : Nat} (h : Keeps r s) : Answers r (execInvalidationAck inv s) := by
  unfold execInvalidationAck
  dsimp only
  split
  · exact h.next
  · split
    · exact h.next
    · split
      · exact h.next
      · exact (keeps_finish (keeps_invalFrees h)).next
      · exact (keeps_loadStep (keeps_unlockPlate (keeps_invalRestores h))).next
      · exact (keeps_loadStep (keeps_discardPlate (keeps_invalFrees h))).next
      · exact (keeps_endLoad ((keeps_invalRestores h).foldl fun _ _ h => keeps_fillRegion h)).next
      · exact (keeps_destroyEnds h).next

/-! ### MeshJobs -/

theorem keeps_setupJob {mb : MboxId} {k : Nat} {j : MeshJob} (h : Keeps r s) : Keeps r (setupJob s mb k j) :=
  .ite (keeps_finish (keeps_countFor ((keeps_journalWrite h).upd))) (keeps_finish ((keeps_journalWrite h).upd))

theorem keeps_execMeshJobSetup {mb : MboxId} {slot : Nat} (h :
    Keeps r s) : Answers r (execMeshJobSetup mb slot s) := by
  unfold execMeshJobSetup
  dsimp only
  split
  · exact .ite h.next ((keeps_checked h (keeps_setupJob (keeps_peekVa h))).next)
  · exact h.next

theorem keeps_cutCopy {x : MboxId × Nat} (h : Keeps r s) : Keeps r (cutCopy s x) :=
  keeps_meshCopySettle (.ite (keeps_pend h) h)

theorem keeps_releaseStep {fid : Nat} {mb : MboxId} {k : Nat} (h : Keeps r s) : Keeps r (releaseStep s fid mb k) :=
  .ite (keeps_finish (keeps_releaseJobs (keeps_closeJobs (h.foldl fun _ _ h => keeps_cutCopy h)))) (keeps_closeJobs
    (h.foldl fun _ _ h => keeps_cutCopy h))

theorem keeps_execMeshJobRelease {mb : MboxId} {slot : Nat} (h :
    Keeps r s) : Answers r (execMeshJobRelease mb slot s) := by
  unfold execMeshJobRelease
  dsimp only
  split
  · exact .ite h.next ((keeps_checked h (keeps_releaseStep (keeps_runOn (keeps_journalWrite h)))).next)
  · exact (keeps_releaseStep h).next
  · exact h.next

/-! ### MeshRows -/

theorem keeps_linkEntry {port : Nat} (h : Keeps r s) : Keeps r (linkEntry s port) :=
  keeps_journalWrite (keeps_drawn (keeps_drawn h))

theorem keeps_modGnid {n : Nat} {f : GnidEntry → GnidEntry} (h : Keeps r s) : Keeps r (modGnid s n f) := h.upd

theorem keeps_markTwins {port : Nat} (h : Keeps r s) : Keeps r (markTwins s port) :=
  .ite (keeps_linkEntry (.ite h.upd (keeps_modGnid h.upd))) (.ite h.upd (keeps_modGnid h.upd))

theorem keeps_announceOwn (h : Keeps r s) : Keeps r (announceOwn s) := keeps_meshSend h

theorem keeps_markNeighbour {n : Nat} {lost : Bool} (h : Keeps r s) : Keeps r (markNeighbour s n lost) := by
  unfold markNeighbour
  split
  · exact h
  · exact keeps_modMeshPort h

theorem keeps_nodeGone {n port : Nat} (h : Keeps r s) : Keeps r (nodeGone s n port) :=
  keeps_markTwins ((keeps_markNeighbour (keeps_modGnid h)).upd)

theorem keeps_nodeJoins {n : Nat} (h : Keeps r s) : Keeps r (nodeJoins s n) := (keeps_markNeighbour h).upd

theorem keeps_portUp {port partner : Nat} {gen5 : Bool} {tx rx : Nat} (h : Keeps r s) :
    Keeps r (portUp s port partner gen5 tx rx) :=
  keeps_retree (keeps_announceOwn (keeps_meshSend (keeps_linkEntry (.ite (keeps_modGnid ((keeps_modMeshPort h).upd))
    ((keeps_modMeshPort h).upd)))))

theorem keeps_execMeshLinkTrain {port partner partnerGroup : Nat} {gen5 : Bool} {txLanes rxLanes : Nat}
    (h : Keeps r s) :
    Answers r (execMeshLinkTrain port partner partnerGroup gen5 txLanes rxLanes s) := by
  unfold execMeshLinkTrain
  dsimp only
  split
  · exact h.next
  · split
    · exact (keeps_modMeshPort h).next
    · exact .ite (.ite h.next ((keeps_linkEntry (keeps_modMeshPort h)).next)) (.ite ((keeps_modMeshPort h).next)
        ((keeps_portUp h).next))

theorem keeps_execMeshTrainRetry {port lanesFailed : Nat} (h : Keeps r s) :
    Answers r (execMeshTrainRetry port lanesFailed s) := .ite ((keeps_modMeshPort h).next) h.next

theorem keeps_execGnidAnnounce {port node gnid generation upPorts : Nat} (h : Keeps r s) :
    Answers r (execGnidAnnounce port node gnid generation upPorts s) :=
  .ite h.next (.ite h.next ((keeps_retree (keeps_meshSend (keeps_markTwins (keeps_modGnid
    (keeps_nodeJoins h))))).next))

theorem keeps_execLinkStateNotice {node port width : Nat} (h : Keeps r s) :
    Answers r (execLinkStateNotice node port width s) := by
  unfold execLinkStateNotice
  dsimp only
  split
  · exact h.next
  · split
    · exact (keeps_meshSend (.ite (keeps_modGnid (.ite h.upd h)) (.ite h.upd h))).next
    · exact .ite ((keeps_retree (keeps_nodeGone (keeps_meshSend (.ite (keeps_modGnid (.ite h.upd h))
        (.ite h.upd h))))).next) ((keeps_retree (keeps_meshSend (.ite (keeps_modGnid (.ite h.upd h))
          (.ite h.upd h)))).next)

theorem keeps_borderReject {p : Packet} (h : Keeps r s) : Keeps r (borderReject s p) := keeps_rejectPacket h

theorem keeps_execMeshPut {port : Nat} {p : Packet} (h : Keeps r s) : Answers r (execMeshPut port p s) :=
  .ite h.next (.ite ((keeps_borderReject (keeps_received h)).next) ((keeps_inboundPut (keeps_received h)).next))

theorem keeps_execMeshGet {port : Nat} {p : Packet} {len : Nat} (h :
    Keeps r s) : Answers r (execMeshGet port p len s) :=
  .ite h.next ((Keeps.ite (keeps_meshSend (keeps_countFor (keeps_received h))) (.ite (keeps_meshSend (keeps_countFor
    (keeps_received h))) (keeps_inboundGet (keeps_received h)))).next)

theorem keeps_execMeshTransit {port : Nat} {p : Packet} (h : Keeps r s) : Answers r (execMeshTransit port p s) := by
  unfold execMeshTransit
  dsimp only
  split
  · exact h.next
  · split
    · exact (keeps_meshSend (keeps_received h)).next
    · split
      · exact (keeps_meshSend (keeps_received h)).next
      · exact (keeps_toPort (keeps_received h)).next

theorem keeps_execMeshPacketAck {copyId index code : Nat} (h : Keeps r s) :
    Answers r (execMeshPacketAck copyId index code s) := .ite ((keeps_packetAnswered h).next) h.next

theorem keeps_execMeshAckTimeout {copyId index : Nat} (h :
    Keeps r s) : Answers r (execMeshAckTimeout copyId index s) := by
  unfold execMeshAckTimeout
  split
  · exact h.next
  · exact .ite ((keeps_packetFails h).next) h.next

theorem keeps_execMeshOrderTimeout {src copyId index : Nat} (h : Keeps r s) :
    Answers r (execMeshOrderTimeout src copyId index s) := h.upd.next

theorem keeps_linkLost {port : Nat} {gone : Bool} (h : Keeps r s) : Keeps r (linkLost s port gone) :=
  keeps_retree (keeps_announceOwn (keeps_rerouteAll (.ite (keeps_nodeGone (keeps_meshSend (keeps_linkEntry
    ((keeps_modMeshPort h).upd)))) (keeps_meshSend (keeps_linkEntry ((keeps_modMeshPort h).upd))))))

theorem keeps_narrowed {port : Nat} {sending : Bool} {w : Nat} (h :
    Keeps r s) : Keeps r (narrowed s port sending w) :=
  .ite (keeps_rerouteNarrow (keeps_meshSend (keeps_linkEntry (keeps_modMeshPort h)))) (keeps_linkEntry
    ((keeps_modMeshPort h).upd))

theorem keeps_execMeshLaneFail {port : Nat} {sending : Bool} {lane : Nat} (h : Keeps r s) :
    Answers r (execMeshLaneFail port sending lane s) :=
  .ite h.next (.ite ((keeps_linkLost (keeps_modMeshPort h)).next) (.ite ((keeps_modMeshPort h).next) ((keeps_narrowed
    (keeps_modMeshPort h)).next)))

theorem keeps_execMeshRetrainDone {port : Nat} {sending : Bool} (h : Keeps r s) :
    Answers r (execMeshRetrainDone port sending s) :=
  .ite h.next (.ite ((keeps_pumpPort (keeps_modMeshPort h)).next) (.ite ((keeps_modMeshPort h).next) h.next))

theorem keeps_execMeshLinkLoss {port : Nat} {neighbourLost : Bool} (h : Keeps r s) :
    Answers r (execMeshLinkLoss port neighbourLost s) := .ite ((keeps_linkLost h).next) h.next

theorem keeps_openRate {offset : Int} (h : Keeps r s) : Keeps r (openRate s offset).1 := keeps_drawn h

theorem keeps_correctTime {offset : Int} (h : Keeps r s) : Keeps r (correctTime s offset) :=
  .ite h.upd.upd ((keeps_openRate h.upd).upd)

theorem keeps_execRegistrationExchange {port : Nat} {here there : Stamps} (h : Keeps r s) :
    Answers r (execRegistrationExchange port here there s) :=
  .ite h.next ((Keeps.ite (keeps_modMeshPort h) (keeps_correctTime (keeps_modMeshPort h))).next)

theorem keeps_execRegistrationLock (h : Keeps r s) : Answers r (execRegistrationLock s) := .ite h.upd.next h.next

theorem keeps_execReferenceLoss (h : Keeps r s) : Answers r (execReferenceLoss s) :=
  .ite ((keeps_retree (keeps_nodeGone h)).next) h.next

/-! ### PowerCmds -/

theorem keeps_applyRest {p st : Nat} (h : Keeps r s) : Keeps r (applyRest s p st) :=
  .ite (keeps_wakePlaten (keeps_setPower h)) (keeps_setPower h)

theorem keeps_journalPower {o : JOrigin} {c : Nat} (h : Keeps r s) : Keeps r (journalPower s o c) :=
  keeps_journalWrite h.upd

theorem keeps_execPowerState {mb : MboxId} {slot : Nat} (h : Keeps r s) : Answers r (execPowerState mb slot s) := by
  unfold execPowerState
  dsimp only
  split
  · exact .ite h.next (.ite h.next ((keeps_checked h (.ite (keeps_runOn (keeps_applyRest (keeps_journalPower h)))
      (keeps_finish (keeps_applyRest (keeps_journalPower h))))).next))
  · exact .ite ((keeps_finish h).next) h.next
  · exact h.next

theorem keeps_startGroup {g entry arg : Nat} (h : Keeps r s) : Keeps r (startGroup s g entry arg) :=
  (keeps_modHart h).upd

theorem keeps_execCoreGroupStart {mb : MboxId} {slot : Nat} (h :
    Keeps r s) : Answers r (execCoreGroupStart mb slot s) := by
  unfold execCoreGroupStart
  dsimp only
  split
  · exact .ite h.next (.ite h.next ((keeps_checked h (keeps_finish (keeps_startGroup (keeps_journalPower h)))).next))
  · exact h.next

theorem keeps_execCoreGroupStop {mb : MboxId} {slot : Nat} (h :
    Keeps r s) : Answers r (execCoreGroupStop mb slot s) := by
  unfold execCoreGroupStop
  dsimp only
  split
  · exact .ite h.next (.ite (.ite h.next ((keeps_checked h (keeps_finish (keeps_stopGroups
      (keeps_journalPower h)))).next)) ((keeps_checked h (keeps_finish h)).next))
  · exact h.next

theorem keeps_setCap {f : Option Nat} {w : Nat} (h : Keeps r s) : Keeps r (setCap s f w) := by
  unfold setCap
  split
  · exact h.upd
  · exact keeps_modForme h

theorem keeps_applyCap {o : JOrigin} {f : Option Nat} {w : Nat} (h : Keeps r s) : Keeps r (applyCap s o f w) :=
  keeps_setCap (keeps_journalWrite h)

theorem keeps_execCapSet {mb : MboxId} {slot : Nat} (h : Keeps r s) : Answers r (execCapSet mb slot s) := by
  unfold execCapSet
  dsimp only
  split
  · exact h.next
  · exact .ite h.next ((keeps_checked h (keeps_finish (keeps_applyCap h))).next)

/-! ### PowerRows -/

theorem keeps_govern {p : Nat} (h : Keeps r s) : Keeps r (govern s p) := by
  unfold govern
  dsimp only
  split
  · split
    · exact h
    · exact keeps_setPower h
  · exact h

theorem keeps_setLimits {p : Nat} {f : Limits → Limits} (h : Keeps r s) : Keeps r (setLimits s p f) :=
  keeps_govern (keeps_setPower h)

theorem keeps_execRunningPointStep {platen : Nat} (h : Keeps r s) : Answers r (execRunningPointStep platen s) := by
  unfold execRunningPointStep
  split
  · exact h.next
  · exact .ite ((keeps_govern (keeps_setPower h)).next) h.next

theorem keeps_endStretch {p : Nat} (h : Keeps r s) : Keeps r (endStretch s p) :=
  .ite (keeps_countFor (keeps_modPlaten (keeps_drawn h))) h

theorem keeps_execDroopDetect {platen : Nat} {overHalfPercent : Bool} (h : Keeps r s) :
    Answers r (execDroopDetect platen overHalfPercent s) :=
  .ite h.next (.ite ((keeps_govern (keeps_setPower (keeps_modPlaten h))).next) ((keeps_modPlaten h).next))

theorem keeps_execDroopRecovered {platen : Nat} (h : Keeps r s) : Answers r (execDroopRecovered platen s) :=
  (Keeps.ite (keeps_endStretch h) h).next

theorem keeps_droopOver {p : Nat} (h : Keeps r s) : Keeps r (droopOver s p) := .ite (keeps_setLimits h) h

theorem keeps_emptyCase {p : Nat} (h : Keeps r s) : Keeps r (emptyCase s p) :=
  h.foldl fun _ _ h => keeps_settle (keeps_evictLine (keeps_settle h))

theorem keeps_startSleep {p frm dest : Nat} (h : Keeps r s) : Keeps r (startSleep s p frm dest) :=
  keeps_emptyCase (keeps_setPower (keeps_endStretch h)).upd

theorem keeps_dropCase {p : Nat} (h : Keeps r s) : Keeps r (dropCase s p) := h.upd id (keysFrom_filter _ _ 0)

theorem keeps_lowerPlaten {p t : Nat} (h : Keeps r s) : Keeps r (lowerPlaten s p t) := by
  unfold lowerPlaten
  split
  · exact .ite (keeps_setPower h) (keeps_startSleep h)
  · exact keeps_startSleep h
  · exact keeps_setPower (keeps_dropCase h)
  · exact h

theorem keeps_execGovernorTimerExpiry {platen : Nat} (h :
    Keeps r s) : Answers r (execGovernorTimerExpiry platen s) := by
  unfold execGovernorTimerExpiry
  split
  · exact h.next
  · split
    · exact (keeps_lowerPlaten h).next
    · exact h.next

theorem keeps_clearSharer {p : Nat} (h : Keeps r s) : Keeps r (clearSharer s p) := h.upd

theorem keeps_execCaseSleepDone {platen : Nat} (h : Keeps r s) : Answers r (execCaseSleepDone platen s) := by
  unfold execCaseSleepDone
  dsimp only
  split
  · exact .ite ((Keeps.ite (keeps_wakePlaten (keeps_setPower (.ite (keeps_dropCase (keeps_clearSharer h))
      (keeps_clearSharer h)))) (keeps_setPower (.ite (keeps_dropCase (keeps_clearSharer h))
        (keeps_clearSharer h)))).next) h.next
  · exact h.next

theorem keeps_execPlatenWakeDone {platen : Nat} (h : Keeps r s) : Answers r (execPlatenWakeDone platen s) := by
  unfold execPlatenWakeDone
  dsimp only
  split
  · exact .ite h.next ((keeps_govern (keeps_setPower (.ite (h.upd.foldl fun _ _ h => keeps_fillRegion h) h))).next)
  · exact h.next

theorem keeps_flushL3s (h : Keeps r s) : Keeps r (flushL3s s) :=
  (h.foldl fun _ _ h => keeps_settle (keeps_evictLine (keeps_settle h))).upd

theorem keeps_execModuleIdleEntry (h : Keeps r s) : Answers r (execModuleIdleEntry s) :=
  .ite (.ite ((keeps_flushL3s h).upd id fun _ => rfl).next (keeps_flushL3s h).next) h.next

theorem keeps_wakeToRest {p : Nat} (h : Keeps r s) : Keeps r (wakeToRest s p) := .ite (keeps_wakePlaten h) h

theorem keeps_execModuleWakeDone (h : Keeps r s) : Answers r (execModuleWakeDone s) :=
  .ite ((((keeps_journalFlush (keeps_wakeStacks h.upd)).foldl fun _ _ h => keeps_wakeToRest h).foldl
    fun _ _ h => keeps_performInbound h).next) h.next

theorem keeps_fastDrop {p : Nat} (h : Keeps r s) : Keeps r (fastDrop s p) := keeps_setPower h

theorem keeps_meterSample {millivolts milliamps : Nat} (h :
    Keeps r s) : Keeps r (meterSample s millivolts milliamps) :=
  .ite (h.upd.foldl fun _ _ h => keeps_fastDrop h) h.upd

theorem keeps_fastOver {p : Nat} (h : Keeps r s) : Keeps r (fastOver s p) := .ite (keeps_setLimits h) h

theorem keeps_modComp {c : Nat} {f : CompPower → CompPower} (h : Keeps r s) : Keeps r (modComp s c f) := h.upd

theorem keeps_slowGroup {c : CapScope} {g : Nat} (h : Keeps r s) : Keeps r (slowGroup c s g) := h.upd

theorem keeps_capDown {c : CapScope} {ps gs : List Nat} (h : Keeps r s) : Keeps r (capDown c s ps gs) := by
  unfold capDown
  dsimp only
  split
  · exact h.foldl fun _ _ h => keeps_slowGroup h
  · exact .ite (h.foldl fun _ _ h => keeps_slowGroup h) (keeps_setLimits h)

theorem keeps_raised {c : CapScope} (h : Keeps r s) : Keeps r (CapScope.raised c s) := by
  unfold CapScope.raised
  dsimp only
  split
  · exact h.upd
  · exact keeps_modForme h

theorem keeps_capUp {c : CapScope} {ps gs : List Nat} (h : Keeps r s) : Keeps r (capUp c s ps gs) := by
  unfold capUp
  dsimp only
  split
  · exact keeps_raised ((keeps_drawn h).upd)
  · exact keeps_setLimits (keeps_raised (keeps_drawn h))
  · exact h

theorem keeps_formeTick {avgs : List Nat} {kv : Nat × Forme} (h : Keeps r s) : Keeps r (formeTick avgs s kv) :=
  .ite (keeps_capDown h) (.ite (keeps_capUp h) h)

theorem keeps_execCapLoopTick {moduleAvgW : Nat} {formeAvgW : List Nat} (h : Keeps r s) :
    Answers r (execCapLoopTick moduleAvgW formeAvgW s) :=
  .ite h.next ((Keeps.ite (keeps_capUp ((Keeps.ite (keeps_capDown (h.foldl fun _ _ h => keeps_droopOver
    (keeps_fastOver h))) (h.foldl fun _ _ h => keeps_droopOver (keeps_fastOver h))).foldl
      fun _ _ h => keeps_formeTick h)) ((Keeps.ite (keeps_capDown (h.foldl fun _ _ h => keeps_droopOver
        (keeps_fastOver h))) (h.foldl fun _ _ h => keeps_droopOver (keeps_fastOver h))).foldl
          fun _ _ h => keeps_formeTick h)).next)

theorem keeps_thermAlertStep (h : Keeps r s) : Keeps r (thermAlertStep s) :=
  .ite (keeps_alert h.upd) (.ite (keeps_alert h.upd) h)

theorem keeps_trip {x : SensorId} (h : Keeps r s) : Keeps r (trip s x) := keeps_retire h

theorem keeps_sense {x : SensorId} {t : Nat} (h : Keeps r s) : Keeps r (sense s x t) := by
  unfold sense
  dsimp only
  split
  · exact keeps_setLimits (keeps_modPlaten h)
  · exact keeps_modComp h
  · exact keeps_stackTemp h

theorem keeps_senseStep {sensor : SensorId} {temp : Nat} (h : Keeps r s) : Keeps r (senseStep s sensor temp) :=
  .ite (keeps_trip (keeps_thermAlertStep (keeps_sense h))) (keeps_thermAlertStep (keeps_sense h))

theorem keeps_execThermalSensor {sensor : SensorId} {temp : Nat} (h : Keeps r s) :
    Answers r (execThermalSensor sensor temp s) := (Keeps.ite (keeps_senseStep h) h).next

theorem keeps_execRefreshDouble {stack temp : Nat} (h : Keeps r s) : Answers r (execRefreshDouble stack temp s) :=
  (Keeps.ite (keeps_senseStep h) h).next

theorem keeps_execThermalTrip {sensor : SensorId} (h : Keeps r s) : Answers r (execThermalTrip sensor s) :=
  (keeps_trip h).next

theorem keeps_execThermalLimitTick {sensor : SensorId} (h :
    Keeps r s) : Answers r (execThermalLimitTick sensor s) := by
  unfold execThermalLimitTick
  dsimp only
  split
  · exact h.next
  · split
    · exact .ite ((keeps_setLimits h).next) (.ite ((keeps_setLimits h).next) h.next)
    · exact .ite ((keeps_modComp h).next) (.ite ((keeps_modComp h).next) h.next)
    · exact h.next

theorem keeps_limitInput {on : Bool} {p : Nat} (h : Keeps r s) : Keeps r (limitInput on s p) := keeps_setLimits h

theorem keeps_execInputUndervoltage (h : Keeps r s) : Answers r (execInputUndervoltage s) :=
  .ite ((h.upd.foldl fun _ _ h => keeps_limitInput h).next) h.next

theorem keeps_execInputLimitRelease (h : Keeps r s) : Answers r (execInputLimitRelease s) :=
  .ite ((h.upd.foldl fun _ _ h => keeps_limitInput h).next) h.next

/-! ### Startup -/

theorem keeps_modSb {f : Sideband → Sideband} (h : Keeps r s)
    (hf : keysFrom 0 s.sb.snapshots = true → keysFrom 0 (f s.sb).snapshots = true := by exact fun h => h) :
    Keeps r (modSb s f) := h.upd (hsnap := hf)

theorem keeps_withRecord (h : Keeps r s) : Keeps r (withRecord s) := by
  unfold withRecord
  split
  · exact .ite (keeps_alert h) h
  · exact h

theorem keeps_announceNow (h : Keeps r s) : Keeps r (announceNow s) := keeps_withRecord (keeps_pushNotice h)

theorem keeps_clearPorts (h : Keeps r s) : Keeps r (clearPorts s) := h.upd

theorem keeps_clearDies (h : Keeps r s) : Keeps r (clearDies s) := keeps_clearPorts ((keeps_powerOffDies h).upd)

theorem keeps_verifyImages (h : Keeps r s) : Keeps r (verifyImages s) := by
  unfold verifyImages
  dsimp only
  split <;> exact keeps_modSb h.upd

theorem keeps_coldWatch (h : Keeps r s) : Keeps r (coldWatch s) := keeps_verifyImages (h.upd id id fun _ => rfl)

theorem keeps_coldReset (h : Keeps r s) : Keeps r (coldReset s) := (keeps_coldWatch (keeps_clearDies h)).upd

theorem keeps_loseMemory (h : Keeps r s) : Keeps r (loseMemory s) := h.upd fun _ => wf_nil

theorem keeps_resumeJournal (h : Keeps r s) : Keeps r (resumeJournal s) := h.upd id id id fun _ _ _ e => nomatch e

theorem keeps_startPower {railsUp : Bool} (h : Keeps r s) : Keeps r (startPower s railsUp) :=
  .ite ((keeps_resumeJournal (keeps_loseMemory (keeps_coldReset h.upd))).upd) h.upd

theorem keeps_tryPower (h : Keeps r s) : Keeps r (tryPower s) := keeps_startPower (keeps_drawn h)

theorem keeps_execPowerOn (h : Keeps r s) : Answers r (execPowerOn s) :=
  .ite ((Keeps.ite (keeps_tryPower h.upd) h.upd).next) h.upd.next

theorem keeps_supplyOff (h : Keeps r s) : Keeps r (supplyOff s) := (keeps_clearDies h).upd

theorem keeps_execPwrEnDeassert (h : Keeps r s) : Answers r (execPwrEnDeassert s) :=
  (Keeps.ite h.upd (keeps_supplyOff h.upd)).next

theorem keeps_readPwrEn (h : Keeps r s) : Keeps r (readPwrEn s) :=
  .ite h (.ite (.ite (keeps_tryPower h) h) (.ite h (keeps_supplyOff h)))

theorem keeps_execPowerMeterSample {millivolts milliamps : Nat} (h : Keeps r s) (hv : millivolts ≤ 72000) :
    Answers r (execPowerMeterSample millivolts milliamps s) := by
  unfold execPowerMeterSample
  rw [if_neg (Nat.not_lt.mpr hv)]
  exact Keeps.next (.ite (keeps_readPwrEn h.upd) (keeps_meterSample (keeps_readPwrEn h.upd)))

theorem keeps_execSupplyLoss (h : Keeps r s) : Answers r (execSupplyLoss s) :=
  .ite h.next ((keeps_supplyOff h.upd).next)

theorem keeps_softRepair {x : Nat × RowId} (h : Keeps r s) : Keeps r (softRepair s x) := .ite (keeps_modStack h) h

theorem keeps_openMeshPort {p : Nat} (h : Keeps r s) : Keeps r (openMeshPort s p) :=
  .ite (keeps_modMeshPort h) (keeps_modMeshPort h)

theorem keeps_takeConfig (h : Keeps r s) : Keeps r (takeConfig s) :=
  .ite ((h.upd.foldl fun _ _ h => keeps_softRepair h).foldl fun _ _ h => keeps_openMeshPort h) (h.upd.foldl
    fun _ _ h => keeps_softRepair h)

theorem keeps_resumeWaiting (h : Keeps r s) : Keeps r (resumeWaiting s) := keeps_journalFlush h.upd

theorem keeps_startCold {i : LumizImage} (h : Keeps r s) : Keeps r (startCold s i) := by
  have k := keeps_trainLanes (keeps_resumeWaiting (keeps_bootEntry h))
  have cold := keeps_coldEntry (keeps_wakeStacks k)
  have same := k.fixed.trans cold.fixed.symm
  simp only [fixedOf, Fixed.mk.injEq] at same
  obtain ⟨grade, serial, root, -⟩ := same
  unfold startCold
  refine .ite (keeps_announceNow (Keeps.upd (keeps_takeConfig (cold.upd (hfixed := ?_))))) k
  simp only [fixedParts, grade, serial, root]

theorem keeps_execStartupComplete (h : Keeps r s) : Answers r (execStartupComplete s) := by
  unfold execStartupComplete
  dsimp only
  split
  · exact h.next
  · split
    · exact ((keeps_resumeWaiting h).upd).next
    · split
      · exact (keeps_startCold h).next
      · exact (keeps_announceNow ((keeps_coldEntry h).upd)).next

theorem keeps_abortOwned {x : MboxId × Nat} (h : Keeps r s) : Keeps r (abortOwned s x) :=
  keeps_completeSlot (.ite h (keeps_finish h))

theorem keeps_warmReset {lumiz : Bool} (h : Keeps r s) : Keeps r (warmReset s lumiz) := by
  unfold warmReset
  refine Keeps.upd (keeps_clearDies (keeps_idleHostPorts (keeps_wakeStacks (.ite ?_ h))))
  exact h.foldl fun _ _ h => keeps_abortOwned h

theorem keeps_moduleReset {kind : Nat} {lumiz : Bool} (h : Keeps r s) : Keeps r (moduleReset s kind lumiz) :=
  .ite (keeps_warmReset h) (keeps_coldReset h)

theorem keeps_resetEntry {o : JOrigin} (h : Keeps r s) : Keeps r (resetEntry s o) :=
  keeps_journalWrite (keeps_openDigest h)

theorem keeps_execControlCoreHeartbeat {core : Nat} (h : Keeps r s) : Answers r (execControlCoreHeartbeat core s) :=
  .ite h.upd.next h.next

theorem keeps_execWatchdogTimeout (h : Keeps r s) : Answers r (execWatchdogTimeout s) :=
  .ite ((keeps_moduleReset (keeps_resetEntry h)).next) h.next

theorem keeps_execControlCoreTakeover {core : Nat} (h : Keeps r s) : Answers r (execControlCoreTakeover core s) :=
  .ite (((keeps_resetEntry h).upd).next) h.next

theorem keeps_execControlCoreRejoin {core : Nat} (h :
    Keeps r s) : Answers r (execControlCoreRejoin core s) :=
  h.upd.next

theorem keeps_execRetirement {cause : RetireCause} (h : Keeps r s) : Answers r (execRetirement cause s) :=
  (keeps_retire h).next

theorem keeps_execCompositorALoss (h :
    Keeps r s) : Answers r (execCompositorALoss s) :=
  (keeps_loseCompositorA h).next

theorem keeps_checkpointPiece {k : Nat} {sig : List Byte} {j : Nat} (h :
    Keeps r s) : Keeps r (checkpointPiece k sig s j) :=
  keeps_journalWrite h

theorem keeps_execJournalCheckpoint (h : Keeps r s) : Answers r (execJournalCheckpoint s) := by
  unfold execJournalCheckpoint
  split
  · refine .ite (Keeps.next (Keeps.foldl ?_ fun _ _ h => keeps_checkpointPiece h)) h.next
    exact (keeps_drawn h).upd (hjournal := fun k => k)
  · exact h.next

theorem keeps_execCheckpointFlashWritten (h : Keeps r s) : Answers r (execCheckpointFlashWritten s) := by
  unfold execCheckpointFlashWritten
  dsimp only
  split
  · exact .ite ((keeps_journalFlush h.upd).next) h.next
  · exact h.next

/-! ### Sideband -/

theorem keeps_count {f : SbCounters → SbCounters} (h : Keeps r s) : Keeps r (count s f) := keeps_modSb h

theorem keeps_answerStale {f : SbFrame} (h : Keeps r s) : Keeps r (answerStale s f) :=
  .ite (keeps_pushNotice (keeps_modSb h)) h

theorem keeps_acceptFrame {f : SbFrame} (h : Keeps r s) : Keeps r (acceptFrame s f) := by
  unfold acceptFrame
  exact keeps_modSb (keeps_count h)

theorem keeps_execSbFrameReceive {f : SbFrame} (h : Keeps r s) : Answers r (execSbFrameReceive f s) :=
  .ite h.next (.ite ((keeps_count h).next) (.ite ((keeps_count h).next) (.ite ((keeps_count h).next) (.ite
    ((keeps_count h).next) (.ite ((keeps_count h).next) (.ite ((keeps_count h).next) (.ite ((keeps_answerStale
      (keeps_count h)).next) (.ite ((keeps_count h).next) ((keeps_acceptFrame h).next)))))))))

theorem keeps_respond {r' : SbReq} {status : Nat} {body : List Byte} (h : Keeps r s) :
    Keeps r (respond s r' status body) := keeps_pushNotice (keeps_modSb h)

theorem keeps_sbChecked {q : SbReq} {cs : List (Bool × Nat)} {go : State} (h : Keeps r s) (hgo : Keeps r go) :
    Keeps r (sbChecked s q cs go) := by
  unfold sbChecked
  split
  · exact keeps_respond h
  · exact hgo

theorem keeps_sbHeld (h : Keeps r s) : Keeps r (sbHeld s) := keeps_wakeModule h

theorem keeps_execSbStatus (h : Keeps r s) : Answers r (execSbStatus s) := by
  unfold execSbStatus
  split
  · exact h.next
  · exact .ite ((keeps_sbChecked h (keeps_withRecord (keeps_respond h))).next) ((keeps_respond h).next)

theorem keeps_execSbPowerState (h : Keeps r s) : Answers r (execSbPowerState s) := by
  unfold execSbPowerState
  dsimp only
  split
  · exact h.next
  · exact .ite ((keeps_sbHeld h).next) ((keeps_sbChecked h (keeps_respond (.ite (keeps_setPower
      (keeps_journalPower h)) (keeps_applyRest (keeps_journalPower h))))).next)

theorem keeps_execSbCapSet (h : Keeps r s) : Answers r (execSbCapSet s) := by
  unfold execSbCapSet
  dsimp only
  split
  · exact h.next
  · exact .ite ((keeps_sbHeld h).next) ((keeps_sbChecked h (keeps_respond (keeps_applyCap h))).next)

theorem keeps_waitsCounted (h : Keeps r s) : Keeps r (waitsCounted s) := h.foldl fun _ _ h => keeps_countAllWaits h

theorem keeps_execSbTelemetry (h : Keeps r s) : Answers r (execSbTelemetry s) := by
  unfold execSbTelemetry
  split
  · exact h.next
  · refine .ite (.ite (keeps_wakeModule h).next (Keeps.next (keeps_respond ?_))) ?_
    · exact keeps_modSb (keeps_drawn h) (keysFrom_mapSet _ 0 _ _ (Nat.zero_le _))
    · split
      · exact (keeps_respond h).next
      · exact (keeps_sbChecked h (keeps_respond h)).next

theorem keeps_execSnapshotExpiry {group : Nat} (h : Keeps r s) : Answers r (execSnapshotExpiry group s) :=
  (keeps_modSb h (keysFrom_mapDel _ 0 _)).next

theorem keeps_execSbJournal (h : Keeps r s) : Answers r (execSbJournal s) := by
  unfold execSbJournal
  dsimp only
  split
  · exact h.next
  · exact .ite ((keeps_sbHeld h).next) (.ite ((keeps_respond h).next) ((keeps_sbChecked h (keeps_respond (.ite
      (keeps_markExported h) h))).next))

theorem keeps_askReset {kind f : Nat} (h : Keeps r s) : Keeps r (askReset s kind f) := by
  refine keeps_modSb h fun k => ?_
  split
  · exact k
  · exact k

theorem keeps_dropAsked {kind f : Nat} (h : Keeps r s) : Keeps r (dropAsked s kind f) := keeps_modSb h

theorem keeps_acceptReset {r' : SbReq} {kind : Nat} {cs : List (Bool × Nat)} (h : Keeps r s) :
    Keeps r (acceptReset s r' kind cs) :=
  .ite (keeps_sbHeld h) (keeps_sbChecked h (keeps_askReset (keeps_respond (keeps_resetEntry h))))

theorem keeps_execSbColdReset (h : Keeps r s) : Answers r (execSbColdReset s) := by
  unfold execSbColdReset
  split
  · exact (keeps_acceptReset h).next
  · exact (keeps_coldReset h).next
  · exact h.next

theorem keeps_execSbWarmReset (h : Keeps r s) : Answers r (execSbWarmReset s) := by
  unfold execSbWarmReset
  split
  · exact (keeps_acceptReset h).next
  · exact (keeps_moduleReset h).next
  · exact h.next

theorem keeps_sbFormeStep {f : Nat} (h : Keeps r s) : Keeps r (sbFormeStep s f) :=
  keeps_resetSteps h (fun _ h => keeps_dropAsked h)

theorem keeps_sbFormeSteps (h : Keeps r s) : Keeps r (sbFormeSteps s) :=
  h.foldl fun _ _ h => .ite (keeps_sbFormeStep h) h

theorem keeps_execSbFormeReset (h : Keeps r s) : Answers r (execSbFormeReset s) := by
  unfold execSbFormeReset
  dsimp only
  split
  · exact .ite ((keeps_sbHeld h).next) ((keeps_sbChecked h (keeps_askReset (keeps_respond (keeps_journalWrite
      (keeps_openDigest h))))).next)
  · exact .ite ((keeps_sbFormeSteps h).next) ((keeps_sbFormeStep (keeps_abortForme (keeps_askReset (keeps_dropAsked
      (keeps_sbFormeSteps h))))).next)
  · exact (keeps_sbFormeSteps h).next

theorem keeps_sendHead {o : SbOut} (h : Keeps r s) : Keeps r (sendHead s o) := by
  unfold sendHead
  dsimp only
  split
  · exact h
  · exact keeps_modSb (keeps_count h)

theorem keeps_execTransmitOpportunity (h : Keeps r s) : Answers r (execTransmitOpportunity s) := by
  unfold execTransmitOpportunity
  dsimp only
  split
  · exact (keeps_sendHead h).next
  · exact h.next

theorem keeps_execInvalidBeaconTimeout (h : Keeps r s) : Answers r (execInvalidBeaconTimeout s) :=
  .ite ((keeps_modSb (keeps_count h)).next) h.next

theorem keeps_execBeaconReceived (h : Keeps r s) : Answers r (execBeaconReceived s) :=
  .ite ((keeps_modSb h).next) h.next

theorem keeps_execCollision (h : Keeps r s) : Answers r (execCollision s) :=
  .ite (.ite ((keeps_modSb (keeps_count (keeps_count h))).next) ((keeps_modSb (keeps_count h)).next)) h.next

theorem keeps_execCsmaCdBackoffExpiry (h : Keeps r s) : Answers r (execCsmaCdBackoffExpiry s) := (keeps_modSb h).next

theorem keeps_execAnnounce (h : Keeps r s) : Answers r (execAnnounce s) := .ite ((keeps_announceNow h).next) h.next

/-! ### Step -/

theorem keeps_tick (h : Keeps r s) : Keeps r (State.tick s) := h.upd

theorem keeps_idle (h : Keeps r s) : Keeps r (State.idle s) := by
  unfold State.idle
  split
  · exact h
  · exact h
  · exact keeps_orphanSteps (keeps_serveHomes (keeps_timerStep (keeps_meshTick (keeps_tick h))))

/-! ## The commands -/

theorem answers_exec (c : Instr) (hc : ∀ mv ma, c = .powerMeterSample mv ma → mv ≤ 72000) (h : Keeps r s) :
    Answers r (exec c s) := by
  cases c with
  | powerMeterSample mv ma => exact keeps_execPowerMeterSample h (hc mv ma rfl)
  | slotWrite => exact keeps_execSlotWrite h
  | registerWrite => exact keeps_execRegisterWrite h
  | slotTake => exact keeps_execSlotTake h
  | afterRelease => exact keeps_execAfterRelease h
  | holdRelease => exact keeps_execHoldRelease h
  | slotComplete => exact keeps_execSlotComplete h
  | identify => exact keeps_execIdentify h
  | attest => exact keeps_execAttest h
  | formeCreate => exact keeps_execFormeCreate h
  | formeDestroy => exact keeps_execFormeDestroy h
  | mapRange => exact keeps_execMapRange h
  | unmapRange => exact keeps_execUnmapRange h
  | copy => exact keeps_execCopy h
  | fill => exact keeps_execFill h
  | zero => exact keeps_execZero h
  | plateLoad => exact keeps_execPlateLoad h
  | imageInstall => exact keeps_execImageInstall h
  | plateSeal => exact keeps_execPlateSeal h
  | passLaunch => exact keeps_execPassLaunch h
  | passStatus => exact keeps_execPassStatus h
  | setPolicy => exact keeps_execSetPolicy h
  | powerState => exact keeps_execPowerState h
  | coreGroupStart => exact keeps_execCoreGroupStart h
  | coreGroupStop => exact keeps_execCoreGroupStop h
  | capSet => exact keeps_execCapSet h
  | telemetry => exact keeps_execTelemetry h
  | journalRead => exact keeps_execJournalRead h
  | journalExport => exact keeps_execJournalExport h
  | meshJobSetup => exact keeps_execMeshJobSetup h
  | meshJobRelease => exact keeps_execMeshJobRelease h
  | passAbort => exact keeps_execPassAbort h
  | formeReset => exact keeps_execFormeReset h
  | recoveryRead => exact keeps_execRecoveryRead h
  | hotReset => exact keeps_execHotReset h
  | functionLevelReset => exact keeps_execFunctionLevelReset h
  | linkDown => exact keeps_execLinkDown h
  | perstNAssert => exact keeps_execPerstNAssert h
  | linkRetrain port => exact keeps_execLinkRetrain (_port := port) h
  | d3hotEntry => exact keeps_execD3hotEntry h
  | pcieTrainAttempt => exact keeps_execPcieTrainAttempt h
  | memorySpaceEnable => exact keeps_execMemorySpaceEnable h
  | busMasterEnableWrite => exact keeps_execBusMasterEnableWrite h
  | apertureRead => exact keeps_execApertureRead h
  | apertureWrite => exact keeps_execApertureWrite h
  | apertureAtomic => exact keeps_execApertureAtomic h
  | hostReadTimeout => exact keeps_execHostReadTimeout h
  | stickStart => exact keeps_execStickStart h
  | sortArithmetic => exact keeps_execSortArithmetic h
  | branch => exact keeps_execBranch h
  | exit => exact keeps_execExit h
  | readSpecial => exact keeps_execReadSpecial h
  | xchAt => exact keeps_execXchAt h
  | xchRotW => exact keeps_execXchRotW h
  | xchRotC => exact keeps_execXchRotC h
  | xchFlip => exact keeps_execXchFlip h
  | xchLow => exact keeps_execXchLow h
  | tallySome => exact keeps_execTallySome h
  | tallyEvery => exact keeps_execTallyEvery h
  | tallyMask => exact keeps_execTallyMask h
  | tallyCount => exact keeps_execTallyCount h
  | tallySame => exact keeps_execTallySame h
  | tallyLive => exact keeps_execTallyLive h
  | sortLoad => exact keeps_execSortLoad h
  | sortStore => exact keeps_execSortStore h
  | sortAtomic => exact keeps_execSortAtomic h
  | zline => exact keeps_execZline h
  | fenceAcq => exact keeps_execFenceAcq h
  | fenceRel => exact keeps_execFenceRel h
  | fenceAr => exact keeps_execFenceAr h
  | trap => exact keeps_execTrap h
  | lockAcq => exact keeps_execLockAcq h
  | lockTry => exact keeps_execLockTry h
  | lockRetry => exact keeps_execLockRetry h
  | lockTimeout => exact keeps_execLockTimeout h
  | lockRel => exact keeps_execLockRel h
  | meetWait => exact keeps_execMeetWait h
  | meetMark => exact keeps_execMeetMark h
  | barrierStranded => exact keeps_execBarrierStranded h
  | tile => exact keeps_execTile h
  | tileLoad => exact keeps_execTileLoad h
  | tileStore => exact keeps_execTileStore h
  | tileOpen => exact keeps_execTileOpen h
  | tileMma => exact keeps_execTileMma h
  | tileMmaS => exact keeps_execTileMmaS h
  | tileOut => exact keeps_execTileOut h
  | pressStageStart => exact keeps_execPressStageStart h
  | brayerChain => exact keeps_execBrayerChain h
  | slice => exact keeps_execSlice h
  | spread => exact keeps_execSpread h
  | update => exact keeps_execUpdate h
  | tileReadDone => exact keeps_execTileReadDone h
  | tileDone => exact keeps_execTileDone h
  | twaitRd => exact keeps_execTwaitRd h
  | twaitDone => exact keeps_execTwaitDone h
  | stickEnd => exact keeps_execStickEnd h
  | attemptEnd => exact keeps_execAttemptEnd h
  | swapComplete => exact keeps_execSwapComplete h
  | rangeWalk => exact keeps_execRangeWalk h
  | faultHoldExpiry => exact keeps_execFaultHoldExpiry h
  | faultReevaluate => exact keeps_execFaultReevaluate h
  | rangeInvalidation => exact keeps_execRangeInvalidation h
  | engineDrainDone => exact keeps_execEngineDrainDone h
  | invalidationAck => exact keeps_execInvalidationAck h
  | rdShared => exact keeps_execRdShared h
  | rdUnique => exact keeps_execRdUnique h
  | upgrade => exact keeps_execUpgrade h
  | ownNodata => exact keeps_execOwnNodata h
  | lockFill => exact keeps_execLockFill h
  | rdOnce => exact keeps_execRdOnce h
  | wrFull => exact keeps_execWrFull h
  | wrPart => exact keeps_execWrPart h
  | wbDirty => exact keeps_execWbDirty h
  | snpShared => exact keeps_execSnpShared h
  | snpInv => exact keeps_execSnpInv h
  | snpPeek => exact keeps_execSnpPeek h
  | snpClean => exact keeps_execSnpClean h
  | snpPush => exact keeps_execSnpPush h
  | data => exact keeps_execData h
  | fwd => exact keeps_execFwd h
  | snpData => exact keeps_execSnpData h
  | snpAck => exact keeps_execSnpAck h
  | snpNp => exact keeps_execSnpNp h
  | comp => exact keeps_execComp h
  | grantAck => exact keeps_execGrantAck h
  | snoopTimeout => exact keeps_execSnoopTimeout h
  | suspectProbe => exact keeps_execSuspectProbe h
  | streamTimeout => exact keeps_execStreamTimeout h
  | memoryRead => exact keeps_execMemoryRead h
  | memoryWrite => exact keeps_execMemoryWrite h
  | writeCrcError => exact keeps_execWriteCrcError h
  | byteLaneLoss => exact keeps_execByteLaneLoss h
  | byteLaneRecovered => exact keeps_execByteLaneRecovered h
  | refresh => exact keeps_execRefresh h
  | readRetrain stack pch => exact keeps_execReadRetrain (_stack := stack) (_pch := pch) h
  | refreshDouble => exact keeps_execRefreshDouble h
  | patrolScrub => exact keeps_execPatrolScrub h
  | innerCorrPoll => exact keeps_execInnerCorrPoll h
  | selfRefreshEntry => exact keeps_execSelfRefreshEntry h
  | stackQuiesce => exact keeps_execStackQuiesce h
  | repairStatusRead => exact keeps_execRepairStatusRead h
  | rowRepair => exact keeps_execRowRepair h
  | patternTest => exact keeps_execPatternTest h
  | stackRelease => exact keeps_execStackRelease h
  | testUnlock => exact keeps_execTestUnlock h
  | jtagInstruction => exact keeps_execJtagInstruction h
  | gutterLaneFail => exact keeps_execGutterLaneFail h
  | laneSwapDone => exact keeps_execLaneSwapDone h
  | gutterLinkLoss => exact keeps_execGutterLinkLoss h
  | governorTimerExpiry => exact keeps_execGovernorTimerExpiry h
  | caseSleepDone => exact keeps_execCaseSleepDone h
  | platenWakeDone => exact keeps_execPlatenWakeDone h
  | moduleIdleEntry => exact keeps_execModuleIdleEntry h
  | moduleWakeDone => exact keeps_execModuleWakeDone h
  | capLoopTick => exact keeps_execCapLoopTick h
  | thermalSensor => exact keeps_execThermalSensor h
  | thermalTrip => exact keeps_execThermalTrip h
  | inputUndervoltage => exact keeps_execInputUndervoltage h
  | runningPointStep => exact keeps_execRunningPointStep h
  | droopDetect => exact keeps_execDroopDetect h
  | meshLinkTrain => exact keeps_execMeshLinkTrain h
  | meshTrainRetry => exact keeps_execMeshTrainRetry h
  | gnidAnnounce => exact keeps_execGnidAnnounce h
  | meshPut => exact keeps_execMeshPut h
  | meshGet => exact keeps_execMeshGet h
  | meshTransit => exact keeps_execMeshTransit h
  | meshPacketAck => exact keeps_execMeshPacketAck h
  | meshAckTimeout => exact keeps_execMeshAckTimeout h
  | meshOrderTimeout => exact keeps_execMeshOrderTimeout h
  | meshLaneFail => exact keeps_execMeshLaneFail h
  | meshLinkLoss => exact keeps_execMeshLinkLoss h
  | linkStateNotice => exact keeps_execLinkStateNotice h
  | registrationExchange => exact keeps_execRegistrationExchange h
  | registrationLock => exact keeps_execRegistrationLock h
  | referenceLoss => exact keeps_execReferenceLoss h
  | sbFrameReceive => exact keeps_execSbFrameReceive h
  | sbStatus => exact keeps_execSbStatus h
  | sbPowerState => exact keeps_execSbPowerState h
  | sbCapSet => exact keeps_execSbCapSet h
  | sbTelemetry => exact keeps_execSbTelemetry h
  | sbJournal => exact keeps_execSbJournal h
  | sbColdReset => exact keeps_execSbColdReset h
  | sbWarmReset => exact keeps_execSbWarmReset h
  | sbFormeReset => exact keeps_execSbFormeReset h
  | snapshotExpiry => exact keeps_execSnapshotExpiry h
  | transmitOpportunity => exact keeps_execTransmitOpportunity h
  | invalidBeaconTimeout => exact keeps_execInvalidBeaconTimeout h
  | announce => exact keeps_execAnnounce h
  | powerOn => exact keeps_execPowerOn h
  | startupComplete => exact keeps_execStartupComplete h
  | pwrEnDeassert => exact keeps_execPwrEnDeassert h
  | supplyLoss => exact keeps_execSupplyLoss h
  | controlCoreHeartbeat => exact keeps_execControlCoreHeartbeat h
  | watchdogTimeout => exact keeps_execWatchdogTimeout h
  | controlCoreTakeover => exact keeps_execControlCoreTakeover h
  | retirement => exact keeps_execRetirement h
  | compositorALoss => exact keeps_execCompositorALoss h
  | journalCheckpoint => exact keeps_execJournalCheckpoint h
  | flashProgramDone => exact keeps_execFlashProgramDone h
  | coreAccess => exact keeps_execCoreAccess h
  | ncvt => exact keeps_execNcvt h
  | nscale => exact keeps_execNscale h
  | zlineL3 => exact keeps_execZlineL3 h
  | cwlLock => exact keeps_execCwlLock h
  | cwlUnlock => exact keeps_execCwlUnlock h
  | sbiIpi => exact keeps_execSbiIpi h
  | sbiRfence => exact keeps_execSbiRfence h
  | sbiHsm => exact keeps_execSbiHsm h
  | sbiSrst => exact keeps_execSbiSrst h
  | sbiEntropy => exact keeps_execSbiEntropy h
  | perstNRelease => exact keeps_execPerstNRelease h
  | hostReadCompletion => exact keeps_execHostReadCompletion h
  | meshRetrainDone => exact keeps_execMeshRetrainDone h
  | selfRefreshExit => exact keeps_execSelfRefreshExit h
  | inputLimitRelease => exact keeps_execInputLimitRelease h
  | thermalLimitTick => exact keeps_execThermalLimitTick h
  | droopRecovered => exact keeps_execDroopRecovered h
  | checkpointFlashWritten => exact keeps_execCheckpointFlashWritten h
  | controlCoreRejoin => exact keeps_execControlCoreRejoin h
  | beaconReceived => exact keeps_execBeaconReceived h
  | collision => exact keeps_execCollision h
  | csmaCdBackoffExpiry => exact keeps_execCsmaCdBackoffExpiry h

theorem answers_exec_or_fault (c : Instr) (s : State) : Answers s (exec c s) ∨
    ∃ mv ma, c = .powerMeterSample mv ma ∧ 72000 < mv ∧ exec c s = .fault .outsideRatings := by
  by_cases hc : ∀ mv ma, c = .powerMeterSample mv ma → mv ≤ 72000
  · exact .inl (answers_exec c hc (.refl s))
  · push Not at hc
    obtain ⟨mv, ma, rfl, hv⟩ := hc
    exact .inr ⟨mv, ma, rfl, hv, if_pos hv⟩

theorem consistent_exec {c : Instr} (hs : Consistent s) (e : exec c s = .next t) : Consistent t := by
  obtain ⟨u, hu, keeps⟩ | ⟨mv, ma, -, -, hf⟩ := answers_exec_or_fault c s
  · cases hu.symm.trans e
    exact keeps.consistent hs
  · cases hf.symm.trans e

theorem heldRow_rows {c : Instr} (e : heldRow s = some (c, t)) :
    ∃ rest, t = { s with journal := { s.journal with rows := rest } } := by
  unfold heldRow at e
  split at e
  · split at e
    · cases e
    · cases e
      exact ⟨_, rfl⟩
  · cases e

/-- Settles O60: every row's `Answers` lemma, and the one sample at which the model stops (log 12). -/
theorem commandsCompleteAndLeaveFusesStrapsAndQueue : Obligations.CommandsCompleteAndLeaveFusesStrapsAndQueue := by
  unfold Obligations.CommandsCompleteAndLeaveFusesStrapsAndQueue
  intro c s
  obtain ⟨t, e, keeps⟩ | stops := answers_exec_or_fault c s
  · exact .inl ⟨t, e, keeps.fixed⟩
  · exact .inr stops

/-- Settles O59: a step is a command of the queue, a change that the journal held, or an idle step, and each keeps the
invariant. -/
theorem everyStepKeepsTheInvariant : Obligations.EveryStepKeepsTheInvariant := by
  unfold Obligations.EveryStepKeepsTheInvariant
  intro s t hs e
  unfold step at e
  split at e
  next c rest _ => exact consistent_exec (s := { s with pending := rest }) hs e
  next =>
    split at e
    next c u held =>
      obtain ⟨rest, rfl⟩ := heldRow_rows held
      exact consistent_exec (s := { s with journal := { s.journal with rows := rest } }) hs e
    next =>
      cases e
      exact (keeps_idle (.refl s)).consistent hs

end Sys2Proof.Machine
end

section
/-! PROOFS. What a step is: the command at the front of the queue, a change that the journal held, or an idle step; and that
an idle step where nothing waits is the tick alone (15 R527; 14 R488, R491). -/

namespace Sys2Proof.Machine

open Sys2Proof

theorem step_of_pending {s : State} {c : Instr} {q : List Instr} (h : s.pending = c :: q) :
    step s = exec c { s with pending := q } := by
  simp only [step, h]

theorem step_of_heldRow {s t : State} {c : Instr} (h : s.pending = []) (held : heldRow s = some (c, t)) :
    step s = exec c t := by
  simp only [step, h, held]

theorem step_of_idle {s : State} (h : s.pending = []) (held : heldRow s = none) : step s = .next s.idle := by
  simp only [step, h, held]

theorem heldRow_cons {s : State} {c : Instr} {rest : List Instr} (h : s.journal.rows = c :: rest)
    (open_ : journalHeld s = false) : heldRow s = some (c, { s with journal := { s.journal with rows := rest } }) := by
  simp only [heldRow, h, open_, Bool.false_eq_true, if_false]

theorem heldRow_none {s : State} (h : s.journal.rows = [] ∨ journalHeld s = true) : heldRow s = none := by
  unfold heldRow
  split
  next c rest e =>
    have held : journalHeld s = true := h.resolve_left (by simp [e])
    exact if_pos held
  next => rfl

theorem idle_unpowered {s : State} (h : s.phase = .off ∨ s.phase = .lost) : s.idle = s := by
  unfold State.idle
  obtain h | h := h <;> rw [h]

theorem idle_powered {s : State} (hoff : s.phase ≠ .off) (hlost : s.phase ≠ .lost) :
    s.idle = orphanSteps (serveHomes (timerStep (meshTick s.tick))) := by
  unfold State.idle
  split
  next h => exact absurd h hoff
  next h => exact absurd h hlost
  next => rfl

/-! ## Where nothing waits, each part of an idle step leaves the state -/

theorem pumpPort_empty {s : State} {p : Nat} (h : (getMeshPort s p).queue = []) : pumpPort s p = s := by
  simp only [pumpPort, h, List.length_nil, pump, ite_self]

theorem meshTickPort_empty {s : State} {p : Nat} (hq : (getMeshPort s p).queue = []) (hr : (getMeshPort s p).replay = []) :
    meshTickPort s p = s := by
  simp only [meshTickPort, hr, List.isEmpty_nil, if_true, pumpPort_empty hq]

theorem meshTick_empty {s : State} (hp : ∀ p, p < 6 → (getMeshPort s p).queue = [] ∧ (getMeshPort s p).replay = [])
    (hf : s.gut.flights = []) : meshTick s = s := by
  have ports : ∀ l : List Nat, (∀ p ∈ l, p < 6) → l.foldl meshTickPort s = s := by
    intro l hl
    induction l with
    | nil => rfl
    | cons p l ih =>
      have ⟨hq, hr⟩ := hp p (hl p (List.mem_cons_self ..))
      rw [List.foldl_cons, meshTickPort_empty hq hr]
      exact ih fun p hmem => hl p (List.mem_cons_of_mem _ hmem)
  simp only [meshTick, ports (List.range 6) fun p => List.mem_range.mp, serveTransits, hf, List.length_nil, serveTransitsFor]

theorem timerStep_sleeping {s : State}
    (h : ∀ x ∈ s.harts, timerWakes s x.2 = false ∨ (x.2.wrs = false ∧ x.2.st ≠ .suspended)) : timerStep s = s := by
  have stays : ∀ x ∈ s.harts, (x.1, if timerWakes s x.2 && (x.2.wrs || x.2.st == .suspended) then x.2.goOn x.1 else x.2) =
      x := by
    intro x hx
    obtain asleep | ⟨hwrs, hst⟩ := h x hx
    · simp [asleep]
    · simp [hwrs, hst]
  simp only [timerStep, List.map_congr_left stays, List.map_id']

theorem serveHomes_empty {s : State} (hf : s.gut.flights = []) (hh : s.gut.atHome = []) (ht : s.txns = []) :
    serveHomes s = s := by
  simp only [serveHomes, hf, hh, ht, List.length_nil, Nat.add_zero, serveHomesFor, ite_self]

theorem orphanSteps_none {s : State} (h : ∀ x ∈ s.formes, x.2.orphans = []) : orphanSteps s = s := by
  have all : ∀ l : SMap Forme, (∀ x ∈ l, x.2.orphans = []) → l.foldl orphanStep s = s := by
    intro l hl
    induction l with
    | nil => rfl
    | cons x l ih =>
      have none_left : orphanStep s x = s := by
        simp [orphanStep, hl x (List.mem_cons_self ..)]
      rw [List.foldl_cons, none_left]
      exact ih fun x hx => hl x (List.mem_cons_of_mem _ hx)
  exact all s.formes h

/-- Settles O57: the three cases of `step`; in the third, an idle step's parts one after another. -/
theorem stepRunsTheFrontCommand : Obligations.StepRunsTheFrontCommand := by
  unfold Obligations.StepRunsTheFrontCommand
  refine ⟨fun c q s h => step_of_pending h, fun c rest s h hr open_ => step_of_heldRow h (heldRow_cons hr open_),
    fun s h hr => ?_⟩
  have idles := step_of_idle h (heldRow_none hr)
  refine ⟨fun off => idles.trans (by rw [idle_unpowered off]), fun hoff hlost => ?_⟩
  have parts := idles.trans (congrArg _ (idle_powered hoff hlost))
  refine ⟨parts, fun hf hh ht hp harts orphans => parts.trans (congrArg _ ?_)⟩
  rw [meshTick_empty (s := s.tick) hp hf, timerStep_sleeping (s := s.tick) harts, serveHomes_empty (s := s.tick) hf hh ht,
    orphanSteps_none (s := s.tick) orphans]
  rfl

end Sys2Proof.Machine
end

section
/-! PROOFS. The chain of the journal's entries (15 R526, R528). -/

namespace Sys2Proof.Machine

open Sys2Proof

/-- An entry as it is written: with its number, the time and the chain value before it. -/
def chained (s : State) (e : JEntry) : JEntry :=
  { e with number := s.journal.next, time := s.now, prev := s.journal.chain % 2 ^ 64 }

theorem journalPut_head (s : State) (e : JEntry) : (journalPut s e).journal.entries.head? = some (chained s e) := by
  have newest := journalPut_newest s e
  cases h : (journalPut s e).journal.entries with
  | nil => simp [h] at newest
  | cons x l =>
    rw [h] at newest
    exact congrArg List.head? newest

theorem journalPut_chain (s : State) (e : JEntry) :
    (journalPut s e).journal.chain = ofBytes (sha256 (toBytes 32 s.journal.chain ++ (chained s e).pack)) := by
  unfold journalPut
  exact noticed (P := fun v => v.journal.chain = _) _ rfl (fun _ => rfl)

theorem toBytes_zero (n : Nat) : toBytes n 0 = List.replicate n 0#8 := by
  induction n with
  | zero => rfl
  | succ n ih => exact congrArg (List.cons 0#8) ih

/-- Settles O56: what `journalPut` writes, and the chain value that a power-up resumes (R528). -/
theorem journalEntriesAreChained : Obligations.JournalEntriesAreChained := by
  unfold Obligations.JournalEntriesAreChained
  refine ⟨fun s e => ⟨chained s e, journalPut_head s e, rfl, entry_length _, journalPut_chain s e, journalPut_next s e⟩,
    fun s => (have ⟨_, _, kept, _⟩ := coldReset_keeps s; kept), fun s hoff hrail lo hi => ⟨tryPower (pwrEnWaits s), ?_, fun starts => ?_⟩⟩
  · exact (execPowerOn_off hoff hrail).trans (by rw [inRange_of lo hi, if_pos rfl])
  · have phase := (tryPower_phase (pwrEnWaits s) hoff).symm.trans starts
    have outcome := tryPower_outcome (pwrEnWaits s) hoff rfl
    have good : Config.freeBool (pwrEnWaits s).free = true := by
      cases h : Config.freeBool (pwrEnWaits s).free with
      | true => rfl
      | false => rw [h] at phase; cases phase
    rw [if_pos good] at outcome
    obtain ⟨-, -, -, -, -, -, -, -, -, -, -, -, -, -, -, -, first, again⟩ := outcome
    refine ⟨fun begun => ?_, again⟩
    obtain ⟨next, chain⟩ := first begun
    exact ⟨next, by rw [chain, toBytes_zero]⟩

end Sys2Proof.Machine
end

section
/-! PROOFS. The test port: what each operation of it does under test unlock, and that it refuses otherwise (15 R519, R524, R527;
08 R282; 19 R612). -/

namespace Sys2Proof.Machine

open Sys2Proof

variable {s : State} {k : Nat}

/-! ## Test unlock and the boundary-scan instructions -/

/-- What test unlock asks for, but for a place in the journal. -/
def unlockAllowed (s : State) (token : List Byte) : Prop :=
  s.sec.grade = 2 ∧ s.pins.tunlkAtReset = true ∧ s.formes = [] ∧
    Config.tokenValid s.sec.rootDigest token s.sec.serial = true

theorem execTestUnlock_refuses {token : List Byte} (h : ¬ unlockAllowed s token) :
    execTestUnlock token s = .next (jtagRefused s) := by
  refine if_neg fun c => h ?_
  simp only [Bool.and_eq_true, beq_iff_eq, List.isEmpty_iff] at c
  obtain ⟨⟨⟨⟨⟨-, grade⟩, pin⟩, none_left⟩, -⟩, valid⟩ := c
  exact ⟨grade, pin, none_left, valid⟩

/-- With all of it in place the journal alone decides whether the unlock is made now. -/
theorem execTestUnlock_allowed {token : List Byte} (hp : s.powered = true) (h : unlockAllowed s token)
    (room : s.journal.full = false) : execTestUnlock token s =
      if journalHeld s then .next (holdRow s (.testUnlock token)) else
      .next (jtagDone { testEntry s 0 with
        sec := { (testEntry s 0).sec with unlocked := true, unlocks := satAdd 255 (testEntry s 0).sec.unlocks 1 } }) := by
  obtain ⟨grade, pin, none_left, valid⟩ := h
  refine if_pos ?_
  simp [hp, grade, pin, none_left, valid, room]

theorem testEntry_frame (s : State) (step : Nat) : JournalOnly s.drawn (testEntry s step) := journalWrite_frame ..

theorem testEntry_sec (s : State) (step : Nat) : (testEntry s step).sec = s.sec := by rw [testEntry_frame s step]; rfl

theorem testEntry_stackTab (s : State) (step : Nat) : (testEntry s step).stackTab = s.stackTab := by
  rw [testEntry_frame s step]; rfl

theorem testEntry_mem (s : State) (step : Nat) : (testEntry s step).mem = s.mem := by rw [testEntry_frame s step]; rfl

/-! ## Quiesce -/

/-- A stack at whose home nothing waits leaves self-refresh, and nothing else changes. -/
theorem drainStack_empty (h : (getStack s k).pchs = []) :
    drainStack s k = if (getStack s k).selfRefresh then modStack s k (fun x => { x with selfRefresh := false }) else s := by
  have awake : (getStack (modStack s k fun x => { x with selfRefresh := false }) k).pchs = [] :=
    (getStack_modStack_keeps s k k Stack.awake (·.pchs) fun _ => rfl).trans h
  have idle {u : State} (hu : (getStack u k).pchs = []) : waitingPchs u k none = [] := by rw [waitingPchs, hu]; rfl
  unfold drainStack wakeStack
  simp only [h, List.map_nil, List.foldl_nil]
  split
  · simp only [idle awake, List.foldl_nil]
  · simp only [idle h, List.foldl_nil]

theorem execStackQuiesce_refuses (h : s.sec.unlocked = false ∨ formeOfStack s k ≠ none) :
    execStackQuiesce k s = .next (jtagRefused s) := by
  refine if_neg fun c => ?_
  simp only [Bool.and_eq_true, Option.isNone_iff_eq_none] at c
  obtain ⟨⟨-, unlocked⟩, free⟩ := c
  obtain h | h := h
  · simp [h] at unlocked
  · exact h free

theorem execStackQuiesce_quiesces (hp : s.powered = true) (hu : s.sec.unlocked = true) (hf : formeOfStack s k = none)
    (h : (getStack s k).pchs = []) : execStackQuiesce k s = .next (jtagDone (forgetStack
      (if (getStack s k).selfRefresh then modStack s k (fun x => { x with selfRefresh := false }) else s) k)) := by
  have on : (drainStack s k).powered = true := by
    rw [drainStack_empty h]
    split
    · exact hp
    · exact hp
  rw [← drainStack_empty h]
  have allowed : (s.powered && s.sec.unlocked && (formeOfStack s k).isNone) = true := by simp [hp, hu, hf]
  exact (if_pos allowed).trans (congrArg _ (if_pos on))

/-! ## Row repair -/

theorem execRepairStatusRead_open (h : repairOpen s k = true) : execRepairStatusRead k s =
    if journalHeld s then .next (holdRow s (.repairStatusRead k)) else
    .next (jtagDone (testEntry (setJtag s (fun j =>
      { j with hardLeft := leftOf (getStack s k) true, softLeft := leftOf (getStack s k) false })) 3)) := if_pos h

theorem execRowRepair_open {row : RowId} {hard : Bool} (h : repairOpen s k = true) (room : s.journal.full = false)
    (left : hasResource (getStack s k) row hard = true) : execRowRepair k row hard s =
      if journalHeld s then .next (holdRow s (.rowRepair k row hard)) else
      .next (jtagDone (modStack (testEntry s 4) k (fun x =>
        { x with repairs := x.repairs ++ [{ row := row, hard := hard, failed := false }] }))) := by
  refine if_pos ?_
  simp [h, room, left]

theorem execPatternTest_open {row : RowId} {fails : Bool} (h : repairOpen s k = true)
    (tested : ∃ x ∈ (getStack s k).repairs, x.row = row) : execPatternTest k row fails s =
      if journalHeld s then .next (holdRow s (.patternTest k row fails)) else
      .next (jtagDone (modStack (setJtag (testEntry s 5) (fun j => { j with tested := some (row, fails) })) k
        (fun x => { x with repairs := x.repairs.map (fun r => if r.row = row then { r with failed := fails } else r) }))) := by
  refine if_pos ?_
  obtain ⟨x, hx, hrow⟩ := tested
  simp only [h, Bool.true_and, List.any_eq_true, beq_iff_eq]
  exact ⟨x, hx, hrow⟩

theorem execStackRelease_open (h : repairOpen s k = true) (room : s.journal.full = false) : execStackRelease k s =
    if journalHeld s then .next (holdRow s (.stackRelease k)) else
    .next (jtagDone (modStack (zeroStack (testEntry s 6) k s.sec.lumizKeys) k
      (fun x => { x with quiesced := false }))) := by
  have allowed : (repairOpen s k && !s.journal.full) = true := by simp [h, room]
  exact if_pos allowed

theorem repairRows_refuse {row : RowId} {hard fails : Bool} (h : repairOpen s k = false) :
    execRepairStatusRead k s = .next (jtagRefused s) ∧ execRowRepair k row hard s = .next (jtagRefused s) ∧
      execPatternTest k row fails s = .next (jtagRefused s) ∧ execStackRelease k s = .next (jtagRefused s) := by
  refine ⟨if_neg ?_, if_neg ?_, if_neg ?_, if_neg ?_⟩ <;> simp [h]

theorem execRowRepair_used {row : RowId} {hard : Bool} (h : hasResource (getStack s k) row hard = false) :
    execRowRepair k row hard s = .next (jtagRefused s) := by
  refine if_neg ?_
  simp [h]

/-- A row repaired keeps what its pattern test found. -/
theorem patternTest_marks {st : Stack} {row : RowId} {fails : Bool} (hst : mapGet s.stackTab k = some st)
    (h : repairOpen s k = true) (held : journalHeld s = false) (tested : ∃ x ∈ st.repairs, x.row = row) :
    ∃ t, execPatternTest k row fails s = .next t ∧ t.jtag.accepted = true ∧ t.jtag.tested = some (row, fails) ∧
      (getStack t k).repairs = st.repairs.map (fun r => if r.row = row then { r with failed := fails } else r) := by
  have tested' : ∃ x ∈ (getStack s k).repairs, x.row = row := by rwa [getStack_of_mapGet hst]
  refine ⟨_, (execPatternTest_open h tested').trans (if_neg (by simp [held])), rfl, rfl, ?_⟩
  have there : mapGet (setJtag (testEntry s 5) (fun j => { j with tested := some (row, fails) })).stackTab k = some st := by
    rw [setJtag_stackTab, testEntry_stackTab]
    exact hst
  exact congrArg Stack.repairs (getStack_modStack_self _ k _ st there)

/-- A stack given back holds zeros under Lumiz's keys. -/
theorem stackRelease_zeroes {st : Stack} (hst : mapGet s.stackTab k = some st) (h : repairOpen s k = true)
    (held : journalHeld s = false) (room : s.journal.full = false) :
    ∃ t, execStackRelease k s = .next t ∧ t.jtag.accepted = true ∧ (getStack t k).quiesced = false ∧
      (getStack t k).keySet = s.sec.lumizKeys ∧ t.mem = s.mem.filter (fun c => !stackBytes k c.1) := by
  let zeroed : Stack := { st with
    keySet := s.sec.lumizKeys, pchs := st.pchs.map (fun kv => (kv.1, { kv.2 with replay := [] })) }
  have there : mapGet (testEntry s 6).stackTab k = some st := by rw [testEntry_stackTab]; exact hst
  have zeroes : mapGet (zeroStack (testEntry s 6) k s.sec.lumizKeys).stackTab k = some zeroed :=
    (mapGet_mapMod_self ..).trans (congrArg _ there)
  have final : getStack (modStack (zeroStack (testEntry s 6) k s.sec.lumizKeys) k
      (fun x => { x with quiesced := false })) k = { zeroed with quiesced := false } := getStack_modStack_self _ k _ zeroed zeroes
  refine ⟨_, (execStackRelease_open h room).trans (if_neg (by simp [held])), rfl, congrArg Stack.quiesced final,
    congrArg Stack.keySet final, ?_⟩
  exact congrArg (List.filter fun c => !stackBytes k c.1) (testEntry_mem s 6)

/-! ## The obligation -/

/-- Settles O13: test unlock and the instructions by their conditions, the test controller's rows by `repairOpen`. -/
theorem testPortWorksOnlyUnderUnlock : Obligations.TestPortWorksOnlyUnderUnlock := by
  unfold Obligations.TestPortWorksOnlyUnderUnlock
  refine ⟨fun token k cells s => ⟨fun hp grade pin free room valid => ?unlock, fun lacks => ?locked,
      fun hp hu hf hk => ?quiesce, fun h => execStackQuiesce_refuses h, rfl, rfl, ?sample, ?extest, fun h => if_pos h,
      fun h => if_neg (by simp [h])⟩,
    fun k row hard fails s st hst => ⟨fun open_ held => ?held, fun open_ held => ?done,
      fun closed => repairRows_refuse closed, fun used => ?used⟩⟩
  case unlock =>
    have made := execTestUnlock_allowed hp ⟨grade, pin, free, valid⟩ room
    refine ⟨fun held => made.trans (if_pos held), fun held => ⟨_, made.trans (if_neg (by simp [held])), ?_, rfl⟩⟩
    exact congrArg (fun c : Sec => { c with unlocked := true, unlocks := satAdd 255 c.unlocks 1 }) (testEntry_sec s 0)
  case locked =>
    refine execTestUnlock_refuses fun ⟨grade, pin, free, valid⟩ => ?_
    obtain h | h | h | h := lacks
    · exact h grade
    · exact Bool.false_ne_true (h.symm.trans pin)
    · exact h free
    · exact Bool.false_ne_true (h.symm.trans valid)
  case quiesce =>
    refine (execStackQuiesce_quiesces hp hu hf hk).trans ?_
    split
    · rfl
    · rfl
  case sample => exact congrArg Host.Outcome.next (by simp only [jtagDone, setJtag, capturePins])
  case extest => exact congrArg Host.Outcome.next (by simp only [jtagDone, setJtag, capturePins])
  case held =>
    rw [← getStack_of_mapGet hst]
    exact ⟨(execRepairStatusRead_open open_).trans (if_pos held),
      fun room left => (execRowRepair_open open_ room left).trans (if_pos held),
      fun tested => (execPatternTest_open open_ tested).trans (if_pos held),
      fun room => (execStackRelease_open open_ room).trans (if_pos held)⟩
  case done =>
    have now : ¬ journalHeld s = true := by simp [held]
    refine ⟨?_, fun room left => ?_, patternTest_marks hst open_ held, stackRelease_zeroes hst open_ held⟩
    · rw [← getStack_of_mapGet hst]
      exact (execRepairStatusRead_open open_).trans (if_neg now)
    · rw [← getStack_of_mapGet hst] at left
      exact (execRowRepair_open open_ room left).trans (if_neg now)
  case used =>
    rw [← getStack_of_mapGet hst] at used
    exact execRowRepair_used used

end Sys2Proof.Machine
end

section
/-! PROOFS. A checkpoint that is due while the BOOT entry still is: its pieces come behind the BOOT entry, and the flash is
marked as begun (15 R527, R528). -/

namespace Sys2Proof.Machine

open Sys2Proof

/-- Flash in which the journal has begun stays marked so. -/
theorem journalWrite_begun {s : State} (e : JEntry) (h : s.flash.journalBegun = true) :
    (journalWrite s e).flash.journalBegun = true := by
  rw [journalWrite_flash, begunFlash, h]
  rfl

/-- A node whose BOOT entry is due, and with it checkpoint 1, with flash in which no journal has begun. -/
def dueUnbooted : State := { State.reset with journal := { State.reset.journal with due := some (1, 0) } }

/-- Writing the checkpoint's pieces begins with the BOOT entry, which marks the flash; the further pieces leave the mark. -/
theorem checkpointPieces_begin {s : State} (k : Nat) (sig : List Byte) (h : s.journal.bootDue = true) :
    ((List.range 12).foldl (checkpointPiece k sig) s).flash.journalBegun = true := by
  have first : (checkpointPiece k sig s 0).flash.journalBegun = true := by
    rw [checkpointPiece, journalWrite_flash, begunFlash, h]
    exact Bool.or_true _
  have pieces : List.range 12 = 0 :: List.range' 1 11 := rfl
  rw [pieces, List.foldl_cons]
  exact List.foldlRecOn (motive := fun t => t.flash.journalBegun = true) (List.range' 1 11) (checkpointPiece k sig) first
    fun t ht j _ => journalWrite_begun _ ht

theorem journalCheckpoint_dueUnbooted : ∃ t, exec .journalCheckpoint dueUnbooted = .next t ∧
    t.flash.journalBegun = true :=
  ⟨_, rfl, checkpointPieces_begin _ _ rfl⟩

/-- Refutes O52: with the BOOT entry due and the flash not marked as begun, writing checkpoint 1 marks it, where the flash
should stay as it was. -/
theorem not_coresFailNodesRetireCheckpointsAreKept : ¬ Obligations.CoresFailNodesRetireCheckpointsAreKept := by
  unfold Obligations.CoresFailNodesRetireCheckpointsAreKept
  intro h
  obtain ⟨-, -, -, checkpoints⟩ := h
  obtain ⟨written, -⟩ := checkpoints 1 0 dueUnbooted rfl
  obtain ⟨t, ht, -, kept, -⟩ := written rfl rfl
  obtain ⟨u, hu, begun⟩ := journalCheckpoint_dueUnbooted
  cases hu.symm.trans ht
  rw [kept] at begun
  cases begun

end Sys2Proof.Machine
end

section
/-! PROOFS. What the governor and the limits do to a Platen, and what they leave alone (16 R546 to R552). -/

namespace Sys2Proof.Machine

open Sys2Proof

variable {s t u : State} {p q : Nat} {x : PlatenPower}

theorem getPlaten_of_mapGet (h : mapGet s.platens p = some x) : getPlaten s p = x := by
  rw [getPlaten, mapGetD, h]
  rfl

theorem mapGet_setPower_ne (g : PlatenPower → PlatenPower) (h : q ≠ p) :
    mapGet (setPower s p g).platens q = mapGet s.platens q := by
  change mapGet (mapMod (account s p).platens p g) q = _
  rw [mapGet_mapMod_ne _ _ h, account_platens, mapGet_mapMod_ne _ _ h]

/-! ## The governor -/

/-- All of a Platen but its target, its rail and the time up to which its counters stand. -/
def Governed (x y : PlatenPower) : Prop := y = { x with target := y.target, volt := y.volt, since := y.since }

theorem Governed.refl (x : PlatenPower) : Governed x x := rfl

/-- Where the governor leaves a Platen's target. -/
def governTarget (x : PlatenPower) : Option Nat := if x.state == .s0 && x.target.isNone then nextStep x else x.target

theorem govern_at (h : mapGet s.platens p = some x) : ∃ y, mapGet (govern s p).platens p = some y ∧ Governed x y ∧
    y.target = governTarget x := by
  unfold govern governTarget
  rw [getPlaten_of_mapGet h]
  dsimp only
  split
  next idle =>
    split
    next stays =>
      have none_yet : x.target = none := by simp_all
      exact ⟨x, h, .refl x, none_yet.trans stays.symm⟩
    next k moves =>
      rw [mapGet_setPower, h]
      exact ⟨_, rfl, rfl, moves.symm⟩
  next => exact ⟨x, h, .refl x, rfl⟩

theorem govern_ne (h : q ≠ p) : mapGet (govern s p).platens q = mapGet s.platens q := by
  unfold govern
  dsimp only
  split
  · split
    · rfl
    · exact mapGet_setPower_ne _ h
  · rfl

theorem PowerOnly.govern (s : State) (p : Nat) : PowerOnly s (govern s p) := by
  unfold Machine.govern
  dsimp only
  split
  · split
    · exact .refl s
    · exact .setPower ..
  · exact .refl s

/-! ## A change of limits -/

theorem setLimits_at (f : Limits → Limits) (h : mapGet s.platens p = some x) :
    ∃ y, mapGet (setLimits s p f).platens p = some y ∧ Governed { x with limits := f x.limits } y := by
  have set : mapGet (setPower s p (fun y => { y with limits := f y.limits })).platens p =
      some { x with limits := f x.limits, since := s.now } := by rw [mapGet_setPower, h]; rfl
  obtain ⟨y, hy, only, -⟩ := govern_at set
  exact ⟨y, hy, only⟩

theorem setLimits_ne (f : Limits → Limits) (h : q ≠ p) : mapGet (setLimits s p f).platens q = mapGet s.platens q :=
  (govern_ne h).trans (mapGet_setPower_ne _ h)

theorem PowerOnly.setLimits (s : State) (p : Nat) (f : Limits → Limits) : PowerOnly s (setLimits s p f) :=
  (PowerOnly.setPower ..).trans (.govern ..)

/-! ## Several Platens in turn -/

/-- An operation on each Platen of a list that names it once is made on it once. -/
theorem foldl_platens {op : State → Nat → State} {P : PlatenPower → PlatenPower → Prop}
    (at_ : ∀ s p x, mapGet s.platens p = some x → ∃ y, mapGet (op s p).platens p = some y ∧ P x y)
    (other : ∀ s p q, q ≠ p → mapGet (op s p).platens q = mapGet s.platens q) {l : List Nat} (once : l.Nodup)
    (hp : p ∈ l) (h : mapGet s.platens p = some x) : ∃ y, mapGet (l.foldl op s).platens p = some y ∧ P x y := by
  have kept : ∀ (l : List Nat) (s : State), p ∉ l → mapGet (l.foldl op s).platens p = mapGet s.platens p := by
    intro l s hnot
    refine List.foldlRecOn (motive := fun t => mapGet t.platens p = mapGet s.platens p) l op rfl fun t ht k hk => ?_
    exact (other t k p fun e => hnot (e ▸ hk)).trans ht
  induction l generalizing s with
  | nil => cases hp
  | cons k l ih =>
    obtain ⟨hnot, once⟩ := List.nodup_cons.mp once
    rw [List.foldl_cons]
    by_cases e : p = k
    · subst e
      rw [kept l _ hnot]
      exact at_ s p x h
    · exact ih once ((List.mem_cons.mp hp).resolve_left e) ((other s k p e).trans h)

theorem runningPlatens_nodup (s : State) : (runningPlatens s).Nodup := List.nodup_range.filter _

theorem mem_runningPlatens (hp : p < 6) (h : mapGet s.platens p = some x) (hx : x.state = .s0) :
    p ∈ runningPlatens s := by
  simp [runningPlatens, hp, getPlaten_of_mapGet h, hx]

end Sys2Proof.Machine
end

section
/-! PROOFS. The power meter, the cap loop, the thermal steps, the input limit, droop and a step that has settled (16 R546 to
R556, Table 16.8). -/

namespace Sys2Proof.Machine

open Sys2Proof

variable {s t : State} {p : Nat} {x : PlatenPower}

/-! ## The power meter -/

/-- The latest samples in milliwatts, a new one first. -/
def samplesWith (s : State) (mv ma : Nat) : List Nat := (mv * ma / 1000 :: s.meter.samples).take 1000

/-- Ten fresh samples, a new one among them, over the limit. -/
def overLimit (s : State) (mv ma : Nat) : Bool :=
  decide (min 10 (s.meter.fresh + 1) = 10) && decide (sumOf ((samplesWith s mv ma).take 10) > 34000000)

theorem overLimit_eq (s : State) (mv ma : Nat) : overLimit s mv ma =
    (decide (9 ≤ s.meter.fresh) && decide (sumOf ((samplesWith s mv ma).take 10) > 34000000)) := by
  have ten : decide (min 10 (s.meter.fresh + 1) = 10) = decide (9 ≤ s.meter.fresh) := by
    rw [decide_eq_decide]
    omega
  rw [overLimit, ten]

/-- The state whose meter has taken a sample. -/
def sampled (s : State) (mv ma : Nat) : State :=
  { s with meter := { s.meter with
      millivolts := mv, milliamps := ma, samples := samplesWith s mv ma
      fresh := if overLimit s mv ma then 0 else min 10 (s.meter.fresh + 1)
      mean := s.meter.mean.sample s.now (mv * ma / 1000) } }

theorem fastDrop_at (s : State) (p : Nat) (x : PlatenPower) (h : mapGet s.platens p = some x) :
    ∃ y, mapGet (fastDrop s p).platens p = some y ∧ y.step = x.step - 2 ∧ y.volt = voltOf (x.step - 2) ∧
      y.limits.fast = x.step - 2 ∧ y.target = none := by
  unfold fastDrop
  rw [mapGet_setPower, h]
  exact ⟨_, rfl, rfl, rfl, rfl, rfl⟩

theorem PowerOnly.fastDrops (l : List Nat) (s : State) : PowerOnly s (l.foldl fastDrop s) :=
  List.foldlRecOn (motive := PowerOnly s) l _ (.refl s) fun _ ht _ _ => ht.trans (.setPower ..)

/-- A supplied node with PWR_EN asserted goes on at whatever voltage the meter reads. -/
theorem readPwrEn_on (hoff : s.phase ≠ .off) (hen : s.pins.pwrEn = true) : readPwrEn s = s := by
  simp [readPwrEn, hoff, hen]

/-- With PWR_EN released an input in range turns the supply off. -/
theorem readPwrEn_released (hoff : s.phase ≠ .off) (hen : s.pins.pwrEn = false) (hr : inRange s.meter.millivolts = true) :
    readPwrEn s = supplyOff s := by
  simp [readPwrEn, hoff, hen, hr]

theorem execPowerMeterSample_on {mv ma : Nat} (hoff : s.phase ≠ .off) (hlost : s.phase ≠ .lost) (hen : s.pins.pwrEn = true)
    (hmv : mv ≤ 72000) : execPowerMeterSample mv ma s = .next (meterSample (voltageRead s mv) mv ma) := by
  unfold execPowerMeterSample
  rw [if_neg (Nat.not_lt.mpr hmv)]
  have read : readPwrEn (voltageRead s mv) = voltageRead s mv := readPwrEn_on hoff hen
  change Host.Outcome.next (if (readPwrEn (voltageRead s mv)).phase == .off || (readPwrEn (voltageRead s mv)).phase == .lost
    then readPwrEn (voltageRead s mv) else meterSample (readPwrEn (voltageRead s mv)) mv ma) = _
  rw [read]
  have runs : ¬ (s.phase == .off || s.phase == .lost) = true := by simp [hoff, hlost]
  exact congrArg _ (if_neg runs)

theorem execPowerMeterSample_released {mv ma : Nat} (hoff : s.phase ≠ .off) (hen : s.pins.pwrEn = false) (lo : 44000 ≤ mv)
    (hi : mv ≤ 58000) : execPowerMeterSample mv ma s = .next (supplyOff (voltageRead s mv)) := by
  unfold execPowerMeterSample
  rw [if_neg (by omega)]
  have read : readPwrEn (voltageRead s mv) = supplyOff (voltageRead s mv) := readPwrEn_released hoff hen (inRange_of lo hi)
  change Host.Outcome.next (if (readPwrEn (voltageRead s mv)).phase == .off || (readPwrEn (voltageRead s mv)).phase == .lost
    then readPwrEn (voltageRead s mv) else meterSample (readPwrEn (voltageRead s mv)) mv ma) = _
  rw [read]
  rfl

theorem meterSample_eq (mv ma : Nat) : meterSample s mv ma = if overLimit s mv ma then
    (runningPlatens (sampled s mv ma)).foldl fastDrop (sampled s mv ma) else sampled s mv ma := rfl

theorem meterSample_meter (mv ma : Nat) : (meterSample s mv ma).meter = (sampled s mv ma).meter := by
  rw [meterSample_eq]
  split
  · rw [(PowerOnly.fastDrops _ _).1]
  · rfl

theorem meterSample_drops {mv ma : Nat} (high : overLimit s mv ma = true) (hp : p < 6) (h : mapGet s.platens p = some x)
    (hx : x.state = .s0) : ∃ y, mapGet (meterSample s mv ma).platens p = some y ∧ y.step = x.step - 2 ∧
      y.volt = voltOf (x.step - 2) ∧ y.limits.fast = x.step - 2 ∧ y.target = none := by
  rw [meterSample_eq, if_pos high]
  exact foldl_platens (P := fun x y => y.step = x.step - 2 ∧ y.volt = voltOf (x.step - 2) ∧ y.limits.fast = x.step - 2 ∧
    y.target = none) fastDrop_at (fun _ _ _ ne => mapGet_setPower_ne _ ne) (runningPlatens_nodup _)
    (mem_runningPlatens (s := sampled s mv ma) hp h hx) h

/-! ## The cap loop -/

/-- What a tick of the cap loop leaves alone before its last step: the module's cap, what it watches and the time. -/
def CapKept (s t : State) : Prop :=
  t.moduleCap = s.moduleCap ∧ t.groupsRunning = s.groupsRunning ∧ t.now = s.now ∧ t.meter = s.meter

namespace CapKept

theorem refl (s : State) : CapKept s s := ⟨rfl, rfl, rfl, rfl⟩

theorem trans {u : State} (h : CapKept s t) (k : CapKept t u) : CapKept s u := by
  obtain ⟨cap, groups, now, meter⟩ := h
  obtain ⟨cap', groups', now', meter'⟩ := k
  exact ⟨cap'.trans cap, groups'.trans groups, now'.trans now, meter'.trans meter⟩

theorem of_powerOnly (h : PowerOnly s t) : CapKept s t := by
  rw [h.1]
  exact ⟨rfl, rfl, rfl, rfl⟩

theorem foldl {α : Type} {f : State → α → State} (hf : ∀ s a, CapKept s (f s a)) (l : List α) (s : State) :
    CapKept s (l.foldl f s) :=
  List.foldlRecOn (motive := CapKept s) l f (refl s) fun _ ht a _ => ht.trans (hf _ a)

theorem setLimits (s : State) (p : Nat) (f : Limits → Limits) : CapKept s (setLimits s p f) := of_powerOnly (.setLimits ..)

theorem limitsOver (s : State) (p : Nat) : CapKept s (droopOver (fastOver s p) p) := by
  have fast : CapKept s (fastOver s p) := by
    unfold fastOver
    dsimp only
    split
    · exact setLimits ..
    · exact refl s
  refine fast.trans ?_
  unfold droopOver
  dsimp only
  split
  · exact setLimits ..
  · exact refl _

theorem slowGroups (c : CapScope) (gs : List Nat) (s : State) : CapKept s (gs.foldl (slowGroup c) s) :=
  foldl (fun s g => (⟨rfl, rfl, rfl, rfl⟩ : CapKept s (slowGroup c s g))) gs s

theorem capDown (c : CapScope) (s : State) (ps gs : List Nat) : CapKept s (capDown c s ps gs) := by
  unfold Machine.capDown
  dsimp only
  split
  · exact slowGroups ..
  · split
    · exact slowGroups ..
    · exact setLimits ..

theorem formeUp (f : Nat) (s : State) (ps gs : List Nat) : CapKept s (capUp (.forme f) s ps gs) := by
  unfold capUp
  split
  · exact ⟨rfl, rfl, rfl, rfl⟩
  · exact trans (t := modForme s.drawn f (fun x => { x with capRaised := s.now })) ⟨rfl, rfl, rfl, rfl⟩ (setLimits ..)
  · exact refl s

theorem formeTick (ws : List Nat) (s : State) (kv : Nat × Forme) : CapKept s (formeTick ws s kv) := by
  unfold Machine.formeTick
  dsimp only
  split
  · exact capDown ..
  · split
    · exact formeUp ..
    · exact refl s

end CapKept

theorem execCapLoopTick_powered {w : Nat} {ws : List Nat} (hp : s.powered = true) :
    let u := (List.range 6).foldl (fun s p => droopOver (fastOver s p) p) s
    let d := if s.moduleCap < w then capDown .module u (List.range 6) s.groupsRunning else u
    let f := d.formes.foldl (formeTick ws) d
    execCapLoopTick w ws s = .next (if w + 50 ≤ s.moduleCap ∧ s.meter.raised + 1000000 ≤ s.now then
      capUp .module f (List.range 6) s.groupsRunning else f) := by
  intro u d f
  have first : CapKept s u := .foldl CapKept.limitsOver ..
  have second : CapKept s d := by
    unfold d
    split
    · exact first.trans (.capDown ..)
    · exact first
  obtain ⟨cap, groups, now, meter⟩ := second.trans (.foldl (CapKept.formeTick ws) d.formes d)
  obtain ⟨ucap, ugroups, -, -⟩ := first
  unfold execCapLoopTick
  rw [if_neg (by simp [hp])]
  change Host.Outcome.next (if capSlack w (List.foldl (formeTick ws) (if u.moduleCap < w then
    capDown .module u (List.range 6) u.groupsRunning else u) (if u.moduleCap < w then
      capDown .module u (List.range 6) u.groupsRunning else u).formes).moduleCap && _ then _ else _) = _
  rw [ucap, ugroups]
  change Host.Outcome.next (if capSlack w f.moduleCap && decide (f.meter.raised + 1000000 ≤ f.now) then
    capUp .module f (List.range 6) f.groupsRunning else f) = _
  rw [show f.moduleCap = s.moduleCap from cap, show f.groupsRunning = s.groupsRunning from groups,
    show f.meter = s.meter from meter, show f.now = s.now from now]
  simp only [capSlack, Bool.and_eq_true, decide_eq_true_eq]

/-! ## Sensors -/

theorem thermAlertStep_platens (s : State) : (thermAlertStep s).platens = s.platens := by rw [thermAlertStep_only]

theorem thermAlertStep_comps (s : State) : (thermAlertStep s).comps = s.comps := by rw [thermAlertStep_only]

theorem thermAlertStep_stackTab (s : State) : (thermAlertStep s).stackTab = s.stackTab := by rw [thermAlertStep_only]

theorem execThermalSensor_cool {sn : SensorId} {temp : Nat} (hp : s.powered = true) (h : temp < 102) :
    execThermalSensor sn temp s = .next (thermAlertStep (sense s sn temp)) := by
  unfold execThermalSensor senseStep
  rw [if_pos hp, if_neg (Nat.not_le.mpr h)]

theorem sense_phase (s : State) (sn : SensorId) (temp : Nat) : (sense s sn temp).phase = s.phase := by
  cases sn with
  | platen p =>
    have only := PowerOnly.setLimits (modPlaten s p (fun y => { y with temp := temp, meanTemp := y.meanTemp.sample s.now temp }))
      p (fun l => { l with forced := forcedNow l.forced temp })
    exact (congrArg State.phase only.1).trans rfl
  | compositor c => rfl
  | stack k =>
    change (stackTemp s k temp).phase = s.phase
    rw [(stackTemp_frame s k temp).1]

/-- At 102 °C a reading retires the node. -/
theorem execThermalSensor_trips {sn : SensorId} {temp : Nat} (hp : s.powered = true) (h : 102 ≤ temp) :
    ∃ t, execThermalSensor sn temp s = .next t ∧ t.phase = .retired := by
  unfold execThermalSensor senseStep
  rw [if_pos hp, if_pos h]
  refine ⟨_, rfl, retire_phase _ _ ?_⟩
  have phase : (thermAlertStep (sense s sn temp)).phase = s.phase := by rw [thermAlertStep_only]; exact sense_phase ..
  rwa [State.powered, phase]

theorem thermalSensor_platen {temp : Nat} (hp : s.powered = true) (h : mapGet s.platens p = some x) (cool : temp < 102) :
    ∃ t y, execThermalSensor (.platen p) temp s = .next t ∧ mapGet t.platens p = some y ∧ y.temp = temp ∧
      y.limits.forced = forcedNow x.limits.forced temp := by
  have read : mapGet (modPlaten s p (fun y => { y with temp := temp, meanTemp := y.meanTemp.sample s.now temp })).platens p =
      some { x with temp := temp, meanTemp := x.meanTemp.sample s.now temp } := by
    change mapGet (mapMod s.platens p _) p = _
    rw [mapGet_mapMod_self, h]
    rfl
  obtain ⟨y, hy, governed⟩ := setLimits_at (fun l => { l with forced := forcedNow l.forced temp }) read
  refine ⟨_, y, execThermalSensor_cool hp cool, (congrArg (mapGet · p) (thermAlertStep_platens _)).trans hy, ?_, ?_⟩
  · rw [governed]
  · rw [governed]

theorem getComp_modComp (s : State) (c : Nat) (f : CompPower → CompPower) : getComp (modComp s c f) c = f (getComp s c) :=
  mapGetD_mapUpd_self ..

theorem thermalSensor_compositor {temp : Nat} (hp : s.powered = true) (c : Nat) (cool : temp < 102) :
    ∃ t, execThermalSensor (.compositor c) temp s = .next t ∧ (getComp t c).temp = temp ∧
      (getComp t c).forced = forcedNow (getComp s c).forced temp := by
  have read : getComp (thermAlertStep (sense s (.compositor c) temp)) c =
      { getComp s c with temp := temp, forced := forcedNow (getComp s c).forced temp } := by
    rw [getComp, thermAlertStep_comps]
    exact getComp_modComp ..
  exact ⟨_, execThermalSensor_cool hp cool, by rw [read], by rw [read]⟩

theorem stackTemp_at {st : Stack} {k : Nat} (temp : Nat) (h : mapGet s.stackTab k = some st) :
    mapGet (stackTemp s k temp).stackTab k = some { st with
      temp := temp, refresh2x := if 85 < temp then true else if temp ≤ 82 then false else st.refresh2x
      since2x := if 85 < temp && !st.refresh2x then s.now else st.since2x
      throttled := if 92 ≤ temp then true else if temp ≤ 88 then false else st.throttled } := by
  have counted (c : Bool) (n : Nat) : let u := if c then countFor s (formeOfStack s k) .memRefresh2x n else s
      u.stackTab = s.stackTab ∧ u.now = s.now := by
    cases c
    · exact ⟨rfl, rfl⟩
    · rw [if_pos rfl, (countFor_frame ..).1]
      exact ⟨rfl, rfl⟩
  obtain ⟨tab, now⟩ := counted ((getStack s k).refresh2x && decide (temp ≤ 82))
    ((s.now - (getStack s k).since2x) / 1000000)
  unfold stackTemp
  dsimp only [modStack]
  rw [mapGet_mapMod_self, tab, now, h]
  rfl

theorem thermalSensor_stack {st : Stack} {k temp : Nat} (hp : s.powered = true) (h : mapGet s.stackTab k = some st)
    (cool : temp < 102) : ∃ t, execThermalSensor (.stack k) temp s = .next t ∧ mapGet t.stackTab k = some { st with
      temp := temp, refresh2x := if 85 < temp then true else if temp ≤ 82 then false else st.refresh2x
      since2x := if 85 < temp && !st.refresh2x then s.now else st.since2x
      throttled := if 92 ≤ temp then true else if temp ≤ 88 then false else st.throttled } :=
  ⟨_, execThermalSensor_cool hp cool, (congrArg (mapGet · k) (thermAlertStep_stackTab _)).trans (stackTemp_at temp h)⟩

/-! ## The thermal steps -/

theorem thermalLimitTick_platen (hp : s.powered = true) (h : mapGet s.platens p = some x) :
    ∃ t y, execThermalLimitTick (.platen p) s = .next t ∧ mapGet t.platens p = some y ∧ y.limits.thermal =
      (if 88 ≤ x.temp then min x.limits.thermal x.step - 1
       else if x.temp ≤ 85 ∧ x.limits.thermal < 18 then x.limits.thermal + 1 else x.limits.thermal) := by
  have moved (f : Limits → Limits) : ∃ y, mapGet (setLimits s p f).platens p = some y ∧ y.limits = f x.limits := by
    obtain ⟨y, hy, governed⟩ := setLimits_at f h
    exact ⟨y, hy, by rw [governed]⟩
  unfold execThermalLimitTick
  rw [if_neg (by simp [hp])]
  dsimp only
  rw [getPlaten_of_mapGet h]
  split
  · obtain ⟨y, hy, limits⟩ := moved (fun l => { l with thermal := min l.thermal x.step - 1 })
    exact ⟨_, y, rfl, hy, by rw [limits]⟩
  · split
    · obtain ⟨y, hy, limits⟩ := moved (fun l => { l with thermal := l.thermal + 1 })
      exact ⟨_, y, rfl, hy, by rw [limits]⟩
    · exact ⟨s, x, rfl, h, rfl⟩

theorem thermalLimitTick_compositor (hp : s.powered = true) (c : Nat) :
    ∃ t, execThermalLimitTick (.compositor c) s = .next t ∧ (getComp t c).thermal =
      (if 88 ≤ (getComp s c).temp then max 10 (min (getComp s c).thermal (compClock s c) - 1)
       else if (getComp s c).temp ≤ 85 ∧ (getComp s c).thermal < 26 then (getComp s c).thermal + 1
       else (getComp s c).thermal) := by
  unfold execThermalLimitTick
  rw [if_neg (by simp [hp])]
  dsimp only
  split
  · exact ⟨_, rfl, by rw [getComp_modComp]⟩
  · split
    · exact ⟨_, rfl, by rw [getComp_modComp]⟩
    · exact ⟨s, rfl, rfl⟩

/-! ## Droop, and a step that has settled -/

theorem governTarget_idle (hx : x.state = .s0) (ht : x.target = none) : governTarget x = nextStep x :=
  if_pos (by simp [hx, ht])

/-- After a droop step the governor goes one step down, if there is one (R551). -/
theorem nextStep_droops (on : x.limits.droop = true) {k : Nat} (hk : x.step = k) (top : x.limits.droopTop = k - 1) :
    nextStep x = if k = 0 then none else some (k - 1) := by
  unfold nextStep
  simp only [on, hk, top, if_true, Bool.true_eq_false, and_false, if_false]
  by_cases zero : k = 0
  · rw [if_pos zero, if_neg (by omega)]
  · rw [if_neg zero, if_pos (by omega)]

/-- A Platen whose clock stretches, with a droop step begun. -/
def drooped (x : PlatenPower) (now : Nat) : PlatenPower :=
  { x with
    stretching := true, since := now, droopAt := now
    limits := { x.limits with droop := true, droopTop := x.target.getD x.step - 1 } }

theorem droopDetect_steps (hp : s.powered = true) (h : mapGet s.platens p = some x) :
    ∃ t y, execDroopDetect p true s = .next t ∧ mapGet t.platens p = some y ∧
      (x.state = .s0 → y.stretching = true ∧ y.limits.droop = true ∧ y.droopAt = s.now ∧
        y.limits.droopTop = x.target.getD x.step - 1 ∧
        (x.target = none → y.target = if x.step = 0 then none else some (x.step - 1)) ∧
        (∀ k, x.target = some k → y.target = some k)) := by
  unfold execDroopDetect
  dsimp only
  rw [getPlaten_of_mapGet h]
  by_cases hx : x.state = .s0
  · rw [if_neg (by simp [hp, hx])]
    have stepped : mapGet (setPower (modPlaten s p (fun x => { x with stretching := true })) p (fun y =>
        { y with limits := { y.limits with droop := true, droopTop := y.target.getD y.step - 1 }, droopAt := s.now })).platens p =
        some (drooped x s.now) := by
      rw [mapGet_setPower]
      change Option.map _ (mapGet (mapMod s.platens p _) p) = _
      rw [mapGet_mapMod_self, h]
      rfl
    obtain ⟨y, hy, governed, target⟩ := govern_at stepped
    refine ⟨_, y, rfl, hy, fun _ => ⟨congrArg PlatenPower.stretching governed,
      congrArg (·.limits.droop) governed, congrArg PlatenPower.droopAt governed, congrArg (·.limits.droopTop) governed,
      fun ht => ?_, fun k hk => ?_⟩⟩
    · refine target.trans ((governTarget_idle (x := drooped x s.now) hx ht).trans (nextStep_droops rfl rfl ?_))
      rw [drooped, ht]
      rfl
    · rw [target, governTarget]
      simp [drooped, hk]
  · rw [if_pos (by simp [hx])]
    exact ⟨s, x, rfl, h, fun hs0 => absurd hs0 hx⟩

theorem droopRecovered_still (hp : s.powered = true) (h : mapGet s.platens p = some x) (hx : x.stretching = false) :
    execDroopRecovered p s = .next s := by
  unfold execDroopRecovered endStretch
  rw [if_pos hp, getPlaten_of_mapGet h, hx]
  rfl

theorem droopRecovered_ends (hp : s.powered = true) (h : mapGet s.platens p = some x) (hx : x.stretching = true) :
    ∃ t y, execDroopRecovered p s = .next t ∧ mapGet t.platens p = some y ∧ y.stretching = false ∧
      t = countFor { s.drawn with platens := t.platens } (formeOfPlaten s p) .stretchClocks (32 + Config.freeNat s.free) := by
  have ended : mapGet (mapMod s.platens p (fun x => { x with stretching := false })) p =
      some { x with stretching := false } := by rw [mapGet_mapMod_self, h]; rfl
  have recovers : execDroopRecovered p s = .next (countFor (modPlaten s.drawn p (fun x => { x with stretching := false }))
      (formeOfPlaten s p) .stretchClocks (32 + Config.freeNat s.free)) := by
    unfold execDroopRecovered endStretch
    rw [if_pos hp, getPlaten_of_mapGet h, if_pos hx]
  refine ⟨_, _, recovers, (congrArg (mapGet · p) (countFor_platens ..)).trans ended, rfl, ?_⟩
  rw [countFor_platens]
  rfl

theorem runningPointStep_settles {k : Nat} (hp : s.powered = true) (h : mapGet s.platens p = some x)
    (ht : x.target = some k) (hx : x.state = .s0) :
    ∃ t y, execRunningPointStep p s = .next t ∧ mapGet t.platens p = some y ∧ y.step = k := by
  have set : mapGet (setPower s p (fun x => { x with step := k, volt := voltOf k, target := none })).platens p =
      some { x with step := k, volt := voltOf k, target := none, since := s.now } := by rw [mapGet_setPower, h]; rfl
  obtain ⟨y, hy, governed, -⟩ := govern_at set
  refine ⟨_, y, ?_, hy, by rw [governed]⟩
  unfold execRunningPointStep
  rw [getPlaten_of_mapGet h, ht]
  exact if_pos (by simp [hp, hx])

/-! ## The input limit -/

theorem limitInput_at (on : Bool) (s : State) (p : Nat) (x : PlatenPower) (h : mapGet s.platens p = some x) :
    ∃ y, mapGet (limitInput on s p).platens p = some y ∧ y.limits.input = on := by
  obtain ⟨y, hy, governed⟩ := setLimits_at (fun l => { l with input := on }) h
  exact ⟨y, hy, by rw [governed]⟩

theorem limitInputs_meter (on : Bool) (l : List Nat) (s : State) : (l.foldl (limitInput on) s).meter = s.meter :=
  (CapKept.foldl (fun _ _ => CapKept.setLimits ..) l s).2.2.2

theorem ceiling_of_input {l : Limits} (h : l.input = true) : l.ceiling = 0 := by
  simp [Limits.ceiling, h]

theorem inputUndervoltage_limits (hp : s.powered = true) :
    ∃ t, execInputUndervoltage s = .next t ∧ t.meter.inputLimit = true ∧
      ∀ p x, p < 6 → mapGet s.platens p = some x → x.state = .s0 → ∃ y, mapGet t.platens p = some y ∧
        y.limits.input = true ∧ y.limits.ceiling = 0 := by
  refine ⟨_, if_pos hp, by rw [limitInputs_meter], fun p x h6 h hx => ?_⟩
  obtain ⟨y, hy, input⟩ := foldl_platens (s := { s with meter := { s.meter with inputLimit := true } })
    (limitInput_at true) (fun _ _ _ ne => setLimits_ne _ ne) (runningPlatens_nodup s) (mem_runningPlatens h6 h hx) h
  exact ⟨y, hy, input, ceiling_of_input input⟩

theorem inputLimitRelease_lifts (hp : s.powered = true) (hin : s.meter.inputLimit = true) :
    ∃ t, execInputLimitRelease s = .next t ∧ t.meter.inputLimit = false ∧
      ∀ p x, p < 6 → mapGet s.platens p = some x → ∃ y, mapGet t.platens p = some y ∧ y.limits.input = false := by
  have on : (s.powered && s.meter.inputLimit) = true := by simp [hp, hin]
  refine ⟨_, if_pos on, by rw [limitInputs_meter], fun p x h6 h => ?_⟩
  exact foldl_platens (s := { s with meter := { s.meter with inputLimit := false } })
    (limitInput_at false) (fun _ _ _ ne => setLimits_ne _ ne) List.nodup_range (List.mem_range.mpr h6) h

/-! ## The obligation -/

/-- Settles O46: the meter, the cap loop, the sensors and thermal steps, droop, and the input limit, each by its own lemma. What
is the model's in it: the thermal limit (log 93), the ten fresh samples, the droop's target and the choice among equals (92), the
stretched clocks (16) and the stop above 72 V (12). -/
theorem limitsMoveTheRunningPoints : Obligations.LimitsMoveTheRunningPoints := by
  unfold Obligations.LimitsMoveTheRunningPoints
  refine ⟨fun mv ma s hoff hlost hen => ⟨fun h => if_pos h, fun h => ?sample⟩, fun w ws s hp => execCapLoopTick_powered hp,
    fun mv ma s hoff hen lo hi => ⟨_, execPowerMeterSample_released hoff hen lo hi, rfl, rfl⟩,
    fun p temp x s hp h => ⟨thermalSensor_platen hp h, fun c => thermalSensor_compositor hp c,
      fun k st cool hst => thermalSensor_stack hp hst cool, fun sn hot => execThermalSensor_trips hp hot,
      thermalLimitTick_compositor hp, fun k => if_neg (by simp [hp]),
      fun sn => ⟨_, rfl, retire_phase _ _ hp, retire_retirement _ _ hp⟩, thermalLimitTick_platen hp h,
      droopDetect_steps hp h, droopRecovered_still hp h, droopRecovered_ends hp h, fun k => runningPointStep_settles hp h⟩,
    fun s hp => ⟨inputUndervoltage_limits hp, inputLimitRelease_lifts hp⟩⟩
  case sample =>
    have judged := overLimit_eq s mv ma
    refine ⟨_, execPowerMeterSample_on hoff hlost hen h, ?_, ?_, ?_, ?_, fun slow => ?_, fun fast p x h6 hx hs0 => ?_⟩
    · rw [meterSample_meter]; rfl
    · rw [meterSample_meter]; rfl
    · rw [meterSample_meter]; rfl
    · rw [meterSample_meter]; rfl
    · have under : ¬ overLimit (voltageRead s mv) mv ma = true := by
        rw [show overLimit (voltageRead s mv) mv ma = overLimit s mv ma from rfl, judged]
        exact Bool.eq_false_iff.mp slow
      rw [meterSample_eq, if_neg under]
      exact ⟨rfl, rfl⟩
    · exact meterSample_drops (s := voltageRead s mv) (judged.trans fast) h6 hx hs0

end Sys2Proof.Machine
end

section
/-! PROOFS. What the homes leave as it is when they serve what waits: the module stays awake and keeps no entry back, and a
stack that has left self-refresh stays out of it in a node that runs on (16 R541, R544, R545). -/

namespace Sys2Proof.Machine

open Sys2Proof

/-- The module is awake, no request waits for it, and no entry is held in the Watch domain. -/
def Attends (s : State) : Prop := s.moduleIdle = false ∧ s.idleReqs = [] ∧ s.journal.heldInIdle = 0

/-- The same stacks are in self-refresh. -/
def SameRest (m n : SMap Stack) : Prop := ∀ k, (mapGet n k).map Stack.selfRefresh = (mapGet m k).map Stack.selfRefresh

theorem SameRest.refl (m : SMap Stack) : SameRest m m := fun _ => rfl

/-- A change after which the module attends as before, and the same stacks rest as long as the node runs on. -/
structure Woken (r s : State) : Prop where
  attends : Attends r → Attends s
  rest : (s.phase = r.phase ∧ SameRest r.stackTab s.stackTab) ∨ (r.powered = true ∧ s.powered = false)

variable {r s t : State}

theorem Woken.refl (s : State) : Woken s s := ⟨id, .inl ⟨rfl, .refl _⟩⟩

/-- A change that leaves the phase, the requests that wait, and which stacks rest. -/
theorem Woken.upd {now free applPp applCp dirAge moduleCap : Nat} {pins : Pins} {jtag : Jtag}
    {sec : Sec} {flash : Flash} {config : NodeConfig} {journal : Journal} {lanes : SMap LaneGroup} {gut : Gutter}
    {mem : Bytes} {poison : SMap Unit} {errors : SMap (List (Nat × Byte))} {stackTab : SMap Stack}
    {homeFull recent timedOut powerCmds : SMap Nat} {absentRing : Ring} {lines : SMap Line} {dir : SMap DirEntry}
    {txns : SMap Txn} {streams : SMap Stream} {suspects groupsRunning : List Nat} {l3Locks : List L3Lock}
    {rangeCaches : List (Nat × Engine × List Nat)} {invals : List Inval} {ports : SMap Port} {formes : SMap Forme}
    {loose : Counters} {galleys : SMap Galley} {harts : SMap Hart} {corePower : SMap CorePower}
    {platens : SMap PlatenPower} {comps : SMap CompPower} {waking : Bool} {meter : Meter} {mesh : Mesh} {sb : Sideband}
    {pending : List Instr} (h : Woken r s)
    (hrest : SameRest s.stackTab stackTab := by exact SameRest.refl _)
    (hheld : Attends s → journal.heldInIdle = 0 := by exact fun h => h.2.2) :
    Woken r { s with
      now := now, free := free, pins := pins, jtag := jtag, sec := sec, flash := flash,
      config := config, journal := journal, applPp := applPp, applCp := applCp, lanes := lanes, gut := gut,
      mem := mem, poison := poison, errors := errors, stackTab := stackTab, homeFull := homeFull,
      absentRing := absentRing, lines := lines, dir := dir, dirAge := dirAge, txns := txns, streams := streams,
      recent := recent, suspects := suspects, timedOut := timedOut, l3Locks := l3Locks, rangeCaches := rangeCaches,
      invals := invals, ports := ports, formes := formes, loose := loose, galleys := galleys, harts := harts,
      groupsRunning := groupsRunning, corePower := corePower, platens := platens, powerCmds := powerCmds,
      comps := comps, waking := waking, moduleCap := moduleCap, meter := meter, mesh := mesh, sb := sb,
      pending := pending } := by
  refine ⟨fun a => ?_, ?_⟩
  · have attends := h.attends a
    exact ⟨attends.1, attends.2.1, hheld attends⟩
  · obtain ⟨phase, rest⟩ | off := h.rest
    · exact .inl ⟨phase, fun k => (hrest k).trans (rest k)⟩
    · exact .inr off

theorem Woken.ite {c : Prop} [Decidable c] (h : Woken r s) (k : Woken r t) : Woken r (if c then s else t) := by
  split
  · exact h
  · exact k

theorem Woken.fst {α : Type} {x : State × α} {a : α} (h : Woken r x.1) (e : x = (s, a)) : Woken r s := by
  rwa [e] at h

theorem Woken.foldl {α : Type} {f : State → α → State} {l : List α} (h : Woken r s)
    (hf : ∀ s a, Woken r s → Woken r (f s a)) : Woken r (l.foldl f s) :=
  List.foldlRecOn (motive := Woken r) l f h fun s h a _ => hf s a h

/-! ## The functions that serve a home -/

theorem woken_reservedWritten {pa : Nat} (h : Woken r s) : Woken r (reservedWritten s pa) := h.upd

theorem woken_drawn (h : Woken r s) : Woken r (State.drawn s) := h.upd

theorem woken_modForme {f : Nat} {g : Forme → Forme} (h : Woken r s) : Woken r (modForme s f g) := h.upd

theorem woken_countFor {f : Option Nat} {c : Ctr} {n : Nat} (h : Woken r s) : Woken r (countFor s f c n) := by
  unfold countFor
  split
  · exact woken_modForme h
  · exact h.upd

theorem woken_pushNotice {o : SbOut} (h : Woken r s) : Woken r (pushNotice s o) := h.upd

theorem woken_alert {code : Nat} {extra : List Byte} (h : Woken r s) :
    Woken r (alert s code extra) := woken_pushNotice h

theorem woken_openDigest (h : Woken r s) : Woken r (openDigest s).1 := woken_drawn h

theorem journalPut_heldInIdle (s : State) (e : JEntry) :
    (journalPut s e).journal.heldInIdle = if s.moduleIdle then s.journal.heldInIdle + 1 else 0 := by
  unfold journalPut
  exact noticed (P := fun v => v.journal.heldInIdle = if s.moduleIdle then s.journal.heldInIdle + 1 else 0) _ rfl
    (fun _ => rfl)

theorem woken_journalPut {e : JEntry} (h : Woken r s) : Woken r (journalPut s e) := by
  refine ⟨fun a => ?_, ?_⟩
  · obtain ⟨awake, none_waits, -⟩ := h.attends a
    unfold Attends
    rw [journalPut_heldInIdle, journalPut_frame, awake]
    exact ⟨rfl, none_waits, rfl⟩
  · rw [journalPut_frame]
    exact h.rest

theorem woken_bootEntry (h : Woken r s) : Woken r (bootEntry s) := .ite ((woken_journalPut h.upd).upd) h

theorem woken_journalPlace {e : JEntry} (h : Woken r s) : Woken r (journalPlace s e) :=
  .ite h.upd (.ite h.upd (woken_journalPut h))

theorem woken_gapEntry (h : Woken r s) : Woken r (gapEntry s) := .ite h (woken_journalPut h.upd)

theorem woken_journalWrite {e : JEntry} (h : Woken r s) : Woken r (journalWrite s e) :=
  woken_journalPlace (woken_gapEntry (woken_bootEntry h))

theorem woken_coldEntry (h : Woken r s) : Woken r (coldEntry s) := woken_journalWrite (woken_openDigest h)

theorem woken_idleHostPorts (h : Woken r s) : Woken r (idleHostPorts s) := h.upd

theorem woken_idleMeshPorts (h : Woken r s) : Woken r (idleMeshPorts s) := h.upd

/-- A node that retires attends as before, and runs no more. -/
theorem woken_retire {c : RetireCause} (h : Woken r s) : Woken r (retire s c) := by
  by_cases on : s.powered = true
  · refine ⟨fun a => ?_, .inr ?_⟩
    · unfold retire
      rw [if_pos on]
      dsimp only [Attends, powerOffStacks, powerOffDies]
      refine ⟨rfl, rfl, (Woken.attends (r := r) ?_ a).2.2⟩
      refine woken_alert (woken_journalWrite (.ite (woken_coldEntry ?_) ?_))
      · exact woken_idleMeshPorts (woken_idleHostPorts h.upd)
      · exact woken_idleMeshPorts (woken_idleHostPorts h.upd)
    · obtain ⟨phase, -⟩ | ⟨-, off⟩ := h.rest
      · refine ⟨?_, ?_⟩
        · rwa [State.powered, ← phase]
        · rw [State.powered, retire_phase s c on]
          rfl
      · exact absurd on (Bool.eq_false_iff.mp off)
  · rw [retire_stopped s c (Bool.eq_false_iff.mpr on)]
    exact h

theorem sameRest_mapMod (m : SMap Stack) (k : Nat) {g : Stack → Stack} (hg : ∀ x, (g x).selfRefresh = x.selfRefresh) :
    SameRest m (mapMod m k g) := fun j => map_mapMod m k g Stack.selfRefresh hg j

theorem woken_modStack {k : Nat} {g : Stack → Stack} (h : Woken r s) (hg : ∀ x, (g x).selfRefresh = x.selfRefresh) :
    Woken r (modStack s k g) := h.upd (sameRest_mapMod _ _ hg)

theorem woken_memRecord {pa kind symbols source lanes : Nat} (h : Woken r s) :
    Woken r (memRecord s pa kind symbols source lanes) := .ite (woken_modStack h (fun _ => rfl)) h.upd

theorem woken_modPch {k p : Nat} {g : Pch → Pch} (h : Woken r s) : Woken r (modPch s k p g) :=
  woken_modStack h (fun _ => rfl)

theorem woken_poisonSector {pa : Nat} (h : Woken r s) : Woken r (poisonSector s pa) :=
  (woken_modPch (.ite h (woken_countFor h))).upd

theorem woken_memSlot {pa : Nat} {prio write : Bool} (h : Woken r s) : Woken r (memSlot s pa prio write) :=
  woken_countFor (.ite (woken_countFor (woken_modPch h)) (woken_modPch h))

theorem woken_laneMove {k p lane pa : Nat} (h : Woken r s) : Woken r (laneMove s k p lane pa) :=
  .ite (woken_retire h) (Woken.upd (h.upd (sameRest_mapMod _ _ fun _ => rfl)))

theorem woken_laneDone {k lane pa source : Nat} (h : Woken r s) : Woken r (laneDone s k lane pa source) :=
  woken_countFor (woken_memRecord h)

theorem woken_laneToSpare {k p lane pa source : Nat} (h : Woken r s) : Woken r (laneToSpare s k p lane pa source) :=
  .ite (woken_laneMove h) (woken_laneDone (woken_laneMove h))

theorem woken_readFails {pa kind symbols source : Nat} (h : Woken r s) :
    Woken r (readFails s pa kind symbols source).1 := by
  unfold readFails
  dsimp only
  split
  · exact woken_memRecord (woken_drawn (.ite h (woken_poisonSector h)))
  · exact woken_memRecord (.ite h (woken_poisonSector h))

theorem woken_setErrors {pa : Nat} {p : List (Nat × Nat)} (h : Woken r s) :
    Woken r (setErrors s pa p) := .ite h.upd h.upd

theorem woken_readTag {pa source : Nat} {fixed left : List (Nat × Nat)} (h : Woken r s) :
    Woken r (readTag s pa source fixed left).1 := by
  unfold readTag
  dsimp only
  split
  · exact .ite h (woken_setErrors (woken_memRecord (woken_countFor h)))
  · exact woken_readFails h

theorem woken_readDecode {pa source : Nat} (h : Woken r s) : Woken r (readDecode s pa source).1 := by
  unfold readDecode
  dsimp only
  split
  · exact woken_readTag h
  · split <;> exact woken_readFails h

theorem woken_sectorRead {source : Nat} {prio : Bool} {pa : Nat} (h : Woken r s) :
    Woken r (sectorRead source prio pa s).1 := by
  unfold sectorRead
  dsimp only
  split
  · exact woken_readDecode (woken_laneToSpare (woken_memSlot h))
  · exact woken_readDecode (woken_memSlot h)

theorem woken_writeWhole {pa : Nat} {data : List Byte} (h : Woken r s) : Woken r (writeWhole s pa data) := h.upd

theorem woken_burst {pa : Nat} {data : List Byte} (h : Woken r s) : Woken r (burst s pa data) :=
  woken_writeWhole (woken_modPch (woken_memSlot h))

theorem woken_mergeWrite {pa mask : Nat} {data : List Byte} (h : Woken r s) : Woken r (mergeWrite s pa mask data) :=
  .ite (woken_readDecode h) (woken_burst (woken_readDecode h))

theorem woken_sectorWrite {pa mask : Nat} {data : List Byte} (h : Woken r s) :
    Woken r (sectorWrite pa mask data s) := by
  unfold sectorWrite
  dsimp only
  split
  · exact woken_burst h
  · split
    · exact woken_mergeWrite (woken_laneToSpare (woken_memSlot h))
    · exact woken_mergeWrite (woken_memSlot h)

theorem woken_noteRefusal {k : Nat} (h : Woken r s) : Woken r (noteRefusal s k) := by
  unfold noteRefusal
  dsimp only
  split
  · exact .ite h.upd h
  · exact .ite h (woken_countFor h.upd)

theorem woken_letIn {k p : Nat} (h : Woken r s) : Woken r (letIn s k p) := by
  unfold letIn
  split
  · exact woken_noteRefusal (woken_modPch h)
  · exact h

theorem woken_serve {r' : MemReq} (h : Woken r s) : Woken r (serve s r') := by
  unfold serve
  split
  · exact woken_sectorWrite h
  · exact woken_sectorRead h

theorem woken_serveFor {n k p : Nat} (h : Woken r s) : Woken r (serveFor n s k p) := by
  induction n generalizing s with
  | zero => exact h
  | succ n ih =>
    unfold serveFor
    split
    · exact h
    · exact ih (woken_serve (woken_letIn (woken_modPch h)))

theorem woken_serveQueue {k p : Nat} (h : Woken r s) : Woken r (serveQueue s k p) := woken_serveFor h

theorem woken_serveFree {k p : Nat} (h : Woken r s) : Woken r (serveFree k s p) := .ite h (woken_serveQueue h)

theorem woken_journalFlush (h : Woken r s) : Woken r (journalFlush s) :=
  h.upd.foldl fun _ _ h => woken_journalWrite h

/-- A change of power leaves the module awake and the stacks as they are. -/
theorem Woken.of_powerOnly (h : PowerOnly s t) : Woken s t := by
  rw [h.1]
  exact (Woken.refl s).upd

theorem woken_wakeToRest (s : State) (p : Nat) : Woken s (wakeToRest s p) := by
  unfold wakeToRest
  split
  · exact .of_powerOnly (.wakePlaten s p)
  · exact .refl s

/-! ## The stacks leave self-refresh one after another -/

/-- The module attends as before, and in a node that runs on the stacks of a list are out of self-refresh. -/
structure AwakeIn (l : List Nat) (r s : State) : Prop where
  attends : Attends r → Attends s
  awake : (s.phase = r.phase ∧ ∀ k ∈ l, ∀ x, mapGet s.stackTab k = some x → x.selfRefresh = false) ∨
    (r.powered = true ∧ s.powered = false)

theorem AwakeIn.woken {l : List Nat} (h : AwakeIn l r s) (k : Woken s t) : AwakeIn l r t := by
  refine ⟨k.attends ∘ h.attends, ?_⟩
  obtain ⟨phase, awake⟩ | ⟨on, off⟩ := h.awake
  · obtain ⟨same, rest⟩ | ⟨on, off⟩ := k.rest
    · refine .inl ⟨same.trans phase, fun i hi x hx => ?_⟩
      have before := rest i
      rw [hx] at before
      obtain ⟨y, hy, e⟩ := Option.map_eq_some_iff.mp before.symm
      exact e.symm.trans (awake i hi y hy)
    · exact .inr ⟨by rwa [State.powered, ← phase], off⟩
  · obtain ⟨same, -⟩ | ⟨on', -⟩ := k.rest
    · exact .inr ⟨on, by rwa [State.powered, same]⟩
    · exact absurd on' (Bool.eq_false_iff.mp off)

/-- A stack that is told to leave self-refresh is out of it. -/
theorem AwakeIn.cons {l : List Nat} (h : AwakeIn l r s) (k : Nat) :
    AwakeIn (k :: l) r (modStack s k (fun x => { x with selfRefresh := false })) := by
  refine ⟨h.attends, ?_⟩
  obtain ⟨phase, awake⟩ | off := h.awake
  · refine .inl ⟨phase, fun i hi x hx => ?_⟩
    rw [modStack, mapGet_mapMod] at hx
    by_cases e : i = k
    · rw [if_pos e] at hx
      obtain ⟨y, -, rfl⟩ := Option.map_eq_some_iff.mp hx
      rfl
    · rw [if_neg e] at hx
      exact awake i ((List.mem_cons.mp hi).resolve_left e) x hx
  · exact .inr off

theorem AwakeIn.wakeStack {l : List Nat} (h : AwakeIn l r s) (k : Nat) : AwakeIn (k :: l) r (wakeStack s k none) := by
  unfold Machine.wakeStack
  split
  next => exact (h.cons k).woken ((Woken.refl _).foldl fun _ _ h => woken_serveFree h)
  next already =>
    refine ⟨h.attends, h.awake.imp_left fun ⟨phase, awake⟩ => ⟨phase, fun i hi x hx => ?_⟩⟩
    by_cases e : i = k
    · subst e
      rw [getStack_of_mapGet hx] at already
      exact Bool.eq_false_iff.mpr already
    · exact awake i ((List.mem_cons.mp hi).resolve_left e) x hx

theorem awakeIn_wakeStacks (ks : List Nat) {l : List Nat} (h : AwakeIn l r s) :
    AwakeIn (ks.reverse ++ l) r (ks.foldl (fun s k => wakeStack s k none) s) := by
  induction ks generalizing s l with
  | nil => exact h
  | cons k ks ih =>
    rw [List.reverse_cons, List.append_assoc]
    exact ih (h.wakeStack k)

/-! ## Module idle -/

/-- The state in which the module has been told to leave module idle. -/
def leavesIdle (s : State) : State :=
  { s with moduleIdle := false, waking := false, idleReqs := [], journal := { s.journal with heldInIdle := 0 } }

/-- What module idle's end leads to before the requests that waited are performed. -/
def leftIdle (s : State) : State := (List.range 6).foldl wakeToRest (journalFlush (wakeStacks (leavesIdle s)))

theorem leftIdle_awake (s : State) : AwakeIn (List.range 12).reverse (leavesIdle s) (leftIdle s) := by
  have start : AwakeIn [] (leavesIdle s) (leavesIdle s) := ⟨id, .inl ⟨rfl, fun _ h => nomatch h⟩⟩
  have stacksOn : AwakeIn (List.range 12).reverse (leavesIdle s) (wakeStacks (leavesIdle s)) :=
    List.append_nil (List.range 12).reverse ▸ awakeIn_wakeStacks (List.range 12) start
  exact List.foldlRecOn (motive := AwakeIn (List.range 12).reverse (leavesIdle s)) (List.range 6) wakeToRest
    (stacksOn.woken (woken_journalFlush (.refl _))) fun t ht p _ => ht.woken (woken_wakeToRest t p)

theorem execModuleWakeDone_eq (hp : s.powered = true) (hi : s.moduleIdle = true) (hw : s.waking = true) :
    execModuleWakeDone s = .next (s.idleReqs.foldl performInbound (leftIdle s)) := by
  have runs : (s.powered && s.moduleIdle && s.waking) = true := by simp [hp, hi, hw]
  unfold execModuleWakeDone leftIdle leavesIdle
  rw [if_pos runs]

theorem execModuleWakeDone_wakes (hp : s.powered = true) (hi : s.moduleIdle = true) (hw : s.waking = true) :
    ∃ t, execModuleWakeDone s = .next (s.idleReqs.foldl performInbound t) ∧ t.moduleIdle = false ∧ t.idleReqs = [] ∧
      t.journal.heldInIdle = 0 ∧
      (t.phase = s.phase → ∀ k x, k < 12 → mapGet t.stackTab k = some x → x.selfRefresh = false) := by
  have ends := leftIdle_awake s
  obtain ⟨awake, waits, held⟩ := ends.attends ⟨rfl, rfl, rfl⟩
  refine ⟨leftIdle s, execModuleWakeDone_eq hp hi hw, awake, waits, held, fun same k x hk hx => ?_⟩
  obtain ⟨-, out⟩ | ⟨-, off⟩ := ends.awake
  · exact out k (List.mem_reverse.mpr (List.mem_range.mpr hk)) x hx
  · rw [State.powered, same] at off
    exact absurd hp (Bool.eq_false_iff.mp off)

theorem execModuleIdleEntry_enters (h : idlePossible s = true) : ∃ t, execModuleIdleEntry s = .next t ∧
    (t.phase = s.phase → t.moduleIdle = true ∧ t.lines = [] ∧ t.dir = [] ∧ t.txns = [] ∧ t.l3Locks = [] ∧
      (∀ x ∈ t.gut.flights, x.transit.isSome = true) ∧
      ∀ k x, mapGet t.stackTab k = some x → x.selfRefresh = !x.quiesced) := by
  unfold execModuleIdleEntry
  rw [if_pos h]
  dsimp only
  split
  next =>
    refine ⟨_, rfl, fun _ => ⟨rfl, rfl, rfl, rfl, rfl, fun x hx => (List.mem_filter.mp hx).2, fun k x hx => ?_⟩⟩
    have rested := mapGet_map (flushL3s s).stackTab (fun _ y => ({ y with selfRefresh := !y.quiesced } : Stack)) k
    obtain ⟨y, -, rfl⟩ := Option.map_eq_some_iff.mp (rested.symm.trans hx)
    rfl
  next off =>
    refine ⟨_, rfl, fun same => ?_⟩
    simp only [idlePossible, Bool.and_eq_true] at h
    obtain ⟨⟨⟨⟨⟨up, -⟩, -⟩, -⟩, -⟩, -⟩ := h
    rw [State.up, same] at off
    exact absurd up off

/-! ## The states of a Platen -/

section

variable {p : Nat} {x : PlatenPower}

theorem execGovernorTimerExpiry_lowers {dest : Nat} (hup : s.up = true) (hi : s.moduleIdle = false)
    (hb : platenBusy s p = false) (h : mapGet s.platens p = some x) (ht : lowerTo x = some dest) :
    execGovernorTimerExpiry p s = .next (lowerPlaten s p dest) := by
  unfold execGovernorTimerExpiry
  rw [getPlaten_of_mapGet h, ht]
  exact if_neg (by simp [hup, hi, hb])

theorem lowerTo_eq {dest : Nat} (ht : lowerTo x = some dest) :
    (x.rest = 8 → dest = x.state.depth + 1) ∧ (x.rest ≠ 8 → dest = x.rest) := by
  obtain ⟨-, e⟩ := Option.ite_none_right_eq_some.mp ht
  rw [← Option.some.inj e]
  exact ⟨fun h => if_pos h, fun h => if_neg h⟩

/-- A Platen whose state alone is written, and what leaves it where it is. -/
theorem setPower_state {g : PlatenPower → PlatenPower} (h : mapGet s.platens p = some x) :
    mapGet (setPower s p g).platens p = some (g { x with since := s.now }) := by
  rw [mapGet_setPower, h]
  rfl

theorem execCaseSleepDone_sleeps {frm dest : Nat} (hp : s.powered = true) (h : mapGet s.platens p = some x)
    (hx : x.state = .entering frm dest) (hw : x.wakeAsked = false) :
    ∃ t y, execCaseSleepDone p s = .next t ∧ mapGet t.platens p = some y ∧ y.state = (if dest = 2 then .s2 else .s3) ∧
      t.lines = (if dest = 3 then s.lines.filter (fun kv => kv.1 / 2 ^ 34 ≠ p) else s.lines) := by
  have lines (u : State) (g : PlatenPower → PlatenPower) : (setPower u p g).lines = u.lines := by
    rw [(PowerOnly.setPower u p g).1]
  have still (u : State) (hu : u.platens = s.platens) : (getPlaten u p).wakeAsked = false := by
    rw [getPlaten_of_mapGet (hu ▸ h), hw]
  unfold execCaseSleepDone
  rw [getPlaten_of_mapGet h, hx]
  dsimp only
  rw [if_pos hp]
  split
  · rw [still (dropCase (clearSharer s p) p) rfl]
    exact ⟨_, _, rfl, setPower_state (s := dropCase (clearSharer s p) p) h, rfl, lines ..⟩
  · rw [still (clearSharer s p) rfl]
    exact ⟨_, _, rfl, setPower_state (s := clearSharer s p) h, rfl, lines ..⟩

/-- A Platen that takes up its running point after a wake from `frm` (R551). -/
def takesUp (inputLimit : Bool) (frm : Nat) (x : PlatenPower) : PlatenPower :=
  let l := { x.limits with input := inputLimit }
  let k := if frm = 1 then x.step else if l.droop then min x.step l.ceiling else l.ceiling
  { x with state := .s0, step := k, volt := voltOf k, target := none, limits := l }

theorem execPlatenWakeDone_runs {frm : Nat} (hp : s.powered = true) (h : mapGet s.platens p = some x)
    (hx : x.state = .waking frm) (hi : s.moduleIdle = false) :
    let cleared := { s with galleys := s.galleys.filter (fun kv => kv.1 / 64 ≠ p) }
    let u := if frm = 3 then (lockedRegions cleared p).foldl fillRegion cleared else s
    execPlatenWakeDone p s = .next (govern (setPower u p (takesUp u.meter.inputLimit frm)) p) := by
  unfold execPlatenWakeDone
  rw [getPlaten_of_mapGet h, hx]
  exact if_neg (by simp [hp, hi])

theorem takesUp_at (frm : Nat) (h : mapGet s.platens p = some x) :
    ∃ y, mapGet (govern (setPower s p (takesUp s.meter.inputLimit frm)) p).platens p = some y ∧ y.state = .s0 ∧
      let l := { x.limits with input := s.meter.inputLimit }
      y.step = (if frm = 1 then x.step else if l.droop then min x.step l.ceiling else l.ceiling) := by
  obtain ⟨y, hy, governed, -⟩ := govern_at (setPower_state (g := takesUp s.meter.inputLimit frm) h)
  exact ⟨y, hy, congrArg PlatenPower.state governed, congrArg PlatenPower.step governed⟩

end

/-! ## The obligation -/

/-- Settles O45: the governor's timer, the ends of a sleep and of a wake, and the two ends of module idle. What is the model's in
it: a quiesced stack stays out of self-refresh and module idle empties the caches (log 94), the step from S1 to S3 (91), and the
droop at the wake (92). -/
theorem platensRestAndWake : Obligations.PlatensRestAndWake := by
  unfold Obligations.PlatensRestAndWake
  refine ⟨fun p x s hup hi hb h dest ht => ?timer,
    fun p x s hp h => ⟨fun frm dest hx hw => execCaseSleepDone_sleeps hp h hx hw,
      fun frm hx hi => ⟨execPlatenWakeDone_runs hp h hx hi, takesUp_at frm h⟩⟩,
    fun s h => execModuleIdleEntry_enters h, fun s hp hi hw => execModuleWakeDone_wakes hp hi hw⟩
  case timer =>
    have lowers := execGovernorTimerExpiry_lowers hup hi hb h ht
    have state : (getPlaten s p).state = x.state := congrArg PlatenPower.state (getPlaten_of_mapGet h)
    obtain ⟨step, straight⟩ := lowerTo_eq ht
    refine ⟨step, straight, fun hx one => ?_, fun hx more => ⟨_, lowers, ?_⟩, fun hx => lowers.trans ?_, fun hx => ?_⟩
    · have lowered : mapGet (lowerPlaten s p dest).platens p =
          some { x with state := .s1, target := none, since := s.now } := by
        rw [lowerPlaten, state, hx]
        exact (congrArg (fun u : State => mapGet u.platens p) (if_pos one)).trans (setPower_state h)
      exact ⟨_, _, lowers, lowered, rfl, rfl⟩
    · rw [lowerPlaten, state, hx]
      exact if_neg more
    · rw [lowerPlaten, state, hx]
    · have lowered : mapGet (lowerPlaten s p dest).platens p = some { x with state := .s3, since := s.now } := by
        rw [lowerPlaten, state, hx]
        exact setPower_state (s := dropCase s p) h
      exact ⟨_, _, lowers, lowered, rfl, rfl⟩

end Sys2Proof.Machine
end

section
/-! PROOFS. The request at the head of the sideband's queue, and its answer (17 R569); and what writing the journal does to the
sideband. -/

namespace Sys2Proof.Machine

open Sys2Proof

variable {s t u : State} {r : SbReq} {q : List SbReq}

/-! ## Notices -/

/-- Of the sideband only the messages to send differ, and those that waited still wait. -/
def Noticed (s t : State) : Prop := ∃ os, t.sb = { s.sb with out := s.sb.out ++ os }

theorem Noticed.refl (s : State) : Noticed s s := ⟨[], by rw [List.append_nil]⟩

theorem Noticed.trans (h : Noticed s t) (k : Noticed t u) : Noticed s u := by
  obtain ⟨os, h⟩ := h
  obtain ⟨ps, k⟩ := k
  exact ⟨os ++ ps, by rw [k, h, List.append_assoc]⟩

theorem Noticed.of_sb (h : t.sb = s.sb) : Noticed s t := ⟨[], by rw [h, List.append_nil]⟩

theorem Noticed.push (h : Noticed s t) (o : SbOut) : Noticed s (pushNotice t o) := h.trans ⟨[o], rfl⟩

theorem journalPut_noticed (s : State) (e : JEntry) : Noticed s (journalPut s e) := by
  unfold journalPut
  exact noticed (P := Noticed s) _ (.of_sb rfl) fun k => ⟨_, rfl⟩

theorem journalWrite_noticed (s : State) (e : JEntry) : Noticed s (journalWrite s e) := by
  have boot : Noticed s (bootEntry s) := by
    unfold bootEntry
    split
    · refine .trans (t := { s with flash := { s.flash with journalBegun := true } }) (.of_sb rfl) ?_
      exact (journalPut_noticed _ _).trans (.of_sb rfl)
    · exact .refl s
  have gap (s : State) : Noticed s (gapEntry s) := by
    unfold gapEntry
    split
    · exact .refl s
    · exact .trans (t := { s with journal := { s.journal with lost := 0 } }) (.of_sb rfl) (journalPut_noticed _ _)
  have place (s : State) : Noticed s (journalPlace s e) := by
    unfold journalPlace
    split
    · exact .of_sb rfl
    · split
      · exact .of_sb rfl
      · exact journalPut_noticed ..
  exact (boot.trans (gap _)).trans (place _)

theorem Noticed.queue (h : Noticed s t) : t.sb.queue = s.sb.queue := by
  obtain ⟨os, h⟩ := h
  rw [h]

theorem Noticed.resetAsked (h : Noticed s t) : t.sb.resetAsked = s.sb.resetAsked := by
  obtain ⟨os, h⟩ := h
  rw [h]

/-! ## The request at the head of the queue -/

theorem asked_head {test : SbReq → Bool} (hw : s.watchOn = true) (hq : s.sb.queue = r :: q) (ht : test r = true) :
    asked s test = some r := by
  rw [asked, if_pos hw, hq]
  exact if_pos ht

theorem asked_empty {test : SbReq → Bool} (hq : s.sb.queue = []) : asked s test = none := by
  rw [asked, hq]
  exact ite_self _

/-- The request is taken from the queue and its answer waits to be sent. -/
structure SbAnswered (t : State) (r : SbReq) (q : List SbReq) (status : Nat) (body : List Byte) : Prop where
  queue : t.sb.queue = q
  answer : { type := 2, func := r.func, status := status, reqSeq := r.seq, body := body } ∈ t.sb.out

theorem respond_answers (hq : s.sb.queue = r :: q) (status : Nat) (body : List Byte) :
    SbAnswered (respond s r status body) r q status body :=
  ⟨congrArg (List.drop 1) hq, List.mem_append_right _ (List.mem_singleton_self _)⟩

theorem SbAnswered.noticed {status : Nat} {body : List Byte} (h : SbAnswered s r q status body) (k : Noticed s t) :
    SbAnswered t r q status body := by
  refine ⟨k.queue.trans h.queue, ?_⟩
  obtain ⟨os, k⟩ := k
  rw [k]
  exact List.mem_append_left _ h.answer

theorem sbChecked_fails {cs : List (Bool × Nat)} {go : State} {b : Bool} {status : Nat}
    (h : cs.find? (·.1) = some (b, status)) : sbChecked s r cs go = respond s r status [] := by rw [sbChecked, h]

theorem sbChecked_passes {cs : List (Bool × Nat)} {go : State} (h : cs.find? (·.1) = none) : sbChecked s r cs go = go := by
  rw [sbChecked, h]

/-- Checks of which one fails do not let a change wait. -/
theorem all_of_find {cs : List (Bool × Nat)} {c : Bool × Nat} (h : cs.find? (·.1) = some c) :
    cs.all (fun c => !c.1) = false := by
  refine Bool.eq_false_iff.mpr fun all => ?_
  have passes := List.all_eq_true.mp all c (List.mem_of_find?_eq_some h)
  have fails : c.1 = true := List.find?_some h
  rw [fails] at passes
  cases passes

theorem all_of_find_none {cs : List (Bool × Nat)} (h : cs.find? (·.1) = none) : cs.all (fun c => !c.1) = true := by
  refine List.all_eq_true.mpr fun c hc => ?_
  have := List.find?_eq_none.mp h c hc
  simpa using this

end Sys2Proof.Machine
end

section
/-! PROOFS. Resets asked for over the sideband, and what the node sends (17 R562 to R566, R572, R573, R575). -/

namespace Sys2Proof.Machine

open Sys2Proof

variable {s t : State} {r : SbReq} {q : List SbReq} {kind f id : Nat}

/-! ## A reset is asked for -/

/-- A wider reset that was asked for stays alone; otherwise the reset joins those asked for. -/
theorem askReset_asked (s : State) (kind f : Nat) :
    (∃ x ∈ (askReset s kind f).sb.resetAsked, x.1 ≤ kind) ∧
      (s.sb.resetAsked = [] → (askReset s kind f).sb.resetAsked = [(kind, f)]) := by
  unfold askReset modSb
  dsimp only
  split
  next wider =>
    obtain ⟨x, hx, lower⟩ := List.any_eq_true.mp wider
    simp only [Bool.and_eq_true, decide_eq_true_eq] at lower
    exact ⟨⟨x, hx, by omega⟩, fun none_asked => by simp [none_asked] at wider⟩
  next => exact ⟨⟨(kind, f), by simp, Nat.le_refl kind⟩, fun none_asked => by simp [none_asked]⟩

theorem askReset_sb (s : State) (kind f : Nat) :
    askReset s kind f = { s with sb := { s.sb with resetAsked := (askReset s kind f).sb.resetAsked } } := by
  unfold askReset modSb
  dsimp only
  split
  · rfl
  · rfl

/-- The request is refused: its answer waits, and nothing was asked for or written. -/
def ResetRefused (s : State) (r : SbReq) (q : List SbReq) (status : Nat) (o : Host.Outcome State Fault Refusal) : Prop :=
  ∃ t, o = .next t ∧ t.sb.queue = q ∧ t.sb.resetAsked = s.sb.resetAsked ∧ t.journal = s.journal ∧
    { type := 2, func := r.func, status := status, reqSeq := r.seq, body := [] } ∈ t.sb.out

/-- The reset is asked for, answered, and entered in the journal. -/
def ResetTaken (s : State) (r : SbReq) (q : List SbReq) (kind f id : Nat) (o : Host.Outcome State Fault Refusal) : Prop :=
  ∃ t e, o = .next t ∧ t.sb.queue = q ∧
    { type := 2, func := r.func, status := stOk, reqSeq := r.seq, body := [] } ∈ t.sb.out ∧
    t.journal.entries.head? = some e ∧ e.origin = 3 ∧ e.objKind = 0x0E ∧ e.objId = id ∧ e.action = 2 ∧
    (∃ x ∈ t.sb.resetAsked, x.1 ≤ kind) ∧ (s.sb.resetAsked = [] → t.sb.resetAsked = [(kind, f)])

/-- What a row does with a request: the checks, the hold by the journal, and what it performs. -/
def sbHeldOrChecked (s : State) (r : SbReq) (cs : List (Bool × Nat)) (go : State) : State :=
  if cs.all (fun c => !c.1) && journalHeld s then sbHeld s else sbChecked s r cs go

theorem sbHeldOrChecked_refuses {cs : List (Bool × Nat)} {go : State} {b : Bool} {status : Nat}
    {o : Host.Outcome State Fault Refusal} (hq : s.sb.queue = r :: q) (ho : o = .next (sbHeldOrChecked s r cs go))
    (h : cs.find? (·.1) = some (b, status)) : ResetRefused s r q status o := by
  have answered := respond_answers hq status []
  refine ⟨_, ho, ?_⟩
  rw [sbHeldOrChecked, all_of_find h, Bool.false_and, if_neg Bool.false_ne_true, sbChecked_fails h]
  exact ⟨answered.queue, rfl, rfl, answered.answer⟩

theorem sbHeldOrChecked_held {cs : List (Bool × Nat)} {go : State} (h : cs.find? (·.1) = none) (held : journalHeld s = true) :
    sbHeldOrChecked s r cs go = wakeModule s := if_pos (by rw [all_of_find_none h, held]; rfl)

/-- The entry of a reset, then its answer and the reset asked for. -/
theorem sbHeldOrChecked_takes {cs : List (Bool × Nat)} {e : JEntry} (hq : s.sb.queue = r :: q) (h : cs.find? (·.1) = none)
    (takes : JournalTakes s) (origin : e.origin = 3) (obj : e.objKind = 0x0E) (hid : e.objId = id)
    (action : e.action = 2) : ResetTaken s r q kind f id
      (.next (sbHeldOrChecked s r cs (askReset (respond (journalWrite s.drawn e) r stOk []) kind f))) := by
  have goes : sbHeldOrChecked s r cs (askReset (respond (journalWrite s.drawn e) r stOk []) kind f) =
      askReset (respond (journalWrite s.drawn e) r stOk []) kind f := by
    rw [sbHeldOrChecked, takes.held, Bool.and_false, if_neg Bool.false_ne_true, sbChecked_passes h]
  have written := journalWrite_noticed s.drawn e
  have answered := respond_answers (written.queue.trans hq) stOk []
  obtain ⟨asked, first⟩ := askReset_asked (respond (journalWrite s.drawn e) r stOk []) kind f
  have drawn : JournalTakes s.drawn := ⟨takes.held, takes.lost, takes.bootDue, takes.full⟩
  refine ⟨_, { e with number := s.journal.next, time := s.now, prev := s.journal.chain % 2 ^ 64 }, congrArg _ goes, ?_, ?_, ?_,
    origin, obj, hid, action, asked, fun none_asked => first (written.resetAsked.trans none_asked)⟩
  · rw [askReset_sb]; exact answered.queue
  · rw [askReset_sb]; exact answered.answer
  · rw [askReset_sb]
    change (journalWrite s.drawn e).journal.entries.head? = _
    rw [drawn.write]
    exact journalPut_head s.drawn e

/-- The rows of an accepted reset by the state of the journal. -/
theorem sbHeldOrChecked_rows {cs : List (Bool × Nat)} {e : JEntry} (hq : s.sb.queue = r :: q)
    (full : s.journal.full = true → cs.find? (·.1) = some (true, stJournalFull))
    (room : s.journal.full = false → cs.find? (·.1) = none) (origin : e.origin = 3) (obj : e.objKind = 0x0E)
    (hid : e.objId = id) (action : e.action = 2) {o : Host.Outcome State Fault Refusal}
    (ho : o = .next (sbHeldOrChecked s r cs (askReset (respond (journalWrite s.drawn e) r stOk []) kind f))) :
    (s.journal.full = true → ResetRefused s r q stJournalFull o) ∧
      (s.journal.full = false → journalHeld s = true → o = .next (wakeModule s)) ∧
      (s.journal.full = false → journalHeld s = false → s.journal.lost = 0 → s.journal.bootDue = false →
        ResetTaken s r q kind f id o) := by
  subst ho
  exact ⟨fun h => sbHeldOrChecked_refuses hq rfl (full h), fun h held => congrArg _ (sbHeldOrChecked_held (room h) held),
    fun h open_ lost boot => sbHeldOrChecked_takes hq (room h) ⟨open_, lost, boot, h⟩ origin obj hid action⟩

section
variable (hw : s.watchOn = true) (hq : s.sb.queue = r :: q) (hf : r.func = 6)
include hw hq hf

theorem asked_reset {k : Nat} (hk : (bodyNat r 0 1 == k || (k == 3 && (bodyNat r 0 1 == 0 || decide (3 < bodyNat r 0 1)))) = true) :
    asked s (asksReset k) = some r := asked_head hw hq (by rw [asksReset, hf, resetKindOf]; exact hk)

theorem execSbColdReset_asked (hk : bodyNat r 0 1 = 1) : execSbColdReset s =
    .next (sbHeldOrChecked s r [(r.body.length != 2, stBadField), sbFull s]
      (askReset (respond (resetEntry s JOrigin.sideband) r stOk []) 1 0)) := by
  rw [execSbColdReset, asked_reset hw hq hf (k := 1) (by simp [hk])]
  rfl

theorem execSbWarmReset_asked (hk : bodyNat r 0 1 = 2) : execSbWarmReset s =
    .next (sbHeldOrChecked s r [(!s.powered, stNotReady), (r.body.length != 2, stBadField), sbFull s]
      (askReset (respond (resetEntry s JOrigin.sideband) r stOk []) 2 0)) := by
  rw [execSbWarmReset, asked_reset hw hq hf (k := 2) (by simp [hk])]
  rfl

theorem execSbFormeReset_asked (hk : bodyNat r 0 1 = 0 ∨ 3 ≤ bodyNat r 0 1) : execSbFormeReset s =
    .next (sbHeldOrChecked s r [notReady s, (r.body.length != 2 || bodyNat r 0 1 != 3, stBadField),
        ((getForme s (bodyNat r 1 1)).isNone, stNoForme), sbFull s]
      (askReset (respond (journalWrite s.drawn (jEntry (JOrigin.sideband.about (bodyNat r 1 1)) 0x0E (bodyNat r 1 1) 2 0
        (openDigest s).2)) r stOk []) 3 (bodyNat r 1 1))) := by
  have kind : (bodyNat r 0 1 == 3 || (3 == 3 && (bodyNat r 0 1 == 0 || decide (3 < bodyNat r 0 1)))) = true := by
    obtain h | h | h : bodyNat r 0 1 = 3 ∨ bodyNat r 0 1 = 0 ∨ 3 < bodyNat r 0 1 := by omega
    · simp [h]
    · simp [h]
    · simp [h]
  rw [execSbFormeReset, asked_reset hw hq hf (k := 3) kind]
  dsimp only
  split
  next waits => exact congrArg _ (if_pos waits).symm
  next goes => exact congrArg _ (if_neg goes).symm

end

/-! ## A reset begins -/

theorem resetBegins_asked {kind f : Nat} (hw : s.watchOn = true) (sent : resetAnswered s = true)
    (h : (kind, f) ∈ s.sb.resetAsked) : ∃ g, resetBegins s kind = some g := by
  have found : (s.sb.resetAsked.find? (fun x => x.1 == kind)).isSome = true :=
    List.find?_isSome.mpr ⟨(kind, f), h, beq_self_eq_true kind⟩
  obtain ⟨x, hx⟩ := Option.isSome_iff_exists.mp found
  exact ⟨x.2, by rw [resetBegins, hw, sent, Bool.and_self, if_pos rfl, hx]; rfl⟩

theorem resetBegins_of_list {l : List (Nat × Nat)} (hw : s.watchOn = true) (sent : resetAnswered s = true)
    (h : s.sb.resetAsked = l) (kind : Nat) : resetBegins s kind = (l.find? (fun x => x.1 == kind)).map (·.2) := by
  rw [resetBegins, hw, sent, Bool.and_self, if_pos rfl, h]

theorem resetAnswered_of_sent (h : ∀ o ∈ s.sb.out, ¬(o.type = 2 ∧ o.func = 6)) : resetAnswered s = true := by
  rw [resetAnswered, Bool.not_eq_true', List.any_eq_false]
  simpa using h

section
variable (hw : s.watchOn = true) (hq : s.sb.queue = []) (sent : ∀ o ∈ s.sb.out, ¬(o.type = 2 ∧ o.func = 6))
include hw hq sent

theorem execSbColdReset_begins (h : ∃ f, (1, f) ∈ s.sb.resetAsked) : execSbColdReset s = .next (coldReset s) := by
  obtain ⟨f, h⟩ := h
  obtain ⟨g, begins⟩ := resetBegins_asked hw (resetAnswered_of_sent sent) h
  rw [execSbColdReset, asked_empty hq, begins]

theorem execSbWarmReset_begins (h : ∃ f, (2, f) ∈ s.sb.resetAsked) :
    execSbWarmReset s = .next (moduleReset s 2 true) := by
  obtain ⟨f, h⟩ := h
  obtain ⟨g, begins⟩ := resetBegins_asked hw (resetAnswered_of_sent sent) h
  rw [execSbWarmReset, asked_empty hq, begins]

/-- A forme reset begins: its passes are aborted, and it goes on as far as it can. -/
theorem execSbFormeReset_begins (h : s.sb.resetAsked = [(3, f)]) (still : resetRuns s f noSlot = false)
    (there : (getForme s f).any (·.destroying) = false) : execSbFormeReset s =
      .next (sbFormeStep (abortForme { s with sb := { s.sb with resetAsked := [(4, f)] } } f noSlot) f) := by
  have begins := resetBegins_of_list hw (resetAnswered_of_sent sent) h 3
  have steps : sbFormeSteps s = s := by rw [sbFormeSteps, h]; rfl
  have moved : askReset (dropAsked s 3 f) 4 f = { s with sb := { s.sb with resetAsked := [(4, f)] } } := by
    simp [askReset, dropAsked, modSb, h]
  rw [execSbFormeReset, asked_empty hq, begins]
  simp only [List.find?_cons, beq_self_eq_true, Option.map_some, steps, still, there, Bool.or_self, moved]
  rfl

/-- One under way goes on as far as it can. -/
theorem execSbFormeReset_goesOn (h : s.sb.resetAsked = [(4, f)]) : execSbFormeReset s = .next (sbFormeStep s f) := by
  have begins := resetBegins_of_list hw (resetAnswered_of_sent sent) h 3
  have steps : sbFormeSteps s = sbFormeStep s f := by rw [sbFormeSteps, h]; rfl
  rw [execSbFormeReset, asked_empty hq, begins]
  exact congrArg _ steps

end

/-! ## Sending -/

/-- The newest key signs. -/
theorem newest_key {ks : List (Nat × Nat)} {g k : Nat} (b : Option (Nat × Nat))
    (h : b = some (g, k) ∨ (g, k) ∈ ks) (all : ∀ x ∈ ks, x.1 < g ∨ x = (g, k)) (first : ∀ x, b = some x → x.1 < g ∨ x = (g, k)) :
    ks.foldl (fun b k => match b with
      | none => some k
      | some x => if x.1 < k.1 then some k else some x) b = some (g, k) := by
  induction ks generalizing b with
  | nil => exact h.resolve_right List.not_mem_nil
  | cons y ks ih =>
    have hy := all y (List.mem_cons_self ..)
    have rest : ∀ x ∈ ks, x.1 < g ∨ x = (g, k) := fun x hx => all x (List.mem_cons_of_mem _ hx)
    rw [List.foldl_cons]
    cases b with
    | none =>
      refine ih (some y) ?_ rest fun x hx => ?_
      · obtain h | h := h
        · cases h
        · exact (List.mem_cons.mp h).imp (fun e => by rw [e]) id
      · cases hx
        exact hy
    | some z =>
      have hz := first z rfl
      dsimp only
      split
      next less =>
        refine ih (some y) ?_ rest fun x hx => by cases hx; exact hy
        obtain h | h := h
        · cases h
          have : ¬ g < y.1 := by obtain hy | hy := hy <;> simp_all; omega
          exact absurd less this
        · exact (List.mem_cons.mp h).imp (fun e => by rw [e]) id
      next notLess =>
        refine ih (some z) ?_ rest fun x hx => by cases hx; exact hz
        obtain h | h := h
        · exact .inl h
        · obtain e | h := List.mem_cons.mp h
          · subst e
            exact .inl (congrArg some (hz.resolve_left notLess))
          · exact .inr h

theorem signKey_newest {g k : Nat} (h : (g, k) ∈ s.config.keys) (all : ∀ x ∈ s.config.keys, x.1 < g ∨ x = (g, k)) :
    signKey s = some (g, k) := newest_key none (.inr h) all fun _ hx => nomatch hx

theorem execTransmitOpportunity_sends {o : SbOut} {rest : List SbOut} (hw : s.watchOn = true)
    (mode : s.sb.mode = .plca ∨ (s.sb.mode = .csmaCd ∧ s.sb.backingOff = false)) (hout : s.sb.out = o :: rest) :
    execTransmitOpportunity s = .next (sendHead s o) := by
  have can : (s.watchOn && (s.sb.mode == .plca || s.sb.mode == .csmaCd && !s.sb.backingOff)) = true := by
    obtain mode | ⟨mode, free⟩ := mode
    · simp [hw, mode]
    · simp [hw, mode, free]
  unfold execTransmitOpportunity
  dsimp only
  rw [can, hout]

theorem execTransmitOpportunity_silent (h : s.sb.out = [] ∨ s.sb.mode = .badId ∨ s.sb.mode = .noKey) :
    execTransmitOpportunity s = .next s := by
  unfold execTransmitOpportunity
  dsimp only
  split
  next o rest can hout =>
    obtain h | h | h := h
    · rw [h] at hout
      cases hout
    · simp [h] at can
    · simp [h] at can
  next => rfl

theorem execInvalidBeaconTimeout_lost (hw : s.watchOn = true) (mode : s.sb.mode = .plca) :
    ∃ t, execInvalidBeaconTimeout s = .next t ∧ t.sb.mode = .csmaCd ∧
      t.sb.counters.plcaLost = min (2 ^ 32 - 1) (s.sb.counters.plcaLost + 1) ∧ t.sb.out = s.sb.out := by
  have on : (s.watchOn && s.sb.mode == .plca) = true := by simp [hw, mode]
  exact ⟨_, if_pos on, rfl, rfl, rfl⟩

theorem execBeaconReceived_back (hw : s.watchOn = true) (mode : s.sb.mode = .csmaCd) :
    ∃ t, execBeaconReceived s = .next t ∧ t.sb.mode = .plca ∧ t.sb.attempts = 0 ∧ t.sb.backingOff = false ∧
      t.sb.out = s.sb.out := by
  have on : (s.watchOn && s.sb.mode == .csmaCd) = true := by simp [hw, mode]
  exact ⟨_, if_pos on, rfl, rfl, rfl, rfl⟩

theorem execCollision_counts (hw : s.watchOn = true) (mode : s.sb.mode = .csmaCd) (free : s.sb.backingOff = false)
    (waits : s.sb.out ≠ []) : ∃ t, execCollision s = .next t ∧
      t.sb.counters.collisions = min (2 ^ 32 - 1) (s.sb.counters.collisions + 1) ∧
      (s.sb.attempts + 1 < 16 → t.sb.out = s.sb.out ∧ t.sb.attempts = s.sb.attempts + 1 ∧ t.sb.backingOff = true) ∧
      (16 ≤ s.sb.attempts + 1 → t.sb.out = s.sb.out.drop 1 ∧ t.sb.attempts = 0 ∧
        t.sb.counters.excessColl = min (2 ^ 32 - 1) (s.sb.counters.excessColl + 1)) := by
  have on : (s.watchOn && s.sb.mode == .csmaCd && !s.sb.backingOff && !s.sb.out.isEmpty) = true := by
    simp [hw, mode, free, waits]
  unfold execCollision
  rw [if_pos on]
  by_cases last : s.sb.attempts + 1 ≥ 16
  · exact ⟨_, if_pos last, rfl, fun more => absurd last (Nat.not_le.mpr more), fun _ => ⟨rfl, rfl, rfl⟩⟩
  · exact ⟨_, if_neg last, rfl, fun _ => ⟨rfl, rfl, rfl⟩, fun no => absurd no last⟩

theorem withRecord_noticed (s : State) : Noticed s (withRecord s) := by
  unfold withRecord
  split
  · split
    · exact .push (.refl s) _
    · exact .refl s
  · exact .refl s

/-- Among the messages is the announcement, and in a retired node its record behind it. -/
theorem announceNow_noticed (s : State) : { type := 3, func := 0x10, status := 0, reqSeq := 0, body := announceBody s } ∈
    (announceNow s).sb.out := by
  obtain ⟨os, h⟩ := withRecord_noticed (pushNotice s { type := 3, func := 0x10, status := 0, reqSeq := 0, body := announceBody s })
  rw [announceNow, h]
  exact List.mem_append_left _ (List.mem_append_right _ (List.mem_singleton_self _))

/-! ## The obligation -/

/-- Settles O50: the requests for each kind of reset, their beginnings, and the rows that send. -/
theorem resetsAreTakenAndFramesSent : Obligations.ResetsAreTakenAndFramesSent := by
  unfold Obligations.ResetsAreTakenAndFramesSent
  refine ⟨fun r q s hw hq hf => ⟨fun hk => ?cold, fun hk => ?warm, fun hk => ?forme⟩,
    fun s hw hq sent => ⟨execSbColdReset_begins hw hq sent, execSbWarmReset_begins hw hq sent,
      fun f => execSbFormeReset_begins hw hq sent, fun f => execSbFormeReset_goesOn hw hq sent⟩,
    fun s hw => ⟨fun o rest g k mode hout key newest => ?sends, execTransmitOpportunity_silent,
      execInvalidBeaconTimeout_lost hw, execBeaconReceived_back hw, execCollision_counts hw, rfl,
      ⟨_, if_pos hw, announceNow_noticed s⟩⟩⟩
  case cold =>
    have asked := execSbColdReset_asked hw hq hf hk
    rw [← hf]
    refine ⟨fun hlen => ?_, fun hlen => ?_⟩
    · exact sbHeldOrChecked_refuses hq asked (b := true) (by simp [hlen])
    · exact sbHeldOrChecked_rows hq (fun full => by simp [hlen, sbFull, full]) (fun room => by simp [hlen, sbFull, room])
        rfl rfl rfl rfl asked
  case warm =>
    have asked := execSbWarmReset_asked hw hq hf hk
    rw [← hf]
    refine ⟨fun off => ?_, fun on hlen => ?_, fun on hlen => ?_⟩
    · exact sbHeldOrChecked_refuses hq asked (b := true) (by simp [off])
    · exact sbHeldOrChecked_refuses hq asked (b := true) (by simp [on, hlen])
    · exact sbHeldOrChecked_rows hq (fun full => by simp [on, hlen, sbFull, full]) (fun room => by simp [on, hlen, sbFull, room])
        rfl rfl rfl rfl asked
  case forme =>
    have asked := execSbFormeReset_asked hw hq hf hk
    rw [← hf]
    refine ⟨fun off => ?_, fun on bad => ?_, fun on hk hlen => ⟨fun lacks => ?_, fun there => ?_⟩⟩
    · exact sbHeldOrChecked_refuses hq asked (b := true) (by simp [notReady, off])
    · have wrong : (r.body.length != 2 || bodyNat r 0 1 != 3) = true := by simpa [or_comm] using bad
      exact sbHeldOrChecked_refuses hq asked (b := true) (by simp [notReady, on, wrong])
    · exact sbHeldOrChecked_refuses hq asked (b := true) (by simp [notReady, on, hk, hlen, lacks])
    · have some_there : (getForme s (bodyNat r 1 1)).isNone = false := by rwa [← Option.not_isSome, Bool.not_eq_false']
      exact sbHeldOrChecked_rows hq (fun full => by simp [notReady, on, hk, hlen, some_there, sbFull, full])
        (fun room => by simp [notReady, on, hk, hlen, some_there, sbFull, room]) rfl rfl rfl rfl asked
  case sends =>
    refine ⟨_, execTransmitOpportunity_sends hw mode hout, ?_⟩
    unfold sendHead
    rw [signKey_newest key newest]
    exact ⟨congrArg (List.drop 1) hout, rfl, rfl, rfl, rfl⟩

end Sys2Proof.Machine
end

section
/-! PROOFS. Frames received over the sideband, and the requests that are served at once (17 R563 to R571). -/

namespace Sys2Proof.Machine

open Sys2Proof

variable {s t u : State} {r : SbReq} {q : List SbReq} {f : SbFrame}

/-! ## The answer to a stale request -/

/-- The answer to a stale request: the boot count and the mark (R568). -/
def staleAnswer (s : State) (f : SbFrame) : State :=
  pushNotice (modSb s (fun b => { b with staleAt := some s.now }))
    { type := 2, func := f.func, status := stStaleSeq, reqSeq := f.seq, body := toBytes 8 (bootOf s) ++ toBytes 8 s.sb.mark }

/-- The first stale request in 100 ms is answered. -/
theorem answerStale_answers (due : ∀ x, s.sb.staleAt = some x → x + 100000000 ≤ s.now) :
    answerStale s f = staleAnswer s f := by
  unfold answerStale
  cases h : s.sb.staleAt with
  | none => rfl
  | some x => exact if_pos (decide_eq_true (due x h))

theorem answerStale_silent {x : Nat} (h : s.sb.staleAt = some x) (soon : s.now < x + 100000000) : answerStale s f = s := by
  unfold answerStale
  rw [h]
  exact if_neg (by simpa using soon)

theorem answerStale_cases (s : State) (f : SbFrame) : answerStale s f = staleAnswer s f ∨ answerStale s f = s := by
  by_cases due : ∀ x, s.sb.staleAt = some x → x + 100000000 ≤ s.now
  · exact .inl (answerStale_answers due)
  · push Not at due
    obtain ⟨x, hx, soon⟩ := due
    exact .inr (answerStale_silent hx soon)

/-! ## What the receiving and sending rows leave alone -/

/-- Only the sideband, the draws and the wake that is asked for differ. -/
def SbOnly (s t : State) : Prop := t = { s with sb := t.sb, free := t.free, waking := t.waking }

theorem SbOnly.refl (s : State) : SbOnly s s := rfl

theorem SbOnly.trans (h : SbOnly s t) (k : SbOnly t u) : SbOnly s u := by
  unfold SbOnly at *
  rw [k, h]

theorem SbOnly.modSb (s : State) (g : Sideband → Sideband) : SbOnly s (modSb s g) := rfl

theorem SbOnly.count (s : State) (g : SbCounters → SbCounters) : SbOnly s (count s g) := rfl

theorem SbOnly.push (s : State) (o : SbOut) : SbOnly s (pushNotice s o) := rfl

theorem SbOnly.respond (s : State) (r : SbReq) (status : Nat) (body : List Byte) : SbOnly s (respond s r status body) := rfl

theorem SbOnly.wakeModule (s : State) : SbOnly s (wakeModule s) := by
  unfold Machine.wakeModule
  split
  · rfl
  · rfl

theorem SbOnly.withRecord (s : State) : SbOnly s (withRecord s) := by
  unfold Machine.withRecord
  split
  · split
    · rfl
    · rfl
  · rfl

theorem SbOnly.sbChecked {go : State} (cs : List (Bool × Nat)) (r : SbReq) (h : SbOnly s go) : SbOnly s (sbChecked s r cs go) := by
  unfold Machine.sbChecked
  split
  · rfl
  · exact h

/-- The row answers a state in which only the sideband differs. -/
def SbAnswers (s : State) (o : Host.Outcome State Fault Refusal) : Prop := ∀ t, o = .next t → SbOnly s t

theorem SbAnswers.next (h : SbOnly s t) : SbAnswers s (.next t) := fun _ e => by cases e; exact h

theorem SbAnswers.ite {c : Prop} [Decidable c] {a b : Host.Outcome State Fault Refusal} (h : SbAnswers s a) (k : SbAnswers s b) :
    SbAnswers s (if c then a else b) := by
  split
  · exact h
  · exact k

theorem execSbFrameReceive_only (f : SbFrame) (s : State) : SbAnswers s (execSbFrameReceive f s) := by
  have stale : SbOnly s (answerStale (count s (fun c => { c with staleSeq := sat32 c.staleSeq })) f) := by
    obtain h | h := answerStale_cases (count s (fun c => { c with staleSeq := sat32 c.staleSeq })) f
    · rw [h]
      rfl
    · rw [h]
      rfl
  refine .ite (.next (.refl s)) (.ite (.next rfl) (.ite (.next rfl) (.ite (.next rfl) (.ite (.next rfl) (.ite (.next rfl)
    (.ite (.next rfl) (.ite (.next stale) (.ite (.next rfl) (.next rfl)))))))))

theorem execSbStatus_only (s : State) : SbAnswers s (execSbStatus s) := by
  unfold execSbStatus
  split
  · exact .next (.refl s)
  · refine .ite (.next (.sbChecked _ _ ?_)) (.next rfl)
    exact (SbOnly.respond ..).trans (.withRecord _)

theorem execSbTelemetry_only (s : State) : SbAnswers s (execSbTelemetry s) := by
  unfold execSbTelemetry
  split
  · exact .next (.refl s)
  · refine .ite (.ite (.next (.wakeModule s)) (.next rfl)) ?_
    split
    · exact .next rfl
    · exact .next (.sbChecked _ _ rfl)

theorem execTransmitOpportunity_only (s : State) : SbAnswers s (execTransmitOpportunity s) := by
  unfold execTransmitOpportunity
  dsimp only
  split
  · refine .next ?_
    unfold sendHead
    split
    · exact .refl s
    · rfl
  · exact .next (.refl s)

theorem execCollision_only (s : State) : SbAnswers s (execCollision s) :=
  .ite (.ite (.next rfl) (.next rfl)) (.next (.refl s))

theorem sbRows_only {c : Instr} (h : isSbRow c = true) (s : State) : SbAnswers s (exec c s) := by
  cases c with
  | sbFrameReceive f => exact execSbFrameReceive_only f s
  | sbStatus => exact execSbStatus_only s
  | sbTelemetry => exact execSbTelemetry_only s
  | snapshotExpiry g => exact .next rfl
  | transmitOpportunity => exact execTransmitOpportunity_only s
  | invalidBeaconTimeout => exact .ite (.next rfl) (.next (.refl s))
  | beaconReceived => exact .ite (.next rfl) (.next (.refl s))
  | collision => exact execCollision_only s
  | csmaCdBackoffExpiry => exact .next rfl
  | announce => exact .ite (.next ((SbOnly.push ..).trans (.withRecord _))) (.next (.refl s))
  | _ => cases h

/-! ## Frames received (17 Table 17.3) -/

section
variable (hw : s.watchOn = true)
include hw

theorem frame_fcs (h : f.fcsOk = false) :
    execSbFrameReceive f s = .next (count s (fun c => { c with fcsErr := sat32 c.fcsErr })) := by
  simp only [execSbFrameReceive, hw, h, Bool.not_true, Bool.false_eq_true, if_false, Bool.not_false, if_true]

theorem frame_notOurs (fcs : f.fcsOk = true) (h : f.etherType ≠ 0x88B5) :
    execSbFrameReceive f s = .next (count s (fun c => { c with notOurs := sat32 c.notOurs })) := by
  simp only [execSbFrameReceive, hw, fcs, Bool.not_true, Bool.false_eq_true, if_false]
  exact if_pos h

variable (fcs : f.fcsOk = true) (ether : f.etherType = 0x88B5)
include fcs ether

theorem frame_dstOther (h : f.dst ≠ s.pins.sbIdAtReset ∨ s.sb.mode = .badId) :
    execSbFrameReceive f s = .next (count s (fun c => { c with dstOther := sat32 c.dstOther })) := by
  simp only [execSbFrameReceive, hw, fcs, ether, Bool.not_true, Bool.false_eq_true, if_false, ne_eq, not_true_eq_false]
  exact if_pos h

theorem frame_noKey (dst : f.dst = s.pins.sbIdAtReset) (h : s.sb.mode = .noKey) :
    execSbFrameReceive f s = .next (count s (fun c => { c with badTag := sat32 c.badTag })) := by
  simp [execSbFrameReceive, hw, fcs, ether, dst, h]

variable (dst : f.dst = s.pins.sbIdAtReset) (bad : s.sb.mode ≠ .badId) (key : s.sb.mode ≠ .noKey)
include dst bad key

/-- A frame for this node, in a mode in which the sideband takes frames, meets the checks from the fourth on. -/
theorem frame_forNode : execSbFrameReceive f s =
    if malformed f then .next (count s (fun c => { c with malformed := sat32 c.malformed }))
    else if !tagGood s f then .next (count s (fun c => { c with badTag := sat32 c.badTag }))
    else if staleSeq s f then .next (answerStale (count s (fun c => { c with staleSeq := sat32 c.staleSeq })) f)
    else if s.sb.queue.length ≥ 4 then .next (count s (fun c => { c with overrun := sat32 c.overrun }))
    else .next (acceptFrame s f) := by
  simp only [execSbFrameReceive, hw, fcs, ether, dst, bad, key, Bool.not_true, Bool.false_eq_true, if_false, ne_eq,
    not_true_eq_false, false_or]

theorem frame_malformed (h : f.version ≠ 1 ∨ f.len ≠ f.body.length ∨ 1088 < f.len ∨ f.reserved ≠ 0 ∨ f.type ≠ 1 ∨ f.src ≠ 0) :
    execSbFrameReceive f s = .next (count s (fun c => { c with malformed := sat32 c.malformed })) := by
  rw [frame_forNode hw fcs ether dst bad key]
  refine if_pos ?_
  simp only [malformed, Bool.or_eq_true, bne_iff_ne, decide_eq_true_eq, or_assoc]
  exact h

variable (good : malformed f = false)
include good

theorem frame_badTag (tag : tagGood s f = false) :
    execSbFrameReceive f s = .next (count s (fun c => { c with badTag := sat32 c.badTag })) := by
  rw [frame_forNode hw fcs ether dst bad key, good, tag]
  rfl

variable (tag : tagGood s f = true)
include tag

theorem frame_stale (h : f.seq / 2 ^ 32 ≠ s.sec.bootCount % 2 ^ 32 ∨ f.seq % 2 ^ 32 ≤ s.sb.mark) :
    execSbFrameReceive f s = .next (answerStale (count s (fun c => { c with staleSeq := sat32 c.staleSeq })) f) := by
  have stale : staleSeq s f = true := by
    simp only [staleSeq, bootOf, Bool.or_eq_true, bne_iff_ne, decide_eq_true_eq]
    exact h
  rw [frame_forNode hw fcs ether dst bad key, good, tag, stale]
  rfl

theorem frame_fresh (boot : f.seq / 2 ^ 32 = s.sec.bootCount % 2 ^ 32) (mark : s.sb.mark < f.seq % 2 ^ 32) :
    execSbFrameReceive f s = if s.sb.queue.length ≥ 4 then .next (count s (fun c => { c with overrun := sat32 c.overrun }))
      else .next (acceptFrame s f) := by
  have fresh : staleSeq s f = false := by
    simp only [staleSeq, bootOf, Bool.or_eq_false_iff, bne_eq_false_iff_eq, decide_eq_false_iff_not, Nat.not_le]
    exact ⟨boot, mark⟩
  rw [frame_forNode hw fcs ether dst bad key, good, tag, fresh]
  rfl

end

theorem malformed_none (version : f.version = 1) (len : f.len = f.body.length) (short : f.len ≤ 1088) (reserved : f.reserved = 0)
    (type : f.type = 1) (src : f.src = 0) : malformed f = false := by
  simp [malformed, version, ← len, short, reserved, type, src]

theorem answerStale_keeps (s : State) (f : SbFrame) : (answerStale s f).sb.counters = s.sb.counters ∧
    (answerStale s f).sb.mark = s.sb.mark ∧ (answerStale s f).sb.queue = s.sb.queue := by
  obtain h | h := answerStale_cases s f
  · rw [h]
    exact ⟨rfl, rfl, rfl⟩
  · rw [h]
    exact ⟨rfl, rfl, rfl⟩

/-! ## Requests served (17 R569) -/

/-- The request is answered, and `P` holds of the state then. -/
def SbServed (r : SbReq) (q : List SbReq) (o : Host.Outcome State Fault Refusal) (status : Nat) (body : List Byte)
    (P : State → Prop) : Prop :=
  ∃ t, o = .next t ∧ t.sb.queue = q ∧
    { type := 2, func := r.func, status := status, reqSeq := r.seq, body := body } ∈ t.sb.out ∧ P t

/-- The request is refused: formes, Platens and journal stay. -/
def SbRefused (s : State) (r : SbReq) (q : List SbReq) (o : Host.Outcome State Fault Refusal) (status : Nat) : Prop :=
  SbServed r q o status [] (fun t => t.formes = s.formes ∧ t.platens = s.platens ∧ t.journal = s.journal)

section
variable {o : Host.Outcome State Fault Refusal} {status : Nat} {body : List Byte} {P : State → Prop}

theorem sbServed_of_respond (ho : o = .next (respond u r status body)) (hu : u.sb.queue = r :: q)
    (hP : P (respond u r status body)) : SbServed r q o status body P :=
  have answered := respond_answers hu status body
  ⟨_, ho, answered.queue, answered.answer, hP⟩

theorem sbRefused_of_respond (hq : s.sb.queue = r :: q) (ho : o = .next (respond s r status [])) : SbRefused s r q o status :=
  sbServed_of_respond ho hq ⟨rfl, rfl, rfl⟩

variable {cs : List (Bool × Nat)} {go : State} {b : Bool}

theorem sbRefused_of_checked (hq : s.sb.queue = r :: q) (ho : o = .next (sbChecked s r cs go))
    (h : cs.find? (·.1) = some (b, status)) : SbRefused s r q o status :=
  sbRefused_of_respond hq (ho.trans (congrArg _ (sbChecked_fails h)))

theorem sbRefused_of_held (hq : s.sb.queue = r :: q) (ho : o = .next (sbHeldOrChecked s r cs go))
    (h : cs.find? (·.1) = some (b, status)) : SbRefused s r q o status := by
  refine sbRefused_of_checked (cs := cs) (go := go) hq (ho.trans (congrArg _ (if_neg ?_))) h
  rw [all_of_find h]
  exact Bool.false_ne_true

theorem sbHeldOrChecked_goes (h : cs.find? (·.1) = none) (open_ : journalHeld s = false) : sbHeldOrChecked s r cs go = go := by
  rw [sbHeldOrChecked, open_, Bool.and_false, if_neg Bool.false_ne_true, sbChecked_passes h]

end

/-! ### The checks of POWER_STATE and CAP_SET, and what they set -/

def sbPowerChecks (s : State) (r : SbReq) : List (Bool × Nat) :=
  [notReady s, (r.body.length != 2 || decide (bodyNat r 0 1 > 5), stBadField),
    (decide (bodyNat r 1 1 > 3) && bodyNat r 1 1 != 8, stBadField), sbFull s]

/-- The rest state commanded, in module idle without a wake (17 R574). -/
def restSet (s : State) (p st : Nat) : State :=
  if s.moduleIdle then setPower s p (fun x => { x with rest := st }) else applyRest s p st

theorem PowerOnly.restSet (s : State) (p st : Nat) : PowerOnly s (restSet s p st) := by
  unfold Machine.restSet
  split
  · exact .setPower ..
  · exact .applyRest ..

theorem restSet_rest {p : Nat} (st : Nat) (h : (mapGet s.platens p).isSome = true) :
    (getPlaten (restSet s p st) p).rest = st := by
  obtain ⟨x, hx⟩ := Option.isSome_iff_exists.mp h
  unfold restSet
  split
  · rw [getPlaten, mapGetD, mapGet_setPower, hx]
    rfl
  · exact rest_applyRest hx st

/-- The entry, and the rest state. -/
def sbPowerSet (s : State) (p st : Nat) : State :=
  restSet (journalPower s (sbOrigin (formeOfPlaten s p)) (sbPowerFields p st)) p st

theorem Journaled.congr {kind id action new : Nat} (h : Journaled s kind id action new) (e : t.journal = s.journal) :
    Journaled t kind id action new := by rwa [Journaled, e]

theorem respond_platens (s : State) (r : SbReq) (status : Nat) (body : List Byte) :
    (respond s r status body).platens = s.platens := rfl

theorem respond_journal (s : State) (r : SbReq) (status : Nat) (body : List Byte) :
    (respond s r status body).journal = s.journal := rfl

theorem getForme_respond (s : State) (r : SbReq) (status : Nat) (body : List Byte) (f : Nat) :
    getForme (respond s r status body) f = getForme s f := rfl

theorem getPlaten_congr (h : t.platens = s.platens) (p : Nat) : getPlaten t p = getPlaten s p := by
  rw [getPlaten, h]
  rfl

theorem sbPowerSet_noticed (s : State) (p st : Nat) : Noticed s (sbPowerSet s p st) := by
  have only := PowerOnly.restSet (journalPower s (sbOrigin (formeOfPlaten s p)) (sbPowerFields p st)) p st
  have written : Noticed s (journalPower s (sbOrigin (formeOfPlaten s p)) (sbPowerFields p st)) := by
    rw [journalPower_eq]
    exact .trans (t := powerNoted s (sbPowerFields p st)) (.of_sb rfl) (journalWrite_noticed ..)
  refine written.trans (.of_sb ?_)
  rw [sbPowerSet, only.1]

theorem sbPowerSet_journaled (takes : JournalTakes s) (p st : Nat) : Journaled (sbPowerSet s p st) 0x09
    (powerObj (sbPowerFields p st)) 2 (digest16 (toBytes 24 (sbPowerFields p st))) := by
  refine (takes.powerNoted (sbPowerFields p st)).journaled (e := powerJEntry s (sbOrigin (formeOfPlaten s p))
    (sbPowerFields p st)) ?_
  rw [← journalPower_eq]
  exact (PowerOnly.restSet ..).journal

theorem sbPowerSet_rest {p : Nat} (st : Nat) (h : (mapGet s.platens p).isSome = true) :
    (getPlaten (sbPowerSet s p st) p).rest = st := by
  refine restSet_rest st ?_
  rw [journalPower_eq, (journalWrite_frame ..).platens]
  exact h

/-- The body of a POWER_STATE that meets its checks. -/
def SbPowerGood (r : SbReq) : Prop :=
  r.body.length = 2 ∧ bodyNat r 0 1 ≤ 5 ∧ (bodyNat r 1 1 ≤ 3 ∨ bodyNat r 1 1 = 8)

theorem powerObj_sbPowerFields (h : SbPowerGood r) :
    powerObj (sbPowerFields (bodyNat r 0 1) (bodyNat r 1 1)) = 1 + 16 * bodyNat r 0 1 := by
  obtain ⟨-, platen, -⟩ := h
  unfold powerObj sbPowerFields bits
  omega

theorem sbPowerChecks_bad (up : s.up = true) (h : ¬ SbPowerGood r) :
    (sbPowerChecks s r).find? (·.1) = some (true, stBadField) := by
  by_cases first : (r.body.length != 2 || decide (bodyNat r 0 1 > 5)) = true
  · simp [sbPowerChecks, notReady, up, first]
  · have second : (decide (bodyNat r 1 1 > 3) && bodyNat r 1 1 != 8) = true := by
      simp only [Bool.or_eq_true, bne_iff_ne, decide_eq_true_eq, not_or] at first
      simp only [Bool.and_eq_true, bne_iff_ne, decide_eq_true_eq]
      unfold SbPowerGood at h
      omega
    simp [sbPowerChecks, notReady, up, first, second]

/-- With a good body the journal's room alone is left to check. -/
theorem sbPowerChecks_good (up : s.up = true) (h : SbPowerGood r) :
    (sbPowerChecks s r).find? (·.1) = if s.journal.full then some (true, stJournalFull) else none := by
  obtain ⟨len, platen, state⟩ := h
  have first : (r.body.length != 2 || decide (bodyNat r 0 1 > 5)) = false := by simp [len, platen]
  have second : (decide (bodyNat r 1 1 > 3) && bodyNat r 1 1 != 8) = false := by
    simp only [Bool.and_eq_false_iff, bne_eq_false_iff_eq, decide_eq_false_iff_not]
    omega
  cases full : s.journal.full with
  | true => simp [sbPowerChecks, notReady, up, first, second, sbFull, full]
  | false => simp [sbPowerChecks, notReady, up, first, second, sbFull, full]

/-- The scope of a cap: the module, or a forme. -/
def capScope (r : SbReq) : Option Nat := if bodyNat r 2 1 = 4 then none else some (bodyNat r 2 1)

def sbCapChecks (s : State) (r : SbReq) : List (Bool × Nat) :=
  [notReady s, (r.body.length != 3 || bodyNat r 0 2 == 0, stBadField),
    (decide (bodyNat r 2 1 > 4) || wattsBad (bodyNat r 2 1 == 4) (bodyNat r 0 2), stBadField),
    ((capScope r).any (fun f => (getForme s f).isNone), stNoForme), sbFull s]

/-- The body of a CAP_SET that meets its checks. -/
def SbCapGood (r : SbReq) : Prop :=
  r.body.length = 3 ∧ bodyNat r 0 2 ≠ 0 ∧ bodyNat r 2 1 ≤ 4 ∧ wattsBad (bodyNat r 2 1 == 4) (bodyNat r 0 2) = false

theorem sbCapChecks_bad (up : s.up = true) (h : ¬ SbCapGood r) : (sbCapChecks s r).find? (·.1) = some (true, stBadField) := by
  by_cases first : (r.body.length != 3 || bodyNat r 0 2 == 0) = true
  · simp [sbCapChecks, notReady, up, first]
  · have second : (decide (bodyNat r 2 1 > 4) || wattsBad (bodyNat r 2 1 == 4) (bodyNat r 0 2)) = true := by
      simp only [Bool.or_eq_true, bne_iff_ne, beq_iff_eq, not_or, not_not] at first
      obtain ⟨len, watts⟩ := first
      by_contra none_bad
      simp only [Bool.or_eq_true, decide_eq_true_eq, not_or, Nat.not_lt, Bool.not_eq_true] at none_bad
      exact h ⟨len, watts, none_bad⟩
    simp [sbCapChecks, notReady, up, first, second]

/-- With a good body the forme and the journal's room are left to check. -/
theorem sbCapChecks_good (up : s.up = true) (h : SbCapGood r) : (sbCapChecks s r).find? (·.1) =
    if (capScope r).any (fun f => (getForme s f).isNone) then some (true, stNoForme)
    else if s.journal.full then some (true, stJournalFull) else none := by
  obtain ⟨len, watts, scope, range⟩ := h
  have first : (r.body.length != 3 || bodyNat r 0 2 == 0) = false := by simp [len, watts]
  have second : (decide (bodyNat r 2 1 > 4) || wattsBad (bodyNat r 2 1 == 4) (bodyNat r 0 2)) = false := by simp [scope, range]
  cases lacks : (capScope r).any (fun f => (getForme s f).isNone) with
  | true => simp [sbCapChecks, notReady, up, first, second, lacks]
  | false => cases full : s.journal.full <;> simp [sbCapChecks, notReady, up, first, second, lacks, sbFull, full]

/-- The scope is the module, or a forme that is there. -/
theorem capScope_there : (capScope r).any (fun f => (getForme s f).isNone) = false ↔
    (bodyNat r 2 1 = 4 ∨ (getForme s (bodyNat r 2 1)).isSome = true) := by
  unfold capScope
  by_cases module : bodyNat r 2 1 = 4
  · simp [module]
  · simp [module, Option.isSome_iff_ne_none]

/-! ### The checks of TELEMETRY and JOURNAL, and what they do -/

def sbTelChecks (s : State) (r : SbReq) : List (Bool × Nat) :=
  [notReady s, (r.body.length != 5 || decide (bodyNat r 0 1 > 8), stBadField)]

theorem sbTelChecks_notReady (up : s.up = false) : (sbTelChecks s r).find? (·.1) = some (true, stNotReady) := by
  simp [sbTelChecks, notReady, up]

theorem sbTelChecks_bad (up : s.up = true) (h : r.body.length ≠ 5 ∨ 8 < bodyNat r 0 1) :
    (sbTelChecks s r).find? (·.1) = some (true, stBadField) := by
  have bad : (r.body.length != 5 || decide (bodyNat r 0 1 > 8)) = true := by simpa using h
  simp [sbTelChecks, notReady, up, bad]

theorem sbTelChecks_good (up : s.up = true) (len : r.body.length = 5) (group : bodyNat r 0 1 ≤ 8) :
    (sbTelChecks s r).find? (·.1) = none := by
  simp [sbTelChecks, notReady, up, len, group]

/-- The state that keeps a new snapshot of a group. -/
def snapshotTaken (s : State) (g : Nat) : State :=
  modSb s.drawn (fun b => { b with snapshots := mapSet b.snapshots g (wholeGroup (waitsCounted s) g) })

def sbJournalChecks (s : State) (r : SbReq) : List (Bool × Nat) :=
  [notReady s, (r.body.length != 10 || decide (bodyNat r 8 1 > 16) || decide (bodyNat r 9 1 > 1), stBadField),
    (bodyNat r 9 1 == 1 && bodyNat r 0 8 != s.journal.oldestUnexported, stBadField)]

/-- The body of a JOURNAL that meets its checks, whatever number of entries it asks for. -/
def SbJournalFits (s : State) (r : SbReq) : Prop :=
  r.body.length = 10 ∧ bodyNat r 8 1 ≤ 16 ∧ bodyNat r 9 1 ≤ 1 ∧
    (bodyNat r 9 1 = 1 → bodyNat r 0 8 = s.journal.oldestUnexported)

theorem sbJournalChecks_bad (up : s.up = true) (h : ¬ SbJournalFits s r) :
    (sbJournalChecks s r).find? (·.1) = some (true, stBadField) := by
  by_cases first : (r.body.length != 10 || decide (bodyNat r 8 1 > 16) || decide (bodyNat r 9 1 > 1)) = true
  · simp [sbJournalChecks, notReady, up, first]
  · have second : (bodyNat r 9 1 == 1 && bodyNat r 0 8 != s.journal.oldestUnexported) = true := by
      simp only [Bool.or_eq_true, bne_iff_ne, decide_eq_true_eq, not_or, not_not, Nat.not_lt] at first
      obtain ⟨⟨len, count⟩, marks⟩ := first
      by_contra none_bad
      simp only [Bool.and_eq_true, beq_iff_eq, bne_iff_ne, not_and, not_not] at none_bad
      exact h ⟨len, count, marks, none_bad⟩
    simp [sbJournalChecks, notReady, up, first, second]

theorem sbJournalChecks_good (up : s.up = true) (h : SbJournalFits s r) : (sbJournalChecks s r).find? (·.1) = none := by
  obtain ⟨len, count, marks, start⟩ := h
  have second : (bodyNat r 9 1 == 1 && bodyNat r 0 8 != s.journal.oldestUnexported) = false := by
    by_cases marked : bodyNat r 9 1 = 1
    · simp [start marked]
    · simp [marked]
  simp [sbJournalChecks, notReady, up, len, count, marks, second]

/-- The state in which the entries read are marked, where the request says so. -/
def sbJournalGo (s : State) (r : SbReq) : State :=
  if bodyNat r 9 1 = 1 then markExported s JOrigin.sideband (journalFrom s (bodyNat r 0 8) (bodyNat r 8 1)) (bodyNat r 0 8)
  else s

theorem markExported_noticed (s : State) (o : JOrigin) (es : List JEntry) (start : Nat) :
    Noticed s (markExported s o es start) := by
  unfold markExported
  dsimp only
  split
  · exact (journalWrite_noticed ..).trans (.of_sb rfl)
  · exact journalWrite_noticed ..

section
variable (hw : s.watchOn = true) (hq : s.sb.queue = r :: q)
include hw hq

theorem execSbStatus_status (hf : r.func = 1) : execSbStatus s =
    .next (sbChecked s r [(!r.body.isEmpty, stBadField)] (withRecord (respond s r stOk (statusBody s)))) := by
  rw [execSbStatus, asked_head hw hq (by simp [hf])]
  exact if_pos hf

theorem execSbStatus_noFunction (hf : r.func = 0 ∨ 6 < r.func) : execSbStatus s = .next (respond s r stBadOpcode []) := by
  have none_such : knownFunc r.func = false := by
    rw [knownFunc, ← Bool.decide_and, decide_eq_false_iff_not]
    omega
  rw [execSbStatus, asked_head hw hq (by simp [none_such])]
  exact if_neg (by omega)

theorem sbStatus_answers (hf : r.func = 1) (hb : r.body = []) :
    SbServed r q (execSbStatus s) stOk (statusBody s) (fun _ => True) := by
  have goes := (execSbStatus_status hw hq hf).trans (congrArg _ (sbChecked_passes (by simp [hb])))
  have answered := (respond_answers hq stOk (statusBody s)).noticed (withRecord_noticed _)
  exact ⟨_, goes, answered.queue, answered.answer, trivial⟩

theorem execSbPowerState_held (hf : r.func = 2) : execSbPowerState s = .next (sbHeldOrChecked s r (sbPowerChecks s r)
    (respond (sbPowerSet s (bodyNat r 0 1) (bodyNat r 1 1)) r stOk [])) := by
  rw [execSbPowerState, asked_head hw hq (by simp [hf])]
  exact (apply_ite Host.Outcome.next _ _ _).symm

theorem execSbCapSet_held (hf : r.func = 3) : execSbCapSet s = .next (sbHeldOrChecked s r (sbCapChecks s r)
    (respond (applyCap s (sbOrigin (capScope r)) (capScope r) (bodyNat r 0 2)) r stOk [])) := by
  rw [execSbCapSet, asked_head hw hq (by simp [hf])]
  exact (apply_ite Host.Outcome.next _ _ _).symm

theorem sbPower_held (hf : r.func = 2) (h : (sbPowerChecks s r).find? (·.1) = none) (held : journalHeld s = true) :
    execSbPowerState s = .next (wakeModule s) :=
  (execSbPowerState_held hw hq hf).trans (congrArg _ (sbHeldOrChecked_held h held))

theorem sbPower_sets (hf : r.func = 2) (good : SbPowerGood r) (h : (sbPowerChecks s r).find? (·.1) = none)
    (takes : JournalTakes s) : SbServed r q (execSbPowerState s) stOk [] (fun t =>
      Journaled t 0x09 (1 + 16 * bodyNat r 0 1) 2 (digest16 (toBytes 24 (sbPowerFields (bodyNat r 0 1) (bodyNat r 1 1)))) ∧
      ((mapGet s.platens (bodyNat r 0 1)).isSome = true → (getPlaten t (bodyNat r 0 1)).rest = bodyNat r 1 1)) := by
  have ho := (execSbPowerState_held hw hq hf).trans (congrArg _ (sbHeldOrChecked_goes h takes.held))
  refine sbServed_of_respond ho ((sbPowerSet_noticed ..).queue.trans hq) ⟨?_, fun there => ?_⟩
  · rw [← powerObj_sbPowerFields good]
    exact (sbPowerSet_journaled takes (bodyNat r 0 1) (bodyNat r 1 1)).congr (respond_journal ..)
  · rw [getPlaten_congr (respond_platens ..)]
    exact sbPowerSet_rest _ there

theorem sbCap_held (hf : r.func = 3) (h : (sbCapChecks s r).find? (·.1) = none) (held : journalHeld s = true) :
    execSbCapSet s = .next (wakeModule s) :=
  (execSbCapSet_held hw hq hf).trans (congrArg _ (sbHeldOrChecked_held h held))

/-- The cap is set and entered in the journal. -/
theorem sbCap_sets {f : Option Nat} (hf : r.func = 3) (hscope : capScope r = f) (h : (sbCapChecks s r).find? (·.1) = none)
    (takes : JournalTakes s) {P : State → Prop} (hP : ∀ e, P (respond (setCap (journalWrite s e) f (bodyNat r 0 2)) r stOk [])) :
    let e := capEntry s (sbOrigin f) f (bodyNat r 0 2)
    SbServed r q (execSbCapSet s) stOk [] (fun t => P t ∧ Journaled t e.objKind e.objId e.action e.new) := by
  subst hscope
  have ho := (execSbCapSet_held hw hq hf).trans (congrArg _ (sbHeldOrChecked_goes h takes.held))
  rw [applyCap_eq] at ho
  have written := journalWrite_noticed s (capEntry s (sbOrigin (capScope r)) (capScope r) (bodyNat r 0 2))
  have kept (u : State) : (setCap u (capScope r) (bodyNat r 0 2)).sb = u.sb ∧
      (setCap u (capScope r) (bodyNat r 0 2)).journal = u.journal := by
    unfold setCap
    split
    · exact ⟨rfl, rfl⟩
    · exact ⟨rfl, rfl⟩
  refine sbServed_of_respond ho ((congrArg Sideband.queue (kept _).1).trans (written.queue.trans hq)) ⟨hP _, ?_⟩
  exact (takes.journaled (kept (journalWrite s (capEntry s (sbOrigin (capScope r)) (capScope r) (bodyNat r 0 2)))).2).congr
    (respond_journal ..)

/-! ### TELEMETRY -/

theorem execSbTelemetry_asked (hf : r.func = 4) : execSbTelemetry s =
    if (sbTelChecks s r).all (fun c => !c.1) && bodyNat r 1 4 = 0 then
      if s.moduleIdle && needsHomes (bodyNat r 0 1) then .next (wakeModule s)
      else .next (respond (snapshotTaken s (bodyNat r 0 1)) r stOk
        (snapshotBody (wholeGroup (waitsCounted s) (bodyNat r 0 1)) 0))
    else match mapGet s.sb.snapshots (bodyNat r 0 1) with
      | none => .next (respond s r (((sbTelChecks s r).find? (·.1)).map (·.2) |>.getD stExpired) [])
      | some snap => .next (sbChecked s r (sbTelChecks s r ++ [(decide (bodyNat r 1 4 ≥ snap.length), stBadField)])
          (respond s r stOk (snapshotBody snap (bodyNat r 1 4)))) := by
  rw [execSbTelemetry, asked_head hw hq (by simp [hf])]
  rfl

/-- A request whose checks fail is refused, whatever snapshot is kept. -/
theorem sbTelemetry_refuses {b : Bool} {status : Nat} (hf : r.func = 4) (h : (sbTelChecks s r).find? (·.1) = some (b, status)) :
    SbRefused s r q (execSbTelemetry s) status := by
  have ho := execSbTelemetry_asked hw hq hf
  rw [all_of_find h, Bool.false_and, if_neg Bool.false_ne_true] at ho
  cases kept : mapGet s.sb.snapshots (bodyNat r 0 1) with
  | none =>
    rw [kept, h] at ho
    exact sbRefused_of_respond hq ho
  | some snap =>
    rw [kept] at ho
    refine sbRefused_of_checked hq ho (b := b) ?_
    rw [List.find?_append, h]
    rfl

theorem sbTelemetry_takes (hf : r.func = 4) (h : (sbTelChecks s r).find? (·.1) = none) (first : bodyNat r 1 4 = 0)
    (awake : ¬(s.moduleIdle = true ∧ bodyNat r 0 1 = 3)) :
    let snap := wholeGroup (waitsCounted s) (bodyNat r 0 1)
    SbServed r q (execSbTelemetry s) stOk (toBytes 4 snap.length ++ snap.take 1024)
      (fun t => mapGet t.sb.snapshots (bodyNat r 0 1) = some snap) := by
  have ho := execSbTelemetry_asked hw hq hf
  have reads : ¬ (s.moduleIdle && needsHomes (bodyNat r 0 1)) = true := by
    simpa [needsHomes] using awake
  rw [all_of_find_none h, first, decide_eq_true rfl, Bool.and_self, if_pos rfl, if_neg reads] at ho
  exact sbServed_of_respond ho hq (mapGet_mapSet_self ..)

theorem sbTelemetry_wakes (hf : r.func = 4) (h : (sbTelChecks s r).find? (·.1) = none) (first : bodyNat r 1 4 = 0)
    (idle : s.moduleIdle = true) (homes : bodyNat r 0 1 = 3) : execSbTelemetry s = .next { s with waking := true } := by
  have ho := execSbTelemetry_asked hw hq hf
  rw [all_of_find_none h, first, decide_eq_true rfl, Bool.and_self, if_pos rfl, idle, homes] at ho
  exact ho.trans (congrArg _ (if_pos idle))

section
variable (hf : r.func = 4) (h : (sbTelChecks s r).find? (·.1) = none) (later : bodyNat r 1 4 ≠ 0)
include hf h later

theorem sbTelemetry_expired (kept : mapGet s.sb.snapshots (bodyNat r 0 1) = none) :
    SbRefused s r q (execSbTelemetry s) stExpired := by
  have ho := execSbTelemetry_asked hw hq hf
  rw [decide_eq_false later, Bool.and_false, if_neg Bool.false_ne_true, kept, h] at ho
  exact sbRefused_of_respond hq ho

omit h in
theorem execSbTelemetry_kept {x : List Byte} (kept : mapGet s.sb.snapshots (bodyNat r 0 1) = some x) : execSbTelemetry s =
    .next (sbChecked s r (sbTelChecks s r ++ [(decide (bodyNat r 1 4 ≥ x.length), stBadField)])
      (respond s r stOk (snapshotBody x (bodyNat r 1 4)))) := by
  have ho := execSbTelemetry_asked hw hq hf
  rwa [decide_eq_false later, Bool.and_false, if_neg Bool.false_ne_true, kept] at ho

theorem sbTelemetry_beyond {x : List Byte} (kept : mapGet s.sb.snapshots (bodyNat r 0 1) = some x)
    (beyond : x.length ≤ bodyNat r 1 4) : SbRefused s r q (execSbTelemetry s) stBadField := by
  refine sbRefused_of_checked hq (execSbTelemetry_kept hw hq hf later kept) (b := true) ?_
  rw [List.find?_append, h]
  simp [beyond]

theorem sbTelemetry_reads {x : List Byte} (kept : mapGet s.sb.snapshots (bodyNat r 0 1) = some x)
    (within_ : bodyNat r 1 4 < x.length) : SbServed r q (execSbTelemetry s) stOk
      (toBytes 4 x.length ++ (x.drop (bodyNat r 1 4)).take 1024) (fun _ => True) := by
  have passes : (sbTelChecks s r ++ [(decide (bodyNat r 1 4 ≥ x.length), stBadField)]).find? (·.1) = none := by
    rw [List.find?_append, h]
    simp [within_]
  exact sbServed_of_respond ((execSbTelemetry_kept hw hq hf later kept).trans (congrArg _ (sbChecked_passes passes))) hq trivial

end

/-! ### JOURNAL -/

theorem execSbJournal_asked (hf : r.func = 5) : execSbJournal s =
    if (sbJournalChecks s r).all (fun c => !c.1) && (s.moduleIdle || bodyNat r 9 1 == 1 && journalHeld s) then
      .next (wakeModule s)
    else if s.up && r.body.length == 10 && bodyNat r 8 1 == 0 then
      .next (respond s r stOkEmpty (sbJournalBody s [] (bodyNat r 0 8)))
    else .next (sbChecked s r (sbJournalChecks s r) (respond (sbJournalGo s r) r stOk
      (sbJournalBody (sbJournalGo s r) (journalFrom s (bodyNat r 0 8) (bodyNat r 8 1)) (bodyNat r 0 8)))) := by
  rw [execSbJournal, asked_head hw hq (by simp [hf])]
  rfl

theorem sbJournal_refuses {b : Bool} {status : Nat} (hf : r.func = 5)
    (h : (sbJournalChecks s r).find? (·.1) = some (b, status))
    (some_asked : (s.up && r.body.length == 10 && bodyNat r 8 1 == 0) = false) :
    SbRefused s r q (execSbJournal s) status := by
  have ho := execSbJournal_asked hw hq hf
  rw [all_of_find h, Bool.false_and, if_neg Bool.false_ne_true, some_asked, if_neg Bool.false_ne_true] at ho
  exact sbRefused_of_checked hq ho h

theorem sbJournal_empty (hf : r.func = 5) (up : s.up = true) (len : r.body.length = 10) (none_asked : bodyNat r 8 1 = 0)
    (awake : s.moduleIdle = false) (open_ : bodyNat r 9 1 = 1 → journalHeld s = false) :
    SbServed r q (execSbJournal s) stOkEmpty (sbJournalBody s [] (bodyNat r 0 8)) (fun t => t.journal = s.journal) := by
  have ho := execSbJournal_asked hw hq hf
  have goes : (bodyNat r 9 1 == 1 && journalHeld s) = false := by
    by_cases marks : bodyNat r 9 1 = 1
    · rw [open_ marks, Bool.and_false]
    · simp [marks]
  have asks : (s.up && r.body.length == 10 && bodyNat r 8 1 == 0) = true := by simp [up, len, none_asked]
  rw [awake, goes, Bool.or_self, Bool.and_false, if_neg Bool.false_ne_true, asks, if_pos rfl] at ho
  exact sbServed_of_respond ho hq rfl

theorem sbJournal_wakes (hf : r.func = 5) (h : (sbJournalChecks s r).find? (·.1) = none)
    (waits : s.moduleIdle = true ∨ (bodyNat r 9 1 = 1 ∧ journalHeld s = true)) :
    execSbJournal s = .next (wakeModule s) := by
  have held : (s.moduleIdle || bodyNat r 9 1 == 1 && journalHeld s) = true := by simpa using waits
  have ho := execSbJournal_asked hw hq hf
  rwa [all_of_find_none h, held, Bool.and_self, if_pos rfl] at ho

/-- The entries are read, and marked as exported where the request says so. -/
theorem sbJournal_reads (hf : r.func = 5) (h : (sbJournalChecks s r).find? (·.1) = none) (asks : 1 ≤ bodyNat r 8 1)
    (awake : s.moduleIdle = false) (open_ : bodyNat r 9 1 = 1 → journalHeld s = false) {go : State}
    (hgo : sbJournalGo s r = go) (queue : go.sb.queue = s.sb.queue) :
    SbServed r q (execSbJournal s) stOk (sbJournalBody go (journalFrom s (bodyNat r 0 8) (bodyNat r 8 1)) (bodyNat r 0 8))
      (fun t => t.journal = go.journal) := by
  have goes : (bodyNat r 9 1 == 1 && journalHeld s) = false := by
    by_cases marks : bodyNat r 9 1 = 1
    · rw [open_ marks, Bool.and_false]
    · simp [marks]
  have more : (s.up && r.body.length == 10 && bodyNat r 8 1 == 0) = false := by
    have : bodyNat r 8 1 ≠ 0 := by omega
    simp [this]
  have ho := execSbJournal_asked hw hq hf
  rw [awake, goes, Bool.or_self, Bool.and_false, if_neg Bool.false_ne_true, more, if_neg Bool.false_ne_true,
    sbChecked_passes h, hgo] at ho
  exact sbServed_of_respond ho (queue.trans hq) rfl

end

/-! ### The rows together -/

theorem sbPowerChecks_notReady (up : s.up = false) : (sbPowerChecks s r).find? (·.1) = some (true, stNotReady) := by
  simp [sbPowerChecks, notReady, up]

theorem sbCapChecks_notReady (up : s.up = false) : (sbCapChecks s r).find? (·.1) = some (true, stNotReady) := by
  simp [sbCapChecks, notReady, up]

theorem sbJournalChecks_notReady (up : s.up = false) : (sbJournalChecks s r).find? (·.1) = some (true, stNotReady) := by
  simp [sbJournalChecks, notReady, up]

section
variable (hw : s.watchOn = true) (hq : s.sb.queue = r :: q)
include hw hq

/-- A good CAP_SET sets the cap of the module, or of the forme that it names. -/
theorem sbCap_answers (hf : r.func = 3) (h : (sbCapChecks s r).find? (·.1) = none) (takes : JournalTakes s)
    (there : bodyNat r 2 1 = 4 ∨ (getForme s (bodyNat r 2 1)).isSome = true) :
    SbServed r q (execSbCapSet s) stOk [] (fun t =>
      (bodyNat r 2 1 = 4 → t.moduleCap = bodyNat r 0 2 ∧ Journaled t 0x0A 0 2 (digest16 (toBytes 2 (bodyNat r 0 2)))) ∧
      (bodyNat r 2 1 ≠ 4 → (getForme t (bodyNat r 2 1)).map (·.cap) = some (bodyNat r 0 2) ∧
        Journaled t 0x0A (1 + bodyNat r 2 1) 2 (digest16 (toBytes 2 (bodyNat r 0 2))))) := by
  by_cases module : bodyNat r 2 1 = 4
  · obtain ⟨t, ho, queue, answer, cap, entry⟩ := sbCap_sets hw hq (f := none) hf (if_pos module) h takes
      (P := fun t => t.moduleCap = bodyNat r 0 2) (fun _ => rfl)
    exact ⟨t, ho, queue, answer, fun _ => ⟨cap, entry⟩, fun forme => absurd module forme⟩
  · obtain ⟨f, hf'⟩ := Option.isSome_iff_exists.mp (there.resolve_left module)
    obtain ⟨t, ho, queue, answer, cap, entry⟩ := sbCap_sets hw hq (f := some (bodyNat r 2 1)) hf (if_neg module) h takes
      (P := fun t => (getForme t (bodyNat r 2 1)).map (·.cap) = some (bodyNat r 0 2)) (fun e => by
        rw [getForme_respond, setCap, getForme_modForme_self, (journalWrite_frame s e).getForme, hf']
        rfl)
    exact ⟨t, ho, queue, answer, fun m => absurd m module, fun _ => ⟨cap, entry⟩⟩

end

/-- Settles O49. What is the model's in it: BADID counted as DST_OTHER, an unknown FUNC as BAD_OPCODE, a wrong length as BAD_FIELD
and the COUNT 0 body (log 97), the STALE_SEQ code (83), the STATUS body (98) and the journal's fields (58, 60). -/
theorem framesAreCheckedAndRequestsServed : Obligations.FramesAreCheckedAndRequestsServed := by
  unfold Obligations.FramesAreCheckedAndRequestsServed
  refine ⟨fun c s t row h => sbRows_only row s t h, fun f s hw => ⟨frame_fcs hw, frame_notOurs hw,
      fun fcs ether dst => frame_dstOther hw fcs ether dst, fun fcs ether dst key => frame_noKey hw fcs ether dst key,
      fun fcs ether dst bad key => ⟨frame_malformed hw fcs ether dst bad key, fun version len short reserved type src => ?frame⟩⟩,
    fun r q s hw hq => ⟨sbStatus_answers hw hq, ?status, ?noFunction, ?notReady, ?power, ?cap, ?telemetry, ?journal⟩,
    fun g s keys => ⟨_, rfl, mapGet_mapDel_self _ 0 g keys, fun h hne => mapGet_mapDel_ne _ hne⟩⟩
  case frame =>
    have good := malformed_none version len short reserved type src
    refine ⟨frame_badTag hw fcs ether dst bad key good, fun tag old => ?_, fun tag boot mark => ⟨fun full => ?_, fun room => ?_⟩⟩
    · let u := count s (fun c => { c with staleSeq := sat32 c.staleSeq })
      obtain ⟨counters, markKept, queue⟩ := answerStale_keeps u f
      refine ⟨_, frame_stale hw fcs ether dst bad key good tag old, counters, markKept, queue, fun due => ?_, ?_⟩
      · have answers : answerStale u f = staleAnswer u f := answerStale_answers due
        rw [show answerStale (count s (fun c => { c with staleSeq := sat32 c.staleSeq })) f = staleAnswer u f from answers]
        exact ⟨rfl, _, List.mem_append_right _ (List.mem_singleton_self _), rfl, rfl, rfl, rfl, rfl⟩
      · rintro ⟨x, hx, soon⟩
        have silent : answerStale u f = u := answerStale_silent hx soon
        exact congrArg (·.sb.out) silent
    · exact (frame_fresh hw fcs ether dst bad key good tag boot mark).trans (if_pos full)
    · exact (frame_fresh hw fcs ether dst bad key good tag boot mark).trans (if_neg (Nat.not_le.mpr room))
  case status =>
    intro hf hb
    exact sbRefused_of_checked hq (execSbStatus_status hw hq hf) (b := true) (by simp [hb])
  case noFunction => exact fun hf => sbRefused_of_respond hq (execSbStatus_noFunction hw hq hf)
  case notReady =>
    exact fun up => ⟨fun hf => sbRefused_of_held hq (execSbPowerState_held hw hq hf) (sbPowerChecks_notReady up),
      fun hf => sbRefused_of_held hq (execSbCapSet_held hw hq hf) (sbCapChecks_notReady up),
      fun hf => sbJournal_refuses hw hq hf (sbJournalChecks_notReady up) (by simp [up])⟩
  case power =>
    intro up hf
    have checks (good : SbPowerGood r) (room : s.journal.full = false) : (sbPowerChecks s r).find? (·.1) = none :=
      (sbPowerChecks_good up good).trans (by rw [room]; rfl)
    refine ⟨fun bad => sbRefused_of_held hq (execSbPowerState_held hw hq hf) (sbPowerChecks_bad up bad),
      fun good full => sbRefused_of_held hq (execSbPowerState_held hw hq hf) ((sbPowerChecks_good up good).trans (if_pos full)),
      fun good room held => sbPower_held hw hq hf (checks good room) held,
      fun good room held ⟨lost, boot⟩ => sbPower_sets hw hq hf good (checks good room) ⟨held, lost, boot, room⟩⟩
  case cap =>
    intro up hf
    have refuses {status : Nat} (h : (sbCapChecks s r).find? (·.1) = some (true, status)) :=
      sbRefused_of_held hq (execSbCapSet_held hw hq hf) h
    have checks (good : SbCapGood r) (there : bodyNat r 2 1 = 4 ∨ (getForme s (bodyNat r 2 1)).isSome = true) :
        (sbCapChecks s r).find? (·.1) = if s.journal.full then some (true, stJournalFull) else none := by
      rw [sbCapChecks_good up good, capScope_there.mpr there]
      rfl
    refine ⟨fun bad => refuses (sbCapChecks_bad up bad), fun good lacks => refuses ?_,
      fun good there full => refuses ((checks good there).trans (if_pos full)),
      fun good there room held => sbCap_held hw hq hf ((checks good there).trans (by rw [room]; rfl)) held,
      fun good there room held ⟨lost, boot⟩ => sbCap_answers hw hq hf ((checks good there).trans (by rw [room]; rfl))
        ⟨held, lost, boot, room⟩ there⟩
    refine (sbCapChecks_good up good).trans (if_pos ?_)
    rw [← Bool.not_eq_false, capScope_there]
    exact lacks
  case telemetry =>
    intro hf
    refine ⟨fun up len group first => ?_, fun up len group later => ?_,
      fun up bad => sbTelemetry_refuses hw hq hf (sbTelChecks_bad up bad),
      fun up => sbTelemetry_refuses hw hq hf (sbTelChecks_notReady up)⟩
    · have checks := sbTelChecks_good up len group
      exact ⟨sbTelemetry_wakes hw hq hf checks first, sbTelemetry_takes hw hq hf checks first⟩
    · have checks := sbTelChecks_good up len group
      exact ⟨sbTelemetry_expired hw hq hf checks later, fun x kept =>
        ⟨sbTelemetry_beyond hw hq hf checks later kept, sbTelemetry_reads hw hq hf checks later kept⟩⟩
  case journal =>
    intro up hf
    refine ⟨fun len none_asked awake taking => sbJournal_empty hw hq hf up len none_asked awake taking, fun bad asks => ?_, ?_, ?_, ?_⟩
    · have some_asked : (s.up && r.body.length == 10 && bodyNat r 8 1 == 0) = false := by simpa [up] using asks
      refine sbJournal_refuses hw hq hf (sbJournalChecks_bad up fun ⟨len, most, marks, start⟩ => bad ⟨len, ?_, most, marks, start⟩)
        some_asked
      have : bodyNat r 8 1 ≠ 0 := fun none_asked => asks ⟨len, none_asked⟩
      omega
    · rintro ⟨len, least, most, marks, start⟩ waits
      exact sbJournal_wakes hw hq hf (sbJournalChecks_good up ⟨len, most, marks, start⟩) waits
    · rintro ⟨len, least, most, marks, start⟩ awake unmarked
      exact sbJournal_reads hw hq hf (sbJournalChecks_good up ⟨len, most, marks, start⟩) least awake
        (fun marked => absurd (unmarked.symm.trans marked) (by decide)) (if_neg (by omega)) rfl
    · rintro ⟨len, least, most, marks, start⟩ awake marked taking
      exact sbJournal_reads hw hq hf (sbJournalChecks_good up ⟨len, most, marks, start⟩) least awake (fun _ => taking)
        (if_pos marked) (markExported_noticed ..).queue

end Sys2Proof.Machine
end

section
/-! PROOFS. Requests into the aperture are refused, kept, or performed (13 R442 to R446, R449). -/

namespace Sys2Proof.Machine

open Sys2Proof

variable {s w : State} {p off len size x y f : Nat} {req : ReqInfo} {data : List Byte} {tph : Tph} {bad : Bool} {op : AtomOp}
  {i : Instr}

/-! ## The checks of a request -/

/-- Outside the window, without a forme, or with Memory Space Enable clear no address is in the aperture. -/
theorem aperRefused_outside {x : Port} (accepts : x.accepts req.rid = true)
    (outside : x.memSpace = false ∨ x.forme = none ∨ aperWindow x < off + len) :
    aperRefused x req off len = some .unsupportedRequest := by
  have outs : (!x.memSpace || !(x.forme.isSome && decide (off + len ≤ aperWindow x))) = true := by
    obtain h | h | h := outside
    · simp [h]
    · simp [h]
    · simp [Nat.not_le.mpr h]
  simp only [aperRefused, reqRefused, accepts, outs, Bool.not_true, Bool.false_eq_true, if_false, if_true]

section
variable (hopen : linkOpen s p = true)
include hopen

theorem execApertureRead_refused {e : AerEvent} (h : aperRefused (getPort s p) req off len = some e) :
    execApertureRead p req off len s =
      .next (hostSend (logAer s p e (.apertureRead p req off len)) p (.unsupported req.tag)) := by
  simp only [execApertureRead, hopen, h, Bool.not_true, Bool.false_eq_true, if_false]

theorem execApertureRead_accepted (h : aperRefused (getPort s p) req off len = none) :
    execApertureRead p req off len s = .next (aperAccepted s (.apertureRead p req off len)) := by
  simp only [execApertureRead, hopen, h, Bool.not_true, Bool.false_eq_true, if_false]

theorem execApertureWrite_posted : execApertureWrite p req off data tph bad s =
    .next (postedWrite s p (aperRefused (getPort s p) req off data.length) bad (.apertureWrite p req off data tph bad)
      (aperAccepted s (.apertureWrite p req off data tph false))) := by
  simp only [execApertureWrite, hopen, Bool.not_true, Bool.false_eq_true, if_false]

theorem execApertureWrite_refused {e : AerEvent} (h : aperRefused (getPort s p) req off data.length = some e) :
    execApertureWrite p req off data tph bad s = .next (logAer s p e (.apertureWrite p req off data tph bad)) := by
  rw [execApertureWrite_posted hopen, h]
  rfl

theorem execApertureWrite_poisoned (h : aperRefused (getPort s p) req off data.length = none) :
    execApertureWrite p req off data tph true s =
      .next (logAer s p .poisonedTlp (.apertureWrite p req off data tph true)) := by
  rw [execApertureWrite_posted hopen, h]
  rfl

theorem execApertureWrite_accepted (h : aperRefused (getPort s p) req off data.length = none) :
    execApertureWrite p req off data tph false s = .next (aperAccepted s (.apertureWrite p req off data tph false)) := by
  rw [execApertureWrite_posted hopen, h]
  rfl

theorem execApertureAtomic_refused {e : AerEvent} (h : aperRefused (getPort s p) req off size = some e) :
    execApertureAtomic p req off size op x y s =
      .next (hostSend (logAer s p e (.apertureAtomic p req off size op x y)) p (.unsupported req.tag)) := by
  simp only [execApertureAtomic, hopen, h, Bool.not_true, Bool.false_eq_true, if_false]

variable (h : aperRefused (getPort s p) req off size = none)
include h

theorem execApertureAtomic_unsupported (kind : pcieAtomic op size = false) : execApertureAtomic p req off size op x y s =
    .next (hostSend (logAer s p .unsupportedRequest (.apertureAtomic p req off size op x y)) p (.unsupported req.tag)) := by
  simp only [execApertureAtomic, hopen, h, kind, Bool.not_true, Bool.not_false, Bool.false_eq_true, if_false, if_true]

variable (kind : pcieAtomic op size = true)
include kind

theorem execApertureAtomic_malformed (misaligned : off % size ≠ 0) : execApertureAtomic p req off size op x y s =
    .next (logAer s p .malformedTlp (.apertureAtomic p req off size op x y)) := by
  simp only [execApertureAtomic, hopen, h, kind, Bool.not_true, Bool.false_eq_true, if_false]
  exact if_pos misaligned

theorem execApertureAtomic_accepted (aligned : off % size = 0) : execApertureAtomic p req off size op x y s =
    .next (aperAccepted s (.apertureAtomic p req off size op x y)) := by
  simp only [execApertureAtomic, hopen, h, kind, Bool.not_true, Bool.false_eq_true, if_false]
  exact if_neg (not_not_intro aligned)

end

/-! ## An accepted request: kept until the module has woken, queued behind a posted write, or performed -/

theorem aperAccepted_idle (idle : s.moduleIdle = true) :
    aperAccepted s i = { s with idleReqs := s.idleReqs ++ [i], waking := true } :=
  (if_pos idle).trans (if_pos idle)

theorem aperAccepted_awake (awake : s.moduleIdle = false) : aperAccepted s i = performInbound s i := by
  rw [aperAccepted, awake]
  rfl

section
variable (hport : portOfReq i = some p)
include hport

theorem performInbound_queues (behind : writeHeld s p = true ∨ (getPort s p).waiting ≠ []) :
    performInbound s i = modPort s p (fun x => { x with waiting := x.waiting ++ [i] }) := by
  rw [performInbound, hport]
  exact if_pos (by simpa using behind)

theorem performInbound_now (free : writeHeld s p = false) (first : (getPort s p).waiting = []) :
    performInbound s i = inboundNow s i := by
  rw [performInbound, hport]
  exact if_neg (by simp [free, first])

end

/-! ## Translation, and what follows it -/

/-- The translation of a request of the aperture (13 R446). -/
def aperTranslated (s : State) (p f kind off len : Nat) (i : Instr) : State × Reached :=
  reach (aperAccess f p kind) (.inbound i) (pageSpans ((getPort s p).aperBase + off) len) s

section
variable {kind tag : Nat} {posted : Bool} {go : State → List (Nat × Nat) → State}

theorem aperReach_ok {pas : List (Nat × Nat)} (h : (aperTranslated s p f kind off len i).2 = .ok pas) :
    aperReach s p f kind off len i tag posted go = go (aperTranslated s p f kind off len i).1 pas := by
  unfold aperTranslated at h ⊢
  simp only [aperReach, h]

theorem aperReach_held (h : (aperTranslated s p f kind off len i).2 = .held) :
    aperReach s p f kind off len i tag posted go = (aperTranslated s p f kind off len i).1 := by
  unfold aperTranslated at h ⊢
  simp only [aperReach, h]

theorem aperReach_denied (h : (aperTranslated s p f kind off len i).2 = .denied) :
    aperReach s p f kind off len i tag posted go = aperDenied (aperTranslated s p f kind off len i).1 p tag posted i := by
  unfold aperTranslated at h ⊢
  simp only [aperReach, h]

end

section
variable (hf : (getPort s p).forme = some f)
include hf

theorem inboundNow_read : inboundNow s (.apertureRead p req off len) =
    aperReach s p f 0 off len (.apertureRead p req off len) req.tag false (fun s pas =>
      let d := readPieces (portVia p) pas s
      hostSend d.1 p (.completion req.tag d.2.1 d.2.2)) := by
  simp only [inboundNow, aperRead, hf]

theorem inboundNow_write : inboundNow s (.apertureWrite p req off data tph bad) =
    aperReach s p f 1 off data.length (.apertureWrite p req off data tph false) req.tag true (fun s pas =>
      writePieces (portVia p) (tphHint tph) pas data s) := by
  simp only [inboundNow, aperWrite, hf]

/-- The atomic that is executed in the L3 of the Compositor that received it answers the old value (09 R309). -/
theorem inboundNow_atomic {pa n old : Nat} {pas : List (Nat × Nat)} {die : Nat} (hdie : (if p < 2 then 6 else 7) = die)
    (h : (aperTranslated s p f 2 off size (.apertureAtomic p req off size op x y)).2 = .ok ((pa, n) :: pas))
    (hw : cacheAtomic (breakResv (aperTranslated s p f 2 off size (.apertureAtomic p req off size op x y)).1 die (lineOf pa) none)
      die pa size op (x % 2 ^ (8 * size)) (y % 2 ^ (8 * size)) none (some f) = (w, some old)) :
    inboundNow s (.apertureAtomic p req off size op x y) = hostSend w p (.completion req.tag (toBytes size old) false) := by
  subst hdie
  simp only [inboundNow, aperAtomic, hf]
  rw [aperReach_ok h]
  simp only [List.head?_cons, hw]

end

/-- Settles O44: the checks in their order (logs 65, 126), then the wake, the queue, or the translation. -/
theorem apertureRequestsArePerformedOrRefused : Obligations.ApertureRequestsArePerformedOrRefused := by
  unfold Obligations.ApertureRequestsArePerformedOrRefused
  intro p off len size u v req data tph op s hopen
  refine ⟨fun e => execApertureRead_refused hopen, fun e => execApertureAtomic_refused hopen,
    fun e bad => execApertureWrite_refused hopen, execApertureWrite_poisoned hopen, execApertureAtomic_unsupported hopen,
    execApertureAtomic_malformed hopen, aperRefused_outside, fun idle => ?idle, fun awake behind => ?behind,
    fun f awake free first hf => ?now⟩
  case idle =>
    exact ⟨fun h => (execApertureRead_accepted hopen h).trans (congrArg _ (aperAccepted_idle idle)),
      fun h => (execApertureWrite_accepted hopen h).trans (congrArg _ (aperAccepted_idle idle)),
      fun h kind aligned => (execApertureAtomic_accepted hopen h kind aligned).trans (congrArg _ (aperAccepted_idle idle))⟩
  case behind =>
    have queues {i : Instr} (hport : portOfReq i = some p) :=
      (aperAccepted_awake (i := i) awake).trans (performInbound_queues hport behind)
    exact ⟨fun h => (execApertureRead_accepted hopen h).trans (congrArg _ (queues rfl)),
      fun h => (execApertureWrite_accepted hopen h).trans (congrArg _ (queues rfl)),
      fun h kind aligned => (execApertureAtomic_accepted hopen h kind aligned).trans (congrArg _ (queues rfl))⟩
  case now =>
    have performs {i : Instr} (hport : portOfReq i = some p) :=
      (aperAccepted_awake (i := i) awake).trans (performInbound_now hport free first)
    refine ⟨fun h => ?_, fun h => ?_, fun h kind aligned pa n pas old w reached cached => ?_⟩
    · have runs := (execApertureRead_accepted hopen h).trans (congrArg _ ((performs rfl).trans (inboundNow_read hf)))
      exact ⟨fun pas reached => runs.trans (congrArg _ (aperReach_ok reached)),
        fun held => runs.trans (congrArg _ (aperReach_held held)),
        fun denied => runs.trans (congrArg _ (aperReach_denied denied))⟩
    · have runs := (execApertureWrite_accepted (tph := tph) hopen h).trans
        (congrArg _ ((performs rfl).trans (inboundNow_write hf)))
      exact ⟨fun pas reached => runs.trans (congrArg _ (aperReach_ok reached)),
        fun held => runs.trans (congrArg _ (aperReach_held held)),
        fun denied => runs.trans (congrArg _ (aperReach_denied denied))⟩
    · exact (execApertureAtomic_accepted hopen h kind aligned).trans
        (congrArg _ ((performs rfl).trans (inboundNow_atomic hf rfl reached cached)))

end Sys2Proof.Machine
end

section
/-! PROOFS. What an access of memory leaves alone: the host ports but for the messages they send and the links of a node that
retires, the node's configuration, and the mesh packets that wait (08, 09; 14 R481; 18 R595, R598). -/

namespace Sys2Proof.Machine

open Sys2Proof

/-- A port but for its link, the signals that it sends, and those that wait. -/
def Port.bare (x : Port) : Port := { x with link := .down, rate := 0, width := 0, tx := [], msixPending := 0, unsent := [] }

/-- The ports are the same but for what they send, and as long as the node runs on, their links are as before; the
configuration and the packets that wait for earlier ones stay. -/
structure Quiet (r s : State) : Prop where
  bare : ∀ p, (mapGet s.ports p).map Port.bare = (mapGet r.ports p).map Port.bare
  link : (s.phase = r.phase ∧ ∀ p, (mapGet s.ports p).map Port.link = (mapGet r.ports p).map Port.link) ∨
    (r.powered = true ∧ s.powered = false)
  config : s.config = r.config
  waiting : s.mesh.waiting = r.mesh.waiting

variable {r s t : State}

theorem Quiet.refl (s : State) : Quiet s s := ⟨fun _ => rfl, .inl ⟨rfl, fun _ => rfl⟩, rfl, rfl⟩

/-- The same ports in a node that runs on. -/
theorem Quiet.of_eq (h : Quiet r s) (hports : t.ports = s.ports) (hphase : t.phase = s.phase) (hconfig : t.config = s.config)
    (hwaiting : t.mesh.waiting = s.mesh.waiting) : Quiet r t := by
  refine ⟨fun p => by rw [hports]; exact h.bare p, ?_, hconfig.trans h.config, hwaiting.trans h.waiting⟩
  obtain ⟨phase, link⟩ | ⟨on, off⟩ := h.link
  · exact .inl ⟨hphase.trans phase, fun p => by rw [hports]; exact link p⟩
  · exact .inr ⟨on, by rwa [State.powered, hphase]⟩

/-- A change that leaves the ports, the phase, the configuration and the packets that wait. -/
theorem Quiet.upd {now free applPp applCp dirAge moduleCap : Nat} {pins : Pins} {jtag : Jtag}
    {sec : Sec} {flash : Flash} {journal : Journal} {lanes : SMap LaneGroup} {gut : Gutter}
    {mem : Bytes} {poison : SMap Unit} {errors : SMap (List (Nat × Byte))} {stackTab : SMap Stack}
    {homeFull recent timedOut powerCmds : SMap Nat} {absentRing : Ring} {lines : SMap Line} {dir : SMap DirEntry}
    {txns : SMap Txn} {streams : SMap Stream} {suspects groupsRunning : List Nat} {l3Locks : List L3Lock}
    {rangeCaches : List (Nat × Engine × List Nat)} {invals : List Inval} {formes : SMap Forme}
    {loose : Counters} {galleys : SMap Galley} {harts : SMap Hart} {corePower : SMap CorePower}
    {platens : SMap PlatenPower} {comps : SMap CompPower} {waking moduleIdle : Bool} {meter : Meter} {mesh : Mesh}
    {sb : Sideband} {idleReqs pending : List Instr} (h : Quiet r s)
    (hmesh : mesh.waiting = s.mesh.waiting := by exact rfl) :
    Quiet r { s with
      now := now, free := free, pins := pins, jtag := jtag, sec := sec, flash := flash,
      journal := journal, applPp := applPp, applCp := applCp, lanes := lanes, gut := gut,
      mem := mem, poison := poison, errors := errors, stackTab := stackTab, homeFull := homeFull,
      absentRing := absentRing, lines := lines, dir := dir, dirAge := dirAge, txns := txns, streams := streams,
      recent := recent, suspects := suspects, timedOut := timedOut, l3Locks := l3Locks, rangeCaches := rangeCaches,
      invals := invals, formes := formes, loose := loose, galleys := galleys, harts := harts,
      groupsRunning := groupsRunning, corePower := corePower, platens := platens, powerCmds := powerCmds,
      comps := comps, waking := waking, moduleIdle := moduleIdle, moduleCap := moduleCap, meter := meter, mesh := mesh,
      sb := sb, idleReqs := idleReqs, pending := pending } := h.of_eq rfl rfl rfl hmesh

theorem Quiet.ite {c : Prop} [Decidable c] (h : Quiet r s) (k : Quiet r t) : Quiet r (if c then s else t) := by
  split
  · exact h
  · exact k

theorem Quiet.fst {α : Type} {x : State × α} {a : α} (h : Quiet r x.1) (e : x = (s, a)) : Quiet r s := by
  rwa [e] at h

theorem Quiet.foldl {α : Type} {f : State → α → State} {l : List α} (h : Quiet r s)
    (hf : ∀ s a, Quiet r s → Quiet r (f s a)) : Quiet r (l.foldl f s) :=
  List.foldlRecOn (motive := Quiet r) l f h fun s h a _ => hf s a h

/-! ## The functions that an access of memory runs through -/

theorem quiet_drawn (h : Quiet r s) : Quiet r (State.drawn s) := h.upd

theorem quiet_modForme {f : Nat} {g : Forme → Forme} (h : Quiet r s) : Quiet r (modForme s f g) := h.upd

theorem quiet_countFor {f : Option Nat} {c : Ctr} {n : Nat} (h : Quiet r s) : Quiet r (countFor s f c n) := by
  unfold countFor
  split
  · exact quiet_modForme h
  · exact h.upd

/-- Ports that go idle lose their links alone. -/
theorem idlePorts_bare (m : SMap Port) (p : Nat) :
    (mapGet (m.map (fun kv => (kv.1, kv.2.idle))) p).map Port.bare = (mapGet m p).map Port.bare := by
  rw [mapGet_map m (fun _ => Port.idle) p, Option.map_map]
  rfl

/-- A node that retires drops its links, and runs no more. -/
theorem quiet_retire {c : RetireCause} (h : Quiet r s) : Quiet r (retire s c) := by
  by_cases on : s.powered = true
  · have ports : (retire s c).ports = s.ports.map (fun kv => (kv.1, kv.2.idle)) := by
      unfold retire
      rw [if_pos on]
      dsimp only [powerOffStacks, powerOffDies, alert, pushNotice, modSb]
      rw [journalWrite_ports]
      split
      · exact coldEntry_ports
      · rfl
    have kept : (retire s c).config = s.config ∧ (retire s c).mesh.waiting = s.mesh.waiting := by
      unfold retire
      rw [if_pos on]
      dsimp only [powerOffStacks, powerOffDies, alert, pushNotice, modSb]
      rw [journalWrite_frame]
      split
      · rw [coldEntry, journalWrite_frame]
        exact ⟨rfl, rfl⟩
      · exact ⟨rfl, rfl⟩
    refine ⟨fun p => by rw [ports, idlePorts_bare]; exact h.bare p, .inr ?_, kept.1.trans h.config, kept.2.trans h.waiting⟩
    obtain ⟨phase, -⟩ | ⟨-, off⟩ := h.link
    · refine ⟨?_, ?_⟩
      · rwa [State.powered, ← phase]
      · rw [State.powered, retire_phase s c on]
        rfl
    · exact absurd on (Bool.eq_false_iff.mp off)
  · rw [retire_stopped s c (Bool.eq_false_iff.mpr on)]
    exact h

theorem quiet_modStack {k : Nat} {g : Stack → Stack} (h : Quiet r s) : Quiet r (modStack s k g) := h.upd

theorem quiet_memRecord {pa kind symbols source lanes : Nat} (h : Quiet r s) :
    Quiet r (memRecord s pa kind symbols source lanes) := .ite (quiet_modStack h) h.upd

theorem quiet_modPch {k p : Nat} {g : Pch → Pch} (h : Quiet r s) : Quiet r (modPch s k p g) := quiet_modStack h

theorem quiet_poisonSector {pa : Nat} (h : Quiet r s) : Quiet r (poisonSector s pa) :=
  (quiet_modPch (.ite h (quiet_countFor h))).upd

theorem quiet_memSlot {pa : Nat} {prio write : Bool} (h : Quiet r s) : Quiet r (memSlot s pa prio write) :=
  quiet_countFor (.ite (quiet_countFor (quiet_modPch h)) (quiet_modPch h))

theorem quiet_laneMove {k p lane pa : Nat} (h : Quiet r s) : Quiet r (laneMove s k p lane pa) :=
  .ite (quiet_retire h) ((quiet_modStack h).upd)

theorem quiet_laneDone {k lane pa source : Nat} (h : Quiet r s) : Quiet r (laneDone s k lane pa source) :=
  quiet_countFor (quiet_memRecord h)

theorem quiet_laneToSpare {k p lane pa source : Nat} (h : Quiet r s) : Quiet r (laneToSpare s k p lane pa source) :=
  .ite (quiet_laneMove h) (quiet_laneDone (quiet_laneMove h))

theorem quiet_readFails {pa kind symbols source : Nat} (h : Quiet r s) :
    Quiet r (readFails s pa kind symbols source).1 := by
  unfold readFails
  dsimp only
  split
  · exact quiet_memRecord (quiet_drawn (.ite h (quiet_poisonSector h)))
  · exact quiet_memRecord (.ite h (quiet_poisonSector h))

theorem quiet_setErrors {pa : Nat} {p : List (Nat × Nat)} (h : Quiet r s) :
    Quiet r (setErrors s pa p) := .ite h.upd h.upd

theorem quiet_readTag {pa source : Nat} {fixed left : List (Nat × Nat)} (h : Quiet r s) :
    Quiet r (readTag s pa source fixed left).1 := by
  unfold readTag
  dsimp only
  split
  · exact .ite h (quiet_setErrors (quiet_memRecord (quiet_countFor h)))
  · exact quiet_readFails h

theorem quiet_readDecode {pa source : Nat} (h : Quiet r s) : Quiet r (readDecode s pa source).1 := by
  unfold readDecode
  dsimp only
  split
  · exact quiet_readTag h
  · split <;> exact quiet_readFails h

theorem quiet_sectorRead {source : Nat} {prio : Bool} {pa : Nat} (h : Quiet r s) :
    Quiet r (sectorRead source prio pa s).1 := by
  unfold sectorRead
  dsimp only
  split
  · exact quiet_readDecode (quiet_laneToSpare (quiet_memSlot h))
  · exact quiet_readDecode (quiet_memSlot h)

theorem quiet_writeWhole {pa : Nat} {data : List Byte} (h : Quiet r s) : Quiet r (writeWhole s pa data) := h.upd

theorem quiet_burst {pa : Nat} {data : List Byte} (h : Quiet r s) : Quiet r (burst s pa data) :=
  quiet_writeWhole (quiet_modPch (quiet_memSlot h))

theorem quiet_mergeWrite {pa mask : Nat} {data : List Byte} (h : Quiet r s) : Quiet r (mergeWrite s pa mask data) :=
  .ite (quiet_readDecode h) (quiet_burst (quiet_readDecode h))

theorem quiet_sectorWrite {pa mask : Nat} {data : List Byte} (h : Quiet r s) :
    Quiet r (sectorWrite pa mask data s) := by
  unfold sectorWrite
  dsimp only
  split
  · exact quiet_burst h
  · split
    · exact quiet_mergeWrite (quiet_laneToSpare (quiet_memSlot h))
    · exact quiet_mergeWrite (quiet_memSlot h)

theorem quiet_noteRefusal {k : Nat} (h : Quiet r s) : Quiet r (noteRefusal s k) := by
  unfold noteRefusal
  dsimp only
  split
  · exact .ite h.upd h
  · exact .ite h (quiet_countFor h.upd)

theorem quiet_letIn {k p : Nat} (h : Quiet r s) : Quiet r (letIn s k p) := by
  unfold letIn
  split
  · exact quiet_noteRefusal (quiet_modPch h)
  · exact h

theorem quiet_serve {r' : MemReq} (h : Quiet r s) : Quiet r (serve s r') := by
  unfold serve
  split
  · exact quiet_sectorWrite h
  · exact quiet_sectorRead h

theorem quiet_serveFor {n k p : Nat} (h : Quiet r s) : Quiet r (serveFor n s k p) := by
  induction n generalizing s with
  | zero => exact h
  | succ n ih =>
    unfold serveFor
    split
    · exact h
    · exact ih (quiet_serve (quiet_letIn (quiet_modPch h)))

theorem quiet_serveQueue {k p : Nat} (h : Quiet r s) : Quiet r (serveQueue s k p) := quiet_serveFor h

theorem quiet_enqueue {r' : MemReq} (h : Quiet r s) : Quiet r (enqueue s r') := quiet_noteRefusal (quiet_modPch h)

theorem quiet_serveBefore {n k p : Nat} {q : MemReq} (h : Quiet r s) : Quiet r (serveBefore n s k p q) := by
  induction n generalizing s with
  | zero => exact h
  | succ n ih =>
    unfold serveBefore
    split
    · exact h
    · exact .ite (quiet_letIn (quiet_modPch h)) (ih (quiet_serve (quiet_letIn (quiet_modPch h))))

theorem quiet_inTurn {α : Type} {q : MemReq} {act : State → State × α} (h : Quiet r s)
    (hact : ∀ s, Quiet r s → Quiet r (act s).1) : Quiet r (inTurn s q act).1 := by
  unfold inTurn
  dsimp only
  split
  · exact hact s h
  · exact quiet_serveQueue (hact _ (quiet_serveBefore (quiet_enqueue h)))

theorem quiet_heldPa {k p : Nat} (h : Quiet r s) : Quiet r (heldPa s k p).1 := by
  unfold heldPa
  split
  · exact h
  · exact quiet_drawn h

theorem quiet_reissue {k p : Nat} (h : Quiet r s) : Quiet r (reissue s k p) :=
  (quiet_modPch h).foldl fun _ _ h => quiet_writeWhole h

theorem quiet_goOn {k p : Nat} {held : Option MemReq} (h : Quiet r s) : Quiet r (goOn s k p held) := by
  unfold goOn
  dsimp only
  split
  · exact quiet_serve (quiet_reissue (quiet_modPch h))
  · exact quiet_reissue (quiet_modPch h)

theorem quiet_endRecovery {k p lane : Nat} (h : Quiet r s) : Quiet r (endRecovery s k p lane) :=
  quiet_goOn (quiet_laneDone (quiet_heldPa h))

theorem quiet_serveFree {k p : Nat} (h : Quiet r s) : Quiet r (serveFree k s p) := .ite h (quiet_serveQueue h)

theorem quiet_wakeStack {k : Nat} {but : Option Nat} (h : Quiet r s) : Quiet r (wakeStack s k but) :=
  .ite ((quiet_modStack h).foldl fun _ _ h => quiet_serveFree h) h

theorem quiet_recoverLane {k p : Nat} (h : Quiet r s) : Quiet r (recoverLane s k p) := by
  unfold recoverLane
  dsimp only
  split
  · exact h
  · exact .ite (quiet_endRecovery h) (.ite (quiet_endRecovery (quiet_laneMove (quiet_heldPa h))) (quiet_laneMove
      (quiet_heldPa h)))

theorem quiet_unblock {k p : Nat} (h : Quiet r s) : Quiet r (unblock s k p) := quiet_recoverLane (quiet_wakeStack h)

theorem quiet_homeRead {source : Nat} {prio : Bool} {pa : Nat} (h : Quiet r s) :
    Quiet r (homeRead source prio pa s).1 := by
  unfold homeRead
  dsimp only
  split
  · exact quiet_memRecord h
  · exact quiet_inTurn (quiet_unblock h) (fun _ h => quiet_sectorRead h)

theorem quiet_writeInTurn {pa mask : Nat} {data : List Byte} {act : State → State} (h : Quiet r s)
    (hact : ∀ s, Quiet r s → Quiet r (act s)) : Quiet r (writeInTurn pa mask data act s) :=
  quiet_inTurn (quiet_unblock h) hact

theorem quiet_homeWrite {pa mask : Nat} {data : List Byte} (h : Quiet r s) : Quiet r (homeWrite pa mask data s) :=
  .ite (quiet_memRecord (quiet_drawn h)) (quiet_writeInTurn h (fun _ h => quiet_sectorWrite h))

theorem quiet_poisonBurst {pa : Nat} (h : Quiet r s) :
    Quiet r (poisonBurst s pa) := quiet_poisonSector (quiet_memSlot h)

theorem quiet_homeWriteSector {pa : Nat} {poisoned : Bool} {data : List Byte} (h : Quiet r s) :
    Quiet r (homeWriteSector pa poisoned data s) :=
  .ite (.ite (quiet_memRecord (quiet_drawn h)) (quiet_writeInTurn h (fun _ h => quiet_poisonBurst h))) (quiet_homeWrite h)

theorem quiet_homeReadLine {prio : Bool} {pa : Nat} (h : Quiet r s) : Quiet r (homeReadLine prio pa s).1 := by
  unfold homeReadLine
  dsimp only
  split
  · exact quiet_memRecord h
  · exact quiet_homeRead (quiet_homeRead h)

theorem quiet_homeWriteLine {pa : Nat} {d : LineData} (h : Quiet r s) : Quiet r (homeWriteLine pa d s) :=
  quiet_homeWriteSector (quiet_homeWriteSector h)

theorem quiet_gutMessage {f : Option Nat} {src dst : Nat} {bulk : Bool} {kind bytes : Nat} (h : Quiet r s) :
    Quiet r (gutMessage s f src dst bulk kind bytes) := h.upd

theorem quiet_carryRequest {ln : Nat} {r' : Req} (h : Quiet r s) : Quiet r (carryRequest s ln r') := h.upd

theorem quiet_launchRequest {ln : Nat} {r' : Req} (h : Quiet r s) : Quiet r (launchRequest s ln r') := h.upd

theorem quiet_parkRequest (h : Quiet r s) (e : parkRequest s = some t) : Quiet r t := by
  obtain ⟨q, -, rfl⟩ := Option.map_eq_some_iff.mp e
  exact h.upd

theorem quiet_parkRequests {n : Nat} (h : Quiet r s) : Quiet r (parkRequests n s) := by
  induction n generalizing s with
  | zero => exact h
  | succ n ih =>
    unfold parkRequests
    split
    · exact ih (quiet_parkRequest h ‹_›)
    · exact h

theorem quiet_arrivedRequest {ln : Nat} {q : Req} (h : Quiet r s) (e : arrivedRequest s = some (t, ln, q)) : Quiet r t := by
  obtain ⟨x, -, e⟩ := Option.map_eq_some_iff.mp e
  cases e
  exact (quiet_parkRequests h).upd

theorem quiet_setLine {agent ln : Nat} {l : Line} (h : Quiet r s) : Quiet r (setLine s agent ln l) := h.upd

theorem quiet_dropLine {agent ln : Nat} (h : Quiet r s) : Quiet r (dropLine s agent ln) := .ite h.upd.upd h.upd

theorem quiet_dirPut {ln : Nat} {st : DirState} {owner : Nat} {holders : List Nat} (h : Quiet r s) :
    Quiet r (dirPut s ln st owner holders) := by
  unfold dirPut
  dsimp only
  split
  · exact h.upd
  · exact (quiet_drawn h).upd

theorem quiet_dirClear {ln agent : Nat} (h : Quiet r s) : Quiet r (dirClear s ln agent) := by
  unfold dirClear
  dsimp only
  split
  · exact h
  · exact .ite (quiet_dirPut h) (quiet_dirPut h)

theorem quiet_putTxn {ln : Nat} {t : Option Txn} (h : Quiet r s) : Quiet r (putTxn s ln t) := h.upd

theorem quiet_setTxn {ln : Nat} {t : Txn} (h : Quiet r s) : Quiet r (setTxn s ln t) := quiet_putTxn h

theorem quiet_caseCtr {agent : Nat} {c : Ctr} {n : Nat} (h : Quiet r s) : Quiet r (caseCtr s agent c n) :=
  .ite (quiet_countFor h) h

theorem quiet_caseCheck {agent ln : Nat} {prio : Bool} (h : Quiet r s) : Quiet r (caseCheck s agent ln prio) := by
  unfold caseCheck
  dsimp only
  split
  · exact h
  · exact .ite h (.ite (quiet_setLine (quiet_drawn h)) (.ite (quiet_setLine (quiet_caseCtr (quiet_drawn h))) (.ite
      (quiet_memRecord (quiet_setLine (quiet_drawn h))) (.ite (quiet_setLine (quiet_homeReadLine (quiet_drawn h)))
      (quiet_dropLine h)))))

theorem quiet_countNp {ln : Nat} (h : Quiet r s) : Quiet r (countNp s ln) := quiet_countFor h

theorem quiet_purgeOne {ln a : Nat} (h : Quiet r s) : Quiet r (purgeOne ln s a) := by
  unfold purgeOne
  dsimp only
  split
  · exact quiet_countNp (quiet_gutMessage (quiet_caseCheck (quiet_gutMessage h)))
  · exact .ite (quiet_countNp (quiet_gutMessage (quiet_caseCheck (quiet_gutMessage h)))) (.ite (quiet_homeWriteLine
      (quiet_dropLine (quiet_gutMessage (quiet_caseCheck (quiet_gutMessage h))))) (quiet_dropLine (quiet_gutMessage
      (quiet_caseCheck (quiet_gutMessage h)))))

theorem quiet_purgeLine {ln : Nat} {agents : List Nat} (h : Quiet r s) : Quiet r (purgeLine s ln agents) :=
  h.foldl fun _ _ h => quiet_purgeOne h

theorem quiet_dirRepair {ln : Nat} (h : Quiet r s) : Quiet r (dirRepair s ln) := by
  unfold dirRepair
  dsimp only
  split
  · exact .ite (quiet_countFor ((quiet_purgeLine h).upd)) h
  · exact h

theorem quiet_dirEvict {v : Nat × DirEntry} (h : Quiet r s) : Quiet r (dirEvict s v) :=
  .ite (quiet_dirRepair h) (quiet_countFor ((quiet_purgeLine h).upd))

theorem quiet_dirRoom {ln : Nat} (h : Quiet r s) : Quiet r (dirRoom s ln) := by
  unfold dirRoom
  dsimp only
  split
  · exact h
  · split
    · exact h.foldl fun _ _ h => quiet_dirRepair h
    · split
      · exact h.foldl fun _ _ h => quiet_dirRepair h
      · exact quiet_dirEvict (h.foldl fun _ _ h => quiet_dirRepair h)

theorem quiet_dirEnter {ln : Nat} {st : DirState} {owner : Nat} {holders : List Nat} (h : Quiet r s) :
    Quiet r (dirEnter s ln st owner holders) := quiet_dirPut (.ite h (quiet_dirRoom h))

theorem quiet_dirReserve {ln agent : Nat} (h : Quiet r s) :
    Quiet r (dirReserve s ln agent) := .ite h (quiet_dirEnter h)

theorem quiet_dirAdd {ln agent : Nat} (h : Quiet r s) : Quiet r (dirAdd s ln agent) := by
  unfold dirAdd
  dsimp only
  split
  · exact quiet_dirEnter h
  · exact quiet_dirPut h

theorem quiet_grantData {ln : Nat} {t : Txn} {g : GrantKind} (h : Quiet r s) : Quiet r (grantData s ln t g) :=
  .ite (quiet_setTxn h) (quiet_setTxn (quiet_homeReadLine h))

theorem quiet_performed {ln : Nat} {t : Txn} (h : Quiet r s) : Quiet r (performed s ln t) := quiet_setTxn h

theorem quiet_finishWrite {ln : Nat} {t : Txn} {data : List Byte} (h : Quiet r s) :
    Quiet r (finishWrite s ln t data) :=
  quiet_performed (quiet_dirEnter (quiet_homeWriteLine h))

theorem quiet_dropHint {ln : Nat} (h : Quiet r s) : Quiet r (dropHint s ln) := quiet_countFor h

theorem quiet_dirOwned {ln agent : Nat} {t : Txn} (h : Quiet r s) :
    Quiet r (dirOwned s ln agent t) := quiet_dirEnter h

theorem quiet_pushLine {ln : Nat} {t : Txn} {target : Nat} {data : List Byte} (h : Quiet r s) :
    Quiet r (pushLine s ln t target data) := quiet_setTxn (quiet_dirOwned h)

theorem quiet_mergeHalf {ln mask : Nat} {data : List Byte} {dirty : Option (List Byte × Bool × Bool)} {o : Nat}
  (h : Quiet r s) :
    Quiet r (mergeHalf ln mask data dirty s o) := by
  unfold mergeHalf
  dsimp only
  split
  · split
    · exact quiet_homeWriteSector h
    · exact h
  · split
    · exact quiet_homeWrite (quiet_homeWriteSector h)
    · exact quiet_homeWrite h

theorem quiet_homeProceed {ln : Nat} (h : Quiet r s) : Quiet r (homeProceed s ln) := by
  unfold homeProceed
  dsimp only
  split
  · exact h
  · split
    · exact h
    · split
      · exact .ite (quiet_setTxn h) (quiet_grantData h)
      · exact .ite (quiet_setTxn h) (quiet_grantData h)
      · exact .ite (quiet_setTxn h) (quiet_grantData h)
      · exact .ite (quiet_setTxn h) (.ite (quiet_grantData h) (.ite (quiet_setTxn h) (quiet_grantData h)))
      · exact .ite (quiet_grantData h) (quiet_setTxn h)
      · split
        · exact quiet_grantData (quiet_homeWriteLine h)
        · exact quiet_grantData h
      · split
        · exact quiet_finishWrite (quiet_dropHint h)
        · split
          · exact quiet_finishWrite h
          · exact .ite (quiet_pushLine h) (quiet_finishWrite (quiet_dropHint h))
      · exact quiet_performed (quiet_dirEnter (quiet_mergeHalf (quiet_mergeHalf h)))
      · split
        · exact .ite (quiet_performed (quiet_caseCtr (quiet_dirClear (quiet_homeWriteLine h)))) (quiet_performed h)
        · exact quiet_performed h
      · split
        · exact quiet_setTxn (.ite (quiet_dirPut (quiet_dirClear h)) (quiet_dirClear h))
        · exact quiet_setTxn (quiet_dirClear h)

theorem quiet_homeStart {ln : Nat} {r' : Req} {queue : List Req} {msgs : List Msg} (h : Quiet r s) :
    Quiet r (homeStart s ln r' queue msgs) := by
  unfold homeStart
  dsimp only
  split
  · split <;> exact quiet_homeProceed (quiet_setTxn (quiet_dirReserve (quiet_dirRepair h)))
  · exact quiet_homeProceed (quiet_setTxn (quiet_dirReserve (quiet_dirRepair h)))
  · exact quiet_homeProceed (quiet_setTxn (quiet_dirReserve (quiet_dirRepair h)))
  · exact quiet_homeProceed (quiet_setTxn (quiet_dirReserve (quiet_dirRepair h)))
  · split <;> exact quiet_homeProceed (quiet_setTxn (quiet_dirRepair h))
  · split <;> exact quiet_homeProceed (quiet_setTxn (quiet_dirRepair h))
  · exact quiet_homeProceed (quiet_setTxn (quiet_dirRepair h))
  · exact quiet_homeProceed (quiet_setTxn (quiet_dirRepair h))
  · exact quiet_homeProceed (quiet_setTxn (quiet_dirRepair h))
  · exact quiet_homeProceed (quiet_setTxn (quiet_dirRepair h))

theorem quiet_homeRun {n ln : Nat} (h : Quiet r s) : Quiet r (homeRun n s ln) := by
  induction n generalizing s with
  | zero => exact h
  | succ n ih =>
    unfold homeRun
    split
    · exact h
    · refine .ite ?_ h
      split
      · exact .ite (quiet_putTxn h) h
      · exact ih (quiet_homeStart h)

theorem quiet_homeGo {ln : Nat} (h : Quiet r s) : Quiet r (homeGo s ln) := by
  unfold homeGo
  dsimp only
  split
  · exact quiet_homeRun (quiet_homeProceed h)
  · exact quiet_homeProceed h

theorem quiet_homeArrive {ln : Nat} {r' : Req} (h : Quiet r s) : Quiet r (homeArrive s ln r') := by
  unfold homeArrive
  split
  · exact .ite (quiet_homeGo (quiet_homeStart h)) (quiet_setTxn h)
  · exact quiet_homeGo (quiet_homeStart h)

theorem quiet_homeAccept {ln : Nat} {r' : Req} (h : Quiet r s) : Quiet r (homeAccept s ln r') :=
  .ite (.ite (quiet_memRecord (quiet_drawn h)) (quiet_memRecord h)) (.ite (quiet_homeArrive (quiet_carryRequest h))
    (quiet_launchRequest (quiet_carryRequest h)))

theorem quiet_homeNext {ln : Nat} (h : Quiet r s) : Quiet r (homeNext s ln) := by
  unfold homeNext
  split
  · exact h
  · exact quiet_homeRun (quiet_setTxn h)

theorem quiet_evictLine {agent ln : Nat} (h : Quiet r s) : Quiet r (evictLine s agent ln) := by
  unfold evictLine
  dsimp only
  split
  · exact quiet_caseCheck h
  · exact .ite (quiet_setLine (quiet_caseCheck h)) (.ite (quiet_homeAccept (quiet_setLine (quiet_caseCheck h)))
      (quiet_dropLine (quiet_caseCheck h)))

theorem quiet_touchWay {agent ln way : Nat} (h : Quiet r s) : Quiet r (touchWay s agent ln way) := h.upd

theorem quiet_chooseWay {agent ln : Nat} {group : Option Nat} (h : Quiet r s) :
    Quiet r (chooseWay s agent ln group).1 := by
  unfold chooseWay
  dsimp only
  split
  · exact h
  · split
    · exact quiet_evictLine (quiet_drawn h)
    · exact quiet_drawn h

theorem quiet_fillLine {agent ln : Nat} {st : LineState} {d : LineData} {group : Option Nat} (h : Quiet r s) :
    Quiet r (fillLine s agent ln st d group) := by
  unfold fillLine
  dsimp only
  split
  · exact quiet_setLine (quiet_drawn (quiet_touchWay h))
  · exact quiet_setLine (quiet_drawn (quiet_touchWay (quiet_chooseWay h)))

theorem quiet_removeMsg {ln : Nat} {m : Msg} (h : Quiet r s) : Quiet r (removeMsg s ln m) := by
  unfold removeMsg
  split
  · exact quiet_setTxn h
  · exact h

theorem quiet_sendMsg {ln : Nat} {m : Msg} (h : Quiet r s) : Quiet r (sendMsg s ln m) := by
  unfold sendMsg
  split
  · exact quiet_setTxn h
  · exact h

theorem quiet_answered {ln agent : Nat} (h : Quiet r s) : Quiet r (answered s ln agent) := by
  unfold answered
  split
  · exact quiet_setTxn h
  · exact h

theorem quiet_markForwarded {ln : Nat} (h : Quiet r s) : Quiet r (markForwarded s ln) := by
  unfold markForwarded
  split
  · exact quiet_setTxn h
  · exact h

theorem quiet_afterShared {ln owner requester : Nat} {dirty : Bool} (h : Quiet r s) :
    Quiet r (afterShared s ln owner requester dirty) := .ite (quiet_dirEnter h) (quiet_dirEnter h)

theorem quiet_answerNp {ln agent : Nat} (h : Quiet r s) : Quiet r (answerNp s ln agent) :=
  quiet_sendMsg (quiet_countNp h)

theorem quiet_snoopLine {ln : Nat} {k : SnpKind} {agent : Nat} {r' : Req} {l : Line} (h : Quiet r s) :
    Quiet r (snoopLine s ln k agent r' l) := by
  unfold snoopLine
  dsimp only
  split
  · exact .ite (quiet_sendMsg h) (quiet_sendMsg (quiet_answered (quiet_markForwarded (quiet_afterShared (quiet_setLine h)))))
  · exact .ite (quiet_sendMsg (quiet_dropLine h)) (.ite (quiet_sendMsg (quiet_answered (quiet_markForwarded
      (quiet_dropLine h)))) (quiet_sendMsg (quiet_dropLine h)))
  · exact .ite (quiet_sendMsg h) (quiet_sendMsg (quiet_answered (quiet_markForwarded h)))
  · exact .ite (quiet_sendMsg (quiet_dirEnter (quiet_setLine h))) (quiet_sendMsg (quiet_dirEnter (quiet_setLine h)))

theorem quiet_snoopAgent {ln : Nat} {k : SnpKind} {agent : Nat} {push : List Byte} (h : Quiet r s) :
    Quiet r (snoopAgent s ln k agent push) := by
  unfold snoopAgent
  dsimp only
  split
  · exact h
  · split
    · exact .ite (quiet_sendMsg (quiet_fillLine h)) (quiet_answerNp h)
    · split
      · exact quiet_answerNp (quiet_caseCheck h)
      · exact .ite (quiet_answerNp (quiet_caseCheck h)) (quiet_snoopLine (quiet_caseCheck h))

theorem quiet_takeOwned {ln agent : Nat} {st : LineState} {d : LineData} {t : Txn} (h : Quiet r s) :
    Quiet r (takeOwned s ln agent st d t) := quiet_dirOwned (quiet_fillLine h)

theorem quiet_takeGrant {ln agent : Nat} {g : GrantKind} {d : LineData} {forwarded : Bool} (h : Quiet r s) :
    Quiet r (takeGrant s ln agent g d forwarded) := by
  unfold takeGrant
  dsimp only
  split
  · exact h
  · split
    · exact quiet_sendMsg h
    · exact .ite (quiet_sendMsg (quiet_setLine (quiet_drawn h))) (quiet_sendMsg h)
    · exact .ite (quiet_sendMsg (quiet_takeOwned h)) (quiet_sendMsg (.ite (quiet_homeWriteLine h) h))
    · exact quiet_sendMsg (.ite (quiet_takeOwned h) h)
    · exact quiet_sendMsg (.ite (quiet_dirAdd (quiet_fillLine h)) h)

theorem quiet_takeComp {ln agent : Nat} {k : GrantKind} {r' : Req} (h : Quiet r s) :
    Quiet r (takeComp s ln agent k r') :=
  .ite (quiet_sendMsg h) (quiet_takeGrant h)

theorem quiet_takeDone {ln agent : Nat} {t : Txn} (h : Quiet r s) : Quiet r (takeDone s ln agent t) := by
  unfold takeDone
  dsimp only
  split
  · split
    · exact quiet_putTxn (.ite (quiet_dropLine h) h)
    · exact quiet_putTxn h
  · split
    · exact .ite (quiet_dropLine h) h
    · exact h

theorem quiet_pushAnswered {ln agent : Nat} {taken : Bool} (h : Quiet r s) :
    Quiet r (pushAnswered s ln agent taken) := by
  unfold pushAnswered
  dsimp only
  split
  · split
    · exact quiet_homeGo (quiet_performed (quiet_countFor h))
    · exact quiet_countFor h
  · exact quiet_homeGo (quiet_dirClear h)

theorem quiet_deliver {ln : Nat} {m : Msg} (h : Quiet r s) : Quiet r (deliver s ln m) := by
  unfold deliver
  dsimp only
  split
  · exact quiet_removeMsg h
  · split
    · exact quiet_homeGo (quiet_snoopAgent (quiet_removeMsg h))
    · split
      · exact quiet_homeGo (quiet_setTxn (quiet_answered (quiet_removeMsg h)))
      · exact quiet_homeGo (quiet_answered (quiet_removeMsg h))
    · split
      · exact .ite (quiet_pushAnswered (quiet_answered (quiet_removeMsg h))) (quiet_homeGo (quiet_answered
          (quiet_removeMsg h)))
      · exact quiet_homeGo (quiet_answered (quiet_removeMsg h))
    · split
      · exact .ite (quiet_pushAnswered (quiet_answered (quiet_removeMsg h))) (quiet_homeGo (quiet_dirClear
          (quiet_answered (quiet_removeMsg h))))
      · exact quiet_homeGo (quiet_dirClear (quiet_answered (quiet_removeMsg h)))
    · exact quiet_takeGrant (quiet_removeMsg h)
    · exact quiet_takeGrant (quiet_removeMsg h)
    · split
      · exact quiet_takeComp (quiet_removeMsg h)
      · exact quiet_takeDone (quiet_removeMsg h)
    · exact quiet_homeNext (quiet_removeMsg h)

theorem quiet_settleStep {ln : Nat} (h : Quiet r s) (e : settleStep s ln = some t) : Quiet r t := by
  unfold settleStep at e
  split at e
  · cases e; exact quiet_deliver h
  · split at e
    · cases e; exact quiet_homeGo (quiet_unblock h)
    · split at e
      · split at e
        · cases e; exact quiet_homeArrive (quiet_arrivedRequest h ‹_›)
        · obtain ⟨k, -, e⟩ := Option.bind_eq_some_iff.mp e
          obtain ⟨m, -, rfl⟩ := Option.map_eq_some_iff.mp e
          exact quiet_deliver h
      · cases e

theorem quiet_settleFor {n ln : Nat} (h : Quiet r s) : Quiet r (settleFor n s ln) := by
  induction n generalizing s with
  | zero => exact h
  | succ n ih =>
    unfold settleFor
    split
    · exact ih (quiet_settleStep h ‹_›)
    · exact h

theorem quiet_settle {ln : Nat} (h : Quiet r s) : Quiet r (settle s ln) := quiet_settleFor h

theorem quiet_request {ln : Nat} {r' : Req} (h : Quiet r s) : Quiet r (request s ln r') :=
  quiet_settle (quiet_homeAccept (quiet_settle h))

theorem quiet_writeFull {agent unit ln : Nat} {data : List Byte} {hint : Nat} {zero : Bool} (h : Quiet r s) :
    Quiet r (writeFull s agent unit ln data hint zero) := .ite (quiet_homeWrite h) (quiet_request h)

theorem quiet_writePart {agent unit ln mask : Nat} {data : List Byte} (h : Quiet r s) :
    Quiet r (writePart s agent unit ln mask data) := .ite (quiet_homeWrite h) (quiet_request h)

theorem quiet_modPort {p : Nat} {g : Port → Port} (h : Quiet r s) (hbare : ∀ x, (g x).bare = x.bare)
    (hlink : ∀ x, (g x).link = x.link) : Quiet r (modPort s p g) := by
  refine ⟨fun q => (map_mapMod s.ports p g Port.bare hbare q).trans (h.bare q), ?_, h.config, h.waiting⟩
  obtain ⟨phase, link⟩ | off := h.link
  · exact .inl ⟨phase, fun q => (map_mapMod s.ports p g Port.link hlink q).trans (link q)⟩
  · exact .inr off

theorem quiet_signalMsix {p v : Nat} (h : Quiet r s) : Quiet r (signalMsix s p v) := by
  refine quiet_modPort h (fun x => ?_) (fun x => ?_)
  · unfold Port.signal
    split
    · rfl
    · split <;> rfl
  · unfold Port.signal
    split
    · rfl
    · split <;> rfl

theorem quiet_modHart {h' : Nat} {g : Hart → Hart} (h : Quiet r s) : Quiet r (modHart s h' g) := h.upd

theorem quiet_signalHart {h' ident : Nat} (h : Quiet r s) : Quiet r (signalHart s h' ident) := quiet_modHart h

theorem quiet_signalFault {f : Nat} (h : Quiet r s) : Quiet r (signalFault s f) := by
  unfold signalFault
  dsimp only
  split
  · exact h
  · exact .ite (h.foldl fun _ _ h => quiet_signalMsix h) (quiet_signalHart (h.foldl fun _ _ h => quiet_signalMsix h))

theorem quiet_setCached {f : Nat} {e : Engine} {ids : List Nat} (h : Quiet r s) :
    Quiet r (setCached s f e ids) := h.upd

theorem quiet_fillCached {f : Nat} {e : Engine} {id : Nat} (h : Quiet r s) : Quiet r (fillCached s f e id) :=
  quiet_setCached h

theorem quiet_walkRead {fid die : Nat} {f : Forme} {va : Nat} (h : Quiet r s) : Quiet r (walkRead s fid die f va) :=
  quiet_gutMessage ((quiet_gutMessage h).foldl fun _ _ h => quiet_homeRead h)

theorem quiet_translate {a : Access} {va : Nat} (h : Quiet r s) : Quiet r (translate s a va).1 := by
  unfold translate
  dsimp only
  split
  · exact h
  · split
    · exact h
    · split
      · exact quiet_walkRead h
      · split
        · split
          · exact h
          · exact quiet_fillCached (quiet_walkRead h)
        · split
          · exact h
          · exact quiet_walkRead h
        · split
          · exact h
          · exact quiet_walkRead h

theorem quiet_raiseFault {a : Access} {va : Nat} {reason : Reason} {e : Option RangeEntry} {w : Waiter} (h : Quiet r s) :
    Quiet r (raiseFault s a va reason e w).1 := by
  unfold raiseFault
  split
  · exact h
  · extract_lets held id t
    have k : Quiet r t := .ite h.upd h
    split
    · exact quiet_modForme k
    · dsimp only
      split
      · exact quiet_signalFault (quiet_modForme k)
      · dsimp only
        exact quiet_countFor k

theorem quiet_writeSpans {via : Via} {hint : Nat} {spans : List (Nat × Nat)} {data : List Byte} (h : Quiet r s) :
    Quiet r (writeSpans via hint spans data s) := by
  induction spans generalizing s data with
  | nil => exact h
  | cons x rest ih => exact ih (.ite (quiet_writeFull h) (quiet_writePart h))

theorem quiet_writeBytesPa {via : Via} {pa hint : Nat} {data : List Byte} (h : Quiet r s) :
    Quiet r (writeBytesPa s via pa hint data) := quiet_writeSpans h

theorem quiet_poisonSpan {pa n : Nat} (h : Quiet r s) : Quiet r (poisonSpan s pa n) :=
  .ite (quiet_homeWriteSector h) (quiet_homeWriteSector (quiet_homeWriteSector h))

theorem quiet_writeDest {f : Nat} {x : Slot} {mb : MboxId} {k va hint : Nat} {data : List Byte} {bad : Bool}
  (h : Quiet r s) :
    Quiet r (writeDest s f x mb k va hint data bad).1 := by
  unfold writeDest
  dsimp only
  split
  · exact quiet_raiseFault (quiet_translate h)
  · exact .ite (quiet_poisonSpan (quiet_writeBytesPa (quiet_translate h))) (quiet_writeBytesPa (quiet_translate h))

end Sys2Proof.Machine
end

section
/-! PROOFS. What the events and the resets of a host port leave, and what becomes of its transfers (12 R410, R429 to R432; 13
R436 to R438, R451, R453, R628). -/

namespace Sys2Proof.Machine

open Sys2Proof

variable {s t u : State} {p k : Nat} {x y z : Port}

theorem getPort_there (h : mapGet s.ports p = some x) : getPort s p = x := by
  rw [getPort, mapGetD, h]
  rfl

/-! ## What a step does to one port -/

/-- As long as the node runs on, the port's link is as before. -/
def LinkKept (s t : State) (x y : Port) : Prop :=
  (t.phase = s.phase ∧ y.link = x.link) ∨ (s.powered = true ∧ t.powered = false)

theorem LinkKept.trans (h : LinkKept s t x y) (h' : LinkKept t u y z) : LinkKept s u x z := by
  obtain ⟨phase, link⟩ | ⟨on, off⟩ := h
  · obtain ⟨phase', link'⟩ | ⟨on', off'⟩ := h'
    · exact .inl ⟨phase'.trans phase, link'.trans link⟩
    · exact .inr ⟨by rwa [State.powered, ← phase], off'⟩
  · obtain ⟨phase', -⟩ | ⟨on', -⟩ := h'
    · exact .inr ⟨on, by rwa [State.powered, phase']⟩
    · rw [off] at on'
      cases on'

/-- Two states of one phase: the node has not stopped. -/
theorem LinkKept.link (h : LinkKept s t x y) (phase : t.phase = s.phase) : y.link = x.link := by
  obtain ⟨-, link⟩ | ⟨on, off⟩ := h
  · exact link
  · rw [State.powered, phase, ← State.powered, on] at off
    cases off

/-- The step takes the port `x` to one of which `Q` holds. -/
def Reaches (p : Nat) (s : State) (x : Port) (t : State) (Q : Port → Prop) : Prop :=
  ∃ y, mapGet t.ports p = some y ∧ Q y ∧ LinkKept s t x y

section
variable {Q Q' : Port → Prop}

theorem Reaches.self (hx : mapGet s.ports p = some x) (h : Q x) : Reaches p s x s Q := ⟨x, hx, h, .inl ⟨rfl, rfl⟩⟩

theorem Reaches.imp (h : Reaches p s x t Q) (hq : ∀ y, Q y → Q' y) : Reaches p s x t Q' :=
  let ⟨y, hy, q, link⟩ := h
  ⟨y, hy, hq y q, link⟩

theorem reaches_ite {c : Prop} [Decidable c] (h : Reaches p s x t Q) (h' : Reaches p s x u Q) :
    Reaches p s x (if c then t else u) Q := by
  split
  · exact h
  · exact h'

theorem Reaches.and (h : Reaches p s x t Q) (h' : Reaches p s x t Q') : Reaches p s x t (fun y => Q y ∧ Q' y) := by
  obtain ⟨y, hy, q, link⟩ := h
  obtain ⟨z, hz, q', -⟩ := h'
  obtain rfl : y = z := Option.some.inj (hy.symm.trans hz)
  exact ⟨y, hy, ⟨q, q'⟩, link⟩

theorem Reaches.then (h : Reaches p s x t Q) (h' : ∀ y, mapGet t.ports p = some y → Q y → Reaches p t y u Q') :
    Reaches p s x u Q' :=
  let ⟨y, hy, q, link⟩ := h
  let ⟨z, hz, q', link'⟩ := h' y hy q
  ⟨z, hz, q', link.trans link'⟩

theorem Reaches.modPort {g : Port → Port} (hx : mapGet s.ports p = some x) (h : Q (g x)) (hlink : (g x).link = x.link) :
    Reaches p s x (modPort s p g) Q :=
  ⟨g x, (mapGet_mapMod_self ..).trans (congrArg (Option.map g) hx), h, .inl ⟨rfl, hlink⟩⟩

end

theorem Quiet.reaches (h : Quiet s t) (hx : mapGet s.ports p = some x) : Reaches p s x t (fun y => y.bare = x.bare) := by
  have bare := h.bare p
  rw [hx] at bare
  obtain ⟨y, hy, same⟩ := Option.map_eq_some_iff.mp bare
  refine ⟨y, hy, same, ?_⟩
  obtain ⟨phase, link⟩ | off := h.link
  · have link := link p
    rw [hx, hy] at link
    exact .inl ⟨phase, Option.some.inj link⟩
  · exact .inr off

/-! ## A port beside one of its slots -/

/-- A port but for its slots, its reads and its records. -/
def Port.apart (x : Port) : Port := { x.bare with reads := [], records := [], mbox := unslotted x.mbox }

/-- What a port holds of a slot. -/
def slotView (p j : Nat) (x : Port) : Slot × List HostRead × Option RecRec :=
  (x.mbox.slotAt j, readsOf x (.host p) j, mapGet x.records j)

/-- Of the port only slot `k`, its reads and its record may differ. -/
structure Beside (p k : Nat) (x y : Port) : Prop where
  apart : y.apart = x.apart
  others : ∀ j, j ≠ k → slotView p j y = slotView p j x

theorem Beside.refl (x : Port) : Beside p k x x := ⟨rfl, fun _ _ => rfl⟩

theorem Beside.trans (h : Beside p k x y) (h' : Beside p k y z) : Beside p k x z :=
  ⟨h'.apart.trans h.apart, fun j hj => (h'.others j hj).trans (h.others j hj)⟩

/-- Of the port only slot `k` and its reads may differ. -/
structure Kept (p k : Nat) (x y : Port) : Prop extends Beside p k x y where
  records : y.records = x.records

theorem Kept.refl (x : Port) : Kept p k x x := ⟨.refl x, rfl⟩

theorem Kept.trans (h : Kept p k x y) (h' : Kept p k y z) : Kept p k x z :=
  ⟨h.toBeside.trans h'.toBeside, h'.records.trans h.records⟩

theorem mbox_of_bare (h : y.bare = x.bare) : y.mbox = x.mbox := show y.bare.mbox = x.bare.mbox by rw [h]

theorem Kept.of_bare (h : y.bare = x.bare) : Kept p k x y := by
  have reads : y.reads = x.reads := show y.bare.reads = x.bare.reads by rw [h]
  have records : y.records = x.records := show y.bare.records = x.bare.records by rw [h]
  refine ⟨⟨?_, fun j _ => ?_⟩, records⟩
  · exact congrArg (fun z : Port => { z with reads := [], records := [], mbox := unslotted z.mbox }) h
  · rw [slotView, slotView, mbox_of_bare h, readsOf, readsOf, reads, records]

/-- The port after a change of one slot. -/
def Port.reslot (x : Port) (k : Nat) (g : Slot → Slot) : Port :=
  { x with mbox := { x.mbox with slots := mapUpd x.mbox.slots Slot.reset k g } }

theorem reslot_slotAt (x : Port) (k : Nat) (g : Slot → Slot) : (x.reslot k g).mbox.slotAt k = g (x.mbox.slotAt k) :=
  mapGetD_mapUpd_self ..

theorem Kept.reslot (x : Port) (g : Slot → Slot) : Kept p k x (x.reslot k g) := by
  refine ⟨⟨rfl, fun j hj => ?_⟩, rfl⟩
  have slot : (x.reslot k g).mbox.slotAt j = x.mbox.slotAt j := mapGetD_mapUpd_ne _ _ _ hj
  rw [slotView, slot]
  rfl

/-- A change of the reads of slot `k`. -/
theorem Kept.reads {l : List HostRead} (h : ∀ j, j ≠ k → l.filter (fun r => r.mb == .host p && r.slot == j) =
    x.reads.filter (fun r => r.mb == .host p && r.slot == j)) : Kept p k x { x with reads := l } :=
  ⟨⟨rfl, fun j hj => by rw [slotView, readsOf, h j hj]; rfl⟩, rfl⟩

/-- Reads that one drops of slot `k` alone leave those of another slot. -/
theorem filter_dropped {j : Nat} (hj : j ≠ k) (l : List HostRead) (q : HostRead → Bool) :
    (l.filter (fun r => !(r.mb == .host p && r.slot == k && q r))).filter (fun r => r.mb == .host p && r.slot == j) =
      l.filter (fun r => r.mb == .host p && r.slot == j) := by
  rw [List.filter_filter]
  refine List.filter_congr fun r _ => ?_
  by_cases here : r.slot = j
  · have other : (r.slot == k) = false := beq_false_of_ne (here ▸ hj)
    simp [other]
  · simp [here]

/-! ## How a transfer ends -/

/-- The transfer of the slot has ended. -/
structure EndedAs (p k st : Nat) (x y : Port) : Prop extends Kept p k x y where
  phase : (y.mbox.slotAt k).phase = .finished
  status : (y.mbox.slotAt k).status = st

theorem finish_reaches (hx : mapGet s.ports p = some x) (st detail result : Nat) :
    Reaches p s x (finish s (.host p) k st detail result) (EndedAs p k st x) :=
  Reaches.modPort (g := fun x => x.reslot k (fun z =>
      { z with phase := .finished, status := st, detail := detail, result := result })) hx
    ⟨.reslot x _, by rw [reslot_slotAt], by rw [reslot_slotAt]⟩ rfl

theorem dropReads_reaches (hx : mapGet s.ports p = some x) :
    Reaches p s x (dropReads s p (.host p) k) (fun y => Kept p k x y ∧ y.mbox = x.mbox) := by
  refine Reaches.modPort hx ⟨.reads fun j hj => ?_, rfl⟩ rfl
  have dropped := filter_dropped (p := p) hj x.reads (fun _ => true)
  simpa only [Bool.and_true] using dropped

/-- The end of a transfer: ABORTED where an abort had stopped it. -/
def endStatus (x : Slot) (st : Nat) : Nat := if x.aborting then stAborted else st

theorem getSlot_there (hx : mapGet s.ports p = some x) (k : Nat) : getSlot s (.host p) k = x.mbox.slotAt k := by
  rw [getSlot, getMbox, getPort_there hx]

theorem endsAt_reaches (hx : mapGet s.ports p = some x) (st : Nat) :
    Reaches p s x (endsAt s (.host p) k st) (EndedAs p k (endStatus (x.mbox.slotAt k) st) x) := by
  rw [← getSlot_there hx]
  refine (dropReads_reaches hx).then fun y hy kept => (finish_reaches hy _ _ _).imp fun z ended => ?_
  exact ⟨kept.1.trans ended.toKept, ended.phase, ended.status⟩

/-! ## A COPY from host memory goes on (13 R448) -/

/-- The slot while its data is carried on: it runs as before, or has ended with one of the statuses of 12 R410. -/
def CarriedTo (a b : Slot) : Prop :=
  (b.phase = .running ∧ b.status = a.status) ∨
    (b.phase = .finished ∧ ∃ st ∈ [stOk, stHostError, stTranslationFault], b.status = endStatus a st)

/-- The port while the data of a slot that runs is carried on. -/
structure Carried (p k : Nat) (x y : Port) : Prop extends Kept p k x y where
  slot : CarriedTo (x.mbox.slotAt k) (y.mbox.slotAt k)

section
variable (hx : mapGet s.ports p = some x) (runs : (x.mbox.slotAt k).phase = .running)

theorem Carried.refl (runs : (x.mbox.slotAt k).phase = .running) : Carried p k x x := ⟨.refl x, .inl ⟨runs, rfl⟩⟩

theorem EndedAs.carried {st : Nat} (h : EndedAs p k (endStatus (x.mbox.slotAt k) st) x y)
    (hst : st ∈ [stOk, stHostError, stTranslationFault]) : Carried p k x y :=
  ⟨h.toKept, .inr ⟨h.phase, st, hst, h.status⟩⟩

theorem endStatus_eq {a b : Slot} (hp : b.phase = a.phase) (hs : b.status = a.status) (st : Nat) :
    endStatus b st = endStatus a st := by
  rw [endStatus, endStatus, Slot.aborting, Slot.aborting, hp, hs]

theorem Carried.trans (h : Carried p k x y) (runs : (x.mbox.slotAt k).phase = .running)
    (hy : (y.mbox.slotAt k).phase = .running) (h' : Carried p k y z) : Carried p k x z := by
  refine ⟨h.toKept.trans h'.toKept, ?_⟩
  obtain ⟨-, status⟩ | ⟨finished, -⟩ := h.slot
  · obtain ⟨run, status'⟩ | ⟨finished, st, hst, ends⟩ := h'.slot
    · exact .inl ⟨run, status'.trans status⟩
    · exact .inr ⟨finished, st, hst, ends.trans (endStatus_eq (hy.trans runs.symm) status st)⟩
  · rw [finished] at hy
    cases hy

/-- A destination line is written, or its translation stops it; what it carries may be poisoned, but not the stop. -/
theorem writeDest_stop (s : State) (f : Nat) (x : Slot) (mb : MboxId) (k va hint : Nat) (data : List Byte) (bad : Bool) :
    (writeDest s f x mb k va hint data bad).2 ≠ .poisoned := by
  unfold writeDest
  dsimp only
  split
  · dsimp only
    split <;> nofun
  · nofun

include hx runs

theorem carryStep_reaches (f c : Nat) : Reaches p s x (carryStep s f (.host p) k c) (Carried p k x) := by
  unfold carryStep
  extract_lets a q rs dst n data w
  have slot : a = x.mbox.slotAt k := getSlot_there hx k
  split
  · split
    · next aborting =>
      refine (endsAt_reaches hx stAborted).imp fun y ended => EndedAs.carried (st := stOk) ?_ List.mem_cons_self
      rw [slot] at aborting
      rw [endStatus, if_pos aborting] at ended ⊢
      exact ended
    · next goes =>
      refine (finish_reaches hx stOk 0 0).imp fun y ended => EndedAs.carried (st := stOk) ?_ List.mem_cons_self
      rw [slot] at goes
      rwa [endStatus, if_neg goes]
  · refine reaches_ite (.self hx (.refl runs)) (reaches_ite ?_ ?_)
    · exact (endsAt_reaches hx stHostError).imp fun y ended => ended.carried (by simp)
    · have wrote : Reaches p s x w.1 (fun y => y.bare = x.bare) := (quiet_writeDest (Quiet.refl s)).reaches hx
      have stops : w.2 ≠ .poisoned := writeDest_stop _ _ _ _ _ _ _ _ _
      refine wrote.then fun y hy bare => ?_
      have kept : Kept p k x y := .of_bare bare
      have mbox := mbox_of_bare bare
      split
      · have read : Reaches p w.1 y (modPort w.1 p (fun y => { y with reads := y.reads.filter (fun r =>
            !(r.mb == .host p && r.slot == k && decide (r.offset + r.len ≤ a.offset + data.length))) }))
            (fun z => Kept p k x z ∧ z.mbox = x.mbox) :=
          Reaches.modPort hy ⟨kept.trans (.reads fun j hj => filter_dropped hj y.reads _), mbox⟩ rfl
        refine read.then fun z hz kept => ?_
        · refine Reaches.modPort (g := fun x => x.reslot k (fun b => { b with offset := b.offset + data.length })) hz
            ⟨kept.1.trans (.reslot z _), ?_⟩ rfl
          rw [reslot_slotAt, kept.2]
          exact .inl ⟨runs, rfl⟩
      · next st stop =>
        cases e : w.2 with
        | none => exact absurd e stop
        | poisoned => exact absurd e stops
        | held => exact .self hy ⟨kept, by rw [mbox]; exact .inl ⟨runs, rfl⟩⟩
        | denied =>
          refine (endsAt_reaches hy stTranslationFault).imp fun z ended => ?_
          rw [mbox] at ended
          exact ⟨kept.trans ended.toKept, .inr ⟨ended.phase, _, by simp, ended.status⟩⟩

end

theorem stalled_of_phase (hx : mapGet s.ports p = some x) (h : (x.mbox.slotAt k).phase ≠ .running) :
    stalled s (.host p) k = true := by
  rw [stalled, getSlot_there hx]
  simp [h]

theorem carry_stalled {mb : MboxId} (h : stalled s mb k = true) (n f c : Nat) : carry n f mb k c s = s := by
  cases n with
  | zero => rfl
  | succ n => exact if_pos h

theorem carry_succ {mb : MboxId} (h : stalled s mb k = false) (n f c : Nat) :
    carry (n + 1) f mb k c s = carry n f mb k c (carryStep s f mb k c) := by
  rw [carry, h, if_neg Bool.false_ne_true]

theorem carry_reaches (hx : mapGet s.ports p = some x) (runs : (x.mbox.slotAt k).phase = .running) (n f c : Nat) :
    Reaches p s x (carry n f (.host p) k c s) (Carried p k x) := by
  induction n generalizing s x with
  | zero => exact .self hx (.refl runs)
  | succ n ih =>
    cases h : stalled s (.host p) k with
    | true =>
      rw [carry_stalled h]
      exact .self hx (.refl runs)
    | false =>
      rw [carry_succ h]
      refine (carryStep_reaches hx runs f c).then fun y hy carried => ?_
      by_cases still : (y.mbox.slotAt k).phase = .running
      · exact (ih hy still).imp fun z => carried.trans runs still
      · rw [carry_stalled (stalled_of_phase hy still)]
        exact .self hy carried

theorem endStatus_aborted (a : Slot) : endStatus a stAborted = stAborted := ite_self _

theorem endStatus_aborting {a : Slot} (h : a.aborting = true) (st : Nat) : endStatus a st = stAborted := if_pos h

theorem carryAll_reaches (hx : mapGet s.ports p = some x) (runs : (x.mbox.slotAt k).phase = .running) (f c : Nat) :
    Reaches p s x (carryAll s f (.host p) k c) (Carried p k x) := by
  refine (carry_reaches hx runs ((readsOf (getPort s p) (.host p) k).length * 6 + 2) f c).then fun y hy carried => ?_
  unfold carryAll
  dsimp only [portOf]
  split
  · next stops =>
    rw [Bool.and_eq_true, getSlot_there hy] at stops
    have still : (y.mbox.slotAt k).phase = .running := by
      have aborting := stops.1
      rw [Slot.aborting, Bool.and_eq_true, beq_iff_eq] at aborting
      exact aborting.1
    refine (endsAt_reaches hy stAborted).imp fun z ended => carried.trans runs still ?_
    refine EndedAs.carried (st := stOk) ?_ List.mem_cons_self
    rwa [endStatus_aborted, ← endStatus_aborting stops.1 stOk] at ended
  · exact .self hy carried

/-! ## A COPY from host memory is cut off (12 R410, R431) -/

/-- The read of a COPY that was cut off brings no data any more. -/
def lostRead (p k : Nat) (r : HostRead) : HostRead :=
  if r.mb == .host p && r.slot == k && r.arrived.isNone then { r with failed := true } else r

/-- What was never asked for, as a read that failed. -/
def neverRead (s : State) (p k : Nat) : HostRead :=
  { tag := 0, mb := .host p, slot := k, offset := issuedTo s (.host p) k, len := 0, arrived := none, poisoned := false,
    failed := true }

/-- The reads of the COPY have failed. -/
def readsCut (s : State) (p k : Nat) : State :=
  modPort s p (fun x => { x with reads := x.reads.map (lostRead p k) ++ [neverRead s p k] })

theorem cutReads_eq (s : State) (p k : Nat) : cutReads s p k =
    (let t := match formeOfMbox (readsCut s p k) (.host p) with
      | some f => carryAll (readsCut s p k) f (.host p) k (slotCmd (getPort s p).mbox k)
      | none => readsCut s p k
    if (getSlot t (.host p) k).phase == .running then endsAt t (.host p) k stHostError else t) := rfl

theorem readsOf_map_lostRead_ne {j : Nat} (hj : j ≠ k) (l : List HostRead) :
    (l.map (lostRead p k)).filter (fun r => r.mb == .host p && r.slot == j) =
      l.filter (fun r => r.mb == .host p && r.slot == j) := by
  induction l with
  | nil => rfl
  | cons r l ih =>
    have place : (lostRead p k r).mb = r.mb ∧ (lostRead p k r).slot = r.slot := by
      unfold lostRead
      split <;> exact ⟨rfl, rfl⟩
    rw [List.map_cons, List.filter_cons, List.filter_cons, place.1, place.2, ih]
    by_cases here : r.slot = j
    · have other : (r.slot == k) = false := beq_false_of_ne (here ▸ hj)
      have same : lostRead p k r = r := by simp [lostRead, other]
      rw [same]
    · simp [here]

theorem readsCut_reaches (hx : mapGet s.ports p = some x) : Reaches p s x (readsCut s p k) (fun y => Kept p k x y ∧
    y = { x with reads := x.reads.map (lostRead p k) ++ [neverRead s p k] }) := by
  refine Reaches.modPort hx ⟨.reads fun j hj => ?_, rfl⟩ rfl
  have never : (neverRead s p k).slot ≠ j := fun e => hj e.symm
  rw [List.filter_append, readsOf_map_lostRead_ne hj]
  simp [never]

/-- The transfer has ended, ABORTED where an abort had stopped it, and else with a status of 12 R410. -/
def CutEnded (p k : Nat) (x y : Port) : Prop :=
  Kept p k x y ∧ ∃ st ∈ [stOk, stHostError, stTranslationFault], (y.mbox.slotAt k).phase = .finished ∧
    (y.mbox.slotAt k).status = endStatus (x.mbox.slotAt k) st

theorem cutReads_reaches (hx : mapGet s.ports p = some x) (runs : (x.mbox.slotAt k).phase = .running) :
    Reaches p s x (cutReads s p k) (CutEnded p k x) := by
  rw [cutReads_eq]
  refine (readsCut_reaches (k := k) hx).then fun y hy ⟨kept, hyx⟩ => ?_
  have slot : y.mbox.slotAt k = x.mbox.slotAt k := by rw [hyx]
  have goes : Reaches p (readsCut s p k) y (match formeOfMbox (readsCut s p k) (.host p) with
      | some f => carryAll (readsCut s p k) f (.host p) k (slotCmd (getPort s p).mbox k)
      | none => readsCut s p k) (Carried p k y) := by
    split
    · exact carryAll_reaches hy (slot ▸ runs) ..
    · exact .self hy (.refl (slot ▸ runs))
  refine goes.then fun z hz carried => ?_
  dsimp only
  have status (st : Nat) : endStatus (y.mbox.slotAt k) st = endStatus (x.mbox.slotAt k) st := by rw [slot]
  rw [getSlot_there hz]
  obtain ⟨still, same⟩ | ⟨finished, st, hst, ends⟩ := carried.slot
  · rw [still]
    refine (endsAt_reaches hz stHostError).imp fun w ended => ⟨kept.trans (carried.toKept.trans ended.toKept),
      stHostError, by simp, ended.phase, ?_⟩
    rw [ended.status, endStatus_eq (still.trans (slot ▸ runs).symm) same, status]
  · rw [finished]
    exact .self hz ⟨kept.trans carried.toKept, st, hst, finished, ends.trans (status st)⟩

theorem readsOf_map_lostRead (x : Port) (p k : Nat) (l : List HostRead) :
    readsOf { x with reads := l.map (lostRead p k) } (.host p) k =
      (readsOf { x with reads := l } (.host p) k).map (lostRead p k) := by
  unfold readsOf
  rw [List.filter_map]
  congr 1
  refine List.filter_congr fun r _ => ?_
  unfold Function.comp lostRead
  split <;> rfl

/-- Where no data has arrived, none does any more. -/
theorem carryStep_nothing {f c : Nat} (hx : mapGet s.ports p = some x) (short : (x.mbox.slotAt k).offset ≠ cpLen c)
    (none_yet : arrivedFrom (x.mbox.slotAt k).offset (readsOf x (.host p) k) = [])
    (failed : headFailed (readsOf x (.host p) k) = true) :
    carryStep s f (.host p) k c = endsAt s (.host p) k stHostError := by
  unfold carryStep
  rw [getSlot_there hx]
  dsimp only [portOf]
  rw [getPort_there hx, if_neg short, none_yet, awaitsData, failed]
  simp

theorem arrivedFrom_nothing {l : List HostRead} (h : ∀ r ∈ l, r.arrived = none) (o : Nat) : arrivedFrom o l = [] := by
  cases l with
  | nil => rfl
  | cons r l =>
    unfold arrivedFrom
    rw [h r List.mem_cons_self]

theorem headFailed_lost {l : List HostRead} (some_read : l ≠ []) (h : ∀ r ∈ l, r.arrived = none ∧ r.failed = true) :
    headFailed l = true := by
  cases l with
  | nil => exact absurd rfl some_read
  | cons r l =>
    have first := (h r List.mem_cons_self).2
    simp [headFailed, first]

theorem endsAt_stalled (hx : mapGet s.ports p = some x) (st : Nat) :
    stalled (endsAt s (.host p) k st) (.host p) k = true ∧
      (getSlot (endsAt s (.host p) k st) (.host p) k).aborting = false ∧
      (getSlot (endsAt s (.host p) k st) (.host p) k).phase = .finished := by
  obtain ⟨y, hy, ended, -⟩ := endsAt_reaches (k := k) hx st
  have slot := getSlot_there hy k
  have phase := ended.phase
  exact ⟨stalled_of_phase hy (by rw [phase]; nofun), by rw [slot, Slot.aborting, phase]; rfl, by rw [slot, phase]⟩

theorem cutReads_nothing (hx : mapGet s.ports p = some x) (runs : (x.mbox.slotAt k).phase = .running)
    (goes : (x.mbox.slotAt k).aborting = false) (none_yet : ∀ q ∈ readsOf x (.host p) k, q.arrived = none)
    (short : (x.mbox.slotAt k).offset < cpLen (slotCmd x.mbox k)) :
    cutReads s p k = endsAt (readsCut s p k) (.host p) k stHostError := by
  obtain ⟨y, hy, ⟨-, rfl⟩, -⟩ := readsCut_reaches (k := k) hx
  have reads : ∀ q ∈ readsOf { x with reads := x.reads.map (lostRead p k) ++ [neverRead s p k] } (.host p) k,
      q.arrived = none ∧ q.failed = true := by
    intro q hq
    rw [readsOf, List.filter_append] at hq
    obtain lost | never := List.mem_append.mp hq
    · have lost : q ∈ (readsOf x (.host p) k).map (lostRead p k) := by
        rw [← readsOf_map_lostRead x p k x.reads]
        exact lost
      obtain ⟨r, hr, rfl⟩ := List.mem_map.mp lost
      have mine := (List.mem_filter.mp hr).2
      have none_yet := none_yet r hr
      simp [lostRead, mine, none_yet]
    · obtain rfl := List.mem_singleton.mp (List.mem_of_mem_filter never)
      exact ⟨rfl, rfl⟩
  have some_read : readsOf { x with reads := x.reads.map (lostRead p k) ++ [neverRead s p k] } (.host p) k ≠ [] := by
    have there : neverRead s p k ∈ x.reads.map (lostRead p k) ++ [neverRead s p k] := by simp
    refine List.ne_nil_of_mem (a := neverRead s p k) (List.mem_filter.mpr ⟨there, ?_⟩)
    simp [neverRead]
  have step (f : Nat) : carryStep (readsCut s p k) f (.host p) k (slotCmd (getPort s p).mbox k) =
      endsAt (readsCut s p k) (.host p) k stHostError := by
    rw [getPort_there hx]
    exact carryStep_nothing hy (Nat.ne_of_lt short) (arrivedFrom_nothing (fun r hr => (reads r hr).1) _)
      (headFailed_lost some_read reads)
  obtain ⟨stall, goes', phase⟩ := endsAt_stalled (k := k) hy stHostError
  have carries (f : Nat) : carryAll (readsCut s p k) f (.host p) k (slotCmd (getPort s p).mbox k) = readsCut s p k ∨
      carryAll (readsCut s p k) f (.host p) k (slotCmd (getPort s p).mbox k) =
        endsAt (readsCut s p k) (.host p) k stHostError := by
    unfold carryAll
    cases h : stalled (readsCut s p k) (.host p) k with
    | true =>
      left
      dsimp only
      rw [carry_stalled h, getSlot_there hy, if_neg (by simp [goes])]
    | false =>
      right
      dsimp only
      rw [carry_succ h, step, carry_stalled stall, if_neg (by simp [goes'])]
  have running : (getSlot (readsCut s p k) (.host p) k).phase = .running := by rw [getSlot_there hy]; exact runs
  rw [cutReads_eq]
  dsimp only
  split
  · next f hf =>
    obtain same | ended := carries f
    · rw [same, running]
      rfl
    · rw [ended, phase]
      rfl
  · rw [running]
    rfl

/-! ## The transfers of host memory -/

/-- The host memory that the slot moves data from or to now. -/
def Port.moving (x : Port) (k : Nat) : Option Move :=
  if (x.mbox.slotAt k).phase == .running && slotOpcode x.mbox k == 0x30 then
    match moveOf (slotCmd x.mbox k) with
    | .fromHost => some .fromHost
    | .toHost => some .toHost
    | _ => none
  else none

theorem hostMove_there (hx : mapGet s.ports p = some x) (k : Nat) : hostMove s p k = x.moving k := by
  rw [hostMove, getPort_there hx]
  rfl

theorem running_of_moving {mv : Move} (h : x.moving k = some mv) : (x.mbox.slotAt k).phase = .running := by
  unfold Port.moving at h
  split at h
  · next runs =>
    rw [Bool.and_eq_true, beq_iff_eq] at runs
    exact runs.1
  · cases h

/-- A COPY moves from host memory, or to it. -/
theorem moving_cases {mv : Move} (h : x.moving k = some mv) : mv = .toHost ∨ mv = .fromHost := by
  unfold Port.moving at h
  split at h
  · split at h
    · exact .inr (Option.some.inj h).symm
    · exact .inl (Option.some.inj h).symm
    · cases h
  · cases h

/-- How a COPY from host memory that is cut off ends. -/
def CutAs (p : Nat) (x : Port) (k status : Nat) : Prop :=
  if (x.mbox.slotAt k).aborting then status = stAborted
  else status ∈ [stOk, stHostError, stTranslationFault] ∧
    ((∀ q ∈ readsOf x (.host p) k, q.arrived = none) →
      (x.mbox.slotAt k).offset < cpLen (slotCmd x.mbox k) → status = stHostError)

/-- The transfer of a slot has been cut off. -/
structure CutOff (p k : Nat) (mv : Move) (x y : Port) : Prop extends Kept p k x y where
  phase : (y.mbox.slotAt k).phase = .finished
  torn : mv = .toHost → (y.mbox.slotAt k).status = stTorn
  cut : mv = .fromHost → CutAs p x k (y.mbox.slotAt k).status

theorem cutReads_cutOff (hx : mapGet s.ports p = some x) (runs : (x.mbox.slotAt k).phase = .running) :
    Reaches p s x (cutReads s p k) (CutOff p k .fromHost x) := by
  by_cases aborting : (x.mbox.slotAt k).aborting = true
  · refine (cutReads_reaches hx runs).imp fun y ⟨kept, st, _, phase, status⟩ => ⟨kept, phase, nofun, fun _ => ?_⟩
    rw [CutAs, if_pos aborting, status, endStatus_aborting aborting]
  · have status_of (st : Nat) : endStatus (x.mbox.slotAt k) st = st := if_neg aborting
    have empty : Reaches p s x (cutReads s p k) (fun y => (∀ q ∈ readsOf x (.host p) k, q.arrived = none) →
        (x.mbox.slotAt k).offset < cpLen (slotCmd x.mbox k) → (y.mbox.slotAt k).status = stHostError) := by
      by_cases nothing : (∀ q ∈ readsOf x (.host p) k, q.arrived = none) ∧
          (x.mbox.slotAt k).offset < cpLen (slotCmd x.mbox k)
      · rw [cutReads_nothing hx runs (Bool.eq_false_iff.mpr aborting) nothing.1 nothing.2]
        refine (readsCut_reaches (k := k) hx).then fun y hy ⟨_, hyx⟩ =>
          (endsAt_reaches hy stHostError).imp fun z ended _ _ => ?_
        rw [ended.status, hyx, status_of]
      · exact (cutReads_reaches hx runs).imp fun y _ none_yet short => absurd ⟨none_yet, short⟩ nothing
    refine ((cutReads_reaches hx runs).and empty).imp fun y ⟨⟨kept, st, hst, phase, status⟩, nothing⟩ =>
      ⟨kept, phase, nofun, fun _ => ?_⟩
    rw [CutAs, if_neg aborting]
    refine ⟨?_, nothing⟩
    rwa [status, status_of]

theorem cutMove_reaches {mv : Move} (hx : mapGet s.ports p = some x) (hm : x.moving k = some mv) :
    Reaches p s x (cutMove s p k mv).1 (CutOff p k mv x) := by
  obtain rfl | rfl := moving_cases hm
  · refine (finish_reaches (s := s.drawn) hx stTorn 0 _).imp fun y ended => ?_
    exact ⟨ended.toKept, ended.phase, fun _ => ended.status, nofun⟩
  · exact cutReads_cutOff hx (running_of_moving hm)

/-- What the record of a transfer that was cut off says. -/
theorem cutMove_outcome {mv : Move} (hm : x.moving k = some mv) (hy : mapGet (cutMove s p k mv).1.ports p = some y) :
    (mv = .toHost → (cutMove s p k mv).2.1 = 4 ∧ (cutMove s p k mv).2.2.1 = stTorn) ∧
      (mv = .fromHost → (cutMove s p k mv).2.1 = 5 ∧ (cutMove s p k mv).2.2.1 = (y.mbox.slotAt k).status) := by
  obtain rfl | rfl := moving_cases hm
  · exact ⟨fun _ => ⟨rfl, rfl⟩, nofun⟩
  · refine ⟨nofun, fun _ => ⟨rfl, ?_⟩⟩
    rw [← getSlot_there hy k]
    rfl

/-! ## Recovery records (12 R431) -/

/-- The record tells of a transfer of the slot that an earlier reset has ended. -/
def Port.tells (x : Port) (k : Nat) (r : RecRec) : Prop :=
  mapGet x.records k = some r ∧ (r.outcome = 4 ∨ r.outcome = 5) ∧ r.seq = slotSeq x.mbox k ∧
    (x.mbox.slotAt k).phase = .finished

/-- What the record of an owned slot says after a reset of the port. -/
structure SlotTold (p k : Nat) (x : Port) (r : RecRec) (y : Port) : Prop where
  slot : r.slot = k
  seq : r.seq = slotSeq x.mbox k
  opcode : r.opcode = slotOpcode x.mbox k
  epoch : r.epochLo = y.epoch % 2 ^ 16
  quiet : x.moving k = none → (¬∃ r0, x.tells k r0) → r.outcome = 2 ∧ r.status = 0
  kept : ∀ r0, x.tells k r0 → r = { r0 with slot := k, opcode := r.opcode, epochLo := r.epochLo }
  torn : x.moving k = some .toHost → r.outcome = 4 ∧ r.status = stTorn
  cut : x.moving k = some .fromHost → r.outcome = 5 ∧ (y.mbox.slotAt k).phase = .finished ∧
    (y.mbox.slotAt k).status = r.status ∧ CutAs p x k r.status

/-- The record that a reset writes of a slot. -/
def resetRecord (m : Mailbox) (k epoch outcome status lo hi : Nat) : RecRec :=
  { slot := k, outcome := outcome, status := status, opcode := slotOpcode m k, epochLo := epoch % 2 ^ 16, seq := slotSeq m k,
    lo := lo, hi := hi }

/-- The state with the record of a slot. -/
def putRecord (m : Mailbox) (p k : Nat) (s : State) (outcome status lo hi : Nat) : State :=
  let r := resetRecord m k (getPort s p).epoch outcome status lo hi
  modPort s p (fun x => { x with records := mapSet x.records k r })

theorem recordSlot_moving {mv : Move} (hx : mapGet s.ports p = some x) (h : x.moving k = some mv) :
    recordSlot s p k = putRecord x.mbox p k (cutMove s p k mv).1 (cutMove s p k mv).2.1 (cutMove s p k mv).2.2.1
      (cutMove s p k mv).2.2.2.1 (cutMove s p k mv).2.2.2.2 := by
  unfold recordSlot
  rw [hostMove_there hx, h, getPort_there hx]
  rfl

theorem recordSlot_told {r : RecRec} (hx : mapGet s.ports p = some x) (h : x.moving k = none) (told : x.tells k r) :
    recordSlot s p k = putRecord x.mbox p k s r.outcome r.status r.lo r.hi := by
  obtain ⟨there, told⟩ := told
  unfold recordSlot
  rw [hostMove_there hx, h, getPort_there hx]
  dsimp only
  rw [there]
  dsimp only
  exact if_pos told

theorem recordSlot_quiet (hx : mapGet s.ports p = some x) (h : x.moving k = none) (untold : ¬∃ r, x.tells k r) :
    recordSlot s p k = putRecord x.mbox p k s 2 0 0 0 := by
  unfold recordSlot
  rw [hostMove_there hx, h, getPort_there hx]
  dsimp only
  split
  · next r there => exact if_neg fun told => untold ⟨r, there, told⟩
  · rfl

theorem putRecord_reaches (hx : mapGet s.ports p = some x) (m : Mailbox) (outcome status lo hi : Nat) :
    Reaches p s x (putRecord m p k s outcome status lo hi) (fun y => Beside p k x y ∧ y.mbox = x.mbox ∧
      mapGet y.records k = some (resetRecord m k x.epoch outcome status lo hi)) := by
  refine Reaches.modPort hx ⟨⟨rfl, fun j hj => ?_⟩, rfl, ?_⟩ rfl
  · rw [slotView, mapGet_mapSet_ne _ _ hj]
    rfl
  · rw [mapGet_mapSet_self, getPort_there hx]

/-- The slot has its record. -/
def Recorded (p k : Nat) (x y : Port) : Prop := Beside p k x y ∧ ∃ r, mapGet y.records k = some r ∧ SlotTold p k x r y

theorem epoch_of_apart (h : y.apart = x.apart) : y.epoch = x.epoch := show y.apart.epoch = x.apart.epoch by rw [h]

theorem finished_of_told {r : RecRec} (h : x.tells k r) : x.moving k = none := by
  obtain ⟨-, -, -, phase⟩ := h
  unfold Port.moving
  rw [phase]
  rfl

theorem recordSlot_reaches (hx : mapGet s.ports p = some x) : Reaches p s x (recordSlot s p k) (Recorded p k x) := by
  cases hm : x.moving k with
  | some mv =>
    have untold {r : RecRec} (told : x.tells k r) : False := by rw [finished_of_told told] at hm; cases hm
    rw [recordSlot_moving hx hm]
    refine (cutMove_reaches hx hm).then fun y hy off => (putRecord_reaches hy ..).imp fun z ⟨beside, mbox, there⟩ => ?_
    obtain ⟨torn, cut⟩ := cutMove_outcome hm hy
    refine ⟨off.toBeside.trans beside, _, there, rfl, rfl, rfl, ?_, (by rw [hm]; nofun), fun r told => (untold told).elim,
      fun toHost => ?_, fun fromHost => ?_⟩
    · rw [epoch_of_apart beside.apart]
      rfl
    · exact torn (Option.some.inj (hm.symm.trans toHost))
    · obtain rfl : mv = .fromHost := Option.some.inj (hm.symm.trans fromHost)
      obtain ⟨outcome, status⟩ := cut rfl
      refine ⟨outcome, mbox ▸ off.phase, ?_, ?_⟩
      · rw [mbox]
        exact status.symm
      · change CutAs p x k (cutMove s p k .fromHost).2.2.1
        rw [status]
        exact off.cut rfl
  | none =>
    by_cases told : ∃ r, x.tells k r
    · obtain ⟨r, told⟩ := told
      rw [recordSlot_told hx hm told]
      refine (putRecord_reaches hx ..).imp fun z ⟨beside, mbox, there⟩ => ⟨beside, _, there, rfl, rfl, rfl, ?_,
        fun _ untold => (untold ⟨r, told⟩).elim, fun r0 told0 => ?_, (by rw [hm]; nofun), (by rw [hm]; nofun)⟩
      · rw [epoch_of_apart beside.apart]
        rfl
      · obtain rfl : r = r0 := Option.some.inj (told.1.symm.trans told0.1)
        obtain ⟨-, -, seq, -⟩ := told
        rw [resetRecord, ← seq]
    · rw [recordSlot_quiet hx hm told]
      refine (putRecord_reaches hx ..).imp fun z ⟨beside, mbox, there⟩ => ⟨beside, _, there, rfl, rfl, rfl, ?_,
        fun _ _ => ⟨rfl, rfl⟩, fun r0 told0 => (told ⟨r0, told0⟩).elim, (by rw [hm]; nofun), (by rw [hm]; nofun)⟩
      rw [epoch_of_apart beside.apart]
      rfl

theorem bytes_of_apart (h : y.apart = x.apart) : y.mbox.bytes = x.mbox.bytes :=
  show y.apart.mbox.bytes = x.apart.mbox.bytes by rw [h]

/-- What a record says of a slot depends on the mailbox block, the slot with its reads and its record, and the new epoch. -/
theorem SlotTold.congr {x' y' : Port} {r : RecRec} (h : SlotTold p k x r y) (bytes : x'.mbox.bytes = x.mbox.bytes)
    (view : slotView p k x' = slotView p k x) (epoch : y'.epoch = y.epoch)
    (slot' : y'.mbox.slotAt k = y.mbox.slotAt k) : SlotTold p k x' r y' := by
  obtain ⟨slot, reads, record⟩ : x'.mbox.slotAt k = x.mbox.slotAt k ∧ readsOf x' (.host p) k = readsOf x (.host p) k ∧
      mapGet x'.records k = mapGet x.records k := by
    simpa only [slotView, Prod.mk.injEq] using view
  have cmd : slotCmd x'.mbox k = slotCmd x.mbox k := by rw [slotCmd, slotCmd, bytes]
  have opcode : slotOpcode x'.mbox k = slotOpcode x.mbox k := by rw [slotOpcode, slotOpcode, slotHeader, slotHeader, bytes]
  have seq : slotSeq x'.mbox k = slotSeq x.mbox k := by rw [slotSeq, slotSeq, slotSealWord, slotSealWord, bytes]
  have moving : x'.moving k = x.moving k := by rw [Port.moving, Port.moving, slot, cmd, opcode]
  have tells (r : RecRec) : x'.tells k r ↔ x.tells k r := by rw [Port.tells, Port.tells, record, seq, slot]
  have cut (st : Nat) : CutAs p x' k st ↔ CutAs p x k st := by rw [CutAs, CutAs, slot, reads, cmd]
  refine ⟨h.slot, h.seq.trans seq.symm, h.opcode.trans opcode.symm, ?_, ?_, ?_, ?_, ?_⟩
  · rw [epoch]
    exact h.epoch
  · simp only [moving, tells]
    exact h.quiet
  · simp only [tells]
    exact h.kept
  · rw [moving]
    exact h.torn
  · rw [moving, slot', cut]
    exact h.cut

/-- Each slot of the list has its record. -/
structure AllRecorded (p : Nat) (l : List Nat) (x y : Port) : Prop where
  apart : y.apart = x.apart
  others : ∀ j, j ∉ l → slotView p j y = slotView p j x
  told : ∀ k ∈ l, ∃ r, mapGet y.records k = some r ∧ SlotTold p k x r y

theorem recordSlots_reaches {l : List Nat} (hl : l.Nodup) (hx : mapGet s.ports p = some x) :
    Reaches p s x (l.foldl (fun s k => recordSlot s p k) s) (AllRecorded p l x) := by
  induction l generalizing s x with
  | nil => exact .self hx ⟨rfl, fun _ _ => rfl, fun _ hk => absurd hk List.not_mem_nil⟩
  | cons k l ih =>
    obtain ⟨hk, hl⟩ := List.nodup_cons.mp hl
    refine (recordSlot_reaches (k := k) hx).then fun y hy ⟨beside, r, there, told⟩ => (ih hl hy).imp fun z rest => ?_
    have view : slotView p k z = slotView p k y := rest.others k hk
    refine ⟨rest.apart.trans beside.apart, fun j hj => ?_, fun j hj => ?_⟩
    · obtain ⟨jk, hj⟩ := List.ne_and_not_mem_of_not_mem_cons hj
      exact (rest.others j hj).trans (beside.others j jk)
    · obtain rfl | hj := List.mem_cons.mp hj
      · refine ⟨r, ?_, told.congr rfl rfl (epoch_of_apart rest.apart) (congrArg Prod.fst view)⟩
        exact (congrArg (fun v => v.2.2) view).trans there
      · obtain ⟨r', there', told'⟩ := rest.told j hj
        have jk : j ≠ k := fun e => hk (e ▸ hj)
        exact ⟨r', there', told'.congr (bytes_of_apart beside.apart).symm (beside.others j jk).symm rfl rfl⟩

/-! ## Resets (12 R429 to R432, 13 Table 13.5) -/

/-- The port in a new epoch, disarmed. -/
def Port.inEpoch (x : Port) (kind now : Nat) : Port :=
  { x with epoch := (x.epoch + 1) % 2 ^ 32, resetKind := kind, tReset := now, pendingAck := true, armed := false }

theorem mapGet_ite_mapSet_ne {α : Type} {c : Prop} [Decidable c] {i : Nat} (m : SMap α) (v : α) (h : k ≠ i) :
    mapGet (if c then m else mapSet m i v) k = mapGet m k := by
  split
  · rfl
  · exact mapGet_mapSet_ne _ _ h

/-- Signals that were not sent are told of in the records of slots that are free again. -/
theorem recordUnsent_kept (x : Port) : x.recordUnsent.apart = x.apart ∧
    ∀ k, (x.mbox.slotAt k).owned = true → slotView p k x.recordUnsent = slotView p k x := by
  refine ⟨rfl, fun k owned => ?_⟩
  have records : mapGet x.recordUnsent.records k = mapGet x.records k := by
    unfold Port.recordUnsent
    refine List.foldlRecOn (motive := fun m => mapGet m k = mapGet x.records k) _ _ rfl fun m hm e _ => ?_
    by_cases here : e.1 = k
    · have skips : (x.mbox.slotAt e.1).owned = true := here ▸ owned
      simp only [skips, Bool.true_or, if_true]
      exact hm
    · exact (mapGet_ite_mapSet_ne _ _ (Ne.symm here)).trans hm
  rw [slotView, records]
  rfl

theorem forgetReads_reaches (hx : mapGet s.ports p = some x) : Reaches p s x (forgetReads s p)
    (fun y => y = { x with waiting := x.waiting.filter (fun i => !isReadOf p i) }) := by
  refine ⟨_, (mapGet_mapMod_self ..).trans (congrArg (Option.map _) hx), rfl, .inl ⟨rfl, rfl⟩⟩

/-- The entry of a reset of the port (15 R524). -/
def resetEntered (s : State) (p : Nat) : State :=
  journalWrite (openDigest s).1 (jEntry (match formeOfPort s p with
    | some g => JOrigin.firmware.about g
    | none => JOrigin.firmware) 0x0E ((formeOfPort s p).getD 0xFF) 4 0 (openDigest s).2)

theorem resetEntered_kept (s : State) (p : Nat) : (resetEntered s p).ports = s.ports ∧
    (resetEntered s p).now = s.now ∧ (resetEntered s p).phase = s.phase := by
  rw [resetEntered, journalWrite_frame]
  exact ⟨rfl, rfl, rfl⟩

/-- A change of the link, its registers apart, as a reset makes it. -/
def LinkOnly (f : Port → Port) : Prop :=
  ∀ z, ∃ link rate width cfg, f z = { z with link := link, rate := rate, width := width, cfg := cfg }

/-- What a reset of a port leaves (13 Table 13.5). -/
structure ResetTo (p : Nat) (x : Port) (now kind : Nat) (y : Port) : Prop where
  epoch : y.epoch = (x.epoch + 1) % 2 ^ 32
  kind : y.resetKind = kind
  time : y.tReset = now
  ack : y.pendingAck = true
  armed : y.armed = false
  reads : y.reads = []
  memSpace : y.memSpace = false
  busMaster : y.busMaster = false
  d3hot : y.d3hot = false
  valid : y.valid = 0
  payload : y.maxPayload = 128
  readReq : y.maxReadReq = 512
  perst : y.perstAsserted = x.perstAsserted
  forme : y.forme = x.forme
  told : ∀ k ∈ x.mbox.ownedSlots, ∃ r, mapGet y.records k = some r ∧ SlotTold p k x r y

theorem owned_of_mem {m : Mailbox} (h : k ∈ m.ownedSlots) : (m.slotAt k).owned = true := (List.mem_filter.mp h).2

theorem ownedSlots_nodup (m : Mailbox) : m.ownedSlots.Nodup := List.nodup_range.filter _

/-- A port whose slots have been recorded, at the defaults of 13 Table 13.5. -/
theorem resetTo_of_recorded {kind now : Nat} {f : Port → Port} {w : List Instr} (hf : LinkOnly f)
    (h : AllRecorded p x.mbox.ownedSlots (x.inEpoch kind now).recordUnsent y) :
    ResetTo p x now kind (f { ({ y with waiting := w } : Port).defaults with reads := [] }) := by
  obtain ⟨link, rate, width, cfg, shape⟩ := hf { ({ y with waiting := w } : Port).defaults with reads := [] }
  rw [shape]
  have apart : y.apart = (x.inEpoch kind now).apart := h.apart
  have epoch := congrArg Port.epoch apart
  have kind' := congrArg Port.resetKind apart
  have time := congrArg Port.tReset apart
  have ack := congrArg Port.pendingAck apart
  have armed := congrArg Port.armed apart
  have perst := congrArg Port.perstAsserted apart
  have forme := congrArg Port.forme apart
  refine ⟨epoch, kind', time, ack, armed, rfl, rfl, rfl, rfl, rfl, rfl, rfl, perst, forme, fun k hk => ?_⟩
  obtain ⟨r, there, told⟩ := h.told k hk
  exact ⟨r, there, told.congr rfl ((recordUnsent_kept (x.inEpoch kind now)).2 k (owned_of_mem hk)).symm rfl rfl⟩

/-- The port in its new epoch, before its slots are recorded. -/
def resetBegun (s : State) (p kind : Nat) : State :=
  modPort (modPort (resetEntered s p) p (fun x => x.inEpoch kind (resetEntered s p).now)) p Port.recordUnsent

/-- The state in which the slots of the port are recorded, and its reads forgotten. -/
def slotsRecorded (s : State) (p kind : Nat) : State :=
  forgetReads ((getPort (resetBegun s p kind) p).mbox.ownedSlots.foldl (fun s k => recordSlot s p k) (resetBegun s p kind)) p

theorem portReset_eq (s : State) (p kind : Nat) (f : Port → Port) : portReset s p kind f =
    modPort (slotsRecorded s p kind) p (fun x => f { x.defaults with reads := [] }) := rfl

theorem resetBegun_there {kind : Nat} (hx : mapGet s.ports p = some x) :
    mapGet (resetBegun s p kind).ports p = some (x.inEpoch kind s.now).recordUnsent := by
  obtain ⟨ports, now, -⟩ := resetEntered_kept s p
  refine (mapGet_mapMod_self ..).trans ?_
  rw [modPort, mapGet_mapMod_self, ports, hx, now]
  rfl

theorem resetBegun_phase (s : State) (p kind : Nat) : (resetBegun s p kind).phase = s.phase := by
  rw [resetBegun, modPort_phase, modPort_phase, (resetEntered_kept s p).2.2]

theorem slotsRecorded_reaches {kind : Nat} (hx : mapGet s.ports p = some x) :
    Reaches p (resetBegun s p kind) (x.inEpoch kind s.now).recordUnsent (slotsRecorded s p kind) (fun y =>
      ∃ v w, AllRecorded p x.mbox.ownedSlots (x.inEpoch kind s.now).recordUnsent v ∧ y = { v with waiting := w }) := by
  have hu := resetBegun_there (kind := kind) hx
  have port : (getPort (resetBegun s p kind) p).mbox = x.mbox := by
    rw [getPort_there hu]
    rfl
  rw [slotsRecorded, port]
  generalize resetBegun s p kind = u at hu ⊢
  generalize (x.inEpoch kind s.now).recordUnsent = x' at hu ⊢
  refine (recordSlots_reaches (ownedSlots_nodup x.mbox) hu).then fun v hv all => ?_
  exact (forgetReads_reaches hv).imp fun y hy => ⟨v, _, all, hy⟩

theorem portReset_reaches {kind : Nat} {f : Port → Port} {link : LinkState} (hx : mapGet s.ports p = some x) (hf : LinkOnly f)
    (hlink : ∀ z, z.link = x.link → (f z).link = link) :
    ∃ y, mapGet (portReset s p kind f).ports p = some y ∧ ResetTo p x s.now kind y ∧
      ((portReset s p kind f).phase = s.phase → y.link = link) := by
  have reached := slotsRecorded_reaches (kind := kind) hx
  rw [portReset_eq]
  have begun := resetBegun_phase s p kind
  generalize resetBegun s p kind = b at reached begun
  generalize slotsRecorded s p kind = u at reached ⊢
  obtain ⟨y, hy, ⟨v, w, all, hv⟩, kept⟩ := reached
  refine ⟨f { y.defaults with reads := [] }, ?_, ?_, fun same => ?_⟩
  · exact (mapGet_mapMod_self ..).trans (congrArg (Option.map _) hy)
  · rw [hv]
    exact resetTo_of_recorded hf all
  · exact hlink _ (kept.link (Eq.trans same begun.symm))

theorem linkOnly_linkOff : LinkOnly linkOff := fun z => ⟨.down, 0, 0, z.cfg, rfl⟩

theorem linkOnly_keepLink (c : Nat) : LinkOnly (keepLink c) := fun z => ⟨z.link, z.rate, z.width, _, rfl⟩

/-! ## Bus Master Enable (13 R628) -/

/-- The transfer of a slot, if it has one, is cut off. -/
def cutSlot (p : Nat) (s : State) (k : Nat) : State :=
  match hostMove s p k with
  | some mv => (cutMove s p k mv).1
  | none => s

/-- The slot's transfer of host memory, if it had one, is cut off; another slot stays as it is. -/
structure SlotCut (p k : Nat) (x y : Port) : Prop where
  still : x.moving k = none → y.mbox.slotAt k = x.mbox.slotAt k
  torn : x.moving k = some .toHost → (y.mbox.slotAt k).phase = .finished ∧ (y.mbox.slotAt k).status = stTorn
  cut : x.moving k = some .fromHost → (y.mbox.slotAt k).phase = .finished ∧ CutAs p x k (y.mbox.slotAt k).status

theorem cutSlot_reaches (hx : mapGet s.ports p = some x) :
    Reaches p s x (cutSlot p s k) (fun y => Kept p k x y ∧ SlotCut p k x y) := by
  unfold cutSlot
  rw [hostMove_there hx]
  cases hm : x.moving k with
  | none => exact .self hx ⟨.refl x, fun _ => rfl, (by rw [hm]; nofun), (by rw [hm]; nofun)⟩
  | some mv =>
    refine (cutMove_reaches hx hm).imp fun y off => ⟨off.toKept, (by rw [hm]; nofun), fun toHost => ?_, fun fromHost => ?_⟩
    · exact ⟨off.phase, off.torn (Option.some.inj (hm.symm.trans toHost))⟩
    · exact ⟨off.phase, off.cut (Option.some.inj (hm.symm.trans fromHost))⟩

/-- What becomes of a transfer depends on the mailbox block and the slot with its reads. -/
theorem SlotCut.congr {x' y' : Port} (h : SlotCut p k x y) (bytes : x'.mbox.bytes = x.mbox.bytes)
    (view : slotView p k x' = slotView p k x) (slot' : y'.mbox.slotAt k = y.mbox.slotAt k) : SlotCut p k x' y' := by
  have slot : x'.mbox.slotAt k = x.mbox.slotAt k := congrArg Prod.fst view
  have reads : readsOf x' (.host p) k = readsOf x (.host p) k := congrArg (fun v => v.2.1) view
  have cmd : slotCmd x'.mbox k = slotCmd x.mbox k := by rw [slotCmd, slotCmd, bytes]
  have opcode : slotOpcode x'.mbox k = slotOpcode x.mbox k := by rw [slotOpcode, slotOpcode, slotHeader, slotHeader, bytes]
  have moving : x'.moving k = x.moving k := by rw [Port.moving, Port.moving, slot, cmd, opcode]
  have cut (st : Nat) : CutAs p x' k st ↔ CutAs p x k st := by rw [CutAs, CutAs, slot, reads, cmd]
  refine ⟨?_, ?_, ?_⟩
  · rw [moving, slot', slot]
    exact h.still
  · rw [moving, slot']
    exact h.torn
  · rw [moving, slot', cut]
    exact h.cut

/-- Each slot of the list is cut off. -/
structure AllCut (p : Nat) (l : List Nat) (x y : Port) : Prop where
  apart : y.apart = x.apart
  records : y.records = x.records
  others : ∀ j, j ∉ l → slotView p j y = slotView p j x
  cut : ∀ k ∈ l, SlotCut p k x y

theorem cutSlots_reaches {l : List Nat} (hl : l.Nodup) (hx : mapGet s.ports p = some x) :
    Reaches p s x (l.foldl (cutSlot p) s) (AllCut p l x) := by
  induction l generalizing s x with
  | nil => exact .self hx ⟨rfl, rfl, fun _ _ => rfl, fun _ hk => absurd hk List.not_mem_nil⟩
  | cons k l ih =>
    obtain ⟨hk, hl⟩ := List.nodup_cons.mp hl
    refine (cutSlot_reaches (k := k) hx).then fun y hy ⟨kept, cut⟩ => (ih hl hy).imp fun z rest => ?_
    refine ⟨rest.apart.trans kept.apart, rest.records.trans kept.records, fun j hj => ?_, fun j hj => ?_⟩
    · obtain ⟨jk, hj⟩ := List.ne_and_not_mem_of_not_mem_cons hj
      exact (rest.others j hj).trans (kept.others j jk)
    · obtain rfl | hj := List.mem_cons.mp hj
      · exact cut.congr rfl rfl (congrArg Prod.fst (rest.others j hk))
      · have jk : j ≠ k := fun e => hk (e ▸ hj)
        exact (rest.cut j hj).congr (bytes_of_apart kept.apart).symm (kept.others j jk).symm rfl

theorem setBusMaster_clears (hx : mapGet s.ports p = some x) : ∃ y, mapGet (setBusMaster s p false).ports p = some y ∧
    AllCut p x.mbox.ownedSlots { x with busMaster := false } y := by
  have cleared : mapGet (modPort s p (fun x => { x with busMaster := false })).ports p = some { x with busMaster := false } :=
    (mapGet_mapMod_self ..).trans (congrArg (Option.map _) hx)
  obtain ⟨y, hy, cut, -⟩ := cutSlots_reaches (ownedSlots_nodup x.mbox) cleared
  refine ⟨y, ?_, cut⟩
  have slots : (getPort (modPort s p (fun x => { x with busMaster := false })) p).mbox = x.mbox := by
    rw [getPort_there cleared]
  rw [← slots] at hy
  exact hy

/-! ## The rows -/

section
variable {now kind : Nat} {link : LinkState} (hx : mapGet s.ports p = some x) (on : s.powered = true)
  (exists_ : portExists s p = true)
include hx on exists_

theorem linkUp_guard (up : x.link = .l0) : (s.powered && portExists s p && (getPort s p).link == .l0) = true := by
  rw [on, exists_, getPort_there hx, up]
  rfl

theorem execLinkDown_resets (up : x.link = .l0) : execLinkDown p s = .next (portReset s p 3 linkOff) :=
  if_pos (linkUp_guard hx on exists_ up)

theorem execHotReset_resets (up : x.link = .l0) (takes : journalHeld s = false) :
    execHotReset p s = .next (portReset s p 1 linkOff) := by
  rw [execHotReset, if_pos (linkUp_guard hx on exists_ up), takes]
  rfl

theorem execFunctionLevelReset_resets (up : x.link = .l0) (takes : journalHeld s = false) :
    execFunctionLevelReset p s = .next (portReset s p 2 (keepLink x.cfg.linkCtl)) := by
  rw [execFunctionLevelReset, if_pos (linkUp_guard hx on exists_ up), takes, getPort_there hx]
  rfl

theorem resets_wait (up : x.link = .l0) (held : journalHeld s = true) (c : Instr)
    (h : c = .hotReset p ∨ c = .functionLevelReset p) : exec c s = .next (holdRow s c) := by
  obtain rfl | rfl := h
  · change execHotReset p s = _
    rw [execHotReset, if_pos (linkUp_guard hx on exists_ up), held]
    rfl
  · change execFunctionLevelReset p s = _
    rw [execFunctionLevelReset, if_pos (linkUp_guard hx on exists_ up), held]
    rfl

omit hx on in
theorem port_lt : p < 4 := by
  rw [portExists, Bool.and_eq_true, decide_eq_true_eq] at exists_
  exact exists_.1

end

/-- A reset of the port as 13 Table 13.5 and 12 R431 have it: what the port holds then, and the records of its owned slots. -/
def PortResets (s : State) (p : Nat) (x : Port) (c : Instr) (kind : Nat) (link : LinkState) (perst : Bool) : Prop :=
  ∃ t y, exec c s = .next t ∧ mapGet t.ports p = some y ∧
    (t.phase = s.phase → y.epoch = (x.epoch + 1) % 2 ^ 32 ∧ y.resetKind = kind ∧ y.tReset = s.now ∧
      y.pendingAck = true ∧ y.armed = false ∧ y.reads = [] ∧ y.memSpace = false ∧ y.busMaster = false ∧ y.d3hot = false ∧
      y.valid = 0 ∧ y.maxPayload = 128 ∧ y.maxReadReq = 512 ∧ y.link = link ∧ y.perstAsserted = perst ∧ y.forme = x.forme ∧
      ∀ k ∈ x.mbox.ownedSlots, ∃ r, mapGet y.records k = some r ∧ r.slot = k ∧ r.seq = slotSeq x.mbox k ∧
        r.opcode = slotOpcode x.mbox k ∧ r.epochLo = y.epoch % 2 ^ 16 ∧
        (hostMove s p k = none → (¬∃ r0, x.tells k r0) → r.outcome = 2 ∧ r.status = 0) ∧
        (∀ r0, (∃ r0, x.tells k r0) → mapGet x.records k = some r0 →
          r = { r0 with slot := k, opcode := r.opcode, epochLo := r.epochLo }) ∧
        (hostMove s p k = some .toHost → r.outcome = 4 ∧ r.status = stTorn) ∧
        (hostMove s p k = some .fromHost → r.outcome = 5 ∧ (y.mbox.slotAt k).phase = .finished ∧
          (y.mbox.slotAt k).status = r.status ∧ CutAs p x k r.status))

/-- A row that resets the port resets it so; PERST_N has changed its pin before. -/
theorem portResets_of {c : Instr} {kind : Nat} {f : Port → Port} {link : LinkState} {perst : Bool}
    (hx : mapGet s.ports p = some x) (hu : mapGet u.ports p = some { x with perstAsserted := perst }) (hnow : u.now = s.now)
    (hphase : u.phase = s.phase) (hf : LinkOnly f) (hlink : ∀ z, z.link = x.link → (f z).link = link)
    (ho : exec c s = .next (portReset u p kind f)) : PortResets s p x c kind link perst := by
  obtain ⟨y, hy, left, goes⟩ := portReset_reaches (kind := kind) hu hf hlink
  refine ⟨_, y, ho, hy, fun same => ⟨left.epoch, left.kind, left.time.trans hnow, left.ack, left.armed, left.reads, left.memSpace,
    left.busMaster, left.d3hot, left.valid, left.payload, left.readReq, goes (same.trans hphase.symm), left.perst,
    left.forme, fun k hk => ?_⟩⟩
  obtain ⟨r, there, told⟩ := left.told k hk
  rw [hostMove_there hx]
  refine ⟨r, there, told.slot, told.seq, told.opcode, told.epoch, told.quiet, fun r0 some_told there0 => ?_, told.torn, told.cut⟩
  obtain ⟨r1, tells⟩ := some_told
  obtain rfl : r1 = r0 := Option.some.inj (tells.1.symm.trans there0)
  exact told.kept r1 tells

/-- The port becomes `y`, and nothing else changes. -/
def Becomes (s : State) (p : Nat) (c : Instr) (y : Port) : Prop :=
  ∃ t, exec c s = .next t ∧ mapGet t.ports p = some y ∧ t = { s with ports := t.ports }

theorem becomes_of {c : Instr} {g : Port → Port} (hx : mapGet s.ports p = some x) (hy : g x = y)
    (ho : exec c s = .next (modPort s p g)) : Becomes s p c y :=
  ⟨_, ho, (mapGet_mapMod_self ..).trans ((congrArg (Option.map g) hx).trans (congrArg some hy)), rfl⟩

section
variable (hx : mapGet s.ports p = some x) (on : s.powered = true) (exists_ : portExists s p = true)
include hx exists_

theorem execPerstNAssert_falls (released : x.perstAsserted = false) : execPerstNAssert p s =
    .next (if s.powered && portExists s p && x.trained then
      portReset (modPort s p (fun x => { x with perstAsserted := true })) p 3 linkOff
    else modPort s p (fun x => { x with perstAsserted := true })) := by
  have low : ¬(4 ≤ p ∨ (getPort s p).perstAsserted = true) := by
    have := port_lt exists_
    rw [getPort_there hx, released]
    simp [this]
  have pin : (getPort (modPort s p (fun x => { x with perstAsserted := true })) p).trained = x.trained := by
    rw [getPort_modPort_self s p _ x hx]
  unfold execPerstNAssert
  rw [if_neg low]
  dsimp only
  rw [pin]
  rfl

theorem perstNRelease_becomes : Becomes s p (.perstNRelease p) { x with perstAsserted := false } :=
  becomes_of hx rfl (congrArg Host.Outcome.next (if_pos (port_lt exists_)))

theorem pcieTrainAttempt_runs (up : s.up = true) (released : x.perstAsserted = false) (down : x.link = .down) (e : Training) :
    execPcieTrainAttempt p e s = .next (modPort s p (fun x =>
      if trains s p e then { x with link := .l0, trained := true, rate := e.rate, width := e.width }
      else { x with trainFail := satAdd (2 ^ 32 - 1) x.trainFail 1 })) := by
  unfold execPcieTrainAttempt
  dsimp only
  rw [getPort_there hx, up, exists_, released, down]
  rfl

include on

theorem execD3hotEntry_becomes (up : x.link = .l0) (d0 : Bool) :
    Becomes s p (.d3hotEntry p d0) { x with d3hot := !d0 }.flushMsix :=
  becomes_of hx rfl (if_pos (linkUp_guard hx on exists_ up))

theorem memorySpaceEnable_becomes (up : x.link = .l0) (clear : x.memSpace = false) (rid : Nat) :
    Becomes s p (.memorySpaceEnable p rid) { x with memSpace := true, rid0 := rid % 2 ^ 16, valid := setBit x.valid 0 } := by
  refine becomes_of (g := fun x => x.setMemSpace rid true) hx ?_
    (congrArg Host.Outcome.next (if_pos (linkUp_guard hx on exists_ up)))
  rw [Port.setMemSpace, clear]
  rfl

theorem execBusMasterEnableWrite_open (up : x.link = .l0) (value : Bool) :
    execBusMasterEnableWrite p value s = .next (setBusMaster s p value) :=
  congrArg Host.Outcome.next (if_pos (linkUp_guard hx on exists_ up))

end

theorem trains_iff {e : Training} : trains s p e = true ↔ e.reachesL0 = true ∧ e.flitMode = true ∧ 1 ≤ e.rate ∧ e.rate ≤ 6 ∧
    e.width ∈ [1, 2, 4, 8] ∧ e.width ≤ portLanes s p := by
  simp only [trains, Bool.and_eq_true, decide_eq_true_eq, List.contains_iff_mem, and_assoc]

/-- Settles O43. What is the model's in it: the sizes 128 and 512 (logs 3, 114, 126), the record kept over a further reset (83),
and the reset that the journal holds (57). -/
theorem portEventsAndResets : Obligations.PortEventsAndResets := by
  unfold Obligations.PortEventsAndResets
  intro p x s on exists_ hx
  have resets {c : Instr} {kind : Nat} {f : Port → Port} {link : LinkState} (hf : LinkOnly f)
      (hlink : ∀ z, z.link = x.link → (f z).link = link) (ho : exec c s = .next (portReset s p kind f)) :
      PortResets s p x c kind link x.perstAsserted := portResets_of hx hx rfl rfl hf hlink ho
  refine ⟨fun up => ⟨?linkDown, fun takes => ⟨?hot, ?flr⟩, resets_wait hx on exists_ up⟩,
    fun released => ⟨fun trained => ?perst, fun untrained => ?pin⟩, perstNRelease_becomes hx exists_, rfl,
    fun up d0 => execD3hotEntry_becomes hx on exists_ up d0, fun up released down e => ⟨fun fits => ?trains, fun unfit => ?fails⟩,
    fun up clear rid => memorySpaceEnable_becomes hx on exists_ up clear rid, fun up => ⟨?sets, ?clears⟩⟩
  case linkDown => exact resets linkOnly_linkOff (fun _ _ => rfl) (execLinkDown_resets hx on exists_ up)
  case hot => exact resets linkOnly_linkOff (fun _ _ => rfl) (execHotReset_resets hx on exists_ up takes)
  case flr =>
    exact resets (linkOnly_keepLink x.cfg.linkCtl) (fun z same => same.trans up)
      (execFunctionLevelReset_resets hx on exists_ up takes)
  case perst =>
    have falls := execPerstNAssert_falls hx exists_ released
    rw [if_pos (by rw [on, exists_, trained]; rfl)] at falls
    exact portResets_of (u := modPort s p (fun x => { x with perstAsserted := true })) hx
      ((mapGet_mapMod_self ..).trans (congrArg (Option.map _) hx)) rfl rfl linkOnly_linkOff (fun _ _ => rfl) falls
  case pin =>
    have falls := execPerstNAssert_falls hx exists_ released
    rw [if_neg (by rw [untrained, Bool.and_false]; exact Bool.false_ne_true)] at falls
    exact becomes_of hx rfl falls
  case trains =>
    refine becomes_of hx ?_ (pcieTrainAttempt_runs hx exists_ up released down e)
    exact if_pos (trains_iff.mpr fits)
  case fails =>
    refine becomes_of hx ?_ (pcieTrainAttempt_runs hx exists_ up released down e)
    exact if_neg fun fits => unfit (trains_iff.mp fits)
  case sets => exact becomes_of hx rfl (execBusMasterEnableWrite_open hx on exists_ up true)
  case clears =>
    obtain ⟨y, hy, cut⟩ := setBusMaster_clears hx
    have cleared := congrArg Port.busMaster cut.apart
    have epoch := congrArg Port.epoch cut.apart
    refine ⟨_, y, execBusMasterEnableWrite_open hx on exists_ up false, hy, cleared, epoch, cut.records,
      fun _ k hk => ?_⟩
    have slot := cut.cut k hk
    rw [hostMove_there hx]
    exact ⟨slot.still, slot.torn, slot.cut⟩

end Sys2Proof.Machine
end

section
/-! PROOFS. Mesh packets at their target, on their way, and back at their source (14 R464, R470 to R473, R477, R481, R482, R485
to R487). -/

namespace Sys2Proof.Machine

open Sys2Proof

variable {r s t u : State} {port : Nat} {p q : Packet} {code : Nat}

/-! ## What reaching and writing memory leaves alone -/

theorem quiet_reach {a : Access} {w : Waiter} {spans : List (Nat × Nat)} (h : Quiet r s) : Quiet r (reach a w spans s).1 := by
  induction spans generalizing s with
  | nil => exact h
  | cons x spans ih =>
    unfold reach
    dsimp only
    split
    · exact quiet_raiseFault (quiet_translate h)
    · have onward := ih (quiet_translate (a := a) (va := x.1) h)
      split <;> exact onward

theorem quiet_writePieces {via : Via} {hint : Nat} {pas : List (Nat × Nat)} {data : List Byte} (h : Quiet r s) :
    Quiet r (writePieces via hint pas data s) := by
  induction pas generalizing s data with
  | nil => exact h
  | cons x pas ih => exact ih (quiet_writeBytesPa h)

/-! ## Answers to a packet of another node -/

@[simp] theorem countFor_config (s : State) (f : Option Nat) (c : Ctr) (n : Nat) : (countFor s f c n).config = s.config := by
  rw [(countFor_frame s f c n).1]

@[simp] theorem countFor_mem (s : State) (f : Option Nat) (c : Ctr) (n : Nat) :
    (countFor s f c n).mem = s.mem ∧ (countFor s f c n).lines = s.lines := by
  rw [(countFor_frame s f c n).1]
  exact ⟨rfl, rfl⟩

theorem meshSend_mem_tx (s : State) (m : MeshTx) : m ∈ (meshSend s m).mesh.tx :=
  List.mem_append_right _ (List.mem_singleton_self m)

/-- The row answers a packet with an error response, and memory and Cases stay. -/
def MeshErrs (s : State) (o : Host.Outcome State Fault Refusal) (q : Packet) (code : Nat) : Prop :=
  ∃ t, o = .next t ∧ .error q code ∈ t.mesh.tx ∧ t.mem = s.mem ∧ t.lines = s.lines

/-- The row sends a message over the mesh. -/
def MeshSends (o : Host.Outcome State Fault Refusal) (m : MeshTx) : Prop := ∃ t, o = .next t ∧ m ∈ t.mesh.tx

section
variable {o : Host.Outcome State Fault Refusal} {f : Option Nat} {c : Ctr} {n : Nat}

theorem meshErrs_of_send (hmem : u.mem = s.mem) (hlines : u.lines = s.lines)
    (ho : o = .next (meshSend (countFor u f c n) (.error q code))) : MeshErrs s o q code := by
  obtain ⟨mem, lines⟩ := countFor_mem u f c n
  exact ⟨_, ho, meshSend_mem_tx .., mem.trans hmem, lines.trans hlines⟩

theorem answerPacket_abroad (abroad : q.src ≠ s.config.node) (code : Nat) :
    answerPacket s q code = meshSend s (if code = 0 then .ack q else .error q code) := if_neg abroad

theorem rejectPacket_abroad (abroad : q.src ≠ s.config.node) (hcode : code ≠ 0) :
    rejectPacket s f q code = meshSend (countFor s f .meshRxReject 1) (.error q code) := by
  rw [rejectPacket, answerPacket_abroad (by rwa [countFor_config]), if_neg hcode]

end

/-! ## A put at its target (14 R464, R481, R482) -/

/-- The codes of 14 Table 14.7 are not 0, which acknowledges. -/
theorem putRefused_code {j : Option MeshJob} (h : putRefused j p = some code) : code ≠ 0 := by
  unfold putRefused at h
  split at h
  · obtain rfl := Option.some.inj h; decide
  · split at h
    · obtain rfl := Option.some.inj h; decide
    · split at h
      · obtain rfl := Option.some.inj h; decide
      · split at h
        · obtain rfl := Option.some.inj h; decide
        · cases h

theorem performPut_refused (h : putRefused (activeJob s p.job) p = some code) :
    performPut s port p = (rejectPacket s ((activeJob s p.job).map (·.forme)) p code, false) := by
  simp only [performPut, h]

/-- The translation of the bytes that a put writes. -/
def putReached (s : State) (port : Nat) (p : Packet) (j : MeshJob) (w : MeshWindow) : State × Reached :=
  reach (meshAccess j.forme (dieOfMeshPort port) 1) (.inbound (.meshPut port p)) (pageSpans (w.vaBase + p.offset) p.data.length) s

/-- The state in which the bytes of a put are written, and the next packet of its COPY is due. -/
def putWritten (s : State) (port : Nat) (p : Packet) (j : MeshJob) (w : MeshWindow) (pas : List (Nat × Nat)) : State :=
  let v := countFor (writePieces (meshVia port) (hintOr0 w.hint) pas p.data (putReached s port p j w).1) (some j.forme)
    .meshRxBytes p.data.length
  { v with mesh := { v.mesh with due := mapSet v.mesh.due (copyKey p) (p.index + 1) } }

section
variable {j : MeshJob} {w : MeshWindow} (hj : activeJob s p.job = some j) (fits : putRefused (some j) p = none)
  (hw : j.windowOf p.window = some w)
include hj fits hw

theorem performPut_held (h : (putReached s port p j w).2 = .held) : performPut s port p = ((putReached s port p j w).1, false) := by
  unfold putReached at h ⊢
  simp only [performPut, hj, fits, hw, h]

theorem performPut_denied (h : (putReached s port p j w).2 = .denied) : performPut s port p =
    (rejectPacket (putReached s port p j w).1 (some j.forme) p errTranslation, false) := by
  unfold putReached at h ⊢
  simp only [performPut, hj, fits, hw, h]

theorem performPut_written {pas : List (Nat × Nat)} (h : (putReached s port p j w).2 = .ok pas) :
    performPut s port p = (answerPacket (putWritten s port p j w pas) p 0, true) := by
  unfold putWritten
  unfold putReached at h ⊢
  simp only [performPut, hj, fits, hw, h]

end

theorem drainWaiting_none (n : Nat) {key : Nat} (h : ∀ y ∈ s.mesh.waiting, copyKey y.2 ≠ key) : drainWaiting n port key s = s := by
  cases n with
  | zero => rfl
  | succ n =>
    have alone : s.mesh.waiting.find? (fun x => copyKey x.2 == key && x.2.index == mapGetD s.mesh.due 0 key) = none := by
      refine List.find?_eq_none.mpr fun y hy => ?_
      simp [h y hy]
    rw [drainWaiting, alone]

theorem putDue_stops (h : (performPut s port p).2 = false) : putDue s port p = (performPut s port p).1 := by
  rw [putDue, h]
  rfl

/-- A put that passed, of a COPY with no packet that waits. -/
theorem putDue_alone {v : State} (h : performPut s port p = (v, true)) (alone : ∀ y ∈ v.mesh.waiting, copyKey y.2 ≠ copyKey p) :
    putDue s port p = v := by
  rw [putDue, h]
  exact drainWaiting_none _ alone

theorem putReached_quiet (s : State) (port : Nat) (p : Packet) (j : MeshJob) (w : MeshWindow) :
    Quiet s (putReached s port p j w).1 := quiet_reach (.refl s)

theorem putWritten_kept (s : State) (port : Nat) (p : Packet) (j : MeshJob) (w : MeshWindow) (pas : List (Nat × Nat)) :
    (putWritten s port p j w pas).config = s.config ∧ (putWritten s port p j w pas).mesh.waiting = s.mesh.waiting := by
  have quiet : Quiet s (writePieces (meshVia port) (hintOr0 w.hint) pas p.data (putReached s port p j w).1) :=
    quiet_writePieces (putReached_quiet s port p j w)
  unfold putWritten
  dsimp only
  rw [countFor_config, countFor_mesh]
  exact ⟨quiet.config, quiet.waiting⟩

section
variable (hdue : p.index = mapGetD s.mesh.due 0 (copyKey p)) (member : isMember s p = true)
include hdue member

theorem inboundPut_due : inboundPut s port p = putDue s port p := by
  unfold inboundPut
  dsimp only
  rw [← hdue, member, if_neg (Nat.lt_irrefl _), if_neg (by simp), if_neg (Nat.lt_irrefl _)]

end

theorem inboundPut_early (h : p.index < mapGetD s.mesh.due 0 (copyKey p)) : inboundPut s port p = s := if_pos h

section
variable (late : mapGetD s.mesh.due 0 (copyKey p) ≤ p.index)
include late

theorem inboundPut_stranger (stranger : isMember s p = false) :
    inboundPut s port p = rejectPacket s ((activeJob s p.job).map (·.forme)) p errNotMember := by
  unfold inboundPut
  dsimp only
  rw [if_neg (Nat.not_lt.mpr late), stranger]
  rfl

theorem inboundPut_waits (member : isMember s p = true) (h : mapGetD s.mesh.due 0 (copyKey p) < p.index) :
    inboundPut s port p = { s with mesh := { s.mesh with waiting := s.mesh.waiting ++ [(port, p)] } } := by
  unfold inboundPut
  dsimp only
  rw [if_neg (Nat.not_lt.mpr late), member, if_neg (by simp), if_pos h]

end

/-! ## A get at its target (14 Table 14.11) -/

section
variable {len : Nat}

theorem inboundGet_refused (h : getRefused (activeJob s p.job) p len = some code) : inboundGet s port p len =
    meshSend (countFor s ((activeJob s p.job).map (·.forme)) .meshRxReject 1) (.error p code) := by
  simp only [inboundGet, h]

/-- The translation of the bytes that a get reads. -/
def getReached (s : State) (port : Nat) (p : Packet) (len : Nat) (j : MeshJob) (w : MeshWindow) : State × Reached :=
  reach (meshAccess j.forme (dieOfMeshPort port) 0) (.inbound (.meshGet port p len)) (pageSpans (w.vaBase + p.offset) len) s

section
variable {j : MeshJob} {w : MeshWindow} (hj : activeJob s p.job = some j) (fits : getRefused (some j) p len = none)
  (hw : j.windowOf p.window = some w)
include hj fits hw

theorem inboundGet_held (h : (getReached s port p len j w).2 = .held) :
    inboundGet s port p len = (getReached s port p len j w).1 := by
  unfold getReached at h ⊢
  simp only [inboundGet, hj, fits, hw, h]

theorem inboundGet_denied (h : (getReached s port p len j w).2 = .denied) : inboundGet s port p len =
    meshSend (countFor (getReached s port p len j w).1 (some j.forme) .meshRxReject 1) (.error p errTranslation) := by
  unfold getReached at h ⊢
  simp only [inboundGet, hj, fits, hw, h]

theorem inboundGet_reads {pas : List (Nat × Nat)} (h : (getReached s port p len j w).2 = .ok pas) : inboundGet s port p len =
    (let d := readPieces (meshVia port) pas (getReached s port p len j w).1
    meshSend d.1 (.getData p (if d.2.2 then [] else d.2.1) d.2.2)) := by
  unfold getReached at h ⊢
  simp only [inboundGet, hj, fits, hw, h]

end

end

/-! ## A packet on its way (14 R471, R473, R475 to R477) -/

theorem getMeshPort_modMeshPort_self (s : State) (h : Nat) (g : MeshPort → MeshPort) :
    getMeshPort (modMeshPort s h g) h = g (getMeshPort s h) := mapGetD_mapUpd_self ..

/-- The only packet of a port leaves, where its channel has a credit and is not stopped. -/
theorem next_single {x : MeshPort} {h : Nat} {c : MeshChannel} (queue : x.queue = [(c, p)]) (credit : x.credit h c = true)
    (goes : x.stops c = false) : x.next h = some (c, p) := by
  unfold MeshPort.next
  rw [queue]
  cases prompt : c.isPrompt with
  | true => simp [prompt, credit]
  | false => simp [prompt, credit, goes]

theorem transmit_sends (s : State) (h : Nat) (x : MeshChannel × Packet) : .packet h x.1 x.2 ∈ (transmit s h x).mesh.tx :=
  meshSend_mem_tx ..

theorem sendPacket_leaves {h : Nat} (up : (getMeshPort s h).isUp = true) (free : (getMeshPort s h).queue = [])
    (credit : (getMeshPort s h).credit h (channelOn s h p) = true) (goes : (getMeshPort s h).stops (channelOn s h p) = false) :
    .packet h (channelOn s h p) p ∈ (sendPacket s h p).mesh.tx := by
  let u := modMeshPort s h (fun q => { q with queue := q.queue ++ [(channelOn s h p, p)] })
  have there : getMeshPort u h = { getMeshPort s h with queue := [(channelOn s h p, p)] } := by
    rw [getMeshPort_modMeshPort_self, free]
    rfl
  have next : (getMeshPort u h).next h = some (channelOn s h p, p) := by
    rw [there]
    exact next_single rfl credit goes
  have pumps : sendPacket s h p = transmit u h (channelOn s h p, p) := by
    change pumpPort u h = _
    unfold pumpPort
    have live : (getMeshPort u h).isUp = true := by rw [there]; exact up
    rw [if_pos live]
    have one : (getMeshPort u h).queue.length = 1 := by rw [there]; rfl
    rw [one]
    unfold pump
    rw [next]
    rfl
  rw [pumps]
  exact transmit_sends ..

/-! ## The ends of packets at their source (14 R482, R487) -/

section
variable {x : SentPacket} {copyId index : Nat}

theorem packetFails_ended (ended : x.ended = true) (code : Nat) : packetFails s x code = forgetPacket s x := by
  rw [packetFails, if_pos ended]

/-- What is left of the packets when a COPY ends at a packet that failed. -/
def copyFailed (s : State) (x : SentPacket) : State := endSent (forgetPacket s x) x.copyId

theorem packetFails_ends (goes : x.ended = false) (code : Nat) : packetFails s x code =
    if (getSlot s x.mb x.slot).status = stAborted then
      finish (copyFailed s x) x.mb x.slot stAborted 0 (meshResult (unackedFrom s x.mb x.slot x.copyId) 0)
    else finish (copyFailed s x) x.mb x.slot stMeshError 0 (meshResult (unackedFrom s x.mb x.slot x.copyId) code) := by
  unfold packetFails
  dsimp only
  rw [goes, if_neg Bool.false_ne_true]
  rfl

theorem slotsOf_copyFailed (s : State) (x : SentPacket) (mb : MboxId) : slotsOf (copyFailed s x) mb = slotsOf s mb := by
  cases mb <;> rfl

theorem slotsOf_forgetPacket (s : State) (x : SentPacket) (mb : MboxId) : slotsOf (forgetPacket s x) mb = slotsOf s mb := by
  cases mb <;> rfl

theorem slotsOf_countFor (s : State) (f : Option Nat) (c : Ctr) (n : Nat) (mb : MboxId) :
    slotsOf (countFor s f c n) mb = slotsOf s mb := by
  obtain ⟨frame, counters⟩ := countFor_frame s f c n
  exact counters.slotsOf (by rw [frame]) mb

/-- The packet is gone, and what is left of its COPY has ended. -/
def Forgotten (x : SentPacket) (copyId : Nat) (l : List SentPacket) : Prop :=
  ∀ z ∈ l, z ≠ x ∧ (z.copyId = copyId → z.ended = true)

theorem forgotten_copyFailed (goes : x.ended = false) : Forgotten x x.copyId (copyFailed s x).mesh.sent := by
  intro z hz
  obtain ⟨y, hy, rfl⟩ := List.mem_map.mp hz
  have other : y ≠ x := by simpa using (List.mem_filter.mp hy).2
  split
  · refine ⟨fun same => ?_, fun _ => rfl⟩
    rw [← same] at goes
    cases goes
  · next stranger => exact ⟨other, fun mine => absurd mine stranger⟩

theorem unackedFrom_countFor (s : State) (f : Option Nat) (c : Ctr) (n : Nat) (mb : MboxId) (k copyId : Nat) :
    unackedFrom (countFor s f c n) mb k copyId = unackedFrom s mb k copyId := by
  rw [unackedFrom, countFor_mesh, getSlot_congr (slotsOf_countFor ..)]
  rfl

/-- A row at which a packet fails ends its COPY, ABORTED where an abort had stopped it. -/
theorem packetFails_row {c : Instr} (hthere : MboxThere s x.mb) (goes : x.ended = false) (hslots : slotsOf u x.mb = slotsOf s x.mb)
    (hsent : unackedFrom u x.mb x.slot x.copyId = unackedFrom s x.mb x.slot x.copyId)
    (ho : exec c s = .next (packetFails u x code)) :
    ((getSlot s x.mb x.slot).status = stAborted → Ended c s x.mb x.slot stAborted 0
      (meshResult (unackedFrom s x.mb x.slot x.copyId) 0) (fun t => Forgotten x x.copyId t.mesh.sent)) ∧
    ((getSlot s x.mb x.slot).status ≠ stAborted → Ended c s x.mb x.slot stMeshError 0
      (meshResult (unackedFrom s x.mb x.slot x.copyId) code) (fun t => Forgotten x x.copyId t.mesh.sent)) := by
  rw [packetFails_ends goes, getSlot_congr hslots, hsent] at ho
  have slots := (slotsOf_copyFailed u x x.mb).trans hslots
  refine ⟨fun aborted => ?_, fun runs => ?_⟩
  · rw [if_pos aborted] at ho
    refine ended_of_finish ho hthere slots ?_
    rw [finish_mesh]
    exact forgotten_copyFailed goes
  · rw [if_neg runs] at ho
    refine ended_of_finish ho hthere slots ?_
    rw [finish_mesh]
    exact forgotten_copyFailed goes

end

/-! ## The rows -/

section
variable (on : meshOn s = true) (up : (getMeshPort s port).isUp = true)
include on up

theorem execMeshPut_arrives (here : p.dst = s.config.node) : execMeshPut port p s =
    .next (if borderCrossed s port p then borderReject (received s port) p else inboundPut (received s port) port (arrived p)) := by
  unfold execMeshPut
  rw [on, up, if_neg (by simp [here])]
  exact (apply_ite Host.Outcome.next _ _ _).symm

theorem execMeshGet_arrives (here : p.dst = s.config.node) (old : (getGnid s p.src).nd5 = true) (len : Nat) :
    execMeshGet port p len s = .next (if borderCrossed s port p then
        meshSend (countFor (received s port) ((activeJob s p.job).map (·.forme)) .meshRxReject 1) (.error p errBorder)
      else if !isMember s p then
        meshSend (countFor (received s port) ((activeJob s p.job).map (·.forme)) .meshRxReject 1) (.error p errNotMember)
      else inboundGet (received s port) port (arrived p) len) := by
  unfold execMeshGet
  rw [on, up, old, if_neg (by simp [here])]
  rfl

theorem execMeshTransit_passes (there : p.dst ≠ s.config.node) : execMeshTransit port p s =
    if borderCrossed s port p then .next (meshSend (received s port) (.error p errBorder))
    else match nextHop (received s port) (arrived p) with
      | .drop code => .next (meshSend (received s port) (.error p code))
      | .out h q => .next (toPort (received s port) none (dieOfMeshPort port) h q) := by
  unfold execMeshTransit
  rw [on, up, if_neg (by simp [there])]
  rfl

section
variable (abroad : p.src ≠ s.config.node) (here : p.dst = s.config.node)
include abroad here

theorem meshPut_border (crossed : borderCrossed s port p = true) : MeshErrs s (execMeshPut port p s) p errBorder := by
  have ho := execMeshPut_arrives on up here
  rw [crossed, if_pos rfl, borderReject, rejectPacket_abroad (s := received s port) abroad (by decide)] at ho
  exact meshErrs_of_send (u := received s port) rfl rfl ho

variable (inside : borderCrossed s port p = false)
include inside

omit abroad in
theorem meshPut_inbound : execMeshPut port p s = .next (inboundPut (received s port) port (arrived p)) := by
  have ho := execMeshPut_arrives on up here
  rwa [inside, if_neg Bool.false_ne_true] at ho

theorem meshPut_stranger (late : mapGetD s.mesh.due 0 (copyKey p) ≤ p.index) (stranger : isMember s p = false) :
    MeshErrs s (execMeshPut port p s) (arrived p) errNotMember := by
  have ho := meshPut_inbound on up here inside
  rw [inboundPut_stranger (s := received s port) (p := arrived p) late stranger,
    rejectPacket_abroad (s := received s port) (q := arrived p) abroad (by decide)] at ho
  exact meshErrs_of_send (u := received s port) rfl rfl ho

theorem meshPut_refused (hdue : p.index = mapGetD s.mesh.due 0 (copyKey p)) (member : isMember s p = true)
    (h : putRefused (activeJob s p.job) (arrived p) = some code) : MeshErrs s (execMeshPut port p s) (arrived p) code := by
  have ho := meshPut_inbound on up here inside
  have refused := performPut_refused (s := received s port) (port := port) (p := arrived p) h
  rw [inboundPut_due (s := received s port) (p := arrived p) hdue member, putDue_stops (by rw [refused]), refused,
    rejectPacket_abroad (s := received s port) (q := arrived p) abroad (putRefused_code h)] at ho
  exact meshErrs_of_send (u := received s port) rfl rfl ho

section
variable {j : MeshJob} {w : MeshWindow} (hdue : p.index = mapGetD s.mesh.due 0 (copyKey p)) (member : isMember s p = true)
  (hj : activeJob s p.job = some j) (fits : putRefused (some j) (arrived p) = none) (hw : j.windowOf p.window = some w)
include hdue member hj fits hw

omit abroad in
theorem meshPut_held (h : (putReached (received s port) port (arrived p) j w).2 = .held) :
    execMeshPut port p s = .next (putReached (received s port) port (arrived p) j w).1 := by
  have ho := meshPut_inbound on up here inside
  have held := performPut_held (s := received s port) (p := arrived p) hj fits hw h
  rwa [inboundPut_due (s := received s port) (p := arrived p) hdue member, putDue_stops (by rw [held]), held] at ho

theorem meshPut_denied (h : (putReached (received s port) port (arrived p) j w).2 = .denied) :
    MeshSends (execMeshPut port p s) (.error (arrived p) errTranslation) := by
  have ho := meshPut_inbound on up here inside
  have denied := performPut_denied (s := received s port) (p := arrived p) hj fits hw h
  have quiet := putReached_quiet (received s port) port (arrived p) j w
  rw [inboundPut_due (s := received s port) (p := arrived p) hdue member, putDue_stops (by rw [denied]), denied,
    rejectPacket_abroad (by rw [quiet.config]; exact abroad) (by decide)] at ho
  exact ⟨_, ho, meshSend_mem_tx ..⟩

theorem meshPut_written {pas : List (Nat × Nat)} (h : (putReached (received s port) port (arrived p) j w).2 = .ok pas)
    (alone : ∀ y ∈ s.mesh.waiting, copyKey y.2 ≠ copyKey p) :
    let v := writePieces (meshVia port) (hintOr0 w.hint) pas p.data (putReached (received s port) port (arrived p) j w).1
    ∃ t, execMeshPut port p s = .next t ∧ .ack (arrived p) ∈ t.mesh.tx ∧ t.mem = v.mem ∧ t.lines = v.lines ∧
      mapGet t.mesh.due (copyKey p) = some (p.index + 1) := by
  have ho := meshPut_inbound on up here inside
  obtain ⟨config, waiting⟩ := putWritten_kept (received s port) port (arrived p) j w pas
  have written := performPut_written (s := received s port) (p := arrived p) hj fits hw h
  rw [answerPacket_abroad (by rw [config]; exact abroad), if_pos rfl] at written
  have waits : (meshSend (putWritten (received s port) port (arrived p) j w pas) (.ack (arrived p))).mesh.waiting =
      s.mesh.waiting := waiting
  rw [inboundPut_due (s := received s port) (p := arrived p) hdue member,
    putDue_alone written (by rw [waits]; exact alone)] at ho
  obtain ⟨mem, lines⟩ := countFor_mem (writePieces (meshVia port) (hintOr0 w.hint) pas p.data
    (putReached (received s port) port (arrived p) j w).1) (some j.forme) .meshRxBytes p.data.length
  exact ⟨_, ho, meshSend_mem_tx .., mem, lines, mapGet_mapSet_self ..⟩

end

end

end

section
variable {x : SentPacket} {copyId index : Nat} (on : meshOn s = true) (hthere : MboxThere s x.mb)
  (hx : s.mesh.sent.find? (fun y => y.copyId == copyId && y.index == index) = some x)

theorem powered_of_meshOn (on : meshOn s = true) : s.powered = true := (Bool.and_eq_true_iff.mp on).1

include hx in
theorem copyId_of_found : x.copyId = copyId := by
  have found := List.find?_some hx
  simp only [Bool.and_eq_true, beq_iff_eq] at found
  exact found.1

section
include on hx

theorem execMeshAckTimeout_fails : execMeshAckTimeout copyId index s = .next (packetFails s x errTimeout) := by
  simp only [execMeshAckTimeout, hx, powered_of_meshOn on, if_true]

theorem execMeshPacketAck_fails (hcode : code ≠ 0) : execMeshPacketAck copyId index code s =
    .next (packetFails (countFor s (some x.forme) .meshErrResp 1) x code) := by
  simp only [execMeshPacketAck, on, if_true, packetAnswered, hx]
  simp [hcode]

theorem execMeshPacketAck_ended (ended : x.ended = true) : execMeshPacketAck copyId index 0 s = .next (forgetPacket s x) := by
  simp only [execMeshPacketAck, on, if_true, packetAnswered, hx, ended]
  rfl

theorem execMeshPacketAck_settles (goes : x.ended = false) : execMeshPacketAck copyId index 0 s =
    .next (meshCopySettle (forgetPacket s x) x.mb x.slot copyId (bits (slotCmd (getMbox s x.mb) x.slot) 191 128)) := by
  simp only [execMeshPacketAck, on, if_true, packetAnswered, hx, goes]
  cases x.mb <;> rfl

end

/-- Of the node only the packets sent, and counters, differ. -/
theorem forgetPacket_countFor (s : State) (f : Nat) (c : Ctr) (n : Nat) (x : SentPacket) :
    forgetPacket (countFor s (some f) c n) x = { s with
      formes := (forgetPacket (countFor s (some f) c n) x).formes
      mesh := { s.mesh with sent := s.mesh.sent.filter (fun z => z != x) } } := rfl

theorem settle_waits {mb : MboxId} {k len : Nat} (h : s.mesh.sent.any (fun y => y.copyId == copyId) = true) :
    meshCopySettle s mb k copyId len = s := if_pos h

section
variable {mb : MboxId} {k len : Nat} (last : s.mesh.sent.any (fun y => y.copyId == copyId) = false)
include last

theorem settle_ok (status : (getSlot s mb k).status = 0) (whole : (getSlot s mb k).offset = len) :
    meshCopySettle s mb k copyId len = finish s mb k stOk 0 0 := by
  unfold meshCopySettle
  dsimp only
  rw [last, if_neg Bool.false_ne_true, if_neg (by simp [status]), if_pos (by simp [whole])]

theorem settle_status (status : (getSlot s mb k).status ≠ 0) : meshCopySettle s mb k copyId len =
    finish s mb k (getSlot s mb k).status 0 (meshResult (getSlot s mb k).offset (getSlot s mb k).detail) := by
  unfold meshCopySettle
  dsimp only
  rw [last, if_neg Bool.false_ne_true, if_pos (by simpa using status)]

end

/-- Another packet of the COPY is under way. -/
theorem others_of_not_last (h : ¬∀ z ∈ s.mesh.sent, z ≠ x → z.copyId ≠ copyId) :
    (forgetPacket s x).mesh.sent.any (fun y => y.copyId == copyId) = true := by
  push Not at h
  obtain ⟨z, hz, other, mine⟩ := h
  exact List.any_eq_true.mpr ⟨z, List.mem_filter.mpr ⟨hz, by simpa using other⟩, by simp [mine]⟩

theorem none_of_last (h : ∀ z ∈ s.mesh.sent, z ≠ x → z.copyId ≠ copyId) :
    (forgetPacket s x).mesh.sent.any (fun y => y.copyId == copyId) = false ∧
      Forgotten x copyId (forgetPacket s x).mesh.sent := by
  have gone (z : SentPacket) (hz : z ∈ (forgetPacket s x).mesh.sent) : z ≠ x ∧ z.copyId ≠ copyId := by
    obtain ⟨hz, other⟩ := List.mem_filter.mp hz
    have other : z ≠ x := by simpa using other
    exact ⟨other, h z hz other⟩
  refine ⟨List.any_eq_false.mpr fun z hz => ?_, fun z hz => ⟨(gone z hz).1, fun mine => absurd mine (gone z hz).2⟩⟩
  simpa using (gone z hz).2

end

/-- Settles O48. What is the model's in it: the packets of a COPY that has ended, and NOT_MEMBER whatever a packet's place (log
90), ABORTED at an acknowledgement that failed (82), the checks of a get's window (85), queues and crossings (124, 127). -/
theorem meshPacketsArePerformedAndAnswered : Obligations.MeshPacketsArePerformedAndAnswered := by
  unfold Obligations.MeshPacketsArePerformedAndAnswered
  refine ⟨fun port p s on up abroad => ⟨⟨rfl, _, getMeshPort_modMeshPort_self ..⟩, fun here => ⟨?border, ?early, ?stranger, ?waits,
      fun inside hdue member => ⟨fun code refused => ?refused, fun j w fits hj hw => ⟨?held, ?denied, ?written⟩⟩,
      fun old len => ?get⟩, fun there => ?transit⟩,
    fun copyId index x s on hthere hx => ⟨?ended, ?aborted, ?failed, ?more, ?ok, ?status⟩, fun src copyId index s => ?order⟩
  case border => exact meshPut_border on up abroad here
  case early =>
    exact fun inside early => (meshPut_inbound on up here inside).trans
      (congrArg _ (inboundPut_early (s := received s port) (p := arrived p) early))
  case stranger => exact fun inside late => meshPut_stranger on up abroad here inside late
  case waits =>
    exact fun inside late member => (meshPut_inbound on up here inside).trans
      (congrArg _ (inboundPut_waits (s := received s port) (p := arrived p) (Nat.le_of_lt late) member late))
  case refused => exact meshPut_refused on up abroad here inside hdue member refused
  case held => exact meshPut_held on up here inside hdue member hj (hj ▸ fits) hw
  case denied => exact meshPut_denied on up abroad here inside hdue member hj (hj ▸ fits) hw
  case written => exact fun pas reached alone => meshPut_written on up abroad here inside hdue member hj (hj ▸ fits) hw reached alone
  case get =>
    have runs := execMeshGet_arrives on up here old len
    refine ⟨fun crossed => ?_, fun inside stranger => ?_, fun inside member => ?_⟩
    · rw [crossed, if_pos rfl] at runs
      exact meshErrs_of_send (u := received s port) rfl rfl runs
    · rw [inside, stranger, if_neg Bool.false_ne_true, if_pos (by rfl)] at runs
      exact meshErrs_of_send (u := received s port) rfl rfl runs
    · rw [inside, member, if_neg Bool.false_ne_true, if_neg (by decide)] at runs
      refine ⟨fun code refused => ?_, fun j w fits hj hw => ⟨fun held => ?_, fun denied => ?_, fun pas reads => ?_⟩⟩
      · rw [inboundGet_refused (s := received s port) (p := arrived p) refused] at runs
        exact meshErrs_of_send (u := received s port) rfl rfl runs
      · exact runs.trans (congrArg _ (inboundGet_held (s := received s port) (p := arrived p) hj (hj ▸ fits) hw held))
      · rw [inboundGet_denied (s := received s port) (p := arrived p) hj (hj ▸ fits) hw denied] at runs
        exact ⟨_, runs, meshSend_mem_tx ..⟩
      · rw [inboundGet_reads (s := received s port) (p := arrived p) hj (hj ▸ fits) hw reads] at runs
        exact ⟨_, runs, meshSend_mem_tx ..⟩
  case transit =>
    have runs := execMeshTransit_passes on up there
    refine ⟨fun crossed => ?_, fun inside => ⟨fun h m hop => ?_, fun code hop => ?_⟩⟩
    · rwa [crossed, if_pos rfl] at runs
    · rw [inside, if_neg Bool.false_ne_true, hop] at runs
      refine ⟨runs, fun same live free credit goes => ⟨_, runs, ?_⟩⟩
      rw [toPort, if_pos same]
      exact sendPacket_leaves live free credit goes
    · rwa [inside, if_neg Bool.false_ne_true, hop] at runs
  case ended =>
    refine fun ended => ⟨fun code => ?_, ?_⟩
    · by_cases hcode : code = 0
      · subst hcode
        exact ⟨_, execMeshPacketAck_ended on hx ended, rfl⟩
      · exact ⟨_, (execMeshPacketAck_fails on hx hcode).trans (congrArg _ (packetFails_ended ended code)),
          forgetPacket_countFor ..⟩
    · exact ⟨_, (execMeshAckTimeout_fails on hx).trans (congrArg _ (packetFails_ended ended _)), rfl⟩
  case aborted =>
    intro goes aborted code hcode
    have row := packetFails_row (c := .meshPacketAck copyId index code) hthere goes (slotsOf_countFor ..)
      (unackedFrom_countFor ..) (execMeshPacketAck_fails on hx hcode)
    rw [copyId_of_found hx] at row
    exact row.1 aborted
  case failed =>
    intro goes live
    refine ⟨fun code hcode => ?_, ?_⟩
    · have row := packetFails_row (c := .meshPacketAck copyId index code) hthere goes (slotsOf_countFor ..)
        (unackedFrom_countFor ..) (execMeshPacketAck_fails on hx hcode)
      rw [copyId_of_found hx] at row
      exact row.2 live
    · have row := packetFails_row (c := .meshAckTimeout copyId index) hthere goes rfl rfl (execMeshAckTimeout_fails on hx)
      rw [copyId_of_found hx] at row
      exact row.2 live
  case more =>
    intro others
    cases ended : x.ended with
    | true => exact execMeshPacketAck_ended on hx ended
    | false =>
      exact (execMeshPacketAck_settles on hx ended).trans (congrArg _ (settle_waits (others_of_not_last others)))
  case ok =>
    intro goes last status whole
    obtain ⟨none_left, forgotten⟩ := none_of_last last
    have slot := getSlot_congr (slotsOf_forgetPacket s x x.mb) x.slot
    have runs := execMeshPacketAck_settles on hx goes
    rw [settle_ok none_left (by rw [slot, status]) (by rw [slot, whole])] at runs
    exact ended_of_finish runs hthere (slotsOf_forgetPacket ..) (by rw [finish_mesh]; exact forgotten)
  case status =>
    intro goes last status
    obtain ⟨none_left, forgotten⟩ := none_of_last last
    have slot := getSlot_congr (slotsOf_forgetPacket s x x.mb) x.slot
    have runs := execMeshPacketAck_settles on hx goes
    rw [settle_status none_left (by rwa [slot]), slot] at runs
    exact ended_of_finish runs hthere (slotsOf_forgetPacket ..) (by rw [finish_mesh]; exact forgotten)
  case order =>
    refine ⟨_, rfl, rfl, fun y => ?_⟩
    dsimp only
    rw [List.mem_filter]
    simp only [Bool.not_eq_true', Bool.and_eq_false_iff, beq_eq_false_iff_ne, ne_eq, not_and_or, or_assoc]

end Sys2Proof.Machine
end

section
/-! PROOFS. Mesh links, announcements and the registration counter (14 R460 to R462, R483 to R493; 18 R581). -/

namespace Sys2Proof.Machine

open Sys2Proof

variable {s t u : State} {port p n : Nat} {gone : Bool}

/-! ## What the rows of links change -/

/-- Only the mesh, the Gutter, the journal with its notices, the draws and the counter differ. -/
def MeshOnly (s t : State) : Prop :=
  t = { s with
    mesh := t.mesh, gut := t.gut, journal := t.journal, flash := t.flash, poison := t.poison, errors := t.errors, sb := t.sb,
    free := t.free, waking := t.waking, now := t.now }

theorem MeshOnly.refl (s : State) : MeshOnly s s := rfl

theorem MeshOnly.trans (h : MeshOnly s t) (k : MeshOnly t u) : MeshOnly s u := by
  unfold MeshOnly at *
  rw [k, h]

theorem MeshOnly.ite {c : Prop} [Decidable c] (h : MeshOnly s t) (k : MeshOnly s u) : MeshOnly s (if c then t else u) := by
  split
  · exact h
  · exact k

/-- What memory, Cases, galleys and Platens hold stays. -/
structure MemKept (s t : State) : Prop where
  mem : t.mem = s.mem
  lines : t.lines = s.lines
  dir : t.dir = s.dir
  txns : t.txns = s.txns
  galleys : t.galleys = s.galleys
  platens : t.platens = s.platens
  stackTab : t.stackTab = s.stackTab

theorem MeshOnly.memKept (h : MeshOnly s t) : MemKept s t := by
  rw [h]
  exact ⟨rfl, rfl, rfl, rfl, rfl, rfl, rfl⟩

theorem MemKept.trans (h : MemKept s t) (k : MemKept t u) : MemKept s u :=
  ⟨k.mem.trans h.mem, k.lines.trans h.lines, k.dir.trans h.dir, k.txns.trans h.txns, k.galleys.trans h.galleys,
    k.platens.trans h.platens, k.stackTab.trans h.stackTab⟩

/-- A mesh port but for the packets that leave on it. -/
def MeshPort.unqueued (x : MeshPort) : MeshPort := { x with queue := [], replay := [], replays := 0 }

theorem eq_of_unqueued {x y : MeshPort} (h : y.unqueued = x.unqueued) :
    y = { x with queue := y.queue, replay := y.replay, replays := y.replays } := by
  have same := congrArg (fun z : MeshPort => { z with queue := y.queue, replay := y.replay, replays := y.replays }) h
  exact same

/-- Packets move on, and nothing that was sent is taken back. -/
structure Rerouted (s t : State) : Prop where
  kept : MemKept s t
  ports : ∀ p, (getMeshPort t p).unqueued = (getMeshPort s p).unqueued
  tx : ∀ m ∈ s.mesh.tx, m ∈ t.mesh.tx

theorem Rerouted.refl (s : State) : Rerouted s s := ⟨(MeshOnly.refl s).memKept, fun _ => rfl, fun _ h => h⟩

theorem Rerouted.trans (h : Rerouted s t) (k : Rerouted t u) : Rerouted s u :=
  ⟨h.kept.trans k.kept, fun p => (k.ports p).trans (h.ports p), fun m hm => k.tx m (h.tx m hm)⟩

theorem Rerouted.foldl {α : Type} {f : State → α → State} (hf : ∀ s a, Rerouted s (f s a)) (l : List α) (s : State) :
    Rerouted s (l.foldl f s) :=
  List.foldlRecOn (motive := Rerouted s) l f (.refl s) fun t h a _ => h.trans (hf t a)

/-- Packets move on, and nothing but the mesh and what belongs to it differs. -/
structure OnMesh (s t : State) : Prop where
  only : MeshOnly s t
  ports : ∀ p, (getMeshPort t p).unqueued = (getMeshPort s p).unqueued
  tx : ∀ m ∈ s.mesh.tx, m ∈ t.mesh.tx

theorem OnMesh.rerouted (h : OnMesh s t) : Rerouted s t := ⟨h.only.memKept, h.ports, h.tx⟩

theorem OnMesh.refl (s : State) : OnMesh s s := ⟨.refl s, fun _ => rfl, fun _ h => h⟩

theorem OnMesh.trans (h : OnMesh s t) (k : OnMesh t u) : OnMesh s u :=
  ⟨h.only.trans k.only, fun p => (k.ports p).trans (h.ports p), fun m hm => k.tx m (h.tx m hm)⟩

theorem OnMesh.ite {c : Prop} [Decidable c] (h : OnMesh s t) (k : OnMesh s u) : OnMesh s (if c then t else u) := by
  split
  · exact h
  · exact k

theorem getMeshPort_congr (h : t.mesh.ports = s.mesh.ports) (p : Nat) : getMeshPort t p = getMeshPort s p := by
  rw [getMeshPort, h]
  rfl

theorem OnMesh.of_only (only : MeshOnly s t) (ports : t.mesh.ports = s.mesh.ports) (tx : t.mesh.tx = s.mesh.tx) : OnMesh s t :=
  ⟨only, fun p => by rw [getMeshPort_congr ports], fun _ h => tx ▸ h⟩

/-! ## Sending (14 R475 to R477) -/

theorem onMesh_meshSend (s : State) (m : MeshTx) : OnMesh s (meshSend s m) :=
  ⟨rfl, fun _ => rfl, fun _ h => List.mem_append_left _ h⟩

theorem getMeshPort_meshSend (s : State) (m : MeshTx) (p : Nat) : getMeshPort (meshSend s m) p = getMeshPort s p := rfl

theorem getMeshPort_modMeshPort_ne (s : State) {p q : Nat} (h : p ≠ q) (g : MeshPort → MeshPort) :
    getMeshPort (modMeshPort s q g) p = getMeshPort s p := mapGetD_mapUpd_ne _ _ _ h

theorem onMesh_modMeshPort (s : State) (q : Nat) {g : MeshPort → MeshPort} (hg : ∀ x, (g x).unqueued = x.unqueued) :
    OnMesh s (modMeshPort s q g) := by
  refine ⟨rfl, fun p => ?_, fun _ h => h⟩
  by_cases here : p = q
  · subst here
    rw [getMeshPort_modMeshPort_self, hg]
  · rw [getMeshPort_modMeshPort_ne s here]

theorem onMesh_transmit (s : State) (q : Nat) (x : MeshChannel × Packet) : OnMesh s (transmit s q x) :=
  ((OnMesh.of_only rfl rfl rfl : OnMesh s s.drawn).trans (onMesh_modMeshPort s.drawn q fun _ => by rfl)).trans (onMesh_meshSend ..)

theorem onMesh_pump (n q : Nat) (s : State) : OnMesh s (pump n q s) := by
  induction n generalizing s with
  | zero => exact .refl s
  | succ n ih =>
    unfold pump
    split
    · exact .refl s
    · exact (onMesh_transmit ..).trans (ih _)

theorem onMesh_pumpPort (s : State) (q : Nat) : OnMesh s (pumpPort s q) := .ite (onMesh_pump ..) (.refl s)

theorem onMesh_sendPacket (s : State) (q : Nat) (p : Packet) : OnMesh s (sendPacket s q p) :=
  (onMesh_modMeshPort s q fun _ => by rfl).trans (onMesh_pumpPort ..)

theorem onMesh_gut (s : State) (g : Gutter) : OnMesh s { s with gut := g } := .of_only rfl rfl rfl

theorem onMesh_serveTransit (h : serveTransit s = some t) : OnMesh s t := by
  obtain ⟨x, -, ht⟩ := Option.bind_eq_some_iff.mp h
  obtain ⟨y, -, rfl⟩ := Option.map_eq_some_iff.mp ht
  exact (onMesh_gut s _).trans (onMesh_sendPacket ..)

theorem onMesh_serveTransitsFor (n : Nat) (s : State) : OnMesh s (serveTransitsFor n s) := by
  induction n generalizing s with
  | zero => exact .refl s
  | succ n ih =>
    unfold serveTransitsFor
    split
    · exact (onMesh_serveTransit ‹_›).trans (ih _)
    · exact .refl s

theorem onMesh_toPort (s : State) (f : Option Nat) (src q : Nat) (p : Packet) : OnMesh s (toPort s f src q p) :=
  .ite (onMesh_sendPacket ..) ((onMesh_gut s _).trans (onMesh_serveTransitsFor ..))

/-! ## Packets that go another way (14 R484 to R487) -/

theorem rerouted_countFor (s : State) (f : Option Nat) (c : Ctr) (n : Nat) : Rerouted s (countFor s f c n) := by
  refine ⟨?_, fun p => by rw [getMeshPort, countFor_mesh]; rfl, fun _ h => by rwa [countFor_mesh]⟩
  rw [(countFor_frame s f c n).1]
  exact ⟨rfl, rfl, rfl, rfl, rfl, rfl, rfl⟩

theorem rerouted_finish (s : State) (mb : MboxId) (k st detail result : Nat) :
    Rerouted s (finish s mb k st detail result) := by
  refine ⟨?_, fun p => by rw [getMeshPort, finish_mesh]; rfl, fun _ h => by rwa [finish_mesh]⟩
  cases mb <;> exact ⟨rfl, rfl, rfl, rfl, rfl, rfl, rfl⟩

theorem onMesh_sent (s : State) (l : List SentPacket) : OnMesh s { s with mesh := { s.mesh with sent := l } } :=
  .of_only rfl rfl rfl

theorem rerouted_packetFails (s : State) (x : SentPacket) (code : Nat) : Rerouted s (packetFails s x code) := by
  cases ended : x.ended with
  | true =>
    rw [packetFails_ended ended]
    exact (onMesh_sent s _).rerouted
  | false =>
    have cut : Rerouted s (copyFailed s x) := ((onMesh_sent s _).trans (onMesh_sent (forgetPacket s x) _)).rerouted
    rw [packetFails_ends ended]
    split <;> exact cut.trans (rerouted_finish ..)

theorem rerouted_meshCopySettle (s : State) (mb : MboxId) (k copyId len : Nat) :
    Rerouted s (meshCopySettle s mb k copyId len) := by
  unfold meshCopySettle
  dsimp only
  split
  · exact .refl s
  · split
    · exact rerouted_finish ..
    · split
      · exact rerouted_finish ..
      · exact .refl s

theorem rerouted_packetAnswered (s : State) (copyId index code : Nat) : Rerouted s (packetAnswered s copyId index code) := by
  unfold packetAnswered
  split
  · exact .refl s
  · split
    · exact (rerouted_countFor ..).trans (rerouted_packetFails ..)
    · split
      · exact (onMesh_sent s _).rerouted
      · exact (onMesh_sent s _).rerouted.trans (rerouted_meshCopySettle ..)

theorem rerouted_dropPacket (s : State) (p : Packet) (code : Nat) : Rerouted s (dropPacket s p code) := by
  unfold dropPacket
  split
  · exact rerouted_packetAnswered ..
  · exact (onMesh_meshSend ..).rerouted

theorem rerouted_reroute (src : Nat) (s : State) (p : Packet) : Rerouted s (reroute src s p) := by
  unfold reroute
  split
  · exact rerouted_dropPacket ..
  · dsimp only
    refine Rerouted.trans ?_ (onMesh_toPort ..).rerouted
    split
    · exact .refl s
    · exact rerouted_countFor ..

theorem onMesh_takePackets (s : State) (q : Nat) (test : MeshChannel → Bool) : OnMesh s (takePackets s q test).1 :=
  onMesh_modMeshPort s q fun _ => rfl

theorem rerouted_rerouteAll (s : State) (q : Nat) : Rerouted s (rerouteAll s q) :=
  (onMesh_takePackets ..).rerouted.trans (.foldl (rerouted_reroute (dieOfMeshPort q)) _ _)

theorem rerouted_rerouteNarrow (s : State) (q : Nat) : Rerouted s (rerouteNarrow s q) := by
  have back : Rerouted s (modMeshPort (takePackets s q (fun c => !c.isPrompt)).1 q
      (fun x => { x with queue := x.queue ++ (takePackets s q (fun c => !c.isPrompt)).2 })) :=
    ((onMesh_takePackets ..).trans (onMesh_modMeshPort _ q fun _ => by rfl)).rerouted
  unfold rerouteNarrow
  dsimp only
  split
  · exact back.trans ((onMesh_takePackets ..).rerouted.trans (.foldl (rerouted_reroute (dieOfMeshPort q)) _ _))
  · exact back

/-! ## What the node knows of the group (14 R461, R462, R485, R486) -/

theorem JournalOnly.meshOnly (h : JournalOnly s t) : MeshOnly s t := by
  rw [h]
  rfl

theorem linkEntry_mesh (s : State) (q : Nat) : (linkEntry s q).mesh = s.mesh := by
  rw [linkEntry, (journalWrite_frame _ _).mesh]
  rfl

theorem getMeshPort_linkEntry (s : State) (q p : Nat) : getMeshPort (linkEntry s q) p = getMeshPort s p :=
  getMeshPort_congr (congrArg Mesh.ports (linkEntry_mesh s q)) p

theorem linkEntry_only (s : State) (q : Nat) : MeshOnly s (linkEntry s q) :=
  MeshOnly.trans (t := s.drawn.drawn) rfl (journalWrite_frame _ _).meshOnly

theorem onMesh_linkEntry (s : State) (q : Nat) : OnMesh s (linkEntry s q) :=
  .of_only (linkEntry_only s q) (by rw [linkEntry_mesh]) (by rw [linkEntry_mesh])

theorem onMesh_modGnid (s : State) (n : Nat) (g : GnidEntry → GnidEntry) : OnMesh s (modGnid s n g) := .of_only rfl rfl rfl

/-- The table with its twins marked anew. -/
def twinsMarked (s : State) : State :=
  { s with mesh := { s.mesh with gnids := s.mesh.gnids.map (fun kv => (kv.1, { kv.2 with dup := gnidTwin s kv.1 })) } }

/-- The twins marked anew, the node's own mark also where the table holds no entry of it. -/
def ownMarked (s : State) : State :=
  if gnidTwin s s.config.node = (getGnid s s.config.node).dup then twinsMarked s
  else modGnid (twinsMarked s) s.config.node (fun e => { e with dup := gnidTwin s s.config.node })

theorem markTwins_eq (s : State) (q : Nat) : markTwins s q =
    if (gnidTwin s s.config.node && !(getGnid s s.config.node).dup) = true then linkEntry (ownMarked s) q else ownMarked s := rfl

theorem onMesh_ownMarked (s : State) : OnMesh s (ownMarked s) :=
  have marked : OnMesh s (twinsMarked s) := .of_only rfl rfl rfl
  .ite marked (marked.trans (onMesh_modGnid ..))

theorem onMesh_markTwins (s : State) (q : Nat) : OnMesh s (markTwins s q) := by
  rw [markTwins_eq]
  exact .ite ((onMesh_ownMarked s).trans (onMesh_linkEntry ..)) (onMesh_ownMarked s)

theorem onMesh_announceOwn (s : State) : OnMesh s (announceOwn s) := onMesh_meshSend ..

theorem onMesh_retree (s : State) : OnMesh s (retree s) := .of_only rfl rfl rfl

theorem retree_now (s : State) : (retree s).now = s.now := rfl

theorem retree_linkWidths (s : State) : (retree s).mesh.linkWidths = s.mesh.linkWidths := rfl

theorem retree_ref (s : State) : (retree s).mesh.ref = refNode (retree s) := rfl

theorem getGnid_retree (s : State) (n : Nat) : getGnid (retree s) n = getGnid s n := rfl

theorem getGnid_meshSend (s : State) (m : MeshTx) (n : Nat) : getGnid (meshSend s m) n = getGnid s n := rfl

theorem markNeighbour_only (s : State) (n : Nat) (lost : Bool) : MeshOnly s (markNeighbour s n lost) := by
  unfold markNeighbour
  split <;> rfl

/-- The entry of a node that has gone. -/
def GnidEntry.departed (e : GnidEntry) : GnidEntry := { e with present := false, upPorts := 0 }

/-- Node `n` marked lost, as its neighbour and among the lost nodes. -/
def markedGone (s : State) (n : Nat) : State :=
  let u := markNeighbour (modGnid s n GnidEntry.departed) n true
  { u with mesh := { u.mesh with lostNodes := if u.mesh.lostNodes.contains n then u.mesh.lostNodes else n :: u.mesh.lostNodes } }

theorem nodeGone_eq (s : State) (n q : Nat) : nodeGone s n q = markTwins (markedGone s n) q := rfl

theorem markedGone_only (s : State) (n : Nat) : MeshOnly s (markedGone s n) :=
  MeshOnly.trans ((onMesh_modGnid s n _).only.trans (markNeighbour_only ..)) rfl

theorem nodeGone_only (s : State) (n q : Nat) : MeshOnly s (nodeGone s n q) := by
  rw [nodeGone_eq]
  exact (markedGone_only s n).trans (onMesh_markTwins ..).only

theorem nodeJoins_only (s : State) (n : Nat) : MeshOnly s (nodeJoins s n) :=
  MeshOnly.trans (markNeighbour_only s n false) rfl

/-! ## A link that goes down (14 R485, R486) -/

/-- Port `p` is down, with its neighbour lost when `gone`, and `m` is among what the node has sent. -/
structure DownWith (m : MeshTx) (p : Nat) (gone : Bool) (s : State) : Prop where
  st : (getMeshPort s p).st = .down
  tx : (getMeshPort s p).txWidth = 0
  rx : (getMeshPort s p).rxWidth = 0
  lost : gone = true → (getMeshPort s p).neighbourLost = true
  told : m ∈ s.mesh.tx

theorem DownWith.rerouted {m : MeshTx} (h : Rerouted s t) (down : DownWith m p gone s) : DownWith m p gone t := by
  have same := eq_of_unqueued (h.ports p)
  obtain ⟨st, tx, rx, lost, told⟩ := down
  constructor
  · rw [same]; exact st
  · rw [same]; exact tx
  · rw [same]; exact rx
  · rw [same]; exact lost
  · exact h.tx m told

theorem markNeighbour_mesh (s : State) (n : Nat) (lost : Bool) :
    ∃ ports, (markNeighbour s n lost).mesh = { s.mesh with ports := ports } := by
  unfold markNeighbour
  split
  · exact ⟨_, rfl⟩
  · exact ⟨_, rfl⟩

theorem DownWith.markNeighbour {m : MeshTx} (down : DownWith m p gone s) : DownWith m p gone (markNeighbour s n true) := by
  have still : ∃ b, getMeshPort (Machine.markNeighbour s n true) p = { getMeshPort s p with neighbourLost := b } ∧
      (gone = true → b = true) := by
    unfold Machine.markNeighbour
    split
    · exact ⟨_, rfl, down.lost⟩
    · rename_i q _
      by_cases here : p = q
      · subst here
        exact ⟨_, getMeshPort_modMeshPort_self .., fun _ => by simp [MeshPort.isUp, down.st]⟩
      · exact ⟨_, getMeshPort_modMeshPort_ne s here _, down.lost⟩
  obtain ⟨b, port, lost⟩ := still
  obtain ⟨ports, mesh⟩ := markNeighbour_mesh s n true
  constructor
  · rw [port]; exact down.st
  · rw [port]; exact down.tx
  · rw [port]; exact down.rx
  · rw [port]; exact lost
  · rw [mesh]; exact down.told

theorem DownWith.nodeGone {m : MeshTx} (down : DownWith m p gone s) (q : Nat) : DownWith m p gone (nodeGone s n q) := by
  have marked : DownWith m p gone (Machine.markNeighbour (modGnid s n GnidEntry.departed) n true) :=
    (down.rerouted (onMesh_modGnid s n _).rerouted).markNeighbour
  have listed : OnMesh (Machine.markNeighbour (modGnid s n GnidEntry.departed) n true)
      (markedGone s n) := .of_only rfl rfl rfl
  exact marked.rerouted (listed.trans (onMesh_markTwins ..)).rerouted

/-- A port whose link has gone. -/
def MeshPort.lost (gone : Bool) (x : MeshPort) : MeshPort :=
  { x with st := .down, txWidth := 0, rxWidth := 0, txRetraining := false, rxRetraining := false, neighbourLost := gone }

/-- The port taken down, with its widths. -/
def portDown (s : State) (port : Nat) (gone : Bool) : State :=
  let u := modMeshPort s port (MeshPort.lost gone)
  { u with mesh := { u.mesh with
      linkWidths := mapSet u.mesh.linkWidths ((neighbour s.config s.config.node port).getD s.config.node * 8 + opposite port) 0 } }

/-- The loss entered and told to the group. -/
def lossTold (s : State) (port : Nat) (gone : Bool) : State :=
  meshSend (linkEntry (portDown s port gone) port) (.notice s.config.node port 0)

/-- The neighbour marked gone, if it cannot be reached. -/
def lossMarked (s : State) (port : Nat) (gone : Bool) : State :=
  let n := (neighbour s.config s.config.node port).getD s.config.node
  if (gone || cutOff (lossTold s port gone) n) = true then nodeGone (lossTold s port gone) n port else lossTold s port gone

theorem linkLost_eq (s : State) (port : Nat) (gone : Bool) :
    linkLost s port gone = retree (announceOwn (rerouteAll (lossMarked s port gone) port)) := rfl

theorem lossTold_only (s : State) (port : Nat) (gone : Bool) : MeshOnly s (lossTold s port gone) :=
  have down : MeshOnly s (portDown s port gone) := rfl
  down.trans ((onMesh_linkEntry _ port).trans (onMesh_meshSend ..)).only

theorem lossMarked_only (s : State) (port : Nat) (gone : Bool) : MeshOnly s (lossMarked s port gone) :=
  .ite ((lossTold_only ..).trans (nodeGone_only ..)) (lossTold_only ..)

theorem rerouted_lossMarked (s : State) (port : Nat) (gone : Bool) : Rerouted (lossMarked s port gone) (linkLost s port gone) := by
  rw [linkLost_eq]
  exact (rerouted_rerouteAll _ port).trans ((onMesh_announceOwn _).trans (onMesh_retree _)).rerouted

theorem memKept_linkLost (s : State) (port : Nat) (gone : Bool) : MemKept s (linkLost s port gone) :=
  (lossMarked_only s port gone).memKept.trans (rerouted_lossMarked ..).kept

theorem downWith_linkLost (s : State) (port : Nat) (gone : Bool) :
    DownWith (.notice s.config.node port 0) port gone (linkLost s port gone) := by
  have taken : getMeshPort (portDown s port gone) port = (getMeshPort s port).lost gone :=
    getMeshPort_modMeshPort_self s port (MeshPort.lost gone)
  have entered : getMeshPort (lossTold s port gone) port = getMeshPort (portDown s port gone) port := by
    rw [lossTold, getMeshPort_meshSend, getMeshPort_linkEntry]
  have told : DownWith (.notice s.config.node port 0) port gone (lossTold s port gone) := by
    constructor
    · rw [entered, taken]; rfl
    · rw [entered, taken]; rfl
    · rw [entered, taken]; rfl
    · rw [entered, taken]; exact id
    · exact meshSend_mem_tx ..
  have marked : DownWith (.notice s.config.node port 0) port gone (lossMarked s port gone) := by
    unfold lossMarked
    dsimp only
    split
    · exact told.nodeGone port
    · exact told
  exact marked.rerouted (rerouted_lossMarked ..)

/-! ## A link that narrows (14 R483, R484) -/

/-- A port that sends on fewer lanes. -/
def MeshPort.sendsOn (w : Nat) (x : MeshPort) : MeshPort := { x with txWidth := w, txRetraining := true, promptDetour := !x.gen5 }

/-- A port that receives on fewer lanes. -/
def MeshPort.receivesOn (w : Nat) (x : MeshPort) : MeshPort := { x with rxWidth := w, rxRetraining := true }

/-- The port and the partner's width as lanes of receiving fail. -/
def receivingNarrowed (s : State) (port w : Nat) : State :=
  let u := modMeshPort s port (MeshPort.receivesOn w)
  { u with mesh := { u.mesh with linkWidths := mapSet u.mesh.linkWidths ((getMeshPort s port).partner * 8 + opposite port) w } }

theorem narrowed_sending_eq (s : State) (port w : Nat) : narrowed s port true w =
    rerouteNarrow (meshSend (linkEntry (modMeshPort s port (MeshPort.sendsOn w)) port) (.notice s.config.node port w)) port := rfl

theorem narrowed_receiving_eq (s : State) (port w : Nat) :
    narrowed s port false w = linkEntry (receivingNarrowed s port w) port := rfl

theorem rerouted_narrowed (s : State) (port w : Nat) :
    Rerouted (modMeshPort s port (MeshPort.sendsOn w)) (narrowed s port true w) := by
  rw [narrowed_sending_eq]
  exact ((onMesh_linkEntry _ port).trans (onMesh_meshSend ..)).rerouted.trans (rerouted_rerouteNarrow ..)

theorem memKept_narrowed (s : State) (port : Nat) (sending : Bool) (w : Nat) : MemKept s (narrowed s port sending w) := by
  cases sending with
  | true =>
    have narrows : MeshOnly s (modMeshPort s port (MeshPort.sendsOn w)) := rfl
    exact narrows.memKept.trans (rerouted_narrowed ..).kept
  | false =>
    have narrows : MeshOnly s (receivingNarrowed s port w) := rfl
    exact (narrows.trans (linkEntry_only _ port)).memKept

theorem narrowed_sending (s : State) (port w : Nat) :
    (getMeshPort (narrowed s port true w) port).unqueued = ((getMeshPort s port).sendsOn w).unqueued := by
  rw [(rerouted_narrowed ..).ports, getMeshPort_modMeshPort_self]

theorem narrowed_receiving (s : State) (port w : Nat) :
    getMeshPort (narrowed s port false w) port = (getMeshPort s port).receivesOn w := by
  rw [narrowed_receiving_eq, getMeshPort_linkEntry]
  exact getMeshPort_modMeshPort_self s port (MeshPort.receivesOn w)

/-! ## A link that comes up (14 R460, R461) -/

/-- The port, its widths and its partner as training leaves them. -/
def portTrained (s : State) (port partner : Nat) (gen5 : Bool) (tx rx : Nat) : State :=
  modMeshPort s port (fun x =>
    { x with st := .up, txWidth := (widthFor gen5 tx).1, rxWidth := (widthFor gen5 rx).1, txFailed := allLanes - tx,
             rxFailed := allLanes - rx, txRetraining := false, rxRetraining := false, partner := partner, gen5 := gen5,
             promptDetour := !gen5 && decide ((widthFor gen5 tx).1 < 16), neighbourLost := false, delay := 0, offset := 0 })

/-- The partner entered, and of a 5th generation partner its entry. -/
def partnerTaken (s : State) (port partner : Nat) (gen5 : Bool) (tx rx : Nat) : State :=
  let u := portTrained s port partner gen5 tx rx
  let v := { u with mesh := { u.mesh with
    linkWidths := mapSet u.mesh.linkWidths (partner * 8 + opposite port) (widthFor gen5 rx).1,
    lostNodes := u.mesh.lostNodes.filter (· ≠ partner) } }
  if gen5 then modGnid v partner (fun e => { e with gnid := 0, present := true, nd5 := true, generation := 5 }) else v

theorem portUp_eq (s : State) (port partner : Nat) (gen5 : Bool) (tx rx : Nat) : portUp s port partner gen5 tx rx =
    retree (announceOwn (meshSend (linkEntry (partnerTaken s port partner gen5 tx rx) port)
      (.notice s.config.node port (widthFor gen5 tx).1))) := by
  cases gen5 <;> rfl

theorem onMesh_partnerTaken (s : State) (port partner : Nat) (gen5 : Bool) (tx rx : Nat) :
    OnMesh (portTrained s port partner gen5 tx rx) (partnerTaken s port partner gen5 tx rx) := by
  cases gen5 <;> exact .of_only rfl rfl rfl

theorem onMesh_portUp (s : State) (port partner : Nat) (gen5 : Bool) (tx rx : Nat) :
    OnMesh (portTrained s port partner gen5 tx rx) (portUp s port partner gen5 tx rx) := by
  rw [portUp_eq]
  exact (((onMesh_partnerTaken ..).trans (onMesh_linkEntry _ port)).trans (onMesh_meshSend ..)).trans
    ((onMesh_announceOwn _).trans (onMesh_retree _))

theorem portUp_only (s : State) (port partner : Nat) (gen5 : Bool) (tx rx : Nat) :
    MeshOnly s (portUp s port partner gen5 tx rx) :=
  MeshOnly.trans (t := portTrained s port partner gen5 tx rx) rfl (onMesh_portUp ..).only

theorem portUp_told (s : State) (port partner : Nat) (gen5 : Bool) (tx rx : Nat) :
    .notice s.config.node port (widthFor gen5 tx).1 ∈ (portUp s port partner gen5 tx rx).mesh.tx := by
  rw [portUp_eq]
  exact ((onMesh_announceOwn _).trans (onMesh_retree _)).tx _ (meshSend_mem_tx ..)

theorem portUp_port (s : State) (port partner : Nat) (gen5 : Bool) (tx rx : Nat) :
    let y := getMeshPort (portUp s port partner gen5 tx rx) port
    y.st = .up ∧ y.txWidth = (widthFor gen5 tx).1 ∧ y.rxWidth = (widthFor gen5 rx).1 ∧ y.partner = partner ∧ y.gen5 = gen5 := by
  have same := eq_of_unqueued ((onMesh_portUp s port partner gen5 tx rx).ports port)
  rw [portTrained, getMeshPort_modMeshPort_self] at same
  dsimp only
  rw [same]
  exact ⟨rfl, rfl, rfl, rfl, rfl⟩

/-! ## Entries of the GNID table (14 R461, R462) -/

/-- Only whether an entry is a twin may differ. -/
def GnidEntry.untwinned (e : GnidEntry) : GnidEntry := { e with dup := false }

theorem mapGet_twinsMarked (s : State) (n : Nat) : mapGet (twinsMarked s).mesh.gnids n =
    (mapGet s.mesh.gnids n).map (fun e => { e with dup := gnidTwin s n }) :=
  mapGet_map s.mesh.gnids (fun k (e : GnidEntry) => ({ e with dup := gnidTwin s k } : GnidEntry)) n

theorem twinsMarked_entry (s : State) (n : Nat) : (getGnid (twinsMarked s) n).untwinned = (getGnid s n).untwinned := by
  unfold getGnid mapGetD
  rw [mapGet_twinsMarked]
  cases mapGet s.mesh.gnids n <;> rfl

theorem getGnid_modGnid_self (s : State) (n : Nat) (g : GnidEntry → GnidEntry) : getGnid (modGnid s n g) n = g (getGnid s n) :=
  mapGetD_mapUpd_self ..

theorem getGnid_modGnid_ne (s : State) {n k : Nat} (h : k ≠ n) (g : GnidEntry → GnidEntry) :
    getGnid (modGnid s n g) k = getGnid s k :=
  mapGetD_mapUpd_ne _ _ _ h

theorem ownMarked_entry (s : State) (n : Nat) : (getGnid (ownMarked s) n).untwinned = (getGnid s n).untwinned := by
  unfold ownMarked
  split
  · exact twinsMarked_entry s n
  · by_cases own : n = s.config.node
    · subst own
      rw [getGnid_modGnid_self]
      exact twinsMarked_entry s _
    · rw [getGnid_modGnid_ne _ own]
      exact twinsMarked_entry s n

/-- The node knows whether it is a twin, also where the table holds no entry of it. -/
theorem ownMarked_own (s : State) : (getGnid (ownMarked s) s.config.node).dup = gnidTwin s s.config.node := by
  unfold ownMarked
  split
  · rename_i same
    unfold getGnid mapGetD at *
    rw [mapGet_twinsMarked]
    cases entry : mapGet s.mesh.gnids s.config.node with
    | none => rw [same, entry]; rfl
    | some e => rfl
  · rw [getGnid_modGnid_self]

theorem ownMarked_other {e : GnidEntry} (other : n ≠ s.config.node) (entry : mapGet s.mesh.gnids n = some e) :
    (getGnid (ownMarked s) n).dup = gnidTwin s n := by
  have marked : (getGnid (twinsMarked s) n).dup = gnidTwin s n := by
    unfold getGnid mapGetD
    rw [mapGet_twinsMarked, entry]
    rfl
  unfold ownMarked
  split
  · exact marked
  · rw [getGnid_modGnid_ne _ other]
    exact marked

theorem getGnid_markTwins (s : State) (q n : Nat) : getGnid (markTwins s q) n = getGnid (ownMarked s) n := by
  rw [markTwins_eq]
  split
  · rw [getGnid, linkEntry_mesh]
    rfl
  · rfl

theorem markTwins_entry (s : State) (q n : Nat) : (getGnid (markTwins s q) n).untwinned = (getGnid s n).untwinned := by
  rw [getGnid_markTwins, ownMarked_entry]

/-! ## A node that has gone (14 R486) -/

theorem getGnid_markNeighbour (s : State) (n k : Nat) (lost : Bool) : getGnid (markNeighbour s n lost) k = getGnid s k := by
  unfold markNeighbour
  split <;> rfl

theorem nodeGone_absent (s : State) (n q : Nat) : (getGnid (nodeGone s n q) n).present = false := by
  have entry := congrArg GnidEntry.present (markTwins_entry (markedGone s n) q n)
  have marked : getGnid (markedGone s n) n = getGnid (modGnid s n GnidEntry.departed) n :=
    getGnid_markNeighbour ..
  rw [marked, getGnid_modGnid_self] at entry
  exact entry

theorem nodeGone_tx (s : State) (n q : Nat) (m : MeshTx) (h : m ∈ s.mesh.tx) : m ∈ (nodeGone s n q).mesh.tx := by
  obtain ⟨ports, mesh⟩ := markNeighbour_mesh (modGnid s n GnidEntry.departed) n true
  have marked : m ∈ (markNeighbour (modGnid s n GnidEntry.departed) n true).mesh.tx := by
    rw [mesh]
    exact h
  rw [nodeGone_eq]
  exact (onMesh_markTwins (markedGone s n) q).tx m marked

theorem linkEntry_now (s : State) (q : Nat) : (linkEntry s q).now = s.now := by
  have frame := congrArg State.now (journalWrite_frame s.drawn.drawn
    (jEntry JOrigin.firmware 0x0C (0x100 + q) 4 (Config.freeNat s.free % 2 ^ 128) (Config.freeNat (s.free + 1) % 2 ^ 128)))
  exact frame

/-- What a changed table leaves of the clock and of the widths of links. -/
structure WidthsKept (s t : State) : Prop where
  now : t.now = s.now
  widths : t.mesh.linkWidths = s.mesh.linkWidths

theorem widthsKept_ownMarked (s : State) : WidthsKept s (ownMarked s) := by
  unfold ownMarked
  split <;> exact ⟨rfl, rfl⟩

theorem widthsKept_markTwins (s : State) (q : Nat) : WidthsKept s (markTwins s q) := by
  obtain ⟨now, widths⟩ := widthsKept_ownMarked s
  rw [markTwins_eq]
  split
  · exact ⟨by rw [linkEntry_now, now], by rw [linkEntry_mesh, widths]⟩
  · exact ⟨now, widths⟩

theorem widthsKept_nodeGone (s : State) (n q : Nat) : WidthsKept s (nodeGone s n q) := by
  rw [nodeGone_eq]
  have marked : WidthsKept s (markedGone s n) := by
    unfold markedGone markNeighbour
    dsimp only
    split <;> exact ⟨rfl, rfl⟩
  obtain ⟨now, widths⟩ := widthsKept_markTwins (markedGone s n) q
  exact ⟨now.trans marked.now, widths.trans marked.widths⟩

/-! ## What each row leaves alone -/

/-- Every answer differs in the mesh and what belongs to it alone. -/
def AnswersOnly (s : State) (o : Host.Outcome State Fault Refusal) : Prop := ∀ t, o = .next t → MeshOnly s t

theorem AnswersOnly.next (h : MeshOnly s t) : AnswersOnly s (.next t) := fun _ ht => Host.Outcome.next.inj ht ▸ h

theorem AnswersOnly.same (s : State) : AnswersOnly s (.next s) := .next (.refl s)

theorem AnswersOnly.ite {c : Prop} [Decidable c] {o o' : Host.Outcome State Fault Refusal} (h : AnswersOnly s o)
    (k : AnswersOnly s o') : AnswersOnly s (if c then o else o') := by
  split
  · exact h
  · exact k

theorem modMeshPort_only (s : State) (q : Nat) (g : MeshPort → MeshPort) : MeshOnly s (modMeshPort s q g) := rfl

theorem meshLinkTrain_only (port partner grp : Nat) (gen5 : Bool) (tx rx : Nat) (s : State) :
    AnswersOnly s (execMeshLinkTrain port partner grp gen5 tx rx s) := by
  refine .ite (.same s) ?_
  split
  · exact .next (modMeshPort_only s port _)
  · exact .ite (.ite (.same s) (.next ((modMeshPort_only s port _).trans (linkEntry_only _ port))))
      (.ite (.next (modMeshPort_only s port _)) (.next (portUp_only ..)))

theorem meshTrainRetry_only (port k : Nat) (s : State) : AnswersOnly s (execMeshTrainRetry port k s) :=
  .ite (.next (modMeshPort_only s port _)) (.same s)

theorem onMesh_announced (s : State) (q : Nat) (m : MeshTx) : OnMesh s (retree (meshSend (markTwins s q) m)) :=
  ((onMesh_markTwins s q).trans (onMesh_meshSend ..)).trans (onMesh_retree _)

theorem gnidAnnounce_only (port node gnid generation ups : Nat) (s : State) :
    AnswersOnly s (execGnidAnnounce port node gnid generation ups s) :=
  .ite (.same s) (.ite (.same s)
    (.next (((nodeJoins_only s node).trans (onMesh_modGnid _ node _).only).trans (onMesh_announced ..).only)))

/-- The tables as a notice of a width leaves them, the notice sent on. -/
def noticeTaken (s : State) (node port width : Nat) : State :=
  let u := if distance node s.config.node ≤ 2 then
      { s with mesh := { s.mesh with linkWidths := mapSet s.mesh.linkWidths (node * 8 + port) width } }
    else s
  let v := if (getGnid u node).present then
      modGnid u node (fun e => { e with upPorts := if width = 0 then clearBit e.upPorts port else setBit e.upPorts port })
    else u
  meshSend v (.notice node port width)

theorem noticeTaken_only (s : State) (node port width : Nat) : MeshOnly s (noticeTaken s node port width) := by
  unfold noticeTaken
  dsimp only
  split <;> split <;> rfl

/-- What a node does once it has taken a notice: the other end may have been cut off (14 R486). -/
def afterNotice (s : State) (node port width : Nat) : MeshRes :=
  match neighbour s.config node port with
  | none => .next s
  | some m =>
    if width = 0 ∧ m ≠ s.config.node ∧ (getGnid s m).present = true ∧ cutOff s m = true then .next (retree (nodeGone s m port))
    else .next (retree s)

theorem execLinkStateNotice_eq (node port width : Nat) (s : State) : execLinkStateNotice node port width s =
    if (!(meshOn s && inGroup s.config node) || node = s.config.node || sendWidth s node port = width) then .next s
    else afterNotice (noticeTaken s node port width) node port width := rfl

theorem afterNotice_next (s : State) (node port width : Nat) : ∃ t, afterNotice s node port width = .next t ∧ MeshOnly s t ∧
    WidthsKept s t ∧ ∀ m ∈ s.mesh.tx, m ∈ t.mesh.tx := by
  unfold afterNotice
  split
  · exact ⟨s, rfl, .refl s, ⟨rfl, rfl⟩, fun _ h => h⟩
  · rename_i m _
    split
    · obtain ⟨now, widths⟩ := widthsKept_nodeGone s m port
      have kept : WidthsKept s (retree (nodeGone s m port)) :=
        ⟨by rw [retree_now, now], by rw [retree_linkWidths, widths]⟩
      exact ⟨_, rfl, (nodeGone_only s m port).trans (onMesh_retree _).only, kept,
        fun x hx => (onMesh_retree _).tx x (nodeGone_tx s m port x hx)⟩
    · exact ⟨_, rfl, (onMesh_retree s).only, ⟨rfl, rfl⟩, fun _ h => h⟩

theorem linkStateNotice_only (node port width : Nat) (s : State) : AnswersOnly s (execLinkStateNotice node port width s) := by
  rw [execLinkStateNotice_eq]
  refine .ite (.same s) ?_
  obtain ⟨t, ht, only, -⟩ := afterNotice_next (noticeTaken s node port width) node port width
  rw [ht]
  exact .next ((noticeTaken_only ..).trans only)

theorem received_only (s : State) (port : Nat) : MeshOnly s (received s port) := rfl

theorem meshTransit_only (port : Nat) (p : Packet) (s : State) : AnswersOnly s (execMeshTransit port p s) := by
  have took := received_only s port
  refine .ite (.same s) (.ite (.next (took.trans (onMesh_meshSend ..).only)) ?_)
  split
  · exact .next (took.trans (onMesh_meshSend ..).only)
  · exact .next (took.trans (onMesh_toPort ..).only)

theorem meshOrderTimeout_only (src copyId index : Nat) (s : State) : AnswersOnly s (execMeshOrderTimeout src copyId index s) :=
  .next rfl

theorem meshRetrainDone_only (port : Nat) (sending : Bool) (s : State) : AnswersOnly s (execMeshRetrainDone port sending s) :=
  .ite (.same s) (.ite (.next ((modMeshPort_only s port _).trans (onMesh_pumpPort _ port).only))
    (.ite (.next (modMeshPort_only s port _)) (.same s)))

theorem correctTime_only (s : State) (d : Int) : MeshOnly s (correctTime s d) := .ite rfl rfl

theorem registrationExchange_only (port : Nat) (here there : Stamps) (s : State) :
    AnswersOnly s (execRegistrationExchange port here there s) :=
  .ite (.same s) (.next (.ite (modMeshPort_only s port _) ((modMeshPort_only s port _).trans (correctTime_only ..))))

theorem registrationLock_only (s : State) : AnswersOnly s (execRegistrationLock s) := .ite (.next rfl) (.same s)

theorem referenceLoss_only (s : State) : AnswersOnly s (execReferenceLoss s) :=
  .ite (.next ((nodeGone_only ..).trans (onMesh_retree _).only)) (.same s)

/-- A port with one more lane that has failed. -/
def MeshPort.laneFailed (sending : Bool) (lane : Nat) (x : MeshPort) : MeshPort :=
  if sending then { x with txFailed := setBit x.txFailed lane } else { x with rxFailed := setBit x.rxFailed lane }

theorem execMeshLaneFail_eq (port : Nat) (sending : Bool) (lane : Nat) (s : State) : execMeshLaneFail port sending lane s =
    let x := getMeshPort s port
    let failed := if sending then x.txFailed else x.rxFailed
    let was := widthFor x.gen5 (allLanes - failed)
    let now := widthFor x.gen5 (allLanes - setBit failed lane)
    let u := modMeshPort s port (MeshPort.laneFailed sending lane)
    if !(meshOn s && x.isUp) then .next s
    else if now.1 = 0 then .next (linkLost u port false)
    else if now.2 = was.2 then .next u
    else .next (narrowed u port sending now.1) := by
  cases sending <;> rfl

/-- Every answer keeps what memory, Cases, galleys and Platens hold. -/
def AnswersKept (s : State) (o : Host.Outcome State Fault Refusal) : Prop := ∀ t, o = .next t → MemKept s t

theorem AnswersKept.next (h : MemKept s t) : AnswersKept s (.next t) := fun _ ht => Host.Outcome.next.inj ht ▸ h

theorem AnswersKept.same (s : State) : AnswersKept s (.next s) := .next (MeshOnly.refl s).memKept

theorem AnswersKept.ite {c : Prop} [Decidable c] {o o' : Host.Outcome State Fault Refusal} (h : AnswersKept s o)
    (k : AnswersKept s o') : AnswersKept s (if c then o else o') := by
  split
  · exact h
  · exact k

theorem AnswersOnly.kept {o : Host.Outcome State Fault Refusal} (h : AnswersOnly s o) : AnswersKept s o :=
  fun t ht => (h t ht).memKept

theorem meshLaneFail_kept (port : Nat) (sending : Bool) (lane : Nat) (s : State) :
    AnswersKept s (execMeshLaneFail port sending lane s) := by
  have failed : MemKept s (modMeshPort s port (MeshPort.laneFailed sending lane)) := (modMeshPort_only s port _).memKept
  rw [execMeshLaneFail_eq]
  exact .ite (.same s) (.ite (.next (failed.trans (memKept_linkLost ..)))
    (.ite (.next failed) (.next (failed.trans (memKept_narrowed ..)))))

theorem meshLinkLoss_kept (port : Nat) (gone : Bool) (s : State) : AnswersKept s (execMeshLinkLoss port gone s) :=
  .ite (.next (memKept_linkLost ..)) (.same s)

/-- The rows of links, without the loss of a lane or a link. -/
theorem linkRow_only {c : Instr} (row : isLinkRow c = true) (lanes : ∀ p b l, c ≠ .meshLaneFail p b l)
    (link : ∀ p b, c ≠ .meshLinkLoss p b) : AnswersOnly s (exec c s) := by
  cases c with
  | meshLinkTrain => exact meshLinkTrain_only _ _ _ _ _ _ s
  | meshTrainRetry => exact meshTrainRetry_only _ _ s
  | gnidAnnounce => exact gnidAnnounce_only _ _ _ _ _ s
  | linkStateNotice => exact linkStateNotice_only _ _ _ s
  | meshTransit => exact meshTransit_only _ _ s
  | meshOrderTimeout => exact meshOrderTimeout_only _ _ _ s
  | meshLaneFail => exact absurd rfl (lanes _ _ _)
  | meshRetrainDone => exact meshRetrainDone_only _ _ s
  | meshLinkLoss => exact absurd rfl (link _ _)
  | registrationExchange => exact registrationExchange_only _ _ _ s
  | registrationLock => exact registrationLock_only s
  | referenceLoss => exact referenceLoss_only s
  | _ => exact absurd row Bool.false_ne_true

theorem linkRow_kept {c : Instr} (row : isLinkRow c = true) : AnswersKept s (exec c s) := by
  by_cases lanes : ∀ p b l, c ≠ .meshLaneFail p b l
  · by_cases link : ∀ p b, c ≠ .meshLinkLoss p b
    · exact (linkRow_only row lanes link).kept
    · push Not at link
      obtain ⟨p, b, rfl⟩ := link
      exact meshLinkLoss_kept p b s
  · push Not at lanes
    obtain ⟨p, b, l, rfl⟩ := lanes
    exact meshLaneFail_kept p b l s

/-! ## Training (14 R460, R461, R483; 18 R581) -/

/-- The answer leaves port `port` as `y`. -/
def PortBecomes (o : Host.Outcome State Fault Refusal) (port : Nat) (y : MeshPort) : Prop :=
  ∃ t, o = .next t ∧ getMeshPort t port = y

theorem portBecomes_modMeshPort {o : Host.Outcome State Fault Refusal} {g : MeshPort → MeshPort}
    (ho : o = .next (modMeshPort s port g)) : PortBecomes o port (g (getMeshPort s port)) :=
  ⟨_, ho, getMeshPort_modMeshPort_self ..⟩

section Training

variable {partner grp tx rx : Nat} {gen5 : Bool} (on : meshOn s = true) (phase : s.up = true)
  (idle : (getMeshPort s port).isUp = false)

include on phase idle

theorem execMeshLinkTrain_tries : execMeshLinkTrain port partner grp gen5 tx rx s =
    match neighbour s.config s.config.node port with
    | none => .next (modMeshPort s port (fun x => { x with st := .edge }))
    | some n =>
      if partner ≠ n ∨ grp ≠ s.config.groupId then
        if (getMeshPort s port).st = .miswired then .next s
        else .next (linkEntry (modMeshPort s port (fun x => { x with st := .miswired, partner := partner })) port)
      else if (widthFor gen5 tx).1 = 0 ∨ (widthFor gen5 rx).1 = 0 then
        .next (modMeshPort s port (fun x => { x with st := .training, trainFails := satAdd 255 x.trainFails 1 }))
      else .next (portUp s port partner gen5 tx rx) :=
  if_neg (by simp [on, phase, idle])

theorem meshLinkTrain_edge (edge : neighbour s.config s.config.node port = none) :
    PortBecomes (execMeshLinkTrain port partner grp gen5 tx rx s) port { getMeshPort s port with st := .edge } :=
  portBecomes_modMeshPort (g := fun x => { x with st := .edge }) (by rw [execMeshLinkTrain_tries on phase idle, edge])

theorem meshLinkTrain_miswired (there : neighbour s.config s.config.node port = some n)
    (wrong : partner ≠ n ∨ grp ≠ s.config.groupId) : PortBecomes (execMeshLinkTrain port partner grp gen5 tx rx s) port
      (if (getMeshPort s port).st = .miswired then getMeshPort s port
      else { getMeshPort s port with st := .miswired, partner := partner }) := by
  rw [execMeshLinkTrain_tries on phase idle, there]
  dsimp only
  rw [if_pos wrong]
  split
  · exact ⟨s, rfl, rfl⟩
  · exact ⟨_, rfl, by rw [getMeshPort_linkEntry, getMeshPort_modMeshPort_self]⟩

theorem meshLinkTrain_fails (there : neighbour s.config s.config.node port = some partner)
    (narrow : (widthFor gen5 tx).1 = 0 ∨ (widthFor gen5 rx).1 = 0) :
    PortBecomes (execMeshLinkTrain port partner s.config.groupId gen5 tx rx s) port
      { getMeshPort s port with st := .training, trainFails := min 255 ((getMeshPort s port).trainFails + 1) } := by
  refine portBecomes_modMeshPort (g := fun x => { x with st := .training, trainFails := satAdd 255 x.trainFails 1 }) ?_
  rw [execMeshLinkTrain_tries on phase idle, there]
  exact (if_neg (by simp)).trans (if_pos narrow)

theorem meshLinkTrain_up (there : neighbour s.config s.config.node port = some partner)
    (sends : (widthFor gen5 tx).1 ≠ 0) (receives : (widthFor gen5 rx).1 ≠ 0) :
    execMeshLinkTrain port partner s.config.groupId gen5 tx rx s = .next (portUp s port partner gen5 tx rx) := by
  rw [execMeshLinkTrain_tries on phase idle, there]
  exact (if_neg (by simp)).trans (if_neg (not_or.mpr ⟨sends, receives⟩))

omit idle in
theorem meshTrainRetry_trains (waits : (getMeshPort s port).st = .down ∨ (getMeshPort s port).st = .training)
    (there : (neighbour s.config s.config.node port).isSome = true) (k : Nat) :
    PortBecomes (execMeshTrainRetry port k s) port { getMeshPort s port with
      st := .training,
      trainFails := if k = 0 then (getMeshPort s port).trainFails else min 255 ((getMeshPort s port).trainFails + 1) } :=
  portBecomes_modMeshPort
    (g := fun x => { x with st := .training, trainFails := if k = 0 then x.trainFails else satAdd 255 x.trainFails 1 })
    (if_pos (by simp [on, phase, waits, there]))

end Training

/-! ## A link in use (14 R483, R484, R486) -/

section InUse

variable {lane : Nat} {sending : Bool} (on : meshOn s = true) (isUp : (getMeshPort s port).isUp = true)

/-- The answer takes port `port` down and tells the group. -/
def GoesDown (s : State) (o : Host.Outcome State Fault Refusal) (port : Nat) (gone : Bool) : Prop :=
  ∃ t y, o = .next t ∧ getMeshPort t port = y ∧ y.st = .down ∧ y.txWidth = 0 ∧ y.rxWidth = 0 ∧
    (gone = true → y.neighbourLost = true) ∧ .notice s.config.node port 0 ∈ t.mesh.tx

theorem goesDown_linkLost {o : Host.Outcome State Fault Refusal} (ho : o = .next (linkLost t port gone))
    (config : t.config = s.config) : GoesDown s o port gone := by
  obtain ⟨st, tx, rx, lost, told⟩ := downWith_linkLost t port gone
  exact ⟨_, _, ho, rfl, st, tx, rx, lost, config ▸ told⟩

/-- What the lanes that work allow in one direction, before and after one more has failed. -/
def MeshPort.allows (x : MeshPort) (sending : Bool) : Nat × Nat :=
  widthFor x.gen5 (allLanes - if sending then x.txFailed else x.rxFailed)

include on isUp

theorem execMeshLaneFail_fails : execMeshLaneFail port sending lane s =
    let u := modMeshPort s port (MeshPort.laneFailed sending lane)
    let now := ((getMeshPort s port).laneFailed sending lane).allows sending
    if now.1 = 0 then .next (linkLost u port false)
    else if now.2 = ((getMeshPort s port).allows sending).2 then .next u
    else .next (narrowed u port sending now.1) := by
  rw [execMeshLaneFail_eq]
  cases sending <;> exact if_neg (by simp [on, isUp])

theorem meshLaneFail_lost (none : (((getMeshPort s port).laneFailed sending lane).allows sending).1 = 0) :
    GoesDown s (execMeshLaneFail port sending lane s) port false :=
  goesDown_linkLost ((execMeshLaneFail_fails on isUp).trans (if_pos none)) rfl

theorem meshLaneFail_same (some : (((getMeshPort s port).laneFailed sending lane).allows sending).1 ≠ 0)
    (same : (((getMeshPort s port).laneFailed sending lane).allows sending).2 = ((getMeshPort s port).allows sending).2) :
    PortBecomes (execMeshLaneFail port sending lane s) port ((getMeshPort s port).laneFailed sending lane) :=
  portBecomes_modMeshPort ((execMeshLaneFail_fails on isUp).trans ((if_neg some).trans (if_pos same)))

theorem meshLaneFail_narrows (some : (((getMeshPort s port).laneFailed sending lane).allows sending).1 ≠ 0)
    (fewer : (((getMeshPort s port).laneFailed sending lane).allows sending).2 ≠ ((getMeshPort s port).allows sending).2) :
    execMeshLaneFail port sending lane s = .next (narrowed (modMeshPort s port (MeshPort.laneFailed sending lane)) port sending
      (((getMeshPort s port).laneFailed sending lane).allows sending).1) :=
  (execMeshLaneFail_fails on isUp).trans ((if_neg some).trans (if_neg fewer))

theorem meshRetrainDone_sends (retrains : (getMeshPort s port).txRetraining = true) : ∃ t y,
    execMeshRetrainDone port true s = .next t ∧ getMeshPort t port = y ∧ y.txRetraining = false ∧
      y.txWidth = (getMeshPort s port).txWidth ∧ y.rxRetraining = (getMeshPort s port).rxRetraining := by
  have runs : execMeshRetrainDone port true s =
      .next (pumpPort (modMeshPort s port (fun x => { x with txRetraining := false })) port) :=
    (if_neg (by simp [on, isUp])).trans (if_pos (by simp [retrains]))
  have same := eq_of_unqueued ((onMesh_pumpPort (modMeshPort s port (fun x => { x with txRetraining := false })) port).ports port)
  rw [getMeshPort_modMeshPort_self] at same
  refine ⟨_, _, runs, rfl, ?_⟩
  rw [same]
  exact ⟨rfl, rfl, rfl⟩

theorem meshRetrainDone_receives (retrains : (getMeshPort s port).rxRetraining = true) :
    PortBecomes (execMeshRetrainDone port false s) port { getMeshPort s port with rxRetraining := false } :=
  portBecomes_modMeshPort (g := fun x => { x with rxRetraining := false })
    ((if_neg (by simp [on, isUp])).trans ((if_neg (by simp)).trans (if_pos (by simp [retrains]))))

theorem meshLinkLoss_down (gone : Bool) : GoesDown s (execMeshLinkLoss port gone s) port gone :=
  goesDown_linkLost (if_pos (by simp [on, isUp])) rfl

end InUse

/-! ## Announcements (14 R461, R462) -/

/-- An entry as an announcement leaves it. -/
def GnidEntry.announced (gnid gen ups : Nat) (e : GnidEntry) : GnidEntry :=
  { e with gnid := if gen = 5 then 0 else gnid, present := true, nd5 := decide (gen = 5), upPorts := ups, generation := gen }

theorem GnidEntry.announced_of_untwinned {x y : GnidEntry} {gnid gen ups : Nat}
    (same : y.untwinned = (x.announced gnid gen ups).untwinned) : y.present = true ∧ y.gnid = (if gen = 5 then 0 else gnid) ∧
      y.nd5 = decide (gen = 5) ∧ y.upPorts = ups ∧ y.generation = gen :=
  ⟨congrArg GnidEntry.present same, congrArg GnidEntry.gnid same, congrArg GnidEntry.nd5 same, congrArg GnidEntry.upPorts same,
    congrArg GnidEntry.generation same⟩

/-- The table as an announcement leaves it, before the twins are marked. -/
def announced (s : State) (node gnid gen ups : Nat) : State := modGnid (nodeJoins s node) node (GnidEntry.announced gnid gen ups)

theorem announced_only (s : State) (node gnid gen ups : Nat) : MeshOnly s (announced s node gnid gen ups) :=
  (nodeJoins_only s node).trans (onMesh_modGnid _ node _).only

theorem announced_entry (s : State) (node gnid gen ups : Nat) :
    ∃ e : GnidEntry, mapGet (announced s node gnid gen ups).mesh.gnids node = some (e.announced gnid gen ups) :=
  ⟨_, mapGet_mapUpd_self ..⟩

theorem GnidEntry.announced_gen6 {gen : Nat} (gen6 : gen ≠ 5) (gnid ups : Nat) (e : GnidEntry) :
    (e.announced gnid gen ups).nd5 = false ∧ (e.announced gnid gen ups).gnid = gnid :=
  ⟨decide_eq_false gen6, if_neg gen6⟩

/-- A 6th generation node that announces this node's GNID is its twin, and this node is that one's (14 R462). -/
theorem gnidTwin_of_same {e : GnidEntry} (other : n ≠ s.config.node) (entry : mapGet s.mesh.gnids n = some e)
    (present : e.present = true) (gen6 : e.nd5 = false) (same : e.gnid = s.config.gnid) :
    gnidTwin s n = true ∧ gnidTwin s s.config.node = true := by
  have found : getGnid s n = e := by rw [getGnid, mapGetD, entry]; rfl
  constructor
  · simp [gnidTwin, found, other, present, gen6, same]
  · simp only [gnidTwin, ↓reduceIte, BEq.rfl, Bool.true_or, Bool.true_and, Bool.or_eq_true, List.any_eq_true]
    exact .inl ⟨(n, e), mem_of_mapGet _ _ _ entry, by simp [other, present, gen6, same]⟩

theorem gnidAnnounce_enters {node gnid gen ups : Nat} (on : meshOn s = true) (isUp : (getMeshPort s port).isUp = true)
    (member : inGroup s.config node = true) (other : node ≠ s.config.node)
    (news : ¬((getGnid s node).present = true ∧ (getGnid s node).gnid = (if gen = 5 then 0 else gnid) ∧
      (getGnid s node).generation = gen ∧ (getGnid s node).upPorts = ups)) :
    execGnidAnnounce port node gnid gen ups s = .next (retree (meshSend (markTwins (announced s node gnid gen ups) port)
      (.announce gnid node gen ups))) := by
  unfold execGnidAnnounce
  simp only [beq_iff_eq]
  rw [if_neg (by simp [on, isUp, member, other]), if_neg (by simpa [and_assoc] using news)]
  rfl

theorem gnidAnnounce_answers {node gnid gen ups : Nat} (on : meshOn s = true) (isUp : (getMeshPort s port).isUp = true)
    (member : inGroup s.config node = true) (other : node ≠ s.config.node)
    (news : ¬((getGnid s node).present = true ∧ (getGnid s node).gnid = (if gen = 5 then 0 else gnid) ∧
      (getGnid s node).generation = gen ∧ (getGnid s node).upPorts = ups)) :
    ∃ t, execGnidAnnounce port node gnid gen ups s = .next t ∧ .announce gnid node gen ups ∈ t.mesh.tx ∧
      (getGnid t node).present = true ∧ (getGnid t node).gnid = (if gen = 5 then 0 else gnid) ∧
      (getGnid t node).nd5 = decide (gen = 5) ∧ (getGnid t node).upPorts = ups ∧ (getGnid t node).generation = gen ∧
      (gen ≠ 5 → gnid = s.config.gnid → (getGnid t node).dup = true ∧ (getGnid t s.config.node).dup = true) := by
  obtain ⟨u, hu⟩ : ∃ u, u = announced s node gnid gen ups := ⟨_, rfl⟩
  have config : u.config = s.config := by rw [hu, announced_only s node gnid gen ups]
  obtain ⟨e, entry⟩ : ∃ e : GnidEntry, mapGet u.mesh.gnids node = some (e.announced gnid gen ups) := hu ▸ announced_entry ..
  have found : getGnid u node = e.announced gnid gen ups := by
    rw [getGnid, mapGetD, entry]
    rfl
  have answer := gnidAnnounce_enters on isUp member other news
  rw [← hu] at answer
  have same : (getGnid (markTwins u port) node).untwinned = (e.announced gnid gen ups).untwinned := by
    rw [markTwins_entry, found]
  obtain ⟨present, theirGnid, nd5, upPorts, generation⟩ := GnidEntry.announced_of_untwinned same
  refine ⟨_, answer, (onMesh_retree _).tx _ (meshSend_mem_tx ..), ?_⟩
  rw [getGnid_retree, getGnid_retree, getGnid_meshSend, getGnid_meshSend]
  refine ⟨present, theirGnid, nd5, upPorts, generation, fun gen6 twin => ?_⟩
  have apart : node ≠ u.config.node := by rwa [config]
  obtain ⟨sixth, named⟩ := e.announced_gen6 gen6 gnid ups
  obtain ⟨theirs, ours⟩ := gnidTwin_of_same apart entry rfl sixth (by rw [named, twin, config])
  have marked : (getGnid (markTwins u port) node).dup = true := by
    rw [getGnid_markTwins, ownMarked_other apart entry, theirs]
  have own : (getGnid (markTwins u port) s.config.node).dup = true := by
    rw [getGnid_markTwins, ← config, ownMarked_own, ours]
  exact ⟨marked, own⟩

/-! ## The registration counter (14 R486 to R493) -/

theorem linkTimes_gen6 (here there : Stamps) : linkTimes false here there =
    (((here.sent : Int) + here.received - (there.received + there.sent)) / 2,
      ((here.received : Int) - here.sent - ((there.sent : Int) - there.received)) / 2) := rfl

theorem correctTime_steps {d : Int} (steps : s.mesh.joinedBefore = false ∧ d < -8000) :
    correctTime s d = { s with
      mesh := { s.mesh with offset := d, joinedBefore := true },
      now := (s.now + (-d).toNat / 8) % 2 ^ 64 } :=
  if_pos (by simp [steps.1, steps.2])

/-- The state of a node that has joined, before its rate is chosen. -/
def joined (s : State) (d : Int) : State := { s with mesh := { s.mesh with offset := d, joinedBefore := true } }

theorem correctTime_follows {d : Int} (follows : ¬(s.mesh.joinedBefore = false ∧ d < -8000)) : correctTime s d =
    { (openRate (joined s d) d).1 with mesh := { (openRate (joined s d) d).1.mesh with rate := (openRate (joined s d) d).2 } } :=
  if_neg (by simpa using follows)

theorem openRate_bounded (s : State) (d : Int) : (openRate s d).2 ≤ rateBound s.mesh.regState ∧
    -(openRate s d).2 ≤ rateBound s.mesh.regState ∧ (d = 0 → (openRate s d).2 = 0) ∧ (0 < d → (openRate s d).2 < 0) ∧
    (d < 0 → 0 < (openRate s d).2) := by
  have positive : 0 < rateBound s.mesh.regState := by
    unfold rateBound
    split <;> decide
  have drawn := Nat.mod_lt (Config.freeNat s.free) positive
  unfold openRate
  dsimp only
  split
  · omega
  · split <;> omega

/-- A port with the delay and the offset of an exchange (14 R489). -/
def MeshPort.measured (r : Int × Int) (x : MeshPort) : MeshPort := { x with delay := r.2, offset := r.1 }

theorem registrationExchange_answers (on : meshOn s = true) (isUp : (getMeshPort s port).isUp = true) (here there : Stamps) :
    execRegistrationExchange port here there s =
      .next (if s.mesh.parent ≠ port ∨ s.mesh.regState = .free then
          modMeshPort s port (MeshPort.measured (linkTimes (getMeshPort s port).gen5 here there))
        else correctTime (modMeshPort s port (MeshPort.measured (linkTimes (getMeshPort s port).gen5 here there)))
          (linkTimes (getMeshPort s port).gen5 here there).1) :=
  if_neg (by simp [on, isUp])

/-- What an exchange with offset `d` leaves of the clock (14 R488 to R492; log 127). -/
structure Corrected (s : State) (port : Nat) (d : Int) (t : State) : Prop where
  apart : s.mesh.parent ≠ port ∨ s.mesh.regState = .free → t.now = s.now ∧ t.mesh.rate = s.mesh.rate
  follows : s.mesh.parent = port → s.mesh.regState ≠ .free → t.mesh.offset = d ∧ t.mesh.joinedBefore = true ∧
    (s.mesh.joinedBefore = false ∧ d < -8000 → t.now = (s.now + (-d).toNat / 8) % 2 ^ 64) ∧
    (¬(s.mesh.joinedBefore = false ∧ d < -8000) → t.now = s.now ∧ t.mesh.rate ≤ rateBound s.mesh.regState ∧
      -t.mesh.rate ≤ rateBound s.mesh.regState ∧ (d = 0 → t.mesh.rate = 0) ∧ (0 < d → t.mesh.rate < 0) ∧
      (d < 0 → 0 < t.mesh.rate))

theorem correctTime_ports (s : State) (d : Int) : (correctTime s d).mesh.ports = s.mesh.ports := by
  by_cases steps : s.mesh.joinedBefore = false ∧ d < -8000
  · rw [correctTime_steps steps]
  · rw [correctTime_follows steps]
    rfl

theorem corrected_correctTime (d : Int) (isParent : s.mesh.parent = port) (joins : s.mesh.regState ≠ .free) :
    Corrected s port d (correctTime s d) := by
  refine ⟨fun h => absurd h (by simp [isParent, joins]), fun _ _ => ?_⟩
  by_cases steps : s.mesh.joinedBefore = false ∧ d < -8000
  · rw [correctTime_steps steps]
    exact ⟨rfl, rfl, fun _ => rfl, fun h => absurd steps h⟩
  · rw [correctTime_follows steps]
    exact ⟨rfl, rfl, fun h => absurd h steps, fun _ => ⟨rfl, openRate_bounded (joined s d) d⟩⟩

theorem registrationExchange_corrects (on : meshOn s = true) (isUp : (getMeshPort s port).isUp = true) (here there : Stamps) :
    ∃ t, execRegistrationExchange port here there s = .next t ∧
      getMeshPort t port = (getMeshPort s port).measured (linkTimes (getMeshPort s port).gen5 here there) ∧
      Corrected s port (linkTimes (getMeshPort s port).gen5 here there).1 t := by
  refine ⟨_, registrationExchange_answers on isUp here there, ?_⟩
  split
  · rename_i apart
    exact ⟨getMeshPort_modMeshPort_self .., fun _ => ⟨rfl, rfl⟩, fun isParent joins => absurd apart (by simp [isParent, joins])⟩
  · rename_i follows
    obtain ⟨isParent, joins⟩ := not_or.mp follows
    obtain ⟨apart, parent⟩ := corrected_correctTime (s := modMeshPort s port (MeshPort.measured (linkTimes (getMeshPort s port).gen5 here there)))
      (linkTimes (getMeshPort s port).gen5 here there).1 (not_not.mp isParent) joins
    exact ⟨by rw [getMeshPort_congr (correctTime_ports ..), getMeshPort_modMeshPort_self], apart, parent⟩

theorem referenceLoss_answers (on : meshOn s = true) (joins : s.mesh.regState ≠ .free) (other : s.mesh.ref ≠ s.config.node) :
    ∃ t, execReferenceLoss s = .next t ∧ t.now = s.now ∧ (getGnid t s.mesh.ref).present = false ∧ t.mesh.ref = refNode t := by
  have gone : execReferenceLoss s = .next (retree (nodeGone s s.mesh.ref s.mesh.parent)) := if_pos (by simp [on, joins, other])
  exact ⟨_, gone, by rw [retree_now, (widthsKept_nodeGone ..).now], by rw [getGnid_retree, nodeGone_absent], retree_ref _⟩

/-! ## Notices (14 R486) -/

theorem noticeTaken_width {node width : Nat} (near : distance node s.config.node ≤ 2) :
    mapGet (noticeTaken s node port width).mesh.linkWidths (node * 8 + port) = some width := by
  unfold noticeTaken
  simp only [near, if_true]
  split <;> exact mapGet_mapSet_self ..

theorem linkStateNotice_news {node width : Nat} (on : meshOn s = true) (member : inGroup s.config node = true)
    (other : node ≠ s.config.node) (news : sendWidth s node port ≠ width) :
    ∃ t, execLinkStateNotice node port width s = .next t ∧ .notice node port width ∈ t.mesh.tx ∧
      (distance node s.config.node ≤ 2 → mapGet t.mesh.linkWidths (node * 8 + port) = some width) := by
  obtain ⟨t, ht, -, kept, tx⟩ := afterNotice_next (noticeTaken s node port width) node port width
  refine ⟨t, ?_, tx _ (meshSend_mem_tx ..), fun near => ?_⟩
  · rw [execLinkStateNotice_eq]
    exact (if_neg (by simp [on, member, other, news])).trans ht
  · rw [kept.widths, noticeTaken_width near]

theorem linkStateNotice_old {node width : Nat} (known : sendWidth s node port = width) :
    execLinkStateNotice node port width s = .next s := by
  rw [execLinkStateNotice_eq]
  exact if_pos (by simp [known])

/-- Settles O47. The rate at which the counter follows is open in the model (notes/assumptions/127.md; the offset's sign is
notes/assumptions/89.md). -/
theorem meshLinksAndRegistrationFollowTheirRules : Obligations.MeshLinksAndRegistrationFollowTheirRules := by
  unfold Obligations.MeshLinksAndRegistrationFollowTheirRules
  refine ⟨fun c s t row ht => ?_, fun port s on phase idle => ?_, fun port s on isUp => ?_, fun node port width s on member other => ?_,
    fun s on => ?_⟩
  · obtain ⟨mem, lines, dir, txns, galleys, platens, stackTab⟩ := linkRow_kept row t ht
    exact ⟨⟨mem, lines, dir, txns, galleys, platens, stackTab⟩, fun lanes link => linkRow_only row lanes link t ht⟩
  · refine ⟨fun partner grp gen5 tx rx => ⟨meshLinkTrain_edge on phase idle, fun n there =>
      ⟨meshLinkTrain_miswired on phase idle there, ?_⟩⟩, fun k waits there => meshTrainRetry_trains on phase waits there k⟩
    rintro rfl rfl
    refine ⟨meshLinkTrain_fails on phase idle there, fun sends receives => ?_⟩
    obtain ⟨st, txWidth, rxWidth, partner, gen⟩ := portUp_port s port partner gen5 tx rx
    exact ⟨_, _, meshLinkTrain_up on phase idle there sends receives, rfl, st, txWidth, rxWidth, partner, gen, portUp_told ..⟩
  · refine ⟨fun lane => ⟨meshLaneFail_lost (sending := true) on isUp, meshLaneFail_same (sending := true) on isUp,
      fun some fewer => ?_⟩, fun lane => ⟨meshLaneFail_lost (sending := false) on isUp,
      meshLaneFail_same (sending := false) on isUp, fun some fewer => ?_⟩, meshRetrainDone_sends on isUp,
      meshRetrainDone_receives on isUp, meshLinkLoss_down on isUp, fun node gnid gen ups member other =>
      gnidAnnounce_answers on isUp member other, fun here there => ⟨fun gen6 => by rw [gen6, linkTimes_gen6], ?_⟩⟩
    · have same := eq_of_unqueued (narrowed_sending (modMeshPort s port (MeshPort.laneFailed true lane)) port
        (((getMeshPort s port).laneFailed true lane).allows true).1)
      rw [getMeshPort_modMeshPort_self] at same
      exact ⟨_, _, meshLaneFail_narrows (sending := true) on isUp some fewer, rfl, same⟩
    · refine ⟨_, meshLaneFail_narrows (sending := false) on isUp some fewer, ?_⟩
      rw [narrowed_receiving, getMeshPort_modMeshPort_self]
      rfl
    · obtain ⟨t, ht, timed, apart, parent⟩ := registrationExchange_corrects on isUp here there
      exact ⟨t, ht, timed, apart, parent⟩
  · exact ⟨linkStateNotice_old, linkStateNotice_news on member other⟩
  · exact ⟨fun waits => if_pos (by simpa [on] using waits), referenceLoss_answers on⟩

end Sys2Proof.Machine
end
